-- ==== Sys2Proof/Word.lean ====
section
/-! DEFINITION. The word types of the Farig and their plainest views (R3: bit 0 is the least significant bit). -/

namespace Sys2Proof

abbrev Byte := BitVec 8
abbrev Word16 := BitVec 16
abbrev Word32 := BitVec 32
abbrev Word64 := BitVec 64

/-- Node coordinates as GBL_COORD bits [19:0]: site [19:16], hall [15:12], group [11:6], node [5:0] (R51).
The same twenty bits are FPA bits [63:44]. -/
abbrev Coord := BitVec 20

/-- One cell of near or far memory: its local offset and its byte. -/
abbrev MemCell := Nat × Byte

end Sys2Proof
end

