-- ==== Sys2Proof/Syntax/Types.lean ====
section
/-! DEFINITION. What a command carries: the operand types of the commands of
spec/opcode_table.json (the commands themselves are `Instr` in Sys2Proof/Syntax.lean). -/

namespace Sys2Proof

/-- A PCIe function of a host port: 0 is the PF, 1 to 255 are VFs (R394). Port 0 is A, port 1 is B. -/
structure Func where
  port : Fin 2
  fn : Fin 256
deriving DecidableEq, Repr

/-- What a Pacing Wheel entry is of (R206): an end, or a RAW_SEND queue. -/
inductive WheelOwner where
  | conn (index : Nat)
  | raw (q : Nat)
deriving DecidableEq, Repr

/-- How a read of host or peer memory, or an ATS Translation Request, ended (R402). -/
inductive ReadResult where
  | ok (data : List Byte)
  | unsupported        -- Unsupported Request or Completer Abort
  | timeout            -- no completion within the completion timeout
deriving DecidableEq, Repr

/-- Packet types (R158). -/
inductive PType where
  | data | readReq | readResp | atomicReq | atomicResp | ack | nak | ctrl | probe | rsvd
deriving DecidableEq, Repr

/-- ADDR extension (R159). -/
structure AddrExt where
  fpa : Word64
  key : Word32
  msgLen : Nat
  pktIndex : Nat
deriving DecidableEq, Repr

/-- ATOMIC extension: in a request `flag` is compare-swap, in a response it is Swapped (R159). -/
structure AtomicExt where
  flag : Bool
  opA : Word64
  opB : Word64
deriving DecidableEq, Repr

/-- NAK extension (R159, R183). -/
structure NakExt where
  code : Nat
  status : Nat
  psn : Word32
  retryUs : Nat
deriving DecidableEq, Repr

/-- CTRL extension (R159, R164). -/
structure CtrlExt where
  subtype : Nat
  seq : Word32
deriving DecidableEq, Repr

/-- COLL extension (R236). -/
structure CollExt where
  op : Nat
  stage : Nat
  seq : Word32
  src : Nat
  chunk : Nat
  slot : Nat
  sig : Option Word64
deriving DecidableEq, Repr

/-- A Cyquin packet: base header, extensions and payload (R153, R156, R159). `fmtBad` stands for the byte-level
failures of R159 that the record's other fields cannot show (a rsvd field not zero, sizes that do not sum, an
unknown extension). Where there is a CIPHER extension, `tag` is the GCM tag, and the payload of a packet on its way is encrypted. -/
structure Packet where
  version : Nat := 1
  ptype : PType
  last : Bool := false
  ackreq : Bool := false
  epoch : Bool := false
  ord : Bool := false
  retx : Bool := false
  ece : Bool := false
  solicit : Bool := false
  tenant : BitVec 24 := 0
  destIndex : BitVec 24 := 0
  destInc : BitVec 8 := 0
  psn : Word32 := 0
  msn : BitVec 24 := 0
  sendStamp : Word32 := 0
  echoStamp : Word32 := 0
  ackPsn : Word32 := 0
  addr : Option AddrExt := none
  lace : Option (BitVec 18) := none
  atomic : Option AtomicExt := none
  sack : List (Nat × Nat) := []
  nak : Option NakExt := none
  ctrl : Option CtrlExt := none
  cipher : Option Word64 := none
  coll : Option CollExt := none
  payload : List Byte := []
  fmtBad : Bool := false
  tag : BitVec 128 := 0
deriving DecidableEq, Repr

/-- A packet as it arrives: the port (none for loopback, R52), the addresses, and what the checks of the UDP checksum and the CRC-32C made
of the frame's bytes (`Machine.readFrame`);
`invBad` that the inverse check of the receiving cipher engine finds a mismatch on it (R429). -/
structure Arrival where
  port : Option (Fin 10)
  src : BitVec 128
  dst : BitVec 128
  srcMac : BitVec 48 := 0
  udpDst : Nat
  csumOk : Bool := true
  crcOk : Bool := true
  ce : Bool := false
  invBad : Bool := false
  frame : List Byte := []           -- the frame's bytes without its FCS, as a raw queue receives it
  transferUe : Option Nat := none   -- byte of the payload whose codeword the transfer to memory makes uncorrectable (R14)
  peerTag : BitVec 24 := 0          -- tag of the slice a CONNECT_REQ or RE_HOME is sent for, which its header does not carry (log entry 15)
  pkt : Packet
deriving DecidableEq, Repr

/-- Guarded-block trailer as it arrives (R439). -/
structure Trailer where
  alive : Word32
  length : Nat
  tflags : BitVec 8
  check : Word64
deriving DecidableEq, Repr

/-- One residue check of a granule as its residue unit makes it (R266): the integer significands that enter a multiplier or an adder and
what the datapath puts out, or the parity predicted for a shifter, normalizer or rounder and the one found. -/
inductive ResidueCheck where
  | product (a b out : Int)
  | sum (terms : List Int) (out : Int)
  | parity (predicted found : Bool)
deriving DecidableEq, Repr

structure VlanTag where
  vid : Nat
  pcp : Nat
deriving DecidableEq, Repr

/-- What an arriving Ethernet frame holds above its addresses and tags (R320). -/
inductive FrameKind where
  | pfc (mask : Nat) (quanta : List Nat)
  | pause8023x
  | weltControl
  | neighborSolicit (target : BitVec 128)
  | udp                                   -- an IPv6 UDP frame, whose datagram is read from the frame's bytes
  | ipv6 (nextHeader : Nat)
  | other
deriving DecidableEq, Repr

/-- An arriving frame (R320). `bytes` is the frame without FCS, as a raw queue would receive it. -/
structure RxFrame where
  fcsOk : Bool
  length : Nat
  weltTag : Option (Nat × Word32) := none
  tags : List VlanTag := []
  etherType : Nat
  kind : FrameKind
  bytes : List Byte := []
  transferUe : Option Nat := none   -- byte whose codeword the transfer to memory makes uncorrectable (R14)
deriving DecidableEq, Repr

/-- Frame filter fields (R321). -/
structure FilterRec where
  portMask : Nat
  vlanId : Nat
  vlanMask : Nat
  pcp : Nat
  pcpMask : Nat
  etherType : Nat
  etEnable : Bool
  nextHeader : Nat
  nhEnable : Bool
  udpDst : Nat
  udEnable : Bool
  queue : Nat
  rsvdZero : Bool := true
  valid : Bool := true
deriving DecidableEq, Repr

/-- Route Table entry (R344). -/
structure RouteEntry where
  pfx : Word64 := 0
  mac : BitVec 48 := 0
  portSet : Nat := 0
  valid : Bool := false
  entropyBase : Nat := 0
  entropyLog : Nat := 0
  hopLimit : Nat := 0
  rsvdZero : Bool := true
deriving DecidableEq, Repr

/-- Chain Map record (R359): Dir 1 east, 2 west, 0 own. -/
structure ChainRec where
  valid : Bool := false
  pos : Nat := 0
  dir : Nat := 0
  rsvdZero : Bool := true
deriving DecidableEq, Repr

/-- Items of an RT_LOAD or a ROUTE_WRITE (R355, R356). -/
inductive RouteItems where
  | entries (first : Nat) (items : List RouteEntry)
  | chain (first : Nat) (items : List ChainRec)
deriving DecidableEq, Repr

/-- One request of a mailbox ring (R467): its header's fields, and the bytes of its body. -/
structure MbxRequest where
  major : Nat
  minor : Nat
  opcode : Nat
  length : Nat
  tag : Word32
  slice : Nat
  crc : Word32
  body : List (BitVec 8) := []
deriving DecidableEq, Repr

structure QueueParams where
  kind : Nat
  logEntries : Nat
  entrySize : Nat := 64
  ringOffset : Nat
  addressSpace : Nat
  cq : Nat := 0
  trafficClass : Nat := 0
  cluster : Nat := 255
  vector : Nat := 0
  modCount : Nat := 1
  modTimeUs : Nat := 0
deriving DecidableEq, Repr

structure RegionParams where
  tier : Nat
  start : Nat
  length : Nat
  target : Nat
  perm : Nat
  anyAs : Bool
  pinned : Bool
  addressSpace : Nat
  pathTag : Nat
deriving DecidableEq, Repr

structure ListenParams where
  listenId : Word32
  addressSpace : Nat
  trafficClass : Nat
  mode : Nat
  payloadLog : Nat
  sendSlot : Nat
  recvSlot : Nat
  cq : Nat
deriving DecidableEq, Repr

structure ConnParams where
  peer : Coord
  listenId : Word32
  mode : Nat
  trafficClass : Nat
  payloadLog : Nat
  stripes : Nat
  sendSlot : Nat
  recvSlot : Nat
  addressSpace : Nat
  contextRegion : Nat
deriving DecidableEq, Repr

/-- CONNECT_REQ body (R161). -/
structure ConnectReqBody where
  initIndex : BitVec 24
  initInc : BitVec 8
  listenId : Word32
  initPsn : Word32
  mode : Nat
  trafficClass : Nat
  payloadLog : Nat
  stripes : Nat
  encrypted : Bool
deriving DecidableEq, Repr

structure GroupParams where
  name : Word64
  count : Nat
  rank : Nat
  tableOffset : Nat
  algorithms : Nat
  trafficClass : Nat
  chunkKiB : Nat
  depth : Nat
  flags : Nat
  flagBase : Nat
  flagCount : Nat
  watchdogMs : Nat
  crossFormat : Nat
  crossResidual : Nat
  addressSpace : Nat
deriving DecidableEq, Repr

structure EyeletParams where
  func : Func
  granule : Nat
  target : Word64
  addressSpace : Nat
  requesterId : Word16
  requesterMask : Word16
  read : Bool
  write : Bool
  conn : Nat
  key : Word32
deriving DecidableEq, Repr

/-- A Type 3 device found behind a CXL root port (R308). -/
structure CxlDevice where
  serial : Word64
  gib : Nat
  downstream : Nat
deriving DecidableEq, Repr

/-- The slot that a key command names: its kind (R412): 0 guard, 1 StreamSend, 2 StreamRecv, any other unknown; its number; and the
command's rsvd field (R420). -/
structure KeyTarget where
  kind : Nat
  slot : Nat
  rsvd : Nat
deriving DecidableEq, Repr

/-- Requests to the SPDM responder (R459). `finish` says whether the requester authenticated, and with which root;
`ideKm` is the completion of an IDE_KM key exchange for a stream, with the RID range and the address ranges it covers and its key
(R409). -/
inductive SpdmReq where
  | getVersion
  | getCapabilities
  | negotiateAlgorithms
  | getDigests
  | getCertificate
  | challenge
  | getMeasurements (mask : Word16)
  | keyExchange
  | finish (root : Option (BitVec 384))
  | heartbeat
  | keyUpdate
  | endSession
  | chunkSend
  | chunkGet
  | ideKm (stream : Fin 4) (rids : Nat × Nat) (ranges : List (Nat × Nat)) (key : List Byte)
  | vendorOther
  | unsupported (code : Nat)
deriving DecidableEq, Repr

/-- PLDM requests (R527): the type, and a read of a sensor or a write of the effecter for type 2. -/
inductive PldmReq where
  | base
  | readSensor (id : Nat)
  | fru
  | firmwareUpdate (image : List Byte) (kind : Nat)
  | other (type : Nat)
deriving DecidableEq, Repr

/-! ## The image of a slice (R385) -/

/-- A queue context. `groupSlot` is the BAR2 slot of its group. -/
structure SavedQueue where
  number : Nat
  params : QueueParams
  enable : Bool
  state : Nat
  lastStatus : Nat
  head : Word32
  doorbell : Word32
  armed : Option Nat
  groupSlot : Nat
deriving DecidableEq, Repr

/-- An incomplete message of a receive window: the packets placed, and the last PSNs held, by member of the set. -/
structure SavedMsg where
  msn : BitVec 24
  total : Nat
  placed : List Nat
  heldLast : List (Nat × Word32)
  lace : Option Nat
  offset : Nat
  refused : Bool
deriving DecidableEq, Repr

/-- An end's context, with its receive window and incomplete messages. `state` is 0 Connecting, 1 Open, 2 Closing, 3 Failed, `code` the code
of a Failed end, and
`contextRegion` counts from the start of the slice's segment. -/
structure SavedEnd where
  index : Nat
  incarnation : BitVec 8
  state : Nat
  code : Nat
  fenced : Bool
  peer : Coord
  peerIndex : BitVec 24
  peerInc : BitVec 8
  listenId : Word32
  ordered : Bool
  trafficClass : Nat
  payloadLog : Nat
  stripes : Nat
  stripeFirst : Nat
  addressSpace : Nat
  contextRegion : Option Nat
  initPsn : Word32
  nextPsn : Word32
  nextMsn : BitVec 24
  expect : Word32
  received : List Word32
  msgs : List SavedMsg
  atomics : List (Word32 × Word64 × Bool)
  window : Nat
  srtt : Nat
  rttVar : Nat
deriving DecidableEq, Repr

/-- A Range Map entry with its key; its slot counts from the start of the slice's segment. -/
structure SavedRegion where
  slot : Nat
  params : RegionParams
  key : Word32
  incarnation : BitVec 8
  revoking : Bool := false
deriving DecidableEq, Repr

/-- An image. `oldCoord` are the coordinates of the Farig that wrote it, and `crc` its CRC-64. -/
structure SliceImage where
  crc : Word64 := 0
  contractMajor : Nat
  oldCoord : Coord
  tenant : BitVec 24
  lace : List (Nat × Word64)
  queues : List SavedQueue
  ends : List SavedEnd
  regions : List SavedRegion
deriving DecidableEq, Repr

end Sys2Proof
end

