-- ==== Sys2Proof/Syntax.lean ====
section
/-! DEFINITION. The commands of the block: one constructor of `Instr` for each row of spec/opcode_table.json, in
the table's order. An operand names what the command acts on and what comes with it from outside (register values,
arriving packets, completions, pin levels, sensor readings). -/

namespace Sys2Proof

inductive Instr where
  -- queues (05)
  | qdbDoorbell (f : Func) (q : Nat) (count : Word32)
  | completionDoorbell (f : Func) (q : Nat) (count : Word32) (arm : Bool)
  | qdbPush (f : Func) (q : Nat) (bytes : List Byte)
  | queueEnable (f : Func) (q : Nat)
  | queueDisable (f : Func) (q : Nat)
  | queueResume (f : Func) (q : Nat)
  | descriptorFetch (q : Nat)
  | descriptorArrival (q : Nat) (count : Word32) (res : ReadResult)
  | descriptorRefetch (q : Nat) (count : Word32)
  | descriptorStart (q : Nat)
  | completionDelivery (q : Nat)
  | completionRecord (cq : Nat)
  | eventRecord (slice : Fin 512)
  | msixModerationTimer (q : Nat)
  | msixUnmask (f : Func) (vector : Option Nat)
  -- opcodes: the started descriptor `count` of queue `q`
  | nop (q : Nat) (count : Word32)
  | wait (q : Nat) (count : Word32)
  | waitRelease (q : Nat)
  | waitDeadline (q : Nat)
  | waitPoll (q : Nat)
  | laceAdd (q : Nat) (count : Word32)
  | laceCounterChange
  | slcLaceValWrite (f : Func) (slice : Fin 512) (value : Word64)
  | write (q : Nat) (count : Word32)
  | writeInc (q : Nat) (count : Word32)
  | read (q : Nat) (count : Word32)
  | readSegmentSend (q : Nat) (count : Word32)
  | fetchAdd (q : Nat) (count : Word32)
  | cmpSwap (q : Nat) (count : Word32)
  | copy (q : Nat) (count : Word32)
  | copyUnitDone (q : Nat) (count : Word32) (unit : Nat) (src : ReadResult)
  | scan (q : Nat) (count : Word32)
  | coll (q : Nat) (count : Word32)
  | quant (q : Nat) (count : Word32)
  | lowrank (q : Nat) (count : Word32)
  | lowrankStep (q : Nat) (count : Word32) (host : List MemCell)
  | optstep (q : Nat) (count : Word32)
  | ckpt (q : Nat) (count : Word32)
  | restore (q : Nat) (count : Word32)
  | rawSend (q : Nat) (count : Word32)
  | rawRecv (q : Nat) (count : Word32)
  -- services and arithmetic (10, 11)
  | serviceStart
  | servicePiece (q : Nat) (count : Word32) (piece : Nat) (host : List MemCell)
  | gatePoll (cluster : Fin 8) (host : List MemCell)
  | gateDeadline (q : Nat) (count : Word32)
  | reductionGranule (cluster : Fin 8) (unit : Fin 4) (checks : List ResidueCheck)
  | gatherMultiplyBlock (group : Nat) (block : Nat) (cluster : Fin 8) (checks : List (Nat × ResidueCheck))
  -- arriving frames and packets (07, 13)
  | frameReceive (port : Fin 10) (frame : RxFrame)
  | data (a : Arrival)
  | readReq (a : Arrival)
  | readResp (a : Arrival)
  | atomicReq (a : Arrival)
  | atomicResp (a : Arrival)
  | ack (a : Arrival)
  | nak (a : Arrival)
  | probe (a : Arrival)
  | ackRecord (cluster : Fin 8)
  | ackDelayTimer (conn : BitVec 24)
  | retransmitTimer (conn : BitVec 24)
  | nakRetryTimer (conn : BitVec 24) (psn : Word32)
  | pacingWheelVisit (entry : WheelOwner) (cipherMismatches : List Nat)
  | egressFrameSelect (port : Fin 10)
  | throttleEval (port : Fin 10)
  | contextFetchDone (conn : BitVec 24) (res : ReadResult)
  | evictionCommit (conn : BitVec 24)
  | goneExpiry (conn : BitVec 24)
  | connectReq (a : Arrival) (body : ConnectReqBody)
  | connectAck (a : Arrival) (accIndex : BitVec 24) (accInc : BitVec 8) (listenId : Word32) (accPsn : Word32)
  | connectRefuse (a : Arrival) (initIndex : BitVec 24) (initInc : BitVec 8) (listenId : Word32) (status reason : Nat)
  | ctrlRepeatTimer (seq : Word32)
  | ctrlAck (a : Arrival) (seq : Word32) (node : Bool)
  | close (a : Arrival) (sIndex : BitVec 24) (sInc : BitVec 8) (rIndex : BitVec 24) (rInc : BitVec 8)
  | closeAck (a : Arrival) (sIndex : BitVec 24) (sInc : BitVec 8) (rIndex : BitVec 24) (rInc : BitVec 8)
  | pause (a : Arrival) (pauseUs : Nat) (serial : Word64)
  | resume (a : Arrival) (serial : Word64) (aborted : Bool)
  | pauseExpiry (peer : Coord)
  | sbtFeedSend
  | sbtFeed (a : Arrival) (rtts : List Nat) (t : Trailer)
  -- collectives (09)
  | groupReg (a : Arrival) (name : Word64) (count rank : Nat) (dereg : Bool) (digest : Word64) (t : Trailer)
  | groupRegAns (a : Arrival) (name : Word64) (status : Nat) (epoch : Word32) (t : Trailer)
  | epoch (a : Arrival) (name : Word64) (epoch : Word32) (t : Trailer)
  | hsUp (a : Arrival) (seq sig : Word64) (mism : Bool) (rank : Nat)
  | hsDown (a : Arrival) (seq : Word64) (mism : Bool) (rank : Nat)
  | hsCount (a : Arrival) (seq sig count : Word64)
  | credit (a : Arrival) (seq : Word64) (stage credits slot : Nat)
  | mismatch (a : Arrival) (seq : Word64) (rank : Nat)
  | abort (a : Arrival) (seq : Word64) (status rank : Nat)
  | collWatchdog (group : Nat)
  -- routing and re-homing (14, 15, 17)
  | rtBegin (a : Arrival) (epoch mgrEpoch roleEpoch : Word32) (t : Trailer)
  | rtBeginAck (a : Arrival) (epoch : Word32) (full : Bool) (t : Trailer)
  | rtLoad (a : Arrival) (epoch : Word32) (items : RouteItems) (t : Trailer)
  | rtCommit (a : Arrival) (epoch : Word32) (crc : Word64) (t : Trailer)
  | rtReady (a : Arrival) (epoch : Word32) (status : Nat) (t : Trailer)
  | rtFlip (a : Arrival) (epoch : Word32) (t : Trailer)
  | rtFlipAck (a : Arrival) (epoch : Word32) (t : Trailer)
  | rtAbort (a : Arrival) (epoch : Word32) (t : Trailer)
  | drainIntervalEnd
  | reHome (a : Arrival) (rIndex : BitVec 24) (rInc : BitVec 8) (oldCoord : Coord) (mIndex : BitVec 24) (oldInc : BitVec 8) (newCoord : Coord) (newInc : BitVec 8)
  | reHomeAck (a : Arrival) (rIndex : BitVec 24) (rInc : BitVec 8)
  | rekey (a : Arrival) (keyId : Word32)
  | rekeyAck (a : Arrival) (status : Nat)
  -- translation, revocation, Eyelet (03, 04, 06)
  | atsCompletion (id : Nat) (pages : List (Nat × Nat × Bool × Bool)) (res : ReadResult)
  | atsInvalidate (f : Func) (pasid : Option (BitVec 20)) (iova length : Nat)
  | pageResponse (f : Func) (prg : Nat) (code : Nat)
  | faultWaitDeadline (waiter : Nat)
  | atsEnableClear (f : Func)
  | revokeDrainDone (slot : Nat)
  | revokeRecordExpiry
  | flushReadCompletion (id : Nat) (res : ReadResult)
  | eyeletLoad (f : Func) (requester : Word16) (offset length : Nat)
  | eyeletStore (f : Func) (requester : Word16) (offset : Nat) (bytes : List Byte)
  | eyeletLoadLimit (id : Nat)
  -- memory (12)
  | scrubBurst (codewords : Nat)
  | memScrubCtrlWrite (f : Func) (value : Word32)
  | memErrlogData1Read (f : Func)
  | farAccessTimeout (id : Nat)
  | cxlLinkDown (port : Fin 2)
  | cxlLinkUp (port : Fin 2) (lanes : Nat) (devices : List CxlDevice)
  -- ports (13)
  | linkHit (port : Fin 10)
  | linkDown (port : Fin 10)
  | linkUp (port : Fin 10) (interface : Nat) (laneMap : Nat) (polarity : Nat)
  | autonegTimeout (port : Fin 10)
  | interfaceWrite (f : Func) (port : Fin 10) (value : Word32)
  | retrain (f : Func) (port : Fin 10)
  | forceDown (f : Func) (port : Fin 10) (on : Bool)
  | pfcFrame (port : Fin 10) (mask : Nat) (quanta : List Nat)
  | pfcPauseExpiry (port : Fin 10) (priority : Fin 8)
  | pfcRefreshTimer (port : Fin 10) (priority : Fin 8)
  | hello (port : Fin 10) (coord : Coord) (peerPort : Nat) (weltEnable : Bool) (sendStamp echoStamp nonce : Word64)
  | helloTimer (port : Fin 10)
  | weltHelloTimeout (port : Fin 10)
  | status (port : Fin 10) (ackSeqs : List Word32) (credits : List Word32)
  | statusTimer (port : Fin 10)
  | weltNak (port : Fin 10) (lane : Fin 4) (seq : Word32)
  | weltResendTimer (port : Fin 10) (lane : Fin 4)
  | weltGiveUp (port : Fin 10)
  | time (port : Fin 10) (t1 t1p t2p : Nat)
  | timeSendTimer (port : Fin 10)
  | bypassReqPin (pin : Fin 8) (level : Bool)
  | bypassDrainDone
  | bypassSwitchSettled
  | memArbCommit (f : Func)
  | prtSchedCommit (f : Func) (port : Fin 10)
  -- mailboxes (20)
  | mbxDoorbell (f : Func) (slice : Fin 512) (count : Word32) (ok : Bool) (reqs : List MbxRequest)
  | mbxEnable (f : Func) (slice : Fin 512) (value : Word32)
  | mbxResponse (slice : Fin 512) (ok : Bool)
  | mbxInfo (slice : Fin 512) (tag : Word32)
  | lastWrite (slice : Fin 512) (tag : Word32) (slot : Bool) (offset : Nat) (buffer : ReadResult) (crc : Word32)
  | lastCheck (slice : Fin 512) (tag : Word32)
  | lastActivate (slice : Fin 512) (tag : Word32)
  | lastPauseStart
  | lastResume
  | roleSet (slice : Fin 512) (tag : Word32) (role : Nat) (epoch : Word32)
  | fwBegin (slice : Fin 512) (tag : Word32) (kind length : Nat)
  | fwWrite (slice : Fin 512) (tag : Word32) (offset length : Nat) (buffer : ReadResult) (crc : Word32)
  | fwCheck (slice : Fin 512) (tag : Word32)
  | fwActivate (slice : Fin 512) (tag : Word32) (driverConfirm : Bool)
  | handoverSwitch
  | cellComplexSwitch (cluster : Fin 8)
  | fwConfirm (slice : Fin 512) (tag : Word32)
  | healthConfirm
  | healthWindowExpiry (selfTestFailed : Bool) (handBack : Bool)
  | fwStatus (slice : Fin 512) (tag : Word32)
  | fwWatchdogExpiry
  | eyeletMap (slice : Fin 512) (tag : Word32) (p : EyeletParams)
  | eyeletUnmap (slice : Fin 512) (tag : Word32) (f : Func) (granule : Nat)
  | eyeletRead (slice : Fin 512) (tag : Word32) (f : Func) (granule : Nat)
  | rangeRead (slice : Fin 512) (tag : Word32) (slot : Nat)
  | queueCreate (slice : Fin 512) (tag : Word32) (p : QueueParams)
  | queueDestroy (slice : Fin 512) (tag : Word32) (q : Nat)
  | regionRegister (slice : Fin 512) (tag : Word32) (p : RegionParams)
  | regionRevoke (slice : Fin 512) (tag : Word32) (slot incarnation : Nat)
  | tenantSet (slice : Fin 512) (tag : Word32) (target : Nat) (tenant : Nat)
  | connResume (slice : Fin 512) (tag : Word32) (conn : BitVec 24)
  | cyqPortSet (slice : Fin 512) (tag : Word32) (port : Word16)
  | connListen (slice : Fin 512) (tag : Word32) (p : ListenParams)
  | connCreate (slice : Fin 512) (tag : Word32) (p : ConnParams)
  | connDestroy (slice : Fin 512) (tag : Word32) (conn : BitVec 24)
  | grpQuotaSet (slice : Fin 512) (tag : Word32) (src dst amount : Nat)
  | groupCreate (slice : Fin 512) (tag : Word32) (p : GroupParams)
  | groupDestroy (slice : Fin 512) (tag : Word32) (handle : Nat)
  | collAbort (slice : Fin 512) (tag : Word32) (handle : Nat)
  | memHistoryRead (slice : Fin 512) (tag : Word32) (bufferOk : Bool)
  | farRescan (slice : Fin 512) (tag : Word32) (devices0 devices1 : List CxlDevice)
  | filterSet (slice : Fin 512) (tag : Word32) (index : Nat) (p : FilterRec)
  | filterClear (slice : Fin 512) (tag : Word32) (index : Nat)
  | filterRead (slice : Fin 512) (tag : Word32) (index : Nat)
  | chainBypass (slice : Fin 512) (tag : Word32) (on : Bool)
  | routeWrite (slice : Fin 512) (tag : Word32) (items : RouteItems)
  | routeRead (slice : Fin 512) (tag : Word32) (bank : Fin 2) (chain : Bool) (first count : Nat)
  | routeFlip (slice : Fin 512) (tag : Word32) (memberMask : Word64)
  | sliceBind (slice : Fin 512) (tag : Word32) (target : Nat) (port fn : Nat) (pasid : Option (BitVec 20))
  | sliceUnbind (slice : Fin 512) (tag : Word32) (target : Nat)
  | sliceReset (slice : Fin 512) (tag : Word32) (target : Fin 512)
  | sliceResetDrainDone (target : Fin 512)
  | dirtyStart (slice : Fin 512) (tag : Word32) (target : Fin 512) (iovaBase pages bitmap0 bitmap1 bytes : Nat)
  | dirtyStop (slice : Fin 512) (tag : Word32) (target : Fin 512)
  | dirtySync (slice : Fin 512) (tag : Word32) (target : Fin 512)
  | dirtyFlush
  | sliceFreeze (slice : Fin 512) (tag : Word32) (target : Fin 512)
  | freezeDrained (target : Fin 512)
  | sliceSave (slice : Fin 512) (tag : Word32) (target : Fin 512) (length : Nat) (bufferOk : Bool)
  | sliceRestore (slice : Fin 512) (tag : Word32) (target : Fin 512) (image : Option SliceImage)
  | sliceThaw (slice : Fin 512) (tag : Word32) (target : Fin 512)
  | heartbeat (f : Func) (slice : Fin 512) (value : Word64)
  | heartbeatExpiry (slice : Fin 512)
  | flr (f : Func)
  -- keys and ciphers (17), identity (19)
  | keyInfo (slice : Fin 512) (tag : Word32) (t : KeyTarget)
  | keyErase (slice : Fin 512) (tag : Word32) (owner : Fin 512) (t : KeyTarget)
  | keyRootSet (slice : Fin 512) (tag : Word32) (digest : BitVec 384)
  | keyImport (slice : Fin 512) (tag : Word32) (parent : Nat) (t : KeyTarget) (blob : List Byte)
  | keyDerive (slice : Fin 512) (tag : Word32) (parent : Nat) (t : KeyTarget) (label context : BitVec 256) (keyId : Word32)
  | keyProvision (port : Fin 2) (session : Nat) (owner : Fin 512) (slot : Nat) (keyId : Word32) (key : BitVec 256)
  | connRekey (slice : Fin 512) (tag : Word32) (conn : BitVec 24) (slot : Nat)
  | ownerEnroll (slice : Fin 512) (tag : Word32) (ecdsa hss transfer : List Byte)
  | guardCipherOp (engine : Fin 4) (disagree : Bool)
  | drbgHealthFail
  | drbgRetest (pass : Bool)
  | spdmRequest (port : Fin 2) (session : Nat) (req : SpdmReq)
  | attestationReport (port : Fin 2) (nonce : BitVec 256) (mask : Word16)
  | lmsTreeReady
  -- host ports (16)
  | hostLinkRetrain (port : Fin 2) (speed width : Nat)
  | hostLinkEnd (port : Fin 2) (cause : Nat)
  | hostLinkReturn (port : Fin 2) (speed width : Nat) (flit : Bool)
  | busMasterDisable (f : Func)
  | ideIntegrityFail (port : Fin 2) (stream : Fin 4)
  | atomicopRequest (f : Func) (tlpTag : Nat)
  -- power, pins, sideband, time (21, 22)
  | inputPowerApply
  | inputUndervoltage
  | inputFault (reversed : Bool)
  | modResetNAssert
  | modResetNRelease
  | pldmRequest (req : PldmReq)
  | boardPowerLimitWrite (watts : Nat)
  | setEndpointId (eid : Nat)
  | powerSample (watts : Nat)
  | thermalSample (junction hbm : Nat)
  | thermalComparator (junction hbm : Nat)
  | pwrBrakeAssert
  | pwrBrakeRelease
  | clusterLightSleep (cluster : Fin 8)
  | clusterDeepSleep (cluster : Fin 8)
  | clusterWake (cluster : Fin 8)
  | hbmSelfRefresh
  | eventTimerFire (slice : Option (Fin 512)) (index : Nat)
  | slcTimerDeadlineWrite (f : Func) (slice : Fin 512) (value : Word64)
  | timSetWrite (f : Func) (value : Word64)
  | timSlewWrite (f : Func) (value : Word64)
  | timFreqWrite (f : Func) (value : Word32)
  | ppsInEdge
  | ppsOutSecond
  | timeSourceLoss
  | timeCaptureEdge (pin : Fin 8)
  | pinShortCheck (output : Fin 10) (levelOk : Bool)
  | pinFaultRetry (output : Fin 10) (levelOk : Bool)
  | slcCheckValWrite (f : Func) (slice : Fin 512) (value : Word64)
  | registerWrite (f : Func) (offset width : Nat) (value : Word64)
  | registerReadClear (f : Func) (offset width : Nat)
  -- host port completions and settings, and the remaining timers
  | hostReadCompletion (id : Nat) (res : ReadResult)
  | pcieCompletionTimeout (id : Nat)
  | dataLinkLayerAck (port : Fin 2) (count : Nat)
  | priEnableChange (f : Func) (enable : Bool)
  | vfEnableChange (port : Fin 2) (enable : Bool) (numVfs : Nat)
  | class7TokensRefill (port : Fin 10)
  | linkSignalLoss (port : Fin 10) (dark : Bool)
  | sbtBucketRoll
  | firmwareResetDone
deriving DecidableEq, Repr

end Sys2Proof
end

