-- ==== Sys2Proof/Decode.lean ====
section
/-! DEFINITION. The decoder of table words. -/

namespace Sys2Proof

/-- The command that a word spells by the bits of spec/opcode_table.json. Every row of this table has an empty list of
fields: the Farig takes its commands as events, not as words, so no word spells one. -/
def decodeTableWord (_nbits _w : Nat) : Option Instr := none

end Sys2Proof
end

