-- ==== Sys2Proof/Machine/Util.lean ====
section
/-! DEFINITION. Small helpers on lists and vectors that the operations use. -/

namespace Sys2Proof.Machine

/-- Apply `f` to the elements that satisfy `p`. -/
def updWhere {α : Type} (p : α → Bool) (f : α → α) (l : List α) : List α :=
  l.map fun x => if p x then f x else x

/-- The value of a key in an association list. -/
def assoc {κ β : Type} [DecidableEq κ] (l : List (κ × β)) (k : κ) : Option β :=
  match l with
  | [] => none
  | (k', v) :: r => if k = k' then some v else assoc r k

/-- Set a key's value, in place if it is there and at the end otherwise. -/
def assocSet {κ β : Type} [DecidableEq κ] (l : List (κ × β)) (k : κ) (v : β) : List (κ × β) :=
  match l with
  | [] => [(k, v)]
  | (k', v') :: r => if k = k' then (k, v) :: r else (k', v') :: assocSet r k v

def assocDel {κ β : Type} [DecidableEq κ] (l : List (κ × β)) (k : κ) : List (κ × β) :=
  l.filter fun x => x.1 ≠ k

/-- Element `k` of a vector, or `d` beyond its end. -/
def vget {α : Type} {n : Nat} (v : Vector α n) (k : Nat) (d : α) : α := (v[k]?).getD d

/-- Replace element `k`; nothing beyond the end. -/
def vset {α : Type} {n : Nat} (v : Vector α n) (k : Nat) (x : α) : Vector α n := v.setIfInBounds k x

/-- Apply `f` to element `k`; nothing beyond the end. -/
def vmod {α : Type} {n : Nat} (v : Vector α n) (k : Nat) (f : α → α) : Vector α n :=
  match v[k]? with
  | some x => v.setIfInBounds k (f x)
  | none => v

/-- Replace the first element that satisfies a test. -/
def replaceFirst {α : Type} (p : α → Bool) (y : α) : List α → List α
  | [] => []
  | x :: r => if p x then y :: r else x :: replaceFirst p y r

/-- The first of `start`, `start + 1`, … modulo `n` that is acceptable, at most `fuel` tried. -/
def chooseFrom (n : Nat) (good : Nat → Bool) : Nat → Nat → Option Nat
  | 0, _ => none
  | fuel + 1, k =>
    let c := if n = 0 then k else k % n
    if good c then some c else chooseFrom n good fuel (c + 1)

/-- Bytes of a number, least significant first (R3: structures in memory are little-endian). -/
def leBytes : Nat → Nat → List (BitVec 8)
  | 0, _ => []
  | n + 1, v => BitVec.ofNat 8 v :: leBytes n (v / 256)

/-- The number that little-endian bytes spell. -/
def leNat : List (BitVec 8) → Nat
  | [] => 0
  | b :: r => b.toNat + 256 * leNat r

/-- Bytes [hi:lo] of a structure, as a number; missing bytes are zero. -/
def leField (bs : List (BitVec 8)) (lo hi : Nat) : Nat := leNat ((bs.drop lo).take (hi + 1 - lo))

/-- Bytes of a number, most significant first (R3: wire headers are big-endian). -/
def beBytes (n v : Nat) : List (BitVec 8) := (leBytes n v).reverse

/-- ceil(a ÷ b). -/
def ceilDiv (a b : Nat) : Nat := (a + b - 1) / b

/-- Clamp to [lo, hi]. -/
def clamp (lo hi v : Nat) : Nat := if v < lo then lo else if hi < v then hi else v

end Sys2Proof.Machine
end

