-- ==== Sys2Proof/Machine/Ecdsa.lean ====
section
/-! DEFINITION. ECDSA verification on P-384 with SHA-384 (FIPS 186-5, which R2 names), of the keys and signatures of R446. -/

namespace Sys2Proof.Machine.Ecdsa

/-! ## The curve: y² = x³ − 3x + b modulo p, and its generator of prime order n -/

def p : Nat := 2 ^ 384 - 2 ^ 128 - 2 ^ 96 + 2 ^ 32 - 1
def b : Nat := 0xB3312FA7E23EE7E4988E056BE3F82D19181D9C6EFE8141120314088F5013875AC656398D8A2ED19D2A85C8EDD3EC2AEF
def n : Nat := 0xFFFFFFFFFFFFFFFFFFFFFFFFFFFFFFFFFFFFFFFFFFFFFFFFC7634D81F4372DDF581A0DB248B0A77AECEC196ACCC52973
def gx : Nat := 0xAA87CA22BE8B05378EB1C71EF320AD746E1D3B628BA79B9859F741E082542A385502F25DBF55296C3A545E3872760AB7
def gy : Nat := 0x3617DE4A96262C6F5D9E98BF9292DC29F8F41DBD289A147CE9DA3113B5F0B8C00A60B1CE1D7E819D7A431D7C90EA0E5F

/-! ## Arithmetic modulo a prime -/

def sub (m x y : Nat) : Nat := (x + (m - y % m)) % m

/-- x to a power of at most so many bits. -/
def power (m : Nat) : Nat → Nat → Nat → Nat
  | 0, _, _ => 1
  | bits + 1, x, e => (if e % 2 = 1 then x else 1) * power m bits (x * x % m) (e / 2) % m

/-- The inverse modulo a prime of 384 bits. -/
def inverse (m x : Nat) : Nat := power m 384 (x % m) (m - 2)

/-! ## Points in Jacobian coordinates: (x/z², y/z³), and the point at infinity where z is 0 -/

structure Point where
  x : Nat
  y : Nat
  z : Nat
deriving DecidableEq, Repr

def infinity : Point := ⟨1, 1, 0⟩

def double (a : Point) : Point :=
  let d := a.z * a.z % p
  let g := a.y * a.y % p
  let u := a.x * g % p
  let v := 3 * sub p a.x d * (a.x + d) % p
  let x := sub p (v * v) (8 * u)
  ⟨x, sub p (v * sub p (4 * u) x) (8 * g * g), sub p ((a.y + a.z) * (a.y + a.z)) (g + d)⟩

def add (a c : Point) : Point :=
  if a.z = 0 then c
  else if c.z = 0 then a
  else
    let za := a.z * a.z % p
    let zc := c.z * c.z % p
    let u := a.x * zc % p
    let s := a.y * c.z % p * zc % p
    let h := sub p (c.x * za) u
    let r := sub p (c.y * a.z % p * za) s
    if h = 0 then (if r = 0 then double a else infinity)
    else
      let hh := h * h % p
      let hhh := h * hh % p
      let v := u * hh % p
      let x := sub p (r * r) (hhh + 2 * v)
      ⟨x, sub p (r * sub p v x) (s * hhh), h * a.z % p * c.z % p⟩

/-- A multiple of a point, by the bits of a number of at most so many. -/
def times : Nat → Nat → Point → Point
  | 0, _, _ => infinity
  | bits + 1, k, a =>
    let r := times bits (k / 2) (double a)
    if k % 2 = 1 then add r a else r

/-! ## Verification -/

def number (l : List (BitVec 8)) : Nat := leNat l.reverse

/-- A public key, X then Y, names a point of the curve. -/
def onCurve (x y : Nat) : Bool := decide (x < p ∧ y < p ∧ y * y % p = (x * x * x + (p - 3) * x + b) % p)

/-- The signature r then s over a message verifies under the key X then Y. -/
def verifies (key sig msg : List (BitVec 8)) : Bool :=
  let x := number (key.take 48)
  let y := number (key.drop 48)
  let r := number (sig.take 48)
  let s := number (sig.drop 48)
  if key.length ≠ 96 ∨ sig.length ≠ 96 ∨ !onCurve x y ∨ r = 0 ∨ n ≤ r ∨ s = 0 ∨ n ≤ s then false
  else
    let w := inverse n s
    let e := (Sha.sha384 msg).toNat
    let q := add (times 384 (e * w % n) ⟨gx, gy, 1⟩) (times 384 (r * w % n) ⟨x, y, 1⟩)
    decide (q.z ≠ 0) && decide (q.x * inverse p (q.z * q.z) % p % n = r)

end Sys2Proof.Machine.Ecdsa
end

