-- ==== Sys2Proof/Machine/Aes.lean ====
section
/-! DEFINITION. AES-256 and what is made of it: AES key wrap (R417), the KDF in counter mode with CMAC (R418), and GCM, with a 96-bit
IV, of the Stream Cipher Engines (R426). A block, a key and a message are byte strings, first byte first. -/

namespace Sys2Proof.Machine.Aes

abbrev B := BitVec 8

/-- Multiplication by x in GF(2^8). -/
def xtime (a : B) : B := (a <<< 1) ^^^ (if a.msb then 0x1B else 0)

def mul (a b : B) : B :=
  ((List.range 8).foldl (fun (acc : B × B) i => (if b.getLsbD i then acc.1 ^^^ acc.2 else acc.1, xtime acc.2)) (0, a)).1

/-- The inverse: a to the power 254. -/
def inv (a : B) : B :=
  let a2 := mul a a
  let a4 := mul a2 a2
  let a8 := mul a4 a4
  let a16 := mul a8 a8
  let a32 := mul a16 a16
  let a64 := mul a32 a32
  let a128 := mul a64 a64
  mul a128 (mul a64 (mul a32 (mul a16 (mul a8 (mul a4 a2)))))

def sub (a : B) : B :=
  let b := inv a
  b ^^^ b.rotateLeft 1 ^^^ b.rotateLeft 2 ^^^ b.rotateLeft 3 ^^^ b.rotateLeft 4 ^^^ 0x63

def subInv (a : B) : B := inv (a.rotateLeft 1 ^^^ a.rotateLeft 3 ^^^ a.rotateLeft 6 ^^^ 0x05)

def xor (a b : List B) : List B := List.zipWith (· ^^^ ·) a b

def at_ (l : List B) (i : Nat) : B := l.getD i 0

/-! ## Key expansion -/

/-- The next word of the key schedule, from those before it, newest first. -/
def nextWord (ws : List (List B)) (i : Nat) (rcon : B) : List B :=
  let t := ws.headD []
  let t := if i % 8 = 0 then xor ((t.drop 1 ++ t.take 1).map sub) [rcon, 0, 0, 0] else if i % 8 = 4 then t.map sub else t
  xor (ws.getD 7 []) t

/-- The 60 words, newest first. -/
def words : Nat → Nat → B → List (List B) → List (List B)
  | 0, _, _, ws => ws
  | fuel + 1, i, rcon, ws => words fuel (i + 1) (if i % 8 = 0 then xtime rcon else rcon) (nextWord ws i rcon :: ws)

/-- The 15 round keys. -/
def roundKeys (key : List B) : List (List B) :=
  let first := ((List.range 8).map fun i => (key.drop (4 * i)).take 4).reverse
  let all := (words 52 8 1 first).reverse
  (List.range 15).map fun r => ((all.drop (4 * r)).take 4).flatten

/-! ## The cipher -/

def shiftRows (s : List B) : List B := (List.range 16).map fun i => at_ s ((i + 4 * (i % 4)) % 16)
def shiftRowsInv (s : List B) : List B := (List.range 16).map fun i => at_ s ((i + 12 * (i % 4)) % 16)

/-- Multiply each column by a circulant matrix with this first row. -/
def mixWith (r : List B) (s : List B) : List B :=
  (List.range 16).map fun i =>
    let c := i / 4 * 4
    ((List.range 4).map fun k => mul (at_ r ((k + 4 - i % 4) % 4)) (at_ s (c + k))).foldl (· ^^^ ·) 0

def encrypt (key block : List B) : List B :=
  match roundKeys key with
  | [] => block
  | k0 :: ks =>
    let s := (ks.take 13).foldl (fun s k => xor (mixWith [2, 3, 1, 1] (shiftRows (s.map sub))) k) (xor block k0)
    xor (shiftRows (s.map sub)) (ks.getD 13 [])

def decrypt (key block : List B) : List B :=
  match (roundKeys key).reverse with
  | [] => block
  | k14 :: ks =>
    let s := (ks.take 13).foldl (fun s k => mixWith [14, 11, 13, 9] (xor ((shiftRowsInv s).map subInv) k)) (xor block k14)
    xor ((shiftRowsInv s).map subInv) (ks.getD 13 [])

/-! ## AES key wrap (RFC 3394) -/

/-- One step of unwrapping: the register A and the semiblocks R. -/
def unwrapStep (key : List B) (t i : Nat) (x : List B × List (List B)) : List B × List (List B) :=
  let b := decrypt key (xor x.1 (beBytes 8 t) ++ x.2.getD i [])
  (b.take 8, x.2.set i (b.drop 8))

/-- Unwrap: the plaintext, if the integrity check passes. -/
def unwrap (key blob : List B) : Option (List B) :=
  let n := blob.length / 8 - 1
  let r := (List.range n).map fun i => (blob.drop (8 * (i + 1))).take 8
  let steps := (List.range (6 * n)).reverse
  let x := steps.foldl (fun x k => unwrapStep key (k + 1) (k % n) x) (blob.take 8, r)
  if x.1 = List.replicate 8 0xA6 then some x.2.flatten else none

/-- The block that the k-th decryption of an unwrap takes. -/
def unwrapInput (key blob : List B) (k : Nat) : List B :=
  let n := blob.length / 8 - 1
  let r := (List.range n).map fun i => (blob.drop (8 * (i + 1))).take 8
  let x := ((List.range (6 * n)).reverse.take k).foldl (fun x k => unwrapStep key (k + 1) (k % n) x) (blob.take 8, r)
  let j := 6 * n - 1 - k
  xor x.1 (beBytes 8 (j + 1)) ++ x.2.getD (j % n) []

/-! ## CMAC and the KDF (SP 800-38B, SP 800-108) -/

/-- Doubling in GF(2^128). -/
def double (b : List B) : List B :=
  let n : BitVec 128 := BitVec.ofNat 128 (leNat b.reverse)
  beBytes 16 ((n <<< 1) ^^^ (if n.msb then 0x87 else 0)).toNat

/-- The blocks of a message that is not empty, the last masked with a subkey. -/
def cmacBlocks (key msg : List B) : List (List B) :=
  let k1 := double (encrypt key (List.replicate 16 0))
  let n := (msg.length + 15) / 16
  let body := (List.range (n - 1)).map fun i => (msg.drop (16 * i)).take 16
  let last := msg.drop (16 * (n - 1))
  let last := if last.length = 16 then xor last k1
    else xor (last ++ [0x80] ++ List.replicate (15 - last.length) 0) (double k1)
  body ++ [last]

/-- The chaining value behind a list of blocks. -/
def cmacChain (key : List B) (blocks : List (List B)) : List B :=
  blocks.foldl (fun c m => encrypt key (xor c m)) (List.replicate 16 0)

/-- CMAC of a message that is not empty. -/
def cmac (key msg : List B) : List B := cmacChain key (cmacBlocks key msg)

/-- The input of iteration i + 1 of the KDF: [i + 1] ‖ Label ‖ 0x00 ‖ Context ‖ [L]. -/
def kdfMessage (label context : List B) (bits i : Nat) : List B := beBytes 4 (i + 1) ++ label ++ [0] ++ context ++ beBytes 4 bits

/-- The KDF: `bits` bits. -/
def kdf (key label context : List B) (bits : Nat) : List B :=
  let n := (bits + 127) / 128
  let out := (List.range n).flatMap fun i => cmac key (kdfMessage label context bits i)
  out.take (bits / 8)

/-- The block that the k-th encryption of a KDF takes: first that of the CMAC subkeys, then five for each iteration. -/
def kdfInput (key label context : List B) (bits k : Nat) : List B :=
  if k = 0 then List.replicate 16 0
  else
    let blocks := cmacBlocks key (kdfMessage label context bits ((k - 1) / 5))
    xor (cmacChain key (blocks.take ((k - 1) % 5))) (blocks.getD ((k - 1) % 5) [])

/-! ## GCM (SP 800-38D) -/

/-- A string as a number, first byte most significant. -/
def be (b : List B) : Nat := leNat b.reverse

/-- Multiplication in the field of GHASH, whose first bit is the constant term. -/
def ghashMul (x y : BitVec 128) : BitVec 128 :=
  ((List.range 128).foldl (fun (acc : BitVec 128 × BitVec 128) i =>
    (if x.getMsbD i then acc.1 ^^^ acc.2 else acc.1,
     if acc.2.getLsbD 0 then (acc.2 >>> 1) ^^^ (0xE1#128 <<< 120) else acc.2 >>> 1)) (0, y)).1

/-- The blocks of a string, the last padded with zeros. -/
def padded (b : List B) : List (BitVec 128) :=
  (List.range ((b.length + 15) / 16)).map fun i =>
    let x := (b.drop (16 * i)).take 16
    BitVec.ofNat 128 (be (x ++ List.replicate (16 - x.length) 0))

def ghash (h : BitVec 128) (blocks : List (BitVec 128)) : BitVec 128 := blocks.foldl (fun y x => ghashMul (y ^^^ x) h) 0

/-- Counter mode from counter 2 on, with a 96-bit IV: encryption and decryption. -/
def ctr (key iv text : List B) : List B :=
  (List.range ((text.length + 15) / 16)).flatMap fun i => xor ((text.drop (16 * i)).take 16) (encrypt key (iv ++ beBytes 4 (i + 2)))

/-- The tag over the additional data and the ciphertext. -/
def gcmTag (key iv aad text : List B) : List B :=
  let h := BitVec.ofNat 128 (be (encrypt key (List.replicate 16 0)))
  let s := ghash h (padded aad ++ padded text ++ [BitVec.ofNat 128 (aad.length * 8 * 2 ^ 64 + text.length * 8)])
  xor (beBytes 16 s.toNat) (encrypt key (iv ++ beBytes 4 1))

/-- Authenticated encryption: ciphertext and tag. -/
def gcm (key iv aad text : List B) : List B × List B :=
  let c := ctr key iv text
  (c, gcmTag key iv aad c)

end Sys2Proof.Machine.Aes
end

