-- ==== Sys2Proof/Config.lean ====
section
/-! DEFINITION. The free values: what the spec leaves open. Each is a constant with no body, so a claim holds for
every value it could have. `freeBits` is applied to `State.freeCount`, which each use advances (log entry 2); the
others are functions of their operands (log entry 3). -/

namespace Sys2Proof.Config

/-- The n-th value that the spec leaves open: a draw of the DRBG (R124, R169), a rounding bit (R256), a choice among
free numbers (R16), a victim of an unspecified replacement order (R77). -/
opaque freeBits : Nat → BitVec 64

/-- The pacing rate of a RAW_SEND queue, in bytes per 65,536 ns (R206): R195 gives an end's from its window, and the spec states none
for a queue, which has no window (R202). -/
opaque rawRate : Nat → Nat

/-- The bytes of a slice image before its CRC-64 (R385): the spec gives its size and what it holds, and no layout. -/
opaque imageBytes : SliceImage → List Byte

/-- The Differentiated Services field of a frame's class and the flow label of its entropy value (R153, R194): the spec gives neither. -/
opaque dscp : Nat → Nat
opaque flowLabel : Nat → Nat

/-- The destination MAC address of a Cyquin frame that leaves on a chain port (R60): NextHopMac is for fabric ports (R344). -/
opaque chainMac : Nat → BitVec 48

/-- Hop limit and UDP source port of an answer that a node with no Active bank gives to a node (R358): it has no Route Table entry to take
them from (R344, R348). -/
opaque bareHop : Nat → Nat
opaque bareEntropy : Nat → Nat

/-- Where within the range of a Completion Timeout Value a port's timeout lies (R392). -/
opaque cplWithin : Nat → Nat

/-- The device secret of the Key Store, and the public ECDSA P-384 identity key that is derived from it (R453). -/
opaque deviceSecret : BitVec 384
opaque identityPublic : BitVec 384 → List (BitVec 8)

/-- The bytes of an attestation report's body, over its coordinates, nonce, measurements, Device Time and indices (R461): the spec names the
fields and gives no layout. -/
opaque reportBody : Nat → Nat → List (Nat × List Nat) → Nat → Nat → Nat → List (BitVec 8)

/-- The signature of the ECDSA identity key over a digest, with the signer's random number (R461): it rests on a key that never leaves the
Security Core. -/
opaque ecdsaSign : BitVec 384 → Nat → Nat → List (BitVec 8)

/-- The parts of an HSS signature (R454): the public key of the bottom tree that a top index certifies, the top tree's signature over it, and
the bottom tree's signature over a body. They rest on seeds that never leave the Security Core. -/
opaque bottomKey : BitVec 384 → Nat → Vector (BitVec 8) 56
opaque topSign : BitVec 384 → Nat → Vector (BitVec 8) 56 → Vector (BitVec 8) 2828
opaque bottomSign : BitVec 384 → Nat → Nat → List (BitVec 8) → Vector (BitVec 8) 2508

/-- The fields that a mailbox response of an opcode carries behind its Detail (R467): the spec names what some commands return and gives no
layout. At most 492 B of them fit. -/
opaque respFields : Nat → List Nat → List (BitVec 8)

/-- The DMTF form of measurement 1, over the code-key digests, the revoke fuse and the owner bank (R460), and of measurement 4, over the Last's
bytes and serial. -/
opaque configBytes : List Nat → List (BitVec 8)
opaque lastBytes : List (BitVec 8) → Nat → List (BitVec 8)

/-- The public key of the LMS top tree, which is generated at manufacture (R454). -/
opaque lmsTopPublic : List (BitVec 8)

/-- The Tolsyn root and Glaex intermediate certificates, and the device certificate over an identity key, a top tree's key and a serial
number (R453): certificates as bytes. -/
opaque rootCert : List (BitVec 8)
opaque intermediateCert : List (BitVec 8)
opaque deviceCert : List (BitVec 8) → List (BitVec 8) → Nat → List (BitVec 8)

/-- The Shank memory port that the interleave hash gives a 1 KiB granule of near memory (R13, R292), before `% 48`. -/
opaque granulePort : Nat → Nat

/-- The reduction slot, of the pool's at most 4,096, that holds a unit of a group (R242), before `% 4096`. The spec leaves it to the
device. -/
opaque slotPlace : Nat → Nat → Nat

/-- Reduction slots that a registrar which is no member presumes for a group of a name (R242): no message tells it the group's Depth, nor
whether the group allows Manager Tree. Before `% 33`. -/
opaque treeSlots : BitVec 64 → Nat

/-- The channel, of the four that a port serves, that holds a codeword (R13), before `% 4`. -/
opaque codewordLane : Nat → Nat

/-- The manager in force for another node group, by site, hall and group (R220, R229): the spec gives a node no way to
learn it. -/
opaque managerOf : BitVec 20 → BitVec 20

/-- The site manager in force of another site (R230). -/
opaque siteManagerOf : Nat → BitVec 20

/-- Which of the results within 1 ulp an engine gives for a reciprocal (0) or a reciprocal square root (1) of an FP32
input: the same for the same input bits (R249). -/
opaque ulpChoice : Nat → BitVec 32 → Nat

/-- Digests of the code-signing pair in the primary bank (false) or the spare one (true) of the fuses (R447). -/
opaque codeKeys : Bool → BitVec 384 × BitVec 384

/-- A 64-B transfer record names two digests of owner keys: its layout is not given (R452). -/
opaque transferNames : List Byte → BitVec 384 → BitVec 384 → Bool

/-- A firmware bundle can import the state format of the image that runs (R481). -/
opaque importsState : List Byte → Bool

/-- Field `f` of record `r` of a section of a Last, by its type and its bytes: the spec gives the layout of PORT and PIN
records alone (R31 to R43). -/
opaque lastField : Nat → List Byte → Nat → Nat → Nat

/-- The MAC address of fabric port 0, assigned at manufacture (R318). -/
opaque macBase : BitVec 48

/-- The module's serial number, part number and manufacture date, assigned at manufacture (R453, R461, R527). -/
opaque moduleSerial : Nat
opaque partNumber : List (BitVec 8)
opaque manufactureDate : Nat

end Sys2Proof.Config
end

