-- ==== Sys2Proof/Machine/Regs.lean ====
section
/-! DEFINITION. The registers of the Farig (R533, R534): where each lies, and its fields with their access types (R4)
and reset values, from the field maps of every chapter. A register that has several instances of its own (a stack, a
host port, a pin, a site) counts them with `count` and `stride` inside its block. -/

namespace Sys2Proof.Machine

/-- The windows of BAR0 (R533), and the per-queue area of BAR2 (R98). -/
inductive Block where
  | device | port | cluster | slice | queue
deriving DecidableEq, Repr

/-- Access types (R4). -/
inductive Acc where
  | rw | ro | wo | rc | w1s | rws
deriving DecidableEq, Repr

inductive Reg where
  | gblContract | gblRole | gblClusterState | lstStatus | lstSerial | lstReject
  | lstPoolMap | gblCoord | slcEyeletCtrl | slcEyeletErr | xltFaultCtrl | xltFaultStat
  | xltRangeStat | cluXltStat | qdbDoorbell | qdbCtrl | qdbStatus | slcQueueStat
  | slcLaceSel | slcLaceVal | slcEvqStat | slcRmaStat | slcTenantTag | gblCyqPort
  | cluCyqCtrl | cluCyqStat0 | cluCyqStat1 | cluCyqStat2 | slcConnStat | slcConnNear
  | cluCcCtrl | cluCcStat | rteSbt | prtThrottleStat | prtSchedCtrl | prtSchedQuantum
  | prtC7Stat | memArbRank | memArbCommit | prtArbRank | prtSchedCommit | slcCollStat
  | cluCollStat | slcArithCtrl | cluArithStat | cluSvcStat | slcSvcStat | memEccStat
  | memScrubCtrl | memScrubStat | memCeCtrl | memErrlogStat | memErrlogSel | memErrlogData0
  | memErrlogData1 | memReserve | memFarPort | memFarCap | prtStatus | prtLinkCtrl
  | prtMacAddr | prtVlan | prtLaneStat | prtPfcCtrl | prtPfcStat | prtWeltStat
  | prtWeltPeer | prtChainCredit | prtBypassSrc | rteStatus | rteStat | rteFwdStat
  | rteChain | slcBind | slcStatus | slcHeartbeat | slcHbCtrl | slcStaleStat
  | gblHostStatus | gblHostIdeCtrl | slcHostStat | secCipherStat | cluSceStat | slcKeyStat
  | slcCheckSel | slcCheckVal | cluChkStat | secBootStatus | secRollback | secLmsStat
  | secOwner | fwmStatus | fwmImage | fwmLoad | fwmStat | slcMbxReqBase
  | slcMbxRspBase | slcMbxCtrl | slcMbxDb | slcMbxStat | pwrStatus | pwrCtrl
  | pwrStat | timNow | timCtrl | timFreq | timSlew | timSet
  | timPpsCap | timStatus | slcTimerSel | slcTimerDeadline | slcTimerCfg | pwrGpio
  | pwrPinFault | pwrPinCap | gblIdent | gblCap | prtCounter
deriving DecidableEq, Repr

/-- A register field: bits [hi:lo], access type, reset value. -/
structure Fld where
  reg : Reg
  hi : Nat
  lo : Nat
  acc : Acc
  reset : Nat
deriving DecidableEq, Repr

/-- Where a register lies: its block, its offset in the block's window, its width in bits, its instances. -/
structure Place where
  block : Block
  offset : Nat
  width : Nat
  count : Nat := 1
  stride : Nat := 8
deriving DecidableEq, Repr

namespace Fld
def gblContractMajor : Fld := ⟨.gblContract, 15, 8, .ro, 0x1⟩
def gblContractMinor : Fld := ⟨.gblContract, 7, 0, .ro, 0x0⟩
def gblRoleRoleEpoch : Fld := ⟨.gblRole, 63, 32, .ro, 0x0⟩
def gblRoleRole : Fld := ⟨.gblRole, 1, 0, .ro, 0x0⟩
def gblClusterStateArithOut : Fld := ⟨.gblClusterState, 23, 16, .ro, 0x0⟩
def gblClusterStateSleep : Fld := ⟨.gblClusterState, 15, 0, .ro, 0x0⟩
def lstStatusFallback : Fld := ⟨.lstStatus, 7, 7, .ro, 0x0⟩
def lstStatusActivating : Fld := ⟨.lstStatus, 6, 6, .ro, 0x0⟩
def lstStatusInactiveState : Fld := ⟨.lstStatus, 5, 4, .ro, 0x0⟩
def lstStatusActiveSlot : Fld := ⟨.lstStatus, 3, 3, .ro, 0x0⟩
def lstStatusCheckMode : Fld := ⟨.lstStatus, 2, 2, .ro, 0x0⟩
def lstStatusState : Fld := ⟨.lstStatus, 1, 0, .ro, 0x0⟩
def lstSerialSerial : Fld := ⟨.lstSerial, 63, 0, .ro, 0x0⟩
def lstRejectReason : Fld := ⟨.lstReject, 31, 24, .rc, 0x0⟩
def lstRejectSection : Fld := ⟨.lstReject, 23, 16, .rc, 0x0⟩
def lstRejectRecord : Fld := ⟨.lstReject, 15, 0, .rc, 0x0⟩
def lstPoolMapScratch : Fld := ⟨.lstPoolMap, 62, 54, .ro, 0x0⟩
def lstPoolMapCheck : Fld := ⟨.lstPoolMap, 53, 45, .ro, 0x0⟩
def lstPoolMapWelt : Fld := ⟨.lstPoolMap, 44, 36, .ro, 0x0⟩
def lstPoolMapPortBuf : Fld := ⟨.lstPoolMap, 35, 27, .ro, 0x0⟩
def lstPoolMapParking : Fld := ⟨.lstPoolMap, 26, 18, .ro, 0x0⟩
def lstPoolMapReduction : Fld := ⟨.lstPoolMap, 17, 9, .ro, 0x0⟩
def lstPoolMapConnCache : Fld := ⟨.lstPoolMap, 8, 0, .ro, 0x0⟩
def gblCoordSite : Fld := ⟨.gblCoord, 19, 16, .ro, 0x0⟩
def gblCoordHall : Fld := ⟨.gblCoord, 15, 12, .ro, 0x0⟩
def gblCoordGroup : Fld := ⟨.gblCoord, 11, 6, .ro, 0x0⟩
def gblCoordNode : Fld := ⟨.gblCoord, 5, 0, .ro, 0x0⟩
def slcEyeletCtrlLoadLimitUs : Fld := ⟨.slcEyeletCtrl, 15, 0, .rw, 0xfa0⟩
def slcEyeletErrCaCount : Fld := ⟨.slcEyeletErr, 31, 16, .rc, 0x0⟩
def slcEyeletErrUrCount : Fld := ⟨.slcEyeletErr, 15, 0, .rc, 0x0⟩
def xltFaultCtrlRetryAfterUs : Fld := ⟨.xltFaultCtrl, 63, 48, .rw, 0x64⟩
def xltFaultCtrlQuotaMax : Fld := ⟨.xltFaultCtrl, 28, 16, .ro, 0x0⟩
def xltFaultCtrlWaitLimitMs : Fld := ⟨.xltFaultCtrl, 15, 0, .rw, 0xc8⟩
def xltFaultStatStray : Fld := ⟨.xltFaultStat, 63, 56, .rc, 0x0⟩
def xltFaultStatDenied : Fld := ⟨.xltFaultStat, 55, 48, .rc, 0x0⟩
def xltFaultStatTimeouts : Fld := ⟨.xltFaultStat, 47, 32, .rc, 0x0⟩
def xltFaultStatStalled : Fld := ⟨.xltFaultStat, 28, 16, .ro, 0x0⟩
def xltFaultStatInUse : Fld := ⟨.xltFaultStat, 12, 0, .ro, 0x0⟩
def xltRangeStatQuota : Fld := ⟨.xltRangeStat, 49, 32, .ro, 0x0⟩
def xltRangeStatUsed : Fld := ⟨.xltRangeStat, 17, 0, .ro, 0x0⟩
def cluXltStatHits : Fld := ⟨.cluXltStat, 63, 32, .rc, 0x0⟩
def cluXltStatMisses : Fld := ⟨.cluXltStat, 31, 0, .rc, 0x0⟩
def qdbDoorbellArm : Fld := ⟨.qdbDoorbell, 32, 32, .wo, 0x0⟩
def qdbDoorbellCount : Fld := ⟨.qdbDoorbell, 31, 0, .wo, 0x0⟩
def qdbCtrlResume : Fld := ⟨.qdbCtrl, 1, 1, .w1s, 0x0⟩
def qdbCtrlEnable : Fld := ⟨.qdbCtrl, 0, 0, .rw, 0x0⟩
def qdbStatusHead : Fld := ⟨.qdbStatus, 63, 32, .ro, 0x0⟩
def qdbStatusLastStatus : Fld := ⟨.qdbStatus, 23, 16, .ro, 0x0⟩
def qdbStatusStarted : Fld := ⟨.qdbStatus, 15, 7, .ro, 0x0⟩
def qdbStatusIdle : Fld := ⟨.qdbStatus, 3, 3, .ro, 0x1⟩
def qdbStatusState : Fld := ⟨.qdbStatus, 2, 0, .ro, 0x0⟩
def slcQueueStatQuota : Fld := ⟨.slcQueueStat, 50, 32, .ro, 0x0⟩
def slcQueueStatUsed : Fld := ⟨.slcQueueStat, 18, 0, .ro, 0x0⟩
def slcLaceSelIndex : Fld := ⟨.slcLaceSel, 17, 0, .rw, 0x0⟩
def slcLaceValValue : Fld := ⟨.slcLaceVal, 63, 0, .rw, 0x0⟩
def slcEvqStatLost : Fld := ⟨.slcEvqStat, 31, 0, .rc, 0x0⟩
def slcRmaStatViolIn : Fld := ⟨.slcRmaStat, 63, 48, .rc, 0x0⟩
def slcRmaStatTagDrop : Fld := ⟨.slcRmaStat, 47, 32, .rc, 0x0⟩
def slcRmaStatRevoked : Fld := ⟨.slcRmaStat, 31, 16, .rc, 0x0⟩
def slcRmaStatRecordLost : Fld := ⟨.slcRmaStat, 15, 8, .rc, 0x0⟩
def slcRmaStatFlushFail : Fld := ⟨.slcRmaStat, 7, 0, .rc, 0x0⟩
def slcTenantTagTag : Fld := ⟨.slcTenantTag, 23, 0, .ro, 0x0⟩
def gblCyqPortUdpPort : Fld := ⟨.gblCyqPort, 15, 0, .ro, 0xc3fd⟩
def cluCyqCtrlReorderUs : Fld := ⟨.cluCyqCtrl, 63, 48, .rw, 0xa⟩
def cluCyqCtrlAckEvery : Fld := ⟨.cluCyqCtrl, 47, 40, .rw, 0x10⟩
def cluCyqCtrlAckDelayUs : Fld := ⟨.cluCyqCtrl, 39, 32, .rw, 0x2⟩
def cluCyqCtrlParkHighPct : Fld := ⟨.cluCyqCtrl, 23, 16, .rw, 0x4b⟩
def cluCyqCtrlCtxMissRetryUs : Fld := ⟨.cluCyqCtrl, 15, 0, .rw, 0x32⟩
def cluCyqStat0Retransmits : Fld := ⟨.cluCyqStat0, 63, 32, .rc, 0x0⟩
def cluCyqStat0RtoExpiries : Fld := ⟨.cluCyqStat0, 31, 16, .rc, 0x0⟩
def cluCyqStat0Failed : Fld := ⟨.cluCyqStat0, 15, 0, .rc, 0x0⟩
def cluCyqStat1CrcDrop : Fld := ⟨.cluCyqStat1, 63, 48, .rc, 0x0⟩
def cluCyqStat1WindowDrop : Fld := ⟨.cluCyqStat1, 47, 32, .rc, 0x0⟩
def cluCyqStat1StaleDrop : Fld := ⟨.cluCyqStat1, 31, 16, .rc, 0x0⟩
def cluCyqStat1DupDrop : Fld := ⟨.cluCyqStat1, 15, 0, .rc, 0x0⟩
def cluCyqStat2Parked : Fld := ⟨.cluCyqStat2, 63, 32, .rc, 0x0⟩
def cluCyqStat2CtxMissNak : Fld := ⟨.cluCyqStat2, 31, 16, .rc, 0x0⟩
def cluCyqStat2AuthDrop : Fld := ⟨.cluCyqStat2, 15, 8, .rc, 0x0⟩
def cluCyqStat2FormatDrop : Fld := ⟨.cluCyqStat2, 7, 0, .rc, 0x0⟩
def slcConnStatQuota : Fld := ⟨.slcConnStat, 56, 32, .ro, 0x0⟩
def slcConnStatUsed : Fld := ⟨.slcConnStat, 24, 0, .ro, 0x0⟩
def slcConnNearAllow : Fld := ⟨.slcConnNear, 54, 32, .ro, 0x0⟩
def slcConnNearInNear : Fld := ⟨.slcConnNear, 22, 0, .ro, 0x0⟩
def cluCcCtrlInitGBs : Fld := ⟨.cluCcCtrl, 63, 56, .rw, 0x64⟩
def cluCcCtrlEcnEnable : Fld := ⟨.cluCcCtrl, 48, 48, .rw, 0x1⟩
def cluCcCtrlEcnBeta : Fld := ⟨.cluCcCtrl, 47, 40, .rw, 0x20⟩
def cluCcCtrlBeta : Fld := ⟨.cluCcCtrl, 39, 32, .rw, 0xcd⟩
def cluCcCtrlAiKiB : Fld := ⟨.cluCcCtrl, 31, 16, .rw, 0x100⟩
def cluCcCtrlTargetQueueUs : Fld := ⟨.cluCcCtrl, 15, 0, .rw, 0xc⟩
def cluCcStatDelayCuts : Fld := ⟨.cluCcStat, 63, 32, .rc, 0x0⟩
def cluCcStatEcnCuts : Fld := ⟨.cluCcStat, 31, 16, .rc, 0x0⟩
def cluCcStatTimerCuts : Fld := ⟨.cluCcStat, 15, 0, .rc, 0x0⟩
def rteSbtValid : Fld := ⟨.rteSbt, 63, 63, .ro, 0x0⟩
def rteSbtSource : Fld := ⟨.rteSbt, 40, 40, .ro, 0x0⟩
def rteSbtBaseRttNs : Fld := ⟨.rteSbt, 31, 0, .ro, 0x0⟩
def prtThrottleStatLevelChanges : Fld := ⟨.prtThrottleStat, 63, 48, .rc, 0x0⟩
def prtThrottleStatAllowKiB : Fld := ⟨.prtThrottleStat, 33, 16, .ro, 0x0⟩
def prtThrottleStatDepthPct : Fld := ⟨.prtThrottleStat, 15, 8, .ro, 0x0⟩
def prtThrottleStatLevel : Fld := ⟨.prtThrottleStat, 1, 0, .ro, 0x0⟩
def prtSchedCtrlOverheadB : Fld := ⟨.prtSchedCtrl, 23, 16, .rw, 0x14⟩
def prtSchedCtrlBurstKiB : Fld := ⟨.prtSchedCtrl, 15, 0, .rw, 0x40⟩
def prtSchedQuantumQuantumC0 : Fld := ⟨.prtSchedQuantum, 7, 0, .rws, 0x10⟩
def prtSchedQuantumQuantumC1 : Fld := ⟨.prtSchedQuantum, 15, 8, .rws, 0x10⟩
def prtSchedQuantumQuantumC2 : Fld := ⟨.prtSchedQuantum, 23, 16, .rws, 0x10⟩
def prtSchedQuantumQuantumC3 : Fld := ⟨.prtSchedQuantum, 31, 24, .rws, 0x10⟩
def prtSchedQuantumQuantumC4 : Fld := ⟨.prtSchedQuantum, 39, 32, .rws, 0x10⟩
def prtSchedQuantumQuantumC5 : Fld := ⟨.prtSchedQuantum, 47, 40, .rws, 0x10⟩
def prtSchedQuantumQuantumC6 : Fld := ⟨.prtSchedQuantum, 55, 48, .rws, 0x10⟩
def prtC7StatCapPct : Fld := ⟨.prtC7Stat, 63, 56, .ro, 0x5⟩
def prtC7StatOverCap : Fld := ⟨.prtC7Stat, 31, 16, .rc, 0x0⟩
def prtC7StatAckReplaced : Fld := ⟨.prtC7Stat, 15, 0, .rc, 0x0⟩
def memArbRankAgeGrants : Fld := ⟨.memArbRank, 15, 8, .rws, 0x40⟩
def memArbRankHousekeeping : Fld := ⟨.memArbRank, 7, 6, .rws, 0x3⟩
def memArbRankCluster : Fld := ⟨.memArbRank, 5, 4, .rws, 0x2⟩
def memArbRankEdge : Fld := ⟨.memArbRank, 3, 2, .rws, 0x1⟩
def memArbCommitCommit : Fld := ⟨.memArbCommit, 0, 0, .wo, 0x0⟩
def prtArbRankAgeGrants : Fld := ⟨.prtArbRank, 15, 8, .rws, 0x40⟩
def prtArbRankScheduled : Fld := ⟨.prtArbRank, 7, 6, .rws, 0x3⟩
def prtArbRankWeltReplay : Fld := ⟨.prtArbRank, 5, 4, .rws, 0x2⟩
def prtArbRankClass7 : Fld := ⟨.prtArbRank, 3, 2, .rws, 0x1⟩
def prtArbRankMacControl : Fld := ⟨.prtArbRank, 1, 0, .rws, 0x0⟩
def prtSchedCommitCommit : Fld := ⟨.prtSchedCommit, 0, 0, .wo, 0x0⟩
def slcCollStatGroupQuota : Fld := ⟨.slcCollStat, 44, 32, .ro, 0x8⟩
def slcCollStatGroupsUsed : Fld := ⟨.slcCollStat, 28, 16, .ro, 0x0⟩
def slcCollStatSlotsReserved : Fld := ⟨.slcCollStat, 15, 0, .ro, 0x0⟩
def cluCollStatMismatches : Fld := ⟨.cluCollStat, 63, 48, .rc, 0x0⟩
def cluCollStatStalls : Fld := ⟨.cluCollStat, 47, 32, .rc, 0x0⟩
def cluCollStatAborts : Fld := ⟨.cluCollStat, 31, 16, .rc, 0x0⟩
def cluCollStatNoCredit : Fld := ⟨.cluCollStat, 15, 0, .rc, 0x0⟩
def slcArithCtrlFp8Sat : Fld := ⟨.slcArithCtrl, 0, 0, .rw, 0x1⟩
def cluArithStatRecomputes : Fld := ⟨.cluArithStat, 63, 32, .rc, 0x0⟩
def cluArithStatLastUnit : Fld := ⟨.cluArithStat, 15, 8, .ro, 0xff⟩
def cluArithStatOut : Fld := ⟨.cluArithStat, 0, 0, .ro, 0x0⟩
def cluSvcStatPiecesDone : Fld := ⟨.cluSvcStat, 63, 32, .rc, 0x0⟩
def cluSvcStatGateWaits : Fld := ⟨.cluSvcStat, 31, 16, .rc, 0x0⟩
def cluSvcStatScratchUnits : Fld := ⟨.cluSvcStat, 7, 0, .ro, 0x0⟩
def slcSvcStatDeferred : Fld := ⟨.slcSvcStat, 63, 48, .rc, 0x0⟩
def slcSvcStatOutstanding : Fld := ⟨.slcSvcStat, 40, 32, .ro, 0x0⟩
def slcSvcStatCompleted : Fld := ⟨.slcSvcStat, 31, 0, .rc, 0x0⟩
def memEccStatCorrected : Fld := ⟨.memEccStat, 63, 32, .rc, 0x0⟩
def memEccStatUncorrectable : Fld := ⟨.memEccStat, 31, 16, .rc, 0x0⟩
def memEccStatScrubUe : Fld := ⟨.memEccStat, 15, 8, .rc, 0x0⟩
def memEccStatTransferUe : Fld := ⟨.memEccStat, 7, 0, .rc, 0x0⟩
def memScrubCtrlEnable : Fld := ⟨.memScrubCtrl, 8, 8, .rw, 0x1⟩
def memScrubCtrlPeriodHours : Fld := ⟨.memScrubCtrl, 7, 0, .rw, 0x18⟩
def memScrubStatPasses : Fld := ⟨.memScrubStat, 63, 32, .ro, 0x0⟩
def memScrubStatProgressPct : Fld := ⟨.memScrubStat, 6, 0, .ro, 0x0⟩
def memCeCtrlStormLimit : Fld := ⟨.memCeCtrl, 15, 0, .rw, 0x100⟩
def memErrlogStatLost : Fld := ⟨.memErrlogStat, 31, 16, .rc, 0x0⟩
def memErrlogStatCount : Fld := ⟨.memErrlogStat, 6, 0, .ro, 0x0⟩
def memErrlogSelIndex : Fld := ⟨.memErrlogSel, 5, 0, .rw, 0x0⟩
def memErrlogData0Stamp : Fld := ⟨.memErrlogData0, 63, 16, .ro, 0x0⟩
def memErrlogData0Stack : Fld := ⟨.memErrlogData0, 15, 13, .ro, 0x0⟩
def memErrlogData0Channel : Fld := ⟨.memErrlogData0, 12, 8, .ro, 0x0⟩
def memErrlogData0Kind : Fld := ⟨.memErrlogData0, 7, 4, .ro, 0x0⟩
def memErrlogData0Source : Fld := ⟨.memErrlogData0, 3, 0, .ro, 0x0⟩
def memErrlogData1Sym0 : Fld := ⟨.memErrlogData1, 63, 56, .ro, 0xff⟩
def memErrlogData1Sym1 : Fld := ⟨.memErrlogData1, 55, 48, .ro, 0xff⟩
def memErrlogData1Offset : Fld := ⟨.memErrlogData1, 43, 0, .ro, 0x0⟩
def memReserveBase : Fld := ⟨.memReserve, 43, 0, .ro, 0x6a00000000⟩
def memFarPortLinkUp : Fld := ⟨.memFarPort, 63, 63, .ro, 0x0⟩
def memFarPortInService : Fld := ⟨.memFarPort, 62, 62, .ro, 0x0⟩
def memFarPortLanes : Fld := ⟨.memFarPort, 61, 57, .ro, 0x0⟩
def memFarPortDevices : Fld := ⟨.memFarPort, 56, 53, .ro, 0x0⟩
def memFarPortWays : Fld := ⟨.memFarPort, 52, 49, .ro, 0x0⟩
def memFarPortBaseGiB : Fld := ⟨.memFarPort, 48, 28, .ro, 0x0⟩
def memFarPortDecodedGiB : Fld := ⟨.memFarPort, 13, 0, .ro, 0x0⟩
def memFarCapDecodedGiB : Fld := ⟨.memFarCap, 13, 0, .ro, 0x0⟩
def prtStatusWireFault : Fld := ⟨.prtStatus, 19, 16, .ro, 0x0⟩
def prtStatusWeltActive : Fld := ⟨.prtStatus, 7, 7, .ro, 0x0⟩
def prtStatusBypass : Fld := ⟨.prtStatus, 6, 6, .ro, 0x0⟩
def prtStatusInterface : Fld := ⟨.prtStatus, 5, 4, .ro, 0x0⟩
def prtStatusLinkUp : Fld := ⟨.prtStatus, 1, 1, .ro, 0x0⟩
def prtStatusEnabled : Fld := ⟨.prtStatus, 0, 0, .ro, 0x0⟩
def prtLinkCtrlInterface : Fld := ⟨.prtLinkCtrl, 5, 4, .rw, 0x0⟩
def prtLinkCtrlRetrain : Fld := ⟨.prtLinkCtrl, 1, 1, .w1s, 0x0⟩
def prtLinkCtrlForceDown : Fld := ⟨.prtLinkCtrl, 0, 0, .rw, 0x0⟩
def prtMacAddrMac : Fld := ⟨.prtMacAddr, 47, 0, .ro, 0x0⟩
def prtVlanTagEnable : Fld := ⟨.prtVlan, 12, 12, .rw, 0x0⟩
def prtVlanVlanId : Fld := ⟨.prtVlan, 11, 0, .rw, 0x0⟩
def prtLaneStatLaneMap : Fld := ⟨.prtLaneStat, 31, 8, .ro, 0x0⟩
def prtLaneStatPolarityInv : Fld := ⟨.prtLaneStat, 7, 0, .ro, 0x0⟩
def prtPfcCtrlRxHoldKiB : Fld := ⟨.prtPfcCtrl, 55, 40, .rw, 0x100⟩
def prtPfcCtrlRefreshUs : Fld := ⟨.prtPfcCtrl, 39, 32, .rw, 0x14⟩
def prtPfcCtrlXonKiB : Fld := ⟨.prtPfcCtrl, 31, 16, .rw, 0x40⟩
def prtPfcCtrlXoffKiB : Fld := ⟨.prtPfcCtrl, 15, 0, .rw, 0x80⟩
def prtPfcStatPausedTx : Fld := ⟨.prtPfcStat, 15, 8, .ro, 0x0⟩
def prtPfcStatXoffSent : Fld := ⟨.prtPfcStat, 7, 0, .ro, 0x0⟩
def prtWeltStatRttNs : Fld := ⟨.prtWeltStat, 63, 32, .ro, 0x0⟩
def prtWeltStatMeasuredM : Fld := ⟨.prtWeltStat, 31, 18, .ro, 0x0⟩
def prtWeltPeerValid : Fld := ⟨.prtWeltPeer, 24, 24, .ro, 0x0⟩
def prtWeltPeerPeerPort : Fld := ⟨.prtWeltPeer, 23, 20, .ro, 0x0⟩
def prtWeltPeerPeerCoord : Fld := ⟨.prtWeltPeer, 19, 0, .ro, 0x0⟩
def prtChainCreditVl3 : Fld := ⟨.prtChainCredit, 63, 48, .ro, 0x0⟩
def prtChainCreditVl2 : Fld := ⟨.prtChainCredit, 47, 32, .ro, 0x0⟩
def prtChainCreditVl1 : Fld := ⟨.prtChainCredit, 31, 16, .ro, 0x0⟩
def prtChainCreditVl0 : Fld := ⟨.prtChainCredit, 15, 0, .ro, 0x0⟩
def prtBypassSrcMailbox : Fld := ⟨.prtBypassSrc, 3, 3, .ro, 0x0⟩
def prtBypassSrcPin : Fld := ⟨.prtBypassSrc, 2, 2, .ro, 0x0⟩
def prtBypassSrcRecord : Fld := ⟨.prtBypassSrc, 1, 1, .ro, 0x0⟩
def prtBypassSrcNoLast : Fld := ⟨.prtBypassSrc, 0, 0, .ro, 0x1⟩
def rteStatusRouteEpoch : Fld := ⟨.rteStatus, 63, 32, .ro, 0x0⟩
def rteStatusBank1State : Fld := ⟨.rteStatus, 7, 5, .ro, 0x0⟩
def rteStatusBank0State : Fld := ⟨.rteStatus, 4, 2, .ro, 0x0⟩
def rteStatusFlipping : Fld := ⟨.rteStatus, 1, 1, .ro, 0x0⟩
def rteStatusActiveBank : Fld := ⟨.rteStatus, 0, 0, .ro, 0x0⟩
def rteStatNoRoute : Fld := ⟨.rteStat, 63, 32, .rc, 0x0⟩
def rteStatFlips : Fld := ⟨.rteStat, 31, 16, .rc, 0x0⟩
def rteStatAborts : Fld := ⟨.rteStat, 15, 0, .rc, 0x0⟩
def rteFwdStatForwarded : Fld := ⟨.rteFwdStat, 63, 32, .rc, 0x0⟩
def rteFwdStatDirDrop : Fld := ⟨.rteFwdStat, 31, 16, .rc, 0x0⟩
def rteFwdStatDatelineDrop : Fld := ⟨.rteFwdStat, 15, 0, .rc, 0x0⟩
def rteChainValid : Fld := ⟨.rteChain, 31, 31, .ro, 0x0⟩
def rteChainPos : Fld := ⟨.rteChain, 29, 24, .ro, 0x0⟩
def rteChainDir : Fld := ⟨.rteChain, 17, 16, .ro, 0x0⟩
def slcBindPasidValid : Fld := ⟨.slcBind, 33, 33, .ro, 0x0⟩
def slcBindPasid : Fld := ⟨.slcBind, 32, 13, .ro, 0x0⟩
def slcBindFunction : Fld := ⟨.slcBind, 12, 5, .ro, 0x0⟩
def slcBindPort : Fld := ⟨.slcBind, 4, 4, .ro, 0x0⟩
def slcBindState : Fld := ⟨.slcBind, 2, 0, .ro, 0x0⟩
def slcStatusLastCause : Fld := ⟨.slcStatus, 31, 24, .ro, 0x0⟩
def slcStatusLogging : Fld := ⟨.slcStatus, 16, 16, .ro, 0x0⟩
def slcStatusGeneration : Fld := ⟨.slcStatus, 15, 0, .ro, 0x0⟩
def slcHeartbeatValue : Fld := ⟨.slcHeartbeat, 63, 0, .rw, 0x0⟩
def slcHbCtrlArmed : Fld := ⟨.slcHbCtrl, 17, 17, .ro, 0x0⟩
def slcHbCtrlPeriodMs : Fld := ⟨.slcHbCtrl, 15, 0, .rw, 0x3e8⟩
def slcStaleStatRequests : Fld := ⟨.slcStaleStat, 63, 32, .rc, 0x0⟩
def slcStaleStatCompletions : Fld := ⟨.slcStaleStat, 31, 16, .rc, 0x0⟩
def slcStaleStatLaceChanges : Fld := ⟨.slcStaleStat, 15, 0, .rc, 0x0⟩
def gblHostStatusLinkDowns : Fld := ⟨.gblHostStatus, 63, 48, .rc, 0x0⟩
def gblHostStatusRetrains : Fld := ⟨.gblHostStatus, 47, 32, .rc, 0x0⟩
def gblHostStatusIdeSecure : Fld := ⟨.gblHostStatus, 23, 20, .ro, 0x0⟩
def gblHostStatusFlit : Fld := ⟨.gblHostStatus, 18, 18, .ro, 0x0⟩
def gblHostStatusSpeed : Fld := ⟨.gblHostStatus, 17, 16, .ro, 0x0⟩
def gblHostStatusWidth : Fld := ⟨.gblHostStatus, 15, 11, .ro, 0x0⟩
def gblHostStatusLastDown : Fld := ⟨.gblHostStatus, 10, 8, .ro, 0x0⟩
def gblHostStatusSliceZero : Fld := ⟨.gblHostStatus, 1, 1, .ro, 0x0⟩
def gblHostStatusLinkUp : Fld := ⟨.gblHostStatus, 0, 0, .ro, 0x0⟩
def gblHostIdeCtrlRequired : Fld := ⟨.gblHostIdeCtrl, 0, 0, .rw, 0x0⟩
def slcHostStatP2pBlocked : Fld := ⟨.slcHostStat, 63, 48, .rc, 0x0⟩
def slcHostStatLinkDownOps : Fld := ⟨.slcHostStat, 47, 32, .rc, 0x0⟩
def slcHostStatCplTimeouts : Fld := ⟨.slcHostStat, 31, 16, .rc, 0x0⟩
def slcHostStatMsixDropped : Fld := ⟨.slcHostStat, 15, 0, .rc, 0x0⟩
def secCipherStatGuardFaults : Fld := ⟨.secCipherStat, 63, 48, .rc, 0x0⟩
def secCipherStatStreamFaults : Fld := ⟨.secCipherStat, 47, 32, .rc, 0x0⟩
def secCipherStatStreamOut : Fld := ⟨.secCipherStat, 31, 16, .ro, 0x0⟩
def secCipherStatDrbgHalted : Fld := ⟨.secCipherStat, 8, 8, .ro, 0x0⟩
def secCipherStatGuardOut : Fld := ⟨.secCipherStat, 3, 0, .ro, 0x0⟩
def cluSceStatAwlLoads : Fld := ⟨.cluSceStat, 63, 32, .rc, 0x0⟩
def cluSceStatRecomputes : Fld := ⟨.cluSceStat, 31, 16, .rc, 0x0⟩
def cluSceStatInvDrop : Fld := ⟨.cluSceStat, 15, 0, .rc, 0x0⟩
def slcKeyStatStreamQuota : Fld := ⟨.slcKeyStat, 63, 47, .ro, 0x0⟩
def slcKeyStatStreamUsed : Fld := ⟨.slcKeyStat, 46, 30, .ro, 0x0⟩
def slcKeyStatGuardQuota : Fld := ⟨.slcKeyStat, 29, 21, .ro, 0x0⟩
def slcKeyStatGuardUsed : Fld := ⟨.slcKeyStat, 20, 12, .ro, 0x0⟩
def slcCheckSelOwned : Fld := ⟨.slcCheckSel, 15, 15, .ro, 0x0⟩
def slcCheckSelInvalid : Fld := ⟨.slcCheckSel, 14, 14, .ro, 0x0⟩
def slcCheckSelAlgorithm : Fld := ⟨.slcCheckSel, 9, 8, .rw, 0x0⟩
def slcCheckSelCluster : Fld := ⟨.slcCheckSel, 2, 0, .rw, 0x0⟩
def slcCheckValValue : Fld := ⟨.slcCheckVal, 63, 0, .rw, 0x0⟩
def cluChkStatScans : Fld := ⟨.cluChkStat, 63, 32, .rc, 0x0⟩
def cluChkStatMismatches : Fld := ⟨.cluChkStat, 31, 16, .rc, 0x0⟩
def cluChkStatAliveRepeat : Fld := ⟨.cluChkStat, 15, 8, .rc, 0x0⟩
def cluChkStatAliveGap : Fld := ⟨.cluChkStat, 7, 0, .rc, 0x0⟩
def secBootStatusFailReason : Fld := ⟨.secBootStatus, 39, 32, .ro, 0x0⟩
def secBootStatusFailObject : Fld := ⟨.secBootStatus, 27, 24, .ro, 0x0⟩
def secBootStatusFwFallback : Fld := ⟨.secBootStatus, 11, 11, .ro, 0x0⟩
def secBootStatusStageFallback : Fld := ⟨.secBootStatus, 10, 10, .ro, 0x0⟩
def secBootStatusLifecycle : Fld := ⟨.secBootStatus, 9, 8, .ro, 0x1⟩
def secBootStatusStage : Fld := ⟨.secBootStatus, 3, 0, .ro, 0x0⟩
def secRollbackLastVersion : Fld := ⟨.secRollback, 23, 16, .ro, 0x0⟩
def secRollbackFwVersion : Fld := ⟨.secRollback, 15, 8, .ro, 0x0⟩
def secRollbackStageVersion : Fld := ⟨.secRollback, 7, 0, .ro, 0x0⟩
def secLmsStatTopNext : Fld := ⟨.secLmsStat, 44, 24, .ro, 0x0⟩
def secLmsStatRefused : Fld := ⟨.secLmsStat, 12, 12, .ro, 0x0⟩
def secLmsStatBottomReady : Fld := ⟨.secLmsStat, 11, 11, .ro, 0x0⟩
def secLmsStatBottomUsed : Fld := ⟨.secLmsStat, 10, 0, .ro, 0x0⟩
def secOwnerSpareKey : Fld := ⟨.secOwner, 3, 3, .ro, 0x0⟩
def secOwnerOwnerBank : Fld := ⟨.secOwner, 2, 0, .ro, 0x0⟩
def fwmStatusWindowLeftS : Fld := ⟨.fwmStatus, 40, 32, .ro, 0x0⟩
def fwmStatusLastFailure : Fld := ⟨.fwmStatus, 31, 24, .ro, 0x0⟩
def fwmStatusEmergency : Fld := ⟨.fwmStatus, 19, 19, .ro, 0x0⟩
def fwmStatusResetPath : Fld := ⟨.fwmStatus, 18, 18, .ro, 0x0⟩
def fwmStatusRunningSlot : Fld := ⟨.fwmStatus, 17, 17, .ro, 0x0⟩
def fwmStatusBootSlot : Fld := ⟨.fwmStatus, 16, 16, .ro, 0x0⟩
def fwmStatusUpdateState : Fld := ⟨.fwmStatus, 3, 0, .ro, 0x0⟩
def fwmImageMbxMajor : Fld := ⟨.fwmImage, 31, 24, .ro, 0x2⟩
def fwmImageMbxMinor : Fld := ⟨.fwmImage, 23, 16, .ro, 0x0⟩
def fwmImageInactiveSecVersion : Fld := ⟨.fwmImage, 15, 8, .ro, 0x0⟩
def fwmImageRunningSecVersion : Fld := ⟨.fwmImage, 7, 0, .ro, 0x0⟩
def fwmLoadSecurityPct : Fld := ⟨.fwmLoad, 63, 56, .ro, 0x0⟩
def fwmLoadSchedulerPct : Fld := ⟨.fwmLoad, 55, 48, .ro, 0x0⟩
def fwmLoadPowerPct : Fld := ⟨.fwmLoad, 47, 40, .ro, 0x0⟩
def fwmLoadControlMaxPct : Fld := ⟨.fwmLoad, 39, 32, .ro, 0x0⟩
def fwmLoadControlMaxCore : Fld := ⟨.fwmLoad, 31, 29, .ro, 0x0⟩
def fwmLoadMbxOutstanding : Fld := ⟨.fwmLoad, 28, 16, .ro, 0x0⟩
def fwmLoadDeferredStarts : Fld := ⟨.fwmLoad, 15, 0, .rc, 0x0⟩
def fwmStatFwResets : Fld := ⟨.fwmStat, 63, 48, .rc, 0x0⟩
def fwmStatFallbacks : Fld := ⟨.fwmStat, 47, 32, .rc, 0x0⟩
def fwmStatBusyAnswers : Fld := ⟨.fwmStat, 31, 16, .rc, 0x0⟩
def fwmStatCrcRejects : Fld := ⟨.fwmStat, 15, 0, .rc, 0x0⟩
def slcMbxReqBaseIova : Fld := ⟨.slcMbxReqBase, 63, 12, .rw, 0x0⟩
def slcMbxRspBaseIova : Fld := ⟨.slcMbxRspBase, 63, 12, .rw, 0x0⟩
def slcMbxCtrlVector : Fld := ⟨.slcMbxCtrl, 28, 18, .rw, 0x0⟩
def slcMbxCtrlIntEnable : Fld := ⟨.slcMbxCtrl, 17, 17, .rw, 0x0⟩
def slcMbxCtrlRspLog : Fld := ⟨.slcMbxCtrl, 8, 5, .rw, 0x3⟩
def slcMbxCtrlReqLog : Fld := ⟨.slcMbxCtrl, 4, 1, .rw, 0x3⟩
def slcMbxCtrlEnable : Fld := ⟨.slcMbxCtrl, 0, 0, .rw, 0x0⟩
def slcMbxDbCount : Fld := ⟨.slcMbxDb, 31, 0, .wo, 0x0⟩
def slcMbxStatReqConsumed : Fld := ⟨.slcMbxStat, 63, 32, .ro, 0x0⟩
def slcMbxStatOutstanding : Fld := ⟨.slcMbxStat, 7, 4, .ro, 0x0⟩
def slcMbxStatFault : Fld := ⟨.slcMbxStat, 2, 2, .ro, 0x0⟩
def slcMbxStatIdle : Fld := ⟨.slcMbxStat, 1, 1, .ro, 0x1⟩
def pwrStatusWasShutdown : Fld := ⟨.pwrStatus, 63, 63, .rc, 0x0⟩
def pwrStatusThermalState : Fld := ⟨.pwrStatus, 59, 57, .ro, 0x0⟩
def pwrStatusArithClock : Fld := ⟨.pwrStatus, 56, 55, .ro, 0x0⟩
def pwrStatusMemCapPct : Fld := ⟨.pwrStatus, 54, 48, .ro, 0x64⟩
def pwrStatusBrake : Fld := ⟨.pwrStatus, 47, 47, .ro, 0x0⟩
def pwrStatusCapUnmet : Fld := ⟨.pwrStatus, 46, 46, .ro, 0x0⟩
def pwrStatusCapStep : Fld := ⟨.pwrStatus, 45, 43, .ro, 0x0⟩
def pwrStatusLimitW : Fld := ⟨.pwrStatus, 42, 33, .ro, 0x320⟩
def pwrStatusInputW : Fld := ⟨.pwrStatus, 32, 23, .ro, 0x0⟩
def pwrStatusHbmC : Fld := ⟨.pwrStatus, 15, 8, .ro, 0x0⟩
def pwrStatusJunctionC : Fld := ⟨.pwrStatus, 7, 0, .ro, 0x0⟩
def pwrCtrlBrakeMemPct : Fld := ⟨.pwrCtrl, 24, 18, .rw, 0x32⟩
def pwrCtrlDeepIdleUs : Fld := ⟨.pwrCtrl, 17, 8, .rw, 0x32⟩
def pwrCtrlLightIdle : Fld := ⟨.pwrCtrl, 7, 0, .rw, 0x20⟩
def pwrStatThermalSteps : Fld := ⟨.pwrStat, 63, 48, .rc, 0x0⟩
def pwrStatCapSteps : Fld := ⟨.pwrStat, 47, 32, .rc, 0x0⟩
def pwrStatBrakes : Fld := ⟨.pwrStat, 31, 16, .rc, 0x0⟩
def pwrStatSleepAborts : Fld := ⟨.pwrStat, 15, 0, .rc, 0x0⟩
def timNowNs : Fld := ⟨.timNow, 63, 0, .ro, 0x0⟩
def timCtrlPpsWidthMs : Fld := ⟨.timCtrl, 27, 20, .rw, 0x64⟩
def timCtrlSlewPpm : Fld := ⟨.timCtrl, 19, 10, .rw, 0x64⟩
def timCtrlPpsOutEnable : Fld := ⟨.timCtrl, 3, 3, .rw, 0x1⟩
def timCtrlSource : Fld := ⟨.timCtrl, 2, 0, .rw, 0x0⟩
def timFreqAdjust : Fld := ⟨.timFreq, 31, 0, .rw, 0x0⟩
def timSlewOffsetNs : Fld := ⟨.timSlew, 63, 0, .wo, 0x0⟩
def timSetNs : Fld := ⟨.timSet, 63, 0, .wo, 0x0⟩
def timPpsCapNs : Fld := ⟨.timPpsCap, 63, 0, .ro, 0x0⟩
def timStatusOffsetNs : Fld := ⟨.timStatus, 63, 32, .ro, 0x0⟩
def timStatusSetRefused : Fld := ⟨.timStatus, 31, 16, .rc, 0x0⟩
def timStatusHoldover : Fld := ⟨.timStatus, 1, 1, .ro, 0x0⟩
def timStatusSlewing : Fld := ⟨.timStatus, 0, 0, .ro, 0x0⟩
def slcTimerSelIndex : Fld := ⟨.slcTimerSel, 11, 0, .rw, 0x0⟩
def slcTimerDeadlineNs : Fld := ⟨.slcTimerDeadline, 63, 0, .rw, 0x0⟩
def slcTimerCfgPeriodNs : Fld := ⟨.slcTimerCfg, 63, 32, .rw, 0x0⟩
def slcTimerCfgCounter : Fld := ⟨.slcTimerCfg, 17, 0, .rw, 0x0⟩
def pwrGpioOut : Fld := ⟨.pwrGpio, 15, 8, .rw, 0x0⟩
def pwrGpioIn : Fld := ⟨.pwrGpio, 7, 0, .ro, 0x0⟩
def pwrPinFaultCount : Fld := ⟨.pwrPinFault, 31, 16, .rc, 0x0⟩
def pwrPinFaultShorted : Fld := ⟨.pwrPinFault, 9, 0, .ro, 0x0⟩
def pwrPinCapNs : Fld := ⟨.pwrPinCap, 63, 0, .ro, 0x0⟩
def gblIdentRevision : Fld := ⟨.gblIdent, 39, 32, .ro, 0x0⟩
def gblIdentTarget : Fld := ⟨.gblIdent, 31, 0, .ro, 0x72400b0⟩
def gblCapMbxFormat2 : Fld := ⟨.gblCap, 7, 7, .ro, 0x1⟩
def gblCapStreamCipher : Fld := ⟨.gblCap, 6, 6, .ro, 0x1⟩
def gblCapChainRing : Fld := ⟨.gblCap, 5, 5, .ro, 0x1⟩
def gblCapFarTier : Fld := ⟨.gblCap, 4, 4, .ro, 0x1⟩
def gblCapLowRank : Fld := ⟨.gblCap, 3, 3, .ro, 0x1⟩
def gblCapCrossCompress : Fld := ⟨.gblCap, 2, 2, .ro, 0x1⟩
def gblCapGatherMultiply : Fld := ⟨.gblCap, 1, 1, .ro, 0x1⟩
def gblCapServices : Fld := ⟨.gblCap, 0, 0, .ro, 0x1⟩
def prtCounterCount : Fld := ⟨.prtCounter, 63, 0, .rc, 0x0⟩
end Fld

def Reg.place : Reg → Place
  | .gblContract => ⟨.device, 0x8, 32, 1, 8⟩
  | .gblRole => ⟨.device, 0x88, 64, 1, 8⟩
  | .gblClusterState => ⟨.device, 0x80, 32, 1, 8⟩
  | .lstStatus => ⟨.device, 0x40000, 32, 1, 8⟩
  | .lstSerial => ⟨.device, 0x40008, 64, 1, 8⟩
  | .lstReject => ⟨.device, 0x40010, 32, 1, 8⟩
  | .lstPoolMap => ⟨.device, 0x40018, 64, 1, 8⟩
  | .gblCoord => ⟨.device, 0x90, 32, 1, 8⟩
  | .slcEyeletCtrl => ⟨.slice, 0x400, 32, 1, 8⟩
  | .slcEyeletErr => ⟨.slice, 0x408, 32, 1, 8⟩
  | .xltFaultCtrl => ⟨.slice, 0x500, 64, 1, 8⟩
  | .xltFaultStat => ⟨.slice, 0x508, 64, 1, 8⟩
  | .xltRangeStat => ⟨.slice, 0x510, 64, 1, 8⟩
  | .cluXltStat => ⟨.cluster, 0x2000, 64, 1, 8⟩
  | .qdbDoorbell => ⟨.queue, 0x0, 64, 1, 8⟩
  | .qdbCtrl => ⟨.queue, 0x8, 32, 1, 8⟩
  | .qdbStatus => ⟨.queue, 0x10, 64, 1, 8⟩
  | .slcQueueStat => ⟨.slice, 0x600, 64, 1, 8⟩
  | .slcLaceSel => ⟨.slice, 0x608, 32, 1, 8⟩
  | .slcLaceVal => ⟨.slice, 0x610, 64, 1, 8⟩
  | .slcEvqStat => ⟨.slice, 0x618, 32, 1, 8⟩
  | .slcRmaStat => ⟨.slice, 0x700, 64, 1, 8⟩
  | .slcTenantTag => ⟨.slice, 0x708, 32, 1, 8⟩
  | .gblCyqPort => ⟨.device, 0x98, 32, 1, 8⟩
  | .cluCyqCtrl => ⟨.cluster, 0x3000, 64, 1, 8⟩
  | .cluCyqStat0 => ⟨.cluster, 0x3008, 64, 1, 8⟩
  | .cluCyqStat1 => ⟨.cluster, 0x3010, 64, 1, 8⟩
  | .cluCyqStat2 => ⟨.cluster, 0x3018, 64, 1, 8⟩
  | .slcConnStat => ⟨.slice, 0x800, 64, 1, 8⟩
  | .slcConnNear => ⟨.slice, 0x808, 64, 1, 8⟩
  | .cluCcCtrl => ⟨.cluster, 0x3100, 64, 1, 8⟩
  | .cluCcStat => ⟨.cluster, 0x3108, 64, 1, 8⟩
  | .rteSbt => ⟨.device, 0x700000, 64, 16, 0x8⟩
  | .prtThrottleStat => ⟨.port, 0xc020, 64, 1, 8⟩
  | .prtSchedCtrl => ⟨.port, 0xc000, 32, 1, 8⟩
  | .prtSchedQuantum => ⟨.port, 0xc008, 64, 1, 8⟩
  | .prtC7Stat => ⟨.port, 0xc028, 64, 1, 8⟩
  | .memArbRank => ⟨.device, 0x40f000, 32, 1, 8⟩
  | .memArbCommit => ⟨.device, 0x40f008, 32, 1, 8⟩
  | .prtArbRank => ⟨.port, 0xc010, 32, 1, 8⟩
  | .prtSchedCommit => ⟨.port, 0xc018, 32, 1, 8⟩
  | .slcCollStat => ⟨.slice, 0x900, 64, 1, 8⟩
  | .cluCollStat => ⟨.cluster, 0x4000, 64, 1, 8⟩
  | .slcArithCtrl => ⟨.slice, 0xa00, 32, 1, 8⟩
  | .cluArithStat => ⟨.cluster, 0x5000, 64, 1, 8⟩
  | .cluSvcStat => ⟨.cluster, 0x6000, 64, 1, 8⟩
  | .slcSvcStat => ⟨.slice, 0xb00, 64, 1, 8⟩
  | .memEccStat => ⟨.device, 0x400000, 64, 6, 0x8⟩
  | .memScrubCtrl => ⟨.device, 0x400100, 32, 1, 8⟩
  | .memScrubStat => ⟨.device, 0x400108, 64, 1, 8⟩
  | .memCeCtrl => ⟨.device, 0x400110, 32, 1, 8⟩
  | .memErrlogStat => ⟨.device, 0x400200, 32, 1, 8⟩
  | .memErrlogSel => ⟨.device, 0x400208, 32, 1, 8⟩
  | .memErrlogData0 => ⟨.device, 0x400210, 64, 1, 8⟩
  | .memErrlogData1 => ⟨.device, 0x400218, 64, 1, 8⟩
  | .memReserve => ⟨.device, 0x400300, 64, 1, 8⟩
  | .memFarPort => ⟨.device, 0x401000, 64, 2, 0x100⟩
  | .memFarCap => ⟨.device, 0x401200, 32, 1, 8⟩
  | .prtStatus => ⟨.port, 0x0, 32, 1, 8⟩
  | .prtLinkCtrl => ⟨.port, 0x8, 32, 1, 8⟩
  | .prtMacAddr => ⟨.port, 0x10, 64, 1, 8⟩
  | .prtVlan => ⟨.port, 0x18, 32, 1, 8⟩
  | .prtLaneStat => ⟨.port, 0x20, 64, 1, 8⟩
  | .prtPfcCtrl => ⟨.port, 0x100, 64, 1, 8⟩
  | .prtPfcStat => ⟨.port, 0x108, 32, 1, 8⟩
  | .prtWeltStat => ⟨.port, 0x200, 64, 1, 8⟩
  | .prtWeltPeer => ⟨.port, 0x208, 32, 1, 8⟩
  | .prtChainCredit => ⟨.port, 0x300, 64, 1, 8⟩
  | .prtBypassSrc => ⟨.port, 0x310, 32, 1, 8⟩
  | .rteStatus => ⟨.device, 0x600000, 64, 1, 8⟩
  | .rteStat => ⟨.device, 0x600008, 64, 1, 8⟩
  | .rteFwdStat => ⟨.device, 0x600010, 64, 1, 8⟩
  | .rteChain => ⟨.device, 0x601000, 32, 128, 0x4⟩
  | .slcBind => ⟨.slice, 0x0, 64, 1, 8⟩
  | .slcStatus => ⟨.slice, 0x8, 32, 1, 8⟩
  | .slcHeartbeat => ⟨.slice, 0x10, 64, 1, 8⟩
  | .slcHbCtrl => ⟨.slice, 0x18, 32, 1, 8⟩
  | .slcStaleStat => ⟨.slice, 0x20, 64, 1, 8⟩
  | .gblHostStatus => ⟨.device, 0x100, 64, 2, 0x10⟩
  | .gblHostIdeCtrl => ⟨.device, 0x108, 32, 2, 0x10⟩
  | .slcHostStat => ⟨.slice, 0xc00, 64, 1, 8⟩
  | .secCipherStat => ⟨.device, 0x140100, 64, 1, 8⟩
  | .cluSceStat => ⟨.cluster, 0x7000, 64, 1, 8⟩
  | .slcKeyStat => ⟨.slice, 0xd00, 64, 1, 8⟩
  | .slcCheckSel => ⟨.slice, 0xe00, 32, 1, 8⟩
  | .slcCheckVal => ⟨.slice, 0xe08, 64, 1, 8⟩
  | .cluChkStat => ⟨.cluster, 0x8000, 64, 1, 8⟩
  | .secBootStatus => ⟨.device, 0x140000, 64, 1, 8⟩
  | .secRollback => ⟨.device, 0x140008, 32, 1, 8⟩
  | .secLmsStat => ⟨.device, 0x140010, 64, 1, 8⟩
  | .secOwner => ⟨.device, 0x140018, 32, 1, 8⟩
  | .fwmStatus => ⟨.device, 0x80000, 64, 1, 8⟩
  | .fwmImage => ⟨.device, 0x80008, 32, 1, 8⟩
  | .fwmLoad => ⟨.device, 0x80010, 64, 1, 8⟩
  | .fwmStat => ⟨.device, 0x80018, 64, 1, 8⟩
  | .slcMbxReqBase => ⟨.slice, 0xf00, 64, 1, 8⟩
  | .slcMbxRspBase => ⟨.slice, 0xf08, 64, 1, 8⟩
  | .slcMbxCtrl => ⟨.slice, 0xf10, 32, 1, 8⟩
  | .slcMbxDb => ⟨.slice, 0xf18, 32, 1, 8⟩
  | .slcMbxStat => ⟨.slice, 0xf20, 64, 1, 8⟩
  | .pwrStatus => ⟨.device, 0xc0000, 64, 1, 8⟩
  | .pwrCtrl => ⟨.device, 0xc0008, 32, 1, 8⟩
  | .pwrStat => ⟨.device, 0xc0010, 64, 1, 8⟩
  | .timNow => ⟨.device, 0x100000, 64, 1, 8⟩
  | .timCtrl => ⟨.device, 0x100008, 32, 1, 8⟩
  | .timFreq => ⟨.device, 0x100010, 32, 1, 8⟩
  | .timSlew => ⟨.device, 0x100018, 64, 1, 8⟩
  | .timSet => ⟨.device, 0x100020, 64, 1, 8⟩
  | .timPpsCap => ⟨.device, 0x100028, 64, 1, 8⟩
  | .timStatus => ⟨.device, 0x100030, 64, 1, 8⟩
  | .slcTimerSel => ⟨.slice, 0x1000, 32, 1, 8⟩
  | .slcTimerDeadline => ⟨.slice, 0x1008, 64, 1, 8⟩
  | .slcTimerCfg => ⟨.slice, 0x1010, 64, 1, 8⟩
  | .pwrGpio => ⟨.device, 0xc0100, 32, 1, 8⟩
  | .pwrPinFault => ⟨.device, 0xc0108, 32, 1, 8⟩
  | .pwrPinCap => ⟨.device, 0xc0140, 64, 8, 0x8⟩
  | .gblIdent => ⟨.device, 0x0, 64, 1, 8⟩
  | .gblCap => ⟨.device, 0x40, 64, 8, 0x8⟩
  | .prtCounter => ⟨.port, 0x8000, 64, 36, 0x8⟩

def Reg.fields : Reg → List Fld
  | .gblContract => [.gblContractMajor, .gblContractMinor]
  | .gblRole => [.gblRoleRoleEpoch, .gblRoleRole]
  | .gblClusterState => [.gblClusterStateArithOut, .gblClusterStateSleep]
  | .lstStatus => [.lstStatusFallback, .lstStatusActivating, .lstStatusInactiveState, .lstStatusActiveSlot, .lstStatusCheckMode, .lstStatusState]
  | .lstSerial => [.lstSerialSerial]
  | .lstReject => [.lstRejectReason, .lstRejectSection, .lstRejectRecord]
  | .lstPoolMap => [.lstPoolMapScratch, .lstPoolMapCheck, .lstPoolMapWelt, .lstPoolMapPortBuf, .lstPoolMapParking, .lstPoolMapReduction, .lstPoolMapConnCache]
  | .gblCoord => [.gblCoordSite, .gblCoordHall, .gblCoordGroup, .gblCoordNode]
  | .slcEyeletCtrl => [.slcEyeletCtrlLoadLimitUs]
  | .slcEyeletErr => [.slcEyeletErrCaCount, .slcEyeletErrUrCount]
  | .xltFaultCtrl => [.xltFaultCtrlRetryAfterUs, .xltFaultCtrlQuotaMax, .xltFaultCtrlWaitLimitMs]
  | .xltFaultStat => [.xltFaultStatStray, .xltFaultStatDenied, .xltFaultStatTimeouts, .xltFaultStatStalled, .xltFaultStatInUse]
  | .xltRangeStat => [.xltRangeStatQuota, .xltRangeStatUsed]
  | .cluXltStat => [.cluXltStatHits, .cluXltStatMisses]
  | .qdbDoorbell => [.qdbDoorbellArm, .qdbDoorbellCount]
  | .qdbCtrl => [.qdbCtrlResume, .qdbCtrlEnable]
  | .qdbStatus => [.qdbStatusHead, .qdbStatusLastStatus, .qdbStatusStarted, .qdbStatusIdle, .qdbStatusState]
  | .slcQueueStat => [.slcQueueStatQuota, .slcQueueStatUsed]
  | .slcLaceSel => [.slcLaceSelIndex]
  | .slcLaceVal => [.slcLaceValValue]
  | .slcEvqStat => [.slcEvqStatLost]
  | .slcRmaStat => [.slcRmaStatViolIn, .slcRmaStatTagDrop, .slcRmaStatRevoked, .slcRmaStatRecordLost, .slcRmaStatFlushFail]
  | .slcTenantTag => [.slcTenantTagTag]
  | .gblCyqPort => [.gblCyqPortUdpPort]
  | .cluCyqCtrl => [.cluCyqCtrlReorderUs, .cluCyqCtrlAckEvery, .cluCyqCtrlAckDelayUs, .cluCyqCtrlParkHighPct, .cluCyqCtrlCtxMissRetryUs]
  | .cluCyqStat0 => [.cluCyqStat0Retransmits, .cluCyqStat0RtoExpiries, .cluCyqStat0Failed]
  | .cluCyqStat1 => [.cluCyqStat1CrcDrop, .cluCyqStat1WindowDrop, .cluCyqStat1StaleDrop, .cluCyqStat1DupDrop]
  | .cluCyqStat2 => [.cluCyqStat2Parked, .cluCyqStat2CtxMissNak, .cluCyqStat2AuthDrop, .cluCyqStat2FormatDrop]
  | .slcConnStat => [.slcConnStatQuota, .slcConnStatUsed]
  | .slcConnNear => [.slcConnNearAllow, .slcConnNearInNear]
  | .cluCcCtrl => [.cluCcCtrlInitGBs, .cluCcCtrlEcnEnable, .cluCcCtrlEcnBeta, .cluCcCtrlBeta, .cluCcCtrlAiKiB, .cluCcCtrlTargetQueueUs]
  | .cluCcStat => [.cluCcStatDelayCuts, .cluCcStatEcnCuts, .cluCcStatTimerCuts]
  | .rteSbt => [.rteSbtValid, .rteSbtSource, .rteSbtBaseRttNs]
  | .prtThrottleStat => [.prtThrottleStatLevelChanges, .prtThrottleStatAllowKiB, .prtThrottleStatDepthPct, .prtThrottleStatLevel]
  | .prtSchedCtrl => [.prtSchedCtrlOverheadB, .prtSchedCtrlBurstKiB]
  | .prtSchedQuantum => [.prtSchedQuantumQuantumC0, .prtSchedQuantumQuantumC1, .prtSchedQuantumQuantumC2, .prtSchedQuantumQuantumC3, .prtSchedQuantumQuantumC4, .prtSchedQuantumQuantumC5, .prtSchedQuantumQuantumC6]
  | .prtC7Stat => [.prtC7StatCapPct, .prtC7StatOverCap, .prtC7StatAckReplaced]
  | .memArbRank => [.memArbRankAgeGrants, .memArbRankHousekeeping, .memArbRankCluster, .memArbRankEdge]
  | .memArbCommit => [.memArbCommitCommit]
  | .prtArbRank => [.prtArbRankAgeGrants, .prtArbRankScheduled, .prtArbRankWeltReplay, .prtArbRankClass7, .prtArbRankMacControl]
  | .prtSchedCommit => [.prtSchedCommitCommit]
  | .slcCollStat => [.slcCollStatGroupQuota, .slcCollStatGroupsUsed, .slcCollStatSlotsReserved]
  | .cluCollStat => [.cluCollStatMismatches, .cluCollStatStalls, .cluCollStatAborts, .cluCollStatNoCredit]
  | .slcArithCtrl => [.slcArithCtrlFp8Sat]
  | .cluArithStat => [.cluArithStatRecomputes, .cluArithStatLastUnit, .cluArithStatOut]
  | .cluSvcStat => [.cluSvcStatPiecesDone, .cluSvcStatGateWaits, .cluSvcStatScratchUnits]
  | .slcSvcStat => [.slcSvcStatDeferred, .slcSvcStatOutstanding, .slcSvcStatCompleted]
  | .memEccStat => [.memEccStatCorrected, .memEccStatUncorrectable, .memEccStatScrubUe, .memEccStatTransferUe]
  | .memScrubCtrl => [.memScrubCtrlEnable, .memScrubCtrlPeriodHours]
  | .memScrubStat => [.memScrubStatPasses, .memScrubStatProgressPct]
  | .memCeCtrl => [.memCeCtrlStormLimit]
  | .memErrlogStat => [.memErrlogStatLost, .memErrlogStatCount]
  | .memErrlogSel => [.memErrlogSelIndex]
  | .memErrlogData0 => [.memErrlogData0Stamp, .memErrlogData0Stack, .memErrlogData0Channel, .memErrlogData0Kind, .memErrlogData0Source]
  | .memErrlogData1 => [.memErrlogData1Sym0, .memErrlogData1Sym1, .memErrlogData1Offset]
  | .memReserve => [.memReserveBase]
  | .memFarPort => [.memFarPortLinkUp, .memFarPortInService, .memFarPortLanes, .memFarPortDevices, .memFarPortWays, .memFarPortBaseGiB, .memFarPortDecodedGiB]
  | .memFarCap => [.memFarCapDecodedGiB]
  | .prtStatus => [.prtStatusWireFault, .prtStatusWeltActive, .prtStatusBypass, .prtStatusInterface, .prtStatusLinkUp, .prtStatusEnabled]
  | .prtLinkCtrl => [.prtLinkCtrlInterface, .prtLinkCtrlRetrain, .prtLinkCtrlForceDown]
  | .prtMacAddr => [.prtMacAddrMac]
  | .prtVlan => [.prtVlanTagEnable, .prtVlanVlanId]
  | .prtLaneStat => [.prtLaneStatLaneMap, .prtLaneStatPolarityInv]
  | .prtPfcCtrl => [.prtPfcCtrlRxHoldKiB, .prtPfcCtrlRefreshUs, .prtPfcCtrlXonKiB, .prtPfcCtrlXoffKiB]
  | .prtPfcStat => [.prtPfcStatPausedTx, .prtPfcStatXoffSent]
  | .prtWeltStat => [.prtWeltStatRttNs, .prtWeltStatMeasuredM]
  | .prtWeltPeer => [.prtWeltPeerValid, .prtWeltPeerPeerPort, .prtWeltPeerPeerCoord]
  | .prtChainCredit => [.prtChainCreditVl3, .prtChainCreditVl2, .prtChainCreditVl1, .prtChainCreditVl0]
  | .prtBypassSrc => [.prtBypassSrcMailbox, .prtBypassSrcPin, .prtBypassSrcRecord, .prtBypassSrcNoLast]
  | .rteStatus => [.rteStatusRouteEpoch, .rteStatusBank1State, .rteStatusBank0State, .rteStatusFlipping, .rteStatusActiveBank]
  | .rteStat => [.rteStatNoRoute, .rteStatFlips, .rteStatAborts]
  | .rteFwdStat => [.rteFwdStatForwarded, .rteFwdStatDirDrop, .rteFwdStatDatelineDrop]
  | .rteChain => [.rteChainValid, .rteChainPos, .rteChainDir]
  | .slcBind => [.slcBindPasidValid, .slcBindPasid, .slcBindFunction, .slcBindPort, .slcBindState]
  | .slcStatus => [.slcStatusLastCause, .slcStatusLogging, .slcStatusGeneration]
  | .slcHeartbeat => [.slcHeartbeatValue]
  | .slcHbCtrl => [.slcHbCtrlArmed, .slcHbCtrlPeriodMs]
  | .slcStaleStat => [.slcStaleStatRequests, .slcStaleStatCompletions, .slcStaleStatLaceChanges]
  | .gblHostStatus => [.gblHostStatusLinkDowns, .gblHostStatusRetrains, .gblHostStatusIdeSecure, .gblHostStatusFlit, .gblHostStatusSpeed, .gblHostStatusWidth, .gblHostStatusLastDown, .gblHostStatusSliceZero, .gblHostStatusLinkUp]
  | .gblHostIdeCtrl => [.gblHostIdeCtrlRequired]
  | .slcHostStat => [.slcHostStatP2pBlocked, .slcHostStatLinkDownOps, .slcHostStatCplTimeouts, .slcHostStatMsixDropped]
  | .secCipherStat => [.secCipherStatGuardFaults, .secCipherStatStreamFaults, .secCipherStatStreamOut, .secCipherStatDrbgHalted, .secCipherStatGuardOut]
  | .cluSceStat => [.cluSceStatAwlLoads, .cluSceStatRecomputes, .cluSceStatInvDrop]
  | .slcKeyStat => [.slcKeyStatStreamQuota, .slcKeyStatStreamUsed, .slcKeyStatGuardQuota, .slcKeyStatGuardUsed]
  | .slcCheckSel => [.slcCheckSelOwned, .slcCheckSelInvalid, .slcCheckSelAlgorithm, .slcCheckSelCluster]
  | .slcCheckVal => [.slcCheckValValue]
  | .cluChkStat => [.cluChkStatScans, .cluChkStatMismatches, .cluChkStatAliveRepeat, .cluChkStatAliveGap]
  | .secBootStatus => [.secBootStatusFailReason, .secBootStatusFailObject, .secBootStatusFwFallback, .secBootStatusStageFallback, .secBootStatusLifecycle, .secBootStatusStage]
  | .secRollback => [.secRollbackLastVersion, .secRollbackFwVersion, .secRollbackStageVersion]
  | .secLmsStat => [.secLmsStatTopNext, .secLmsStatRefused, .secLmsStatBottomReady, .secLmsStatBottomUsed]
  | .secOwner => [.secOwnerSpareKey, .secOwnerOwnerBank]
  | .fwmStatus => [.fwmStatusWindowLeftS, .fwmStatusLastFailure, .fwmStatusEmergency, .fwmStatusResetPath, .fwmStatusRunningSlot, .fwmStatusBootSlot, .fwmStatusUpdateState]
  | .fwmImage => [.fwmImageMbxMajor, .fwmImageMbxMinor, .fwmImageInactiveSecVersion, .fwmImageRunningSecVersion]
  | .fwmLoad => [.fwmLoadSecurityPct, .fwmLoadSchedulerPct, .fwmLoadPowerPct, .fwmLoadControlMaxPct, .fwmLoadControlMaxCore, .fwmLoadMbxOutstanding, .fwmLoadDeferredStarts]
  | .fwmStat => [.fwmStatFwResets, .fwmStatFallbacks, .fwmStatBusyAnswers, .fwmStatCrcRejects]
  | .slcMbxReqBase => [.slcMbxReqBaseIova]
  | .slcMbxRspBase => [.slcMbxRspBaseIova]
  | .slcMbxCtrl => [.slcMbxCtrlVector, .slcMbxCtrlIntEnable, .slcMbxCtrlRspLog, .slcMbxCtrlReqLog, .slcMbxCtrlEnable]
  | .slcMbxDb => [.slcMbxDbCount]
  | .slcMbxStat => [.slcMbxStatReqConsumed, .slcMbxStatOutstanding, .slcMbxStatFault, .slcMbxStatIdle]
  | .pwrStatus => [.pwrStatusWasShutdown, .pwrStatusThermalState, .pwrStatusArithClock, .pwrStatusMemCapPct, .pwrStatusBrake, .pwrStatusCapUnmet, .pwrStatusCapStep, .pwrStatusLimitW, .pwrStatusInputW, .pwrStatusHbmC, .pwrStatusJunctionC]
  | .pwrCtrl => [.pwrCtrlBrakeMemPct, .pwrCtrlDeepIdleUs, .pwrCtrlLightIdle]
  | .pwrStat => [.pwrStatThermalSteps, .pwrStatCapSteps, .pwrStatBrakes, .pwrStatSleepAborts]
  | .timNow => [.timNowNs]
  | .timCtrl => [.timCtrlPpsWidthMs, .timCtrlSlewPpm, .timCtrlPpsOutEnable, .timCtrlSource]
  | .timFreq => [.timFreqAdjust]
  | .timSlew => [.timSlewOffsetNs]
  | .timSet => [.timSetNs]
  | .timPpsCap => [.timPpsCapNs]
  | .timStatus => [.timStatusOffsetNs, .timStatusSetRefused, .timStatusHoldover, .timStatusSlewing]
  | .slcTimerSel => [.slcTimerSelIndex]
  | .slcTimerDeadline => [.slcTimerDeadlineNs]
  | .slcTimerCfg => [.slcTimerCfgPeriodNs, .slcTimerCfgCounter]
  | .pwrGpio => [.pwrGpioOut, .pwrGpioIn]
  | .pwrPinFault => [.pwrPinFaultCount, .pwrPinFaultShorted]
  | .pwrPinCap => [.pwrPinCapNs]
  | .gblIdent => [.gblIdentRevision, .gblIdentTarget]
  | .gblCap => [.gblCapMbxFormat2, .gblCapStreamCipher, .gblCapChainRing, .gblCapFarTier, .gblCapLowRank, .gblCapCrossCompress, .gblCapGatherMultiply, .gblCapServices]
  | .prtCounter => [.prtCounterCount]

/-- Every register, in the order above. -/
def Reg.all : List Reg :=
  [.gblContract, .gblRole, .gblClusterState, .lstStatus, .lstSerial, .lstReject, .lstPoolMap, .gblCoord,
   .slcEyeletCtrl, .slcEyeletErr, .xltFaultCtrl, .xltFaultStat, .xltRangeStat, .cluXltStat, .qdbDoorbell, .qdbCtrl,
   .qdbStatus, .slcQueueStat, .slcLaceSel, .slcLaceVal, .slcEvqStat, .slcRmaStat, .slcTenantTag, .gblCyqPort,
   .cluCyqCtrl, .cluCyqStat0, .cluCyqStat1, .cluCyqStat2, .slcConnStat, .slcConnNear, .cluCcCtrl, .cluCcStat,
   .rteSbt, .prtThrottleStat, .prtSchedCtrl, .prtSchedQuantum, .prtC7Stat, .memArbRank, .memArbCommit, .prtArbRank,
   .prtSchedCommit, .slcCollStat, .cluCollStat, .slcArithCtrl, .cluArithStat, .cluSvcStat, .slcSvcStat, .memEccStat,
   .memScrubCtrl, .memScrubStat, .memCeCtrl, .memErrlogStat, .memErrlogSel, .memErrlogData0, .memErrlogData1, .memReserve,
   .memFarPort, .memFarCap, .prtStatus, .prtLinkCtrl, .prtMacAddr, .prtVlan, .prtLaneStat, .prtPfcCtrl,
   .prtPfcStat, .prtWeltStat, .prtWeltPeer, .prtChainCredit, .prtBypassSrc, .rteStatus, .rteStat, .rteFwdStat,
   .rteChain, .slcBind, .slcStatus, .slcHeartbeat, .slcHbCtrl, .slcStaleStat, .gblHostStatus, .gblHostIdeCtrl,
   .slcHostStat, .secCipherStat, .cluSceStat, .slcKeyStat, .slcCheckSel, .slcCheckVal, .cluChkStat, .secBootStatus,
   .secRollback, .secLmsStat, .secOwner, .fwmStatus, .fwmImage, .fwmLoad, .fwmStat, .slcMbxReqBase,
   .slcMbxRspBase, .slcMbxCtrl, .slcMbxDb, .slcMbxStat, .pwrStatus, .pwrCtrl, .pwrStat, .timNow,
   .timCtrl, .timFreq, .timSlew, .timSet, .timPpsCap, .timStatus, .slcTimerSel, .slcTimerDeadline,
   .slcTimerCfg, .pwrGpio, .pwrPinFault, .pwrPinCap, .gblIdent, .gblCap, .prtCounter]

/-- The register's number, its place in `Reg.all`. -/
def Reg.code (r : Reg) : Nat := r.ctorIdx

/-- The BAR0 base of a block and the stride of its windows (R533). -/
def Block.base : Block → Nat × Nat × Nat
  | .device => (0, 1, 1)
  | .port => (0x00200000, 0x00010000, 10)
  | .cluster => (0x00800000, 0x00100000, 8)
  | .slice => (0x01000000, 0x00010000, 512)
  | .queue => (0, 0, 0)

/-- The chain-only registers, which a fabric port's window does not hold (R534). -/
def Reg.chainOnly : Reg → Bool
  | .prtChainCredit | .prtBypassSrc => true
  | _ => false

/-- The instance a BAR0 offset selects in a register: window number times the register's own count, plus its own
index. None where the offset is not the register's. -/
def Reg.instanceAt (r : Reg) (off : Nat) : Option Nat :=
  let p := r.place
  let (base, stride, windows) := p.block.base
  let w := (off - base) / stride
  let inner := if p.block = .device then off else (off - base) % stride
  let win := if p.block = .device then 0 else w
  let k := if p.stride = 0 then 0 else (inner - p.offset) / p.stride
  if p.block ≠ .queue ∧ base ≤ off ∧ (p.block = .device ∨ w < windows) ∧ p.offset ≤ inner
      ∧ k < p.count ∧ inner = p.offset + k * p.stride ∧ (r.chainOnly = true → 8 ≤ win) then
    some (win * p.count + k)
  else none

/-- The register at a BAR0 offset, and its instance (R532, R533). -/
def regAt (off : Nat) : Option (Reg × Nat) :=
  Reg.all.findSome? fun r => (r.instanceAt off).map fun k => (r, k)

/-- The reset value of a register's bits (R6). -/
def Reg.resetBits (r : Reg) : Word64 :=
  (r.fields.map fun f => BitVec.ofNat 64 (f.reset * 2 ^ f.lo)).foldl (· ||| ·) 0

/-- The value of bits [hi:lo] of a word. -/
def bitsOf (w : Word64) (hi lo : Nat) : Nat := w.toNat / 2 ^ lo % 2 ^ (hi + 1 - lo)

/-- A word with bits [hi:lo] replaced by `v`. -/
def setBits (w : Word64) (hi lo : Nat) (v : Nat) : Word64 :=
  let span := 2 ^ (hi + 1 - lo)
  BitVec.ofNat 64 (w.toNat - bitsOf w hi lo * 2 ^ lo + v % span * 2 ^ lo)

end Sys2Proof.Machine
end

