-- ==== Sys2Proof/Machine/State/Codes.lean ====
section
/-! DEFINITION. Status codes (R529), event codes (R530) and small name sets the state uses. -/

namespace Sys2Proof.Machine

/-- A status code, as byte 1 of a completion entry carries it (R529). -/
abbrev Status := BitVec 8

namespace Status
def success : Status := 0x00
def descMalformed : Status := 0x01
def descUnsupportedOp : Status := 0x02
def localAccess : Status := 0x03
def remoteAccess : Status := 0x04
def xlateFaultTimeout : Status := 0x05
def xlateDenied : Status := 0x06
def peerUnreachable : Status := 0x07
def connFenced : Status := 0x08
def regionRevoked : Status := 0x09
def hostLinkDown : Status := 0x0A
def memUncorrectable : Status := 0x0B
def residueFault : Status := 0x0C
def collMismatch : Status := 0x0D
def collAborted : Status := 0x0E
def cipherExhausted : Status := 0x0F
def cipherFault : Status := 0x10
def authFail : Status := 0x11
def checkMismatch : Status := 0x12
def aliveRepeat : Status := 0x13
def aliveGap : Status := 0x14
def p2pBlocked : Status := 0x15
def noResources : Status := 0x16
def waitTimeout : Status := 0x17
def remoteSliceGone : Status := 0x18
def fwDeferred : Status := 0x19
def busy : Status := 0x1A
def svcNonfinite : Status := 0x80
def svcStreamHeader : Status := 0x81
def svcStreamShort : Status := 0x82
end Status

/-- An event code, as byte 1 of an event entry carries it (R113, R530). -/
abbrev EventCode := BitVec 8

namespace EventCode
def evqOverflow : EventCode := 0x01
def ringStale : EventCode := 0x02
def ringFault : EventCode := 0x03
def cqFault : EventCode := 0x04
def accessViolation : EventCode := 0x10
def eyeletFail : EventCode := 0x11
def inboundDenied : EventCode := 0x12
def connArrived : EventCode := 0x20
def connFailed : EventCode := 0x21
def connClosed : EventCode := 0x22
def collStall : EventCode := 0x30
def groupBroken : EventCode := 0x31
def arithOut : EventCode := 0x40
def memUe : EventCode := 0x50
def memCeStorm : EventCode := 0x51
def farLink : EventCode := 0x52
def portLink : EventCode := 0x60
def wireFault : EventCode := 0x61
def chainSpan : EventCode := 0x62
def sliceResetDone : EventCode := 0x70
def heartbeatLost : EventCode := 0x71
def connRehomed : EventCode := 0x72
def hostLink : EventCode := 0x80
def p2pRefused : EventCode := 0x81
def cipherWarn : EventCode := 0x90
def cipherOut : EventCode := 0x91
def drbgHalt : EventCode := 0x92
def guardFault : EventCode := 0xA0
def attestLow : EventCode := 0xB0
def fwState : EventCode := 0xC0
def pwrState : EventCode := 0xD0
def timeSource : EventCode := 0xD1
def pinFault : EventCode := 0xE0
end EventCode

/-- An event on its way to its slice's event queue; the fields R113 places in the entry. -/
structure Event where
  slice : Nat
  gen : Nat := 0
  code : EventCode
  status : Status := 0
  cluster : Nat := 0
  object : Nat := 0
  info : Nat := 0
  detail : Nat := 0
deriving DecidableEq, Repr

/-- Where an operation came from. -/
inductive Origin where
  | desc (q : Nat) (count : Word32)   -- a started descriptor
  | eyelet (id : Nat)                 -- an Eyelet access
  | coll (group : Nat) (chunk : Nat)  -- a collective operation's chunk
  | ckpt (q : Nat) (count : Word32) (block : Nat)
  | firmware
deriving DecidableEq, Repr

/-- The work queue whose descriptor an operation serves. -/
def Origin.queue : Origin → Option Nat
  | .desc q _ | .ckpt q _ _ => some q
  | .eyelet _ | .coll _ _ | .firmware => none

end Sys2Proof.Machine
end

