-- ==== Sys2Proof/Machine/State/Access.lean ====
section
/-! DEFINITION. State of range translation (R71 to R91) and of local memory accesses in progress. -/

namespace Sys2Proof.Machine

/-- Tier codes of a Range Map entry (R71). -/
inductive Tier where
  | near | far | hostA | hostB
deriving DecidableEq, Repr

inductive RangeState where
  | free | active | revoking
deriving DecidableEq, Repr

/-- A Range Map entry (R71), named by its slice and its slot in the slice's segment. `pathTag` is the
REGION_REGISTER parameter that names the host path of R138. -/
structure RangeEntry where
  slice : Nat
  slot : Nat
  start : Nat := 0
  length : Nat := 0
  target : Nat := 0
  key : Word32 := 0
  as : Nat := 0
  perm : BitVec 5 := 0
  anyAs : Bool := false
  pinned : Bool := false
  pasid : Option (BitVec 20) := none
  tier : Tier := .near
  state : RangeState := .free
  incarnation : BitVec 8 := 0
  inFlight : Nat := 0
  pathTag : Nat := 0
  revoker : Option (Nat × Word32) := none   -- slice and tag of the REGION_REVOKE that waits (R143)
deriving DecidableEq, Repr

/-- A Range Cache line (R77). -/
inductive CacheLine where
  | range (slice start length slot : Nat) (incarnation : BitVec 8)
  | page (f : Func) (pasid : Option (BitVec 20)) (iova size : Nat) (hpa : Nat) (r w : Bool)
deriving DecidableEq, Repr

/-- What a collective's own access is for: the member table, the count tables, the multiply record, matrix B, the bytes
of an own unit, a result unit, a running sum that an end-point mode member keeps in its receive buffer (R243), rows of C, a piece
flag, and the residual of CrossCompress. -/
inductive CollUse where
  | table
  | counts
  | countsOut
  | record
  | bmat
  | own (unit : Nat)
  | out (unit : Nat)
  | inPlace (unit : Nat)
  | residual
  | rows (block : Nat)
  | flag (piece : Nat)
deriving DecidableEq, Repr

/-- What an access reads or writes for, and so what happens when it ends. -/
inductive AccessUse where
  | fetch (q : Nat) (count : Word32)                      -- a ring entry (R103)
  | entry (cq : Nat)                                      -- a completion or event entry (R110, R113)
  | source (q : Nat) (count : Word32) (at_ : Nat)         -- source bytes of a started descriptor
  | copyRead (q : Nat) (count : Word32) (unit : Nat)      -- R313
  | copyWrite (q : Nat) (count : Word32) (unit : Nat)
  | landing (conn : Nat) (psn : Word32)                   -- READ_RESP and ATOMIC_RESP placement
  | rawBuffer (q : Nat) (count : Word32)                  -- RAW_RECV buffer
  | scanRead (q : Nat) (count : Word32)
  | scanResult (q : Nat) (count : Word32)
  | readServe (conn : Nat) (psn : Word32)                 -- source bytes of a served READ_REQ
  | service (q : Nat) (count : Word32)                    -- a service's read or write
  | svcOut (q : Nat) (count : Word32) (tag : Nat)         -- an output of a service's piece or step
  | piece (group : Nat) (what : CollUse)                  -- a collective's own access
  | eyelet (id : Nat)
  | probe (op : Nat)                                      -- a read segment's landing range (R129)
  | bitmap (slice offset : Nat)                           -- a word of a dirty bitmap (R383): its read, and its write
  | mbx (slice : Nat)                                     -- a mailbox response held for flushes (R466)
  | msix (f : Func) (vector : Nat)                        -- an interrupt message held for flushes (R398)
  | context (conn : Nat)                                  -- a connection context written back (R63, R185, R188)
deriving DecidableEq, Repr

/-- What an access waits for. -/
inductive WaitFor where
  | ats (id : Nat)          -- a translation completion (R80)
  | page (entry : Nat)      -- a Pending Fault Table entry, by its identifier (R84)
  | stalled                 -- room for an entry (R85)
  | hostRead (id : Nat)     -- a PCIe read completion (R402)
  | flush (ids : List Nat)  -- the flushing reads a fenced write waits for (R138)
  | logRoom                 -- room in the dirty-page log (R383)
  | posted (port : Nat)     -- room for posted data in a PCIe endpoint (R216)
  | counts (group : Nat)    -- the offset of a chunk, which other members' counts give (R238)
deriving DecidableEq, Repr

/-- A local access: its context identifier (R62), generation, bytes and use. -/
structure Access where
  cluster : Nat := 0
  slice : Nat
  gen : Nat := 0
  as : Nat := 127
  offset : Nat
  length : Nat
  write : Bool := false
  data : List Byte := []
  fenced : Bool := false
  use : AccessUse
deriving DecidableEq, Repr

/-- An access that could not end at once. `id` orders the waiting accesses; `moved` counts the bytes of a write that it has moved
before the page it waits for (R85). -/
structure Waiting where
  id : Nat
  access : Access
  on : WaitFor
  firstFault : Option Nat := none      -- Device Time of its first fault (R88)
  checked : Option (Nat × Nat) := none -- slice and slot whose InFlight it holds
  flushFail : Option Status := none    -- the code a failed flush put in place of SUCCESS (R139)
  moved : Nat := 0
deriving DecidableEq, Repr

/-- A Pending Fault Table entry (R84). `charged` is false once a slice reset took it from the quota (R91). -/
structure PftEntry where
  id : Nat
  slice : Nat
  pasid : Option (BitVec 20)
  page : Nat
  func : Func
  prg : Nat
  charged : Bool := true
deriving DecidableEq, Repr

/-- An outstanding ATS Translation Request (R80). -/
structure AtsReq where
  id : Nat
  cluster : Nat
  func : Func
  pasid : Option (BitVec 20)
  page : Nat
  pages : Nat
  sentAt : Nat
  slice : Nat := 0
deriving DecidableEq, Repr

/-- An outstanding read of host or peer memory that no `Waiting` access stands for: a flushing read (R138, R139). -/
structure Flush where
  id : Nat
  gen : Nat := 0
  slice : Nat
  port : Nat
  pathTag : Nat
  evicted : Bool := false
deriving DecidableEq, Repr

/-- A path on a slice's dirty list: host port, PathTag, and the function, PASID and translated address of the most recent write
(R138, R80). -/
structure DirtyPath where
  port : Nat
  pathTag : Nat
  last : Nat
  func : Func := ⟨0, 0⟩
  pasid : Option (BitVec 20) := none
deriving DecidableEq, Repr

/-- A Revoke Record (R147). -/
structure RevokeRecord where
  slice : Nat
  start : Nat
  length : Nat
  key : Word32
  expiry : Nat
deriving DecidableEq, Repr

/-- An Eyelet Map entry (R65). -/
structure EyeletEntry where
  port : Nat
  fn : Nat
  granule : Nat
  slice : Nat
  as : Nat
  target : Nat
  requesterId : Word16
  requesterMask : Word16
  read : Bool
  write : Bool
  conn : Nat
  key : Word32
deriving DecidableEq, Repr

/-- An Eyelet access in progress (R68). -/
structure EyeletAccess where
  id : Nat
  slice : Nat
  func : Func
  granule : Nat
  fpa : Nat
  load : Bool
  deadline : Nat
deriving DecidableEq, Repr

/-- Everything the Translation Units, the Range Map, the Pending Fault Table and the Eyelet hold. -/
structure XlateState where
  ranges : List RangeEntry := []
  caches : Vector (List CacheLine) 8 := Vector.replicate 8 []
  waiting : List Waiting := []
  nextId : Nat := 0
  ats : List AtsReq := []
  pft : List PftEntry := []
  deniedPages : List (Nat × Option (BitVec 20) × Nat) := []   -- R87: slice, PASID, page
  priStopped : List Func := []                                 -- R87
  flushes : List Flush := []
  dirty : List (Nat × List DirtyPath) := []                    -- per slice (R138)
  heldFlushFail : List (Nat × Status) := []                    -- R139
  revokeRecords : List RevokeRecord := []
  eyelet : List EyeletEntry := []
  eyeletBusy : List EyeletAccess := []
  unmapping : List (Nat × Word32 × Func × Nat) := []            -- EYELET_UNMAP that waits (R69)
  invalidating : List (Func × List Nat) := []                   -- invalidations whose reads are outstanding (R83)
deriving DecidableEq, Repr

end Sys2Proof.Machine
end

