-- ==== Sys2Proof/Machine/State/Queues.lean ====
section
/-! DEFINITION. State of queues, completions, events and lace counters (R92 to R122). -/

namespace Sys2Proof.Machine

inductive QKind where
  | work | completion | event | rawRecv
deriving DecidableEq, Repr

/-- Queue states (R118). -/
inductive QState where
  | disabled | running | draining | halted | inReset
deriving DecidableEq, Repr

/-- One ring entry being fetched (R103): `entry` once its bytes arrived with the expected OWN. -/
structure FetchRec where
  count : Word32
  entry : Option (List Byte) := none
  outstanding : Bool := false
  refetches : Nat := 0
  nextAt : Option Nat := none
  stopped : Bool := false
deriving DecidableEq, Repr

/-- How a descriptor ended. -/
structure Done where
  status : Status
  bytes : Nat := 0
  detail : Nat := 0
deriving DecidableEq, Repr

/-- A started descriptor. `run` is false between its start (DESCRIPTOR_START) and the command of its opcode;
`issued`, `units` and `data` are the progress of a local operation; `fail` the first failure it met. -/
structure Started where
  count : Word32
  entry : List Byte
  run : Bool := false
  ended : Option Done := none
  issued : Nat := 0
  units : List Nat := []
  data : List (Nat × List Byte) := []
  fail : Option Status := none
  paths : List DirtyPath := []         -- host paths it wrote and that no flush issued since covers (R403, R406)
  flushIds : List Nat := []            -- the flushes its delivery waits for (R403)
  flushFail : Option Status := none    -- the code of a path that could not be flushed (R403, R406)
deriving DecidableEq, Repr

/-- A completion record (R109, R110). -/
structure CplRec where
  q : Nat
  count : Word32
  opcode : Nat
  tag : Word32
  status : Status
  bytes : Nat
  gen : Nat
  detail : Nat
  slice : Nat
deriving DecidableEq, Repr

/-- An entry of a completion or event queue. -/
inductive QRecord where
  | cpl (r : CplRec)
  | event (e : Event)
deriving DecidableEq, Repr

/-- A final descriptor of a work queue whose completion is not yet delivered (R104, R106): whether it writes an entry, and the
counter that its delivery increments. -/
structure Delivery where
  count : Word32
  entry : Bool
  lace : Option Nat
deriving DecidableEq, Repr

/-- A request for an interrupt (R112): entries written since the arm, and when the first was. -/
structure ArmState where
  written : Nat := 0
  firstAt : Option Nat := none
deriving DecidableEq, Repr

/-- A queue context (R92 to R119). `doorbell` is the newest Count; on a completion or event queue it is what the
driver released. -/
structure Queue where
  number : Nat
  slice : Nat
  gen : Nat := 0
  kind : QKind
  logEntries : Nat
  entrySize : Nat
  ringOffset : Nat
  as : Nat
  cq : Nat := 0
  tc : Nat := 0
  vector : Nat := 0
  modCount : Nat := 1
  modTimeUs : Nat := 0
  state : QState := .disabled
  enable : Bool := false
  head : Word32 := 0
  doorbell : Word32 := 0
  bell : Bool := false
  lastStatus : Status := 0
  fetches : List FetchRec := []
  started : List Started := []
  delivering : List Delivery := []     -- oldest first
  arm : Option ArmState := none
  held : List QRecord := []
  writing : Option QRecord := none     -- an entry write in progress
  groupSlot : Nat := 0
  cached : Bool := false
  lastUse : Nat := 0
  entryPath : Option DirtyPath := none -- the host path of its latest entry write (R398)
  entryTlps : Option (Nat × Nat) := none   -- port and TLPs unacknowledged up to that write's last (R408)
deriving DecidableEq, Repr

/-- A change on its way to the counter unit (R114): source generation and amount. -/
structure LaceChange where
  slice : Nat
  gen : Nat
  counter : Nat
  amount : Nat
deriving DecidableEq, Repr

/-- A standing WAIT (R116, R117). `polled` marks one without a watch entry; `reached` that the counter unit found
its threshold met. -/
structure Watch where
  q : Nat
  count : Word32
  slice : Nat
  counter : Nat
  threshold : Nat
  deadline : Nat
  halt : Bool
  preWake : Bool
  polled : Bool
  reached : Bool := false
  nextPoll : Nat := 0
deriving DecidableEq, Repr

/-- Queue groups, watch table, lace counters and events in flight. -/
structure QueueState where
  queues : List Queue := []
  groups : List (Nat × Nat × Nat) := []        -- group number, slice, BAR2 slot (R93, R98)
  served : Vector Nat 8 := Vector.replicate 8 0 -- last evicted queue served (R121)
  lace : List ((Nat × Nat) × Word64) := []      -- (slice, counter) to value; unlisted counters read 0
  laceChanges : List LaceChange := []
  watch : List Watch := []
  records : List (Nat × CplRec) := []           -- completion records on their way to a completion queue (R110)
  events : List Event := []                     -- raised, not yet at their event queue
  evLost : List (Nat × Nat) := []               -- events lost per slice since the last EVQ_OVERFLOW (R113)
deriving DecidableEq, Repr

end Sys2Proof.Machine
end

