-- ==== Sys2Proof/Machine/State/Transport.lean ====
section
/-! DEFINITION. State of connections, control messages and congestion control (R153 to R199). -/

namespace Sys2Proof.Machine

/-- Connection states (R165). -/
inductive EndState where
  | free | connecting | opened | closing | failed | gone
deriving DecidableEq, Repr

inductive OpKind where
  | write | writeInc | read | fetchAdd | cmpSwap
deriving DecidableEq, Repr

/-- A read segment of an operation (R129, R181): the member that asks, its first PSN, packets, offset in the operation
and bytes, and the response packets placed. -/
structure ReadSeg where
  member : Nat
  psn : Word32
  packets : Nat
  offset : Nat
  bytes : Nat
  placed : List Nat := []
deriving DecidableEq, Repr

/-- An operation posted on an end, held at the first member of its stripe set. `cursors` counts the packets each member
has sent; `requested` the bytes a READ has asked for; `acked` the bytes reported or placed; `stop` is the code that ends
it early (R145, R183). -/
structure ConnOp where
  id : Nat
  origin : Origin
  kind : OpKind
  length : Nat
  localOffset : Nat
  remote : Nat
  key : Word32
  lace : Option Nat := none
  opA : Word64 := 0
  opB : Word64 := 0
  msn : BitVec 24 := 0
  data : List (Nat × List Byte) := []   -- source bytes at hand, by offset in the operation
  coll : Option CollExt := none
  cursors : List Nat := []
  requested : Nat := 0
  acked : Nat := 0
  segs : List ReadSeg := []
  answered : Bool := false              -- an atomic's response has been placed
  stop : Option Status := none
  reported : Bool := false              -- its origin has been told its end
  swapped : Bool := false
deriving DecidableEq, Repr

/-- An in-flight record (R175): send time, retry count, and the packet kept for a resend. `index` is the packet's number
in its message or segment; `unsent` says that its next transmission waits for the wheel; `holdUntil` is the interval of
R179; `covered` that an ACK reported it without resolving it (R181, R182). -/
structure InFlight where
  psn : Word32
  sentAt : Nat
  retries : Nat := 0
  op : Nat
  index : Nat := 0
  bytes : Nat := 0
  pkt : Packet
  unsent : Bool := false
  again : Bool := false                 -- that transmission is a resend
  covered : Bool := false
  holdUntil : Option Nat := none
  faultSince : Option Nat := none       -- the first FAULT NAK of this packet (R89)
  port : Option Nat := none
deriving DecidableEq, Repr

/-- The LAST PSN of a member's part of a message, held until the message is complete (R172): its member, send stamp, local offset, and
whether it arrived with CE. -/
structure HeldLast where
  conn : Nat
  psn : Word32
  stamp : Word32 := 0
  offset : Nat := 0
  ce : Bool := false
deriving DecidableEq, Repr

/-- A message being received (R172), held at the first member of the set: its packets placed, and the last PSNs that
are held until it is complete. Of its bytes in host tiers (R404): `tlps` the ports with TLPs still to be acknowledged and how many,
`peers` the peer paths that no flush covers, `flushes` the flushing reads that cover some, and the code of one that failed, with its PathTag;
`acksDue` and `flushDue` say that it is complete and waits for the one or the other. -/
structure RxMsg where
  msn : BitVec 24
  total : Nat
  placed : List Nat := []
  heldLast : List HeldLast := []
  lace : Option Nat := none
  coll : Option CollExt := none
  offset : Nat := 0                     -- local offset of its first byte
  refused : Bool := false
  evented : Bool := false
  tlps : List (Nat × Nat) := []
  peers : List DirtyPath := []
  acksDue : Bool := false
  flushes : List Nat := []
  flushDue : Bool := false
  flushFail : Option (Status × Nat) := none
  owner : Nat := 0
deriving DecidableEq, Repr

/-- A read segment that the target serves (R130, R181). -/
structure ReadServe where
  psn : Word32
  packets : Nat
  offset : Nat
  bytes : Nat
  stamp : Word32
  slot : Nat := 0
  next : Nat := 0
  ready : Option (List Byte) := none
deriving DecidableEq, Repr

/-- An atomic's result at the target (R131, R182): old value, Swapped, and the request's send stamp. -/
structure AtomicAnswer where
  psn : Word32
  old : Word64
  swapped : Bool
  stamp : Word32 := 0
deriving DecidableEq, Repr

/-- Bodies of the control messages of R164, R234, R356 and R430. -/
inductive CtrlMsg where
  | connectReq (b : ConnectReqBody)
  | connectAck (index : BitVec 24) (inc : BitVec 8) (listenId psn : Word32)
  | connectRefuse (index : BitVec 24) (inc : BitVec 8) (listenId : Word32) (status : Status) (reason : Nat)
  | close (sIndex : BitVec 24) (sInc : BitVec 8) (rIndex : BitVec 24) (rInc : BitVec 8)
  | closeAck (sIndex : BitVec 24) (sInc : BitVec 8) (rIndex : BitVec 24) (rInc : BitVec 8)
  | pause (us : Nat) (serial : Word64)
  | resume (serial : Word64) (aborted : Bool)
  | sbtFeed (rtts : List Nat)
  | groupReg (name : Word64) (count rank : Nat) (dereg : Bool) (digest : Word64)
  | groupRegAns (name : Word64) (status : Nat) (epoch : Word32)
  | hsUp (seq sig : Word64) (mism : Bool) (rank : Nat)
  | hsDown (seq : Word64) (mism : Bool) (rank : Nat)
  | hsCount (seq sig count : Word64)
  | credit (seq : Word64) (stage credits slot : Nat)
  | mismatch (seq : Word64) (rank : Nat)
  | abort (seq : Word64) (status : Status) (rank : Nat)
  | ctrlAck (seq : Word32) (node : Bool)
  | epoch (name : Word64) (epoch : Word32)
  | rtBegin (epoch mgrEpoch roleEpoch : Word32)
  | rtBeginAck (epoch mine : Word32) (full : Bool)
  | rtLoad (epoch : Word32) (items : RouteItems)
  | rtCommit (epoch : Word32) (crc : Word64)
  | rtReady (epoch : Word32) (status : Nat)
  | rtFlip (epoch : Word32)
  | rtFlipAck (epoch : Word32)
  | rtAbort (epoch : Word32)
  | reHome (rIndex : BitVec 24) (rInc : BitVec 8) (oldCoord : Coord) (mIndex : BitVec 24) (oldInc : BitVec 8)
      (newCoord : Coord) (newInc : BitVec 8)
  | reHomeAck (rIndex : BitVec 24) (rInc : BitVec 8)
  | rekey (keyId : Word32)
  | rekeyAck (status : Nat)
deriving DecidableEq, Repr

/-- A packet that an end takes: when its frame was received (R20), and the body of a control message. -/
structure Received where
  rxAt : Nat
  arrival : Arrival
  msg : Option CtrlMsg := none
deriving DecidableEq, Repr

/-- One end of a connection (R161 to R190). Times are Device Time in ns. -/
structure Conn where
  index : Nat
  slice : Nat
  gen : Nat := 0
  incarnation : BitVec 8 := 0
  state : EndState := .opened
  failCode : Status := 0
  peer : Coord := 0
  peerIndex : BitVec 24 := 0
  peerInc : BitVec 8 := 0
  ordered : Bool := true
  tc : Nat := 0
  payloadLog : Nat := 13
  stripes : Nat := 1
  stripeFirst : Nat := 0
  sendSlot : Option Nat := none
  recvSlot : Option Nat := none
  as : Nat := 127
  contextRegion : Nat := 0
  nearContext : Bool := true
  listenId : Word32 := 0
  initiator : Bool := false
  joined : Bool := false                -- the peer's side is known (R161)
  group : Option Nat := none            -- the Collective Group it belongs to
  creator : Option (Nat × Word32) := none
  fenced : Bool := false
  pausedUntil : Option (Nat × Nat) := none  -- end of the pause, arrival of the notice (R180)
  nextPsn : Word32 := 0
  initPsn : Word32 := 0
  nextMsn : BitVec 24 := 0
  ops : List ConnOp := []
  inflight : List InFlight := []
  window : Nat := 0
  srtt : Nat := 0
  rttVar : Nat := 0
  rto : Nat := 0
  sampled : Bool := false
  lastCut : Nat := 0
  timerFrom : Nat := 0                  -- the retransmit timer runs from here at the earliest (R180)
  expect : Word32 := 0
  received : List Word32 := []
  msgs : List RxMsg := []
  seqNakSent : Bool := false
  unreported : Nat := 0
  unreportedAt : Option Nat := none
  echo : Option Word32 := none          -- greatest SendStamp not yet reported (R174)
  ece : Bool := false
  atomics : List AtomicAnswer := []     -- the 16 most recent (R131)
  cached : Bool := true
  ctxLost : Bool := false               -- a fetch of its context failed (R188)
  fetching : Bool := false
  evicting : Bool := false
  lastUse : Nat := 0
  parked : List Received := []
  serves : List ReadServe := []
  told : List (BitVec 24) := []         -- the latest 256 reads and atomics that a violation event names, by Msn (R148)
  answers : List AtomicAnswer := []     -- atomic responses not yet sent
  goneUntil : Nat := 0
  rehome : Option (BitVec 8) := none    -- of a restored end: its incarnation where it was saved (R387)
  rekey : Option (Nat × Word32 × Nat) := none  -- CONN_REKEY in progress: slice, tag, new slot (R430)
  prevPort : Option Nat := none
  noSamples : Option Word32 := none         -- no window change before this PSN is acknowledged (R195)
  minRtt : List (Nat × Nat) := []           -- own RTT samples of the last 10 s: time, value (R199)
deriving DecidableEq, Repr

structure Listen where
  slice : Nat
  params : ListenParams
deriving DecidableEq, Repr

/-- An unanswered control message (R163): node-scope to `dst`, or of the end `conn`. -/
structure CtrlOut where
  seq : Word32
  msg : CtrlMsg
  dst : Coord
  conn : Option Nat := none
  tries : Nat := 1
  nextAt : Nat
  queued : Bool := false                    -- a guarded message that waits for the one before it (R441)
  alive : Option (Word32 × Bool) := none
deriving DecidableEq, Repr

/-- What an acknowledgement record carries from cluster 0 to an end's home cluster (R20): an ACK or NAK, or a control message with its
body. -/
structure AckRec where
  conn : Nat
  rxTime : Nat
  arrival : Arrival
  msg : Option CtrlMsg := none
deriving DecidableEq, Repr

/-- A frame of RAW_SEND with its port, and the queue and descriptor that it completes (R323). -/
structure RawFrame where
  q : Nat
  count : Word32
  port : Nat
  cls : Nat
  slice : Nat
  image : List Byte
deriving DecidableEq, Repr

/-- A Pacing Wheel entry (R206). -/
structure WheelEntry where
  owner : WheelOwner
  wheel : Nat                       -- port number, or lock group's first port
  nextAt : Nat
  credit : Rat := 0                 -- bytes
  lastVisit : Nat := 0
  overflow : Bool := false
  placed : Bool := true             -- false while it keeps only its credit, out of the wheel
  chosen : Option (Word32 × Nat) := none   -- a sprayed end's next PSN and the port chosen for it (R208)
deriving DecidableEq, Repr

/-- A Site Baseline Table entry (R197): ten 1-s buckets of local minima and the feed. -/
structure SbtEntry where
  buckets : List (Option Nat) := List.replicate 10 none
  feed : Option (Nat × Nat) := none  -- value, arrival time
deriving DecidableEq, Repr

/-- An operation that has ended, on its way to what started it. -/
structure Ended where
  origin : Origin
  kind : OpKind
  status : Status
  bytes : Nat := 0
  swapped : Bool := false
  data : List Byte := []
deriving DecidableEq, Repr

/-- Connections and control messages. `ended` holds the ends of operations within a command and is empty between
commands. -/
structure TransState where
  conns : List Conn := []
  incarnations : List (Nat × BitVec 8) := []   -- of indices that have left Free before (R166)
  listens : List Listen := []
  ctrlOut : List CtrlOut := []
  ctrlSeq : Word32 := 0
  ctrlSeen : List (Coord × Word32 × CtrlMsg × Option (Word32 × Bool)) := []  -- messages answered, with the answer
  ackRecords : List AckRec := []
  heldArrivals : List (WaitFor × Arrival) := []  -- arrivals that wait for a translation (R86) or log room (R383)
  readTable : Vector Nat 8 := Vector.replicate 8 0
  nextOp : Nat := 0
  ended : List Ended := []
  wheel : List WheelEntry := []
  raw : List RawFrame := []                     -- frames of RAW_SEND that their queue's wheel entry has not released (R202)
  sbt : Vector SbtEntry 16 := Vector.replicate 16 {}
  sbtSecond : Nat := 0                          -- the second of Device Time that the first bucket of every entry covers
  guardTx : List (Coord × Word32 × Bool) := []  -- per receiver: counter, resync pending (R441)
  guardRx : List (Coord × Word32) := []         -- per sender: last counter, newest use last (R442)
  feedAt : Nat := 0                             -- when the site manager's next feed is due (R198)
  cyqPort : Word16 := 0xC3FD
deriving DecidableEq, Repr

end Sys2Proof.Machine
end

