-- ==== Sys2Proof/Machine/State/Ports.lean ====
section
/-! DEFINITION. State of fabric and chain ports, routing and collectives (R200 to R248, R315 to R366). -/

namespace Sys2Proof.Machine

/-- What a frame that leaves the part carries. -/
inductive FrameBody where
  | packet (p : Packet)
  | ctrl (p : Packet) (m : CtrlMsg) (guard : Option (Word32 × Bool))   -- alive counter and Resync (R439)
  | raw (bytes : List Byte)
  | pfc (mask : Nat) (quanta : List Nat)
  | neighborAdvert (target : BitVec 128) (mac : BitVec 48)
  | hello (coord : Coord) (port : Nat) (weltEnable : Bool) (send echo nonce : Word64)
  | weltStatus (acks credits : List Word32)
  | weltNak (lane : Nat) (seq : Word32)
  | time (t1 t1p t2p : Nat)
  | forward (frame : RxFrame)
deriving DecidableEq, Repr

/-- The headers a Cyquin frame gets from its path (R57, R60, R154, R194, R344). -/
structure PathHdr where
  dmac : BitVec 48 := 0
  srcIp : BitVec 128 := 0
  dstIp : BitVec 128 := 0
  hop : Nat := 64
  entropy : Nat := 0
  udpDst : Nat := 0
  ect : Bool := false
deriving DecidableEq, Repr

/-- A frame queued at a port (R202): its class, its slice, its bytes on the wire and where it came from. -/
structure TxFrame where
  body : FrameBody
  cls : Nat
  slice : Nat := 0
  bytes : Nat
  dst : Coord := 0
  conn : Option Nat := none
  psn : Option Word32 := none
  rawq : Option (Nat × Word32) := none
  queuedAt : Nat := 0
  vlan : Option VlanTag := none
  vl : Nat := 0
  hdr : Option PathHdr := none
  tokenless : Bool := false          -- it has waited for tokens (R203)
  sealKey : Option (BitVec 256 × Word32) := none   -- key and salt of the counter that its packet carries (R426)
deriving DecidableEq, Repr

/-- A frame held in a Welt replay lane (R333). -/
structure ReplayFrame where
  lane : Nat
  seq : Word32
  frame : TxFrame
  sentAt : Nat
  resends : Nat := 0
  again : Bool := false              -- it waits to be resent
deriving DecidableEq, Repr

inductive LinkState where
  | down | training | up
deriving DecidableEq, Repr

/-- State of one of the ten ports (R315 to R343). -/
structure Port where
  link : LinkState := .down
  downCause : Nat := 0
  interface : Nat := 0
  lossSince : Option Nat := none                    -- a loss of alignment or light stands since (R319)
  dark : Bool := false                              -- the light is lost as well (R341)
  upSince : Nat := 0
  trainSince : Nat := 0
  forceDown : Bool := false
  wireFault : Nat := 0                              -- cause code of a standing fault (R341)
  welt : Bool := false
  helloSeen : Bool := false
  weltOff : Bool := false                           -- no HELLO came in time: no Welt until the next link-up (R329)
  laneMap : Nat := 0
  polarity : Nat := 0
  rttNs : Nat := 0
  spanM : Nat := 0
  peer : Option (Coord × Nat) := none
  peerWelt : Bool := false
  lastHelloRx : Option (Word64 × Nat) := none
  nextHello : Nat := 0
  nextTime : Nat := 0
  nextStatus : Nat := 0
  lastStatusRx : Nat := 0
  sinceStatus : Nat := 0                            -- frames received since the last STATUS sent
  txSeq : Vector Word32 4 := Vector.replicate 4 0
  rxSeq : Vector Word32 4 := Vector.replicate 4 0
  nakSent : Vector Bool 4 := Vector.replicate 4 false
  creditLimit : Vector Word32 4 := Vector.replicate 4 0   -- cumulative credit the peer has granted, in 64-B units
  creditUsed : Vector Word32 4 := Vector.replicate 4 0    -- cumulative credit used
  freed : Vector Nat 4 := Vector.replicate 4 0      -- units of credit returned to the peer (R336)
  keptBack : Vector Nat 4 := Vector.replicate 4 0   -- units freed while an entry into bypass stops their return (R339)
  replay : List ReplayFrame := []
  pausedRx : Vector Nat 8 := Vector.replicate 8 0   -- end of each priority's received pause (R326)
  xoff : Vector Bool 8 := Vector.replicate 8 false
  nextXoff : Vector Nat 8 := Vector.replicate 8 0
  egress : List TxFrame := []
  waitRoom : List TxFrame := []                     -- frames that wait at their source for room (R204, R328)
  dwrr : List (List Nat × Nat) := []                -- the members of the DWRR stages in turn order, with their deficits (R202)
  lastGrant : Nat := 3                              -- requester granted last (R211)
  grantsWaited : Vector Nat 4 := Vector.replicate 4 0
  c7Tokens : Nat := 1638400                         -- tokens of the class 7 shaper, in hundredths of a byte (R203)
  c7At : Nat := 0
  throttle : Nat := 0
  time1 : Option (Nat × Nat) := none                -- last TIME frame received: t1, local stamp, in 2^-16 ns (R507)
  pendingSched : Option (Word64 × Word64) := none   -- QUANTUM and ARB_RANK of a commit that waits for the frame boundary (R213)
deriving DecidableEq, Repr

/-- A received frame that its destination has not taken yet (R327): its priority, its length, the virtual lane it came
on, and whether it is held in the headroom. -/
structure Held where
  arrival : Arrival
  prio : Nat := 0
  bytes : Nat := 0
  vl : Nat := 0
  headroom : Bool := false
deriving DecidableEq, Repr

inductive BypassPhase where
  | lit | draining (until_ : Nat) | moving (toBypass : Bool) (until_ : Nat) | bypassed
deriving DecidableEq, Repr

/-- Optical bypass (R338, R339). -/
structure Bypass where
  noLast : Bool := true
  record : Bool := false
  pin : Bool := false
  mailbox : Bool := false
  phase : BypassPhase := .bypassed
  waiter : List (Nat × Word32 × Bool) := []
deriving DecidableEq, Repr

inductive BankState where
  | free | loading | ready | active | draining
deriving DecidableEq, Repr

/-- A Route Table bank (R344): entries by index, the Chain Map by node. Unlisted entries are all zero. -/
structure RouteBank where
  state : BankState := .free
  epoch : Word32 := 0
  entries : List (Nat × RouteEntry) := []
  chain : List (Nat × ChainRec) := []
deriving DecidableEq, Repr

/-- Where one worker of a route flip stands (R356). -/
structure FlipWorker where
  node : Nat
  full : Bool := false
  began : Bool := false
  ready : Bool := false
  flipped : Bool := false
deriving DecidableEq, Repr

/-- A flip this node runs as manager (R356, R357). -/
structure Flip where
  slice : Nat
  tag : Word32
  epoch : Word32
  workers : List FlipWorker
  flipping : Bool := false
deriving DecidableEq, Repr

structure RouteState where
  banks : Vector RouteBank 2 := Vector.replicate 2 {}
  active : Nat := 0
  epoch : Word32 := 0
  drainEnd : Option Nat := none
  flip : Option Flip := none
  claim : Option (Coord × Word32) := none   -- manager followed: coordinates, role epoch (R26)
  lastBegin : Option Word32 := none
deriving DecidableEq, Repr

/-- Collective group states (R217). -/
inductive GroupState where
  | forming | ready | active | broken
deriving DecidableEq, Repr

/-- Where a collective operation stands: reading its tables, in its handshake, moving data, or stopping early. -/
inductive CollPhase where
  | tables | handshake | data | stopping
deriving DecidableEq, Repr

/-- A chunk sent: its leg, its unit, and whether it has been acknowledged. -/
structure CollSend where
  id : Nat
  stage : Nat
  dst : Nat
  unit : Nat
  acked : Bool := false
deriving DecidableEq, Repr

/-- A chunk arriving or arrived: its bytes by offset, and whether it has been taken into its unit. -/
structure CollGot where
  stage : Nat
  src : Nat
  unit : Nat
  total : Nat
  bytes : List (Nat × List Byte) := []
  whole : Bool := false
  used : Bool := false
deriving DecidableEq, Repr

/-- What an engine does to a unit, granule by granule (R267): add contributions to it, or in level 3 with CrossCompress take the own
contribution through QUANT with its feedback, encode a value that goes there, or decode a result that came from there (R230, R281). -/
inductive JobKind where
  | reduce | enter | code | decode
deriving DecidableEq, Repr

/-- A step of arithmetic in progress on a unit (R260, R267): the contributions that stood ready, the legs they came on, the elements
finished, and the encoding of what goes on under CrossFormat. The unit's own value is read at each granule, not kept here (R268). `mism`
is the engine and the time of the first mismatch of the granule that comes next. -/
structure CollJob where
  unit : Nat
  kind : JobKind := .reduce
  rows : List (Nat × List Byte)             -- datatype and bytes
  legs : List (Nat × Nat)
  cross : Bool := false                     -- a step of level 3 with CrossCompress (R230)
  done : Nat := 0
  out : List Byte := []
  mism : Option (Nat × Nat) := none
deriving DecidableEq, Repr

/-- A block of a GATHER_MULTIPLY whose product a tile recomputes in part: the cluster that holds its operands, and the first
mismatches of its granules (R267, R268). -/
structure TileBlock where
  block : Nat
  cluster : Nat
  mism : List (Nat × Nat) := []             -- granule, time of its first mismatch
deriving DecidableEq, Repr

/-- A granule of a service that is being recomputed (R268): cluster and unit, the service, and when it first mismatched. -/
structure SvcMismatch where
  cluster : Nat
  unit : Nat
  q : Nat
  count : Word32
  at_ : Nat
deriving DecidableEq, Repr

/-- The collective operation in progress of a member (R225 to R247). -/
structure CollOp where
  q : Nat
  count : Word32
  seq : Nat
  kind : Nat
  alg : Nat
  dt : Nat
  red : Nat
  flags : Nat
  elems : Nat
  send : Nat
  recv : Nat
  root : Nat
  aux : Nat
  lace : Option Nat
  sig : Word64 := 0
  phase : CollPhase := .tables
  upSent : Bool := false
  stop : Option (Status × Nat) := none
  sendCounts : Option (List Nat) := none    -- ALL_TO_ALL_V (R226)
  recvCounts : List Nat := []
  countsDone : Bool := false
  record : Option (List Byte) := none       -- GATHER_MULTIPLY (R246)
  bmat : Option (List Byte) := none
  own : List (Nat × List Byte) := []
  vals : List (Nat × List Byte) := []       -- running values of units, in the Datatype
  final : List Nat := []                    -- units whose value is the result
  written : List Nat := []                  -- result units in the receive buffer
  sends : List CollSend := []
  gots : List CollGot := []
  jobs : List CollJob := []
  granted : List ((Nat × Nat) × Nat) := []  -- (stage, source) to credits granted
  rows : List Nat := []                     -- blocks multiplied
  pieces : List Nat := []                   -- pieces signalled
  flagging : List Nat := []                 -- pieces whose flag is being written
  tiles : List TileBlock := []              -- blocks with a granule being recomputed
  entered : List (Nat × List Byte) := []    -- own contributions by unit as they entered level 3, in CrossFormat (R281)
  coded : List (Nat × List Byte) := []      -- partial sums and results of level 3 by unit, in CrossFormat (R281)
  placed : List Nat := []                   -- units whose own contribution stands in the receive buffer (R243)
  svc : Bool := false                       -- an operation of a LOWRANK (R285)
deriving DecidableEq, Repr

/-- A Collective Group at this member (R217 to R247). `hsUps`, `hsCounts`, `credits` and `mism` hold what has arrived
for a sequence: a child's HS_UP, a member's HS_COUNT, the slots granted for a leg in order, a MISMATCH. -/
structure Group where
  handle : Nat
  slice : Nat
  gen : Nat := 0
  params : GroupParams
  members : List (Coord × Nat) := []
  digest : Word64 := 0
  state : GroupState := .forming
  registered : Bool := false
  epoch : Word32 := 0
  home : Nat := 0
  slots : Nat := 0
  mgrSlots : Nat := 0                       -- slots for the members it serves as manager (R242)
  endpoint : Bool := false
  conns : List (Nat × Nat) := []            -- rank to first end index
  nextSeq : Nat := 1
  op : Option CollOp := none
  hsUps : List (Nat × Nat × Word64 × Bool × Nat) := []
  hsCounts : List (Nat × Nat × Word64 × Nat) := []
  credits : List ((Nat × Nat × Nat) × List Nat) := []
  mism : List (Nat × Nat) := []
  watchdogAt : Nat := 0
  creator : Option (Nat × Word32) := none
  endsDue : Bool := false                   -- its ends wait to be opened, as the DRBG is halted (R423)
deriving DecidableEq, Repr

/-- A registry entry of a group manager (R220, R221). -/
structure RegEntry where
  name : Word64
  epoch : Word32
  count : Nat
  digest : Word64
  ranks : List (Nat × Coord) := []
  slots : Nat := 0                          -- slots that the manager holds for it, where it is no member (R242)
deriving DecidableEq, Repr

/-- A piece of a service (R274). `gate` says that it still waits for its gate flag (R284). -/
structure Piece where
  index : Nat
  cluster : Nat
  gate : Bool := false
  polled : Bool := false
  done : Bool := false
deriving DecidableEq, Repr

/-- What follows once the outputs of a piece, or of a LOWRANK step on its clusters, are written: their bytes and what they add to
Completion Detail. -/
inductive SvcNext where
  | piece (index bytes detail : Nat)
  | step (clusters : List Nat) (bytes detail : Nat)
deriving DecidableEq, Repr

/-- A service (R271 to R290), from its start: its record as read once, its scratch units by cluster, its pieces or its
step, and what it has counted. `stage` is 0 while its record is read, 1 while its range list is, 2 once it may start, 3
while it runs. `collEnd` is how its current collective operation ended (R288). `writes` are the blocks a CKPT has
outstanding, with the WRITEs not yet ended; `got` what a RESTORE has read, by block; `next` the next block to send or
read, `ended` the blocks acknowledged or written. -/
structure Service where
  q : Nat
  count : Word32
  slice : Nat
  gen : Nat := 0
  as : Nat := 127
  opcode : Nat
  stoch : Bool := false
  lace : Option Nat := none
  stage : Nat := 0
  rec_ : List Byte := []
  ranges : List (Nat × Nat) := []
  deferred : Bool := false
  old : Bool := false
  units : List Nat := []
  pieces : List Piece := []
  opened : List Nat := []
  scanned : Bool := false
  step : Nat := 0
  detail : Nat := 0
  bytes : Nat := 0
  seq : Nat := 0
  collEnd : Option (Status × Nat) := none
  header : List Byte := []
  writes : List (Nat × Nat) := []
  got : List (Nat × List Byte) := []
  next : Nat := 0
  ended : Nat := 0
  owed : List (Nat × SvcNext) := []      -- outputs under way by their tag, and what follows them
deriving DecidableEq, Repr

/-- Groups, registry and services. -/
structure WorkState where
  groups : List Group := []
  registry : List RegEntry := []
  epochs : List (Word64 × Word32) := []     -- epoch counter per GroupName (R221)
  quota : List (Nat × Nat) := []            -- slices whose group quota differs from 8 (R218)
  services : List Service := []
  serviceTurn : Nat := 0
  arithOut : BitVec 8 := 0                  -- R29
  lastUnit : Vector Nat 8 := Vector.replicate 8 0xFF
  recomputing : List SvcMismatch := []      -- granules of services being recomputed (R268)
deriving DecidableEq, Repr

end Sys2Proof.Machine
end

