-- ==== Sys2Proof/Machine/State/Platform.lean ====
section
/-! DEFINITION. State of memory, slices, mailboxes, host ports, keys, checks, boot, firmware, power, time and the
module's pins (R24, R31 to R50, R292 to R314, R367 to R528). -/

namespace Sys2Proof.Machine

/-- A codeword of near or far memory that holds symbol errors: its first byte's offset and the error of each pin
that has one (R296 to R303). -/
structure BadWord where
  offset : Nat
  errs : List (Nat × Byte)
  logged : Bool := false
deriving DecidableEq, Repr

/-- A memory error log entry (R305). -/
structure ErrEntry where
  stamp : Nat
  stack : Nat
  channel : Nat
  kind : Nat
  source : Nat
  offset : Nat
  sym0 : Nat := 0xFF
  sym1 : Nat := 0xFF
  read : Bool := false
deriving DecidableEq, Repr

/-- A CXL root port (R308 to R311). -/
structure FarPort where
  linkUp : Bool := false
  enumerated : Bool := false
  inService : Bool := false
  lanes : Nat := 0
  devices : List CxlDevice := []
  baseGiB : Nat := 0
  decodedGiB : Nat := 0
  ways : Nat := 0
deriving DecidableEq, Repr

/-- A far-tier access outstanding: a unit of a COPY, until its deadline (R310). `src` and `dst` are the slots of the slice's far ranges
whose check it has passed, and whose InFlight it holds (R78). -/
structure FarAccess where
  id : Nat
  deadline : Nat
  q : Nat
  count : Word32
  unit : Nat
  slice : Nat := 0
  src : Option Nat := none
  dst : Option Nat := none
deriving DecidableEq, Repr

/-- The arbiter of a Shank memory port (R211, R212): the requester granted last, the grants that each has waited through, and the
holder of a locked sequence with the beats it has had. -/
structure ShankPort where
  last : Nat := 3
  waited : Vector Nat 4 := Vector.replicate 4 0
  lock : Option (Nat × Nat) := none
deriving DecidableEq, Repr

structure MemState where
  cells : List MemCell := []
  bad : List BadWord := []
  log : List ErrEntry := []
  history : List ErrEntry := []
  scrubPos : Nat := 0
  scrubWake : Option Nat := none               -- last burst for which scrub took the stacks out of self-refresh (R304)
  passes : Nat := 0
  passAt : Nat := 0                            -- when the pass of the period began, or will once that period ends (R303)
  ceCount : List ((Nat × Nat) × Nat) := []   -- (stack, channel) to corrections in this minute (R306)
  ceMinute : Nat := 0
  ceStorm : List (Nat × Nat) := []           -- channels whose storm has been told of in this minute
  far : Vector FarPort 2 := Vector.replicate 2 {}
  farBusy : List FarAccess := []             -- far-tier accesses outstanding
  infPool : Nat := 8388608                   -- free in-flight records (R294)
  infWaits : List Nat := []                  -- ends whose next packet found the pool empty, in that order
  shank : Vector ShankPort 48 := Vector.replicate 48 {}   -- the arbiters of the Shank's memory ports (R211)
deriving DecidableEq, Repr

/-- Slice states (R367). -/
inductive SliceState where
  | unbound | active | resetting | freezing | frozen
deriving DecidableEq, Repr

/-- A slice (R367 to R390). -/
structure Slice where
  state : SliceState := .unbound
  port : Nat := 0
  fn : Nat := 0
  pasid : Option (BitVec 20) := none
  gen : Nat := 0
  lastCause : Nat := 0
  leaveUnbound : Bool := false                -- an UNBIND's reset in progress
  resetters : List (Nat × Word32) := []       -- commands that the reset answers
  armed : Bool := false
  heartbeat : Word64 := 0
  beatAt : Nat := 0                           -- Device Time of the last heartbeat
  hbDeadline : Nat := 0
  freezer : Option (Nat × Word32) := none
  saved : Bool := false
  restored : Bool := false
  rehomed : List Nat := []                    -- ends whose RE_HOME_ACK is awaited (R387)
  unanswered : Nat := 0                       -- peers that did not answer RE_HOME
  thawer : Option (Nat × Word32) := none
  oldCoord : Coord := 0
  tenant : BitVec 24 := 0
deriving DecidableEq, Repr

/-- An 8-byte word of a dirty bitmap that a flush sets bits in (R383): its local offset, the bits, whether its read is outstanding, and
the bits that came while its write was. -/
structure BitmapWord where
  offset : Nat
  bits : Nat
  reading : Bool := true
  fenced : Bool := false
  later : Nat := 0
deriving DecidableEq, Repr

/-- A dirty-page log (R381 to R383). `recorded` are the pages not yet flushed; `marked` the page numbers whose bits the
Farig has set in the active bitmap; `writing` the words of a flush not yet written, `failed` the code of the first that
could not be; `waiter` a DIRTY_SYNC or (true) a DIRTY_STOP. -/
structure DirtyLog where
  slice : Nat
  base : Nat
  pages : Nat
  bitmap0 : Nat
  bitmap1 : Nat
  active : Nat := 0
  recorded : List Nat := []
  lastFlush : Nat := 0
  words : List BitmapWord := []
  failed : Option Status := none
  waiter : Option (Nat × Word32 × Bool) := none
deriving DecidableEq, Repr

/-- A mailbox command taken and not yet answered (R466 to R477). -/
structure MbxTaken where
  tag : Word32
  major : Nat
  opcode : Nat
  committed : Bool := false
deriving DecidableEq, Repr

/-- A mailbox response (R467). -/
structure MbxResp where
  slice : Nat
  tag : Word32
  major : Nat := 2
  opcode : Nat := 0
  status : Status
  detail : Nat := 0
  info : List Nat := []
  counted : Bool := false        -- of a command that was taken, and so is outstanding until this is written (R470)
deriving DecidableEq, Repr

/-- A slice's mailbox (R465 to R471): requests that the ring holds and that are not taken yet (`intake`), commands taken,
responses that wait to be written, the one whose write waits for flushes (`writing`), and when the message for those written is sent. -/
structure Mailbox where
  consumed : Word32 := 0
  produced : Word32 := 0
  intake : List MbxRequest := []
  taken : List MbxTaken := []
  ready : List MbxResp := []
  writing : Option MbxResp := none
  intAt : Option Nat := none
  fault : Bool := false
deriving DecidableEq, Repr

/-- Message address and data of a vector of an MSI-X table (R396). -/
structure MsixEntry where
  address : Word64 := 0
  data : Word32 := 0
deriving DecidableEq, Repr

/-- An MSI-X message that is due: its vector, and the slice and queue it announces entries of (R397, R398). -/
structure MsixDue where
  vector : Nat
  slice : Nat
  queue : Option Nat := none
deriving DecidableEq, Repr

/-- A PCIe function of a host port (R394 to R405). -/
structure FuncState where
  bme : Bool := true
  d3hot : Bool := false                      -- PCI-PM: the function is in D3hot (R393)
  ats : Bool := true
  pri : Bool := true
  ro : Bool := true
  tph : Bool := true                         -- TPH Requester Enable
  steer : List (Nat × BitVec 16) := []       -- ST entries of the MSI-X table, by vector; others hold 0 (R399, log entry 79)
  msixOn : Bool := true
  funcMask : Bool := false
  masked : List Nat := []
  table : List (Nat × MsixEntry) := []       -- the MSI-X table's addresses and data, by vector (R396)
  pba : List MsixDue := []                   -- messages due while masked: the PBA bit of their vector is set (R397)
  opra : Nat := 4096
  bars : Vector Word64 3 := Vector.replicate 3 0    -- the addresses that the host gave BAR0, BAR2 and BAR4 (R395)
  aerUncor : Word32 := 0                     -- AER's Uncorrectable and Correctable Error Status (R392, log entry 79)
  aerCor : Word32 := 0
deriving DecidableEq, Repr

/-- A selective IDE stream (R409): 0 none, 1 Secure, 2 Insecure; the RID range and the address ranges it covers, and its key. A
path's PathTag is its completer's RID, and 0xFFFF stands for the root complex. -/
structure IdeStream where
  state : Nat := 0
  rids : Nat × Nat := (1, 0)
  ranges : List (Nat × Nat) := []
  key : List Byte := []
deriving DecidableEq, Repr

/-- The completer of a path lies in the stream's RID range. -/
def IdeStream.covers (x : IdeStream) (pathTag : Nat) : Bool := decide (x.rids.1 ≤ pathTag ∧ pathTag ≤ x.rids.2)

/-- A host port (R391 to R411). -/
structure HostPort where
  up : Bool := false
  speed : Nat := 0
  width : Nat := 0
  flit : Bool := false
  lastDown : Nat := 0
  ide : Vector IdeStream 4 := Vector.replicate 4 {}
  vfEnable : Bool := false
  numVfs : Nat := 0
  pfState : FuncState := {}
  vfs : List (Nat × FuncState) := []
  cplValue : Nat := 0                        -- Completion Timeout Value as programmed (R392, log entry 33)
  maxRead : Nat := 512                       -- Max Read Request Size and Max Payload Size as programmed, in bytes (R392, log entry 79)
  maxPayload : Nat := 128
  unacked : Nat := 0
  posted : List Nat := []                    -- data bytes of the TLPs unacknowledged, oldest first (R216)
  cfgReset : Bool := false                   -- a hot reset or PERST# came since the link was last up (R407)
deriving DecidableEq, Repr

/-- Outcome waiters of the host's reads that stand for no local access. -/
inductive HostUse where
  | access (waiting : Nat)
  | flush (id : Nat)
deriving DecidableEq, Repr

structure HostRead where
  id : Nat
  port : Nat
  fn : Nat
  slice : Nat
  peer : Bool := false
  sentAt : Nat
  use : HostUse
deriving DecidableEq, Repr

inductive KeyState where
  | empty | loaded | warned | exhausted
deriving DecidableEq, Repr

/-- A key slot (R412): the slice that owns it, its kind (0 guard, 1 StreamSend, 2 StreamRecv) and number. -/
structure KeySlot where
  slice : Nat
  slot : Nat
  kind : Nat
  state : KeyState := .empty
  key : BitVec 256 := 0
  salt : Word32 := 0
  keyId : Word32 := 0
  next : Nat := 0
deriving DecidableEq, Repr

/-- A slot that a Stream Cipher Engine caches, newest use last: its next counter and what is left of its block of 256
(R422, R427). -/
structure EngineSlot where
  slice : Nat
  slot : Nat
  next : Nat := 0
  left : Nat := 0
deriving DecidableEq, Repr

/-- What firmware has the Guard Cipher Engines do: unwrap a blob (R417), derive (R418), or open a message of an SPDM session, which asks the
responder or provisions a slot (R416, R424). -/
inductive GuardWork where
  | unwrap (blob : List Byte)
  | derive (label context : BitVec 256) (keyId : Word32)
  | message (port session : Nat) (req : SpdmReq)
  | provision (port session owner slot : Nat) (keyId : Word32) (key : BitVec 256)
deriving DecidableEq, Repr

/-- A sequence of operations of the Guard Cipher Engines in progress: the core that runs it, who asked, its parent slot and its target, the
blocks it still needs, and whether its next one stands in the queue (R424, R425). Cores are 0 for the Security Core, 1 for the Power
Core, 2 for the Scheduler Core and 3 to 10 for the Control Cores. -/
structure GuardJob where
  id : Nat
  core : Nat := 0
  slice : Nat
  tag : Word32
  parent : Nat
  kind : Nat
  slot : Nat
  work : GuardWork
  left : Nat
  queued : Bool := false
deriving DecidableEq, Repr

/-- An entry of the Guard Cipher Engines' queue: the slot that keys it, the direction and the input block (R425), and the core and the
sequence that it is of. -/
structure GuardEntry where
  job : Nat
  core : Nat
  slice : Nat
  slot : Nat
  decrypt : Bool
  block : List Byte
deriving DecidableEq, Repr

structure KeyStoreState where
  deviceSecret : BitVec 384 := Config.deviceSecret             -- of manufacture (R453)
  slots : List KeySlot := []
  engines : Vector (List EngineSlot) 16 := Vector.replicate 16 []
  lastMismatch : List (Nat × Nat) := []      -- engine, time of its last mismatch on a received packet (R429)
  guardOut : BitVec 4 := 0
  streamOut : BitVec 16 := 0
  drbgHalted : Bool := false
  drbgNext : Nat := 0
  guardQueue : List GuardEntry := []
  guardJobs : List GuardJob := []            -- oldest first; one that has gone on stands behind those that wait
  guardNext : Nat := 0
  rootDigest : Option (BitVec 384) := none   -- installed by KEY_ROOT_SET (R415)
deriving DecidableEq, Repr

/-- A Check Unit context (R434 to R438). -/
structure CheckCtx where
  cluster : Nat
  channel : Nat
  value : Word64 := 0
  algorithm : Nat := 0
  owner : Option (Nat × Nat) := none         -- slice and generation
  valid : Bool := false
  scanning : Bool := false
  load : Option (Nat × Nat × Word64) := none -- slice, algorithm and value of a write of SLC_CHECK_VAL that waits for the SCAN's end (R437)
deriving DecidableEq, Repr

/-- A record of the PORT section (R35). -/
structure PortRec where
  mode : Nat := 0
  bufMiB : Nat := 0
  pfcMask : Nat := 0
  welt : Bool := false
  lock : Nat := 0xFF
  cableM : Nat := 1
deriving DecidableEq, Repr

/-- A record of the SLICE section (R40). -/
structure Quotas where
  queues : Nat := 0
  conns : Nat := 0
  ranges : Nat := 0
  lace : Nat := 0
  slots : Nat := 0
  pft : Nat := 0
  stream : Nat := 0
  guardKeys : Nat := 0
  timers : Nat := 0
  waitMs : Nat := 200
deriving DecidableEq, Repr

structure PinRec where
  pin : Nat
  function : Nat
  param : Nat := 0
deriving DecidableEq, Repr

/-- A Last as its sections read (R31 to R43). -/
structure LastImage where
  serial : Word64 := 0
  secVersion : Nat := 0
  pools : List Nat := []
  ports : List PortRec := []
  coord : Coord := 0
  role : Nat := 0
  roleEpoch : Word32 := 0
  quotas : List Quotas := []
  prioClass : List Nat := []
  c7Cap : Nat := 5
  timerReserve : Nat := 256
  pins : List PinRec := []
  floors : List Nat := []
  multi : Bool := false
deriving DecidableEq, Repr

/-- A flash slot that holds a Last: its bytes (R45, R46). `state` is 0 empty, 1 written, 2 checked good, 3 rejected. -/
structure LastSlot where
  bytes : List Byte := []
  state : Nat := 0
deriving DecidableEq, Repr

/-- Phases of an activation (R47 to R50). -/
inductive ActPhase where
  | idle
  | notices (since : Nat) (slice : Nat) (tag : Word32) (image : LastImage)
  | paused (since : Nat) (slice : Nat) (tag : Word32) (image : LastImage)
deriving DecidableEq, Repr

/-- Something that came while a Last activation pauses the node (R49): a doorbell, a slice reset with its cause and who asked for it, an
FLR, or a mailbox request of a slice. -/
inductive HeldItem where
  | doorbell (f : Func) (q : Nat) (count : Word32) (arm : Bool)
  | reset (slice cause : Nat) (who : Option (Nat × Word32))
  | flr (f : Func)
  | request (slice : Nat)
  | running (slice : Nat) (tag : Word32)   -- a request that has been taken in and not carried out
deriving DecidableEq, Repr

structure LastState where
  booting : Bool := true
  inForce : Option LastImage := none
  slots : Vector LastSlot 2 := Vector.replicate 2 {}
  activeSlot : Nat := 0
  fallback : Bool := false
  phase : ActPhase := .idle
  held : List HeldItem := []             -- what waits for the resume notice (R49) or for Switch (R488), in arrival order
  role : Nat := 0
  roleEpoch : Word32 := 0
  roleSet : Option Word32 := none        -- epoch of the last ROLE_SET accepted since MOD_RESET_N (R39)
deriving DecidableEq, Repr

/-- An image in a flash slot (R445): its bytes, and what its header and its verification gave: SecVersion, contract level,
signed by the spare pair, and the reason it was rejected for, 0 if it is good. -/
structure FlashImage where
  bytes : List Byte := []
  sec : Nat := 0
  major : Nat := 1
  minor : Nat := 0
  spare : Bool := false
  reason : Nat := 0
deriving DecidableEq, Repr

/-- An SPDM session (R459): whether it is established, and the root of the chain that the requester authenticated with. -/
structure Session where
  port : Nat
  session : Nat
  established : Bool := false
  root : Option (BitVec 384) := none
deriving DecidableEq, Repr

/-- What the device certificate binds (R453): both identity keys and the serial number, as certified at manufacture. -/
structure DeviceCert where
  identity : List Byte := Config.identityPublic Config.deviceSecret
  topTree : List Byte := Config.lmsTopPublic
  serial : Nat := Config.moduleSerial
deriving DecidableEq, Repr

/-- A copy of the LMS state (R456): the next top-tree index, its sequence number, and whether its CRC-32C holds. -/
structure LmsCopy where
  next : Nat := 0
  seq : Nat := 0
  good : Bool := true
deriving DecidableEq, Repr

/-- A copy of the boot descriptor (R444): the slot pointers, and whether its CRC-32C holds. -/
structure BootDesc where
  stageSlot : Nat := 0
  fwSlot : Nat := 0
  lastSlot : Nat := 0
  good : Bool := true
deriving DecidableEq, Repr

/-- A fused version (R450): 64 positions of two fuse bits each. -/
structure Thermo where
  bits : BitVec 64 := 0
  twins : BitVec 64 := 0
deriving DecidableEq, Repr

/-- Boot and identity (R444 to R462). `stage` is 0 ROM, 1 stage loader, 2 firmware running, 3 Recovery. -/
structure BootState where
  stage : Nat := 0
  failReason : Nat := 0
  failObject : Nat := 0
  stageFallback : Bool := false
  fwFallback : Bool := false
  desc : Vector BootDesc 2 := Vector.replicate 2 {}        -- the boot descriptor's two copies (R444)
  stageImages : Vector (Option FlashImage) 2 := #v[some {}, none]
  fwImages : Vector (Option FlashImage) 2 := #v[some {}, none]
  loaderMajor : Nat := 1                                   -- contract major and SecVersion of the stage loader in force
  loaderSec : Nat := 0
  loader : Option FlashImage := none                       -- the stage loader in force (R448, R460)
  stageFuses : Thermo := {}                                -- StageVersion, FwVersion and LastVersion (R450)
  fwFuses : Thermo := {}
  lastFuses : Thermo := {}
  ownerDigests : List (BitVec 384 × BitVec 384) := []      -- the owner banks blown, lowest first
  spareKey : Bool := false                                 -- the primary bank's revoke fuse
  lms : Vector LmsCopy 2 := Vector.replicate 2 {}          -- the LMS state in the flash (R444, R456)
  lmsStuck : Bool := false                                 -- it could not be written since the boot (R457)
  bottomUsed : Nat := 0
  bottomReady : Bool := false
  generating : Bool := false
  refused : Bool := false
  reports : List Nat := []                                 -- times of the reports of the last second (R458)
  sessions : List Session := []
  identityKey : Option (List Byte) := none                 -- the public ECDSA identity key, derived at boot (R448, R453)
  certificate : DeviceCert := {}
deriving DecidableEq, Repr

/-- An update package being received (R478 to R481): the blocks written, by offset, oldest first. They are what the inactive slot of the
package's kind holds, and for a delta (kind 3) the Update staging region of the flash (R444). -/
structure FwPackage where
  kind : Nat
  length : Nat
  blocks : List (Nat × List Byte) := []
  checked : Bool := false
deriving DecidableEq, Repr

/-- Firmware and update state (R463 to R489). -/
structure FwState where
  update : Nat := 0
  package : Option FwPackage := none
  runningSlot : Nat := 0
  runningSec : Nat := 0
  oldCells : BitVec 8 := 0
  switching : Bool := false
  quiesceAt : Option Nat := none       -- when Load is done and Quiesce begins (R484)
  activator : Option (Nat × Word32) := none
  windowEnd : Option Nat := none
  driverConfirm : Bool := false
  confirmed : Bool := false
  selfTested : Bool := false
  lastFailure : Nat := 0
  resetPath : Bool := false
  resetting : Bool := false
  ranNs : Nat := 0                     -- time the firmware has run, up to the first 10 ms window of FWM_LOAD (R475)
deriving DecidableEq, Repr

inductive SleepState where
  | awake | light | deep
deriving DecidableEq, Repr

inductive ThermalState where
  | normal | warning1 | warning2 | critical
deriving DecidableEq, Repr

structure PowerState where
  sleep : Vector SleepState 8 := Vector.replicate 8 .awake
  sleepSince : Vector Nat 8 := Vector.replicate 8 0       -- when each cluster entered its state
  workAt : Vector Nat 8 := Vector.replicate 8 0           -- when each cluster last had work, as the ticks find it
  selfRefresh : Bool := false
  edgeIdleSince : Nat := 0
  thermal : ThermalState := .normal
  shutdown : Bool := false
  coolSince : Option Nat := none
  junctionC : Nat := 0
  hbmC : Nat := 0
  inputW : Nat := 0
  limitW : Nat := 800
  capStep : Nat := 0
  capUnmet : Bool := false
  underSince : Option Nat := none
  brake : Bool := false
  brakeEventAt : Option Nat := none
deriving DecidableEq, Repr

/-- An Event Timer of a slice (R510), armed, with the lace counter that it increments. -/
structure EventTimer where
  slice : Nat
  index : Nat
  deadline : Nat
  counter : Nat
deriving DecidableEq, Repr

/-- Device Time (R503 to R509). `frac` counts 2^-16 ns; `part` and `slewLeft` count millionths of that. `timerCfg` holds the
PeriodNs and Counter of each slice's timers (R510). -/
structure TimeState where
  now : Nat := 0
  frac : Nat := 0
  part : Nat := 0
  slewLeft : Int := 0
  holdover : Bool := false
  offsetNs : Int := 0
  ppsCap : Nat := 0
  ppsHighUntil : Option Nat := none
  ppsSecond : Nat := 0                      -- whole second at which PPS_OUT rose last
  lastPps : Nat := 0                        -- the last edge of PPS_IN, or when it became the Source
  timers : List EventTimer := []
  timerCfg : List ((Nat × Nat) × (Nat × Nat)) := []
deriving DecidableEq, Repr

/-- The module's power input, pins and sideband (R519 to R528). -/
structure BoardState where
  inputPower : Bool := true
  inputFault : Bool := false
  pwrGood : Bool := true
  resetN : Bool := true
  gpioIn : BitVec 8 := 0
  pulseUntil : List (Nat × Nat) := []
  fatal : Bool := false                -- an uncleared fatal error stands (FaultOut, R42; log entry 56)
  pinCap : Vector Nat 8 := Vector.replicate 8 0
  shorted : BitVec 10 := 0
  shortSince : List (Nat × Nat) := []
  retryAt : List (Nat × Nat) := []
  straps : BitVec 2 := 0                -- MOD_ADDR1 and MOD_ADDR0, which the module pulls down (R521)
  address : Nat := 0x5C                -- static I3C address (R526)
  eid : Nat := 0
deriving DecidableEq, Repr

end Sys2Proof.Machine
end

