-- ==== Sys2Proof/Machine/State.lean ====
section
/-! DEFINITION. The machine's state, its stops and its reset (R6). What each field is, and the rule that names it,
stands at the structures of Machine/State/. -/

namespace Sys2Proof.Machine

/-- Why a step stops with a fault: never. The spec states an effect for every command of the table, and the model
raises no fault, so the type has no constructor. -/
inductive Fault
deriving DecidableEq, Repr

/-- Why a step has no meaning. -/
inductive Refusal where
  /-- The command is not modelled yet. Raised by an arm of `exec` alone; safe. -/
  | notModelled (mnemonic : String)
deriving DecidableEq, Repr

/-- What an SPDM responder negotiates (R459). -/
inductive SpdmAlg where
  | ecdsaP384
  | sha384
  | dheSecp384r1
  | aeadAes256Gcm
  | measurementSha384
deriving DecidableEq, Repr

/-- Answers of the SPDM responder (R459 to R461): the response of the request's own kind, with what it reports; the algorithms; a response
that the ECDSA identity key signs; an attestation report with its two signatures; or ERROR with its code and extended data. -/
inductive SpdmResp where
  | answer (body : List Nat)
  | algorithms (supported : List SpdmAlg)
  | signed (body : List Nat) (ecdsa : List Byte)
  | report (coord : Coord) (serial : Nat) (nonce : BitVec 256) (measurements : List (Nat × List Nat)) (time top bottom : Nat)
      (ecdsa hss : List Byte)
  | error (code data : Nat)
deriving DecidableEq, Repr

/-- Answers to PLDM requests (R449, R526, R527). -/
inductive PldmResp where
  | base
  | fru (part : List Byte) (stepping serial date : Nat)
  | value (v : Nat)
  | unavailable
  | accepted
  | rejected
  | notReady
  | invalidType
deriving DecidableEq, Repr

/-- What left the part: everything the outside sees, in order, newest last. -/
inductive Output where
  | hostWrite (f : Func) (pasid : Option (BitVec 20)) (iova : Nat) (bytes : List Byte) (relaxed : Bool)
      (tag : Option (BitVec 16))                  -- a steering tag (R399)
  | hostRead (id : Nat) (f : Func) (pasid : Option (BitVec 20)) (pieces : List (Nat × Nat))   -- translated address, bytes (R80)
  | msix (f : Func) (vector : Nat) (address : Word64) (data : Word32) (tag : Option (BitVec 16))
  | atsRequest (id : Nat) (f : Func) (pasid : Option (BitVec 20)) (page pages : Nat)
  | pageRequest (f : Func) (pasid : Option (BitVec 20)) (page prg : Nat)
  | invalidateDone (f : Func)
  | readData (f : Func) (value : Word64)
  | cplData (id : Nat) (bytes : List Byte)        -- a completion of an Eyelet load
  | cplUnsupported (f : Func)
  | cplAtomic (f : Func) (tlpTag : Nat)           -- an Unsupported Request answer to an AtomicOp
  | cplAbort (id : Nat)
  | frame (port : Fin 10) (t : TxFrame) (image : List Byte)   -- with its bytes, from destination address to FCS (R153)
  | loopback (b : FrameBody)                       -- a frame to the node itself (R52)
  | mailbox (r : MbxResp) (image : List Byte)      -- with its header and body as the ring gets them (R467)
  | sliceImage (slice : Nat) (image : SliceImage)
  | spdm (port : Nat) (session : Nat) (r : SpdmResp)
  | pldm (r : PldmResp)
  | pwrGood (high : Bool)
  | pinLevel (pin : Nat) (high : Bool)
  | pinFloat (pin : Nat)                           -- a shorted output at high impedance (R522)
  | thermAlert (low : Bool)
deriving DecidableEq, Repr

/-- The block's state: everything the spec gives it, the queue of waiting commands, and two of the model's own
fields: `out` (what left the part) and `freeCount` (which free value comes next). `regs` holds every register field
that software writes and every read-clear counter, by register and instance; unlisted ones read their reset value. -/
structure State where
  pending : List Instr := []
  out : List Output := []
  freeCount : Nat := 0
  regs : List ((Nat × Nat) × Word64) := []
  time : TimeState := {}
  board : BoardState := {}
  power : PowerState := {}
  boot : BootState := {}
  fw : FwState := {}
  last : LastState := {}
  mem : MemState := {}
  xlate : XlateState := {}
  queue : QueueState := {}
  trans : TransState := {}
  ports : Vector Port 10 := Vector.replicate 10 {}
  filters : List (Nat × FilterRec) := []
  ingress : List Held := []
  bypass : Bypass := {}
  route : RouteState := {}
  work : WorkState := {}
  slices : Vector Slice 512 := Vector.replicate 512 {}
  dirtyLogs : List DirtyLog := []
  mailboxes : List (Nat × Mailbox) := []
  host : Vector HostPort 2 := Vector.replicate 2 {}
  hostReads : List HostRead := []
  keys : KeyStoreState := {}
  checks : List CheckCtx := []
deriving DecidableEq, Repr

/-- The state after reset: every field at the value the spec states, or the one its log entry names. Slice 0 is
bound to the physical function of host port A (R370). -/
def State.reset : State :=
  { slices := (Vector.replicate 512 {}).set 0 { state := .active } }

end Sys2Proof.Machine
end

