-- ==== Sys2Proof/Machine/Ops.lean ====
section
/-! DEFINITION. The named operations over the state that every family shares: time and deadlines (R28), free values,
registers (R4), outputs, events (R113), slices and quotas (R40, R373), clusters, choices. -/

namespace Sys2Proof.Machine

/-- What a command answers. -/
abbrev Result := Host.Outcome State Fault Refusal

/-! ## Time -/

/-- The tick of a Device Time (R28). -/
def tick (ns : Nat) : Nat := ns / 64

/-- A deadline has passed: Device Time is in a later tick (R28). -/
def State.passed (s : State) (deadline : Nat) : Bool := tick deadline < tick s.time.now

/-- A periodic action scheduled for a time is due. -/
def State.due (s : State) (at_ : Nat) : Bool := at_ ≤ s.time.now

/-! ## Free values (log entry 2) -/

/-- The copy of the LMS state in use: of the valid ones, that with the higher sequence number; none where neither is valid (R456). -/
def BootState.lmsInUse (b : BootState) : Option Nat :=
  let x := vget b.lms 0 {}
  let y := vget b.lms 1 {}
  if x.good ∧ (!y.good ∨ y.seq < x.seq) then some 0 else if y.good then some 1 else none

/-- The boot descriptor in use: copy 0 if its CRC-32C holds, else copy 1, else slot A for every image (R444). -/
def BootState.descInUse (b : BootState) : BootDesc :=
  let x := vget b.desc 0 {}
  let y := vget b.desc 1 {}
  if x.good then x else if y.good then y else {}

def BootState.stageSlot (b : BootState) : Nat := b.descInUse.stageSlot

def BootState.fwSlot (b : BootState) : Nat := b.descInUse.fwSlot

def BootState.lastSlot (b : BootState) : Nat := b.descInUse.lastSlot

/-- Change slot pointers, in both copies. -/
def BootState.point (b : BootState) (f : BootDesc → BootDesc) : BootState :=
  { b with desc := Vector.replicate 2 { f b.descInUse with good := true } }

/-- The version that fuses read: their highest position of which either bit is blown (R450). -/
def Thermo.version (f : Thermo) : Nat :=
  (List.range 64).foldl (fun v k => if f.bits.getLsbD k || f.twins.getLsbD k then k + 1 else v) 0

/-- Blow both bits of every position up to a version (R451). -/
def Thermo.blow (f : Thermo) (v : Nat) : Thermo :=
  let m := BitVec.ofNat 64 (2 ^ min v 64 - 1)
  { bits := f.bits ||| m, twins := f.twins ||| m }

/-- A LAST_ACTIVATE completes: the descriptor points at its slot, and LastVersion rises (R45, R451). -/
def BootState.lastActivated (b : BootState) (slot : Nat) (l : LastImage) : BootState :=
  { b.point (fun d => { d with lastSlot := slot }) with lastFuses := b.lastFuses.blow l.secVersion }

def BootState.fuseStage (b : BootState) : Nat := b.stageFuses.version

def BootState.fuseFw (b : BootState) : Nat := b.fwFuses.version

def BootState.fuseLast (b : BootState) : Nat := b.lastFuses.version

/-- Indices of the top tree (R454). -/
def topIndices : Nat := 1048576

/-- The next index of the top tree; where no copy of the LMS state is valid, none is left. -/
def BootState.topNext (b : BootState) : Nat := ((b.lmsInUse).map fun k => (vget b.lms k {}).next).getD topIndices

/-- The next free value. -/
def State.freeNow (s : State) : Nat := (Config.freeBits s.freeCount).toNat

/-- Move on to the next free value. -/
def State.advanceFree (s : State) : State := { s with freeCount := s.freeCount + 1 }

/-- A free choice of an acceptable number below `n`: the first at or cyclically after the free value. -/
def State.freeChoice (s : State) (n : Nat) (good : Nat → Bool) : Option Nat :=
  chooseFrom n good n (s.freeNow % n)

/-! ## Registers -/

/-- The bits of a register that software or a counter wrote, or its reset value. -/
def State.rawReg (s : State) (r : Reg) (k : Nat) : Word64 := (assoc s.regs (r.code, k)).getD r.resetBits

def State.setRawReg (s : State) (r : Reg) (k : Nat) (w : Word64) : State :=
  { s with regs := assocSet s.regs (r.code, k) w }

/-- The stored value of a field, instance `k` of its register. -/
def State.fld (s : State) (f : Fld) (k : Nat) : Nat := bitsOf (s.rawReg f.reg k) f.hi f.lo

def State.setFld (s : State) (f : Fld) (k : Nat) (v : Nat) : State :=
  s.setRawReg f.reg k (setBits (s.rawReg f.reg k) f.hi f.lo v)

/-- Add to a saturating counter field. -/
def State.bumpBy (s : State) (f : Fld) (k n : Nat) : State :=
  s.setFld f k (min (s.fld f k + n) (2 ^ (f.hi + 1 - f.lo) - 1))

def State.bump (s : State) (f : Fld) (k : Nat) : State := s.bumpBy f k 1

/-! ## Outputs and events -/

def State.emit (s : State) (o : Output) : State := { s with out := s.out ++ [o] }

/-! ## Slices -/

def State.slice (s : State) (k : Nat) : Slice := vget s.slices k {}

/-- Raise an event: it waits until EVENT_RECORD brings it to its slice's event queue (R113), and carries the slice's
generation (R373). -/
def State.raise (s : State) (e : Event) : State :=
  { s with queue.events := s.queue.events ++ [{ e with gen := (s.slice e.slice).gen }] }

def State.modSlice (s : State) (k : Nat) (f : Slice → Slice) : State := { s with slices := vmod s.slices k f }

def State.gen (s : State) (k : Nat) : Nat := (s.slice k).gen

/-- The slice's quotas from the Last in force (R40); all zero until one is. -/
def State.quota (s : State) (k : Nat) : Quotas :=
  match s.last.inForce with
  | some l => (l.quotas[k]?).getD {}
  | none => { waitMs := 200 }

/-- The function a slice is bound to. -/
def Slice.func (x : Slice) : Func := ⟨Fin.ofNat 2 x.port, Fin.ofNat 256 x.fn⟩

/-- The part is powered, out of reset and not in Recovery (R449, R501, R525). -/
def State.serving (s : State) : Bool := s.board.pwrGood && s.board.resetN && !s.power.shutdown && s.boot.stage ≠ 3

/-- A slice is bound to this function and its window is reachable (R371, R380). -/
def State.bound (s : State) (k : Nat) (f : Func) : Bool :=
  let x := s.slice k
  s.serving && decide (x.state ≠ .unbound ∧ x.state ≠ .resetting ∧ x.func = f)

/-- The function that slice 0 is bound to (R396). -/
def State.isManager (s : State) (f : Func) : Bool := s.serving && decide ((s.slice 0).func = f)

/-- Fault wait limit of a slice in ns: 0 is taken as 1 and more than 10,000 as 10,000 ms (R88, R91). -/
def State.waitLimit (s : State) (k : Nat) : Nat := clamp 1 10000 (s.fld .xltFaultCtrlWaitLimitMs k) * 1000000

/-- Retry interval of inbound fault NAKs in µs (R86, R91). -/
def State.faultRetryUs (s : State) (k : Nat) : Nat := clamp 10 10000 (s.fld .xltFaultCtrlRetryAfterUs k)

/-! ## The node -/

/-- The node's coordinates (R51): from the Last in force. -/
def State.coord (s : State) : Coord := (s.last.inForce.map (·.coord)).getD 0

/-- Bits [63:44] of a fabric physical address, and its local offset (R51). -/
def fpaCoord (fpa : Nat) : Coord := BitVec.ofNat 20 (fpa / 2 ^ 44)
def fpaOffset (fpa : Nat) : Nat := fpa % 2 ^ 44
def mkFpa (c : Coord) (offset : Nat) : Nat := c.toNat * 2 ^ 44 + offset

def coordSite (c : Coord) : Nat := c.toNat / 2 ^ 16
def coordHall (c : Coord) : Nat := c.toNat / 2 ^ 12 % 16
def coordGroup (c : Coord) : Nat := c.toNat / 2 ^ 6 % 64
def coordNode (c : Coord) : Nat := c.toNat % 64

/-- Areas of the local offset map (R53). The far tier ends at the decoded capacity (R54). -/
inductive Area where
  | near | far | hostA | hostB | reserved
deriving DecidableEq, Repr

/-- Where the far tier, the firmware reserve (R293) and the end of near memory lie. -/
def farBase : Nat := 0x10000000000
def reserveBase : Nat := 0x6A00000000
def nearBytes : Nat := 0x6C00000000

/-- Decoded far-tier capacity in bytes (R308). -/
def State.farBytes (s : State) : Nat :=
  ((s.mem.far.toList.map (·.decodedGiB)).foldl (· + ·) 0) * 2 ^ 30

def State.area (s : State) (off : Nat) : Area :=
  if off < nearBytes then .near
  else if off < farBase then .reserved
  else if off < 0xD0000000000 then if off < farBase + s.farBytes then .far else .reserved
  else if off < 0xE0000000000 then .hostA
  else if off < 0xF0000000000 then .hostB
  else .reserved

def Area.tier : Area → Option Tier
  | .near => some .near
  | .far => some .far
  | .hostA => some .hostA
  | .hostB => some .hostB
  | .reserved => none

/-! ## Clusters (R490 to R493) -/

/-- A cluster is awake. -/
def State.awake (s : State) (c : Nat) : Bool := vget s.power.sleep c .awake = .awake

def State.setSleep (s : State) (c : Nat) (x : SleepState) : State :=
  { s with power.sleep := vset s.power.sleep c x, power.sleepSince := vset s.power.sleepSince c s.time.now }

/-- A wake trigger for a cluster (R492): it is awake, within a wake time that the model leaves out. An entry lasts until the end
of the tick in which it began: a trigger within it ends it, and is counted (R493). -/
def State.wakeCluster (s : State) (c : Nat) : State :=
  if s.awake c then s
  else
    let s := if tick (vget s.power.sleepSince c 0) = tick s.time.now then s.bump .pwrStatSleepAborts 0 else s
    s.setSleep c .awake

def State.wakeAll (s : State) (l : List Nat) : State := l.foldl State.wakeCluster s

/-- A Last activation is in its pause (R49). -/
def State.inPause (s : State) : Bool :=
  match s.last.phase with
  | .paused .. => true
  | _ => false

/-- Firmware is handed over or resets itself: connection setup, group creation and service starts wait (R477, R484). -/
def State.fwAway (s : State) : Bool := (s.fw.switching && s.fw.quiesceAt.any s.due) || s.fw.resetting

/-- Arithmetic of a cluster is out of service (R29). -/
def State.arithOutOf (s : State) (c : Nat) : Bool := s.work.arithOut.getLsbD c

/-! ## Host functions -/

def State.hostPort (s : State) (p : Nat) : HostPort := vget s.host p {}

def HostPort.func (h : HostPort) (fn : Nat) : FuncState :=
  if fn = 0 then h.pfState else (assoc h.vfs fn).getD {}

def HostPort.setFunc (h : HostPort) (fn : Nat) (x : FuncState) : HostPort :=
  if fn = 0 then { h with pfState := x } else { h with vfs := assocSet h.vfs fn x }

def State.funcState (s : State) (f : Func) : FuncState := (s.hostPort f.port).func f.fn

def State.modFunc (s : State) (f : Func) (g : FuncState → FuncState) : State :=
  { s with host := vmod s.host f.port fun h => h.setFunc f.fn (g (h.func f.fn)) }

/-- Bits of AER's Uncorrectable Error Status, and the Advisory Non-Fatal bit of the Correctable one (PRESUMED, log entry 79). -/
def aerTimeout : Nat := 14
def aerUnsupported : Nat := 20
def aerIdeFail : Nat := 28
def aerAdvisory : Nat := 13

/-- A function records an error: a completion timeout and an unsupported request as advisory ones (R392). -/
def State.aerNote (s : State) (f : Func) (bit : Nat) : State :=
  s.modFunc f fun x =>
    { x with aerUncor := x.aerUncor ||| BitVec.ofNat 32 (2 ^ bit),
             aerCor := if bit = aerIdeFail then x.aerCor else x.aerCor ||| BitVec.ofNat 32 (2 ^ aerAdvisory) }

/-- The slices of which `p` holds, in order. -/
def State.slicesWith (s : State) (p : Slice → Bool) : List Nat :=
  s.slices.toList.zipIdx.filterMap fun x => if p x.1 then some x.2 else none

/-- A function exists and is enabled (R369, R394). -/
def State.funcEnabled (s : State) (f : Func) : Bool :=
  f.fn.val = 0 || ((s.hostPort f.port).vfEnable && f.fn.val ≤ (s.hostPort f.port).numVfs)

end Sys2Proof.Machine
end

