-- ==== Sys2Proof/Machine/ArbOps.lean ====
section
/-! DEFINITION. The arbiter (R210 to R213), of which each of the 48 Shank memory ports and each of the ten egress ports has one:
shadows and commits, the requester that is granted next, and the locked sequences of a Shank port. -/

namespace Sys2Proof.Machine

/-! ## Shadows (R213) -/

/-- The instance that holds the value in force of a register whose writes wait for a commit. -/
def inForceAt (k : Nat) : Nat := k + 64

/-- The field in force. -/
def State.fldNow (s : State) (f : Fld) (k : Nat) : Nat := s.fld f (inForceAt k)

/-- A commit: the shadow of a register takes effect. -/
def State.commitReg (s : State) (r : Reg) (k : Nat) : State := s.setRawReg r (inForceAt k) (s.rawReg r k)

/-! ## Whom an arbiter grants next (R211): it has four requesters, `asks` are those that request -/

/-- A requester that has waited through `age` grants, unless a protected requester other than itself asks; otherwise the lowest rank,
round robin within it. -/
def arbGrant (rank : Nat → Nat) (age : Nat) (guarded : Nat → Bool) (waited : Vector Nat 4) (last : Nat) (asks : List Nat) :
    Option Nat :=
  let aged := asks.filter fun r => decide (age ≤ vget waited r 0) && asks.all fun o => o = r || !guarded o
  match aged with
  | r :: _ => some r
  | [] =>
    let best := (asks.map rank).min?
    chooseFrom 4 (fun r => asks.contains r && some (rank r) = best) 4 (last + 1)

/-- Grants that each requester has waited through, after a grant to `r`. -/
def arbWaited (waited : Vector Nat 4) (asks : List Nat) (r : Nat) : Vector Nat 4 :=
  Vector.ofFn fun (k : Fin 4) => if k.val = r ∨ !asks.contains k.val then 0 else vget waited k.val 0 + 1

/-! ## A Shank memory port: 0 the class 7 path of cluster 0, 1 the Edge ports, 2 the Cluster ports, 3 firmware housekeeping -/

/-- The rank in force of a requester; the class 7 path holds rank 0. -/
def State.shankRank (s : State) (r : Nat) : Nat :=
  match r with
  | 0 => 0
  | 1 => s.fldNow .memArbRankEdge 0
  | 2 => s.fldNow .memArbRankCluster 0
  | _ => s.fldNow .memArbRankHousekeeping 0

/-- The next owner of a Shank port: the holder of a locked sequence alone while it lasts (R212), else the arbiter's choice. -/
def State.shankNext (s : State) (a : ShankPort) (asks : List Nat) : Option Nat :=
  match a.lock with
  | some (r, _) => if asks.contains r then some r else none
  | none => arbGrant s.shankRank (max 8 (s.fldNow .memArbRankAgeGrants 0)) (fun r => r = 0) a.waited a.last asks

/-- A grant of some beats: a lock ends after its 32nd beat (R212). -/
def ShankPort.own (a : ShankPort) (asks : List Nat) (r beats : Nat) : ShankPort :=
  { a with last := r, waited := arbWaited a.waited asks r,
           lock := a.lock.bind fun (o, n) => if 32 ≤ n + beats then none else some (o, n + beats) }

/-- The Shank port of an offset: 1 KiB granules over all 48 ports by a fixed hash (R13, R292). -/
def portOfGranule (offset : Nat) : Nat := Config.granulePort (offset / 1024) % 48

/-- The 1 KiB granules that bytes lie in, each with the beats of 128 B that its share of them takes. -/
def granuleBeats (offset length : Nat) : List (Nat × Nat) :=
  (List.range (ceilDiv (offset % 1024 + length) 1024)).map fun k =>
    let g := (offset / 1024 + k) * 1024
    let a := max offset g
    (g, ceilDiv (min (offset + length) (g + 1024) - a / 128 * 128) 128)

/-- Requests of one requester for the ports of an offset's bytes. A command is the only one that runs, so no other requester asks
beside it: which requester's beats go first in time is left out (DESIGN CHOICE, log entry 80). -/
def State.shankUse (s : State) (r offset length : Nat) : State :=
  let grant (v : Vector ShankPort 48) (x : Nat × Nat) : Vector ShankPort 48 :=
    vmod v (portOfGranule x.1) fun a => match s.shankNext a [r] with
      | some w => a.own [r] w x.2
      | none => a
  { s with mem.shank := (granuleBeats offset length).foldl grant s.mem.shank }

/-- Begin a locked sequence of a requester on the port of an offset (R212). -/
def State.shankLock (s : State) (r offset : Nat) : State :=
  { s with mem.shank := vmod s.mem.shank (portOfGranule offset) fun a => { a with lock := some (r, 0) } }

/-- The write-back of a corrected codeword, one beat of its owner's sequence (R297). -/
def State.shankBack (s : State) (offset : Nat) : State :=
  { s with mem.shank := vmod s.mem.shank (portOfGranule offset) fun a => a.own [a.last] a.last 1 }

/-- End a locked sequence. -/
def State.shankFree (s : State) (offset : Nat) : State :=
  { s with mem.shank := vmod s.mem.shank (portOfGranule offset) fun a => { a with lock := none } }

end Sys2Proof.Machine
end

