-- ==== Sys2Proof/Machine/Memory.lean ====
section
/-! DEFINITION. Near and far memory: the cell list in its canonical form, the memory data code (R296 to R298), reads
and writes with its outcomes (R297 to R301), the error log and its events (R305, R306). -/

namespace Sys2Proof.Machine

/-! ## The cells

`cells` lists (local offset, byte), offsets strictly rising, no byte zero: an offset that is not listed reads zero
(log entry 1). -/

/-- The byte at an offset. -/
def Memory.get : List MemCell → Nat → Byte
  | [], _ => 0
  | (x, y) :: m, a => if x = a then y else Memory.get m a

/-- Write one byte, keeping the canonical form. -/
def Memory.put : List MemCell → Nat → Byte → List MemCell
  | [], a, b => if b = 0 then [] else [(a, b)]
  | (x, y) :: m, a, b =>
    if a < x then (if b = 0 then (x, y) :: m else (a, b) :: (x, y) :: m)
    else if a = x then (if b = 0 then m else (a, b) :: m)
    else (x, y) :: Memory.put m a b

/-- Write consecutive bytes. -/
def Memory.write : List MemCell → Nat → List Byte → List MemCell
  | m, _, [] => m
  | m, a, b :: r => Memory.write (Memory.put m a b) (a + 1) r

/-- Read consecutive bytes. -/
def Memory.read (m : List MemCell) : Nat → Nat → List Byte
  | _, 0 => []
  | a, n + 1 => Memory.get m a :: Memory.read m (a + 1) n

/-- Every offset above `lo`, strictly rising, no zero byte. -/
def Memory.wfFrom : Option Nat → List MemCell → Bool
  | _, [] => true
  | lo, (x, y) :: m => decide (∀ l ∈ lo, l < x) && decide (y ≠ 0) && Memory.wfFrom (some x) m

/-- The canonical form. -/
def Memory.wf (m : List MemCell) : Bool := Memory.wfFrom none m

/-! ## GF(2^8) with x^8 + x^4 + x^3 + x^2 + 1 (R296) -/

def gfXtime (a : Byte) : Byte := if a.msb then (a <<< 1) ^^^ 0x1D else a <<< 1

def gfMulAux : Nat → Byte → Byte → Byte
  | 0, _, _ => 0
  | n + 1, a, b => (if b.getLsbD 0 then a else 0) ^^^ gfMulAux n (gfXtime a) (b >>> 1)

def gfMul (a b : Byte) : Byte := gfMulAux 8 a b

/-- α^n with α = 0x02. -/
def gfAlpha : Nat → Byte
  | 0 => 1
  | n + 1 => gfXtime (gfAlpha n)

def gfPow (a : Byte) : Nat → Byte
  | 0 => 1
  | n + 1 => gfMul a (gfPow a n)

def gfInv (a : Byte) : Byte := gfPow a 254

/-- The exponent of pin i's symbol in the codeword polynomial: data symbols are its high coefficients in pin order
(log entry 12). -/
def pinPower (pin : Nat) : Nat := 67 - pin

/-- Syndrome k of an error pattern (R296: the generator's roots are α^0 to α^3). -/
def syndrome (errs : List (Nat × Byte)) (k : Nat) : Byte :=
  errs.foldl (fun acc e => acc ^^^ gfMul e.2 (gfAlpha (k * pinPower e.1 % 255))) 0

/-- What the decoder makes of a codeword. -/
inductive Decoded where
  | clean
  | corrected (fix : List (Nat × Byte))
  | uncorrectable
deriving DecidableEq, Repr

def solveOne (s0 s1 s2 s3 : Byte) : Nat → Option (Nat × Byte)
  | 0 => none
  | n + 1 =>
    let x := gfAlpha (pinPower n)
    if s0 ≠ 0 ∧ s1 = gfMul s0 x ∧ s2 = gfMul s1 x ∧ s3 = gfMul s2 x then some (n, s0) else solveOne s0 s1 s2 s3 n

/-- The two errors at pins `i` and `j` that give the syndromes, if there are any. -/
def solveAt (s0 s1 s2 s3 : Byte) (i j : Nat) : Option (List (Nat × Byte)) :=
  let x := gfAlpha (pinPower i)
  let y := gfAlpha (pinPower j)
  let b := gfMul (s1 ^^^ gfMul s0 x) (gfInv (x ^^^ y))
  let a := s0 ^^^ b
  if a ≠ 0 ∧ b ≠ 0 ∧ s2 = gfMul a (gfMul x x) ^^^ gfMul b (gfMul y y)
      ∧ s3 = gfMul a (gfMul x (gfMul x x)) ^^^ gfMul b (gfMul y (gfMul y y)) then
    some [(i, a), (j, b)]
  else none

/-- The decoder (R297): nothing wrong, one or two symbols located, or uncorrectable. -/
def decodeErrs (errs : List (Nat × Byte)) : Decoded :=
  let s0 := syndrome errs 0
  let s1 := syndrome errs 1
  let s2 := syndrome errs 2
  let s3 := syndrome errs 3
  if s0 = 0 ∧ s1 = 0 ∧ s2 = 0 ∧ s3 = 0 then .clean
  else match solveOne s0 s1 s2 s3 68 with
    | some e => .corrected [e]
    | none =>
      match (List.range 68).findSome? fun i =>
          (List.range 68).findSome? fun j => if i < j then solveAt s0 s1 s2 s3 i j else none with
      | some fix => .corrected fix
      | none => .uncorrectable

/-- Flip in a codeword's 64 data bytes the bits that a pattern of pin symbols names: bit b of pin i's symbol is bit
i mod 8 of byte 8b + i ÷ 8 (log entry 12). -/
def applyErrs (data : List Byte) (errs : List (Nat × Byte)) : List Byte :=
  data.zipIdx.map fun (d, k) =>
    errs.foldl (fun acc e =>
      if e.1 < 64 ∧ e.1 / 8 = k % 8 ∧ e.2.getLsbD (k / 8) then acc ^^^ (1 <<< (e.1 % 8)) else acc) d

/-! ## Errors, their log and their events -/

/-- Stack × 32 + channel of an offset (R13, R292): its 1 KiB granule is on one of the 48 Shank ports, eight to a stack, and its
codeword on one of the four channels that the port serves. -/
def channelOf (offset : Nat) : Nat := portOfGranule offset * 4 + Config.codewordLane (offset / 64) % 4

/-- Push an entry into the log of 64 and, when uncorrectable, the history (R305). -/
def State.logError (s : State) (offset kind source : Nat) (pins : List Nat) : State :=
  let ch := channelOf offset
  let e : ErrEntry :=
    { stamp := s.time.now % 2 ^ 48, stack := ch / 32, channel := ch % 32, kind, source, offset,
      sym0 := pins.getD 0 0xFF, sym1 := pins.getD 1 0xFF }
  let lost := (s.mem.log.drop 63).countP fun x => !x.read
  let s := if lost = 0 then s else s.bumpBy .memErrlogStatLost 0 lost
  { s with mem.log := e :: s.mem.log.take 63,
           mem.history := if kind = 2 then s.mem.history ++ [e] else s.mem.history }

/-- The slice whose Active region covers an offset, if any (R306). -/
def State.ownerAt (s : State) (offset : Nat) : Option Nat :=
  (s.xlate.ranges.find? fun r => r.state = .active && r.start ≤ offset && offset < r.start + r.length).map (·.slice)

/-- An uncorrectable codeword: counted, logged, MEM_UE to slice 0 and to the region's owner (R305, R306). -/
def State.memUe (s : State) (offset source : Nat) (pins : List Nat) : State :=
  let ch := channelOf offset
  let cnt : Fld := if source = 3 then .memEccStatScrubUe else if source = 4 then .memEccStatTransferUe
    else .memEccStatUncorrectable
  let s := (s.bump cnt (ch / 32)).logError offset 2 source pins
  let ev (k : Nat) : Event :=
    { slice := k, code := EventCode.memUe, status := Status.memUncorrectable, object := ch, info := offset,
      detail := pins.getD 0 0xFF * 2 ^ 56 + pins.getD 1 0xFF * 2 ^ 48 + source }
  let s := s.raise (ev 0)
  match s.ownerAt offset with
  | some k => if k = 0 then s else s.raise (ev k)
  | none => s

/-- A transfer from a port buffer to `offset` arrives with an uncorrectable codeword (R14, R306): nothing is written. -/
def State.transferUe (s : State) (offset : Nat) : State := s.memUe (offset / 64 * 64) 4 []

/-- A corrected codeword: counted and logged, and MEM_CE_STORM where its channel has corrected more than StormLimit within the minute, once
per channel per minute, whatever is written to StormLimit meanwhile (R297, R306). -/
def State.memCe (s : State) (offset source : Nat) (pins : List Nat) : State :=
  let ch := channelOf offset
  let s := (s.bump .memEccStatCorrected (ch / 32)).logError offset 1 source pins
  let minute := s.time.now / 60000000000
  let here := (ch / 32, ch % 32)
  let table := if minute = s.mem.ceMinute then s.mem.ceCount else []
  let told := if minute = s.mem.ceMinute then s.mem.ceStorm else []
  let n := (assoc table here).getD 0 + 1
  let storm := decide (max 1 (s.fld .memCeCtrlStormLimit 0) < n) && !told.contains here
  let s := { s with mem.ceCount := assocSet table here n, mem.ceMinute := minute,
                    mem.ceStorm := if storm then told ++ [here] else told }
  if storm then s.raise { slice := 0, code := EventCode.memCeStorm, object := ch } else s

/-- Decode one codeword that holds symbol errors: on correction the data is put right and written back (R297), and
the codeword is sound again; an uncorrectable one stays. Answers whether it could be corrected. -/
def State.repair (s : State) (w : BadWord) (source : Nat) : State × Bool :=
  let pins := (w.errs.map (·.1)).mergeSort
  match decodeErrs w.errs with
  | .clean =>
    let data := applyErrs (Memory.read s.mem.cells w.offset 64) w.errs
    ({ s with mem.cells := Memory.write s.mem.cells w.offset data,
              mem.bad := s.mem.bad.filter fun b => b.offset ≠ w.offset }, true)
  | .corrected fix =>
    let data := applyErrs (applyErrs (Memory.read s.mem.cells w.offset 64) w.errs) fix
    let s := { s with mem.cells := Memory.write s.mem.cells w.offset data,
                      mem.bad := s.mem.bad.filter fun b => b.offset ≠ w.offset }
    ((s.shankBack w.offset).memCe w.offset source (fix.map (·.1)), true)
  | .uncorrectable =>
    let s := s.memUe w.offset source pins
    let told (b : BadWord) : BadWord := { b with logged := true }
    ({ s with mem.bad := updWhere (fun b => b.offset = w.offset) told s.mem.bad }, false)

/-- The faulty codewords that an access touches. -/
def badIn (bad : List BadWord) (offset length : Nat) : List BadWord :=
  bad.filter fun w => w.offset < offset + length && offset < w.offset + 64

/-- Decode every faulty codeword of a list; answers whether all could be corrected. -/
def State.repairAll (s : State) (source : Nat) : List BadWord → State × Bool
  | [] => (s, true)
  | w :: r =>
    let (s, a) := s.repair w source
    let (s, b) := s.repairAll source r
    (s, a && b)

/-- A near-memory request takes the stacks out of self-refresh (R494). -/
def State.touchNear (s : State) : State := { s with power.selfRefresh := false, power.edgeIdleSince := s.time.now }

/-- Read near memory (R297, R299), for a requester of the Shank (a cluster where none is named): no byte where a codeword is
uncorrectable. -/
def State.readNear (s : State) (offset length : Nat) (r : Nat := 2) : State × Option (List Byte) :=
  let (s, good) := (s.touchNear.shankUse r offset length).repairAll 1 (badIn s.mem.bad offset length)
  (s, if good then some (Memory.read s.mem.cells offset length) else none)

/-- Write the bytes that do not lie in a codeword left uncorrectable (R300). -/
def writeAround (m : List MemCell) (bad : List BadWord) : Nat → List Byte → List MemCell
  | _, [] => m
  | a, b :: r =>
    let m := if bad.any fun w => w.offset ≤ a && a < w.offset + 64 then m else Memory.put m a b
    writeAround m bad (a + 1) r

/-- Write near memory: whole codewords replace, a partial one is read first (R300, R301). Answers whether every
byte was written. -/
def State.writeNear (s : State) (offset : Nat) (bytes : List Byte) (r : Nat := 2) : State × Bool :=
  let s := s.touchNear.shankUse r offset bytes.length
  let hit := badIn s.mem.bad offset bytes.length
  let whole (w : BadWord) : Bool := offset ≤ w.offset && w.offset + 64 ≤ offset + bytes.length
  let s := { s with mem.bad := s.mem.bad.filter fun w => !(hit.contains w && whole w) }
  let (s, good) := s.repairAll 2 (hit.filter fun w => !whole w)
  let left := badIn s.mem.bad offset bytes.length
  ({ s with mem.cells := writeAround s.mem.cells left offset bytes }, good)

/-- The end of the range that the far-tier port serving an offset decodes, where its link is up and it is in service (R308, R310). -/
def State.farUpTo (s : State) (offset : Nat) : Option Nat :=
  (s.mem.far.toList.find? fun p =>
    p.linkUp && p.inService && farBase + p.baseGiB * 2 ^ 30 ≤ offset &&
      offset < farBase + (p.baseGiB + p.decodedGiB) * 2 ^ 30).map fun p => farBase + (p.baseGiB + p.decodedGiB) * 2 ^ 30

/-- Every byte of an access lies behind a port in service: the second port's range follows the first's (R308, R310). -/
def State.farServed (s : State) (offset length : Nat) : Bool :=
  (s.farUpTo offset).any fun a => decide (offset + length ≤ a) || (s.farUpTo a).any fun b => decide (offset + length ≤ b)

/-- Whether the far tier's devices return an access poisoned or with an error, or do not answer it within 10 µs (R310): no command brings
what they return, so that it is a free value of each access (log entry 59). Units of a COPY, which a command ends, also have the deadline
of a `FarAccess`. -/
def State.farBad (s : State) : Bool := (Config.freeBits s.freeCount).getLsbD 0

/-- Read local memory of the near or far tier. -/
def State.readLocal (s : State) (tier : Tier) (offset length : Nat) (r : Nat := 2) : State × Option (List Byte) :=
  if tier = .far then
    if s.farServed offset length then (s.advanceFree, if s.farBad then none else some (Memory.read s.mem.cells offset length)) else (s, none)
  else s.readNear offset length r

/-- Write local memory of the near or far tier. A write that a device turns away leaves what it would have written as it was (DESIGN CHOICE,
log entry 59). -/
def State.writeLocal (s : State) (tier : Tier) (offset : Nat) (bytes : List Byte) (r : Nat := 2) : State × Bool :=
  if tier = .far then
    if !s.farServed offset bytes.length then (s, false)
    else if s.farBad then (s.advanceFree, false)
    else ({ s.advanceFree with mem.cells := Memory.write s.mem.cells offset bytes }, true)
  else s.writeNear offset bytes r

end Sys2Proof.Machine
end

