-- ==== Sys2Proof/Machine/Access.lean ====
section
/-! DEFINITION. One local access from lookup to memory (R71 to R91, R137 to R139, R400 to R406): range lookup,
translation, the check, and the bytes. -/

namespace Sys2Proof.Machine

/-- How an access stands after an attempt. -/
inductive AccOut where
  | done (bytes : List Byte)
  | wait
  | stale                      -- old generation: discarded (R374)
  | fail (c : Status)
deriving DecidableEq, Repr

/-- Why the lookup or the check refuses (R79), with the cause codes of R149. -/
inductive CheckFail where
  | miss | stale | context | key | perm | outside | reserved | atomicTier | lace | revoking
deriving DecidableEq, Repr

def CheckFail.cause : CheckFail → Nat
  | .miss => 1 | .stale => 2 | .context => 3 | .key => 4 | .perm => 5 | .outside => 6
  | .reserved => 7 | .atomicTier => 8 | .lace => 9 | .revoking => 0

/-- The code with which a local request ends (R79). -/
def CheckFail.localCode : CheckFail → Status
  | .revoking => Status.regionRevoked
  | _ => Status.localAccess

/-! ## Lookup (R75, R77) -/

def RangeEntry.covers (e : RangeEntry) (offset length : Nat) : Bool :=
  e.start ≤ offset && offset + length ≤ e.start + e.length

/-- The search of R75: the entry, Active or Revoking, that covers the whole access. -/
def State.search (s : State) (slice offset length : Nat) : Option RangeEntry :=
  s.xlate.ranges.find? fun e => e.slice = slice && e.state ≠ .free && e.covers offset length

def State.cache (s : State) (c : Nat) : List CacheLine := vget s.xlate.caches c []

/-- Put a line into a cluster's Range Cache of 4,096 lines; which line it replaces is free (R77). -/
def State.addLine (s : State) (c : Nat) (l : CacheLine) : State :=
  let ls := s.cache c
  if ls.length < 4096 then { s with xlate.caches := vset s.xlate.caches c (ls ++ [l]) }
  else { s.advanceFree with xlate.caches := vset s.xlate.caches c (ls.eraseIdx (s.freeNow % 4096) ++ [l]) }

def CacheLine.rangeHit (slice offset length : Nat) : CacheLine → Option (Nat × BitVec 8)
  | .range sl st ln slot inc => if sl = slice ∧ st ≤ offset ∧ offset + length ≤ st + ln then some (slot, inc) else none
  | .page .. => none

/-- Stage 1 of R78: a cached range line, or the search. Answers the entry's slot and Incarnation. -/
def State.lookup (s : State) (c slice offset length : Nat) : State × Option (Nat × BitVec 8) :=
  match (s.cache c).findSome? (CacheLine.rangeHit slice offset length) with
  | some hit => (s.bump .cluXltStatHits c, some hit)
  | none =>
    if s.xlate.ranges.any fun e => e.slice = slice && e.state ≠ .free then
      let s := s.bump .cluXltStatMisses c
      match s.search slice offset length with
      | some e => (s.addLine c (.range slice e.start e.length e.slot e.incarnation), some (e.slot, e.incarnation))
      | none => (s, none)
    else (s, none)

def State.range (s : State) (slice slot : Nat) : Option RangeEntry :=
  s.xlate.ranges.find? fun e => e.slice = slice && e.slot = slot

def State.modRange (s : State) (slice slot : Nat) (f : RangeEntry → RangeEntry) : State :=
  { s with xlate.ranges := updWhere (fun e => e.slice = slice && e.slot = slot) f s.xlate.ranges }

/-! ## The check at the target (R79) -/

/-- `as` is in the owner set (R73). -/
def RangeEntry.owns (e : RangeEntry) (as : Nat) : Bool := as = e.as || e.anyAs || as = 127

def State.check (s : State) (slice as slot : Nat) (inc : BitVec 8) (permBit : Nat) (key : Option Word32)
    (offset length : Nat) : Except CheckFail RangeEntry :=
  match s.range slice slot with
  | none => .error .stale
  | some e =>
    if e.incarnation ≠ inc ∨ e.state = .free then .error .stale
    else if e.state = .revoking then .error .revoking
    else if !e.owns as then .error .context
    else if (match key with | some k => decide (k ≠ e.key) | none => false) then .error .key
    else if !e.perm.getLsbD permBit then .error .perm
    else if !e.covers offset length then .error .outside
    else .ok e

/-! ## Host tiers (R80 to R82, R400 to R402, R409) -/

def Tier.port : Tier → Option Nat
  | .hostA => some 0
  | .hostB => some 1
  | _ => none

/-- The function and PASID that carry a region's accesses (R400, R401). -/
def State.carrier (s : State) (e : RangeEntry) : Func × Option (BitVec 20) :=
  let x := s.slice e.slice
  match e.tier.port with
  | some p => if x.port = p then (x.func, e.pasid) else (⟨Fin.ofNat 2 p, 0⟩, none)
  | none => (x.func, none)

/-- How a failed read on a path ends (R402): by timeout or not, on host memory (PathTag 0xFFFF) or a peer. -/
def pathCode (pathTag : Nat) (timeout : Bool) : Status :=
  if pathTag = 0xFFFF then (if timeout then Status.hostLinkDown else Status.xlateDenied) else Status.p2pBlocked

/-- A path's TLPs may leave under IDE (R409, R410). -/
def State.ideOk (s : State) (port pathTag : Nat) : Bool :=
  let streams := (s.hostPort port).ide.toList.filter fun x => x.covers pathTag
  if streams.any fun x => x.state = 1 then true
  else if pathTag ≠ 0xFFFF ∧ streams.any fun x => x.state = 2 then false
  else s.fld .gblHostIdeCtrlRequired port = 0

/-- The function may issue requests on its port (R393, R394, R405, R406). -/
def State.mayRequest (s : State) (f : Func) : Bool :=
  (s.hostPort f.port).up && (s.funcState f).bme && !(s.funcState f).d3hot && s.funcEnabled f

/-- The function can issue no request on a path now, and the code its access ends with (R405, R406, R409, R410). -/
def State.requestBlocked (s : State) (f : Func) (pathTag : Nat) : Option Status :=
  if !s.mayRequest f then some Status.hostLinkDown
  else if !s.ideOk f.port pathTag then some (pathCode pathTag true)
  else none

/-- A function cannot carry an access now, and the code it ends with (R81, R405, R406, R409). -/
def State.hostBlocked (s : State) (f : Func) (pathTag : Nat) : Option Status :=
  if s.mayRequest f ∧ !(s.funcState f).ats then some Status.xlateDenied else s.requestBlocked f pathTag

/-- The 4 KiB pages that bytes touch. -/
def pagesOf (iova length : Nat) : List Nat :=
  (List.range ((iova + (length - 1)) / 4096 - iova / 4096 + 1)).map fun k => (iova / 4096 + k) * 4096

def CacheLine.pageHit (f : Func) (pasid : Option (BitVec 20)) (page : Nat) (write : Bool) : CacheLine → Option Nat
  | .page f' p' iova size hpa r w =>
    if f' = f ∧ p' = pasid ∧ iova ≤ page ∧ page < iova + size ∧ (if write then w else r) then
      some (hpa + (page - iova)) else none
  | .range .. => none

/-- The host physical address of a page in a cluster's translation lines, with the permission needed (R77, R82). -/
def State.translated (s : State) (c : Nat) (f : Func) (pasid : Option (BitVec 20)) (page : Nat) (write : Bool) :
    Option Nat :=
  (s.cache c).findSome? (CacheLine.pageHit f pasid page write)

/-- Send an ATS Translation Request for a page of a slice's region and at most 15 following pages of it (R80). -/
def State.sendAts (s : State) (slice c : Nat) (f : Func) (pasid : Option (BitVec 20)) (page lastPage : Nat) : State × Nat :=
  let id := s.xlate.nextId
  let n := min 16 ((lastPage - page) / 4096 + 1)
  let s := s.bump .cluXltStatMisses c
  let s := { s with xlate.nextId := id + 1,
                    xlate.ats := s.xlate.ats ++
                      [({ id, cluster := c, func := f, pasid, page, pages := n, sentAt := s.time.now, slice } : AtsReq)] }
  (s.emit (.atsRequest id f pasid page n), id)

/-! ## Dirty paths and flushes (R138, R139) -/

def State.dirtyOf (s : State) (slice : Nat) : List DirtyPath := (assoc s.xlate.dirty slice).getD []

def State.setDirty (s : State) (slice : Nat) (l : List DirtyPath) : State :=
  { s with xlate.dirty := if l.isEmpty then assocDel s.xlate.dirty slice else assocSet s.xlate.dirty slice l }

/-- The same path. -/
def DirtyPath.same (p q : DirtyPath) : Bool := p.port = q.port && p.pathTag = q.pathTag

/-- Put a path in place of an older write on it. -/
def addPath (l : List DirtyPath) (d : DirtyPath) : List DirtyPath := l.filter (fun p => !p.same d) ++ [d]

/-- The first failure stays. -/
def orCode (a b : Option Status) : Option Status := a.orElse fun _ => b

/-- A flush of a path covers the writes on it that a started descriptor has issued (R403): it waits for the flush, or keeps the code
with which none could be issued. -/
def Started.covered (p : DirtyPath) (r : Except Status Nat) (d : Started) : Started :=
  if !d.paths.any p.same then d
  else
    let d := { d with paths := d.paths.filter fun q => !p.same q }
    match r with
    | .ok id => if p.pathTag = 0xFFFF then d else { d with flushIds := d.flushIds ++ [id] }
    | .error c => { d with flushFail := orCode d.flushFail (some c) }

/-- The same for a message at its target (R404). -/
def RxMsg.covered (p : DirtyPath) (r : Except Status Nat) (m : RxMsg) : RxMsg :=
  if !m.peers.any p.same then m
  else
    let m := { m with peers := m.peers.filter fun q => !p.same q }
    match r with
    | .ok id => { m with flushes := m.flushes ++ [id] }
    | .error c => { m with flushFail := m.flushFail.orElse fun _ => some (c, p.pathTag) }

/-- What a slice's descriptors and messages have written on a path is covered by a flush of it, or by its failure. -/
def State.coverPath (s : State) (slice : Nat) (p : DirtyPath) (r : Except Status Nat) : State :=
  let queue (x : Queue) : Queue := { x with started := x.started.map (Started.covered p r) }
  let conn (c : Conn) : Conn := { c with msgs := c.msgs.map (RxMsg.covered p r) }
  { s with queue.queues := updWhere (fun x => x.slice = slice) queue s.queue.queues,
           trans.conns := updWhere (fun c => c.slice = slice) conn s.trans.conns }

/-- Issue a zero-length flushing read on a path, to the most recent address written there, as the function that wrote it: the path leaves
the set (R138). Where the function can issue none, the flush has failed with that code (R139, R405, R409, R410). -/
def State.issueFlush (s : State) (slice : Nat) (p : DirtyPath) (evicted : Bool) : State × Except Status Nat :=
  let s := s.setDirty slice ((s.dirtyOf slice).filter fun q => !p.same q)
  match s.requestBlocked p.func p.pathTag with
  | some c =>
    let s := (s.bump .slcRmaStatFlushFail slice).coverPath slice p (.error c)
    let held := evicted && (assoc s.xlate.heldFlushFail slice).isNone
    (if held then { s with xlate.heldFlushFail := assocSet s.xlate.heldFlushFail slice c } else s, .error c)
  | none =>
    let id := s.xlate.nextId
    let s := { s with xlate.nextId := id + 1,
                      xlate.flushes := s.xlate.flushes ++
                        [({ id, gen := s.gen slice, slice, port := p.port, pathTag := p.pathTag, evicted } : Flush)],
                      hostReads := s.hostReads ++
                        [({ id, port := p.port, fn := p.func.fn, slice, peer := p.pathTag ≠ 0xFFFF, sentAt := s.time.now,
                            use := .flush id } : HostRead)] }
    ((s.coverPath slice p (.ok id)).emit (.hostRead id p.func p.pasid [(p.last, 0)]), .ok id)

/-- A Relaxed Ordering write on a path makes it dirty; a ninth path first evicts the oldest (R138). -/
def State.markDirty (s : State) (slice : Nat) (d : DirtyPath) : State :=
  let l := s.dirtyOf slice
  if l.any d.same then s.setDirty slice (updWhere d.same (fun _ => d) l)
  else
    let s := match l with
      | p :: _ => if l.length ≥ 8 then (s.issueFlush slice p true).1 else s
      | [] => s
    s.setDirty slice (s.dirtyOf slice ++ [d])

/-- Issue the flushes of paths. Answers those to wait for, and the code of the first that could not be issued. -/
def State.issueFlushes (s : State) (slice : Nat) : List DirtyPath → State × List Nat × Option Status
  | [] => (s, [], none)
  | p :: r =>
    match s.issueFlush slice p false with
    | (s, .ok id) =>
      let (s, ids, code) := s.issueFlushes slice r
      (s, id :: ids, code)
    | (s, .error c) =>
      let (s, ids, code) := s.issueFlushes slice r
      (s, ids, orCode (some c) code)

/-- Before a fenced write: flush every dirty path but its own, and wait as well for the slice's eviction flushes
(R138). Answers the flushes to wait for, and the code of one that could not be issued. -/
def State.fence (s : State) (slice : Nat) (own : Option (Nat × Nat)) : State × List Nat × Option Status :=
  let others := (s.dirtyOf slice).filter fun p => own ≠ some (p.port, p.pathTag)
  let old := (s.xlate.flushes.filter fun f => f.slice = slice && f.evicted).map (·.id)
  let (s, ids, code) := s.issueFlushes slice others
  (s, old ++ ids, code)

/-- A fenced write is issued on its own path, which leaves the set (R138). -/
def State.leavePath (s : State) (slice port pathTag : Nat) : State :=
  s.setDirty slice ((s.dirtyOf slice).filter fun p => !(p.port = port && p.pathTag = pathTag))

/-! ## Dirty-page logging (R382, R383) -/

/-- The pages of the window that a host-memory write of a slice adds to the log. -/
def DirtyLog.newPages (d : DirtyLog) (pages : List Nat) : List Nat :=
  pages.filter fun p => d.base ≤ p && p < d.base + d.pages * 4096 && !d.recorded.contains p

/-- Record the pages of a host-memory write, once each. -/
def State.logPages (s : State) (slice : Nat) (pages : List Nat) : State :=
  { s with dirtyLogs := updWhere (fun d => d.slice = slice) (fun d => { d with recorded := d.recorded ++ d.newPages pages })
             s.dirtyLogs }

/-- Entries of the device log in use. -/
def State.logUsed (s : State) : Nat := (s.dirtyLogs.map fun d => d.recorded.length).sum

/-- The log of 65,536 entries has no room for the pages that a write adds (R383). -/
def State.logFull (s : State) (slice : Nat) (pages : List Nat) : Bool :=
  s.dirtyLogs.any fun d => d.slice = slice && !(d.newPages pages).isEmpty
    && decide (65536 < s.logUsed + (d.newPages pages).length)

/-- The write is one of a bitmap of the log, which is not logged itself (R382). -/
def AccessUse.isBitmap : AccessUse → Bool
  | .bitmap .. => true
  | _ => false

/-! ## The access -/

def State.modWaiting (s : State) (id : Nat) (f : Waiting → Waiting) : State :=
  { s with xlate.waiting := updWhere (fun w => w.id = id) f s.xlate.waiting }

def State.dropWaiting (s : State) (id : Nat) : State :=
  { s with xlate.waiting := s.xlate.waiting.filter fun w => w.id ≠ id }

/-- Leave an access waiting. -/
def State.park (s : State) (w : Waiting) : State × AccOut :=
  ({ s with xlate.waiting := s.xlate.waiting ++ [w] }, .wait)

/-- Count an access's failing code in its slice's registers (R91). -/
def State.failAccess (s : State) (slice : Nat) (c : Status) : State × AccOut :=
  (if c = Status.xlateDenied then s.bump .xltFaultStatDenied slice
   else if c = Status.xlateFaultTimeout then s.bump .xltFaultStatTimeouts slice else s, .fail c)

/-- Put the code of a failed flush into the status byte of a fenced entry that would carry SUCCESS (R139): byte 1 of
a completion entry, byte 2 of an event entry. -/
def patchStatus (isEvent : Bool) (c : Option Status) (bytes : List Byte) : List Byte :=
  match c with
  | none => bytes
  | some c =>
    let k := if isEvent then 2 else 1
    if bytes.getD k 0 = 0 then bytes.set k c else bytes

/-- Count an operation's failing code in its slice's host register (R411). -/
def State.countEnd (s : State) (slice : Nat) (c : Status) : State :=
  if c = Status.hostLinkDown then s.bump .slcHostStatLinkDownOps slice
  else if c = Status.p2pBlocked then s.bump .slcHostStatP2pBlocked slice else s

/-- A completion or event entry whose flushes have ended takes their code in place of SUCCESS (R139); the operation of a completion
entry is counted with it (R411). -/
def State.patchEntry (s : State) (w : Waiting) : State × Waiting :=
  match w.access.use, w.flushFail with
  | .entry q, some c =>
    let isEvent := s.queue.queues.any fun x => x.number = q && x.kind = .event
    let data := patchStatus isEvent w.flushFail w.access.data
    (if !isEvent && data ≠ w.access.data then s.countEnd w.access.slice c else s, { w with access := { w.access with data } })
  | _, _ => (s, w)

/-- The parts, of at most `size` bytes, of a run of bytes at an address. -/
def tlpParts (size addr len : Nat) : List (Nat × Nat) :=
  (List.range ((len + size - 1) / size)).map fun i => (addr + i * size, min size (len - i * size))

/-- What the TLPs of an access in a host tier name: the translated address and the bytes of each (R80). None crosses a 4 KiB page, or is
larger than the port's Max Read Request Size or Max Payload Size (R392). -/
def State.hostPieces (s : State) (c : Nat) (f : Func) (pasid : Option (BitVec 20)) (iova length : Nat) (write : Bool) :
    List (Nat × Nat) :=
  let h := s.hostPort f.port
  (pagesOf iova length).flatMap fun p =>
    let lo := max iova p
    tlpParts (if write then h.maxPayload else h.maxRead) ((s.translated c f pasid p write).getD 0 + (lo - p))
      (min (iova + length) (p + 4096) - lo)

/-- The steering tag of a vector, while the function's TPH Requester Enable allows it (R399). -/
def State.steering (s : State) (f : Func) (vector : Nat) : Option (BitVec 16) :=
  let x := s.funcState f
  if x.tph then some ((assoc x.steer vector).getD 0) else none

/-- The steering tag of a write: of a completion or event entry, that of its queue's vector, which is one of the function that its slice
is bound to (R94, R399). -/
def State.writeTag (s : State) (u : AccessUse) : Option (BitVec 16) :=
  match u with
  | .entry q => (s.queue.queues.find? fun x => x.number = q).bind fun x => s.steering (s.slice x.slice).func x.vector
  | _ => none

/-- Most posted data that a PCIe endpoint holds queued ahead of a write (R216). -/
def postedLimit : Nat := 32768

/-- A write of so many bytes waits in its source: with the posted data queued, taken as what the link partner has not acknowledged, it
would exceed 32 KiB (R216; log entry 79). One that exceeds it alone waits for an empty queue. -/
def State.postedFull (s : State) (port bytes : Nat) : Bool :=
  let queued := (s.hostPort port).posted.sum
  decide (0 < queued ∧ postedLimit < queued + bytes)

/-- Posted TLPs of these sizes are queued on a port. -/
def State.postTlps (s : State) (port : Nat) (sizes : List Nat) : State :=
  { s with host := vmod s.host port fun h => { h with unacked := h.unacked + sizes.length, posted := h.posted ++ sizes } }

/-- Send a host write in the TLPs that name its pieces, in their order. -/
def State.emitWrites (s : State) (f : Func) (pasid : Option (BitVec 20)) (data : List Byte) (relaxed : Bool)
    (tag : Option (BitVec 16)) : List (Nat × Nat) → State
  | [] => s
  | (hpa, len) :: r =>
    ((s.postTlps f.port [len]).emit (.hostWrite f pasid hpa (data.take len) relaxed tag)).emitWrites f pasid (data.drop len) relaxed tag r

/-- The descriptor that a write in a host tier is made for, if there is one (R403). -/
def State.useDesc (s : State) : AccessUse → Option (Nat × Word32)
  | .copyWrite q n _ | .rawBuffer q n | .service q n | .svcOut q n _ | .scanResult q n => some (q, n)
  | .landing k psn =>
    match s.trans.conns.findSome? fun c => if c.index = k then c.inflight.find? fun r => r.psn = psn else none with
    | none => none
    | some r =>
      match s.trans.conns.findSome? fun c => c.ops.find? fun o => o.id = r.op with
      | some o => match o.origin with
        | .desc q n => some (q, n)
        | .ckpt q n _ => some (q, n)
        | _ => none
      | none => none
  | .piece h _ =>
    match s.work.groups.find? fun g => g.handle = h with
    | some g => g.op.map fun o => (o.q, o.count)
    | none => none
  | _ => none

/-- Note the path that a write is issued on for a descriptor (R403, R406), or as an entry of a queue (R398, R408). -/
def State.notePath (s : State) (u : AccessUse) (d : DirtyPath) : State :=
  match u with
  | .entry q =>
    let mark (x : Queue) : Queue := { x with entryPath := some d, entryTlps := some (d.port, (s.hostPort d.port).unacked) }
    { s with queue.queues := updWhere (fun x => x.number = q) mark s.queue.queues }
  | _ =>
    match s.useDesc u with
    | none => s
    | some (q, n) =>
      let mark (x : Queue) : Queue :=
        { x with started := updWhere (fun y => y.count = n) (fun y => { y with paths := addPath y.paths d }) x.started }
      { s with queue.queues := updWhere (fun x => x.number = q) mark s.queue.queues }

/-- Stage 4 of R78 in a host tier, of an access or of what is left of it; `w0` is the access as it waits. A write of no bytes only finds
whether its range is ready. -/
def State.hostAccess (s : State) (w w0 : Waiting) (e : RangeEntry) (f : Func) (pasid : Option (BitVec 20)) (iova : Nat) :
    State × AccOut :=
  let a := w.access
  let port : Nat := f.port
  if a.write then
    if a.data.isEmpty then (s, .done [])
    else
      let pages := if e.pathTag = 0xFFFF ∧ !a.use.isBitmap then pagesOf iova a.length else []
      if s.logFull a.slice pages then s.park { w0 with on := .logRoom }
      else if s.postedFull port a.data.length then s.park { w0 with on := .posted port }
      else
      let s := s.logPages a.slice pages
      let pieces := s.hostPieces a.cluster f pasid iova a.data.length true
      let path : DirtyPath := { port, pathTag := e.pathTag, func := f, pasid, last := ((pieces.getLast?).map (·.1)).getD 0 }
      let s := if a.fenced then s.leavePath a.slice port e.pathTag else s.markDirty a.slice path
      let s := s.emitWrites f pasid a.data (!a.fenced && (s.funcState f).ro) (s.writeTag a.use) pieces
      (s.notePath a.use path, .done [])
  else
    let id := s.xlate.nextId
    let s := { s with xlate.nextId := id + 1,
                      hostReads := s.hostReads ++
                        [({ id, port, fn := f.fn, slice := a.slice, peer := e.pathTag ≠ 0xFFFF, sentAt := s.time.now,
                            use := .access w.id } : HostRead)] }
    let s := s.modRange e.slice e.slot fun e => { e with inFlight := e.inFlight + 1 }
    (s.emit (.hostRead id f pasid (s.hostPieces a.cluster f pasid iova a.length false))).park
      { w with on := .hostRead id, checked := some (e.slice, e.slot) }

/-- The requester of the Shank that an access comes from (R211): the class 7 path of cluster 0 for what class 7 frames land, an Edge
port for an Eyelet access, firmware for its tables and responses, a cluster for the rest. -/
def State.requester (s : State) (a : Access) : Nat :=
  match a.use with
  | .landing k _ => if s.trans.conns.any fun c => c.index = k && c.tc = 7 && k % 8 = 0 then 0 else 2
  | .eyelet _ => 1
  | .bitmap .. | .mbx _ | .context _ => 3
  | _ => 2

/-- The bytes of an access in the near or far tier. -/
def State.localAccess (s : State) (tier : Tier) (a : Access) : State × AccOut :=
  let r := s.requester a
  if a.write then
    let (s, good) := s.writeLocal tier a.offset a.data r
    (s, if good then .done [] else .fail Status.memUncorrectable)
  else
    let (s, b) := s.readLocal tier a.offset a.length r
    (s, match b with | some b => .done b | none => .fail Status.memUncorrectable)

/-- What is left of a waiting write behind the bytes that it has moved (R85). -/
def Waiting.rest (w : Waiting) : Waiting :=
  if w.moved = 0 then w
  else
    let a := w.access
    { w with access := { a with offset := a.offset + w.moved, length := a.length - w.moved, data := a.data.drop w.moved } }

/-- Firmware housekeeping of (0, 127) addresses physical offsets of the near and far tiers directly (R73): the tier of such an
access. -/
def State.physical (s : State) (a : Access) : Option Tier :=
  if a.slice = 0 ∧ a.as = 127 then (s.area a.offset).tier.bind fun t => if t.port.isNone then some t else none else none

/-- One attempt of an access: stages 1 to 4 of R78. -/
def State.attempt (s : State) (w0 : Waiting) : State × AccOut :=
  let w := w0.rest
  let a := w.access
  let room : Bool := match w0.on with | .logRoom | .posted _ => true | _ => false
  if a.gen ≠ s.gen a.slice ∧ !room then (s.bump .slcStaleStatRequests a.slice, .stale)
  else match s.physical a with
  | some t => s.localAccess t a
  | none =>
    let (s, hit) := s.lookup a.cluster a.slice a.offset a.length
    match hit with
    | none => s.failAccess a.slice Status.localAccess
    | some (slot, inc) =>
      match s.range a.slice slot with
      | none => s.failAccess a.slice Status.localAccess
      | some e =>
        let (f, pasid) := s.carrier e
        let iova := e.target + (a.offset - e.start)
        let isHost := e.tier.port.isSome
        let missing := if isHost then (pagesOf iova a.length).find? fun p =>
            (s.translated a.cluster f pasid p a.write).isNone else none
        match if isHost then s.hostBlocked f e.pathTag else none with
        | some c => s.failAccess a.slice c
        | none =>
          match missing with
          | some p =>
            let (s, id) := s.sendAts a.slice a.cluster f pasid p ((e.target + e.length - 1) / 4096 * 4096)
            s.park { w0 with on := .ats id }
          | none =>
            match s.check a.slice a.as slot inc (if a.write then 1 else 0) none a.offset a.length with
            | .error c => s.failAccess a.slice c.localCode
            | .ok e =>
              if isHost then s.hostAccess w w0 e f pasid iova else s.localAccess e.tier a

/-- Begin an access. A fenced write first waits for its flushes (R138); a completion or event entry carries the code of an eviction
flush that failed with no fenced write waiting (R139). -/
def State.access (s : State) (a : Access) : State × AccOut :=
  let id := s.xlate.nextId
  let s := { s with xlate.nextId := id + 1 }
  let w : Waiting := { id, access := a, on := .stalled }
  if a.fenced then
    let own := (s.search a.slice a.offset a.length).bind fun e => e.tier.port.map fun p => (p, e.pathTag)
    let (s, ids, code) := s.fence a.slice own
    let isEntry := match a.use with | .entry _ => true | _ => false
    let held := if isEntry then assoc s.xlate.heldFlushFail a.slice else none
    let s := if isEntry then { s with xlate.heldFlushFail := assocDel s.xlate.heldFlushFail a.slice } else s
    let w := { w with flushFail := orCode held code }
    if ids.isEmpty then
      let (s, w) := s.patchEntry w
      s.attempt w
    else s.park { w with on := .flush ids }
  else s.attempt w

/-! ## Faults (R84 to R88) -/

/-- The host port's outstanding page requests, and a free PRG index of the function (R84). -/
def State.pftRoom (s : State) (slice : Nat) (f : Func) : Option Nat :=
  let mine := (s.xlate.pft.filter fun e => e.slice = slice && e.charged).length
  let port := (s.xlate.pft.filter fun e => e.func.port = f.port).length
  if mine < (s.quota slice).pft ∧ port < ((s.hostPort f.port).func 0).opra ∧ s.xlate.pft.length < 4096 then
    s.freeChoice 512 fun g => !(s.xlate.pft.any fun e => e.func = f && e.prg = g)
  else none

/-- Join or allocate the Pending Fault Table entry of a page (R84): one that a slice reset has taken from the quota is joined too, since
its page request is outstanding (R91). Answers the entry, if there is one. -/
def State.fault (s : State) (slice : Nat) (f : Func) (pasid : Option (BitVec 20)) (page : Nat) : State × Option Nat :=
  match s.xlate.pft.find? fun e => e.slice = slice && e.pasid = pasid && e.page = page with
  | some e => (s, some e.id)
  | none =>
    match s.pftRoom slice f with
    | none => (s, none)
    | some g =>
      let id := s.xlate.nextId
      let s := { s.advanceFree with xlate.nextId := id + 1,
                                    xlate.pft := s.xlate.pft ++ [({ id, slice, pasid, page, func := f, prg := g } : PftEntry)] }
      (s.emit (.pageRequest f pasid page g), some id)

end Sys2Proof.Machine
end

