-- ==== Sys2Proof/Machine/Operands.lean ====
section
/-! DEFINITION. The forms of operands: descriptors (R101, R102), each opcode's operand bytes, their reserved bits (R108),
and the entries the part writes (R109, R113). -/

namespace Sys2Proof.Machine

/-! ## Opcodes (R101) -/

namespace Op
def nop : Nat := 0x00
def wait : Nat := 0x01
def laceAdd : Nat := 0x02
def write : Nat := 0x10
def writeInc : Nat := 0x11
def read : Nat := 0x12
def fetchAdd : Nat := 0x13
def cmpSwap : Nat := 0x14
def copy : Nat := 0x18
def scan : Nat := 0x19
def coll : Nat := 0x20
def quant : Nat := 0x30
def lowrank : Nat := 0x31
def optstep : Nat := 0x32
def ckpt : Nat := 0x33
def restore : Nat := 0x34
def rawSend : Nat := 0x40
def rawRecv : Nat := 0x41
end Op

abbrev Desc := List Byte

namespace Desc
def byte (d : Desc) (k : Nat) : Nat := (d.getD k 0).toNat
def control (d : Desc) : Byte := d.getD 0 0
def own (d : Desc) : Bool := (control d).getLsbD 7
def ext (d : Desc) : Bool := (control d).getLsbD 6
def preWake (d : Desc) : Bool := (control d).getLsbD 5
def fence (d : Desc) : Bool := (control d).getLsbD 4
def signal (d : Desc) : Bool := (control d).getLsbD 3
def opcode (d : Desc) : Nat := byte d 1
def inlineLength (d : Desc) : Nat := leField d 2 3
def tag (d : Desc) : Word32 := BitVec.ofNat 32 (leField d 4 7)
/-- A lace reference: bit 31 Valid, bits [17:0] the counter. -/
def laceRef (d : Desc) (at_ : Nat) : Option Nat :=
  let w := leField d at_ (at_ + 3)
  if w / 2 ^ 31 = 1 then some (w % 2 ^ 18) else none
def laceDone (d : Desc) : Option Nat := laceRef d 8
def f32 (d : Desc) (at_ : Nat) : Nat := leField d at_ (at_ + 3)
def f64 (d : Desc) (at_ : Nat) : Nat := leField d at_ (at_ + 7)
def inlineData (d : Desc) : List Byte := (d.drop 64).take (inlineLength d)
-- R102
def conn (d : Desc) : Nat := f32 d 16 % 2 ^ 24
def length (d : Desc) : Nat := f32 d 20
def localOffset (d : Desc) : Nat := f64 d 24
def remoteFpa (d : Desc) : Nat := f64 d 32
def regionKey (d : Desc) : Word32 := BitVec.ofNat 32 (f32 d 40)
def laceRemote (d : Desc) : Option Nat := laceRef d 44
def atomicA (d : Desc) : Word64 := BitVec.ofNat 64 (f64 d 48)
def atomicB (d : Desc) : Word64 := BitVec.ofNat 64 (f64 d 56)
-- R116
def waitCounter (d : Desc) : Nat := f32 d 16 % 2 ^ 18
def waitHalt (d : Desc) : Bool := byte d 20 % 2 = 1
def waitThreshold (d : Desc) : Nat := f64 d 24
def waitDeadline (d : Desc) : Nat := f64 d 32
-- R114
def addCounter (d : Desc) : Nat := f32 d 16 % 2 ^ 18
def addAmount (d : Desc) : Nat := f64 d 24
-- R312
def srcOffset (d : Desc) : Nat := f64 d 16
def dstOffset (d : Desc) : Nat := f64 d 24
def copyLength (d : Desc) : Nat := f32 d 32
end Desc

/-- Bytes [hi:lo] of a descriptor are all zero. -/
def zeroBytes (d : Desc) (lo hi : Nat) : Bool := ((d.drop lo).take (hi + 1 - lo)).all (· = 0)

/-- Bits [hi:lo] of the 32-bit word at byte `at_` are zero. -/
def zeroBits (d : Desc) (at_ hi lo : Nat) : Bool := Desc.f32 d at_ / 2 ^ lo % 2 ^ (hi + 1 - lo) = 0

/-- Opcodes that take inline data (R102). -/
def takesInline (op : Nat) : Bool := op = Op.write || op = Op.writeInc || op = Op.rawSend

/-- The opcode is one of R101's table, and its queue kind is right: RAW_RECV on RawRecv queues only, every other on
work queues. -/
def opcodeAllowed (raw : Bool) (op : Nat) : Bool :=
  if raw then op = Op.rawRecv
  else [Op.nop, Op.wait, Op.laceAdd, Op.write, Op.writeInc, Op.read, Op.fetchAdd, Op.cmpSwap, Op.copy, Op.scan, Op.coll,
    Op.quant, Op.lowrank, Op.optstep, Op.ckpt, Op.restore, Op.rawSend].contains op

/-- Reserved operand bits of each opcode are zero (R101, R108). -/
def rsvdOperands (op : Nat) (d : Desc) : Bool :=
  if op = Op.nop then zeroBytes d 16 63
  else if op = Op.wait then
    zeroBits d 16 31 18 && decide (Desc.byte d 20 < 2) && zeroBytes d 21 23 && zeroBytes d 40 63
  else if op = Op.laceAdd then zeroBits d 16 31 18 && zeroBytes d 20 23 && zeroBytes d 32 63
  else if Op.write ≤ op ∧ op ≤ Op.cmpSwap then zeroBits d 16 31 24 && zeroBits d 44 30 18
  else if op = Op.copy then zeroBytes d 36 63
  else if op = Op.coll then
    zeroBits d 16 15 12 && decide (Desc.byte d 22 < 16) && zeroBytes d 23 23 && zeroBytes d 50 51 && zeroBits d 52 30 18
  else if Op.quant ≤ op ∧ op ≤ Op.restore then
    zeroBits d 16 30 18 && decide (Desc.byte d 20 < 2) && zeroBytes d 21 23 && zeroBytes d 32 63
  else if op = Op.scan then zeroBytes d 35 39 && zeroBytes d 56 63 && decide (Desc.f64 d 24 < 2 ^ 41 ∧ Desc.byte d 33 < 16)
  else if op = Op.rawSend then zeroBits d 16 31 4 && decide (Desc.byte d 32 < 2) && zeroBytes d 33 39 && zeroBytes d 48 63
  else if op = Op.rawRecv then zeroBytes d 16 23 && zeroBytes d 36 63
  else true

/-- The lace counters of the issuing slice that a descriptor names (R108). -/
def laceIndices (op : Nat) (d : Desc) : List Nat :=
  (Desc.laceDone d).toList ++
    (if op = Op.wait then [Desc.waitCounter d] else []) ++ (if op = Op.laceAdd then [Desc.addCounter d] else [])
    ++ (if op = Op.coll then (Desc.laceRef d 52).toList else [])
    ++ (if Op.quant ≤ op ∧ op ≤ Op.restore then (Desc.laceRef d 16).toList else [])

/-- The malformed entries of R108, but for the checks of each opcode: DESC_UNSUPPORTED_OP takes precedence. -/
def malformed (raw : Bool) (entrySize laceQuota : Nat) (d : Desc) : Option Status :=
  let op := Desc.opcode d
  if !opcodeAllowed raw op then some Status.descUnsupportedOp
  else if Desc.byte d 0 % 8 ≠ 0 ∨ !zeroBits d 8 30 18 ∨ !zeroBytes d 12 15 ∨ !rsvdOperands op d then
    some Status.descMalformed
  else if Desc.ext d ∧ entrySize = 64 then some Status.descMalformed
  else if Desc.inlineLength d > 192 ∨ (Desc.inlineLength d ≠ 0 ∧ (!Desc.ext d ∨ !takesInline op)) then
    some Status.descMalformed
  else if (laceIndices op d).any fun k => laceQuota ≤ k then some Status.descMalformed
  else none

/-! ## Counts (R96) -/

/-- Count `a` comes before count `b`. -/
def countBefore (a b : Word32) : Bool := decide (a ≠ b ∧ (b - a).toNat < 2 ^ 31)

/-- The expected phase of a count in a ring of 2^log entries: 1 on even laps. -/
def phaseOf (log : Nat) (c : Word32) : Bool := c.toNat / 2 ^ log % 2 = 0

/-- The slot of a count. -/
def slotOf (log : Nat) (c : Word32) : Nat := c.toNat % 2 ^ log

/-! ## Entries (R109, R113) -/

def phaseByte (p : Bool) : Byte := if p then 0x80 else 0

/-- A completion entry of 32 bytes (R109). -/
def cplEntry (phase : Bool) (status : Status) (opcode : Nat) (tag : Word32) (queue : Nat) (count : Word32)
    (bytes gen detail stamp : Nat) : List Byte :=
  phaseByte phase :: status :: leBytes 1 opcode ++ [0] ++ leBytes 4 tag.toNat ++ leBytes 4 (queue % 2 ^ 18)
    ++ leBytes 4 count.toNat ++ leBytes 4 bytes ++ leBytes 2 gen ++ leBytes 2 detail ++ leBytes 6 stamp ++ [0, 0]

/-- An event entry of 32 bytes (R113). -/
def eventEntry (phase : Bool) (e : Event) (gen stamp : Nat) : List Byte :=
  phaseByte phase :: e.code :: e.status :: leBytes 1 e.cluster ++ leBytes 4 e.object ++ leBytes 8 e.info
    ++ leBytes 6 stamp ++ leBytes 2 gen ++ leBytes 8 e.detail

end Sys2Proof.Machine
end

