-- ==== Sys2Proof/Machine/QueueOps.lean ====
section
/-! DEFINITION. Operations on queues that the families share: lookup, ending a descriptor, halting, writing entries,
interrupts (R92 to R122). -/

namespace Sys2Proof.Machine

def homeOf (n : Nat) : Nat := n % 8

/-- The channel of a SCAN (R434). -/
def scanChannel (d : Desc) : Nat := Desc.byte d 34

def State.findQueue (s : State) (n : Nat) : Option Queue := s.queue.queues.find? fun x => x.number = n

def State.modQueue (s : State) (n : Nat) (f : Queue → Queue) : State :=
  { s with queue.queues := updWhere (fun x => x.number = n) f s.queue.queues }

def State.modStarted (s : State) (q : Nat) (count : Word32) (f : Started → Started) : State :=
  s.modQueue q fun x => { x with started := updWhere (fun d => d.count = count) f x.started }

def Queue.entries (x : Queue) : Nat := 2 ^ x.logEntries

def Queue.isWork (x : Queue) : Bool := x.kind = .work || x.kind = .rawRecv

/-- Idle (R118). -/
def Queue.idle (x : Queue) : Bool :=
  if x.isWork then x.started.isEmpty && x.delivering.isEmpty && !(x.fetches.any fun f => f.outstanding)
  else x.writing.isNone && x.held.isEmpty

/-- A Draining queue that is Idle moves to Disabled (R118); a completion or event queue once no write is in
progress. -/
def Queue.settle (x : Queue) : Queue :=
  if x.state = .draining ∧ (if x.isWork then x.idle else x.writing.isNone) then { x with state := .disabled } else x

/-! ## The Queue Context Cache (R117, R120 to R122) -/

/-- The queue's only started work is a WAIT that stands in the watch table (R117). -/
def State.onlyWaits (s : State) (x : Queue) : Bool :=
  x.isWork && x.delivering.isEmpty && !(x.fetches.any fun f => f.outstanding)
    && x.started.all fun d => s.queue.watch.any fun w => w.q = x.number && w.count = d.count && !w.polled

/-- A queue's context may leave its line: no fetch outstanding, nothing started but a standing WAIT, no completion held, not
class 7 (R117, R121, R122). -/
def State.evictable (s : State) (x : Queue) : Bool := x.tc ≠ 7 && (x.idle || s.onlyWaits x)

/-- The other contexts that lie in the lines of a queue's home cluster. -/
def State.linesHeld (s : State) (q : Nat) : List Queue :=
  s.queue.queues.filter fun x => homeOf x.number = homeOf q && x.cached && x.number ≠ q

/-- One of the cluster's 2,048 lines is free for the context, or can be made free (R120, R121). -/
def State.contextFits (s : State) (q : Nat) : Bool :=
  decide ((s.linesHeld q).length < 2048) || (s.linesHeld q).any s.evictable

/-- The context that gives up its line: the least recently used that may be evicted. -/
def State.contextVictim (s : State) (q : Nat) : Option Queue :=
  if (s.linesHeld q).length < 2048 then none
  else ((s.linesHeld q).filter s.evictable).foldl (fun (b : Option Queue) x =>
    match b with
    | some y => if x.lastUse < y.lastUse then some x else b
    | none => some x) none

/-- Bring a queue's context into its cluster's lines, where one can be had. -/
def State.loadContext (s : State) (q : Nat) : State :=
  if !s.contextFits q then s
  else
    let s := match s.contextVictim q with
      | some v => s.modQueue v.number fun x => { x with cached := false }
      | none => s
    s.modQueue q fun x => { x with cached := true, lastUse := s.time.now }

/-! ## Stalls and ends of work (R85, R105) -/

/-- The queue that an access works for and that stops where it stalls: of a ring fetch, and of a descriptor that is no service and
no collective. -/
def State.useQueue (s : State) : AccessUse → Option Nat
  | .fetch q _ | .source q _ _ | .copyRead q _ _ | .copyWrite q _ _ | .scanRead q _ | .scanResult q _ | .rawBuffer q _ => some q
  | .landing k psn => (s.useDesc (.landing k psn)).map (·.1)
  | .probe op => (s.trans.conns.findSome? fun c => c.ops.find? fun o => o.id = op).bind fun o => o.origin.queue
  | _ => none

/-- An access of the queue stalls for room in the Pending Fault Table: the queue stops there (R85). -/
def State.queueStalled (s : State) (q : Nat) : Bool :=
  s.xlate.waiting.any fun w => w.on = .stalled && s.useQueue w.access.use = some q

/-- No operation of the queue's descriptors is on a connection any more: each ACK or response that ends one has come (R105, R136). -/
def State.workEnded (s : State) (q : Nat) : Bool :=
  !(s.trans.conns.any fun c => c.ops.any fun o => o.origin.queue = some q)

/-- A started descriptor, by queue and count. -/
def State.findStarted (s : State) (q : Nat) (count : Word32) : Option (Queue × Started) :=
  (s.findQueue q).bind fun x => (x.started.find? fun d => d.count = count).map fun d => (x, d)

/-- Give a started descriptor its final status; the first one given stays. -/
def State.endDesc (s : State) (q : Nat) (count : Word32) (d : Done) : State :=
  s.modStarted q count fun x => if x.ended.isSome then x else { x with run := true, ended := some d }

def State.endWith (s : State) (q : Nat) (count : Word32) (c : Status) : State := s.endDesc q count { status := c }

/-- Every descriptor started before this one has begun: descriptors begin in count order, so that one that waits to start holds those
behind it (R104). -/
def Queue.turnOf (x : Queue) (count : Word32) : Bool := (x.started.takeWhile fun d => d.count ≠ count).all fun d => d.run || d.ended.isSome

/-- A started descriptor of an opcode that has not run yet and whose turn it is, of a queue that no stall holds (R85): what its opcode's
command acts on. -/
def State.ready (s : State) (q : Nat) (count : Word32) (op : Nat) : Option (Queue × Started) :=
  match s.findStarted q count with
  | some (x, d) =>
    if !d.run && d.ended.isNone && Desc.opcode d.entry = op && x.turnOf count && !s.queueStalled q then some (x, d) else none
  | none => none

/-- A lace counter change on its way to the counter unit (R114). -/
def State.laceUp (s : State) (slice gen counter amount : Nat) : State :=
  { s with queue.laceChanges := s.queue.laceChanges ++ [⟨slice, gen, counter, amount⟩] }

def State.laceValue (s : State) (slice counter : Nat) : Nat := ((assoc s.queue.lace (slice, counter)).getD 0).toNat

/-- Set a counter, and mark the standing WAITs that its value satisfies before their deadlines pass; their clusters are woken
(R28, R117). -/
def State.setLace (s : State) (slice counter v : Nat) : State :=
  let hit (w : Watch) : Bool := w.slice = slice && w.counter = counter && w.threshold ≤ v
    && (w.deadline = 0 || !s.passed w.deadline)
  let homes := (s.queue.watch.filter fun w => hit w && !w.polled).map fun w => homeOf w.q
  ({ s with queue.lace := assocSet s.queue.lace (slice, counter) (BitVec.ofNat 64 v),
            queue.watch := updWhere hit (fun w => { w with reached := true }) s.queue.watch } : State).wakeAll homes

/-! ## Halting (R111, R119) -/

/-- A ring fetch failed: the queue is Halted with the code, and RING_FAULT is written (R119). Further failures of fetches that were
outstanding at the halt change nothing (DEDUCED; log 25). -/
def State.ringFault (s : State) (q : Nat) (c : Status) : State :=
  match s.findQueue q with
  | none => s
  | some x =>
    if x.state ≠ .running ∧ x.state ≠ .draining then s.modQueue q Queue.settle else
    let s := s.modQueue q fun x => { x with state := .halted, lastStatus := c }
    s.raise { slice := x.slice, code := EventCode.ringFault, status := c, cluster := homeOf q, object := q }

/-- A completion or event write failed: that queue and every queue that feeds it are Halted, and CQ_FAULT is written
unless the queue is the event queue itself (R111). -/
def State.cqFault (s : State) (cq : Nat) (c : Status) : State :=
  match s.findQueue cq with
  | none => s
  | some x =>
    let feeds (y : Queue) : Bool := y.number = cq || (x.kind = .completion && y.isWork && y.cq = cq && y.slice = x.slice)
    let s := { s with queue.queues := updWhere feeds (fun y => { y with state := .halted, lastStatus := c })
                        s.queue.queues }
    if x.kind = .event then s
    else s.raise { slice := x.slice, code := EventCode.cqFault, status := c, cluster := homeOf cq, object := cq }

/-! ## Interrupts (R112, R397, R398) -/

/-- A write of the Farig's own that names no local offset waits: an interrupt message or a mailbox response. -/
def State.parkOwn (s : State) (slice : Nat) (u : AccessUse) (on : WaitFor) : State :=
  let id := s.xlate.nextId
  let w : Waiting := { id, access := { slice, gen := s.gen slice, offset := 0, length := 0, use := u }, on }
  { s with xlate.nextId := id + 1, xlate.waiting := s.xlate.waiting ++ [w] }

/-- The message leaves as a fenced write of 4 bytes on (port, 0xFFFF), once the endpoint has room for it (R216, R398). It is lost where the
function can issue no request there (R393, R405, R406, R409). -/
def State.emitMsix (s : State) (slice : Nat) (f : Func) (vector : Nat) : State :=
  if (s.requestBlocked f 0xFFFF).isSome then s
  else if s.postedFull f.port 4 then s.parkOwn slice (.msix f vector) (.posted f.port)
  else
    let m := (assoc (s.funcState f).table vector).getD {}
    ((s.leavePath slice f.port 0xFFFF).postTlps f.port [4]).emit (.msix f vector m.address m.data (s.steering f vector))

/-- The flushes before a message of a slice's queue: every dirty path of the slice, and the queue's own path where that is not host memory
of the message's port (R398). -/
def State.fenceMsix (s : State) (f : Func) (d : MsixDue) : State × List Nat :=
  let own := ((d.queue.bind s.findQueue).bind (·.entryPath)).filter fun p =>
    !(decide (p.port = f.port.val ∧ p.pathTag = 0xFFFF)) && !(s.dirtyOf d.slice).any p.same
  let (s, ids, _) := s.fence d.slice (some (f.port, 0xFFFF))
  let (s, more, _) := s.issueFlushes d.slice own.toList
  (s, ids ++ more)

/-- Send a message of a vector, once what it announces is flushed. -/
def State.launchMsix (s : State) (f : Func) (vector : Nat) (due : List MsixDue) : State :=
  let (s, ids) := due.foldl (fun (x : State × List Nat) d => (fun (y : State × List Nat) => (y.1, x.2 ++ y.2)) (x.1.fenceMsix f d)) (s, [])
  let slice := (due.head?).elim 0 (·.slice)
  if ids.isEmpty then s.emitMsix slice f vector else s.parkOwn slice (.msix f vector) (.flush ids)

/-- Send an MSI-X message of a slice's function: dropped while MSI-X is off, held in the PBA while masked, and
otherwise sent once the slice's dirty paths are flushed. -/
def State.sendMsix (s : State) (slice vector : Nat) (queue : Option Nat) : State :=
  let f := (s.slice slice).func
  let x := s.funcState f
  let due : MsixDue := { vector, slice, queue }
  if !x.msixOn then s.bump .slcHostStatMsixDropped slice
  else if x.funcMask || x.masked.contains vector then
    s.modFunc f fun x => { x with pba := if x.pba.contains due then x.pba else x.pba ++ [due] }
  else s.launchMsix f vector [due]

/-- The arm of a completion or event queue is met: send its message and clear the arm (R112). -/
def State.checkArm (s : State) (q : Nat) : State :=
  match s.findQueue q with
  | none => s
  | some x =>
    match x.arm with
    | some a =>
      if x.modCount ≤ a.written then
        (s.modQueue q fun x => { x with arm := none }).sendMsix x.slice x.vector (some q)
      else s
    | none => s

/-! ## Entry writes (R110, R113) -/

/-- Entries written and not yet released, of a completion or event queue. -/
def Queue.occupied (x : Queue) : Nat := (x.head - x.doorbell).toNat

def QRecord.gen : QRecord → Nat
  | .cpl r => r.gen
  | .event e => e.gen

/-- The entry's bytes for the slot of count `x.head`. -/
def Queue.entryBytes (x : Queue) (now : Nat) : QRecord → List Byte
  | .cpl r => cplEntry (phaseOf x.logEntries x.head) r.status r.opcode r.tag r.q r.count r.bytes r.gen r.detail
      (now % 2 ^ 48)
  | .event e => eventEntry (phaseOf x.logEntries x.head) e e.gen (now % 2 ^ 48)

/-- The deliveries of a work queue in count order (R106): those that write no entry are made at once, up to the next one that
does. -/
def State.deliverQuiet (s : State) (x : Queue) : List Delivery → State
  | [] => s
  | d :: r =>
    if d.entry then s
    else
      let s := (s.modQueue x.number fun y => { y with delivering := y.delivering.drop 1 })
      ((match d.lace with
        | some k => s.laceUp x.slice x.gen k 1
        | none => s)).deliverQuiet x r

/-- The entry of a descriptor has been delivered, or its record dropped: LaceDone follows, and what waited behind it (R106). -/
def State.delivered (s : State) (q : Nat) (count : Word32) : State :=
  match s.findQueue q with
  | none => s
  | some x =>
    match x.delivering with
    | [] => s
    | d :: r =>
      if d.count ≠ count ∨ !d.entry then s
      else (s.deliverQuiet x ({ d with entry := false } :: r)).modQueue q Queue.settle

/-- The completion of the record, if it is one, has been delivered. -/
def State.recordDelivered (s : State) : QRecord → State
  | .cpl r => s.delivered r.q r.count
  | .event _ => s

/-- An entry has been written: its completion is delivered, and the arm counts it (R106, R112). -/
def State.entryWritten (s : State) (q : Nat) : State :=
  let now := s.time.now
  let s := match (s.findQueue q).bind (·.writing) with
    | some r => s.recordDelivered r
    | none => s
  let s := s.modQueue q fun x =>
    { x with writing := none,
             arm := x.arm.map fun a => { written := a.written + 1, firstAt := a.firstAt.orElse fun _ => some now } }
  (s.modQueue q Queue.settle).checkArm q

/-- Write the oldest held record if the queue is Running, has a free slot and writes nothing now. A record of an old
generation is dropped (R374). `fuel` bounds how many are written. -/
def State.writeHeld (s : State) (q : Nat) : Nat → State
  | 0 => s
  | fuel + 1 =>
    match s.findQueue q with
    | none => s
    | some x =>
      match x.held with
      | [] => s
      | r :: rest =>
        if x.state ≠ .running ∨ x.writing.isSome then s
        else if r.gen ≠ s.gen x.slice then
          ((s.modQueue q fun x => { x with held := rest }).bump .slcStaleStatCompletions x.slice).writeHeld q fuel
        else if x.entries ≤ x.occupied then s
        else
          let a : Access :=
            { cluster := homeOf q, slice := x.slice, gen := x.gen, as := x.as,
              offset := x.ringOffset + slotOf x.logEntries x.head * 32, length := 32, write := true,
              data := x.entryBytes s.time.now r, fenced := true, use := .entry q }
          let s := s.modQueue q fun x => { x with held := rest, writing := some r, head := x.head + 1 }
          match s.access a with
          | (s, .done _) => (s.entryWritten q).writeHeld q fuel
          | (s, .wait) => s
          | (s, .stale) => s.modQueue q fun x => { x with writing := none }
          | (s, .fail c) =>
            (s.modQueue q fun x => { x with held := r :: x.held, writing := none, head := x.head - 1 }).cqFault q c

/-- Write every held record that can be written. -/
def State.flushHeld (s : State) (q : Nat) : State :=
  match s.findQueue q with
  | some x => s.writeHeld q (x.held.length + 1)
  | none => s

/-- The event queue of a slice. -/
def State.evq (s : State) (slice : Nat) : Option Queue :=
  s.queue.queues.find? fun x => x.slice = slice && x.kind = .event

/-- After losses, EVQ_OVERFLOW is written at the first free slot, with the number lost (R113), once the queue's context has a line
(R121). -/
def State.overflow (s : State) (slice : Nat) : State :=
  match s.evq slice, assoc s.queue.evLost slice with
  | some x, some n =>
    if x.state = .running ∧ x.occupied + x.held.length < x.entries then
      let s0 := s
      let s := { s with queue.evLost := assocDel s.queue.evLost slice }
      let e : Event := { slice, gen := s.gen slice, code := EventCode.evqOverflow, cluster := homeOf x.number,
                         object := x.number, detail := n }
      if !x.cached && !s.contextFits x.number then s0
      else ((s.loadContext x.number).modQueue x.number fun x => { x with held := x.held ++ [.event e] }).flushHeld x.number
    else s
  | _, _ => s

/-- An event could not be written (R113). -/
def State.loseEvent (s : State) (slice : Nat) : State :=
  { s.bump .slcEvqStatLost slice with
    queue.evLost := assocSet s.queue.evLost slice ((assoc s.queue.evLost slice).getD 0 + 1) }

/-- A queue may serve this BAR2 access: its group belongs to a slice bound to the function (R98). -/
def State.bar2 (s : State) (f : Func) (q : Nat) : Option Queue :=
  match s.findQueue q with
  | some x => if s.bound x.slice f && x.state ≠ .inReset then some x else none
  | none => none

/-- Record a doorbell on a work or RawRecv queue (R99): the pending bit, the newest Count, and a new count of 64
refetches for each entry (R103). The home cluster is woken (R492). -/
def State.ring (s : State) (q : Nat) (count : Word32) : State :=
  (s.modQueue q fun x =>
    { x with doorbell := count, bell := true,
             fetches := x.fetches.map fun f => if f.stopped then { f with stopped := false, refetches := 0, nextAt := none }
                                                else f }).wakeCluster (homeOf q)

end Sys2Proof.Machine
end

