-- ==== Sys2Proof/Machine/KeyOps.lean ====
section
/-! DEFINITION. Key slots and the counters of the Stream Cipher Engines (R412, R413, R422, R426 to R428). -/

namespace Sys2Proof.Machine

/-- A slot by owner, kind (0 guard, otherwise stream) and number. -/
def State.keySlot (s : State) (slice slot : Nat) (guardKind : Bool) : Option KeySlot :=
  s.keys.slots.find? fun k => k.slice = slice && k.slot = slot && (decide (k.kind = 0) == guardKind)

def State.modKey (s : State) (slice slot : Nat) (guardKind : Bool) (f : KeySlot → KeySlot) : State :=
  { s with keys.slots :=
      updWhere (fun k => k.slice = slice && k.slot = slot && (decide (k.kind = 0) == guardKind)) f s.keys.slots }

/-- The Stream Cipher Engines of a cluster that are in service (R429). -/
def State.enginesOf (s : State) (c : Nat) : List Nat :=
  [2 * c, 2 * c + 1].filter fun e => !s.keys.streamOut.getLsbD e

/-- An engine uses a slot that it caches: of 32 the least recently used gives way to a new one (R422). -/
def State.useSlot (s : State) (e : Nat) (x : EngineSlot) : State :=
  let rest := (vget s.keys.engines e []).filter fun y => !(y.slice = x.slice && y.slot = x.slot)
  { s with keys.engines := vset s.keys.engines e (rest.drop (rest.length - 31) ++ [x]) }

/-- What an engine caches of a slot. A packet whose slot misses waits for one bus load (R422, R431). -/
def State.engineSlot (s : State) (c e slice slot : Nat) : State × EngineSlot :=
  match (vget s.keys.engines e []).find? fun x => x.slice = slice && x.slot = slot with
  | some x => (s, x)
  | none => (s.bump .cluSceStatAwlLoads c, { slice, slot })

/-- A StreamRecv slot checks a packet on one of a cluster's engines. Which of them is free. -/
def State.loadRecv (s : State) (c slice slot : Nat) : State :=
  let es := s.enginesOf c
  match es[s.freeNow % max 1 es.length]? with
  | none => s
  | some e =>
    let (s, x) := s.advanceFree.engineSlot c e slice slot
    s.useSlot e x

/-- Counters are drawn in blocks of 256; the slot's limits follow the next counter (R427, R428). -/
def State.drawBlock (s : State) (slice slot : Nat) : State :=
  match s.keySlot slice slot false with
  | none => s
  | some k =>
    let n := k.next + 256
    let st : KeyState := if 2 ^ 48 - 2 ^ 20 ≤ n then .exhausted else if 2 ^ 47 ≤ n then .warned else .loaded
    let s := s.modKey slice slot false fun k => { k with next := n, state := st }
    if st ≠ .loaded ∧ k.state = .loaded then
      s.raise { slice, code := EventCode.cipherWarn, object := slot, info := k.keyId.toNat }
    else s

/-- What an engine answers to a request for a counter. -/
inductive CounterOut where
  | counter (n : Word64) (engine : Nat)
  | spent                     -- the retransmission reserve is spent (R428)
  | fail (c : Status)
deriving DecidableEq, Repr

/-- Take the next invocation counter of a StreamSend slot for one transmission on a cluster (R426 to R428). Which of
the cluster's engines serves is free. A slot that has become Empty is missing (R422). -/
def State.takeCounter (s : State) (c slice slot : Nat) (again : Bool) : State × CounterOut :=
  match s.keySlot slice slot false with
  | none => (s, .fail Status.cipherFault)
  | some k =>
    if k.state = .empty then (s, .fail Status.cipherFault)
    else
    let es := s.enginesOf c
    match es[s.freeNow % max 1 es.length]? with
    | none => (s, .fail Status.cipherFault)
    | some e =>
      let (s, slotNow) := s.advanceFree.engineSlot c e slice slot
      if k.state = .exhausted ∧ !again then (s, .fail Status.cipherExhausted)
      else if slotNow.left = 0 ∧ 2 ^ 48 < k.next + 256 then (s, .spent)
      else
        let draw := decide (slotNow.left = 0)
        let s := if draw then (s.drawBlock slice slot).bump .cluSceStatAwlLoads c else s
        let x : EngineSlot := if draw then { slice, slot, next := k.next + 1, left := 255 }
          else { slotNow with next := slotNow.next + 1, left := slotNow.left - 1 }
        let n := if draw then k.next else slotNow.next
        (s.useSlot e x, .counter (BitVec.ofNat 64 n) e)

end Sys2Proof.Machine
end

