-- ==== Sys2Proof/Machine/MbxOps.lean ====
section
/-! DEFINITION. Taking and answering mailbox commands (R467 to R473): what every command of a mailbox shares. -/

namespace Sys2Proof.Machine

/-! ## Opcodes (R472) -/

namespace MbxOp
def mbxInfo : Nat := 0x01
def lastWrite : Nat := 0x10
def lastCheck : Nat := 0x11
def lastActivate : Nat := 0x12
def roleSet : Nat := 0x18
def fwBegin : Nat := 0x20
def fwWrite : Nat := 0x21
def fwCheck : Nat := 0x22
def fwActivate : Nat := 0x23
def fwConfirm : Nat := 0x24
def fwStatus : Nat := 0x25
def eyeletMap : Nat := 0x30
def eyeletUnmap : Nat := 0x31
def eyeletRead : Nat := 0x32
def rangeRead : Nat := 0x38
def queueCreate : Nat := 0x40
def queueDestroy : Nat := 0x41
def regionRegister : Nat := 0x50
def regionRevoke : Nat := 0x51
def tenantSet : Nat := 0x52
def connResume : Nat := 0x53
def cyqPortSet : Nat := 0x60
def connListen : Nat := 0x61
def connCreate : Nat := 0x62
def connDestroy : Nat := 0x63
def grpQuotaSet : Nat := 0x70
def groupCreate : Nat := 0x71
def groupDestroy : Nat := 0x72
def collAbort : Nat := 0x73
def memHistoryRead : Nat := 0x80
def farRescan : Nat := 0x81
def filterSet : Nat := 0x90
def filterClear : Nat := 0x91
def filterRead : Nat := 0x92
def chainBypass : Nat := 0x93
def routeWrite : Nat := 0xA0
def routeRead : Nat := 0xA1
def routeFlip : Nat := 0xA2
def sliceBind : Nat := 0xB0
def sliceUnbind : Nat := 0xB1
def sliceReset : Nat := 0xB2
def dirtyStart : Nat := 0xB3
def dirtyStop : Nat := 0xB4
def dirtySync : Nat := 0xB5
def sliceFreeze : Nat := 0xB6
def sliceSave : Nat := 0xB7
def sliceRestore : Nat := 0xB8
def sliceThaw : Nat := 0xB9
def keyInfo : Nat := 0xC0
def keyErase : Nat := 0xC1
def keyRootSet : Nat := 0xC2
def keyImport : Nat := 0xC3
def keyDerive : Nat := 0xC4
def connRekey : Nat := 0xC5
def ownerEnroll : Nat := 0xD0
end MbxOp

/-- The assigned opcodes. -/
def mbxOpcodes : List Nat :=
  [0x01, 0x10, 0x11, 0x12, 0x18, 0x20, 0x21, 0x22, 0x23, 0x24, 0x25, 0x30, 0x31, 0x32, 0x38, 0x40, 0x41, 0x50, 0x51, 0x52,
   0x53, 0x60, 0x61, 0x62, 0x63, 0x70, 0x71, 0x72, 0x73, 0x80, 0x81, 0x90, 0x91, 0x92, 0x93, 0xA0, 0xA1, 0xA2]
    ++ [0xB0, 0xB1, 0xB2, 0xB3, 0xB4, 0xB5, 0xB6, 0xB7, 0xB8, 0xB9, 0xC0, 0xC1, 0xC2, 0xC3, 0xC4, 0xC5, 0xD0]

/-- Areas 0x00 and 0x01, which need no Last in force. -/
def mbxEarly (op : Nat) : Bool := decide (op < 0x30)

/-! ## Mailboxes -/

def State.mailbox (s : State) (k : Nat) : Mailbox := (assoc s.mailboxes k).getD {}

def State.modMailbox (s : State) (k : Nat) (f : Mailbox → Mailbox) : State :=
  { s with mailboxes := assocSet s.mailboxes k (f (s.mailbox k)) }

/-- Answer a command: it is no longer taken, and its response waits to be written (MBX_RESPONSE), in the request's own
major (R468). -/
def State.answer (s : State) (slice : Nat) (tag : Word32) (op : Nat) (status : Status) (detail : Nat) (info : List Nat) :
    State :=
  s.modMailbox slice fun m =>
    let major := ((m.taken.find? fun t => t.tag = tag).map (·.major)).getD 2
    { m with taken := m.taken.filter fun t => t.tag ≠ tag,
             ready := m.ready ++ [({ slice, tag, major, opcode := op, status, detail, info,
                                     counted := m.taken.any fun t => t.tag = tag } : MbxResp)] }

/-- Answer a command that is being carried out, under the opcode it was taken with. -/
def State.respond (s : State) (who : Nat × Word32) (status : Status) (info : List Nat) : State :=
  match (s.mailbox who.1).taken.find? fun t => t.tag = who.2 with
  | some t => s.answer who.1 who.2 t.opcode status 0 info
  | none => s

/-- Answer the command that waits, if one does. -/
def State.respondTo (s : State) (who : Option (Nat × Word32)) (status : Status) (info : List Nat) : State :=
  match who with
  | some w => s.respond w status info
  | none => s

/-- Commands wait: firmware is handed over from Quiesce on or resets itself, or a Last activation pauses the node (R49, R477, R484). -/
def State.mbxHeld (s : State) : Bool := s.fwAway || s.inPause

/-- Commands of a slice outstanding, but for one of this tag (R470). -/
def Mailbox.outstanding (m : Mailbox) (tag : Option Word32) : Nat :=
  (m.taken.filter fun t => some t.tag ≠ tag).length + ((m.ready ++ m.writing.toList).filter (·.counted)).length

/-- Take a command up: answered at once where the state of the slice or the device refuses it (R367, R384, R469), left
where it must wait, and otherwise on its way, committed (R476). Answers whether it runs. -/
def State.take (s : State) (slice : Nat) (tag : Word32) (op : Nat) : State × Bool :=
  let st := (s.slice slice).state
  let m := s.mailbox slice
  if st = .unbound ∨ s.mbxHeld ∨ !s.serving then (s, false)
  else if st ≠ .active ∧ !(slice = 0 && op = MbxOp.dirtySync && st ≠ .resetting) then (s.answer slice tag op Status.busy 0 [], false)
  else if 8 ≤ m.outstanding (some tag) then
    ((s.bump .fwmStatBusyAnswers 0).answer slice tag op Status.busy 0 [], false)
  else if s.last.inForce.isNone ∧ !mbxEarly op then (s.answer slice tag op Status.noResources 0 [], false)
  else
    (s.modMailbox slice fun m =>
      { m with taken := if m.taken.any fun t => t.tag = tag then updWhere (fun t => t.tag = tag) (fun t => { t with committed := true }) m.taken
                        else m.taken ++ [({ tag, major := 2, opcode := op, committed := true } : MbxTaken)] }, true)

/-- A command that only checks, acts and answers: `f` gives the new state, the status and the opcode's own fields. -/
def State.command (s : State) (slice : Nat) (tag : Word32) (op : Nat) (f : State → State × Status × List Nat) : State :=
  match s.take slice tag op with
  | (s, false) => s
  | (s, true) =>
    let (s, st, info) := f s
    s.answer slice tag op st 0 info

end Sys2Proof.Machine
end

