-- ==== Sys2Proof/Machine/KeyStore.lean ====
section
/-! DEFINITION. Loading and erasing key slots, and the Guard Cipher Engines' queue (R412 to R425). -/

namespace Sys2Proof.Machine

/-- A power or thermal emergency stands (R483): a thermal state above Normal, the brake, or a capping step that holds the
arithmetic clock below 2.25 GHz. -/
def State.emergency (s : State) : Bool := s.power.thermal ≠ .normal || s.power.brake || decide (0 < s.power.capStep)

/-! ## Slots -/

/-- A target names a slot of a known kind within the slice's quota, and its rsvd field is zero (R420); 0xFFFF is never a stream slot
(R412). -/
def State.slotOk (s : State) (slice : Nat) (t : KeyTarget) : Bool :=
  let q := s.quota slice
  if t.kind = 0 then decide (t.slot < q.guardKeys ∧ t.rsvd = 0)
  else decide (t.rsvd = 0 ∧ t.kind ≤ 2 ∧ t.slot < q.stream ∧ t.slot ≠ 0xFFFF)

/-- The slot as it stands; a slot never loaded is Empty. -/
def State.slotNow (s : State) (slice : Nat) (t : KeyTarget) : KeySlot :=
  (s.keySlot slice t.slot (t.kind = 0)).getD { slice, slot := t.slot, kind := t.kind }

/-- Ends that name a stream slot. -/
def State.endsNaming (s : State) (slice slot : Nat) : Nat :=
  (s.trans.conns.filter fun c => c.slice = slice && (c.sendSlot = some slot || c.recvSlot = some slot)).length

/-- The parent is a Loaded guard slot of the slice. -/
def State.parentOk (s : State) (slice parent : Nat) : Bool := (s.keySlot slice parent true).any fun k => k.state = .loaded

/-- A StreamSend load whose KeyId another StreamSend slot has, in any slice (R419). -/
def State.keyIdTaken (s : State) (kind : Nat) (keyId : Word32) : Bool :=
  kind = 1 && s.keys.slots.any fun k => k.kind = 1 && k.state ≠ .empty && k.keyId = keyId

/-- Load a slot that is Empty. -/
def State.loadSlot (s : State) (slice kind slot : Nat) (key : BitVec 256) (salt keyId : Word32) : State :=
  let k : KeySlot := { slice, slot, kind, state := .loaded, key, salt := if kind = 0 then 0 else salt, keyId }
  let same (x : KeySlot) : Bool := x.slice = slice && x.slot = slot && (decide (x.kind = 0) == decide (kind = 0))
  { s with keys.slots := (s.keys.slots.filter fun x => !same x) ++ [k] }

/-- Zeroize a slot, and the copies of it in the engines (R414). -/
def State.zeroize (s : State) (slice slot : Nat) (guardKind : Bool) : State :=
  let s := s.modKey slice slot guardKind fun k => { k with state := .empty, key := 0, salt := 0, keyId := 0, next := 0 }
  if guardKind then s
  else { s with keys.engines := s.keys.engines.map fun l => l.filter fun x => !(x.slice = slice && x.slot = slot) }

/-! ## Guard Cipher Engines (R424, R425) -/

/-- Engines in service. -/
def State.guardsUp (s : State) : List Nat := (List.range 4).filter fun e => !s.keys.guardOut.getLsbD e

/-- Blocks of a sequence: a 40-byte unwrap takes 30, an iteration of the KDF 5, and its CMAC subkey one. A message of an SPDM session, whose
length no command brings, takes one (DESIGN CHOICE, log entry 46). -/
def GuardWork.blocks (w : GuardWork) (kind : Nat) : Nat :=
  match w with
  | .unwrap _ => 30
  | .derive .. => if kind = 0 then 11 else 16
  | .message .. | .provision .. => 1

/-- A byte string of a key, label or context: its first byte is the most significant. -/
def keyBytes (k : BitVec 256) : List Byte := beBytes 32 k.toNat
def bytesKey (b : List Byte) : BitVec 256 := BitVec.ofNat 256 (leNat b.reverse)

/-- The direction and the input of the k-th operation of a sequence under its parent key. The blocks of an SPDM message are not brought. -/
def GuardWork.input (w : GuardWork) (kind : Nat) (parent : BitVec 256) (k : Nat) : Bool × List Byte :=
  match w with
  | .unwrap blob => (true, Aes.unwrapInput (keyBytes parent) blob k)
  | .derive label context _ =>
    (false, Aes.kdfInput (keyBytes parent) (keyBytes label) (keyBytes context) (if kind = 0 then 256 else 288) k)
  | .message .. | .provision .. => (false, [])

/-- Key, salt and KeyId that a key command yields, or how it fails; an SPDM message yields none so. -/
def GuardWork.result (w : GuardWork) (kind : Nat) (parent : BitVec 256) : Except Status (BitVec 256 × Word32 × Word32) :=
  match w with
  | .unwrap blob =>
    match Aes.unwrap (keyBytes parent) blob with
    | none => .error Status.authFail
    | some p =>
      let lo := BitVec.ofNat 32 (leField p 32 35)
      let hi := BitVec.ofNat 32 (leField p 36 39)
      if kind = 0 then
        if hi ≠ 0 then .error Status.descMalformed else .ok (bytesKey (p.take 32), 0, lo)
      else .ok (bytesKey (p.take 32), lo, hi)
  | .derive label context keyId =>
    let out := Aes.kdf (keyBytes parent) (keyBytes label) (keyBytes context) (if kind = 0 then 256 else 288)
    .ok (bytesKey (out.take 32), BitVec.ofNat 32 (leNat (out.drop 32)), keyId)
  | .message .. | .provision .. => .error Status.descMalformed

/-- The queue of 64 takes an entry of a core: it holds at most 16 of any one, and at most 48 of the others than the Security Core (R425). -/
def guardAdmits (q : List GuardEntry) (core : Nat) : Bool :=
  decide (q.length < 64) && decide ((q.filter fun e => e.core = core).length < 16)
    && (core = 0 || decide ((q.filter fun e => e.core ≠ 0).length < 48))

/-- The entry of a sequence's next operation. -/
def State.guardEntry (s : State) (j : GuardJob) : GuardEntry :=
  let key := ((s.keySlot j.slice j.parent true).map (·.key)).getD 0
  let x := j.work.input j.kind key (j.work.blocks j.kind - j.left)
  { job := j.id, core := j.core, slice := j.slice, slot := j.parent, decrypt := x.1, block := x.2 }

/-- Sequences whose next operation waits enter the queue, in their order, where it takes them (R425). -/
def State.feedGuard (s : State) : State :=
  s.keys.guardJobs.foldl (fun s j =>
    if j.queued || !guardAdmits s.keys.guardQueue j.core then s
    else { s with keys.guardQueue := s.keys.guardQueue ++ [s.guardEntry j],
                  keys.guardJobs := updWhere (fun x => x.id = j.id) (fun x => { x with queued := true }) s.keys.guardJobs }) s

/-- Begin a sequence of the Security Core. -/
def State.guardBegin (s : State) (slice : Nat) (tag : Word32) (parent kind slot : Nat) (w : GuardWork) : State :=
  let j : GuardJob := { id := s.keys.guardNext, slice, tag, parent, kind, slot, work := w, left := w.blocks kind }
  ({ s with keys.guardNext := j.id + 1, keys.guardJobs := s.keys.guardJobs ++ [j] } : State).feedGuard

/-- SPDM ERROR codes (log entry 34). -/
def spdmBusy : Nat := 0x03
def spdmUnspecified : Nat := 0x05
def spdmUnsupported : Nat := 0x07
def spdmSessionLimit : Nat := 0x0A
def spdmNotReady : Nat := 0x42

/-- A sequence that the engines could not carry out ends: the command with CIPHER_FAULT, the message of a session with an ERROR. -/
def State.guardFails (s : State) (j : GuardJob) : State :=
  match j.work with
  | .message p n _ | .provision p n .. => s.emit (.spdm p n (.error spdmUnspecified 0))
  | _ => s.respond (j.slice, j.tag) Status.cipherFault []

/-- A command's last block is done: its slot is loaded, unless R420 refuses. -/
def State.finishJob (s : State) (j : GuardJob) : State :=
  let answer (s : State) (c : Status) : State := s.respond (j.slice, j.tag) c []
  match s.keySlot j.slice j.parent true with
  | none => answer s Status.localAccess
  | some p =>
    match j.work.result j.kind p.key with
    | .error c => answer s c
    | .ok (key, salt, keyId) =>
      if (s.slotNow j.slice ⟨j.kind, j.slot, 0⟩).state ≠ .empty then answer s Status.busy
      else if s.keyIdTaken j.kind keyId then answer s Status.descMalformed
      else answer (s.loadSlot j.slice j.kind j.slot key salt keyId) Status.success

/-- A disagreement: the request ends with CIPHER_FAULT and the engine leaves service; with the last, every request does. -/
def State.guardFault (s : State) (e : Nat) (j : GuardJob) : State :=
  let s := { s with keys.guardOut := s.keys.guardOut ||| (1 <<< e) }
  let s := (s.bump .secCipherStatGuardFaults 0).raise { slice := 0, code := EventCode.cipherOut, object := e }
  let s := s.guardFails j
  if s.guardsUp.isEmpty then
    s.keys.guardJobs.foldl (fun s j => s.guardFails j) { s with keys.guardQueue := [], keys.guardJobs := [] }
  else s.feedGuard

/-- Accept a key command that needs the engines, or refuse it (R420). -/
def State.beginKey (s : State) (slice : Nat) (tag : Word32) (parent : Nat) (t : KeyTarget) (w : GuardWork) : State :=
  let refuse (c : Status) : State := s.respond (slice, tag) c []
  if !s.slotOk slice t ∨ !s.slotOk slice ⟨0, parent, 0⟩ then refuse Status.descMalformed
  else if !s.parentOk slice parent then refuse Status.localAccess
  else if (s.slotNow slice t).state ≠ .empty then refuse Status.busy
  else if s.guardsUp.isEmpty then refuse Status.cipherFault
  else s.guardBegin slice tag parent t.kind t.slot w

end Sys2Proof.Machine
end

