-- ==== Sys2Proof/Machine/Lms.lean ====
section
/-! DEFINITION. SHA-256 (FIPS 180-4), and the verification of HSS signatures (RFC 8554, which R2 names) with SHA-256 and 32-byte
hashes, of the keys and signatures of R446. -/

namespace Sys2Proof.Machine.Lms

abbrev Bytes := List (BitVec 8)

/-! ## SHA-256: its round constants are the upper halves of the first 64 of SHA-512's -/

def k256 : List (BitVec 32) := (Sha.ks.take 64).map fun k => BitVec.ofNat 32 (k.toNat / 2 ^ 32)

def h256 : List (BitVec 32) :=
  [0x6A09E667, 0xBB67AE85, 0x3C6EF372, 0xA54FF53A, 0x510E527F, 0x9B05688C, 0x1F83D9AB, 0x5BE0CD19]

def pad (m : Bytes) : Bytes := m ++ [0x80] ++ List.replicate ((119 - m.length % 64) % 64) 0 ++ beBytes 8 (8 * m.length)

def word (l : List (BitVec 32)) (i : Nat) : BitVec 32 := l.getD i 0

/-- The words of a schedule from the sixteenth on, newest first. -/
def expand : Nat → List (BitVec 32) → List (BitVec 32)
  | 0, ws => ws
  | fuel + 1, ws =>
    let a := word ws 14
    let b := word ws 1
    let s0 := a.rotateRight 7 ^^^ a.rotateRight 18 ^^^ (a >>> 3)
    let s1 := b.rotateRight 17 ^^^ b.rotateRight 19 ^^^ (b >>> 10)
    expand fuel ((word ws 15 + s0 + word ws 6 + s1) :: ws)

def schedule (block : Bytes) : List (BitVec 32) :=
  let first := (List.range 16).map fun i => BitVec.ofNat 32 (leNat ((block.drop (4 * i)).take 4).reverse)
  (expand 48 first.reverse).reverse

/-- One round on the working variables a to h. -/
def round (v : List (BitVec 32)) (x : BitVec 32 × BitVec 32) : List (BitVec 32) :=
  let a := word v 0
  let e := word v 4
  let s1 := e.rotateRight 6 ^^^ e.rotateRight 11 ^^^ e.rotateRight 25
  let ch := (e &&& word v 5) ^^^ (~~~e &&& word v 6)
  let t1 := word v 7 + s1 + ch + x.1 + x.2
  let s0 := a.rotateRight 2 ^^^ a.rotateRight 13 ^^^ a.rotateRight 22
  let maj := (a &&& word v 1) ^^^ (a &&& word v 2) ^^^ (word v 1 &&& word v 2)
  [t1 + s0 + maj, a, word v 1, word v 2, word v 3 + t1, e, word v 5, word v 6]

def block (h : List (BitVec 32)) (b : Bytes) : List (BitVec 32) :=
  List.zipWith (· + ·) h ((k256.zip (schedule b)).foldl round h)

/-- The digest, as its 32 bytes. -/
def sha256 (m : Bytes) : Bytes :=
  let p := pad m
  let h := (List.range (p.length / 64)).foldl (fun h i => block h ((p.drop (64 * i)).take 64)) h256
  h.flatMap fun w => beBytes 4 w.toNat

/-! ## LM-OTS -/

def be (b : Bytes) (at_ n : Nat) : Nat := leNat ((b.drop at_).take n).reverse

/-- Winternitz width, number of chains, and checksum shift of an LM-OTS type. -/
def otsParams (type : Nat) : Option (Nat × Nat × Nat) :=
  match type with
  | 1 => some (1, 265, 7)
  | 2 => some (2, 133, 6)
  | 3 => some (4, 67, 4)
  | 4 => some (8, 34, 0)
  | _ => none

/-- The i-th digit of w bits. -/
def digit (s : Bytes) (i w : Nat) : Nat := (s.getD (i * w / 8) 0).toNat / 2 ^ (8 - w - i * w % 8) % 2 ^ w

/-- The checksum of a digest's digits. -/
def checksum (q : Bytes) (w shift : Nat) : Nat :=
  ((List.range (256 / w)).map fun i => 2 ^ w - 1 - digit q i w).sum * 2 ^ shift

/-- The rest of a chain, from step `j` on. -/
def chain (pre : Bytes) (i : Nat) : Nat → Nat → Bytes → Bytes
  | 0, _, x => x
  | fuel + 1, j, x => chain pre i fuel (j + 1) (sha256 (pre ++ beBytes 2 i ++ beBytes 1 j ++ x))

/-- The public key that a signature leads to, where its type is the key's. -/
def otsKey (type : Nat) (ident : Bytes) (q : Nat) (sig msg : Bytes) : Option Bytes :=
  match otsParams type with
  | none => none
  | some (w, p, shift) =>
    if be sig 0 4 ≠ type ∨ sig.length ≠ 36 + 32 * p then none
    else
      let pre := ident ++ beBytes 4 q
      let d := sha256 (pre ++ [0x81, 0x81] ++ (sig.drop 4).take 32 ++ msg)
      let v := d ++ beBytes 2 (checksum d w shift)
      let ends := (List.range p).flatMap fun i =>
        let a := digit v i w
        chain pre i (2 ^ w - 1 - a) a ((sig.drop (36 + 32 * i)).take 32)
      some (sha256 (pre ++ [0x80, 0x80] ++ ends))

/-! ## LMS -/

/-- Height of an LMS type. -/
def height (type : Nat) : Option Nat := if 5 ≤ type ∧ type ≤ 9 then some (5 * (type - 4)) else none

/-- The root above a node. -/
def climb (ident : Bytes) : Nat → List Bytes → Bytes → Bytes
  | _, [], x => x
  | node, s :: r, x =>
    let pre := ident ++ beBytes 4 (node / 2) ++ [0x83, 0x83]
    climb ident (node / 2) r (sha256 (if node % 2 = 1 then pre ++ s ++ x else pre ++ x ++ s))

/-- Bytes of an LMS signature under a key of 56 bytes. -/
def sigBytes (key : Bytes) : Option Nat :=
  match otsParams (be key 4 4), height (be key 0 4) with
  | some (_, p, _), some h => some (4 + (36 + 32 * p) + 4 + 32 * h)
  | _, _ => none

/-- An LMS signature verifies over a message under a key: type, LM-OTS type, identifier and root. -/
def lmsVerifies (key sig msg : Bytes) : Bool :=
  match otsParams (be key 4 4), height (be key 0 4), sigBytes key with
  | some (_, p, _), some h, some n =>
    let ident := (key.drop 8).take 16
    let q := be sig 0 4
    let rest := sig.drop (40 + 32 * p)
    if key.length ≠ 56 ∨ sig.length ≠ n ∨ 2 ^ h ≤ q ∨ be rest 0 4 ≠ be key 0 4 then false
    else match otsKey (be key 4 4) ident q ((sig.drop 4).take (36 + 32 * p)) msg with
      | none => false
      | some k =>
        let path := (List.range h).map fun i => (rest.drop (4 + 32 * i)).take 32
        let leaf := sha256 (ident ++ beBytes 4 (2 ^ h + q) ++ [0x82, 0x82] ++ k)
        decide (climb ident (2 ^ h + q) path leaf = key.drop 24)
  | _, _, _ => false

/-! ## HSS -/

/-- The levels below a key: each but the last signs the next one's key. -/
def levels (msg : Bytes) : Nat → Bytes → Bytes → Bool
  | 0, key, sig => lmsVerifies key sig msg
  | nspk + 1, key, sig =>
    match sigBytes key with
    | none => false
    | some n =>
      let next := (sig.drop n).take 56
      lmsVerifies key (sig.take n) next && levels msg nspk next (sig.drop (n + 56))

/-- An HSS signature verifies over a message under a public key of 60 bytes: at most eight levels, as many as the key names. -/
def verifies (key sig msg : Bytes) : Bool :=
  let l := be key 0 4
  decide (key.length = 60 ∧ 1 ≤ l ∧ l ≤ 8 ∧ be sig 0 4 + 1 = l) && levels msg (l - 1) (key.drop 4) (sig.drop 4)

end Sys2Proof.Machine.Lms
end

