-- ==== Sys2Proof/Machine/Crc.lean ====
section
/-! DEFINITION. The cyclic redundancy checks of the part (R434): CRC-32C, CRC-32 and CRC-64, all reflected, with
initial value and final inversion all ones. -/

namespace Sys2Proof.Machine

def crcBit {w : Nat} (poly : BitVec w) (r : BitVec w) : BitVec w :=
  if r.getLsbD 0 then (r >>> 1) ^^^ poly else r >>> 1

def crcBits {w : Nat} (poly : BitVec w) : Nat → BitVec w → BitVec w
  | 0, r => r
  | n + 1, r => crcBits poly n (crcBit poly r)

def crcByte {w : Nat} (poly : BitVec w) (r : BitVec w) (b : Byte) : BitVec w := crcBits poly 8 (r ^^^ b.setWidth w)

/-- The register after a run of bytes. -/
def crcFeed {w : Nat} (poly : BitVec w) : BitVec w → List Byte → BitVec w
  | r, [] => r
  | r, b :: bs => crcFeed poly (crcByte poly r b) bs

def poly32c : BitVec 32 := 0x82F63B78
def poly32 : BitVec 32 := 0xEDB88320
def poly64 : BitVec 64 := 0xC96C5795D7870F42

def crc32c (bs : List Byte) : Word32 := ~~~ crcFeed poly32c (BitVec.allOnes 32) bs
def crc32 (bs : List Byte) : Word32 := ~~~ crcFeed poly32 (BitVec.allOnes 32) bs
def crc64 (bs : List Byte) : Word64 := ~~~ crcFeed poly64 (BitVec.allOnes 64) bs

end Sys2Proof.Machine
end

