-- ==== Sys2Proof/Machine/Frame.lean ====
section
/-! DEFINITION. Frames as bytes: the parts of a Cyquin frame in the order of R153, its header and extensions (R156 to R159), control
bodies (R161, R164, R234, R356, R430) and their trailer (R439), the CRC-32C (R155), the UDP checksum (R154), the GCM tag (R159, R426),
the frames of the ports themselves (R61, R326, R332, R507), and the reading of an arriving frame (R153 to R159). -/

namespace Sys2Proof.Machine

/-! ## Frame lengths (R153, R159, R203) -/

def extBytes (p : Packet) : Nat :=
  (if p.addr.isSome then 24 else 0) + (if p.lace.isSome then 8 else 0)
    + (match p.atomic with | some _ => if p.ptype = .atomicReq then 20 else 12 | none => 0)
    + (if p.sack.isEmpty then 0 else 4 * (1 + p.sack.length)) + (if p.nak.isSome then 12 else 0)
    + (if p.ctrl.isSome then 8 else 0) + (if p.cipher.isSome then 12 else 0)
    + (match p.coll with | some c => if c.sig.isSome then 28 else 20 | none => 0)

/-- Length of the frame, FCS included. -/
def frameBytes (p : Packet) (tagged : Bool) : Nat :=
  14 + (if tagged then 4 else 0) + 40 + 8 + 32 + extBytes p + p.payload.length
    + (if p.cipher.isSome then 16 else 0) + 4 + 4

/-- Words of a control message's body (R161, R164, R234, R356, R430). -/
def CtrlMsg.bodyWords : CtrlMsg → Nat
  | .connectReq .. => 4 | .connectAck .. => 4 | .connectRefuse .. => 3 | .close .. => 2 | .closeAck .. => 2
  | .pause .. => 3 | .resume .. => 3 | .sbtFeed .. => 16 | .groupReg .. => 6 | .groupRegAns .. => 4
  | .hsUp .. => 5 | .hsDown .. => 3 | .hsCount .. => 6 | .credit .. => 4 | .mismatch .. => 3 | .abort .. => 3
  | .ctrlAck .. => 2 | .epoch .. => 3 | .rtBegin .. => 3 | .rtBeginAck .. => 3
  | .rtLoad _ (.entries _ items) => 2 + 8 * items.length
  | .rtLoad _ (.chain _ items) => 2 + items.length
  | .rtCommit .. => 3 | .rtReady .. => 2 | .rtFlip .. => 1 | .rtFlipAck .. => 1 | .rtAbort .. => 1
  | .reHome .. => 5 | .reHomeAck .. => 1 | .rekey .. => 1 | .rekeyAck .. => 1

/-- Bytes of the control body that a frame carries as its payload, with the 16-B trailer of a guarded message (R159, R441). -/
def FrameBody.ctrlBytes : FrameBody → Nat
  | .ctrl _ m g => 4 * m.bodyWords + (if g.isSome then 16 else 0)
  | _ => 0

/-- Length of a class 7 frame, FCS included. -/
def ctrlFrameBytes (body : Packet → FrameBody) (p : Packet) (tagged : Bool) : Nat := frameBytes p tagged + (body p).ctrlBytes

/-! ## Control messages (R163, R164) -/

def CtrlMsg.subtype : CtrlMsg → Nat
  | .connectReq .. => 0x10 | .connectAck .. => 0x11 | .connectRefuse .. => 0x12 | .close .. => 0x13
  | .closeAck .. => 0x14 | .pause .. => 0x18 | .resume .. => 0x19 | .sbtFeed .. => 0x20 | .groupReg .. => 0x30
  | .groupRegAns .. => 0x31 | .hsUp .. => 0x40 | .hsDown .. => 0x41 | .hsCount .. => 0x42 | .credit .. => 0x43
  | .mismatch .. => 0x44 | .abort .. => 0x45 | .ctrlAck .. => 0x46 | .epoch .. => 0x47 | .rtBegin .. => 0x50
  | .rtBeginAck .. => 0x51 | .rtLoad .. => 0x52 | .rtCommit .. => 0x53 | .rtReady .. => 0x54 | .rtFlip .. => 0x55
  | .rtFlipAck .. => 0x56 | .rtAbort .. => 0x57 | .reHome .. => 0x60 | .reHomeAck .. => 0x61 | .rekey .. => 0x68
  | .rekeyAck .. => 0x69

/-- The messages that carry a guarded-block trailer (R441). -/
def CtrlMsg.guarded (m : CtrlMsg) : Bool :=
  let k := m.subtype
  (0x50 ≤ k && k ≤ 0x57) || k = 0x20 || k = 0x30 || k = 0x31 || k = 0x47

/-! ## Images of the Route Table -/

/-- A Route Table entry's bytes (R344). -/
def routeImage (e : RouteEntry) : List Byte :=
  leBytes 8 e.pfx.toNat ++ leBytes 6 e.mac.toNat ++ leBytes 2 (e.portSet % 256 + if e.valid then 32768 else 0)
    ++ leBytes 2 e.entropyBase ++ leBytes 1 e.entropyLog ++ leBytes 1 e.hopLimit ++ List.replicate 12 0

/-- A Chain Map record as a register holds it (R359). -/
def chainWord (r : ChainRec) : Nat := (if r.valid then 2 ^ 31 else 0) + r.pos % 64 * 2 ^ 24 + r.dir % 4 * 2 ^ 16

/-! ## The parts of a Cyquin frame (R153) -/

/-- A big-endian 32-bit word (R2). -/
def word (n : Nat) : List Byte := beBytes 4 n
def dword (n : Nat) : List Byte := beBytes 8 n

/-- Codes of the packet types (R158). A reserved type stands for any of 0x9 to 0xF. -/
def PType.code : PType → Nat
  | .data => 0 | .readReq => 1 | .readResp => 2 | .atomicReq => 3 | .atomicResp => 4 | .ack => 5 | .nak => 6 | .ctrl => 7
  | .probe => 8 | .rsvd => 9

def PType.ofCode : Nat → PType
  | 0 => .data | 1 => .readReq | 2 => .readResp | 3 => .atomicReq | 4 => .atomicResp | 5 => .ack | 6 => .nak | 7 => .ctrl
  | 8 => .probe | _ => .rsvd

/-- Flags of the base header (R157). -/
def flagBits (p : Packet) : Nat :=
  p.last.toNat * 128 + p.ackreq.toNat * 64 + p.epoch.toNat * 32 + p.ord.toNat * 16 + p.retx.toNat * 8 + p.ece.toNat * 4
    + p.solicit.toNat * 2

/-- The base header: eight words (R156). -/
def baseHeader (p : Packet) : List Byte :=
  [BitVec.ofNat 8 (p.version % 16 * 16 + PType.code p.ptype), BitVec.ofNat 8 (flagBits p), BitVec.ofNat 8 (extBytes p / 4), 0]
    ++ word (p.tenant.toNat * 256) ++ word (p.destIndex.toNat * 256 + p.destInc.toNat) ++ word p.psn.toNat
    ++ word (p.msn.toNat * 256) ++ word p.sendStamp.toNat ++ word p.echoStamp.toNat ++ word p.ackPsn.toNat

/-- The header word of an extension: ExtType, ExtWords, ExtData (R159). -/
def extHead (ty words data : Nat) : List Byte := word (ty * 2 ^ 24 + words * 2 ^ 16 + data)

/-- The extensions, in ascending ExtType order (R159, R236). -/
def extImage (p : Packet) : List Byte :=
  (match p.addr with
    | some a => extHead 1 6 0 ++ dword a.fpa.toNat ++ word a.key.toNat ++ word a.msgLen ++ word a.pktIndex
    | none => [])
  ++ (match p.lace with
    | some k => extHead 2 2 0 ++ word k.toNat
    | none => [])
  ++ (match p.atomic with
    | some a =>
      if p.ptype = .atomicReq then extHead 3 5 a.flag.toNat ++ dword a.opA.toNat ++ dword a.opB.toNat
      else extHead 3 3 a.flag.toNat ++ dword a.opA.toNat
    | none => [])
  ++ (if p.sack.isEmpty then []
    else extHead 4 (1 + p.sack.length) p.sack.length ++ p.sack.flatMap fun b => word (b.1 * 65536 + b.2))
  ++ (match p.nak with
    | some n => extHead 5 3 (n.code * 256 + n.status) ++ word n.psn.toNat ++ word n.retryUs
    | none => [])
  ++ (match p.ctrl with
    | some c => extHead 6 2 c.subtype ++ word c.seq.toNat
    | none => [])
  ++ (match p.cipher with
    | some n => extHead 7 3 0 ++ dword n.toNat
    | none => [])
  ++ (match p.coll with
    | some c =>
      extHead 0x10 (if c.sig.isSome then 7 else 5) (c.op * 256 + c.stage) ++ word c.seq.toNat ++ word c.src ++ word c.chunk
        ++ word c.slot ++ (match c.sig with | some g => dword g.toNat | none => [])
    | none => [])

/-- An index and its incarnation in one word (R161). -/
def endWord (i : BitVec 24) (n : BitVec 8) : List Byte := word (i.toNat * 256 + n.toNat)

/-- The words of a little-endian image, each big-endian, as a control body holds a Route Table entry (R164, R356; log entry 81). -/
def imageWords (b : List Byte) : List Byte := (List.range (b.length / 4)).flatMap fun k => ((b.drop (4 * k)).take 4).reverse

/-- Bodies of the control messages (R161, R164, R234, R356, R430). -/
def CtrlMsg.body : CtrlMsg → List Byte
  | .connectReq b =>
    endWord b.initIndex b.initInc ++ word b.listenId.toNat ++ word b.initPsn.toNat
      ++ word (b.mode + b.trafficClass * 2 + b.payloadLog * 16 + b.stripes * 256 + b.encrypted.toNat * 2048)
  | .connectAck i n l psn => endWord i n ++ word l.toNat ++ word psn.toNat ++ word 0
  | .connectRefuse i n l st reason => endWord i n ++ word l.toNat ++ word (st.toNat + reason * 256)
  | .close i n j m | .closeAck i n j m => endWord i n ++ endWord j m
  | .pause us serial => word us ++ dword serial.toNat
  | .resume serial ab => dword serial.toNat ++ word ab.toNat
  | .sbtFeed rtts => rtts.flatMap word
  | .groupReg name count rank dereg digest => dword name.toNat ++ word count ++ word (rank + dereg.toNat * 65536) ++ dword digest.toNat
  | .groupRegAns name st e => dword name.toNat ++ word st ++ word e.toNat
  | .hsUp q g m rank => dword q.toNat ++ dword g.toNat ++ word (m.toNat * 65536 + rank)
  | .hsDown q m rank => dword q.toNat ++ word (m.toNat * 65536 + rank)
  | .hsCount q g n => dword q.toNat ++ dword g.toNat ++ dword n.toNat
  | .credit q stage n slot => dword q.toNat ++ word (stage * 65536 + n) ++ word slot
  | .mismatch q rank => dword q.toNat ++ word rank
  | .abort q st rank => dword q.toNat ++ word (st.toNat * 65536 + rank)
  | .ctrlAck q node => word q.toNat ++ word node.toNat
  | .epoch name e => dword name.toNat ++ word e.toNat
  | .rtBegin e m r => word e.toNat ++ word m.toNat ++ word r.toNat
  | .rtBeginAck e mine full => word e.toNat ++ word mine.toNat ++ word full.toNat
  | .rtLoad e (.entries first items) =>
    word e.toNat ++ word (first + items.length * 65536) ++ items.flatMap fun x => imageWords (routeImage x)
  | .rtLoad e (.chain first items) =>
    word e.toNat ++ word (2 ^ 31 + first + items.length * 65536) ++ items.flatMap fun x => word (chainWord x)
  | .rtCommit e crc => word e.toNat ++ dword crc.toNat
  | .rtReady e st => word e.toNat ++ word st
  | .rtFlip e | .rtFlipAck e | .rtAbort e => word e.toNat
  | .reHome i n old j m new inc => endWord i n ++ word old.toNat ++ endWord j m ++ word new.toNat ++ word inc.toNat
  | .reHomeAck i n => endWord i n
  | .rekey k => word k.toNat
  | .rekeyAck st => word st

/-- The guarded-block trailer of a control body: Alive, Length and TFlags, CheckValue, each big-endian (R439). -/
def guardTrailer (g : Word32 × Bool) (body : List Byte) : List Byte :=
  word g.1.toNat ++ beBytes 3 body.length ++ [BitVec.ofNat 8 g.2.toNat] ++ dword (crc64 body).toNat

/-- What a frame carries as its payload: the packet's own, or the control body with its trailer (R159, R441). -/
def FrameBody.payload : FrameBody → List Byte
  | .packet p => p.payload
  | .ctrl _ m (some g) => m.body ++ guardTrailer g m.body
  | .ctrl _ m none => m.body
  | _ => []

/-- A datagram from its base header to its CRC-32C, which covers all before it (R153, R155); a check value on the wire is big-endian
(R431). -/
def datagram (p : Packet) (payload : List Byte) : List Byte :=
  let b := baseHeader p ++ extImage p ++ payload ++ (if p.cipher.isSome then beBytes 16 p.tag.toNat else [])
  b ++ word (crc32c b).toNat

/-! ## The Stream Cipher Engines (R159, R426) -/

/-- The IV of an invocation counter: salt, then counter (R426). -/
def gcmIv (salt : Word32) (n : Word64) : List Byte := word salt.toNat ++ dword n.toNat

/-- Encrypt a packet's payload under a key and its salt, with the base header and every extension as the additional data (R159). A packet
without a CIPHER extension stays as it is. -/
def sealPacket (key : BitVec 256 × Word32) (p : Packet) : Packet :=
  match p.cipher with
  | none => p
  | some n =>
    let (text, tag) := Aes.gcm (beBytes 32 key.1.toNat) (gcmIv key.2 n) (baseHeader p ++ extImage p) p.payload
    { p with payload := text, tag := BitVec.ofNat 128 (leNat tag.reverse) }

/-- The tag of a packet is right under a slot's key. -/
def KeySlot.verifies (k : KeySlot) (n : Word64) (p : Packet) : Bool :=
  decide (Aes.gcmTag (beBytes 32 k.key.toNat) (gcmIv k.salt n) (baseHeader p ++ extImage p) p.payload = beBytes 16 p.tag.toNat)

/-- The key and salt that an end sends under now: an engine that gives a packet its counter encrypts it under them, whatever becomes of
the end and its slot before the frame leaves (R426). -/
def State.sendKey (s : State) (conn : Option Nat) : Option (BitVec 256 × Word32) :=
  ((s.trans.conns.find? fun c => some c.index = conn).bind fun c => c.sendSlot.bind fun k => s.keySlot c.slice k false).map fun k =>
    (k.key, k.salt)

/-- A packet of an end, sealed under the key that the end sends under now. -/
def State.encrypted (s : State) (conn : Option Nat) (p : Packet) : Packet :=
  match s.sendKey conn with
  | some k => sealPacket k p
  | none => p

/-- The payload of a packet that an end takes: decrypted under its receive key where the packet carries a CIPHER extension. -/
def State.plain (s : State) (c : Conn) (p : Packet) : List Byte :=
  match p.cipher, c.recvSlot with
  | some n, some slot =>
    match s.keySlot c.slice slot false with
    | some k => Aes.ctr (beBytes 32 k.key.toNat) (gcmIv k.salt n) p.payload
    | none => p.payload
  | _, _ => p.payload

/-! ## The headers below (R57, R60, R153, R154, R194, R318, R344) -/

/-- Sum of the 16-bit words of a byte string, an odd last byte padded with zero. -/
def sum16 : List Byte → Nat
  | a :: b :: r => a.toNat * 256 + b.toNat + sum16 r
  | [a] => a.toNat * 256
  | [] => 0

/-- Fold the carries of a one's complement sum of at most 2^32. -/
def fold16 (n : Nat) : Nat :=
  let n := n % 65536 + n / 65536
  n % 65536 + n / 65536

/-- The pseudo-header of a UDP or ICMPv6 packet over IPv6. -/
def pseudoHeader (src dst : BitVec 128) (len next : Nat) : List Byte :=
  beBytes 16 src.toNat ++ beBytes 16 dst.toNat ++ word len ++ word next

/-- The checksum over the pseudo-header and the packet with its checksum field at zero. -/
def checksum (src dst : BitVec 128) (next : Nat) (b : List Byte) : Nat :=
  65535 - fold16 (sum16 (pseudoHeader src dst b.length next ++ b))

/-- The UDP header and its datagram; a checksum of zero is sent as all ones (R154). -/
def udpImage (h : PathHdr) (d : List Byte) : List Byte :=
  let ports := beBytes 2 h.entropy ++ beBytes 2 h.udpDst ++ beBytes 2 (8 + d.length)
  let c := checksum h.srcIp h.dstIp 17 (ports ++ [0, 0] ++ d)
  ports ++ beBytes 2 (if c = 0 then 65535 else c) ++ d

/-- The IPv6 header, with no extension header (R153). ECT(0) is ECN codepoint 2 (R194). The spec gives the DSCP and the flow label no
value: they are free. -/
def ipImage (h : PathHdr) (cls next : Nat) (b : List Byte) : List Byte :=
  word (6 * 2 ^ 28 + (Config.dscp cls % 64 * 4 + if h.ect then 2 else 0) * 2 ^ 20 + Config.flowLabel h.entropy % 2 ^ 20)
    ++ beBytes 2 b.length ++ [BitVec.ofNat 8 next, BitVec.ofNat 8 h.hop] ++ beBytes 16 h.srcIp.toNat ++ beBytes 16 h.dstIp.toNat ++ b

/-- An Ethernet frame from its destination address to its FCS, padded to 64 B, with at most one 802.1Q tag (R153, R318). -/
def etherImage (dst src : BitVec 48) (tag : Option VlanTag) (ty : Nat) (b : List Byte) : List Byte :=
  let b := beBytes 6 dst.toNat ++ beBytes 6 src.toNat
    ++ (match tag with | some t => beBytes 2 0x8100 ++ beBytes 2 (t.pcp * 2 ^ 13 + t.vid) | none => []) ++ beBytes 2 ty ++ b
  let b := b ++ List.replicate (60 - b.length) 0
  b ++ leBytes 4 (crc32 b).toNat

/-! ## A frame as it leaves a port -/

/-- The MAC address of a port: ten consecutive ones from the first, assigned at manufacture (R318). -/
def portMac (p : Nat) : BitVec 48 := Config.macBase + BitVec.ofNat 48 p

/-- A Welt control frame: EtherType 0x88B6 to 01-80-C2-00-00-0E, the Kind first (R320, R332). -/
def weltImage (port kind : Nat) (b : List Byte) : List Byte :=
  etherImage 0x0180C200000E (portMac port) none 0x88B6 (BitVec.ofNat 8 kind :: b)

/-- A time stamp of TIME: nanoseconds, then a 16-bit fraction (R507). -/
def stampImage (t : Nat) : List Byte := dword (t / 65536) ++ beBytes 2 (t % 65536)

/-- A Neighbor Advertisement (R61), solicited and overriding, with the target's link-layer address. -/
def advertImage (h : PathHdr) (target : BitVec 128) (mac : BitVec 48) : List Byte :=
  let pre : List Byte := [136, 0]
  let post := word (3 * 2 ^ 29) ++ beBytes 16 target.toNat ++ [2, 1] ++ beBytes 6 mac.toNat
  pre ++ beBytes 2 (checksum h.srcIp h.dstIp 58 (pre ++ [0, 0] ++ post)) ++ post

/-- A Cyquin frame on a port (R153). -/
def cyquinImage (port : Nat) (t : TxFrame) (p : Packet) : List Byte :=
  let h := t.hdr.getD {}
  etherImage h.dmac (portMac port) t.vlan 0x86DD (ipImage h t.cls 17 (udpImage h (datagram p t.body.payload)))

/-- The bytes of a frame from its destination address to its FCS, without the Welt tag of a Welt link (`weltTagged`). A forwarded
frame keeps every byte above its Ethernet header (R363). -/
def TxFrame.image (port : Nat) (t : TxFrame) : List Byte :=
  match t.body with
  | .packet p | .ctrl p _ _ => cyquinImage port t p
  | .raw b => b ++ leBytes 4 (crc32 b).toNat
  | .pfc mask quanta =>
    etherImage 0x0180C2000001 (portMac port) none 0x8808 (beBytes 2 0x0101 ++ beBytes 2 mask ++ quanta.flatMap (beBytes 2))
  | .neighborAdvert target mac =>
    let h := t.hdr.getD {}
    etherImage h.dmac (portMac port) none 0x86DD (ipImage h t.cls 58 (advertImage h target mac))
  | .hello coord p welt send echo nonce =>
    weltImage port 2 (word coord.toNat ++ [BitVec.ofNat 8 p, BitVec.ofNat 8 welt.toNat] ++ dword send.toNat ++ dword echo.toNat
      ++ dword nonce.toNat)
  | .weltStatus acks credits => weltImage port 3 ((acks ++ credits).flatMap fun w => word w.toNat)
  | .weltNak lane seq => weltImage port 4 (BitVec.ofNat 8 lane :: word seq.toNat)
  | .time t1 t1p t2p => weltImage port 5 (stampImage t1 ++ stampImage t1p ++ stampImage t2p)
  | .forward f =>
    let b := beBytes 6 (Config.chainMac port).toNat ++ beBytes 6 (portMac port).toNat ++ f.bytes.drop 12
    b ++ leBytes 4 (crc32 b).toNat

/-- A frame in its Welt tag, directly after the source address, with its FCS over it (R331). -/
def weltTagged (lane : Nat) (seq : Word32) (b : List Byte) : List Byte :=
  let b := b.take 12 ++ [0x88, 0xB6, 1, BitVec.ofNat 8 lane] ++ beBytes 4 seq.toNat ++ (b.drop 12).take (b.length - 16)
  b ++ leBytes 4 (crc32 b).toNat

/-! ## Reading an arriving frame -/

/-- Big-endian number at a place of a frame. -/
def beField (b : List Byte) (at_ n : Nat) : Nat := leNat ((b.drop at_).take n).reverse

/-- An 802.1Q tag starts here (log entry 30). -/
def isTag (b : List Byte) (at_ : Nat) : Bool := beField b at_ 2 = 0x8100 || beField b at_ 2 = 0x88A8

/-- Where the EtherType after any tag stands. -/
def etherAt (b : List Byte) : Nat := if isTag b 12 then 16 else 12

/-- The 32-bit words of a byte string. -/
def wordsOf (b : List Byte) : List Nat := (List.range (b.length / 4)).map fun k => beField b (4 * k) 4

/-- A number of two words. -/
def twoWords (hi lo : Nat) : Word64 := BitVec.ofNat 64 (hi * 2 ^ 32 + lo)

/-- Take one extension: its type, its data and its words after the header; none where it is unknown, has another size than its row, or
sets a reserved bit (R159). -/
def readExt (p : Packet) (ty data : Nat) (ws : List Nat) : Option Packet :=
  match ty, ws with
  | 1, [hi, lo, key, len, idx] =>
    if data = 0 then some { p with addr := some ⟨twoWords hi lo, BitVec.ofNat 32 key, len, idx⟩ } else none
  | 2, [w] => if data = 0 ∧ w < 2 ^ 18 then some { p with lace := some (BitVec.ofNat 18 w) } else none
  | 3, [a, b, c, d] =>
    if data ≤ 1 ∧ p.ptype = .atomicReq then some { p with atomic := some ⟨data = 1, twoWords a b, twoWords c d⟩ } else none
  | 3, [a, b] => if data ≤ 1 ∧ p.ptype ≠ .atomicReq then some { p with atomic := some ⟨data = 1, twoWords a b, 0⟩ } else none
  | 4, ws =>
    if data = ws.length ∧ 1 ≤ data ∧ data ≤ 16 then some { p with sack := ws.map fun w => (w / 65536, w % 65536) } else none
  | 5, [psn, us] =>
    if us < 65536 then some { p with nak := some ⟨data / 256, data % 256, BitVec.ofNat 32 psn, us⟩ } else none
  | 6, [seq] => some { p with ctrl := some ⟨data, BitVec.ofNat 32 seq⟩ }
  | 7, [hi, lo] => if data = 0 then some { p with cipher := some (twoWords hi lo) } else none
  | 0x10, [seq, src, chunk, slot] =>
    if src < 65536 ∧ slot < 65536 then
      some { p with coll := some ⟨data / 256, data % 256, BitVec.ofNat 32 seq, src, chunk, slot, none⟩ }
    else none
  | 0x10, [seq, src, chunk, slot, hi, lo] =>
    if src < 65536 ∧ slot < 65536 then
      some { p with coll := some ⟨data / 256, data % 256, BitVec.ofNat 32 seq, src, chunk, slot, some (twoWords hi lo)⟩ }
    else none
  | _, _ => none

/-- Read the extensions, which stand in ascending order of type and fill their bytes exactly (R159). -/
def readExts : Nat → Nat → List Nat → Packet → Option Packet
  | _, _, [], p => some p
  | 0, _, _, _ => none
  | fuel + 1, prev, w :: ws, p =>
    let ty := w / 2 ^ 24
    let n := w / 2 ^ 16 % 256
    if ty ≤ prev ∨ n = 0 ∨ ws.length + 1 < n then none
    else (readExt p ty (w % 65536) (ws.take (n - 1))).bind fun p => readExts fuel ty (ws.drop (n - 1)) p

/-- The packet of a datagram: its base header, its extensions, its payload and its tag. `fmtBad` says that a reserved field is not zero or
that the extensions do not read (R159). -/
def readPacket (d : List Byte) : Packet :=
  let w (k : Nat) : Nat := beField d (4 * k) 4
  let flag (k : Nat) : Bool := (w 0).testBit k
  let p : Packet :=
    { version := w 0 / 2 ^ 28, ptype := PType.ofCode (w 0 / 2 ^ 24 % 16), last := flag 23, ackreq := flag 22, epoch := flag 21,
      ord := flag 20, retx := flag 19, ece := flag 18, solicit := flag 17, tenant := BitVec.ofNat 24 (w 1 / 256),
      destIndex := BitVec.ofNat 24 (w 2 / 256), destInc := BitVec.ofNat 8 (w 2), psn := BitVec.ofNat 32 (w 3),
      msn := BitVec.ofNat 24 (w 4 / 256), sendStamp := BitVec.ofNat 32 (w 5), echoStamp := BitVec.ofNat 32 (w 6),
      ackPsn := BitVec.ofNat 32 (w 7) }
  let extLen := w 0 / 256 % 256 * 4
  let rest := (d.drop 32).take (d.length - 36)
  let rsvd := flag 16 || decide (w 0 % 256 ≠ 0 ∨ w 1 % 256 ≠ 0 ∨ w 4 % 256 ≠ 0)
  match if d.length < 36 + extLen then none else readExts 16 0 (wordsOf (rest.take extLen)) p with
  | none => { p with fmtBad := true }
  | some p =>
    let rest := rest.drop extLen
    let n := if p.cipher.isSome then rest.length - 16 else rest.length
    { p with payload := rest.take n, tag := BitVec.ofNat 128 (leNat (rest.drop n).reverse),
             fmtBad := rsvd || (p.cipher.isSome && decide (rest.length < 16)) }

/-- An arriving IPv6 UDP frame, given without its FCS: its addresses, whether its UDP checksum and its CRC-32C hold (R154, R155), its CE
mark (R194) and its packet. -/
def readFrame (port : Nat) (b : List Byte) : Arrival :=
  let e := etherAt b + 2
  let src := BitVec.ofNat 128 (beField b (e + 8) 16)
  let dst := BitVec.ofNat 128 (beField b (e + 24) 16)
  let udp := (b.drop (e + 40)).take (beField b (e + 44) 2)
  let d := udp.drop 8
  { port := some (Fin.ofNat 10 port), frame := b, src, dst, srcMac := BitVec.ofNat 48 (beField b 6 6), udpDst := beField b (e + 42) 2,
    csumOk := decide (beField b (e + 46) 2 ≠ 0 ∧ fold16 (sum16 (pseudoHeader src dst udp.length 17 ++ udp)) = 65535),
    crcOk := decide (36 ≤ d.length ∧ beField d (d.length - 4) 4 = (crc32c (d.take (d.length - 4))).toNat),
    ce := decide (beField b e 2 / 16 % 4 = 3), pkt := readPacket d }

end Sys2Proof.Machine
end

