-- ==== Sys2Proof/Machine/Net.lean ====
section
/-! DEFINITION. Sending frames: the Site Baseline Table (R197), the path of a frame (R346 to R351), frame lengths (R153,
R203), egress queues and the class 7 reserve (R204), and control messages (R163). -/

namespace Sys2Proof.Machine

/-! ## Ports and links -/

def State.port (s : State) (p : Nat) : Port := vget s.ports p {}

def State.modPort (s : State) (p : Nat) (f : Port → Port) : State := { s with ports := vmod s.ports p f }

/-- The port's record in the Last in force (R35). -/
def State.portRec (s : State) (p : Nat) : PortRec :=
  (s.last.inForce.bind fun l => l.ports[p]?).getD {}

def State.linkUp (s : State) (p : Nat) : Bool := (s.port p).link = .up

/-- Port rate in bytes per ns: 100 for a fabric port, 200 for a chain port (R36). -/
def portRate (p : Nat) : Nat := if p < 8 then 100 else 200

/-- The class that a priority maps to, and the lowest priority of a class (R205, R535). Without a Last, priority p is
class p. -/
def State.classOf (s : State) (prio : Nat) : Nat :=
  match s.last.inForce with
  | some l => (l.prioClass[prio]?).getD 0
  | none => prio

def State.prioOf (s : State) (cls : Nat) : Nat :=
  ((List.range 8).find? fun p => s.classOf p = cls).getD 0

/-! ## The Site Baseline Table (R197) -/

def minOpt (l : List (Option Nat)) : Option Nat := (l.filterMap id).min?

/-- The entry's value: the local filter while a bucket holds a sample, else the feed while it is under 10 s old. -/
def SbtEntry.value (e : SbtEntry) (now : Nat) : Option Nat :=
  match minOpt e.buckets with
  | some v => some v
  | none => e.feed.bind fun f => if now < f.2 + 10000000000 then some f.1 else none

/-- An entry `n` buckets later. -/
def SbtEntry.roll (e : SbtEntry) (n : Nat) : SbtEntry :=
  { e with buckets := (List.replicate (min n 10) none ++ e.buckets).take 10 }

/-- Seconds of Device Time that have begun since the first bucket's. -/
def State.sbtBehind (s : State) : Nat := s.time.now / 1000000000 - s.trans.sbtSecond

/-- Every entry's first bucket covers the second of Device Time that runs now. -/
def State.sbtRoll (s : State) : State :=
  let n := s.sbtBehind
  if n = 0 then s
  else { s with trans.sbt := s.trans.sbt.map fun e => e.roll n, trans.sbtSecond := s.trans.sbtSecond + n }

def State.sbtRtt (s : State) (site : Nat) : Option Nat := ((vget s.trans.sbt site {}).roll s.sbtBehind).value s.time.now

/-- Base RTT toward a node with no samples: the table's entry, or 100 µs (R176, R199). -/
def State.baseRtt (s : State) (c : Coord) : Nat := (s.sbtRtt (coordSite c)).getD 100000

/-- The repeat interval of R162; an entry that is not valid counts as 0 (DEDUCED; log 28). -/
def State.ctrlInterval (s : State) (c : Coord) : Nat := max 50000 (2 * (s.sbtRtt (coordSite c)).getD 0)

/-! ## Route lookup (R344 to R348) -/

def routeIndex (c : Coord) : Nat := coordSite c * 1024 + coordHall c * 64 + coordGroup c

def RouteBank.entry (b : RouteBank) (i : Nat) : RouteEntry := (assoc b.entries i).getD {}

def RouteBank.chainOf (b : RouteBank) (node : Nat) : ChainRec := (assoc b.chain node).getD {}

def State.bank (s : State) (k : Nat) : RouteBank := vget s.route.banks k {}

/-- The Active bank, if there is one (R352). -/
def State.activeBank (s : State) : Option RouteBank :=
  let b := s.bank s.route.active
  if b.state = .active then some b else none

def sameGroup (a b : Coord) : Bool := a.toNat / 64 = b.toNat / 64

/-- The fabric ports of a PortSet that are up, ascending. -/
def State.upPorts (s : State) (set : Nat) : List Nat :=
  (List.range 8).filter fun p => set.testBit p && s.linkUp p

/-- Path hash of an end (R348): CRC-32C of own index and incarnation, then the peer's. -/
def pathHash (own : Nat) (inc : BitVec 8) (peer : BitVec 24) (peerInc : BitVec 8) : Nat :=
  (crc32c (beBytes 3 own ++ [inc] ++ beBytes 3 peer.toNat ++ [peerInc])).toNat

def Conn.hash (c : Conn) : Nat := pathHash c.index c.incarnation c.peerIndex c.peerInc

/-- The hash of a node-scope control message (R163). -/
def nodeHash (dst : Coord) : Nat := (crc32c (beBytes 4 dst.toNat)).toNat

/-- The port of the pinned pair, for retry count r (R348, R350). -/
def pinnedPort (ups : List Nat) (h r : Nat) : Option Nat :=
  ups[(if r < 2 then h else h + r - 1) % max 1 ups.length]?

/-- Entropy of a pinned frame (R348, R350). -/
def pinnedEntropy (e : RouteEntry) (h r : Nat) : Nat :=
  e.entropyBase + (h / 256 + (if r < 2 then 0 else r)) % 2 ^ e.entropyLog

/-- The port of a sprayed frame (R208): a resend takes another port than its last copy where another is up. -/
def sprayPort (ups : List Nat) (psn h r : Nat) (prev : Option Nat) : Option Nat :=
  let k := max 1 ups.length
  let i := (psn + h + r) % k
  match ups[i]? with
  | none => none
  | some p => if prev = some p ∧ ups.length > 1 then ups[(i + 1) % k]? else some p

def sprayEntropy (e : RouteEntry) (psn h r : Nat) : Nat := e.entropyBase + (psn + h + r) % 2 ^ e.entropyLog

/-- Interface identifier of a node's port (R57). -/
def iid (c : Coord) (p : Nat) : Nat := 0x7460000000000000 + coordGroup c * 2 ^ 14 + coordNode c * 2 ^ 8 + p

def ipOf (pfx : Word64) (c : Coord) (p : Nat) : BitVec 128 := BitVec.ofNat 128 (pfx.toNat * 2 ^ 64 + iid c p)

/-- The node's own prefix, from the entry of its own coordinates (R58). -/
def State.ownPrefix (s : State) : Word64 :=
  (s.activeBank.map fun b => (b.entry (routeIndex s.coord)).pfx).getD 0

/-- Where a frame leaves (R346). -/
inductive Path where
  | loopback
  | chain (east : Bool)
  | fabric (e : RouteEntry) (ups : List Nat)
  | none
deriving DecidableEq, Repr

/-- A frame of a class travels east to a node of the ring (R361): class 7 by position, the others by the record. -/
def RouteBank.eastTo (b : RouteBank) (own dst cls : Nat) : Bool :=
  if cls = 7 then decide ((b.chainOf own).pos < (b.chainOf dst).pos) else decide ((b.chainOf dst).dir = 1)

def State.path (s : State) (dst : Coord) (cls : Nat) : Path :=
  if dst = s.coord then .loopback
  else match s.activeBank with
    | .none => .none
    | some b =>
      let r := b.chainOf (coordNode dst)
      if sameGroup dst s.coord ∧ r.valid ∧ r.dir ≠ 0 then
        let east := b.eastTo (coordNode s.coord) (coordNode dst) cls
        if s.linkUp (if east then 8 else 9) then .chain east else .none
      else
        let e := b.entry (routeIndex dst)
        let ups := s.upPorts e.portSet
        if e.valid ∧ !ups.isEmpty then .fabric e ups else .none

/-- Charged length (R203). -/
def State.charged (s : State) (port bytes : Nat) : Nat := bytes + s.fld .prtSchedCtrlOverheadB port

/-- The 802.1Q tag of a Cyquin frame (R205, R318). -/
def State.tagFor (s : State) (port cls : Nat) : Option VlanTag :=
  if port < 8 ∧ s.fld .prtVlanTagEnable port = 1 then some ⟨s.fld .prtVlanVlanId port, s.prioOf cls⟩ else none

/-! ## Egress queues -/

def isAckOf (conn : Option Nat) (t : TxFrame) : Bool :=
  t.conn = conn && conn.isSome && (match t.body with | .packet p => p.ptype = .ack | _ => false)

/-- PFC headroom per priority, and Welt replay need, of a cable length (R36). -/
def pfcHeadroom (l : PortRec) (p : Nat) : Nat := portRate p * (10 * l.cableM + 1000) + 18432
def weltNeed (l : PortRec) (p : Nat) : Nat := portRate p * (10 * l.cableM + 2000)

/-- Welt replay share of a Welt-enabled fabric port (R36): the partition less the chain share, divided equally. -/
def State.weltShare (s : State) : Nat :=
  let part := (s.last.inForce.bind fun l => l.pools[4]?).getD 0 * 1048576
  let chain := (([8, 9].filter fun p => (s.portRec p).mode = 2).map fun p => weltNeed (s.portRec p) p).sum
  (part - chain) / max 1 ((List.range 8).filter fun p => (s.portRec p).mode = 1 && (s.portRec p).welt).length

def bitCount (m : Nat) : Nat := ((List.range 8).filter fun k => m.testBit k).length

/-- Allowance of classes 0 to 6 at a port, in bytes: its buffer less PFC headroom, Welt excess and the class 7 reserve. -/
def State.allowance (s : State) (p : Nat) : Nat :=
  let l := s.portRec p
  let excess := if p < 8 ∧ l.welt then weltNeed l p - s.weltShare else 0
  l.bufMiB * 1048576 - pfcHeadroom l p * bitCount l.pfcMask - excess - 262144

/-- The bytes charged at a port's queue of classes 0 to 6 (R200, R203). -/
def State.queuedBytes (s : State) (p : Nat) : Nat :=
  (((s.port p).egress.filter fun t => t.cls < 7).map fun t => s.charged p t.bytes).sum

/-- Bytes of the class 7 reserve in use (R204). -/
def Port.reserveUsed (x : Port) : Nat := ((x.egress.filter fun y => y.cls = 7).map (·.bytes)).sum

/-- Received frames of a port. -/
def State.heldAt (s : State) (p : Nat) : List Held := s.ingress.filter fun h => h.arrival.port.any fun q => q.val = p

/-- Shared ingress hold in bytes: at most half the allowance, of which it is a part (R328). -/
def State.rxHold (s : State) (p : Nat) : Nat := min (s.fld .prtPfcCtrlRxHoldKiB p * 1024) (s.allowance p / 2)

/-- The part of the allowance that is the egress queue's: a fabric port's hold is taken from it, full or empty (R328). -/
def State.egressSpace (s : State) (p : Nat) : Nat := if p < 8 then s.allowance p - s.rxHold p else s.allowance p

/-- A frame finds room at a port: class 7 in its reserve (R204), the others in what the hold leaves of the allowance (R328). -/
def State.roomFor (s : State) (port : Nat) (t : TxFrame) : Bool :=
  if t.cls = 7 then (s.port port).reserveUsed + t.bytes ≤ 262144
  else if t.cls < 7 then s.queuedBytes port + s.charged port t.bytes ≤ s.egressSpace port
  else true

/-- Frames that waited move in while they find room, in order. -/
def State.admitWaiting (s : State) (port : Nat) : List TxFrame → State
  | [] => s
  | t :: r =>
    if s.roomFor port t then
      (s.modPort port fun x => { x with egress := x.egress ++ [t], waitRoom := x.waitRoom.erase t }).admitWaiting port r
    else s.admitWaiting port r

/-- Queue a frame at a port. Its first hop on the ring takes VL1, or VL0 in class 7 (R362). A class 7 frame that finds
the 256 KiB reserve full waits, and so does any other that finds the allowance full; a new ACK replaces one queued ACK of
its end (R204). -/
def State.queueFrame (s : State) (port : Nat) (t : TxFrame) : State :=
  let x := s.port port
  let tag := match t.body with
    | .packet _ | .ctrl .. => s.tagFor port t.cls
    | _ => none
  let t : TxFrame := { t with queuedAt := s.time.now, vlan := tag, vl := if t.cls < 7 ∧ t.vl = 0 then 1 else t.vl }
  if s.roomFor port t then s.modPort port fun x => { x with egress := x.egress ++ [t] }
  else
    let isAck : Bool := match t.body with | .packet p => decide (p.ptype = .ack) | _ => false
    if t.cls = 7 ∧ isAck ∧ x.egress.any (isAckOf t.conn) then
      (s.modPort port fun x => { x with egress := replaceFirst (isAckOf t.conn) t x.egress }).bump
        .prtC7StatAckReplaced port
    else s.modPort port fun x => { x with waitRoom := x.waitRoom ++ [t] }

/-- The headers of a frame that leaves on a fabric port (R60, R194, R344). -/
def State.fabricHdr (s : State) (dst : Coord) (e : RouteEntry) (port entropy : Nat) (ect : Bool) : PathHdr :=
  { dmac := e.mac, srcIp := ipOf s.ownPrefix s.coord port, dstIp := ipOf e.pfx dst port,
    hop := if e.hopLimit = 0 then 64 else e.hopLimit, entropy, udpDst := s.trans.cyqPort.toNat, ect }

/-- The Route Table entry of a destination in the bank in use. -/
def State.entryTo (s : State) (dst : Coord) : RouteEntry := ((s.activeBank).map fun b => b.entry (routeIndex dst)).getD {}

/-- The headers of a frame that leaves on a chain port: addressed to the far side's opposite chain port (R60), with the hop limit of the
destination's entry (R344). The spec gives no MAC address for it (log entry 81). -/
def State.chainHdr (s : State) (dst : Coord) (east : Bool) (entropy : Nat) (ect : Bool) : PathHdr :=
  let e := s.entryTo dst
  { dmac := Config.chainMac (if east then 8 else 9), srcIp := ipOf s.ownPrefix s.coord (if east then 8 else 9),
    dstIp := ipOf s.ownPrefix dst (if east then 9 else 8), hop := if e.hopLimit = 0 then 64 else e.hopLimit, entropy,
    udpDst := s.trans.cyqPort.toNat, ect }

/-- A loopback frame goes through the Shank and arrives at the node itself, with no address (R52). -/
def State.loopBack (s : State) (body : Packet → FrameBody) (p : Packet) (conn : Option Nat) : State :=
  let p := s.encrypted conn { p with sendStamp := BitVec.ofNat 32 s.time.now }
  let a : Arrival := { port := none, src := 0, dst := 0, udpDst := s.trans.cyqPort.toNat, pkt := { p with payload := (body p).payload } }
  { s.emit (.loopback (body p)) with ingress := s.ingress ++ [{ arrival := a }] }

/-- Send a class 7 frame of a node or an end on its pinned pair (R163, R348). -/
def State.sendC7 (s : State) (dst : Coord) (h r : Nat) (body : Packet → FrameBody) (p : Packet) (slice : Nat)
    (conn : Option Nat) : State :=
  let p := { p with epoch := decide (s.route.active = 1) }
  match s.path dst 7 with
  | .loopback => s.loopBack body p conn
  | .none => s.bump .rteStatNoRoute 0
  | .chain east =>
    let port := if east then 8 else 9
    s.queueFrame port { body := body p, cls := 7, slice, bytes := ctrlFrameBytes body p (s.tagFor port 7).isSome, dst, conn,
                        hdr := some (s.chainHdr dst east (pinnedEntropy (s.entryTo dst) h r) false) }
  | .fabric e ups =>
    match pinnedPort ups h r with
    | none => s.bump .rteStatNoRoute 0
    | some port =>
      s.queueFrame port { body := body p, cls := 7, slice, bytes := ctrlFrameBytes body p (s.tagFor port 7).isSome, dst, conn,
                          hdr := some (s.fabricHdr dst e port (pinnedEntropy e h r) false) }

/-! ## Control messages (R163, R164) -/

/-- A node-scope control packet: every connection field zero (R163). -/
def nodePacket (m : CtrlMsg) (seq : Word32) : Packet :=
  { ptype := .ctrl, last := true, ctrl := some ⟨m.subtype, seq⟩ }

/-- Transmit a node-scope control message once, as repeat number r. -/
def State.putCtrl (s : State) (dst : Coord) (m : CtrlMsg) (seq : Word32) (r : Nat) (g : Option (Word32 × Bool)) :
    State :=
  s.sendC7 dst (nodeHash dst) r (fun p => .ctrl p m g) (nodePacket m seq) 0 none

/-- Take the next alive counter toward a receiver, and whether the message carries Resync: the first to a receiver
does (R441; log entry 14). -/
def State.takeAlive (s : State) (dst : Coord) : State × (Word32 × Bool) :=
  let (c, r) := (assoc s.trans.guardTx dst).getD (0, true)
  ({ s with trans.guardTx := assocSet s.trans.guardTx dst (c + 1, false) }, (c + 1, r))

/-- From now on the next guarded message to a receiver carries Resync (R441). -/
def State.resyncTo (s : State) (dst : Coord) : State :=
  { s with trans.guardTx := assocSet s.trans.guardTx dst (((assoc s.trans.guardTx dst).getD (0, true)).1, true) }

/-- Every receiver's next guarded message carries Resync, and every sender's record is cleared (R441, R442). -/
def State.guardClear (s : State) : State :=
  { s with trans.guardTx := s.trans.guardTx.map (fun g => (g.1, g.2.1, true)), trans.guardRx := [] }

/-- A reply: sent once and remembered, so that a repeat of the message it answers gets it again (R163, R442). -/
def State.replyCtrl (s : State) (dst : Coord) (m : CtrlMsg) (seq : Word32) : State :=
  let (s, g) := if m.guarded then (fun (x : State × (Word32 × Bool)) => (x.1, some x.2)) (s.takeAlive dst) else (s, none)
  let seen := s.trans.ctrlSeen.filter fun x => !(x.1 = dst && x.2.1 = seq)
  ({ s with trans.ctrlSeen := seen ++ [(dst, seq, m, g)] } : State).putCtrl dst m seq 0 g

/-- The address of one of the node's own ports, under a prefix (R57). -/
def State.ownPortOf (s : State) (dst : BitVec 128) (p : Nat) : Bool := decide (dst.toNat % 2 ^ 64 = iid s.coord p)

/-- The coordinates that a source address names (R59): the (site, hall) whose prefix it carries for the group of its
IID. With no Active bank, a source of the node's own group (R358). -/
def State.srcCoord (s : State) (banks : List RouteBank) (src : BitVec 128) : Option Coord :=
  let i := src.toNat % 2 ^ 64
  let g := i / 2 ^ 14 % 64
  let n := i / 2 ^ 8 % 64
  if i / 2 ^ 48 ≠ 0x7460 ∨ i / 2 ^ 20 % 2 ^ 28 ≠ 0 then none
  else if banks.isEmpty then
    if g = coordGroup s.coord then some (BitVec.ofNat 20 (s.coord.toNat / 2 ^ 12 * 2 ^ 12 + g * 64 + n)) else none
  else banks.findSome? fun b =>
    (List.range 256).findSome? fun sh =>
      let e := b.entry (sh * 64 + g)
      if e.valid ∧ e.pfx.toNat = src.toNat / 2 ^ 64 then some (BitVec.ofNat 20 (sh * 2 ^ 12 + g * 64 + n)) else none

/-- The banks that judge an arriving frame (R353): the one its EPOCH flag names for a source of the own group, if that is
Ready, Active or Draining; otherwise the Active one, then the Draining one. -/
def State.judges (s : State) (epoch sameGroup : Bool) : List RouteBank :=
  let named := s.bank (if epoch then 1 else 0)
  let active := s.activeBank.toList
  if sameGroup then
    if named.state = .ready ∨ named.state = .active ∨ named.state = .draining then [named] else active
  else active ++ (s.route.banks.toList.filter fun b => b.state = .draining)

/-- The node whose prefix and IID an arrival's source carries, under a bank whose own prefix its destination carries (R59). -/
def State.namedUnder (s : State) (a : Arrival) (b : RouteBank) : Option Coord :=
  if (b.entry (routeIndex s.coord)).pfx.toNat = a.dst.toNat / 2 ^ 64 then s.srcCoord [b] a.src else none

/-- The node that an arrival's addresses name (R59, R353): of the own group under the bank that the EPOCH flag names, of any other under
the Active bank or else the Draining one. -/
def State.namedBy (s : State) (a : Arrival) : Option Coord :=
  let under (own : Bool) : Option Coord :=
    (s.judges a.pkt.epoch own).findSome? fun b => (s.namedUnder a b).bind fun c => if sameGroup c s.coord = own then some c else none
  (under true).orElse fun _ => under false

/-- The node that sent an arrival: itself on the loopback path. With no Active bank, the addresses of a route message name it by its IID
alone (R358). -/
def State.sender (s : State) (a : Arrival) : Option Coord :=
  match a.port with
  | none => some s.coord
  | some _ => (s.namedBy a).orElse fun _ => if s.activeBank.isNone then s.srcCoord [] a.src else none

/-- Transmit a reply to a message that arrived: a node with no Active bank answers on the port of arrival, to the
addresses the frame came from (R358). -/
def State.sendReply (s : State) (a : Arrival) (src : Coord) (m : CtrlMsg) (seq : Word32) (g : Option (Word32 × Bool)) :
    State :=
  match s.activeBank, a.port with
  | none, some port =>
    let p := nodePacket m seq
    let h : PathHdr := { dmac := a.srcMac, srcIp := a.dst, dstIp := a.src, udpDst := s.trans.cyqPort.toNat,
                         hop := Config.bareHop src.toNat, entropy := Config.bareEntropy src.toNat }
    s.queueFrame port { body := .ctrl p m g, cls := 7, bytes := ctrlFrameBytes (.ctrl · m g) p (s.tagFor port 7).isSome, dst := src, hdr := some h }
  | _, _ => s.putCtrl src m seq 0 g

/-- A reply to a node-scope message that arrived, remembered for its repeats. -/
def State.answerCtrl (s : State) (a : Arrival) (src : Coord) (m : CtrlMsg) (seq : Word32) : State :=
  let (s, g) := if m.guarded then (fun (x : State × (Word32 × Bool)) => (x.1, some x.2)) (s.takeAlive src) else (s, none)
  let seen := s.trans.ctrlSeen.filter fun x => !(x.1 = src && x.2.1 = seq)
  ({ s with trans.ctrlSeen := seen ++ [(src, seq, m, g)] } : State).sendReply a src m seq g

/-- Acknowledge a node-scope message that names no reply. -/
def State.ackCtrl (s : State) (a : Arrival) (src : Coord) (seq : Word32) : State :=
  s.answerCtrl a src (.ctrlAck seq true) seq

/-- The reply already given to a message, if it has been received before. -/
def State.seenCtrl (s : State) (src : Coord) (seq : Word32) : Option (CtrlMsg × Option (Word32 × Bool)) :=
  (s.trans.ctrlSeen.find? fun x => x.1 = src && x.2.1 = seq).map fun x => x.2.2

/-- Send a waiting control message for the first time. -/
def State.startCtrl (s : State) (m : CtrlOut) : State :=
  let (s, g) := if m.msg.guarded then (fun (x : State × (Word32 × Bool)) => (x.1, some x.2)) (s.takeAlive m.dst)
    else (s, none)
  let go (x : CtrlOut) : CtrlOut := { x with queued := false, alive := g, nextAt := s.time.now + s.ctrlInterval m.dst }
  let s := { s with trans.ctrlOut := updWhere (fun x => x.seq = m.seq) go s.trans.ctrlOut }
  s.putCtrl m.dst m.msg m.seq 0 g

/-- Send a node-scope control message that is repeated until it is answered (R163). A guarded message waits until
the one before it to the same receiver has been acknowledged (R441). -/
def State.sendCtrl (s : State) (dst : Coord) (m : CtrlMsg) : State :=
  let seq := s.trans.ctrlSeq + 1
  let blocked := m.guarded && s.trans.ctrlOut.any fun x => x.dst = dst && x.conn.isNone && x.msg.guarded
  let o : CtrlOut := { seq, msg := m, dst, queued := true, nextAt := 0 }
  let s := { s with trans.ctrlSeq := seq, trans.ctrlOut := s.trans.ctrlOut ++ [o] }
  if blocked then s else s.startCtrl o

/-- Forget the unanswered control messages that an answer meets, and send the guarded message that waited. -/
def State.dropCtrl (s : State) (good : CtrlOut → Bool) : State :=
  let gone := s.trans.ctrlOut.filter good
  let s := { s with trans.ctrlOut := s.trans.ctrlOut.filter fun m => !good m }
  gone.foldl (fun s g =>
    if g.msg.guarded && !(s.trans.ctrlOut.any fun x => x.dst = g.dst && x.msg.guarded && !x.queued) then
      match s.trans.ctrlOut.find? fun x => x.dst = g.dst && x.msg.guarded && x.queued with
      | some n => s.startCtrl n
      | none => s
    else s) s

/-- A packet of an end, with its addressing fields (R156, R163). -/
def State.endPacket (s : State) (c : Conn) (ptype : PType) : Packet :=
  { ptype, tenant := (s.slice c.slice).tenant, destIndex := c.peerIndex, destInc := c.peerInc, ord := c.ordered }

/-- Send a class 7 packet of an end. -/
def State.sendEndC7 (s : State) (c : Conn) (p : Packet) : State :=
  s.sendC7 c.peer c.hash 0 .packet p c.slice (some c.index)

/-- Send a control message of an end; `again` says it is repeated until answered. -/
def State.sendEndCtrl (s : State) (c : Conn) (m : CtrlMsg) (again : Bool) : State :=
  let seq := s.trans.ctrlSeq + 1
  let s := { s with trans.ctrlSeq := seq }
  let s := if again then
      { s with trans.ctrlOut := s.trans.ctrlOut ++
          [({ seq, msg := m, dst := c.peer, conn := some c.index,
              nextAt := s.time.now + s.ctrlInterval c.peer } : CtrlOut)] }
    else s
  s.sendC7 c.peer c.hash 0 (fun p => .ctrl p m none)
    { s.endPacket c .ctrl with last := true, ctrl := some ⟨m.subtype, seq⟩ } c.slice (some c.index)

end Sys2Proof.Machine
end

