-- ==== Sys2Proof/Machine/RegOps.lean ====
section
/-! DEFINITION. Writing registers: which fields a write stores, who may write (R4, R371, R396), and values that a commit
puts in force (R213). -/

namespace Sys2Proof.Machine

/-- Store the fields of a register that software writes; the others keep their bits. -/
def State.storeReg (s : State) (r : Reg) (k : Nat) (v : Word64) : State :=
  (r.fields.filter fun f => f.acc = .rw || f.acc = .rws).foldl (fun s f => s.setFld f k (bitsOf v f.hi f.lo)) s

/-- A write of PRT_SCHED_COMMIT: the shadows as they stand wait for the port's frame boundary (R213). -/
def State.askCommit (s : State) (p : Nat) : State :=
  s.modPort p fun x => { x with pendingSched := some (s.rawReg .prtSchedQuantum p, s.rawReg .prtArbRank p) }

end Sys2Proof.Machine
end

