-- ==== Sys2Proof/Machine/MbxRun.lean ====
section
/-! DEFINITION. A mailbox's rings: the checks of a request (R469, R470), intake (R466), and the writing of responses
(R466, R471). -/

namespace Sys2Proof.Machine

/-! ## Headers (R467) -/

/-- A header's bytes before its Crc. -/
def mbxHeader (own : Bool) (major minor opcode length tag slice : Nat) : List Byte :=
  leBytes 1 (major % 128 + (if own then 128 else 0)) ++ leBytes 1 minor ++ leBytes 2 opcode ++ leBytes 2 length ++ leBytes 4 tag
    ++ leBytes 2 slice

/-- The CRC-32C of a header, with its ownership bit taken as 0, and of a body. -/
def mbxCrc (major minor opcode length tag slice : Nat) (body : List Byte) : Word32 :=
  crc32c (mbxHeader false major minor opcode length tag slice ++ body)

/-- A request's Crc is right: over `length` bytes of its body, those that it does not name being zero. -/
def requestCrcOk (r : MbxRequest) : Bool :=
  r.crc = mbxCrc r.major r.minor r.opcode r.length r.tag.toNat r.slice ((r.body ++ List.replicate r.length 0).take r.length)

/-- A response body: Status, Detail, and the opcode's own fields. -/
def respBody (r : MbxResp) : List Byte :=
  leBytes 1 r.status.toNat ++ leBytes 1 0 ++ leBytes 2 r.detail ++ (Config.respFields r.opcode r.info).take 492

/-- A response as its slot gets it: format 2.0, or the request's own major, with the ownership bit of the ring's lap (R466, R468). -/
def respImage (own : Bool) (r : MbxResp) : List Byte :=
  let b := respBody r
  let slice := if r.major = 2 then r.slice else 0
  mbxHeader own r.major 0 r.opcode b.length r.tag.toNat slice
    ++ leBytes 4 (mbxCrc r.major 0 r.opcode b.length r.tag.toNat slice b).toNat ++ b

/-! ## Requests -/

/-- Order 1 to 6 of R469: the code, the Detail and the major of the answer to a request that fails. -/
def State.requestFault (s : State) (k : Nat) (r : MbxRequest) : Option (Status × Nat × Nat) :=
  if !(r.major = 1 || r.major = 2) ∨ (r.major = 2 ∧ 0 < r.minor) then some (Status.descUnsupportedOp, 0, 2)
  else if 496 < r.length ∨ !requestCrcOk r then some (Status.descMalformed, 1, r.major)
  else if r.major = 2 ∧ r.slice ≠ k then some (Status.localAccess, 0, r.major)
  else if !mbxOpcodes.contains r.opcode then some (Status.descUnsupportedOp, 0, r.major)
  else if 8 ≤ (s.mailbox k).outstanding none then some (Status.busy, 0, r.major)
  else if s.last.inForce.isNone ∧ !mbxEarly r.opcode then some (Status.noResources, 0, r.major)
  else none

/-- Count a refusal for a CRC, or for eight commands outstanding. -/
def State.countRefusal (s : State) (r : MbxRequest) (c : Status) : State :=
  if c = Status.busy then s.bump .fwmStatBusyAnswers 0
  else if c = Status.descMalformed ∧ r.length ≤ 496 then s.bump .fwmStatCrcRejects 0
  else s

/-- Take one request from the ring, or answer it at once. -/
def State.takeOne (s : State) (k : Nat) (r : MbxRequest) : State :=
  let s := s.modMailbox k fun m => { m with consumed := m.consumed + 1 }
  match s.requestFault k r with
  | some (c, detail, major) =>
    let resp : MbxResp := { slice := k, tag := r.tag, major, opcode := r.opcode, status := c, detail }
    (s.countRefusal r c).modMailbox k fun m => { m with ready := m.ready ++ [resp] }
  | none => s.modMailbox k fun m => { m with taken := m.taken ++ [({ tag := r.tag, major := r.major, opcode := r.opcode } : MbxTaken)] }

/-- Intake of a slice's requests, in ring order, unless commands are held, or one of the slice's still waits behind another (R49). -/
def State.intake (s : State) (k : Nat) : State :=
  if s.mbxHeld || s.last.held.contains (.request k) then s
  else ((s.mailbox k).intake.foldl (fun s r => s.takeOne k r) s).modMailbox k fun m => { m with intake := [] }

/-- Intake of the oldest request of a slice. -/
def State.intakeOne (s : State) (k : Nat) : State :=
  match (s.mailbox k).intake with
  | r :: rest => if s.mbxHeld then s else (s.modMailbox k fun m => { m with intake := rest }).takeOne k r
  | [] => s

/-- Intake of every slice goes on. -/
def State.intakeAll (s : State) : State := s.mailboxes.foldl (fun s m => s.intake m.1) s

/-- Translation of a ring has failed: the mailbox stops (R465). -/
def State.mbxFault (s : State) (k : Nat) : State := s.modMailbox k fun m => { m with fault := true, intake := [] }

/-- The rings cannot be reached. -/
def State.ringsBlocked (s : State) (k : Nat) : Bool := (s.hostBlocked (s.slice k).func 0xFFFF).isSome

/-! ## Responses -/

/-- The slot of the response ring that the next response goes to: 2^Log slots of 512 B from the ring's base (R465). -/
def State.respSlot (s : State) (k : Nat) : Nat :=
  s.fld .slcMbxRspBaseIova k * 4096 + (s.mailbox k).produced.toNat % 2 ^ clamp 3 12 (s.fld .slcMbxCtrlRspLog k) * 512

/-- The ownership bit of the next response: set in the ring's first lap, and the other way round in each lap after it (R97, R466). -/
def State.respOwn (s : State) (k : Nat) : Bool :=
  (s.mailbox k).produced.toNat / 2 ^ clamp 3 12 (s.fld .slcMbxCtrlRspLog k) % 2 = 0

/-- Messages for responses that were written 2 µs ago, or since then, are sent (R471). -/
def State.mailMessages (s : State) : State :=
  (s.mailboxes.filter fun m => m.2.intAt.any s.due).foldl (fun (s : State) m =>
    (s.modMailbox m.1 fun x => { x with intAt := none }).sendMsix m.1 (s.fld .slcMbxCtrlVector m.1) none) s

/-- The oldest response whose flushes are done is written, once the dirty-page log and the endpoint have room for it (R216, R382). The
message for it, and for those written within 2 µs after it, is sent then (R471). -/
def State.respWritten (s : State) (k : Nat) : State :=
  match (s.mailbox k).writing with
  | none => s
  | some r =>
    let port := (s.slice k).port
    let page := s.respSlot k / 4096 * 4096
    if s.ringsBlocked k then (s.modMailbox k fun m => { m with writing := none }).mbxFault k
    else if s.logFull k [page] then s.parkOwn k (.mbx k) .logRoom
    else if s.postedFull port 512 then s.parkOwn k (.mbx k) (.posted port)
    else
      let sizes := (tlpParts (s.hostPort port).maxPayload 0 512).map (·.2)
      let s := ((s.logPages k [page]).leavePath k port 0xFFFF).postTlps port sizes
      let image := respImage (s.respOwn k) r
      let s := (s.modMailbox k fun m => { m with writing := none, produced := m.produced + 1 }).emit (.mailbox r image)
      if s.fld .slcMbxCtrlIntEnable k = 1 then s.modMailbox k fun m => { m with intAt := some (m.intAt.getD (s.time.now + 2000)) } else s

/-- Write the oldest response that is ready, as a fenced write; one is written at a time. -/
def State.writeResponse (s : State) (k : Nat) (r : MbxResp) (rest : List MbxResp) : State :=
  let s := s.modMailbox k fun m => { m with ready := rest, writing := some r }
  let (s, ids, _) := s.fence k (some ((s.slice k).port, 0xFFFF))
  if ids.isEmpty then s.respWritten k else s.parkOwn k (.mbx k) (.flush ids)

end Sys2Proof.Machine
end

