-- ==== Sys2Proof/Machine/Arith.lean ====
section
/-! DEFINITION. Number formats, rounding, conversion, reduction and matrix products of the arithmetic engines (R249 to
R265). Values are exact numbers; each operation rounds where the spec rounds. -/

namespace Sys2Proof.Machine

/-- A value: NaN, an infinity, or ±m × 2^e. Zero keeps its sign (R256). -/
inductive Num where
  | nan
  | inf (neg : Bool)
  | fin (neg : Bool) (m : Nat) (e : Int)
deriving DecidableEq, Repr

/-- What a format's top codes mean (R253). -/
inductive Specials where
  | ieee      -- exponent all ones: infinity and NaN
  | e4m3      -- NaN only, at exponent and mantissa all ones
  | finite    -- none
deriving DecidableEq, Repr

/-- A floating-point format (R253). -/
structure Fmt where
  exp : Nat
  man : Nat
  bias : Nat
  kind : Specials
deriving DecidableEq, Repr

def fp32 : Fmt := ⟨8, 23, 127, .ieee⟩
def bf16 : Fmt := ⟨8, 7, 127, .ieee⟩
def fp16 : Fmt := ⟨5, 10, 15, .ieee⟩
def fp8e4m3 : Fmt := ⟨4, 3, 7, .e4m3⟩
def fp8e5m2 : Fmt := ⟨5, 2, 15, .ieee⟩
def e2m3 : Fmt := ⟨2, 3, 1, .finite⟩
def e2m1 : Fmt := ⟨2, 1, 1, .finite⟩

/-- Width of a format in bits. -/
def Fmt.bits (f : Fmt) : Nat := 1 + f.exp + f.man

/-- Exponent of the weight of a subnormal's last bit. -/
def Fmt.minExp (f : Fmt) : Int := 1 - f.bias - f.man

/-- Largest finite magnitude, as m × 2^e. -/
def Fmt.maxMan (f : Fmt) : Nat := 2 ^ (f.man + 1) - (match f.kind with | .e4m3 => 2 | _ => 1)
def Fmt.maxExp (f : Fmt) : Int := 2 ^ f.exp - (match f.kind with | .ieee => 2 | _ => 1) - f.bias - f.man

/-- Decode the bits of a format, exactly. -/
def Fmt.decode (f : Fmt) (b : Nat) : Num :=
  let m := b % 2 ^ f.man
  let x := b / 2 ^ f.man % 2 ^ f.exp
  let neg := decide (b / 2 ^ (f.exp + f.man) % 2 = 1)
  if f.kind = .ieee ∧ x = 2 ^ f.exp - 1 then (if m = 0 then .inf neg else .nan)
  else if f.kind = .e4m3 ∧ x = 2 ^ f.exp - 1 ∧ m = 2 ^ f.man - 1 then .nan
  else if x = 0 then .fin neg m f.minExp
  else .fin neg (m + 2 ^ f.man) (x - f.bias - f.man)

/-- The canonical NaN of a format (R256). -/
def Fmt.nanBits (f : Fmt) : Nat :=
  match f.kind with
  | .ieee => (2 ^ f.exp - 1) * 2 ^ f.man + 2 ^ (f.man - 1)
  | .e4m3 => 0x7F
  | .finite => 0

def signBit (f : Fmt) (neg : Bool) : Nat := if neg then 2 ^ (f.exp + f.man) else 0

def Fmt.infBits (f : Fmt) (neg : Bool) : Nat := signBit f neg + (2 ^ f.exp - 1) * 2 ^ f.man

def Fmt.maxBits (f : Fmt) (neg : Bool) : Nat :=
  signBit f neg + (match f.kind with
    | .ieee => (2 ^ f.exp - 2) * 2 ^ f.man + (2 ^ f.man - 1)
    | .e4m3 => 0x7E
    | .finite => 2 ^ (f.exp + f.man) - 1)

/-- Scale a magnitude to an exponent not above its own. -/
def alignTo (m : Nat) (e q : Int) : Nat := m * 2 ^ (e - q).toNat

/-- Round a magnitude to a format's precision: nearest, ties to even, or stochastically with `u` (R257, R258). Answers
k with the exponent of its unit; the exponent range is not limited above. -/
def Fmt.round (f : Fmt) (u : Option Nat) (m : Nat) (e : Int) : Nat × Int :=
  let q := max (e + Nat.log2 m - f.man) f.minExp
  if q ≤ e then (alignTo m e q, q)
  else
    let d := (q - e).toNat
    let k := m / 2 ^ d
    let r := m % 2 ^ d
    let up := match u with
      | none => decide (2 ^ d < 2 * r ∨ (2 * r = 2 ^ d ∧ k % 2 = 1))
      | some u => decide (u < r * 256 / 2 ^ d)
    (if up then k + 1 else k, q)

/-- k × 2^q is beyond the largest finite value. -/
def Fmt.overflows (f : Fmt) (k : Nat) (q : Int) : Bool :=
  let lo := min q f.maxExp
  decide (alignTo f.maxMan f.maxExp lo < alignTo k q lo)

/-- The bits of a magnitude that the format represents. -/
def Fmt.pack (f : Fmt) (neg : Bool) (k : Nat) (q : Int) : Nat :=
  if k < 2 ^ f.man then signBit f neg + k
  else
    let (k, q) := if 2 ^ (f.man + 1) ≤ k then (k / 2, q + 1) else (k, q)
    signBit f neg + (q + f.bias + f.man).toNat * 2 ^ f.man + (k - 2 ^ f.man)

/-- How a finite value beyond the largest converts: saturate, or by the format's rule (R257). -/
def Fmt.encode (f : Fmt) (sat : Bool) (u : Option Nat) : Num → Nat
  | .nan => f.nanBits
  | .inf neg => if f.kind = .ieee then f.infBits neg else f.nanBits
  | .fin neg m e =>
    let (k, q) := f.round u m e
    if m = 0 then signBit f neg
    else if f.overflows k q then
      if sat ∨ f.kind = .finite then f.maxBits neg else if f.kind = .ieee then f.infBits neg else f.nanBits
    else f.pack neg k q

/-! ## FP32 operations (R249, R260, R263) -/

/-- Round to FP32. -/
def toF32 (x : Num) : Num := fp32.decode (fp32.encode false none x)

def f32Bits (x : Num) : Word32 := BitVec.ofNat 32 (fp32.encode false none x)
def f32Of (w : Word32) : Num := fp32.decode w.toNat

def Num.neg : Num → Num
  | .nan => .nan
  | .inf n => .inf !n
  | .fin n m e => .fin (!n) m e

def Num.abs : Num → Num
  | .nan => .nan
  | .inf _ => .inf false
  | .fin _ m e => .fin false m e

def Num.isZero : Num → Bool
  | .fin _ 0 _ => true
  | _ => false

def Num.isNan : Num → Bool
  | .nan => true
  | _ => false

def Num.isFin : Num → Bool
  | .fin .. => true
  | _ => false

/-- A finite value as a signed integer times 2^q, for q not above its exponent. -/
def signedAt (neg : Bool) (m : Nat) (e q : Int) : Int := if neg then -(alignTo m e q : Int) else alignTo m e q

/-- The exact sum. An exact zero is +0 unless both are −0. -/
def Num.add : Num → Num → Num
  | .nan, _ => .nan
  | _, .nan => .nan
  | .inf a, .inf b => if a = b then .inf a else .nan
  | .inf a, _ => .inf a
  | _, .inf b => .inf b
  | .fin n m e, .fin n' m' e' =>
    let q := min e e'
    let s := signedAt n m e q + signedAt n' m' e' q
    if s = 0 then .fin (n && n') 0 q else .fin (decide (s < 0)) s.natAbs q

/-- The exact product. -/
def Num.mul : Num → Num → Num
  | .nan, _ => .nan
  | _, .nan => .nan
  | .inf a, .inf b => .inf (a != b)
  | .inf a, .fin n m _ => if m = 0 then .nan else .inf (a != n)
  | .fin n m _, .inf b => if m = 0 then .nan else .inf (n != b)
  | .fin n m e, .fin n' m' e' => .fin (n != n') (m * m') (e + e')

def fadd (a b : Num) : Num := toF32 (a.add b)
def fsub (a b : Num) : Num := toF32 (a.add b.neg)
def fmul (a b : Num) : Num := toF32 (a.mul b)
def ffma (a b c : Num) : Num := toF32 ((a.mul b).add c)

/-- a < b for values that are no NaN, with −0 below +0. -/
def Num.below : Num → Num → Bool
  | .inf true, .inf true => false
  | .inf true, _ => true
  | _, .inf true => false
  | .inf false, _ => false
  | _, .inf false => true
  | .fin n m e, .fin n' m' e' =>
    let q := min e e'
    let x := signedAt n m e q
    let y := signedAt n' m' e' q
    decide (x < y) || (decide (x = 0 ∧ y = 0) && n && !n')
  | _, _ => false

def fmax (a b : Num) : Num := if a.isNan || b.isNan then .nan else if a.below b then b else a
def fmin (a b : Num) : Num := if a.isNan || b.isNan then .nan else if b.below a then b else a

/-- Integer square root by bits, most significant first. -/
def isqrt (n : Nat) : Nat → Nat → Nat
  | 0, r => r
  | k + 1, r => let t := r + 2 ^ k; isqrt n k (if t * t ≤ n then t else r)

/-- The square root of m × 2^e with `extra` bits, and a sticky bit below them. -/
def sqrtParts (m : Nat) (e : Int) (extra : Nat) : Nat × Int :=
  let m := if e % 2 = 0 then m else 2 * m
  let e := if e % 2 = 0 then e else e - 1
  let n := m * 4 ^ extra
  let r := isqrt n (Nat.log2 n / 2 + 1) 0
  (2 * r + (if r * r = n then 0 else 1), e / 2 - extra - 1)

/-- Square root, correctly rounded. -/
def fsqrt : Num → Num
  | .nan => .nan
  | .inf neg => if neg then .nan else .inf false
  | .fin neg m e =>
    if m = 0 then .fin neg 0 e
    else if neg then .nan
    else let (r, q) := sqrtParts m e 40; toF32 (.fin false r q)

/-- One of the FP32 values within 1 ulp of a positive exact value m × 2^e (with `m` odd when inexact below). -/
def nearOne (kind : Nat) (input : Word32) (neg : Bool) (m : Nat) (e : Int) (exact : Bool) : Num :=
  let q := max (e + Nat.log2 m - 23) fp32.minExp
  let k := if q ≤ e then alignTo m e q else m / 2 ^ (q - e).toNat
  let low := fp32.pack false k q
  let whole := exact && decide (q ≤ e ∨ m % 2 ^ (q - e).toNat = 0)
  let c := Config.ulpChoice kind input
  let b := if whole then low + c % 3 - 1 else low + c % 2
  fp32.decode (signBit fp32 neg + min b (fp32.infBits false))

/-- Reciprocal, within 1 ulp (R249). -/
def frecip (x : Num) : Num :=
  match x with
  | .nan => .nan
  | .inf neg => .fin neg 0 0
  | .fin neg m e =>
    if m = 0 then .inf neg
    else
      let n := 2 ^ (Nat.log2 m + 64)
      let q := n / m
      nearOne 0 (f32Bits x) neg (2 * q + (if q * m = n then 0 else 1)) (-e - (Nat.log2 m + 64) - 1) (decide (q * m = n))

/-- Reciprocal square root, within 1 ulp (R249). -/
def frsqrt (x : Num) : Num :=
  match x with
  | .nan => .nan
  | .inf neg => if neg then .nan else .fin false 0 0
  | .fin neg m e =>
    if m = 0 then .inf neg
    else if neg then .nan
    else
      let m' := if e % 2 = 0 then m else 2 * m
      let e' := if e % 2 = 0 then e else e - 1
      let n := 4 ^ (Nat.log2 m' + 64)
      let r := isqrt (n / m') (Nat.log2 m' + 66) 0
      let exact := decide (r * r * m' = n)
      nearOne 1 (f32Bits x) false (2 * r + (if exact then 0 else 1)) (-(e' / 2) - (Nat.log2 m' + 64) - 1) exact

/-- Division of two exact values, correctly rounded to FP32: for constants that the spec rounds once. -/
def fdiv (a b : Num) : Num :=
  match a, b with
  | .fin n m e, .fin n' m' e' =>
    if m' = 0 then (if m = 0 then .nan else .inf (n != n'))
    else
      let k := Nat.log2 m' + 40
      let p := m * 2 ^ k
      toF32 (.fin (n != n') (2 * (p / m') + (if p % m' = 0 then 0 else 1)) (e - e' - k - 1))
  | .nan, _ => .nan
  | _, .nan => .nan
  | .inf _, .inf _ => .nan
  | .inf n, .fin n' _ _ => .inf (n != n')
  | .fin n _ _, .inf n' => .fin (n != n') 0 0

/-- binary64 (R282). -/
def fp64 : Fmt := ⟨11, 52, 1023, .ieee⟩

def toF64 (x : Num) : Num := fp64.decode (fp64.encode false none x)
def dsub (a b : Num) : Num := toF64 (a.add b.neg)
def dmul (a b : Num) : Num := toF64 (a.mul b)

/-- Division rounded to binary64. -/
def ddiv (a b : Num) : Num :=
  match a, b with
  | .fin n m e, .fin n' m' e' =>
    if m' = 0 then (if m = 0 then .nan else .inf (n != n'))
    else
      let k := Nat.log2 m' + 80
      let p := m * 2 ^ k
      toF64 (.fin (n != n') (2 * (p / m') + (if p % m' = 0 then 0 else 1)) (e - e' - k - 1))
  | .nan, _ => .nan
  | _, .nan => .nan
  | .inf _, .inf _ => .nan
  | .inf n, .fin n' _ _ => .inf (n != n')
  | .fin n _ _, .inf n' => .fin (n != n') 0 0

/-- Square root rounded to binary64. -/
def dsqrt : Num → Num
  | .nan => .nan
  | .inf neg => if neg then .nan else .inf false
  | .fin neg m e =>
    if m = 0 then .fin neg 0 e
    else if neg then .nan
    else let (r, q) := sqrtParts m e 80; toF64 (.fin false r q)

/-- x^t in binary64, by squaring (log entry 20). -/
def dpow : Nat → Num → Nat → Num
  | 0, _, _ => .fin false 1 0
  | fuel + 1, x, t =>
    if t = 0 then .fin false 1 0
    else
      let h := dpow fuel (dmul x x) (t / 2)
      if t % 2 = 1 then dmul x h else h

def ofInt (z : Int) : Num := .fin (decide (z < 0)) z.natAbs 0

/-! ## Datatypes (R227, R254, R255, R259) -/

namespace DT
def f32 : Nat := 0
def bf16 : Nat := 1
def f16 : Nat := 2
def e4m3 : Nat := 3
def e5m2 : Nat := 4
def mx8 : Nat := 5
def mx6 : Nat := 6
def mx4 : Nat := 7
def i32 : Nat := 8
def i8 : Nat := 9
end DT

def isMx (dt : Nat) : Bool := decide (5 ≤ dt ∧ dt ≤ 7)
def isInt (dt : Nat) : Bool := decide (8 ≤ dt)

/-- Bytes of an MX block. -/
def mxBytes (dt : Nat) : Nat := if dt = 5 then 33 else if dt = 6 then 25 else 17

/-- Element format of a floating-point datatype. -/
def fmtOf (dt : Nat) : Fmt :=
  if dt = 0 then fp32 else if dt = 1 then bf16 else if dt = 2 then fp16 else if dt = 3 ∨ dt = 5 then fp8e4m3
  else if dt = 4 then fp8e5m2 else if dt = 6 then e2m3 else e2m1

def elemBytes (dt : Nat) : Nat := if dt = 0 ∨ dt = 8 then 4 else if dt = 1 ∨ dt = 2 then 2 else 1

/-- Bytes of `n` elements. -/
def dtBytes (dt n : Nat) : Nat := if isMx dt then n / 32 * mxBytes dt else n * elemBytes dt

/-- Cut a list into runs of `n`, `fuel` at most. -/
def runsOf {α : Type} (n : Nat) : Nat → List α → List (List α)
  | 0, _ => []
  | fuel + 1, l => if l.isEmpty then [] else l.take n :: runsOf n fuel (l.drop n)

/-- Element i of an MX block's element field. -/
def mxElem (dt : Nat) (field i : Nat) : Nat :=
  if dt = 5 then field / 2 ^ (8 * i) % 256 else if dt = 6 then field / 2 ^ (6 * i) % 64 else field / 2 ^ (4 * i) % 16

/-- Decode one MX block (R255). -/
def decodeBlock (dt : Nat) (b : List Byte) : List Num :=
  let scale := leField b 0 0
  let field := leNat (b.drop 1)
  (List.range 32).map fun i =>
    if scale = 255 then .nan
    else match (fmtOf dt).decode (mxElem dt field i) with
      | .fin n m e => .fin n m (e + scale - 127)
      | x => x

def toSigned (w v : Nat) : Int := if 2 ^ (w - 1) ≤ v then (v : Int) - 2 ^ w else v

/-- Decode a buffer of a datatype. -/
def decodeData (dt : Nat) (bs : List Byte) : List Num :=
  if isMx dt then (runsOf (mxBytes dt) bs.length bs).flatMap (decodeBlock dt)
  else (runsOf (elemBytes dt) bs.length bs).map fun b =>
    if isInt dt then ofInt (toSigned (8 * elemBytes dt) (leNat b)) else (fmtOf dt).decode (leNat b)

/-- floor(log2 x) of a finite value that is not zero. -/
def Num.logTwo : Num → Int
  | .fin _ m e => e + Nat.log2 m
  | _ => 0

/-- m of R259. -/
def mxBias (dt : Nat) : Int := if dt = 5 then 8 else 2

/-- Saturated bits of a finite element of an MX block. -/
def encodeElem (dt : Nat) (u : Option Nat) (e : Int) : Num → Nat
  | .fin n m x => (fmtOf dt).encode true u (.fin n m (x - e))
  | _ => 0

/-- Encode 32 FP32 values as an MX block (R259); `u i` is the random draw of element i, if rounding is stochastic. -/
def encodeBlock (dt : Nat) (u : Nat → Option Nat) (xs : List Num) : List Byte :=
  let n := mxBytes dt
  if xs.any fun x => !x.isFin then 0xFF :: List.replicate (n - 1) 0
  else if xs.all Num.isZero then List.replicate n 0
  else
    let top := ((xs.filter fun x => !x.isZero).map Num.logTwo).foldl max (-100000)
    let e := max (-127) (min 127 (top - mxBias dt))
    let w := if dt = 5 then 8 else if dt = 6 then 6 else 4
    let field := xs.zipIdx.foldl (fun acc x => acc + encodeElem dt (u x.2) e x.1 * 2 ^ (w * x.2)) 0
    BitVec.ofNat 8 (e + 127).toNat :: leBytes (n - 1) field

/-- Saturated integer (R257, R262); a float converts to the nearest integer, ties to even. -/
def encodeInt (w : Nat) : Num → Nat
  | .fin neg m e =>
    let k := if 0 ≤ e then alignTo m e 0
      else
        let d := (-e).toNat
        let k := m / 2 ^ d
        let r := m % 2 ^ d
        if 2 ^ d < 2 * r ∨ (2 * r = 2 ^ d ∧ k % 2 = 1) then k + 1 else k
    let z : Int := if neg then -(k : Int) else k
    let z := max (-(2 ^ (w - 1))) (min (2 ^ (w - 1) - 1) z)
    (z % 2 ^ w).toNat
  | .inf neg => if neg then 2 ^ (w - 1) else 2 ^ (w - 1) - 1
  | .nan => 0

/-- Encode values into a datatype (R257 to R259). -/
def encodeData (dt : Nat) (sat : Bool) (u : Nat → Option Nat) (xs : List Num) : List Byte :=
  if isMx dt then ((runsOf 32 xs.length xs).zipIdx.map fun b => encodeBlock dt (fun i => u (b.2 * 32 + i)) b.1).flatten
  else (xs.zipIdx.map fun x =>
    leBytes (elemBytes dt)
      (if isInt dt then encodeInt (8 * elemBytes dt) x.1 else (fmtOf dt).encode (sat && (dt = 3 || dt = 4)) (u x.2) x.1)).flatten

/-! ## Reduction steps (R260 to R264) -/

/-- Reduction operators: 0 sum, 1 max, 2 min, 3 mean. -/
def combine (dt op : Nat) (a b : Num) : Num :=
  if op = 1 then fmax a b else if op = 2 then fmin a b else if isInt dt then a.add b else fadd a b

/-- One addend of the Compensated accumulation (R261). -/
def twoSum (acc : Num × Num) (x : Num) : Num × Num :=
  let (hi, lo) := acc
  let s := fadd hi x
  let bv := fsub s hi
  let err := fadd (fsub hi (fsub s bv)) (fsub x bv)
  (s, fadd lo err)

/-- One element of a step over its contributions, in arrival order. A pair whose hi is an infinity or a NaN, or whose lo is zero,
is written as hi: so a step of two operands gives the sum that R263 gives, an overflow and a sum of −0 included, as the last
sentences of R261 ask. DEDUCED; log 75. -/
def reduceElem (dt op : Nat) (comp : Bool) : List Num → Num
  | [] => .fin false 0 0
  | x :: r =>
    if comp ∧ (op = 0 ∨ op = 3) ∧ !isInt dt then
      let (hi, lo) := r.foldl twoSum (x, .fin false 0 0)
      if hi.isFin ∧ !lo.isZero then fadd hi lo else hi
    else r.foldl (combine dt op) x

/-- Element i of each contribution. -/
def column (rows : List (List Num)) (i : Nat) : List Num := rows.filterMap fun r => r[i]?

/-- A reduction step over contributions of one length. -/
def reduceStep (dt op : Nat) (comp : Bool) (rows : List (List Num)) : List Num :=
  (List.range ((rows.head?.map List.length).getD 0)).map fun i => reduceElem dt op comp (column rows i)

/-- The mean's scaling by 1/N, where the final result is written (R263). -/
def meanScale (n : Nat) (xs : List Num) : List Num :=
  let k := fdiv (.fin false 1 0) (.fin false n 0)
  xs.map fun x => fmul x k

/-- The random draws of a stochastic conversion that starts at free value `base` (R258), or nearest even. -/
def draws (stoch : Bool) (base : Nat) : Nat → Option Nat :=
  fun i => if stoch then some ((Config.freeBits (base + i)).toNat % 256) else none

/-! ## Residues (R266) -/

/-- Residue of a significand or a sum modulo 7. -/
def res7 (z : Int) : Nat := (z % 7).toNat

/-- The residue predicted for a product of significands. -/
def predictProduct (a b : Int) : Nat := res7 a * res7 b % 7

/-- The residue predicted for a sum of aligned significands. -/
def predictSum (l : List Int) : Nat := (l.map res7).sum % 7

/-- The check of a datapath's output against the prediction. -/
def residueOk (predicted : Nat) (out : Int) : Bool := res7 out = predicted

/-- A check passes: the output has the residue, or the parity, that was predicted. -/
def checkPasses : ResidueCheck → Bool
  | .product a b out => residueOk (predictProduct a b) out
  | .sum terms out => residueOk (predictSum terms) out
  | .parity predicted found => predicted = found

/-- An output that is wrong by a multiple of 7, which the check does not see. -/
def checkMisses : ResidueCheck → Bool
  | .product a b out => residueOk (predictProduct a b) out && decide (out ≠ a * b)
  | .sum terms out => residueOk (predictSum terms) out && decide (out ≠ terms.sum)
  | .parity .. => false

/-! ## Matrix products (R250) -/

/-- The FP32 accumulator after the products of one element of the result. `mx` sums 32 products exactly at a time. -/
def dotProduct (mx : Bool) (a b : List Num) : Num :=
  let prods := (a.zip b).map fun p => p.1.mul p.2
  if mx then
    (runsOf 32 prods.length prods).foldl (fun acc r => fadd acc (r.foldl Num.add (.fin false 0 0))) (.fin false 0 0)
  else prods.foldl (fun acc x => fadd acc x) (.fin false 0 0)

/-- Rows of A (m × k) times B (k × n), both row-major. -/
def matMul (mx : Bool) (m k n : Nat) (a b : List Num) : List Num :=
  (List.range m).flatMap fun i =>
    (List.range n).map fun j =>
      dotProduct mx ((a.drop (i * k)).take k) ((List.range k).map fun t => (b[t * n + j]?).getD .nan)

end Sys2Proof.Machine
end

