-- ==== Sys2Proof/Machine/CollPlan.lean ====
section
/-! DEFINITION. The plan of a collective operation at one member (R226, R229, R230, R245): which chunks it sends to whom
and receives from whom, in which stage. The spec names the algorithms and their phases; the numbering of stages, the
division of an ALL_REDUCE into blocks and the way between levels are the model's (log entry 17). -/

namespace Sys2Proof.Machine

/-! ## Operations and algorithms -/

namespace CK
def allToAll : Nat := 1
def allToAllV : Nat := 2
def reduceScatter : Nat := 3
def allReduce : Nat := 4
def allGather : Nat := 5
def broadcast : Nat := 6
def barrier : Nat := 7
def gatherMultiply : Nat := 8
end CK

namespace CA
def direct : Nat := 1
def chainRing : Nat := 2
def fabricRing : Nat := 3
def managerTree : Nat := 4
def hierarchical : Nat := 5
end CA

/-- Algorithms per operation (R229). -/
def admits (kind alg : Nat) : Bool :=
  if kind = CK.allToAll ∨ kind = CK.allToAllV then decide (alg = CA.direct)
  else if kind = CK.broadcast then decide (alg = CA.direct ∨ (CA.fabricRing ≤ alg ∧ alg ≤ CA.hierarchical))
  else if kind = CK.barrier then decide (alg = CA.managerTree)
  else decide (CA.chainRing ≤ alg ∧ alg ≤ CA.hierarchical)

def isGather (kind : Nat) : Bool := kind = CK.allGather || kind = CK.gatherMultiply
def isReduce (kind : Nat) : Bool := kind = CK.reduceScatter || kind = CK.allReduce
def isDirectAll (kind : Nat) : Bool := kind = CK.allToAll || kind = CK.allToAllV

/-- Chunks between two members in one stage. `slot` says that each chunk needs a credit and lands in a reduction slot;
`cross` that it travels compressed (R230). -/
structure Leg where
  stage : Nat
  src : Nat
  dst : Nat
  units : List Nat
  reduce : Bool := false
  slot : Bool := false
  cross : Bool := false
deriving DecidableEq, Repr

/-- What the plan depends on: group, operation, geometry. `site`, `hall` and `node group` of a rank come from `members`. -/
structure Shape where
  members : List Coord
  me : Nat
  kind : Nat
  alg : Nat
  dt : Nat
  elems : Nat
  chunk : Nat
  root : Nat
  cross : Bool
  hubOf : Coord → Coord        -- manager of a node group
  siteMgr : Nat → Coord

def Shape.n (x : Shape) : Nat := x.members.length

/-- Chunks of a block. -/
def Shape.perBlock (x : Shape) : Nat := ceilDiv x.elems (max 1 x.chunk)

/-- Units of the operation. -/
def Shape.units (x : Shape) : Nat :=
  if isDirectAll x.kind then x.n
  else if x.kind = CK.barrier then 0
  else if x.kind = CK.allReduce ∨ x.kind = CK.broadcast then x.perBlock
  else x.n * x.perBlock

/-- Units of a rank's block, for operations whose buffers hold one block for each rank. -/
def Shape.blockUnits (x : Shape) (r : Nat) : List Nat := (List.range x.perBlock).map fun c => r * x.perBlock + c

/-- Units whose result belongs in this member's receive buffer. -/
def Shape.finals (x : Shape) : List Nat :=
  if x.kind = CK.reduceScatter then x.blockUnits x.me else List.range x.units

/-- Elements of a unit: the first within its block, and how many. -/
def Shape.unitElems (x : Shape) (u : Nat) : Nat × Nat :=
  let c := if x.kind = CK.allReduce ∨ x.kind = CK.broadcast then u else u % max 1 x.perBlock
  (c * x.chunk, min x.chunk (x.elems - c * x.chunk))

/-- Even division of a list of units among H ring members: block i. -/
def evenBlock (us : List Nat) (h i : Nat) : List Nat :=
  let lo := i * us.length / max 1 h
  (us.drop lo).take ((i + 1) * us.length / max 1 h - lo)

/-! ## Rings -/

/-- Legs of a ring reduce-scatter at one member: in step s, member i sends block i − s − 1 to its successor. -/
def ringScatter (base : Nat) (ring : List Nat) (me : Nat) (blk : Nat → List Nat) (cross : Bool) : List Leg :=
  let h := ring.length
  if h < 2 ∨ !ring.contains me then []
  else
    let i := ring.idxOf me
    (List.range (h - 1)).flatMap fun s =>
      [({ stage := base + s, src := me, dst := ring.getD ((i + 1) % h) 0, units := blk ((i + 2 * h - s - 1) % h),
          reduce := true, slot := true, cross } : Leg),
       { stage := base + s, src := ring.getD ((i + h - 1) % h) 0, dst := me, units := blk ((i + 2 * h - s - 2) % h),
         reduce := true, slot := true, cross }]

/-- Legs of a ring all-gather: in step s, member i sends block i − s. -/
def ringGather (base : Nat) (ring : List Nat) (me : Nat) (blk : Nat → List Nat) (cross : Bool) : List Leg :=
  let h := ring.length
  if h < 2 ∨ !ring.contains me then []
  else
    let i := ring.idxOf me
    (List.range (h - 1)).flatMap fun s =>
      [({ stage := base + s, src := me, dst := ring.getD ((i + 1) % h) 0, units := blk ((i + 2 * h - s) % h), cross } : Leg),
       { stage := base + s, src := ring.getD ((i + h - 1) % h) 0, dst := me, units := blk ((i + 2 * h - s - 1) % h), cross }]

/-- Legs of a broadcast down a ring from its member `from_`. -/
def ringCast (base : Nat) (ring : List Nat) (from_ : Nat) (us : List Nat) (cross : Bool) : List Leg :=
  let h := ring.length
  let i := ring.idxOf from_
  (List.range (h - 1)).map fun s =>
    { stage := base + s, src := ring.getD ((i + s) % h) 0, dst := ring.getD ((i + s + 1) % h) 0, units := us, cross }

/-! ## Levels -/

def coordOf (x : Shape) (r : Nat) : Coord := x.members.getD r 0

/-- Ranks whose coordinates agree above a bit: 6 for the node group, 12 for the hall, 16 for the site. -/
def Shape.peersAt (x : Shape) (r bit : Nat) : List Nat :=
  (List.range x.n).filter fun k => (coordOf x k).toNat / 2 ^ bit = (coordOf x r).toNat / 2 ^ bit

/-- The first of each distinct set: the ranks that `rep` names, in rank order. -/
def Shape.reps (x : Shape) (rep : Nat → Nat) : List Nat := (List.range x.n).filter fun r => rep r = r

/-- The member that serves a node group in Manager Tree: the one on its manager, or else the lowest rank. A manager that is no member
has neither ends to the members (R222 matches peers by rank) nor the group's parameters (R220's GROUP_REG carries none), so that it
cannot reduce. DESIGN CHOICE; unsafe: which node sums, and so the rounding of a sum. Log 17. -/
def Shape.hub (x : Shape) (r : Nat) : Nat :=
  let ms := x.peersAt r 6
  (ms.find? fun k => coordOf x k = x.hubOf (coordOf x r)).getD (ms.headD 0)

/-- Hall representative (R230). -/
def Shape.hallRep (x : Shape) (r : Nat) : Nat := (x.peersAt r 12).headD 0

/-- Site representative (R230). -/
def Shape.siteRep (x : Shape) (r : Nat) : Nat :=
  let ms := x.peersAt r 16
  (ms.find? fun k => coordOf x k = x.siteMgr (coordSite (coordOf x r))).getD (ms.headD 0)

/-- Level 3 of Hierarchical runs with CrossCompress: the one level that compresses (R230). -/
def Shape.crosses (x : Shape) : Bool := x.cross && x.alg = CA.hierarchical && 1 < (x.reps x.siteRep).length

/-- The levels below the top of Manager Tree and Hierarchical: for each, the representative of a rank, which ranks take
part, and whether they reduce in a ring first. -/
structure Level where
  rep : Nat → Nat
  ranks : List Nat
  ring : Bool

/-- The levels of an operation and its top ring. -/
def Shape.levels (x : Shape) : List Level × List Nat :=
  if x.alg = CA.managerTree then ([⟨x.hub, List.range x.n, false⟩], x.reps x.hub)
  else if x.alg = CA.hierarchical then
    let halls := x.reps x.hallRep
    let sites := x.reps x.siteRep
    if sites.length > 1 then
      ([⟨x.hallRep, List.range x.n, true⟩, ⟨x.siteRep, halls, true⟩], sites)
    else if halls.length > 1 then ([⟨x.hallRep, List.range x.n, true⟩], halls)
    else ([], List.range x.n)
  else ([], List.range x.n)

/-- Ranks of a level that share a representative. -/
def Level.ringOf (l : Level) (rep : Nat) : List Nat := l.ranks.filter fun r => l.rep r = rep

/-- The longest ring of a level. -/
def Level.span (l : Level) : Nat := ((l.ranks.map l.rep).map fun r => (l.ringOf r).length).foldl max 1

/-- Stages of a reducing level: its ring's steps, then one in which the representative collects. -/
def Level.stages (l : Level) : Nat := if l.ring then l.span else 1

/-- A level's legs upward in a reduction. -/
def Level.up (l : Level) (base me : Nat) (us : List Nat) : List Leg :=
  let rep := l.rep me
  let ring := l.ringOf rep
  if !l.ranks.contains me ∧ !(l.ranks.any fun r => l.rep r = me) then []
  else if l.ring then
    let rep := if l.ranks.contains me then rep else me
    let ring := l.ringOf rep
    ringScatter base ring me (evenBlock us ring.length) false
      ++ (ring.zipIdx.filter fun r => r.1 ≠ rep).map fun r =>
          { stage := base + l.span - 1, src := r.1, dst := rep, units := evenBlock us ring.length r.2, slot := true }
  else (ring.filter fun r => r ≠ rep).map fun r => { stage := base, src := r, dst := rep, units := us, reduce := true, slot := true }

/-- Ranks below a representative, through the levels up to and with this one. -/
def Shape.below (x : Shape) (rep : Nat → Nat) (r : Nat) : List Nat := (List.range x.n).filter fun k => rep k = r

/-- The representative of a rank after the first k levels. -/
def repAfter : List Level → Nat → Nat
  | [], r => r
  | l :: ls, r => repAfter ls (l.rep r)

/-- A level's legs downward: the representative sends each of its ranks the units that `need` gives. A rank of the top ring holds them
already: a site representative may be another member of its hall than the hall's. -/
def Level.down (l : Level) (stage : Nat) (top : List Nat) (need : Nat → List Nat) : List Leg :=
  (l.ranks.filter fun r => l.rep r ≠ r && !top.contains r).map fun r => { stage, src := l.rep r, dst := r, units := need r }

/-- Legs between levels for a reduction: up the levels, the top ring, and down again. -/
def Shape.reduceLegs (x : Shape) : List Leg :=
  let (ls, top) := x.levels
  let us := List.range x.units
  let ups := ls.foldl (fun (acc : List Leg × Nat) l => (acc.1 ++ l.up acc.2 x.me us, acc.2 + l.stages)) ([], 0)
  let b := ups.2
  let blk := evenBlock us top.length
  let mid := ringScatter b top x.me blk x.crosses
  let full := x.kind = CK.allReduce || !ls.isEmpty
  let g := if full then ringGather (b + top.length) top x.me blk x.crosses else []
  let d := b + 2 * top.length
  let need (k r : Nat) : List Nat :=
    if x.kind = CK.allReduce then us
    else ((List.range x.n).filter fun j => repAfter (ls.take k) j = r).flatMap x.blockUnits
  let downs := (ls.zipIdx.map fun l => l.1.down (d + (ls.length - l.2)) top (need l.2)).flatten
  ups.1 ++ mid ++ g ++ downs

/-- Legs of a gather: own blocks up, the top ring, all other blocks down. -/
def Shape.gatherLegs (x : Shape) : List Leg :=
  let (ls, top) := x.levels
  let us := List.range x.units
  let under (k r : Nat) : List Nat := ((List.range x.n).filter fun j => repAfter (ls.take k) j = r).flatMap x.blockUnits
  let ups := (ls.zipIdx.map fun l =>
    (l.1.ranks.filter fun r => l.1.rep r ≠ r).map fun r =>
      ({ stage := l.2, src := r, dst := l.1.rep r, units := under l.2 r } : Leg)).flatten
  let b := ls.length
  let mid := ringGather b top x.me (fun i => under ls.length (top.getD i 0)) x.crosses
  let d := b + top.length
  let downs := (ls.zipIdx.map fun l =>
    l.1.down (d + (ls.length - l.2)) top fun r => let mine := under l.2 r; us.filter fun u => !mine.contains u).flatten
  ups ++ mid ++ downs

/-- Legs of a broadcast: the root up to its representative, the top ring, and down. -/
def Shape.castLegs (x : Shape) : List Leg :=
  let us := List.range x.units
  if x.alg = CA.direct then
    ((List.range x.n).filter fun r => r ≠ x.root).map fun r => { stage := 0, src := x.root, dst := r, units := us }
  else
    let (ls, top) := x.levels
    let hops := (List.range ls.length).filterMap fun k =>
      let a := repAfter (ls.take k) x.root
      let b := repAfter (ls.take (k + 1)) x.root
      if a = b then none else some ({ stage := k, src := a, dst := b, units := us } : Leg)
    let b := ls.length
    let mid := ringCast b top (repAfter ls x.root) us x.crosses
    let d := b + top.length
    let had (r : Nat) : Bool := (List.range (ls.length + 1)).any fun k => repAfter (ls.take k) x.root = r
    let downs := (ls.zipIdx.map fun l => l.1.down (d + (ls.length - l.2)) top fun _ => us).flatten.filter fun g => !had g.dst
    hops ++ mid ++ downs

/-- The legs of the operation in which this member takes part. -/
def Shape.legs (x : Shape) : List Leg :=
  let all : List Leg :=
    if x.kind = CK.barrier then []
    else if isDirectAll x.kind then
      ((List.range x.n).filter fun r => r ≠ x.me).flatMap fun r =>
        [({ stage := 0, src := x.me, dst := r, units := [x.me] } : Leg), { stage := 0, src := r, dst := x.me, units := [r] }]
    else if isReduce x.kind then x.reduceLegs
    else if isGather x.kind then x.gatherLegs
    else x.castLegs
  all.filter fun g => (g.src = x.me || g.dst = x.me) && g.src ≠ g.dst

/-- The member whose reduction finishes a unit: the owner of its block in the top ring. -/
def Shape.finisher (x : Shape) (u : Nat) : Option Nat :=
  let (_, top) := x.levels
  (top.zipIdx.find? fun r => (evenBlock (List.range x.units) top.length r.2).contains u).map (·.1)

/-! ## Pieces (R245) -/

def Shape.pieces (x : Shape) : Nat :=
  if x.kind = CK.barrier then 0
  else if isDirectAll x.kind ∨ isGather x.kind then x.n
  else x.perBlock

/-- Units of a piece. -/
def Shape.pieceUnits (x : Shape) (p : Nat) : List Nat :=
  if isDirectAll x.kind then [p]
  else if isGather x.kind then x.blockUnits p
  else if x.kind = CK.reduceScatter then [x.me * x.perBlock + p]
  else [p]

end Sys2Proof.Machine
end

