-- ==== Sys2Proof/Machine/PortOps.lean ====
section
/-! DEFINITION. Ports: their counters (R342), received frames that wait for their destination (R327, R328), Welt lanes and
credits (R329 to R336), and a link's ends (R319). -/

namespace Sys2Proof.Machine

/-! ## Ports and counters -/

/-- The bypass switch joins the chain ports to the fibres: it is not in bypass, nor on its way (R338, R339). -/
def State.chainLit (s : State) : Bool :=
  match s.bypass.phase with
  | .lit | .draining _ => true
  | _ => false

/-- A port is enabled: its record's mode is Fabric or Chain, and the switch is not in bypass (R35, PRT_STATUS). -/
def State.portEnabled (s : State) (p : Nat) : Bool :=
  s.last.inForce.isSome && (s.portRec p).mode ≠ 0 && (p < 8 || s.chainLit)

/-- Add to a port counter of R342; a Disabled port counts nothing. -/
def State.portCount (s : State) (p i n : Nat) : State :=
  if s.portEnabled p then s.bumpBy .prtCounterCount (p * 36 + i) n else s

/-! ## Frames of the port's own (R211, R326, R332) -/

/-- The class of a frame that the MAC itself sends: above the seven traffic classes, at the MacControl rank. -/
def macClass : Nat := 8

/-- Queue a MacControl frame; all of them are of the least length, 64 B. -/
def State.queueMac (s : State) (p : Nat) (b : FrameBody) : State := s.queueFrame p { body := b, cls := macClass, bytes := 64 }

/-! ## PFC (R326, R327) -/

def State.xonBytes (s : State) (p : Nat) : Nat := s.fld .prtPfcCtrlXonKiB p * 1024

/-- XOFF point: at or below XonKiB it is taken as XonKiB + 1. -/
def State.xoffBytes (s : State) (p : Nat) : Nat :=
  max (s.fld .prtPfcCtrlXoffKiB p) (s.fld .prtPfcCtrlXonKiB p + 1) * 1024

/-- Refresh interval in ns: 0 is taken as 1 and more than 40 as 40 µs. -/
def State.refreshNs (s : State) (p : Nat) : Nat := clamp 1 40 (s.fld .prtPfcCtrlRefreshUs p) * 1000

/-- Send a pause of one priority with quanta, or release it with 0. -/
def State.sendPause (s : State) (p prio quanta : Nat) : State :=
  s.queueMac p (.pfc (2 ^ prio) ((List.range 8).map fun k => if k = prio then quanta else 0))

/-- Send or repeat the pause of a priority (R327). -/
def State.pausePeer (s : State) (p prio : Nat) : State :=
  (s.modPort p fun x => { x with xoff := vset x.xoff prio true, nextXoff := vset x.nextXoff prio (s.time.now + s.refreshNs p) }).sendPause
    p prio 0xFFFF

/-- Bytes that a port holds of a priority (R327). -/
def State.heldOf (s : State) (p prio : Nat) : Nat := (((s.heldAt p).filter fun h => h.prio = prio).map (·.bytes)).sum

/-- Units of 64 B. -/
def units (bytes : Nat) : Nat := ceilDiv bytes 64

/-- Credit that a chain port's receiver grants per virtual lane, in units (R336). -/
def State.vlGrant (s : State) (p vl : Nat) : Nat :=
  if vl = 0 then 4096 else ((s.portRec p).bufMiB * 1048576 - 262144) / 3 / 64

/-- A commanded entry into bypass stops the return of credit (R339). -/
def State.creditStops (s : State) : Bool :=
  match s.bypass.phase with
  | .draining _ => true
  | _ => false

/-- A frame has left the buffer of a chain port: its credit returns to the peer (R336), or is kept back while its return stops. -/
def State.freeVl (s : State) (p vl bytes : Nat) : State :=
  if p < 8 then s
  else if s.creditStops then s.modPort p fun x => { x with keptBack := vset x.keptBack vl (vget x.keptBack vl 0 + units bytes) }
  else s.modPort p fun x => { x with freed := vset x.freed vl (vget x.freed vl 0 + units bytes) }

/-- An entry into bypass is called off: the credit that was kept back returns. -/
def Port.giveBack (x : Port) : Port :=
  { x with freed := Vector.zipWith (· + ·) x.freed x.keptBack, keptBack := Vector.replicate 4 0 }

/-- A forwarded frame has left, or is given up: the buffer of the other chain port, in which it came, is free of it. -/
def State.freeForwarded (s : State) (out : Nat) (f : RxFrame) : State :=
  s.freeVl (if out = 8 then 9 else 8) ((f.weltTag.map (·.1)).getD 0) f.length

/-- A received frame has been taken: its bytes are no longer held, its credit returns, and below XonKiB the priority is released (R327,
R336). -/
def State.freeHeld (s : State) (h : Held) : State :=
  let s := { s with ingress := s.ingress.erase h }
  match h.arrival.port with
  | none => s
  | some p =>
    let s := s.freeVl p h.vl h.bytes
    if vget (s.port p).xoff h.prio false ∧ s.heldOf p h.prio < s.xonBytes p then
      (s.modPort p fun x => { x with xoff := vset x.xoff h.prio false }).sendPause p h.prio 0
    else s

/-- The destination takes an arrival: the oldest received frame that is this one. -/
def State.takeIn (s : State) (a : Arrival) : State :=
  match s.ingress.find? fun h => h.arrival = a with
  | some h => s.freeHeld h
  | none => s

/-- A frame of a fabric port waits for its destination, unless the buffer that would hold it is full (R327, R328). -/
def State.holdFrame (s : State) (p prio bytes : Nat) (a : Arrival) : State :=
  let l := s.portRec p
  let masked := l.pfcMask.testBit prio
  let mine := s.heldAt p
  let room := ((mine.filter fun h => h.headroom && h.prio = prio).map (·.bytes)).sum
  let shared := ((mine.filter fun h => !h.headroom).map (·.bytes)).sum
  let full := decide (s.rxHold p < shared + bytes)
  let head := masked && (vget (s.port p).xoff prio false || full)
  if head && decide (pfcHeadroom l p < room + bytes) then s.portCount p 9 1
  else if !masked && full then s.portCount p 8 1
  else
    let s : State := { s with ingress := s.ingress ++ [({ arrival := a, prio, bytes, headroom := head } : Held)] }
    if masked ∧ !vget (s.port p).xoff prio false ∧ s.xoffBytes p ≤ s.heldOf p prio then s.pausePeer p prio else s

/-- Obey a received pause: the end of each named priority's pause (R326). A quantum is 0.64 ns. -/
def State.obeyPfc (s : State) (p mask : Nat) (quanta : List Nat) : State :=
  let hit := (List.range 8).filter fun k => mask.testBit k
  let s := hit.foldl (fun s k => s.portCount p (20 + k) 1) s
  if 8 ≤ p then s
  else s.modPort p fun x =>
    { x with pausedRx := hit.foldl (fun v k =>
        let q := quanta.getD k 0
        vset v k (if q = 0 then 0 else s.time.now + ceilDiv (q * 64) 100)) x.pausedRx }

/-! ## Welt (R329 to R336) -/

/-- The lane of a frame (R330). -/
def weltLane (p : Nat) (t : TxFrame) : Nat :=
  if p < 8 then (if t.cls = 7 then 0 else 1) else if t.cls = 7 then 0 else t.vl

/-- Replay space of a port (R36, R38): a fabric port's share, or its need where that is more. -/
def State.replaySpace (s : State) (p : Nat) : Nat :=
  let w := weltNeed (s.portRec p) p
  if p < 8 then max w s.weltShare else w

def Port.replayUsed (x : Port) : Nat := (x.replay.map fun f => f.frame.bytes + 8).sum

/-- Length on the wire: with the Welt tag on a Welt link (R331). -/
def Port.wireBytes (x : Port) (t : TxFrame) : Nat := if x.welt && decide (t.cls < 8) then t.bytes + 8 else t.bytes

/-- Credit left on a virtual lane, in units. -/
def Port.creditLeft (x : Port) (vl : Nat) : Nat := (vget x.creditLimit vl 0 - vget x.creditUsed vl 0).toNat

/-- A new frame may start on a Welt link: no resend of its lane waits, its replay copy fits, and on a chain port its
virtual lane holds credit (R333, R336). -/
def State.weltReady (s : State) (p : Nat) (t : TxFrame) : Bool :=
  let x := s.port p
  !x.welt || (!(x.replay.any fun f => f.again && f.lane = weltLane p t) && decide (x.replayUsed + t.bytes + 8 ≤ s.replaySpace p)
    && (p < 8 || decide (units (t.bytes + 8) ≤ x.creditLeft (weltLane p t))))

/-- A loss of alignment or light stands (R319). -/
def Port.inHit (x : Port) : Bool := x.lossSince.isSome

/-- Mark a lane's frames from one on to be resent, in order (R333). -/
def Port.resendFrom (x : Port) (lane : Nat) (from_ : Word32) : Port :=
  { x with replay := updWhere (fun f => f.lane = lane && !countBefore f.seq from_) (fun f => { f with again := true }) x.replay }

/-- Every lane resumes from its oldest frame that no AckSeq has passed (R334). -/
def Port.resendAll (x : Port) : Port := { x with replay := x.replay.map fun f => { f with again := true } }

/-- Send STATUS: the next sequence expected on each lane, and on a chain port the cumulative credit (R332, R336). -/
def State.sendStatus (s : State) (p : Nat) : State :=
  let x := s.port p
  let credits := (List.range 4).map fun vl => if p < 8 then (0 : Word32) else BitVec.ofNat 32 (s.vlGrant p vl + vget x.freed vl 0)
  (s.queueMac p (.weltStatus x.rxSeq.toList credits)).modPort p fun x => { x with nextStatus := s.time.now + 500, sinceStatus := 0 }

/-- Check and take off a frame's Welt tag (R333). Answers whether the port accepts the frame. -/
def State.acceptWelt (s : State) (p lane : Nat) (seq : Word32) : State × Bool :=
  let x := s.port p
  let want := vget x.rxSeq lane 0
  if lane < 4 ∧ seq = want then
    let s := s.modPort p fun x => { x with rxSeq := vset x.rxSeq lane (want + 1), nakSent := vset x.nakSent lane false }
    (s, true)
  else if lane < 4 ∧ !vget x.nakSent lane true then
    ((s.queueMac p (.weltNak lane want)).modPort p fun x => { x with nakSent := vset x.nakSent lane true }, false)
  else (s, false)

/-- STATUS is due after every 16 frames received, whether or not the port accepted them (R332). -/
def State.countWelt (s : State) (p : Nat) : State :=
  let s := s.modPort p fun x => { x with sinceStatus := x.sinceStatus + 1 }
  if 16 ≤ (s.port p).sinceStatus then s.sendStatus p else s

/-- Sequences and credits as HELLO leaves them (R332). -/
def Port.resetWelt (x : Port) : Port :=
  { x with txSeq := Vector.replicate 4 0, rxSeq := Vector.replicate 4 0, nakSent := Vector.replicate 4 false,
           creditLimit := Vector.replicate 4 0, creditUsed := Vector.replicate 4 0, freed := Vector.replicate 4 0,
           keptBack := Vector.replicate 4 0, replay := [], sinceStatus := 0 }

/-- Counters of what a frame of the port's own is, once it is sent: pauses of each priority, and NAKs (R342). -/
def State.countOwn (s : State) (p : Nat) : FrameBody → State
  | .pfc mask _ => ((List.range 8).filter fun k => mask.testBit k).foldl (fun s k => s.portCount p (28 + k) 1) s
  | .weltNak _ _ => s.portCount p 17 1
  | _ => s

/-- A frame is on the wire: counted, and sent out, in its Welt tag where it has a lane and a sequence number (R331). -/
def State.putFrame (s : State) (p : Nat) (t : TxFrame) (tag : Option (Nat × Word32)) : State :=
  let b := t.image p
  let b := match tag with | some (lane, seq) => weltTagged lane seq b | none => b
  (((s.countOwn p t.body).portCount p 2 1).portCount p 3 (if tag.isSome then t.bytes + 8 else t.bytes)).emit (.frame (Fin.ofNat 10 p) t b)

/-- Whether the port offers Welt: always on a chain port, by its record on a fabric port (R329). -/
def State.offersWelt (s : State) (p : Nat) : Bool := 8 ≤ p || (s.portRec p).welt

/-- Send HELLO (R332). EchoStamp is the last SendStamp received plus the time since, so that the peer's difference is the
round trip. The nonce is a free value. -/
def State.sendHello (s : State) (p : Nat) : State :=
  let x := s.port p
  let echo := (x.lastHelloRx.map fun h => h.1 + BitVec.ofNat 64 (s.time.now - h.2)).getD 0
  let b := FrameBody.hello s.coord p (s.offersWelt p) (BitVec.ofNat 64 s.time.now) echo (Config.freeBits s.freeCount)
  let t : TxFrame := { body := b, cls := macClass, bytes := 64, queuedAt := s.time.now }
  let s := s.advanceFree
  if s.linkUp p ∧ x.wireFault = 0 then (s.queueFrame p t).modPort p fun x => { x with nextHello := s.time.now + 1000000000 }
  else (s.putFrame p t none).modPort p fun x => { x with nextHello := s.time.now + 100000 }

/-! ## Links (R319, R341) -/

/-- The event of a link change (R343). -/
def State.portLink (s : State) (p : Nat) (cause : Nat) : State :=
  let x := s.port p
  let up := if x.link = .up then 1 else 0
  s.raise { slice := 0, code := EventCode.portLink, object := p,
            info := up + (if x.welt then 2 else 0) + (if x.link = .up then 0 else cause) * 256 }

/-- A standing wiring fault, with its event once; from it on HELLO goes out every 100 µs (R341). -/
def State.wiring (s : State) (p code detail : Nat) : State :=
  if (s.port p).wireFault = code then s
  else
    let s := s.modPort p fun x =>
      { x with wireFault := code, nextHello := if code = 0 then x.nextHello else min x.nextHello (s.time.now + 100000) }
    if code = 0 then s else s.raise { slice := 0, code := EventCode.wireFault, object := p, info := code, detail }

/-- Alignment and training start again. What HELLO showed of the link is gone: the span that it measured (R337), and a fault of its
wiring, which stands for as long as its cause (R341); a missing light stays until it returns. -/
def State.startTraining (s : State) (p : Nat) : State :=
  s.modPort p fun x =>
    { x with link := if x.forceDown || !s.portEnabled p then .down else .training, trainSince := s.time.now, interface := 0,
             lossSince := none, helloSeen := false, nextHello := s.time.now, rttNs := 0, spanM := 0,
             wireFault := if x.wireFault = 1 then 1 else 0 }

/-- A Source of Device Time is lost or returns (R509). -/
def State.sourceState (s : State) (lost : Bool) : State :=
  if s.time.holdover = lost then s
  else ({ s with time.holdover := lost } : State).raise
    { slice := 0, code := EventCode.timeSource, info := (if lost then 1 else 0) + 2 * s.fld .timCtrlSource 0 }

/-- The chain port that is the Source of Device Time (R507). -/
def State.sourcePort (s : State) : Option Nat :=
  if s.fld .timCtrlSource 0 = 2 then some 8 else if s.fld .timCtrlSource 0 = 3 then some 9 else none

end Sys2Proof.Machine
end

