-- ==== Sys2Proof/Machine/FilterOps.lean ====
section
/-! DEFINITION. Frame filters (R320 steps 6 and 7, R321) and the RawRecv queues that they feed (R322). -/

namespace Sys2Proof.Machine

/-- A 16-byte receive or stamp record (R322). -/
def stampRecord (now frac port : Nat) : List Byte := leBytes 8 now ++ leBytes 2 frac ++ leBytes 1 port ++ List.replicate 5 0

/-! ## RAW_RECV (R322) -/

def rawBuf (d : Desc) : Nat := Desc.f64 d 24
def rawBufLen (d : Desc) : Nat := Desc.f32 d 32

/-- Write a taken frame into its buffer. A taken RAW_RECV keeps in `units` the filter, the port and the length. -/
def State.rawWrite (s : State) (x : Queue) (d : Started) (bytes : List Byte) : State :=
  match s.access { cluster := homeOf x.number, slice := x.slice, gen := x.gen, as := x.as, offset := rawBuf d.entry,
                   length := bytes.length, write := true, data := bytes, use := .rawBuffer x.number d.count } with
  | (s, .done _) =>
    s.endDesc x.number d.count { status := Status.success, bytes := bytes.length - 16,
                                 detail := d.units.getD 0 0 + d.units.getD 1 0 * 256 }
  | (s, .fail c) => s.endWith x.number d.count c
  | (s, _) => s

/-- The place of the byte whose codeword fails on the way into a buffer in near memory (R14). -/
def State.rawBadByte (s : State) (x : Queue) (d : Started) (ue : Option Nat) (n : Nat) : Option Nat :=
  match ue, s.search x.slice (rawBuf d.entry) (n + 16) with
  | some k, some e => if k < n ∧ e.tier = .near then some (rawBuf d.entry + 16 + k) else none
  | _, _ => none

/-- A frame that filter `k` takes at a port goes to its RawRecv queue (R322). One whose transfer to memory fails is lost: its buffer stays
posted (R14, R298). -/
def State.rawDeliver (s : State) (port k q : Nat) (bytes : List Byte) (ue : Option Nat) : State :=
  match s.findQueue q with
  | none => s.portCount port 10 1
  | some x =>
    match if x.state = .running then x.started.find? fun d => d.run && d.ended.isNone && d.units.isEmpty else none with
    | none => s.portCount port 10 1
    | some d =>
      if rawBufLen d.entry < bytes.length + 16 then s.portCount port 11 1
      else match s.rawBadByte x d ue bytes.length with
      | some off => s.transferUe off
      | none =>
        let s := s.modStarted q d.count fun d => { d with units := [k, port, bytes.length] }
        s.rawWrite x { d with units := [k, port, bytes.length] } (stampRecord s.time.now s.time.frac port ++ bytes)

/-! ## Filters (R321) -/

/-- What a filter compares of a frame. -/
def frameNextHeader (fr : RxFrame) : Option Nat :=
  match fr.kind with
  | .udp => some 17
  | .neighborSolicit _ => some 58
  | .ipv6 n => some n
  | _ => none

def frameUdp (fr : RxFrame) : Option Nat :=
  match fr.kind with
  | .udp => some (beField fr.bytes (etherAt fr.bytes + 44) 2)
  | _ => none

def filterHits (f : FilterRec) (p : Nat) (fr : RxFrame) : Bool :=
  let vid := (fr.tags.head?.map (·.vid)).getD 0
  let pcp := (fr.tags.head?.map (·.pcp)).getD 0
  f.valid && f.portMask.testBit p && decide (vid &&& f.vlanMask = f.vlanId ∧ pcp &&& f.pcpMask = f.pcp)
    && (!f.etEnable || fr.etherType = f.etherType) && (!f.nhEnable || frameNextHeader fr = some f.nextHeader)
    && (!f.udEnable || frameUdp fr = some f.udpDst)

/-- The matching filter of the lowest index. -/
def State.filterFor (s : State) (p : Nat) (fr : RxFrame) : Option (Nat × Nat) :=
  (List.range 256).findSome? fun k =>
    match assoc s.filters k with
    | some f => if filterHits f p fr then some (k, f.queue) else none
    | none => none

/-- Steps 6 and 7: a filter takes the frame, or it is dropped. -/
def State.toFilters (s : State) (p : Nat) (fr : RxFrame) : State :=
  match if p < 8 then s.filterFor p fr else none with
  | some (k, q) => s.rawDeliver p k q fr.bytes fr.transferUe
  | none => s.portCount p 7 1

/-- The frame of an arrival, as the filters see it. -/
def Arrival.rxFrame (a : Arrival) : RxFrame :=
  let tag (k : Nat) : VlanTag := ⟨beField a.frame k 2 % 4096, beField a.frame k 1 / 32⟩
  { fcsOk := true, length := a.frame.length + 4, etherType := 0x86DD, kind := .udp, bytes := a.frame, transferUe := a.transferUe,
    tags := if isTag a.frame 12 then [tag 14] else [] }

end Sys2Proof.Machine
end

