-- ==== Sys2Proof/Machine/TransportOps.lean ====
section
/-! DEFINITION. Operations on connections that the families share: windows (R192, R193), posting and sending operations
(R127, R160, R175), the Pacing Wheel (R206 to R209), acknowledgements and loss (R173 to R179), and failure (R165). -/

namespace Sys2Proof.Machine

/-! ## Ends -/

/-- The end of an index that is not Free. -/
def State.findConn (s : State) (k : Nat) : Option Conn := s.trans.conns.find? fun c => c.index = k

def State.modConn (s : State) (k : Nat) (f : Conn → Conn) : State :=
  { s with trans.conns := updWhere (fun c => c.index = k) f s.trans.conns }

def Conn.payload (c : Conn) : Nat := 2 ^ c.payloadLog

/-- The home cluster (R16, R17). -/
def Conn.home (c : Conn) : Nat := c.index % 8

/-- The members of an end's stripe set, first member first (R189). -/
def State.members (s : State) (c : Conn) : List Conn :=
  (List.range c.stripes).filterMap fun k => s.findConn (c.stripeFirst + k)

/-- The first member of an end's set: it holds the set's operations and received messages. -/
def State.firstOf (s : State) (c : Conn) : Conn := (s.findConn c.stripeFirst).getD c

/-- Apply a change to an operation, wherever its end is. -/
def State.modOp (s : State) (id : Nat) (f : ConnOp → ConnOp) : State :=
  { s with trans.conns := s.trans.conns.map fun c => { c with ops := updWhere (fun o => o.id = id) f c.ops } }

def State.findOp (s : State) (id : Nat) : Option ConnOp :=
  s.trans.conns.findSome? fun c => c.ops.find? fun o => o.id = id

def OpKind.isData (k : OpKind) : Bool := k = .write || k = .writeInc
def OpKind.isAtomic (k : OpKind) : Bool := k = .fetchAdd || k = .cmpSwap

/-- DATA packets of an operation (R160). -/
def ConnOp.packets (o : ConnOp) (p : Nat) : Nat := if o.kind.isData then max 1 (ceilDiv o.length p) else 0

/-- Packets of a member's part of n packets: those with index j mod m (R189). -/
def partOf (n j m : Nat) : Nat := (n + m - 1 - j) / max 1 m

/-! ## Windows -/

/-- Base RTT of an end (R199). -/
def State.endBaseRtt (s : State) (c : Conn) : Nat :=
  match ((c.minRtt.filter fun x => s.time.now < x.1 + 10000000000).map (·.2)).min? with
  | some v => v
  | none => s.baseRtt c.peer

/-- The limits of R192 on W. -/
def Conn.clampWindow (c : Conn) (w : Nat) : Nat :=
  max c.payload (min w ((if c.ordered then 4096 else 65536) * c.payload))

/-- The window of a new end (R192). -/
def State.initWindow (s : State) (c : Conn) : Nat :=
  c.clampWindow (max 1 (s.fld .cluCcCtrlInitGBs c.home) * s.endBaseRtt c)

/-- Read segments of a member whose responses have not all arrived. -/
def State.openSegs (s : State) (c : Conn) : List ReadSeg :=
  ((s.firstOf c).ops.flatMap (·.segs)).filter fun g => g.member = c.index && g.placed.length < g.packets

/-- Bytes in flight of a member (R192). -/
def State.flight (s : State) (c : Conn) : Nat :=
  ((c.inflight.filter fun r => r.pkt.ptype = .data).map (·.bytes)).sum + ((s.openSegs c).map (·.bytes)).sum
    + 8 * (c.inflight.filter fun r => r.pkt.ptype = .atomicReq).length

/-- The window admits `n` more bytes; a class 7 end has no window (R196). -/
def State.admits (s : State) (c : Conn) (n : Nat) : Bool := c.tc = 7 || s.flight c + n ≤ c.window

/-- Room for `n` more PSNs beyond the oldest that is not resolved (R171, R175), and records in the pool (R294). -/
def State.psnRoom (s : State) (c : Conn) (n : Nat) : Bool :=
  let span := match c.inflight with
    | r :: _ => (c.nextPsn - r.psn).toNat
    | [] => 0
  span + n ≤ (if c.ordered then 4096 else 65536) && n ≤ s.mem.infPool

/-- Retransmission timeout (R176). -/
def rtoOf (srtt rttVar : Nat) : Nat := min 100000000 (max 50000 (srtt + 4 * rttVar))

/-! ## Ending operations -/

/-- An operation has ended: a descriptor gets its final status at once; other origins hear of it at the end of the
command. -/
def State.opEnded (s : State) (o : ConnOp) (c : Status) : State :=
  match o.origin with
  | .desc q count =>
    s.endDesc q count { status := c, bytes := if o.kind.isAtomic then (if c = Status.success then 8 else 0) else o.acked,
                        detail := if o.swapped then 1 else 0 }
  | _ => { s with trans.ended := s.trans.ended ++
      [⟨o.origin, o.kind, c, o.acked, o.swapped, (o.data.mergeSort fun a b => a.1 ≤ b.1).flatMap (·.2)⟩] }

/-- No member holds a record of the operation. -/
def noneInFlight (ms : List Conn) (id : Nat) : Bool := ms.all fun c => c.inflight.all fun r => r.op ≠ id

/-- Everything of the operation has been sent. -/
def ConnOp.allSent (o : ConnOp) (p : Nat) : Bool :=
  if o.kind.isData then decide (o.cursors.sum = o.packets p)
  else if o.kind = .read then decide (o.requested = o.length)
  else decide (o.cursors.sum = 1)

/-- An operation is over: all its packets are resolved, and all are sent unless it stopped (R145, R183). -/
def ConnOp.over (o : ConnOp) (ms : List Conn) (p : Nat) : Bool :=
  noneInFlight ms o.id && (o.stop.isSome || o.allSent p)

/-- Take the finished operations of a set off its first member, and report those not reported yet. -/
def State.finishOps (s : State) (first : Nat) : State :=
  match s.findConn first with
  | none => s
  | some c =>
    let ms := s.members c
    let done := c.ops.filter fun o => o.over ms c.payload
    let s := s.modConn first fun c => { c with ops := c.ops.filter fun o => !(o.over ms c.payload) }
    done.foldl (fun s o => if o.reported then s else s.opEnded o (o.stop.getD Status.success)) s

/-- Stop an operation: nothing more of it is sent, and it ends with the code once what it sent is resolved. -/
def State.stopOp (s : State) (id : Nat) (c : Status) : State :=
  s.modOp id fun o => { o with stop := some (o.stop.getD c) }

/-- Report an operation's end now, while its packets stay in flight (R89, R179, R429). -/
def State.reportOp (s : State) (id : Nat) (c : Status) : State :=
  match s.findOp id with
  | none => s
  | some o =>
    if o.reported then s
    else (s.modOp id fun o => { o with reported := true, stop := some (o.stop.getD c) }).opEnded o c

/-! ## Failure (R165, R178, R190) -/

/-- The oldest served segment of an end is over: its hold on the range's InFlight ends. -/
def State.endServe (s : State) (k : Nat) : State :=
  match s.findConn k with
  | none => s
  | some c =>
    match c.serves with
    | [] => s
    | v :: r =>
      let s := s.modConn k fun c => { c with serves := r }
      let s := s.modRange c.slice v.slot fun e => { e with inFlight := e.inFlight - 1 }
      { s with trans.readTable := vmod s.trans.readTable c.home fun n => n - 1 }

/-- One end enters Failed with a code; its outstanding operations end with it. What it serves for its peer goes on: no check of R170
turns away a packet of a Failed end whose context stands (R165). -/
def State.failOne (s : State) (k : Nat) (code : Status) (info : Nat) : State :=
  match s.findConn k with
  | none => s
  | some c =>
    if c.state = .failed then s
    else
      let s := { s with mem.infPool := s.mem.infPool + c.inflight.length,
                        trans.wheel := s.trans.wheel.filter fun (w : WheelEntry) => decide (w.owner ≠ WheelOwner.conn k) }
      let s := s.modConn k fun c =>
        { c with state := .failed, failCode := code, inflight := [], ops := [], pausedUntil := none }
      let s := (s.bump .cluCyqStat0Failed c.home).raise
        { slice := c.slice, code := EventCode.connFailed, status := code, cluster := c.home, object := k, info }
      (c.ops.filter fun o => !o.reported).foldl (fun s o => s.opEnded o code) s

/-- An end fails, and with it every member of its set (R190). -/
def State.failEnd (s : State) (c : Conn) (code : Status) (psn : Nat) : State :=
  ((s.members c).filter fun m => m.index ≠ c.index).foldl (fun s m => s.failOne m.index code 0)
    (s.failOne c.index code psn)

/-! ## The Connection Cache (R184 to R186) -/

/-- Lines of a cluster's Connection Cache (R33). -/
def State.connLines (s : State) : Nat :=
  (s.last.inForce.bind fun l => l.pools.head?).getD 0 * 256

/-- A line is pinned for sending (R184): its end has a PSN in flight, or a read segment or an atomic outstanding. -/
def State.sendPinned (s : State) (c : Conn) : Bool := !c.inflight.isEmpty || !(s.openSegs c).isEmpty

/-- A line is pinned (R184): for sending; for receiving, by a read segment or an atomic that its end serves, an incomplete message or a
parked packet; or by class 7. -/
def State.pinned (s : State) (c : Conn) : Bool :=
  c.tc = 7 || s.sendPinned c || !c.serves.isEmpty || !c.answers.isEmpty || !(s.firstOf c).msgs.isEmpty || !c.parked.isEmpty

/-- An end's line is pinned for sending, or will be once an operation that a started descriptor has posted sends. -/
def State.willPin (s : State) (c : Conn) : Bool := s.sendPinned c || !(s.firstOf c).ops.isEmpty

/-- A descriptor may start on an end: no further line is pinned for it, or it stays within the 7/8 of its cluster's lines that are
pinned for sending (R184). -/
def State.mayPin (s : State) (c : Conn) : Bool :=
  s.willPin c || decide ((s.trans.conns.filter fun d => d.home = c.home && s.willPin d).length < s.connLines * 7 / 8)

/-- Evict the least recently used line of a cluster that is not pinned, other than end `keep`'s, where its lines and fetches are more than
it has (R184). -/
def State.makeRoom (s : State) (home keep : Nat) : State :=
  let here := s.trans.conns.filter fun d => d.home = home && (d.cached || d.fetching) && !d.evicting
  if here.length ≤ s.connLines then s
  else
    let victim := (here.filter fun d => d.cached && d.index ≠ keep && !s.pinned d).foldl (fun (b : Option Conn) d =>
      match b with
      | some y => if d.lastUse < y.lastUse then some d else b
      | none => some d) none
    match victim with
    | some v => s.modConn v.index fun v => { v with evicting := true }
    | none => s

/-- Begin the fetch of an end's context (R186): the outside answers a fetch from a ContextRegion. -/
def State.fetchContext (s : State) (k : Nat) : State :=
  match s.findConn k with
  | none => s
  | some c =>
    if c.cached ∨ c.fetching then s else (s.modConn k fun c => { c with fetching := true }).makeRoom c.home k

/-- The arriving packet of an end abandons the eviction of its line (R185), and another line goes in its place. -/
def State.touchLine (s : State) (c : Conn) : State :=
  let s := s.modConn c.index fun x => { x with evicting := false, lastUse := s.time.now }
  if c.evicting then s.makeRoom c.home c.index else s

/-! ## Building packets -/

/-- Bytes of packet k of a data operation. -/
def ConnOp.chunk (o : ConnOp) (p k : Nat) : Nat := min p (o.length - k * p)

def ConnOp.lacePart (o : ConnOp) : Option (BitVec 18) :=
  if o.kind = .writeInc then o.lace.map (BitVec.ofNat 18) else none

/-- ADDR of a packet at byte `at_` of an operation. -/
def ConnOp.addrAt (o : ConnOp) (at_ len idx : Nat) : AddrExt :=
  { fpa := BitVec.ofNat 64 (o.remote + at_), key := o.key, msgLen := len, pktIndex := idx }

def cipherMark (c : Conn) : Option Word64 := c.sendSlot.map fun _ => 0

/-- DATA packet k of an operation on a member (R160). -/
def State.dataPacket (s : State) (c : Conn) (o : ConnOp) (k : Nat) (bytes : List Byte) : Packet :=
  let n := o.packets c.payload
  { s.endPacket c .data with
    last := decide (n ≤ k + c.stripes), ackreq := decide (n ≤ k + c.stripes), psn := c.nextPsn, msn := o.msn,
    addr := some (o.addrAt (k * c.payload) o.length k), lace := o.lacePart, cipher := cipherMark c, coll := o.coll,
    payload := bytes }

/-- ATOMIC_REQ of an operation (R182). LAST is of messages, read responses and CTRL bodies alone (R157). -/
def State.atomicPacket (s : State) (c : Conn) (o : ConnOp) : Packet :=
  { s.endPacket c .atomicReq with
    psn := c.nextPsn, msn := o.msn, addr := some (o.addrAt 0 8 0),
    atomic := some ⟨o.kind = .cmpSwap, o.opA, o.opB⟩, cipher := cipherMark c }

/-- READ_REQ of bytes of a segment, from its packet j on (R181). -/
def State.readPacket (s : State) (c : Conn) (o : ConnOp) (g : ReadSeg) (j len : Nat) : Packet :=
  { s.endPacket c .readReq with
    psn := g.psn + BitVec.ofNat 32 j, msn := o.msn,
    addr := some (o.addrAt (g.offset + j * c.payload) len j), cipher := cipherMark c }

/-! ## What an end sends next -/

/-- What the next frame is: a record's transmission, an atomic's response, a response of the oldest served segment, a new
DATA packet, a new atomic request. -/
inductive Sending where
  | record (psn : Word32)
  | resp
  | answer
  | data (op k : Nat)
  | atomic (op : Nat)
deriving DecidableEq, Repr

/-- Bytes of packet k of an operation: at hand, or read from its local range (R127). Answers none while they are being
read, and stops the operation when the read fails. -/
def State.sourceBytes (s : State) (c : Conn) (o : ConnOp) (k : Nat) : State × Option (List Byte) :=
  if o.length = 0 then (s, some [])
  else match assoc o.data k with
    | some b => (s, some b)
    | none =>
      match o.origin with
      | .desc q count =>
        if s.xlate.waiting.any fun w => w.access.use = .source q count k then (s, none)
        else
          let as := ((s.findQueue q).map (·.as)).getD 127
          match s.access { cluster := c.home, slice := c.slice, gen := c.gen, as, offset := o.localOffset + k * c.payload,
                           length := o.chunk c.payload k, use := .source q count k } with
          | (s, .done b) => (s, some b)
          | (s, .wait) => (s, none)
          | (s, .stale) => (s.stopOp o.id Status.localAccess, none)
          | (s, .fail f) => (s.stopOp o.id f, none)
      | _ => (s, none)

/-- The first operation of the set, in posting order, that this member has something new to send for. -/
def nextOpOf (first : Conn) (j : Nat) : Option ConnOp :=
  first.ops.find? fun o => o.stop.isNone &&
    (if o.kind.isData then decide (o.cursors.getD j 0 < partOf (o.packets first.payload) j first.stripes)
     else if o.kind = .read then decide (o.requested < o.length)
     else j = 0 && o.cursors.sum = 0)

/-- Messages of the set that are in flight (R172). -/
def Conn.msgsInFlight (first : Conn) : Nat := (first.ops.filter fun o => o.kind.isData && 0 < o.cursors.sum).length

/-- Read the next response of the oldest served segment (R181). Its range passed the check with the request; where the
read fails the segment ends with a REFUSED NAK. -/
def Conn.serveHead (c : Conn) : Option ReadServe := c.serves.head?

/-- The slice of an end is Freezing or Frozen: it sends no new PSN (R384). -/
def State.still (s : State) (slice : Nat) : Bool :=
  (s.slice slice).state = .freezing || (s.slice slice).state = .frozen

/-- The new packet a member would send, if the operation in turn may send one now. -/
def State.newPacket (s : State) (c : Conn) : State × Option (Sending × Packet) :=
  let first := s.firstOf c
  let j := c.index - c.stripeFirst
  match nextOpOf first j with
  | none => (s, none)
  | some o =>
    if o.kind = .read ∨ first.rekey.isSome ∨ s.still c.slice ∨ !s.psnRoom c 1 then (s, none)
    else if o.kind.isAtomic then
      if s.admits c 8 then (s, some (.atomic o.id, s.atomicPacket c o)) else (s, none)
    else
      let k := j + c.stripes * o.cursors.getD j 0
      if !s.admits c (o.chunk c.payload k) ∨ (o.cursors.sum = 0 ∧ 256 ≤ first.msgsInFlight) then (s, none)
      else match s.sourceBytes c o k with
        | (s, some b) => (s, some (.data o.id k, s.dataPacket c o k b))
        | (s, none) => (s, none)

/-- Records of read packets that one READ_REQ asks for again: the missing run that starts at a record (R181). -/
def Conn.runFrom (c : Conn) (op : Nat) (psn : Word32) : Nat → Nat
  | 0 => 0
  | fuel + 1 =>
    if c.inflight.any fun r => r.psn = psn && r.op = op && r.unsent && r.again && r.pkt.ptype = .readReq then
      1 + c.runFrom op (psn + 1) fuel
    else 0

/-- The packet that a record transmits. A READ's missing responses are asked for again, one run at a time (R181). -/
def State.recordPacket (s : State) (c : Conn) (r : InFlight) : Packet :=
  let p := { r.pkt with retx := r.again, ackreq := r.again || r.pkt.ackreq, cipher := cipherMark c }
  if r.pkt.ptype ≠ .readReq ∨ !r.again then p
  else match s.findOp r.op with
    | none => p
    | some o =>
      match o.segs.find? fun g => g.member = c.index && (r.psn - g.psn).toNat < g.packets with
      | none => p
      | some g =>
        let j := (r.psn - g.psn).toNat
        let n := c.runFrom r.op r.psn (g.packets - j)
        { s.readPacket c o g j (min (g.bytes - j * c.payload) (n * c.payload)) with retx := true, ackreq := true }

/-- The Msn of a response: no rule gives it, and it is free (log entry 72). -/
def State.freeMsn (s : State) : BitVec 24 := BitVec.ofNat 24 s.freeNow

/-- The next frame of an end, if it may send one now: resends first, then responses, then new packets in posting order.
A Paused end sends nothing on classes 0 to 6 (R180); a Closing or Failed end has no operation, and still answers its peer (R165). -/
def State.nextFrame (s : State) (k : Nat) : State × Option (Sending × Packet) :=
  match s.findConn k with
  | none => (s, none)
  | some c =>
    if (c.state ≠ .opened ∧ c.state ≠ .closing ∧ c.state ≠ .failed) ∨ (c.pausedUntil.isSome ∧ c.tc ≠ 7) ∨ !c.cached then (s, none)
    else match c.inflight.find? fun r => r.unsent with
      | some r => (s, some (.record r.psn, s.recordPacket c r))
      | none =>
        match c.answers with
        | w :: _ =>
          (s, some (.answer, { s.endPacket c .atomicResp with
                               psn := w.psn, msn := s.freeMsn, atomic := some ⟨w.swapped, w.old, 0⟩, echoStamp := w.stamp,
                               cipher := cipherMark c }))
        | [] =>
          match c.serveHead.bind fun v => v.ready.map fun b => (v, b) with
          | some (v, b) =>
            (s, some (.resp, { s.endPacket c .readResp with
                               psn := v.psn + BitVec.ofNat 32 v.next, msn := s.freeMsn, last := decide (v.next + 1 = v.packets),
                               echoStamp := v.stamp, cipher := cipherMark c, payload := b }))
          | none => s.newPacket c

/-! ## Where a frame leaves -/

/-- Members of a port's lock group, or the port alone (R36). -/
def State.lockGroup (s : State) (p : Nat) : List Nat :=
  let g := (s.portRec p).lock
  if g = 0xFF ∨ 8 ≤ p then [p] else (List.range 8).filter fun q => (s.portRec q).lock = g

/-- A class is paused on a port by PFC (R326). -/
def State.pausedOn (s : State) (p cls : Nat) : Bool := s.time.now < vget (s.port p).pausedRx (s.prioOf cls) 0

/-- The member of a lock group that takes a sprayed frame: not paused, fewest queued bytes, lowest number (R209). -/
def State.leastOf (s : State) (cls : Nat) (ps : List Nat) : Option Nat :=
  let free := ps.filter fun p => !s.pausedOn p cls
  let use := if free.isEmpty then ps else free
  use.foldl (fun b p => match b with
    | none => some p
    | some q => if s.queuedBytes p < s.queuedBytes q then some p else b) none

/-- The entropy value of a frame of an end: of its pinned pair where the end is ordered or of class 7, else by its PSN (R348, R349). -/
def Conn.entropy (c : Conn) (e : RouteEntry) (psn : Word32) (r : Nat) : Nat :=
  if c.ordered ∨ c.tc = 7 then pinnedEntropy e c.hash r else sprayEntropy e psn.toNat c.hash r

/-- The port and entropy of a frame of an end on a fabric path (R208, R209, R348 to R350). -/
def State.fabricPort (s : State) (c : Conn) (e : RouteEntry) (ups : List Nat) (psn : Word32) (r : Nat)
    (prev : Option Nat) (chosen : Option (Word32 × Nat)) : Option (Nat × Nat) :=
  if c.ordered ∨ c.tc = 7 then (pinnedPort ups c.hash r).map fun p => (p, c.entropy e psn r)
  else
    let p0 := match chosen with
      | some (x, p) => if x = psn ∧ ups.contains p then some p else sprayPort ups psn.toNat c.hash r prev
      | none => sprayPort ups psn.toNat c.hash r prev
    match p0 with
    | none => none
    | some p =>
      let group := (s.lockGroup p).filter fun q => ups.contains q
      let group := if group.length > 1 then group.filter fun q => prev ≠ some q else group
      let p := if (s.lockGroup p).length > 1 then (s.leastOf c.tc group).getD p else p
      some (p, c.entropy e psn r)

/-- The port that the next frame of an end would take: none for loopback and for no route. -/
def State.portFor (s : State) (c : Conn) (psn : Word32) (r : Nat) (prev : Option Nat) (chosen : Option (Word32 × Nat)) :
    Option Nat :=
  match s.path c.peer c.tc with
  | .chain east => some (if east then 8 else 9)
  | .fabric e ups => (s.fabricPort c e ups psn r prev chosen).map (·.1)
  | _ => none

/-- Retry count and last port of the record behind a transmission. -/
def Conn.recordOf (c : Conn) : Sending → Nat × Option Nat
  | .record psn => match c.inflight.find? fun r => r.psn = psn with
    | some r => (r.retries, r.port)
    | none => (0, none)
  | _ => (0, none)

/-- Queue a packet of an end on its path, at its own class. Answers the port. -/
def State.launch (s : State) (c : Conn) (p : Packet) (r : Nat) (prev : Option Nat) (chosen : Option (Word32 × Nat)) :
    State × Option Nat :=
  let p := { p with epoch := decide (s.route.active = 1) }
  let mk (port : Nat) (h : PathHdr) : TxFrame :=
    { body := .packet p, cls := c.tc, slice := c.slice, bytes := frameBytes p (s.tagFor port c.tc).isSome, dst := c.peer,
      conn := some c.index, psn := if p.ptype = .readResp ∨ p.ptype = .atomicResp then none else some p.psn, hdr := some h,
      sealKey := s.sendKey (some c.index) }
  let ect := decide (c.tc ≠ 7) && s.fld .cluCcCtrlEcnEnable c.home = 1
  match s.path c.peer c.tc with
  | .loopback => (s.loopBack .packet p (some c.index), none)
  | .none => (s.bump .rteStatNoRoute 0, none)
  | .chain east =>
    let port := if east then 8 else 9
    (s.queueFrame port (mk port (s.chainHdr c.peer east (c.entropy (s.entryTo c.peer) p.psn r) ect)), some port)
  | .fabric e ups =>
    match s.fabricPort c e ups p.psn r prev chosen with
    | some (port, ent) => (s.queueFrame port (mk port (s.fabricHdr c.peer e port ent ect)), some port)
    | none => (s.bump .rteStatNoRoute 0, none)

/-! ## Acknowledging (R171 to R174, R183) -/

/-- The later of two send stamps, by serial-number arithmetic. -/
def laterStamp (a b : Word32) : Word32 := if countBefore a b then b else a

/-- Runs of marked PSNs above E, lowest first: offset from AckPsn and length − 1, at most 16 (R159, R173). -/
def sackRuns (e : Word32) (marked : List Word32) : List (Nat × Nat) :=
  let offs := (marked.map fun p => (p - e).toNat).mergeSort
  let runs := offs.foldl (fun (acc : List (Nat × Nat)) o =>
    match acc with
    | (st, ln) :: r => if o = st + ln + 1 then (st, ln + 1) :: r else if o ≤ st + ln then acc else (o, 0) :: acc
    | [] => [(o, 0)]) []
  runs.reverse.take 16

/-- Reset what an ACK has reported. -/
def Conn.reported (c : Conn) : Conn := { c with unreported := 0, unreportedAt := none, echo := none, ece := false }

/-- Send an ACK of an end (R173, R174). `dup` is the send stamp of a duplicate that causes it. -/
def State.sendAck (s : State) (k : Nat) (dup : Option Word32) : State :=
  match s.findConn k with
  | none => s
  | some c =>
    let p : Packet := { s.endPacket c .ack with
      ackPsn := c.expect, echoStamp := (c.echo.orElse fun _ => dup).getD 0, ece := c.ece, sack := sackRuns c.expect c.received }
    (s.modConn k Conn.reported).sendEndC7 c p

/-- Send a NAK of an end for a packet with this send stamp (R174, R183). Its AckPsn and SACK report what was marked; packets go on counting
from the last ACK (R173). -/
def State.sendNak (s : State) (k : Nat) (code : Nat) (status : Status) (psn : Word32) (retryUs : Nat) (stamp : Word32) :
    State :=
  match s.findConn k with
  | none => s
  | some c =>
    let p : Packet := { s.endPacket c .nak with
      ackPsn := c.expect, echoStamp := (c.echo.map fun e => laterStamp e stamp).getD stamp,
      sack := sackRuns c.expect c.received, nak := some ⟨code, status.toNat, psn, retryUs⟩ }
    (s.modConn k fun c => { c with unreportedAt := none, echo := none }).sendEndC7 c p

/-! ## Serving reads (R130, R181) -/

/-- The event of a refused inbound request: a packet's type code, the offset of its first byte, its PSN (R149, R152). -/
def State.inboundEvent (s : State) (c : Conn) (code : EventCode) (st : Status) (cause off ptype : Nat) (psn : Word32) : State :=
  s.raise { slice := c.slice, code, status := st, cluster := c.home, object := c.index,
            info := off + cause * 2 ^ 52 + ptype * 2 ^ 56, detail := c.peer.toNat + psn.toNat * 2 ^ 20 }

/-- A read for a served segment failed: the request is refused (R183, R299), with its event where the host denied the read (R152). -/
def State.refuseServe (s : State) (k : Nat) (code : Status) : State :=
  match (s.findConn k).bind fun c => c.serves.head?.map fun v => (c, v) with
  | none => s
  | some (c, v) =>
    let s := if code = Status.xlateDenied then s.inboundEvent c EventCode.inboundDenied code 0 v.offset 1 v.psn else s
    (s.endServe k).sendNak k 5 code v.psn 0 v.stamp

/-- A page of a served segment's next response has lost its translation and faults: the rest of the segment is refused with a
retry-after NAK that names the READ_REQ (R183), and asked for again (R83, R86). DEDUCED; safe: a request whose page faults is never
served. Log 77. -/
def State.faultServe (s : State) (k : Nat) : State :=
  match (s.findConn k).bind fun c => c.serves.head?.map fun v => (c, v) with
  | none => s
  | some (c, v) =>
    (s.endServe k).sendNak k 2 0 v.psn (s.faultRetryUs c.slice) v.stamp

/-- The next response of the oldest served segment of an end is at hand. -/
def State.setServed (s : State) (k : Nat) (b : List Byte) : State :=
  let put (l : List ReadServe) : List ReadServe :=
    match l with
    | [] => []
    | v :: r => { v with ready := some b } :: r
  s.modConn k fun c => { c with serves := put c.serves }

/-- Read the next response of the oldest served segment of an end, unless it is at hand or being read. The segment has passed the check; a
read of a host tier needs a line that stands, and a function that may issue it (R80, R81, R83). -/
def State.readServe (s : State) (k : Nat) : State :=
  match s.findConn k with
  | none => s
  | some c =>
    match c.serveHead with
    | none => s
    | some v =>
      if v.ready.isSome ∨ s.xlate.waiting.any (fun w => w.access.use = .readServe k v.psn) then s
      else
        let off := v.offset + v.next * c.payload
        let len := min c.payload (v.bytes - v.next * c.payload)
        match s.range c.slice v.slot with
        | none => s.endServe k
        | some e =>
          match e.tier.port with
          | none =>
            match s.readLocal e.tier off len with
            | (s, some b) => s.setServed k b
            | (s, none) => s.refuseServe k Status.memUncorrectable
          | some _ =>
            let (f, pasid) := s.carrier e
            let iova := e.target + (off - e.start)
            let a : Access := { cluster := c.home, slice := c.slice, gen := c.gen, as := c.as, offset := off, length := len,
                                use := .readServe k v.psn }
            match s.hostBlocked f e.pathTag with
            | some code => s.refuseServe k code
            | none =>
              let id := s.xlate.nextId
              match (pagesOf iova len).find? fun p => (s.translated c.home f pasid p false).isNone with
              | some p =>
                let s : State := { s with xlate.nextId := id + 1 }
                let (s, r) := s.sendAts c.slice c.home f pasid p ((e.target + e.length - 1) / 4096 * 4096)
                (s.park { id, access := a, on := .ats r }).1
              | none =>
                let w : Waiting := { id, access := a, on := .hostRead (id + 1), checked := some (e.slice, e.slot) }
                let h : HostRead := { id := id + 1, port := f.port, fn := f.fn, slice := c.slice, peer := e.pathTag ≠ 0xFFFF,
                                      sentAt := s.time.now, use := .access id }
                let s := s.modRange e.slice e.slot fun e => { e with inFlight := e.inFlight + 1 }
                ({ s with xlate.nextId := id + 2, xlate.waiting := s.xlate.waiting ++ [w],
                          hostReads := s.hostReads ++ [h] } : State).emit
                  (.hostRead (id + 1) f pasid (s.hostPieces c.home f pasid iova len false))

/-! ## Sending -/

/-- What the Stream Cipher Engine makes of a transmission (R426 to R429): the packet with its counter, or how it
fails. `mismatches` inverse-check mismatches occur on this packet. -/
inductive Sealed where
  | ok (p : Packet)
  | spent
  | fail (c : Status)
deriving DecidableEq, Repr

/-- A Stream Cipher Engine leaves service (R429). -/
def State.streamOut (s : State) (e : Nat) : State :=
  ({ s with keys.streamOut := s.keys.streamOut ||| (1 <<< e) } : State).raise
    { slice := 0, code := EventCode.cipherOut, object := 16 + e }

def State.seal (s : State) (c : Conn) (p : Packet) (again : Bool) (mismatches : Nat) : State × Sealed :=
  match c.sendSlot with
  | none => (s, .ok p)
  | some slot =>
    match s.takeCounter c.home c.slice slot again with
    | (s, .spent) => (s, .spent)
    | (s, .fail f) => (s, .fail f)
    | (s, .counter n e) =>
      if mismatches = 0 then (s, .ok { p with cipher := some n })
      else
        let s := (s.bump .cluSceStatRecomputes c.home).bumpBy .secCipherStatStreamFaults 0 (min 2 mismatches)
        if mismatches = 1 then (s, .ok { p with cipher := some n })
        else (s.streamOut e, .fail Status.cipherFault)

/-- Add an in-flight record for a new packet. -/
def State.addRecord (s : State) (c : Conn) (op idx bytes : Nat) (p : Packet) (port : Option Nat) : State :=
  let r : InFlight := { psn := p.psn, sentAt := s.time.now, op, index := idx, bytes, pkt := p, port }
  { s.modConn c.index (fun c => { c with inflight := c.inflight ++ [r], nextPsn := p.psn + 1 }) with
    mem.infPool := s.mem.infPool - 1 }

def bumpAt (l : List Nat) (j m : Nat) : List Nat :=
  (List.range m).map fun k => l.getD k 0 + if k = j then 1 else 0

/-- Return records to the pool. -/
def State.dropRecords (s : State) (k : Nat) (gone : InFlight → Bool) : State :=
  match s.findConn k with
  | none => s
  | some c =>
    { s.modConn k (fun c => { c with inflight := c.inflight.filter fun r => !gone r }) with
      mem.infPool := s.mem.infPool + (c.inflight.filter gone).length }

/-- PSNs at the end of a member's space that were given to an operation's read requests and never sent. -/
def unsentTail (op : Nat) (rs : List InFlight) : List InFlight :=
  (rs.reverse.takeWhile fun r => r.op = op && r.unsent && !r.again).reverse

/-- Take back the read segment of an operation that has not been sent: it holds the last PSNs of its member's space (R129, R183). -/
def State.dropUnsent (s : State) (op : Nat) : State :=
  s.trans.conns.foldl (fun s c =>
    match unsentTail op c.inflight with
    | [] => s
    | r :: rest =>
      let gone := (r :: rest).map (·.psn)
      let s := s.dropRecords c.index fun x => gone.contains x.psn
      let s := s.modOp op fun o => { o with segs := o.segs.filter fun g => !(g.member = c.index && g.psn = r.psn) }
      s.modConn c.index fun c => { c with nextPsn := r.psn }) s

/-- A READ_REQ whose first transmission the cipher refuses: its operation sends no more, and ends with the code once what it sent is
resolved (R428, R429). -/
def State.firstRefused (s : State) (c : Conn) (psn : Word32) (f : Status) : State :=
  let ids := (c.inflight.filter fun x => x.psn = psn).map (·.op)
  (ids.foldl (fun s id => (s.stopOp id f).dropUnsent id) s).finishOps c.stripeFirst

/-- Transmit the frame that `nextFrame` chose. -/
def State.transmit (s : State) (k : Nat) (w : Sending) (p : Packet) (mismatches : Nat) (chosen : Option (Word32 × Nat)) :
    State :=
  match s.findConn k with
  | none => s
  | some c =>
    let j := c.index - c.stripeFirst
    let (r, prev) := c.recordOf w
    match w with
    | .record psn =>
      let asks := if p.ptype = .readReq then ceilDiv ((p.addr.map (·.msgLen)).getD 1) c.payload else 1
      match s.seal c p p.retx mismatches with
      | (s, .spent) => if p.retx then s.failEnd c Status.peerUnreachable psn.toNat else s.firstRefused c psn Status.cipherExhausted
      | (s, .fail f) =>
        if !p.retx then s.firstRefused c psn f
        else
        let ids := (c.inflight.filter fun x => x.psn = psn).map (·.op)
        let upd (x : InFlight) : InFlight := { x with unsent := false, sentAt := s.time.now }
        (ids.foldl (fun s id => s.reportOp id f) s).modConn k fun c =>
          { c with inflight := updWhere (fun x => (x.psn - psn).toNat < asks) upd c.inflight }
      | (s, .ok p) =>
        let s := if p.retx then s.bump .cluCyqStat0Retransmits c.home else s
        let (s, port) := s.launch c p r prev chosen
        let upd (x : InFlight) : InFlight := { x with unsent := false, again := false, sentAt := s.time.now, port := port }
        s.modConn k fun c => { c with inflight := updWhere (fun x => (x.psn - psn).toNat < asks) upd c.inflight }
    | .answer =>
      let s := match s.seal c p false mismatches with
        | (s, .ok p) => (s.launch c p 0 none chosen).1
        | (s, _) => s
      s.advanceFree.modConn k fun c => { c with answers := c.answers.drop 1 }
    | .resp =>
      let (s, good) := match s.seal c p false mismatches with
        | (s, .ok p) => ((s.launch c p 0 none chosen).1, true)
        | (s, _) => (s, false)
      let s := s.advanceFree
      let more := c.serveHead.any fun v => good && decide (v.next + 1 < v.packets)
      let step (l : List ReadServe) : List ReadServe :=
        match l with
        | [] => []
        | v :: r => { v with next := v.next + 1, ready := none } :: r
      if more then s.modConn k fun c => { c with serves := step c.serves } else s.endServe k
    | .data op idx =>
      match s.seal c p false mismatches with
      | (s, .ok p) =>
        let (s, port) := s.launch c p 0 none chosen
        (s.addRecord c op idx p.payload.length p port).modOp op fun o =>
          { o with cursors := bumpAt o.cursors j c.stripes, data := assocDel o.data idx }
      | (s, .fail f) => (s.stopOp op f).finishOps c.stripeFirst
      | (s, .spent) => (s.stopOp op Status.cipherExhausted).finishOps c.stripeFirst
    | .atomic op =>
      match s.seal c p false mismatches with
      | (s, .ok p) =>
        let (s, port) := s.launch c p 0 none chosen
        (s.addRecord c op 0 8 p port).modOp op fun o => { o with cursors := bumpAt o.cursors 0 c.stripes }
      | (s, .fail f) => (s.stopOp op f).finishOps c.stripeFirst
      | (s, .spent) => (s.stopOp op Status.cipherExhausted).finishOps c.stripeFirst

/-- An end has something that it could send with its context at hand. -/
def State.wantsSend (s : State) (c : Conn) : Bool :=
  (c.state = .opened || c.state = .closing || c.state = .failed)
    && (c.inflight.any (·.unsent) || !c.answers.isEmpty || !c.serves.isEmpty
      || (nextOpOf (s.firstOf c) (c.index - c.stripeFirst)).isSome)

/-- An end that is not cached and has something to send fetches its context (R184). -/
def State.needContext (s : State) (k : Nat) : State :=
  match s.findConn k with
  | none => s
  | some c => if !c.cached && s.wantsSend c then s.fetchContext k else s

/-- Inverse-check mismatches on a packet that no visit of the wheel sends: free, for an encrypted end (R429). -/
def State.freeMismatches (s : State) (k : Nat) : State × Nat :=
  if (s.findConn k).any fun c => c.sendSlot.isSome then (s.advanceFree, s.freeNow % 3) else (s, 0)

/-- An end that waits for in-flight records of the pool is served when some return (R294). -/
def State.awaitRecords (s : State) (k : Nat) : State :=
  if s.mem.infWaits.contains k then s else { s with mem.infWaits := s.mem.infWaits ++ [k] }

/-- What an end needs that it lacks for its next frame, it asks for: its context, or records of the pool. -/
def State.askNeeds (s : State) (k : Nat) : State :=
  let s := s.needContext k
  match s.findConn k with
  | none => s
  | some c => if s.mem.infPool = 0 && s.wantsSend c then s.awaitRecords k else s

/-- Send everything an end may send at once: a class 7 end, which has no Pacing Wheel entry (R196), and an end whose
frames take no port (R52, R347). -/
def State.pump (s : State) (k : Nat) : Nat → State
  | 0 => s
  | fuel + 1 =>
    match (s.readServe k).nextFrame k with
    | (s, some (w, p)) =>
      let (s, n) := s.freeMismatches k
      (s.transmit k w p n none).pump k fuel
    | (s, none) => match s.findConn k with
      | some c => (s.askNeeds k).finishOps c.stripeFirst
      | none => s

/-! ## The Pacing Wheel (R206 to R209) -/

def roundSlot (t : Nat) : Nat := (t + 63) / 64 * 64

/-- Pacing burst of a wheel, in bytes (R206). -/
def State.burst (s : State) (port : Nat) : Nat := clamp 9 1024 (s.fld .prtSchedCtrlBurstKiB port) * 1024

/-- Throttle factor of a port for a slice, in quarters (R200, R201). -/
def State.factor (s : State) (port slice : Nat) : Nat :=
  let x := s.port port
  if x.egress.any fun t => decide (t.cls < 7) && t.slice = slice then 4 - min 3 x.throttle else 4

/-- The wheel of a port: its lock group's first port, or the port. -/
def State.wheelOf (s : State) (port : Nat) : Nat := ((s.lockGroup port).head?).getD port

def State.modWheel (s : State) (o : WheelOwner) (f : WheelEntry → WheelEntry) : State :=
  { s with trans.wheel := updWhere (fun w => w.owner = o) f s.trans.wheel }

def State.findWheel (s : State) (o : WheelOwner) : Option WheelEntry := s.trans.wheel.find? fun w => w.owner = o

/-- Place an entry: at `at_`, in the overflow list when that lies beyond the wheel's period (R207). -/
def State.placeEntry (s : State) (o : WheelOwner) (wheel at_ : Nat) (chosen : Option (Word32 × Nat)) : State :=
  s.modWheel o fun w =>
    { w with placed := true, wheel, nextAt := at_, overflow := decide (s.time.now + 262144 < at_), chosen }

/-- An end has something to send: it returns to its wheel at once, or sends directly where it has none. -/
def State.kick (s : State) (k : Nat) : State :=
  match s.findConn k with
  | none => s
  | some c =>
    let s := s.readServe k
    match s.nextFrame k with
    | (s, none) => (s.askNeeds k).finishOps c.stripeFirst
    | (s, some (w, p)) =>
      let (r, prev) := c.recordOf w
      match if c.tc = 7 then none else s.portFor c p.psn r prev none with
      | none => s.pump k 65536
      | some port =>
        let at_ := roundSlot s.time.now
        match s.findWheel (.conn k) with
        | none =>
          let e : WheelEntry := { owner := .conn k, wheel := s.wheelOf port, nextAt := at_, credit := s.burst port,
                                  lastVisit := s.time.now }
          let s := { s with trans.wheel := s.trans.wheel ++ [e] }
          s.placeEntry (.conn k) (s.wheelOf port) at_ (some (p.psn, port))
        | some e =>
          if e.placed then s else s.placeEntry (.conn k) (s.wheelOf port) at_ (some (p.psn, port))

/-- Kick every member of a set. -/
def State.kickSet (s : State) (c : Conn) : State := (s.members c).foldl (fun s m => s.kick m.index) s

/-- Release frames while the credit covers them (R206 step 2), then leave the wheel or take the next slot (step 3). The
rate is W × factor ÷ (4 × Srtt) bytes per ns. -/
def State.visitLoop (s : State) (k : Nat) (mismatches : List Nat) : Nat → State
  | 0 => s
  | fuel + 1 =>
    let n := mismatches.headD 0
    let s := s.readServe k
    match s.nextFrame k, s.findWheel (.conn k), s.findConn k with
    | (s, some (w, p)), some e, some c =>
      let (r, prev) := c.recordOf w
      match s.portFor c p.psn r prev e.chosen with
      | none => (s.transmit k w p n none).visitLoop k (mismatches.drop 1) fuel
      | some port =>
        let len := s.charged port (frameBytes p (s.tagFor port c.tc).isSome)
        if len ≤ e.credit then
          ((s.modWheel (.conn k) fun e => { e with credit := e.credit - len }).transmit k w p n
            (some (p.psn, port))).visitLoop k (mismatches.drop 1) fuel
        else
          let num := c.window * s.factor port c.slice
          let wait := ((len - e.credit) * 4 * c.srtt / (max 1 num : Nat)).ceil.toNat
          s.placeEntry (.conn k) (s.wheelOf port) (roundSlot (s.time.now + wait)) (some (p.psn, port))
    | (s, _), _, oc =>
      let s := s.modWheel (.conn k) fun e => { e with placed := false, chosen := none }
      match oc with
      | some c => (s.askNeeds k).finishOps c.stripeFirst
      | none => s

/-- Step 1 of a visit (R206): the entry gains credit for the time since the last one. -/
def State.gainCredit (s : State) (o : WheelOwner) (gain : Rat) : State :=
  s.modWheel o fun e => { e with credit := min (s.burst e.wheel : Rat) (e.credit + gain), lastVisit := s.time.now, overflow := false }

/-- A visit of a due entry (R206). The throttle factor is that of the port of the next frame, which a lock group chooses now
(R209). -/
def State.visit (s : State) (k : Nat) (mismatches : List Nat) : State :=
  let (s, next) := (s.readServe k).nextFrame k
  match s.findWheel (.conn k), s.findConn k with
  | some e, some c =>
    let port := match next with
      | some (w, p) =>
        let (r, prev) := c.recordOf w
        (s.portFor c p.psn r prev e.chosen).getD e.wheel
      | none => e.wheel
    let gain : Rat := (c.window * s.factor port c.slice * (s.time.now - e.lastVisit) : Nat) / (4 * max 1 c.srtt : Nat)
    (s.gainCredit (.conn k) gain).visitLoop k mismatches 65536
  | _, _ => s

/-! ## Receiving -/

/-- Move E past every marked PSN (R170). -/
def Conn.advance (c : Conn) : Nat → Conn
  | 0 => c
  | fuel + 1 =>
    if c.received.contains c.expect then
      ({ c with received := c.received.filter (· ≠ c.expect), expect := c.expect + 1, seqNakSent := false } : Conn).advance fuel
    else c

/-- Mark the PSNs of one packet as received, with the send stamp that the next ACK may echo. -/
def State.markReceived (s : State) (k : Nat) (psns : List Word32) (stamp : Word32) : State :=
  let now := s.time.now
  s.modConn k fun c =>
    let c := { c with received := c.received ++ (psns.filter fun p => !countBefore p c.expect && !c.received.contains p),
                      unreported := c.unreported + 1,
                      unreportedAt := c.unreportedAt.orElse fun _ => some now,
                      echo := some ((c.echo.map fun e => laterStamp e stamp).getD stamp) }
    c.advance (c.received.length + 1)

/-! ## Samples, windows, loss (R176 to R178, R193, R195) -/

def absDiff (a b : Nat) : Nat := if a ≤ b then b - a else a - b

/-- Add a sample to the local filter of a site (R197). -/
def State.siteSample (s : State) (c : Coord) (r : Nat) : State :=
  let add (e : SbtEntry) : SbtEntry :=
    let put (l : List (Option Nat)) : List (Option Nat) :=
      match l with
      | b :: rest => some ((b.map fun x => min x r).getD r) :: rest
      | [] => []
    { e with buckets := put e.buckets }
  { s with trans.sbt := vmod s.trans.sbt (coordSite c) add }

/-- RTT sample of an arrival time and an EchoStamp (R176). -/
def rttSample (rxTime : Nat) (echo : Word32) : Nat := (BitVec.ofNat 32 rxTime - echo).toNat

/-- Apply a sample to an end's estimates (R176), its base RTT (R199) and the site's filter (R197). -/
def State.sample (s : State) (k r : Nat) : State :=
  match s.findConn k with
  | none => s
  | some c =>
    let now := s.time.now
    let upd (c : Conn) : Conn :=
      let v := (3 * c.rttVar + absDiff c.srtt r) / 4
      let t := (7 * c.srtt + r) / 8
      { c with srtt := t, rttVar := v, rto := rtoOf t v, sampled := true,
               minRtt := ((c.minRtt.filter fun x => now < x.1 + 10000000000 && x.2 < r) ++ [(now, r)]) }
    ((s.modConn k upd).sbtRoll).siteSample c.peer r

/-- The window change of a sample (R193), unless samples are withheld (R195). `bytes` are the payload bytes newly
reported, `ece` the ACK's flag. -/
def State.windowSample (s : State) (k r bytes : Nat) (ece : Bool) : State :=
  match s.findConn k with
  | none => s
  | some c =>
    if c.tc = 7 ∨ c.pausedUntil.isSome ∨ c.noSamples.isSome then s
    else
      let h := c.home
      let now := s.time.now
      let target := s.endBaseRtt c + clamp 1 1000 (s.fld .cluCcCtrlTargetQueueUs h) * 1000
      let w := c.window
      let canCut := decide (c.srtt ≤ now - c.lastCut)
      let set (v : Nat) (cut : Bool) (s : State) : State :=
        s.modConn k fun c => { c with window := c.clampWindow v, lastCut := if cut then now else c.lastCut }
      if r ≤ target then
        if !ece then set (w + max 1 (s.fld .cluCcCtrlAiKiB h) * 1024 * bytes / w) false s
        else if canCut then set (w - w * s.fld .cluCcCtrlEcnBeta h / 256) true (s.bump .cluCcStatEcnCuts h)
        else s
      else if canCut then
        set (w - min (w / 2) (w * s.fld .cluCcCtrlBeta h * (r - target) / (256 * r))) true (s.bump .cluCcStatDelayCuts h)
      else s

/-- A PSN is reported by an AckPsn and SACK blocks. -/
def reportedBy (ackPsn : Word32) (sack : List (Nat × Nat)) (p : Word32) : Bool :=
  countBefore p ackPsn || (sack.any fun b => b.1 ≤ (p - ackPsn).toNat && (p - ackPsn).toNat ≤ b.1 + b.2)

/-- Resolve the DATA PSNs that an ACK or NAK reports, mark the others it covers (R175), and answer the payload bytes
newly reported. -/
def State.resolve (s : State) (k : Nat) (ackPsn : Word32) (sack : List (Nat × Nat)) : State × Nat :=
  match s.findConn k with
  | none => (s, 0)
  | some c =>
    let hit (r : InFlight) : Bool := reportedBy ackPsn sack r.psn && !(r.unsent && !r.again)
    let data := c.inflight.filter fun r => hit r && r.pkt.ptype = .data
    let s := data.foldl (fun s r => s.modOp r.op fun o => { o with acked := o.acked + r.bytes }) s
    let s := s.dropRecords k fun r => hit r && r.pkt.ptype = .data
    let s := s.modConn k fun c =>
      { c with inflight := updWhere hit (fun r => { r with covered := true }) c.inflight,
               noSamples := if c.noSamples.any fun p => reportedBy ackPsn sack p then none else c.noSamples }
    (s, (data.map (·.bytes)).sum)

/-- Put a record up for resending, with a retry (R177, R178). -/
def State.again (s : State) (k : Nat) (psn : Word32) (retry : Bool) : State :=
  let upd (r : InFlight) : InFlight :=
    { r with unsent := true, again := true, holdUntil := none, retries := if retry then r.retries + 1 else r.retries }
  s.modConn k fun c => { c with inflight := updWhere (fun r => r.psn = psn) upd c.inflight }

/-- Put records up for resending. A run of read packets is asked for at once and counts on its first PSN (R181). -/
def State.againAll (s : State) (k : Nat) (rs : List InFlight) : State :=
  rs.foldl (fun s r =>
    let inRun := r.pkt.ptype = .readReq && rs.any fun x => x.op = r.op && x.psn + 1 = r.psn && x.pkt.ptype = .readReq
    s.again k r.psn (!inRun)) s

/-- Loss detection (R178): every record sent more than ReorderUs before the EchoStamp that the message does not
report is resent with a retry, up to 7. -/
def State.detectLoss (s : State) (k : Nat) (echo : Word32) (ackPsn : Word32) (sack : List (Nat × Nat)) : State :=
  match s.findConn k with
  | none => s
  | some c =>
    if c.pausedUntil.isSome then s
    else
      let limit := clamp 1 1000 (s.fld .cluCyqCtrlReorderUs c.home) * 1000
      let lost (r : InFlight) : Bool :=
        !reportedBy ackPsn sack r.psn && !r.covered && !r.unsent && r.holdUntil.isNone && r.retries < 7
          && countBefore (BitVec.ofNat 32 r.sentAt) echo && limit < (echo - BitVec.ofNat 32 r.sentAt).toNat
      s.againAll k (c.inflight.filter lost)

/-- What an ACK or NAK does for its sender's state (R174 to R178, R193): sample, resolution, window, loss, operations
that are over. A NAK of code FAULT, READ_BUSY, CTX_MISS or REFUSED does not change the window. -/
def State.onReport (s : State) (k rxTime : Nat) (p : Packet) : State :=
  match s.findConn k with
  | none => s
  | some c =>
    let r := rttSample rxTime p.echoStamp
    let s := s.sample k r
    let (s, bytes) := s.resolve k p.ackPsn p.sack
    let s := if p.nak.any fun n => n.code ≠ 1 then s else s.windowSample k r bytes (p.ece && p.ptype = .ack)
    let s := s.detectLoss k p.echoStamp p.ackPsn p.sack
    s.finishOps c.stripeFirst

end Sys2Proof.Machine
end

