-- ==== Sys2Proof/Machine/RemoteOps.lean ====
section
/-! DEFINITION. Starting remote memory operations (R127, R128, R184) and sending read segments (R129). -/

namespace Sys2Proof.Machine

/-- The operand checks of R128 on everything but the local range, with the descriptor rules of R102. Answers the end
the descriptor acts on: the first member of its set. -/
def State.remoteCheck (s : State) (x : Queue) (d : Desc) : Except Status Conn :=
  let op := Desc.opcode d
  match s.findConn (Desc.conn d) with
  | none => .error Status.localAccess
  | some c0 =>
    let c := s.firstOf c0
    let atomicOp := op = Op.fetchAdd || op = Op.cmpSwap
    if c.slice ≠ x.slice ∨ c.state = .connecting ∨ c.state = .closing ∨ c.state = .gone ∨ c.state = .free then
      .error Status.localAccess
    else if c.state = .failed then .error c.failCode
    else if c.fenced then .error Status.connFenced
    else if fpaCoord (Desc.remoteFpa d) ≠ c.peer then .error Status.descMalformed
    else if (op = Op.write ∨ op = Op.read) ∧ Desc.length d = 0 then .error Status.descMalformed
    else if atomicOp ∧ (Desc.length d ≠ 8 ∨ Desc.remoteFpa d % 8 ≠ 0 ∨ Desc.localOffset d % 8 ≠ 0) then
      .error Status.descMalformed
    else if (Desc.laceRemote d).isSome ≠ (op = Op.writeInc) then .error Status.descMalformed
    else if !atomicOp ∧ !zeroBytes d 48 63 then .error Status.descMalformed
    else if Desc.inlineLength d ≠ 0 ∧ (Desc.length d ≠ Desc.inlineLength d ∨ Desc.localOffset d ≠ 0) then
      .error Status.descMalformed
    else .ok c

/-- Lookup and check of a local range (R79), without an access. -/
def State.localRange (s : State) (slice as offset length : Nat) (write : Bool) : Option Status :=
  match s.search slice offset length with
  | none => some Status.localAccess
  | some e =>
    match s.check slice as e.slot e.incarnation (if write then 1 else 0) none offset length with
    | .error f => some f.localCode
    | .ok _ => none

/-- What the stream key slot of an end answers to a first transmission (R428, R429). While a rekey runs, a descriptor waits for the slot
to come, and no code is raised (R430). -/
def State.cipherReady (s : State) (c : Conn) : Option Status :=
  match if c.rekey.isSome then none else c.sendSlot with
  | none => none
  | some k =>
    if (s.enginesOf c.home).isEmpty then some Status.cipherFault
    else match s.keySlot c.slice k false with
      | none => some Status.cipherFault
      | some x => if x.state = .exhausted then some Status.cipherExhausted
                  else if x.state = .empty then some Status.cipherFault else none

/-- Post an operation on the first member of a set. -/
def State.post (s : State) (c : Conn) (o : ConnOp) : State :=
  let o := { o with id := s.trans.nextOp, msn := c.nextMsn, cursors := List.replicate c.stripes 0 }
  let s := s.modConn c.stripeFirst fun c => { c with ops := c.ops ++ [o], nextMsn := c.nextMsn + 1, lastUse := s.time.now }
  { s with trans.nextOp := s.trans.nextOp + 1 }

/-- Inline source data as chunks by packet number. -/
def chunksOf (p : Nat) (bytes : List Byte) : List (Nat × List Byte) :=
  (List.range (ceilDiv bytes.length p)).map fun k => (k, (bytes.drop (k * p)).take p)

/-- The operation a descriptor asks for. -/
def opOf (kind : OpKind) (q : Nat) (count : Word32) (p : Nat) (d : Desc) : ConnOp :=
  { id := 0, origin := .desc q count, kind, length := Desc.length d, localOffset := Desc.localOffset d,
    remote := Desc.remoteFpa d, key := Desc.regionKey d, lace := Desc.laceRemote d, opA := Desc.atomicA d,
    opB := Desc.atomicB d, data := chunksOf p (Desc.inlineData d) }

/-- Start a remote memory descriptor: the checks of R128, then the operation is posted. An end whose line is not cached,
or may not be pinned, leaves the descriptor waiting to start (R184). -/
def State.startRemote (s : State) (q : Nat) (count : Word32) (op : Nat) (kind : OpKind) : State × Option Conn :=
  match s.ready q count op with
  | none => (s, none)
  | some (x, d) =>
    let e := d.entry
    match s.remoteCheck x e with
    | .error f => (s.endWith q count f, none)
    | .ok c =>
      let fail := if Desc.inlineLength e ≠ 0 ∨ Desc.length e = 0 then none
        else s.localRange x.slice x.as (Desc.localOffset e) (Desc.length e) (!kind.isData)
      match fail with
      | some f => (s.endWith q count f, none)
      | none =>
        match s.cipherReady c with
        | some f => (s.endWith q count f, none)
        | none =>
          let ms := s.members c
          if kind.isAtomic ∧ 16 ≤ (c.ops.filter fun o => o.kind.isAtomic).length then (s, none)
          else if ms.any fun m => !s.mayPin m then (s, none)
          else if ms.any fun m => !m.cached then (ms.foldl (fun s m => s.fetchContext m.index) s, none)
          else
            let s := (s.post c (opOf kind q count c.payload e)).modStarted q count fun d => { d with run := true }
            (s, some c)

/-! ## Read segments (R129) -/

/-- The address space of an operation's local side. -/
def State.opAs (s : State) (o : ConnOp) : Nat :=
  match o.origin with
  | .desc q _ => ((s.findQueue q).map (·.as)).getD 127
  | .ckpt q _ _ => ((s.findQueue q).map (·.as)).getD 127
  | _ => 127

/-- The landing range of a segment has passed lookup, check and translation: yes, not yet, or the code that ends the
READ. An Eyelet load lands in a PCIe completion, a RESTORE's blocks in its scratch, and they need none. -/
def State.landingReady (s : State) (c : Conn) (o : ConnOp) (len : Nat) : State × AccOut :=
  match o.origin with
  | .eyelet _ | .ckpt .. => (s, .done [])
  | _ =>
    if s.xlate.waiting.any fun w => w.access.use = .probe o.id then (s, .wait)
    else s.access { cluster := c.home, slice := c.slice, gen := c.gen, as := s.opAs o, offset := o.localOffset + o.requested,
                    length := len, write := true, use := .probe o.id }

/-- Cut the next segment of an operation and put its READ_REQ up for sending: at most 4 MiB, the bytes not yet
requested, and the free window in whole payloads; at most 8 outstanding. It is cut when it is ready to be sent: not while the member's
last READ_REQ still waits for the wheel. -/
def State.sendSegment (s : State) (o : ConnOp) (first : Conn) : State :=
  let left := o.length - o.requested
  match s.findConn (first.stripeFirst + o.segs.length % max 1 first.stripes) with
  | none => s
  | some m =>
    let p := m.payload
    let free := if m.tc = 7 then left else m.window - s.flight m
    let size := min 4194304 (if left ≤ free then left else free / p * p)
    let n := ceilDiv size p
    if left = 0 ∨ o.stop.isSome ∨ m.state ≠ .opened ∨ !m.cached ∨ first.rekey.isSome ∨ s.still m.slice ∨ size = 0
       ∨ (m.pausedUntil.isSome ∧ m.tc ≠ 7)
        ∨ 8 ≤ (s.openSegs m).length ∨ !s.psnRoom m n ∨ (m.inflight.any fun r => r.unsent && !r.again) then s
    else match s.landingReady m o size with
      | (s, .fail f) => (s.stopOp o.id f).finishOps first.index
      | (s, .done _) =>
        let g : ReadSeg := { member := m.index, psn := m.nextPsn, packets := n, offset := o.requested, bytes := size }
        let pkt := s.readPacket m o g 0 size
        let rec_ (k : Nat) : InFlight :=
          { psn := m.nextPsn + BitVec.ofNat 32 k, sentAt := s.time.now, op := o.id, index := k, bytes := min p (size - k * p),
            pkt, unsent := true }
        let s := s.modOp o.id fun o => { o with requested := o.requested + size, segs := o.segs ++ [g] }
        let s := s.modConn m.index fun c =>
          { c with inflight := c.inflight ++ (List.range n).map rec_, nextPsn := c.nextPsn + BitVec.ofNat 32 n }
        ({ s with mem.infPool := s.mem.infPool - n } : State).kick m.index
      | (s, _) => s

/-- The oldest READ operation of a descriptor that still has bytes to ask for. -/
def State.readOpOf (s : State) (q : Nat) (count : Word32) : Option (Conn × ConnOp) :=
  s.trans.conns.findSome? fun c =>
    (c.ops.find? fun o => o.kind = .read && decide (o.requested < o.length) && o.stop.isNone &&
      (match o.origin with
       | .desc q' n => q' = q && n = count
       | .ckpt q' n _ => q' = q && n = count
       | _ => false)).map fun o => (c, o)

/-- An operation has its turn in posting order: nothing before it still has new packets to send. -/
def Conn.hasTurn (first : Conn) (id : Nat) : Bool :=
  match first.ops.find? fun o => o.stop.isNone && !(o.allSent first.payload) with
  | some o => o.id = id
  | none => false

end Sys2Proof.Machine
end

