-- ==== Sys2Proof/WellFormed.lean ====
section
/-! DEFINITION. Which commands are well formed: the limits that the widths of registers and message fields put on an
operand whose Lean type is wider, and the packet type that an arrival's row names. The block is total on every command; a
command that is not well formed cannot occur. -/

namespace Sys2Proof

/-! ## The checks -/

/-- A queue number (R93): 18 bits. -/
def wfQueue (q : Nat) : Bool := decide (q < 2 ^ 18)

/-- A read carries at most what one request may ask for. -/
def wfReadResult : ReadResult → Bool
  | .ok data => decide (data.length ≤ 2 ^ 32)
  | _ => true

/-- A value of `n` bits. -/
def wfBits (n v : Nat) : Bool := decide (v < 2 ^ n)

/-- A push carries one descriptor, of 64 or 256 bytes (R97). -/
def wfPush (bytes : List Byte) : Bool := bytes.length = 64 || bytes.length = 256

/-- An access of one register: BAR0's 64 MiB, and 4 or 8 bytes (R532). -/
def wfAccess (off width : Nat) : Bool := wfBits 26 off && (width = 4 || width = 8)

/-- Field widths of a packet (R156, R159). -/
def wfPacket (p : Packet) : Bool :=
  wfBits 4 p.version && decide (p.payload.length ≤ 8192) && decide (p.sack.length ≤ 16)
    && p.sack.all (fun b => wfBits 16 b.1 && wfBits 16 b.2)
    && (match p.nak with | some n => wfBits 8 n.code && wfBits 8 n.status && wfBits 16 n.retryUs | none => true)

/-- An arrival of a packet type, or of a reserved one, which the checks drop (R159). -/
def wfArrival (ty : PType) (a : Arrival) : Bool :=
  wfBits 16 a.udpDst && wfPacket a.pkt && decide (a.pkt.ptype = ty ∨ (a.pkt.ptype = .rsvd ∧ ty ≠ .ctrl))

/-- The CTRL subtypes of R164, R234, R356 and R430; every other is reserved. -/
def ctrlSubtypes : List Nat :=
  [0x10, 0x11, 0x12, 0x13, 0x14, 0x18, 0x19, 0x20, 0x30, 0x31, 0x40, 0x41, 0x42, 0x43, 0x44, 0x45, 0x46, 0x47, 0x50, 0x51, 0x52, 0x53,
   0x54, 0x55, 0x56, 0x57, 0x60, 0x61, 0x68, 0x69]

/-- A control packet of the row's subtype, or of a reserved one, which the receiver drops (R164). -/
def wfCtrl (subtype : Nat) (a : Arrival) : Bool :=
  wfArrival .ctrl a && (a.pkt.ctrl.map (·.subtype)).any fun k => k = subtype || !ctrlSubtypes.contains k

/-- A PFC frame: a mask of the eight priorities, and a pause of 16 bits for each (R326). -/
def wfPfc (mask : Nat) (quanta : List Nat) : Bool := wfBits 8 mask && quanta.length = 8 && quanta.all (wfBits 16)

/-- A STATUS frame: a word for each of the four lanes (R332). -/
def wfStatus (acks credits : List Word32) : Bool := acks.length = 4 && credits.length = 4

/-- A feed: sixteen round-trip times of 32 bits (R198). -/
def wfFeed (rtts : List Nat) : Bool := rtts.length = 16 && rtts.all (wfBits 32)

/-- How a link trains (R391): a speed of GBL_HOST_STATUS, 32 GT/s without flit mode and 64 GT/s with it, and a width. -/
def wfLink (speed width : Nat) (flit : Bool) : Bool :=
  decide (speed ≤ 2) && [1, 2, 4, 8, 16].contains width && (speed = 0 || flit = decide (speed = 2))

/-- A read of a register: BAR0, or BAR2's 128 MiB from 2^32 on. -/
def wfRead (off width : Nat) : Bool := wfAccess off width || (decide (2 ^ 32 ≤ off ∧ off < 2 ^ 32 + 2 ^ 27) && (width = 4 || width = 8))

/-- A slot of a slice's keys: three kinds (R412). -/
def wfKey (t : KeyTarget) : Bool := wfBits 8 t.kind && wfBits 16 t.slot && wfBits 32 t.rsvd

/-! ## The commands -/

/-- Operand limits of a command. -/
def Instr.wf : Instr → Bool
  | .qdbDoorbell _ q _ | .completionDoorbell _ q _ _ | .queueEnable _ q | .queueDisable _ q | .queueResume _ q
  | .descriptorFetch q | .descriptorRefetch q _ | .descriptorStart q | .completionDelivery q | .completionRecord q
  | .msixModerationTimer q | .nop q _ | .wait q _ | .waitRelease q | .waitDeadline q | .waitPoll q | .laceAdd q _ | .write q _
  | .writeInc q _ | .read q _ | .readSegmentSend q _ | .fetchAdd q _ | .cmpSwap q _ | .copy q _ | .scan q _ | .coll q _
  | .quant q _ | .lowrank q _ | .lowrankStep q _ _ | .optstep q _ | .ckpt q _ | .restore q _ | .rawSend q _ | .rawRecv q _
  | .servicePiece q _ _ _ | .gateDeadline q _ => wfQueue q
  | .qdbPush _ q bytes => wfQueue q && wfPush bytes
  | .descriptorArrival q _ res | .copyUnitDone q _ _ res => wfQueue q && wfReadResult res
  | .data a => wfArrival .data a
  | .readReq a => wfArrival .readReq a
  | .readResp a => wfArrival .readResp a
  | .atomicReq a => wfArrival .atomicReq a
  | .atomicResp a => wfArrival .atomicResp a
  | .ack a => wfArrival .ack a
  | .nak a => wfArrival .nak a
  | .probe a => wfArrival .probe a
  | .connectReq a _ => wfCtrl 0x10 a
  | .connectAck a _ _ _ _ => wfCtrl 0x11 a
  | .connectRefuse a _ _ _ code reason => wfCtrl 0x12 a && wfBits 8 code && wfBits 8 reason
  | .close a _ _ _ _ => wfCtrl 0x13 a
  | .closeAck a _ _ _ _ => wfCtrl 0x14 a
  | .pause a us _ => wfCtrl 0x18 a && wfBits 32 us
  | .resume a _ _ => wfCtrl 0x19 a
  | .sbtFeed a rtts _ => wfCtrl 0x20 a && wfFeed rtts
  | .groupReg a _ count rank _ _ _ => wfCtrl 0x30 a && wfBits 32 count && wfBits 16 rank
  | .groupRegAns a _ code _ _ => wfCtrl 0x31 a && wfBits 8 code
  | .pacingWheelVisit (.conn k) _ => wfBits 24 k
  | .pacingWheelVisit (.raw q) _ => wfQueue q
  | .ctrlAck a _ _ => wfCtrl 0x46 a
  | .epoch a _ _ _ => wfCtrl 0x47 a
  | .hsUp a _ _ _ rank => wfCtrl 0x40 a && wfBits 16 rank
  | .hsDown a _ _ rank => wfCtrl 0x41 a && wfBits 16 rank
  | .hsCount a _ _ _ => wfCtrl 0x42 a
  | .credit a _ stage credits slot => wfCtrl 0x43 a && wfBits 16 stage && wfBits 16 credits && wfBits 32 slot
  | .mismatch a _ rank => wfCtrl 0x44 a && wfBits 16 rank
  | .abort a _ code rank => wfCtrl 0x45 a && wfBits 8 code && wfBits 16 rank
  | .rtBegin a _ _ _ _ => wfCtrl 0x50 a
  | .rtBeginAck a _ _ _ => wfCtrl 0x51 a
  | .rtLoad a _ _ _ => wfCtrl 0x52 a
  | .rtCommit a _ _ _ => wfCtrl 0x53 a
  | .rtReady a _ code _ => wfCtrl 0x54 a && wfBits 32 code
  | .rtFlip a _ _ => wfCtrl 0x55 a
  | .rtFlipAck a _ _ => wfCtrl 0x56 a
  | .rtAbort a _ _ => wfCtrl 0x57 a
  | .reHome a _ _ _ _ _ _ _ => wfCtrl 0x60 a
  | .reHomeAck a _ _ => wfCtrl 0x61 a
  | .rekey a _ => wfCtrl 0x68 a
  | .rekeyAck a code => wfCtrl 0x69 a && wfBits 8 code
  | .pfcFrame _ mask quanta => wfPfc mask quanta
  | .status _ acks credits => wfStatus acks credits
  | .keyInfo _ _ t | .keyErase _ _ _ t | .keyImport _ _ _ t _ | .keyDerive _ _ _ t _ _ _ => wfKey t
  | .msixUnmask _ (some v) => wfBits 11 v
  | .registerWrite _ off w _ => wfAccess off w
  | .registerReadClear _ off w => wfRead off w
  | .hostLinkReturn _ speed width flit => wfLink speed width flit
  | .hostLinkRetrain _ speed width => wfLink speed width (decide (speed = 2))
  | .hostLinkEnd _ cause => decide (1 ≤ cause ∧ cause ≤ 3)
  | .atsCompletion _ _ res | .flushReadCompletion _ res | .hostReadCompletion _ res | .contextFetchDone _ res
  | .lastWrite _ _ _ _ res _ | .fwWrite _ _ _ _ res _ => wfReadResult res
  | .roleSet _ _ role _ => wfBits 2 role
  | .powerSample watts | .boardPowerLimitWrite watts => wfBits 16 watts
  | .thermalSample j h | .thermalComparator j h => wfBits 8 j && wfBits 8 h
  | .setEndpointId eid => wfBits 8 eid
  | _ => true

end Sys2Proof
end

