-- ==== Sys2Proof/Machine/RecvOps.lean ====
section
/-! DEFINITION. Receiving: the checks of R170, parking (R184 to R187), the check of an inbound request (R79, R86, R87,
R145 to R149), placement, messages and their acknowledgement (R133 to R136, R172, R190, R404). -/

namespace Sys2Proof.Machine

/-! ## The receive checks (R170) -/

/-- Check 1: the addresses of R59, both under one bank of R353. A node with no Active bank takes route messages under any prefix
(R358). -/
def State.addressOk (s : State) (a : Arrival) : Bool :=
  match a.port with
  | none => true
  | some p =>
    let routeMsg := a.pkt.ctrl.any fun c => 0x50 ≤ c.subtype && c.subtype ≤ 0x57
    let bare := s.activeBank.isNone && routeMsg
    let own := if bare then (List.range 10).any (s.ownPortOf a.dst)
      else if p.val < 8 then (List.range 8).any (s.ownPortOf a.dst) else s.ownPortOf a.dst p
    let from_ := (s.namedBy a).isSome || (bare && (s.srcCoord [] a.src).isSome)
    decide (a.udpDst = s.trans.cyqPort.toNat) && own && from_

/-- The extensions that a packet's type requires, and no others (R158, R159). -/
def extsOk (p : Packet) : Bool :=
  let plain := p.atomic.isNone && p.sack.isEmpty && p.nak.isNone && p.ctrl.isNone
  let bare := p.addr.isNone && p.lace.isNone && p.cipher.isNone && p.coll.isNone && p.payload.isEmpty
  match p.ptype with
  | .data => p.addr.isSome && plain
  | .readReq => p.addr.isSome && plain && p.lace.isNone && p.coll.isNone && p.payload.isEmpty
  | .readResp => p.addr.isNone && plain && p.lace.isNone && p.coll.isNone
  | .atomicReq =>
    p.addr.isSome && p.atomic.isSome && p.sack.isEmpty && p.nak.isNone && p.ctrl.isNone && p.lace.isNone && p.coll.isNone
  | .atomicResp =>
    p.addr.isNone && p.atomic.isSome && p.sack.isEmpty && p.nak.isNone && p.ctrl.isNone && p.lace.isNone && p.coll.isNone
  | .ack => bare && p.atomic.isNone && p.nak.isNone && p.ctrl.isNone
  | .nak => bare && p.atomic.isNone && p.nak.isSome && p.ctrl.isNone
  | .ctrl => p.addr.isNone && p.lace.isNone && p.cipher.isNone && p.coll.isNone && p.atomic.isNone && p.sack.isEmpty
      && p.nak.isNone && p.ctrl.isSome
  | .probe => bare && plain
  | .rsvd => false

/-- Check 2: the format (R159), a CTRL subtype that is not reserved (R164), and RemoteFpa naming this node (R160). -/
def State.formatOk (s : State) (p : Packet) : Bool :=
  p.version = 1 && p.ptype ≠ .rsvd && !p.fmtBad && extsOk p && p.ctrl.all (fun c => ctrlSubtypes.contains c.subtype) && p.addr.all fun a => fpaCoord a.fpa.toNat = s.coord

/-- A packet of an end carries the CIPHER extension where its end is encrypted, and only there (R158). -/
def State.cipherFits (s : State) (p : Packet) : Bool :=
  match p.ptype with
  | .data | .readReq | .readResp | .atomicReq | .atomicResp =>
    (s.findConn p.destIndex.toNat).all fun c => c.recvSlot.isSome == p.cipher.isSome
  | _ => true

/-- The cluster that counts an arrival: class 7 packets pass through cluster 0, the others go to the end's home. -/
def Packet.cluster (p : Packet) : Nat :=
  match p.ptype with
  | .ack | .nak | .ctrl | .probe => 0
  | _ => p.destIndex.toNat % 8


/-- Checks 1 and 2. Answers whether they pass. A frame that fails the address check goes to a filter or is counted in RxNoMatch (R59). -/
def State.frontChecks (s : State) (a : Arrival) : State × Bool :=
  if !s.addressOk a then
    match a.port with
    | some p => (s.toFilters p.val (Arrival.rxFrame a), false)
    | none => (s, false)
  else if !a.csumOk || !a.crcOk then (s.bump .cluCyqStat1CrcDrop (Packet.cluster a.pkt), false)
  else if !s.formatOk a.pkt || !s.cipherFits a.pkt then (s.bump .cluCyqStat2FormatDrop (Packet.cluster a.pkt), false)
  else (s, true)

/-- The types that ask the target for something. -/
def PType.isRequest : PType → Bool
  | .data | .readReq | .atomicReq => true
  | _ => false

/-- Slots of a cluster's Parking Buffer (R33): 16 per MiB of the partition. -/
def State.parkSlots (s : State) : Nat := (s.last.inForce.bind fun l => l.pools[2]?).getD 0 * 16

/-- The packet of an arrival as it comes in. -/
def State.received (s : State) (a : Arrival) : Received := { rxAt := s.time.now, arrival := a }

/-- A line can serve a fetch (R184, R187). -/
def State.lineFree (s : State) (home : Nat) : Bool :=
  let here := s.trans.conns.filter fun d => d.home = home && (d.cached || d.fetching)
  decide (here.length < s.connLines) || here.any fun d => d.cached && !s.pinned d

/-- Park an arrival whose end is not cached or still Connecting, or refuse it with a CTX_MISS NAK (R186, R187, R536). -/
def State.parkArrival (s : State) (c : Conn) (x : Received) : State :=
  let a := x.arrival
  let h := c.home
  let pct := clamp 25 100 (s.fld .cluCyqCtrlParkHighPct h)
  let parked := ((s.trans.conns.filter fun d => d.home = h).map fun d => d.parked.length).sum
  let line := c.cached || c.fetching || s.lineFree h
  if 16 ≤ c.parked.length ∨ s.parkSlots * pct ≤ parked * 100 ∨ !line then
    (s.bump .cluCyqStat2CtxMissNak h).sendNak c.index 4 0 a.pkt.psn (max 10 (s.fld .cluCyqCtrlCtxMissRetryUs h)) a.pkt.sendStamp
  else
    let s := (s.bump .cluCyqStat2Parked h).modConn c.index fun c => { c with parked := c.parked ++ [x] }
    if c.state = .connecting then s else s.fetchContext c.index

/-- A received packet's inverse check mismatches (R429): it is dropped, and a second mismatch of the engine within the
same microsecond takes it out of service. Which of the cluster's engines checked it is free. -/
def State.invMismatch (s : State) (home : Nat) : State :=
  let es := s.enginesOf home
  let s' := (s.bump .cluSceStatInvDrop home).bump .secCipherStatStreamFaults 0
  match es[s.freeNow % max 1 es.length]? with
  | none => s'
  | some e =>
    let s' := s'.advanceFree
    let again := (assoc s.keys.lastMismatch e).any fun t => decide (s.time.now < t + 1000)
    let s' := { s' with keys.lastMismatch := assocSet s'.keys.lastMismatch e s.time.now }
    if again then s'.streamOut e else s'

/-- The Stream Cipher Engines check an encrypted packet (R170 check 7, R422, R426, R429). The slot's load is an engine's. -/
def State.unseal (s : State) (c : Conn) (slot : Nat) (n : Word64) (a : Arrival) : State × Bool :=
  if (s.enginesOf c.home).isEmpty then (s.bump .cluSceStatInvDrop c.home, false)
  else if 2 ^ 48 ≤ n.toNat then (s.bump .cluCyqStat2AuthDrop c.home, false)
  else
    let s := s.loadRecv c.home c.slice slot
    if (s.keySlot c.slice slot false).all fun k => k.state = .empty || !k.verifies n a.pkt then
      (s.bump .cluCyqStat2AuthDrop c.home, false)
    else if a.invBad then (s.invMismatch c.home, false)
    else (s, true)

/-- Checks 3 to 7: the end that takes the packet, or nothing where the packet ended here. A Failed end whose context was lost answers as a
Gone one (R188); another's context is fetched like any. -/
def State.endChecks (s : State) (x : Received) : State × Option Conn :=
  let a := x.arrival
  let p := a.pkt
  match s.findConn p.destIndex.toNat with
  | none => (s.bump .slcRmaStatTagDrop 0, none)
  | some c =>
    if p.tenant ≠ (s.slice c.slice).tenant then (s.bump .slcRmaStatTagDrop c.slice, none)
    else if p.destInc ≠ c.incarnation ∨ s.sender a ≠ some c.peer then
      (s.bump .cluCyqStat1StaleDrop (Packet.cluster p), none)
    else if c.state = .gone ∨ c.ctxLost then
      (if PType.isRequest p.ptype then s.sendNak c.index 5 Status.remoteSliceGone p.psn 0 p.sendStamp else s, none)
    else if s.inPause ∧ (PType.isRequest p.ptype ∨ p.ptype = .readResp ∨ p.ptype = .atomicResp) ∧ c.tc ≠ 7 then (s, none)
    else if PType.isRequest p.ptype ∧ ((s.slice c.slice).state = .freezing ∨ (s.slice c.slice).state = .frozen) then
      ((s.bump .cluCyqStat2CtxMissNak c.home).sendNak c.index 4 0 p.psn 1000 p.sendStamp, none)
    else if c.state = .connecting ∨ !c.cached then (s.parkArrival c x, none)
    else
      let s := s.touchLine c
      match c.recvSlot, p.cipher with
      | some slot, some n =>
        match s.unseal c slot n a with
        | (s, true) => (s, some c)
        | (s, false) => (s, none)
      | _, _ => (s, some c)

/-- What checks 8 to 10 make of a PSN. -/
inductive PsnCheck where
  | fresh | dup | stop
deriving DecidableEq, Repr

/-- The PSN is behind E, marked, or held as the LAST of an incomplete message (R133, R172). -/
def State.isDup (s : State) (c : Conn) (psn : Word32) : Bool :=
  countBefore psn c.expect || c.received.contains psn
    || ((s.firstOf c).msgs.any fun m => m.heldLast.any fun h => h.conn = c.index && h.psn = psn)

/-- Checks 8 to 10 of a request. -/
def State.psnChecks (s : State) (c : Conn) (p : Packet) : State × PsnCheck :=
  if s.isDup c p.psn then (s, .dup)
  else if 65535 < (p.psn - c.expect).toNat then (s.bump .cluCyqStat1WindowDrop c.home, .stop)
  else if c.ordered ∧ p.psn ≠ c.expect then
    if c.seqNakSent then (s, .stop)
    else ((s.modConn c.index fun c => { c with seqNakSent := true }).sendNak c.index 1 0 c.expect 0 p.sendStamp, .stop)
  else (s, .fresh)

/-- A duplicate is acknowledged and discarded (R133). -/
def State.ackDup (s : State) (c : Conn) (p : Packet) : State :=
  (s.bump .cluCyqStat1DupDrop c.home).sendAck c.index (some p.sendStamp)

/-! ## The check at the target (R79, R86, R87, R145 to R148) -/

/-- What lookup, translation and check make of an inbound request. -/
inductive Inbound where
  | ok (e : RangeEntry)
  | nothing                     -- no bytes, and so nothing to look up
  | violation (cause : Nat)
  | revoked
  | refused (c : Status)
  | fault
  | hold (on : WaitFor)
deriving DecidableEq, Repr

/-- A Revoke Record of the slice that matches an offset and a key (R147). -/
def State.revokedBefore (s : State) (slice off : Nat) (key : Word32) : Bool :=
  s.xlate.revokeRecords.any fun r =>
    r.slice = slice && r.start ≤ off && off < r.start + r.length && r.key = key && !s.passed r.expiry

/-- A failed check of an inbound request: REGION_REVOKED where the region is Revoking or a record matches, otherwise a
violation. -/
def State.inboundFail (s : State) (slice off : Nat) (key : Word32) (f : CheckFail) : Inbound :=
  match f with
  | .revoking => .revoked
  | .miss | .stale | .key => if s.revokedBefore slice off key then .revoked else .violation f.cause
  | _ => .violation f.cause

/-- A page of an inbound request did not translate with the permission needed: a pending fault is joined or allocated,
without a waiter (R86); a Pinned region refuses at once (R82). -/
def State.inboundFault (s : State) (e : RangeEntry) (f : Func) (pasid : Option (BitVec 20)) (page : Nat) :
    State × Inbound :=
  if !s.mayRequest f then (s.bump .slcHostStatLinkDownOps e.slice, .refused Status.hostLinkDown)
  else if e.pinned then (s.bump .xltFaultStatDenied e.slice, .refused Status.xlateDenied)
  else if s.xlate.priStopped.contains f ∨ !(s.funcState f).pri then (s.bump .xltFaultStatDenied e.slice, .refused Status.xlateDenied)
  else ((s.fault e.slice f pasid page).1, .fault)

/-- Stages 1 to 3 of R78 for an inbound request. -/
def State.inbound (s : State) (c : Conn) (off len perm : Nat) (key : Word32) : State × Inbound :=
  if len = 0 then (s, .nothing)
  else if (s.area off).tier.isNone then (s, .violation CheckFail.reserved.cause)
  else if perm = 4 ∧ s.area off ≠ .near then (s, .violation CheckFail.atomicTier.cause)
  else
    let (s, hit) := s.lookup c.home c.slice off len
    match hit.bind fun h => (s.range c.slice h.1).map fun e => (h, e) with
    | none => (s, s.inboundFail c.slice off key .miss)
    | some ((slot, inc), e) =>
      let check (s : State) : State × Inbound :=
        match s.check c.slice c.as slot inc perm (some key) off len with
        | .ok e => (s, .ok e)
        | .error f => (s, s.inboundFail c.slice off key f)
      if e.tier.port.isNone then check s
      else
        let (f, pasid) := s.carrier e
        let iova := e.target + (off - e.start)
        match s.hostBlocked f e.pathTag with
        | some c =>
          (if c = Status.hostLinkDown then s.bump .slcHostStatLinkDownOps e.slice else s, .refused c)
        | none =>
          match (pagesOf iova len).find? fun p => s.xlate.deniedPages.contains (e.slice, pasid, p) with
          | some p =>
            ({ s with xlate.deniedPages := s.xlate.deniedPages.erase (e.slice, pasid, p) }, .refused Status.xlateDenied)
          | none =>
            match (pagesOf iova len).find? fun p => (s.translated c.home f pasid p (perm = 3)).isNone with
            | some p =>
              let (s, id) := s.sendAts c.slice c.home f pasid p ((e.target + e.length - 1) / 4096 * 4096)
              (s, .hold (.ats id))
            | none => check s

/-! ## Refusing -/

/-- The event of a refused inbound request (R149, R152). -/
def State.refuseEvent (s : State) (c : Conn) (p : Packet) (code : EventCode) (st : Status) (cause : Nat) : State :=
  s.inboundEvent c code st cause ((p.addr.map fun a => fpaOffset a.fpa.toNat).getD 0) (PType.code p.ptype) p.psn

/-- Refuse PSNs of a packet (R183): they count as received, and a REFUSED NAK names the first. -/
def State.refuse (s : State) (k : Nat) (p : Packet) (psns : List Word32) (st : Status) : State :=
  (s.markReceived k psns p.sendStamp).sendNak k 5 st p.psn 0 p.sendStamp

/-- Change the record of the message that a packet belongs to, making one if there is none. -/
def State.modMsg (s : State) (c : Conn) (p : Packet) (f : RxMsg → RxMsg) : State :=
  let total := max 1 (ceilDiv ((p.addr.map (·.msgLen)).getD 0) c.payload)
  let first := (p.addr.map fun a => fpaOffset a.fpa.toNat - a.pktIndex * c.payload).getD 0
  s.modConn c.stripeFirst fun x =>
    let l := if x.msgs.any fun m => m.msn = p.msn then x.msgs
      else x.msgs ++ [({ msn := p.msn, total, offset := first, lace := p.lace.map (·.toNat), coll := p.coll } : RxMsg)]
    { x with msgs := updWhere (fun m => m.msn = p.msn) f l }

def State.findMsg (s : State) (first : Nat) (msn : BitVec 24) : Option RxMsg :=
  (s.findConn first).bind fun x => x.msgs.find? fun m => m.msn = msn

/-- CE of a newly reported packet is echoed by the next ACK (R194). -/
def State.noteCe (s : State) (k : Nat) (ce : Bool) : State :=
  if ce then s.modConn k fun c => { c with ece := true } else s

/-- Report the LAST PSNs that a message held, and acknowledge them on their members. -/
def State.releaseHeld (s : State) (first : Nat) (msn : BitVec 24) : State :=
  match s.findMsg first msn with
  | none => s
  | some m =>
    let s := s.modConn first fun x => { x with msgs := updWhere (fun m => m.msn = msn) (fun m => { m with heldLast := [] }) x.msgs }
    m.heldLast.foldl (fun s h => ((s.markReceived h.conn [h.psn] h.stamp).noteCe h.conn h.ce).sendAck h.conn none) s

/-- The message of a DATA packet loses this packet to a refusal: it does not become complete, its later LAST PSNs are
not held, and those held are reported. -/
def State.loseMsg (s : State) (c : Conn) (p : Packet) : State :=
  (s.modMsg c p fun m => { m with refused := true }).releaseHeld c.stripeFirst p.msn

/-- A violation event has named the message of a packet already (R148). -/
def State.toldOf (s : State) (c : Conn) (p : Packet) : Bool :=
  if p.ptype = .data then (s.findMsg c.stripeFirst p.msn).any (·.evented) else (s.firstOf c).told.contains p.msn

/-- An access violation (R148): at most one event for each message, whichever of its packets or repeats violate. -/
def State.violate (s : State) (c : Conn) (p : Packet) (psns : List Word32) (cause : Nat) : State :=
  let s := s.bump .slcRmaStatViolIn c.slice
  let told := s.toldOf c p
  let s := if told then s else s.refuseEvent c p EventCode.accessViolation Status.remoteAccess cause
  let s := if p.ptype = .data then (s.modMsg c p fun m => { m with evented := true }).loseMsg c p
    else if told then s
    else s.modConn c.stripeFirst fun x => { x with told := (x.told ++ [p.msn]).drop (x.told.length - 255) }
  s.refuse c.index p psns Status.remoteAccess

/-- What ends an inbound request that did not pass: a NAK of code FAULT leaves its PSNs open, an arrival that waits is
kept. -/
def State.turnAway (s : State) (c : Conn) (a : Arrival) (psns : List Word32) : Inbound → State
  | .violation cause => s.violate c a.pkt psns cause
  | .revoked =>
    let s := s.bump .slcRmaStatRevoked c.slice
    let s := if a.pkt.ptype = .data then s.loseMsg c a.pkt else s
    s.refuse c.index a.pkt psns Status.regionRevoked
  | .refused st =>
    let s := if st = Status.xlateDenied then s.refuseEvent c a.pkt EventCode.inboundDenied st 0 else s
    let s := if a.pkt.ptype = .data then s.loseMsg c a.pkt else s
    s.refuse c.index a.pkt psns st
  | .fault => s.sendNak c.index 2 0 a.pkt.psn (s.faultRetryUs c.slice) a.pkt.sendStamp
  | .hold on => { s with trans.heldArrivals := s.trans.heldArrivals ++ [(on, a)] }
  | _ => s

/-- Take the held arrivals that wait for something off the list. -/
def State.takeHeld (s : State) (good : WaitFor → Bool) : State × List Arrival :=
  let (go, stay) := s.trans.heldArrivals.partition fun x => good x.1
  ({ s with trans.heldArrivals := stay }, go.map (·.2))

/-! ## Messages (R135, R172, R190, R404) -/

/-- A message has been placed and its TLPs are acknowledged and flushed: its LaceRemote increment is applied, and its
LAST PSNs are reported (R136, R172). -/
def State.finishMsg (s : State) (first : Nat) (msn : BitVec 24) : State :=
  match s.findConn first, s.findMsg first msn with
  | some c, some m =>
    let drop (s : State) : State := s.modConn first fun x => { x with msgs := x.msgs.filter fun m => m.msn ≠ msn }
    match if m.refused then none else m.lace with
    | none => drop (s.releaseHeld first msn)
    | some k =>
      if k < (s.quota c.slice).lace then
        drop ((s.setLace c.slice k (min (s.laceValue c.slice k + 1) (2 ^ 64 - 1))).releaseHeld first msn)
      else
        let h := (m.heldLast.head?).getD { conn := first, psn := 0, offset := m.offset }
        let d := (s.findConn h.conn).getD c
        let s := (s.bump .slcRmaStatViolIn c.slice).inboundEvent d EventCode.accessViolation Status.remoteAccess CheckFail.lace.cause
          h.offset 0 h.psn
        let s := (s.markReceived h.conn [h.psn] h.stamp).sendNak h.conn 5 Status.remoteAccess h.psn 0 h.stamp
        let rest := m.heldLast.drop 1
        drop ((s.modConn first fun x =>
          { x with msgs := updWhere (fun m => m.msn = msn) (fun m => { m with heldLast := rest }) x.msgs }).releaseHeld first msn)
  | _, _ => s

/-- A message of a refused flush or a lost link: its LAST PSNs are refused with the code (R404, R406). -/
def State.refuseMsg (s : State) (first : Nat) (msn : BitVec 24) (code : Status) : State :=
  match s.findMsg first msn with
  | none => s
  | some m =>
    let s := s.modConn first fun x => { x with msgs := x.msgs.filter fun m => m.msn ≠ msn }
    m.heldLast.foldl (fun s h => (s.markReceived h.conn [h.psn] h.stamp).sendNak h.conn 5 code h.psn 0 h.stamp) s

/-- Change a message of an end. -/
def State.updMsg (s : State) (first : Nat) (msn : BitVec 24) (f : RxMsg → RxMsg) : State :=
  s.modConn first fun x => { x with msgs := updWhere (fun m => m.msn = msn) f x.msgs }

/-- A message whose peer path could not be flushed is refused, with P2P_REFUSED to its region's owner (R404); where the
link has ended, with HOST_LINK_DOWN alone (R408). -/
def State.flushMsgFailed (s : State) (c : Conn) (m : RxMsg) (pathTag : Nat) (code : Status) : State :=
  let s := if code = Status.hostLinkDown then s.bump .slcHostStatLinkDownOps c.slice else (s.bump .slcHostStatP2pBlocked c.slice).raise
    { slice := c.slice, code := EventCode.p2pRefused, status := Status.p2pBlocked, object := pathTag, info := m.offset }
  s.refuseMsg c.index m.msn code

/-- A complete message goes on once no flush of its paths is outstanding (R404): refused where one failed, and finished otherwise. -/
def State.flushedMsg (s : State) (first : Nat) (msn : BitVec 24) : State :=
  match s.findConn first, s.findMsg first msn with
  | some c, some m =>
    if !m.flushDue then s
    else match m.flushFail with
      | some (code, tag) => s.flushMsgFailed c m tag code
      | none => if m.flushes.isEmpty then s.finishMsg first msn else s
  | _, _ => s

/-- The TLPs of a complete message are acknowledged: the peer paths that it wrote and that no flush covers are flushed before it is
reported (R404). -/
def State.flushMsg (s : State) (first : Nat) (msn : BitVec 24) : State :=
  match s.findConn first, s.findMsg first msn with
  | some c, some m =>
    let (s, _) := s.issueFlushes c.slice m.peers
    (s.updMsg first msn fun m => { m with flushDue := true, acksDue := false }).flushedMsg first msn
  | _, _ => s

/-- Every packet of a message has been placed. One placed in host tiers waits for the data link layer of each port it
used (R404). -/
def State.completeMsg (s : State) (first : Nat) (msn : BitVec 24) : State :=
  match s.findMsg first msn with
  | none => s
  | some m => if m.tlps.isEmpty then s.flushMsg first msn else s.updMsg first msn fun m => { m with acksDue := true }

/-- The path that the latest placement of a slice's bytes dirtied. -/
def State.pathNow (s : State) (slice : Nat) (x : Nat × Nat) : Option DirtyPath :=
  (s.dirtyOf slice).find? fun p => p.port = x.1 && p.pathTag = x.2

/-- A message has bytes on a path: it waits for every TLP issued on its port so far, and for a flush where a peer completes them (R404). -/
def RxMsg.onPath (d : DirtyPath) (unacked : Nat) (m : RxMsg) : RxMsg :=
  { m with tlps := assocSet m.tlps d.port unacked, peers := if d.pathTag = 0xFFFF then m.peers else addPath m.peers d }

/-! ## Acknowledging after a packet (R173) -/

/-- Send the ACK that a packet makes due. -/
def State.ackIfDue (s : State) (k : Nat) (p : Packet) : State :=
  match s.findConn k with
  | none => s
  | some c =>
    if p.ackreq ∨ max 1 (s.fld .cluCyqCtrlAckEvery c.home) ≤ c.unreported then s.sendAck k (some p.sendStamp) else s

/-- What the bytes of an arrival wait for before they are placed in a host-tier region: room in the dirty-page log (R383), or for posted
data (R216). -/
def State.placeWaits (s : State) (c : Conn) (e : RangeEntry) (off length : Nat) : Option WaitFor :=
  match e.tier.port with
  | none => none
  | some _ =>
    let port := (s.carrier e).1.port.val
    if e.pathTag = 0xFFFF ∧ s.logFull c.slice (pagesOf (e.target + (off - e.start)) length) then some .logRoom
    else if s.postedFull port length then some (.posted port)
    else none

/-- Place the bytes of a DATA packet in its region, where nothing holds them back. -/
def State.placeBytes (s : State) (c : Conn) (e : RangeEntry) (off : Nat) (bytes : List Byte) : State × AccOut :=
  match e.tier.port with
  | none =>
    let (s, good) := s.writeLocal e.tier off bytes (if c.tc = 7 ∧ c.home = 0 then 0 else 2)
    (s, if good then .done [] else .fail Status.memUncorrectable)
  | some _ =>
    if (s.placeWaits c e off bytes.length).isSome then (s, .wait)
    else
      let (f, pasid) := s.carrier e
      let acc : Access := { cluster := c.home, slice := c.slice, gen := c.gen, as := c.as, offset := off, length := bytes.length,
                            write := true, data := bytes, use := .readServe c.index 0 }
      let w : Waiting := { id := 0, access := acc, on := .stalled }
      s.hostAccess w w e f pasid (e.target + (off - e.start))

/-- A DATA packet's bytes are placed, or it had none: it counts toward its message, and is reported unless it is a LAST
whose message is not complete (R172). Where it ends the message, the ACK of the message's LAST answers this packet too,
so that one step sends one ACK (R173). DEDUCED; safe: later ACKs subsume earlier ones. Log 73. -/
def State.dataPlaced (s : State) (c : Conn) (a : Arrival) (path : Option (Nat × Nat)) : State :=
  let p := a.pkt
  let idx := (p.addr.map (·.pktIndex)).getD 0
  let last : HeldLast :=
    { conn := c.index, psn := p.psn, stamp := p.sendStamp, offset := (p.addr.map fun d => fpaOffset d.fpa.toNat).getD 0, ce := a.ce }
  let note (m : RxMsg) : RxMsg :=
    let m := match path.bind (s.pathNow c.slice) with
      | some d => m.onPath d (s.hostPort d.port).unacked
      | none => m
    { m with placed := if m.placed.contains idx then m.placed else m.placed ++ [idx],
             heldLast := if p.last && !m.refused then m.heldLast ++ [last] else m.heldLast }
  let s := s.modMsg c p note
  match s.findMsg c.stripeFirst p.msn with
  | none => s
  | some m =>
    let s := if p.last && !m.refused then s else (s.markReceived c.index [p.psn] p.sendStamp).noteCe c.index a.ce
    let whole := m.placed.length = m.total
    let s := if whole ∧ m.refused then s.finishMsg c.stripeFirst p.msn
      else if whole then s.completeMsg c.stripeFirst p.msn else s
    let told := m.heldLast.any (fun h => h.conn = c.index) && (s.findMsg c.stripeFirst p.msn).isNone
    if told then s else s.ackIfDue c.index p

/-- The byte whose codeword fails on the way into near memory (R14), where the packet has one. -/
def badByte (a : Arrival) (tier : Tier) : Option Nat :=
  a.transferUe.bind fun k => if tier = .near ∧ k < a.pkt.payload.length then some k else none

/-- An inbound DATA packet outside collectives: the check at the target and its placement. A packet whose transfer arrives with an
uncorrectable codeword is as if lost (R14). -/
def State.takeData (s : State) (c : Conn) (a : Arrival) : State :=
  let p := a.pkt
  match p.addr with
  | none => s
  | some ad =>
    let off := fpaOffset ad.fpa.toNat
    match s.inbound c off p.payload.length 3 ad.key with
    | (s, .nothing) => s.dataPlaced c a none
    | (s, .ok e) =>
      match badByte a e.tier with
      | some k => s.transferUe (off + k)
      | none =>
      match s.placeBytes c e off (s.plain c p) with
      | (s, .done _) => s.dataPlaced c a (e.tier.port.map fun x => (x, e.pathTag))
      | (s, .fail st) => s.turnAway c a [p.psn] (.refused st)
      | (s, _) => s.turnAway c a [p.psn] (.hold ((s.placeWaits c e off p.payload.length).getD .logRoom))
    | (s, r) => s.turnAway c a [p.psn] r

/-! ## Reads and atomics at the target (R130, R131, R181, R182) -/

/-- PSNs q to q + n − 1. -/
def psnRun (q : Word32) (n : Nat) : List Word32 := (List.range n).map fun k => q + BitVec.ofNat 32 k

/-- Insert a served segment in PSN order, behind one that has begun: a response is at hand or sent, or its read is under way
(R130). -/
def insertServe (begun : Word32 → Bool) (v : ReadServe) : List ReadServe → List ReadServe
  | [] => [v]
  | x :: r =>
    if x.next = 0 ∧ x.ready.isNone ∧ !begun x.psn ∧ countBefore v.psn x.psn then v :: x :: r else x :: insertServe begun v r

/-- Serve a READ_REQ (R130, R181). -/
def State.takeReadReq (s : State) (c : Conn) (a : Arrival) : State :=
  let p := a.pkt
  match p.addr with
  | none => s
  | some ad =>
    let n := max 1 (ceilDiv ad.msgLen c.payload)
    let psns := psnRun p.psn n
    let off := fpaOffset ad.fpa.toNat
    if 512 ≤ vget s.trans.readTable c.home 0 then s.sendNak c.index 3 0 p.psn 20 p.sendStamp
    else match s.inbound c off ad.msgLen 2 ad.key with
      | (s, .ok e) =>
        let v : ReadServe :=
          { psn := p.psn, packets := n, offset := off, bytes := ad.msgLen, stamp := p.sendStamp, slot := e.slot }
        let s := s.modRange e.slice e.slot fun e => { e with inFlight := e.inFlight + 1 }
        let s := { s with trans.readTable := vmod s.trans.readTable c.home fun k => k + 1 }
        let begun (psn : Word32) : Bool := s.xlate.waiting.any fun w => w.access.use = .readServe c.index psn
        let s := s.modConn c.index fun c => { c with serves := insertServe begun v c.serves }
        let fresh := psns.filter fun q => !s.isDup c q
        let s := if fresh.isEmpty then s else (s.noteCe c.index a.ce).markReceived c.index fresh p.sendStamp
        (s.ackIfDue c.index p).kick c.index
      | (s, .nothing) => ((s.noteCe c.index a.ce).markReceived c.index psns p.sendStamp).ackIfDue c.index p
      | (s, r) => s.turnAway c a psns r

/-- Answer an ATOMIC_REQ with a result (R182). -/
def State.answerAtomic (s : State) (c : Conn) (w : AtomicAnswer) : State :=
  (s.modConn c.index fun c => { c with answers := c.answers ++ [w] }).kick c.index

/-- Execute an ATOMIC_REQ (R131): one locked sequence on the 8 bytes. -/
def State.takeAtomic (s : State) (c : Conn) (a : Arrival) : State :=
  let p := a.pkt
  match p.addr, p.atomic with
  | some ad, some x =>
    let off := fpaOffset ad.fpa.toNat
    match s.inbound c off 8 4 ad.key with
    | (s, .ok _) =>
      let who := if c.tc = 7 ∧ c.home = 0 then 0 else 2
      match (s.shankLock who off).readNear off 8 who with
      | (s, none) => (s.shankFree off).turnAway c a [p.psn] (.refused Status.memUncorrectable)
      | (s, some b) =>
        let old := BitVec.ofNat 64 (leNat b)
        let swap := x.flag && old = x.opA
        let new := if x.flag then (if swap then x.opB else old) else old + x.opA
        let (s, good) := if x.flag && !swap then (s, true) else s.writeNear off (leBytes 8 new.toNat) who
        let s := s.shankFree off
        if !good then s.turnAway c a [p.psn] (.refused Status.memUncorrectable)
        else
          let w : AtomicAnswer := { psn := p.psn, old, swapped := swap, stamp := p.sendStamp }
          let s := ((s.noteCe c.index a.ce).markReceived c.index [p.psn] p.sendStamp).modConn c.index fun c =>
            { c with atomics := (c.atomics ++ [w]).drop (c.atomics.length - 15) }
          (s.ackIfDue c.index p).answerAtomic c w
    | (s, r) => s.turnAway c a [p.psn] r
  | _, _ => s

end Sys2Proof.Machine
end

