-- ==== Sys2Proof/Machine/ConnOps.lean ====
section
/-! DEFINITION. Operations on the life of connection ends: choosing an index (R16, R17, R189), creating and freeing ends
(R161, R165, R166, R168, R188, R192). -/

namespace Sys2Proof.Machine

/-! ## Counts and allowances -/

/-- Ends of a slice that are not Free. -/
def State.connsOf (s : State) (slice : Nat) : Nat := (s.trans.conns.filter fun c => c.slice = slice).length

/-- Near-memory context allowance of a slice (R188). -/
def State.nearAllow (s : State) (slice : Nat) : Nat :=
  let q := (s.quota slice).conns
  let t := (((s.last.inForce.map (·.quotas)).getD []).map (·.conns)).sum
  min q (q * 4194304 / max 1 t)

/-- Ends of a slice with their context in near memory. -/
def State.inNear (s : State) (slice : Nat) : Nat :=
  (s.trans.conns.filter fun c => c.slice = slice && c.nearContext).length

/-- Class 7 ends of the device (R184). -/
def State.classSevenEnds (s : State) : Nat := (s.trans.conns.filter fun c => c.tc = 7).length

/-! ## Choosing an index -/

/-- `n` consecutive indices from k are free. -/
def State.indexFree (s : State) (k n : Nat) : Bool :=
  decide (k + n ≤ 2 ^ 24) && (List.range n).all fun i => (s.findConn (k + i)).isNone

/-- Both Stream Cipher Engines of a cluster are in service. -/
def State.cipherWhole (s : State) (c : Nat) : Bool := (s.enginesOf c).length = 2

/-- Reduction slots reserved by the groups homed on a cluster. Slots that a manager reserves for Manager Tree groups that it only serves
(R242) belong to no cluster that a rule names and do not count (DESIGN CHOICE, log entry 83). -/
def State.slotsOn (s : State) (c : Nat) : Nat := ((s.work.groups.filter fun g => g.home = c).map (·.slots)).sum

/-- Members of a set of `n` that begins on cluster `h` whose cluster has an engine out of service. -/
def State.brokenHomes (s : State) (h n : Nat) : Nat := ((List.range n).filter fun i => !s.cipherWhole ((h + i) % 8)).length

/-- Cluster `h` comes before cluster `b` as the home of an encrypted set (R429): with fewer members on clusters that lack an engine, then
under the choice rule of R18. -/
def State.betterHome (s : State) (n h b : Nat) : Bool :=
  let x := s.brokenHomes h n
  let y := s.brokenHomes b n
  decide (x < y ∨ (x = y ∧ (s.slotsOn h < s.slotsOn b ∨ (s.slotsOn h = s.slotsOn b ∧ h < b))))

/-- A free index (R16): homed on cluster 0 for class 7 (R17), and on a given cluster where one is asked for. While an engine is out of
service, an encrypted set's home is chosen by R429. -/
def State.newIndex (s : State) (n tc : Nat) (home : Option Nat) (encrypted : Bool) : Option Nat :=
  let good (k : Nat) : Bool := s.indexFree k n && (tc ≠ 7 || k % 8 = 0) && home.all (· = k % 8)
  if !encrypted ∨ (List.range 8).all s.cipherWhole then s.freeChoice (2 ^ 24) good
  else
    let order := (List.range 8).mergeSort fun h b => !s.betterHome n b h
    order.findSome? fun h => s.freeChoice (2 ^ 24) fun k => good k && k % 8 = h

/-! ## Creating ends -/

/-- What a new end is made from. -/
structure EndSpec where
  slice : Nat
  peer : Coord
  mode : Nat
  tc : Nat
  payloadLog : Nat
  stripes : Nat
  sendSlot : Option Nat
  recvSlot : Option Nat
  as : Nat
  contextRegion : Nat := 0
  listenId : Word32 := 0
  group : Option Nat := none
deriving DecidableEq, Repr

/-- Slot numbers: 0xFFFF is none. -/
def slotOpt (k : Nat) : Option Nat := if k = 0xFFFF then none else some k

/-- Make member `i` of a set: its index leaves Free with its incarnation raised (R166), and it draws its initial PSN from the DRBG (R169);
window and estimates are those of a new end (R176, R192). -/
def State.makeEnd (s : State) (x : EndSpec) (first i : Nat) (initiator : Bool) (creator : Option (Nat × Word32)) : State :=
  let k := first + i
  let inc := (assoc s.trans.incarnations k).getD 0 + 1
  let psn := BitVec.ofNat 32 s.freeNow
  let rtt := s.baseRtt x.peer
  let near := decide (s.inNear x.slice < s.nearAllow x.slice)
  let home := k % 8
  let lines := (s.trans.conns.filter fun d => d.home = home && (d.cached || d.fetching)).length
  let c : Conn :=
    { index := k, slice := x.slice, gen := s.gen x.slice, incarnation := inc, peer := x.peer, ordered := x.mode = 0, tc := x.tc,
      payloadLog := x.payloadLog, stripes := x.stripes, stripeFirst := first, sendSlot := x.sendSlot, recvSlot := x.recvSlot,
      as := x.as, contextRegion := x.contextRegion, nearContext := near, listenId := x.listenId, initiator, group := x.group,
      creator, nextPsn := psn, initPsn := psn, srtt := rtt, rttVar := rtt / 2, rto := rtoOf rtt (rtt / 2),
      cached := decide (lines < s.connLines), lastUse := s.time.now }
  let c := { c with window := s.initWindow c }
  let s : State := { s.advanceFree with trans.conns := s.trans.conns ++ [c], trans.incarnations := assocSet s.trans.incarnations k inc }
  if x.tc = 7 then s.fetchContext k else s

/-- Make every member of a set. -/
def State.makeEnds (s : State) (x : EndSpec) (first : Nat) (initiator : Bool) (creator : Option (Nat × Word32)) : State :=
  (List.range x.stripes).foldl (fun s i => s.makeEnd x first i initiator creator) s

/-- Every member of an end's set knows its peer. -/
def State.setJoined (s : State) (c : Conn) : Bool := (s.members c).all (·.joined)

/-- The peer's side of a member is known: its index, incarnation and initial PSN. With the last member, the set is Open. -/
def State.joinEnd (s : State) (k : Nat) (peerIndex : BitVec 24) (peerInc : BitVec 8) (peerPsn : Word32) : State :=
  let s := s.modConn k fun c => { c with joined := true, peerIndex, peerInc, expect := peerPsn }
  match s.findConn k with
  | none => s
  | some c =>
    if s.setJoined c then (s.members c).foldl (fun s m => s.modConn m.index fun c => { c with state := .opened }) s else s

/-! ## Freeing ends -/

/-- An end becomes Free: what it held goes back. -/
def State.freeEnd (s : State) (k : Nat) : State :=
  match s.findConn k with
  | none => s
  | some c =>
    let s := c.serves.foldl (fun s _ => s.endServe k) s
    { s with trans.conns := s.trans.conns.filter fun c => c.index ≠ k,
             trans.wheel := s.trans.wheel.filter fun (w : WheelEntry) => decide (w.owner ≠ WheelOwner.conn k),
             trans.ctrlOut := s.trans.ctrlOut.filter fun m => m.conn ≠ some k,
             trans.ackRecords := s.trans.ackRecords.filter fun r => r.conn ≠ k,
             mem.infPool := s.mem.infPool + c.inflight.length }

/-- Free every member of a set. -/
def State.freeSet (s : State) (c : Conn) : State := (s.members c).foldl (fun s m => s.freeEnd m.index) s

/-- End every outstanding operation of a set with a code, reporting those not reported yet (R168). -/
def State.endOps (s : State) (c : Conn) (code : Status) : State :=
  let first := s.firstOf c
  let s := (s.members c).foldl (fun s m =>
    { s.modConn m.index (fun m => { m with inflight := [] }) with mem.infPool := s.mem.infPool + m.inflight.length }) s
  let s := s.modConn first.index fun c => { c with ops := [] }
  (first.ops.filter fun o => !o.reported).foldl (fun s o => s.opEnded o code) s

/-- An end has no operation outstanding (R151, R168, R430). -/
def State.quiet (s : State) (c : Conn) : Bool :=
  (s.firstOf c).ops.isEmpty && (s.members c).all fun m => m.inflight.isEmpty

/-! ## Opening a connection -/

/-- The CONNECT_REQ of an initiating end (R161). -/
def connectBody (c : Conn) : ConnectReqBody :=
  { initIndex := BitVec.ofNat 24 c.index, initInc := c.incarnation, listenId := c.listenId, initPsn := c.initPsn,
    mode := if c.ordered then 0 else 1, trafficClass := c.tc, payloadLog := c.payloadLog, stripes := c.stripes,
    encrypted := c.sendSlot.isSome }

/-- Make the members of a set, in Connecting. -/
def State.makeSet (s : State) (x : EndSpec) (first : Nat) (initiator : Bool) (creator : Option (Nat × Word32)) : State :=
  (List.range x.stripes).foldl (fun s i => s.modConn (first + i) fun c => { c with state := .connecting })
    (s.makeEnds x first initiator creator)

/-- Create a set in Connecting and send the CONNECT_REQ of its first member. Each later member's follows the CONNECT_ACK of the one before
(log entry 16). -/
def State.openConn (s : State) (x : EndSpec) (first : Nat) (creator : Option (Nat × Word32)) : State :=
  let s := s.makeSet x first true creator
  match s.findConn first with
  | some c => s.sendCtrl x.peer (.connectReq (connectBody c))
  | none => s

/-- Close a set (R168): an Open end sends CLOSE and is Closing; one that is Connecting or Failed becomes Free. -/
def State.closeSet (s : State) (c : Conn) : State :=
  if c.state = .opened then
    let s := (s.members c).foldl (fun s m => s.modConn m.index fun c => { c with state := .closing }) s
    s.sendCtrl c.peer (.close (BitVec.ofNat 24 c.index) c.incarnation c.peerIndex c.peerInc)
  else if c.state = .connecting then
    (s.dropCtrl fun o => match o.msg with
      | .connectReq b => (s.members c).any fun m => m.index = b.initIndex.toNat
      | _ => false).freeSet c
  else if c.state = .failed then s.freeSet c
  else s

end Sys2Proof.Machine
end

