-- ==== Sys2Proof/Machine/CollOps.lean ====
section
/-! DEFINITION. Operations on Collective Groups that their commands share: the handshake tree and its messages (R232 to
R240), reading, sending, reducing and writing chunks (R236, R242 to R247, R260 to R264), credits (R244, R365), pieces
(R245), and how an operation ends. -/

namespace Sys2Proof.Machine

/-! ## Groups -/

def State.findGroup (s : State) (h : Nat) : Option Group := s.work.groups.find? fun g => g.handle = h

def State.modGroup (s : State) (h : Nat) (f : Group → Group) : State :=
  { s with work.groups := updWhere (fun g => g.handle = h) f s.work.groups }

def State.modColl (s : State) (h : Nat) (f : CollOp → CollOp) : State := s.modGroup h fun g => { g with op := g.op.map f }

/-- Progress restarts the watchdog (R239). -/
def State.progress (s : State) (h : Nat) : State :=
  s.modGroup h fun g => { g with watchdogAt := s.time.now + g.params.watchdogMs * 1000000 }

def Group.n (g : Group) : Nat := g.params.count
def Group.me (g : Group) : Nat := g.params.rank

/-- Handshake tree (R232). -/
def treeParent (r : Nat) : Nat := (r - 1) / 16
def treeChildren (r n : Nat) : List Nat := ((List.range 16).map fun k => 16 * r + 1 + k).filter fun k => k < n

/-- Parent and children of this member. -/
def Group.neighbours (g : Group) : List Nat :=
  (if g.me = 0 then [] else [treeParent g.me]) ++ treeChildren g.me g.n

/-- The end to a rank. -/
def State.endTo (s : State) (g : Group) (r : Nat) : Option Conn := (assoc g.conns r).bind s.findConn

/-- The rank behind an end. -/
def Group.rankOf (g : Group) (k : Nat) (stripes : Nat) : Option Nat :=
  (g.conns.find? fun x => x.2 ≤ k && k < x.2 + stripes).map (·.1)

/-- Send a collective CTRL message to a rank: repeated until acknowledged (R234). -/
def State.tell (s : State) (g : Group) (r : Nat) (m : CtrlMsg) : State :=
  match s.endTo g r with
  | some c => s.sendEndCtrl c m true
  | none => s

def State.tellAll (s : State) (g : Group) (rs : List Nat) (m : CtrlMsg) : State := rs.foldl (fun s r => s.tell g r m) s

/-- Manager of a node group as this node knows it: the one it follows for its own (R26), its own role, or what the spec
gives no way to learn. -/
def State.managerFor (s : State) (c : Coord) : Coord :=
  if sameGroup c s.coord then
    if s.last.role ≠ 0 then s.coord else (s.route.claim.map (·.1)).getD (Config.managerOf c)
  else Config.managerOf c

def State.siteManager (s : State) (site : Nat) : Coord :=
  if site = coordSite s.coord ∧ s.last.role = 2 then s.coord else Config.siteManagerOf site

/-! ## Geometry -/

/-- Elements of a chunk: ChunkKiB, in whole MX blocks (R219, R254). -/
def chunkElems (dt kib : Nat) : Nat :=
  if isMx dt then kib * 1024 / mxBytes dt * 32 else kib * 1024 / elemBytes dt

def State.shape (s : State) (g : Group) (o : CollOp) : Shape :=
  { members := g.members.map (·.1), me := g.me, kind := o.kind, alg := o.alg, dt := o.dt, elems := o.elems,
    chunk := chunkElems o.dt g.params.chunkKiB, root := o.root, cross := o.flags / 2 % 2 = 1,
    hubOf := s.managerFor, siteMgr := s.siteManager }

def earlyOf (o : CollOp) : Bool := o.flags % 2 = 1
def compensated (o : CollOp) : Bool := o.flags / 4 % 2 = 1
def stochastic (o : CollOp) : Bool := o.flags / 8 % 2 = 1

/-- The receive counts of an ALL_TO_ALL_V are at hand: from the handshake, or from the credits in early-data mode. -/
def countsKnown (x : Shape) (o : CollOp) : Bool := o.kind ≠ CK.allToAllV || o.recvCounts.length = x.n

/-- Offset and length of what goes to `dst` (all-to-all), or of an own unit, in the send buffer. -/
def sendRange (x : Shape) (o : CollOp) (u dst : Nat) : Nat × Nat :=
  if x.kind = CK.allToAll then (dst * dtBytes o.dt o.elems, dtBytes o.dt o.elems)
  else if x.kind = CK.allToAllV then
    let cs := o.sendCounts.getD []
    (dtBytes o.dt (cs.take dst).sum, dtBytes o.dt (cs.getD dst 0))
  else
    let (first, n) := x.unitElems u
    let block := if x.kind = CK.reduceScatter then u / max 1 x.perBlock * dtBytes o.dt o.elems else 0
    (block + dtBytes o.dt first, dtBytes o.dt n)

/-- Offset and length of a unit's result in the receive buffer. -/
def recvRange (x : Shape) (o : CollOp) (u : Nat) : Nat × Nat :=
  if x.kind = CK.allToAll then (u * dtBytes o.dt o.elems, dtBytes o.dt o.elems)
  else if x.kind = CK.allToAllV then (dtBytes o.dt (o.recvCounts.take u).sum, dtBytes o.dt (o.recvCounts.getD u 0))
  else
    let (first, n) := x.unitElems u
    let block := if isGather x.kind then u / max 1 x.perBlock * dtBytes o.dt o.elems else 0
    (block + dtBytes o.dt first, dtBytes o.dt n)

/-- The key under which own bytes are kept: the destination in an all-to-all, otherwise the unit. -/
def ownKey (x : Shape) (u dst : Nat) : Nat := if isDirectAll x.kind then dst else u

/-- Own units that this member reads, as keys. -/
def ownKeys (x : Shape) : List Nat :=
  if isDirectAll x.kind then List.range x.n
  else if isReduce x.kind then List.range x.units
  else if isGather x.kind then x.blockUnits x.me
  else if x.kind = CK.broadcast ∧ x.me = x.root then List.range x.units
  else []

/-- The result is not stored (GATHER_MULTIPLY with RecvOffset 0, R226). -/
def discards (o : CollOp) : Bool := o.kind = CK.gatherMultiply && o.recv = 0

/-! ## Ending an operation -/

/-- Nothing more of a group's chunks is sent. -/
def State.stopSends (s : State) (h : Nat) : State :=
  { s with trans.conns := s.trans.conns.map fun c =>
      { c with ops := updWhere (fun o => match o.origin with | .coll g _ => g = h | _ => false)
                (fun o => { o with stop := some (o.stop.getD Status.collAborted) }) c.ops } }

/-- The operation in progress completes at this member: the descriptor gets its status, and what arrived for its sequence
is forgotten. -/
def State.endColl (s : State) (h : Nat) (st : Status) (detail bytes : Nat) : State :=
  match s.findGroup h with
  | none => s
  | some g =>
    match g.op with
    | none => s
    | some o =>
      let s := s.modGroup h fun g =>
        { g with op := none, state := if g.state = .active then .ready else g.state,
                 hsUps := g.hsUps.filter fun x => o.seq < x.1, hsCounts := g.hsCounts.filter fun x => o.seq < x.1,
                 credits := g.credits.filter fun x => o.seq < x.1.1, mism := g.mism.filter fun x => o.seq < x.1 }
      let s := if st = Status.collMismatch then s.bump .cluCollStatMismatches g.home
        else if st = Status.collAborted then s.bump .cluCollStatAborts g.home else s
      let s := { s with xlate.waiting := s.xlate.waiting.filter fun w =>
                   match w.access.use with | .piece k _ => k ≠ h | _ => true }
      let told (v : Service) : Service := { v with collEnd := some (st, detail) }
      let s := if o.svc then
          { s with work.services := updWhere (fun v => v.q = o.q && v.count = o.count) told s.work.services }
        else s.endDesc o.q o.count { status := st, detail, bytes := min bytes 0xFFFFFFFF }
      s.progress h

/-- The group enters Broken (R221, R240): its operation completes with the code, and GROUP_BROKEN is written. -/
def State.breakGroup (s : State) (h : Nat) (st event : Status) (origin : Nat) (epochCause : Bool) : State :=
  match s.findGroup h with
  | none => s
  | some g =>
    let s := s.stopSends h
    let s := s.endColl h st 0 0
    let s := s.modGroup h fun g => { g with state := .broken, credits := [] }
    s.raise { slice := g.slice, code := EventCode.groupBroken, status := event, cluster := g.home, object := h,
              detail := origin + (if epochCause then 65536 else 0) }

/-- This member's own part fails (R241): ABORT goes through the tree, the operation completes with the code. -/
def State.collFail (s : State) (h : Nat) (code : Status) : State :=
  match s.findGroup h with
  | none => s
  | some g =>
    match g.op with
    | none => s
    | some o =>
      let s := s.tellAll g g.neighbours (.abort (BitVec.ofNat 64 o.seq) code g.me)
      s.breakGroup h code code g.me false

/-- Stop after a MISMATCH in early-data mode (R237): no more is sent, and the operation completes once what was sent is
acknowledged or refused. MISMATCH goes on through the tree. -/
def State.collMismatch (s : State) (h seq rank : Nat) (from_ : Option Nat) : State :=
  match s.findGroup h with
  | none => s
  | some g =>
    if g.mism.any fun m => m.1 = seq then s
    else
      let s := s.tellAll g (g.neighbours.filter fun r => some r ≠ from_) (.mismatch (BitVec.ofNat 64 seq) rank)
      let s := s.modGroup h fun g => { g with mism := g.mism ++ [(seq, rank)] }
      match g.op with
      | some o =>
        if o.seq = seq then (s.stopSends h).modColl h fun o => { o with phase := .stopping, stop := some (Status.collMismatch, rank) }
        else s
      | none => s

/-! ## Accesses -/

/-- An access of a group's own. -/
def collAccess (g : Group) (as : Nat) (what : CollUse) (offset length : Nat) (write : Bool) (data : List Byte)
    (fenced : Bool) : Access :=
  { cluster := g.home, slice := g.slice, gen := g.gen, as, offset, length, write, data, fenced, use := .piece g.handle what }

def State.collWaiting (s : State) (h : Nat) (what : CollUse) : Bool :=
  s.xlate.waiting.any fun w => w.access.use = .piece h what

/-- The context of the operation's queue. -/
def State.collAs (s : State) (o : CollOp) : Nat := ((s.findQueue o.q).map (·.as)).getD 127

/-- A piece is signalled: its flag has been written, or it has none. -/
def State.pieceDone (s : State) (h p : Nat) : State :=
  s.modColl h fun o => { o with pieces := if o.pieces.contains p then o.pieces else o.pieces ++ [p] }

/-- The element of the operation's vector with which a unit begins (R281): of all N blocks in a REDUCE_SCATTER. -/
def vectorIndex (x : Shape) (u : Nat) : Nat :=
  (if x.kind = CK.reduceScatter then u / max 1 x.perBlock * x.elems else 0) + (x.unitElems u).1

/-- What a finished access of a group gives its operation. -/
def State.collDelivered (s : State) (h : Nat) (what : CollUse) (bytes : List Byte) : State :=
  match what with
  | .table => s
  | .counts =>
    s.modColl h fun o => { o with sendCounts := some ((runsOf 8 bytes.length bytes).map leNat) }
  | .countsOut => s.modColl h fun o => { o with countsDone := true }
  | .record => s.modColl h fun o => { o with record := some bytes }
  | .bmat => s.modColl h fun o => { o with bmat := some bytes }
  | .own u => s.modColl h fun o => { o with own := assocSet o.own u bytes }
  | .out u => s.modColl h fun o => { o with written := o.written ++ [u] }
  | .inPlace u => s.modColl h fun o => { o with placed := if o.placed.contains u then o.placed else o.placed ++ [u] }
  | .residual => s
  | .rows b => s.modColl h fun o => { o with rows := o.rows ++ [b] }
  | .flag p => s.pieceDone h p

/-- Begin an access of a group, once. -/
def State.collStart (s : State) (h : Nat) (what : CollUse) (a : Access) : State :=
  if s.collWaiting h what then s
  else match s.access a with
    | (s, .done b) => s.collDelivered h what b
    | (s, .wait) => s
    | (s, .stale) => s
    | (s, .fail c) => s.collFail h c

/-! ## Tables and handshake -/

/-- The signature record of an operation (R231). -/
def signature (g : Group) (o : CollOp) : Word64 :=
  crc64 (beBytes 1 o.kind ++ beBytes 1 o.alg ++ beBytes 1 o.dt ++ beBytes 1 o.red
    ++ beBytes 4 (if o.kind = CK.broadcast then o.root else 0xFFFFFFFF)
    ++ beBytes 8 (if o.kind = CK.allToAllV ∨ o.kind = CK.barrier then 0 else o.elems)
    ++ beBytes 4 g.epoch.toNat ++ beBytes 8 o.seq ++ beBytes 1 (o.flags / 2 % 8) ++ [0, 0, 0])

/-- K × Ncol of a multiply record, and its other fields (R246). -/
def recB (r : List Byte) : Nat := leField r 0 7
def recC (r : List Byte) : Nat := leField r 8 15
def recM (r : List Byte) : Nat := leField r 16 19
def recK (r : List Byte) : Nat := leField r 20 23
def recN (r : List Byte) : Nat := leField r 24 27
def recOut (r : List Byte) : Nat := leField r 28 28

/-- A descriptor that fails a check of R228 which needs its tables: it completes with the code, nothing is sent for it, and its
sequence number is the next one's. DEDUCED from R223 and R228; log 76. -/
def State.collReject (s : State) (h : Nat) (c : Status) : State :=
  match s.findGroup h with
  | none => s
  | some g => match g.op with
    | none => s
    | some o =>
      let s := s.modGroup h fun g =>
        { g with op := none, state := if g.state = .active then .ready else g.state, nextSeq := if o.svc then g.nextSeq else o.seq }
      let s := { s with xlate.waiting := s.xlate.waiting.filter fun w =>
                   match w.access.use with | .piece k _ => k ≠ h | _ => true }
      let told (v : Service) : Service := { v with collEnd := some (c, 0) }
      if o.svc then { s with work.services := updWhere (fun v => v.q = o.q && v.count = o.count) told s.work.services }
      else s.endWith o.q o.count c

/-- What R228 says of an operation once its tables are read: of the send counts of an ALL_TO_ALL_V, and of the multiply record. The receive
buffer of an ALL_TO_ALL_V has no size before the other members' counts have come: it holds at least the member's own block (log entry
76). -/
def State.tablesFail (s : State) (g : Group) (as : Nat) (o : CollOp) : Option Status :=
  let ok (off len : Nat) (write : Bool) : Option Status := if len = 0 then none else s.localRange g.slice as off len write
  let hit (a b : Nat × Nat) : Bool := a.2 ≠ 0 && b.2 ≠ 0 && a.1 < b.1 + b.2 && b.1 < a.1 + a.2
  if o.kind = CK.allToAllV then
    let cs := o.sendCounts.getD []
    let own := dtBytes o.dt (cs.getD g.me 0)
    if isMx o.dt ∧ cs.any (fun c => c % 32 ≠ 0) then some Status.descMalformed
    else if hit (o.send, dtBytes o.dt cs.sum) (o.recv, own) then some Status.descMalformed
    else (ok o.send (dtBytes o.dt cs.sum) false).orElse fun _ => ok o.recv own true
  else match o.record with
    | none => none
    | some r =>
      let n := dtBytes o.dt o.elems
      let send := (o.send, n)
      let recv := (o.recv, if o.recv = 0 then 0 else g.n * n)
      let b := (recB r, dtBytes o.dt (recK r * recN r))
      let c := (recC r, g.n * recM r * recN r * (if recOut r = 0 then 4 else 2))
      if o.kind ≠ CK.gatherMultiply then none
      else if recM r * recK r ≠ o.elems ∨ 1 < recOut r ∨ leField r 29 31 ≠ 0 ∨ hit c send ∨ hit c recv ∨ hit c b ∨ hit recv b then
        some Status.descMalformed
      else (ok b.1 b.2 false).orElse fun _ => ok c.1 c.2 true

/-- Read the tables that an operation needs before its handshake, then open the handshake or, in early-data mode, the
data phase. -/
def State.pumpTables (s : State) (h : Nat) : State :=
  match s.findGroup h with
  | none => s
  | some g =>
    match g.op with
    | none => s
    | some o =>
      if o.phase ≠ .tables then s
      else
        let as := s.collAs o
        let s := if o.kind = CK.allToAllV ∧ o.sendCounts.isNone then
            s.collStart h .counts (collAccess g as .counts o.aux (8 * g.n) false [] false) else s
        let s := if o.kind = CK.gatherMultiply ∧ o.record.isNone then
            s.collStart h .record (collAccess g as .record o.aux 32 false [] false) else s
        let s := match (s.findGroup h).bind (·.op) with
          | some o =>
            if (o.kind = CK.allToAllV ∧ o.sendCounts.isNone) ∨ (o.kind = CK.gatherMultiply ∧ o.record.isNone) ∨ o.bmat.isSome then s
            else match s.tablesFail g as o with
              | some c => s.collReject h c
              | none => s
          | none => s
        let s := match (s.findGroup h).bind (·.op) with
          | some o => match o.record, o.bmat with
            | some r, none =>
              s.collStart h .bmat (collAccess g as .bmat (recB r) (dtBytes o.dt (recK r * recN r)) false [] false)
            | _, _ => s
          | none => s
        match (s.findGroup h).bind (·.op) with
        | none => s
        | some o =>
          if (o.kind = CK.allToAllV ∧ o.sendCounts.isNone) ∨ (o.kind = CK.gatherMultiply ∧ o.bmat.isNone) then s
          else if earlyOf o then s.modColl h fun o => { o with phase := .data }
          else
            let s := s.modColl h fun o => { o with phase := .handshake }
            if o.kind = CK.allToAllV then
              (List.range g.n).foldl (fun s r =>
                if r = g.me then s
                else s.tell g r (.hsCount (BitVec.ofNat 64 o.seq) o.sig (BitVec.ofNat 64 ((o.sendCounts.getD []).getD r 0)))) s
            else s

/-- The verdict of a handshake (R232, R235): every member passes it on, and starts its data phase or ends. -/
def State.verdict (s : State) (h : Nat) (mism : Bool) (rank : Nat) : State :=
  match s.findGroup h with
  | none => s
  | some g =>
    match g.op with
    | none => s
    | some o =>
      let s := s.tellAll g (treeChildren g.me g.n) (.hsDown (BitVec.ofNat 64 o.seq) mism rank)
      if mism then s.endColl h Status.collMismatch rank 0
      else
        let counts := (List.range g.n).map fun r =>
          if r = g.me then (o.sendCounts.getD []).getD r 0
          else ((g.hsCounts.find? fun x => x.1 = o.seq && x.2.1 = r).map fun x => x.2.2.2).getD 0
        (s.modColl h fun o => { o with phase := .data, recvCounts := if o.kind = CK.allToAllV then counts else [] }).progress h

/-- Send HS_UP, or at rank 0 give the verdict, once every child, and in an ALL_TO_ALL_V every member, has reported. Of a child whose own
signature differs only the child is concerned: the ranks from which it differs are its counterparts, as in the example of four members,
where the one that posted another Datatype is named (DEDUCED, log entry 86). -/
def State.pumpHandshake (s : State) (h : Nat) : State :=
  match s.findGroup h with
  | none => s
  | some g =>
    match g.op with
    | none => s
    | some o =>
      let ups := g.hsUps.filter fun x => x.1 = o.seq
      let counts := g.hsCounts.filter fun x => x.1 = o.seq
      let kids := treeChildren g.me g.n
      let all := kids.all fun k => ups.any fun x => x.2.1 = k
      let vAll := o.kind ≠ CK.allToAllV || (List.range g.n).all fun r => r = g.me || counts.any fun x => x.2.1 = r
      if o.phase ≠ .handshake ∨ o.upSent ∨ !all ∨ !vAll then s
      else
        let bad := (ups.flatMap fun x => if x.2.2.1 ≠ o.sig then [x.2.1] else if x.2.2.2.1 then [x.2.2.2.2] else [])
          ++ (counts.filterMap fun x => if x.2.2.1 ≠ o.sig then some x.2.1 else none)
        let low := bad.min?
        let s := s.modColl h fun o => { o with upSent := true }
        if g.me = 0 then s.verdict h low.isSome (low.getD 0)
        else s.tell g (treeParent g.me) (.hsUp (BitVec.ofNat 64 o.seq) o.sig low.isSome (low.getD 0))

/-! ## The data phase -/

/-- The bytes of a unit as this member holds them now. -/
def CollOp.value (o : CollOp) (u : Nat) : Option (List Byte) := (assoc o.vals u).orElse fun _ => assoc o.own u

/-- A chunk has arrived whole and been taken into its unit. -/
def CollOp.used (o : CollOp) (g : Leg) (u : Nat) : Bool :=
  o.gots.any fun x => x.stage = g.stage && x.src = g.src && x.unit = u && x.used

def CollOp.sent (o : CollOp) (g : Leg) (u : Nat) : Option CollSend :=
  o.sends.find? fun x => x.stage = g.stage && x.dst = g.dst && x.unit = u

/-- Every chunk on a unit from an earlier stage has been taken in. -/
def CollOp.before (o : CollOp) (legs : List Leg) (me stage u : Nat) : Bool :=
  legs.all fun g => !(g.dst = me && g.stage < stage && g.units.contains u) || o.used g u

/-- A unit without bytes. -/
def emptyUnit (x : Shape) (o : CollOp) (u : Nat) : Bool := (recvRange x o u).2 = 0

/-- In an early-data ALL_TO_ALL_V, the receive counts are known once every other member's credit has come (R237; log entry
18). -/
def State.pumpCounts (s : State) (h : Nat) : State :=
  s.modGroup h fun g => { g with op := g.op.map fun o =>
    let from_ (r : Nat) : Option Nat :=
      if r = g.me then o.sendCounts.map fun c => c.getD r 0 else (assoc g.credits (o.seq, 0, r)).bind fun c => c.head?
    let cs := (List.range g.n).filterMap from_
    if o.kind = CK.allToAllV ∧ earlyOf o ∧ o.phase = .data ∧ o.recvCounts.isEmpty ∧ cs.length = g.n then
      { o with recvCounts := cs } else o }

/-- Read the own units not yet at hand (R226). -/
def State.pumpReads (s : State) (h : Nat) : State :=
  match s.findGroup h with
  | none => s
  | some g =>
    match g.op with
    | none => s
    | some o =>
      if o.phase ≠ .data then s
      else
        let x := s.shape g o
        let as := s.collAs o
        let recvLen := dtBytes o.dt o.recvCounts.sum
        let sendLen := dtBytes o.dt (o.sendCounts.getD []).sum
        let fresh := o.kind = CK.allToAllV && !o.countsDone && countsKnown x o
        if fresh ∧ recvLen ≠ 0 ∧ sendLen ≠ 0 ∧ o.send < o.recv + recvLen ∧ o.recv < o.send + sendLen then
          s.collFail h Status.descMalformed
        else match if fresh ∧ recvLen ≠ 0 then s.localRange g.slice as o.recv recvLen true else none with
        | some code => s.collFail h code
        | none =>
        let s := if o.kind = CK.allToAllV ∧ !o.countsDone ∧ countsKnown x o then
            s.collStart h .countsOut (collAccess g as .countsOut (o.aux + 8 * g.n) (8 * g.n) true
              (o.recvCounts.flatMap fun c => leBytes 8 c) false)
          else s
        (ownKeys x).foldl (fun s u =>
          match (s.findGroup h).bind (·.op) with
          | none => s
          | some o =>
            if (assoc o.own u).isSome then s
            else
              let (off, len) := sendRange x o u u
              if len = 0 then s.modColl h fun o => { o with own := assocSet o.own u [] }
              else s.collStart h (.own u) (collAccess g as (.own u) (o.send + off) len false [] false)) s

/-- Own units whose bytes are this member's result as they stand: its own block of a gather or an all-to-all, and the
root's of a broadcast. -/
def selfUnits (x : Shape) : List Nat :=
  if isDirectAll x.kind then [x.me]
  else if isGather x.kind then x.blockUnits x.me
  else if x.kind = CK.broadcast ∧ x.me = x.root then List.range x.units
  else []

def State.pumpSelf (s : State) (h : Nat) : State :=
  match s.findGroup h with
  | none => s
  | some g =>
    match g.op with
    | none => s
    | some o =>
      if o.phase ≠ .data then s
      else
        let x := s.shape g o
        (selfUnits x).foldl (fun s u => s.modColl h fun o =>
          if o.final.contains u then o
          else match assoc o.own u with
            | some b => { o with vals := assocSet o.vals u b, final := o.final ++ [u] }
            | none => o) s

/-- Credits that a downstream receiver has granted for a leg: the slots, in order. -/
def Group.creditsFor (g : Group) (seq stage dst : Nat) : List Nat := (assoc g.credits (seq, stage, dst)).getD []

/-- A chunk needs a credit (R237, R244). -/
def needsCredit (o : CollOp) (g : Leg) : Bool := g.slot || earlyOf o

/-- Some chunk on a unit reaches this member within level 3's reduction. -/
def crossIn (x : Shape) (u : Nat) : Bool := x.legs.any fun m => m.dst = x.me && m.cross && m.reduce && m.units.contains u

/-- A step of arithmetic on a unit is wanted: it stands behind the group's others, and no unit has two. -/
def State.wantJob (s : State) (h : Nat) (j : CollJob) : State :=
  s.modColl h fun o => if o.jobs.any fun k => k.unit = j.unit then o else { o with jobs := o.jobs ++ [j] }

/-- The bytes of a chunk as a leg carries them: compressed in level 3 with CrossCompress, the own contribution with feedback, partial
sums and results without (R281). What is not encoded yet is, granule by granule, before the chunk goes. -/
def State.legBytes (s : State) (h : Nat) (o : CollOp) (x : Shape) (l : Leg) (u : Nat) (bytes : List Byte) : State × Option (List Byte) :=
  if !l.cross then (s, some bytes)
  else
    let own := l.reduce && !crossIn x u
    match assoc (if own then o.entered else o.coded) u with
    | some b => (s, some b)
    | none => (s.wantJob h { unit := u, kind := if own then .enter else .code, rows := [], legs := [] }, none)

/-- Send one chunk to a rank (R236). -/
def State.sendChunk (s : State) (h : Nat) (l : Leg) (k u slot : Nat) (bytes : List Byte) : State :=
  match s.findGroup h with
  | none => s
  | some g =>
    match g.op, s.endTo g l.dst with
    | some o, some c =>
      let id := o.sends.length
      let x := s.shape g o
      match s.legBytes h o x l u bytes with
      | (s, none) => s
      | (s, some bytes) =>
      let ext : CollExt := { op := o.kind, stage := l.stage % 256, seq := BitVec.ofNat 32 o.seq, src := g.me, chunk := k, slot,
                             sig := if earlyOf o then some o.sig else none }
      let op : ConnOp := { id := 0, origin := .coll h id, kind := .write, length := bytes.length, localOffset := 0,
                           remote := mkFpa c.peer 0, key := 0, data := chunksOf c.payload bytes, coll := some ext }
      let s := s.modColl h fun o => { o with sends := o.sends ++ [⟨id, l.stage, l.dst, u, false⟩] }
      (s.post c op).kickSet c
    | _, _ => s

/-- The chunk of a leg may go: its value is complete for its stage, and it has a credit where it needs one. -/
def chunkReady (g : Group) (o : CollOp) (x : Shape) (legs : List Leg) (l : Leg) (k u : Nat) : Option (Nat × List Byte) :=
  let v := if isDirectAll x.kind then assoc o.own l.dst else o.value u
  let done := l.reduce || x.finisher u ≠ some g.me || !isReduce x.kind || o.final.contains u || l.slot
  let cs := g.creditsFor o.seq l.stage l.dst
  if (o.sent l u).isSome ∨ !o.before legs g.me l.stage u ∨ !done then none
  else if needsCredit o l then
    match cs[k]?, v with
    | some slot, some b => if b.isEmpty then none else some (if isDirectAll x.kind then 0xFFFF else slot, b)
    | _, _ => none
  else match v with
    | some b => if b.isEmpty then none else some (0xFFFF, b)
    | none => none

/-- Send every chunk that may go. -/
def State.pumpSends (s : State) (h : Nat) : State :=
  match s.findGroup h with
  | none => s
  | some g =>
    match g.op with
    | none => s
    | some o =>
      if o.phase ≠ .data then s
      else
        let x := s.shape g o
        let legs := x.legs
        (legs.filter fun l => l.src = g.me).foldl (fun s l =>
          l.units.zipIdx.foldl (fun s uk =>
            match s.findGroup h with
            | none => s
            | some g => match g.op with
              | none => s
              | some o =>
                match s.endTo g l.dst with
                | none => s
                | some c =>
                  if c.state ≠ .opened then s
                  else match chunkReady g o x legs l uk.2 uk.1 with
                    | some (slot, b) => s.sendChunk h l uk.2 uk.1 slot b
                    | none => s) s) s

/-- A slot has been given back: its chunk is reduced or copied, its forwarded chunk acknowledged, its result written. -/
def retired (o : CollOp) (x : Shape) (legs : List Leg) (l : Leg) (u : Nat) : Bool :=
  o.used l u
    && (legs.all fun m => !(m.src = x.me && m.slot && l.stage < m.stage && m.units.contains u)
        || (o.sent m u).any (·.acked))
    && (!(x.finals.contains u && x.finisher u = some x.me) || o.written.contains u)

/-- How many credits of an incoming leg may be out now (R244, R365): Depth beyond those given back, and for a chunk to be
forwarded only with a downstream credit for it. In end-point mode the chunks of the receive buffer stand for the slots (R243). In an
early-data operation, chunks that need no slot get theirs at once
(R237). -/
def creditsDue (g : Group) (o : CollOp) (x : Shape) (legs : List Leg) (l : Leg) : Nat :=
  if !l.slot then l.units.length
  else
    let back := (l.units.filter fun u => retired o x legs l u).length
    let open_ (u : Nat) : Bool :=
      legs.all fun m => !(m.src = x.me && m.slot && l.stage < m.stage && m.units.contains u)
        || decide (m.units.idxOf u < (g.creditsFor o.seq m.stage m.dst).length)
    let room := if g.endpoint then max 1 x.finals.length else g.params.depth
    min (l.units.takeWhile open_).length (room + back)

/-- Grant the credits that are due. In an early-data ALL_TO_ALL_V the credit carries the count that this member sends
(R237; log entry 18). -/
def State.pumpCredits (s : State) (h : Nat) : State :=
  match s.findGroup h with
  | none => s
  | some g =>
    match g.op with
    | none => s
    | some o =>
      if o.phase ≠ .data then s
      else
        let x := s.shape g o
        let legs := x.legs
        (legs.filter fun l => l.dst = g.me && needsCredit o l).foldl (fun s l =>
          match s.findGroup h with
          | none => s
          | some g => match g.op with
            | none => s
            | some o =>
              let have_ := (assoc o.granted (l.stage, l.src)).getD 0
              let due := creditsDue g o x legs l
              if due ≤ have_ then s
              else
                let word := if o.kind = CK.allToAllV then (o.sendCounts.getD []).getD l.src 0 else have_ % 65535
                let s := s.modColl h fun o => { o with granted := assocSet o.granted (l.stage, l.src) due }
                s.tell g l.src (.credit (BitVec.ofNat 64 o.seq) l.stage (due - have_) word)) s

/-- Bytes of a whole chunk, in order. -/
def CollGot.whole_ (y : CollGot) : List Byte := (y.bytes.mergeSort fun a b => a.1 ≤ b.1).flatMap (·.2)

/-- A chunk's contributions have been taken into its unit. -/
def CollOp.take_ (o : CollOp) (u : Nat) (legs : List (Nat × Nat)) : CollOp :=
  let mark (y : CollGot) : CollGot := if y.unit = u && legs.contains (y.stage, y.src) then { y with used := true, bytes := [] } else y
  { o with gots := o.gots.map mark }

def CollOp.finish (o : CollOp) (u : Nat) : CollOp := { o with final := if o.final.contains u then o.final else o.final ++ [u] }

def CollOp.wrote (o : CollOp) (u : Nat) : CollOp := { o with written := if o.written.contains u then o.written else o.written ++ [u] }

/-- Take a whole copied chunk into its unit. One that came compressed is decoded first, and goes on as it came. -/
def State.takeCopy (s : State) (h : Nat) (x : Shape) (l : Leg) (y : CollGot) : State :=
  if l.cross then
    let job : CollJob := { unit := y.unit, kind := .decode, rows := [], legs := [(y.stage, y.src)] }
    (s.modColl h fun o => if o.jobs.any fun k => k.unit = y.unit then o else { o with coded := assocSet o.coded y.unit y.whole_ }).wantJob h job
  else
    s.modColl h fun o =>
      let o := o.take_ y.unit [(y.stage, y.src)]
      let o : CollOp := { o with vals := if isDirectAll x.kind then o.vals else assocSet o.vals y.unit y.whole_ }
      let o := if l.slot then o else o.finish y.unit
      if !l.slot && x.finals.contains y.unit then o.wrote y.unit else o

/-- Where the running sum of a unit lies in the receive buffer, in end-point mode (R243): the place of its result, or in a
REDUCE_SCATTER the chunk of the block that it has in turn. -/
def inPlaceAt (x : Shape) (o : CollOp) (u : Nat) : Nat := o.recv + (recvRange x o u).1

/-- The sum is formed in place, under a locked sequence of the memory port: the receive buffer lies in near memory. -/
def State.sumsInPlace (s : State) (g : Group) (x : Shape) (o : CollOp) (u : Nat) : Bool :=
  g.endpoint && s.area (inPlaceAt x o u) = .near

/-- The place of a unit's running sum is free: every unit that has it in an earlier stage has been added to and sent on. -/
def inTurn (x : Shape) (o : CollOp) (legs : List Leg) (l : Leg) (u : Nat) : Bool :=
  (legs.filter fun m => m.dst = x.me && m.reduce && decide (m.stage < l.stage)).all fun m =>
    (m.units.filter fun v => inPlaceAt x o v = inPlaceAt x o u).all fun v =>
      o.used m v && (o.sends.filter fun y => y.unit = v).all (·.acked)
        && (legs.filter fun n => n.src = x.me && decide (m.stage < n.stage) && n.reduce && n.units.contains v).all fun n => (o.sent n v).isSome

/-- Put the own contribution of a unit where its sum is formed in place (R243), unless it stands there: it was sent from there. -/
def State.placeOwn (s : State) (h : Nat) (g : Group) (x : Shape) (o : CollOp) (u : Nat) (v : List Byte) : State × Bool :=
  if o.placed.contains u ∨ (o.kind = CK.allReduce ∧ o.send = o.recv) then (s, true)
  else
    let s := s.collStart h (.inPlace u) (collAccess g (s.collAs o) (.inPlace u) (inPlaceAt x o u) v.length true v false)
    (s, ((s.findGroup h).bind (·.op)).any fun o => o.placed.contains u)

/-- Start a reduction step on a unit with the contributions that stand ready (R260). In level 3 the own contribution enters first
(R281); in end-point mode it is put in its place first (R243). -/
def State.reduceUnit (s : State) (h : Nat) (g : Group) (x : Shape) (legs : List Leg) (l : Leg) (o : CollOp) (u : Nat) (v : List Byte)
    (ready : List CollGot) : State :=
  let dt := if l.cross then g.params.crossFormat else o.dt
  let j : CollJob := { unit := u, rows := ready.map fun z => (dt, z.whole_), legs := ready.map fun z => (z.stage, z.src), cross := l.cross }
  if l.cross ∧ (assoc o.entered u).isNone then s.wantJob h { unit := u, kind := .enter, rows := [], legs := [] }
  else if !s.sumsInPlace g x o u then s.wantJob h j
  else if !inTurn x o legs l u then s
  else match s.placeOwn h g x o u v with
    | (s, true) => s.wantJob h j
    | (s, false) => s

/-- Take whole copied chunks into their units, and start a reduction step on each unit for which contributions stand ready
(R260). A unit takes what arrives in the order of the plan's stages. -/
def State.pumpJobs (s : State) (h : Nat) : State :=
  match s.findGroup h with
  | none => s
  | some g =>
    match g.op with
    | none => s
    | some o =>
      if o.phase ≠ .data then s
      else
        let x := s.shape g o
        let legs := x.legs
        let legOf (y : CollGot) : Option Leg := legs.find? fun l => l.dst = g.me && l.stage = y.stage && l.src = y.src
        (o.gots.filter fun y => y.whole && !y.used).foldl (fun s y =>
          match legOf y, (s.findGroup h).bind (·.op) with
          | some l, some o =>
            if !o.before legs g.me y.stage y.unit then s
            else if !l.reduce then s.takeCopy h x l y
            else if o.jobs.any fun j => j.unit = y.unit then s
            else match o.value y.unit with
              | none => s
              | some v =>
                s.reduceUnit h g x legs l o y.unit v (o.gots.filter fun z => z.whole && !z.used && z.unit = y.unit
                  && (legOf z).any (fun m => m.reduce && m.cross = l.cross) && o.before legs g.me z.stage z.unit)
          | _, _ => s) s

/-- Write the results that are at hand into the receive buffer. -/
def State.pumpWrites (s : State) (h : Nat) : State :=
  match s.findGroup h with
  | none => s
  | some g =>
    match g.op with
    | none => s
    | some o =>
      if o.phase ≠ .data ∨ !countsKnown (s.shape g o) o then s
      else
        let x := s.shape g o
        let as := s.collAs o
        x.finals.foldl (fun s u =>
          match (s.findGroup h).bind (·.op) with
          | none => s
          | some o =>
            if o.written.contains u then s
            else if emptyUnit x o u then s.modColl h fun o => { o with written := o.written ++ [u] }
            else if !o.final.contains u then s
            else match o.value u with
              | none => s
              | some b =>
                if discards o then s.modColl h fun o => { o with written := o.written ++ [u] }
                else s.collStart h (.out u) (collAccess g as (.out u) (o.recv + (recvRange x o u).1) b.length true b false)) s

/-- Signal the pieces whose bytes are all placed (R245). -/
def State.pumpPieces (s : State) (h : Nat) : State :=
  match s.findGroup h with
  | none => s
  | some g =>
    match g.op with
    | none => s
    | some o =>
      if o.phase ≠ .data ∨ (o.kind = CK.allToAllV ∧ !o.countsDone) ∨ !countsKnown (s.shape g o) o then s
      else
        let x := s.shape g o
        (List.range x.pieces).foldl (fun s p =>
          match s.findGroup h with
          | none => s
          | some g => match g.op with
            | none => s
            | some o =>
              let ready := (x.pieceUnits p).all (fun u => o.written.contains u)
                && (o.kind ≠ CK.gatherMultiply || o.rows.contains p || (x.pieceUnits p).isEmpty)
              if !ready ∨ o.pieces.contains p ∨ o.flagging.contains p then s
              else
                let s := match o.lace with
                  | some k => s.laceUp g.slice g.gen k 1
                  | none => s
                if g.params.flags / 4 % 2 = 1 ∧ p < g.params.flagCount then
                  let s := s.modColl h fun o => { o with flagging := o.flagging ++ [p] }
                  s.collStart h (.flag p) (collAccess g (s.collAs o) (.flag p) (g.params.flagBase + 8 * p) 8 true
                    (leBytes 8 o.seq) true)
                else s.pieceDone h p) s

/-- Bytes that this member's receive buffer gets. -/
def resultBytes (x : Shape) (o : CollOp) : Nat :=
  if discards o then 0 else (x.finals.map fun u => (recvRange x o u).2).sum

/-- Complete the operation once everything is signalled and acknowledged and every chunk granted has come (R247), or once a stopped one has drained (R237). -/
def State.pumpDone (s : State) (h : Nat) : State :=
  match s.findGroup h with
  | none => s
  | some g =>
    match g.op with
    | none => s
    | some o =>
      let acked := o.sends.all (·.acked)
      if o.phase = .stopping then
        match o.stop with
        | some (st, d) => if acked then s.endColl h st d 0 else s
        | none => s
      else if o.phase ≠ .data then s
      else
        let x := s.shape g o
        let sentAll := (x.legs.filter fun l => l.src = g.me).all fun l =>
          l.units.all fun u => (o.sent l u).isSome || (sendRange x o u l.dst).2 = 0
        let countsOk := o.kind ≠ CK.allToAllV || o.countsDone
        let gotAll := (x.legs.filter fun l => l.dst = g.me).all fun l => l.units.all fun u => o.used l u || emptyUnit x o u
        if acked ∧ sentAll ∧ gotAll ∧ countsOk ∧ o.pieces.length = x.pieces then s.endColl h Status.success 0 (resultBytes x o)
        else s

/-- Carry an operation as far as what is at hand allows. -/
def State.collPump (s : State) (h : Nat) : State :=
  let s := (s.pumpTables h).pumpHandshake h
  let s := ((((s.pumpCounts h).pumpReads h).pumpSelf h).pumpCredits h).pumpJobs h
  let s := (s.pumpSends h).pumpWrites h
  (s.pumpPieces h).pumpDone h

/-- An access of a group has ended. -/
def State.collAccessEnded (s : State) (h : Nat) (what : CollUse) (r : AccOut) : State :=
  match r with
  | .done b => (s.collDelivered h what b).collPump h
  | .fail c => s.collFail h c
  | _ => s

/-- The end of a chunk that leaves its operation waiting: the end to its rank has failed, or the sends were stopped (R238). -/
def leavesWaiting (st : Status) : Bool :=
  st = Status.peerUnreachable || st = Status.remoteSliceGone || st = Status.collAborted

/-- A chunk sent has ended: acknowledged, or refused with COLL_MISMATCH, which starts a MISMATCH (R244), or failed with another code,
which ends the operation here (R241). -/
def State.chunkEnded (s : State) (h id : Nat) (st : Status) : State :=
  match s.findGroup h with
  | none => s
  | some g =>
    match g.op with
    | none => s
    | some o =>
      let closed := st = Status.success || st = Status.collMismatch || o.phase = .stopping
      let s := if closed then
          s.modColl h fun o => { o with sends := updWhere (fun x => x.id = id) (fun x => { x with acked := true }) o.sends }
        else s
      let s := if st = Status.collMismatch then s.collMismatch h o.seq g.me none
        else if closed || leavesWaiting st then s else s.collFail h st
      s.collPump h

/-! ## Arriving chunks (R236, R237, R244) -/

/-- Where a chunk lands in local memory: lookup, translation and check with the context of the operation's queue (R236). -/
def State.landing (s : State) (c : Conn) (as off len : Nat) : State × Inbound :=
  let (s, hit) := s.lookup c.home c.slice off len
  match hit.bind fun h => (s.range c.slice h.1).map fun e => (h, e) with
  | none => (s, .refused Status.localAccess)
  | some ((slot, inc), e) =>
    let check (s : State) : State × Inbound :=
      match s.check c.slice as slot inc 1 none off len with
      | .ok e => (s, .ok e)
      | .error f => (s, .refused f.localCode)
    if e.tier.port.isNone then check s
    else
      let (f, pasid) := s.carrier e
      let iova := e.target + (off - e.start)
      match s.hostBlocked f e.pathTag with
      | some code => (s, .refused code)
      | none =>
        match (pagesOf iova len).find? fun p => (s.translated c.home f pasid p true).isNone with
        | some p =>
          let (s, id) := s.sendAts c.slice c.home f pasid p ((e.target + e.length - 1) / 4096 * 4096)
          (s, .hold (.ats id))
        | none => check s

/-- The incoming leg and unit that a COLL extension names: the first leg of its stage and source whose chunk is not whole
yet (log entry 17). -/
def chunkOf (g : Group) (o : CollOp) (x : Shape) (e : CollExt) : Option (Leg × Nat) :=
  (x.legs.filter fun l => l.dst = g.me && l.src = e.src && l.stage % 256 = e.stage).findSome? fun l =>
    match l.units[e.chunk]? with
    | some u => if o.gots.any fun y => y.stage = l.stage && y.src = l.src && y.unit = u && y.whole then none else some (l, u)
    | none => none

/-- Note bytes of a chunk. -/
def State.noteChunk (s : State) (h : Nat) (l : Leg) (u total off : Nat) (bytes : List Byte) : State :=
  s.modColl h fun o =>
    let fresh := !(o.gots.any fun y => y.stage = l.stage && y.src = l.src && y.unit = u)
    let gots := if fresh then o.gots ++ [{ stage := l.stage, src := l.src, unit := u, total }] else o.gots
    let add (y : CollGot) : CollGot :=
      let bs := y.bytes ++ [(off, bytes)]
      { y with bytes := bs, whole := decide (total ≤ ((bs.map fun b => b.2.length).sum)) }
    { o with gots := updWhere (fun y => y.stage = l.stage && y.src = l.src && y.unit = u) add gots }

/-- A chunk without a valid credit, or of no operation in progress, is refused (R244). -/
def State.refuseChunk (s : State) (c : Conn) (a : Arrival) (home : Nat) : State :=
  ((s.bump .cluCollStatNoCredit home).loseMsg c a.pkt).refuse c.index a.pkt [a.pkt.psn] Status.collMismatch

/-- An arriving DATA packet with a COLL extension. -/
def State.takeChunk (s : State) (c : Conn) (a : Arrival) (e : CollExt) : State :=
  let p := a.pkt
  match c.group.bind s.findGroup, p.addr with
  | some g, some ad =>
    match g.op with
    | none => s.refuseChunk c a g.home
    | some o =>
      if BitVec.ofNat 32 o.seq ≠ e.seq ∨ o.phase = .tables ∨ o.phase = .stopping then s.refuseChunk c a g.home
      else if earlyOf o ∧ e.sig ≠ some o.sig then s.collMismatch g.handle o.seq g.me none
      else
        let x := s.shape g o
        match chunkOf g o x e with
        | none => s.refuseChunk c a g.home
        | some (l, u) =>
          let granted := (assoc o.granted (l.stage, l.src)).getD 0
          let slot := if isDirectAll o.kind then 0xFFFF else e.chunk % 65535
          if needsCredit o l ∧ (granted ≤ e.chunk ∨ e.slot ≠ slot) then s.refuseChunk c a g.home
          else if !countsKnown x o then s.turnAway c a [p.psn] (.hold (.counts g.handle))
          else
            let off := fpaOffset ad.fpa.toNat
            let lands := !l.slot && !l.cross && x.finals.contains u && !discards o
            let take (s : State) (path : Option (Nat × Nat)) : State :=
              (((s.noteChunk g.handle l u ad.msgLen off (s.plain c p)).progress g.handle).dataPlaced c a path).collPump g.handle
            if !lands then
              match badByte a .near with
              | some _ => (s.transferUe (bitsOf (Config.freeBits s.freeCount) 38 0)).advanceFree   -- the slot's place is the device's own
              | none => take s none
            else
              let at_ := o.recv + (recvRange x o u).1 + off
              match s.landing c (s.collAs o) at_ p.payload.length with
              | (s, .ok r) =>
                match badByte a r.tier with
                | some k => s.transferUe (at_ + k)
                | none =>
                match s.placeBytes c r at_ (s.plain c p) with
                | (s, .done _) => take s (r.tier.port.map fun x => (x, r.pathTag))
                | (s, .fail st) => s.collFail g.handle st
                | (s, _) => s.turnAway c a [p.psn] (.hold ((s.placeWaits c r at_ p.payload.length).getD .logRoom))
              | (s, .hold on) => s.turnAway c a [p.psn] (.hold on)
              | (s, .refused st) => s.collFail g.handle st
              | (s, _) => s
  | _, _ => s.refuseChunk c a c.home

end Sys2Proof.Machine
end

