-- ==== Sys2Proof/Machine/CollStart.lean ====
section
/-! DEFINITION. Starting a collective operation: the operands of COLL (R225), its checks (R228), the resolution of its
algorithm (R229), and its start (R223), for COLL and for the steps of LOWRANK (R285). -/

namespace Sys2Proof.Machine

namespace Desc
def collGroup (d : Desc) : Nat := leField d 16 17 % 4096
def collOp (d : Desc) : Nat := byte d 18
def collDt (d : Desc) : Nat := byte d 19
def collRed (d : Desc) : Nat := byte d 20
def collAlg (d : Desc) : Nat := byte d 21
def collFlags (d : Desc) : Nat := byte d 22
def collCount (d : Desc) : Nat := f64 d 24
def collSend (d : Desc) : Nat := f64 d 32
def collRecv (d : Desc) : Nat := f64 d 40
def collRoot (d : Desc) : Nat := leField d 48 49
def collLace (d : Desc) : Option Nat := laceRef d 52
def collAux (d : Desc) : Nat := f64 d 56
end Desc

/-- The operation that a COLL descriptor asks for. -/
def collOf (q : Nat) (count : Word32) (d : Desc) : CollOp :=
  { q, count, seq := 0, kind := Desc.collOp d, alg := Desc.collAlg d, dt := Desc.collDt d, red := Desc.collRed d,
    flags := Desc.collFlags d, elems := Desc.collCount d, send := Desc.collSend d, recv := Desc.collRecv d,
    root := Desc.collRoot d, aux := Desc.collAux d, lace := Desc.collLace d }

/-! ## Algorithms (R229) -/

/-- The group allows the algorithm and the operation admits it. -/
def Group.allows (g : Group) (kind alg : Nat) : Bool :=
  decide (1 ≤ alg ∧ alg ≤ 5) && g.params.algorithms.testBit (alg - 1) && admits kind alg

/-- The east chain neighbour of a node: the next Valid record by position, cyclically (R359, R360). -/
def RouteBank.eastOf (b : RouteBank) (node : Nat) : Option Nat :=
  let ring := ((b.chain.filter fun x => x.2.valid).mergeSort fun x y => x.2.pos ≤ y.2.pos).map (·.1)
  if ring.contains node ∧ 1 < ring.length then ring[(ring.idxOf node + 1) % ring.length]? else none

/-- Every rank's successor is its east chain neighbour. -/
def State.chainOrdered (s : State) (g : Group) : Bool :=
  match s.activeBank with
  | none => false
  | some b =>
    g.members.zipIdx.all fun x =>
      let next := (g.members.getD ((x.2 + 1) % g.members.length) (0, 0)).1
      sameGroup x.1.1 s.coord && sameGroup next s.coord && b.eastOf (coordNode x.1.1) = some (coordNode next)

/-- The algorithm of an operation: the one named, or the first rule of R229 that applies. -/
def State.resolveAlg (s : State) (g : Group) (kind alg dt elems : Nat) : Option Nat :=
  if alg ≠ 0 then (if g.allows kind alg then some alg else none)
  else
    let cs := g.members.map (·.1)
    let first := cs.headD 0
    let rules : List (Bool × Nat) :=
      [(kind = CK.barrier, CA.managerTree), (isDirectAll kind, CA.direct),
       (cs.any fun c => coordSite c ≠ coordSite first, CA.hierarchical), (s.chainOrdered g, CA.chainRing),
       (cs.all (sameGroup first) && dtBytes dt elems ≤ 1048576, CA.managerTree), (true, CA.fabricRing)]
    (rules.find? fun r => r.1 && g.allows kind r.2).map (·.2)

/-- An end-point mode member cannot take part: Manager Tree, and levels 2 and 3 of Hierarchical, where the group has them and this
member represents its hall or its site there (R230, R243). -/
def endpointBars (g : Group) (x : Shape) : Bool :=
  g.endpoint && (x.alg = CA.managerTree || (x.alg = CA.hierarchical &&
    ((decide (1 < (x.reps x.hallRep).length) && x.hallRep x.me = x.me) || (decide (1 < (x.reps x.siteRep).length) && x.siteRep x.me = x.me))))

/-! ## Checks (R228) -/

/-- The codes and reserved bits of a COLL descriptor are in range. -/
def collFields (d : Desc) (n laceQuota : Nat) : Bool :=
  let k := Desc.collOp d
  let dt := Desc.collDt d
  let red := Desc.collRed d
  decide (leField d 16 17 < 4096 ∧ 1 ≤ k ∧ k ≤ 8 ∧ dt ≤ 9 ∧ red ≤ 3 ∧ Desc.collAlg d ≤ 5 ∧ Desc.collFlags d < 16)
    && zeroBytes d 23 23 && zeroBytes d 50 51 && zeroBits d 52 30 18
    && (Desc.collLace d).all (fun c => c < laceQuota)
    && (if isReduce k then !(isInt dt && red = 3) else red = 0)
    && (!(k = CK.allToAllV || k = CK.barrier) || Desc.collCount d = 0)
    && (!isMx dt || Desc.collCount d % 32 = 0)
    && (if k = CK.broadcast then decide (Desc.collRoot d < n) else Desc.collRoot d = 0)
    && (k = CK.allToAllV || k = CK.gatherMultiply || Desc.collAux d = 0)
    && (k ≠ CK.gatherMultiply || dt = DT.bf16 || dt = DT.e4m3 || dt = DT.e5m2 || isMx dt)

/-- Bytes of the send and receive buffers, where the descriptor gives them. -/
def collBuffers (o : CollOp) (n me : Nat) : Nat × Nat :=
  let b := dtBytes o.dt o.elems
  if o.kind = CK.allToAll then (n * b, n * b)
  else if o.kind = CK.reduceScatter then (n * b, b)
  else if o.kind = CK.allReduce then (b, b)
  else if o.kind = CK.allGather then (b, n * b)
  else if o.kind = CK.gatherMultiply then (b, if o.recv = 0 then 0 else n * b)
  else if o.kind = CK.broadcast then (if me = o.root then b else 0, b)
  else (0, 0)

/-- Two ranges share a byte. -/
def overlaps (a b : Nat × Nat) : Bool := a.2 ≠ 0 && b.2 ≠ 0 && a.1 < b.1 + b.2 && b.1 < a.1 + a.2

/-- A range of the slice fails R79; none where it has no byte. -/
def State.bufferFails (s : State) (slice as : Nat) (r : Nat × Nat) (write : Bool) : Option Status :=
  if r.2 = 0 then none else s.localRange slice as r.1 r.2 write

/-- The checks that complete a COLL descriptor at its start, and otherwise its resolved algorithm. -/
def State.collCheck (s : State) (slice as : Nat) (g : Group) (o : CollOp) (fieldsOk : Bool) : Except Status Nat :=
  let n := g.n
  let (sb, rb) := collBuffers o n g.me
  let send := (o.send, sb)
  let recv := (o.recv, rb)
  let inPlace := (o.kind = CK.allReduce || o.kind = CK.broadcast) && o.send = o.recv
  if !fieldsOk then .error Status.descMalformed
  else if earlyOf o ∧ !(g.params.flags.testBit 1) then .error Status.descMalformed
  else if o.flags.testBit 1 ∧ g.params.crossFormat = 0 then .error Status.descMalformed
  else if overlaps send recv ∧ !inPlace then .error Status.descMalformed
  else match s.resolveAlg g o.kind o.alg o.dt o.elems with
    | none => .error Status.descMalformed
    | some alg =>
      if endpointBars g (s.shape g { o with alg := alg }) then .error Status.descMalformed
      else
        let tables := if o.kind = CK.allToAllV then
            (s.bufferFails slice as (o.aux, 8 * n) false).orElse fun _ => s.bufferFails slice as (o.aux + 8 * n, 8 * n) true
          else if o.kind = CK.gatherMultiply ∧ o.record.isNone then s.bufferFails slice as (o.aux, 32) false else none
        match ((s.bufferFails slice as send false).orElse fun _ => s.bufferFails slice as recv true).orElse fun _ => tables with
        | some c => .error c
        | none => .ok alg

/-! ## Start (R223, R285) -/

/-- A LOWRANK holds the group's next sequences: its last collective operation has not ended. -/
def State.lowrankHolds (s : State) (h : Nat) : Bool :=
  s.work.services.any fun v => v.opcode = Op.lowrank && v.stage = 3 && v.step ≤ 7 && leField v.rec_ 82 83 % 4096 = h

/-- Start an operation under a sequence number. One that needs arithmetic that is out of service fails at once (R30). -/
def State.collBegin (s : State) (h : Nat) (o : CollOp) : State :=
  let set (g : Group) : Group := { g with op := some { o with sig := signature g o }, state := .active }
  let s := (s.modGroup h set).progress h
  match s.findGroup h with
  | none => s
  | some g =>
    let noTile := (List.range 8).all s.arithOutOf
    if ((isReduce o.kind ∨ (s.shape g o).crosses) ∧ s.arithOutOf g.home) ∨ (o.kind = CK.gatherMultiply ∧ noTile) then
      s.collFail h Status.residueFault
    else if earlyOf o then
      match g.mism.find? fun m => m.1 = o.seq with
      | some m => s.endColl h Status.collMismatch m.2 0
      | none => s.collPump h
    else s.collPump h

end Sys2Proof.Machine
end

