-- ==== Sys2Proof/Machine/CtrlOps.lean ====
section
/-! DEFINITION. Arriving control messages: node-scope ones and their replies (R163), guarded ones (R440 to R442), and those
of connection ends (R164, R232 to R240, R430). -/

namespace Sys2Proof.Machine

def ctrlSeqOf (p : Packet) : Word32 := (p.ctrl.map (·.seq)).getD 0
def subtypeOf (p : Packet) : Nat := (p.ctrl.map (·.subtype)).getD 0

/-! ## Guarded messages (R442) -/

/-- What the receiver makes of a guarded message. -/
inductive Guarded where
  | fresh | again | drop
deriving DecidableEq, Repr

/-- Take a sender's counter as accepted; of 128 senders the least recently used gives way. -/
def State.guardNote (s : State) (src : Coord) (alive : Word32) : State :=
  let rest := s.trans.guardRx.filter fun x => x.1 ≠ src
  { s with trans.guardRx := rest.drop (rest.length - 127) ++ [(src, alive)] }

/-- ALIVE_GAP: counted, and GUARD_FAULT is written to slice 0 (R443). -/
def State.aliveGap (s : State) (src : Coord) (subtype : Nat) (alive last : Word32) : State :=
  (s.bump .cluChkStatAliveGap 0).raise
    { slice := 0, code := EventCode.guardFault, object := src.toNat, info := subtype,
      detail := alive.toNat * 2 ^ 32 + last.toNat }

/-- Length, TFlags and CheckValue fit the payload (R440). -/
def trailerFits (t : Trailer) (payload : List Byte) : Bool :=
  decide (t.length = payload.length ∧ t.tflags &&& 0xFE#8 = 0 ∧ t.check = crc64 payload)

/-- The outcomes of R442, in the order of its table. -/
def State.guardCheck (s : State) (src : Coord) (subtype : Nat) (payload : List Byte) (t : Trailer) : State × Guarded :=
  let last := assoc s.trans.guardRx src
  if !trailerFits t payload then (s.bump .cluChkStatMismatches 0, .drop)
  else if last = some t.alive then (s.bump .cluChkStatAliveRepeat 0, .again)
  else if t.tflags.getLsbD 0 ∨ last.map (· + 1) = some t.alive then (s.guardNote src t.alive, .fresh)
  else (s.aliveGap src subtype t.alive (last.getD 0), .drop)

/-! ## Node-scope messages (R163) -/

/-- A reply or an acknowledgement: its CtrlSeq is the receiver's own, and it is not acknowledged (R163, R164). -/
def isReply (subtype : Nat) : Bool := [0x11, 0x12, 0x14, 0x31, 0x46, 0x51, 0x54, 0x56, 0x61].contains subtype

/-- The message has been received before: a reply never counts as a repeat of a message with its CtrlSeq. -/
def State.isRepeat (s : State) (p : Packet) (src : Coord) : Bool :=
  !isReply (subtypeOf p) && (s.seenCtrl src (ctrlSeqOf p)).isSome

/-- Give the reply already given to a message again. -/
def State.replyAgain (s : State) (a : Arrival) (src : Coord) (seq : Word32) : State :=
  match s.seenCtrl src seq with
  | some (m, g) => if s.isRepeat a.pkt src then s.sendReply a src m seq g else s
  | none => s

/-- A node-scope message arrives: checks 1 and 2 of R170, then its handler, once. -/
def State.nodeCtrl (s : State) (a : Arrival) (act : State → Coord → Word32 → State) : State :=
  match (s.takeIn a).frontChecks a with
  | (s, false) => s
  | (s, true) =>
    match s.sender a with
    | none => s
    | some src =>
      let seq := ctrlSeqOf a.pkt
      if s.isRepeat a.pkt src then s.replyAgain a src seq else act s src seq

/-- A guarded node-scope message arrives: R442 decides before the handler. -/
def State.guardedCtrl (s : State) (a : Arrival) (m : CtrlMsg) (t : Trailer) (act : State → Coord → Word32 → State) : State :=
  match (s.takeIn a).frontChecks a with
  | (s, false) => s
  | (s, true) =>
    match s.sender a with
    | none => s
    | some src =>
      match s.guardCheck src (subtypeOf a.pkt) m.body t with
      | (s, .drop) => s
      | (s, .again) => s.replyAgain a src (ctrlSeqOf a.pkt)
      | (s, .fresh) => act s src (ctrlSeqOf a.pkt)

/-! ## Messages of ends -/

/-- Answer a message of an end: sent once. -/
def State.replyEnd (s : State) (c : Conn) (m : CtrlMsg) (seq : Word32) : State :=
  s.sendC7 c.peer c.hash 0 (fun p => .ctrl p m none)
    { s.endPacket c .ctrl with last := true, ctrl := some ⟨m.subtype, seq⟩ } c.slice (some c.index)

/-- The engines of a cluster abandon what is left of a slot's block (R427). -/
def State.abandonBlock (s : State) (home slice slot : Nat) : State :=
  let drop (l : List EngineSlot) : List EngineSlot :=
    updWhere (fun x => x.slice = slice && x.slot = slot) (fun x => { x with left := 0 }) l
  { s with keys.engines := vmod (vmod s.keys.engines (2 * home) drop) (2 * home + 1) drop }

/-- Set the send or receive slot of every member of a set (R430). What is left of the block of the slot that it leaves is abandoned
(R427). -/
def State.setSlots (s : State) (c : Conn) (send : Bool) (slot : Nat) : State :=
  let s : State := match send, c.sendSlot with
    | true, some old => if old = slot then s else (s.members c).foldl (fun (s : State) m => s.abandonBlock m.home c.slice old) s
    | _, _ => s
  (s.members c).foldl (fun (s : State) m => s.modConn m.index fun c =>
    if send then { c with sendSlot := some slot } else { c with recvSlot := some slot }) s

/-- REKEY at the peer: the StreamRecv slot with the KeyId, if a Loaded one has it (R430 step 2). Answers the status. -/
def State.takeRekey (s : State) (c : Conn) (keyId : Word32) : State × Nat :=
  match s.keys.slots.find? fun k => k.slice = c.slice && k.kind = 2 && k.state = .loaded && k.keyId = keyId with
  | some k => (s.setSlots c false k.slot, 0)
  | none => (s, 1)

/-- REKEY_ACK: CONN_REKEY ends, and what waited to send goes on (R430 step 3). -/
def State.rekeyAnswered (s : State) (c : Conn) (status : Nat) : State :=
  let first := s.firstOf c
  match first.rekey with
  | none => s
  | some (slice, tag, slot) =>
    let mine (o : CtrlOut) : Bool := o.conn = some first.index && (match o.msg with | .rekey _ => true | _ => false)
    let s := (s.dropCtrl mine).modConn first.index fun c => { c with rekey := none }
    let s := if status = 0 then (s.setSlots first true slot).respond (slice, tag) Status.success []
      else s.respond (slice, tag) Status.noResources []
    s.kickSet first

/-- The lowest sequence that a group still takes messages for. -/
def Group.floor (g : Group) : Nat :=
  match g.op with
  | some o => o.seq
  | none => g.nextSeq

/-- A message concerns the operation in progress. -/
def Group.current (g : Group) (seq : Nat) : Bool := g.op.any fun o => o.seq = seq

/-- A message of the current operation is progress (R239); then the operation goes on. -/
def State.groupOn (s : State) (g : Group) (seq : Nat) : State :=
  (if g.current seq then s.progress g.handle else s).collPump g.handle

/-- HS_UP from a child (R232). -/
def State.takeHsUp (s : State) (g : Group) (r : Nat) (seq sig : Word64) (mism : Bool) (rank : Nat) : State :=
  if seq.toNat < g.floor ∨ g.hsUps.any (fun x => x.1 = seq.toNat && x.2.1 = r) then s
  else (s.modGroup g.handle fun g => { g with hsUps := g.hsUps ++ [(seq.toNat, r, sig, mism, rank)] }).groupOn g seq.toNat

/-- HS_DOWN: the verdict. -/
def State.takeHsDown (s : State) (g : Group) (seq : Word64) (mism : Bool) (rank : Nat) : State :=
  if g.op.any fun o => o.seq = seq.toNat && o.phase = .handshake then
    ((s.progress g.handle).verdict g.handle mism rank).collPump g.handle
  else s

/-- HS_COUNT from a member (R233). -/
def State.takeHsCount (s : State) (g : Group) (r : Nat) (seq sig count : Word64) : State :=
  if seq.toNat < g.floor ∨ g.hsCounts.any (fun x => x.1 = seq.toNat && x.2.1 = r) then s
  else (s.modGroup g.handle fun g => { g with hsCounts := g.hsCounts ++ [(seq.toNat, r, sig, count.toNat)] }).groupOn g seq.toNat

/-- CREDIT from a receiver (R244): so many more chunks of a stage, from a slot on. -/
def State.takeCredit (s : State) (g : Group) (r : Nat) (seq : Word64) (stage credits slot : Nat) : State :=
  if seq.toNat < g.floor ∨ g.state = .broken then s.progress g.handle
  else
    let key := (seq.toNat, stage, r)
    let more := (List.range credits).map fun k => if k = 0 then slot else (slot + k) % 65535
    (((s.modGroup g.handle fun g =>
      { g with credits := assocSet g.credits key ((assoc g.credits key).getD [] ++ more) }).progress g.handle).groupOn g seq.toNat)

/-- MISMATCH from a neighbour (R237). A member that has completed the sequence passes it on, so that it reaches rank 0 and every
member. -/
def State.takeMismatch (s : State) (g : Group) (r : Nat) (seq : Word64) (rank : Nat) : State :=
  if seq.toNat < g.floor then s.tellAll g (g.neighbours.filter (· ≠ r)) (.mismatch seq rank)
  else (s.collMismatch g.handle seq.toNat rank (some r)).collPump g.handle

/-- ABORT from a neighbour (R240): passed on through the tree, and the group breaks. -/
def State.takeAbort (s : State) (g : Group) (r : Nat) (seq : Word64) (status : Status) (rank : Nat) : State :=
  if g.state = .broken then s
  else (s.tellAll g (g.neighbours.filter (· ≠ r)) (.abort seq status rank)).breakGroup g.handle Status.collAborted status rank false

/-- What a message of an end does, beyond its acknowledgement. -/
def State.endMsg (s : State) (c : Conn) (m : CtrlMsg) : State :=
  match m with
  | .ctrlAck seq _ => s.dropCtrl fun o => o.conn = some c.index && o.seq = seq
  | .rekeyAck st => s.rekeyAnswered c st
  | m =>
    match c.group.bind s.findGroup with
    | none => s
    | some g =>
      match g.rankOf c.index 1 with
      | none => s
      | some r =>
        match m with
        | .hsUp seq sig mism rank => s.takeHsUp g r seq sig mism rank
        | .hsDown seq mism rank => s.takeHsDown g seq mism rank
        | .hsCount seq sig count => s.takeHsCount g r seq sig count
        | .credit seq stage credits slot => s.takeCredit g r seq stage credits slot
        | .mismatch seq rank => s.takeMismatch g r seq rank
        | .abort seq st rank => s.takeAbort g r seq st rank
        | _ => s

/-- A message of an end that has passed the checks: acknowledged, and acted on once (R163, R234). -/
def State.endCtrlAt (s : State) (c : Conn) (a : Arrival) (m : CtrlMsg) : State :=
  let seq := ctrlSeqOf a.pkt
  match m with
  | .ctrlAck .. | .rekeyAck _ => s.endMsg c m
  | _ =>
    match s.seenCtrl c.peer seq with
    | some (r, _) => s.replyEnd c r seq
    | none =>
      let (s, r) := match m with
        | .rekey keyId => (fun (x : State × Nat) => (x.1, CtrlMsg.rekeyAck x.2)) (s.takeRekey c keyId)
        | _ => (s, CtrlMsg.ctrlAck seq false)
      let s := { s with trans.ctrlSeen := s.trans.ctrlSeen ++ [(c.peer, seq, r, none)] }
      (s.replyEnd c r seq).endMsg c m

/-- Cluster 0 takes a control message of an end: it acts for ends homed there, and sends a record to another home cluster (R20). -/
def State.ctrlRecord (s : State) (c : Conn) (x : Received) (m : CtrlMsg) : State :=
  if c.home = 0 then s.endCtrlAt c x.arrival m
  else { s with trans.ackRecords := s.trans.ackRecords ++ [⟨c.index, x.rxAt, x.arrival, some m⟩] }

/-- A message of an end arrives: checks 1 to 7 of R170. One that is parked keeps its body. -/
def State.endCtrl (s : State) (a : Arrival) (m : CtrlMsg) : State :=
  match (s.takeIn a).frontChecks a with
  | (s, false) => s
  | (s, true) =>
    let x : Received := { s.received a with msg := some m }
    match s.endChecks x with
    | (s, some c) => s.ctrlRecord c x m
    | (s, none) => s

end Sys2Proof.Machine
end

