-- ==== Sys2Proof/Machine/RouteOps.lean ====
section
/-! DEFINITION. Route Table banks: their images, their checks (R345, R359), loading and flipping (R352 to R358). -/

namespace Sys2Proof.Machine

/-! ## Images and checks -/

/-- The CRC-64 of a bank: its 16,384 entries and then its 64 Chain Map records (R356). -/
def RouteBank.crc (b : RouteBank) : Word64 :=
  crc64 ((List.range 16384).flatMap (fun i => routeImage (b.entry i))
    ++ (List.range 64).flatMap fun n => leBytes 4 (chainWord (b.chainOf n)))

/-- Reserved bits and the entropy range of an entry. -/
def entryFieldsOk (e : RouteEntry) : Bool :=
  e.rsvdZero && decide (e.portSet < 256 ∧ e.entropyLog ≤ 8 ∧ e.entropyBase + 2 ^ e.entropyLog - 1 ≤ 65535)

/-- The Chain Map rules of R359. -/
def RouteBank.chainOk (b : RouteBank) (own : Nat) : Bool :=
  let valid := b.chain.filter fun r => r.2.valid
  b.chain.all (fun r => r.2.rsvdZero) && decide ((valid.map fun r => r.2.pos).Nodup) && (b.chainOf own).valid
    && valid.all fun r => r.1 = own || r.2.dir = 1 || r.2.dir = 2

/-- The rules of R345 for a bank of a node. -/
def RouteBank.ok (b : RouteBank) (own : Coord) : Bool :=
  let valid := b.entries.filter fun e => e.2.valid
  b.entries.all (fun e => entryFieldsOk e.2)
    && valid.all (fun e => valid.all fun f => decide (e.1 / 64 = f.1 / 64) == decide (e.2.pfx = f.2.pfx))
    && (b.entry (routeIndex own)).valid && b.chainOk (coordNode own)

/-- Set an entry or a record; all-zero ones are not listed. -/
def putItem {β : Type} [DecidableEq β] (zero : β) (l : List (Nat × β)) (k : Nat) (v : β) : List (Nat × β) :=
  if v = zero then assocDel l k else assocSet l k v

/-- Write items into a bank. -/
def RouteBank.put (b : RouteBank) : RouteItems → RouteBank
  | .entries first items =>
    { b with entries := items.zipIdx.foldl (fun l x => putItem {} l (first + x.2) x.1) b.entries }
  | .chain first items => { b with chain := items.zipIdx.foldl (fun l x => putItem {} l (first + x.2) x.1) b.chain }

/-! ## Banks of the node -/

def State.modBank (s : State) (k : Nat) (f : RouteBank → RouteBank) : State :=
  { s with route.banks := vmod s.route.banks k f }

/-- The bank that is not in use. -/
def State.inactive (s : State) : Nat := 1 - s.route.active

/-- The inactive bank with the Active bank's contents, Loading for an epoch. -/
def State.loadBank (s : State) (epoch : Word32) (copy : Bool) : State :=
  let from_ := s.bank s.route.active
  s.modBank s.inactive fun _ =>
    if copy then { state := .loading, epoch, entries := from_.entries, chain := from_.chain } else { state := .loading, epoch }

/-- Length of the drain interval (R354). -/
def State.drainLength (s : State) : Nat :=
  2 * ((List.range 16).filterMap s.sbtRtt).foldl max 100000

/-- The inactive bank becomes Active, and the Active one Draining (R352, R356). -/
def State.flipBanks (s : State) (epoch : Word32) : State :=
  let old := s.route.active
  let new := s.inactive
  let was := (s.bank old).state = .active
  let s := (s.modBank old fun b => if was then { b with state := .draining } else b).modBank new fun b =>
    { b with state := .active, epoch }
  ({ s with route.active := new, route.epoch := epoch, route.lastBegin := none,
            route.drainEnd := if was then some (s.time.now + s.drainLength) else s.route.drainEnd } : State).bump .rteStatFlips 0

/-! ## The manager's flip (R356, R357) -/

/-- Coordinates of a node of this node's own group. -/
def State.groupNode (s : State) (n : Nat) : Coord := BitVec.ofNat 20 (s.coord.toNat / 64 * 64 + n)

/-- Entries, or records, in messages of at most `n` items: runs of consecutive indices. -/
def runsOfItems {β : Type} (n : Nat) : List (Nat × β) → List (Nat × List β) → List (Nat × List β)
  | [], acc => acc.reverse
  | (k, v) :: r, (first, vs) :: acc =>
    if k = first + vs.length ∧ vs.length < n then runsOfItems n r ((first, vs ++ [v]) :: acc)
    else runsOfItems n r ((k, [v]) :: (first, vs) :: acc)
  | (k, v) :: r, [] => runsOfItems n r [(k, [v])]

/-- What a worker is sent: what differs between two banks, or, for a worker that holds nothing, every entry and record. -/
def loadItems (old new : RouteBank) (full : Bool) : List RouteItems :=
  let es := ((List.range 16384).filter fun i => full || old.entry i ≠ new.entry i).map fun i => (i, new.entry i)
  let cs := ((List.range 64).filter fun n => full || old.chainOf n ≠ new.chainOf n).map fun n => (n, new.chainOf n)
  ((runsOfItems 11 es []).map fun r => .entries r.1 r.2) ++ ((runsOfItems 64 cs []).map fun r => .chain r.1 r.2)

/-- The loads and the commit for a worker. -/
def State.sendLoads (s : State) (node : Nat) (epoch : Word32) (full : Bool) : State :=
  let old := s.bank s.route.active
  let new := s.bank s.inactive
  let dst := s.groupNode node
  let s := (loadItems old new full).foldl (fun s i => s.sendCtrl dst (.rtLoad epoch i)) s
  s.sendCtrl dst (.rtCommit epoch new.crc)

def State.modFlip (s : State) (f : Flip → Flip) : State := { s with route.flip := s.route.flip.map f }

def State.modWorker (s : State) (node : Nat) (f : FlipWorker → FlipWorker) : State :=
  s.modFlip fun x => { x with workers := updWhere (fun w => w.node = node) f x.workers }

/-- The messages of a flip that wait to be sent are sent no more. One under way is repeated until it is answered or has exhausted its
tries, and what follows it to its receiver waits for that (R441). -/
def State.dropFlipMsgs (s : State) (epoch : Word32) : State :=
  s.dropCtrl fun o => o.queued && match o.msg with
    | .rtBegin e .. | .rtLoad e _ | .rtCommit e _ | .rtFlip e => e = epoch
    | _ => false

/-- The flip fails before step 4: RT_ABORT goes to every named worker, and the command ends (R357). -/
def State.abortFlip (s : State) (st : Status) : State :=
  match s.route.flip with
  | none => s
  | some x =>
    let s := (s.dropFlipMsgs x.epoch).bump .rteStatAborts 0
    let s := x.workers.foldl (fun s w => s.sendCtrl (s.groupNode w.node) (.rtAbort x.epoch)) s
    (({ s with route.flip := none } : State).modBank s.inactive fun b => { b with state := .loading }).respond (x.slice, x.tag) st []

/-- The command ends once every worker has flipped or failed to. -/
def State.finishFlip (s : State) (failed : Bool) : State :=
  match s.route.flip with
  | none => s
  | some x =>
    if failed then
      ({ s with route.flip := none } : State).respond (x.slice, x.tag) Status.peerUnreachable []
    else if x.flipping ∧ x.workers.all (·.flipped) then
      ({ s with route.flip := none } : State).respond (x.slice, x.tag) Status.success []
    else s

/-- Once every worker is Ready, the manager flips and tells them (step 4). -/
def State.tryFlip (s : State) : State :=
  match s.route.flip with
  | none => s
  | some x =>
    if x.flipping ∨ !(x.workers.all (·.ready)) then s
    else
      let s := x.workers.foldl (fun s w => s.sendCtrl (s.groupNode w.node) (.rtFlip x.epoch)) s
      ((s.flipBanks x.epoch).modFlip fun x => { x with flipping := true }).finishFlip false

/-- An answer to a message of a flip that is over: the message is repeated no more. -/
def State.lateAnswer (s : State) (src : Coord) (seq : Word32) : State :=
  s.dropCtrl fun o => o.seq = seq && o.dst = src && !o.queued && match o.msg with
    | .rtBegin .. | .rtCommit .. | .rtFlip _ => true
    | _ => false

/-- A named worker has not answered, or answered with RT_ABORT (R357). -/
def State.workerFailed (s : State) (st : Status) : State :=
  match s.route.flip with
  | none => s
  | some x => if x.flipping then s.finishFlip true else s.abortFlip st

/-- An answer meets one of the manager's unanswered messages to its sender; the worker it is from. -/
def State.flipAnswer (s : State) (src : Coord) (seq : Word32) (epoch : Word32) : Option Flip :=
  match s.route.flip with
  | some x =>
    if x.epoch = epoch ∧ s.trans.ctrlOut.any (fun o => o.seq = seq && o.dst = src && !o.queued) then some x else none
  | none => none

/-! ## Claims (R26) -/

/-- A claimant's claim wins over another: the greater epoch, then the lower node number. -/
def claimWins (a : Coord × Word32) (b : Option (Coord × Word32)) : Bool :=
  match b with
  | none => true
  | some (c, e) => a.1 = c || decide (e.toNat < a.2.toNat) || decide (a.2 = e ∧ coordNode a.1 < coordNode c)

/-- The claim in force at this node: its own or the one it follows, whichever wins. -/
def State.claimNow (s : State) : Option (Coord × Word32) :=
  let own := (s.coord, s.last.roleEpoch)
  if s.last.role ≠ 0 ∧ claimWins own s.route.claim then some own else s.route.claim

end Sys2Proof.Machine
end

