-- ==== Sys2Proof/Machine/GroupOps.lean ====
section
/-! DEFINITION. Groups: their quotas and slots (R218, R242), their ends (R222), their registration (R219 to R221) and the
clusters that serve them (R18, R30). -/

namespace Sys2Proof.Machine

/-! ## Clusters and quotas -/

/-- Clusters whose arithmetic is in service. -/
def State.arithClusters (s : State) : List Nat := (List.range 8).filter fun c => !s.arithOutOf c

/-- The cluster in service with the fewest reduction slots reserved, the lowest-numbered of several (R18). -/
def State.bestCluster (s : State) : Option Nat :=
  s.arithClusters.foldl (fun (b : Option Nat) c =>
    match b with
    | none => some c
    | some d => if s.slotsOn c < s.slotsOn d then some c else b) none

/-- A slice's group quota (R218). -/
def State.groupQuota (s : State) (k : Nat) : Nat := (assoc s.work.quota k).getD 8

def State.groupsOf (s : State) (k : Nat) : Nat := (s.work.groups.filter fun g => g.slice = k).length

/-- Reduction slots that a slice's groups hold. -/
def State.slotsOf (s : State) (k : Nat) : Nat := ((s.work.groups.filter fun g => g.slice = k).map (·.slots)).sum

/-- Reduction slots that no SLICE record grants (R242), and those that the groups this node serves as manager hold. -/
def State.spareSlots (s : State) : Nat :=
  match s.last.inForce with
  | some l => l.pools.getD 1 0 * 16 - (l.quotas.map (·.slots)).sum
  | none => 0

def State.mgrSlotsUsed (s : State) : Nat := (s.work.groups.map (·.mgrSlots)).sum + (s.work.registry.map (·.slots)).sum

/-! ## Which ends a group needs (R222) -/

def Group.allowed (g : Group) (alg : Nat) : Bool := g.params.algorithms.testBit (alg - 1)

/-- A group's shape for a kind and an algorithm, with one unit for each rank. -/
def State.probeShape (s : State) (g : Group) (kind alg root : Nat) : Shape :=
  { members := g.members.map (·.1), me := g.me, kind, alg, dt := DT.f32, elems := g.n, chunk := 1, root, cross := false,
    hubOf := s.managerFor, siteMgr := s.siteManager }

/-- Ranks that this member exchanges chunks with under the level algorithms. -/
def State.levelPeers (s : State) (g : Group) (alg : Nat) : List Nat :=
  let of (x : Shape) : List Nat := x.legs.flatMap fun l => [l.src, l.dst]
  [CK.reduceScatter, CK.allReduce, CK.allGather].flatMap (fun k => of (s.probeShape g k alg 0))
    ++ (List.range g.n).flatMap fun r => of (s.probeShape g CK.broadcast alg r)

/-- Ranks to which the group's member needs ends: its neighbours in the handshake tree, and those of the allowed
algorithms. -/
def State.groupPeers (s : State) (g : Group) : List Nat :=
  let n := g.n
  let direct := if g.allowed CA.direct then List.range n else []
  let ring := if g.allowed CA.chainRing ∨ g.allowed CA.fabricRing then [(g.me + 1) % n, (g.me + n - 1) % n] else []
  let tree := if g.allowed CA.managerTree then s.levelPeers g CA.managerTree else []
  let hier := if g.allowed CA.hierarchical then s.levelPeers g CA.hierarchical else []
  ((g.neighbours ++ direct ++ ring ++ tree ++ hier).dedup.filter (· ≠ g.me)).mergeSort

/-- Stripes of an end toward a node: 4 where the site's base round trip exceeds 0.64 ms (R222). -/
def State.groupStripes (s : State) (c : Coord) : Nat := if (s.sbtRtt (coordSite c)).any (640000 < ·) then 4 else 1

/-- Levels at which this member reduces (R242). -/
def State.reduceLevels (s : State) (g : Group) : Nat :=
  let x := s.probeShape g CK.allReduce CA.hierarchical 0
  let hier := if g.allowed CA.hierarchical then
      1 + (if x.hallRep x.me = x.me then 1 else 0) + (if x.siteRep x.me = x.me then 1 else 0) else 0
  let one := if g.allowed CA.chainRing ∨ g.allowed CA.fabricRing ∨ g.allowed CA.managerTree then 1 else 0
  max hier one

/-- The name under which two members' ends find each other: the group's name and the two ranks (R222). -/
def groupListen (name : Word64) (a b : Nat) : Word32 := crc32c (beBytes 8 name.toNat ++ beBytes 4 (min a b) ++ beBytes 4 (max a b))

/-- What a group's end toward a rank is made from. -/
def groupEnd (g : Group) (r stripes : Nat) : EndSpec :=
  { slice := g.slice, peer := (g.members.getD r (0, 0)).1, mode := 1, tc := g.params.trafficClass,
    payloadLog := 13, stripes, sendSlot := none, recvSlot := none, as := g.params.addressSpace,
    listenId := groupListen g.params.name g.me r, group := some g.handle }

/-- Open the ends toward the higher ranks; the lower ranks open theirs. -/
def State.openGroupEnds (s : State) (h : Nat) : State :=
  match s.findGroup h with
  | none => s
  | some g =>
    if s.keys.drbgHalted then s.modGroup h fun g => { g with endsDue := true }
    else ((s.groupPeers g).filter (g.me < ·)).foldl (fun s r =>
      let n := s.groupStripes (g.members.getD r (0, 0)).1
      match s.newIndex n g.params.trafficClass (some g.home) false with
      | none => s
      | some k =>
        (s.openConn (groupEnd g r n) k none).modGroup h fun g => { g with conns := g.conns ++ [(r, k)] })
      (s.modGroup h fun g => { g with endsDue := false })

/-- A Forming group whose ends are all Open is Ready (R222). -/
def State.groupReady (s : State) (h : Nat) : State :=
  match s.findGroup h with
  | none => s
  | some g =>
    let open_ (r : Nat) : Bool := (s.endTo g r).any fun c => c.state = .opened
    if g.state = .forming ∧ g.registered ∧ (s.groupPeers g).all open_ then
      (s.modGroup h fun g => { g with state := .ready }).progress h
    else s

/-- Close a group's ends and forget the group. -/
def State.dropGroup (s : State) (h : Nat) : State :=
  match s.findGroup h with
  | none => s
  | some g =>
    let s := g.conns.foldl (fun s x => match s.findConn x.2 with
      | some c => s.closeSet c
      | none => s) s
    let mine (w : Waiting) : Bool := match w.access.use with | .piece k _ => k = h | _ => false
    { s with work.groups := s.work.groups.filter fun g => g.handle ≠ h,
             xlate.waiting := s.xlate.waiting.filter fun w => !mine w }

/-! ## Creation (R219) -/

/-- The member table's records. -/
def tableOf (bytes : List Byte) : List Nat := (runsOf 8 bytes.length bytes).map leNat

/-- What is wrong with a group once its table is read. -/
def State.groupTableFails (s : State) (g : Group) (recs : List Nat) : Option Status :=
  let mine := recs.getD g.me 0
  let peers := (s.groupPeers g).map fun r => s.groupStripes (g.members.getD r (0, 0)).1
  let slots := g.params.depth * s.reduceLevels g
  let mgr := if g.mgrSlots = 0 then false else s.spareSlots < s.mgrSlotsUsed
  if recs.any (fun r => 2 ^ 29 ≤ r) ∨ mine % 2 ^ 20 ≠ s.coord.toNat ∨ mine / 2 ^ 20 ≠ g.slice then
    some Status.descMalformed
  else if (s.quota g.slice).conns < s.connsOf g.slice + peers.sum ∨ s.nearAllow g.slice < s.inNear g.slice + peers.sum then
    some Status.noResources
  else if (s.quota g.slice).slots < s.slotsOf g.slice + slots ∧ !g.params.flags.testBit 0 then some Status.noResources
  else if mgr then some Status.noResources
  else none

/-- A creation fails: the command is answered, and nothing stays reserved. -/
def State.groupFails (s : State) (h : Nat) (c : Status) : State :=
  match s.findGroup h with
  | none => s
  | some g => (s.dropGroup h).respondTo g.creator c []

/-- The member table has been read: members, digest and slots, and the registration (R219, R220, R242, R243). -/
def State.groupTable (s : State) (h : Nat) (bytes : List Byte) : State :=
  let recs := tableOf bytes
  let fill (g : Group) : Group :=
    { g with members := recs.map fun r => (BitVec.ofNat 20 r, r / 2 ^ 20 % 512), digest := crc64 bytes }
  let s := s.modGroup h fill
  match s.findGroup h with
  | none => s
  | some g =>
    let serves := g.allowed CA.managerTree && s.last.role ≠ 0 && s.managerFor s.coord = s.coord
    let g := { g with mgrSlots := if serves then 2 * g.params.depth else 0 }
    let s := s.modGroup h fun _ => g
    match s.groupTableFails g recs with
    | some c => s.groupFails h c
    | none =>
      let slots := g.params.depth * s.reduceLevels g
      let fits := decide (s.slotsOf g.slice + slots ≤ (s.quota g.slice).slots)
      let s := (s.modGroup h fun g => { g with slots := if fits then slots else 0, endpoint := !fits }).progress h
      let registrar := s.managerFor (g.members.headD (0, 0)).1
      s.sendCtrl registrar (.groupReg g.params.name g.n g.me false g.digest)

/-- Parameters of GROUP_CREATE in range. -/
def groupParamsOk (p : GroupParams) : Bool :=
  decide (2 ≤ p.count ∧ p.count ≤ 65536 ∧ p.rank < p.count ∧ p.algorithms < 32 ∧ p.trafficClass ≤ 6 ∧ 1 ≤ p.depth ∧ p.depth ≤ 16
      ∧ p.flags < 8 ∧ p.flagBase % 8 = 0 ∧ p.addressSpace ≤ 126)
    && [8, 16, 32, 64].contains p.chunkKiB && (p.watchdogMs = 0 || decide (10 ≤ p.watchdogMs ∧ p.watchdogMs ≤ 60000))
    && [0, 5, 6, 7].contains p.crossFormat

/-- The tables of a GROUP_CREATE pass R79 for the slice: the member table, the flag array, and the residual, which lies in
near memory. -/
def State.groupTablesOk (s : State) (slice : Nat) (p : GroupParams) : Bool :=
  let flags := p.flags.testBit 2
  (s.localRange slice p.addressSpace p.tableOffset (8 * p.count) false).isNone
    && (!flags || p.flagCount = 0 || (s.localRange slice p.addressSpace p.flagBase (8 * p.flagCount) true).isNone)
    && (p.crossFormat = 0 || (s.area p.crossResidual = .near
          && (s.localRange slice p.addressSpace p.crossResidual 4 false).isNone
          && (s.localRange slice p.addressSpace p.crossResidual 4 true).isNone))

/-- Create a member of a group: the checks, then its table is read. With no cluster's arithmetic in service R18 has no home to give, and
the answer is NO_RESOURCES (DESIGN CHOICE, log entry 83). -/
def State.groupBegin (s : State) (slice : Nat) (tag : Word32) (p : GroupParams) : State :=
  let answer (c : Status) : State := s.respond (slice, tag) c []
  if !groupParamsOk p then answer Status.descMalformed
  else if !s.groupTablesOk slice p then answer Status.localAccess
  else if s.groupQuota slice ≤ s.groupsOf slice then answer Status.noResources
  else match s.bestCluster, s.freeChoice 4096 fun h => (s.findGroup h).isNone with
    | some home, some h =>
      let p := if p.watchdogMs = 0 then { p with watchdogMs := 2000 } else p
      let g : Group := { handle := h, slice, gen := s.gen slice, params := p, home, creator := some (slice, tag) }
      let s := ({ s.advanceFree with work.groups := s.work.groups ++ [g] } : State).progress h
      match s.access (collAccess g p.addressSpace .table p.tableOffset (8 * p.count) false [] false) with
      | (s, .done b) => s.groupTable h b
      | (s, .fail c) => s.groupFails h c
      | (s, _) => s
    | _, _ => answer Status.noResources

/-! ## The registry (R220, R221) -/

def State.findReg (s : State) (name : Word64) : Option RegEntry := s.work.registry.find? fun e => e.name = name

def State.modReg (s : State) (name : Word64) (f : RegEntry → RegEntry) : State :=
  { s with work.registry := updWhere (fun e => e.name = name) f s.work.registry }

/-- Slots that a registrar must hold for a group that it begins to serve: none where it is a member, whose creation has reserved them, and
otherwise what the group's Depth asks, which no message tells it (a free value; log entry 86). -/
def State.registrySlots (s : State) (name : Word64) : Nat :=
  if s.work.groups.any fun g => g.params.name = name then 0 else Config.treeSlots name % 33

/-- Register a rank. Answers the status and the epoch: 0 accepted, 1 refused for digest or MemberCount, and, where the slots that no
SLICE record grants run short, the code of NO_RESOURCES, for which R164 names no value (R242; log entry 86). -/
def State.register (s : State) (src : Coord) (name : Word64) (count rank : Nat) (digest : Word64) : State × Nat × Word32 :=
  match s.findReg name with
  | none =>
    let e := (assoc s.work.epochs name).getD 0 + 1
    let slots := s.registrySlots name
    if s.spareSlots < s.mgrSlotsUsed + slots then (s, Status.noResources.toNat, 0)
    else ({ s with work.epochs := assocSet s.work.epochs name e,
                   work.registry := s.work.registry ++ [({ name, epoch := e, count, digest, ranks := [(rank, src)], slots } : RegEntry)] }, 0, e)
  | some r =>
    if r.digest ≠ digest ∨ r.count ≠ count then (s, 1, r.epoch)
    else if (assoc r.ranks rank).isNone then
      (s.modReg name fun r => { r with ranks := r.ranks ++ [(rank, src)] }, 0, r.epoch)
    else
      let e := r.epoch + 1
      let s := { s with work.epochs := assocSet s.work.epochs name e }
      let s := s.modReg name fun r => { r with epoch := e, ranks := assocSet r.ranks rank src }
      let others := r.ranks.filter fun x => x.1 ≠ rank
      (others.foldl (fun s x => s.sendCtrl x.2 (.epoch name e)) s, 0, e)

/-- Deregister a rank; an entry without ranks is removed. -/
def State.deregister (s : State) (name : Word64) (rank : Nat) : State :=
  let s := s.modReg name fun r => { r with ranks := assocDel r.ranks rank }
  { s with work.registry := s.work.registry.filter fun r => !(r.name = name && r.ranks.isEmpty) }

end Sys2Proof.Machine
end

