-- ==== Sys2Proof/Machine/SvcMath.lean ====
section
/-! DEFINITION. What the services compute: the QUANT sequence (R280), the step constants and element sequences of OPTSTEP
(R282), the orthonormalization (R286) and the products of LOWRANK (R285). -/

namespace Sys2Proof.Machine

def zeroNum : Num := .fin false 0 0
def oneNum : Num := .fin false 1 0

/-- An FP32 field of a record. -/
def recF32 (r : List Byte) (at_ : Nat) : Num := f32Of (BitVec.ofNat 32 (leField r at_ (at_ + 3)))

/-! ## QUANT (R280) -/

/-- y of each element: the input, plus its residual with Feedback. -/
def quantInput (xs : List Num) (es : Option (List Num)) : List Num :=
  match es with
  | some es => (xs.zip es).map fun p => fadd p.1 p.2
  | none => xs

/-- Blocks of 32 that hold a value that is not finite. -/
def badBlocks (ys : List Num) : Nat := (runsOf 32 ys.length ys).countP fun b => b.any fun y => !y.isFin

/-- The residual that is left: +0 throughout a block that holds a value that is not finite. -/
def quantResidual (ys back : List Num) : List Num :=
  ((runsOf 32 ys.length ys).zip (runsOf 32 back.length back)).flatMap fun b =>
    if b.1.any fun y => !y.isFin then b.1.map fun _ => zeroNum else (b.1.zip b.2).map fun p => fsub p.1 p.2

/-! ## OPTSTEP (R282) -/

/-- Constants of an OPTSTEP, each rounded to FP32. -/
structure OptConst where
  family : Nat
  nesterov : Bool
  lr : Num
  b1 : Num
  b2 : Num
  eps : Num
  scale : Num
  wd : Num
  om1 : Num
  om2 : Num
  a1 : Num
  k2 : Num
deriving DecidableEq, Repr

/-- Computed in binary64 and rounded once to FP32. -/
def optConst (family : Nat) (nesterov noBias : Bool) (lr b1 b2 eps lambda scale : Num) (t : Nat) : OptConst :=
  { family, nesterov, lr, b1, b2, eps, scale,
    wd := toF32 (dmul lr lambda),
    om1 := toF32 (dsub oneNum b1),
    om2 := toF32 (dsub oneNum b2),
    a1 := if noBias then lr else toF32 (ddiv lr (dsub oneNum (dpow 64 b1 t))),
    k2 := if noBias then oneNum else toF32 (ddiv oneNum (dsqrt (dsub oneNum (dpow 64 b2 t)))) }

def signOf (x : Num) : Num :=
  match x with
  | .nan => .nan
  | .inf n => .fin n 1 0
  | .fin n m _ => if m = 0 then .fin false 0 0 else .fin n 1 0

/-- One element: new parameter, first and second state. `d` is the decoded gradient. -/
def optElem (k : OptConst) (d p m v : Num) : Num × Num × Num :=
  let g := fmul k.scale d
  if k.family = 0 then
    let m := ffma k.b1 m g
    let u := if k.nesterov then ffma k.b1 m g else m
    let p := ffma k.wd.neg p p
    (ffma k.lr.neg u p, m, v)
  else if k.family = 1 then
    let m := ffma k.b1 m (fmul k.om1 g)
    let v := ffma k.b2 v (fmul k.om2 (fmul g g))
    let d := ffma (fsqrt v) k.k2 k.eps
    let u := fmul m (frecip d)
    let p := ffma k.wd.neg p p
    (ffma k.a1.neg u p, m, v)
  else if k.family = 2 then
    let c := ffma k.b1 m (fmul k.om1 g)
    let p := ffma k.wd.neg p p
    let p := ffma k.lr.neg (signOf c) p
    (p, ffma k.b2 m (fmul k.om2 g), v)
  else
    let delta := fsub p d
    let m := ffma k.b1 m delta
    let u := ffma k.b1 m delta
    (ffma k.lr.neg u p, m, v)

/-- Elements of a list, or +0 beyond its end. -/
def nth (l : List Num) (i : Nat) : Num := (l[i]?).getD zeroNum

/-- A run of elements. -/
def optRun (k : OptConst) (ds ps ms vs : List Num) : List (Num × Num × Num) :=
  (List.range ds.length).map fun i => optElem k (nth ds i) (nth ps i) (nth ms i) (nth vs i)

/-! ## LOWRANK (R285, R286) -/

/-- Pairwise sums, until one is left: neighbours are added first (log entry 21). -/
def treeSum : Nat → List Num → Num
  | 0, l => l.headD zeroNum
  | fuel + 1, l =>
    match l with
    | [] => zeroNum
    | [x] => x
    | _ => treeSum fuel ((runsOf 2 l.length l).map fun p => match p with
        | [a, b] => fadd a b
        | [a] => a
        | _ => zeroNum)

/-- dot(a, b): 64 lanes by fma in ascending order, then the tree. -/
def dot (a b : List Num) : Num :=
  let ps := a.zip b
  treeSum 7 ((List.range 64).map fun l =>
    (ps.zipIdx.filter fun x => x.2 % 64 = l).foldl (fun acc x => ffma x.1.1 x.1.2 acc) zeroNum)

/-- One column against those before it. -/
def orthoCol (before : List (List Num)) (c : List Num) : List Num × Bool :=
  let c := before.foldl (fun c b => let d := dot b c; (b.zip c).map fun p => ffma d.neg p.1 p.2) c
  let s := dot c c
  if s.isFin && !s.isZero && zeroNum.below s then (c.map fun x => fmul x (frsqrt s), false)
  else (c.map fun _ => zeroNum, true)

/-- The orthonormalization: the new columns and the zero columns. -/
def ortho (cols : List (List Num)) : List (List Num) × Nat :=
  cols.foldl (fun acc c => let (c, z) := orthoCol acc.1 c; (acc.1 ++ [c], acc.2 + if z then 1 else 0)) ([], 0)

/-- P = W · Q by columns: W column-major m × n, Q row-major n × r. -/
def lowP (m n r : Nat) (w q : List Num) : List Num :=
  (List.range r).flatMap fun j =>
    (List.range m).map fun i =>
      dotProduct false ((List.range n).map fun k => nth w (k * m + i)) ((List.range n).map fun k => nth q (k * r + j))

/-- QLocal = Wᵀ · PWire, row-major n × r: W column-major, PWire by columns. -/
def lowQ (m n r : Nat) (w p : List Num) : List Num :=
  (List.range n).flatMap fun k =>
    (List.range r).map fun j => dotProduct false ((w.drop (k * m)).take m) ((p.drop (j * m)).take m)

end Sys2Proof.Machine
end

