-- ==== Sys2Proof/Machine/SvcOps.lean ====
section
/-! DEFINITION. Operations on services (R271 to R290): their operands and records, the start checks (R273), scratch units
(R275), pieces (R274), access to their buffers, and how a service ends (R276, R277). -/

namespace Sys2Proof.Machine

/-! ## Operands and records (R271) -/

namespace Desc
def svcLace (d : Desc) : Option Nat := laceRef d 16
def svcStoch (d : Desc) : Bool := byte d 20 % 2 = 1
def svcRecord (d : Desc) : Nat := f64 d 24
end Desc

/-- Bytes of a service's record. -/
def recordBytes (op : Nat) : Nat := if op = Op.optstep then 128 else if op = Op.lowrank then 96 else 64

def svcOperandsOk (d : Desc) (laceQuota : Nat) : Bool :=
  zeroBits d 16 30 18 && decide (Desc.byte d 20 < 2) && zeroBytes d 21 23 && zeroBytes d 32 63
    && Desc.svcRecord d % 64 = 0 && (Desc.svcLace d).all (fun k => k < laceQuota)

def Service.f8 (v : Service) (at_ : Nat) : Nat := leField v.rec_ at_ at_
def Service.f16 (v : Service) (at_ : Nat) : Nat := leField v.rec_ at_ (at_ + 1)
def Service.f32 (v : Service) (at_ : Nat) : Nat := leField v.rec_ at_ (at_ + 3)
def Service.f64 (v : Service) (at_ : Nat) : Nat := leField v.rec_ at_ (at_ + 7)

/-- Element type codes 0 FP32 and 1 BF16 as datatypes. -/
def Service.isOpt (v : Service) : Bool := v.opcode = Op.optstep
def Service.elements (v : Service) : Nat := if v.opcode = Op.quant then v.f32 24 else v.f32 40
def Service.pieceElems (v : Service) : Nat := if v.opcode = Op.quant then v.f32 28 else v.f32 96
def Service.gated (v : Service) : Bool := v.isOpt && (v.f8 47).testBit 3
def Service.skip (v : Service) : Bool := v.isOpt && (v.f8 47).testBit 2
def Service.deadline (v : Service) : Nat := v.f64 100
def Service.feedback (v : Service) : Bool :=
  if v.opcode = Op.quant then v.f8 34 % 2 = 1 else v.f8 87 % 2 = 1
-- LOWRANK
def Service.rows (v : Service) : Nat := v.f32 72
def Service.cols (v : Service) : Nat := v.f32 76
def Service.rank (v : Service) : Nat := v.f16 80
def Service.handle (v : Service) : Nat := v.f16 82 % 4096
-- CKPT and RESTORE
def Service.isCkpt (v : Service) : Bool := v.opcode = Op.ckpt
def Service.blockBytes (v : Service) : Nat := (if v.isCkpt then v.f16 28 else leField v.header 28 31) * 1024
def Service.rangeCount (v : Service) : Nat := if v.isCkpt then v.f32 24 else v.f32 32
def Service.listOffset (v : Service) : Nat := if v.isCkpt then v.f64 16 else v.f64 24
def Service.depth (v : Service) : Nat := if v.isCkpt then v.f16 30 else v.f16 36
def Service.remote (v : Service) : Bool := v.isCkpt || (v.f32 0).testBit 31
def Service.conn (v : Service) : Nat := v.f32 0 % 2 ^ 24
def Service.staging (v : Service) : Nat := if v.isCkpt then v.f64 44 else v.f64 48
def Service.total (v : Service) : Nat := (v.ranges.map (·.2)).sum
/-- Data blocks of a stream. -/
def Service.blocks (v : Service) : Nat := ceilDiv v.total (v.blockBytes - 16)

/-- Blocks a RESTORE reads ahead (R290). -/
def Service.ahead (v : Service) : Nat := min v.depth (v.f32 56 * 1024 / max 1 v.blockBytes)

def State.findSvc (s : State) (q : Nat) (count : Word32) : Option Service :=
  s.work.services.find? fun v => v.q = q && v.count = count

def State.modSvc (s : State) (q : Nat) (count : Word32) (f : Service → Service) : State :=
  { s with work.services := updWhere (fun v => v.q = q && v.count = count) f s.work.services }

def isService (op : Nat) : Bool := decide (Op.quant ≤ op ∧ op ≤ Op.restore)

/-! ## Ends (R276, R277) -/

/-- The access is one of a service. -/
def AccessUse.isSvc (u : AccessUse) (q : Nat) (count : Word32) : Bool :=
  match u with
  | .service q' n | .svcOut q' n _ => q' = q && n = count
  | _ => false

/-- Nothing more of a service's remote operations is sent. -/
def State.stopSvcOps (s : State) (q : Nat) (count : Word32) (c : Status) : State :=
  let mine (o : ConnOp) : Bool := match o.origin with | .ckpt q' n _ => q' = q && n = count | _ => false
  { s with trans.conns := s.trans.conns.map fun x =>
      { x with ops := updWhere mine (fun o => { o with stop := some (o.stop.getD c) }) x.ops } }

/-- A service descriptor completes. -/
def State.endSvc (s : State) (q : Nat) (count : Word32) (c : Status) (detail : Nat) : State :=
  match s.findSvc q count with
  | none => s
  | some v =>
    let s := { s with work.services := s.work.services.filter (fun v => !(v.q = q && v.count = count)),
                      xlate.waiting := s.xlate.waiting.filter fun w => !w.access.use.isSvc q count }
    let s := (s.stopSvcOps q count c).bump .slcSvcStatCompleted v.slice
    s.endDesc q count { status := c, bytes := min v.bytes 0xFFFFFFFF, detail := min detail 0xFFFF }

/-- A service fails midway. -/
def State.failSvc (s : State) (v : Service) (c : Status) : State := s.endSvc v.q v.count c v.detail

/-- LaceStep goes up by 1, if it is Valid. -/
def State.svcLaceUp (s : State) (v : Service) : State :=
  match v.lace with
  | some k => s.laceUp v.slice v.gen k 1
  | none => s

/-! ## Buffers (R272, R273) -/

/-- A buffer that a record names. -/
structure Buf where
  off : Nat
  len : Nat
  rd : Bool := false
  wr : Bool := false
  align : Nat := 1
  localOnly : Bool := false
deriving DecidableEq, Repr

/-- Size of a piece, in elements: PieceElems, or an equal share in whole 64s; everything in one piece where no cluster
would get 64 (R274; log entry 22). -/
def Service.pieceSize (v : Service) (n : Nat) : Nat :=
  if v.pieceElems ≠ 0 then v.pieceElems
  else
    let per := v.elements / (64 * max 1 n) * 64
    if per = 0 then v.elements else per

/-- Elements of each piece: first element and count. -/
def Service.cut (v : Service) (n : Nat) : List (Nat × Nat) :=
  let sz := max 1 (v.pieceSize n)
  let k := if v.pieceElems ≠ 0 then ceilDiv v.elements sz else if v.elements / sz = 0 then 1 else min n (v.elements / sz)
  (List.range k).map fun i => (i * sz, if i + 1 = k then v.elements - i * sz else sz)

/-- The buffers of a record. -/
def Service.bufs (v : Service) (n members : Nat) : List Buf :=
  if v.opcode = Op.quant then
    let k := v.elements
    let b := elemBytes (v.f8 32)
    [{ off := v.f64 0, len := k * b, rd := true, align := b }, { off := v.f64 8, len := dtBytes (v.f8 33) k, wr := true }]
      ++ (if v.feedback then [{ off := v.f64 16, len := 4 * k, rd := true, wr := true, align := 4 }] else [])
  else if v.opcode = Op.optstep then
    let k := v.elements
    let b := elemBytes (v.f8 45)
    let cb := elemBytes (v.f8 46)
    [{ off := v.f64 0, len := k * b, rd := true, align := b },
      { off := v.f64 8, len := 4 * k, rd := true, wr := true, align := 4 },
      { off := v.f64 16, len := 4 * k, rd := true, wr := true, align := 4 }]
      ++ (if v.f8 44 = 1 then [{ off := v.f64 24, len := 4 * k, rd := true, wr := true, align := 4 }] else [])
      ++ (if v.f8 46 ≠ 0 then [{ off := v.f64 32, len := cb * k, wr := true, align := cb }] else [])
      ++ (if v.gated then [{ off := v.f64 80, len := 8 * (v.cut n).length, rd := true, align := 8 }] else [])
  else if v.opcode = Op.lowrank then
    let m := v.rows
    let k := v.cols
    let r := v.rank
    let gb := elemBytes (v.f8 84)
    let qb := elemBytes (v.f8 85)
    let ob := elemBytes (v.f8 86)
    [{ off := v.f64 0, len := m * k * gb, rd := true, align := gb },
      { off := v.f64 16, len := m * k * qb, rd := true, wr := true, align := qb },
      { off := v.f64 24, len := 4 * m * r, rd := true, wr := true, align := 4 },
      { off := v.f64 32, len := m * r * qb, rd := true, wr := true, align := qb },
      { off := v.f64 40, len := k * r * qb, rd := true, wr := true, align := qb },
      { off := v.f64 48, len := k / max 1 members * r * qb, rd := true, wr := true, align := qb },
      { off := v.f64 56, len := k * r * qb, rd := true, wr := true, align := qb },
      { off := v.f64 64, len := m * k * ob, rd := v.feedback, wr := true, align := ob }]
      ++ (if v.feedback then [{ off := v.f64 8, len := 4 * m * k, rd := true, wr := true, align := 4 }] else [])
  else
    [{ off := v.listOffset, len := 16 * v.rangeCount, rd := true },
      { off := v.staging, len := if v.isCkpt then v.depth * v.blockBytes else v.f32 56 * 1024, rd := true, wr := true,
        localOnly := true }]
      ++ (v.ranges.map fun x => { off := x.1, len := x.2, rd := v.isCkpt, wr := !v.isCkpt, localOnly := true })
      ++ (if v.remote then [] else [{ off := v.f64 8, len := v.f64 16, rd := true }])

/-- Two buffers of a record share a byte: not allowed (R272). -/
def anyOverlap : List Buf → Bool
  | [] => false
  | b :: r => (r.any fun c => overlaps (b.off, b.len) (c.off, c.len)) || anyOverlap r

/-- A buffer fails the check of R79, for what it is used for. -/
def State.bufFails (s : State) (v : Service) (b : Buf) : Option Status :=
  (if b.rd then s.bufferFails v.slice v.as (b.off, b.len) false else none).orElse fun _ =>
    if b.wr then s.bufferFails v.slice v.as (b.off, b.len) true else none

/-- A buffer lies in a host tier. -/
def State.bufInHost (s : State) (v : Service) (b : Buf) : Bool :=
  b.len ≠ 0 && (s.search v.slice b.off b.len).any fun e => e.tier.port.isSome

/-- The fields of a record are in range and its reserved bytes zero. `members` is the group's MemberCount. -/
def Service.fieldsOk (v : Service) (members : Nat) : Bool :=
  let z (lo hi : Nat) : Bool := zeroBytes v.rec_ lo hi
  if v.opcode = Op.quant then
    decide (32 ≤ v.elements ∧ v.elements % 32 = 0 ∧ v.pieceElems % 64 = 0 ∧ v.f8 32 ≤ 1 ∧ 5 ≤ v.f8 33 ∧ v.f8 33 ≤ 7 ∧ v.f8 34 < 2)
      && z 35 63
  else if v.opcode = Op.optstep then
    let fam := v.f8 44
    let fl := v.f8 47
    decide (64 ≤ v.elements ∧ fam ≤ 3 ∧ v.f8 45 ≤ 1 ∧ (v.f8 46 ≤ 1 ∨ v.f8 46 = 3 ∨ v.f8 46 = 4) ∧ fl < 16 ∧ v.pieceElems % 64 = 0)
      && z 108 127 && (!v.gated || v.pieceElems ≠ 0)
      && !(fl.testBit 0 && fam ≠ 0) && !(fl.testBit 1 && fam ≠ 1)
      && (fam = 1 || fam = 2 || v.f32 56 = 0) && (fam = 1 || v.f32 60 = 0) && (fam ≠ 3 || v.f32 64 = 0)
      && !(fam = 1 && !fl.testBit 1 && v.f64 72 = 0)
  else if v.opcode = Op.lowrank then
    decide (1 ≤ v.rank ∧ v.rank ≤ 256 ∧ v.rank ≤ v.rows ∧ 0 < v.cols ∧ v.cols % max 1 members = 0 ∧ v.f16 82 < 4096
      ∧ v.f8 84 ≤ 1 ∧ (v.f8 85 = 1 ∨ v.f8 85 = 3 ∨ v.f8 85 = 4) ∧ v.f8 86 ≤ 1 ∧ v.f8 87 < 2) && z 88 95
  else if v.isCkpt then
    decide (v.f32 0 < 2 ^ 24 ∧ 64 ≤ v.f16 28 ∧ v.f16 28 ≤ 1024 ∧ v.f16 28 % 64 = 0 ∧ 1 ≤ v.rangeCount
      ∧ v.rangeCount ≤ (v.blockBytes - 80) / 8 ∧ 1 ≤ v.depth ∧ v.depth ≤ 4096) && zeroBits v.rec_ 52 30 18 && z 56 63
  else
    decide (v.f32 0 / 2 ^ 24 % 2 ^ 7 = 0 ∧ (v.remote ∨ (v.conn = 0 ∧ v.f32 4 = 0)) ∧ 1 ≤ v.rangeCount ∧ 1 ≤ v.depth
      ∧ v.depth ≤ 4096) && z 38 39 && z 60 63

/-! ## Scratch units (R275) -/

/-- Scratch units of the device: one for each MiB of the partition. -/
def State.scratchTotal (s : State) : Nat := (s.last.inForce.bind fun l => l.pools[6]?).getD 0

def State.scratchUsed (s : State) : Nat := (s.work.services.map fun v => v.units.length).sum

/-- The clusters whose scratch a service holds: one entry for each unit. -/
def State.svcUnits (s : State) (v : Service) : List Nat :=
  let cs := s.arithClusters
  if v.opcode = Op.lowrank then cs ++ s.bestCluster.toList
  else if v.opcode = Op.ckpt ∨ (v.opcode = Op.restore ∧ v.remote) then [v.conn % 8]
  else if v.opcode = Op.restore then [v.q % 8]
  else cs.take (v.cut cs.length).length

/-! ## Start checks (R273) -/

/-- A connection of a CKPT or a remote RESTORE passes the checks of R128. -/
def State.svcConn (s : State) (v : Service) (fpa : Nat) : Option Status :=
  match s.findConn v.conn with
  | none => some Status.localAccess
  | some c0 =>
    let c := s.firstOf c0
    if c.slice ≠ v.slice ∨ c.state = .connecting ∨ c.state = .closing ∨ c.state = .gone ∨ c.state = .free then
      some Status.localAccess
    else if c.state = .failed then some c.failCode
    else if c.fenced then some Status.connFenced
    else if fpaCoord fpa ≠ c.peer then some Status.descMalformed
    else s.cipherReady c

/-- The code that ends a service at its start, once its record, and its range list where it has one, are read. -/
def State.svcCheck (s : State) (v : Service) : Option Status :=
  let g := s.findGroup v.handle
  let members := (g.map Group.n).getD 1
  let bs := v.bufs s.arithClusters.length members
  if !v.fieldsOk members then some Status.descMalformed
  else if v.opcode = Op.lowrank ∧ g.all (fun g => g.slice ≠ v.slice) then some Status.localAccess
  else if bs.any (fun b => b.off % b.align ≠ 0) ∨ anyOverlap bs then some Status.descMalformed
  else if (bs.any fun b => b.localOnly && s.bufInHost v b)
      ∨ (v.isCkpt ∧ (s.area v.staging).tier ≠ some .near) ∨ (v.opcode = Op.restore ∧ (s.area v.staging).tier ≠ some .near) then
    some Status.descMalformed
  else match bs.findSome? (s.bufFails v) with
    | some c => some c
    | none =>
      match if v.remote && (v.isCkpt || v.opcode = Op.restore) then s.svcConn v (v.f64 8) else none with
      | some c => some c
      | none =>
        if s.arithClusters.isEmpty ∧ !v.isCkpt ∧ v.opcode ≠ Op.restore then some Status.residueFault
        else if s.scratchTotal < (s.svcUnits v).length then some Status.noResources else none

/-! ## Reading and writing (R272, R274) -/

/-- Bytes of host memory that a command brings, by local offset; others are zero (log entry 19). -/
def hostBytes (host : List MemCell) (off len : Nat) : List Byte :=
  (List.range len).map fun k => (assoc host (off + k)).getD 0

/-- An access of a service. -/
def svcAccess (v : Service) (c off len : Nat) (write : Bool) (data : List Byte) : Access :=
  { cluster := c, slice := v.slice, gen := v.gen, as := v.as, offset := off, length := len, write, data,
    use := .service v.q v.count }

/-- Stages 1 to 3 of R78 for a service's host buffer: ready, waiting for a translation, or the code that ends it. -/
def State.svcHost (s : State) (v : Service) (c off len : Nat) (write : Bool) : State × AccOut :=
  match s.search v.slice off len with
  | none => (s, .fail Status.localAccess)
  | some e =>
    let (f, pasid) := s.carrier e
    let iova := e.target + (off - e.start)
    match s.hostBlocked f e.pathTag with
    | some code => (s, .fail code)
    | none =>
      match s.check v.slice v.as e.slot e.incarnation (if write then 1 else 0) none off len with
      | .error code => (s, .fail code.localCode)
      | .ok _ =>
        match (pagesOf iova len).find? fun p => (s.translated c f pasid p write).isNone with
        | none => (s, .done [])
        | some p =>
          if s.xlate.waiting.any fun w => w.access.use = .service v.q v.count then (s, .wait)
          else
            let (s, id) := s.sendAts v.slice c f pasid p ((e.target + e.length - 1) / 4096 * 4096)
            let w : Waiting := { id := s.xlate.nextId, access := svcAccess v c off len write [], on := .ats id }
            ({ s with xlate.nextId := s.xlate.nextId + 1 } : State).park w

/-- Read a buffer of a service. -/
def State.svcRead (s : State) (v : Service) (c : Nat) (host : List MemCell) (off len : Nat) : State × AccOut :=
  if len = 0 then (s, .done [])
  else if (s.area off).tier = some .hostA ∨ (s.area off).tier = some .hostB then
    match s.svcHost v c off len false with
    | (s, .done _) => (s, .done (hostBytes host off len))
    | r => r
  else s.access (svcAccess v c off len false [])

/-- A buffer may be written now: it is in a local tier, or its pages have translated. -/
def State.svcReady (s : State) (v : Service) (c off len : Nat) : State × AccOut :=
  if len ≠ 0 ∧ ((s.area off).tier = some .hostA ∨ (s.area off).tier = some .hostB) then s.svcHost v c off len true
  else (s, .done [])

/-- Read several buffers: their bytes, or what stops the first that is not at hand. -/
def State.svcReads (s : State) (v : Service) (c : Nat) (host : List MemCell) : List (Nat × Nat) → State × Except AccOut (List (List Byte))
  | [] => (s, .ok [])
  | (off, len) :: r =>
    match s.svcRead v c host off len with
    | (s, .done b) =>
      match s.svcReads v c host r with
      | (s, .ok bs) => (s, .ok (b :: bs))
      | x => x
    | (s, o) => (s, .error o)

def State.svcReadyAll (s : State) (v : Service) (c : Nat) : List (Nat × Nat) → State × AccOut
  | [] => (s, .done [])
  | (off, len) :: r =>
    match s.svcReady v c off len with
    | (s, .done _) => s.svcReadyAll v c r
    | x => x

/-- Write several buffers; the first that fails ends the writing. One that waits goes on by itself: each output is written once (R277). -/
def State.svcWrites (s : State) (v : Service) (c tag : Nat) : List (Nat × List Byte) → State × AccOut
  | [] => (s, .done [])
  | (off, b) :: r =>
    if b.isEmpty then s.svcWrites v c tag r
    else match s.access { svcAccess v c off b.length true b with use := .svcOut v.q v.count tag } with
      | (s, .fail code) => (s, .fail code)
      | (s, o) =>
        match s.svcWrites v c tag r with
        | (s, .done _) => (s, o)
        | x => x

/-- The outputs of a piece or a step are written, all or (while a translation is missing) none. A failing code ends the service.
Answers whether they were begun, and whether all are through already. -/
def State.svcWork (s : State) (v : Service) (c tag : Nat) (outs : List (Nat × List Byte)) : State × Option Bool :=
  match s.svcReadyAll v c (outs.map fun x => (x.1, x.2.length)) with
  | (s, .fail code) => (s.failSvc v code, none)
  | (s, .done _) =>
    match s.svcWrites v c tag outs with
    | (s, .fail code) => (s.failSvc v code, none)
    | (s, .done _) => (s, some true)
    | (s, _) => (s, some false)
  | (s, _) => (s, none)

end Sys2Proof.Machine
end

