-- ==== Sys2Proof/Machine/RxOps.lean ====
section
/-! DEFINITION. What an arriving packet does once it has passed the checks of its end: requests (R133, R134, R181, R182),
responses (R181, R182), acknowledgements and refusals (R175 to R183, R145 to R150), and the packets that were parked (R186,
R536). -/

namespace Sys2Proof.Machine

/-! ## Requests -/

/-- The atomic of a retransmitted ATOMIC_REQ that the end still holds (R131). -/
def Conn.heldAtomic (c : Conn) (psn : Word32) : Option AtomicAnswer := c.atomics.find? fun w => w.psn = psn

/-- A duplicate request (R133): a READ_REQ that asks again is served again (R181), and a held atomic answered again
(R182). -/
def State.takeDup (s : State) (c : Conn) (a : Arrival) : State :=
  let p := a.pkt
  match p.ptype with
  | .readReq => if p.retx then s.takeReadReq c a else s.ackDup c p
  | .atomicReq =>
    match if p.retx then c.heldAtomic p.psn else none with
    | some w => s.answerAtomic c { w with stamp := p.sendStamp }
    | none => s.ackDup c p
  | _ => s.ackDup c p

/-- A fresh request. -/
def State.takeFresh (s : State) (c : Conn) (a : Arrival) : State :=
  match a.pkt.ptype with
  | .readReq => s.takeReadReq c a
  | .atomicReq => s.takeAtomic c a
  | _ =>
    match a.pkt.coll with
    | some e => s.takeChunk c a e
    | none => s.takeData c a

/-- A request of an end: checks 8 to 10, then its effect. -/
def State.takeRequest (s : State) (c : Conn) (a : Arrival) : State :=
  match s.psnChecks c a.pkt with
  | (s, .stop) => s
  | (s, .dup) => s.takeDup c a
  | (s, .fresh) => s.takeFresh c a

/-! ## Responses -/

/-- The segment of an operation that a member's PSN lies in. -/
def ConnOp.segOf (o : ConnOp) (k : Nat) (psn : Word32) : Option ReadSeg :=
  o.segs.find? fun g => g.member = k && (psn - g.psn).toNat < g.packets

/-- A response's bytes have landed: its PSN is resolved (R175), and what has finished ends. -/
def State.landed (s : State) (k : Nat) (psn : Word32) : State :=
  match s.findConn k with
  | none => s
  | some c =>
    match c.inflight.find? fun r => r.psn = psn with
    | none => s
    | some r =>
      let mark (o : ConnOp) : ConnOp :=
        { o with acked := o.acked + r.bytes, answered := true,
                 segs := updWhere (fun g => g.member = k && (psn - g.psn).toNat < g.packets)
                   (fun g => { g with placed := g.placed ++ [(psn - g.psn).toNat] }) o.segs }
      ((((s.modOp r.op mark).dropRecords k fun r => r.psn = psn).finishOps c.stripeFirst)).kickSet c

/-- A landing access has ended. One that waited on a page fault lost its bytes, and asks for them again (R129). -/
def State.landingEnded (s : State) (k : Nat) (psn : Word32) (lost : Bool) : AccOut → State
  | .done _ => if lost then (s.again k psn true).kick k else s.landed k psn
  | .fail st =>
    match s.findConn k with
    | none => s
    | some c =>
      let ids := (c.inflight.filter fun r => r.psn = psn).map (·.op)
      let s := ids.foldl (fun s id => s.stopOp id st) s
      ((s.dropRecords k fun r => r.psn = psn).finishOps c.stripeFirst).kickSet c
  | _ => s

/-- Place a response's bytes at an operation's landing range (R181, R182). An Eyelet load and a RESTORE keep theirs. -/
def State.placeResponse (s : State) (c : Conn) (o : ConnOp) (psn : Word32) (at_ : Nat) (bytes : List Byte) : State :=
  match o.origin with
  | .eyelet _ | .ckpt .. =>
    (s.modOp o.id fun o => { o with data := assocSet o.data at_ bytes }).landed c.index psn
  | _ =>
    let (s, r) := s.access
      { cluster := c.home, slice := c.slice, gen := c.gen, as := s.opAs o, offset := o.localOffset + at_, length := bytes.length,
        write := true, data := bytes, use := .landing c.index psn }
    s.landingEnded c.index psn false r

/-- Where the bytes of a response land in an operation's range (R181, R182): the start for an atomic's, else its packet's place in its
segment. -/
def ConnOp.landingAt (o : ConnOp) (c : Conn) (p : Packet) : Option Nat :=
  if p.atomic.isSome then some 0 else (o.segOf c.index p.psn).map fun g => g.offset + (p.psn - g.psn).toNat * c.payload

/-- The byte of near memory that a response's transfer fails at (R14): of an operation that lands its bytes in memory. -/
def State.lostTransfer (s : State) (c : Conn) (a : Arrival) : Option Nat :=
  match (c.inflight.find? fun x => x.psn = a.pkt.psn).bind fun x => s.findOp x.op with
  | none => none
  | some o =>
    match o.origin with
    | .eyelet _ => none
    | .ckpt q n tag =>
      (if a.transferUe.any fun k => decide (k < a.pkt.payload.length) then s.findSvc q n else none).map fun v =>
        if tag < 2 then bitsOf (Config.freeBits s.freeCount) 38 0   -- the header's scratch unit is the device's own
        else v.staging + (tag - 2) % max 1 v.ahead * v.blockBytes + (o.landingAt c a.pkt).getD 0 + a.transferUe.getD 0
    | _ =>
      let n := if a.pkt.atomic.isSome then 8 else a.pkt.payload.length
      a.transferUe.bind fun k => (o.landingAt c a.pkt).bind fun at_ =>
        if k < n ∧ s.area (o.localOffset + at_ + k) = .near then some (o.localOffset + at_ + k) else none

/-- READ_RESP and ATOMIC_RESP at the initiator: a sample for the estimates and the window (R176, R193), and the placement of what is
still in flight. One whose transfer to memory fails is as if lost (R14). -/
def State.takeResponse (s : State) (c : Conn) (a : Arrival) : State :=
  match s.lostTransfer c a with
  | some off => (s.transferUe off).advanceFree
  | none =>
  let p := a.pkt
  let r := rttSample s.time.now p.echoStamp
  let s := s.sample c.index r
  let want : PType := if p.ptype = .readResp then .readReq else .atomicReq
  match c.inflight.find? fun x => x.psn = p.psn && x.pkt.ptype = want with
  | none => s.windowSample c.index r 0 false
  | some x =>
    match s.findOp x.op with
    | none => s.windowSample c.index r 0 false
    | some o =>
      if s.xlate.waiting.any fun w => w.access.use = .landing c.index p.psn then s.windowSample c.index r 0 false
      else
        let s := s.windowSample c.index r p.payload.length false
        match p.atomic, o.landingAt c p with
        | some w, some at_ => (s.modOp o.id fun o => { o with swapped := w.flag }).placeResponse c o p.psn at_ (leBytes 8 w.opA.toNat)
        | none, some at_ => s.placeResponse c o p.psn at_ (s.plain c p)
        | _, none => s

/-! ## ACK and NAK at the sender -/

/-- Records that one NAK speaks of: the packet's own, or those that are left of what its READ_REQ asked for from there on. The READ_REQ's
own PSN may be resolved already, when a later response of its segment is refused (R183). -/
def State.nakRun (s : State) (c : Conn) (psn : Word32) : List InFlight :=
  match (s.firstOf c).ops.findSome? fun o => (o.segOf c.index psn).map fun g => (o, g) with
  | some (o, g) =>
    let n := g.packets - (psn - g.psn).toNat
    c.inflight.filter fun x => x.op = o.id && x.pkt.ptype = .readReq && (x.psn - psn).toNat < n
  | none => c.inflight.filter fun r => r.psn = psn

/-- SEQ (R171): every PSN from NakPsn on is resent, which counts on that one alone. -/
def State.goBack (s : State) (c : Conn) (psn : Word32) : State :=
  let spent (r : InFlight) : Bool := r.psn = psn && 7 ≤ r.retries
  let back := c.inflight.filter fun r => !countBefore r.psn psn && !(r.unsent && !r.again) && !spent r
  if c.ordered then back.foldl (fun s r => s.again c.index r.psn (r.psn = psn)) s else s

/-- FAULT, READ_BUSY and CTX_MISS (R179): the resend waits for the interval, and the PSN's timer stands still. A packet keeps the time of
its first FAULT NAK (R89). -/
def State.holdBack (s : State) (c : Conn) (n : NakExt) : State :=
  let run := (s.nakRun c n.psn).map (·.psn)
  let until_ := s.time.now + n.retryUs * 1000
  let since (r : InFlight) : Option Nat :=
    if n.code = 2 ∧ run.head? = some r.psn then r.faultSince.orElse fun _ => some s.time.now else r.faultSince
  let upd (r : InFlight) : InFlight := { r with holdUntil := some until_, faultSince := since r }
  s.modConn c.index fun c => { c with inflight := updWhere (fun r => run.contains r.psn) upd c.inflight }

/-- An operation that a fence meets: it ends with CONN_FENCED, whatever code it was stopped with before. -/
def State.fenceOp (s : State) (id : Nat) : State := (s.modOp id fun o => { o with stop := some Status.connFenced }).dropUnsent id

/-- A fence of a set (R150): operations after the violating one end with CONN_FENCED. -/
def State.fenceSet (s : State) (c : Conn) (op : Nat) : State :=
  let first := s.firstOf c
  let later := (first.ops.map (·.id)).dropWhile (· ≠ op)
  let s := (s.members c).foldl (fun s m => s.modConn m.index fun c => { c with fenced := true }) s
  (later.drop 1).foldl State.fenceOp s

/-- REFUSED (R183, R145, R148, R167): the operation ends with the status once what it sent is resolved. -/
def State.takeRefused (s : State) (c : Conn) (n : NakExt) : State :=
  let st : Status := BitVec.ofNat 8 n.status
  if st = Status.remoteSliceGone then s.failEnd c st 0
  else
    let run := s.nakRun c n.psn
    let s := s.dropRecords c.index fun r => run.any fun x => x.psn = r.psn
    match run with
    | [] => s
    | r :: _ =>
      let s := (s.stopOp r.op st).dropUnsent r.op
      if st = Status.remoteAccess then s.fenceSet c r.op else s

/-- One of an operation's packets has met FAULT NAKs for its slice's limit (R89). -/
def State.faultExpired (s : State) (slice : Nat) (o : ConnOp) : Bool :=
  s.trans.conns.any fun c => c.inflight.any fun r => r.op = o.id && r.faultSince.any fun t => s.passed (t + s.waitLimit slice)

/-- An ACK or NAK reaches its end's home cluster (R20, R175 to R183). -/
def State.takeReport (s : State) (k rxTime : Nat) (a : Arrival) : State :=
  match s.findConn k with
  | none => s
  | some c =>
    if c.state = .failed then s
    else
      let s := match a.pkt.nak with
        | none => s
        | some n =>
          if n.code = 1 then s.goBack c n.psn
          else if n.code = 5 then s.takeRefused c n
          else s.holdBack c n
      (s.onReport k rxTime a.pkt).kickSet c

/-- Cluster 0 takes an ACK or NAK: it acts for ends homed there, and sends a record to another home cluster (R20). -/
def State.report (s : State) (c : Conn) (x : Received) : State :=
  if c.home = 0 then s.takeReport c.index x.rxAt x.arrival
  else { s with trans.ackRecords := s.trans.ackRecords ++ [⟨c.index, x.rxAt, x.arrival, none⟩] }

/-- PROBE (R157): answered with a PROBE where it asks. -/
def State.takeProbe (s : State) (c : Conn) (a : Arrival) : State :=
  if a.pkt.solicit then s.sendEndC7 c (s.endPacket c .probe) else s

/-! ## Dispatch -/

/-- A packet that its end takes, by its type. -/
def State.endPacketIn (s : State) (c : Conn) (x : Received) : State :=
  let a := x.arrival
  match a.pkt.ptype with
  | .data | .readReq | .atomicReq => s.takeRequest c a
  | .readResp | .atomicResp => s.takeResponse c a
  | .ack | .nak => s.report c x
  | .probe => s.takeProbe c a
  | .ctrl =>
    match x.msg with
    | some m => s.ctrlRecord c x m
    | none => s
  | .rsvd => s

/-- A packet that was parked or held goes through the checks of its end again (R186). -/
def State.again_ (s : State) (x : Received) : State :=
  match s.endChecks x with
  | (s, some c) => s.endPacketIn c x
  | (s, none) => s

/-- An arriving packet of an end: all the checks of R170, and its effect. -/
def State.arrive (s : State) (a : Arrival) : State :=
  match (s.takeIn a).frontChecks a with
  | (s, true) => s.again_ (s.received a)
  | (s, false) => s

/-- Process an end's parked packets in arrival order (R186, R536). -/
def State.unpark (s : State) (k : Nat) : State :=
  match s.findConn k with
  | none => s
  | some c => c.parked.foldl (fun s x => s.again_ x) (s.modConn k fun c => { c with parked := [] })

end Sys2Proof.Machine
end

