-- ==== Sys2Proof/Machine/EyeletOps.lean ====
section
/-! DEFINITION. Operations of the Eyelet (R64 to R70): its map, and how an access through it ends. -/

namespace Sys2Proof.Machine

/-- Granule index and offset within the granule of a BAR4 offset (R64). -/
def granuleOf (f : Func) (offset : Nat) : Nat := offset / 2 ^ 26 % (if f.fn.val = 0 then 4096 else 64)
def granuleOff (offset : Nat) : Nat := offset % 2 ^ 26

/-- Granules of a function's aperture (R64). -/
def aperture (f : Func) : Nat := if f.fn.val = 0 then 4096 else 64

def State.eyeletEntry (s : State) (f : Func) (granule : Nat) : Option EyeletEntry :=
  s.xlate.eyelet.find? fun e => e.port = f.port.val && e.fn = f.fn.val && e.granule = granule

/-- The requester ID passes the entry's mask (R67). -/
def EyeletEntry.admits (e : EyeletEntry) (requester : Word16) : Bool :=
  (requester ^^^ e.requesterId) &&& e.requesterMask = 0

/-- Accesses of a granule that have passed the map lookup and have not completed. -/
def State.granuleBusy (s : State) (f : Func) (granule : Nat) : Bool :=
  s.xlate.eyeletBusy.any fun x => x.func = f && x.granule = granule

/-- Answer the EYELET_UNMAP commands whose granule has no access left (R69). -/
def State.finishUnmaps (s : State) : State :=
  let (busy, done) := s.xlate.unmapping.partition fun u => s.granuleBusy u.2.2.1 u.2.2.2
  done.foldl (fun s u => s.respond (u.1, u.2.1) Status.success []) { s with xlate.unmapping := busy }

/-- An Eyelet access has ended with a code (R68). One that its load limit has ended already is forgotten. -/
def State.eyeletDone (s : State) (id : Nat) (st : Status) (data : List Byte) : State :=
  match s.xlate.eyeletBusy.find? fun x => x.id = id with
  | none => s
  | some x =>
    let s := { s with xlate.eyeletBusy := s.xlate.eyeletBusy.filter fun x => x.id ≠ id }
    let s :=
      if st = Status.success then (if x.load then s.emit (.cplData id data) else s)
      else
        let s := if x.load then (s.emit (.cplAbort id)).bump .slcEyeletErrCaCount x.slice else s
        s.raise { slice := x.slice, code := EventCode.eyeletFail, status := st, object := x.granule, info := x.fpa }
    s.finishUnmaps

/-- The Eyelet load whose turn it is on a connection sends its READ_REQ: at once, or when the stores before it have been sent (R132). -/
def State.sendLoad (s : State) (k : Nat) : State :=
  match s.findConn k with
  | none => s
  | some c =>
    let isLoad (o : ConnOp) : Bool := o.kind = .read && (match o.origin with | .eyelet _ => true | _ => false)
    match c.ops.find? fun o => isLoad o && decide (o.requested < o.length) && o.stop.isNone with
    | some o => if c.hasTurn o.id then s.sendSegment o c else s
    | none => s

/-- Send every Eyelet load whose turn has come. -/
def State.sendEyeletLoads (s : State) : State :=
  (s.xlate.eyeletBusy.filterMap fun x =>
    if x.load then (s.trans.conns.find? fun c => c.ops.any fun o => o.origin = .eyelet x.id).map (·.index) else none).foldl
      State.sendLoad s

/-- Begin an access that passed the map: locally with the entry's context, or as an operation on its connection. A local access uses the
Translation Unit of cluster granule mod 8: the spec gives it no home cluster (DESIGN CHOICE, log entry 83). -/
def State.eyeletBegin (s : State) (f : Func) (e : EyeletEntry) (off len : Nat) (bytes : List Byte) (load : Bool) : State :=
  let id := s.xlate.nextId
  let fpa := e.target + off
  let limit := clamp 100 40000 (s.fld .slcEyeletCtrlLoadLimitUs e.slice) * 1000
  let x : EyeletAccess := { id, slice := e.slice, func := f, granule := e.granule, fpa, load, deadline := s.time.now + limit }
  let s := { s with xlate.nextId := id + 1, xlate.eyeletBusy := s.xlate.eyeletBusy ++ [x] }
  if fpaCoord fpa = s.coord then
    let a : Access := { cluster := e.granule % 8, slice := e.slice, gen := s.gen e.slice, as := e.as, offset := fpaOffset fpa,
                        length := len, write := !load, data := bytes, use := .eyelet id }
    match s.access a with
    | (s, .done b) => s.eyeletDone id Status.success b
    | (s, .fail c) => s.eyeletDone id c []
    | (s, _) => s
  else match s.findConn e.conn with
    | none => s.eyeletDone id Status.peerUnreachable []
    | some c =>
      if c.state ≠ .opened then s.eyeletDone id (if c.state = .failed then c.failCode else Status.peerUnreachable) []
      else if c.fenced then s.eyeletDone id Status.connFenced []
      else match s.cipherReady c with
        | some code => s.eyeletDone id code []
        | none =>
          let o : ConnOp := { id := s.trans.nextOp, origin := .eyelet id, kind := if load then .read else .write, length := len,
                              localOffset := 0, remote := fpa, key := e.key, data := chunksOf c.payload bytes }
          let s := (s.post c o).fetchContext c.index
          if load then s.sendLoad c.index else s.kick c.index

end Sys2Proof.Machine
end

