-- ==== Sys2Proof/Machine/SvcRun.lean ====
section
/-! DEFINITION. Running services: starts and their rotation (R274, R275, R474), the pieces of QUANT and OPTSTEP (R280 to
R284), the steps of LOWRANK (R285 to R288), and the streams of CKPT and RESTORE (R289, R290). -/

namespace Sys2Proof.Machine

/-- The arithmetic runs (R278). -/
def State.arithRuns (s : State) : Bool := decide (s.power.thermal ≠ .critical)

def State.fp8Sat (s : State) (slice : Nat) : Bool := s.fld .slcArithCtrlFp8Sat slice = 1

/-! ## Streams (R289, R290) -/

/-- A guarded-block trailer in memory (R439). -/
def trailer (alive len : Nat) (payload : List Byte) : List Byte :=
  leBytes 4 alive ++ leBytes 3 len ++ [0] ++ leBytes 8 (crc64 payload).toNat

/-- Parts of a stretch of the byte sequence of a range list: local offsets and lengths. -/
def rangeParts : List (Nat × Nat) → Nat → Nat → List (Nat × Nat)
  | [], _, _ => []
  | (off, n) :: r, pos, len =>
    if len = 0 then []
    else if n ≤ pos then rangeParts r (pos - n) len
    else
      let k := min len (n - pos)
      (off + pos, k) :: rangeParts r 0 (len - k)

/-- Payload bytes of data block k. -/
def Service.payloadOf (v : Service) (k : Nat) : Nat :=
  let cap := v.blockBytes - 16
  min cap (v.total - (k - 1) * cap)

/-- The payload of the header block. -/
def State.headerPayload (s : State) (v : Service) : List Byte :=
  leBytes 4 0x5CA7C4E1 ++ [1, 0, 0, 0] ++ leBytes 8 (v.f64 36) ++ leBytes 8 v.total ++ leBytes 4 v.rangeCount
    ++ leBytes 4 (v.f16 28) ++ leBytes 4 v.blocks ++ leBytes 4 (v.f32 32) ++ leBytes 4 (s.coord.toNat + v.slice * 2 ^ 20)
    ++ List.replicate 20 0 ++ v.ranges.flatMap fun x => leBytes 8 x.2

/-- Post an operation of a stream on its connection; a connection that takes none ends the service. -/
def State.streamPost (s : State) (v : Service) (tag : Nat) (kind : OpKind) (at_ len : Nat) (bytes : List Byte)
    (lace : Option Nat) : State :=
  match s.findConn v.conn with
  | none => s.failSvc v Status.localAccess
  | some c0 =>
    let c := s.firstOf c0
    if c.state ≠ .opened then s.failSvc v (if c.state = .failed then c.failCode else Status.localAccess)
    else if c.fenced then s.failSvc v Status.connFenced
    else
      let o : ConnOp := { id := s.trans.nextOp, origin := .ckpt v.q v.count tag, kind, length := len, localOffset := 0,
                          remote := v.f64 8 + at_, key := BitVec.ofNat 32 (v.f32 4), lace, data := chunksOf c.payload bytes }
      let s := (s.post c o).fetchContext c.index
      if kind = .read then
        match s.findConn c.index, s.findOp o.id with
        | some c, some o => if c.hasTurn o.id then s.sendSegment o c else s
        | _, _ => s
      else s.kickSet c

/-- Send a block of a CKPT: its payload at the block's start and its trailer in the last 16 B. -/
def State.sendBlock (s : State) (v : Service) (k : Nat) (payload : List Byte) : State :=
  let t := trailer ((v.f32 32 + k) % 2 ^ 32) payload.length payload
  let s := s.modSvc v.q v.count fun v => { v with writes := v.writes ++ [(k, 2)] }
  let s := s.streamPost v k .write (k * v.blockBytes) payload.length payload none
  if (s.findSvc v.q v.count).isSome then s.streamPost v k .write ((k + 1) * v.blockBytes - 16) 16 t none else s

/-- Carry a CKPT on: blocks while staging slots are free, then the header, then the increment at the peer. -/
def State.ckptPump (s : State) (q : Nat) (count : Word32) : Nat → State
  | 0 => s
  | fuel + 1 =>
    match s.findSvc q count with
    | none => s
    | some v =>
      let b := v.blocks
      let k := v.next
      if k ≤ b then
        if v.depth ≤ v.writes.length ∨ v.writes.any (fun w => w.1 % v.depth = k % v.depth) then s
        else match s.svcReads v (v.conn % 8) [] (rangeParts v.ranges ((k - 1) * (v.blockBytes - 16)) (v.payloadOf k)) with
          | (s, .error (.fail c)) => s.failSvc v c
          | (s, .error _) => s
          | (s, .ok bs) =>
            let payload := bs.flatten
            let slot := v.staging + k % v.depth * v.blockBytes
            let t := trailer ((v.f32 32 + k) % 2 ^ 32) payload.length payload
            match s.svcWrites v (v.conn % 8) 0 [(slot, payload), (slot + v.blockBytes - 16, t)] with
            | (s, .fail c) => s.failSvc v c
            | (s, .done _) =>
              ((s.modSvc q count fun v => { v with next := k + 1 }).sendBlock v k payload).ckptPump q count fuel
            | (s, _) => s
      else if !v.writes.isEmpty then s
      else if k = b + 1 then (s.modSvc q count fun v => { v with next := k + 1 }).sendBlock v 0 (s.headerPayload v)
      else if k = b + 2 ∧ (v.f32 52).testBit 31 then
        let s := s.modSvc q count fun v => { v with next := k + 1, writes := [(k, 1)] }
        s.streamPost v k .writeInc 0 0 [] (some (v.f32 52 % 2 ^ 18))
      else s.endSvc q count Status.success 0

/-- What a RESTORE reads under each tag: 0 the first 64 B, 1 the header block, k + 1 data block k: place in the stream and
length. -/
def Service.part (v : Service) (tag : Nat) : Nat × Nat :=
  if tag = 0 then (0, 64) else ((tag - 1) * v.blockBytes, v.blockBytes)

/-- Ask for a part of the stream, once. -/
def State.restoreAsk (s : State) (v : Service) (tag : Nat) : State :=
  match s.findSvc v.q v.count with
  | none => s
  | some v =>
    if v.writes.any (fun w => w.1 = tag) ∨ v.got.any (fun g => g.1 = tag) then s
    else
      let (at_, len) := v.part tag
      if v.remote then
        (s.modSvc v.q v.count fun v => { v with writes := v.writes ++ [(tag, 1)] }).streamPost v tag .read at_ len [] none
      else match s.access (svcAccess v (v.q % 8) (v.f64 8 + at_) len false []) with
        | (s, .done b) => s.modSvc v.q v.count fun v => { v with got := v.got ++ [(tag, b)] }
        | (s, .wait) => s.modSvc v.q v.count fun v => { v with writes := v.writes ++ [(tag, 1)] }
        | (s, .fail c) => s.failSvc v c
        | (s, .stale) => s

/-- The checks of a header block (R290). -/
def headerCheck (v : Service) (b : List Byte) : Option Status :=
  let n := b.length
  let t := b.drop (n - 16)
  let rc := leField b 24 27
  let len := 64 + 8 * rc
  let payload := b.take len
  if leField t 4 6 ≠ len ∨ n < len + 16 ∨ t.getD 7 0 ≠ 0 ∨ leField t 8 15 ≠ (crc64 payload).toNat then some Status.checkMismatch
  else if leField b 0 3 ≠ 0x5CA7C4E1 ∨ leField b 4 4 ≠ 1 ∨ leField b 8 15 ≠ v.f64 40 ∨ rc ≠ v.rangeCount
      ∨ (v.ranges.zipIdx.any fun x => leField b (64 + 8 * x.2) (71 + 8 * x.2) ≠ x.1.2) then some Status.svcStreamHeader
  else if v.f64 16 < (v.blocks + 1) * v.blockBytes then some Status.svcStreamShort
  else if v.f32 56 * 1024 / max 1 v.blockBytes < 1 then some Status.descMalformed
  else none

/-- The check of data block k (R290, R440; log entry 23). -/
def blockCheck (v : Service) (k : Nat) (b : List Byte) : Option Status :=
  let t := b.drop (b.length - 16)
  let a := leField v.header (v.blockBytes - 16) (v.blockBytes - 13)
  let alive := leField t 0 3
  let payload := b.take (v.payloadOf k)
  if leField t 4 6 ≠ v.payloadOf k ∨ t.getD 7 0 ≠ 0 ∨ leField t 8 15 ≠ (crc64 payload).toNat then some Status.checkMismatch
  else if alive = (a + k) % 2 ^ 32 then none
  else if alive = (a + k + 2 ^ 32 - 1) % 2 ^ 32 then some Status.aliveRepeat
  else some Status.aliveGap

/-- Count the outcome of a guarded block at its cluster (R443). -/
def State.countCheck (s : State) (c : Nat) (code : Status) : State :=
  if code = Status.checkMismatch then s.bump .cluChkStatMismatches c
  else if code = Status.aliveRepeat then s.bump .cluChkStatAliveRepeat c
  else if code = Status.aliveGap then s.bump .cluChkStatAliveGap c else s

/-- Carry a RESTORE on. -/
def State.restorePump (s : State) (q : Nat) (count : Word32) : Nat → State
  | 0 => s
  | fuel + 1 =>
    match s.findSvc q count with
    | none => s
    | some v =>
      let home := v.units.headD 0
      if v.next = 0 then
        match assoc v.got 0 with
        | none => if v.writes.isEmpty then
            let s := s.restoreAsk v 0
            if (s.findSvc q count).any (fun v => !v.got.isEmpty) then s.restorePump q count fuel else s
          else s
        | some b =>
          let kib := leField b 28 31
          if 64 ≤ kib ∧ kib ≤ 1024 ∧ kib % 64 = 0 then
            let s := s.modSvc q count fun v => { v with header := b, got := [], writes := [], next := 1 }
            (s.findSvc q count).elim s fun v => (s.restoreAsk v 1).restorePump q count fuel
          else s.failSvc v Status.svcStreamHeader
      else if v.next = 1 then
        match assoc v.got 1 with
        | none => s
        | some b =>
          match headerCheck v b with
          | some c => (s.countCheck home c).failSvc v c
          | none => (s.modSvc q count fun v => { v with header := b, got := [], writes := [], next := 2 }).restorePump q count fuel
      else if v.blocks ≤ v.ended then s.endSvc q count Status.success 0
      else
        let s := (List.range (min v.ahead (v.blocks - v.ended))).foldl (fun s i => s.restoreAsk v (v.ended + i + 2)) s
        match s.findSvc q count with
        | none => s
        | some v =>
          let k := v.ended + 1
          match assoc v.got (k + 1) with
          | none => s
          | some b =>
            match blockCheck v k b with
            | some c => (s.countCheck home c).failSvc v c
            | none =>
              let parts := rangeParts v.ranges ((k - 1) * (v.blockBytes - 16)) (v.payloadOf k)
              let outs := (parts.foldl (fun (acc : Nat × List (Nat × List Byte)) p =>
                (acc.1 + p.2, acc.2 ++ [(p.1, (b.drop acc.1).take p.2)])) (0, [])).2
              let stage := v.staging + (k - 1) % max 1 v.ahead * v.blockBytes
              match s.svcWrites v home 0 ((stage, b) :: outs) with
              | (s, .fail c) => s.failSvc v c
              | (s, .done _) =>
                let s := s.modSvc q count fun v =>
                  { v with ended := k, bytes := v.bytes + v.payloadOf k, got := v.got.filter fun g => g.1 ≠ k + 1,
                           writes := v.writes.filter fun w => w.1 ≠ k + 1 }
                (s.svcLaceUp v).restorePump q count fuel
              | (s, _) => s

/-- Carry a stream service on. -/
def State.streamPump (s : State) (v : Service) : State :=
  if !v.units.all s.awake then s   -- its cluster's Check Unit is stopped (R22)
  else if v.isCkpt then s.ckptPump v.q v.count (2 * v.blocks + 8) else s.restorePump v.q v.count (2 ^ 26)

/-- An operation of a stream has ended. -/
def State.streamEnded (s : State) (q : Nat) (count : Word32) (tag : Nat) (e : Ended) : State :=
  match s.findSvc q count with
  | none => s
  | some v =>
    if e.status ≠ Status.success then s.failSvc v e.status
    else if v.isCkpt then
      let left := (assoc v.writes tag).getD 0 - 1
      if left ≠ 0 then s.modSvc q count fun v => { v with writes := assocSet v.writes tag left }
      else
        let data := decide (1 ≤ tag ∧ tag ≤ v.blocks)
        let s := s.modSvc q count fun v =>
          { v with writes := assocDel v.writes tag, bytes := v.bytes + if data then v.payloadOf tag else 0,
                   ended := if data then v.ended + 1 else v.ended }
        let s := if tag ≤ v.blocks then s.svcLaceUp v else s
        s.streamPump v
    else
      (s.modSvc q count fun v => { v with got := v.got ++ [(tag, e.data)] }).streamPump v

/-! ## Starting -/

/-- A service that may start takes its scratch units and begins. -/
def State.svcStart (s : State) (v : Service) : State :=
  let units := s.svcUnits v
  let cs := s.arithClusters
  let gate := v.gated
  let piece (k : Nat) : Piece := { index := k, cluster := cs.getD (k % max 1 cs.length) 0, gate }
  let pieces := if v.opcode = Op.quant ∨ v.isOpt then (List.range (v.cut cs.length).length).map piece else []
  let set (v : Service) : Service :=
    { v with stage := 3, deferred := false, old := false, units, pieces, step := 1, next := if v.isCkpt then 1 else 0 }
  let s := (s.modSvc v.q v.count set).wakeAll (pieces.map (·.cluster) ++ if pieces.isEmpty then units else []).dedup
  if v.opcode = Op.lowrank then
    match s.findGroup v.handle with
    | some g =>
      (s.modGroup v.handle fun g => { g with nextSeq := g.nextSeq + 3 }).modSvc v.q v.count fun v => { v with seq := g.nextSeq }
    | none => s
  else if v.isCkpt ∨ v.opcode = Op.restore then
    match s.findSvc v.q v.count with
    | some v => s.streamPump v
    | none => s
  else s

/-- The scratch that a service needs is free, and firmware starts services (R275, R484). -/
def State.svcFits (s : State) (v : Service) : Bool :=
  s.scratchUsed + (s.svcUnits v).length ≤ s.scratchTotal && !s.fwAway

/-- Record and range list are read: check, and start or defer. -/
def State.svcBegin (s : State) (q : Nat) (count : Word32) : State :=
  match s.findSvc q count with
  | none => s
  | some v =>
    match s.svcCheck v with
    | some c => s.failSvc v c
    | none =>
      if s.svcFits v ∧ !(s.work.services.any (·.deferred)) then ({ s with work.serviceTurn := v.slice } : State).svcStart v
      else (s.modSvc q count fun v => { v with stage := 2, deferred := true }).bump .slcSvcStatDeferred v.slice |>.bump .fwmLoadDeferredStarts 0

/-- Bytes that a service waited for have arrived: its record, its range list, or a part of a local stream. -/
def State.svcArrived (s : State) (q : Nat) (count : Word32) (offset : Nat) (b : List Byte) : Nat → State
  | 0 => s
  | fuel + 1 =>
    match s.findSvc q count with
    | none => s
    | some v =>
      if v.stage = 0 then
        let s := s.modSvc q count fun v => { v with rec_ := b, stage := 1 }
        if v.opcode = Op.ckpt ∨ v.opcode = Op.restore then
          match s.findSvc q count with
          | none => s
          | some v =>
            if !v.fieldsOk 1 then s.failSvc v Status.descMalformed
            else match s.access (svcAccess v (q % 8) v.listOffset (16 * v.rangeCount) false []) with
              | (s, .done b) => s.svcArrived q count v.listOffset b fuel
              | (s, .fail c) => s.failSvc v c
              | (s, _) => s
        else s.svcBegin q count
      else if v.stage = 1 then
        let rs := (runsOf 16 b.length b).map fun r => (leField r 0 7, leField r 8 15)
        (s.modSvc q count fun v => { v with ranges := rs }).svcBegin q count
      else if v.opcode = Op.restore then
        match v.writes.find? fun w => v.f64 8 + (v.part w.1).1 = offset && (v.part w.1).2 = b.length with
        | some w => (s.modSvc q count fun v => { v with got := v.got ++ [(w.1, b)] }).streamPump v
        | none => s
      else s

/-- A service descriptor: its operands are checked, and its record is read once (R272). -/
def State.svcPostDesc (s : State) (q : Nat) (count : Word32) (op : Nat) : State :=
  match s.ready q count op with
  | none => s
  | some (x, d) =>
    let e := d.entry
    let bad (s : State) (c : Status) : State := (s.bump .slcSvcStatCompleted x.slice).endWith q count c
    if !svcOperandsOk e (s.quota x.slice).lace then bad s Status.descMalformed
    else
      let v : Service := { q, count, slice := x.slice, gen := x.gen, as := x.as, opcode := op, stoch := Desc.svcStoch e,
                           lace := Desc.svcLace e }
      let s := { s with work.services := s.work.services ++ [v] }
      let s := s.modStarted q count fun d => { d with run := true }
      match s.access (svcAccess v (q % 8) (Desc.svcRecord e) (recordBytes op) false []) with
      | (s, .done b) => s.svcArrived q count (Desc.svcRecord e) b 2
      | (s, .fail c) => s.failSvc v c
      | (s, _) => s

/-! ## Pieces (R274, R280 to R284) -/

/-- The piece's turn on its cluster: lower pieces first, or gated ones in the order in which their gates opened. -/
def Service.turn (v : Service) (p : Piece) : Bool :=
  let undone (k : Nat) : Bool := v.pieces.any fun x => x.index = k && x.cluster = p.cluster && !x.done
  if v.gated then (v.opened.filter undone).head? = some p.index
  else v.pieces.all fun x => x.cluster ≠ p.cluster || p.index ≤ x.index || x.done

/-- A piece's outputs are written. -/
def State.pieceWritten (s : State) (v : Service) (p : Piece) (bytes detail : Nat) : State :=
  let fin (x : Piece) : Piece := { x with done := true }
  let s := s.modSvc v.q v.count fun v =>
    { v with bytes := v.bytes + bytes, detail := v.detail + detail, pieces := updWhere (fun x => x.index = p.index) fin v.pieces }
  let s := (s.bump .cluSvcStatPiecesDone p.cluster).svcLaceUp v
  match s.findSvc v.q v.count with
  | some v => if v.pieces.all (·.done) then s.endSvc v.q v.count Status.success v.detail else s
  | none => s

/-! ## LOWRANK (R285 to R288) -/

/-- The collective operation of a LOWRANK step. -/
def Service.collStep (v : Service) (n : Nat) : CollOp :=
  let m := v.rows
  let r := v.rank
  let per := v.cols / max 1 n
  let base : CollOp := { q := v.q, count := v.count, seq := v.seq, kind := CK.allReduce, alg := 0, dt := DT.f32, red := 0,
                         flags := if v.stoch then 8 else 0,
                         elems := m * r, send := v.f64 24, recv := v.f64 24, root := 0, aux := 0, lace := none, svc := true }
  if v.step = 3 then base
  else if v.step = 6 then
    { base with seq := v.seq + 1, kind := CK.reduceScatter, dt := v.f8 85, red := 3, elems := per * r, send := v.f64 40,
                recv := v.f64 48 }
  else
    { base with seq := v.seq + 2, kind := CK.gatherMultiply, dt := v.f8 85, elems := per * r, send := v.f64 48, recv := v.f64 56,
                record := some (leBytes 8 (v.f64 32) ++ leBytes 8 (v.f64 64) ++ leBytes 4 per ++ leBytes 4 r ++ leBytes 4 m
                  ++ leBytes 1 (v.f8 86) ++ [0, 0, 0]) }

/-- No LOWRANK of the group with lower sequence numbers still has an operation to run (R223, R285). -/
def State.lowTurn (s : State) (v : Service) : Bool :=
  !(s.work.services.any fun w => w.opcode = Op.lowrank && w.stage = 3 && w.handle = v.handle && w.seq < v.seq && w.step ≤ 7)

/-- Begin the collective operation of a step, once the group has none in progress and its sequence number is the next. -/
def State.lowColl (s : State) (v : Service) : State :=
  match s.findGroup v.handle with
  | none => s.endSvc v.q v.count Status.localAccess 0
  | some g =>
    if g.state = .broken then s.endSvc v.q v.count Status.collAborted 0
    else if g.state ≠ .ready ∨ g.op.isSome ∨ !s.lowTurn v then s
    else
      let o := v.collStep g.n
      match s.collCheck v.slice v.as g o true with
      | .error c => s.endSvc v.q v.count c 0
      | .ok alg => s.collBegin g.handle { o with alg := alg }

def isCollStep (k : Nat) : Bool := k = 3 || k = 6 || k = 7

/-- A step is done: LaceStep goes up, and the next starts or the service completes. -/
def State.lowDone (s : State) (v : Service) (bytes detail : Nat) : State :=
  let s := s.svcLaceUp v
  let s := s.modSvc v.q v.count fun v =>
    { v with step := v.step + 1, collEnd := none, bytes := v.bytes + bytes, detail := v.detail + detail }
  match s.findSvc v.q v.count with
  | none => s
  | some v =>
    if 8 < v.step then s.endSvc v.q v.count Status.success v.detail
    else if isCollStep v.step then s.lowColl v else s

/-- Count a step's shares on its clusters. -/
def State.shares (s : State) (cs : List Nat) : State := cs.foldl (fun s c => s.bump .cluSvcStatPiecesDone c) s

/-- Outputs are written: their piece or step is done. -/
def State.svcNext (s : State) (v : Service) : SvcNext → State
  | .piece k bytes detail =>
    match v.pieces.find? fun p => p.index = k with
    | some p => s.pieceWritten v p bytes detail
    | none => s
  | .step cs bytes detail => (s.shares cs).lowDone v bytes detail

/-- What follows the outputs happens once all are through: at once, or with the last that waits. -/
def State.svcOwed (s : State) (v : Service) (tag : Nat) (x : SvcNext) (through : Bool) : State :=
  if through then s.svcNext v x else s.modSvc v.q v.count fun v => { v with owed := v.owed ++ [(tag, x)] }

/-- An output that waited is written. -/
def State.svcOutEnded (s : State) (q : Nat) (count : Word32) (tag : Nat) : State :=
  match s.findSvc q count with
  | none => s
  | some v =>
    if s.xlate.waiting.any fun w => w.access.use = .svcOut q count tag then s
    else match assoc v.owed tag with
      | none => s
      | some x =>
        let v' : Service := { v with owed := v.owed.filter fun o => o.1 ≠ tag }
        (s.modSvc q count fun v => { v with owed := v.owed.filter fun o => o.1 ≠ tag }).svcNext v' x

/-- A piece of QUANT. -/
def State.quantPiece (s : State) (v : Service) (p : Piece) (host : List MemCell) (first n : Nat) : State :=
  let inT := v.f8 32
  let outT := v.f8 33
  let ins := [(v.f64 0 + first * elemBytes inT, n * elemBytes inT)]
    ++ (if v.feedback then [(v.f64 16 + 4 * first, 4 * n)] else [])
  let outs := [(v.f64 8 + dtBytes outT first, dtBytes outT n)] ++ (if v.feedback then [(v.f64 16 + 4 * first, 4 * n)] else [])
  let base := s.freeCount
  let ys (bs : List (List Byte)) : List Num :=
    quantInput (decodeData inT (bs.getD 0 [])) (if v.feedback then some (decodeData DT.f32 (bs.getD 1 [])) else none)
  let run (bs : List (List Byte)) : List (List Byte) :=
    let y := ys bs
    let q := encodeData outT true (draws v.stoch base) y
    [q, encodeData DT.f32 false (draws false 0) (quantResidual y (decodeData outT q))]
  match s.svcReads v p.cluster host ins with
  | (s, .ok bs) =>
    let bad := badBlocks (ys bs)
    match s.svcWork v p.cluster p.index ((outs.map (·.1)).zip (run bs)) with
    | (s, some through) =>
      ({ s with freeCount := s.freeCount + if v.stoch then n else 0 } : State).svcOwed v p.index (.piece p.index (dtBytes outT n) bad) through
    | (s, none) => s
  | (s, .error (.fail c)) => s.failSvc v c
  | (s, .error _) => s

/-- The step constants of an OPTSTEP record. -/
def Service.consts (v : Service) : OptConst :=
  optConst (v.f8 44) ((v.f8 47).testBit 0) ((v.f8 47).testBit 1) (recF32 v.rec_ 48) (recF32 v.rec_ 52) (recF32 v.rec_ 56)
    (recF32 v.rec_ 60) (recF32 v.rec_ 64) (recF32 v.rec_ 68) (v.f64 72)

/-- A piece of OPTSTEP. -/
def State.optPiece (s : State) (v : Service) (p : Piece) (host : List MemCell) (first n : Nat) : State :=
  let gT := v.f8 45
  let copyT := v.f8 46
  let adam := decide (v.f8 44 = 1)
  let at4 (base : Nat) : Nat × Nat := (base + 4 * first, 4 * n)
  let scan := if v.skip ∧ !v.gated ∧ !v.scanned then [(v.f64 0, v.elements * elemBytes gT)] else []
  match s.svcReads v p.cluster host scan with
  | (s, .error (.fail c)) => s.failSvc v c
  | (s, .error _) => s
  | (s, .ok whole) =>
    let found := (decodeData gT whole.flatten).countP fun x => !x.isFin
    if found ≠ 0 then s.endSvc v.q v.count Status.svcNonfinite found
    else
      let s := s.modSvc v.q v.count fun v => { v with scanned := true }
      let ins := [(v.f64 0 + first * elemBytes gT, n * elemBytes gT), at4 (v.f64 8), at4 (v.f64 16)]
        ++ (if adam then [at4 (v.f64 24)] else [])
      match s.svcReads v p.cluster host ins with
      | (s, .error (.fail c)) => s.failSvc v c
      | (s, .error _) => s
      | (s, .ok bs) =>
        let ds := decodeData gT (bs.getD 0 [])
        let odd := ds.countP fun x => !x.isFin
        if v.skip ∧ odd ≠ 0 then s.endSvc v.q v.count Status.svcNonfinite odd
        else
          let res := optRun v.consts ds (decodeData DT.f32 (bs.getD 1 [])) (decodeData DT.f32 (bs.getD 2 []))
            (decodeData DT.f32 (bs.getD 3 []))
          let f32 (l : List Num) : List Byte := encodeData DT.f32 false (draws false 0) l
          let ps := res.map (·.1)
          let copy := encodeData copyT (s.fp8Sat v.slice) (draws v.stoch s.freeCount) ps
          let outs := [(at4 (v.f64 8), f32 ps), (at4 (v.f64 16), f32 (res.map (·.2.1)))]
            ++ (if adam then [(at4 (v.f64 24), f32 (res.map (·.2.2)))] else [])
            ++ (if copyT ≠ 0 then [((v.f64 32 + first * elemBytes copyT, n * elemBytes copyT), copy)] else [])
          match s.svcWork v p.cluster p.index (outs.map fun x => (x.1.1, x.2)) with
          | (s, some through) =>
            ({ s with freeCount := s.freeCount + if v.stoch ∧ copyT ≠ 0 then n else 0 } : State).svcOwed v p.index
              (.piece p.index (4 * n) odd) through
          | (s, none) => s

/-- A granule of a service is being recomputed, on one cluster or on any: its results are not written yet (R267, R268). -/
def State.recomputes (s : State) (v : Service) (cluster : Option Nat) : Bool :=
  s.work.recomputing.any fun m => m.q = v.q && m.count = v.count && cluster.all fun c => m.cluster = c

/-- Run one piece. -/
def State.runPiece (s : State) (v : Service) (k : Nat) (host : List MemCell) : State :=
  match v.pieces.find? fun p => p.index = k with
  | none => s
  | some p =>
    if v.stage ≠ 3 ∨ p.done ∨ p.gate ∨ v.owed.any (fun o => o.1 = k) ∨ !v.turn p ∨ !s.arithRuns ∨ (v.stoch ∧ s.keys.drbgHalted) ∨ s.recomputes v (some p.cluster) then s
    else if s.arithOutOf p.cluster then s.failSvc v Status.residueFault
    else
      let (first, n) := (v.cut v.units.length).getD k (0, 0)
      if v.opcode = Op.quant then s.quantPiece v p host first n else s.optPiece v p host first n

/-! ## The steps of LOWRANK -/

/-- Run a computing step; `drawn` random draws are used up where StochRound applies to its conversions (R258). -/
def State.lowWork (s : State) (v : Service) (host : List MemCell) (ins outs : List (Nat × Nat))
    (f : List (List Byte) → List (List Byte)) (bytes : Nat) (detail : List (List Byte) → Nat) (cs : List Nat) (drawn : Nat) : State :=
  match s.svcReads v (cs.headD 0) host ins with
  | (s, .error (.fail c)) => s.failSvc v c
  | (s, .error _) => s
  | (s, .ok bs) =>
    match s.svcWork v (cs.headD 0) 0 ((outs.map (·.1)).zip (f bs)) with
    | (s, some through) =>
      ({ s with freeCount := s.freeCount + if v.stoch then drawn else 0 } : State).svcOwed v 0 (.step cs bytes (detail bs)) through
    | (s, none) => s

/-- The step of a LOWRANK that comes next. -/
def State.lowStep (s : State) (v : Service) (host : List MemCell) : State :=
  let m := v.rows
  let n := v.cols
  let r := v.rank
  let gT := v.f8 84
  let qT := v.f8 85
  let oT := v.f8 86
  let cs := s.arithClusters
  let sat := s.fp8Sat v.slice
  let g : Nat × Nat := (v.f64 0, m * n * elemBytes gT)
  let e : Nat × Nat := (v.f64 8, 4 * m * n)
  let w : Nat × Nat := (v.f64 16, m * n * elemBytes qT)
  let p : Nat × Nat := (v.f64 24, 4 * m * r)
  let pw : Nat × Nat := (v.f64 32, m * r * elemBytes qT)
  let ql : Nat × Nat := (v.f64 40, n * r * elemBytes qT)
  let qq : Nat × Nat := (v.f64 56, n * r * elemBytes qT)
  let out : Nat × Nat := (v.f64 64, m * n * elemBytes oT)
  let base := s.freeCount
  let enc (dt : Nat) (l : List Num) : List Byte := encodeData dt sat (draws (v.stoch && dt ≠ DT.f32) base) l
  let sum (bs : List (List Byte)) : List Num :=
    quantInput (decodeData gT (bs.getD 0 [])) (if v.feedback then some (decodeData DT.f32 (bs.getD 1 [])) else none)
  let ge := g :: (if v.feedback then [e] else [])
  if v.stage ≠ 3 ∨ !v.owed.isEmpty ∨ !s.arithRuns ∨ !v.units.all s.awake ∨ s.recomputes v none ∨ (v.stoch ∧ s.keys.drbgHalted) then s
  else if isCollStep v.step then
    match v.collEnd with
    | none => if (s.findGroup v.handle).any (fun g => g.op.any (·.svc)) then s else s.lowColl v
    | some (c, d) =>
      if c = Status.success then s.lowDone v (if v.step = 7 then out.2 else 0) 0 else s.endSvc v.q v.count c d
  else if cs.isEmpty ∨ v.units.any s.arithOutOf then s.failSvc v Status.residueFault
  else if v.step = 1 then s.lowWork v host ge [w] (fun bs => [enc qT (sum bs)]) 0 (fun _ => 0) cs (m * n)
  else if v.step = 2 then
    s.lowWork v host [w, qq] [p] (fun bs => [enc DT.f32 (lowP m n r (decodeData qT (bs.getD 0 [])) (decodeData qT (bs.getD 1 [])))])
      0 (fun _ => 0) cs 0
  else if v.step = 4 then
    let cols (bs : List (List Byte)) : List (List Num) × Nat := ortho (runsOf m r (decodeData DT.f32 (bs.getD 0 [])))
    s.lowWork v host [p] [p, pw] (fun bs => [enc DT.f32 (cols bs).1.flatten, enc qT (cols bs).1.flatten]) 0
      (fun bs => (cols bs).2) s.bestCluster.toList (m * r)
  else if v.step = 5 then
    s.lowWork v host [w, pw] [ql] (fun bs => [enc qT (lowQ m n r (decodeData qT (bs.getD 0 [])) (decodeData qT (bs.getD 1 [])))])
      0 (fun _ => 0) cs (n * r)
  else if v.feedback then
    s.lowWork v host [g, e, out] [e]
      (fun bs => [enc DT.f32 (((sum bs).zip (decodeData oT (bs.getD 2 []))).map fun x => fsub x.1 x.2)]) 0 (fun _ => 0) cs 0
  else (s.shares cs).lowDone v 0 0

/-- A collective operation of a LOWRANK that did not succeed ends it (R288). -/
def State.lowFailed (s : State) : State :=
  s.work.services.foldl (fun s v =>
    match v.collEnd with
    | some (c, d) => if c = Status.success then s else s.endSvc v.q v.count c d
    | none => s) s

end Sys2Proof.Machine
end

