-- ==== Sys2Proof/Machine/Settle.lean ====
section
/-! DEFINITION. The end of a command: operations on connections that ended within it reach what started them. -/

namespace Sys2Proof.Machine

/-- Tell the origin of an ended operation. -/
def State.tellOrigin (s : State) (e : Ended) : State :=
  match e.origin with
  | .coll g id => s.chunkEnded g id e.status
  | .eyelet id => s.eyeletDone id e.status e.data
  | .ckpt q n tag => s.streamEnded q n tag e
  | _ => s

/-- Tell every origin, and those of the operations that end meanwhile. -/
def State.tellAllOrigins (s : State) : Nat → State
  | 0 => s
  | fuel + 1 =>
    match s.trans.ended with
    | [] => s
    | e :: r => (({ s with trans.ended := r } : State).tellOrigin e).tellAllOrigins fuel

/-- Ends that waited for in-flight records go on once the pool has some (R294). -/
def State.serveRecordWaits (s : State) : State :=
  if s.mem.infPool = 0 then s
  else s.mem.infWaits.foldl (fun s k => s.kick k) ({ s with mem.infWaits := [] } : State)

/-- Chunks that came before their offset was known are taken, or refused as any other, once it is or their operation has ended (R238). -/
def State.serveCounts (s : State) : State :=
  let due (h : Nat) : Bool := match s.findGroup h with
    | none => true
    | some g => g.op.all fun o => countsKnown (s.shape g o) o
  let (s, held) := s.takeHeld fun w => match w with | .counts h => due h | _ => false
  held.foldl (fun s a => s.again_ (s.received a)) s

/-- The end of a command: ends that waited for records and Eyelet loads whose turn it is send, and origins are told. -/
def State.settle (s : State) : State := (s.serveRecordWaits.serveCounts.sendEyeletLoads.tellAllOrigins 1048576).lowFailed

end Sys2Proof.Machine
end

