-- ==== Sys2Proof/Machine/Connect.lean ====
section
/-! DEFINITION. Setting up and closing connections (R154, R161 to R168, R421, R536), pauses (R180), re-homing (R387, R388),
rekeying (R430), the site baseline feed (R198), and the repeats of control messages (R163). -/

namespace Sys2Proof.Machine

/-! ## Setup at the acceptor (R161, R162, R222) -/

/-- Answer a CONNECT_REQ with CONNECT_REFUSE. -/
def State.refuseConnect (s : State) (a : Arrival) (src : Coord) (seq : Word32) (b : ConnectReqBody) (st : Status) (reason : Nat) :
    State :=
  s.answerCtrl a src (.connectRefuse b.initIndex b.initInc b.listenId st reason) seq

/-- Answer a CONNECT_REQ with the CONNECT_ACK of an end. -/
def State.ackConnect (s : State) (a : Arrival) (src : Coord) (seq : Word32) (c : Conn) : State :=
  s.answerCtrl a src (.connectAck (BitVec.ofNat 24 c.index) c.incarnation c.listenId c.initPsn) seq

/-- The end that a CONNECT_REQ already made. -/
def State.accepted (s : State) (src : Coord) (b : ConnectReqBody) : Option Conn :=
  s.trans.conns.find? fun c =>
    !c.initiator && c.peer = src && c.joined && c.peerIndex = b.initIndex && c.peerInc = b.initInc
      && (c.state = .opened || c.state = .connecting)

/-- The member of an accepting set that a CONNECT_REQ is for: the one behind the member joined last. -/
def State.nextMember (s : State) (src : Coord) (b : ConnectReqBody) : Option Conn :=
  s.trans.conns.find? fun c =>
    !c.initiator && c.peer = src && c.state = .connecting && !c.joined && c.listenId = b.listenId && c.stripes = b.stripes
      && (s.findConn (c.index - 1)).any fun p => p.stripeFirst = c.stripeFirst && p.joined && p.peerIndex + 1 = b.initIndex

/-- Create the accepting set of a spec; its first member joins. -/
def State.acceptEnd (s : State) (x : EndSpec) (k : Nat) (b : ConnectReqBody) : State :=
  (s.makeSet x k false none).joinEnd k b.initIndex b.initInc b.initPsn

/-- Why a listen's end refuses a CONNECT_REQ: the status and the reason of R164. -/
def State.listenRefuses (s : State) (l : Listen) (tenant : BitVec 24) (b : ConnectReqBody) : Option (Status × Nat) :=
  let p := l.params
  let n := b.stripes
  if (s.slice l.slice).tenant ≠ tenant then some (Status.localAccess, 2)
  else if b.mode ≠ p.mode ∨ b.trafficClass ≠ p.trafficClass ∨ b.payloadLog ≠ p.payloadLog ∨ b.encrypted ≠ (slotOpt p.sendSlot).isSome
      ∨ !([1, 2, 4] : List Nat).contains n ∨ (n > 1 ∧ (b.mode = 0 ∨ b.trafficClass = 7)) then some (Status.descMalformed, 3)
  else if (s.quota l.slice).conns < s.connsOf l.slice + n then some (Status.noResources, 4)
  else if s.nearAllow l.slice < s.inNear l.slice + n then some (Status.noResources, 5)
  else if b.trafficClass = 7 ∧ 1024 ≤ s.classSevenEnds then some (Status.noResources, 6)
  else none

/-- The listen that a CONNECT_REQ names: one with its ListenId, of a slice with its tag where there is one. -/
def State.findListen (s : State) (id : Word32) (tenant : BitVec 24) : Option Listen :=
  let ls := s.trans.listens.filter fun l => l.params.listenId = id
  (ls.find? fun l => (s.slice l.slice).tenant = tenant).orElse fun _ => ls.head?

/-- A member's group and the lower rank whose end the CONNECT_REQ opens (R222). -/
def State.groupFor (s : State) (src : Coord) (id : Word32) : Option (Group × Nat) :=
  s.work.groups.findSome? fun g =>
    ((s.groupPeers g).find? fun r =>
      r < g.me && (g.members.getD r (0, 0)).1 = src && groupListen g.params.name g.me r = id).map fun r => (g, r)

/-- Accept a group's end. -/
def State.acceptGroup (s : State) (a : Arrival) (src : Coord) (seq : Word32) (b : ConnectReqBody) (g : Group) (r : Nat) : State :=
  if (s.slice g.slice).tenant ≠ a.peerTag then s.refuseConnect a src seq b Status.localAccess 2
  else if b.mode ≠ 1 ∨ b.trafficClass ≠ g.params.trafficClass ∨ b.payloadLog ≠ 13 ∨ b.encrypted ∨ !([1, 4] : List Nat).contains b.stripes then
    s.refuseConnect a src seq b Status.descMalformed 3
  else if (s.quota g.slice).conns < s.connsOf g.slice + b.stripes then s.refuseConnect a src seq b Status.noResources 4
  else match s.newIndex b.stripes b.trafficClass (some g.home) false with
    | none => s.refuseConnect a src seq b Status.noResources 4
    | some k =>
      let s := (s.acceptEnd (groupEnd g r b.stripes) k b).modGroup g.handle fun g => { g with conns := assocSet g.conns r k }
      match s.findConn k with
      | some c => (s.ackConnect a src seq c).groupReady g.handle
      | none => s

/-- Accept a listen's end: CONN_ARRIVED is written and CONNECT_ACK sent. -/
def State.acceptListen (s : State) (a : Arrival) (src : Coord) (seq : Word32) (b : ConnectReqBody) (l : Listen) : State :=
  match s.listenRefuses l a.peerTag b with
  | some (st, reason) => s.refuseConnect a src seq b st reason
  | none =>
    let p := l.params
    let x : EndSpec :=
      { slice := l.slice, peer := src, mode := p.mode, tc := p.trafficClass, payloadLog := p.payloadLog, stripes := b.stripes,
        sendSlot := slotOpt p.sendSlot, recvSlot := slotOpt p.recvSlot, as := p.addressSpace, listenId := p.listenId }
    match s.newIndex b.stripes b.trafficClass none b.encrypted with
    | none => s.refuseConnect a src seq b Status.noResources 4
    | some k =>
      let s := s.acceptEnd x k b
      match s.findConn k with
      | some c =>
        (s.ackConnect a src seq c).raise
          { slice := l.slice, code := EventCode.connArrived, cluster := c.home, object := k,
            info := p.listenId.toNat + src.toNat * 2 ^ 32 }
      | none => s

/-- CONNECT_REQ (R161). Without the DRBG no end can be made, and the message is left to its repeats (R423). -/
def execConnectReq (a : Arrival) (body : ConnectReqBody) (s : State) : Result :=
  .next (s.nodeCtrl a fun s src seq =>
    if s.fwAway then s
    else match s.accepted src body with
    | some c => s.ackConnect a src seq c
    | none => match s.nextMember src body with
      | some c =>
        let s := (s.joinEnd c.index body.initIndex body.initInc body.initPsn).ackConnect a src seq c
        match c.group with
        | some h => s.groupReady h
        | none => s
      | none =>
        if s.keys.drbgHalted then s
        else match s.groupFor src body.listenId, s.findListen body.listenId a.peerTag with
          | some (g, r), _ => s.acceptGroup a src seq body g r
          | none, some l => s.acceptListen a src seq body l
          | none, none => s.refuseConnect a src seq body Status.localAccess 1).settle

/-! ## Setup at the initiator (R162, R536) -/

/-- The end whose CONNECT_REQ a reply answers. -/
def State.connecting (s : State) (src : Coord) (seq : Word32) : Option Conn :=
  (s.trans.ctrlOut.find? fun o => o.seq = seq && o.dst = src && o.conn.isNone).bind fun o =>
    match o.msg with
    | .connectReq b => (s.findConn b.initIndex.toNat).filter fun c => c.state = .connecting && c.incarnation = b.initInc
    | _ => none

/-- A set is Open: CONN_CREATE responds, and the parked packets are processed. -/
def State.setOpened (s : State) (c : Conn) : State :=
  let first := s.firstOf c
  let s := (s.modConn first.index fun c => { c with creator := none }).respondTo first.creator Status.success
    [first.index, first.incarnation.toNat]
  let s := (List.range first.stripes).foldl (fun s i => s.unpark (first.index + i)) s
  match first.group with
  | some h => s.groupReady h
  | none => s

/-- CONNECT_ACK: the member joins. The next member's CONNECT_REQ follows, or the set is Open. -/
def execConnectAck (a : Arrival) (accIndex : BitVec 24) (accInc : BitVec 8) (listenId accPsn : Word32) (s : State) : Result :=
  .next (s.nodeCtrl a fun s src seq =>
    match s.connecting src seq with
    | none => s
    | some c =>
      if c.listenId ≠ listenId ∨ s.fwAway then s
      else
        let s := (s.dropCtrl fun o => o.seq = seq && o.dst = src && o.conn.isNone).joinEnd c.index accIndex accInc accPsn
        match (s.members c).find? fun m => !m.joined with
        | some m => s.sendCtrl src (.connectReq (connectBody m))
        | none => s.setOpened c).settle

/-- Ask again for a group's end under a new CtrlSeq, an interval later: its peer has not made its group yet (R222). -/
def State.askAgain (s : State) (o : CtrlOut) : State :=
  let seq := s.trans.ctrlSeq + 1
  let next (x : CtrlOut) : CtrlOut := { x with seq, tries := 0, nextAt := s.time.now + s.ctrlInterval o.dst }
  { s with trans.ctrlSeq := seq, trans.ctrlOut := updWhere (fun x => x.seq = o.seq) next s.trans.ctrlOut }

/-- CONNECT_REFUSE: CONN_CREATE ends with the code, and there is no end. -/
def execConnectRefuse (a : Arrival) (initIndex : BitVec 24) (initInc : BitVec 8) (listenId : Word32) (status _reason : Nat)
    (s : State) : Result :=
  .next (s.nodeCtrl a fun s src seq =>
    match s.connecting src seq, s.trans.ctrlOut.find? fun o => o.seq = seq && o.dst = src && o.conn.isNone with
    | some c, some o =>
      if s.fwAway ∨ c.index ≠ initIndex.toNat ∨ c.incarnation ≠ initInc ∨ c.listenId ≠ listenId then s
      else if c.group.isSome then s.askAgain o
      else
        let s := s.dropCtrl fun o => o.seq = seq && o.dst = src && o.conn.isNone
        (s.respondTo (s.firstOf c).creator (BitVec.ofNat 8 status) []).freeSet c
    | _, _ => s)

/-! ## Closing (R168) -/

/-- A rekey ends without an answer: CONN_REKEY completes with PEER_UNREACHABLE (R430). -/
def State.rekeyOver (s : State) (c : Conn) : State :=
  match c.rekey with
  | some (slice, tag, _) => (s.modConn c.index fun c => { c with rekey := none }).respond (slice, tag) Status.peerUnreachable []
  | none => s

/-- CLOSE at the peer. An end that is gone already is closed: CLOSE_ACK says so. -/
def execClose (a : Arrival) (sIndex : BitVec 24) (sInc : BitVec 8) (rIndex : BitVec 24) (rInc : BitVec 8) (s : State) : Result :=
  .next (s.nodeCtrl a fun s src seq =>
    let done (s : State) : State := s.answerCtrl a src (.closeAck sIndex sInc rIndex rInc) seq
    if s.fw.resetting then s
    else match s.findConn rIndex.toNat with
    | none => done s
    | some c =>
      if c.incarnation ≠ rInc ∨ c.peer ≠ src ∨ c.peerIndex ≠ sIndex ∨ c.peerInc ≠ sInc ∨ c.state = .gone then done s
      else
        let first := s.firstOf c
        let s := ((s.rekeyOver first).endOps first Status.peerUnreachable).freeSet first
        done (s.raise { slice := c.slice, code := EventCode.connClosed, cluster := first.home, object := first.index })).settle

/-- CLOSE_ACK: the closing end becomes Free. -/
def execCloseAck (a : Arrival) (sIndex : BitVec 24) (sInc : BitVec 8) (_rIndex : BitVec 24) (_rInc : BitVec 8) (s : State) : Result :=
  .next (s.nodeCtrl a fun s src seq =>
    let mine (o : CtrlOut) : Bool := o.seq = seq && o.dst = src && (match o.msg with | .close i n _ _ => i = sIndex && n = sInc | _ => false)
    if s.trans.ctrlOut.any mine ∧ !s.fw.resetting then
      let s := s.dropCtrl mine
      match s.findConn sIndex.toNat with
      | some c => if c.state = .closing then s.freeSet c else s
      | none => s
    else s)

/-! ## Pauses (R48, R180) -/

/-- Ends toward a node. -/
def State.endsTo (s : State) (c : Coord) : List Conn := s.trans.conns.filter fun x => x.peer = c && x.state = .opened

/-- PAUSE: every end toward the node is Paused, for at most 200 ms. -/
def execPause (a : Arrival) (_pauseUs : Nat) (_serial : Word64) (s : State) : Result :=
  .next (s.nodeCtrl a fun s src seq =>
    let now := s.time.now
    ((s.endsTo src).foldl (fun s c => s.modConn c.index fun c => { c with pausedUntil := some (now + 200000000, now) }) s).ackCtrl a
      src seq)

/-- The Paused condition of an end ends: what may have been lost is resent without a retry, and the timers restart. -/
def State.endPause (s : State) (c : Conn) : State :=
  match c.pausedUntil with
  | none => s
  | some (_, since) =>
    let lost := c.inflight.filter fun r => !r.unsent && !r.covered && since < r.sentAt + c.srtt
    let s := lost.foldl (fun s r => s.again c.index r.psn false) s
    let first := (((s.findConn c.index).bind fun c => c.inflight.find? (·.unsent)).map (·.psn)).getD c.nextPsn
    let now := s.time.now
    (s.modConn c.index fun c => { c with pausedUntil := none, noSamples := some first, timerFrom := now }).kick c.index

/-- RESUME. -/
def execResume (a : Arrival) (_serial : Word64) (_aborted : Bool) (s : State) : Result :=
  .next (s.nodeCtrl a fun s src seq =>
    ((s.endsTo src).foldl (fun s c => s.endPause c) s).ackCtrl a src seq).settle

/-- PAUSE_EXPIRY: 200 ms have passed since the notice. -/
def execPauseExpiry (peer : Coord) (s : State) : Result :=
  .next (((s.endsTo peer).filter fun c => c.pausedUntil.any fun p => s.passed p.1).foldl (fun s c => s.endPause c) s).settle

/-! ## The site baseline feed (R198) -/

/-- Every other node of the site: the 64 of each node group that has a route. -/
def State.siteNodes (s : State) : List Coord :=
  match s.activeBank with
  | none => []
  | some b =>
    let base := coordSite s.coord * 1024
    let groups := (List.range 1024).filter fun k => (b.entry (base + k)).valid
    (groups.flatMap fun k => (List.range 64).map fun n => BitVec.ofNat 20 ((base + k) * 64 + n)).filter (· ≠ s.coord)

/-- SBT_FEED_SEND: a site manager sends its table, once per second. -/
def execSbtFeedSend (s : State) : Result :=
  if s.last.role = 2 ∧ s.due s.trans.feedAt then
    let rtts := (List.range 16).map fun k => (s.sbtRtt k).getD 0
    let s := { s with trans.feedAt := s.time.now + 1000000000 }
    .next (s.siteNodes.foldl (fun s c => s.sendCtrl c (.sbtFeed rtts)) s)
  else .next s

/-- Take a feed into the table. An entry that is not valid at the manager sends no value. -/
def State.takeFeed (s : State) (rtts : List Nat) : State :=
  let now := s.time.now
  let put (v : Vector SbtEntry 16) (k : Nat) : Vector SbtEntry 16 :=
    let r := rtts.getD k 0
    if r = 0 then v else vmod v k fun e => { e with feed := some (r, now) }
  { s with trans.sbt := (List.range 16).foldl put s.trans.sbt }

/-- SBT_FEED: from the site manager in force; any other is ignored. -/
def execSbtFeed (a : Arrival) (rtts : List Nat) (t : Trailer) (s : State) : Result :=
  .next (s.guardedCtrl a (.sbtFeed rtts) t fun s src seq =>
    if s.siteManager (coordSite s.coord) = src then (s.takeFeed rtts).ackCtrl a src seq else s)

/-! ## Rekeying (R430) -/

def execRekey (a : Arrival) (keyId : Word32) (s : State) : Result := .next (s.endCtrl a (.rekey keyId)).settle

def execRekeyAck (a : Arrival) (status : Nat) (s : State) : Result := .next (s.endCtrl a (.rekeyAck status)).settle

/-- CONN_REKEY: accepted only on an Open end, not fenced, encrypted and with nothing outstanding. -/
def State.connRekey (s : State) (slice : Nat) (tag : Word32) (conn slot : Nat) : State :=
  let answer (c : Status) : State := s.respond (slice, tag) c []
  match s.findConn conn with
  | none => answer Status.localAccess
  | some c0 =>
    let c := s.firstOf c0
    if c.slice ≠ slice then answer Status.localAccess
    else match s.keySlot slice slot false with
      | none => answer Status.descMalformed
      | some k =>
        if k.kind ≠ 1 then answer Status.descMalformed
        else if k.state = .exhausted then answer Status.cipherExhausted
        else if k.state = .empty then answer Status.descMalformed
        else if c.state ≠ .opened ∨ c.fenced ∨ c.sendSlot.isNone ∨ !s.quiet c ∨ c.rekey.isSome then answer Status.busy
        else
          let s := s.modConn c.index fun c => { c with rekey := some (slice, tag, slot) }
          s.sendEndCtrl c (.rekey k.keyId) true

def execConnRekey (slice : Fin 512) (tag : Word32) (conn : BitVec 24) (slot : Nat) (s : State) : Result :=
  match s.take slice tag MbxOp.connRekey with
  | (s, false) => .next s
  | (s, true) => .next (s.connRekey slice tag conn.toNat slot)

/-! ## Re-homing (R387, R388) -/

/-- A thaw is over once every peer has answered or run out of tries. -/
def State.finishThaw (s : State) (k : Nat) : State :=
  let x := s.slice k
  if x.thawer.isSome ∧ x.rehomed.isEmpty then
    let s := s.modSlice k fun x => { x with state := .active, restored := false, thawer := none, unanswered := 0 }
    (s.trans.conns.filter fun c => c.slice = k).foldl (fun s c => s.kick c.index) (s.respondTo x.thawer Status.success [x.unanswered])
  else s

/-- An end's RE_HOME has been answered, or has run out of tries, and then the end fails. -/
def State.rehomeDone (s : State) (c : Conn) (answered : Bool) : State :=
  let s := s.modConn c.index fun c => { c with rehome := none }
  let s := s.modSlice c.slice fun x =>
    { x with rehomed := x.rehomed.filter (· ≠ c.index), unanswered := if answered then x.unanswered else x.unanswered + 1 }
  (if answered then s else s.failEnd c Status.remoteSliceGone 0).finishThaw c.slice

/-- What a record's packet becomes for the peer's new place. -/
def movePacket (c : Coord) (inc : BitVec 8) (p : Packet) : Packet :=
  { p with destInc := inc, addr := p.addr.map fun a => { a with fpa := BitVec.ofNat 64 (mkFpa c (fpaOffset a.fpa.toNat)) } }

/-- An end's peer has moved (R388). -/
def State.moveEnd (s : State) (c : Conn) (newCoord : Coord) (newInc : BitVec 8) : State :=
  let now := s.time.now
  let open_ := c.inflight.filter fun r => !r.unsent && !r.covered
  let s := open_.foldl (fun s r => s.again c.index r.psn false) s
  let s := s.modConn c.index fun c =>
    { c with peer := newCoord, peerInc := newInc, timerFrom := now,
             inflight := c.inflight.map fun r => { r with pkt := movePacket newCoord newInc r.pkt },
             ops := c.ops.map fun o => { o with remote := mkFpa newCoord (fpaOffset o.remote) } }
  (s.raise { slice := c.slice, code := EventCode.connRehomed, cluster := c.home, object := c.index, info := newCoord.toNat }).kick
    c.index

/-- RE_HOME: accepted only where it names the end's peer; otherwise dropped and counted. -/
def execReHome (a : Arrival) (rIndex : BitVec 24) (rInc : BitVec 8) (oldCoord : Coord) (mIndex : BitVec 24) (oldInc : BitVec 8)
    (newCoord : Coord) (newInc : BitVec 8) (s : State) : Result :=
  .next (s.nodeCtrl a fun s src seq =>
    match s.findConn rIndex.toNat with
    | none => s.bump .cluCyqStat1StaleDrop 0
    | some c =>
      if c.state = .opened ∧ c.incarnation = rInc ∧ a.peerTag = (s.slice c.slice).tenant ∧ c.peer = oldCoord
          ∧ c.peerIndex = mIndex ∧ c.peerInc = oldInc then
        (s.moveEnd c newCoord newInc).answerCtrl a src (.reHomeAck rIndex rInc) seq
      else s.bump .cluCyqStat1StaleDrop 0).settle

/-- RE_HOME_ACK at the thawed slice. -/
def execReHomeAck (a : Arrival) (rIndex : BitVec 24) (rInc : BitVec 8) (s : State) : Result :=
  .next (s.nodeCtrl a fun s src seq =>
    let mine (o : CtrlOut) : Option Nat :=
      if o.seq = seq ∧ o.dst = src then
        match o.msg with
        | .reHome i n _ m _ _ _ => if i = rIndex ∧ n = rInc then some m.toNat else none
        | _ => none
      else none
    match (s.trans.ctrlOut.findSome? mine).bind s.findConn with
    | some c => (s.dropCtrl fun o => (mine o).isSome).rehomeDone c true
    | none => s).settle

/-! ## Acknowledgements and repeats (R163) -/

/-- CTRL_ACK: stops the repeats of the message it names. -/
def execCtrlAck (a : Arrival) (seq : Word32) (node : Bool) (s : State) : Result :=
  if node then
    .next (s.nodeCtrl a fun s src _ => s.dropCtrl fun o => o.seq = seq && o.dst = src && o.conn.isNone)
  else .next (s.endCtrl a (.ctrlAck seq false)).settle

/-- A message is repeated without limit: a collective's, while its end is Open (R234), and the request of a group's end. -/
def State.endless (s : State) (o : CtrlOut) : Bool :=
  match o.msg with
  | .hsUp .. | .hsDown .. | .hsCount .. | .credit .. | .mismatch .. | .abort .. => true
  | .connectReq b => (s.findConn b.initIndex.toNat).any fun c => c.group.isSome
  | _ => false

/-- A message of an end that is no longer Open is forgotten; CONN_REKEY completes as without an answer (R430). -/
def State.forgetCtrl (s : State) (o : CtrlOut) : State :=
  let s := s.dropCtrl fun x => x.seq = o.seq
  match o.msg, o.conn.bind s.findConn with
  | .rekey _, some c => s.rekeyOver c
  | _, _ => s

/-- A message has exhausted its tries. -/
def State.giveUp (s : State) (o : CtrlOut) : State :=
  let s := if o.msg.guarded then s.resyncTo o.dst else s
  let s := s.dropCtrl fun x => x.seq = o.seq
  match o.msg with
  | .connectReq b =>
    match s.findConn b.initIndex.toNat with
    | some c => (s.respondTo (s.firstOf c).creator Status.peerUnreachable []).freeSet c
    | none => s
  | .close i _ _ _ =>
    match s.findConn i.toNat with
    | some c => if c.state = .closing then s.freeSet c else s
    | none => s
  | .groupReg name _ rank dereg _ =>
    match s.work.groups.find? fun g => g.params.name = name && g.me = rank && !g.registered with
    | some g => if dereg then s else s.groupFails g.handle Status.peerUnreachable
    | none => s
  | .rtBegin e .. | .rtLoad e _ | .rtCommit e _ | .rtFlip e =>
    if s.route.flip.any fun x => x.epoch = e then s.workerFailed Status.peerUnreachable else s
  | .reHome _ _ _ m _ _ _ =>
    match s.findConn m.toNat with
    | some c => s.rehomeDone c false
    | none => s
  | .rekey _ =>
    match o.conn.bind s.findConn with
    | some c => (s.rekeyOver c).kickSet c
    | none => s
  | _ => s

/-- Send a message again, as repeat number `tries`. -/
def State.repeatCtrl (s : State) (o : CtrlOut) : State :=
  let next (x : CtrlOut) : CtrlOut := { x with tries := x.tries + 1, nextAt := s.time.now + s.ctrlInterval o.dst }
  let s := { s with trans.ctrlOut := updWhere (fun x => x.seq = o.seq) next s.trans.ctrlOut }
  match o.conn with
  | none => s.putCtrl o.dst o.msg o.seq o.tries o.alive
  | some k =>
    match s.findConn k with
    | none => s
    | some c =>
      s.sendC7 c.peer c.hash o.tries (fun p => .ctrl p o.msg none)
        { s.endPacket c .ctrl with last := true, ctrl := some ⟨o.msg.subtype, o.seq⟩ } c.slice (some c.index)

/-- CTRL_REPEAT_TIMER: the interval of R162 has passed without an answer. After 7 repeats the message has failed; one of
an end that is no longer Open is forgotten. -/
def execCtrlRepeatTimer (seq : Word32) (s : State) : Result :=
  match s.trans.ctrlOut.find? fun o => o.seq = seq with
  | none => .next s
  | some o =>
    if o.queued ∨ !s.passed o.nextAt then .next s
    else if o.conn.any fun k => !((s.findConn k).any fun c => c.state = .opened) then .next (s.forgetCtrl o)
    else if s.endless o ∨ o.tries ≤ 7 then .next (s.repeatCtrl o)
    else .next (s.giveUp o).settle

/-! ## Mailbox commands -/

/-- The stream key slots named together (R421). -/
def State.slotsRefused (s : State) (slice send recv : Nat) : Option Status :=
  match slotOpt send, slotOpt recv with
  | none, none => none
  | some a, some b =>
    match s.keySlot slice a false, s.keySlot slice b false with
    | some x, some y =>
      if x.kind = 1 ∧ x.state = .exhausted then some Status.cipherExhausted
      else if x.kind ≠ 1 ∨ x.state = .empty ∨ y.kind ≠ 2 ∨ y.state ≠ .loaded then some Status.descMalformed
      else none
    | _, _ => some Status.descMalformed
  | _, _ => some Status.descMalformed

/-- Parameters that CONN_LISTEN and CONN_CREATE share, in range. -/
def endParamsOk (mode tc payloadLog as : Nat) : Bool :=
  decide (mode ≤ 1 ∧ tc ≤ 7 ∧ 10 ≤ payloadLog ∧ payloadLog ≤ 13 ∧ as ≤ 126)

/-- CONN_LISTEN (R161): a ListenId is unique within its slice. -/
def State.connListen (s : State) (slice : Nat) (p : ListenParams) : State × Status × List Nat :=
  if !endParamsOk p.mode p.trafficClass p.payloadLog p.addressSpace
      ∨ s.trans.listens.any fun l => l.slice = slice && l.params.listenId = p.listenId then (s, Status.descMalformed, [])
  else match s.slotsRefused slice p.sendSlot p.recvSlot with
    | some c => (s, c, [])
    | none => ({ s with trans.listens := s.trans.listens ++ [⟨slice, p⟩] }, Status.success, [])

def execConnListen (slice : Fin 512) (tag : Word32) (p : ListenParams) (s : State) : Result :=
  .next (s.command slice tag MbxOp.connListen fun s => s.connListen slice p)

/-- A ContextRegion: a Pinned host-tier region of the slice that grants LocalRead and LocalWrite. -/
def State.contextRegionOk (s : State) (slice slot : Nat) : Bool :=
  match s.range slice slot with
  | some e => e.state = .active && e.pinned && e.tier.port.isSome && e.perm.getLsbD 0 && e.perm.getLsbD 1
  | none => false

/-- What CONN_CREATE refuses at once (R162). -/
def State.createRefused (s : State) (slice : Nat) (p : ConnParams) : Option Status :=
  let n := p.stripes
  if !endParamsOk p.mode p.trafficClass p.payloadLog p.addressSpace ∨ !([1, 2, 4] : List Nat).contains n
      ∨ (n > 1 ∧ (p.mode = 0 ∨ p.trafficClass = 7)) ∨ (p.contextRegion ≠ 0 ∧ !s.contextRegionOk slice p.contextRegion) then
    some Status.descMalformed
  else match s.slotsRefused slice p.sendSlot p.recvSlot with
    | some c => some c
    | none =>
      if (s.quota slice).conns < s.connsOf slice + n then some Status.noResources
      else if p.contextRegion = 0 ∧ s.nearAllow slice < s.inNear slice + n then some Status.noResources
      else if p.trafficClass = 7 ∧ 1024 ≤ s.classSevenEnds then some Status.noResources
      else none

/-- CONN_CREATE (R161): a Connecting set, and its CONNECT_REQ. -/
def State.connCreate (s : State) (slice : Nat) (tag : Word32) (p : ConnParams) : State :=
  match s.createRefused slice p with
  | some c => s.respond (slice, tag) c []
  | none =>
    match s.newIndex p.stripes p.trafficClass none (slotOpt p.sendSlot).isSome with
    | none => s.respond (slice, tag) Status.noResources []
    | some k =>
      s.openConn
        { slice, peer := p.peer, mode := p.mode, tc := p.trafficClass, payloadLog := p.payloadLog, stripes := p.stripes,
          sendSlot := slotOpt p.sendSlot, recvSlot := slotOpt p.recvSlot, as := p.addressSpace, contextRegion := p.contextRegion,
          listenId := p.listenId } k (some (slice, tag))

/-- CONN_CREATE. It waits while the DRBG is halted (R423). -/
def execConnCreate (slice : Fin 512) (tag : Word32) (p : ConnParams) (s : State) : Result :=
  if s.keys.drbgHalted then .next s
  else match s.take slice tag MbxOp.connCreate with
    | (s, false) => .next s
    | (s, true) => .next (s.connCreate slice tag p)

/-- CONN_DESTROY (R168). -/
def State.connDestroy (s : State) (slice conn : Nat) : State × Status × List Nat :=
  match s.findConn conn with
  | none => (s, Status.localAccess, [])
  | some c0 =>
    let c := s.firstOf c0
    if c.slice ≠ slice then (s, Status.localAccess, [])
    else if !s.quiet c ∨ (c.state = .connecting ∧ c.initiator) ∨ c.state = .closing ∨ c.rekey.isSome then (s, Status.busy, [])
    else (s.closeSet c, Status.success, [])

def execConnDestroy (slice : Fin 512) (tag : Word32) (conn : BitVec 24) (s : State) : Result :=
  .next (s.command slice tag MbxOp.connDestroy fun s => s.connDestroy slice conn.toNat)

/-- CONN_RESUME (R151). -/
def State.connResume (s : State) (slice conn : Nat) : State × Status × List Nat :=
  match s.findConn conn with
  | none => (s, Status.localAccess, [])
  | some c =>
    if c.slice ≠ slice then (s, Status.localAccess, [])
    else if !s.quiet c then (s, Status.busy, [])
    else ((s.members c).foldl (fun s m => s.modConn m.index fun c => { c with fenced := false }) s, Status.success, [])

def execConnResume (slice : Fin 512) (tag : Word32) (conn : BitVec 24) (s : State) : Result :=
  .next (s.command slice tag MbxOp.connResume fun s => s.connResume slice conn.toNat)

/-- CYQ_PORT_SET (R154): slice 0, and only while every connection index is Free. -/
def State.cyqPortSet (s : State) (slice : Nat) (port : Word16) : State × Status × List Nat :=
  if slice ≠ 0 then (s, Status.localAccess, [])
  else if !s.trans.conns.isEmpty then (s, Status.busy, [])
  else ({ s with trans.cyqPort := port }, Status.success, [])

def execCyqPortSet (slice : Fin 512) (tag : Word32) (port : Word16) (s : State) : Result :=
  .next (s.command slice tag MbxOp.cyqPortSet fun s => s.cyqPortSet slice port)

end Sys2Proof.Machine
end

