-- ==== Sys2Proof/Machine/DirtyOps.lean ====
section
/-! DEFINITION. Dirty-page logging: flushing the log into a slice's active bitmap (R381, R383). -/

namespace Sys2Proof.Machine

def State.findLog (s : State) (k : Nat) : Option DirtyLog := s.dirtyLogs.find? fun d => d.slice = k

def State.modLog (s : State) (k : Nat) (f : DirtyLog → DirtyLog) : State :=
  { s with dirtyLogs := updWhere (fun d => d.slice = k) f s.dirtyLogs }

/-- No word of a flush is left: a DIRTY_SYNC makes the other bitmap active and answers the number of the one it has frozen, and a
DIRTY_STOP ends logging. -/
def State.flushOver (s : State) (k : Nat) : State :=
  match s.findLog k with
  | none => s
  | some d =>
    if !d.words.isEmpty then s
    else match d.waiter, d.failed with
      | none, _ => s.modLog k fun d => { d with failed := none }
      | some (who, tag, true), f =>
        ({ s with dirtyLogs := s.dirtyLogs.filter fun d => d.slice ≠ k } : State).respond (who, tag) (f.getD Status.success) []
      | some (who, tag, false), some c =>
        (s.modLog k fun d => { d with waiter := none, failed := none }).respond (who, tag) c []
      | some (who, tag, false), none =>
        (s.modLog k fun d => { d with waiter := none, active := 1 - d.active }).respond (who, tag) Status.success [d.active]

/-- An access of a bitmap's word, through slice 0's region that covers it and with that region's address space (log entry 42). -/
def State.wordAccess (s : State) (k : Nat) (w : BitmapWord) (data : Option (List Byte)) : Access :=
  { slice := 0, gen := s.gen 0, as := ((s.search 0 w.offset 8).map (·.as)).getD 127, offset := w.offset, length := 8,
    write := data.isSome, data := data.getD [], fenced := w.fenced && data.isSome, use := .bitmap k w.offset }

/-- The word of a log at an offset. -/
def DirtyLog.wordAt (d : DirtyLog) (offset : Nat) : Option BitmapWord := d.words.find? fun w => w.offset = offset

def State.modWord (s : State) (k offset : Nat) (f : BitmapWord → BitmapWord) : State :=
  s.modLog k fun d => { d with words := updWhere (fun w => w.offset = offset) f d.words }

/-- A word of a flush is done with, or has failed. -/
def State.wordOver (s : State) (k offset : Nat) (code : Option Status) : State :=
  (s.modLog k fun d =>
    { d with words := d.words.filter fun w => w.offset ≠ offset, failed := d.failed.orElse fun _ => code }).flushOver k

/-- The word's bits are set in what was read, and it is written (R383). -/
def State.wordRead (s : State) (k : Nat) (w : BitmapWord) (b : List Byte) : State × AccOut :=
  let s := s.modWord k w.offset fun w => { w with reading := false }
  s.access (s.wordAccess k w (some (leBytes 8 (leNat b ||| w.bits))))

/-- The read or the write of a word of a bitmap has ended. Bits that came during its write are set in turn. `fuel` bounds the accesses
made at once. -/
def State.bitmapEnded (s : State) (k offset : Nat) (r : AccOut) : Nat → State
  | 0 => s
  | fuel + 1 =>
    match (s.findLog k).bind fun d => d.wordAt offset, r with
    | none, _ => s
    | some _, .wait => s
    | some w, .done b =>
      if w.reading then
        let (s, r) := s.wordRead k w b
        s.bitmapEnded k offset r fuel
      else if w.later ≠ 0 then
        let w : BitmapWord := { w with bits := w.later, later := 0, reading := true }
        let (s, r) := (s.modWord k offset fun _ => w).access (s.wordAccess k w none)
        s.bitmapEnded k offset r fuel
      else s.wordOver k offset none
    | some _, .fail c => s.wordOver k offset (some c)
    | some _, .stale => s.wordOver k offset none

/-- Bits of a word of the active bitmap are to be set: a word that is at hand takes them up. -/
def State.setWord (s : State) (k : Nat) (w : BitmapWord) : State :=
  match (s.findLog k).bind fun d => d.wordAt w.offset with
  | some _ =>
    s.modWord k w.offset fun x =>
      if x.reading then { x with bits := x.bits ||| w.bits, fenced := x.fenced || w.fenced }
      else { x with later := x.later ||| w.bits, fenced := x.fenced || w.fenced }
  | none =>
    let (s, r) := (s.modLog k fun d => { d with words := d.words ++ [w] }).access (s.wordAccess k w none)
    s.bitmapEnded k w.offset r 4

/-- Flush a log: the bits of its recorded pages are set in the active bitmap, word by word. -/
def State.flushLog (s : State) (k : Nat) (fenced : Bool) : State :=
  match s.findLog k with
  | none => s
  | some d =>
    let pages := d.recorded.map fun p => (p - d.base) / 4096
    let base := if d.active = 0 then d.bitmap0 else d.bitmap1
    let word (w : Nat) : BitmapWord :=
      { offset := base + 8 * w, bits := ((List.range 64).map fun i => if pages.contains (64 * w + i) then 2 ^ i else 0).sum, fenced }
    let s := s.modLog k fun d => { d with recorded := [], lastFlush := s.time.now }
    (((pages.map (· / 64)).dedup).foldl (fun s w => s.setWord k (word w)) s).flushOver k

end Sys2Proof.Machine
end

