-- ==== Sys2Proof/Machine/HostRead.lean ====
section
/-! DEFINITION. How reads of host and peer memory end (R402), and what waits for that: invalidations (R83). -/

namespace Sys2Proof.Machine

/-- Invalidations whose reads have all completed are answered (R83). -/
def State.finishInvalidates (s : State) : State :=
  let live (x : Func × List Nat) : Func × List Nat := (x.1, x.2.filter fun id => s.hostReads.any fun h => h.id = id)
  let all := s.xlate.invalidating.map live
  let done := all.filter fun x => x.2.isEmpty
  done.foldl (fun s x => s.emit (.invalidateDone x.1)) { s with xlate.invalidating := all.filter fun x => !x.2.isEmpty }

/-- Take back the hold that an ended host read kept on its range's InFlight, and drop its records (R71). -/
def State.endHostRead (s : State) (w : Waiting) : State :=
  let s := match w.checked with
    | some (k, slot) => s.modRange k slot fun e => { e with inFlight := e.inFlight - 1 }
    | none => s
  ({ s with hostReads := s.hostReads.filter fun h => h.use ≠ .access w.id,
            xlate.waiting := s.xlate.waiting.filter fun v => v.id ≠ w.id } : State).finishInvalidates

/-- How a host read of a waiting access ended (R402). -/
def State.readOutcome (s : State) (w : Waiting) : ReadResult → State × AccOut
  | .ok data => (s, .done (data.take w.access.length ++ List.replicate (w.access.length - data.length) 0))
  | .unsupported =>
    let tag := (w.checked.bind fun k => s.range k.1 k.2).elim 0xFFFF (·.pathTag)
    s.failAccess w.access.slice (pathCode tag false)
  | .timeout =>
    let tag := (w.checked.bind fun k => s.range k.1 k.2).elim 0xFFFF (·.pathTag)
    (s.bump .slcHostStatCplTimeouts w.access.slice).failAccess w.access.slice (pathCode tag true)

end Sys2Proof.Machine
end

