-- ==== Sys2Proof/Machine/Queues.lean ====
section
/-! DEFINITION. The commands of queues, completions, events, interrupts, WAIT and lace counters (chapter 05). -/

namespace Sys2Proof.Machine

/-! ## Doorbells -/

/-- A doorbell on a completion or event queue (R112): release slots up to Count, and with Arm request one message;
valid entries beyond Count count toward ModCount. Then the records held, and EVQ_OVERFLOW, are written (R110, R113). The home
cluster is woken (R492). -/
def State.ringCompletion (s : State) (x : Queue) (count : Word32) (arm : Bool) : State :=
  let now := s.time.now
  let left := (x.head - count).toNat - (if x.writing.isSome then 1 else 0)
  let s := (s.wakeCluster (homeOf x.number)).modQueue x.number fun x =>
    { x with doorbell := count,
             arm := if arm then some { written := left, firstAt := if left = 0 then none else some now } else x.arm }
  let s := if arm then s.checkArm x.number else s
  let s := s.flushHeld x.number
  if x.kind = .event then s.overflow x.slice else s

/-- A doorbell reaches its queue, or is latched while a Last activation pauses (R49). -/
def State.doorbell (s : State) (f : Func) (q : Nat) (count : Word32) (arm : Bool) : State :=
  match s.bar2 f q with
  | none => s
  | some x =>
    if s.inPause then { s with last.held := s.last.held ++ [.doorbell f q count arm] }
    else if x.isWork then s.ring q count
    else s.ringCompletion x count arm

/-- QDB_DOORBELL (R98, R99). -/
def execQdbDoorbell (f : Func) (q : Nat) (count : Word32) (s : State) : Result := .next (s.doorbell f q count false)

/-- COMPLETION_DOORBELL (R112). Arm is ignored on other kinds (R98). -/
def execCompletionDoorbell (f : Func) (q : Nat) (count : Word32) (arm : Bool) (s : State) : Result :=
  .next (s.doorbell f q count arm)

/-- The clusters that PreWake wakes at fetch (R107): the home of the descriptor's connection or of its group, or every cluster
in service for a service. -/
def State.preWakes (s : State) (d : Desc) : List Nat :=
  let op := Desc.opcode d
  if !Desc.preWake d ∨ op = Op.wait then []
  else if Op.write ≤ op ∧ op ≤ Op.cmpSwap then [Desc.conn d % 8]
  else if op = Op.coll then ((s.work.groups.find? fun g => g.handle = leField d 16 17 % 4096).map (·.home)).toList
  else if Op.quant ≤ op ∧ op ≤ Op.restore then (List.range 8).filter fun c => !s.arithOutOf c
  else []

/-- The conditions under which a push is the descriptor for the head count (R100). -/
def Queue.takesPush (x : Queue) (bytes : List Byte) : Bool :=
  x.state = .running && !(x.fetches.any fun r => r.count = x.head && r.entry.isSome)
    && bytes.length = x.entrySize && Desc.own bytes = phaseOf x.logEntries x.head

/-- A push acts as a doorbell with Count h + 1 (R100), which is then the newest Count (log entry 13). -/
def Queue.pushCount (x : Queue) : Word32 := x.head + 1

/-- QDB_PUSH (R100): slot h is not read for a push that is taken, so what an outstanding fetch of it brings is of no use. The
clusters of R107 wake as for a fetched descriptor. -/
def execQdbPush (f : Func) (q : Nat) (bytes : List Byte) (s : State) : Result :=
  match s.bar2 f q with
  | none => .next s
  | some x =>
    if !x.isWork ∨ (bytes.length ≠ 64 ∧ bytes.length ≠ 256) then .next s
    else if s.inPause then .next { s with last.held := s.last.held ++ [.doorbell f q x.pushCount false] }
    else
      let s' := s.ring q x.pushCount
      if x.takesPush bytes then
        let old := x.fetches.any fun r => r.count = x.head && r.outstanding
        .next ((s'.modQueue q fun x =>
          { x with fetches := (x.fetches.filter fun r => r.count ≠ x.head)
                     ++ [{ count := x.head, entry := some bytes, outstanding := old }] }).wakeAll (s'.preWakes bytes))
      else .next s'

/-! ## QDB_CTRL (R118) -/

/-- Three heartbeat periods, in ns (R379). -/
def State.beatLimit (s : State) (k : Nat) : Nat := clamp 100 60000 (s.fld .slcHbCtrlPeriodMs k) * 3000000

/-- The first queue of a slice that enters Running arms its heartbeat watch (R379). -/
def State.armWatch (s : State) (k : Nat) : State :=
  let limit := s.time.now + s.beatLimit k
  s.modSlice k fun y => if y.armed then y else { y with armed := true, hbDeadline := limit }

/-- The queue has just entered Running: the heartbeat watch is armed (R379), the home cluster of a work queue wakes to fetch
(DEDUCED from R118; log 71), and what was held is written. -/
def State.entersRunning (s : State) (x : Queue) : State :=
  let s := s.armWatch x.slice
  if x.isWork then s.wakeCluster (homeOf x.number)
  else
    let s := s.flushHeld x.number
    if x.kind = .event then s.overflow x.slice else s

/-- QUEUE_ENABLE: setting QDB_CTRL.Enable. A Halted queue stays Halted until Resume. -/
def execQueueEnable (f : Func) (q : Nat) (s : State) : Result :=
  match s.bar2 f q with
  | none => .next s
  | some x =>
    let s := s.modQueue q fun x => { x with enable := true }
    if x.state = .disabled ∨ x.state = .draining then
      .next ((s.modQueue q fun x => { x with state := .running, bell := x.isWork }).entersRunning x)
    else .next s

/-- The fetches of a queue whose fetched entries are discarded: those still outstanding go on (R118). -/
def Queue.unfetched (x : Queue) : List FetchRec :=
  (x.fetches.filter fun r => r.outstanding).map fun r => { r with entry := none }

/-- The standing WAIT of a queue ends with WAIT_TIMEOUT and the given Detail. -/
def State.timeoutWait (s : State) (q detail : Nat) : State :=
  match s.queue.watch.find? fun w => w.q = q with
  | none => s
  | some w =>
    let s := { s with queue.watch := s.queue.watch.filter fun w => w.q ≠ q }
    s.endDesc q w.count { status := Status.waitTimeout, detail }

/-- The services of a queue with a piece that waits for its gate end with WAIT_TIMEOUT and Detail 1 (R284). -/
def State.timeoutGates (s : State) (q : Nat) : State :=
  (s.work.services.filter fun v => v.q = q && v.stage = 3 && v.gated && v.pieces.any (·.gate)).foldl
    (fun s v => s.endSvc q v.count Status.waitTimeout 1) s

/-- QUEUE_DISABLE: clearing Enable. Fetched and unstarted descriptors are discarded, a standing WAIT and gated services
time out with Detail 1, and a Running queue drains; a Halted queue stays Halted with Enable clear. -/
def execQueueDisable (f : Func) (q : Nat) (s : State) : Result :=
  match s.bar2 f q with
  | none => .next s
  | some x =>
    let s := s.modQueue q fun x => { x with enable := false }
    if x.state = .running ∨ x.state = .halted then
      let s := s.modQueue q fun y =>
        { y with state := if x.state = .halted then .halted else .draining, fetches := y.unfetched }
      .next (((s.timeoutWait q 1).timeoutGates q).modQueue q Queue.settle)
    else .next s

/-- QUEUE_RESUME: QDB_CTRL.Resume; ignored outside Halted. A Running queue fetches from Head again. -/
def execQueueResume (f : Func) (q : Nat) (s : State) : Result :=
  match s.bar2 f q with
  | none => .next s
  | some x =>
    if x.state = .halted then
      if x.enable then
        .next ((s.modQueue q fun x => { x with state := .running, bell := x.isWork,
                                               fetches := x.unfetched }).entersRunning x)
      else .next (s.modQueue q fun x => { x with state := .disabled })
    else .next s

/-! ## Fetch (R103, R120, R121) -/

/-- A fetched entry arrives: taken if OWN has the expected phase, discarded otherwise, or where a push has brought the entry
(R100). A discarded entry below the
doorbell Count is fetched again 2 µs after its last fetch began, until 64 refetches have failed: then RING_STALE. -/
def State.entryArrived (s : State) (q : Nat) (count : Word32) (bytes : List Byte) : State :=
  match s.findQueue q with
  | none => s
  | some x =>
    if x.state ≠ .running ∨ countBefore count x.head then
      (s.modQueue q fun x => { x with fetches := x.fetches.filter fun r => r.count ≠ count }).modQueue q Queue.settle
    else if x.fetches.any fun r => r.count = count && r.entry.isSome then
      s.modQueue q fun x => { x with fetches := updWhere (fun r => r.count = count) (fun r => { r with outstanding := false }) x.fetches }
    else if Desc.own bytes = phaseOf x.logEntries count then
      let take (r : FetchRec) : FetchRec := { r with entry := some bytes, outstanding := false, nextAt := none }
      (s.modQueue q fun x => { x with fetches := updWhere (fun r => r.count = count) take x.fetches }).wakeAll (s.preWakes bytes)
    else if countBefore count x.doorbell then
      let stop := x.fetches.any fun r => r.count = count && decide (64 ≤ r.refetches)
      let drop (r : FetchRec) : FetchRec :=
        { r with entry := none, outstanding := false, stopped := stop,
                 nextAt := if stop then none else r.nextAt }
      let s := s.modQueue q fun x => { x with fetches := updWhere (fun r => r.count = count) drop x.fetches }
      if stop then
        s.raise { slice := x.slice, code := EventCode.ringStale, cluster := homeOf q, object := q, info := count.toNat }
      else s
    else s.modQueue q fun x => { x with fetches := x.fetches.filter fun r => r.count ≠ count }

/-- Fetch one ring entry. -/
def State.fetchOne (s : State) (x : Queue) (count : Word32) : State :=
  let a : Access :=
    { cluster := homeOf x.number, slice := x.slice, gen := x.gen, as := x.as,
      offset := x.ringOffset + slotOf x.logEntries count * x.entrySize, length := x.entrySize,
      use := .fetch x.number count }
  match s.access a with
  | (s, .done bytes) => s.entryArrived x.number count bytes
  | (s, .wait) => s
  | (s, .stale) => s.modQueue x.number fun x => { x with fetches := x.fetches.filter fun r => r.count ≠ count }
  | (s, .fail c) =>
    (s.modQueue x.number fun x => { x with fetches := x.fetches.filter fun r => r.count ≠ count }).ringFault x.number c

def State.fetchAll (s : State) (x : Queue) : List Word32 → State
  | [] => s
  | c :: r => (s.fetchOne x c).fetchAll x r

/-- The counts a fetch may ask for: from Head up to Count + 31, never beyond Head + entries − 1 (R103), without those
already fetched, outstanding or waiting for a refetch. Head may have passed Count, by entries fetched beyond it. -/
def Queue.wanted (x : Queue) : List Word32 :=
  let n := min ((x.doorbell - x.head).toInt + 32).toNat x.entries
  ((List.range n).map fun k => x.head + BitVec.ofNat 32 k).filter fun c => !(x.fetches.any fun r => r.count = c)

/-- The evicted queue that a home cluster serves next: the lowest number above the last one served that has a doorbell
pending, wrapping (R121). Queues that are not Running take their turn too; nothing of theirs is fetched. -/
def State.nextEvicted (s : State) (c : Nat) : Option Nat :=
  let waiting := (s.queue.queues.filter fun x => x.isWork && homeOf x.number = c && !x.cached && x.bell).map (·.number)
  let last := vget s.queue.served c 0
  let above := waiting.filter fun n => last < n
  if above.isEmpty then waiting.min? else above.min?

/-- An evicted queue takes its turn: its context is loaded. -/
def State.serveEvicted (s : State) (q : Nat) : State :=
  let c := homeOf q
  (({ s with queue.served := vset s.queue.served c q } : State).loadContext q)

/-- DESCRIPTOR_FETCH: the home cluster, awake, fetches a Running queue's entries. An evicted queue with a pending doorbell waits for
its turn of R121, and for a line that eviction may take; one that is not Running has its context loaded and no more (R118). -/
def execDescriptorFetch (q : Nat) (s : State) : Result :=
  match s.findQueue q with
  | none => .next s
  | some x =>
    let wants := x.state = .running && (x.bell || x.wanted.any fun c => countBefore c x.doorbell)
    if !x.isWork ∨ !s.awake (homeOf q) ∨ !(wants || (!x.cached && x.bell)) then .next s
    else if !x.cached ∧ ((x.bell ∧ s.nextEvicted (homeOf q) ≠ some q) ∨ !s.contextFits q) then .next s
    else
      let s := if x.cached then s else s.serveEvicted q
      if x.state ≠ .running then .next s
      else
      let cs := x.wanted
      let s := s.modQueue q fun x =>
        { x with bell := false, lastUse := s.time.now,
                 fetches := x.fetches ++ cs.map fun c => { count := c, outstanding := true, nextAt := some (s.time.now + 2000) } }
      .next (s.fetchAll x cs)

/-- DESCRIPTOR_ARRIVAL: the PCIe completion of a host-tier ring fetch. -/
def execDescriptorArrival (q : Nat) (count : Word32) (res : ReadResult) (s : State) : Result :=
  match s.xlate.waiting.find? fun w => w.access.use = .fetch q count &&
      (match w.on with | .hostRead _ => true | _ => false) with
  | none => .next s
  | some w =>
    let (s, r) := s.readOutcome w res
    let s := s.endHostRead w
    match r with
    | .done bytes =>
      if w.access.gen = s.gen w.access.slice then .next (s.entryArrived q count bytes) else .next s
    | .fail c =>
      .next ((s.modQueue q fun x => { x with fetches := x.fetches.filter fun r => r.count ≠ count }).ringFault q c)
    | _ => .next s

/-- DESCRIPTOR_REFETCH: an invalid entry below the doorbell Count whose 2 µs have passed is fetched again. The context of a queue that
left its line meanwhile comes back first (R121). -/
def execDescriptorRefetch (q : Nat) (count : Word32) (s : State) : Result :=
  match s.findQueue q with
  | none => .next s
  | some x =>
    match x.fetches.find? fun r => r.count = count with
    | none => .next s
    | some r =>
      if x.state = .running ∧ !r.outstanding ∧ r.entry.isNone ∧ !r.stopped ∧ countBefore count x.doorbell
          ∧ r.nextAt.all s.due ∧ s.awake (homeOf q) ∧ (x.cached ∨ s.contextFits q) then
        let s := if x.cached then s else s.loadContext q
        let again (r : FetchRec) : FetchRec := { r with outstanding := true, refetches := r.refetches + 1, nextAt := some (s.time.now + 2000) }
        let s := s.modQueue q fun x => { x with fetches := updWhere (fun r => r.count = count) again x.fetches }
        .next (s.fetchOne x count)
      else .next s

/-! ## Start, delivery (R104 to R108) -/

/-- Nothing in the queue holds the next descriptor back: no WAIT before it, no Fence with an earlier status open, and fewer than 256
started and not delivered, those whose completions are held among them (R104, R105, R110). -/
def Queue.mayStart (x : Queue) (d : Desc) : Bool :=
  x.started.length + x.delivering.length < 256
    && !(x.started.any fun y => Desc.opcode y.entry = Op.wait && y.ended.isNone)
    && (!Desc.fence d || x.started.all fun y => y.ended.isSome)

/-- A SCAN finds its context busy: an earlier one of that context, from whatever queue, has started and not ended (R437). -/
def State.scanWaits (s : State) (x : Queue) (d : Desc) : Bool :=
  Desc.opcode d = Op.scan && s.queue.queues.any fun y =>
    homeOf y.number = homeOf x.number && y.started.any fun z =>
      z.ended.isNone && Desc.opcode z.entry = Op.scan && scanChannel z.entry = scanChannel d

/-- The next descriptor may start: the queue does not stop at a stalled access (R85), nothing in it holds the descriptor back, and
the work of what a Fence waits for has ended (R105); the context of a SCAN is not busy (R437). -/
def State.mayStartDesc (s : State) (x : Queue) (d : Desc) : Bool :=
  !s.queueStalled x.number && x.mayStart d && (!Desc.fence d || s.workEnded x.number) && !s.scanWaits x d

/-- DESCRIPTOR_START: the descriptor at Head starts; a malformed one ends at once with its code (R108). The context of a queue that
left the cache under a WAIT comes back first (R117, R121). A fetch that a push has overtaken stays outstanding until it ends (R118). A
SCAN that ends here counts as completed (R443). -/
def execDescriptorStart (q : Nat) (s : State) : Result :=
  match s.findQueue q with
  | none => .next s
  | some x =>
    match x.fetches.findSome? fun r => if r.count = x.head then r.entry else none with
    | none => .next s
    | some d =>
      if x.state ≠ .running ∨ (s.slice x.slice).state ≠ .active ∨ !s.awake (homeOf q) ∨ !s.mayStartDesc x d then .next s
      else if !x.cached ∧ !s.contextFits q then .next s
      else
        let bad := malformed (x.kind = .rawRecv) x.entrySize (s.quota x.slice).lace d
        let st : Started := { count := x.head, entry := d, run := bad.isSome,
                              ended := bad.map fun c => { status := c } }
        let s := if bad.isSome && Desc.opcode d = Op.scan then s.bump .cluChkStatScans (homeOf q) else s
        let rest (x : Queue) : List FetchRec :=
          updWhere (fun r => r.count = x.head) (fun r => { r with entry := none }) (x.fetches.filter fun r => r.count ≠ x.head || r.outstanding)
        .next ((s.loadContext q).modQueue q fun x =>
          { x with head := x.head + 1, fetches := rest x, started := x.started ++ [st], lastUse := s.time.now })

/-- The peer-completer paths a descriptor wrote that no flush issued since covers (R403). -/
def Started.peerPaths (d : Started) : List DirtyPath := d.paths.filter fun p => p.pathTag ≠ 0xFFFF

/-- A final descriptor as it is delivered: a path that could not be flushed takes SUCCESS from it (R403, R406). -/
def Started.final (d : Started) : Option Done :=
  d.ended.map fun e => if e.status = Status.success then { e with status := d.flushFail.getD e.status } else e

/-- COMPLETION_DELIVERY (R106): the oldest started descriptor, once final, is delivered: its record goes to the completion queue,
or, without an entry, it is delivered once every descriptor before it is. Paths to peer completers that
it wrote are flushed first (R403). -/
def execCompletionDelivery (q : Nat) (s : State) : Result :=
  match s.findQueue q with
  | none => .next s
  | some x =>
    match x.started with
    | [] => .next s
    | d :: rest =>
      match d.final with
      | none => .next s
      | some e =>
        if !d.flushIds.isEmpty then .next s
        else if !d.peerPaths.isEmpty then .next (s.issueFlushes x.slice d.peerPaths).1
        else
          let good := e.status = Status.success
          let s := s.countEnd x.slice e.status
          let entry := Desc.signal d.entry || !good
          let todo : Delivery := { count := d.count, entry, lace := if good then Desc.laceDone d.entry else none }
          let now := !entry && x.delivering.isEmpty
          let s := s.modQueue q fun x => ({ x with started := rest,
                                                   delivering := if now then x.delivering else x.delivering ++ [todo] } : Queue).settle
          let s := if entry then
              { s with queue.records := s.queue.records ++
                  [(x.cq, ({ q, count := d.count, opcode := Desc.opcode d.entry, tag := Desc.tag d.entry,
                             status := e.status, bytes := e.bytes, gen := x.gen, detail := e.detail,
                             slice := x.slice } : CplRec))] }
            else s
          match if now then todo.lace else none with
          | some k => .next (s.laceUp x.slice x.gen k 1)
          | none => .next s

/-! ## Completion and event entries (R110 to R113) -/

/-- COMPLETION_RECORD: the oldest record on its way to a completion queue arrives there, is written if it can be, and
held otherwise. It waits while no line of the queue's home cluster can take the queue's context (R120, R121). -/
def execCompletionRecord (cq : Nat) (s : State) : Result :=
  match s.queue.records.find? fun r => r.1 = cq with
  | none => .next s
  | some r =>
    let s0 := s
    let s := { s with queue.records := s.queue.records.erase r }
    match s.findQueue cq with
    | none => .next (s.bump .slcStaleStatCompletions r.2.slice)
    | some x =>
      if !x.cached ∧ !s.contextFits cq then .next s0
      else if r.2.gen ≠ s.gen r.2.slice ∨ x.slice ≠ r.2.slice then .next (s.bump .slcStaleStatCompletions r.2.slice)
      else .next (((s.loadContext cq).modQueue cq fun x => { x with held := x.held ++ [.cpl r.2] }).flushHeld cq)

/-- EVENT_RECORD (R113): the slice's oldest event is written into its event queue if that is Running with a free slot,
and counted as Lost otherwise. It waits while no line of the home cluster can take the queue's context (R120, R121). -/
def execEventRecord (slice : Fin 512) (s : State) : Result :=
  match s.queue.events.find? fun e => e.slice = slice.val with
  | none => .next s
  | some e =>
    let s0 := s
    let s := { s with queue.events := s.queue.events.erase e }
    if e.gen ≠ s.gen slice then .next (s.bump .slcStaleStatCompletions slice)
    else
      let s1 := s.overflow slice
      match s1.evq slice with
      | none => .next (s1.loseEvent slice)
      | some x =>
        if x.state ≠ .running ∨ x.entries ≤ x.occupied + x.held.length then .next (s1.loseEvent slice)
        else if !x.cached ∧ !s1.contextFits x.number then .next s0
        else .next (((s1.loadContext x.number).modQueue x.number fun x => { x with held := x.held ++ [.event e] }).flushHeld x.number)

/-- MSIX_MODERATION_TIMER (R112): ModTimeUs after the first entry since the arm, the message is sent and the arm
cleared. -/
def execMsixModerationTimer (q : Nat) (s : State) : Result :=
  match s.findQueue q with
  | none => .next s
  | some x =>
    match x.arm.bind (·.firstAt) with
    | none => .next s
    | some t =>
      if s.due (t + x.modTimeUs * 1000) then
        .next ((s.modQueue q fun x => { x with arm := none }).sendMsix x.slice x.vector (some q))
      else .next s

/-- Send the held messages of a function that no mask holds any more (R397). They stay held while MSI-X is off or the function can issue
no request (DESIGN CHOICE, log entry 79). -/
def State.sendHeldMsix (s : State) (f : Func) : State :=
  let x := s.funcState f
  if x.funcMask ∨ !x.msixOn ∨ (s.requestBlocked f 0xFFFF).isSome then s
  else
    let go := x.pba.filter fun d => !x.masked.contains d.vector
    let s := s.modFunc f fun x => { x with pba := x.pba.filter fun d => x.masked.contains d.vector }
    (go.map (·.vector)).dedup.foldl (fun s v => s.launchMsix f v (go.filter fun d => d.vector = v)) s

/-- MSIX_UNMASK (R397): the host clears a vector's mask, or the Function Mask. -/
def execMsixUnmask (f : Func) (vector : Option Nat) (s : State) : Result :=
  let s := match vector with
    | some v => s.modFunc f fun x => { x with masked := x.masked.filter fun u => u ≠ v }
    | none => s.modFunc f fun x => { x with funcMask := false }
  .next (s.sendHeldMsix f)

/-! ## NOP, WAIT and lace counters (R101, R114 to R117) -/

/-- NOP. -/
def execNop (q : Nat) (count : Word32) (s : State) : Result :=
  match s.ready q count Op.nop with
  | some _ => .next (s.endWith q count Status.success)
  | none => .next s

/-- A WAIT ends with WAIT_TIMEOUT: with Halt set the queue enters Halted (R116). -/
def State.waitTimedOut (s : State) (q : Nat) (count : Word32) (halt : Bool) : State :=
  let s := s.endDesc q count { status := Status.waitTimeout, detail := 0 }
  if halt then s.modQueue q fun x => { x with state := .halted, lastStatus := Status.waitTimeout } else s

/-- WAIT (R116, R117): ends at once, or stands in the watch table, or is polled where that is full. Where Enable was cleared after
the descriptor started, it ends as a standing WAIT does (R118). -/
def execWait (q : Nat) (count : Word32) (s : State) : Result :=
  match s.ready q count Op.wait with
  | none => .next s
  | some (x, d) =>
    let e := d.entry
    let th := Desc.waitThreshold e
    let dl := Desc.waitDeadline e
    if th ≤ s.laceValue x.slice (Desc.waitCounter e) then .next (s.endWith q count Status.success)
    else if dl ≠ 0 ∧ s.passed dl then .next (s.waitTimedOut q count (Desc.waitHalt e))
    else if !x.enable then .next (s.endDesc q count { status := Status.waitTimeout, detail := 1 })
    else
      let polled := decide (8192 ≤ (s.queue.watch.filter fun w => !w.polled).length)
      let w : Watch := { q, count, slice := x.slice, counter := Desc.waitCounter e, threshold := th, deadline := dl,
                         halt := Desc.waitHalt e, preWake := Desc.preWake e, polled, nextPoll := s.time.now + 1000 }
      .next (({ s with queue.watch := s.queue.watch ++ [w] } : State).modStarted q count fun d => { d with run := true })

def State.watchOf (s : State) (q : Nat) : Option Watch := s.queue.watch.find? fun w => w.q = q

def State.endWait (s : State) (w : Watch) : State :=
  ({ s with queue.watch := s.queue.watch.filter fun v => v.q ≠ w.q } : State).endWith w.q w.count Status.success

/-- WAIT_RELEASE: a standing WAIT whose threshold was reached, once its cluster is awake. -/
def execWaitRelease (q : Nat) (s : State) : Result :=
  match s.watchOf q with
  | some w => if w.reached ∧ !w.polled ∧ s.awake (homeOf q) then .next (s.endWait w) else .next s
  | none => .next s

/-- WAIT_DEADLINE: the deadline's tick has ended with the threshold unmet (R28, R116). -/
def execWaitDeadline (q : Nat) (s : State) : Result :=
  match s.watchOf q with
  | some w =>
    if w.deadline ≠ 0 ∧ s.passed w.deadline ∧ !w.reached then
      let s := s.wakeCluster (homeOf q)
      .next (({ s with queue.watch := s.queue.watch.filter fun v => v.q ≠ q } : State).waitTimedOut q w.count w.halt)
    else .next s
  | none => .next s

/-- WAIT_POLL (R117): a WAIT without a watch entry is polled every 1 µs. Its outcome is that of a watched one: a threshold reached
before the deadline's tick ended is seen by the next poll. -/
def execWaitPoll (q : Nat) (s : State) : Result :=
  match s.watchOf q with
  | some w =>
    if w.polled ∧ s.due w.nextPoll then
      if w.reached then .next (s.endWait w)
      else
        let later (v : Watch) : Watch := { v with nextPoll := s.time.now + 1000 }
        .next { s with queue.watch := updWhere (fun v => v.q = q) later s.queue.watch }
    else .next s
  | none => .next s

/-- LACE_ADD (R114): the change goes to the counter unit at the start; the descriptor completes with SUCCESS. -/
def execLaceAdd (q : Nat) (count : Word32) (s : State) : Result :=
  match s.ready q count Op.laceAdd with
  | some (x, d) =>
    .next ((s.laceUp x.slice x.gen (Desc.addCounter d.entry) (Desc.addAmount d.entry)).endWith q count Status.success)
  | none => .next s

/-- LACE_COUNTER_CHANGE (R114, R374): the oldest change is applied, saturating at 2^64 − 1, or dropped if its
generation is stale. -/
def execLaceCounterChange (s : State) : Result :=
  match s.queue.laceChanges with
  | [] => .next s
  | c :: r =>
    let s := { s with queue.laceChanges := r }
    if c.gen ≠ s.gen c.slice then .next (s.bump .slcStaleStatLaceChanges c.slice)
    else if (s.quota c.slice).lace ≤ c.counter then .next s
    else .next (s.setLace c.slice c.counter (min (s.laceValue c.slice c.counter + c.amount) (2 ^ 64 - 1)))

/-- A write of SLC_LACE_VAL (R114, R122) sets the selected counter; ignored where Index is not below the quota. -/
def State.setLaceVal (s : State) (slice : Nat) (value : Word64) : State :=
  let k := s.fld .slcLaceSelIndex slice
  if k < (s.quota slice).lace then s.setLace slice k value.toNat else s

/-- SLC_LACE_VAL_WRITE. -/
def execSlcLaceValWrite (f : Func) (slice : Fin 512) (value : Word64) (s : State) : Result :=
  if s.bound slice f then .next (s.setLaceVal slice value) else .next s

end Sys2Proof.Machine
end

