-- ==== Sys2Proof/Machine/CopyOps.lean ====
section
/-! DEFINITION. Operations of the DMA Engine and the Check Unit: the units of a COPY (R312 to R314) and the feeding of a
SCAN (R432 to R437). -/

namespace Sys2Proof.Machine

/-! ## COPY -/

/-- The units of a copy: the parts of the destination within 4 KiB-aligned blocks (R313). -/
def copyUnits (d : Desc) : Nat := (Desc.dstOffset d + (Desc.copyLength d - 1)) / 4096 - Desc.dstOffset d / 4096 + 1

/-- Unit u of a copy: its offset in the copy, and its bytes. -/
def copyUnit (d : Desc) (u : Nat) : Nat × Nat :=
  let dst := Desc.dstOffset d
  let lo := max dst ((dst / 4096 + u) * 4096)
  let hi := min (dst + Desc.copyLength d) ((dst / 4096 + u + 1) * 4096)
  (lo - dst, hi - lo)

/-- Units issued and not ended. A started COPY holds in `units` those written, and in `data` those that failed. -/
def Started.copyOut (d : Started) : Nat := d.issued - d.units.length - d.data.length

/-- Bytes of the longest prefix whose units have all been written (R314). -/
def Started.copyPrefix (d : Started) : Nat :=
  let n := ((List.range d.issued).takeWhile fun u => d.units.contains u).length
  (((List.range n).map fun u => (copyUnit d.entry u).2)).sum

/-- The read of a unit's source. -/
def copyRead (x : Queue) (d : Started) (u : Nat) : Access :=
  let (off, len) := copyUnit d.entry u
  { cluster := homeOf x.number, slice := x.slice, gen := x.gen, as := x.as, offset := Desc.srcOffset d.entry + off,
    length := len, use := .copyRead x.number d.count u }

/-- The write of a unit. -/
def copyWrite (x : Queue) (d : Started) (u : Nat) (bytes : List Byte) : Access :=
  let (off, len) := copyUnit d.entry u
  { cluster := homeOf x.number, slice := x.slice, gen := x.gen, as := x.as, offset := Desc.dstOffset d.entry + off,
    length := len, write := true, data := bytes, use := .copyWrite x.number d.count u }

/-- A COPY with nothing outstanding ends: all units are written, or one has failed. -/
def State.copySettle (s : State) (q : Nat) (count : Word32) : State :=
  match s.findStarted q count with
  | none => s
  | some (_, d) =>
    if d.copyOut ≠ 0 then s
    else match d.fail with
      | some c =>
        let bit := ((d.data.head?.map (·.2)).getD []).length
        s.endDesc q count { status := c, bytes := d.copyPrefix, detail := if c = Status.memUncorrectable then bit else 0 }
      | none =>
        if d.units.length = copyUnits d.entry then
          s.endDesc q count { status := Status.success, bytes := Desc.copyLength d.entry }
        else s

/-- A unit's far-tier access. -/
def State.farOf (s : State) (q : Nat) (count : Word32) (u : Nat) : Option FarAccess :=
  s.mem.farBusy.find? fun x => x.q = q && x.count = count && x.unit = u

/-- A unit's far-tier access is outstanding no more: its hold on its ranges' InFlight ends (R78). -/
def State.farDone (s : State) (q : Nat) (count : Word32) (u : Nat) : State :=
  match s.farOf q count u with
  | none => s
  | some x =>
    let drop (s : State) (slot : Nat) : State := s.modRange x.slice slot fun e => { e with inFlight := e.inFlight - 1 }
    let s := (x.src.toList ++ x.dst.toList).foldl drop s
    { s with mem.farBusy := s.mem.farBusy.filter fun y => y.id ≠ x.id }

/-- A unit failed, reading (`write` false) or in a partial codeword of the destination. -/
def State.copyFailed (s : State) (q : Nat) (count : Word32) (u : Nat) (write : Bool) (c : Status) : State :=
  ((s.farDone q count u).modStarted q count fun d =>
    { d with fail := some (d.fail.getD c), data := d.data ++ [(u, if write then [0] else [])] }).copySettle q count

/-- The source of a unit lies in a host tier: its bytes come with a completion. -/
def State.copyFromHost (s : State) (d : Started) : Bool :=
  match s.area (Desc.srcOffset d.entry) with
  | .hostA | .hostB => true
  | _ => false

/-- An access to the far tier passes lookup and check, and counts in its range's InFlight from there (R78). Answers the range's slot; none
where the access lies in another tier. -/
def State.farHold (s : State) (a : Access) : State × Except Status (Option Nat) :=
  if s.area a.offset ≠ .far then (s, .ok none)
  else
    let (s, hit) := s.lookup a.cluster a.slice a.offset a.length
    match hit with
    | none => (s, .error Status.localAccess)
    | some (slot, inc) =>
      match s.check a.slice a.as slot inc (if a.write then 1 else 0) none a.offset a.length with
      | .error c => (s, .error c.localCode)
      | .ok e => (s.modRange e.slice slot fun e => { e with inFlight := e.inFlight + 1 }, .ok (some slot))

/-- A unit with an end in the far tier has 10 µs (R310). Answers the code of an end that fails its check. -/
def State.farIssue (s : State) (x : Queue) (d : Started) (u : Nat) : State × Option Status :=
  match s.farHold (copyRead x d u) with
  | (s, .error c) => (s, some c)
  | (s, .ok src) =>
    match s.farHold (copyWrite x d u []) with
    | (s, .error c) => (src.toList.foldl (fun s k => s.modRange x.slice k fun e => { e with inFlight := e.inFlight - 1 }) s, some c)
    | (s, .ok dst) =>
      if src.isNone ∧ dst.isNone then (s, none)
      else
        let id := s.xlate.nextId
        let f : FarAccess := { id, deadline := s.time.now + 10000, q := x.number, count := d.count, unit := u, slice := x.slice, src, dst }
        ({ s with xlate.nextId := id + 1, mem.farBusy := s.mem.farBusy ++ [f] }, none)

/-- An access of a unit: straight to the far tier where its check has passed, and by all its stages elsewhere. -/
def State.unitAccess (s : State) (held : Option Nat) (a : Access) : State × AccOut :=
  if held.isSome then s.localAccess .far a else s.access a

/-- An access of a COPY stalls for room in the Pending Fault Table: the COPY stops there (R85). -/
def State.copyStalled (s : State) (q : Nat) (count : Word32) : Bool :=
  s.xlate.waiting.any fun w => w.on = .stalled && (match w.access.use with
    | .copyRead q' n _ | .copyWrite q' n _ => q' = q && n = count
    | _ => false)

/-- Issue units while at most 64 are outstanding, none has failed, and none of its accesses is stalled (R85): a source in a host tier
is read from there, any other when its unit completes. -/
def State.copyIssue (s : State) (q : Nat) (count : Word32) : Nat → State
  | 0 => s
  | fuel + 1 =>
    match s.findStarted q count with
    | none => s
    | some (x, d) =>
      if d.fail.isSome ∨ 64 ≤ d.copyOut ∨ copyUnits d.entry ≤ d.issued ∨ s.copyStalled q count then s
      else
        let u := d.issued
        let s := s.modStarted q count fun d => { d with issued := d.issued + 1 }
        if s.copyFromHost d then
          match s.access (copyRead x d u) with
          | (s, .fail c) => s.copyFailed q count u false c
          | (s, _) => s.copyIssue q count fuel
        else match s.farIssue x d u with
          | (s, some c) => s.copyFailed q count u false c
          | (s, none) => s.copyIssue q count fuel

/-- A unit has been written: further ones may be issued. -/
def State.copyWritten (s : State) (q : Nat) (count : Word32) (u : Nat) : State :=
  (((s.farDone q count u).modStarted q count fun d => { d with units := d.units ++ [u] }).copyIssue q count 64).copySettle q count

/-- The write of a unit has ended. -/
def State.copyWriteEnded (s : State) (q : Nat) (count : Word32) (u : Nat) : AccOut → State
  | .done _ => s.copyWritten q count u
  | .fail c =>
    let near := (s.findStarted q count).any fun x => s.area (Desc.dstOffset x.2.entry) = .near
    s.copyFailed q count u near c
  | _ => s

/-- A unit's source is at hand: write it. -/
def State.copySource (s : State) (q : Nat) (count : Word32) (u : Nat) (bytes : List Byte) : State :=
  match s.findStarted q count with
  | none => s
  | some (x, d) =>
    let (s, r) := s.unitAccess ((s.farOf q count u).bind (·.dst)) (copyWrite x d u bytes)
    s.copyWriteEnded q count u r

/-- The read of a unit's source has ended. -/
def State.copyReadEnded (s : State) (q : Nat) (count : Word32) (u : Nat) : AccOut → State
  | .done b => s.copySource q count u b
  | .fail c => s.copyFailed q count u false c
  | _ => s

/-! ## SCAN -/

def scanLength (d : Desc) : Nat := Desc.f64 d 24
def scanAlg (d : Desc) : Nat := Desc.byte d 32
def scanInit (d : Desc) : Bool := (Desc.byte d 33).testBit 0
def scanFinal (d : Desc) : Bool := (Desc.byte d 33).testBit 1
def scanCompare (d : Desc) : Bool := (Desc.byte d 33).testBit 2
def scanWrite (d : Desc) : Bool := (Desc.byte d 33).testBit 3
def scanExpected (d : Desc) : Nat := Desc.f64 d 40
def scanResultAt (d : Desc) : Nat := Desc.f64 d 48

/-- Init of an algorithm (R432). -/
def algInit (alg : Nat) : Word64 := if alg = 2 then BitVec.allOnes 64 else 0xFFFFFFFF

/-- The register after a run of bytes (R432). -/
def algFeed (alg : Nat) (r : Word64) (bs : List Byte) : Word64 :=
  if alg = 2 then crcFeed poly64 r bs
  else (crcFeed (if alg = 1 then poly32 else poly32c) (r.setWidth 32) bs).setWidth 64

/-- The register XOR XorOut. -/
def algResult (alg : Nat) (r : Word64) : Word64 := r ^^^ algInit alg

def State.checkCtx (s : State) (cluster channel : Nat) : CheckCtx :=
  (s.checks.find? fun c => c.cluster = cluster && c.channel = channel).getD { cluster, channel }

def State.setCheckCtx (s : State) (c : CheckCtx) : State :=
  { s with checks := (s.checks.filter fun x => !(x.cluster = c.cluster && x.channel = c.channel)) ++ [c] }

/-- The mode of the Check Units (R41). -/
def State.multiMode (s : State) : Bool := s.last.inForce.any (·.multi)

/-- Operand checks of R434 and R435 that end a SCAN with DESC_MALFORMED before its context is looked at. -/
def State.scanMalformed (s : State) (d : Desc) : Bool :=
  let n := scanLength d
  decide (n = 0 ∨ 2 ^ 40 < n ∨ 16 ≤ Desc.byte d 33) || (scanCompare d && !scanFinal d)
    || decide ((if s.multiMode then 16 else 1) ≤ scanChannel d) || (scanInit d && decide (2 < scanAlg d))
    || !zeroBytes d 35 39 || !zeroBytes d 56 63 || (scanWrite d && decide (scanResultAt d % 8 ≠ 0))

/-- What a write of SLC_CHECK_VAL of a slice leaves in a context (R436). Algorithm 3, which SLC_CHECK_SEL does not define, acts as 0
(DESIGN CHOICE, log entry 66). -/
def State.loaded (s : State) (c : CheckCtx) (k alg : Nat) (value : Word64) : CheckCtx :=
  { c with value := if alg = 2 then value else (value.setWidth 32).setWidth 64, algorithm := alg, owner := some (k, s.gen k), valid := true,
           load := none }

/-- A SCAN ends: its context is free for the next, and Invalid after a failure on the way. A write of SLC_CHECK_VAL that waited takes
effect (R437). -/
def State.scanEnd (s : State) (x : Queue) (d : Started) (c : Status) (broken : Bool) : State :=
  let h := homeOf x.number
  let ctx := s.checkCtx h (scanChannel d.entry)
  let ctx : CheckCtx := { ctx with scanning := false, valid := ctx.valid && !broken }
  let s := s.setCheckCtx (match ctx.load with | some (k, alg, v) => s.loaded ctx k alg v | none => ctx)
  let s := (if c = Status.checkMismatch then s.bump .cluChkStatMismatches h else s).bump .cluChkStatScans h
  s.endDesc x.number d.count { status := c, bytes := min d.issued 0xFFFFFFFF }

/-- What a SCAN yields: its result, or the running register without Final. -/
def State.scanValue (s : State) (x : Queue) (d : Desc) : Word64 :=
  let ctx := s.checkCtx (homeOf x.number) (scanChannel d)
  if scanFinal d then algResult ctx.algorithm ctx.value else ctx.value

/-- Everything is done: Compare, and the end. -/
def State.scanFinish (s : State) (x : Queue) (d : Started) : State :=
  let bad := scanCompare d.entry && decide ((s.scanValue x d.entry).toNat ≠ scanExpected d.entry)
  s.scanEnd x d (if bad then Status.checkMismatch else Status.success) false

/-- The result's write has ended. -/
def State.scanWritten (s : State) (q : Nat) (count : Word32) (r : AccOut) : State :=
  match s.findStarted q count, r with
  | some (x, d), .done _ => s.scanFinish x d
  | some (x, d), .fail c => s.scanEnd x d c true
  | _, _ => s

/-- The next bytes of a SCAN: up to the end of a 4 KiB block. A started SCAN counts in `issued` the bytes fed. -/
def scanStep (d : Started) : Nat × Nat :=
  let at_ := Desc.srcOffset d.entry + d.issued
  (at_, min (scanLength d.entry - d.issued) (4096 - at_ % 4096))

/-- Feed bytes to the context's register. -/
def State.scanFeed (s : State) (q : Nat) (count : Word32) (bytes : List Byte) : State :=
  match s.findStarted q count with
  | none => s
  | some (x, d) =>
    let ctx := s.checkCtx (homeOf q) (scanChannel d.entry)
    (s.setCheckCtx { ctx with value := algFeed ctx.algorithm ctx.value bytes }).modStarted x.number count fun d =>
      { d with issued := d.issued + bytes.length }

/-- Read and feed in ascending order until a read waits, and then write and compare (R434). -/
def State.scanRun (s : State) (q : Nat) (count : Word32) : Nat → State
  | 0 => s
  | fuel + 1 =>
    match s.findStarted q count with
    | none => s
    | some (x, d) =>
      if d.issued = scanLength d.entry then
        if scanWrite d.entry then
          let (s, r) := s.access
            { cluster := homeOf q, slice := x.slice, gen := x.gen, as := x.as, offset := scanResultAt d.entry, length := 8,
              write := true, data := leBytes 8 (s.scanValue x d.entry).toNat, use := .scanResult q count }
          s.scanWritten q count r
        else s.scanFinish x d
      else
        let (at_, len) := scanStep d
        match s.access { cluster := homeOf q, slice := x.slice, gen := x.gen, as := x.as, offset := at_, length := len,
                         use := .scanRead q count } with
        | (s, .done b) => (s.scanFeed q count b).scanRun q count fuel
        | (s, .fail c) => s.scanEnd x d c true
        | (s, _) => s

/-- Blocks that a SCAN has left, and its end. -/
def scanFuel (d : Desc) : Nat := scanLength d / 4096 + 3

/-- The read of a block has ended. -/
def State.scanReadEnded (s : State) (q : Nat) (count : Word32) (r : AccOut) : State :=
  match s.findStarted q count, r with
  | some (_, d), .done b => (s.scanFeed q count b).scanRun q count (scanFuel d.entry)
  | some (x, d), .fail c => s.scanEnd x d c true
  | _, _ => s

end Sys2Proof.Machine
end

