-- ==== Sys2Proof/Machine/RawOps.lean ====
section
/-! DEFINITION. Raw frames (R320 to R323): buffers that wait for frames, and frames that the driver has built. -/

namespace Sys2Proof.Machine

/-! ## Frames as bytes -/

def twoTags (b : List Byte) : Bool := isTag b 12 && isTag b 16

/-- What R323 forbids a driver's frame to be: an IPv6 UDP frame to the Cyquin port, MAC control, or Welt. -/
def State.rawForbidden (s : State) (b : List Byte) : Bool :=
  let e := etherAt b
  let t := beField b e 2
  t = 0x8808 || t = 0x88B6
    || (t = 0x86DD && beField b (e + 8) 1 = 17 && beField b (e + 2 + 42) 2 = s.trans.cyqPort.toNat)

/-- Replace bytes at a place. -/
def patchAt (b : List Byte) (at_ : Nat) (x : List Byte) : List Byte := b.take at_ ++ x ++ b.drop (at_ + x.length)

/-- The frame as it leaves: padded to 60 B, the priority of its tag rewritten (R205), the source address replaced unless
slice 0 sends it (R323). -/
def State.rawImage (s : State) (port slice cls : Nat) (b : List Byte) : List Byte :=
  let b := b ++ List.replicate (60 - b.length) 0
  let b := if slice = 0 then b else patchAt b 6 (beBytes 6 (portMac port).toNat)
  if isTag b 12 then patchAt b 14 [BitVec.ofNat 8 (s.prioOf cls * 32 + beField b 14 1 % 32)] else b

/-! ## RAW_SEND -/

def rawPort (d : Desc) : Nat := Desc.f32 d 16
def rawLength (d : Desc) : Nat := Desc.f32 d 20
def rawStamp (d : Desc) : Bool := (Desc.byte d 32).testBit 0
def rawStampAt (d : Desc) : Nat := Desc.f64 d 40

/-- Operand checks of R323 and R102. -/
def State.rawMalformed (s : State) (d : Desc) : Bool :=
  decide (8 ≤ rawPort d ∨ rawLength d < 14 ∨ 9212 < rawLength d ∨ 2 ≤ Desc.byte d 32) || !zeroBytes d 33 39 || !zeroBytes d 48 63
    || (if rawStamp d then decide (rawStampAt d % 16 ≠ 0) else decide (rawStampAt d ≠ 0))
    || (decide (Desc.inlineLength d ≠ 0) && decide (rawLength d ≠ Desc.inlineLength d ∨ Desc.localOffset d ≠ 0))
    || !s.portEnabled (rawPort d)

/-- The frame as its port's scheduler takes it. -/
def RawFrame.frame (f : RawFrame) : TxFrame :=
  { body := .raw f.image, cls := f.cls, slice := f.slice, bytes := f.image.length + 4, rawq := some (f.q, f.count) }

/-- The rate of a RAW_SEND queue's entry at a port, in quarters of a byte per 65,536 ns (R201, R206). -/
def State.rawQuarters (s : State) (f : RawFrame) : Nat := Config.rawRate f.q * s.factor f.port f.slice

/-- Release frames of a RAW_SEND queue while the credit covers them, then leave the wheel or take the next slot (R206). -/
def State.visitRaw (s : State) (q : Nat) : Nat → State
  | 0 => s
  | fuel + 1 =>
    match s.trans.raw.find? fun f => f.q = q, s.findWheel (.raw q) with
    | some f, some e =>
      let len := s.charged f.port f.frame.bytes
      if len ≤ e.credit then
        let s := s.modWheel (.raw q) fun e => { e with credit := e.credit - len }
        (({ s with trans.raw := s.trans.raw.erase f } : State).queueFrame f.port f.frame).visitRaw q fuel
      else
        let wait := ((len - e.credit) * 4 * 65536 / (max 1 (s.rawQuarters f) : Nat)).ceil.toNat
        s.placeEntry (.raw q) (s.wheelOf f.port) (roundSlot (s.time.now + wait)) none
    | _, _ => s.modWheel (.raw q) fun e => { e with placed := false }

/-- A visit of a RAW_SEND queue's due entry (R206). -/
def State.visitQueue (s : State) (q : Nat) : State :=
  match s.findWheel (.raw q), s.trans.raw.find? fun f => f.q = q with
  | some e, some f =>
    let gain : Rat := (s.rawQuarters f * (s.time.now - e.lastVisit) : Nat) / (4 * 65536)
    (s.gainCredit (.raw q) gain).visitRaw q 65536
  | _, _ => s.visitRaw q 1

/-- A frame of a RAW_SEND queue waits for its queue's wheel entry, which returns to the wheel at once; a new entry has its full credit
(R206). Class 7 has no wheel entry (R196). -/
def State.paceRaw (s : State) (f : RawFrame) : State :=
  if f.cls = 7 then s.queueFrame f.port f.frame
  else
    let s : State := { s with trans.raw := s.trans.raw ++ [f] }
    let wheel := s.wheelOf f.port
    let at_ := roundSlot s.time.now
    match s.findWheel (.raw f.q) with
    | none =>
      let e : WheelEntry := { owner := .raw f.q, wheel, nextAt := at_, credit := s.burst f.port, lastVisit := s.time.now }
      { s with trans.wheel := s.trans.wheel ++ [e] }
    | some e => if e.placed then s else s.placeEntry (.raw f.q) wheel at_ none

/-- The frame's bytes are at hand: its own checks, and it waits to be paced (R202, R206, R323; log entry 31). -/
def State.rawSourced (s : State) (q : Nat) (count : Word32) (b : List Byte) : State :=
  match s.findStarted q count with
  | none => s
  | some (x, d) =>
    let port := rawPort d.entry
    if twoTags b then s.endWith q count Status.descMalformed
    else if s.rawForbidden b then s.endWith q count Status.localAccess
    else if !s.linkUp port then s.endWith q count Status.peerUnreachable
    else
      s.paceRaw { q, count, port, cls := x.tc, slice := x.slice, image := s.rawImage port x.slice x.tc b }

/-- The frame's last bit is on the wire: with TxStamp the record is written first (R323). -/
def State.rawSent (s : State) (q : Nat) (count : Word32) : State :=
  match s.findStarted q count with
  | none => s
  | some (x, d) =>
    let ok : Done := { status := Status.success, bytes := rawLength d.entry }
    if rawStamp d.entry then
      match s.access { cluster := homeOf q, slice := x.slice, gen := x.gen, as := x.as, offset := rawStampAt d.entry, length := 16,
                       write := true, data := stampRecord s.time.now s.time.frac (rawPort d.entry), use := .rawBuffer q count } with
      | (s, .done _) => s.endDesc q count ok
      | (s, .fail c) => s.endWith q count c
      | (s, _) => s
    else s.endDesc q count ok

/-- The write of a buffer or of a stamp record has ended. -/
def State.rawBufferEnded (s : State) (q : Nat) (count : Word32) (r : AccOut) : State :=
  match s.findStarted q count, r with
  | some (_, d), .done _ =>
    if Desc.opcode d.entry = Op.rawSend then s.endDesc q count { status := Status.success, bytes := rawLength d.entry }
    else s.endDesc q count { status := Status.success, bytes := d.units.getD 2 0, detail := d.units.getD 0 0 + d.units.getD 1 0 * 256 }
  | some _, .fail c => s.endWith q count c
  | _, _ => s

end Sys2Proof.Machine
end

