-- ==== Sys2Proof/Machine/DeliverOps.lean ====
section
/-! DEFINITION. How an access that had to wait goes on: what an ended access does for what it was made for, page faults
(R82 to R90), flushing reads (R138, R139, R398, R403, R404), and the arrivals that wait for a translation (R86). -/

namespace Sys2Proof.Machine

/-! ## Ended accesses -/

/-- Source bytes of a remote operation have been read, or could not be (R127). -/
def State.sourceEnded (s : State) (q : Nat) (count : Word32) (k : Nat) (r : AccOut) : State :=
  match s.findStarted q count with
  | none => s
  | some (_, d) =>
    if Desc.opcode d.entry = Op.rawSend then
      match r with
      | .done b => s.rawSourced q count b
      | .fail c => s.endWith q count c
      | _ => s
    else
      let mine (o : ConnOp) : Bool := o.origin = .desc q count
      match s.trans.conns.findSome? fun c => (c.ops.find? mine).map fun o => (c, o) with
      | none => s
      | some (c, o) =>
        match r with
        | .done b => (s.modOp o.id fun o => { o with data := assocSet o.data k b }).kickSet c
        | .fail f => ((s.stopOp o.id f).finishOps c.index).kickSet c
        | _ => s

/-- A ring entry's read has ended (R103, R119). -/
def State.fetchEnded (s : State) (q : Nat) (count : Word32) (r : AccOut) : State :=
  let drop (s : State) : State := s.modQueue q fun x => { x with fetches := x.fetches.filter fun r => r.count ≠ count }
  match r with
  | .done b => s.entryArrived q count b
  | .fail c => (drop s).ringFault q c
  | .stale => drop s
  | .wait => s

/-- An entry's write has ended (R110, R111). -/
def State.entryEnded (s : State) (cq : Nat) (r : AccOut) : State :=
  match s.findQueue cq with
  | none => s
  | some x =>
    match r with
    | .done _ =>
      let s := (s.entryWritten cq).flushHeld cq
      if x.kind = .event then s.overflow x.slice else s
    | .fail c =>
      (s.modQueue cq fun x => { x with held := x.writing.toList ++ x.held, writing := none, head := x.head - 1 }).cqFault cq c
    | .stale => s.modQueue cq fun x => { x with writing := none }
    | .wait => s

/-- A served read's bytes have been read, or could not be (R130, R181). -/
def State.serveEnded (s : State) (k : Nat) (r : AccOut) : State :=
  match r with
  | .done b => (s.setServed k b).kick k
  | .fail c => s.refuseServe k c
  | _ => s

/-- A service's access has ended. A service that runs on host buffers reads them when its piece comes (log entry 19). -/
def State.serviceEnded (s : State) (q : Nat) (count : Word32) (a : Access) (r : AccOut) : State :=
  match s.findSvc q count with
  | none => s
  | some v =>
    match r with
    | .done b =>
      if v.stage = 3 ∧ v.opcode ≠ Op.restore then s
      else s.svcArrived q count a.offset b 2
    | .fail c => s.failSvc v c
    | _ => s

/-- The landing range of a segment has been probed (R129). -/
def State.probeEnded (s : State) (op : Nat) (r : AccOut) : State :=
  match s.trans.conns.findSome? fun c => (c.ops.find? fun o => o.id = op).map fun o => (c, o) with
  | none => s
  | some (c, o) =>
    match r with
    | .done _ => if c.hasTurn op then s.sendSegment o c else s
    | .fail f => ((s.stopOp op f).finishOps c.index).kickSet c
    | _ => s

/-- A group's access has ended: its member table, or one of its operation's. -/
def State.pieceEnded (s : State) (h : Nat) (what : CollUse) (r : AccOut) : State :=
  match what, r with
  | .table, .done b => s.groupTable h b
  | .table, .fail c => s.groupFails h c
  | .table, _ => s
  | _, _ => s.collAccessEnded h what r

/-- What an ended access does for what it was made for. -/
def State.deliver (s : State) (a : Access) (r : AccOut) : State :=
  match a.use with
  | .fetch q n => s.fetchEnded q n r
  | .entry cq => s.entryEnded cq r
  | .source q n k => s.sourceEnded q n k r
  | .copyRead q n u => s.copyReadEnded q n u r
  | .copyWrite q n u => s.copyWriteEnded q n u r
  | .landing k psn => s.landingEnded k psn (a.data.isEmpty && decide (a.length ≠ 0)) r
  | .rawBuffer q n => s.rawBufferEnded q n r
  | .scanRead q n => s.scanReadEnded q n r
  | .scanResult q n => s.scanWritten q n r
  | .readServe k _ => s.serveEnded k r
  | .service q n => s.serviceEnded q n a r
  | .svcOut q n tag =>
    match r, s.findSvc q n with
    | .fail c, some v => s.failSvc v c
    | .done _, some _ => s.svcOutEnded q n tag
    | _, _ => s
  | .piece h what => s.pieceEnded h what r
  | .eyelet id =>
    match r with
    | .done b => s.eyeletDone id Status.success b
    | .fail c => s.eyeletDone id c []
    | _ => s
  | .probe op => s.probeEnded op r
  | .bitmap k offset => s.bitmapEnded k offset r 4
  | .msix f v => s.emitMsix a.slice f v
  | .mbx k => s.respWritten k
  | .context _ => s

/-! ## Going on -/

/-- A waiting access is tried again, and delivered if it ends. A served read has passed its check already: it goes on by itself. -/
def State.resumeWaiting (s : State) (w : Waiting) : State :=
  match w.access.use with
  | .readServe k _ => ((s.dropWaiting w.id).readServe k).kick k
  | .msix f v => (s.dropWaiting w.id).emitMsix w.access.slice f v
  | .mbx k => (s.dropWaiting w.id).respWritten k
  | _ =>
    let (s, r) := (s.dropWaiting w.id).attempt (match w.on with | .logRoom | .posted _ => w | _ => { w with on := .stalled })
    s.deliver w.access (if w.access.gen = s.gen w.access.slice then r else .stale)

/-- End a waiting access with a code. -/
def State.failWaiting (s : State) (w : Waiting) (c : Status) : State :=
  let (s, r) := (s.dropWaiting w.id).failAccess w.access.slice c
  s.deliver w.access r

/-- End every waiting access of a kind with a code. -/
def State.failAll (s : State) (good : Waiting → Bool) (c : Status) : State :=
  (s.xlate.waiting.filter good).foldl (fun s w => s.failWaiting w c) s

/-! ## Page faults (R82 to R88) -/

/-- The range, function, PASID and first page that an access still lacks a translation of. -/
def State.missingPage (s : State) (a : Access) : Option (RangeEntry × Func × Option (BitVec 20) × Nat) :=
  (s.search a.slice a.offset a.length).bind fun e =>
    if e.tier.port.isNone then none
    else
      let (f, pasid) := s.carrier e
      ((pagesOf (e.target + (a.offset - e.start)) a.length).find? fun p =>
        (s.translated a.cluster f pasid p a.write).isNone).map fun p => (e, f, pasid, p)

/-- A write that faults moves the bytes before the faulting page, if their check passes, and keeps the rest (R85). A landing access moves
none: its response is discarded and asked for again (R129). A read puts nothing anywhere before it is whole. -/
def State.moveBefore (s : State) (w : Waiting) (f : Func) (pasid : Option (BitVec 20)) (page : Nat) : State × Waiting :=
  let v := w.rest
  let a := v.access
  let lands := match a.use with | .landing .. => true | _ => false
  match s.search a.slice a.offset a.length with
  | none => (s, w)
  | some e =>
    let iova := e.target + (a.offset - e.start)
    let n := page - iova
    if !a.write || a.data.isEmpty || lands || decide (page ≤ iova) then (s, w)
    else match s.check a.slice a.as e.slot e.incarnation 1 none a.offset n with
      | .error _ => (s, w)
      | .ok e =>
        let part : Waiting := { v with access := { a with length := n, data := a.data.take n } }
        match s.hostAccess part part e f pasid iova with
        | (s, .done _) => (s, { w with moved := w.moved + n })
        | _ => (s, w)

/-- A page of a served read is missing: a Pinned region or a function without page requests denies it, another faults (R82, R86). -/
def State.faultServing (s : State) (k : Nat) (e : RangeEntry) (f : Func) (pasid : Option (BitVec 20)) (page : Nat) : State :=
  match s.inboundFault e f pasid page with
  | (s, .refused c) => (s.refuseServe k c).kick k
  | (s, _) => (s.faultServe k).kick k

/-- A waiting access has faulted on a page: it waits on an entry of the Pending Fault Table, or for room there, or is
denied. A landing access loses its bytes (R129). -/
def State.faultWaiting (s : State) (w : Waiting) : State :=
  match s.missingPage w.rest.access with
  | none => s.resumeWaiting w
  | some (e, f, pasid, p) =>
    match w.access.use with
    | .readServe k _ => (s.dropWaiting w.id).faultServing k e f pasid p
    | _ =>
      match s.requestBlocked f e.pathTag with
      | some c => s.failWaiting w c
      | none =>
      if e.pinned ∨ s.xlate.priStopped.contains f ∨ !(s.funcState f).pri then s.failWaiting w Status.xlateDenied
      else
        let (s, w) := (s.dropWaiting w.id).moveBefore w f pasid p
        let data := match w.access.use with
          | .landing .. => []
          | _ => w.access.data
        let w := { w with firstFault := some (w.firstFault.getD s.time.now), access := { w.access with data } }
        match s.fault e.slice f pasid p with
        | (s, some id) => (s.park { w with on := .page id }).1
        | (s, none) => (s.park { w with on := .stalled }).1

/-- Stalled accesses try again for an entry, in the order in which they stalled (R85). -/
def State.retryStalled (s : State) : State :=
  (s.xlate.waiting.filter fun w => w.on = .stalled).foldl (fun s w => s.faultWaiting w) s

/-! ## Held arrivals (R86, R383) -/

/-- The offset, length, permission and cluster of an inbound request's translation. -/
def inboundSpan (p : Packet) : Option (Nat × Nat × Bool) :=
  p.addr.map fun ad =>
    if p.ptype = .readReq then (fpaOffset ad.fpa.toNat, ad.msgLen, false)
    else if p.ptype = .atomicReq then (fpaOffset ad.fpa.toNat, 8, true)
    else (fpaOffset ad.fpa.toNat, p.payload.length, true)

/-- Where a chunk of a collective would land, and otherwise the addressed bytes. -/
def State.heldSpan (s : State) (c : Conn) (p : Packet) : Option (Nat × Nat × Bool) :=
  match p.coll, c.group.bind s.findGroup with
  | some e, some g =>
    g.op.bind fun o =>
      let x := s.shape g o
      (chunkOf g o x e).bind fun lu => p.addr.map fun ad =>
        (o.recv + (recvRange x o lu.2).1 + fpaOffset ad.fpa.toNat, p.payload.length, true)
  | _, _ => inboundSpan p

/-- A held arrival ends as its check, its translation or its fault says. A chunk of a collective that may not land ends its operation
here (R236, R241). -/
def State.heldEnds (s : State) (c : Conn) (a : Arrival) (psns : List Word32) (r : Inbound) : State :=
  match r, (if a.pkt.coll.isSome then c.group.bind s.findGroup else none) with
  | .refused code, some g => s.collFail g.handle code
  | .revoked, some g => s.collFail g.handle Status.regionRevoked
  | r, _ => s.turnAway c a psns r

/-- A held arrival has been overtaken by another copy of it: it is a duplicate now, and no READ_REQ that asks to be served again. -/
def State.goneBy (s : State) (c : Conn) (p : Packet) : Bool := s.isDup c p.psn && !(p.ptype = .readReq && p.retx)

/-- The PSNs that a request asks for. -/
def Conn.askedPsns (c : Conn) (p : Packet) : List Word32 :=
  psnRun p.psn (if p.ptype = .readReq then max 1 (ceilDiv ((p.addr.map (·.msgLen)).getD 0) c.payload) else 1)

/-- A held arrival whose translation request has ended. Where the answer lacks a page that was asked for with the permission needed, the
page faults: a retry-after NAK (R82, R86). Any other page that is missing is asked for in turn. -/
def State.heldAnswered (s : State) (asked : Nat → Bool) (a : Arrival) : State :=
  let x := s.received a
  match s.endChecks x with
  | (s, none) => s
  | (s, some c) =>
    match s.heldSpan c a.pkt with
    | none => s.endPacketIn c x
    | some (off, len, write) =>
      let acc : Access := { cluster := c.home, slice := c.slice, offset := off, length := len, write, use := .readServe c.index 0 }
      match s.missingPage acc with
      | none => s.endPacketIn c x
      | some (e, f, pasid, p) =>
        if s.goneBy c a.pkt ∨ !asked p then s.endPacketIn c x
        else
          let (s, r) := s.inboundFault e f pasid p
          s.heldEnds c a (c.askedPsns a.pkt) r

/-- A held arrival ends as the check it waited for says. -/
def State.turnHeld (s : State) (r : Inbound) (a : Arrival) : State :=
  let x := s.received a
  match s.endChecks x with
  | (s, none) => s
  | (s, some c) => if s.goneBy c a.pkt then s.endPacketIn c x else s.heldEnds c a (c.askedPsns a.pkt) r

/-- A held arrival ends with a code. An end of the host link that it meets counts in LinkDownOps of its slice (R411). -/
def State.refuseHeld (s : State) (code : Status) (a : Arrival) : State :=
  let s := match s.findConn a.pkt.destIndex.toNat with
    | some c => if code = Status.hostLinkDown then s.bump .slcHostStatLinkDownOps c.slice else s
    | none => s
  s.turnHeld (.refused code) a

/-- What writes waited for has come: they go on. -/
def State.releaseWrites (s : State) (on : WaitFor) : State :=
  let s := (s.xlate.waiting.filter fun w => w.on = on).foldl (fun s w => s.resumeWaiting w) s
  let (s, held) := s.takeHeld fun x => x = on
  held.foldl (fun s a => s.again_ (s.received a)) s

/-- The dirty-page log has room again: the writes that waited for it go on (R383). -/
def State.releaseLog (s : State) : State := s.releaseWrites .logRoom

/-! ## Flushing reads (R138, R139) -/

/-- An access that waited on flushes goes on once the last has ended. -/
def State.flushWaiting (s : State) (id : Nat) (code : Option Status) (w : Waiting) : State :=
  match w.on with
  | .flush ids =>
    let rest := ids.erase id
    let w := { w with on := .flush rest, flushFail := orCode w.flushFail code }
    if !rest.isEmpty then s.modWaiting w.id fun _ => w
    else
      let (s, w) := s.patchEntry w
      s.resumeWaiting w
  | _ => s

/-- A flush that descriptors' deliveries wait for has ended (R403). -/
def State.flushStarted (s : State) (id : Nat) (code : Option Status) : State :=
  let one (d : Started) : Started :=
    if d.flushIds.contains id then { d with flushIds := d.flushIds.erase id, flushFail := orCode d.flushFail code } else d
  { s with queue.queues := s.queue.queues.map fun x => { x with started := x.started.map one } }

/-- Messages whose writes a flush covers (R404): a complete one ends with the last of its flushes, or with the first that fails. -/
def State.flushMsgs (s : State) (id pathTag : Nat) (code : Option Status) : State :=
  let hit := s.trans.conns.flatMap fun c => (c.msgs.filter fun m => m.flushes.contains id).map fun m => (c.index, m.msn)
  let fail := code.map fun c => (c, pathTag)
  let one (m : RxMsg) : RxMsg :=
    if m.flushes.contains id then { m with flushes := m.flushes.erase id, flushFail := m.flushFail.orElse fun _ => fail } else m
  let s := { s with trans.conns := s.trans.conns.map fun c => { c with msgs := c.msgs.map one } }
  hit.foldl (fun s x => s.flushedMsg x.1 x.2) s

/-- A flushing read has ended, with a code if it failed. -/
def State.flushEnded (s : State) (f : Flush) (code : Option Status) : State :=
  let s := { s with xlate.flushes := s.xlate.flushes.filter fun x => x.id ≠ f.id,
                    hostReads := s.hostReads.filter fun h => h.id ≠ f.id }
  let s := if code.isSome then s.bump .slcRmaStatFlushFail f.slice else s
  let on (w : Waiting) : Bool := match w.on with
    | .flush ids => ids.contains f.id
    | _ => false
  let ws := s.xlate.waiting.filter on
  let s := match code with
    | some c => if f.evicted ∧ ws.isEmpty ∧ (assoc s.xlate.heldFlushFail f.slice).isNone ∧ f.gen = s.gen f.slice then
        { s with xlate.heldFlushFail := assocSet s.xlate.heldFlushFail f.slice c } else s
    | none => s
  let s := ws.foldl (fun s w => s.flushWaiting f.id code w) s
  ((s.flushStarted f.id code).flushMsgs f.id f.pathTag code).finishInvalidates

end Sys2Proof.Machine
end

