-- ==== Sys2Proof/Machine/Deliver.lean ====
section
/-! DEFINITION. The host's answers to the part's own requests (R80 to R91, R138, R139, R402 to R405), and what ends regions'
records (R143, R147). -/

namespace Sys2Proof.Machine

/-! ## ATS (R80 to R83) -/

/-- Put the lines of an ATS completion into the cluster's cache, in place of lines of the same pages (R80, R82). -/
def State.addPages (s : State) (r : AtsReq) (pages : List (Nat × Nat × Bool × Bool)) : State :=
  (pages.filter fun p => r.page ≤ p.1 && p.1 < r.page + r.pages * 4096 && p.1 % 4096 = 0).foldl (fun s p =>
    let old (l : CacheLine) : Bool := match l with
      | .page f pasid iova size .. => f = r.func && pasid = r.pasid && iova ≤ p.1 && p.1 < iova + size
      | .range .. => false
    let s := { s with xlate.caches := vmod s.xlate.caches r.cluster fun ls => ls.filter fun l => !old l }
    s.addLine r.cluster (.page r.func r.pasid p.1 4096 p.2.1 p.2.2.1 p.2.2.2)) s

/-- The waiting accesses of a translation request. -/
def State.atsWaiters (s : State) (id : Nat) : List Waiting := s.xlate.waiting.filter fun w => w.on = .ats id

/-- A translation request has ended with lines: each access that lacks one of the pages asked for faults on it (R82), and
every other goes on. -/
def State.atsAnswered (s : State) (r : AtsReq) : State :=
  let asked (p : Nat) : Bool := decide (r.page ≤ p ∧ p < r.page + r.pages * 4096)
  let s := (s.atsWaiters r.id).foldl (fun s w =>
    if (s.missingPage w.rest.access).any fun x => asked x.2.2.2 then s.faultWaiting w else s.resumeWaiting w) s
  let (s, held) := s.takeHeld fun on => on = .ats r.id
  held.foldl (fun s a => s.heldAnswered asked a) s

/-- A translation request has ended without a translation. -/
def State.atsFailed (s : State) (r : AtsReq) (c : Status) : State :=
  let s := s.failAll (fun w => decide (w.on = .ats r.id)) c
  let (s, held) := s.takeHeld fun on => on = .ats r.id
  held.foldl (fun s a => s.refuseHeld c a) s

/-- A translation request ends (R80, R82). -/
def State.atsEnded (s : State) (r : AtsReq) (pages : List (Nat × Nat × Bool × Bool)) (res : ReadResult) : State :=
  let s := { s with xlate.ats := s.xlate.ats.filter fun x => x.id ≠ r.id }
  match res with
  | .ok _ => (s.addPages r pages).atsAnswered r
  | .unsupported => s.atsFailed r Status.xlateDenied
  | .timeout => (s.bump .slcHostStatCplTimeouts r.slice).atsFailed r Status.hostLinkDown

/-- ATS_COMPLETION (R80, R82). -/
def execAtsCompletion (id : Nat) (pages : List (Nat × Nat × Bool × Bool)) (res : ReadResult) (s : State) : Result :=
  match s.xlate.ats.find? fun r => r.id = id with
  | none => .next s
  | some r => .next (s.atsEnded r pages res).settle

/-- The outstanding reads that use a page of a range of IOVAs as a function (R83). -/
def State.readsUsing (s : State) (f : Func) (pasid : Option (BitVec 20)) (iova length : Nat) : List Nat :=
  (s.hostReads.filter fun h => h.port = f.port.val && h.fn = f.fn.val &&
    (match h.use with
     | .access w => s.xlate.waiting.any fun x => x.id = w &&
         (match s.search x.access.slice x.access.offset x.access.length with
          | some e =>
            let at_ := e.target + (x.access.offset - e.start)
            decide ((s.carrier e).2 = pasid ∧ at_ < iova + length ∧ iova < at_ + x.access.length)
          | none => true)
     | _ => true)).map (·.id)

/-- ATS_INVALIDATE (R83): matching lines leave every cluster, and the completion follows once the reads issued with them
have completed. -/
def execAtsInvalidate (f : Func) (pasid : Option (BitVec 20)) (iova length : Nat) (s : State) : Result :=
  let hit (l : CacheLine) : Bool := match l with
    | .page g p at_ size .. => g = f && p = pasid && at_ < iova + length && iova < at_ + size
    | .range .. => false
  let reads := s.readsUsing f pasid iova length
  .next ({ s with xlate.caches := s.xlate.caches.map fun ls => ls.filter fun l => !hit l,
                  xlate.invalidating := s.xlate.invalidating ++ [(f, reads)] } : State).finishInvalidates

/-- Drop every translation line of a function. -/
def State.dropLines (s : State) (good : Func → Bool) : State :=
  let hit (l : CacheLine) : Bool := match l with
    | .page g .. => good g
    | .range .. => false
  { s with xlate.caches := s.xlate.caches.map fun ls => ls.filter fun l => !hit l }

/-- The function that an access of a host tier is made as. -/
def State.accessFunc (s : State) (a : Access) : Option Func :=
  (s.search a.slice a.offset a.length).bind fun e => if e.tier.port.isSome then some (s.carrier e).1 else none

/-- ATS_ENABLE_CLEAR (R81): the function's lines go, and its accesses end with XLATE_DENIED until ATS Enable is set. -/
def execAtsEnableClear (f : Func) (s : State) : Result :=
  let s := (s.modFunc f fun x => { x with ats := false }).dropLines fun g => g = f
  let ids := (s.xlate.ats.filter fun r => r.func = f).map (·.id)
  let s := { s with xlate.ats := s.xlate.ats.filter fun r => r.func ≠ f }
  let onIt (w : Waiting) : Bool := match w.on with
    | .ats id => ids.contains id
    | .page _ | .stalled => s.accessFunc w.access = some f
    | _ => false
  let s := s.failAll onIt Status.xlateDenied
  let (s, held) := s.takeHeld fun on => match on with
    | .ats id => ids.contains id
    | _ => false
  .next (held.foldl (fun s a => s.refuseHeld Status.xlateDenied a) s).settle

/-! ## Page requests (R84 to R88) -/

/-- The slice of a function, for counting: slice 0 first. -/
def State.sliceOf (s : State) (f : Func) : Nat :=
  (s.slicesWith fun x => x.state ≠ .unbound && x.func = f).headD 0

/-- The wait limit of a waiting access has passed (R88). -/
def State.waitPassed (s : State) (w : Waiting) : Bool := w.firstFault.any fun t => s.passed (t + s.waitLimit w.access.slice)

/-- PAGE_RESPONSE (R87). A response in a waiter's deadline tick wins, and one in a later tick finds that waiter ended (R28, R88). `code` is the response code of the PRG Response message: 0 Success, 1 Invalid Request, any other
Response Failure (log entry 32). -/
def execPageResponse (f : Func) (prg : Nat) (code : Nat) (s : State) : Result :=
  match s.xlate.pft.find? fun e => e.func = f && e.prg = prg with
  | none => .next (s.bump .xltFaultStatStray (s.sliceOf f))
  | some e =>
    let freed (s : State) : State := { s with xlate.pft := s.xlate.pft.filter fun x => x.id ≠ e.id }
    let s := s.failAll (fun w => decide (w.on = .page e.id) && s.waitPassed w) Status.xlateFaultTimeout
    let mine := s.xlate.waiting.filter fun w => w.on = .page e.id
    if code = 0 then
      .next (mine.foldl (fun s w => s.resumeWaiting w) (freed s)).retryStalled.settle
    else if code = 1 then
      let s := freed s
      let s := { s with xlate.deniedPages := if s.xlate.deniedPages.contains (e.slice, e.pasid, e.page) then s.xlate.deniedPages
                          else s.xlate.deniedPages ++ [(e.slice, e.pasid, e.page)] }
      .next (mine.foldl (fun s w => s.failWaiting w Status.xlateDenied) s).retryStalled.settle
    else
      let ids := (s.xlate.pft.filter fun x => x.func = f).map (·.id)
      let s := { freed s with xlate.priStopped := if s.xlate.priStopped.contains f then s.xlate.priStopped else s.xlate.priStopped ++ [f] }
      let onIt (w : Waiting) : Bool := match w.on with
        | .page id => ids.contains id
        | _ => false
      .next (s.failAll onIt Status.xlateDenied).retryStalled.settle

/-- PRI_ENABLE_CHANGE (R87): setting the bit after it was clear lets the function raise page requests again. -/
def execPriEnableChange (f : Func) (enable : Bool) (s : State) : Result :=
  let was := (s.funcState f).pri
  let s := s.modFunc f fun x => { x with pri := enable }
  if enable ∧ !was then .next { s with xlate.priStopped := s.xlate.priStopped.filter (· ≠ f) } else .next s

/-- FAULT_WAIT_DEADLINE (R88, R89): the limit of a waiting access, or of an operation that has met retry-after NAKs. -/
def execFaultWaitDeadline (waiter : Nat) (s : State) : Result :=
  let s := match s.xlate.waiting.find? fun w => w.id = waiter && (w.on = .stalled || (match w.on with | .page _ => true | _ => false)) with
    | some w => if s.waitPassed w then
        (s.failWaiting w Status.xlateFaultTimeout).retryStalled else s
    | none => s
  match s.trans.conns.findSome? fun c => (c.ops.find? fun o => o.id = waiter).map fun o => (c, o) with
  | some (c, o) => if s.faultExpired c.slice o then .next (s.reportOp o.id Status.xlateFaultTimeout).settle else .next s.settle
  | none => .next s.settle

/-! ## Reads (R402, R403) -/

/-- A read of the part has ended. -/
def State.readEnded (s : State) (h : HostRead) (res : ReadResult) : State :=
  match h.use with
  | .access id =>
    match s.xlate.waiting.find? fun w => w.id = id with
    | none => ({ s with hostReads := s.hostReads.filter fun x => x.id ≠ h.id } : State).finishInvalidates
    | some w =>
      let (s, r) := s.readOutcome w res
      let s := s.endHostRead w
      s.deliver w.access (if w.access.gen = s.gen w.access.slice then r else .stale)
  | .flush id =>
    match s.xlate.flushes.find? fun f => f.id = id with
    | none => { s with hostReads := s.hostReads.filter fun x => x.id ≠ h.id }
    | some f =>
      match res with
      | .ok _ => s.flushEnded f none
      | .unsupported => s.flushEnded f (some (pathCode f.pathTag false))
      | .timeout => (s.bump .slcHostStatCplTimeouts f.slice).flushEnded f (some (pathCode f.pathTag true))

/-- FLUSH_READ_COMPLETION (R138, R139). -/
def execFlushReadCompletion (id : Nat) (res : ReadResult) (s : State) : Result :=
  match s.hostReads.find? fun h => h.use = .flush id with
  | some h => .next (s.readEnded h res).settle
  | none => .next s

/-- HOST_READ_COMPLETION (R402). -/
def execHostReadCompletion (id : Nat) (res : ReadResult) (s : State) : Result :=
  match s.hostReads.find? fun h => h.id = id with
  | some h => .next (s.readEnded h res).settle
  | none => .next s

/-- The least and the most that a programmed Completion Timeout Value of ranges A to D stands for, in ns (PRESUMED, of PCIe; log
entry 33). -/
def cplRange (value : Nat) : Nat × Nat :=
  match value with
  | 1 => (50000, 100000)
  | 2 => (1000000, 10000000)
  | 5 => (16000000, 55000000)
  | 6 => (65000000, 210000000)
  | 9 => (260000000, 900000000)
  | 10 => (1000000000, 3500000000)
  | 13 => (4000000000, 13000000000)
  | 14 => (17000000000, 64000000000)
  | _ => (50000000, 50000000)

/-- The completion timeout of a port's reads: a value of 0 is taken as 50 ms (R392); where in its range another lies is a free value. -/
def State.cplTimeout (s : State) (port : Nat) : Nat :=
  let v := (s.hostPort port).cplValue
  let (lo, hi) := cplRange v
  lo + Config.cplWithin v % (hi - lo + 1)

/-- PCIE_COMPLETION_TIMEOUT (R402): a read, or a translation request (R80), has had no completion. -/
def execPcieCompletionTimeout (id : Nat) (s : State) : Result :=
  match s.hostReads.find? fun h => h.id = id with
  | some h =>
    if s.passed (h.sentAt + s.cplTimeout h.port) then
      .next ((s.aerNote ⟨Fin.ofNat 2 h.port, Fin.ofNat 256 h.fn⟩ aerTimeout).readEnded h .timeout).settle
    else .next s
  | none => match s.xlate.ats.find? fun r => r.id = id with
    | some r => if s.passed (r.sentAt + s.cplTimeout r.func.port) then .next ((s.aerNote r.func aerTimeout).atsEnded r [] .timeout).settle else .next s
    | none => .next s

/-! ## The data link layer (R404) -/

/-- The oldest posted TLPs of a port are acknowledged: what counts them counts as many fewer. -/
def State.tlpsAcked (s : State) (port count : Nat) : State :=
  let less (x : Nat × Nat) : Nat × Nat := if x.1 = port then (x.1, x.2 - count) else x
  let msg (m : RxMsg) : RxMsg := { m with tlps := (m.tlps.map less).filter fun x => x.2 ≠ 0 }
  { s with host := vmod s.host port fun h => { h with unacked := h.unacked - count, posted := h.posted.drop count },
           trans.conns := s.trans.conns.map fun c => { c with msgs := c.msgs.map msg },
           queue.queues := s.queue.queues.map fun x => { x with entryTlps := (x.entryTlps.map less).filter fun y => y.2 ≠ 0 } }

/-- DATA_LINK_LAYER_ACK: the link partner has acknowledged the oldest posted TLPs; messages whose TLPs are all acknowledged
go on to their flush and their report, and writes that waited for room go out (R216). -/
def execDataLinkLayerAck (port : Fin 2) (count : Nat) (s : State) : Result :=
  let s := s.tlpsAcked port count
  let done := s.trans.conns.flatMap fun c => (c.msgs.filter fun m => m.acksDue && m.tlps.isEmpty).map fun m => (c.index, m.msn)
  .next (done.foldl (fun s x => s.flushMsg x.1 x.2) (s.releaseWrites (.posted port))).settle

/-! ## Revocation (R143, R144, R147) -/

/-- Range lines of an entry leave every cache (R77). -/
def State.dropRangeLines (s : State) (slice slot : Nat) : State :=
  let hit (l : CacheLine) : Bool := match l with
    | .range k _ _ n _ => k = slice && n = slot
    | .page .. => false
  { s with xlate.caches := s.xlate.caches.map fun ls => ls.filter fun l => !hit l }

/-- Write a Revoke Record: at most 4,096, the oldest is overwritten (R147). -/
def State.addRevokeRecord (s : State) (e : RangeEntry) : State :=
  let r : RevokeRecord := { slice := e.slice, start := e.start, length := e.length, key := e.key, expiry := s.time.now + 4000000 }
  match s.xlate.revokeRecords with
  | o :: rest =>
    if 4096 ≤ s.xlate.revokeRecords.length then
      let s := if s.passed o.expiry then s else s.bump .slcRmaStatRecordLost o.slice
      { s with xlate.revokeRecords := rest ++ [r] }
    else { s with xlate.revokeRecords := s.xlate.revokeRecords ++ [r] }
  | [] => { s with xlate.revokeRecords := [r] }

/-- A revoked entry becomes Free. -/
def State.freeRange (s : State) (e : RangeEntry) : State :=
  (s.dropRangeLines e.slice e.slot).modRange e.slice e.slot fun e => { e with state := .free, inFlight := 0, revoker := none }

/-- REVOKE_DRAIN_DONE (R143): `slot` is the entry's index in the Range Map. A region that a slice reset revoked leaves no Revoke Record
(R147, R376). -/
def execRevokeDrainDone (slot : Nat) (s : State) : Result :=
  match s.xlate.ranges.find? fun e => e.slot = slot && e.state = .revoking with
  | none => .next s
  | some e =>
    if e.inFlight ≠ 0 then .next s
    else
      let s := if e.revoker.isSome then s.addRevokeRecord e else s
      .next ((s.freeRange e).respondTo e.revoker Status.success [])

/-- REVOKE_RECORD_EXPIRY (R147). -/
def execRevokeRecordExpiry (s : State) : Result :=
  .next { s with xlate.revokeRecords := s.xlate.revokeRecords.filter fun r => !s.due r.expiry }

end Sys2Proof.Machine
end

