-- ==== Sys2Proof/Machine/RegionOps.lean ====
section
/-! DEFINITION. Registering and revoking regions (R71 to R76, R123, R124, R143, R144), and the queue groups of QUEUE_CREATE
(R93, R98). -/

namespace Sys2Proof.Machine

/-! ## Segments (R74) -/

/-- First Range Map slot of a slice: the sum of the quotas of the slices below it. -/
def State.segBase (s : State) (slice : Nat) : Nat := ((List.range slice).map fun k => (s.quota k).ranges).sum

/-- Entries of a slice that are not Free. -/
def State.liveRanges (s : State) (slice : Nat) : List RangeEntry :=
  s.xlate.ranges.filter fun e => e.slice = slice && e.state ≠ .free

/-- SortIndex of a slot: the slots of the entries that are not Free, in ascending order of Start, stand in slot order. -/
def State.sortIndex (s : State) (slice slot : Nat) : Nat :=
  let sorted := (s.liveRanges slice).mergeSort fun a b => a.start ≤ b.start
  ((sorted[slot - s.segBase slice]?).map (·.slot)).getD 0

/-! ## REGION_REGISTER (R123) -/

/-- The area that holds all bytes of a range. -/
def State.areaOf (s : State) (start length : Nat) : Option Tier :=
  let a := s.area start
  let last := start + length - 1
  let inNext := match a with
    | .near => decide (last < reserveBase)
    | .far => decide (last < farBase + s.farBytes)
    | .hostA => decide (last < 0xE0000000000)
    | .hostB => decide (last < 0xF0000000000)
    | .reserved => false
  if inNext then a.tier else none

def tierOf : Nat → Option Tier
  | 0 => some .near
  | 1 => some .far
  | 2 => some .hostA
  | 3 => some .hostB
  | _ => none

def Tier.isHost (t : Tier) : Bool := t.port.isSome

/-- Condition 1: a parameter out of range, or breaking R71, R72 or R56. -/
def State.regionBad (s : State) (p : RegionParams) : Bool :=
  match tierOf p.tier with
  | none => true
  | some t =>
    decide (2 ^ 44 ≤ p.start ∨ p.start % 64 ≠ 0 ∨ p.length = 0 ∨ p.length % 64 ≠ 0 ∨ 32 ≤ p.perm ∨ 126 < p.addressSpace)
      || decide (s.areaOf p.start p.length ≠ some t) || (p.perm.testBit 4 && decide (t ≠ .near))
      || (if t.isHost then decide (p.target % 64 ≠ 0 ∨ 2 ^ 64 < p.target + p.length ∨ 0xFFFF < p.pathTag) else decide (p.pathTag ≠ 0))

/-- The tier names the port that the slice is not bound to (R401). -/
def State.crossPort (s : State) (slice : Nat) (t : Tier) : Bool := t.port.any fun p => p ≠ (s.slice slice).port

def RangeEntry.overlaps (e : RangeEntry) (start length : Nat) : Bool :=
  decide (e.start < start + length ∧ start < e.start + e.length)

/-- A RegionKey from the DRBG, drawn again while it may not stand (R124): the first good draw among the next ones. -/
def State.goodKey (s : State) (slice : Nat) (k : Word32) : Bool :=
  decide (k ≠ 0) && !(s.xlate.ranges.any fun e => e.slice = slice && e.state ≠ .free && e.key = k)
    && !(s.xlate.revokeRecords.any fun r => r.slice = slice && r.key = k && !s.passed r.expiry)

def State.drawKey (s : State) (slice : Nat) : Nat → State × Word32
  | 0 => (s.advanceFree, BitVec.ofNat 32 ((s.freeChoice (2 ^ 32) fun k => s.goodKey slice (BitVec.ofNat 32 k)).getD s.freeNow))
  | fuel + 1 =>
    let k := BitVec.ofNat 32 s.freeNow
    if s.goodKey slice k then (s.advanceFree, k) else s.advanceFree.drawKey slice fuel

/-- Check and register (R123). Answers the status and the response's fields. -/
def State.registerRegion (s : State) (slice : Nat) (p : RegionParams) : State × Status × List Nat :=
  let t := (tierOf p.tier).getD .near
  let hit (f : RangeEntry → Bool) : Bool := s.xlate.ranges.any fun e => f e && e.overlaps p.start p.length
  let base := s.segBase slice
  let quota := (s.quota slice).ranges
  let x : RangeEntry := { slice, slot := 0, tier := t }
  if s.regionBad p then (s, Status.descMalformed, [])
  else if s.crossPort slice t ∧ ((s.slice slice).fn ≠ 0 ∨ !p.pinned) then (s, Status.descMalformed, [])
  else if hit fun e => e.state = .revoking then (s, Status.busy, [])
  else if hit fun e => e.state = .active && e.slice = slice then (s, Status.descMalformed, [])
  else if hit fun e => e.state = .active then (s, Status.localAccess, [])
  else if quota ≤ (s.liveRanges slice).length then (s, Status.noResources, [])
  else if t.isHost ∧ !(s.funcState (s.carrier x).1).ats then (s, Status.xlateDenied, [])
  else
    match s.freeChoice quota fun k => !((s.liveRanges slice).any fun e => e.slot = base + k) with
    | none => (s, Status.noResources, [])
    | some k =>
      let slot := base + k
      let (s, key) := s.advanceFree.drawKey slice 256
      let inc := ((s.range slice slot).map (·.incarnation)).getD 0 + 1
      let e : RangeEntry :=
        { slice, slot, start := p.start, length := p.length,
          target := if t.isHost then p.target else (mkFpa s.coord p.start), key, as := p.addressSpace,
          perm := BitVec.ofNat 5 p.perm, anyAs := p.anyAs, pinned := p.pinned && t.isHost,
          pasid := if t.isHost ∧ !s.crossPort slice t then (s.slice slice).pasid else none, tier := t, state := .active,
          incarnation := inc, pathTag := if t.isHost then p.pathTag else 0xFFFF }
      ({ s with xlate.ranges := (s.xlate.ranges.filter fun e => !(e.slice = slice && e.slot = slot)) ++ [e] },
        Status.success, [slot, inc.toNat, key.toNat])

/-! ## Leaving Active (R90, R143) -/

/-- A waiting access lies in a range and has not passed the check. A served read has. -/
def waitsOn (e : RangeEntry) (w : Waiting) : Bool :=
  w.access.slice = e.slice && e.covers w.access.offset w.access.length
    && (match w.on, w.access.use with | .hostRead _, _ | _, .readServe .. => false | _, _ => true)

/-- Arrivals held for a range of a slice. -/
def State.heldOn (s : State) (e : RangeEntry) (a : Arrival) : Bool :=
  match s.findConn a.pkt.destIndex.toNat with
  | none => false
  | some c => c.slice = e.slice && (s.heldSpan c a.pkt).any fun x => e.covers x.1 x.2.1

/-- A region leaves Active: every access that is stalled or waiting on it ends with REGION_REVOKED (R90). -/
def State.beginRevoke (s : State) (e : RangeEntry) (who : Option (Nat × Word32)) : State :=
  let s := (s.dropRangeLines e.slice e.slot).modRange e.slice e.slot fun e => { e with state := .revoking, revoker := who }
  let s := s.failAll (waitsOn e) Status.regionRevoked
  let (go, stay) := s.trans.heldArrivals.partition fun h => s.heldOn e h.2
  go.foldl (fun s h => s.turnHeld .revoked h.2) { s with trans.heldArrivals := stay }

/-! ## Queue groups (R93, R98) -/

def State.queueGroups (s : State) (slice : Nat) : List (Nat × Nat × Nat) := s.queue.groups.filter fun g => g.2.1 = slice

def State.numberFree (s : State) (n : Nat) : Bool := !(s.queue.queues.any fun q => q.number = n)

/-- The slot of a new group: its number on a PF, and a free one of the VF's 4,096 otherwise. -/
def State.newSlot (s : State) (slice g : Nat) : Option Nat :=
  let x := s.slice slice
  if x.fn = 0 then some g
  else
    let taken := s.queue.groups.filter fun h => (s.slice h.2.1).func = x.func
    s.advanceFree.freeChoice 4096 fun k => !(taken.any fun h => h.2.2 = k)

/-- The slice can take a queue on a cluster: one of its groups has a free number there, or a new group can be assigned. -/
def State.clusterRoom (s : State) (slice c : Nat) : Bool :=
  ((s.queueGroups slice).any fun g => s.numberFree (8 * g.1 + c))
    || (decide (s.queue.groups.length < 32768) && (s.newSlot slice 0).isSome)

/-- A number for a queue on a cluster: in a group of the slice, or in a new one. Which is free. -/
def State.queueNumber (s : State) (slice c : Nat) : State × Option (Nat × Nat) :=
  let mine := (s.queueGroups slice).filter fun g => s.numberFree (8 * g.1 + c)
  match mine[s.freeNow % max 1 mine.length]? with
  | some g => (s.advanceFree, some (8 * g.1 + c, g.2.2))
  | none =>
    match s.freeChoice 32768 fun g => !(s.queue.groups.any fun h => h.1 = g) with
    | none => (s, none)
    | some g => match s.newSlot slice g with
      | none => (s, none)
      | some k =>
        let s := s.advanceFree.advanceFree
        ({ s with queue.groups := s.queue.groups ++ [(g, slice, k)] }, some (8 * g + c, k))

/-- A group whose last queue is gone returns to the pool. -/
def State.trimGroups (s : State) : State :=
  { s with queue.groups := s.queue.groups.filter fun g => s.queue.queues.any fun q => q.number / 8 = g.1 }

/-! ## QUEUE_CREATE (R94) -/

def kindOf : Nat → Option QKind
  | 0 => some .work
  | 1 => some .completion
  | 2 => some .event
  | 3 => some .rawRecv
  | _ => none

def entryBytes (k : QKind) (p : QueueParams) : Nat :=
  match k with
  | .work => p.entrySize
  | .rawRecv => 64
  | _ => 32

/-- A parameter out of range, a completion queue that is not one, or a second event queue. -/
def State.queueBad (s : State) (slice : Nat) (k : QKind) (p : QueueParams) : Bool :=
  let producer := decide (k = .work ∨ k = .rawRecv)
  let vectors := if (s.slice slice).fn = 0 then 2048 else 64
  decide (p.logEntries < 6 ∨ 20 < p.logEntries ∨ p.ringOffset % 4096 ≠ 0 ∨ 126 < p.addressSpace ∨ (7 < p.cluster ∧ p.cluster ≠ 0xFF))
    || (k = .work && decide ((p.entrySize ≠ 64 ∧ p.entrySize ≠ 256) ∨ 7 < p.trafficClass))
    || (producer && !((s.findQueue p.cq).any fun q => q.slice = slice && q.kind = .completion))
    || (!producer && decide (vectors ≤ p.vector ∨ p.modCount < 1 ∨ 1024 < p.modCount ∨ 1000 < p.modTimeUs))
    || (k = .event && s.queue.queues.any fun q => q.slice = slice && q.kind = .event)

/-- The ring lies in one Active region of the slice that grants LocalRead and LocalWrite, in the near or a host tier. -/
def State.ringOk (s : State) (slice offset bytes : Nat) : Bool :=
  (s.search slice offset bytes).any fun e =>
    e.state = .active && e.perm.getLsbD 0 && e.perm.getLsbD 1 && decide (e.tier ≠ .far)

/-- Check and create. Answers the status and the response's fields. The context of a class 7 queue takes its line at once, and keeps
it (R122). -/
def State.createQueue (s : State) (slice : Nat) (p : QueueParams) : State × Status × List Nat :=
  match kindOf p.kind with
  | none => (s, Status.descMalformed, [])
  | some k =>
    let tc := if k = .work then p.trafficClass else 0
    if s.queueBad slice k p then (s, Status.descMalformed, [])
    else if !s.ringOk slice p.ringOffset (2 ^ p.logEntries * entryBytes k p) then (s, Status.localAccess, [])
    else if (s.quota slice).queues ≤ (s.queue.queues.filter fun q => q.slice = slice).length then (s, Status.noResources, [])
    else if tc = 7 ∧ 512 ≤ (s.queue.queues.filter fun q => q.tc = 7).length then (s, Status.noResources, [])
    else
      let (s, c) := if tc = 7 then (s, 0)
        else if p.cluster = 0xFF then (s.advanceFree, (s.freeChoice 8 (s.clusterRoom slice)).getD 0) else (s, p.cluster)
      match s.queueNumber slice c with
      | (s, none) => (s, Status.noResources, [])
      | (s, some (n, slot)) =>
        let q : Queue :=
          { number := n, slice, gen := s.gen slice, kind := k, logEntries := p.logEntries, entrySize := entryBytes k p,
            ringOffset := p.ringOffset, as := p.addressSpace, cq := p.cq, tc, vector := p.vector, modCount := p.modCount,
            modTimeUs := p.modTimeUs, groupSlot := slot }
        let s : State := { s with queue.queues := s.queue.queues ++ [q] }
        (if tc = 7 then s.loadContext n else s, Status.success, [n, slot * 4096 + n % 8 * 512])

/-- Check and destroy (R95): filters that name the queue are cleared (R321). -/
def State.destroyQueue (s : State) (slice n : Nat) : State × Status :=
  match s.findQueue n with
  | none => (s, Status.localAccess)
  | some q =>
    if q.slice ≠ slice then (s, Status.localAccess)
    else if q.state ≠ .disabled ∨ !q.idle ∨ (q.kind = .completion ∧ s.queue.queues.any fun x => x.isWork && x.cq = n) then
      (s, Status.busy)
    else
      let s := { s with queue.queues := s.queue.queues.filter fun x => x.number ≠ n,
                        filters := s.filters.filter fun f => f.2.queue ≠ n,
                        trans.wheel := s.trans.wheel.filter fun (w : WheelEntry) => decide (w.owner ≠ WheelOwner.raw n) }
      (s.trimGroups, Status.success)

end Sys2Proof.Machine
end

