-- ==== Sys2Proof/Machine/SliceOps.lean ====
section
/-! DEFINITION. Slice resets (R373 to R380), freezing, and the image of a slice (R384 to R387). -/

namespace Sys2Proof.Machine

/-! ## The steps of a reset (R376) -/

/-- Records of a slice's queues that the reset drops: completions of what was started, and records held (R374). -/
def Queue.dropped (x : Queue) : Nat := x.started.length + x.held.length

/-- Step 2: queues enter Reset, and what they had fetched, started and held is gone; the mailbox commands outstanding are
discarded, but for one that asked for the reset itself. -/
def State.resetQueues (s : State) (k : Nat) : State :=
  let mine := s.queue.queues.filter fun x => x.slice = k
  let clear (x : Queue) : Queue :=
    { x with state := .inReset, enable := false, fetches := [], started := [], delivering := [], held := [], writing := none, arm := none, bell := false }
  let keep := (s.slice k).resetters
  let s := s.bumpBy .slcStaleStatCompletions k (mine.map Queue.dropped).sum
  let s : State :=
    { s with queue.queues := updWhere (fun x => x.slice = k) clear s.queue.queues,
             queue.watch := s.queue.watch.filter fun w => w.slice ≠ k,
             queue.evLost := assocDel s.queue.evLost k,
             keys.guardQueue := s.keys.guardQueue.filter fun e => e.slice ≠ k,
             keys.guardJobs := s.keys.guardJobs.filter fun j => j.slice ≠ k,
             trans.wheel := s.trans.wheel.filter fun (w : WheelEntry) => !(mine.any fun x => decide (w.owner = WheelOwner.raw x.number)),
             trans.raw := s.trans.raw.filter fun f => f.slice ≠ k }
  s.modMailbox k fun m => { m with taken := m.taken.filter fun t => keep.contains (k, t.tag), ready := [], intake := [], writing := none }

/-- The access has passed the check: the host carries it out, or it only waits for room (R374). -/
def Waiting.passedCheck (w : Waiting) : Bool :=
  match w.on with
  | .hostRead _ | .logRoom | .posted _ => true
  | _ => false

/-- Accesses of the slice that wait for anything but a read's data end without moving a byte (R374). With slice 0's, the flushes of every
dirty-page log are over. -/
def State.resetWaiting (s : State) (k : Nat) : State :=
  let gone := s.xlate.waiting.filter fun w => w.access.slice = k && !w.passedCheck
  let ids := gone.map (·.id)
  let s := s.bumpBy .slcStaleStatRequests k gone.length
  let s : State := { s with xlate.waiting := s.xlate.waiting.filter fun w => !ids.contains w.id }
  if k = 0 then { s with dirtyLogs := s.dirtyLogs.map fun d => { d with words := [], waiter := none, failed := none } } else s

/-- An operation of an end ends without a completion; an Eyelet store's access is over with it. -/
def State.dropOp (s : State) (o : ConnOp) : State :=
  match o.origin with
  | .eyelet id => { s with xlate.eyeletBusy := s.xlate.eyeletBusy.filter fun x => !(x.id = id && !x.load) }
  | _ => s

/-- DATA that passed the check before step 1 of a reset has been placed, and its ACK is still sent (R378): the coalesced ones, and those
held for a message whose packets have all been placed. -/
def State.ackPlaced (s : State) (c : Conn) : State :=
  let whole := c.msgs.filter fun m => !m.refused && decide (m.total ≤ m.placed.length)
  let s := (whole.flatMap (·.heldLast)).foldl (fun s h => s.markReceived h.conn [h.psn] h.stamp) s
  (s.members c).foldl (fun s m => if 0 < m.unreported then s.sendAck m.index none else s) s

/-- Step 3: an end moves to Gone (R167). -/
def State.endGone (s : State) (c : Conn) : State :=
  let s := if c.index = c.stripeFirst then s.ackPlaced c else s
  let s := c.ops.foldl State.dropOp (c.serves.foldl (fun s _ => s.endServe c.index) s)
  let gone (c : Conn) : Conn :=
    { c with state := .gone, goneUntil := s.time.now + 1000000000, ops := [], inflight := [], msgs := [], serves := [], answers := [],
             parked := [], pausedUntil := none, rekey := none, rehome := none, creator := none, group := none,
             unreportedAt := none, unreported := 0 }
  let s := s.modConn c.index gone
  { s with trans.wheel := s.trans.wheel.filter fun (w : WheelEntry) => decide (w.owner ≠ WheelOwner.conn c.index),
           trans.ackRecords := s.trans.ackRecords.filter fun r => r.conn ≠ c.index,
           mem.infPool := s.mem.infPool + c.inflight.length }

/-- The control message is one of an end: its own, or a node-scope message about it. -/
def CtrlOut.ofEnd (o : CtrlOut) (i : Nat) : Bool :=
  o.conn = some i || (match o.msg with
    | .connectReq b => b.initIndex.toNat = i
    | .close j .. => j.toNat = i
    | .reHome _ _ _ m .. => m.toNat = i
    | _ => false)

def State.resetEnds (s : State) (k : Nat) : State :=
  let mine := s.trans.conns.filter fun c => c.slice = k && c.state ≠ .gone
  let s := mine.foldl State.endGone s
  let s := s.dropCtrl fun o => mine.any fun c => o.ofEnd c.index
  let held := s.trans.heldArrivals.filter fun x => mine.any fun c => c.index = x.2.pkt.destIndex.toNat
  let s := s.bumpBy .slcStaleStatRequests k held.length
  { s with trans.listens := s.trans.listens.filter fun l => l.slice ≠ k,
           trans.heldArrivals := s.trans.heldArrivals.filter fun x => !(mine.any fun c => c.index = x.2.pkt.destIndex.toNat) }

/-- Step 4: regions enter Revoking, page requests no longer count, and Eyelet Map entries are removed. -/
def State.resetRegions (s : State) (k : Nat) : State :=
  { s with xlate.ranges := updWhere (fun e => e.slice = k && e.state ≠ .free) (fun e => { e with state := .revoking, revoker := none })
                             s.xlate.ranges,
           xlate.pft := updWhere (fun e => e.slice = k) (fun e => { e with charged := false }) s.xlate.pft,
           xlate.deniedPages := s.xlate.deniedPages.filter fun d => d.1 ≠ k,
           xlate.eyelet := s.xlate.eyelet.filter fun e => e.slice ≠ k,
           xlate.unmapping := s.xlate.unmapping.filter fun u => u.1 ≠ k,
           xlate.dirty := assocDel s.xlate.dirty k,
           xlate.heldFlushFail := assocDel s.xlate.heldFlushFail k }

/-- Step 5: groups and services are freed, and timers disarmed. -/
def State.resetWork (s : State) (k : Nat) : State :=
  { s with work.groups := s.work.groups.filter fun g => g.slice ≠ k,
           work.services := s.work.services.filter fun v => v.slice ≠ k,
           time.timers := s.time.timers.filter fun t => t.slice ≠ k,
           time.timerCfg := s.time.timerCfg.map fun x => if x.1.1 = k then (x.1, (0, x.2.2)) else x }

/-- The next generation (R373). -/
def nextGen (g : Nat) : Nat := (g + 1) % 65536

/-- Step 1, and steps 2 to 5 with it. -/
def State.beginReset (s : State) (k cause : Nat) (who : Option (Nat × Word32)) (unbind : Bool) : State :=
  let x := s.slice k
  let s := (s.respondTo x.freezer Status.busy []).respondTo x.thawer Status.busy []
  let s := s.modSlice k fun x =>
    { x with state := .resetting, gen := nextGen x.gen, lastCause := cause, leaveUnbound := unbind, resetters := who.toList,
             armed := false, freezer := none, thawer := none, saved := false, restored := false,
             rehomed := [], unanswered := 0 }
  ((((s.resetQueues k).resetWaiting k).resetEnds k).resetRegions k).resetWork k

/-- A cause of reset: it starts one, joins the one in progress, or waits for the end of a Last activation's pause, or, for
slice 0, of a firmware handover (R49, R375, R488). -/
def State.resetSlice (s : State) (k cause : Nat) (who : Option (Nat × Word32)) (unbind : Bool) : State :=
  match (s.slice k).state with
  | .unbound => s
  | .resetting =>
    s.modSlice k fun x => { x with leaveUnbound := x.leaveUnbound || unbind, resetters := x.resetters ++ who.toList }
  | _ =>
    if s.inPause ∨ (k = 0 ∧ s.fw.switching) then { s with last.held := s.last.held ++ [.reset k cause who] }
    else s.beginReset k cause who unbind

/-- The functions that an FLR resets: a PF's takes its VFs with it. -/
def flrHits (f g : Func) : Bool := g = f || (f.fn.val = 0 && g.port = f.port)

/-- What an FLR takes from its functions: their cached lines, their page requests (R91) and their settings. -/
def State.flrClears (s : State) (f : Func) : State :=
  let s := s.dropLines (flrHits f)
  { s with xlate.pft := s.xlate.pft.filter fun e => !flrHits f e.func,
           xlate.priStopped := s.xlate.priStopped.filter fun g => !flrHits f g,
           host := vmod s.host f.port fun h =>
             if f.fn.val = 0 then { h with pfState := {}, vfs := [], vfEnable := false, numVfs := 0 } else h.setFunc f.fn {} }

/-- The slices that an FLR resets. -/
def State.flrSlices (s : State) (f : Func) : List Nat :=
  s.slicesWith fun x => x.state ≠ .unbound && flrHits f x.func

/-- An FLR is carried out: every slice bound to the function is reset, and accesses that waited on its page requests go on. -/
def State.flrNow (s : State) (f : Func) : State :=
  (((s.flrClears f).flrSlices f).foldl (fun s k => s.resetSlice k 4 none false) (s.flrClears f)).retryStalled

/-- An FLR, or its wait for the end of the pause. -/
def State.takeFlr (s : State) (f : Func) : State :=
  if s.inPause then { s with last.held := s.last.held ++ [.flr f] } else s.flrNow f

/-- One of the things that waited is served. -/
def State.serveHeld (s : State) (h : HeldItem) : State :=
  match h with
  | .doorbell f q count arm => s.doorbell f q count arm
  | .reset k cause who => s.resetSlice k cause who false
  | .flr f => s.takeFlr f
  | .request k => s.intakeOne k
  | .running .. => s

/-- The command that a served item has left to be carried out. -/
def State.leftToRun (s : State) (h : HeldItem) : Option (Nat × Word32) :=
  let open_ (k : Nat) (good : MbxTaken → Bool) : Option (Nat × Word32) :=
    ((s.mailbox k).taken.find? fun t => !t.committed && good t).map fun t => (k, t.tag)
  match h with
  | .request k => open_ k fun _ => true
  | .running k tag => open_ k fun t => t.tag = tag
  | _ => none

/-- Serve what waited in the order in which it came (R49), as far as a mailbox command that has yet to be carried out: what came behind it
goes on waiting. -/
def State.serveInOrder (s : State) : List HeldItem → State
  | [] => s
  | h :: r =>
    let s := s.serveHeld h
    match s.leftToRun h with
    | some (k, tag) => { s with last.held := s.last.held ++ .running k tag :: r }
    | none => s.serveInOrder r

/-- What waited is served. -/
def State.serveAllHeld (s : State) : State := ({ s with last.held := [] } : State).serveInOrder s.last.held

/-- What waits behind a mailbox command that has been carried out since is served (log entry 78). -/
def State.serveBehind (s : State) : State :=
  match s.last.held with
  | .running .. :: _ => if s.mbxHeld then s else s.serveAllHeld.intakeAll
  | _ => s

/-! ## Steps 6 and 7 -/

/-- Every old-generation access that passed the check has completed (R69, R376). -/
def State.resetDrained (s : State) (k : Nat) : Bool :=
  !(s.xlate.waiting.any fun w => w.access.slice = k)
    && !(s.hostReads.any fun h => h.slice = k && (match h.use with | .access _ => true | .flush _ => false))
    && !(s.xlate.eyeletBusy.any fun x => x.slice = k) && !(s.mem.farBusy.any fun x => x.slice = k)

/-- The registers that a slice reset restores. -/
def State.restoreRegs (s : State) (k : Nat) : State :=
  let s := ([.slcEyeletCtrlLoadLimitUs, .xltFaultCtrlRetryAfterUs, .slcArithCtrlFp8Sat, .slcCheckSelCluster, .slcMbxCtrlEnable] : List Fld).foldl
    (fun s f => s.setFld f k f.reset) s
  s.setFld .xltFaultCtrlWaitLimitMs k (s.quota k).waitMs

/-- Step 6: regions become Free without a Revoke Record; queues, groups, counters, filters, key slots and check contexts
go (R413, R438). -/
def State.destroyObjects (s : State) (k : Nat) : State :=
  let mine := (s.queue.queues.filter fun x => x.slice = k).map (·.number)
  let s := (s.xlate.ranges.filter fun e => e.slice = k && e.state = .revoking).foldl State.freeRange s
  let wipe (x : KeySlot) : KeySlot := { x with state := .empty, key := 0, salt := 0, keyId := 0, next := 0 }
  let free (x : CheckCtx) : CheckCtx := { x with value := 0, valid := false, owner := none, scanning := false, load := none }
  let s : State :=
    { s with queue.queues := s.queue.queues.filter fun x => x.slice ≠ k,
             queue.lace := s.queue.lace.filter fun x => x.1.1 ≠ k,
             filters := s.filters.filter fun f => !mine.contains f.2.queue,
             keys.slots := updWhere (fun x => x.slice = k) wipe s.keys.slots,
             keys.engines := s.keys.engines.map fun l => l.filter fun x => x.slice ≠ k,
             checks := updWhere (fun x => x.owner.any fun o => o.1 = k) free s.checks }
  (s.trimGroups).restoreRegs k

/-- Step 7: SLICE_RESET_DONE, and the answers to the commands that asked. -/
def State.finishReset (s : State) (k : Nat) : State :=
  let x := s.slice k
  let s := s.modSlice k fun x =>
    if x.leaveUnbound then { gen := x.gen, lastCause := x.lastCause, heartbeat := x.heartbeat, beatAt := x.beatAt, tenant := x.tenant }
    else { x with state := .active, resetters := [] }
  let s := s.raise { slice := 0, code := EventCode.sliceResetDone, object := k, info := x.lastCause + x.gen * 256 }
  x.resetters.foldl (fun s w => s.respond w Status.success [x.gen]) s

/-! ## Freezing (R384) -/

/-- No descriptor started, no PSN in flight, no read or atomic outstanding, no completion held, no waiter, no service. -/
def State.frozenReady (s : State) (k : Nat) : Bool :=
  !(s.queue.queues.any fun x => x.slice = k && (!x.started.isEmpty || !x.delivering.isEmpty || !x.held.isEmpty || x.writing.isSome))
    && !(s.queue.records.any fun r => r.2.slice = k)
    && !(s.trans.conns.any fun c => c.slice = k && (!c.ops.isEmpty || !c.inflight.isEmpty || !c.serves.isEmpty || !c.answers.isEmpty))
    && !(s.xlate.waiting.any fun w => w.access.slice = k)
    && !(s.trans.heldArrivals.any fun x => s.trans.conns.any fun c => c.slice = k && c.index = x.2.pkt.destIndex.toNat)
    && !(s.work.services.any fun v => v.slice = k) && !(s.xlate.eyeletBusy.any fun x => x.slice = k)

/-! ## The image (R385, R386) -/

def QKind.code : QKind → Nat
  | .work => 0
  | .completion => 1
  | .event => 2
  | .rawRecv => 3

def Queue.save (x : Queue) : SavedQueue :=
  { number := x.number,
    params := { kind := x.kind.code, logEntries := x.logEntries, entrySize := x.entrySize, ringOffset := x.ringOffset,
                addressSpace := x.as, cq := x.cq, trafficClass := x.tc, cluster := x.number % 8, vector := x.vector,
                modCount := x.modCount, modTimeUs := x.modTimeUs },
    enable := x.enable, state := if x.state = .running then 1 else if x.state = .halted then 3 else 0, lastStatus := x.lastStatus.toNat,
    head := x.head, doorbell := x.doorbell, armed := x.arm.map (·.written), groupSlot := x.groupSlot }

def RxMsg.save (first : Nat) (m : RxMsg) : SavedMsg :=
  { msn := m.msn, total := m.total, placed := m.placed, heldLast := m.heldLast.map fun x => (x.conn - first, x.psn), lace := m.lace,
    offset := m.offset, refused := m.refused }

def Conn.save (base : Nat) (c : Conn) : SavedEnd :=
  { index := c.index, incarnation := c.incarnation, state := match c.state with | .connecting => 0 | .opened => 1 | .closing => 2 | _ => 3, code := c.failCode.toNat, fenced := c.fenced,
    peer := c.peer, peerIndex := c.peerIndex, peerInc := c.peerInc, listenId := c.listenId, ordered := c.ordered,
    trafficClass := c.tc, payloadLog := c.payloadLog, stripes := c.stripes, stripeFirst := c.stripeFirst, addressSpace := c.as,
    contextRegion := if c.nearContext then none else some (c.contextRegion - base), initPsn := c.initPsn, nextPsn := c.nextPsn, nextMsn := c.nextMsn, expect := c.expect,
    received := c.received, msgs := c.msgs.map (RxMsg.save c.stripeFirst), atomics := c.atomics.map fun a => (a.psn, a.old, a.swapped),
    window := c.window, srtt := c.srtt, rttVar := c.rttVar }

def RangeEntry.save (base : Nat) (e : RangeEntry) : SavedRegion :=
  { slot := e.slot - base,
    params := { tier := match e.tier with | .near => 0 | .far => 1 | .hostA => 2 | .hostB => 3,
                start := e.start, length := e.length, target := e.target, perm := e.perm.toNat, anyAs := e.anyAs, pinned := e.pinned,
                addressSpace := e.as, pathTag := e.pathTag },
    key := e.key, incarnation := e.incarnation, revoking := decide (e.state = .revoking) }

/-- The CRC-64 of an image. -/
def imageCrc (i : SliceImage) : Word64 := crc64 (Config.imageBytes { i with crc := 0 })

/-- The image of a Frozen slice, but for its CRC-64. -/
def State.imageOf (s : State) (k : Nat) : SliceImage :=
  { contractMajor := s.fld .gblContractMajor 0, oldCoord := s.coord, tenant := (s.slice k).tenant,
    lace := (s.queue.lace.filter fun x => x.1.1 = k).map fun x => (x.1.2, x.2),
    queues := (s.queue.queues.filter fun x => x.slice = k).map Queue.save,
    ends := (s.trans.conns.filter fun c => c.slice = k && c.state ≠ .gone).map (Conn.save (s.segBase k)),
    regions := (s.xlate.ranges.filter fun e => e.slice = k && e.state ≠ .free).map (RangeEntry.save (s.segBase k)) }

/-- The image with its CRC-64, which ends it. -/
def State.sealedImage (s : State) (k : Nat) : SliceImage := { s.imageOf k with crc := imageCrc (s.imageOf k) }

/-- Its size in bytes. -/
def State.imageSize (s : State) (k : Nat) (i : SliceImage) : Nat :=
  256 + 128 * i.queues.length + 1024 * i.ends.length + 64 * i.regions.length + 8 * (s.quota k).lace

/-- The slice owns nothing. -/
def State.owns (s : State) (k : Nat) : Bool :=
  (s.queue.queues.any fun x => x.slice = k) || (s.trans.conns.any fun c => c.slice = k)
    || (s.xlate.ranges.any fun e => e.slice = k && e.state ≠ .free) || (s.work.groups.any fun g => g.slice = k)
    || (s.xlate.eyelet.any fun e => e.slice = k) || (s.trans.listens.any fun l => l.slice = k)

/-- A BAR2 group slot is free for a group of the slice, or already that group's. -/
def State.groupSlotOk (s : State) (k group slot : Nat) : Bool :=
  let x := s.slice k
  !(s.queue.groups.any fun g => g.1 = group || ((s.slice g.2.1).func = x.func && g.2.2 = slot)) && (x.fn ≠ 0 || slot = group)

/-- Everything that an image names is free, and within the quotas and the device's 512 class 7 queues (R122). -/
def State.imageFits (s : State) (k : Nat) (i : SliceImage) : Bool :=
  let q := s.quota k
  decide (i.queues.length ≤ q.queues ∧ i.ends.length ≤ q.conns ∧ i.regions.length ≤ q.ranges)
    && i.lace.all (fun x => decide (x.1 < q.lace))
    && decide ((s.queue.queues.filter fun x => x.tc = 7).length + (i.queues.filter fun x => x.params.trafficClass = 7).length ≤ 512)
    && i.queues.all (fun x => (s.findQueue x.number).isNone && s.groupSlotOk k (x.number / 8) x.groupSlot)
    && i.ends.all (fun e => (s.findConn e.index).isNone)
    && decide ((i.ends.filter fun e => e.contextRegion.isNone).length ≤ s.nearAllow k)
    && i.regions.all (fun r => decide (r.slot < q.ranges)
        && !(s.xlate.ranges.any fun e => e.state ≠ .free && e.overlaps r.params.start r.params.length)
        && decide (s.areaOf r.params.start r.params.length = tierOf r.params.tier))

def SavedQueue.load (s : State) (k : Nat) (x : SavedQueue) : Queue :=
  { number := x.number, slice := k, gen := s.gen k, kind := (kindOf x.params.kind).getD .work, logEntries := x.params.logEntries,
    entrySize := x.params.entrySize, ringOffset := x.params.ringOffset, as := x.params.addressSpace, cq := x.params.cq,
    tc := x.params.trafficClass, vector := x.params.vector, modCount := x.params.modCount, modTimeUs := x.params.modTimeUs,
    state := if x.state = 1 then .running else if x.state = 3 then .halted else .disabled, enable := x.enable, head := x.head,
    doorbell := x.doorbell, bell := true, lastStatus := BitVec.ofNat 8 x.lastStatus,
    arm := x.armed.map fun n => { written := n, firstAt := if n = 0 then none else some s.time.now }, groupSlot := x.groupSlot }

/-- A recreated end: its incarnation is raised as for any index that leaves Free (R166), and the old one kept for
RE_HOME. -/
def SavedEnd.load (s : State) (k : Nat) (e : SavedEnd) : Conn :=
  { index := e.index, slice := k, gen := s.gen k, incarnation := (assoc s.trans.incarnations e.index).getD 0 + 1,
    state := if e.state = 0 then .connecting else if e.state = 1 then .opened else if e.state = 2 then .closing else .failed, failCode := BitVec.ofNat 8 e.code, fenced := e.fenced, peer := e.peer,
    peerIndex := e.peerIndex, peerInc := e.peerInc, listenId := e.listenId, ordered := e.ordered, tc := e.trafficClass,
    payloadLog := e.payloadLog, stripes := e.stripes, stripeFirst := e.stripeFirst, as := e.addressSpace,
    contextRegion := s.segBase k + e.contextRegion.getD 0, nearContext := e.contextRegion.isNone, initPsn := e.initPsn, nextPsn := e.nextPsn,
    nextMsn := e.nextMsn, expect := e.expect, received := e.received,
    msgs := e.msgs.map fun (m : SavedMsg) =>
      { msn := m.msn, total := m.total, placed := m.placed, heldLast := m.heldLast.map fun x => { conn := e.stripeFirst + x.1, psn := x.2, offset := m.offset },
        lace := m.lace, offset := m.offset, refused := m.refused },
    atomics := e.atomics.map fun a => { psn := a.1, old := a.2.1, swapped := a.2.2 },
    window := e.window, srtt := e.srtt, rttVar := e.rttVar, rto := rtoOf e.srtt e.rttVar, rehome := some e.incarnation,
    lastUse := s.time.now }

def SavedRegion.load (s : State) (k : Nat) (r : SavedRegion) : RangeEntry :=
  let t := (tierOf r.params.tier).getD .near
  let p := r.params
  { slice := k, slot := s.segBase k + r.slot, start := p.start, length := p.length,
    target := if t.isHost then p.target else mkFpa s.coord p.start, key := r.key, as := p.addressSpace, perm := BitVec.ofNat 5 p.perm,
    anyAs := p.anyAs, pinned := p.pinned, pasid := if t.isHost ∧ !s.crossPort k t then (s.slice k).pasid else none, tier := t,
    state := if r.revoking then .revoking else .active,
    incarnation := ((s.range k (s.segBase k + r.slot)).map (·.incarnation)).getD 0 + 1, pathTag := p.pathTag }

def State.loadEnd (s : State) (k : Nat) (e : SavedEnd) : State :=
  let c := SavedEnd.load s k e
  { s with trans.conns := s.trans.conns ++ [c], trans.incarnations := assocSet s.trans.incarnations c.index c.incarnation }

/-- Import an image. The slice is then Frozen. Class 7 queues take their lines (R122). -/
def State.loadImage (s : State) (k : Nat) (i : SliceImage) : State :=
  let groups := (i.queues.map fun x => (x.number / 8, k, x.groupSlot)).dedup
  let regions := i.regions.map (SavedRegion.load s k)
  let s : State :=
    { s with queue.queues := s.queue.queues ++ i.queues.map (SavedQueue.load s k),
             queue.groups := s.queue.groups ++ groups,
             queue.lace := (s.queue.lace.filter fun x => x.1.1 ≠ k) ++ i.lace.map fun x => ((k, x.1), x.2),
             xlate.ranges := (s.xlate.ranges.filter fun e => !(regions.any fun r => r.slice = e.slice && r.slot = e.slot)) ++ regions }
  let s := (i.queues.filter fun x => x.params.trafficClass = 7).foldl (fun (s : State) x => s.loadContext x.number) s
  let s := i.ends.foldl (fun s e => s.loadEnd k e) s
  let s := if i.queues.any fun x => x.state = 1 then s.armWatch k else s
  s.modSlice k fun x => { x with state := .frozen, tenant := i.tenant, restored := true, saved := false, oldCoord := i.oldCoord }

end Sys2Proof.Machine
end

