-- ==== Sys2Proof/Machine/FwOps.lean ====
section
/-! DEFINITION. Images and their verification (R445 to R450), update packages (R478 to R481), handover, confirmation and
fallback (R483 to R488). -/

namespace Sys2Proof.Machine

/-! ## Slots -/

/-- The firmware slot that does not run, and the stage loader slot that the boot descriptor does not name. -/
def State.spareFw (s : State) : Nat := 1 - s.fw.runningSlot
def State.spareStage (s : State) : Nat := 1 - s.boot.stageSlot

/-- The running firmware's image. -/
def State.runningImage (s : State) : FlashImage := (vget s.boot.fwImages s.fw.runningSlot none).getD {}

/-- FWM_IMAGE (R489). -/
def State.fwmImage (s : State) : Nat :=
  s.fw.runningSec + 2 ^ 8 * ((vget s.boot.fwImages s.spareFw none).map (·.sec)).getD 0 + 2 ^ 24 * 2

/-- FWM_STATUS (R489). -/
def State.fwmStatus (s : State) : Nat :=
  let left := (s.fw.windowEnd.map fun t => (t - s.time.now) / 1000000000).getD 0
  s.fw.update + 2 ^ 16 * s.boot.fwSlot + 2 ^ 17 * s.fw.runningSlot + (if s.fw.resetPath then 2 ^ 18 else 0)
    + (if s.emergency then 2 ^ 19 else 0) + 2 ^ 24 * s.fw.lastFailure + 2 ^ 32 * left

/-- FW_STATE to slice 0 (R489): kind 1 Switch, 2 Confirmed, 3 Aborted, 4 HandBack, 5 FirmwareReset. -/
def State.fwEvent (s : State) (kind : Nat) : State :=
  s.raise { slice := 0, code := EventCode.fwState, info := kind + s.fw.lastFailure * 256, detail := s.fw.runningSec }

/-! ## Verification (R445 to R447, R450) -/

/-- FailReason codes of SEC_BOOT_STATUS. -/
def failEcdsa : Nat := 1
def failLms : Nat := 2
def failFormat : Nat := 3
def failRollback : Nat := 4
def failRevoked : Nat := 5
def failTarget : Nat := 7

def chipTarget : Nat := 0x072400B0

/-- A signature block at an offset: the two public keys, and whether both signatures verify over the bytes before it. -/
structure SigBlock where
  whole : Bool
  ecdsaKey : BitVec 384
  hssKey : BitVec 384
  ecdsaOk : Bool
  hssOk : Bool
  size : Nat

def sigBlock (b : List Byte) (at_ : Nat) : SigBlock :=
  let n := leField b (at_ + 252) (at_ + 255)
  let msg := b.take at_
  let ek := (b.drop at_).take 96
  let hk := (b.drop (at_ + 192)).take 60
  { whole := decide (at_ + 256 + n ≤ b.length), ecdsaKey := Sha.sha384 ek, hssKey := Sha.sha384 hk,
    ecdsaOk := Ecdsa.verifies ek ((b.drop (at_ + 96)).take 96) msg,
    hssOk := Lms.verifies hk ((b.drop (at_ + 256)).take n) msg, size := 256 + n }

/-- The fused version of a kind: 1 stage loader, 2 firmware. -/
def State.fused (s : State) (kind : Nat) : Nat := if kind = 1 then s.boot.fuseStage else s.boot.fuseFw

/-- What an image in flash gives now: its own reason, or one that the fuses give. -/
def State.imageReason (s : State) (kind : Nat) (i : FlashImage) : Nat :=
  if i.reason ≠ 0 then i.reason
  else if i.spare ∧ !s.boot.spareKey then failEcdsa
  else if !i.spare ∧ s.boot.spareKey then failRevoked
  else if i.sec < s.fused kind then failRollback
  else 0

/-- Read an image's header and signature block, and verify what no fuse changes. -/
def readImage (kind : Nat) (b : List Byte) : FlashImage :=
  let sig := leField b 12 15
  let sec := leField b 5 5
  let x := sigBlock b sig
  let primary := Config.codeKeys false
  let spare := Config.codeKeys true
  let isSpare := decide (x.ecdsaKey = spare.1)
  let formed := leField b 0 3 = 0x7A31B007 ∧ leField b 4 4 = kind ∧ sec ≤ 64 ∧ leField b 6 7 = 0 ∧ leField b 24 63 = 0
    ∧ 64 + leField b 8 11 ≤ sig ∧ sig % 16 = 0 ∧ x.whole
  { bytes := b.take (sig + x.size), sec, major := leField b 21 21, minor := leField b 20 20, spare := isSpare,
    reason :=
      if !decide formed then failFormat
      else if !x.ecdsaOk ∨ (x.ecdsaKey ≠ primary.1 ∧ !isSpare) then failEcdsa
      else if !x.hssOk ∨ x.hssKey ≠ (if isSpare then spare.2 else primary.2) then failLms
      else if leField b 16 19 ≠ chipTarget then failTarget
      else 0 }

/-! ## Packages (R478 to R480) -/

def packageLimit : Nat → Option Nat
  | 1 => some 1048576
  | 2 => some 33554432
  | 3 => some 16777216
  | _ => none

/-- Bytes covered from an offset on, by `n` looks at the blocks. -/
def coveredTo (blocks : List (Nat × List Byte)) : Nat → Nat → Nat
  | 0, k => k
  | n + 1, k =>
    match blocks.find? fun b => b.1 ≤ k && k < b.1 + b.2.length with
    | some b => coveredTo blocks n (b.1 + b.2.length)
    | none => k

def FwPackage.complete (p : FwPackage) : Bool := decide (p.length ≤ coveredTo p.blocks p.blocks.length 0)

/-- Put a block over bytes. -/
def overlay (b : List Byte) (x : Nat × List Byte) : List Byte := b.take x.1 ++ x.2 ++ b.drop (x.1 + x.2.length)

/-- The package's bytes; later blocks lie over earlier ones. Erased flash reads all ones. -/
def FwPackage.bytes (p : FwPackage) : List Byte := p.blocks.foldl overlay (List.replicate p.length 0xFF)

/-- Carry out the operations of a delta package (R480), at most `n` of them. -/
def deltaRun (base : List Byte) : Nat → List Byte → List Byte → Option (List Byte)
  | 0, _, out => some out
  | n + 1, ops, out =>
    let len := leField ops 4 7
    if leField ops 1 3 ≠ 0 then none
    else if leField ops 0 0 = 1 then
      let src := leField ops 8 11
      if src + len ≤ base.length ∧ 12 ≤ ops.length then deltaRun base n (ops.drop 12) (out ++ (base.drop src).take len) else none
    else if leField ops 0 0 = 2 then
      if 8 + len ≤ ops.length then deltaRun base n (ops.drop (8 + ceilDiv len 4 * 4)) (out ++ (ops.drop 8).take len) else none
    else none

/-- The bundle that a delta gives over the active image, or the code and Detail of what is wrong with it. -/
def deltaImage (active d : List Byte) : Except (Status × Nat) (List Byte) :=
  if leField d 0 3 ≠ 0x7A31DE17 ∨ leField d 4 4 ≠ 2 ∨ leField d 5 7 ≠ 0 then .error (Status.descMalformed, 3)
  else if (d.drop 8).take 48 ≠ beBytes 48 (Sha.sha384 active).toNat then .error (Status.checkMismatch, 0)
  else match deltaRun active (leField d 60 63) (d.drop 64) [] with
    | none => .error (Status.descMalformed, 3)
    | some b => if b.length = leField d 56 59 then .ok b else .error (Status.descMalformed, 3)

/-- Put an image into the inactive slot of its kind. -/
def State.putImage (s : State) (kind : Nat) (i : Option FlashImage) : State :=
  if kind = 1 then { s with boot.stageImages := vset s.boot.stageImages s.spareStage i }
  else { s with boot.fwImages := vset s.boot.fwImages s.spareFw i }

/-- FW_CHECK (R481): the checked image, or the code, the Detail and, where the image was rejected, its reason. -/
def State.checkPackage (s : State) (p : FwPackage) : Except (Status × Nat × Nat) FlashImage :=
  if !p.complete then .error (Status.descMalformed, 2, 0)
  else
    let kind := if p.kind = 1 then 1 else 2
    let built : Except (Status × Nat) (List Byte) := if p.kind = 3 then deltaImage s.runningImage.bytes p.bytes else .ok p.bytes
    match built with
    | .error (c, d) => .error (c, d, 0)
    | .ok b =>
      let i := readImage kind b
      let r := s.imageReason kind i
      if r ≠ 0 then .error (Status.authFail, r, r)
      else if i.major ≠ s.boot.loaderMajor then .error (Status.descUnsupportedOp, 0, 0)
      else if kind = 2 ∧ !Config.importsState i.bytes then .error (Status.descUnsupportedOp, 1, 0)
      else .ok i

/-! ## Handover (R484, R485) -/

/-- An emergency before Switch, or a watchdog before it, ends a handover: the package stays Checked. -/
def State.endHandover (s : State) : State :=
  let s := (s.respondTo s.fw.activator Status.fwDeferred [])
  ({ s with fw.update := 2, fw.switching := false, fw.quiesceAt := none, fw.activator := none } : State).serveAllHeld

/-- An emergency begins: it aborts a handover before its Switch, and the old image serves what was held. -/
def State.abortHandover (s : State) : State :=
  if s.fw.update = 3 then (({ s.endHandover with fw.lastFailure := 4 } : State).fwEvent 3).intakeAll else s

/-- The cores run the image of a slot; Cell Complexes keep the other one while services that started before still run. -/
def State.switchTo (s : State) (slot : Nat) : State :=
  { s with fw.runningSlot := slot, fw.runningSec := ((vget s.boot.fwImages slot none).map (·.sec)).getD 0, fw.oldCells := 0xFF,
           work.services := updWhere (fun v => v.stage = 3) (fun v => { v with old := true }) s.work.services }

/-- A Cell Complex still runs services that started before the latest Switch. -/
def State.oldWork (s : State) (c : Nat) : Bool :=
  s.work.services.any fun v => v.old && (v.pieces.isEmpty || v.pieces.any fun p => p.cluster = c)

/-! ## Confirmation and fallback (R486, R487) -/

/-- The new image is confirmed: the boot descriptor, the fused versions, and the revoke fuse. -/
def State.confirmFw (s : State) : State :=
  let spare := s.runningImage.spare
  let s : State :=
    { s with boot := { s.boot.point (fun d => { d with fwSlot := s.fw.runningSlot }) with
                         fwFuses := s.boot.fwFuses.blow s.fw.runningSec, stageFuses := s.boot.stageFuses.blow s.boot.loaderSec,
                         spareKey := s.boot.spareKey || spare },
             fw.update := 0, fw.windowEnd := none, fw.package := none }
  s.fwEvent 2

/-- A bottom tree is needed: its generation begins (R455), or none can follow, and reports are refused (R457). -/
def State.nextTree (s : State) : State :=
  if s.boot.topNext < topIndices ∧ !s.boot.lmsStuck then { s with boot.generating := true } else { s with boot.refused := true }

/-- A firmware-only reset begins (R477). The bottom tree's seed lives in the Security Core's memory, which is lost, so the tree's indices
are abandoned and the next one is generated (R455; log entry 51). -/
def State.beginFwReset (s : State) : State :=
  ({ s.bump .fwmStatFwResets 0 with fw.resetting := true, boot.bottomReady := false, boot.bottomUsed := 0 } : State).nextTree

/-- The new image's package stays, unchecked. -/
def State.uncheck (s : State) : State :=
  { s with fw.package := s.fw.package.map fun p => { p with checked := false }, fw.windowEnd := none, fw.confirmed := false,
           fw.selfTested := false }

/-- Fall back to the old image, with a cause: 1 NotConfirmed, 2 SelfTest, 3 Watchdog. -/
def State.fallBack (s : State) (cause : Nat) (handBack : Bool) : State :=
  let s : State := { (s.bump .fwmStatFallbacks 0).uncheck with fw.lastFailure := cause, fw.resetPath := !handBack }
  if handBack then
    ({ s.switchTo s.boot.fwSlot with fw.update := if s.fw.package.isSome then 1 else 0 } : State).fwEvent 4
  else ({ s with fw.update := 5 } : State).beginFwReset

/-- Answer what was taken and not committed (R477). -/
def State.deferTaken (s : State) : State :=
  s.mailboxes.foldl (fun s m =>
    (m.2.taken.filter fun t => !t.committed).foldl (fun s t => s.answer m.1 t.tag t.opcode Status.fwDeferred 0 []) s) s

end Sys2Proof.Machine
end

