-- ==== Sys2Proof/Machine/HostPorts.lean ====
section
/-! DEFINITION. Host ports: links that retrain, end and return (R405 to R408), Bus Master Enable, VF Enable (R394), IDE (R410)
and AtomicOp requests (R393). -/

namespace Sys2Proof.Machine

def State.modHost (s : State) (p : Nat) (f : HostPort → HostPort) : State := { s with host := vmod s.host p f }

/-! ## The end of a link (R406) -/

/-- A read outstanding on the port completes at once. -/
def State.readFailed (s : State) (h : HostRead) (c : Status) : State :=
  match h.use with
  | .access id =>
    match s.xlate.waiting.find? fun w => w.id = id with
    | none => { s with hostReads := s.hostReads.filter fun x => x.id ≠ h.id }
    | some w =>
      let (s, r) := s.failAccess w.access.slice c
      (s.endHostRead w).deliver w.access (if w.access.gen = s.gen w.access.slice then r else .stale)
  | .flush id =>
    match s.xlate.flushes.find? fun f => f.id = id with
    | none => { s with hostReads := s.hostReads.filter fun x => x.id ≠ h.id }
    | some f => s.flushEnded f (some c)

/-- The waiting access goes through a port. -/
def State.waitsOnPort (s : State) (p : Nat) (ids : List Nat) (w : Waiting) : Bool :=
  match w.on with
  | .page id => ids.contains id
  | .posted q => q = p
  | .stalled => (s.accessFunc w.access).any fun f => f.port.val = p
  | _ => false

/-- Reads, translations and page requests of the port end with HOST_LINK_DOWN. -/
def State.dropPortWaits (s : State) (p : Nat) : State :=
  let down := Status.hostLinkDown
  let s := (s.hostReads.filter fun h => h.port = p).foldl (fun s h => s.readFailed h down) s
  let ats := s.xlate.ats.filter fun r => r.func.port.val = p
  let s := { s with xlate.ats := s.xlate.ats.filter fun r => r.func.port.val ≠ p }
  let s := ats.foldl (fun s r => s.atsFailed r down) s
  let ids := (s.xlate.pft.filter fun e => e.func.port.val = p).map (·.id)
  let s := { s with xlate.pft := s.xlate.pft.filter fun e => e.func.port.val ≠ p }
  (s.failAll (s.waitsOnPort p ids) down).retryStalled

/-- Messages with TLPs that are not all acknowledged are refused, complete ones now and others with their last packet; and a queue of a
slice of the other port whose latest entry was not acknowledged is Halted (R406, R408). -/
def State.dropUnacked (s : State) (p : Nat) : State :=
  let lost (m : RxMsg) : Bool := m.tlps.any fun x => x.1 = p
  let hit := s.trans.conns.flatMap fun c => (c.msgs.filter lost).map fun m => (c.index, m.msn, m.acksDue)
  let msg (m : RxMsg) : RxMsg :=
    if lost m then { m with tlps := m.tlps.filter fun x => x.1 ≠ p, flushDue := m.flushDue || m.acksDue, acksDue := false,
                            flushFail := m.flushFail.orElse fun _ => some (Status.hostLinkDown, 0xFFFF) }
    else m
  let behind (x : Queue) : Bool := (s.slice x.slice).port ≠ p && x.entryTlps.any fun y => y.1 = p
  let queues := (s.queue.queues.filter behind).map (·.number)
  let s := s.modHost p fun h => { h with unacked := 0, posted := [] }
  let s := { s with trans.conns := s.trans.conns.map fun c => { c with msgs := c.msgs.map msg },
                    queue.queues := s.queue.queues.map fun x => { x with entryTlps := x.entryTlps.filter fun y => y.1 ≠ p } }
  let s := hit.foldl (fun s x => s.flushedMsg x.1 x.2.1) s
  queues.foldl (fun s q => s.cqFault q Status.hostLinkDown) s

/-- A SUCCESS that waits to be written behind a flush becomes HOST_LINK_DOWN, and counts so (R406, R411). -/
def State.downSuccess (s : State) (slice : Nat) : State :=
  let hit (c : CplRec) : Bool := c.slice = slice && c.status = Status.success
  let fix (c : CplRec) : CplRec := if hit c then { c with status := Status.hostLinkDown } else c
  let held (r : QRecord) : Bool := match r with
    | .cpl c => hit c
    | .event _ => false
  let fixHeld (r : QRecord) : QRecord := match r with
    | .cpl c => .cpl (fix c)
    | .event _ => r
  let n := (s.queue.records.filter fun r => hit r.2).length + (s.queue.queues.map fun x => (x.held.filter held).length).sum
  let s := s.bumpBy .slcHostStatLinkDownOps slice n
  { s with queue.records := s.queue.records.map fun r => (r.1, fix r.2),
           queue.queues := s.queue.queues.map fun x => { x with held := x.held.map fixHeld } }

/-- Dirty paths of the port are cleared without a flush, and a SUCCESS that waits on them becomes HOST_LINK_DOWN: of what wrote on them, and
of the completions that a flush of them would go before. Revocations of regions reached through the port wait no longer (R144, R406). -/
def State.dropPortPaths (s : State) (p : Nat) : State :=
  let mine (d : DirtyPath) : Bool := d.port = p
  let slices := (s.xlate.dirty.filter fun x => x.2.any mine).map (·.1)
  let desc (d : Started) : Started :=
    if d.paths.any mine then
      { d with paths := d.paths.filter fun x => !mine x, flushFail := orCode d.flushFail (some Status.hostLinkDown) }
    else d
  let msg (m : RxMsg) : RxMsg := match m.peers.find? mine with
    | some d => { m with peers := m.peers.filter fun x => !mine x,
                         flushFail := m.flushFail.orElse fun _ => some (Status.hostLinkDown, d.pathTag) }
    | none => m
  let dirty := s.xlate.dirty.map fun x => (x.1, x.2.filter fun d => !mine d)
  let s : State :=
    { s with xlate.dirty := dirty.filter fun x => !x.2.isEmpty,
             queue.queues := s.queue.queues.map fun x => { x with started := x.started.map desc },
             trans.conns := s.trans.conns.map fun c => { c with msgs := c.msgs.map msg },
             xlate.ranges := updWhere (fun e => e.state = .revoking && e.tier.port = some p) (fun e => { e with inFlight := 0 })
                               s.xlate.ranges }
  slices.foldl State.downSuccess s

/-- The slices bound to functions of the port. -/
def State.slicesOf (s : State) (p : Nat) : List Nat :=
  s.slicesWith fun x => x.state ≠ .unbound && x.port = p

/-- Slice 0 moves to the other port's PF where that port's link is up (R370). -/
def State.moveZero (s : State) (p : Nat) : State :=
  if (s.slice 0).port = p ∧ (s.hostPort (1 - p)).up then s.modSlice 0 fun x => { x with port := 1 - p, fn := 0, pasid := none } else s

/-- The actions of R406, with a cause: 1 DL_Down, 2 hot reset, 3 PERST#, 4 IDE. -/
def State.endLink (s : State) (p cause : Nat) : State :=
  let s := s.modHost p fun h => { h with cfgReset := h.cfgReset || decide (cause = 2 ∨ cause = 3) }
  if !(s.hostPort p).up then s
  else
    let s := (s.modHost p fun h => if cause = 4 then { h with up := false, lastDown := cause }
      else { h with up := false, lastDown := cause, speed := 0, width := 0, flit := false }).bump
      .gblHostStatusLinkDowns p
    let mine := s.slicesOf p
    let s := mine.foldl (fun s k => s.resetSlice k 5 none false) s
    let s := ((((s.moveZero p).dropPortPaths p).dropPortWaits p).dropUnacked p).dropLines fun g => g.port.val = p
    let s := s.releaseWrites (.posted p)
    s.raise { slice := 0, code := EventCode.hostLink, object := p, info := cause * 256, detail := mine.length }

/-- HOST_LINK_END (R405): DL_Down, a hot reset or PERST#. -/
def execHostLinkEnd (port : Fin 2) (cause : Nat) (s : State) : Result := .next (s.endLink port cause).settle

/-- HOST_LINK_RETRAIN: nothing is lost. -/
def execHostLinkRetrain (port : Fin 2) (speed width : Nat) (s : State) : Result :=
  if (s.hostPort port).up then
    .next ((s.modHost port fun h => { h with speed, width, flit := decide (speed = 2) }).bump .gblHostStatusRetrains port)
  else .next s

/-- The link is up, with its event. -/
def State.linkReturns (s : State) (p speed width : Nat) (flit : Bool) : State :=
  let h := s.hostPort p
  let s := s.modHost p fun h =>
    let h := if h.cfgReset then { h with cplValue := 0, maxRead := 512, maxPayload := 128, pfState := {}, vfs := [], vfEnable := false, numVfs := 0 }
      else h
    { h with up := true, speed, width, flit, cfgReset := false }
  s.raise { slice := 0, code := EventCode.hostLink, object := p, info := 1 + h.lastDown * 256 }

/-- HOST_LINK_RETURN (R407): the configuration space stands at reset values after a hot reset or PERST#. A port that the loss
of its IDE stream holds down returns with the stream (R410). -/
def execHostLinkReturn (port : Fin 2) (speed width : Nat) (flit : Bool) (s : State) : Result :=
  let h := s.hostPort port
  if h.up ∨ !s.board.resetN ∨ (h.lastDown = 4 ∧ s.fld .gblHostIdeCtrlRequired port = 1 ∧ !(h.ide.toList.any fun x => x.state = 1 && x.covers 0xFFFF))
    then .next s
  else .next (s.linkReturns port speed width flit)

/-! ## Functions -/

/-- BUS_MASTER_DISABLE (R405): accesses that would have to issue a request as the function end with HOST_LINK_DOWN. -/
def execBusMasterDisable (f : Func) (s : State) : Result :=
  let s := s.modFunc f fun x => { x with bme := false }
  .next (s.failAll (fun w => decide (w.on = .stalled ∨ w.on = .posted f.port) && decide (s.accessFunc w.access = some f)) Status.hostLinkDown).settle

/-- TotalVFs of a port's SR-IOV capability (R394). -/
def totalVfs : Nat := 255

/-- Device ID of a function, and the class code of each (R394). -/
def deviceIdOf (f : Func) : Word16 := if f.fn = 0 then 0x7240 else 0x7241

def classCode : BitVec 24 := 0x028000

/-- VF_ENABLE_CHANGE (R394): VFs that the host disables lose their settings; slices stay bound to them. -/
def execVfEnableChange (port : Fin 2) (enable : Bool) (numVfs : Nat) (s : State) : Result :=
  .next (s.modHost port fun h =>
    { h with vfEnable := enable, numVfs := min totalVfs numVfs, vfs := if enable then h.vfs.filter fun v => v.1 ≤ numVfs else [] })

/-- ATOMICOP_REQUEST (R393): answered with Unsupported Request. -/
def execAtomicopRequest (f : Func) (tlpTag : Nat) (s : State) : Result :=
  .next ((s.aerNote f aerUnsupported).emit (.cplAtomic f tlpTag))

/-! ## IDE (R409, R410) -/

/-- IDE_INTEGRITY_FAIL: the TLP is dropped and its stream is Insecure. Where it covers host memory and IDE is required, the
port is handled as link down; a peer's stream ends the accesses of its paths with P2P_BLOCKED. -/
def execIdeIntegrityFail (port : Fin 2) (stream : Fin 4) (s : State) : Result :=
  let p := port.val
  let x := vget (s.hostPort p).ide stream {}
  if x.state ≠ 1 then .next s
  else
    let s := (s.modHost p fun h => { h with ide := vset h.ide stream { x with state := 2 } }).aerNote ⟨port, 0⟩ aerIdeFail
    if x.covers 0xFFFF then
      if s.fld .gblHostIdeCtrlRequired p = 1 then .next (s.endLink p 4).settle else .next s
    else
      let tagOf (h : HostRead) : Option Nat :=
        match h.use with
        | .access id => (((s.xlate.waiting.find? fun w => w.id = id).bind (·.checked)).bind fun c => s.range c.1 c.2).map (·.pathTag)
        | .flush id => (s.xlate.flushes.find? fun f => f.id = id).map (·.pathTag)
      let hit := s.hostReads.filter fun h => h.port = p && (tagOf h).any x.covers
      .next (hit.foldl (fun s h => s.readFailed h Status.p2pBlocked) s).settle

end Sys2Proof.Machine
end

