-- ==== Sys2Proof/Machine/Identity.lean ====
section
/-! DEFINITION. Owner keys (R452), the LMS identity key (R454 to R457), attestation reports (R458, R461) and the SPDM responder
(R459, R460). -/

namespace Sys2Proof.Machine

/-! ## Owner keys -/

/-- Why a transfer record does not let two new digests in: 0, or a FailReason code. A later enrollment needs a record of 64 B that names
them, with a signature block of the owner pair in force behind it (R446, R452). -/
def State.transferReason (s : State) (ecdsa hss : BitVec 384) (transfer : List Byte) : Nat :=
  match s.boot.ownerDigests.getLast? with
  | none => 0
  | some pair =>
    let x := sigBlock transfer 64
    if !x.whole ∨ x.ecdsaKey ≠ pair.1 ∨ !x.ecdsaOk then failEcdsa
    else if x.hssKey ≠ pair.2 ∨ !x.hssOk then failLms
    else if !Config.transferNames (transfer.take 64) ecdsa hss then failFormat
    else 0

/-- OWNER_ENROLL: the digests of the two public keys fill the next empty bank. `transfer` is the transfer record with its signature
block. It is verified last, where a bank could be blown (log entry 47). -/
def execOwnerEnroll (slice : Fin 512) (tag : Word32) (ecdsa hss transfer : List Byte) (s : State) : Result :=
  .next <| s.command slice tag MbxOp.ownerEnroll fun s =>
    let banks := s.boot.ownerDigests
    let reason := s.transferReason (Sha.sha384 ecdsa) (Sha.sha384 hss) transfer
    if slice ≠ 0 then (s, Status.localAccess, [])
    else if 4 ≤ banks.length then (s, Status.noResources, [])
    else if s.emergency then (s, Status.fwDeferred, [])
    else if reason ≠ 0 then ({ s with boot.failReason := reason, boot.failObject := 4 }, Status.authFail, [])
    else ({ s with boot.ownerDigests := banks ++ [(Sha.sha384 ecdsa, Sha.sha384 hss)] }, Status.success, [banks.length + 1])

/-! ## The LMS key (R455 to R457) -/

/-- Indices of a bottom tree. -/
def bottomIndices : Nat := 1024

/-- LMS_TREE_READY: the tree is certified with the next top index, which is reserved first in the older copy of the LMS state (R456). No
command says whether the flash took that write: it is a free value, and a copy whose write failed is not valid. Then no signature is
released, no further tree is generated until the next boot, and reports are refused (R457; log entry 48). Generation needs random bits and
a running Security Core. -/
def execLmsTreeReady (s : State) : Result :=
  match s.boot.lmsInUse with
  | none => .next s
  | some k =>
    let c := vget s.boot.lms k {}
    if !s.boot.generating ∨ s.fw.resetting ∨ s.keys.drbgHalted ∨ topIndices ≤ c.next then .next s
    else
      let put (x : LmsCopy) : State := { s.advanceFree with boot.lms := vset s.boot.lms (1 - k) x, boot.generating := false }
      if (Config.freeBits s.freeCount).getLsbD 0 then
        let t := put { next := c.next + 1, seq := c.seq + 1 }
        .next { t with boot.bottomUsed := 0, boot.bottomReady := true }
      else
        let t := put { good := false }
        .next { t with boot.lmsStuck := true, boot.refused := true }

/-- The measurements that a mask names (R460): bit n for index n. The versions and the lifecycle are raw values, and the others SHA-384
digests: of the images' bytes, and of forms of the configuration and of the Last with its serial, whose layout is not given (log entry 47). -/
def State.measurements (s : State) (mask : Nat) : List (Nat × List Nat) :=
  let b := s.boot
  let owner := b.ownerDigests.getLast?.map fun d => [d.1.toNat, d.2.toNat]
  let image (i : Option FlashImage) : List Nat := (i.map fun i => (Sha.sha384 i.bytes).toNat).toList
  let code := [Config.codeKeys false, Config.codeKeys true].flatMap fun d => [d.1.toNat, d.2.toNat]
  let last := (s.last.slots.toList[s.last.activeSlot]?.map (·.bytes)).getD []
  let all : List (Nat × List Nat) :=
    [(1, [(Sha.sha384 (Config.configBytes (code ++ b.spareKey.toNat :: b.ownerDigests.length :: owner.getD []))).toNat]), (2, image b.loader),
     (3, image (vget b.fwImages s.fw.runningSlot none)),
     (4, (s.last.inForce.map fun l => [(Sha.sha384 (Config.lastBytes last l.serial.toNat)).toNat]).getD []),
     (5, [b.fuseStage + 2 ^ 8 * b.fuseFw + 2 ^ 16 * b.fuseLast]), (6, [1])]
  all.filter fun x => mask.testBit x.1

/-- An identity signature: an HSS signature with Nspk 1 (R454), of 5,396 B. -/
def hssSignature (secret : BitVec 384) (top used : Nat) (body : List Byte) : List Byte :=
  let key := Config.bottomKey secret top
  [0, 0, 0, 1] ++ (Config.topSign secret top key).toList ++ key.toList ++ (Config.bottomSign secret top used body).toList

/-- ATTESTATION_REPORT: at most 8 a second. A report uses one index of the bottom tree; the last one has the next tree
generated. Its body is signed with both identity keys (R461). -/
def execAttestationReport (port : Fin 2) (nonce : BitVec 256) (mask : Word16) (s : State) : Result :=
  let now := s.time.now
  let err (s : State) (c d : Nat) : Result := .next (s.emit (.spdm port 0 (.error c d)))
  let recent := s.boot.reports.filter fun t => now < t + 1000000000
  if !s.boot.bottomReady then
    if s.boot.generating then err s spdmNotReady 21
    else err { s with boot.refused := true } spdmUnspecified 0
  else if 8 ≤ recent.length then err s spdmBusy 0
  else
    let used := s.boot.bottomUsed
    let top := s.boot.topNext - 1
    let ms := s.measurements mask.toNat
    let body := Config.reportBody s.coord.toNat nonce.toNat ms now top used
    let secret := s.keys.deviceSecret
    let r := SpdmResp.report s.coord Config.moduleSerial nonce ms now top used
      (Config.ecdsaSign secret (Sha.sha384 body).toNat s.freeNow) (hssSignature secret top used body)
    let s := s.advanceFree
    let s : State := { s with boot.reports := recent ++ [now], boot.bottomUsed := used + 1, boot.bottomReady := decide (used + 1 < bottomIndices) }
    let s := if s.boot.bottomReady then s else s.nextTree
    .next (s.emit (.spdm port 0 r))

/-! ## The responder (R459) -/

def State.sessionsOf (s : State) (port : Nat) : List Session := s.boot.sessions.filter fun x => x.port = port

/-- A stream of the port is Secure: where the loss of its stream held the port down, the link is up again (R410). -/
def State.secureStream (s : State) (p stream : Nat) (x : IdeStream) : State :=
  let s := s.modHost p fun h => { h with ide := vset h.ide stream { x with state := 1 } }
  let h := s.hostPort p
  if !h.up ∧ h.lastDown = 4 ∧ x.covers 0xFFFF then s.linkReturns p h.speed h.width h.flit else s

/-- The certificate chain of slot 0 (R453, R459): Tolsyn root, Glaex intermediate, device. -/
def State.certChain (s : State) : List Byte :=
  let c := s.boot.certificate
  Config.rootCert ++ Config.intermediateCert ++ Config.deviceCert c.identity c.topTree c.serial

/-- A response that ends with a signature of the ECDSA identity key over the exchange so far: the signature's random number and the digest
of the exchange, which no command brings, are free values (log entry 47). -/
def State.spdmSigned (s : State) (p session : Nat) (body : List Nat) : State :=
  ({ s with freeCount := s.freeCount + 2 } : State).emit
    (.spdm p session (.signed body (Config.ecdsaSign s.keys.deviceSecret s.freeNow s.advanceFree.freeNow)))

/-- The responder serves a request. GET_VERSION tells 1.3, and GET_CAPABILITIES DataTransferSize and MaxSPDMmsgSize (R459). -/
def State.spdmServe (s : State) (p session : Nat) (req : SpdmReq) : State :=
  let here (x : Session) : Bool := x.port = p && x.session = session
  let known := s.boot.sessions.any fun x => here x && x.established
  let answer (s : State) (b : List Nat) : State := s.emit (.spdm p session (.answer b))
  let err (c : Nat) : State := s.emit (.spdm p session (.error c 0))
  match req with
  | .unsupported _ => err spdmUnsupported
  | .keyExchange =>
    if 4 ≤ (s.sessionsOf p).length ∨ s.boot.sessions.any here then err spdmSessionLimit
    else ({ s with boot.sessions := s.boot.sessions ++ [({ port := p, session } : Session)] } : State).spdmSigned p session []
  | .finish root =>
    if s.boot.sessions.any here then
      answer { s with boot.sessions := updWhere here (fun x => { x with established := true, root }) s.boot.sessions } []
    else err spdmUnspecified
  | .endSession => answer { s with boot.sessions := s.boot.sessions.filter fun x => !here x } []
  | .ideKm stream rids ranges key => if known then answer (s.secureStream p stream { rids, ranges, key }) [] else err spdmUnspecified
  | .getMeasurements mask => answer s ((s.measurements mask.toNat).flatMap fun x => x.1 :: x.2)
  | .getDigests => answer s [(Sha.sha384 s.certChain).toNat]
  | .getCertificate => answer s (s.certChain.map (·.toNat))
  | .getVersion => answer s [1, 3]
  | .getCapabilities => answer s [4096, 65536]
  | .negotiateAlgorithms =>
    s.emit (.spdm p session (.algorithms [.ecdsaP384, .sha384, .dheSecp384r1, .aeadAes256Gcm, .measurementSha384]))
  | .challenge => s.spdmSigned p session [(Sha.sha384 s.certChain).toNat]
  | .heartbeat | .keyUpdate | .chunkSend | .chunkGet | .vendorOther => answer s []

/-- A message of a session, which the session's AEAD protects: the Security Core opens it with the Guard Cipher Engines (R424), and acts on
it then. With none in service it fails at once. -/
def State.openMessage (s : State) (port session : Nat) (w : GuardWork) : State :=
  if s.guardsUp.isEmpty then s.emit (.spdm port session (.error spdmUnspecified 0)) else s.guardBegin 512 0 0 0 0 w

/-- A message belongs to a session of the port. -/
def State.inSession (s : State) (port session : Nat) : Bool := s.boot.sessions.any fun x => x.port = port && x.session = session

/-- SPDM_REQUEST: served at once outside a session, and within one when its message has been opened. -/
def execSpdmRequest (port : Fin 2) (session : Nat) (req : SpdmReq) (s : State) : Result :=
  if s.inSession port session then .next (s.openMessage port session (.message port session req))
  else .next (s.spdmServe port session req)

end Sys2Proof.Machine
end

