-- ==== Sys2Proof/Machine/TimeOps.lean ====
section
/-! DEFINITION. The passing of Device Time (R503 to R509), what happens at a tick, cluster work (R491), and output pins. -/

namespace Sys2Proof.Machine

/-! ## Clusters (R491) -/

/-- A descriptor that needs its cluster: any but a WAIT that stands in the watch table (R117). -/
def State.needsCluster (s : State) (x : Queue) (d : Started) : Bool :=
  !(s.queue.watch.any fun w => w.q = x.number && w.count = d.count && !w.polled)

/-- A cluster has work. A descriptor counts as started until its completion is delivered (DEDUCED; log 71). -/
def State.hasWork (s : State) (c : Nat) : Bool :=
  (s.queue.queues.any fun x => x.number % 8 = c && (x.started.any (s.needsCluster x) || !x.delivering.isEmpty || x.fetches.any fun r => r.entry.isNone && !r.stopped))
    || (s.ingress.any fun h => h.arrival.pkt.destIndex.toNat % 8 = c) || (s.trans.ackRecords.any fun r => r.conn % 8 = c)
    || (s.work.services.any fun v => (v.stage = 3 && v.pieces.isEmpty && v.units.contains c)
          || v.pieces.any fun p => p.cluster = c && !p.done)

/-! ## Pins -/

/-- Pins that the Last in force gives a function (R42, R523). -/
def State.pinsWith (s : State) (function : Nat) : List Nat :=
  ((s.last.inForce.map (·.pins)).getD []).filterMap fun r => if r.function = function then some r.pin else none

/-- Drive an output; one that stands shorted is held at high impedance (R522). -/
def State.drive (s : State) (pin : Nat) (high : Bool) : State :=
  if s.board.shorted.getLsbD pin then s else s.emit (.pinLevel pin high)

def pinPps : Nat := 8
def pinTherm : Nat := 9

/-- The level that an output is driven to: PPS_OUT, THERM_ALERT_N (R501), a FaultOut pin, a TimerOut pin, or a GpioOut pin (R523, R528). -/
def State.pinHigh (s : State) (k : Nat) : Bool :=
  if k = pinPps then s.time.ppsHighUntil.isSome
  else if k = pinTherm then decide (s.power.thermal = .normal) && !s.power.shutdown
  else if (s.pinsWith 6).contains k then !s.board.fatal
  else if (s.pinsWith 3).contains k then s.board.pulseUntil.any fun p => p.1 = k
  else (s.fld .pwrGpioOut 0).testBit k

/-- An open-drain output that is not driven low: THERM_ALERT_N, or a FaultOut pin (R521). -/
def State.pinReleased (s : State) (k : Nat) : Bool := (k = pinTherm || (s.pinsWith 6).contains k) && s.pinHigh k

/-- THERM_ALERT_N goes low or high, unless it stands shorted. -/
def State.alertPin (s : State) (low : Bool) : State := if s.board.shorted.getLsbD pinTherm then s else s.emit (.thermAlert low)

/-! ## The tick -/

/-- Millionths of 2^-16 ns in a tick of 64 ns. -/
def tickParts : Int := 64 * 65536 * 1000000

/-- The rate correction of TIM_FREQ, in units of 2^-16 ppm. -/
def State.freqAdjust (s : State) : Int := max (-65536000) (min 65536000 (BitVec.ofNat 32 (s.fld .timFreqAdjust 0)).toInt)

/-- SlewPpm as the Farig takes it. -/
def State.slewPpm (s : State) : Nat := clamp 1 1000 (s.fld .timCtrlSlewPpm 0)

/-- What a slew adds to a tick: at most SlewPpm of it. -/
def State.slewStep (s : State) : Int :=
  let most : Int := s.slewPpm * (64 * 65536)
  max (-most) (min most s.time.slewLeft)

/-- Device Time moves on by one tick of the 25 MHz time base's 64 ns, as frequency and slew make it (R503, R505). -/
def State.advanceTime (s : State) : State :=
  let slew := s.slewStep
  let total : Int := (s.time.frac * 1000000 + s.time.part : Nat) + tickParts + 64 * s.freqAdjust + slew
  let units := total.toNat / 1000000
  { s with time.now := s.time.now + units / 65536, time.frac := units % 65536, time.part := total.toNat % 1000000,
           time.slewLeft := s.time.slewLeft - slew }

/-- PPS_OUT falls after PpsWidthMs, and a TimerOut pin after 1 µs (R508, R523). -/
def State.lowerPins (s : State) : State :=
  let now := s.time.now
  let s := if s.time.ppsHighUntil.any fun t => decide (t ≤ now) then
      ({ s with time.ppsHighUntil := none } : State).drive pinPps false
    else s
  let done := s.board.pulseUntil.filter fun p => p.2 ≤ now
  let s := { s with board.pulseUntil := s.board.pulseUntil.filter fun p => now < p.2 }
  done.foldl (fun s p => s.drive p.1 false) s

/-- FaultOut pins are low while a fatal error stands (R42). The spec does not say which errors are fatal: whether one stands is a free
value of each tick, which is asked for only where the Last gives a pin the function (DESIGN CHOICE, safe; log entry 56). -/
def State.faultPins (s : State) : State :=
  match s.pinsWith 6 with
  | [] => s
  | ps =>
    let stands := (Config.freeBits s.freeCount).getLsbD 0
    let s := s.advanceFree
    if stands = s.board.fatal then s
    else ps.foldl (fun s p => s.drive p (!stands)) { s with board.fatal := stands }

/-- A Last that comes into force gives its GpioOut pins the levels of PWR_GPIO, and its FaultOut pins that of the errors (R42, R523). -/
def State.drivePins (s : State) : State :=
  let s := (s.pinsWith 2).foldl (fun s p => s.drive p ((s.fld .pwrGpioOut 0).testBit p)) s
  (s.pinsWith 6).foldl (fun s p => s.drive p (!s.board.fatal)) s

/-- Note which clusters have work. -/
def State.noteWork (s : State) : State :=
  let at_ : Vector Nat 8 := Vector.ofFn fun (c : Fin 8) => if s.hasWork c.val then s.time.now else vget s.power.workAt c.val 0
  { s with power.workAt := at_ }

/-- At a slot boundary the overflow entries whose time falls within one period move into the wheel (R207). -/
def State.moveOverflow (s : State) : State :=
  let bound := s.time.now / 64 * 64 + 262144
  { s with trans.wheel := updWhere (fun w => w.overflow && decide (w.nextAt ≤ bound)) (fun w => { w with overflow := false }) s.trans.wheel }

/-- The busy share over the latest 10 ms window of the Security Core (0), the Scheduler Core (1), the Power Core (2) and the busiest
Control Core (3), in %: a free value, and 0 before a window has ended (R6, R475, R527). -/
def State.busyShare (s : State) (i : Nat) : Nat := if s.fw.ranNs < 10000000 then 0 else s.freeNow / 2 ^ (8 * i) % 101

/-- The first 10 ms window of FWM_LOAD runs while firmware does (R475). -/
def State.runFirmware (s : State) : State :=
  if s.boot.stage = 2 ∧ s.fw.ranNs < 10000000 then { s with fw.ranNs := s.fw.ranNs + 64 } else s

/-- A tick of the block's clock (log entry 5). Without input power no clock runs. -/
def State.tickTime (s : State) : State :=
  if s.board.inputPower then (s.advanceTime.moveOverflow.lowerPins.faultPins.runFirmware.mailMessages).noteWork else s

end Sys2Proof.Machine
end

