-- ==== Sys2Proof/Machine/PortCtl.lean ====
section
/-! DEFINITION. Links going up and down (R319), arriving frames and their filters (R320, R321), forwarding on the chain
ring (R362, R363), HELLO (R329, R332, R341), TIME (R507), and the bypass switch (R338, R339). -/

namespace Sys2Proof.Machine

/-! ## Links (R319) -/

/-- Discard every frame queued for a port, the port's own among them, and the raw frames that wait to be paced onto it; a discarded raw
frame's descriptor ends with PEER_UNREACHABLE, and a discarded forwarded frame frees the buffer it came in (R336). A chain link that goes
down with the switch on its way counts too: its frames were queued while the port was enabled. -/
def State.dropQueued (s : State) (p : Nat) : State :=
  let x := s.port p
  let paced := s.trans.raw.filter fun f => f.port = p
  let s : State := { s with trans.raw := s.trans.raw.filter fun f => f.port ≠ p }
  let s := paced.foldl (fun s f => s.endWith f.q f.count Status.peerUnreachable) s
  let all := x.egress ++ x.waitRoom
  let s := if (s.portRec p).mode = 0 then s else s.bumpBy .prtCounterCount (p * 36 + 14) all.length
  let s := s.modPort p fun x => { x with egress := [], waitRoom := [], dwrr := [], replay := [] }
  all.foldl (fun s t => match t.body, t.rawq with
    | .forward f, _ => s.freeForwarded p f
    | _, some (q, count) => s.endWith q count Status.peerUnreachable
    | _, none => s) s

/-- A link that is up goes down with a cause: its frames are discarded, PORT_LINK is written, and Device Time may lose
its Source (R509). -/
def State.goDown (s : State) (p cause : Nat) : State :=
  if !s.linkUp p then s
  else
    let s := s.dropQueued p
    let s := s.modPort p fun x => { x with link := .down, welt := false, weltOff := false, peer := none, peerWelt := false,
                                           lastHelloRx := none, time1 := none }
    let s := (s.portLink p cause).startTraining p
    if s.sourcePort = some p then s.sourceState true else s

/-- The lock group that a port belongs to, as its members. -/
def lockOf (l : LastImage) (p : Nat) : List Nat :=
  let g := (l.ports.getD p {}).lock
  if g = 0xFF then [] else (List.range 8).filter fun k => (l.ports.getD k {}).lock = g

/-- A port's mode, lock group, PFC or Welt setting changes. R49 does not say when a lock group changes: here when its members do, so that
a port changes where another joins or leaves its group, and does not by a new number of the same group (DESIGN CHOICE, log entry 78). -/
def portChanges (o n : LastImage) (p : Nat) : Bool :=
  let a := o.ports.getD p {}
  let b := n.ports.getD p {}
  decide (a.mode ≠ b.mode ∨ a.pfcMask ≠ b.pfcMask ∨ lockOf o p ≠ lockOf n p) || (decide (p < 8) && a.welt != b.welt)

/-- Ports that go down at the start of the pause, and train after it. Without a Last in force, every port trains. -/
def State.changedPorts (s : State) (l : LastImage) : List Nat :=
  (List.range 10).filter fun p => match s.last.inForce with
    | some o => portChanges o l p
    | none => true

/-- A port that a Last activation changes stays down until the resume notice (R49). -/
def State.pauseHolds (s : State) (p : Nat) : Bool :=
  match s.last.phase with
  | .paused _ _ _ l => (s.changedPorts l).contains p
  | _ => false

/-- The interface that a port trains to (R315): chain optics, the one selected, or in Auto what negotiation found. -/
def State.trainsAs (s : State) (p found : Nat) : Nat :=
  if 8 ≤ p then 3
  else match s.fld .prtLinkCtrlInterface p with
    | 1 => 1
    | 2 => 2
    | _ => if (s.port p).interface = 2 then 2 else clamp 1 2 found

/-- CHAIN_SPAN (R337), where Welt runs on a span longer than declared. -/
def State.spanEvent (s : State) (p : Nat) : State :=
  let x := s.port p
  if x.welt ∧ (s.portRec p).cableM < x.spanM then
    s.raise { slice := 0, code := EventCode.chainSpan, object := p, info := x.spanM, detail := (s.portRec p).cableM }
  else s

/-- Welt starts on a link (R329). -/
def State.startWelt (s : State) (p : Nat) : State :=
  s.modPort p fun x => { x with welt := true, lastStatusRx := s.time.now, nextStatus := s.time.now }

/-- The link comes up (R319, R329). -/
def State.comeUp (s : State) (p interface laneMap polarity : Nat) : State :=
  let x := s.port p
  let now := s.time.now
  let s := s.modPort p fun x =>
    { x with link := .up, upSince := now, interface, laneMap, polarity, lossSince := none, dark := false, weltOff := false,
             nextHello := now + 1000000000, nextTime := now }
  let recent := x.helloSeen && x.peerWelt && x.lastHelloRx.any fun h => decide (now ≤ h.2 + 1000000)
  let s := if 8 ≤ p ∨ (recent ∧ s.offersWelt p) then s.startWelt p else s
  let s := (s.portLink p 0).spanEvent p
  if s.sourcePort = some p then s.sourceState false else s

/-- A write of PRT_LINK_CTRL: ForceDown holds the link down, and a new Interface or Retrain trains it again. -/
def State.retrain (s : State) (p : Nat) : State :=
  if (s.port p).forceDown then s else if s.linkUp p then s.goDown p 4 else s.startTraining p

def State.setForceDown (s : State) (p : Nat) (on : Bool) : State :=
  let was := (s.port p).forceDown
  let s := s.modPort p fun x => { x with forceDown := on }
  if on then (if s.linkUp p then s.goDown p 2 else s.modPort p fun x => { x with link := .down })
  else if was then s.startTraining p else s

/-- A write of PRT_LINK_CTRL writes Interface, which retrains a fabric port (R315); Retrain retrains any. -/
def State.writeLinkCtrl (s : State) (p : Nat) (v : Word64) : State :=
  let s := (s.storeReg .prtLinkCtrl p v).setForceDown p (v.getLsbD 0)
  if v.getLsbD 1 ∨ p < 8 then s.retrain p else s

/-! ## Forwarding on the chain ring (R359 to R363) -/

def addrGroup (a : BitVec 128) : Nat := a.toNat / 2 ^ 14 % 64
def addrNode (a : BitVec 128) : Nat := a.toNat / 2 ^ 8 % 64

/-- A frame that arrived on a chain port came over the dateline: the link whose west end has the higher position. -/
def State.overDateline (s : State) (b : RouteBank) (p : Nat) : Bool :=
  match (s.port p).peer with
  | none => false
  | some (c, _) =>
    let me := (b.chainOf (coordNode s.coord)).pos
    let him := (b.chainOf (coordNode c)).pos
    if p = 9 then decide (me < him) else decide (him < me)

/-- Under a bank, a frame that arrived on a chain port is for a node of the own group, whose record is Valid, and travels the way that R361
or the record gives: east where it arrived on port 9, west where on port 8 (R363). -/
def State.waysOn (s : State) (p lane : Nat) (a : Arrival) (b : RouteBank) : Bool :=
  let r := b.chainOf (addrNode a.dst)
  let mine := decide (a.dst.toNat / 2 ^ 64 = (b.entry (routeIndex s.coord)).pfx.toNat) && addrGroup a.dst = coordGroup s.coord
  let way := if lane = 0 then decide ((b.chainOf (addrNode a.src)).pos < r.pos) == decide (p = 9)
    else decide (r.dir = if p = 9 then 1 else 2)
  mine && r.valid && way

/-- The banks by which a forwarder judges a frame (R353): the one its flag names where its source is in the own group, of the same site, hall
and group, and otherwise the Active one, or the Draining one where the frame fails under that. -/
def State.forwardBanks (s : State) (a : Arrival) : List RouteBank :=
  let named := s.judges a.pkt.epoch true
  if named.any fun b => (s.srcCoord [b] a.src).any fun c => sameGroup c s.coord then named else s.judges a.pkt.epoch false

/-- Forward a frame that is addressed to another node of the ring, or drop it (R362, R363). -/
def State.forwardFrame (s : State) (p : Nat) (fr : RxFrame) (a : Arrival) (lane : Nat) : State :=
  let drop (f : Fld) : State := (s.bump f 0).freeVl p lane fr.length
  match (s.forwardBanks a).find? (s.waysOn p lane a) with
  | none => drop .rteFwdStatDirDrop
  | some b =>
    let crossed := s.overDateline b p
    if crossed ∧ (lane = 0 ∨ lane = 3) then drop .rteFwdStatDatelineDrop
    else
      let out := if p = 9 then 8 else 9
      if !s.linkUp out then (s.portCount out 14 1).freeVl p lane fr.length
      else
        (s.bump .rteFwdStatForwarded 0).queueFrame out
          { body := .forward fr, cls := if lane = 0 then 7 else 0, bytes := fr.length - 8,
            dst := BitVec.ofNat 20 (s.coord.toNat / 64 * 64 + addrNode a.dst),
            vl := if lane = 0 then 0 else if lane = 3 ∨ crossed then 3 else 2 }

/-! ## Arriving frames (R320) -/

/-- The VLAN tag that R318 accepts on a Cyquin frame of a fabric port. -/
def State.tagAccepted (s : State) (p : Nat) (tags : List VlanTag) : Bool :=
  match tags.head? with
  | none => s.fld .prtVlanTagEnable p = 0
  | some t => t.vid = 0 || (s.fld .prtVlanTagEnable p = 1 && t.vid = s.fld .prtVlanVlanId p)

/-- A chain port's buffer is free of a frame that goes no further. -/
def State.done (s : State) (p lane : Nat) (fr : RxFrame) : State := s.freeVl p lane fr.length

/-- Class of an arriving frame: its priority's, or on a chain port its lane's. -/
def State.classIn (s : State) (p lane : Nat) (fr : RxFrame) : Nat :=
  if p < 8 then s.classOf ((fr.tags.head?.map (·.pcp)).getD 0) else if lane = 0 then 7 else 0

/-- The answer to a solicitation for a port's own address: a Neighbor Advertisement with the port's MAC address, to the node that asked
(R61). -/
def State.advertise (s : State) (p : Nat) (fr : RxFrame) (target : BitVec 128) : State :=
  let h : PathHdr := { dmac := BitVec.ofNat 48 (beField fr.bytes 6 6), srcIp := target, hop := 255,
                       dstIp := BitVec.ofNat 128 (beField fr.bytes (etherAt fr.bytes + 10) 16) }
  s.queueFrame p { body := .neighborAdvert target (portMac p), cls := 7, bytes := 90, hdr := some h }

/-- Steps 4 to 7, for a frame of a lane. In the pause of a Last activation, frames of classes 0 to 6 are discarded (R49). -/
def State.classify (s : State) (p lane : Nat) (fr : RxFrame) : State :=
  if (s.port p).wireFault ≠ 0 ∨ (s.inPause ∧ s.classIn p lane fr ≠ 7) then s.done p lane fr
  else if p < 8 ∧ 1 < fr.tags.length then s.portCount p 6 1
  else match fr.kind with
    | .neighborSolicit target =>
      if s.activeBank.isSome ∧ target = ipOf s.ownPrefix s.coord p then (s.advertise p fr target).done p lane fr
      else (s.toFilters p fr).done p lane fr
    | .udp =>
      let a := readFrame p fr.bytes
      if s.addressOk a then
        if p < 8 ∧ !s.tagAccepted p fr.tags then s.portCount p 6 1
        else if p < 8 then s.holdFrame p ((fr.tags.head?.map (·.pcp)).getD 0) fr.length a
        else { s with ingress := s.ingress ++ [({ arrival := a, bytes := fr.length, vl := lane } : Held)] }
      else if 8 ≤ p ∧ !s.ownPortOf a.dst 8 ∧ !s.ownPortOf a.dst 9 then s.forwardFrame p fr a lane
      else (s.toFilters p fr).done p lane fr
    | _ => (s.toFilters p fr).done p lane fr

/-- Steps 1 to 3. -/
def State.receiveFrame (s : State) (p : Nat) (fr : RxFrame) : State :=
  let x := s.port p
  if !s.portEnabled p ∨ !s.linkUp p then s
  else if !fr.fcsOk then s.portCount p 4 1
  else
    let s := (s.portCount p 0 1).portCount p 1 fr.length
    if (if x.welt then 9224 else 9216) < fr.length ∨ fr.length < 64 then s.portCount p 5 1
    else match fr.kind with
      | .pfc mask quanta => s.obeyPfc p mask quanta
      | .weltControl => s
      | .pause8023x => s.portCount p 15 1
      | _ =>
        if !x.welt then s.classify p 0 fr
        else match fr.weltTag with
          | none => s
          | some (lane, seq) =>
            match s.acceptWelt p lane seq with
            | (s, true) => (s.countWelt p).classify p lane fr
            | (s, false) => s.countWelt p

/-- A control frame of the MAC is a frame of the least length. -/
def State.countControl (s : State) (p : Nat) : State := (s.portCount p 0 1).portCount p 1 64

/-! ## HELLO (R329, R332, R337, R341) -/

/-- The wiring fault that a HELLO shows. -/
def State.helloFault (s : State) (p : Nat) (c : Coord) (pp : Nat) : Nat :=
  if c = s.coord ∧ pp = p then 2
  else if 8 ≤ p ∧ c = s.coord ∧ (pp = 8 ∨ pp = 9) then 3
  else if 8 ≤ p ∧ pp = p then 4
  else 0

/-- A HELLO arrives. It resets sequences and credits while the link is not up (R332, R340). -/
def State.takeHello (s : State) (p : Nat) (c : Coord) (pp : Nat) (weltEnable : Bool) (send echo : Word64) : State :=
  let now := s.time.now
  let fault := s.helloFault p c pp
  let s := (s.countControl p).wiring p fault (c.toNat + pp * 2 ^ 20)
  if fault ≠ 0 then s
  else
    let x := s.port p
    let rtt := if echo = 0 then x.rttNs else (BitVec.ofNat 64 now - echo).toNat
    let told := decide (x.spanM ≤ (s.portRec p).cableM)
    let s := s.modPort p fun x =>
      { (if x.link = .up then x else x.resetWelt) with
        helloSeen := true, dark := false, peer := some (c, pp), peerWelt := weltEnable, lastHelloRx := some (send, now),
        rttNs := rtt, spanM := (rtt - 1380) / 10 }
    if x.link ≠ .up then s
    else if p < 8 ∧ !x.welt ∧ !x.weltOff ∧ weltEnable ∧ s.offersWelt p ∧ now ≤ x.upSince + 1000000 then
      let s := (s.modPort p Port.resetWelt).startWelt p
      (s.portLink p 0).spanEvent p
    else if told then s.spanEvent p else s

/-! ## TIME (R507) -/

/-- A TIME frame arrives at a chain port, its stamps in 2^-16 ns: t1 is the peer's send stamp, t1p the stamp of the
node's own last frame, t2p when the peer received that. -/
def State.takeTime (s : State) (p t1 t1p t2p : Nat) : State :=
  let here := s.time.now * 65536 + s.time.frac
  let s := (s.countControl p).modPort p fun x => { x with time1 := some (t1, here) }
  if t1p = 0 ∨ s.sourcePort ≠ some p then s
  else
    let theta : Int := (((t2p : Int) - t1p) - ((here : Int) - t1)) / 2
    { s with time.slewLeft := theta * 1000000, time.offsetNs := theta / 65536 }

/-! ## The bypass switch (R338, R339) -/

def pinBypassReq : Nat := 5

/-- Some source asks for bypass. -/
def State.bypassWanted (s : State) : Bool := s.bypass.noLast || s.bypass.record || s.bypass.pin || s.bypass.mailbox

/-- Both chain ports' buffers are empty. -/
def State.chainEmpty (s : State) : Bool :=
  [8, 9].all fun p => (s.heldAt p).isEmpty && (s.port p).egress.isEmpty && (s.port p).waitRoom.isEmpty

/-- The switch starts to move: the chain ports lose their light, or have it again once it has settled. -/
def State.moveSwitch (s : State) (away : Bool) : State :=
  let s := { s with bypass.phase := .moving away (s.time.now + 8000000) }
  if away then [8, 9].foldl (fun s p => s.modPort p fun x =>
    if x.link = .up ∧ x.lossSince.isNone then { x with lossSince := some s.time.now, dark := true } else x) s
  else s

/-- Answer the CHAIN_BYPASS commands that waited for the switch to stand so. -/
def State.answerBypass (s : State) (good : Bool → Bool) : State :=
  let (go, stay) := s.bypass.waiter.partition fun w => good w.2.2
  go.foldl (fun s w => s.respond (w.1, w.2.1) Status.success []) { s with bypass.waiter := stay }

/-- The sources have changed: a commanded entry drains first, and the switch leaves bypass once every source has
cleared. -/
def State.bypassSources (s : State) : State :=
  let s := { s with
    bypass.noLast := s.last.inForce.isNone,
    bypass.record := s.last.inForce.isSome && [8, 9].any fun p => (s.portRec p).mode = 0,
    bypass.pin := (s.pinsWith pinBypassReq).any fun k => !s.board.gpioIn.getLsbD k }
  match s.bypass.phase, s.bypassWanted with
  | .lit, true => { s with bypass.phase := .draining (s.time.now + 1000000) }
  | .draining _, false =>
    let s : State := { s with bypass.phase := .lit }
    ((s.modPort 8 Port.giveBack).modPort 9 Port.giveBack).answerBypass fun _ => true
  | .bypassed, false => s.moveSwitch false
  | .lit, false => s.answerBypass fun _ => true
  | .bypassed, true => s.answerBypass fun _ => true
  | _, _ => s

/-- The switch has settled. -/
def State.switchSettled (s : State) (away : Bool) : State :=
  let s := { s with bypass.phase := if away then .bypassed else .lit }
  let s := if away then [8, 9].foldl (fun s p => (s.goDown p 1).startTraining p) s
    else [8, 9].foldl (fun s p => s.startTraining p) s
  (s.answerBypass fun on => on = away).bypassSources

end Sys2Proof.Machine
end

