-- ==== Sys2Proof/Machine/Receive.lean ====
section
/-! DEFINITION. Arriving packets (R170), the records of cluster 0 (R20), the transport's timers (R173, R177, R179) and the
Connection Cache (R184 to R188). -/

namespace Sys2Proof.Machine

/-- A packet that its end's home cluster takes, while that cluster sleeps, waits where it is (R328, R492). Acknowledgements and
probes are cluster 0's, whose class 7 path is always there (R19, R21). -/
def State.sleepsFor (s : State) (p : Packet) : Bool :=
  match p.ptype with
  | .data | .readReq | .readResp | .atomicReq | .atomicResp => !s.awake (p.destIndex.toNat % 8)
  | _ => false

/-- An arrival of the command's own packet type, or of a reserved one, which the checks drop (R159). -/
def State.arriveAs (s : State) (t : PType) (a : Arrival) : State :=
  if (a.pkt.ptype = t ∨ a.pkt.ptype = .rsvd) ∧ !s.sleepsFor a.pkt then (s.arrive a).settle else s

/-- DATA (R133 to R136). -/
def execData (a : Arrival) (s : State) : Result := .next (s.arriveAs .data a)

/-- READ_REQ (R130, R181). -/
def execReadReq (a : Arrival) (s : State) : Result := .next (s.arriveAs .readReq a)

/-- READ_RESP (R181). -/
def execReadResp (a : Arrival) (s : State) : Result := .next (s.arriveAs .readResp a)

/-- ATOMIC_REQ (R131, R182). -/
def execAtomicReq (a : Arrival) (s : State) : Result := .next (s.arriveAs .atomicReq a)

/-- ATOMIC_RESP (R182). -/
def execAtomicResp (a : Arrival) (s : State) : Result := .next (s.arriveAs .atomicResp a)

/-- ACK (R175, R176). -/
def execAck (a : Arrival) (s : State) : Result := .next (s.arriveAs .ack a)

/-- NAK (R183). -/
def execNak (a : Arrival) (s : State) : Result := .next (s.arriveAs .nak a)

/-- PROBE (R157). -/
def execProbe (a : Arrival) (s : State) : Result := .next (s.arriveAs .probe a)

/-- A record reaches its end's home cluster: an ACK or NAK with the time at which cluster 0 received it, or a control message. -/
def State.takeRecord (s : State) (r : AckRec) : State :=
  match r.msg with
  | none => s.takeReport r.conn r.rxTime r.arrival
  | some m =>
    match s.findConn r.conn with
    | some c => s.endCtrlAt c r.arrival m
    | none => s

/-- ACK_RECORD (R20): the oldest record for a cluster reaches it. -/
def execAckRecord (cluster : Fin 8) (s : State) : Result :=
  match s.trans.ackRecords.find? fun r => r.conn % 8 = cluster.val with
  | none => .next s
  | some r =>
    if !s.awake cluster then .next s
    else .next (({ s with trans.ackRecords := s.trans.ackRecords.erase r } : State).takeRecord r).settle

/-- ACK coalescing delay of a cluster, in ns (R173). -/
def State.ackDelay (s : State) (home : Nat) : Nat := max 1 (s.fld .cluCyqCtrlAckDelayUs home) * 1000

/-- ACK_DELAY_TIMER (R173). -/
def execAckDelayTimer (conn : BitVec 24) (s : State) : Result :=
  match s.findConn conn.toNat with
  | none => .next s
  | some c =>
    match c.unreportedAt with
    | some t => if s.due (t + s.ackDelay c.home) then .next (s.sendAck c.index none) else .next s
    | none => .next s

/-- Records whose retransmit timer runs (R177, R179). -/
def Conn.timed (c : Conn) : List InFlight := c.inflight.filter fun r => !r.unsent && r.holdUntil.isNone

/-- Deadline of the retransmit timer. -/
def Conn.deadline (c : Conn) : Option Nat := c.timed.head?.map fun r => max r.sentAt c.timerFrom + c.rto

/-- The retransmit timer of an end passes (R177, R178, R193). -/
def State.timerPassed (s : State) (c : Conn) : State :=
  let now := s.time.now
  let over_ := c.timed.filter fun r => max r.sentAt c.timerFrom + c.rto ≤ now
  let s := s.bump .cluCyqStat0RtoExpiries c.home
  match over_.find? fun r => 7 ≤ r.retries with
  | some r => s.failEnd c Status.peerUnreachable r.psn.toNat
  | none =>
    let cut := c.tc ≠ 7 && decide (c.srtt ≤ now - c.lastCut)
    let s := if cut then s.bump .cluCcStatTimerCuts c.home else s
    let s := (s.againAll c.index over_).modConn c.index fun c =>
      { c with rto := min 100000000 (2 * c.rto), window := if cut then c.clampWindow (c.window / 2) else c.window,
               lastCut := if cut then now else c.lastCut }
    s.kick c.index

/-- RETRANSMIT_TIMER (R177). A Paused end's timer stands still (R180). -/
def execRetransmitTimer (conn : BitVec 24) (s : State) : Result :=
  match s.findConn conn.toNat with
  | none => .next s
  | some c =>
    if c.state = .opened ∧ c.pausedUntil.isNone ∧ c.deadline.any s.passed then .next (s.timerPassed c).settle
    else .next s

/-- NAK_RETRY_TIMER (R179): the interval of a FAULT, READ_BUSY or CTX_MISS NAK has passed. An operation that has met
faults for its slice's limit is reported, and its packets are still resent (R89). -/
def execNakRetryTimer (conn : BitVec 24) (psn : Word32) (s : State) : Result :=
  match s.findConn conn.toNat with
  | none => .next s
  | some c =>
    let run := (s.nakRun c psn).filter fun r => r.holdUntil.any s.due
    if c.pausedUntil.isSome ∨ run.isEmpty then .next s
    else
      let late := ((run.map (·.op)).dedup.filterMap s.findOp).filter (s.faultExpired c.slice)
      let s := late.foldl (fun s o => s.reportOp o.id Status.xlateFaultTimeout) s
      .next ((run.foldl (fun s r => s.again c.index r.psn false) s).kick c.index).settle

/-- Why a context could not be fetched from its ContextRegion (R188). -/
def State.contextFail (s : State) (c : Conn) (res : ReadResult) : Option Status :=
  if c.nearContext then none
  else match s.range c.slice c.contextRegion with
    | none => some Status.localAccess
    | some e =>
      if e.state = .revoking then some Status.regionRevoked
      else if e.state = .free then some Status.localAccess
      else match res with
        | .ok _ => none
        | .unsupported => some (pathCode e.pathTag false)
        | .timeout => some (pathCode e.pathTag true)

/-- CONTEXT_FETCH_DONE (R186, R188): the line is filled and the parked packets are processed, or the end fails. A fetch
whose line is still being written back waits (R185). -/
def execContextFetchDone (conn : BitVec 24) (res : ReadResult) (s : State) : Result :=
  match s.findConn conn.toNat with
  | none => .next s
  | some c =>
    let lines := (s.trans.conns.filter fun d => d.home = c.home && d.cached).length
    if !c.fetching then .next s
    else if s.connLines ≤ lines then .next (s.makeRoom c.home c.index)
    else match s.contextFail c res with
      | some code =>
        let s := if !c.nearContext && res = .timeout then s.bump .slcHostStatCplTimeouts c.slice else s
        let s := (s.modConn c.index fun c => { c with fetching := false, ctxLost := true }).failEnd c code 0
        .next (s.unpark c.index).settle
      | none =>
        let s := s.modConn c.index fun c => { c with fetching := false, cached := true, lastUse := s.time.now }
        .next ((s.unpark c.index).kickSet c).settle

/-- An end whose context lies in a ContextRegion is written there by firmware for its slice, as (slice, 127): a request like any other, with
its lookup, its translation and its check (R63, R78). Which 1 KiB of the region holds it, and its bytes, the spec leaves open (R188,
R382; log entry 43). One that the check refuses, as in a Revoking region, writes nothing. -/
def State.writeContext (s : State) (c : Conn) : State :=
  if c.nearContext then s
  else match s.range c.slice c.contextRegion with
    | none => s
    | some e =>
      let n := min 1024 e.length
      let at_ := s.freeNow % max 1 (e.length / n) * n
      let data := (List.range n).map fun k => (Config.freeBits (s.freeCount + 1 + k)).setWidth 8
      let s := { s with freeCount := s.freeCount + 1 + n }
      (s.access { cluster := c.home, slice := c.slice, gen := c.gen, as := 127, offset := e.start + at_, length := n, write := true, data,
                  use := .context c.index }).1

/-- EVICTION_COMMIT (R185): the write-back of an evicted line commits. -/
def execEvictionCommit (conn : BitVec 24) (s : State) : Result :=
  match s.findConn conn.toNat with
  | none => .next s
  | some c =>
    if c.evicting ∧ !s.pinned c then .next ((s.modConn c.index fun c => { c with evicting := false, cached := false }).writeContext c)
    else if c.evicting then .next ((s.modConn c.index fun c => { c with evicting := false }).makeRoom c.home c.index)
    else .next s

/-- GONE_EXPIRY (R167): a Gone end becomes Free after 1 s. -/
def execGoneExpiry (conn : BitVec 24) (s : State) : Result :=
  match s.findConn conn.toNat with
  | none => .next s
  | some c => if c.state = .gone ∧ s.due c.goneUntil then .next (s.freeEnd c.index) else .next s

end Sys2Proof.Machine
end

