-- ==== Sys2Proof/Machine/LastOps.lean ====
section
/-! DEFINITION. A Last: reading its image, the checks of R44, its use (R39, R47), and what its coming into force changes. -/

namespace Sys2Proof.Machine

/-! ## The image (R31, R32) -/

/-- A directory entry. -/
structure LastSection where
  type : Nat
  critical : Bool
  count : Nat
  offset : Nat
  length : Nat
  crc : Word32
deriving DecidableEq, Repr

def lastSections (b : List Byte) : List LastSection :=
  (List.range (leField b 6 7)).map fun k =>
    let at_ := 128 + 16 * k
    { type := leField b at_ at_, critical := (leField b (at_ + 1) (at_ + 1)).testBit 0, count := leField b (at_ + 2) (at_ + 3),
      offset := leField b (at_ + 4) (at_ + 7), length := leField b (at_ + 8) (at_ + 11), crc := BitVec.ofNat 32 (leField b (at_ + 12) (at_ + 15)) }

def LastSection.bytes (x : LastSection) (b : List Byte) : List Byte := (b.drop x.offset).take x.length

/-! Section types (R32) -/

namespace Sec
def pool : Nat := 1
def port : Nat := 2
def lock : Nat := 3
def role : Nat := 4
def slice : Nat := 5
def tcmap : Nat := 6
def timer : Nat := 7
def pin : Nat := 8
def sleep : Nat := 9
def check : Nat := 10
end Sec

/-! LST_REJECT.Reason codes (R44) -/

namespace Reject
def signature : Nat := 0x01
def format : Nat := 0x02
def rollback : Nat := 0x03
def target : Nat := 0x04
def sections : Nat := 0x05
def poolSize : Nat := 0x06
def portRecord : Nat := 0x07
def bufferConflict : Nat := 0x08
def quotaSum : Nat := 0x09
def timerCount : Nat := 0x0A
def pinConflict : Nat := 0x0B
def checkMode : Nat := 0x0C
def inUse : Nat := 0x0D
def fieldRange : Nat := 0x0E
end Reject

/-- A failure: reason, section type, record index, and the reason that SEC_BOOT_STATUS keeps, 0 for none. -/
structure LastFail where
  reason : Nat
  sec : Nat := 0
  record : Nat := 0
  boot : Nat := 0
deriving DecidableEq, Repr

/-! ## Sections as records: PORT and PIN from their bytes, the others by `Config.lastField` -/

/-- The first section of a type. -/
def secOf (b : List Byte) (type : Nat) : List Byte :=
  (((lastSections b).find? fun x => x.type = type).map fun x => x.bytes b).getD []

def secCount (b : List Byte) (type : Nat) : Nat := (((lastSections b).find? fun x => x.type = type).map (·.count)).getD 0

def portRecords (b : List Byte) : List (Nat × PortRec) :=
  let x := secOf b Sec.port
  (List.range (secCount b Sec.port)).map fun k =>
    let f (lo hi : Nat) : Nat := leField x (16 * k + lo) (16 * k + hi)
    (f 0 0, { mode := f 1 1, bufMiB := f 2 2, pfcMask := f 3 3, welt := decide (f 4 4 = 1), lock := f 5 5, cableM := f 6 7 })

def pinRecords (b : List Byte) : List PinRec :=
  let x := secOf b Sec.pin
  (List.range (secCount b Sec.pin)).map fun k =>
    { pin := leField x (4 * k) (4 * k), function := leField x (4 * k + 1) (4 * k + 1), param := leField x (4 * k + 2) (4 * k + 3) }

def lastCoord (f : Nat → Nat) : Coord := BitVec.ofNat 20 (f 0 % 16 * 65536 + f 1 % 16 * 4096 + f 2 % 64 * 64 + f 3 % 64)

/-- The image as its sections read. The spec gives the LOCK section (0x03) no record layout: it is not read, and the lock groups are those
that PORT.LockGroup names (DESIGN CHOICE, log entry 78). -/
def parseLast (b : List Byte) : LastImage :=
  let get (type record field : Nat) : Nat := Config.lastField type (secOf b type) record field
  let ports := portRecords b
  { serial := BitVec.ofNat 64 (leField b 20 27), secVersion := leField b 16 19,
    pools := (List.range 7).map fun k => get Sec.pool k 0,
    ports := (List.range 10).map fun p => (assoc ports p).getD {},
    coord := lastCoord (get Sec.role 0), role := get Sec.role 0 4, roleEpoch := BitVec.ofNat 32 (get Sec.role 0 5),
    quotas := (List.range 512).map fun k =>
      let q := get Sec.slice k
      { queues := q 0, conns := q 1, ranges := q 2, lace := q 3, slots := q 4, pft := q 5, stream := q 6, guardKeys := q 7,
        timers := q 8, waitMs := q 9 },
    prioClass := (List.range 8).map fun p => get Sec.tcmap 0 p, c7Cap := get Sec.tcmap 0 8, timerReserve := get Sec.timer 0 0,
    pins := pinRecords b, floors := (List.range 8).map fun c => get Sec.sleep c 0, multi := decide (get Sec.check 0 0 = 1) }

/-! ## The rules of the sections (R33 to R43, R535) -/

/-- A section that R33, R35, R40 or R43 gives a number of records holds another number: a failure of the whole section (DESIGN CHOICE,
log entry 78). -/
def countFail (b : List Byte) (sec count reason : Nat) : Option LastFail :=
  if secCount b sec ≠ count then some { reason, sec } else none

/-- R33, over the ten PORT records as they stand. The whole sum, like record 0, comes first. -/
def poolFail (b : List Byte) (l : LastImage) : Option LastFail :=
  let z (k : Nat) : Nat := l.pools.getD k 0
  let least : List Nat := [8, 0, 8, 0, 0, 0, 8]
  let unit : List Nat := [8, 1, 8, 1, 1, 1, 1]
  let bad (k : Nat) : Bool := z k < least.getD k 0 || z k % unit.getD k 1 ≠ 0
    || (k = 0 && l.pools.sum ≠ 256) || (k = 3 && z 3 ≠ (((portRecords b).take 10).map (·.2.bufMiB)).sum)
  (countFail b Sec.pool 7 Reject.poolSize).orElse fun _ =>
    ((List.range 7).find? bad).map fun k => { reason := Reject.poolSize, sec := Sec.pool, record := k }

/-- R36: the fabric ports of a lock group. -/
def lockMembers (rs : List (Nat × PortRec)) (g : Nat) : List Nat := (List.range 8).filter fun p => rs.any fun r => r.1 = p && r.2.lock = g

def lockOk (rs : List (Nat × PortRec)) (g : Nat) : Bool :=
  let ms := lockMembers rs g
  let n := ms.length
  let first := ms.headD 0
  (n = 2 || n = 4 || n = 8) && first % n = 0 && ms = (List.range n).map (· + first)

/-- R35 and R36 for one record. -/
def portRecOk (rs : List (Nat × PortRec)) (p : Nat) (r : PortRec) : Bool :=
  if p < 8 then
    (r.mode = 0 || r.mode = 1) && (if r.mode = 1 then decide (2 ≤ r.bufMiB) else decide (r.bufMiB = 0))
      && decide (1 ≤ r.cableM ∧ r.cableM ≤ 10000) && (r.lock = 0xFF || (r.mode = 1 && lockOk rs r.lock))
  else
    decide (p < 10) && (r.mode = 0 || r.mode = 2) && (if r.mode = 2 then decide (4 ≤ r.bufMiB) else decide (r.bufMiB = 0))
      && decide (1 ≤ r.cableM ∧ r.cableM ≤ 100) && r.pfcMask = 0 && r.lock = 0xFF

def portFail (b : List Byte) : Option LastFail :=
  let rs := portRecords b
  let bad (k : Nat) : Bool :=
    match rs[k]? with
    | none => true
    | some (p, r) => !portRecOk rs p r || ((rs.take k).any fun x => x.1 = p)
  ((List.range (max 10 rs.length)).find? fun k => bad k || 10 ≤ k).map fun k =>
    { reason := Reject.portRecord, sec := Sec.port, record := k }

/-- R37: the chain share, then each fabric port in Fabric mode. A disabled fabric port whose record sets WeltEnable is not one of the
Welt-enabled ports that share the partition (DESIGN CHOICE, log entry 78). -/
def bufferFail (b : List Byte) (l : LastImage) : Option LastFail :=
  let rs := portRecords b
  let share := ((rs.filter fun r => 8 ≤ r.1 && r.2.mode = 2).map fun r => weltNeed r.2 r.1).sum
  let part := l.pools.getD 4 0 * 1048576
  let welts := (rs.filter fun r => r.1 < 8 && r.2.mode = 1 && r.2.welt).length
  let each := (part - share) / max 1 welts
  let bad (r : Nat × PortRec) : Bool :=
    decide (r.1 < 8) && r.2.mode = 1 &&
      decide (r.2.bufMiB * 1048576 < pfcHeadroom r.2 r.1 * bitCount r.2.pfcMask + (if r.2.welt then weltNeed r.2 r.1 - each else 0) + 1048576)
  if part < share then some { reason := Reject.bufferConflict, sec := Sec.pool, record := 4 }
  else (rs.findIdx? bad).map fun k => { reason := Reject.bufferConflict, sec := Sec.port, record := k }

/-- R40 and R93. -/
def quotaFail (b : List Byte) (l : LastImage) : Option LastFail :=
  let total (f : Quotas → Nat) : Nat := (l.quotas.map f).sum
  let zero := l.quotas.getD 0 {}
  if 262144 < total (fun q => ceilDiv q.queues 8 * 8) ∨ 16777216 < total (·.conns) ∨ 131072 < total (·.ranges) ∨ 262144 < total (·.lace)
      ∨ l.pools.getD 1 0 * 16 < total (·.slots) ∨ 4096 < total (·.pft) ∨ 65536 < total (·.stream) ∨ 256 < total (·.guardKeys)
      ∨ zero.queues < 64 ∨ zero.lace < 8 then
    some { reason := Reject.quotaSum, sec := Sec.slice }
  else countFail b Sec.slice 512 Reject.quotaSum

def timerFail (l : LastImage) : Option LastFail :=
  if 4096 < (l.quotas.map (·.timers)).sum + l.timerReserve then some { reason := Reject.timerCount, sec := Sec.slice }
  else if l.timerReserve < 256 then some { reason := Reject.timerCount, sec := Sec.timer }
  else none

/-- R42. -/
def pinFail (l : LastImage) : Option LastFail :=
  let bad (k : Nat) : Bool :=
    match l.pins[k]? with
    | none => false
    | some r =>
      let before := l.pins.take k
      decide (7 < r.pin) || decide (6 < r.function) || (r.function ≠ 3 && r.param ≠ 0)
        || (r.function = 3 && decide (l.timerReserve ≤ r.param)) || (before.any fun x => x.pin = r.pin)
        || ((r.function = 5 || r.function = 6) && before.any fun x => x.function = r.function)
  ((List.range l.pins.length).find? bad).map fun k => { reason := Reject.pinConflict, sec := Sec.pin, record := k }

/-- R41: the mode's code, and the partition that it asks for. -/
def modeFail (b : List Byte) (l : LastImage) : Option LastFail :=
  if 1 < Config.lastField Sec.check (secOf b Sec.check) 0 0 ∨ l.pools.getD 5 0 ≠ (if l.multi then 1 else 0) then
    some { reason := Reject.checkMode, sec := Sec.check }
  else none

/-- R535, and the eight records of R43. -/
def rangeFail (b : List Byte) (l : LastImage) : Option LastFail :=
  if 3 ≤ l.role then some { reason := Reject.fieldRange, sec := Sec.role }
  else if (l.prioClass.any fun c => 7 < c) ∨ (l.prioClass.filter fun c => c = 7).length ≠ 1 ∨ l.c7Cap < 1 ∨ 25 < l.c7Cap then
    some { reason := Reject.fieldRange, sec := Sec.tcmap }
  else (countFail b Sec.sleep 8 Reject.fieldRange).orElse fun _ =>
    (l.floors.findIdx? fun f => 2 < f).map fun k => { reason := Reject.fieldRange, sec := Sec.sleep, record := k }

/-! ## The checks (R44) -/

/-- Format: Magic, lengths, FormatMajor, SecVersion (R450), and the directory. R44 bounds a section before the signature block and does
not forbid it to overlap the header, the directory or another section: such an image passes (DESIGN CHOICE, log entry 78). -/
def lastFormatOk (b : List Byte) : Bool :=
  let sig := leField b 12 15
  decide (leField b 0 3 = 0x7A31F0C4 ∧ leField b 4 4 = 1 ∧ leField b 16 19 ≤ 64 ∧ leField b 8 11 ≤ b.length ∧ leField b 8 11 ≤ 1048576
      ∧ sig % 16 = 0 ∧ 128 + 16 * leField b 6 7 ≤ sig ∧ leField b 8 11 = sig + (sigBlock b sig).size)
    && (lastSections b).all fun x => decide (x.offset + x.length ≤ sig)

/-- The keys that sign a Last: the owner pair in force, or before any, the code-signing pair (R447). -/
def State.lastKeys (s : State) : BitVec 384 × BitVec 384 := s.boot.ownerDigests.getLast?.getD (Config.codeKeys s.boot.spareKey)

/-- Sections: each known type once, and no unknown one that is critical. The lowest failing type is named first. -/
def sectionsFail (b : List Byte) : Option LastFail :=
  let xs := lastSections b
  let fail (t : Nat) : LastFail := { reason := Reject.sections, sec := t }
  match ((List.range 11).drop 1).find? fun t => (xs.filter fun x => x.type = t).length ≠ 1 with
  | some t => some (fail t)
  | none => (xs.find? fun x => x.critical && (x.type = 0 || decide (10 < x.type))).map fun x => fail x.type

/-- The full check of a slot's bytes. -/
def State.checkLast (s : State) (b : List Byte) : Except LastFail LastImage :=
  if !lastFormatOk b then .error { reason := Reject.format, boot := failFormat }
  else
    let x := sigBlock b (leField b 12 15)
    let l := parseLast b
    if !x.ecdsaOk ∨ x.ecdsaKey ≠ s.lastKeys.1 then .error { reason := Reject.signature, boot := failEcdsa }
    else if !x.hssOk ∨ x.hssKey ≠ s.lastKeys.2 then .error { reason := Reject.signature, boot := failLms }
    else match (lastSections b).find? fun y => crc32c (y.bytes b) ≠ y.crc with
      | some y => .error { reason := Reject.signature, sec := y.type }
      | none =>
        if leField b 28 31 ≠ chipTarget then .error { reason := Reject.target, boot := failTarget }
        else if l.secVersion < s.boot.fuseLast then .error { reason := Reject.rollback, boot := failRollback }
        else match [sectionsFail b, poolFail b l, portFail b, bufferFail b l, quotaFail b l, timerFail l, pinFail l, modeFail b l,
            rangeFail b l].findSome? id with
          | some f => .error f
          | none => .ok l

/-! ## Slots -/

def State.lastSlot (s : State) (k : Nat) : LastSlot := vget s.last.slots k {}
def State.modLastSlot (s : State) (k : Nat) (f : LastSlot → LastSlot) : State := { s with last.slots := vmod s.last.slots k f }

/-- The slot that ActiveSlot does not name. -/
def State.spareLast (s : State) : Nat := 1 - s.last.activeSlot

/-- Record a rejection (R44, R45). -/
def State.rejectLast (s : State) (f : LastFail) : State :=
  let s := ((s.setFld .lstRejectReason 0 f.reason).setFld .lstRejectSection 0 f.sec).setFld .lstRejectRecord 0 f.record
  if f.boot = 0 then s else { s with boot.failReason := f.boot, boot.failObject := 3 }

/-- Check a slot, and keep what the check finds. -/
def State.checkSlot (s : State) (k : Nat) : State × Except LastFail LastImage :=
  match s.checkLast (s.lastSlot k).bytes with
  | .ok l => (s.modLastSlot k fun x => { x with state := 2 }, .ok l)
  | .error f => ((s.modLastSlot k fun x => { x with state := 3 }).rejectLast f, .error f)

/-! ## What is in use (R47) -/

/-- A slice's use of what its record grants. Counters, key slots and timers are named by number, so that the highest
number in use counts. -/
def State.useOf (s : State) (k : Nat) : Quotas :=
  let top (l : List Nat) : Nat := l.foldl (fun a n => max a (n + 1)) 0
  let keys (guardKind : Bool) : List Nat :=
    (s.keys.slots.filter fun x => x.slice = k && x.state ≠ .empty && (decide (x.kind = 0) == guardKind)).map (·.slot)
  { queues := (s.queue.queues.filter fun x => x.slice = k).length, conns := (s.trans.conns.filter fun c => c.slice = k).length,
    ranges := (s.xlate.ranges.filter fun e => e.slice = k && e.state ≠ .free).length,
    lace := top ((s.queue.lace.filter fun x => x.1.1 = k && x.2 ≠ 0).map (·.1.2)), slots := s.slotsOf k,
    pft := (s.xlate.pft.filter fun e => e.slice = k && e.charged).length, stream := top (keys false), guardKeys := top (keys true),
    timers := top ((s.time.timers.filter fun t => t.slice = k).map (·.index)), waitMs := 0 }

def Quotas.covers (q u : Quotas) : Bool :=
  decide (u.queues ≤ q.queues ∧ u.conns ≤ q.conns ∧ u.ranges ≤ q.ranges ∧ u.lace ≤ q.lace ∧ u.slots ≤ q.slots ∧ u.pft ≤ q.pft
    ∧ u.stream ≤ q.stream ∧ u.guardKeys ≤ q.guardKeys ∧ u.timers ≤ q.timers)

/-- The new Last cannot hold what is in use. -/
def State.lastInUse (s : State) (l : LastImage) : Option LastFail :=
  if s.last.inForce.any fun o => o.coord ≠ l.coord then some { reason := Reject.inUse, sec := Sec.role }
  else match (List.range 512).find? fun k => !(l.quotas.getD k {}).covers (s.useOf k) || decide (8 < s.groupsOf k) with
    | some k => some { reason := Reject.inUse, sec := Sec.slice, record := k }
    | none =>
      if l.pools.getD 1 0 * 16 < (s.work.groups.map fun g => g.slots + g.mgrSlots).sum then
        some { reason := Reject.inUse, sec := Sec.pool, record := 1 }
      else none

/-! ## Coming into force (R24, R39, R91, R125, R218, R370, R373) -/

/-- A new role (R24); a change of RoleEpoch clears the records of guarded messages (R441, R442). -/
def State.setRole (s : State) (role : Nat) (epoch : Word32) : State :=
  let changed := decide (s.last.roleEpoch ≠ epoch)
  let s : State := { s with last.role := role, last.roleEpoch := epoch }
  if changed then s.guardClear else s

/-- Slice 0's port is down as a Last comes into force, and the other is up (R370). -/
def State.placeZero (s : State) : State :=
  let p := (s.slice 0).port
  if (s.hostPort p).up ∨ !(s.hostPort (1 - p)).up then s else (s.resetSlice 0 5 none false).moveZero p

/-- The wait limits, from the SLICE records (R91). -/
def State.loadLimits (s : State) : State :=
  (List.range 512).foldl (fun s k => s.setFld .xltFaultCtrlWaitLimitMs k (s.quota k).waitMs) s

/-- Every slice's generation is 0 again, and its tenant tag (R373, R125). What carries a generation moves with its slice's, so that what
belongs to the slice still does, and what a reset made stale stays stale (log entry 53). -/
def State.zeroGens (s : State) : State :=
  let g (slice gen : Nat) : Nat := (gen + 65536 - s.gen slice) % 65536
  let access (a : Access) : Access := { a with gen := g a.slice a.gen }
  let event (e : Event) : Event := { e with gen := g e.slice e.gen }
  let cpl (r : CplRec) : CplRec := { r with gen := g r.slice r.gen }
  let record : QRecord → QRecord
    | .cpl r => .cpl (cpl r)
    | .event e => .event (event e)
  let queue (x : Queue) : Queue := { x with gen := g x.slice x.gen, held := x.held.map record, writing := x.writing.map record }
  let owned (c : CheckCtx) : CheckCtx := { c with owner := c.owner.map fun o => (o.1, g o.1 o.2) }
  { s with
    slices := s.slices.map fun x => { x with gen := 0, tenant := 0 },
    xlate.waiting := s.xlate.waiting.map fun w => { w with access := access w.access },
    xlate.flushes := s.xlate.flushes.map fun f => { f with gen := g f.slice f.gen },
    trans.conns := s.trans.conns.map fun c => { c with gen := g c.slice c.gen },
    queue.queues := s.queue.queues.map queue,
    queue.laceChanges := s.queue.laceChanges.map fun c => { c with gen := g c.slice c.gen },
    queue.records := s.queue.records.map fun r => (r.1, cpl r.2),
    queue.events := s.queue.events.map event,
    work.groups := s.work.groups.map fun x => { x with gen := g x.slice x.gen },
    work.services := s.work.services.map fun v => { v with gen := g v.slice v.gen },
    checks := s.checks.map owned }

/-- A Last comes into force from a slot. -/
def State.lastInForce (s : State) (slot : Nat) (l : LastImage) : State :=
  let keep := s.last.roleSet.any fun e => decide (l.roleEpoch < e)
  let s : State :=
    { s with last.inForce := some l, last.activeSlot := slot, last.booting := false, work.quota := [],
             checks := if (s.last.inForce.map (·.multi)) = some l.multi then s.checks else [] }
  let s := if keep then s else s.setRole l.role l.roleEpoch
  s.zeroGens.loadLimits.placeZero.bypassSources.drivePins

/-! ## The pause (R48 to R50) -/

/-- Peers of connections that are open. -/
def State.openPeers (s : State) : List Coord := ((s.trans.conns.filter fun c => c.state = .opened).map (·.peer)).dedup

/-- A notice still waits for its acknowledgement. -/
def State.noticesOut (s : State) : Bool :=
  s.trans.ctrlOut.any fun o => match o.msg with
    | .pause .. => true
    | _ => false

/-- An emergency begins before the pause: the activation is off (R50). -/
def State.abortActivation (s : State) : State :=
  match s.last.phase with
  | .notices _ slice tag l =>
    let s := s.dropCtrl fun o => match o.msg with
      | .pause .. => true
      | _ => false
    let s : State := { s with last.phase := .idle }
    (s.openPeers.foldl (fun s c => s.sendCtrl c (.resume l.serial true)) s).respond (slice, tag) Status.fwDeferred []
  | _ => s

/-- Write the Connection Cache back. -/
def State.writeBackAll (s : State) : State :=
  s.trans.conns.foldl (fun s c =>
    if c.cached then (s.modConn c.index fun c => { c with cached := false, evicting := false }).writeContext c else s) s

end Sys2Proof.Machine
end

