-- ==== Sys2Proof/Machine/PowerOps.lean ====
section
/-! DEFINITION. Thermal states, capping, emergencies (R483, R485, R495 to R501), and the machine without power or in reset
(R501, R525). -/

namespace Sys2Proof.Machine

/-! ## Without power, or in reset -/

/-- A slot of a Last after a reset: written where its magic is valid, and not checked since. -/
def LastSlot.afterReset (x : LastSlot) : LastSlot := { x with state := if leField x.bytes 0 3 = 0x7A31F0C4 then 1 else 0 }

/-- Every unit but the always-on domain and the sideband stops (R525): what stays is Device Time, the readings of the always-on
domain, the pins, the fuses and the flash. -/
def State.stopUnits (s : State) : State :=
  let b := s.boot
  let p := s.power
  { pending := s.pending, out := s.out, freeCount := s.freeCount,
    time := { now := s.time.now, frac := s.time.frac, part := s.time.part },
    board := { s.board with pulseUntil := [], pinCap := Vector.replicate 8 0, shorted := 0, shortSince := [], retryAt := [] },
    power := { thermal := p.thermal, shutdown := p.shutdown, coolSince := p.coolSince,
               junctionC := p.junctionC, hbmC := p.hbmC, inputW := p.inputW, brake := p.brake },
    boot := { desc := b.desc, stageImages := b.stageImages, fwImages := b.fwImages,
              stageFuses := b.stageFuses, fwFuses := b.fwFuses, lastFuses := b.lastFuses, ownerDigests := b.ownerDigests,
              spareKey := b.spareKey, lms := b.lms, certificate := b.certificate },
    keys := { deviceSecret := s.keys.deviceSecret },
    fw := { runningSlot := b.fwSlot },
    last := { slots := s.last.slots.map LastSlot.afterReset, activeSlot := b.lastSlot },
    slices := State.reset.slices }

/-- Input power is gone: the always-on domain stops too. -/
def State.losePower (s : State) (fault : Bool) : State :=
  let s := s.stopUnits
  ({ s with time := {}, power := {}, board := { gpioIn := s.board.gpioIn, straps := s.board.straps, inputPower := false, inputFault := fault, pwrGood := false,
                                                resetN := false } } : State).emit (.pwrGood false)

/-! ## Events and emergencies -/

def ThermalState.code : ThermalState → Nat
  | .normal => 0
  | .warning1 => 1
  | .warning2 => 2
  | .critical => 3

def thermalOf : Nat → ThermalState
  | 0 => .normal
  | 1 => .warning1
  | 2 => .warning2
  | _ => .critical

/-- PWR_STATE (R511). -/
def State.pwrEvent (s : State) : State :=
  let p := s.power
  s.raise { slice := 0, code := EventCode.pwrState,
            info := p.thermal.code + p.capStep * 8 + p.brake.toNat * 64 + p.capUnmet.toNat * 128,
            detail := p.junctionC % 256 + p.hbmC % 256 * 256 + p.inputW % 1024 * 65536 }

/-- An emergency that begins aborts a handover before its Switch and an activation before its pause (R50, R485). -/
def State.emergencyFrom (s : State) (before : Bool) : State :=
  if s.emergency ∧ !before then s.abortHandover.abortActivation else s

/-! ## Thermal states (R499, R501) -/

/-- Entry thresholds of a state, and exit thresholds, for junction and HBM case. -/
def thermalEntry : Nat → Nat × Nat
  | 1 => (100, 90)
  | 2 => (103, 93)
  | 3 => (108, 97)
  | _ => (115, 105)

def thermalExit : Nat → Nat × Nat
  | 1 => (97, 87)
  | 2 => (100, 90)
  | _ => (103, 93)

def reaches (t : Nat × Nat) (j h : Nat) : Bool := decide (t.1 ≤ j ∨ t.2 ≤ h)

/-- The highest level that temperatures reach: 4 is Shutdown. -/
def thermalLevel (j h : Nat) : Nat :=
  if reaches (thermalEntry 4) j h then 4 else if reaches (thermalEntry 3) j h then 3
  else if reaches (thermalEntry 2) j h then 2 else if reaches (thermalEntry 1) j h then 1 else 0

/-- Both temperatures are below the exit thresholds of a state. -/
def isBelow (level j h : Nat) : Bool := decide (j < (thermalExit level).1 ∧ h < (thermalExit level).2)

/-- THERM_ALERT_N follows the thermal state. -/
def State.thermPin (s : State) (was : Nat) : State :=
  let now := s.power.thermal.code
  if decide (0 < was) = decide (0 < now) then s else s.alertPin (decide (0 < now))

/-- The thermal state changes. -/
def State.setThermal (s : State) (level : Nat) : State :=
  let was := s.power.thermal.code
  if was = level then s
  else
    let before := s.emergency
    let s : State := { s with power.thermal := thermalOf level, power.coolSince := none }
    ((s.bump .pwrStatThermalSteps 0).thermPin was).pwrEvent.emergencyFrom before

/-- Shutdown: power leaves every rail but the always-on domain and the sideband. -/
def State.shutDown (s : State) : State :=
  let s := if s.power.thermal = .normal then s.alertPin true else s
  { s.stopUnits with power.shutdown := true, power.thermal := .normal, power.coolSince := none, board.resetN := false }

/-- Temperatures act: up to the level they reach, or down one state after 10 ms below the present state's exit. -/
def State.thermalStep (s : State) (j h : Nat) : State :=
  let cur := s.power.thermal.code
  let level := thermalLevel j h
  if level = 4 then s.shutDown
  else if cur < level then s.setThermal level
  else if cur = 0 ∨ !isBelow cur j h then { s with power.coolSince := none }
  else match s.power.coolSince with
    | none => { s with power.coolSince := some s.time.now }
    | some t =>
      if s.time.now < t + 10000000 then s
      else
        let s := s.setThermal (cur - 1)
        { s with power.coolSince := if 1 < cur ∧ isBelow (cur - 1) j h then some s.time.now else none }

/-! ## Capping (R495) -/

/-- A capping step changes. -/
def State.setCap (s : State) (step : Nat) : State :=
  let before := s.emergency
  (({ s with power.capStep := step } : State).bump .pwrStatCapSteps 0).pwrEvent.emergencyFrom before

/-- An average over 1 ms moves the ladder. -/
def State.capStepTo (s : State) (watts : Nat) : State :=
  let p := s.power
  if p.limitW < watts then
    let s : State := { s with power.underSince := none }
    if p.capStep < 5 then s.setCap (p.capStep + 1) else { s with power.capUnmet := true }
  else
    let s : State := { s with power.capUnmet := false }
    if 95 * p.limitW ≤ 100 * watts ∨ p.capStep = 0 then { s with power.underSince := none }
    else match p.underSince with
      | none => { s with power.underSince := some s.time.now }
      | some t =>
        if s.time.now < t + 10000000 then s
        else ({ s with power.underSince := some s.time.now } : State).setCap (p.capStep - 1)

/-! ## The brake (R497, R511) -/

/-- A brake edge is told at most once per 10 ms. -/
def State.brakeEvent (s : State) : State :=
  if s.power.brakeEventAt.any fun t => decide (s.time.now < t + 10000000) then s
  else ({ s with power.brakeEventAt := some s.time.now } : State).pwrEvent

/-- Arithmetic clock in force, as a step 0 to 3, and memory cap in percent (R498). -/
def State.arithClock (s : State) : Nat :=
  max s.power.thermal.code (max (min s.power.capStep 2) (if s.power.brake then 2 else 0))

def State.memCap (s : State) : Nat :=
  let cap := [100, 100, 100, 75, 50, 25].getD s.power.capStep 25
  let brake := if s.power.brake then clamp 25 100 (s.fld .pwrCtrlBrakeMemPct 0) else 100
  min cap (min brake (if s.power.thermal = .critical then 25 else 100))

end Sys2Proof.Machine
end

