-- ==== Sys2Proof/Machine/BootOps.lean ====
section
/-! DEFINITION. The boot chain (R448 to R450), and the module's checked outputs (R522). -/

namespace Sys2Proof.Machine

/-! ## Boot -/

/-- A rejection that SEC_BOOT_STATUS keeps. -/
def State.bootFail (s : State) (reason object : Nat) : State := { s with boot.failReason := reason, boot.failObject := object }

/-- Load and verify a slot's image of a kind, 1 stage loader or 2 firmware. A slot with no image has no valid magic. A bundle of
another contract major than the stage loader's is rejected; the spec gives that rejection no reason code (log entry 2). -/
def State.tryImage (s : State) (kind slot : Nat) : State × Option FlashImage :=
  match vget (if kind = 1 then s.boot.stageImages else s.boot.fwImages) slot none with
  | none => (s.bootFail failFormat kind, none)
  | some i =>
    let r := s.imageReason kind i
    if r ≠ 0 then (s.bootFail r kind, none)
    else if kind = 2 ∧ i.major ≠ s.boot.loaderMajor then ((s.bootFail (s.freeNow % 256) kind).advanceFree, none)
    else (s, some i)

/-- The pointed slot, and after it the other one: which of them gave an image. -/
def State.bootImage (s : State) (kind slot : Nat) : State × Option (Nat × FlashImage) :=
  match s.tryImage kind slot with
  | (s, some i) => (s, some (slot, i))
  | (s, none) => match s.tryImage kind (1 - slot) with
    | (s, some i) => (s, some (1 - slot, i))
    | (s, none) => (s, none)

/-- Recovery (R449). -/
def State.enterRecovery (s : State) : State := { s with boot.stage := 3 }

/-- The firmware loads the Last (R45): the active slot's, or the other's. -/
def State.bootLast (s : State) : State :=
  let p := s.boot.lastSlot
  let start (s : State) (slot : Nat) (l : LastImage) : State := (List.range 10).foldl (fun s p => s.startTraining p) (s.lastInForce slot l)
  match s.checkSlot p with
  | (s, .ok l) => start s p l
  | (s, .error _) => match s.checkSlot (1 - p) with
    | (s, .ok l) => start { s with last.fallback := true } (1 - p) l
    | (s, .error _) => { s with last.booting := false }

/-- At each boot a low top tree is told (R457). -/
def State.tellLow (s : State) : State :=
  let left := topIndices - s.boot.topNext
  if left < 65536 then s.raise { slice := 0, code := EventCode.attestLow, info := left } else s

/-- At each boot a bottom tree is generated (R455). -/
def State.bootLms (s : State) : State := s.tellLow.nextTree

/-- The ECDSA identity key is derived from the device secret (R448, R453). -/
def State.deriveIdentity (s : State) : State := { s with boot.identityKey := some (Config.identityPublic s.keys.deviceSecret) }

/-- ROM, stage loader, firmware, the Last, the identity key, and the LMS tree. -/
def State.bootChain (s : State) : State :=
  match s.bootImage 1 s.boot.stageSlot with
  | (s, none) => s.enterRecovery
  | (s, some (slot, i)) =>
    let s : State := { s with boot.stage := 1, boot.stageFallback := decide (slot ≠ s.boot.stageSlot), boot.loaderMajor := i.major,
                              boot.loaderSec := i.sec, boot.loader := some i }
    match s.bootImage 2 s.boot.fwSlot with
    | (s, none) => s.enterRecovery
    | (s, some (slot, i)) =>
      let s : State := { s with boot.stage := 2, boot.fwFallback := decide (slot ≠ s.boot.fwSlot), fw.runningSlot := slot,
                                fw.runningSec := i.sec }
      s.bootLast.deriveIdentity.bootLms

/-! ## Outputs that are checked against their level -/

/-- Outputs: PPS_OUT, THERM_ALERT_N, and the pins that the Last makes GpioOut, TimerOut or FaultOut (R42). -/
def State.checkedOutput (s : State) (k : Nat) : Bool :=
  decide (k = pinPps ∨ k = pinTherm) || [2, 3, 6].any fun f => (s.pinsWith f).contains k

def State.isShorted (s : State) (k : Nat) : Bool := s.board.shorted.getLsbD k

/-- The level on a MOD_GPIO pin, whatever its function (R528): that of an output which drives it, and otherwise what stands outside. -/
def State.pinIn (s : State) (k : Nat) : Bool :=
  if s.checkedOutput k && !s.isShorted k && !s.pinReleased k then s.pinHigh k else s.board.gpioIn.getLsbD k

/-- An output reads back the opposite of its driven level: an open-drain one only while it is driven low (R522). -/
def State.readsWrong (s : State) (k : Nat) (levelOk : Bool) : Bool := !levelOk && !s.pinReleased k

def setBit10 (v : BitVec 10) (k : Nat) (on : Bool) : BitVec 10 := if on then v ||| (1#10 <<< k) else v &&& ~~~(1#10 <<< k)

/-- PIN_FAULT: a short is found (1) or clears (0). -/
def State.pinEvent (s : State) (k : Nat) (found : Bool) : State :=
  s.raise { slice := 0, code := EventCode.pinFault, object := k, info := found.toNat }

/-- An output has read back wrong for 10 µs: it goes to high impedance. -/
def State.shortFound (s : State) (k : Nat) : State :=
  let s : State := { s with board.shorted := setBit10 s.board.shorted k true, board.shortSince := assocDel s.board.shortSince k,
                            board.retryAt := assocSet s.board.retryAt k (s.time.now + 100000000) }
  ((s.bump .pwrPinFaultCount 0).emit (.pinFloat k)).pinEvent k true

/-- A shorted output reads back right again, and drives its level. -/
def State.shortGone (s : State) (k : Nat) : State :=
  let s : State := { s with board.shorted := setBit10 s.board.shorted k false, board.retryAt := assocDel s.board.retryAt k }
  (if k = pinTherm then s.alertPin (!s.pinHigh k) else s.drive k (s.pinHigh k)).pinEvent k false

end Sys2Proof.Machine
end

