-- ==== Sys2Proof/Machine/Board.lean ====
section
/-! DEFINITION. The module: power input and MOD_RESET_N (R519, R520, R524, R525), boot (R448), the sideband (R526, R527) and
shorted pins (R522). -/

namespace Sys2Proof.Machine

/-! ## Power and reset -/

/-- INPUT_POWER_APPLY: the always-on domain starts, MOD_PWR_GOOD goes high (R524), and the straps give the sideband its address (R526). -/
def execInputPowerApply (s : State) : Result :=
  if s.board.inputPower then .next s
  else .next (({ s with time := {}, board.inputPower := true, board.inputFault := false, board.pwrGood := true,
                        board.resetN := false, board.address := 0x5C + s.board.straps.toNat } : State).emit (.pwrGood true))

/-- INPUT_UNDERVOLTAGE: MOD_PWR_GOOD falls, and power is removed after the hold-up time (R525). -/
def execInputUndervoltage (s : State) : Result := if s.board.inputPower then .next (s.losePower false) else .next s

/-- INPUT_FAULT: reversed polarity or overvoltage; the module is without power while it lasts (R520). -/
def execInputFault (_reversed : Bool) (s : State) : Result :=
  if s.board.inputPower then .next (s.losePower true) else .next { s with board.inputFault := true }

/-- MOD_RESET_N_ASSERT: every unit but the always-on domain and the sideband stops (R525). -/
def execModResetNAssert (s : State) : Result :=
  if s.board.resetN then
    let s := s.stopUnits
    .next { s with board.resetN := false }
  else .next s

/-- MOD_RESET_N_RELEASE: the boot chain runs (R448). During a thermal shutdown it is ignored until the junction is below 95 °C,
and then ends the shutdown (R501). -/
def execModResetNRelease (s : State) : Result :=
  if !s.board.pwrGood ∨ (s.board.resetN ∧ s.boot.stage ≠ 0) then .next s
  else if s.power.shutdown then
    if 95 ≤ s.power.junctionC then .next s
    else
      let s := ({ s with power.shutdown := false, board.resetN := true } : State).setFld .pwrStatusWasShutdown 0 1
      .next (s.alertPin false).bootChain.settle
  else .next ({ s with board.resetN := true } : State).bootChain.settle

/-! ## The sideband -/

/-- Sensors 1 to 4 and 6, which read in reset as well. The spec states no value of the input voltage (log entry 2). -/
def State.earlySensor (s : State) : Nat → Option Nat
  | 1 => some s.power.inputW
  | 2 => some s.freeNow
  | 3 => some s.power.junctionC
  | 4 => some s.power.hbmC
  | 6 => some s.power.thermal.code
  | _ => none

/-- Mailbox commands outstanding device-wide (R475). -/
def State.mbxOutstanding (s : State) : Nat := (s.mailboxes.map fun m => m.2.outstanding none).sum

/-- A sensor of R527. -/
def State.readSensor (s : State) (id : Nat) : PldmResp :=
  match s.earlySensor id with
  | some v => .value v
  | none =>
    if id < 5 ∨ 11 < id then .rejected
    else if s.boot.stage ≠ 2 ∨ !s.board.resetN then .unavailable
    else if id = 11 then .value s.mbxOutstanding
    else if 7 ≤ id ∧ id ≤ 10 then .value (s.busyShare (id - 7))
    else .value s.freeNow

/-- Firmware update in Recovery (R449): an image that passes goes to the pointed slot of its kind. -/
def State.recoveryImage (s : State) (image : List Byte) (kind : Nat) : State × PldmResp :=
  let i := readImage kind image
  let r := s.imageReason kind i
  if s.boot.stage ≠ 3 ∨ !s.board.resetN then (s, .invalidType)
  else if kind = 0 ∨ 2 < kind then (s, .rejected)
  else if r ≠ 0 then (s.bootFail r kind, .rejected)
  else if kind = 1 then ({ s with boot.stageImages := vset s.boot.stageImages s.boot.stageSlot (some i) }, .accepted)
  else ({ s with boot.fwImages := vset s.boot.fwImages s.boot.fwSlot (some i) }, .accepted)

/-- PLDM_REQUEST (R527). The sideband serves whenever input power is present. -/
def execPldmRequest (req : PldmReq) (s : State) : Result :=
  if !s.board.inputPower then .next s
  else match req with
    | .base => .next (s.emit (.pldm .base))
    | .fru =>
      .next (s.emit (.pldm (.fru Config.partNumber (Reg.gblIdent.resetBits.toNat) Config.moduleSerial Config.manufactureDate)))
    | .readSensor id => .next (s.emit (.pldm (s.readSensor id))).advanceFree
    | .firmwareUpdate image kind =>
      let (s, r) := s.recoveryImage image kind
      .next (s.emit (.pldm r))
    | .other _ => .next (s.emit (.pldm .invalidType))

/-- BOARD_POWER_LIMIT_WRITE (R495, R527): refused while MOD_RESET_N is low. -/
def execBoardPowerLimitWrite (watts : Nat) (s : State) : Result :=
  if !s.board.inputPower then .next s
  else if s.board.resetN then .next (({ s with power.limitW := clamp 250 800 watts } : State).emit (.pldm .accepted))
  else .next (s.emit (.pldm .notReady))

/-- SET_ENDPOINT_ID (R526). -/
def execSetEndpointId (eid : Nat) (s : State) : Result :=
  if s.board.inputPower then .next { s with board.eid := eid } else .next s

/-! ## Shorts -/

/-- PIN_SHORT_CHECK: an output is compared with its own level, every 1 µs. -/
def execPinShortCheck (output : Fin 10) (levelOk : Bool) (s : State) : Result :=
  let k := output.val
  if !s.checkedOutput k ∨ s.isShorted k ∨ !s.board.inputPower then .next s
  else if !s.readsWrong k levelOk then .next { s with board.shortSince := assocDel s.board.shortSince k }
  else match assoc s.board.shortSince k with
    | none => .next { s with board.shortSince := assocSet s.board.shortSince k s.time.now }
    | some t => if s.due (t + 10000) then .next (s.shortFound k) else .next s

/-- PIN_FAULT_RETRY: every 100 ms a shorted output is driven again for 10 µs. -/
def execPinFaultRetry (output : Fin 10) (levelOk : Bool) (s : State) : Result :=
  let k := output.val
  if s.isShorted k ∧ (assoc s.board.retryAt k).any s.due then
    if !s.readsWrong k levelOk then .next (s.shortGone k)
    else .next { s with board.retryAt := assocSet s.board.retryAt k (s.time.now + 100000000) }
  else .next s

end Sys2Proof.Machine
end

