-- ==== Sys2Proof/Machine/Collectives.lean ====
section
/-! DEFINITION. The commands and messages of Collective Groups (R217 to R248), and the arithmetic engines' steps (R246, R260,
R267 to R270). -/

namespace Sys2Proof.Machine

/-! ## COLL -/

/-- Start a COLL descriptor (R223, R225, R228): one whose group is Forming, or runs an operation, waits. -/
def State.collDesc (s : State) (q : Nat) (count : Word32) : State :=
  match s.ready q count Op.coll with
  | none => s
  | some (x, d) =>
    match s.findGroup (Desc.collGroup d.entry) with
    | none => s.endWith q count Status.localAccess
    | some g =>
      if g.slice ≠ x.slice then s.endWith q count Status.localAccess
      else if g.state = .broken then s.endWith q count Status.collAborted
      else if g.state = .forming then s
      else
        let o := collOf q count d.entry
        match s.collCheck x.slice x.as g o (collFields d.entry g.n (s.quota x.slice).lace) with
        | .error c => s.endWith q count c
        | .ok alg =>
          if g.op.isSome ∨ s.lowrankHolds g.handle then s
          else
            let s := (s.modStarted q count fun d => { d with run := true }).modGroup g.handle fun g => { g with nextSeq := g.nextSeq + 1 }
            s.collBegin g.handle { o with alg, seq := g.nextSeq }

/-- COLL. -/
def execColl (q : Nat) (count : Word32) (s : State) : Result := .next (s.collDesc q count).settle

/-! ## Messages of a group's ends (R232 to R240, R244) -/

def execHsUp (a : Arrival) (seq sig : Word64) (mism : Bool) (rank : Nat) (s : State) : Result :=
  .next (s.endCtrl a (.hsUp seq sig mism rank)).settle

def execHsDown (a : Arrival) (seq : Word64) (mism : Bool) (rank : Nat) (s : State) : Result :=
  .next (s.endCtrl a (.hsDown seq mism rank)).settle

def execHsCount (a : Arrival) (seq sig count : Word64) (s : State) : Result :=
  .next (s.endCtrl a (.hsCount seq sig count)).settle

def execCredit (a : Arrival) (seq : Word64) (stage credits slot : Nat) (s : State) : Result :=
  .next (s.endCtrl a (.credit seq stage credits slot)).settle

def execMismatch (a : Arrival) (seq : Word64) (rank : Nat) (s : State) : Result :=
  .next (s.endCtrl a (.mismatch seq rank)).settle

def execAbort (a : Arrival) (seq : Word64) (status rank : Nat) (s : State) : Result :=
  .next (s.endCtrl a (.abort seq (BitVec.ofNat 8 status) rank)).settle

/-! ## Watchdog (R239, R248) -/

/-- Ranks that a group waits for, and the phase code. -/
def State.awaited (s : State) (g : Group) : List Nat × Nat :=
  match g.op with
  | none => ((s.groupPeers g).filter fun r => !((s.endTo g r).any fun c => c.state = .opened), 1)
  | some o =>
    if o.phase = .tables ∨ o.phase = .handshake then
      let kids := (treeChildren g.me g.n).filter fun k => !(g.hsUps.any fun x => x.1 = o.seq && x.2.1 = k)
      let counts := if o.kind = CK.allToAllV then
          (List.range g.n).filter fun r => r ≠ g.me && !(g.hsCounts.any fun x => x.1 = o.seq && x.2.1 = r) else []
      (if o.upSent then [treeParent g.me] else (kids ++ counts).dedup, 2)
    else
      let x := s.shape g o
      let legs := x.legs
      let ins := (legs.filter fun l => l.dst = g.me && l.units.any fun u => !o.used l u).map (·.src)
      let outs := (legs.filter fun l => l.src = g.me && l.units.any fun u => !((o.sent l u).any (·.acked))).map (·.dst)
      ((ins ++ outs).dedup, 3)

/-- Why a group waits: an end in Failed, or one that failed with REMOTE_SLICE_GONE. -/
def State.stallCause (s : State) (g : Group) (rs : List Nat) : Nat :=
  let failed := rs.filterMap fun r => (s.endTo g r).filter fun c => c.state = .failed
  if failed.any fun c => c.failCode = Status.remoteSliceGone then 2 else if failed.isEmpty then 0 else 1

/-- COLL_WATCHDOG: COLL_STALL is written and the watchdog starts again. -/
def execCollWatchdog (group : Nat) (s : State) : Result :=
  match s.findGroup group with
  | none => .next s
  | some g =>
    if (g.state = .forming ∨ g.op.isSome) ∧ s.passed g.watchdogAt then
      let (rs, phase) := s.awaited g
      let cause := s.stallCause g rs
      let s := (s.bump .cluCollStatStalls g.home).raise
        { slice := g.slice, code := EventCode.collStall, cluster := g.home, object := group, info := (g.op.map (·.seq)).getD 0,
          detail := rs.min?.getD 0 + min rs.length 65535 * 2 ^ 16 + phase * 2 ^ 32 + cause * 2 ^ 36 }
      .next (s.progress group)
    else .next s

/-! ## Arithmetic -/

/-- A service has a granule in progress on a cluster's arithmetic, or needs it later: QUANT and OPTSTEP through their pieces, LOWRANK
on each cluster on which it holds a unit (R274, R275). -/
def Service.usesArith (v : Service) (cluster : Nat) : Bool :=
  v.stage = 3 && ((v.pieces.any fun p => p.cluster = cluster && !p.done) || (v.opcode = Op.lowrank && v.units.contains cluster))

/-- A service ends with RESIDUE_FAULT. A LOWRANK whose collective operation runs ends with that operation (R241, R288). -/
def State.svcResidue (s : State) (v : Service) : State :=
  let running := v.opcode = Op.lowrank && (s.findGroup v.handle).any fun g => g.op.any fun o => o.svc && o.q = v.q && o.count = v.count
  if running then s.collFail v.handle Status.residueFault else s.failSvc v Status.residueFault

/-- A group's operation has a granule in progress on a cluster, or needs arithmetic that is no longer there: a reduction, or an operation
that level 3 compresses, that of the group's home, a GATHER_MULTIPLY the tile that holds one of its blocks, or any tile (R30, R269). -/
def State.collUsesArith (s : State) (g : Group) (cluster : Nat) : Bool :=
  g.op.any fun o => ((isReduce o.kind || (s.shape g o).crosses) && g.home = cluster)
    || (o.kind = CK.gatherMultiply && ((o.tiles.any fun t => t.cluster = cluster) || s.arithClusters.isEmpty))

/-- Arithmetic of a cluster leaves service (R269, R270): ARITH_OUT is written, and every operation that has or needs a
granule there ends with RESIDUE_FAULT. -/
def State.arithFail (s : State) (cluster unit first opcode queue : Nat) : State :=
  let s := ({ s with work.arithOut := s.work.arithOut ||| (1 <<< cluster),
                     work.recomputing := s.work.recomputing.filter fun m => m.cluster ≠ cluster } : State).raise
    { slice := 0, code := EventCode.arithOut, object := cluster, info := unit + (opcode + queue % 2 ^ 18 * 256) * 256, detail := first }
  let s := (s.work.groups.filter fun g => s.collUsesArith g cluster).foldl (fun s g => s.collFail g.handle Status.residueFault) s
  (s.work.services.filter fun v => v.usesArith cluster).foldl State.svcResidue s

/-- A residue mismatch is noted: LastUnit, and a recomputation where it is the first. -/
def State.noteMismatch (s : State) (cluster unit : Nat) (first : Bool) : State :=
  let s := { s with work.lastUnit := vset s.work.lastUnit cluster unit }
  if first then s.bump .cluArithStatRecomputes cluster else s

/-- The opcode of the operation behind a collective: COLL, or the LOWRANK it belongs to. -/
def collOpcode (o : CollOp) : Nat := if o.svc then Op.lowrank else Op.coll

/-- The oldest job of the groups homed on a cluster. -/
def State.jobOn (s : State) (cluster : Nat) : Option (Group × CollOp × CollJob) :=
  s.work.groups.findSome? fun g =>
    if g.home = cluster then g.op.bind fun o => o.jobs.head?.map fun j => (g, o, j) else none

/-- What a granule would put out, or free bytes where an output is wrong by a multiple of 7, which no residue shows (R266). -/
def State.putOut (s : State) (hidden : Bool) (bytes : List Byte) : State × List Byte :=
  if hidden then ({ s with freeCount := s.freeCount + bytes.length },
    (List.range bytes.length).map fun i => (Config.freeBits (s.freeCount + i)).truncate 8)
  else (s, bytes)

/-- Encode the results of a granule in a datatype, stochastically where the operation asks (R257, R258); MX in whole blocks (R259). -/
def State.encodeOut (s : State) (o : CollOp) (dt : Nat) (sat hidden : Bool) (xs : List Num) : State × List Byte :=
  let ys := if isMx dt then xs ++ List.replicate ((32 - xs.length % 32) % 32) (.fin false 0 0) else xs
  let bytes := encodeData dt sat (draws (stochastic o) s.freeCount) ys
  ({ s with freeCount := s.freeCount + (if stochastic o then ys.length else 0) } : State).putOut hidden bytes

/-- The slice of a unit's elements that a granule takes: 64 from where the step stands. -/
def CollJob.part (j : CollJob) (xs : List Num) : List Num := (xs.drop j.done).take 64

/-- Put bytes over those at a place of a list. -/
def patchSum (l : List Byte) (at_ : Nat) (bytes : List Byte) : List Byte := l.take at_ ++ bytes ++ l.drop (at_ + bytes.length)

/-- A granule is done: the step stands 64 elements further, or with the last one has the effect that `ends` says. -/
def State.granuleDone (s : State) (g : Group) (j : CollJob) (n : Nat) (out : List Byte) (ends : CollOp → List Byte → CollOp) : State :=
  let j' : CollJob := { j with done := j.done + 64, out := j.out ++ out, mism := none }
  if j'.done < n then s.modColl g.handle fun o => { o with jobs := updWhere (fun k => k.unit = j.unit) (fun _ => j') o.jobs }
  else s.modColl g.handle fun o => ends { o with jobs := o.jobs.filter fun k => k.unit ≠ j.unit } j'.out

/-- The own contribution of a unit enters level 3 (R281): a granule of the QUANT sequence with its error feedback, whose FP32 residual
lies at CrossResidual and is read and written under R79. Where that fails the operation ends (R241). -/
def State.enterGranule (s : State) (g : Group) (o : CollOp) (j : CollJob) (hidden : Bool) : State :=
  let x := s.shape g o
  let n := (x.unitElems j.unit).2
  let xs := j.part ((decodeData o.dt ((o.value j.unit).getD [])).take n)
  let at_ := g.params.crossResidual + 4 * (vectorIndex x j.unit + j.done)
  match s.access (collAccess g (s.collAs o) .residual at_ (4 * xs.length) false [] false) with
  | (s, .fail c) => s.collFail g.handle c
  | (s, .done b) =>
    let ys := (xs.zip (decodeData DT.f32 b)).map fun p => fadd p.1 p.2
    let (s, q) := s.encodeOut o g.params.crossFormat true hidden ys
    let res := (ys.zip (decodeData g.params.crossFormat q)).map fun p => if p.1.isFin && p.2.isFin then fsub p.1 p.2 else .fin false 0 0
    match s.access (collAccess g (s.collAs o) .residual at_ (4 * xs.length) true (encodeData DT.f32 true (draws false 0) res) false) with
    | (s, .fail c) => s.collFail g.handle c
    | (s, _) => s.granuleDone g j n q fun o out => { o with entered := assocSet o.entered j.unit out }
  | (s, _) => s

/-- A granule that encodes a value for level 3, or decodes a result that came from there. -/
def State.recodeGranule (s : State) (g : Group) (o : CollOp) (j : CollJob) (hidden : Bool) : State :=
  let x := s.shape g o
  let n := (x.unitElems j.unit).2
  if j.kind = .code then
    let (s, q) := s.encodeOut o g.params.crossFormat true hidden (j.part ((decodeData o.dt ((o.value j.unit).getD [])).take n))
    s.granuleDone g j n q fun o out => { o with coded := assocSet o.coded j.unit out }
  else
    let xs := (decodeData g.params.crossFormat ((assoc o.coded j.unit).getD [])).take n
    let (s, b) := s.encodeOut o o.dt (s.fp8Sat g.slice) hidden (j.part xs)
    s.granuleDone g j n b fun o out => ({ o.take_ j.unit j.legs with vals := assocSet o.vals j.unit out } : CollOp).finish j.unit

/-- Where a group's reduction slot for a unit lies: the pool's, which no slice reaches (R33). Its place there is the device's own. -/
def slotAt (g : Group) (u : Nat) : Nat := nearBytes + Config.slotPlace g.handle u % 4096 * 65536

/-- Read the running sum of a granule, of the bytes `len` from `off` of its unit: in end-point mode where it stands in near memory, otherwise
from its slot (R242, R243, R267). None where the read fails, and so the operation (R241, R299). -/
def State.readSum (s : State) (g : Group) (x : Shape) (o : CollOp) (u off len : Nat) : State × Option (List Byte) :=
  if s.sumsInPlace g x o u then
    match s.access (collAccess g (s.collAs o) (.inPlace u) (inPlaceAt x o u + off) len false [] false) with
    | (s, .done b) => (s, some b)
    | (s, .fail c) => (s.collFail g.handle c, none)
    | (s, _) => (s, none)
  else
    match s.readNear (slotAt g u + off) len with
    | (s, none) => (s.collFail g.handle Status.memUncorrectable, none)
    | (s, some _) => (s, some ((((o.value u).getD []).drop off).take len))

/-- Write the sum of a granule where its running sum was read. Answers whether it stands there. -/
def State.writeSum (s : State) (g : Group) (x : Shape) (o : CollOp) (u off : Nat) (bytes : List Byte) : State × Bool :=
  if s.sumsInPlace g x o u then
    match s.access (collAccess g (s.collAs o) (.inPlace u) (inPlaceAt x o u + off) bytes.length true bytes false) with
    | (s, .done _) => (s, true)
    | (s, .fail c) => (s.collFail g.handle c, false)
    | (s, _) => (s, false)
  else (s.shankUse 2 (slotAt g u + off) bytes.length, true)

/-- One granule of a reduction (R260, R264, R267): within one locked sequence of the memory port (R212) the running sum is read, the
contributions are added, and the sum is written. In level 3 with CrossCompress the sum goes on in CrossFormat, encoded once from FP32, and
only a result is encoded in the Datatype (R230, R259). The last granule finishes the step. -/
def State.reduceGranule (s : State) (g : Group) (o : CollOp) (j : CollJob) (hidden : Bool) : State :=
  let x := s.shape g o
  let n := (x.unitElems j.unit).2
  let k := min 64 (n - j.done)
  let off := dtBytes o.dt j.done
  let inBuf := s.sumsInPlace g x o j.unit
  let place := (if inBuf then inPlaceAt x o j.unit else slotAt g j.unit) + off
  match (s.shankLock 2 place).readSum g x o j.unit off (dtBytes o.dt k) with
  | (s, none) => s.shankFree place
  | (s, some b) =>
    let mine := if j.cross then j.part (decodeData g.params.crossFormat ((assoc o.entered j.unit).getD [])) else decodeData o.dt b
    let vals := reduceStep o.dt o.red (compensated o) (mine.take k :: j.rows.map fun r => (j.part (decodeData r.1 r.2)).take k)
    let ins := x.legs.filter fun l => l.dst = g.me && l.reduce && l.units.contains j.unit
    let final := (ins.all fun l => o.used l j.unit || j.legs.contains (l.stage, l.src)) && x.finisher j.unit = some g.me
    let vals := if final ∧ o.red = 3 then meanScale g.n vals else vals
    let (s, q) := if j.cross then s.encodeOut o g.params.crossFormat true hidden vals else (s, [])
    let (s, bits) := if j.cross && !final then (s, b) else s.encodeOut o o.dt (s.fp8Sat g.slice) hidden vals
    match s.writeSum g x o j.unit off bits with
    | (s, false) => s.shankFree place
    | (s, true) =>
      let s := (s.shankFree place).modColl g.handle fun o =>
        { o with vals := assocSet o.vals j.unit (patchSum ((o.value j.unit).getD []) off bits) }
      let s := s.granuleDone g j n q fun o out =>
        let o := o.take_ j.unit j.legs
        let o : CollOp := { o with coded := if j.cross then assocSet o.coded j.unit out else o.coded }
        let o := if final then o.finish j.unit else o
        if final && inBuf then o.wrote j.unit else o
      let ended := decide (n ≤ j.done + 64)
      let taken := (x.finals.filter fun u => inPlaceAt x o u = inPlaceAt x o j.unit).any fun u => o.final.contains u || o.written.contains u
      if ended ∧ g.endpoint ∧ !inBuf ∧ !final ∧ !taken then
        let sum := patchSum ((o.value j.unit).getD []) off bits
        s.collStart g.handle (.inPlace j.unit)
          (collAccess g (s.collAs o) (.inPlace j.unit) (inPlaceAt x o j.unit) sum.length true sum false)
      else s

/-- One granule of a job, and what it makes possible. -/
def State.jobStep (s : State) (g : Group) (o : CollOp) (j : CollJob) (hidden : Bool) : State :=
  let s := match j.kind with
    | .reduce => s.reduceGranule g o j hidden
    | .enter => s.enterGranule g o j hidden
    | _ => s.recodeGranule g o j hidden
  s.collPump g.handle

/-- The unit that a service's granule runs on: the Matrix Tile for the products of LOWRANK, otherwise the engine (R270, R285). -/
def Service.unitOf (v : Service) (unit : Nat) : Nat := if v.opcode = Op.lowrank ∧ (v.step = 2 ∨ v.step = 5) then 4 else unit

/-- A granule of a service's arithmetic on a unit of a cluster, which SERVICE_PIECE and LOWRANK_STEP compute: a first mismatch is
recomputed on the same unit, a second there takes the arithmetic out of service (R268, R269). While one is recomputed, the service
writes nothing of that cluster. -/
def State.svcGranule (s : State) (cluster unit : Nat) (mismatch : Bool) : State :=
  let mine (m : SvcMismatch) : Bool := m.cluster = cluster && m.unit = unit
  let drop (s : State) : State := { s with work.recomputing := s.work.recomputing.filter fun m => !mine m }
  match s.work.recomputing.find? mine with
  | some m =>
    match s.work.services.find? fun v => v.q = m.q && v.count = m.count && v.usesArith cluster with
    | none => drop s
    | some v =>
      if mismatch then ((drop s).noteMismatch cluster (v.unitOf unit) false).arithFail cluster (v.unitOf unit) m.at_ v.opcode v.q
      else drop s
  | none =>
    match s.work.services.find? fun v => v.usesArith cluster && !(v.opcode = Op.lowrank && isCollStep v.step) with
    | some v =>
      if mismatch then
        let s := s.noteMismatch cluster (v.unitOf unit) true
        { s with work.recomputing := s.work.recomputing ++ [⟨cluster, unit, v.q, v.count, s.time.now⟩] }
      else s
    | none => s

/-- Arithmetic of a cluster computes now: not in thermal critical, and not while the cluster sleeps (R22, R278). -/
def State.computes (s : State) (cluster : Nat) : Bool := s.arithRuns && s.awake cluster

/-- REDUCTION_GRANULE (R267): one check granule of the oldest reduction on a cluster, or of a service there, with the checks that its
residue units make (R266). A granule that first mismatched is recomputed by the engine that found it (R268). -/
def execReductionGranule (cluster : Fin 8) (unit : Fin 4) (checks : List ResidueCheck) (s : State) : Result :=
  let mismatch := checks.any fun c => !checkPasses c
  if !s.computes cluster then .next s
  else match s.jobOn cluster with
  | none => .next (s.svcGranule cluster unit mismatch).settle
  | some (g, o, j) =>
    if j.mism.any fun m => m.1 ≠ unit.val then .next s
    else if stochastic o ∧ s.keys.drbgHalted then .next s
    else if !mismatch then .next (s.jobStep g o j (checks.any checkMisses)).settle
    else match j.mism with
      | none =>
        let note (k : CollJob) : CollJob := if k.unit = j.unit then { k with mism := some (unit.val, s.time.now) } else k
        .next ((s.noteMismatch cluster unit true).modColl g.handle fun o => { o with jobs := o.jobs.map note })
      | some t => .next ((s.noteMismatch cluster unit false).arithFail cluster unit t.2 (collOpcode o) o.q).settle

/-- Multiply an arrived block and write its rows of C (R246). -/
def State.multiplyBlock (s : State) (g : Group) (o : CollOp) (x : Shape) (r b : List Byte) (block : Nat) (hidden : Bool) : State :=
  let m := recM r
  let k := recK r
  let n := recN r
  let a := ((x.pieceUnits block).map fun u => (o.value u).getD []).flatten
  let c := matMul (isMx o.dt) m k n (decodeData o.dt a) (decodeData o.dt b)
  let narrow := stochastic o && recOut r ≠ 0
  let bytes := encodeData (if recOut r = 0 then DT.f32 else DT.bf16) true (draws narrow s.freeCount) c
  let (s, bytes) := ({ s with freeCount := s.freeCount + (if narrow then c.length else 0) } : State).putOut hidden bytes
  let s := s.modColl g.handle fun o => { o with tiles := o.tiles.filter fun t => t.block ≠ block }
  (s.collStart g.handle (.rows block)
    (collAccess g (s.collAs o) (.rows block) (recC r + block * bytes.length) bytes.length true bytes false)).collPump g.handle

/-- Check granules of a block's product: 64 × 64 outputs over a K segment of at most 2,048 (R250, R267). -/
def tileGranules (r : List Byte) : Nat := ceilDiv (recM r) 64 * ceilDiv (recN r) 64 * ceilDiv (recK r) 2048

/-- A granule of a block mismatches on a cluster's tile: the first time it is recomputed there, the second time the cluster's
arithmetic leaves service, and the operation ends with RESIDUE_FAULT (R268, R269). -/
def State.tileMismatch (s : State) (group : Nat) (o : CollOp) (block cluster granule : Nat) : State :=
  let t := (o.tiles.find? fun t => t.block = block).getD { block, cluster }
  match assoc t.mism granule with
  | none =>
    let t := { t with mism := t.mism ++ [(granule, s.time.now)] }
    (s.noteMismatch cluster 4 true).modColl group fun o => { o with tiles := (o.tiles.filter fun t => t.block ≠ block) ++ [t] }
  | some t => (((s.noteMismatch cluster 4 false).arithFail cluster 4 t (collOpcode o) o.q).collFail group Status.residueFault).settle

/-- GATHER_MULTIPLY_BLOCK (R246): a Matrix Tile of a cluster in service takes a block that has arrived, with the checks of its granules
(R266). One that fails is recomputed; the rows of C are written once every granule has passed, by the tile that holds the
block's operands (R267, R268). -/
def execGatherMultiplyBlock (group : Nat) (block : Nat) (cluster : Fin 8) (checks : List (Nat × ResidueCheck)) (s : State) :
    Result :=
  match s.findGroup group with
  | none => .next s
  | some g =>
    match g.op with
    | none => .next s
    | some o =>
      let x := s.shape g o
      match o.record, o.bmat with
      | some r, some b =>
        let here := (x.pieceUnits block).all fun u => o.final.contains u && (discards o || o.written.contains u)
        if o.kind ≠ CK.gatherMultiply ∨ o.phase ≠ .data ∨ x.n ≤ block ∨ !here ∨ o.rows.contains block
            ∨ s.collWaiting group (.rows block) ∨ s.arithOutOf cluster ∨ !s.computes cluster
            ∨ o.tiles.any (fun t => t.block = block && decide (t.cluster ≠ cluster.val)) ∨ (stochastic o ∧ s.keys.drbgHalted) then .next s
        else match (checks.find? fun c => !checkPasses c.2).map (·.1) with
          | none => .next (s.multiplyBlock g o x r b block (checks.any fun c => checkMisses c.2)).settle
          | some k => if tileGranules r ≤ k then .next s else .next (s.tileMismatch group o block cluster k)
      | _, _ => .next s

/-! ## Registration (R220, R221) -/

/-- GROUP_REG at the registrar; a worker is none, and drops it. -/
def execGroupReg (a : Arrival) (name : Word64) (count rank : Nat) (dereg : Bool) (digest : Word64) (t : Trailer) (s : State) :
    Result :=
  .next (s.guardedCtrl a (.groupReg name count rank dereg digest) t fun s src seq =>
    if s.last.role = 0 then s
    else if dereg then
      let e := ((s.findReg name).map (·.epoch)).getD 0
      (s.deregister name rank).answerCtrl a src (.groupRegAns name 2 e) seq
    else
      let (s, st, e) := s.register src name count rank digest
      s.answerCtrl a src (.groupRegAns name st e) seq)

/-- The group a GROUP_REG_ANS is for: the one whose registration it answers. -/
def State.regAnswered (s : State) (src : Coord) (seq : Word32) (name : Word64) : Option (Nat × Bool) :=
  (s.trans.ctrlOut.find? fun o => o.seq = seq && o.dst = src && o.conn.isNone).bind fun o =>
    match o.msg with
    | .groupReg n _ rank dereg _ => if n = name then some (rank, dereg) else none
    | _ => none

/-- GROUP_REG_ANS at the member: GROUP_CREATE ends with the epoch, or with COLL_MISMATCH or NO_RESOURCES. -/
def execGroupRegAns (a : Arrival) (name : Word64) (status : Nat) (epoch : Word32) (t : Trailer) (s : State) : Result :=
  .next (s.guardedCtrl a (.groupRegAns name status epoch) t fun s src seq =>
    match s.regAnswered src seq name with
    | none => s
    | some (rank, dereg) =>
      let s := s.dropCtrl fun o => o.seq = seq && o.dst = src && o.conn.isNone
      match s.work.groups.find? fun g => g.params.name = name && g.me = rank && !g.registered with
      | none => s
      | some g =>
        if dereg then s
        else if status = 1 then s.groupFails g.handle Status.collMismatch
        else if status ≠ 0 then s.groupFails g.handle Status.noResources
        else
          let s := s.modGroup g.handle fun g => { g with registered := true, epoch, creator := none }
          let s := s.respondTo g.creator Status.success [g.handle, epoch.toNat, g.home, if g.endpoint then 1 else 0]
          (s.openGroupEnds g.handle).groupReady g.handle)

/-- EPOCH at a member, from the group's registrar: the group becomes Broken (R221). -/
def execEpoch (a : Arrival) (name : Word64) (epoch : Word32) (t : Trailer) (s : State) : Result :=
  .next (s.guardedCtrl a (.epoch name epoch) t fun s src seq =>
    let hit (g : Group) : Bool :=
      g.params.name = name && g.registered && g.epoch ≠ epoch && g.state ≠ .broken && s.managerFor (g.members.headD (0, 0)).1 = src
    let gs := s.work.groups.filter hit
    (gs.foldl (fun s g => s.breakGroup g.handle Status.collAborted Status.collAborted 0 true) s).ackCtrl a src seq).settle

/-! ## Mailbox commands -/

/-- GRP_QUOTA_SET (R218). -/
def State.grpQuotaSet (s : State) (slice src dst amount : Nat) : State × Status × List Nat :=
  if slice ≠ 0 then (s, Status.localAccess, [])
  else if 512 ≤ src ∨ 512 ≤ dst then (s, Status.descMalformed, [])
  else if s.groupQuota src < amount ∨ s.groupQuota src - amount < s.groupsOf src then (s, Status.noResources, [])
  else
    let q := assocSet s.work.quota src (s.groupQuota src - amount)
    let s := { s with work.quota := q }
    ({ s with work.quota := assocSet s.work.quota dst (s.groupQuota dst + amount) }, Status.success, [])

def execGrpQuotaSet (slice : Fin 512) (tag : Word32) (src dst amount : Nat) (s : State) : Result :=
  .next (s.command slice tag MbxOp.grpQuotaSet fun s => s.grpQuotaSet slice src dst amount)

/-- GROUP_CREATE (R219). -/
def execGroupCreate (slice : Fin 512) (tag : Word32) (p : GroupParams) (s : State) : Result :=
  match s.take slice tag MbxOp.groupCreate with
  | (s, false) => .next s
  | (s, true) => .next (s.groupBegin slice tag p).settle

/-- GROUP_DESTROY (R224). -/
def State.groupDestroy (s : State) (slice handle : Nat) : State × Status × List Nat :=
  match s.findGroup handle with
  | none => (s, Status.localAccess, [])
  | some g =>
    if g.slice ≠ slice then (s, Status.localAccess, [])
    else if g.state ≠ .ready ∧ g.state ≠ .broken then (s, Status.busy, [])
    else
      let registrar := s.managerFor (g.members.headD (0, 0)).1
      let s := s.sendCtrl registrar (.groupReg g.params.name g.n g.me true g.digest)
      (s.dropGroup handle, Status.success, [])

def execGroupDestroy (slice : Fin 512) (tag : Word32) (handle : Nat) (s : State) : Result :=
  .next (s.command slice tag MbxOp.groupDestroy fun s => s.groupDestroy slice handle)

/-- COLL_ABORT (R240). -/
def State.collAbort (s : State) (slice handle : Nat) : State × Status × List Nat :=
  match s.findGroup handle with
  | none => (s, Status.localAccess, [])
  | some g =>
    if g.slice ≠ slice then (s, Status.localAccess, [])
    else if g.state = .broken then (s, Status.success, [])
    else
      let seq := (g.op.map (·.seq)).getD (g.nextSeq - 1)
      let s := s.tellAll g g.neighbours (.abort (BitVec.ofNat 64 seq) Status.collAborted g.me)
      (s.breakGroup handle Status.collAborted Status.collAborted g.me false, Status.success, [])

def execCollAbort (slice : Fin 512) (tag : Word32) (handle : Nat) (s : State) : Result :=
  match s.take slice tag MbxOp.collAbort with
  | (s, false) => .next s
  | (s, true) =>
    let (s, st, info) := s.collAbort slice handle
    .next (s.respond (slice.val, tag) st info).settle

end Sys2Proof.Machine
end

