-- ==== Sys2Proof/Machine/Firmware.lean ====
section
/-! DEFINITION. Firmware: update packages, activation, confirmation, fallback, and firmware-only resets (R476 to R488). -/

namespace Sys2Proof.Machine

/-- A Last activation is between its first and last steps (R47). -/
def State.activating (s : State) : Bool := s.last.phase ≠ .idle

/-- FW_BEGIN. -/
def execFwBegin (slice : Fin 512) (tag : Word32) (kind length : Nat) (s : State) : Result :=
  .next <| s.command slice tag MbxOp.fwBegin fun s =>
    if slice ≠ 0 then (s, Status.localAccess, [])
    else if s.fw.update = 3 ∨ s.fw.update = 4 then (s, Status.busy, [])
    else match packageLimit kind with
      | none => (s, Status.descMalformed, [])
      | some most =>
        if most < length then (s, Status.descMalformed, [])
        else ({ s with fw.package := some { kind, length }, fw.update := 1 }, Status.success, [])

/-- FW_WRITE: one block, programmed into the slot that the package is for. -/
def execFwWrite (slice : Fin 512) (tag : Word32) (offset length : Nat) (buffer : ReadResult) (crc : Word32) (s : State) : Result :=
  .next <| s.command slice tag MbxOp.fwWrite fun s =>
    if slice ≠ 0 then (s, Status.localAccess, [])
    else match s.fw.package with
      | none => (s, Status.descMalformed, [])
      | some p =>
        if s.fw.update ≠ 1 ∨ length = 0 ∨ 65536 < length ∨ p.length < offset + length then (s, Status.descMalformed, [])
        else match buffer with
          | .ok b =>
            if crc32c (b.take length) ≠ crc ∨ b.length < length then (s.bump .fwmStatCrcRejects 0, Status.checkMismatch, [])
            else
              let p : FwPackage := { p with blocks := p.blocks ++ [(offset, b.take length)] }
              let s : State := { s with fw.package := some p }
              let i := if p.complete then some (readImage p.kind p.bytes) else none
              (if p.kind = 3 then s else s.putImage p.kind i, Status.success, [])
          | _ => (s, Status.xlateDenied, [])

/-- FW_CHECK. -/
def execFwCheck (slice : Fin 512) (tag : Word32) (s : State) : Result :=
  match s.take slice tag MbxOp.fwCheck with
  | (s, false) => .next s
  | (s, true) =>
    let answer (s : State) (c : Status) (d : Nat) : Result := .next (s.answer slice tag MbxOp.fwCheck c d [])
    if slice ≠ 0 then answer s Status.localAccess 0
    else match s.fw.package with
      | none => answer s Status.descMalformed 2
      | some p =>
        if s.fw.update ≠ 1 ∧ s.fw.update ≠ 2 then answer s Status.descMalformed 2
        else match s.checkPackage p with
          | .ok i => answer ({ s.putImage p.kind (some i) with fw.package := some { p with checked := true }, fw.update := 2 }) Status.success 0
          | .error (c, d, r) =>
            let s : State := { s.putImage p.kind none with fw.package := none, fw.update := 0 }
            let s : State := if r = 0 then s
              else { s with boot.failReason := r, boot.failObject := if p.kind = 1 then 1 else 2 }
            answer s c d

/-- FW_ACTIVATE: a stage loader's slot is named; a bundle's handover begins. Load verifies the image again, which nothing since FW_CHECK can
have changed. How long it takes until Quiesce begins is a free value (log entry 51). -/
def execFwActivate (slice : Fin 512) (tag : Word32) (driverConfirm : Bool) (s : State) : Result :=
  match s.take slice tag MbxOp.fwActivate with
  | (s, false) => .next s
  | (s, true) =>
    let answer (s : State) (c : Status) : Result := .next (s.answer slice tag MbxOp.fwActivate c 0 [])
    if slice ≠ 0 then answer s Status.localAccess
    else if s.emergency then answer s Status.fwDeferred
    else if s.activating then answer s Status.busy
    else match s.fw.package with
      | none => answer s Status.descMalformed
      | some p =>
        if !p.checked ∨ s.fw.update ≠ 2 then answer s Status.descMalformed
        else if p.kind = 1 then
          answer { s with boot := s.boot.point (fun d => { d with stageSlot := s.spareStage }), fw.package := none, fw.update := 0 } Status.success
        else
          .next { s.advanceFree with fw.update := 3, fw.switching := true, fw.quiesceAt := some (s.time.now + s.freeNow),
                                     fw.activator := some (slice.val, tag), fw.driverConfirm := driverConfirm,
                                     fw.confirmed := false, fw.selfTested := false }

/-- HANDOVER_SWITCH: the new image runs, and its health window begins. A reset of slice 0 that waited is carried out, and
takes the command with it (R376, R488). -/
def execHandoverSwitch (s : State) : Result :=
  if s.fw.switching then
    let who := s.fw.activator
    let s : State := { s.switchTo s.spareFw with fw.update := 4, fw.switching := false, fw.quiesceAt := none, fw.activator := none,
                                                 fw.windowEnd := some (s.time.now + 300000000000) }
    .next (((s.fwEvent 1).serveAllHeld.respondTo who Status.success []).intakeAll).settle
  else .next s

/-- CELL_COMPLEX_SWITCH. -/
def execCellComplexSwitch (cluster : Fin 8) (s : State) : Result :=
  if s.oldWork cluster then .next s
  else .next { s with fw.oldCells := s.fw.oldCells &&& ~~~((1 : BitVec 8) <<< cluster.val) }

/-- In the health window (R28): until Device Time has entered a tick after its end. -/
def State.inWindow (s : State) : Bool := s.fw.update = 4 && !(s.fw.windowEnd.any s.passed)

/-- FW_CONFIRM. -/
def execFwConfirm (slice : Fin 512) (tag : Word32) (s : State) : Result :=
  .next <| s.command slice tag MbxOp.fwConfirm fun s =>
    if slice ≠ 0 then (s, Status.localAccess, [])
    else if !s.inWindow ∨ !s.fw.selfTested then (s, Status.busy, [])
    else (({ s with fw.confirmed := true } : State).confirmFw, Status.success, [])

/-- HEALTH_CONFIRM: self-tests, imports and duties are done. -/
def execHealthConfirm (s : State) : Result :=
  if s.inWindow then
    let s : State := { s with fw.selfTested := true }
    if s.fw.driverConfirm ∧ !s.fw.confirmed then .next s else .next s.confirmFw
  else .next s

/-- HEALTH_WINDOW_EXPIRY: the window ends unconfirmed, or a self-test fails. `handBack` says that the cores answer and that
the old image takes their records. -/
def execHealthWindowExpiry (selfTestFailed : Bool) (handBack : Bool) (s : State) : Result :=
  if s.fw.update = 4 ∧ (selfTestFailed ∨ s.fw.windowEnd.any s.passed) then
    .next (s.fallBack (if selfTestFailed then 2 else 1) handBack)
  else .next s

/-- FW_STATUS: FWM_STATUS. -/
def execFwStatus (slice : Fin 512) (tag : Word32) (s : State) : Result :=
  .next <| s.command slice tag MbxOp.fwStatus fun s =>
    if slice ≠ 0 then (s, Status.localAccess, []) else (s, Status.success, [s.fwmStatus])

/-- FW_WATCHDOG_EXPIRY: in a handover the old image comes back, and in a health window the new one has failed. -/
def execFwWatchdogExpiry (s : State) : Result :=
  if s.fw.resetting then .next s
  else if s.fw.update = 3 then .next s.endHandover.beginFwReset
  else if s.fw.update = 4 then .next (s.fallBack 3 false)
  else .next s.beginFwReset

/-- No firmware slot verifies at a firmware-only reset: the part enters Recovery (R449), and all it ran stops (DEDUCED, log entry 51). -/
def State.recover (s : State) : State :=
  let b := s.boot
  ({ s.stopUnits with boot.failReason := b.failReason, boot.failObject := b.failObject } : State).enterRecovery

/-- FIRMWARE_RESET_DONE: the boot slot's firmware is verified, or else the other's (R446, R448, R450), and runs; it answers what was not
committed, and tells of a low top tree as at each boot (R457). -/
def execFirmwareResetDone (s : State) : Result :=
  if s.fw.resetting then
    let update := if s.fw.update = 5 then (if s.fw.package.isSome then 1 else 0) else s.fw.update
    match s.bootImage 2 s.boot.fwSlot with
    | (s, none) => .next s.recover
    | (s, some (slot, _)) =>
      let s := s.switchTo slot
      let s : State :=
        { s with fw.resetting := false, fw.update := update, fw.oldCells := 0, boot.fwFallback := decide (slot ≠ s.boot.fwSlot),
                 work.services := s.work.services.map fun v => { v with old := false } }
      .next (((s.deferTaken.fwEvent 5).tellLow).intakeAll).settle
  else .next s

end Sys2Proof.Machine
end

