-- ==== Sys2Proof/Machine/Keys.lean ====
section
/-! DEFINITION. Key commands (R413 to R420), the Guard Cipher Engines (R424) and the DRBG (R423). -/

namespace Sys2Proof.Machine

def KeyState.code : KeyState → Nat
  | .empty => 0
  | .loaded => 1
  | .warned => 2
  | .exhausted => 3

/-- KEY_INFO: kind, state, KeyId, next counter and the ends that name the slot. -/
def execKeyInfo (slice : Fin 512) (tag : Word32) (t : KeyTarget) (s : State) : Result :=
  .next <| s.command slice tag MbxOp.keyInfo fun s =>
    if !s.slotOk slice t then (s, Status.descMalformed, [])
    else
      let k := s.slotNow slice t
      (s, Status.success,
        [k.kind, k.state.code, k.keyId.toNat, k.next, if t.kind = 0 then 0 else s.endsNaming slice t.slot])

/-- KEY_ERASE: of an own slot, or by slice 0 of any. -/
def execKeyErase (slice : Fin 512) (tag : Word32) (owner : Fin 512) (t : KeyTarget) (s : State) : Result :=
  .next <| s.command slice tag MbxOp.keyErase fun s =>
    if slice ≠ 0 ∧ owner ≠ slice then (s, Status.localAccess, [])
    else if !s.slotOk owner t then (s, Status.descMalformed, [])
    else if (t.kind ≠ 0 ∧ s.endsNaming owner t.slot ≠ 0)
        ∨ (t.kind = 0 ∧ s.keys.guardJobs.any fun j => j.slice = owner.val && j.parent = t.slot) then (s, Status.busy, [])
    else (s.zeroize owner t.slot (t.kind = 0), Status.success, [])

/-- KEY_ROOT_SET: once after each MOD_RESET_N. -/
def execKeyRootSet (slice : Fin 512) (tag : Word32) (digest : BitVec 384) (s : State) : Result :=
  .next <| s.command slice tag MbxOp.keyRootSet fun s =>
    if slice ≠ 0 then (s, Status.localAccess, [])
    else if s.keys.rootDigest.isSome then (s, Status.busy, [])
    else ({ s with keys.rootDigest := some digest }, Status.success, [])

/-- KEY_IMPORT: the blob is unwrapped by the Guard Cipher Engines. -/
def execKeyImport (slice : Fin 512) (tag : Word32) (parent : Nat) (t : KeyTarget) (blob : List Byte) (s : State) : Result :=
  match s.take slice tag MbxOp.keyImport with
  | (s, false) => .next s
  | (s, true) => .next (s.beginKey slice tag parent t (.unwrap blob))

/-- KEY_DERIVE. -/
def execKeyDerive (slice : Fin 512) (tag : Word32) (parent : Nat) (t : KeyTarget) (label context : BitVec 256) (keyId : Word32)
    (s : State) : Result :=
  match s.take slice tag MbxOp.keyDerive with
  | (s, false) => .next s
  | (s, true) => .next (s.beginKey slice tag parent t (.derive label context keyId))

/-- A KEY_PROVISION fulfils R416: it comes in an established session of the port, authenticated under the root of R415, and names an Empty
guard slot of a slice bound to a function of the port. -/
def State.provisionOk (s : State) (port : Nat) (session : Nat) (owner slot : Nat) : Bool :=
  let x := s.slice owner
  (s.boot.sessions.any fun y => y.port = port && y.session = session && y.established && y.root.isSome && y.root = s.keys.rootDigest)
    && x.state ≠ .unbound && x.port = port && s.slotOk owner ⟨0, slot, 0⟩ && (s.slotNow owner ⟨0, slot, 0⟩).state = .empty

/-- KEY_PROVISION as it stands once its message is open. Which ERROR code answers one that breaks the conditions is free. -/
def State.provision (s : State) (port session owner slot : Nat) (keyId : Word32) (key : BitVec 256) : State :=
  if s.provisionOk port session owner slot then (s.loadSlot owner 0 slot key 0 keyId).emit (.spdm port session (.answer []))
  else s.advanceFree.emit (.spdm port session (.error (s.freeNow % 256) 0))

/-- KEY_PROVISION: its session's AEAD protects it, so that the Security Core opens it with the Guard Cipher Engines first (R416, R424).
Outside a session it is refused. -/
def execKeyProvision (port : Fin 2) (session : Nat) (owner : Fin 512) (slot : Nat) (keyId : Word32) (key : BitVec 256) (s : State) :
    Result :=
  if s.inSession port session then .next (s.openMessage port session (.provision port session owner slot keyId key))
  else .next (s.advanceFree.emit (.spdm port session (.error (s.freeNow % 256) 0)))

/-- The last operation of a sequence is done. -/
def State.guardDone (s : State) (j : GuardJob) : State :=
  match j.work with
  | .message p n req => s.spdmServe p n req
  | .provision p n owner slot keyId key => s.provision p n owner slot keyId key
  | _ => s.finishJob j

/-- GUARD_CIPHER_OP: an engine takes the oldest entry of the queue and computes its block twice; the sequence's next one takes its place
behind those that wait (R425). Without random bits the engine waits. -/
def execGuardCipherOp (engine : Fin 4) (disagree : Bool) (s : State) : Result :=
  match s.keys.guardQueue with
  | [] => .next s
  | e :: rest =>
    if s.keys.guardOut.getLsbD engine ∨ s.keys.drbgHalted then .next s
    else
      let t : State := { s with keys.guardQueue := rest, keys.guardJobs := s.keys.guardJobs.filter fun x => x.id ≠ e.job }
      match s.keys.guardJobs.find? fun x => x.id = e.job with
      | none => .next t.feedGuard
      | some j =>
        if disagree then .next (t.guardFault engine j)
        else if j.left ≤ 1 then .next (t.feedGuard.guardDone j)
        else .next ({ t with keys.guardJobs := t.keys.guardJobs ++ [{ j with left := j.left - 1, queued := false }] } : State).feedGuard

/-- DRBG_HEALTH_FAIL: output stops. -/
def execDrbgHealthFail (s : State) : Result :=
  if s.keys.drbgHalted then .next s
  else .next (({ s with keys.drbgHalted := true, keys.drbgNext := s.time.now + 1000000000 } : State).raise
    { slice := 0, code := EventCode.drbgHalt, info := 1 })

/-- DRBG_RETEST: every second, until the source passes. -/
def execDrbgRetest (pass : Bool) (s : State) : Result :=
  if !s.keys.drbgHalted ∨ !s.due s.keys.drbgNext then .next s
  else if pass then
    let s := ({ s with keys.drbgHalted := false } : State).raise { slice := 0, code := EventCode.drbgHalt }
    .next (((s.work.groups.filter (·.endsDue)).foldl (fun s g => (s.openGroupEnds g.handle).groupReady g.handle) s).settle)
  else .next { s with keys.drbgNext := s.keys.drbgNext + 1000000000 }

end Sys2Proof.Machine
end

