-- ==== Sys2Proof/Machine/Last.lean ====
section
/-! DEFINITION. The Last: writing, checking and activating one (R44 to R50), and the role (R24, R25). -/

namespace Sys2Proof.Machine

/-- Put a block into a slot's bytes; a gap before it reads all ones, as erased flash does. -/
def putBlock (b : List Byte) (offset : Nat) (x : List Byte) : List Byte :=
  overlay (b ++ List.replicate (offset - b.length) 0xFF) (offset, x)

/-- The block of a LAST_WRITE goes into the inactive slot. A write that leaves no valid magic makes InactiveState 0b00, whether or not the
slot had been checked before (DESIGN CHOICE, log entry 78). -/
def State.writeLast (s : State) (slot offset : Nat) (x : List Byte) : State :=
  s.modLastSlot slot fun y =>
    let b := putBlock y.bytes offset x
    { bytes := b, state := if leField b 0 3 = 0x7A31F0C4 then 1 else 0 }

/-- LAST_WRITE (R46, R473): at most 64 KiB, within the slot's 1 MiB. `slot` is true for slot B. -/
def execLastWrite (slice : Fin 512) (tag : Word32) (slot : Bool) (offset : Nat) (buffer : ReadResult) (crc : Word32) (s : State) :
    Result :=
  .next <| s.command slice tag MbxOp.lastWrite fun s =>
    if slice ≠ 0 then (s, Status.localAccess, [])
    else if slot.toNat = s.last.activeSlot then (s, Status.descMalformed, [])
    else match buffer with
      | .ok b =>
        if b.isEmpty ∨ 65536 < b.length ∨ 1048576 < offset + b.length then (s, Status.descMalformed, [])
        else if crc32c b ≠ crc then (s.bump .fwmStatCrcRejects 0, Status.checkMismatch, [])
        else (s.writeLast slot.toNat offset b, Status.success, [])
      | _ => (s, Status.xlateDenied, [])

/-- LAST_CHECK (R44, R46): the code that answers a rejection the spec leaves open. -/
def execLastCheck (slice : Fin 512) (tag : Word32) (s : State) : Result :=
  .next <| s.command slice tag MbxOp.lastCheck fun s =>
    if slice ≠ 0 then (s, Status.localAccess, [])
    else match s.checkSlot s.spareLast with
      | (s, .ok _) => (s, Status.success, [])
      | (s, .error _) => (s.advanceFree, BitVec.ofNat 8 s.freeNow, [])

/-- LAST_ACTIVATE (R47, R48): accepted, a pause notice goes to every peer with an open connection. For a slot that is not
checked good the spec leaves the code open. -/
def execLastActivate (slice : Fin 512) (tag : Word32) (s : State) : Result :=
  match s.take slice tag MbxOp.lastActivate with
  | (s, false) => .next s
  | (s, true) =>
    let answer (s : State) (c : Status) : Result := .next (s.answer slice tag MbxOp.lastActivate c 0 [])
    let l := parseLast (s.lastSlot s.spareLast).bytes
    if slice ≠ 0 then answer s Status.localAccess
    else if s.emergency then answer s Status.fwDeferred
    else if s.fw.update = 3 ∨ s.activating then answer s Status.busy
    else if (s.lastSlot s.spareLast).state ≠ 2 then answer s.advanceFree (BitVec.ofNat 8 s.freeNow)
    else match s.lastInUse l with
      | some f => answer (s.rejectLast f) Status.noResources
      | none =>
        let s : State := { s with last.phase := .notices s.time.now slice tag l }
        .next (s.openPeers.foldl (fun s c => s.sendCtrl c (.pause 150000 l.serial)) s)

/-- LAST_PAUSE_START (R48, R49): every notice is acknowledged, or 5 ms have passed. -/
def execLastPauseStart (s : State) : Result :=
  match s.last.phase with
  | .notices since slice tag l =>
    if s.noticesOut ∧ !s.due (since + 5000000) then .next s
    else
      let s := ({ s with last.phase := .paused s.time.now slice tag l } : State).guardClear.writeBackAll
      .next ((s.changedPorts l).foldl (fun s p => (s.goDown p 4).modPort p fun x => { x with link := .down }) s).settle
  | _ => .next s

/-- LAST_RESUME (R49): the new Last is in force, resume notices go out, ends that have packets to send fetch their contexts, and what
waited is served. LST_STATUS.Fallback is clear again, since
the Last in force is now the pointed slot's (DESIGN CHOICE, log entry 78). -/
def execLastResume (s : State) : Result :=
  match s.last.phase with
  | .paused _ slice tag l =>
    let ports := s.changedPorts l
    let slot := s.spareLast
    let s := ({ s with last.phase := .idle, last.fallback := false, boot := s.boot.lastActivated slot l } : State).lastInForce slot l
    let s := ports.foldl (fun s p => s.startTraining p) s
    let s := s.openPeers.foldl (fun s c => s.sendCtrl c (.resume l.serial false)) s
    let s := s.respond (slice, tag) Status.success []
    let s := s.trans.conns.foldl (fun s c => s.kick c.index) s
    .next (s.serveAllHeld.intakeAll).settle
  | _ => .next s

/-- ROLE_SET (R25). Role 0b11 is reserved. -/
def execRoleSet (slice : Fin 512) (tag : Word32) (role : Nat) (epoch : Word32) (s : State) : Result :=
  .next <| s.command slice tag MbxOp.roleSet fun s =>
    if 3 ≤ role ∨ epoch ≤ s.last.roleEpoch then (s, Status.descMalformed, [])
    else ({ s.setRole role epoch with last.roleSet := some epoch }, Status.success, [])

end Sys2Proof.Machine
end

