-- ==== Sys2Proof/Machine/LocalCmds.lean ====
section
/-! DEFINITION. COPY, SCAN and raw frames (R312 to R314, R322, R323, R434 to R438), and near and far memory (R292 to R311). -/

namespace Sys2Proof.Machine

/-! ## COPY -/

/-- COPY (R312, R313). -/
def execCopy (q : Nat) (count : Word32) (s : State) : Result :=
  match s.ready q count Op.copy with
  | none => .next s
  | some (x, d) =>
    let e := d.entry
    let n := Desc.copyLength e
    let src := Desc.srcOffset e
    let dst := Desc.dstOffset e
    if n = 0 ∨ (src < dst + n ∧ dst < src + n) then .next (s.endWith q count Status.descMalformed)
    else match (s.localRange x.slice x.as src n false).orElse fun _ => s.localRange x.slice x.as dst n true with
      | some c => .next (s.endWith q count c)
      | none => .next ((s.modStarted q count fun d => { d with run := true }).copyIssue q count 64).settle

/-- COPY_UNIT_DONE (R313): an issued unit's source is read, or arrives from its host, and the unit is written. The far-tier access of a
COPY that a slice reset has stopped ends here without moving a byte (R376). -/
def execCopyUnitDone (q : Nat) (count : Word32) (unit : Nat) (src : ReadResult) (s : State) : Result :=
  match s.findStarted q count with
  | none => .next (s.farDone q count unit)
  | some (x, d) =>
    let writing := s.xlate.waiting.any fun w => w.access.use = .copyWrite q count unit
    if Desc.opcode d.entry ≠ Op.copy ∨ !d.run ∨ d.ended.isSome ∨ d.issued ≤ unit ∨ d.units.contains unit
        ∨ (d.data.any fun y => y.1 = unit) ∨ writing then .next s
    else match s.xlate.waiting.find? fun w => w.access.use = .copyRead q count unit with
      | some w =>
        match w.on with
        | .hostRead _ =>
          let (s, r) := s.readOutcome w src
          let s := s.endHostRead w
          .next (s.deliver w.access (if w.access.gen = s.gen w.access.slice then r else .stale)).settle
        | _ => .next s
      | none =>
        let far := s.farOf q count unit
        let (s, r) := s.unitAccess (far.bind (·.src)) (copyRead x d unit)
        let s := if far.any fun f => f.dst.isNone then s.farDone q count unit else s
        .next (s.copyReadEnded q count unit r).settle

/-! ## SCAN -/

/-- SCAN (R434 to R437). A SCAN whose context is busy waits to start; what R435 asks of its context is judged when it starts. -/
def execScan (q : Nat) (count : Word32) (s : State) : Result :=
  match s.ready q count Op.scan with
  | none => .next s
  | some (x, d) =>
    let e := d.entry
    let h := homeOf q
    let c := s.checkCtx h (scanChannel e)
    let refuse (code : Status) : Result := .next ((s.bump .cluChkStatScans h).endWith q count code)
    if s.scanMalformed e then refuse Status.descMalformed
    else if c.scanning then .next s
    else if !scanInit e ∧ !c.valid then refuse Status.descMalformed
    else if !scanInit e ∧ c.owner ≠ some (x.slice, x.gen) then refuse Status.localAccess
    else
      let bad := (s.localRange x.slice x.as (Desc.f64 e 16) (scanLength e) false).orElse fun _ =>
        if scanWrite e then s.localRange x.slice x.as (scanResultAt e) 8 true else none
      match bad with
      | some code => refuse code
      | none =>
        let c : CheckCtx :=
          if scanInit e then { c with value := algInit (scanAlg e), algorithm := scanAlg e, owner := some (x.slice, x.gen),
                                      valid := true, scanning := true }
          else { c with scanning := true }
        let s := (s.setCheckCtx c).modStarted q count fun d => { d with run := true }
        .next (s.scanRun q count (scanFuel e)).settle

/-- A write of SLC_CHECK_VAL (R436, R437): loads the Single-mode context, unless another slice owns it. With a SCAN in it, the write takes
effect after the SCAN. -/
def State.loadCheck (s : State) (k : Nat) (value : Word64) : State :=
  let c := s.checkCtx (s.fld .slcCheckSelCluster k) 0
  let alg := s.fld .slcCheckSelAlgorithm k
  let mine := c.owner.all fun o => o.1 = k
  if s.multiMode ∨ !mine then s
  else if c.scanning then s.setCheckCtx { c with load := some (k, alg, value) }
  else s.setCheckCtx (s.loaded c k alg value)

/-- SLC_CHECK_VAL_WRITE. -/
def execSlcCheckValWrite (f : Func) (slice : Fin 512) (value : Word64) (s : State) : Result :=
  if s.bound slice f then .next (s.loadCheck slice value) else .next s

/-! ## Raw frames -/

/-- RAW_SEND (R323). -/
def execRawSend (q : Nat) (count : Word32) (s : State) : Result :=
  match s.ready q count Op.rawSend with
  | none => .next s
  | some (x, d) =>
    let e := d.entry
    if s.rawMalformed e then .next (s.endWith q count Status.descMalformed)
    else
      let inline_ := Desc.inlineLength e ≠ 0
      let bad := (if inline_ then none else s.localRange x.slice x.as (Desc.localOffset e) (rawLength e) false).orElse fun _ =>
        if rawStamp e then s.localRange x.slice x.as (rawStampAt e) 16 true else none
      match bad with
      | some c => .next (s.endWith q count c)
      | none =>
        let s := s.modStarted q count fun d => { d with run := true }
        if inline_ then .next (s.rawSourced q count (Desc.inlineData e))
        else
          let (s, r) := s.access { cluster := homeOf q, slice := x.slice, gen := x.gen, as := x.as, offset := Desc.localOffset e,
                                   length := rawLength e, use := .source q count 0 }
          .next (s.sourceEnded q count 0 r).settle

/-- RAW_RECV (R322): the buffer is posted. -/
def execRawRecv (q : Nat) (count : Word32) (s : State) : Result :=
  match s.ready q count Op.rawRecv with
  | none => .next s
  | some (x, d) =>
    let e := d.entry
    if !zeroBytes e 16 23 ∨ !zeroBytes e 36 63 ∨ rawBuf e % 64 ≠ 0 ∨ rawBufLen e < 80 then
      .next (s.endWith q count Status.descMalformed)
    else match s.localRange x.slice x.as (rawBuf e) (rawBufLen e) true with
      | some c => .next (s.endWith q count c)
      | none => .next (s.modStarted q count fun d => { d with run := true })

/-! ## Scrub and the error log (R303 to R305) -/

/-- A new pass begins, at a time. -/
def State.newPass (s : State) (passes at_ : Nat) : State :=
  { s with mem.scrubPos := 0, mem.passes := passes, mem.passAt := at_, mem.bad := s.mem.bad.map fun b => { b with logged := false } }

/-- The period of a pass in ns: PeriodHours, of which 0 is taken as 1 and more than 168 as 168 (R303). -/
def State.scrubPeriod (s : State) : Nat := clamp 1 168 (s.fld .memScrubCtrlPeriodHours 0) * 3600000000000

/-- Bytes that a burst reads: as many codewords as asked for, and at least what the pass owes by now if it is to end with its period
(R303, R304). -/
def State.scrubBytes (s : State) (codewords : Nat) : Nat :=
  let owed := nearBytes / 64 * (s.time.now - s.mem.passAt) / s.scrubPeriod * 64 - s.mem.scrubPos
  min (max (codewords * 64) owed) (nearBytes - s.mem.scrubPos)

/-- SCRUB_BURST (R303): the next codewords are read, as housekeeping of rank 3; a correctable one is written back, an uncorrectable one is
logged once in a pass. Once a pass has read every codeword, the next begins with the next period. -/
def execScrubBurst (codewords : Nat) (s : State) : Result :=
  if s.fld .memScrubCtrlEnable 0 = 0 ∨ s.time.now < s.mem.passAt ∨ (s.power.selfRefresh ∧ s.mem.scrubWake.any fun t => decide (s.time.now < t + 16000000000)) then .next s
  else
    let s : State := if s.power.selfRefresh then { s.touchNear with mem.scrubWake := some s.time.now } else s
    let n := s.scrubBytes codewords
    let s := s.shankUse 3 s.mem.scrubPos n
    let hit := (badIn s.mem.bad s.mem.scrubPos n).filter fun w => !w.logged
    let s := (s.repairAll 3 hit).1
    let pos := s.mem.scrubPos + n
    if nearBytes ≤ pos then .next (s.newPass (s.mem.passes + 1) (s.mem.passAt + s.scrubPeriod))
    else .next { s with mem.scrubPos := pos }

/-- A write of MEM_SCRUB_CTRL (R304) starts a new pass. -/
def State.setScrub (s : State) (value : Word64) : State := (s.storeReg .memScrubCtrl 0 value).newPass s.mem.passes s.time.now

/-- MEM_SCRUB_CTRL_WRITE (R304, R396). -/
def execMemScrubCtrlWrite (f : Func) (value : Word32) (s : State) : Result :=
  if s.isManager f then .next (s.setScrub (value.setWidth 64)) else .next s

/-- The log entry that MEM_ERRLOG_SEL selects. -/
def State.logEntry (s : State) : Option ErrEntry := s.mem.log[s.fld .memErrlogSelIndex 0]?

/-- MEM_ERRLOG_DATA1 of an entry. -/
def logData1 : Option ErrEntry → Word64
  | some e => BitVec.ofNat 64 (e.sym0 * 2 ^ 56 + e.sym1 * 2 ^ 48 + e.offset % 2 ^ 44)
  | none => BitVec.ofNat 64 (0xFFFF * 2 ^ 48)

/-- The entry shown is marked read. -/
def State.markRead (s : State) : State :=
  let k := s.fld .memErrlogSelIndex 0
  { s with mem.log := s.mem.log.zipIdx.map fun x => if x.2 = k then { x.1 with read := true } else x.1 }

/-- MEM_ERRLOG_DATA1_READ (R305, R396). -/
def execMemErrlogData1Read (f : Func) (s : State) : Result :=
  if s.isManager f then .next (s.markRead.emit (.readData f (logData1 s.logEntry))) else .next (s.emit (.readData f 0))

/-- An entry of the history as the response carries it: its stamp, stack and channel, source, symbols and offset. -/
def historyEntry (e : ErrEntry) : List Nat := [e.stamp, e.stack * 32 + e.channel, e.source, e.sym0, e.sym1, e.offset]

/-- MEM_HISTORY_READ (R305). `bufferOk` says that the buffer took the result (R473). -/
def execMemHistoryRead (slice : Fin 512) (tag : Word32) (bufferOk : Bool) (s : State) : Result :=
  .next (s.command slice tag MbxOp.memHistoryRead fun s =>
    if slice.val ≠ 0 then (s, Status.localAccess, [])
    else if !bufferOk then (s, Status.xlateDenied, [])
    else (s, Status.success, s.mem.history.flatMap historyEntry))

/-! ## The far tier (R307 to R311) -/

/-- What a set of devices behind one port decodes within a limit, in GiB: the ways and the capacity (R308). -/
def decodePort (devices : List CxlDevice) (limit : Nat) : Nat × Nat :=
  let n := devices.length
  let total := (devices.map (·.gib)).sum
  let even := ([1, 2, 4, 8] : List Nat).contains n && devices.all fun d => d.gib = (devices.head?.map (·.gib)).getD 0
  if even then (n, min total limit / n * n) else (0, min total limit)

/-- Rebuild the layout of both ports (R308). -/
def State.layoutFar (s : State) : State :=
  let d0 := (vget s.mem.far 0 {}).devices
  let d1 := (vget s.mem.far 1 {}).devices
  let (w0, c0) := decodePort d0 8192
  let (w1, c1) := decodePort d1 (min 8192 (12288 - c0))
  let p0 (p : FarPort) : FarPort := { p with baseGiB := 0, decodedGiB := c0, ways := w0 }
  let p1 (p : FarPort) : FarPort := { p with baseGiB := c0, decodedGiB := c1, ways := w1 }
  { s with mem.far := vmod (vmod s.mem.far 0 p0) 1 p1 }

/-- Devices in ascending order of their downstream port (R308). -/
def inPortOrder (ds : List CxlDevice) : List CxlDevice := (ds.mergeSort fun a b => a.downstream ≤ b.downstream).take 8

def State.farLink (s : State) (port : Nat) : State := s.raise { slice := 0, code := EventCode.farLink, object := port }

/-- FAR_ACCESS_TIMEOUT (R310). -/
def execFarAccessTimeout (id : Nat) (s : State) : Result :=
  match s.mem.farBusy.find? fun x => x.id = id with
  | none => .next s
  | some x =>
    if s.passed x.deadline then .next (s.copyFailed x.q x.count x.unit false Status.memUncorrectable).settle else .next s

/-- CXL_LINK_DOWN (R310): the port's range fails. -/
def execCxlLinkDown (port : Fin 2) (s : State) : Result :=
  if !(vget s.mem.far port {}).linkUp then .next s
  else
    let down (p : FarPort) : FarPort := { p with linkUp := false, inService := false, lanes := 0 }
    .next (({ s with mem.far := vmod s.mem.far port down } : State).farLink port)

/-- The same devices as before (R310). -/
def sameDevices (a b : List CxlDevice) : Bool := a.map (fun d => (d.serial, d.gib)) = b.map fun d => (d.serial, d.gib)

/-- A region of some slice lies in the far tier, in any state other than Free (R311). -/
def State.farInUse (s : State) : Bool := s.xlate.ranges.any fun e => e.state ≠ .free && e.tier = .far

/-- The CXL ports are out of reset: firmware runs, and MOD_RESET_N is high (R449, R524). -/
def State.cxlReleased (s : State) : Bool := s.board.resetN && s.boot.stage = 2

/-- CXL_LINK_UP (R308, R310): a port that has not been enumerated since the boot is enumerated and laid out, unless a region
already lies in the far tier; one that returns is in service only with the devices it had. -/
def execCxlLinkUp (port : Fin 2) (lanes : Nat) (devices : List CxlDevice) (s : State) : Result :=
  let ds := inPortOrder devices
  let was := vget s.mem.far port {}
  if was.linkUp ∨ !s.cxlReleased then .next s
  else if !was.enumerated ∧ !s.farInUse then
    let up (p : FarPort) : FarPort := { p with linkUp := true, inService := true, enumerated := true, lanes, devices := ds }
    .next ((({ s with mem.far := vmod s.mem.far port up } : State).layoutFar).farLink port)
  else
    let up (p : FarPort) : FarPort := { p with linkUp := true, inService := p.enumerated && sameDevices p.devices ds, lanes }
    .next (({ s with mem.far := vmod s.mem.far port up } : State).farLink port)

/-- FAR_RESCAN (R311). -/
def execFarRescan (slice : Fin 512) (tag : Word32) (devices0 devices1 : List CxlDevice) (s : State) : Result :=
  .next (s.command slice tag MbxOp.farRescan fun s =>
    if slice.val ≠ 0 then (s, Status.localAccess, [])
    else if s.farInUse then (s, Status.busy, [])
    else
      let set (ds : List CxlDevice) (p : FarPort) : FarPort :=
        { p with devices := if p.linkUp then inPortOrder ds else [], inService := p.linkUp, enumerated := true }
      (({ s with mem.far := vmod (vmod s.mem.far 0 (set devices0)) 1 (set devices1) } : State).layoutFar, Status.success, []))

end Sys2Proof.Machine
end

