-- ==== Sys2Proof/Machine/Mailboxes.lean ====
section
/-! DEFINITION. Mailboxes (R465 to R473): doorbell, enable, responses, MBX_INFO. -/

namespace Sys2Proof.Machine

/-- MBX_DOORBELL: a write of SLC_MBX_DB. `reqs` are the requests that the ring holds from the consumed count on, and `ok`
says that the Farig could read it. -/
def execMbxDoorbell (f : Func) (slice : Fin 512) (count : Word32) (ok : Bool) (reqs : List MbxRequest) (s : State) : Result :=
  let k := slice.val
  let m := s.mailbox k
  if !s.bound k f ∨ s.fld .slcMbxCtrlEnable k = 0 ∨ m.fault then .next s
  else if !ok ∨ s.ringsBlocked k then .next (s.mbxFault k)
  else
    let n := (count - m.consumed).toNat - m.intake.length
    let s := if s.inPause then { s with last.held := s.last.held ++ (reqs.take n).map fun _ => .request k } else s
    .next ((s.modMailbox k fun m => { m with intake := m.intake ++ reqs.take n }).intake k).serveBehind

/-- A write of SLC_MBX_CTRL. -/
def State.setMbxCtrl (s : State) (k : Nat) (value : Word64) : State :=
  let was := s.fld .slcMbxCtrlEnable k
  let s := s.storeReg .slcMbxCtrl k value
  if s.fld .slcMbxCtrlEnable k = 0 then s.modMailbox k fun m => { m with intake := [] }
  else if was = 1 then s
  else s.modMailbox k fun m => { m with consumed := 0, produced := 0, intake := [], fault := false }

/-- MBX_ENABLE. -/
def execMbxEnable (f : Func) (slice : Fin 512) (value : Word32) (s : State) : Result :=
  if s.bound slice f then .next (s.setMbxCtrl slice (value.setWidth 64)) else .next s

/-- MBX_RESPONSE: the oldest response goes to the ring; `ok` says that the Farig could write there. Responses wait while
firmware is away (R477, R484). -/
def execMbxResponse (slice : Fin 512) (ok : Bool) (s : State) : Result :=
  let k := slice.val
  let m := s.mailbox k
  match m.ready with
  | [] => .next s
  | r :: rest =>
    if m.fault ∨ s.fwAway ∨ m.writing.isSome then .next s
    else if !ok ∨ s.ringsBlocked k then .next (s.mbxFault k)
    else .next (s.writeResponse k r rest).serveBehind

/-- MBX_INFO: the majors accepted, the command limit, the contract level of the running image, and FWM_IMAGE. -/
def execMbxInfo (slice : Fin 512) (tag : Word32) (s : State) : Result :=
  .next <| s.command slice tag MbxOp.mbxInfo fun s =>
    let i := s.runningImage
    (s, Status.success, [1, 2, 8, i.major, i.minor, s.fwmImage])

end Sys2Proof.Machine
end

