-- ==== Sys2Proof/Machine/EgressOps.lean ====
section
/-! DEFINITION. The frame that a port sends next: the arbiter of an egress port (R211), the class 7 shaper (R203), the
DWRR stages (R202), and what starting a frame does. -/

namespace Sys2Proof.Machine

/-! ## The class 7 shaper (R203): tokens in hundredths of a byte, so that the cap's percentage is exact -/

def c7Depth : Nat := 16384 * 100

/-- Percentage of the port rate that class 7 may use. -/
def State.c7Cap (s : State) : Nat := (s.last.inForce.map (·.c7Cap)).getD 5

/-- Tokens of a port at the present. -/
def State.c7Now (s : State) (p : Nat) : Nat :=
  let x := s.port p
  min c7Depth (x.c7Tokens + (s.time.now - x.c7At) * portRate p * s.c7Cap)

def State.c7Refill (s : State) (p : Nat) : State :=
  let n := s.c7Now p
  s.modPort p fun x => { x with c7Tokens := n, c7At := s.time.now }

/-! ## Eligible frames -/

/-- A frame of classes 0 to 6 belongs to an end that is Paused (R180). -/
def State.endPaused (s : State) (t : TxFrame) : Bool :=
  decide (t.cls < 7) && (t.conn.bind s.findConn).any fun c => c.pausedUntil.isSome

/-- A frame may start: its end is not Paused (R180), its priority is not paused, and its lane is ready (R326, R333, R336). A standing wiring fault
leaves a port without data (R341), in a hit queued frames wait (R319), and in the pause of a Last activation classes 0
to 6 do (R49). -/
def State.mayStart (s : State) (p : Nat) (t : TxFrame) : Bool :=
  let x := s.port p
  !x.inHit && !(s.inPause && decide (t.cls < 7)) && !s.endPaused t && (t.cls = macClass || (x.wireFault = 0 && !s.pausedOn p t.cls && s.weltReady p t))

/-- The frame of class 7 in turn. -/
def State.c7Head (s : State) (p : Nat) : Option TxFrame := (s.port p).egress.find? fun t => t.cls = 7 && s.mayStart p t

/-- The resend in turn (R333): the oldest frame of those that wait to be resent. PFC does not hold it (R335). -/
def State.replayHead (s : State) (p : Nat) : Option ReplayFrame :=
  if (s.port p).inHit ∨ (s.port p).wireFault ≠ 0 then none
  else (s.port p).replay.find? fun r => r.again && !(s.inPause && decide (r.frame.cls < 7))

/-! ## DWRR (R202): a member is named by its class, by class and slice, or by class, slice and end -/

/-- The end that a frame belongs to: a connection's, a RAW_SEND queue's, or the port's own. -/
def TxFrame.endKey (t : TxFrame) : List Nat :=
  match t.conn, t.rawq with
  | some k, _ => [0, k]
  | none, some (q, _) => [1, q]
  | none, none => [2, 0]

def TxFrame.key (t : TxFrame) : Nat → List Nat
  | 0 => [t.cls]
  | 1 => [t.cls, t.slice]
  | _ => [t.cls, t.slice] ++ t.endKey

def classQuantum : List Fld :=
  [.prtSchedQuantumQuantumC0, .prtSchedQuantumQuantumC1, .prtSchedQuantumQuantumC2, .prtSchedQuantumQuantumC3,
   .prtSchedQuantumQuantumC4, .prtSchedQuantumQuantumC5, .prtSchedQuantumQuantumC6]

/-- Quantum of a stage in bytes: the class's, 16 KiB for a slice, one payload for an end. A RAW_SEND queue has the
largest payload. -/
def State.quantum (s : State) (p stage : Nat) (t : TxFrame) : Nat :=
  match stage with
  | 0 => match classQuantum[t.cls]? with
    | some f => max 1 (s.fldNow f p) * 1024
    | none => 1024
  | 1 => 16384
  | _ => match t.conn.bind s.findConn with
    | some c => c.payload
    | none => 8192

/-- The members of a stage among the frames, in turn order: those that have had turns, then the others as their first
frames were queued. -/
def stageMembers (turns : List (List Nat × Nat)) (stage : Nat) (ts : List TxFrame) : List (List Nat) :=
  let keys := (ts.map fun t => t.key stage).eraseDups
  (turns.map (·.1)).filter (fun k => keys.contains k) ++ keys.filter fun k => !(turns.any fun m => m.1 = k)

/-- Serve a stage: the member in turn sends while its deficit covers its next frame; otherwise it gains its quantum and
goes behind the others. `next` gives a member's next frame. -/
def dwrr (quantum : List Nat → Nat) (len : List Nat → Nat) : Nat → List (List Nat × Nat) → List (List Nat × Nat)
  | 0, ms => ms
  | fuel + 1, ms =>
    match ms with
    | [] => []
    | (k, d) :: r => if len k ≤ d then (k, d - len k) :: r else dwrr quantum len fuel (r ++ [(k, d + quantum k)])

/-- One stage: the turns after it and the member that sends. -/
def State.serveStage (s : State) (p stage : Nat) (turns : List (List Nat × Nat)) (ts : List TxFrame)
    (next : List Nat → Option TxFrame) : List (List Nat × Nat) × Option (List Nat) :=
  let ms := (stageMembers turns stage ts).map fun k => (k, (assoc turns k).getD 0)
  let len (k : List Nat) : Nat := ((next k).map fun t => s.charged p t.bytes).getD 0
  let quantum (k : List Nat) : Nat := ((next k).map fun t => s.quantum p stage t).getD 1
  let after := dwrr quantum len 65536 ms
  (after ++ turns.filter (fun m => !(ms.any fun x => x.1 = m.1)), (after.head?).map (·.1))

/-- The frame that the scheduler releases next among the eligible ones, and the turns after it. -/
def State.scheduled (s : State) (p : Nat) (turns : List (List Nat × Nat)) (ts : List TxFrame) :
    List (List Nat × Nat) × Option TxFrame :=
  let firstOf (k : List Nat) : Option TxFrame := ts.find? fun t => t.key 2 = k
  let perEnd (k : List Nat) := s.serveStage p 2 turns (ts.filter fun t => t.key 1 = k) firstOf
  let ofSlice (k : List Nat) : Option TxFrame := ((perEnd k).2).bind firstOf
  let perSlice (k : List Nat) := s.serveStage p 1 turns (ts.filter fun t => t.key 0 = k) ofSlice
  let ofClass (k : List Nat) : Option TxFrame := ((perSlice k).2).bind ofSlice
  match s.serveStage p 0 turns ts ofClass with
  | (_, none) => (turns, none)
  | (turns0, some cls) =>
    match s.serveStage p 1 turns0 (ts.filter fun t => t.key 0 = cls) ofSlice with
    | (_, none) => (turns, none)
    | (turns1, some sl) =>
      let (turns2, e) := s.serveStage p 2 turns1 (ts.filter fun t => t.key 1 = sl) firstOf
      (turns2, e.bind firstOf)

/-- A deficit stays only while its member has a frame waiting. -/
def keepWaiting (turns : List (List Nat × Nat)) (ts : List TxFrame) : List (List Nat × Nat) :=
  turns.filter fun m => ts.any fun t => decide (t.cls < 7) && (t.key 0 = m.1 || t.key 1 = m.1 || t.key 2 = m.1)

/-! ## The arbiter (R211): 0 MacControl, 1 Class7, 2 WeltReplay, 3 Scheduled -/

/-- Frames of classes 0 to 6 that may start. -/
def State.ready06 (s : State) (p : Nat) : List TxFrame := (s.port p).egress.filter fun t => decide (t.cls < 7) && s.mayStart p t

def State.requests (s : State) (p r : Nat) : Bool :=
  match r with
  | 0 => (s.port p).egress.any fun t => t.cls = macClass && s.mayStart p t
  | 1 => (s.c7Head p).any fun t => decide (s.charged p t.bytes * 100 ≤ s.c7Now p)
  | 2 => (s.replayHead p).isSome
  | _ => !(s.ready06 p).isEmpty

def State.arbRank (s : State) (p r : Nat) : Nat :=
  s.fldNow (match r with
    | 0 => .prtArbRankMacControl
    | 1 => .prtArbRankClass7
    | 2 => .prtArbRankWeltReplay
    | _ => .prtArbRankScheduled) p

/-- The requesters that ask. -/
def State.asking (s : State) (p : Nat) : List Nat := (List.range 4).filter fun r => s.requests p r

/-- The requester that the port grants next; MacControl and Class7 are protected. -/
def State.grantOf (s : State) (p : Nat) : Option Nat :=
  let x := s.port p
  arbGrant (s.arbRank p) (max 8 (s.fldNow .prtArbRankAgeGrants p)) (fun r => decide (r < 2)) x.grantsWaited x.lastGrant (s.asking p)

/-- Count the grant for the requesters that wait. -/
def State.granted (s : State) (p r : Nat) : State :=
  let waits := arbWaited (s.port p).grantsWaited (s.asking p) r
  s.modPort p fun x => { x with lastGrant := r, grantsWaited := waits }

/-! ## Starting a frame -/

/-- The frame as it leaves: a Cyquin packet carries its send stamp (R174), and a TIME frame its own in 2^-16 ns (R507). -/
def TxFrame.stamped (t : TxFrame) (now frac : Nat) : TxFrame :=
  match t.body with
  | .packet q => { t with body := .packet { q with sendStamp := BitVec.ofNat 32 now } }
  | .ctrl q m g => { t with body := .ctrl { q with sendStamp := BitVec.ofNat 32 now } m g }
  | .time _ t1p t2p => { t with body := .time (now * 65536 + frac) t1p t2p }
  | _ => t

/-- The frame with its packet encrypted, where it carries a CIPHER extension (R426): under the key of the counter that it was given. -/
def TxFrame.enciphered (t : TxFrame) : TxFrame :=
  match t.body, t.sealKey with
  | .packet q, some k => { t with body := .packet (sealPacket k q) }
  | _, _ => t

/-- The in-flight records of a packet that starts take its send time (R175, R176). -/
def State.stampRecords (s : State) (t : TxFrame) : State :=
  match t.conn, t.psn, t.body with
  | some k, some psn, .packet q =>
    match s.findConn k with
    | none => s
    | some c =>
      let n := if q.ptype = .readReq then ceilDiv ((q.addr.map (·.msgLen)).getD 1) c.payload else 1
      s.modConn k fun c =>
        { c with inflight := updWhere (fun r => (r.psn - psn).toNat < n && !r.unsent) (fun r => { r with sentAt := s.time.now }) c.inflight }
  | _, _, _ => s

/-- A new frame starts: out of its queue, with a replay copy and its credit on a Welt link (R333, R336); frames that
waited for room move in; a raw frame's descriptor completes (R323), and a forwarded one frees the buffer it came in
(R336). -/
def State.startFrame (s : State) (p : Nat) (t0 : TxFrame) : State :=
  let t := (t0.stamped s.time.now s.time.frac).enciphered
  let lane := weltLane p t
  let s := s.modPort p fun x => { x with egress := x.egress.erase t0 }
  let tag : Option (Nat × Word32) := if (s.port p).welt ∧ t.cls ≠ macClass then some (lane, vget (s.port p).txSeq lane 0) else none
  let s := if tag.isSome then
      s.modPort p fun x =>
        let seq := vget x.txSeq lane 0
        { x with txSeq := vset x.txSeq lane (seq + 1),
                 creditUsed := if p < 8 then x.creditUsed
                   else vset x.creditUsed lane (vget x.creditUsed lane 0 + BitVec.ofNat 32 (units (t.bytes + 8))),
                 replay := x.replay ++ [({ lane, seq, frame := t, sentAt := s.time.now } : ReplayFrame)] }
    else s
  let s := (s.putFrame p t tag).stampRecords t
  let s := s.admitWaiting p (s.port p).waitRoom
  match t.body, t.rawq with
  | .forward f, _ => s.freeForwarded p f
  | _, some (q, count) => s.rawSent q count
  | _, none => s

/-- A resend goes out (R333, R334). -/
def State.resendFrame (s : State) (p : Nat) (f : ReplayFrame) : State :=
  let upd (x : ReplayFrame) : ReplayFrame := { x with again := false, sentAt := s.time.now, resends := x.resends + 1 }
  ((s.modPort p fun x => { x with replay := updWhere (fun y => y.lane = f.lane && y.seq = f.seq) upd x.replay }).portCount p 16 1).putFrame
    p f.frame (some (f.lane, f.seq))

/-- A class 7 frame that finds too few tokens waits for them, and is counted once (R203). -/
def State.countOverCap (s : State) (p : Nat) : State :=
  match s.c7Head p with
  | none => s
  | some t =>
    if t.tokenless ∨ s.charged p t.bytes * 100 ≤ s.c7Now p then s
    else (s.modPort p fun x => { x with egress := updWhere (fun y => y = t) (fun y => { y with tokenless := true }) x.egress }).bump
      .prtC7StatOverCap p

/-- A commit of the port's shadows, as they stood when it was written, takes effect at the frame boundary (R213). -/
def State.commitPort (s : State) (p : Nat) : State :=
  match (s.port p).pendingSched with
  | some (q, r) =>
    ((s.setRawReg .prtSchedQuantum (inForceAt p) q).setRawReg .prtArbRank (inForceAt p) r).modPort p fun x =>
      { x with pendingSched := none }
  | none => s

/-- The port takes its next frame. -/
def State.selectFrame (s : State) (p : Nat) : State :=
  let s := ((s.commitPort p).c7Refill p).countOverCap p
  match s.grantOf p with
  | none => s
  | some r =>
    let s := s.granted p r
    match r with
    | 0 => match (s.port p).egress.find? fun t => t.cls = macClass with
      | some t => s.startFrame p t
      | none => s
    | 1 => match s.c7Head p with
      | some t => (s.modPort p fun x => { x with c7Tokens := x.c7Tokens - s.charged p t.bytes * 100 }).startFrame p t
      | none => s
    | 2 => match s.replayHead p with
      | some f => s.resendFrame p f
      | none => s
    | _ =>
      match s.scheduled p (s.port p).dwrr (s.ready06 p) with
      | (turns, some t) =>
        let s := (s.modPort p fun x => { x with dwrr := turns }).startFrame p t
        s.modPort p fun x => { x with dwrr := keepWaiting x.dwrr x.egress }
      | (_, none) => s

/-! ## Throttle (R200) -/

/-- The level after an evaluation of a depth against an allowance. -/
def throttleLevel (level depth allow : Nat) : Nat :=
  let reached := if 3 * allow ≤ 4 * depth then 3 else if 2 * allow ≤ 4 * depth then 2 else if allow ≤ 4 * depth then 1 else 0
  let below := match level with
    | 0 => false
    | 1 => decide (16 * depth < 3 * allow)
    | 2 => decide (16 * depth < 7 * allow)
    | _ => decide (16 * depth < 11 * allow)
  if level < reached then reached else if below then level - 1 else level

end Sys2Proof.Machine
end

