-- ==== Sys2Proof/Machine/Pacing.lean ====
section
/-! DEFINITION. Pacing, the scheduler and the arbiter of a port, and the Site Baseline Table (R192 to R213). -/

namespace Sys2Proof.Machine

/-- The home cluster of a wheel entry. -/
def wheelHome (o : WheelOwner) : Nat :=
  match o with
  | .conn k => k % 8
  | .raw q => homeOf q

/-- PACING_WHEEL_VISIT (R206): the entry's slot has come due. While its home cluster sleeps, the Packet domain is stopped (R22), and
the entry waits. -/
def execPacingWheelVisit (entry : WheelOwner) (cipherMismatches : List Nat) (s : State) : Result :=
  match s.findWheel entry with
  | none => .next s
  | some e =>
    if e.placed ∧ s.due e.nextAt ∧ s.awake (wheelHome entry) then
      .next (match entry with
        | .conn k => s.visit k cipherMismatches
        | .raw q => s.visitQueue q).settle
    else .next s

/-- EGRESS_FRAME_SELECT (R202, R211). -/
def execEgressFrameSelect (port : Fin 10) (s : State) : Result :=
  if s.linkUp port ∧ s.portEnabled port then .next (s.selectFrame port).settle else .next s

/-- THROTTLE_EVAL (R200). A port that is not enabled has no queue to throttle. -/
def execThrottleEval (port : Fin 10) (s : State) : Result :=
  let level := (s.port port).throttle
  let next := throttleLevel level (s.queuedBytes port) (s.allowance port)
  if next = level ∨ !s.portEnabled port then .next s
  else .next ((s.modPort port fun x => { x with throttle := next }).bump .prtThrottleStatLevelChanges port)

/-- CLASS7_TOKENS_REFILL (R203): the bucket holds what has come since it was last looked at, so that a class 7 frame
that waits for tokens may start. -/
def execClass7TokensRefill (port : Fin 10) (s : State) : Result := .next (s.c7Refill port)

/-- SBT_BUCKET_ROLL (R197): a bucket for every second of Device Time that has begun since the last. -/
def execSbtBucketRoll (s : State) : Result := .next s.sbtRoll

/-- MEM_ARB_COMMIT (R213): no lock spans commands, so the shadows take effect at once. Only slice 0's function writes
it (R396). -/
def execMemArbCommit (f : Func) (s : State) : Result :=
  if s.isManager f then .next (s.commitReg .memArbRank 0) else .next s

/-- PRT_SCHED_COMMIT (R213): the port's shadows take effect at its next frame boundary. -/
def execPrtSchedCommit (f : Func) (port : Fin 10) (s : State) : Result :=
  if s.isManager f then .next (s.askCommit port) else .next s

end Sys2Proof.Machine
end

