-- ==== Sys2Proof/Machine/Ports.lean ====
section
/-! DEFINITION. Fabric and chain ports (R315 to R343), chain time (R507) and frame filters (R321). -/

namespace Sys2Proof.Machine

/-- FRAME_RECEIVE (R320). -/
def execFrameReceive (port : Fin 10) (frame : RxFrame) (s : State) : Result := .next (s.receiveFrame port frame).settle

/-- A port whose light or alignment matters: its link is up, or, for the light alone, it is a chain port that transmits to bring its link
up (R341). -/
def State.looks (s : State) (p : Nat) (dark : Bool) : Bool :=
  s.linkUp p || (dark && decide (8 ≤ p) && s.portEnabled p && !(s.port p).forceDown)

/-- LINK_SIGNAL_LOSS (R319): the loss begins. -/
def execLinkSignalLoss (port : Fin 10) (dark : Bool) (s : State) : Result :=
  if s.looks port dark ∧ (s.port port).lossSince.isNone then
    .next (s.modPort port fun x => { x with lossSince := some s.time.now, dark := dark && decide (8 ≤ port.val) })
  else .next s

/-- The fault of a missing light is gone: its cause is (R341). -/
def Port.seesLight (x : Port) : Port := if x.wireFault = 1 then { x with wireFault := 0 } else x

/-- LINK_HIT (R319, R334): alignment returns within 2 ms. The STATUS timer restarts, and each lane resumes from its
oldest frame. -/
def execLinkHit (port : Fin 10) (s : State) : Result :=
  let x := s.port port
  let short : Bool := match x.lossSince with
    | none => true
    | some t => decide (s.time.now < t + 2000000)
  if !s.linkUp port then .next (s.modPort port fun x => { x.seesLight with lossSince := none, dark := false })
  else if short then
    .next ((s.modPort port fun x =>
      { x.resendAll.seesLight with lossSince := none, dark := false, lastStatusRx := s.time.now }).portCount port 19 1)
  else .next s

/-- LINK_DOWN (R319): a loss has lasted 2 ms. On a chain port without light that is a wiring fault (R341), whether its link was up or it
transmits to bring it up. -/
def execLinkDown (port : Fin 10) (s : State) : Result :=
  match (s.port port).lossSince with
  | some t =>
    if s.linkUp port ∧ t + 2000000 ≤ s.time.now then
      let dark := (s.port port).dark && s.chainLit
      let s := s.goDown port 1
      .next (if dark then s.wiring port 1 0 else s).settle
    else if s.looks port (s.port port).dark ∧ t + 2000000 ≤ s.time.now ∧ s.chainLit then .next ((s.startTraining port).wiring port 1 0)
    else .next s
  | none => .next s

/-- LINK_UP (R319): alignment has held for 1 ms; a chain port also needs a HELLO and no wiring fault. A port that a Last activation
changes stays down in its pause (R49). -/
def execLinkUp (port : Fin 10) (interface laneMap polarity : Nat) (s : State) : Result :=
  let x := s.port port
  let ready := decide (port.val < 8) || (x.helloSeen && decide (x.wireFault = 0))
  if s.portEnabled port ∧ x.link ≠ .up ∧ !x.forceDown ∧ ready ∧ !s.pauseHolds port then
    .next (s.comeUp port (s.trainsAs port interface) laneMap polarity)
  else .next s

/-- AUTONEG_TIMEOUT (R315): no base page within 500 ms in Auto. -/
def execAutonegTimeout (port : Fin 10) (s : State) : Result :=
  let x := s.port port
  if port.val < 8 ∧ x.link = .training ∧ x.interface = 0 ∧ s.fld .prtLinkCtrlInterface port = 0
      ∧ s.passed (x.trainSince + 500000000) then
    .next (s.modPort port fun x => { x with interface := 2 })
  else .next s

/-- INTERFACE_WRITE (R315): only slice 0's function writes the register (R396); a chain port ignores the field. -/
def execInterfaceWrite (f : Func) (port : Fin 10) (value : Word32) (s : State) : Result :=
  if !s.isManager f then .next s
  else
    let s := s.setFld .prtLinkCtrlInterface port (bitsOf (value.zeroExtend 64) 5 4)
    .next (if port.val < 8 then s.retrain port else s).settle

/-- RETRAIN (R319). -/
def execRetrain (f : Func) (port : Fin 10) (s : State) : Result :=
  if s.isManager f then .next (s.retrain port).settle else .next s

/-- FORCE_DOWN (R319). -/
def execForceDown (f : Func) (port : Fin 10) (on : Bool) (s : State) : Result :=
  if s.isManager f then
    .next ((s.setFld .prtLinkCtrlForceDown port (if on then 1 else 0)).setForceDown port on).settle
  else .next s

/-- PFC_FRAME (R326). -/
def execPfcFrame (port : Fin 10) (mask : Nat) (quanta : List Nat) (s : State) : Result :=
  if s.portEnabled port ∧ s.linkUp port then .next ((s.countControl port).obeyPfc port mask quanta) else .next s

/-- PFC_PAUSE_EXPIRY (R326). -/
def execPfcPauseExpiry (port : Fin 10) (priority : Fin 8) (s : State) : Result :=
  if s.due (vget (s.port port).pausedRx priority 0) then
    .next (s.modPort port fun x => { x with pausedRx := vset x.pausedRx priority 0 })
  else .next s

/-- PFC_REFRESH_TIMER (R327). -/
def execPfcRefreshTimer (port : Fin 10) (priority : Fin 8) (s : State) : Result :=
  let x := s.port port
  if s.linkUp port ∧ vget x.xoff priority false ∧ s.due (vget x.nextXoff priority 0) then .next (s.pausePeer port priority)
  else .next s

/-- HELLO (R332). -/
def execHello (port : Fin 10) (coord : Coord) (peerPort : Nat) (weltEnable : Bool) (sendStamp echoStamp _nonce : Word64)
    (s : State) : Result :=
  if s.portEnabled port ∧ !(s.port port).forceDown then
    .next (s.takeHello port coord peerPort weltEnable sendStamp echoStamp)
  else .next s

/-- HELLO_TIMER (R332). -/
def execHelloTimer (port : Fin 10) (s : State) : Result :=
  if s.portEnabled port ∧ !(s.port port).forceDown ∧ s.due (s.port port).nextHello then .next (s.sendHello port) else .next s

/-- WELT_HELLO_TIMEOUT (R329). -/
def execWeltHelloTimeout (port : Fin 10) (s : State) : Result :=
  let x := s.port port
  if port.val < 8 ∧ x.link = .up ∧ !x.welt ∧ s.passed (x.upSince + 1000000) then
    .next (s.modPort port fun x => { x with weltOff := true })
  else .next s

/-- STATUS (R332, R333, R336). -/
def execStatus (port : Fin 10) (ackSeqs credits : List Word32) (s : State) : Result :=
  if s.linkUp port ∧ (s.port port).welt then
    .next ((s.countControl port).modPort port fun x =>
      { x with lastStatusRx := s.time.now,
               replay := x.replay.filter fun f => !countBefore f.seq (ackSeqs.getD f.lane 0),
               creditLimit := if port.val < 8 then x.creditLimit else Vector.ofFn fun (k : Fin 4) => credits.getD k.val 0 })
  else .next s

/-- STATUS_TIMER (R332). -/
def execStatusTimer (port : Fin 10) (s : State) : Result :=
  let x := s.port port
  if x.link = .up ∧ x.welt ∧ s.due x.nextStatus then .next (s.sendStatus port) else .next s

/-- NAK of a lane (R333). -/
def execWeltNak (port : Fin 10) (lane : Fin 4) (seq : Word32) (s : State) : Result :=
  if s.linkUp port ∧ (s.port port).welt then
    .next ((s.countControl port).modPort port fun x => x.resendFrom lane seq)
  else .next s

/-- WELT_RESEND_TIMER (R333): the lane's oldest frame is older than the round trip plus 2 µs. It stands still in a hit
(R334). -/
def execWeltResendTimer (port : Fin 10) (lane : Fin 4) (s : State) : Result :=
  let x := s.port port
  match x.replay.find? fun f => f.lane = lane.val with
  | none => .next s
  | some f =>
    if x.link = .up ∧ x.welt ∧ !x.inHit ∧ !f.again ∧ f.sentAt + x.rttNs + 2000 < s.time.now then
      .next (s.modPort port fun x => x.resendFrom lane f.seq)
    else .next s

/-- WELT_GIVE_UP (R334). -/
def execWeltGiveUp (port : Fin 10) (s : State) : Result :=
  let x := s.port port
  let silent := !x.inHit && s.passed (x.lastStatusRx + 100000)
  if x.link = .up ∧ x.welt ∧ (silent ∨ x.replay.any fun f => decide (16 ≤ f.resends)) then
    .next ((s.portCount port 18 x.replay.length).goDown port 3).settle
  else .next s

/-- TIME (R507). -/
def execTime (port : Fin 10) (t1 t1p t2p : Nat) (s : State) : Result :=
  if 8 ≤ port.val ∧ s.linkUp port then .next (s.takeTime port t1 t1p t2p) else .next s

/-- TIME_SEND_TIMER (R507). -/
def execTimeSendTimer (port : Fin 10) (s : State) : Result :=
  let x := s.port port
  if 8 ≤ port.val ∧ x.link = .up ∧ s.due x.nextTime then
    let (a, b) := x.time1.getD (0, 0)
    .next ((s.queueMac port (.time 0 a b)).modPort port fun x => { x with nextTime := s.time.now + 125000 })
  else .next s

/-- BYPASS_REQ_PIN (R338): the level of a pin; it counts where the Last gives it the function BypassReq. -/
def execBypassReqPin (pin : Fin 8) (level : Bool) (s : State) : Result :=
  let bit : BitVec 8 := 1#8 <<< pin.val
  let g := if level then s.board.gpioIn ||| bit else s.board.gpioIn &&& ~~~bit
  .next ({ s with board.gpioIn := g } : State).bypassSources

/-- BYPASS_DRAIN_DONE (R339): both chain buffers are empty, or 1 ms has passed. -/
def execBypassDrainDone (s : State) : Result :=
  match s.bypass.phase with
  | .draining t => if s.chainEmpty ∨ s.due t then .next (s.moveSwitch true) else .next s
  | _ => .next s

/-- BYPASS_SWITCH_SETTLED (R339). -/
def execBypassSwitchSettled (s : State) : Result :=
  match s.bypass.phase with
  | .moving away _ => .next (s.switchSettled away).settle
  | _ => .next s

/-! ## Mailbox commands: only slice 0's (R321, R338) -/

/-- FILTER_SET (R321). -/
def execFilterSet (slice : Fin 512) (tag : Word32) (index : Nat) (p : FilterRec) (s : State) : Result :=
  .next <| s.command slice tag MbxOp.filterSet fun s =>
    let raw := (s.findQueue p.queue).any fun q => q.kind = .rawRecv
    if slice ≠ 0 then (s, Status.localAccess, [])
    else if 255 < index ∨ !p.rsvdZero ∨ !raw then (s, Status.descMalformed, [])
    else ({ s with filters := assocSet s.filters index p }, Status.success, [])

/-- FILTER_CLEAR (R321). -/
def execFilterClear (slice : Fin 512) (tag : Word32) (index : Nat) (s : State) : Result :=
  .next <| s.command slice tag MbxOp.filterClear fun s =>
    if slice ≠ 0 then (s, Status.localAccess, [])
    else if 255 < index then (s, Status.descMalformed, [])
    else ({ s with filters := assocDel s.filters index }, Status.success, [])

/-- The fields of a filter, with Valid last. -/
def filterFields : Option FilterRec → List Nat
  | some f => [f.portMask, f.vlanId, f.vlanMask, f.pcp, f.pcpMask, f.etherType, f.etEnable.toNat, f.nextHeader, f.nhEnable.toNat,
               f.udpDst, f.udEnable.toNat, f.queue, f.valid.toNat]
  | none => List.replicate 13 0

/-- FILTER_READ (R321). -/
def execFilterRead (slice : Fin 512) (tag : Word32) (index : Nat) (s : State) : Result :=
  .next <| s.command slice tag MbxOp.filterRead fun s =>
    if slice ≠ 0 then (s, Status.localAccess, [])
    else if 255 < index then (s, Status.descMalformed, [])
    else (s, Status.success, filterFields (assoc s.filters index))

/-- CHAIN_BYPASS (R338, R339): the response follows the switch's settling. -/
def execChainBypass (slice : Fin 512) (tag : Word32) (on : Bool) (s : State) : Result :=
  match s.take slice tag MbxOp.chainBypass with
  | (s, false) => .next s
  | (s, true) =>
    if slice ≠ 0 then .next (s.answer slice tag MbxOp.chainBypass Status.localAccess 0 [])
    else
      .next ({ s with bypass.mailbox := on, bypass.waiter := s.bypass.waiter ++ [(slice.val, tag, on)] } : State).bypassSources

end Sys2Proof.Machine
end

