-- ==== Sys2Proof/Machine/Power.lean ====
section
/-! DEFINITION. Power, thermal states and cluster sleep (R490 to R501). -/

namespace Sys2Proof.Machine

/-- POWER_SAMPLE (R495): the average input power over 1 ms. -/
def execPowerSample (watts : Nat) (s : State) : Result :=
  if s.serving then .next ((({ s with power.inputW := watts } : State).capStepTo watts).settle)
  else .next { s with power.inputW := watts }

/-- THERMAL_SAMPLE (R499): the highest junction and HBM case temperatures. The sensors are read in reset and in a shutdown as
well. -/
def execThermalSample (junction hbm : Nat) (s : State) : Result :=
  let s : State := { s with power.junctionC := junction, power.hbmC := hbm }
  if s.power.shutdown ∨ !s.board.inputPower then .next s else .next (s.thermalStep junction hbm).settle

/-- THERMAL_COMPARATOR (R499): hardware enters Critical or Shutdown. -/
def execThermalComparator (junction hbm : Nat) (s : State) : Result :=
  let level := thermalLevel junction hbm
  if level < 3 ∨ s.power.shutdown ∨ !s.board.inputPower ∨ level ≤ s.power.thermal.code then .next s
  else if level = 4 then .next s.shutDown
  else .next (s.setThermal level).settle

/-- PWR_BRAKE_ASSERT (R497). -/
def execPwrBrakeAssert (s : State) : Result :=
  if s.power.brake then .next s
  else
    let before := s.emergency
    let s := ({ s with power.brake := true } : State).bump .pwrStatBrakes 0
    .next (s.brakeEvent.emergencyFrom before).settle

/-- PWR_BRAKE_RELEASE (R497). -/
def execPwrBrakeRelease (s : State) : Result :=
  if s.power.brake then .next ({ s with power.brake := false } : State).brakeEvent else .next s

/-! ## Sleep (R490 to R494) -/

/-- A cluster's sleep floor (R43). -/
def State.floor (s : State) (c : Nat) : Nat := ((s.last.inForce.map (·.floors)).getD []).getD c 0

/-- CLUSTER_LIGHT_SLEEP (R491). -/
def execClusterLightSleep (cluster : Fin 8) (s : State) : Result :=
  let c := cluster.val
  let idle := max 1 (s.fld .pwrCtrlLightIdle 0) * 16
  let since := max (vget s.power.workAt c 0) (vget s.power.sleepSince c 0)
  if s.awake c ∧ !s.hasWork c ∧ s.floor c ≤ 1 ∧ s.due (since + idle) then .next (s.setSleep c .light) else .next s

/-- A standing WAIT with PreWake keeps its queue's home cluster at light sleep or above (R107). -/
def State.preWaked (s : State) (c : Nat) : Bool := s.queue.watch.any fun w => w.preWake && homeOf w.q = c

/-- CLUSTER_DEEP_SLEEP (R491). For cluster 0 this is the part outside its class 7 path (R21). -/
def execClusterDeepSleep (cluster : Fin 8) (s : State) : Result :=
  let c := cluster.val
  let wait := max 1 (s.fld .pwrCtrlDeepIdleUs 0) * 1000
  if vget s.power.sleep c .awake = .light ∧ s.floor c = 0 ∧ !s.preWaked c ∧ s.due (vget s.power.sleepSince c 0 + wait) then
    .next (s.setSleep c .deep)
  else .next s

/-- CLUSTER_WAKE (R492, R493): a trigger that no other command brings, which is a packet that waits for the cluster or a
deadline that it registered. -/
def execClusterWake (cluster : Fin 8) (s : State) : Result := .next (s.wakeCluster cluster)

/-- HBM_SELF_REFRESH (R494). -/
def execHbmSelfRefresh (s : State) : Result :=
  if (s.power.sleep.toList.all fun x => x = .deep) ∧ s.due (s.power.edgeIdleSince + 20000) then
    .next { s with power.selfRefresh := true }
  else .next s

end Sys2Proof.Machine
end

