-- ==== Sys2Proof/Machine/Regions.lean ====
section
/-! DEFINITION. The Eyelet (R64 to R70), Range Map entries (R71), regions (R123, R143), tenant tags (R125), and creating and
destroying queues (R94, R95). -/

namespace Sys2Proof.Machine

/-! ## Eyelet accesses (R64, R67, R68) -/

/-- An access through the map: refused with UrCount, or begun (R67). -/
def State.eyeletAccess (s : State) (f : Func) (requester : Word16) (offset len : Nat) (bytes : List Byte) (load : Bool) : State :=
  match s.eyeletEntry f (granuleOf f offset) with
  | none =>
    let s := s.bump .slcEyeletErrUrCount 0
    if load then s.emit (.cplUnsupported f) else s
  | some e =>
    if e.admits requester && (if load then e.read else e.write) then
      s.eyeletBegin f e (granuleOff offset) len bytes load
    else
      let s := s.bump .slcEyeletErrUrCount e.slice
      if load then s.emit (.cplUnsupported f) else s

/-- EYELET_LOAD (R67). -/
def execEyeletLoad (f : Func) (requester : Word16) (offset length : Nat) (s : State) : Result :=
  .next (s.eyeletAccess f requester offset length [] true).settle

/-- EYELET_STORE (R67). -/
def execEyeletStore (f : Func) (requester : Word16) (offset : Nat) (bytes : List Byte) (s : State) : Result :=
  .next (s.eyeletAccess f requester offset bytes.length bytes false).settle

/-- EYELET_LOAD_LIMIT (R68): the status byte of the event is a free value, since no code is stated for the limit. -/
def execEyeletLoadLimit (id : Nat) (s : State) : Result :=
  match s.xlate.eyeletBusy.find? fun x => x.id = id && x.load with
  | none => .next s
  | some x =>
    if !s.passed x.deadline then .next s
    else
      let st : Status := BitVec.ofNat 8 s.freeNow
      let s := { s.advanceFree with xlate.eyeletBusy := s.xlate.eyeletBusy.filter fun x => x.id ≠ id }
      let s := (s.emit (.cplAbort id)).bump .slcEyeletErrCaCount x.slice
      .next (s.raise { slice := x.slice, code := EventCode.eyeletFail, status := st, object := x.granule, info := x.fpa }).finishUnmaps

/-! ## The Eyelet Map (R65, R66, R69) -/

/-- Why a mapping is refused, in the order of R66. An address space above 126 is none that a slice can own: DESC_MALFORMED (DESIGN CHOICE,
log entry 83). -/
def State.mapRefused (s : State) (slice : Nat) (p : EyeletParams) : Option Status :=
  let f := p.func
  let t := p.target.toNat
  let local_ := decide (fpaCoord t = s.coord)
  let off := fpaOffset t
  let areaBad : Bool := match s.area off with
    | .near => decide (nearBytes < off + 2 ^ 26)
    | .far => local_ && decide (farBase + s.farBytes < off + 2 ^ 26)
    | .hostA | .hostB => local_
    | .reserved => local_ || decide (off < farBase ∨ 0xF0000000000 ≤ off)
  let held := s.eyeletEntry f p.granule
  if slice ≠ 0 ∧ (s.slice slice).func ≠ f then some Status.localAccess
  else if held.any fun e => e.slice ≠ slice then some Status.localAccess
  else if aperture f ≤ p.granule ∨ 126 < p.addressSpace ∨ held.isSome then some Status.descMalformed
  else if t % 2 ^ 26 ≠ 0 ∨ areaBad then some Status.descMalformed
  else if !local_ ∧ !((s.findConn p.conn).any fun c => c.ordered && c.slice = slice) then some Status.descMalformed
  else if 4096 ≤ (s.xlate.eyelet.filter fun e => e.port = f.port.val).length then some Status.noResources
  else none

/-- EYELET_MAP (R66). -/
def execEyeletMap (slice : Fin 512) (tag : Word32) (p : EyeletParams) (s : State) : Result :=
  .next <| s.command slice tag MbxOp.eyeletMap fun s =>
    match s.mapRefused slice p with
    | some c => (s, c, [])
    | none =>
      let e : EyeletEntry :=
        { port := p.func.port, fn := p.func.fn, granule := p.granule, slice, as := p.addressSpace, target := p.target.toNat,
          requesterId := p.requesterId, requesterMask := p.requesterMask, read := p.read, write := p.write,
          conn := if fpaCoord p.target.toNat = s.coord then 0 else p.conn, key := p.key }
      ({ s with xlate.eyelet := s.xlate.eyelet ++ [e] }, Status.success, [])

/-- EYELET_UNMAP (R69): the entry is gone at once, and the response follows the accesses that had passed the lookup. -/
def execEyeletUnmap (slice : Fin 512) (tag : Word32) (f : Func) (granule : Nat) (s : State) : Result :=
  match s.take slice tag MbxOp.eyeletUnmap with
  | (s, false) => .next s
  | (s, true) =>
    if (s.eyeletEntry f granule).any fun e => e.slice = slice.val then
      let gone (e : EyeletEntry) : Bool := e.port = f.port.val && e.fn = f.fn.val && e.granule = granule
      .next ({ s with xlate.eyelet := s.xlate.eyelet.filter fun e => !gone e,
                      xlate.unmapping := s.xlate.unmapping ++ [(slice.val, tag, f, granule)] } : State).finishUnmaps
    else .next (s.answer slice tag MbxOp.eyeletUnmap Status.localAccess 0 [])

/-- The fields of an Eyelet Map entry in their order (R65): all zero where none is Valid. -/
def eyeletFields : Option EyeletEntry → List Nat
  | some e => [e.target, e.slice * 128 + e.as, e.requesterId.toNat, e.requesterMask.toNat, e.fn,
               1 + 2 * e.read.toNat + 4 * e.write.toNat, e.granule, e.conn, e.key.toNat]
  | none => List.replicate 9 0

/-- EYELET_READ (R65). -/
def execEyeletRead (slice : Fin 512) (tag : Word32) (f : Func) (granule : Nat) (s : State) : Result :=
  .next <| s.command slice tag MbxOp.eyeletRead fun s =>
    let e := s.eyeletEntry f granule
    if slice ≠ 0 ∧ ((s.slice slice).func ≠ f ∨ e.any fun e => e.slice ≠ slice.val) then (s, Status.localAccess, [])
    else if aperture f ≤ granule then (s, Status.descMalformed, [])
    else (s, Status.success, eyeletFields e)

/-! ## Regions (R71, R123, R143) -/

/-- State codes of a Range Map entry (R73), and tier codes. -/
def RangeState.code : RangeState → Nat
  | .free => 0
  | .active => 1
  | .revoking => 2

def Tier.code : Tier → Nat
  | .near => 0
  | .far => 1
  | .hostA => 2
  | .hostB => 3

/-- The Flags byte of a Range Map entry (R71). -/
def RangeEntry.flags (e : RangeEntry) : Nat := e.anyAs.toNat + 2 * e.pinned.toNat + 4 * e.pasid.isSome.toNat

/-- A Range Map entry as its 64 bytes (R71), the fields little-endian; the reserved bytes read 0. -/
def State.rangeImage (s : State) (e : RangeEntry) : List Byte :=
  leBytes 8 e.start ++ leBytes 8 e.length ++ leBytes 8 e.target ++ leBytes 4 e.key.toNat ++ leBytes 2 (e.slice * 128 + e.as)
    ++ leBytes 1 e.perm.toNat ++ leBytes 1 e.flags
    ++ leBytes 1 e.tier.code ++ leBytes 1 e.state.code ++ leBytes 1 e.incarnation.toNat ++ leBytes 1 0
    ++ leBytes 4 ((e.pasid.map (·.toNat)).getD 0) ++ leBytes 4 e.inFlight ++ leBytes 4 (s.sortIndex e.slice e.slot)
    ++ List.replicate 16 0

/-- What RANGE_READ answers: the entry's bytes in their order. -/
def State.rangeBytes (s : State) (e : RangeEntry) : List Nat := (s.rangeImage e).map (·.toNat)

/-- RANGE_READ (R71): an entry of the issuing slice's segment. -/
def execRangeRead (slice : Fin 512) (tag : Word32) (slot : Nat) (s : State) : Result :=
  .next <| s.command slice tag MbxOp.rangeRead fun s =>
    let base := s.segBase slice
    if slot < base ∨ base + (s.quota slice).ranges ≤ slot then (s, Status.localAccess, [])
    else match s.range slice slot with
      | some e => (s, Status.success, s.rangeBytes e)
      | none => (s, Status.success, s.rangeBytes { slice, slot })

/-- REGION_REGISTER (R123). One that needs a key waits while the DRBG is halted. -/
def execRegionRegister (slice : Fin 512) (tag : Word32) (p : RegionParams) (s : State) : Result :=
  match s.take slice tag MbxOp.regionRegister with
  | (s, false) => .next s
  | (s, true) =>
    let (t, st, info) := s.registerRegion slice p
    if s.keys.drbgHalted ∧ st = Status.success then .next s
    else .next (t.answer slice tag MbxOp.regionRegister st 0 info)

/-- REGION_REVOKE (R143, R144): the response follows when no access is in flight (REVOKE_DRAIN_DONE). -/
def execRegionRevoke (slice : Fin 512) (tag : Word32) (slot incarnation : Nat) (s : State) : Result :=
  match s.take slice tag MbxOp.regionRevoke with
  | (s, false) => .next s
  | (s, true) =>
    let refuse (c : Status) : Result := .next (s.answer slice tag MbxOp.regionRevoke c 0 [])
    match s.range slice slot with
    | none => refuse Status.localAccess
    | some e =>
      if e.state = .free ∨ e.incarnation.toNat ≠ incarnation then refuse Status.localAccess
      else if e.state = .revoking then refuse Status.busy
      else .next (s.beginRevoke e (some (slice.val, tag))).settle

/-- TENANT_SET (R125). -/
def execTenantSet (slice : Fin 512) (tag : Word32) (target : Nat) (tenant : Nat) (s : State) : Result :=
  .next <| s.command slice tag MbxOp.tenantSet fun s =>
    if slice ≠ 0 then (s, Status.localAccess, [])
    else if 512 ≤ target ∨ 2 ^ 24 ≤ tenant then (s, Status.descMalformed, [])
    else if s.trans.conns.any fun c => c.slice = target then (s, Status.busy, [])
    else (s.modSlice target fun x => { x with tenant := BitVec.ofNat 24 tenant }, Status.success, [])

/-! ## Queues (R94, R95) -/

/-- QUEUE_CREATE (R94). -/
def execQueueCreate (slice : Fin 512) (tag : Word32) (p : QueueParams) (s : State) : Result :=
  .next (s.command slice tag MbxOp.queueCreate fun s => s.createQueue slice p)

/-- QUEUE_DESTROY (R95). -/
def execQueueDestroy (slice : Fin 512) (tag : Word32) (q : Nat) (s : State) : Result :=
  .next <| s.command slice tag MbxOp.queueDestroy fun s =>
    let (s, st) := s.destroyQueue slice q
    (s, st, [])

end Sys2Proof.Machine
end

