-- ==== Sys2Proof/Machine/MsixTable.lean ====
section
/-! DEFINITION. The base address registers of a function (R395), and its MSI-X table and Pending Bit Array in BAR0 (R396, R397, R399). -/

namespace Sys2Proof.Machine

/-- The 64-bit BARs of a function, the PF or a VF: number, size and whether it is prefetchable (R395). -/
def barsOf (pf : Bool) : List (Nat × Nat × Bool) :=
  [(0, 2 ^ 26, false), (2, if pf then 2 ^ 27 else 2 ^ 24, true), (4, if pf then 2 ^ 38 else 2 ^ 32, true)]

/-- Vectors of a function's MSI-X table (R392, R397). -/
def vectorsOf (f : Func) : Nat := if f.fn = 0 then 2048 else 64

def msixTableBase : Nat := 0x03000000
def msixPbaBase : Nat := 0x03010000

/-- A word of 32 bits of an entry of the table: address, data, and Vector Control with Mask in bit 0 and the ST entry in bits [31:16]
(PRESUMED: PCI Express's layout; log entry 79). -/
def FuncState.tableWord (x : FuncState) (v k : Nat) : Nat :=
  let m := (assoc x.table v).getD {}
  if k = 0 then m.address.toNat % 2 ^ 32
  else if k = 1 then m.address.toNat / 2 ^ 32
  else if k = 2 then m.data.toNat
  else ((assoc x.steer v).getD 0).toNat * 65536 + (x.masked.contains v).toNat

/-- Write a word of an entry. -/
def FuncState.setTableWord (x : FuncState) (v k w : Nat) : FuncState :=
  let m := (assoc x.table v).getD {}
  let put (m : MsixEntry) : FuncState := { x with table := assocSet x.table v m }
  if k = 0 then put { m with address := BitVec.ofNat 64 (m.address.toNat / 2 ^ 32 * 2 ^ 32 + w) }
  else if k = 1 then put { m with address := BitVec.ofNat 64 (w * 2 ^ 32 + m.address.toNat % 2 ^ 32) }
  else if k = 2 then put { m with data := BitVec.ofNat 32 w }
  else
    let open_ := x.masked.filter fun u => u ≠ v
    { x with steer := assocSet x.steer v (BitVec.ofNat 16 (w / 65536)), masked := if w % 2 = 1 then open_ ++ [v] else open_ }

/-- A word of 32 bits of the PBA: a bit for each vector with a message due. -/
def FuncState.pbaWord (x : FuncState) (k : Nat) : Nat :=
  (List.range 32).foldl (fun a b => if x.pba.any fun d => d.vector = 32 * k + b then a + 2 ^ b else a) 0

/-- The word of the table that an offset names: its vector, and which of the entry's four. -/
def tableAt (f : Func) (off : Nat) : Option (Nat × Nat) :=
  let at_ := off - msixTableBase
  if msixTableBase ≤ off ∧ at_ / 16 < vectorsOf f ∧ off % 4 = 0 then some (at_ / 16, at_ % 16 / 4) else none

/-- The word of the PBA that an offset names. -/
def pbaAt (f : Func) (off : Nat) : Option Nat :=
  let at_ := off - msixPbaBase
  if msixPbaBase ≤ off ∧ at_ < vectorsOf f / 8 ∧ off % 4 = 0 then some (at_ / 4) else none

/-- A word of a function's own MSI-X structures; none where the offset names neither. -/
def State.msixWord (s : State) (f : Func) (off : Nat) : Option Nat :=
  match tableAt f off with
  | some (v, k) => some ((s.funcState f).tableWord v k)
  | none => (pbaAt f off).map (s.funcState f).pbaWord

/-- A naturally aligned read of 4 or 8 bytes of the table or the PBA (R396). -/
def State.readMsix (s : State) (f : Func) (off width : Nat) : Option Word64 :=
  if !s.serving || !s.funcEnabled f || off % width ≠ 0 then none
  else (s.msixWord f off).map fun lo =>
    BitVec.ofNat 64 (if width = 8 then lo + ((s.msixWord f (off + 4)).getD 0) * 2 ^ 32 else lo)

/-- Write a word of the table. The PBA is read-only. -/
def State.writeTableWord (s : State) (f : Func) (off w : Nat) : State :=
  match tableAt f off with
  | some (v, k) => s.modFunc f fun x => x.setTableWord v k w
  | none => s

/-- A naturally aligned write of 4 or 8 bytes of the table; a message whose mask it clears is sent (R397). -/
def State.writeMsix (s : State) (f : Func) (off width : Nat) (v : Word64) : State :=
  if !s.serving || !s.funcEnabled f || off % width ≠ 0 then s
  else
    let s := s.writeTableWord f off (v.toNat % 2 ^ 32)
    let s := if width = 8 then s.writeTableWord f (off + 4) (v.toNat / 2 ^ 32) else s
    s.sendHeldMsix f

end Sys2Proof.Machine
end

