-- ==== Sys2Proof/Machine/Timers.lean ====
section
/-! DEFINITION. Device Time's registers and pins (R505 to R509, R523), and Event Timers (R510). -/

namespace Sys2Proof.Machine

/-! ## Event Timers -/

def State.timerCfgOf (s : State) (k idx : Nat) : Nat × Nat := (assoc s.time.timerCfg (k, idx)).getD (0, 0)

/-- PeriodNs as the Farig takes it. -/
def timerPeriod (p : Nat) : Nat := if 1 ≤ p ∧ p ≤ 1023 then 1024 else p

def EventTimer.is (t : EventTimer) (k idx : Nat) : Bool := t.slice = k && t.index = idx

/-- A TimerOut pin of a timer rises for 1 µs (R523). -/
def State.pulse (s : State) (idx : Nat) : State :=
  let pins := ((s.last.inForce.map (·.pins)).getD []).filterMap fun r => if r.function = 3 && r.param = idx then some r.pin else none
  pins.foldl (fun s p => ({ s with board.pulseUntil := assocSet s.board.pulseUntil p (s.time.now + 1000) } : State).drive p true) s

/-- EVENT_TIMER_FIRE: a slice's timer at the start of its deadline's tick. A timer of the firmware reserve (no slice) is
firmware's: it pulses its TimerOut pins. -/
def execEventTimerFire (slice : Option (Fin 512)) (index : Nat) (s : State) : Result :=
  match slice with
  | none => .next (s.pulse index)
  | some k =>
    match s.time.timers.find? fun t => t.is k.val index with
    | none => .next s
    | some t =>
      if tick s.time.now < tick t.deadline then .next s
      else
        let p := timerPeriod (s.timerCfgOf k.val index).1
        let rest := s.time.timers.filter fun t => !t.is k.val index
        let next := if p = 0 then [] else [{ t with deadline := t.deadline + p }]
        .next (({ s with time.timers := rest ++ next } : State).laceUp k.val (s.gen k.val) t.counter 1)

/-- A write of SLC_TIMER_DEADLINE: a non-zero value arms the selected timer, and 0 disarms it. -/
def State.armTimer (s : State) (k : Nat) (value : Word64) : State :=
  let idx := s.fld .slcTimerSelIndex k
  let q := s.quota k
  let counter := (s.timerCfgOf k idx).2
  let rest := s.time.timers.filter fun t => !t.is k idx
  if q.timers ≤ idx then s
  else if value = 0 then { s with time.timers := rest }
  else if q.lace ≤ counter then s
  else { s with time.timers := rest ++ [({ slice := k, index := idx, deadline := value.toNat, counter } : EventTimer)] }

/-- SLC_TIMER_DEADLINE_WRITE. -/
def execSlcTimerDeadlineWrite (f : Func) (slice : Fin 512) (value : Word64) (s : State) : Result :=
  if s.bound slice f then .next (s.armTimer slice value) else .next s

/-! ## TIM registers (R505, R506) -/

/-- The driver may correct Device Time: Source 0 or 1. -/
def State.driverTime (s : State) : Bool := decide (s.fld .timCtrlSource 0 ≤ 1)

/-- A write of TIM_SET: taken only where no connection and no armed timer exists. -/
def State.setTime (s : State) (value : Word64) : State :=
  if s.trans.conns.isEmpty ∧ s.time.timers.isEmpty then { s with time.now := value.toNat, time.frac := 0, time.part := 0 }
  else s.bump .timStatusSetRefused 0

/-- A write of TIM_SLEW: the offset replaces any remainder. -/
def State.setSlew (s : State) (value : Word64) : State :=
  if s.driverTime then { s with time.slewLeft := value.toInt * 65536 * 1000000 } else s

/-- A write of TIM_FREQ: the register keeps what was written (R4), and the rate takes it clamped. -/
def State.setFreq (s : State) (value : Word32) : State :=
  if s.driverTime then s.setFld .timFreqAdjust 0 value.toNat else s

/-- A write of TIM_CTRL: a new Source starts without a loss. -/
def State.setTimCtrl (s : State) (value : Word64) : State :=
  let was := s.fld .timCtrlSource 0
  let s := s.storeReg .timCtrl 0 value
  if s.fld .timCtrlSource 0 = was then s else { s with time.holdover := false, time.lastPps := s.time.now }

/-- TIM_SET_WRITE. -/
def execTimSetWrite (f : Func) (value : Word64) (s : State) : Result :=
  if s.isManager f then .next (s.setTime value) else .next s

/-- TIM_SLEW_WRITE. -/
def execTimSlewWrite (f : Func) (value : Word64) (s : State) : Result :=
  if s.isManager f then .next (s.setSlew value) else .next s

/-- TIM_FREQ_WRITE. -/
def execTimFreqWrite (f : Func) (value : Word32) (s : State) : Result :=
  if s.isManager f then .next (s.setFreq value) else .next s

/-! ## PPS (R508) and captures (R523) -/

/-- Signed distance to the nearest whole second. -/
def toSecond (now : Nat) : Int :=
  let r := now % 1000000000
  if r ≤ 500000000 then -(r : Int) else 1000000000 - (r : Int)

/-- PPS_IN_EDGE: with Source PpsIn, the servo steers the capture to the nearest whole second. -/
def execPpsInEdge (s : State) : Result :=
  let now := s.time.now
  let s : State := { s with time.ppsCap := now, time.lastPps := now }
  if s.fld .timCtrlSource 0 = 4 then
    let d := toSecond now
    .next (({ s with time.offsetNs := d, time.slewLeft := d * 65536 * 1000000 } : State).sourceState false)
  else .next s

/-- PPS_OUT_SECOND: PPS_OUT rises once at each whole second. -/
def execPpsOutSecond (s : State) : Result :=
  let sec := s.time.now / 1000000000
  if s.fld .timCtrlPpsOutEnable 0 = 1 ∧ sec ≠ s.time.ppsSecond then
    let width := max 1 (s.fld .timCtrlPpsWidthMs 0) * 1000000
    .next (({ s with time.ppsSecond := sec, time.ppsHighUntil := some (sec * 1000000000 + width) } : State).drive pinPps true)
  else .next s

/-- TIME_SOURCE_LOSS (R509): a chain Source's link is down, or PPS_IN has had no edge for 2 s. -/
def execTimeSourceLoss (s : State) : Result :=
  let lost := match s.sourcePort with
    | some p => !s.linkUp p
    | none => s.fld .timCtrlSource 0 = 4 && s.due (s.time.lastPps + 2000000000)
  if lost then .next (s.sourceState true) else .next s

/-- TIME_CAPTURE_EDGE (R523): a rising edge of a TimeCapture pin. -/
def execTimeCaptureEdge (pin : Fin 8) (s : State) : Result :=
  let s : State := { s with board.gpioIn := s.board.gpioIn ||| (1#8 <<< pin.val) }
  if (s.pinsWith 4).contains pin.val then .next { s with board.pinCap := vset s.board.pinCap pin.val s.time.now } else .next s

end Sys2Proof.Machine
end

