-- ==== Sys2Proof/Machine/RegRead.lean ====
section
/-! DEFINITION. What a read of a register returns (R4, R532, R534): a stored field its bits, a field in force the value in force,
and a field that shows the machine what the machine holds. -/

namespace Sys2Proof.Machine

/-- The fields of a register, from the register's whole word. -/
def wholeWord (r : Reg) (w : Nat) : List (Fld × Nat) := r.fields.map fun f => (f, w / 2 ^ f.lo)

def bitVec (l : List Bool) : Nat := l.reverse.foldl (fun a b => 2 * a + b.toNat) 0

def SliceState.code : SliceState → Nat
  | .unbound => 0
  | .active => 1
  | .resetting => 2
  | .freezing => 3
  | .frozen => 4

def BankState.code : BankState → Nat
  | .free => 0
  | .loading => 1
  | .ready => 2
  | .active => 3
  | .draining => 4

def SleepState.code : SleepState → Nat
  | .awake => 0
  | .light => 1
  | .deep => 2

/-- Devices of the node as a whole: GBL, LST, FWM. -/
def State.liveDevice (s : State) (k : Nat) : Reg → List (Fld × Nat)
  | .gblRole => [(.gblRoleRoleEpoch, s.last.roleEpoch.toNat), (.gblRoleRole, s.last.role)]
  | .gblClusterState =>
    [(.gblClusterStateArithOut, s.work.arithOut.toNat),
     (.gblClusterStateSleep, (s.power.sleep.toList.reverse.map SleepState.code).foldl (fun a c => 4 * a + c) 0)]
  | .gblCoord => wholeWord .gblCoord s.coord.toNat
  | .gblCyqPort => [(.gblCyqPortUdpPort, s.trans.cyqPort.toNat)]
  | .gblHostStatus =>
    let h := s.hostPort k
    [(.gblHostStatusIdeSecure, bitVec (h.ide.toList.map fun x => x.state = 1)), (.gblHostStatusFlit, h.flit.toNat),
     (.gblHostStatusSpeed, h.speed), (.gblHostStatusWidth, h.width), (.gblHostStatusLastDown, h.lastDown),
     (.gblHostStatusSliceZero, (decide ((s.slice 0).port = k)).toNat), (.gblHostStatusLinkUp, h.up.toNat)]
  | .gblCap => if k = 0 then [] else wholeWord .gblCap 0
  | .lstStatus =>
    [(.lstStatusFallback, s.last.fallback.toNat), (.lstStatusActivating, s.activating.toNat),
     (.lstStatusInactiveState, (s.lastSlot s.spareLast).state), (.lstStatusActiveSlot, s.last.activeSlot),
     (.lstStatusCheckMode, s.multiMode.toNat),
     (.lstStatusState, if s.last.inForce.isSome then 1 else if s.last.booting then 0 else 2)]
  | .lstSerial => [(.lstSerialSerial, (s.last.inForce.map (·.serial.toNat)).getD 0)]
  | .lstPoolMap =>
    wholeWord .lstPoolMap ((((s.last.inForce.map (·.pools)).getD []).take 7).reverse.foldl (fun a p => 512 * a + p % 512) 0)
  | .fwmStatus => wholeWord .fwmStatus s.fwmStatus
  | .fwmImage => wholeWord .fwmImage s.fwmImage
  | .fwmLoad =>
    let n := if s.fw.ranNs < 10000000 then 0 else s.freeNow   -- no window has ended yet (R6, R475)
    [(.fwmLoadSecurityPct, s.busyShare 0), (.fwmLoadSchedulerPct, s.busyShare 1), (.fwmLoadPowerPct, s.busyShare 2),
     (.fwmLoadControlMaxPct, s.busyShare 3), (.fwmLoadControlMaxCore, n / 2 ^ 32),
     (.fwmLoadMbxOutstanding, (s.mailboxes.map fun m => m.2.outstanding none).sum)]
  | .secBootStatus =>
    let b := s.boot
    [(.secBootStatusFailReason, b.failReason), (.secBootStatusFailObject, b.failObject), (.secBootStatusFwFallback, b.fwFallback.toNat),
     (.secBootStatusStageFallback, b.stageFallback.toNat), (.secBootStatusStage, b.stage)]
  | .secRollback =>
    [(.secRollbackLastVersion, s.boot.fuseLast), (.secRollbackFwVersion, s.boot.fuseFw), (.secRollbackStageVersion, s.boot.fuseStage)]
  | .secLmsStat =>
    [(.secLmsStatTopNext, s.boot.topNext), (.secLmsStatRefused, s.boot.refused.toNat), (.secLmsStatBottomReady, s.boot.bottomReady.toNat),
     (.secLmsStatBottomUsed, s.boot.bottomUsed)]
  | .secOwner => [(.secOwnerSpareKey, s.boot.spareKey.toNat), (.secOwnerOwnerBank, s.boot.ownerDigests.length)]
  | .secCipherStat =>
    [(.secCipherStatStreamOut, s.keys.streamOut.toNat), (.secCipherStatDrbgHalted, s.keys.drbgHalted.toNat),
     (.secCipherStatGuardOut, s.keys.guardOut.toNat)]
  | .pwrStatus =>
    let p := s.power
    [(.pwrStatusThermalState, p.thermal.code), (.pwrStatusArithClock, s.arithClock), (.pwrStatusMemCapPct, s.memCap),
     (.pwrStatusBrake, p.brake.toNat), (.pwrStatusCapUnmet, p.capUnmet.toNat), (.pwrStatusCapStep, p.capStep),
     (.pwrStatusLimitW, p.limitW), (.pwrStatusInputW, p.inputW), (.pwrStatusHbmC, p.hbmC), (.pwrStatusJunctionC, p.junctionC)]
  | .pwrGpio => [(.pwrGpioIn, bitVec ((List.range 8).map s.pinIn))]
  | .pwrPinFault => [(.pwrPinFaultShorted, s.board.shorted.toNat)]
  | .pwrPinCap => [(.pwrPinCapNs, vget s.board.pinCap k 0)]
  | .timNow => [(.timNowNs, s.time.now)]
  | .timPpsCap => [(.timPpsCapNs, s.time.ppsCap)]
  | .timStatus =>
    [(.timStatusOffsetNs, (BitVec.ofInt 32 s.time.offsetNs).toNat), (.timStatusHoldover, s.time.holdover.toNat),
     (.timStatusSlewing, (decide (s.time.slewLeft ≠ 0)).toNat)]
  | _ => []

/-- How many devices, in order, a decoded capacity reaches into: the last of a sequence lose what is left undecoded (R308). -/
def reached : List CxlDevice → Nat → Nat
  | [], _ => 0
  | d :: r, n => if n = 0 then 0 else (if d.gib = 0 then 0 else 1) + reached r (n - d.gib)

/-- Devices of a port that hold decoded capacity: all of an interleaved set, or those reached. -/
def FarPort.decodedDevices (p : FarPort) : Nat :=
  if p.ways = 0 then reached p.devices p.decodedGiB else if p.decodedGiB = 0 then 0 else p.devices.length

/-- Memory, routes and ports. PRT_STATUS.Bypass of a chain port reads 1 while the switch is in bypass, so from reset on, before a Last is in
force (R338, PRT_BYPASS_SRC.NoLast), though its Reset column says 0 (DESIGN CHOICE, log entry 82). -/
def State.livePort (s : State) (k : Nat) : Reg → List (Fld × Nat)
  | .rteSbt =>
    let e := vget s.trans.sbt k {}
    [(.rteSbtValid, (s.sbtRtt k).isSome.toNat), (.rteSbtSource, ((minOpt e.buckets).isNone && (s.sbtRtt k).isSome).toNat),
     (.rteSbtBaseRttNs, (s.sbtRtt k).getD 0)]
  | .memScrubStat => [(.memScrubStatPasses, s.mem.passes), (.memScrubStatProgressPct, s.mem.scrubPos * 100 / nearBytes)]
  | .memErrlogStat => [(.memErrlogStatCount, s.mem.log.length)]
  | .memErrlogData0 => match s.logEntry with
    | some e =>
      [(.memErrlogData0Stamp, e.stamp), (.memErrlogData0Stack, e.stack), (.memErrlogData0Channel, e.channel), (.memErrlogData0Kind, e.kind),
       (.memErrlogData0Source, e.source)]
    | none => []
  | .memErrlogData1 => wholeWord .memErrlogData1 (logData1 s.logEntry).toNat
  | .memFarPort =>
    let p := vget s.mem.far k {}
    [(.memFarPortLinkUp, p.linkUp.toNat), (.memFarPortInService, p.inService.toNat), (.memFarPortLanes, p.lanes),
     (.memFarPortDevices, p.decodedDevices), (.memFarPortWays, p.ways), (.memFarPortBaseGiB, p.baseGiB),
     (.memFarPortDecodedGiB, p.decodedGiB)]
  | .memFarCap => [(.memFarCapDecodedGiB, s.farBytes / 2 ^ 30)]
  | .prtStatus =>
    let x := s.port k
    [(.prtStatusWireFault, x.wireFault), (.prtStatusWeltActive, x.welt.toNat), (.prtStatusBypass, (decide (8 ≤ k) && !s.chainLit).toNat),
     (.prtStatusInterface, if s.linkUp k then x.interface else 0), (.prtStatusLinkUp, (s.linkUp k).toNat),
     (.prtStatusEnabled, (s.portEnabled k).toNat)]
  | .prtCounter =>                                           -- FEC codewords: no command brings them (log entry 84)
    if (k % 36 = 12 ∨ k % 36 = 13) ∧ s.portEnabled (k / 36) then [(.prtCounterCount, s.freeNow)] else []
  | .prtMacAddr => [(.prtMacAddrMac, (portMac k).toNat)]
  | .prtLaneStat => [(.prtLaneStatLaneMap, (s.port k).laneMap), (.prtLaneStatPolarityInv, (s.port k).polarity)]
  | .prtPfcStat =>
    [(.prtPfcStatPausedTx, bitVec ((s.port k).pausedRx.toList.map fun t => s.time.now < t)),
     (.prtPfcStatXoffSent, bitVec (s.port k).xoff.toList)]
  | .prtWeltStat => [(.prtWeltStatRttNs, (s.port k).rttNs), (.prtWeltStatMeasuredM, if s.offersWelt k then (s.port k).spanM else 0)]
  | .prtWeltPeer =>
    let x := s.port k
    [(.prtWeltPeerValid, x.helloSeen.toNat), (.prtWeltPeerPeerPort, (x.peer.map (·.2)).getD 0),
     (.prtWeltPeerPeerCoord, (x.peer.map (·.1.toNat)).getD 0)]
  | .prtChainCredit =>
    let left (vl : Nat) : Nat := min 65535 (vget (s.port k).creditLimit vl 0 - vget (s.port k).creditUsed vl 0).toNat
    [(.prtChainCreditVl3, left 3), (.prtChainCreditVl2, left 2), (.prtChainCreditVl1, left 1), (.prtChainCreditVl0, left 0)]
  | .prtBypassSrc =>
    let b := s.bypass
    [(.prtBypassSrcMailbox, b.mailbox.toNat), (.prtBypassSrcPin, b.pin.toNat), (.prtBypassSrcRecord, b.record.toNat),
     (.prtBypassSrcNoLast, b.noLast.toNat)]
  | .prtThrottleStat =>
    let a := s.allowance k
    [(.prtThrottleStatAllowKiB, a / 1024), (.prtThrottleStatDepthPct, if a = 0 then 0 else s.queuedBytes k * 100 / a),
     (.prtThrottleStatLevel, (s.port k).throttle)]
  | .prtC7Stat => [(.prtC7StatCapPct, s.c7Cap)]
  | .rteStatus =>
    let r := s.route
    [(.rteStatusRouteEpoch, r.epoch.toNat), (.rteStatusBank1State, (s.bank 1).state.code), (.rteStatusBank0State, (s.bank 0).state.code),
     (.rteStatusFlipping, (r.flip.isSome || r.lastBegin.isSome).toNat), (.rteStatusActiveBank, r.active)]
  | .rteChain =>
    let c := (s.bank (k / 64)).chainOf (k % 64)
    [(.rteChainValid, c.valid.toNat), (.rteChainPos, c.pos), (.rteChainDir, c.dir)]
  | .cluArithStat => [(.cluArithStatLastUnit, vget s.work.lastUnit k 0xFF), (.cluArithStatOut, (s.arithOutOf k).toNat)]
  | .cluSvcStat => [(.cluSvcStatScratchUnits, (s.work.services.map fun v => (v.units.filter (· = k)).length).sum)]
  | _ => []

/-- A slice's window. SLC_BIND.State of slice 0 reads Active from reset on (R367, R370), though its Reset column says Unbound (DESIGN
CHOICE, log entry 82). -/
def State.liveSlice (s : State) (k : Nat) : Reg → List (Fld × Nat)
  | .xltFaultCtrl => [(.xltFaultCtrlQuotaMax, (s.quota k).pft)]
  | .xltFaultStat =>
    [(.xltFaultStatStalled, (s.xlate.waiting.filter fun w => w.access.slice = k && w.on = .stalled).length),
     (.xltFaultStatInUse, (s.xlate.pft.filter fun e => e.slice = k && e.charged).length)]
  | .xltRangeStat =>
    [(.xltRangeStatQuota, (s.quota k).ranges),
     (.xltRangeStatUsed, (s.xlate.ranges.filter fun e => e.slice = k && e.state ≠ .free).length)]
  | .slcQueueStat =>
    [(.slcQueueStatQuota, (s.quota k).queues), (.slcQueueStatUsed, (s.queue.queues.filter fun x => x.slice = k).length)]
  | .slcLaceVal =>
    let i := s.fld .slcLaceSelIndex k
    [(.slcLaceValValue, if i < (s.quota k).lace then s.laceValue k i else 0)]
  | .slcTenantTag => [(.slcTenantTagTag, (s.slice k).tenant.toNat)]
  | .slcConnStat => [(.slcConnStatQuota, (s.quota k).conns), (.slcConnStatUsed, s.connsOf k)]
  | .slcConnNear => [(.slcConnNearAllow, s.nearAllow k), (.slcConnNearInNear, s.inNear k)]
  | .slcCollStat =>
    [(.slcCollStatGroupQuota, s.groupQuota k), (.slcCollStatGroupsUsed, s.groupsOf k), (.slcCollStatSlotsReserved, s.slotsOf k)]
  | .slcSvcStat => [(.slcSvcStatOutstanding, (s.work.services.filter fun v => v.slice = k).length)]
  | .slcBind =>
    let x := s.slice k
    [(.slcBindPasidValid, x.pasid.isSome.toNat), (.slcBindPasid, (x.pasid.map (·.toNat)).getD 0), (.slcBindFunction, x.fn),
     (.slcBindPort, x.port), (.slcBindState, x.state.code)]
  | .slcStatus =>
    [(.slcStatusLastCause, (s.slice k).lastCause), (.slcStatusLogging, (s.dirtyLogs.any fun d => d.slice = k).toNat),
     (.slcStatusGeneration, s.gen k)]
  | .slcHeartbeat => [(.slcHeartbeatValue, (s.slice k).heartbeat.toNat)]
  | .slcHbCtrl => [(.slcHbCtrlArmed, (s.slice k).armed.toNat)]
  | .slcKeyStat =>
    let used (guardKind : Bool) : Nat :=
      (s.keys.slots.filter fun x => x.slice = k && x.state ≠ .empty && (decide (x.kind = 0) == guardKind)).length
    [(.slcKeyStatStreamQuota, (s.quota k).stream), (.slcKeyStatStreamUsed, used false), (.slcKeyStatGuardQuota, (s.quota k).guardKeys),
     (.slcKeyStatGuardUsed, used true)]
  | .slcCheckSel =>
    let c := s.checkCtx (s.fld .slcCheckSelCluster k) 0
    [(.slcCheckSelOwned, (decide (c.owner = some (k, s.gen k))).toNat), (.slcCheckSelInvalid, (s.checks.contains c && !c.valid).toNat)]
  | .slcCheckVal =>
    let c := s.checkCtx (s.fld .slcCheckSelCluster k) 0
    [(.slcCheckValValue, if !s.multiMode ∧ c.owner = some (k, s.gen k) then c.value.toNat else 0)]
  | .slcMbxStat =>
    let m := s.mailbox k
    let n := m.outstanding none
    [(.slcMbxStatReqConsumed, m.consumed.toNat), (.slcMbxStatOutstanding, n), (.slcMbxStatFault, m.fault.toNat),
     (.slcMbxStatIdle, (decide (n = 0)).toNat)]
  | .slcTimerDeadline =>
    let i := s.fld .slcTimerSelIndex k
    [(.slcTimerDeadlineNs, ((s.time.timers.find? fun t => t.is k i).map (·.deadline)).getD 0)]
  | .slcTimerCfg =>
    let c := s.timerCfgOf k (s.fld .slcTimerSelIndex k)
    [(.slcTimerCfgPeriodNs, c.1), (.slcTimerCfgCounter, c.2)]
  | _ => []

/-- What the machine holds, for the fields that show it. -/
def State.live (s : State) (r : Reg) (k : Nat) : List (Fld × Nat) :=
  match r.place.block with
  | .device => if r = .rteSbt ∨ r = .rteStatus ∨ r = .rteChain ∨ r = .memScrubStat ∨ r = .memErrlogStat ∨ r = .memErrlogData0
      ∨ r = .memErrlogData1 ∨ r = .memFarPort ∨ r = .memFarCap then s.livePort k r else s.liveDevice k r
  | .slice => s.liveSlice k r
  | _ => s.livePort k r

/-- What a read of a field returns (R4). -/
def State.readFld (s : State) (live : List (Fld × Nat)) (f : Fld) (k : Nat) : Nat :=
  match assoc live f with
  | some v => v
  | none => match f.acc with
    | .rw | .rc => s.fld f k
    | .rws => s.fldNow f k
    | .ro => f.reset
    | .wo | .w1s => 0

/-- What a read of a register returns. -/
def State.readReg (s : State) (r : Reg) (k : Nat) : Word64 :=
  let live := s.live r k
  r.fields.foldl (fun w f => setBits w f.hi f.lo (s.readFld live f k)) 0

/-- The fields that a read clears. -/
def State.clearRc (s : State) (r : Reg) (k : Nat) : State :=
  (r.fields.filter fun f => f.acc = .rc).foldl (fun s f => s.setFld f k 0) s

/-! ## Who reaches a register (R371, R396, R449, R533) -/

/-- GBL and TIM, which every function reads. -/
def isOpenBlock (off : Nat) : Bool := decide (off < 0x40000 ∨ (0x100000 ≤ off ∧ off < 0x140000))

/-- SEC, the one block that reads as defined in Recovery. -/
def isSecBlock (off : Nat) : Bool := decide (0x140000 ≤ off ∧ off < 0x200000)

/-- The part answers reads of its registers: it is powered and out of reset. -/
def State.answersReads (s : State) : Bool := s.board.pwrGood && s.board.resetN && !s.power.shutdown

def State.mayRead (s : State) (f : Func) (off : Nat) (r : Reg) (k : Nat) : Bool :=
  if s.boot.stage = 3 then isSecBlock off && decide (f.fn = 0)
  else if r.place.block = .slice then s.bound k f
  else isOpenBlock off || s.isManager f

def State.mayWrite (s : State) (f : Func) (r : Reg) (k : Nat) : Bool :=
  if r.place.block = .slice then s.bound k f else s.isManager f

/-! ## The queues' areas in BAR2 (R98, R118) -/

def QState.code : QState → Nat
  | .disabled => 0
  | .running => 1
  | .draining => 2
  | .halted => 3
  | .inReset => 4

/-- QDB_STATUS. -/
def Queue.statusWord (x : Queue) : Word64 :=
  let started := (x.started.filter fun d => d.ended.isNone).length
  BitVec.ofNat 64 (x.head.toNat * 2 ^ 32 + x.lastStatus.toNat * 2 ^ 16 + started * 2 ^ 7 + x.idle.toNat * 8 + x.state.code)

/-- A read of `width` bytes at a BAR0 offset, or from 2^32 on at a BAR2 offset plus 2^32 (log 74), that reaches no register of
BAR0: QDB_CTRL, whose Resume reads 0, and QDB_STATUS of a queue whose slice is bound to the function. The other registers
of an area are write-only, and every other read returns zero (R98, R532). -/
def State.readBar2 (s : State) (f : Func) (off width : Nat) : Word64 :=
  let at_ := off - 2 ^ 32
  let mine (x : Queue) : Bool := s.bound x.slice f && decide (x.groupSlot * 4096 + x.number % 8 * 512 = at_ / 512 * 512)
  match if off < 2 ^ 32 then none else s.queue.queues.find? mine with
  | none => 0
  | some x =>
    if at_ % 512 = 0x008 ∧ width = 4 then BitVec.ofNat 64 x.enable.toNat
    else if at_ % 512 = 0x010 ∧ width = 8 then x.statusWord
    else 0

/-- The register that an access reaches: one aligned access of the register's width, in bytes (R532). -/
def accessAt (off width : Nat) : Option (Reg × Nat) := (regAt off).filter fun x => x.1.place.width = 8 * width

end Sys2Proof.Machine
end

