-- ==== Sys2Proof/Machine/Slices.lean ====
section
/-! DEFINITION. Slices: binding, reset, heartbeat, dirty-page logging, freeze, save, restore and thaw (chapter 15). -/

namespace Sys2Proof.Machine

/-! ## Binding (R368, R369) -/

/-- The binding would break R368: on one function either every bound slice of 1 to 511 has a PASID of its own, or one slice
is bound and has none. -/
def State.bindBreaks (s : State) (k : Nat) (f : Func) (pasid : Option (BitVec 20)) : Bool :=
  (s.slicesWith fun x => x.state ≠ .unbound && x.func = f && (pasid.isNone || x.pasid.isNone || x.pasid = pasid)).any fun j =>
    j ≠ 0 && j ≠ k

/-- SLICE_BIND. -/
def execSliceBind (slice : Fin 512) (tag : Word32) (target : Nat) (port fn : Nat) (pasid : Option (BitVec 20)) (s : State) : Result :=
  .next <| s.command slice tag MbxOp.sliceBind fun s =>
    let f : Func := ⟨Fin.ofNat 2 port, Fin.ofNat 256 fn⟩
    if slice ≠ 0 then (s, Status.localAccess, [])
    else if target = 0 ∨ 511 < target ∨ 1 < port ∨ 255 < fn ∨ !s.funcEnabled f ∨ s.bindBreaks target f pasid then
      (s, Status.descMalformed, [])
    else if (s.slice target).state ≠ .unbound then (s, Status.busy, [])
    else (s.modSlice target fun x => { x with state := .active, port, fn, pasid }, Status.success, [])

/-- SLICE_UNBIND: the slice is reset, left Unbound, and then the command is answered. One that is Unbound already stays so. -/
def execSliceUnbind (slice : Fin 512) (tag : Word32) (target : Nat) (s : State) : Result :=
  match s.take slice tag MbxOp.sliceUnbind with
  | (s, false) => .next s
  | (s, true) =>
    let answer (c : Status) : Result := .next (s.answer slice tag MbxOp.sliceUnbind c 0 [])
    if slice ≠ 0 then answer Status.localAccess
    else if target = 0 ∨ 511 < target then answer Status.descMalformed
    else match (s.slice target).state with
      | .unbound => answer Status.success
      | .active => .next (s.resetSlice target 6 (some (slice.val, tag)) true).settle
      | _ => answer Status.busy

/-! ## Reset (R375 to R377) -/

/-- SLICE_RESET: of the slice itself, or by slice 0 of the one it names. -/
def execSliceReset (slice : Fin 512) (tag : Word32) (target : Fin 512) (s : State) : Result :=
  match s.take slice tag MbxOp.sliceReset with
  | (s, false) => .next s
  | (s, true) =>
    if slice ≠ 0 ∧ slice ≠ target then .next (s.answer slice tag MbxOp.sliceReset Status.localAccess 0 [])
    else if (s.slice target).state = .unbound then .next (s.answer slice tag MbxOp.sliceReset Status.descMalformed 0 [])
    else .next (s.resetSlice target (if slice = target then 1 else 2) (some (slice.val, tag)) false).settle

/-- SLICE_RESET_DRAIN_DONE: steps 6 and 7. -/
def execSliceResetDrainDone (target : Fin 512) (s : State) : Result :=
  if (s.slice target).state = .resetting ∧ s.resetDrained target then .next ((s.destroyObjects target).finishReset target)
  else .next s

/-! ## Heartbeat and FLR (R379, R380) -/

/-- A write of SLC_HEARTBEAT. -/
def State.beat (s : State) (k : Nat) (value : Word64) : State :=
  let limit := s.time.now + s.beatLimit k
  s.modSlice k fun x => { x with heartbeat := value, beatAt := s.time.now, armed := true, hbDeadline := limit }

/-- HEARTBEAT. During a reset it is ignored, as the window is not reached then (R378, R380). -/
def execHeartbeat (f : Func) (slice : Fin 512) (value : Word64) (s : State) : Result :=
  if s.bound slice f then .next (s.beat slice value) else .next s

/-- HEARTBEAT_EXPIRY: HEARTBEAT_LOST, and a reset with cause 3. -/
def execHeartbeatExpiry (slice : Fin 512) (s : State) : Result :=
  let x := s.slice slice
  if x.armed ∧ s.passed x.hbDeadline then
    let s := s.modSlice slice fun x => { x with armed := false }
    let s := s.raise { slice := 0, code := EventCode.heartbeatLost, object := slice, detail := x.beatAt }
    .next (s.resetSlice slice 3 none false).settle
  else .next s

/-- FLR (R380): every slice bound to the function is reset, its page requests are freed, and the function's settings return to
their reset values. In the pause of a Last activation it waits (R49). -/
def execFlr (f : Func) (s : State) : Result := .next (s.takeFlr f).settle

/-! ## Dirty-page logging (R381, R383) -/

/-- A bitmap lies in a Pinned host-tier region of slice 0 that grants LocalRead and LocalWrite. -/
def State.bitmapOk (s : State) (offset bytes : Nat) : Bool :=
  (s.search 0 offset bytes).any fun e => e.state = .active && e.pinned && e.tier.isHost && e.perm.getLsbD 0 && e.perm.getLsbD 1

/-- Bytes of a bitmap of so many pages. -/
def bitmapBytes (pages : Nat) : Nat := ceilDiv (ceilDiv pages 8) 8 * 8

/-- DIRTY_START. -/
def execDirtyStart (slice : Fin 512) (tag : Word32) (target : Fin 512) (iovaBase pages bitmap0 bitmap1 bytes : Nat) (s : State) : Result :=
  .next <| s.command slice tag MbxOp.dirtyStart fun s =>
    if slice ≠ 0 then (s, Status.localAccess, [])
    else if (s.findLog target).isSome then (s, Status.busy, [])
    else if iovaBase % 4096 ≠ 0 ∨ bytes < bitmapBytes pages then (s, Status.descMalformed, [])
    else if !s.bitmapOk bitmap0 (bitmapBytes pages) ∨ !s.bitmapOk bitmap1 (bitmapBytes pages) then (s, Status.localAccess, [])
    else
      let d : DirtyLog := { slice := target, base := iovaBase, pages, bitmap0, bitmap1, lastFlush := s.time.now }
      ({ s with dirtyLogs := s.dirtyLogs ++ [d] }, Status.success, [])

/-- DIRTY_SYNC and DIRTY_STOP flush, and are answered when the bitmap is written. -/
def State.endLogging (s : State) (slice : Nat) (tag : Word32) (target : Nat) (stop : Bool) : State :=
  let refuse (c : Status) : State := s.respond (slice, tag) c []
  if slice ≠ 0 then refuse Status.localAccess
  else match s.findLog target with
    | none => refuse Status.descMalformed
    | some d =>
      if d.waiter.isSome then refuse Status.busy
      else ((s.modLog target fun d => { d with waiter := some (slice, tag, stop) }).flushLog target (!stop)).releaseLog

/-- DIRTY_STOP. -/
def execDirtyStop (slice : Fin 512) (tag : Word32) (target : Fin 512) (s : State) : Result :=
  match s.take slice tag MbxOp.dirtyStop with
  | (s, false) => .next s
  | (s, true) => .next (s.endLogging slice tag target true).settle

/-- DIRTY_SYNC. -/
def execDirtySync (slice : Fin 512) (tag : Word32) (target : Fin 512) (s : State) : Result :=
  match s.take slice tag MbxOp.dirtySync with
  | (s, false) => .next s
  | (s, true) => .next (s.endLogging slice tag target false).settle

/-- DIRTY_FLUSH: every 100 µs, and at once when the log is three-quarters full. A log that a command flushes waits. -/
def execDirtyFlush (s : State) : Result :=
  let full := decide (49152 ≤ s.logUsed)
  let hit := s.dirtyLogs.filter fun d => d.waiter.isNone && (full || s.due (d.lastFlush + 100000))
  .next (hit.foldl (fun s d => s.flushLog d.slice false) s).releaseLog.settle

/-! ## Freeze, save, restore, thaw (R384 to R387) -/

/-- SLICE_FREEZE: answered once the slice is Frozen. -/
def execSliceFreeze (slice : Fin 512) (tag : Word32) (target : Fin 512) (s : State) : Result :=
  match s.take slice tag MbxOp.sliceFreeze with
  | (s, false) => .next s
  | (s, true) =>
    let answer (c : Status) : Result := .next (s.answer slice tag MbxOp.sliceFreeze c 0 [])
    if slice ≠ 0 then answer Status.localAccess
    else match (s.slice target).state with
      | .active => .next (s.modSlice target fun x => { x with state := .freezing, freezer := some (slice.val, tag), saved := false })
      | .unbound => answer Status.descMalformed
      | _ => answer Status.busy

/-- FREEZE_DRAINED. -/
def execFreezeDrained (target : Fin 512) (s : State) : Result :=
  let x := s.slice target
  if x.state = .freezing ∧ s.frozenReady target then
    .next ((s.modSlice target fun x => { x with state := .frozen, freezer := none }).respondTo x.freezer Status.success [])
  else .next s

/-- SLICE_SAVE: the image goes to the command's buffer; `bufferOk` says that it took it (R473). -/
def execSliceSave (slice : Fin 512) (tag : Word32) (target : Fin 512) (length : Nat) (bufferOk : Bool) (s : State) : Result :=
  .next <| s.command slice tag MbxOp.sliceSave fun s =>
    let k := target.val
    let i := s.sealedImage k
    let size := s.imageSize k i
    if slice ≠ 0 then (s, Status.localAccess, [])
    else if (s.slice k).state ≠ .frozen ∨ (s.work.groups.any fun g => g.slice = k) ∨ (s.xlate.eyelet.any fun e => e.slice = k) then
      (s, Status.busy, [])
    else if s.trans.conns.any fun c => c.slice = k && (c.sendSlot.isSome || c.recvSlot.isSome) then
      (s, Status.descUnsupportedOp, [])
    else if length < size then (s, Status.noResources, [size])
    else if !bufferOk then (s, Status.xlateDenied, [])
    else ((s.modSlice k fun x => { x with saved := true }).emit (.sliceImage k i), Status.success, [size])

/-- SLICE_RESTORE: `image` is what the buffer held, none where it could not be read. -/
def execSliceRestore (slice : Fin 512) (tag : Word32) (target : Fin 512) (image : Option SliceImage) (s : State) : Result :=
  .next <| s.command slice tag MbxOp.sliceRestore fun s =>
    let k := target.val
    if slice ≠ 0 then (s, Status.localAccess, [])
    else if (s.slice k).state = .resetting then (s, Status.busy, [])
    else match image with
      | none => (s, Status.xlateDenied, [])
      | some i =>
        if i.crc ≠ imageCrc i then (s, Status.checkMismatch, [])
        else if i.contractMajor ≠ s.fld .gblContractMajor 0 then (s, Status.descMalformed, [])
        else if (s.slice k).state ≠ .active ∨ s.owns k then (s, Status.busy, [])
        else if !s.imageFits k i then (s, Status.noResources, [])
        else (s.loadImage k i, Status.success, [])

/-- RE_HOME to the peer of an end. -/
def State.sendReHome (s : State) (k : Nat) (c : Conn) : State :=
  let old := (s.slice k).oldCoord
  s.sendCtrl c.peer (.reHome c.peerIndex c.peerInc old (BitVec.ofNat 24 c.index) (c.rehome.getD c.incarnation) s.coord c.incarnation)

/-- SLICE_THAW: at once where the slice has not been saved; after RE_HOME where it was restored. -/
def execSliceThaw (slice : Fin 512) (tag : Word32) (target : Fin 512) (s : State) : Result :=
  match s.take slice tag MbxOp.sliceThaw with
  | (s, false) => .next s
  | (s, true) =>
    let k := target.val
    let x := s.slice k
    let answer (c : Status) : Result := .next (s.answer slice tag MbxOp.sliceThaw c 0 [])
    if slice ≠ 0 then answer Status.localAccess
    else if x.state ≠ .frozen ∧ x.state ≠ .freezing then answer Status.busy
    else if x.restored then
      if x.thawer.isSome then answer Status.busy
      else
        let mine := s.trans.conns.filter fun c => c.slice = k
        let s := s.modSlice k fun x => { x with thawer := some (slice.val, tag), rehomed := mine.map (·.index), unanswered := 0 }
        .next ((mine.foldl (fun s c => s.sendReHome k c) s).finishThaw k)
    else if x.saved then answer Status.busy
    else
      let s := (s.modSlice k fun x => { x with state := .active, freezer := none }).respondTo x.freezer Status.busy []
      let s := s.answer slice tag MbxOp.sliceThaw Status.success 0 [0]
      .next ((s.trans.conns.filter fun c => c.slice = k).foldl (fun s c => s.kick c.index) s)

end Sys2Proof.Machine
end

