-- ==== Sys2Proof/Machine/Registers.lean ====
section
/-! DEFINITION. Accesses of the registers that have no command of their own (R4, R532). -/

namespace Sys2Proof.Machine

/-- The driver writes PWR_GPIO: the pins whose function is GpioOut are driven (R523). -/
def State.writeGpio (s : State) (v : Word64) : State :=
  let s := s.storeReg .pwrGpio 0 v
  (s.pinsWith 2).foldl (fun s p => s.drive p ((s.fld .pwrGpioOut 0).testBit p)) s

/-- SLC_TIMER_CFG of the selected timer (R510). -/
def State.writeTimerCfg (s : State) (k : Nat) (v : Word64) : State :=
  let i := s.fld .slcTimerSelIndex k
  if (s.quota k).timers ≤ i then s
  else { s with time.timerCfg := assocSet s.time.timerCfg (k, i) (bitsOf v 63 32, bitsOf v 17 0) }

/-- GBL_HOST_IDE_CTRL: where IDE becomes required while the stream that covers host memory is Insecure, the port is handled as
link down (R410). -/
def State.writeIde (s : State) (p : Nat) (v : Word64) : State :=
  let s := s.storeReg .gblHostIdeCtrl p v
  let h := s.hostPort p
  if h.up ∧ s.fld .gblHostIdeCtrlRequired p = 1 ∧ (h.ide.toList.any fun x => x.state = 2 && x.covers 0xFFFF) then s.endLink p 4
  else s

/-- A write acts by its fields' access types; a register whose write acts on the machine does so. SLC_MBX_DB is rung by
MBX_DOORBELL, which carries what the ring holds. -/
def State.writeReg (s : State) (r : Reg) (k : Nat) (v : Word64) : State :=
  match r with
  | .prtLinkCtrl => s.writeLinkCtrl k v
  | .memArbCommit => if v.getLsbD 0 then s.commitReg .memArbRank 0 else s
  | .prtSchedCommit => if v.getLsbD 0 then s.askCommit k else s
  | .memScrubCtrl => s.setScrub v
  | .timSet => s.setTime v
  | .timSlew => s.setSlew v
  | .timFreq => s.setFreq (v.setWidth 32)
  | .timCtrl => s.setTimCtrl v
  | .pwrGpio => s.writeGpio v
  | .gblHostIdeCtrl => s.writeIde k v
  | .slcHeartbeat => s.beat k v
  | .slcLaceVal => s.setLaceVal k v
  | .slcCheckVal => s.loadCheck k v
  | .slcTimerDeadline => s.armTimer k v
  | .slcTimerCfg => s.writeTimerCfg k v
  | .slcMbxCtrl => s.setMbxCtrl k v
  | .slcMbxReqBase | .slcMbxRspBase => if s.fld .slcMbxCtrlEnable k = 1 then s else s.storeReg r k v
  | _ => s.storeReg r k v

/-- REGISTER_WRITE: an access of `width` bytes at a BAR0 offset. One that is narrow or misaligned, that finds no register, or that
its function may not make, is ignored (R371, R396, R532). A write of the function's MSI-X table acts there. -/
def execRegisterWrite (f : Func) (offset width : Nat) (value : Word64) (s : State) : Result :=
  match accessAt offset width with
  | none => if (tableAt f offset).isSome then .next (s.writeMsix f offset width value).settle else .next s
  | some (r, k) => if s.mayWrite f r k then .next (s.writeReg r k value).settle else .next s

/-- REGISTER_READ_CLEAR: the read returns the register's value, and its RC fields become zero in the same access. A read that
reaches no register clears nothing, and returns zero or what BAR2 holds there. -/
def execRegisterReadClear (f : Func) (offset width : Nat) (s : State) : Result :=
  if !s.answersReads then .next s
  else match accessAt offset width with
    | none => .next (s.emit (.readData f ((s.readMsix f offset width).getD (s.readBar2 f offset width))))
    | some (r, k) =>
      if !s.mayRead f offset r k then .next (s.emit (.readData f 0))
      else
        let v := s.readReg r k
        let s := s.clearRc r k
        let s := if r = .memErrlogData1 then s.markRead else if r = .fwmLoad ∨ r = .prtCounter then s.advanceFree else s
        .next (s.emit (.readData f v))

end Sys2Proof.Machine
end

