-- ==== Sys2Proof/Machine/Remote.lean ====
section
/-! DEFINITION. The remote memory opcodes at their initiator (R127 to R131). -/

namespace Sys2Proof.Machine

/-- WRITE (R127). -/
def execWrite (q : Nat) (count : Word32) (s : State) : Result :=
  match s.startRemote q count Op.write .write with
  | (s, some c) => .next (s.kickSet c).settle
  | (s, none) => .next s

/-- WRITE_INC (R127). -/
def execWriteInc (q : Nat) (count : Word32) (s : State) : Result :=
  match s.startRemote q count Op.writeInc .writeInc with
  | (s, some c) => .next (s.kickSet c).settle
  | (s, none) => .next s

/-- FETCH_ADD (R131). -/
def execFetchAdd (q : Nat) (count : Word32) (s : State) : Result :=
  match s.startRemote q count Op.fetchAdd .fetchAdd with
  | (s, some c) => .next (s.kick c.index).settle
  | (s, none) => .next s

/-- CMP_SWAP (R131). -/
def execCmpSwap (q : Nat) (count : Word32) (s : State) : Result :=
  match s.startRemote q count Op.cmpSwap .cmpSwap with
  | (s, some c) => .next (s.kick c.index).settle
  | (s, none) => .next s

/-- READ (R127, R129): posts the operation and sends its first segment if it can go. -/
def execRead (q : Nat) (count : Word32) (s : State) : Result :=
  match s.startRemote q count Op.read .read with
  | (s, none) => .next s
  | (s, some c) =>
    match s.findConn c.index, s.readOpOf q count with
    | some c, some (_, o) => if c.hasTurn o.id then .next (s.sendSegment o c).settle else .next s
    | _, _ => .next s

/-- READ_SEGMENT_SEND (R129): the next segment of a READ. -/
def execReadSegmentSend (q : Nat) (count : Word32) (s : State) : Result :=
  match s.readOpOf q count with
  | none => .next s
  | some (c, o) => if c.hasTurn o.id then .next (s.sendSegment o c).settle else .next s

end Sys2Proof.Machine
end

