-- ==== Sys2Proof/Machine/Route.lean ====
section
/-! DEFINITION. The route commands and messages (R354 to R358). -/

namespace Sys2Proof.Machine

/-- RT_BEGIN at a worker (R356 step 1): the winning claimant's begins the load of the inactive bank; any other is answered
with RT_ABORT. It is left unanswered while the bank drains. -/
def State.takeBegin (s : State) (a : Arrival) (src : Coord) (seq epoch mgr roleEpoch : Word32) : State :=
  if !sameGroup src s.coord then s
  else if !claimWins (src, roleEpoch) s.claimNow then s.answerCtrl a src (.rtAbort epoch) seq
  else
    let s := if s.activeBank.isNone then { s with route.active := (epoch.toNat + 1) % 2 } else s
    if (s.bank s.inactive).state = .draining then s
    else
      let full := decide (s.route.epoch ≠ mgr)
      let s := s.loadBank epoch (!full)
      let s := { s with route.claim := some (src, roleEpoch), route.lastBegin := some epoch }
      s.answerCtrl a src (.rtBeginAck epoch s.route.epoch full) seq

/-- RT_BEGIN. -/
def execRtBegin (a : Arrival) (epoch mgrEpoch roleEpoch : Word32) (t : Trailer) (s : State) : Result :=
  .next (s.guardedCtrl a (.rtBegin epoch mgrEpoch roleEpoch) t fun s src seq => s.takeBegin a src seq epoch mgrEpoch roleEpoch)

/-- RT_BEGIN_ACK at the manager: the loads go out (step 2). -/
def execRtBeginAck (a : Arrival) (epoch : Word32) (full : Bool) (t : Trailer) (s : State) : Result :=
  .next (s.guardedCtrl a (.rtBeginAck epoch s.route.epoch full) t fun s src seq =>
    match s.flipAnswer src seq epoch with
    | none => s.lateAnswer src seq
    | some _ =>
      let s := (s.dropCtrl fun o => o.seq = seq && o.dst = src).modWorker (coordNode src) fun w => { w with began := true, full }
      s.sendLoads (coordNode src) epoch full)

/-- The message is of the load in progress, from the claimant followed. -/
def State.loadingFrom (s : State) (src : Coord) (epoch : Word32) : Bool :=
  s.route.lastBegin = some epoch && s.route.claim.any (fun c => c.1 = src) && (s.bank s.inactive).state = .loading

/-- RT_LOAD at a worker. -/
def execRtLoad (a : Arrival) (epoch : Word32) (items : RouteItems) (t : Trailer) (s : State) : Result :=
  .next (s.guardedCtrl a (.rtLoad epoch items) t fun s src seq =>
    if s.loadingFrom src epoch then (s.modBank s.inactive fun b => b.put items).ackCtrl a src seq else s)

/-- RT_COMMIT at a worker (step 3). -/
def execRtCommit (a : Arrival) (epoch : Word32) (crc : Word64) (t : Trailer) (s : State) : Result :=
  .next (s.guardedCtrl a (.rtCommit epoch crc) t fun s src seq =>
    if !s.loadingFrom src epoch then s
    else
      let b := s.bank s.inactive
      let st := if b.crc ≠ crc then 1 else if b.ok s.coord then 0 else 2
      let s := if st = 0 then s.modBank s.inactive fun b => { b with state := .ready } else s
      s.answerCtrl a src (.rtReady epoch st) seq)

/-- RT_READY at the manager: once every worker is Ready, it flips (step 4); a status other than ready ends the flip. -/
def execRtReady (a : Arrival) (epoch : Word32) (status : Nat) (t : Trailer) (s : State) : Result :=
  .next (s.guardedCtrl a (.rtReady epoch status) t fun s src seq =>
    match s.flipAnswer src seq epoch with
    | none => s.lateAnswer src seq
    | some _ =>
      let s := s.dropCtrl fun o => o.seq = seq && o.dst = src
      if status ≠ 0 then s.workerFailed Status.descMalformed
      else (s.modWorker (coordNode src) fun w => { w with ready := true }).tryFlip)

/-- RT_FLIP at a worker: its Ready bank becomes Active; a repeat is answered again (step 4). -/
def execRtFlip (a : Arrival) (epoch : Word32) (t : Trailer) (s : State) : Result :=
  .next (s.guardedCtrl a (.rtFlip epoch) t fun s src seq =>
    let mine := s.route.lastBegin = some epoch ∧ (s.bank s.inactive).state = .ready ∧ s.route.claim.any (fun c => c.1 = src)
    if mine then (s.flipBanks epoch).answerCtrl a src (.rtFlipAck epoch) seq
    else if s.route.epoch = epoch then s.answerCtrl a src (.rtFlipAck epoch) seq
    else s)

/-- RT_FLIP_ACK at the manager (step 5). -/
def execRtFlipAck (a : Arrival) (epoch : Word32) (t : Trailer) (s : State) : Result :=
  .next (s.guardedCtrl a (.rtFlipAck epoch) t fun s src seq =>
    match s.flipAnswer src seq epoch with
    | none => s.lateAnswer src seq
    | some _ =>
      ((s.dropCtrl fun o => o.seq = seq && o.dst = src).modWorker (coordNode src) fun w => { w with flipped := true }).finishFlip
        false)

/-- RT_ABORT (R357): as a worker's answer it ends the manager's flip; from the manager it returns a worker's Loading or
Ready bank to Free. -/
def execRtAbort (a : Arrival) (epoch : Word32) (t : Trailer) (s : State) : Result :=
  .next (s.guardedCtrl a (.rtAbort epoch) t fun s src seq =>
    match s.flipAnswer src seq epoch with
    | some _ => (s.dropCtrl fun o => o.seq = seq && o.dst = src).workerFailed Status.peerUnreachable
    | none =>
      let s := s.lateAnswer src seq
      let b := s.bank s.inactive
      let mine := s.route.lastBegin = some epoch ∧ (b.state = .loading ∨ b.state = .ready) ∧ s.route.claim.any (fun c => c.1 = src)
      let s := if mine then
          (({ s with route.lastBegin := none } : State).modBank s.inactive fun _ => {}).bump .rteStatAborts 0 else s
      s.ackCtrl a src seq)

/-- DRAIN_INTERVAL_END (R354): the Draining bank becomes Free. -/
def execDrainIntervalEnd (s : State) : Result :=
  match s.route.drainEnd with
  | none => .next s
  | some t =>
    if s.passed t then
      .next { s with route.drainEnd := none,
                     route.banks := s.route.banks.map fun b => if b.state = .draining then {} else b }
    else .next s

/-- The items of a ROUTE_WRITE are within the tables. -/
def itemsInRange : RouteItems → Bool
  | .entries first items => decide (1 ≤ items.length ∧ items.length ≤ 64 ∧ first + items.length ≤ 16384)
  | .chain first items => decide (1 ≤ items.length ∧ items.length ≤ 64 ∧ first + items.length ≤ 64)

/-- A flip runs: this node's own, or that of the claimant it follows, whose load it has begun (R355). -/
def State.flipRuns (s : State) : Bool :=
  s.route.flip.isSome || (s.route.lastBegin.isSome && s.claimNow ≠ some (s.coord, s.last.roleEpoch))

/-- ROUTE_WRITE (R355). A Ready bank that no flip uses is written as it stands, and is Loading again (DESIGN CHOICE, log entry 85). -/
def State.routeWrite (s : State) (slice : Nat) (items : RouteItems) : State × Status × List Nat :=
  let b := s.bank s.inactive
  if slice ≠ 0 then (s, Status.localAccess, [])
  else if s.last.role = 0 ∨ !itemsInRange items then (s, Status.descMalformed, [])
  else if b.state = .draining ∨ s.flipRuns then (s, Status.busy, [])
  else
    let s := if b.state = .free then s.loadBank (s.route.epoch + 1) true else s
    (s.modBank s.inactive fun b => { b.put items with state := .loading }, Status.success, [])

def execRouteWrite (slice : Fin 512) (tag : Word32) (items : RouteItems) (s : State) : Result :=
  .next (s.command slice tag MbxOp.routeWrite fun s => s.routeWrite slice items)

/-- ROUTE_READ (R355): entries or records of either bank. -/
def State.routeRead (s : State) (slice bank : Nat) (chain : Bool) (first count : Nat) : State × Status × List Nat :=
  let b := s.bank bank
  if slice ≠ 0 then (s, Status.localAccess, [])
  else if count = 0 ∨ 64 < count ∨ (if chain then 64 else 16384) < first + count then (s, Status.descMalformed, [])
  else if chain then (s, Status.success, (List.range count).map fun k => chainWord (b.chainOf (first + k)))
  else (s, Status.success, (List.range count).map fun k => leNat (routeImage (b.entry (first + k))))

def execRouteRead (slice : Fin 512) (tag : Word32) (bank : Fin 2) (chain : Bool) (first count : Nat) (s : State) : Result :=
  .next (s.command slice tag MbxOp.routeRead fun s => s.routeRead slice bank chain first count)

/-- Start a flip (R356): the checks, then RT_BEGIN to every named worker. -/
def State.startFlip (s : State) (slice : Nat) (tag : Word32) (mask : Word64) : State :=
  let b := s.bank s.inactive
  let answer (c : Status) : State := s.respond (slice, tag) c []
  if slice ≠ 0 then answer Status.localAccess
  else if s.last.role = 0 then answer Status.descMalformed
  else if s.route.flip.isSome ∨ s.route.drainEnd.isSome ∨ b.state = .draining then answer Status.busy
  else if (b.state ≠ .loading ∧ b.state ≠ .ready) ∨ !b.ok s.coord then answer Status.descMalformed
  else
    let e := s.route.epoch
    let nodes := (List.range 64).filter fun n => mask.getLsbD n && n ≠ coordNode s.coord
    let x : Flip := { slice, tag, epoch := e + 1, workers := nodes.map fun n => { node := n } }
    let s := ({ s with route.flip := some x, route.lastBegin := none } : State).modBank s.inactive fun b => { b with state := .ready }
    (nodes.foldl (fun s n => s.sendCtrl (s.groupNode n) (.rtBegin (e + 1) e s.last.roleEpoch)) s).tryFlip

/-- ROUTE_FLIP (R356). -/
def execRouteFlip (slice : Fin 512) (tag : Word32) (memberMask : Word64) (s : State) : Result :=
  match s.take slice tag MbxOp.routeFlip with
  | (s, false) => .next s
  | (s, true) => .next (s.startFlip slice tag memberMask)

end Sys2Proof.Machine
end

