-- ==== Sys2Proof/Machine/Services.lean ====
section
/-! DEFINITION. The commands of services (chapter 11): the service opcodes, deferred starts, pieces, gates and the steps of
LOWRANK. -/

namespace Sys2Proof.Machine

/-- QUANT (R280). -/
def execQuant (q : Nat) (count : Word32) (s : State) : Result := .next (s.svcPostDesc q count Op.quant).settle

/-- LOWRANK (R285). -/
def execLowrank (q : Nat) (count : Word32) (s : State) : Result := .next (s.svcPostDesc q count Op.lowrank).settle

/-- OPTSTEP (R282). -/
def execOptstep (q : Nat) (count : Word32) (s : State) : Result := .next (s.svcPostDesc q count Op.optstep).settle

/-- CKPT (R289). -/
def execCkpt (q : Nat) (count : Word32) (s : State) : Result := .next (s.svcPostDesc q count Op.ckpt).settle

/-- RESTORE (R290). -/
def execRestore (q : Nat) (count : Word32) (s : State) : Result := .next (s.svcPostDesc q count Op.restore).settle

/-- The deferred service that comes next: slices in ascending order from the one after the one last served, each slice's
services in start order (R474). -/
def State.nextService (s : State) : Option Service :=
  let ready := s.work.services.filter (·.deferred)
  (List.range 512).findSome? fun i =>
    match ready.find? fun v => v.slice = (s.work.serviceTurn + 1 + i) % 512 with
    | some v => if s.svcFits v then some v else none
    | none => none

/-- SERVICE_START (R474): a deferred service whose scratch units are free starts. -/
def execServiceStart (s : State) : Result :=
  match s.nextService with
  | none => .next s
  | some v => .next (({ s with work.serviceTurn := v.slice } : State).svcStart v).settle

/-- SERVICE_PIECE (R274): one piece of QUANT or OPTSTEP, whose turn it is on its cluster; a stream service is carried on. -/
def execServicePiece (q : Nat) (count : Word32) (piece : Nat) (host : List MemCell) (s : State) : Result :=
  match s.findSvc q count with
  | none => .next s
  | some v =>
    if s.fw.resetting then .next s
    else if v.stage = 3 ∧ (v.isCkpt ∨ v.opcode = Op.restore) then .next (s.streamPump v).settle
    else .next (s.runPiece v piece host).settle

/-- LOWRANK_STEP (R285): the next step, or the end of a collective operation's. -/
def execLowrankStep (q : Nat) (count : Word32) (host : List MemCell) (s : State) : Result :=
  match s.findSvc q count with
  | none => .next s
  | some v => if v.opcode = Op.lowrank ∧ !s.fw.resetting then .next (s.lowStep v host).settle else .next s

/-- Poll one gated piece. -/
def State.pollGate (s : State) (q : Nat) (count : Word32) (host : List MemCell) (p : Piece) : State :=
  match s.findSvc q count with
  | none => s
  | some v =>
    match s.svcRead v p.cluster host (v.f64 80 + 8 * p.index) 8 with
    | (s, .done b) =>
      if leNat b = v.f64 88 then
        let open_ (x : Piece) : Piece := { x with gate := false, polled := true }
        s.modSvc q count fun v =>
          { v with opened := v.opened ++ [p.index], pieces := updWhere (fun x => x.index = p.index) open_ v.pieces }
      else
        let s := if p.polled then s else s.bump .cluSvcStatGateWaits p.cluster
        s.modSvc q count fun v =>
          { v with pieces := updWhere (fun x => x.index = p.index) (fun x => { x with polled := true }) v.pieces }
    | (s, .fail c) => s.failSvc v c
    | (s, _) => s

/-- GATE_POLL (R284): the Cell Complex of a cluster reads the flags of its waiting pieces. -/
def execGatePoll (cluster : Fin 8) (host : List MemCell) (s : State) : Result :=
  .next (s.work.services.foldl (fun s v =>
    if v.stage = 3 ∧ !s.fw.resetting then
      (v.pieces.filter fun p => p.gate && p.cluster = cluster.val).foldl (fun s p => s.pollGate v.q v.count host p) s
    else s) s).settle

/-- GATE_DEADLINE (R284): the Deadline has passed with a piece still waiting. -/
def execGateDeadline (q : Nat) (count : Word32) (s : State) : Result :=
  match s.findSvc q count with
  | none => .next s
  | some v =>
    if v.stage = 3 ∧ v.gated ∧ v.deadline ≠ 0 ∧ s.passed v.deadline ∧ v.pieces.any (·.gate) then
      .next (s.endSvc q count Status.waitTimeout 0)
    else .next s

end Sys2Proof.Machine
end

