-- ==== Sys2Proof/Machine/Dispatch.lean ====
section
/-! DEFINITION. The dispatch of commands to their meanings, one arm for each row of spec/opcode_table.json. -/

namespace Sys2Proof.Machine

def exec (i : Instr) (s : State) : Host.Outcome State Fault Refusal :=
  match i with
  | .qdbDoorbell f q count => Sys2Proof.Machine.execQdbDoorbell f q count s
  | .completionDoorbell f q count arm => Sys2Proof.Machine.execCompletionDoorbell f q count arm s
  | .qdbPush f q bytes => Sys2Proof.Machine.execQdbPush f q bytes s
  | .queueEnable f q => Sys2Proof.Machine.execQueueEnable f q s
  | .queueDisable f q => Sys2Proof.Machine.execQueueDisable f q s
  | .queueResume f q => Sys2Proof.Machine.execQueueResume f q s
  | .descriptorFetch q => Sys2Proof.Machine.execDescriptorFetch q s
  | .descriptorArrival q count res => Sys2Proof.Machine.execDescriptorArrival q count res s
  | .descriptorRefetch q count => Sys2Proof.Machine.execDescriptorRefetch q count s
  | .descriptorStart q => Sys2Proof.Machine.execDescriptorStart q s
  | .completionDelivery q => Sys2Proof.Machine.execCompletionDelivery q s
  | .completionRecord cq => Sys2Proof.Machine.execCompletionRecord cq s
  | .eventRecord slice => Sys2Proof.Machine.execEventRecord slice s
  | .msixModerationTimer q => Sys2Proof.Machine.execMsixModerationTimer q s
  | .msixUnmask f vector => Sys2Proof.Machine.execMsixUnmask f vector s
  | .nop q count => Sys2Proof.Machine.execNop q count s
  | .wait q count => Sys2Proof.Machine.execWait q count s
  | .waitRelease q => Sys2Proof.Machine.execWaitRelease q s
  | .waitDeadline q => Sys2Proof.Machine.execWaitDeadline q s
  | .waitPoll q => Sys2Proof.Machine.execWaitPoll q s
  | .laceAdd q count => Sys2Proof.Machine.execLaceAdd q count s
  | .laceCounterChange => Sys2Proof.Machine.execLaceCounterChange s
  | .slcLaceValWrite f slice value => Sys2Proof.Machine.execSlcLaceValWrite f slice value s
  | .write q count => Sys2Proof.Machine.execWrite q count s
  | .writeInc q count => Sys2Proof.Machine.execWriteInc q count s
  | .read q count => Sys2Proof.Machine.execRead q count s
  | .readSegmentSend q count => Sys2Proof.Machine.execReadSegmentSend q count s
  | .fetchAdd q count => Sys2Proof.Machine.execFetchAdd q count s
  | .cmpSwap q count => Sys2Proof.Machine.execCmpSwap q count s
  | .copy q count => Sys2Proof.Machine.execCopy q count s
  | .copyUnitDone q count unit src => Sys2Proof.Machine.execCopyUnitDone q count unit src s
  | .scan q count => Sys2Proof.Machine.execScan q count s
  | .coll q count => Sys2Proof.Machine.execColl q count s
  | .quant q count => Sys2Proof.Machine.execQuant q count s
  | .lowrank q count => Sys2Proof.Machine.execLowrank q count s
  | .lowrankStep q count host => Sys2Proof.Machine.execLowrankStep q count host s
  | .optstep q count => Sys2Proof.Machine.execOptstep q count s
  | .ckpt q count => Sys2Proof.Machine.execCkpt q count s
  | .restore q count => Sys2Proof.Machine.execRestore q count s
  | .rawSend q count => Sys2Proof.Machine.execRawSend q count s
  | .rawRecv q count => Sys2Proof.Machine.execRawRecv q count s
  | .serviceStart => Sys2Proof.Machine.execServiceStart s
  | .servicePiece q count piece host => Sys2Proof.Machine.execServicePiece q count piece host s
  | .gatePoll cluster host => Sys2Proof.Machine.execGatePoll cluster host s
  | .gateDeadline q count => Sys2Proof.Machine.execGateDeadline q count s
  | .reductionGranule cluster unit checks => Sys2Proof.Machine.execReductionGranule cluster unit checks s
  | .gatherMultiplyBlock group block cluster checks => Sys2Proof.Machine.execGatherMultiplyBlock group block cluster checks s
  | .frameReceive port frame => Sys2Proof.Machine.execFrameReceive port frame s
  | .data a => Sys2Proof.Machine.execData a s
  | .readReq a => Sys2Proof.Machine.execReadReq a s
  | .readResp a => Sys2Proof.Machine.execReadResp a s
  | .atomicReq a => Sys2Proof.Machine.execAtomicReq a s
  | .atomicResp a => Sys2Proof.Machine.execAtomicResp a s
  | .ack a => Sys2Proof.Machine.execAck a s
  | .nak a => Sys2Proof.Machine.execNak a s
  | .probe a => Sys2Proof.Machine.execProbe a s
  | .ackRecord cluster => Sys2Proof.Machine.execAckRecord cluster s
  | .ackDelayTimer conn => Sys2Proof.Machine.execAckDelayTimer conn s
  | .retransmitTimer conn => Sys2Proof.Machine.execRetransmitTimer conn s
  | .nakRetryTimer conn psn => Sys2Proof.Machine.execNakRetryTimer conn psn s
  | .pacingWheelVisit entry cipherMismatches => Sys2Proof.Machine.execPacingWheelVisit entry cipherMismatches s
  | .egressFrameSelect port => Sys2Proof.Machine.execEgressFrameSelect port s
  | .throttleEval port => Sys2Proof.Machine.execThrottleEval port s
  | .contextFetchDone conn res => Sys2Proof.Machine.execContextFetchDone conn res s
  | .evictionCommit conn => Sys2Proof.Machine.execEvictionCommit conn s
  | .goneExpiry conn => Sys2Proof.Machine.execGoneExpiry conn s
  | .connectReq a body => Sys2Proof.Machine.execConnectReq a body s
  | .connectAck a accIndex accInc listenId accPsn => Sys2Proof.Machine.execConnectAck a accIndex accInc listenId accPsn s
  | .connectRefuse a initIndex initInc listenId status reason => Sys2Proof.Machine.execConnectRefuse a initIndex initInc listenId status reason s
  | .ctrlRepeatTimer seq => Sys2Proof.Machine.execCtrlRepeatTimer seq s
  | .ctrlAck a seq node => Sys2Proof.Machine.execCtrlAck a seq node s
  | .close a sIndex sInc rIndex rInc => Sys2Proof.Machine.execClose a sIndex sInc rIndex rInc s
  | .closeAck a sIndex sInc rIndex rInc => Sys2Proof.Machine.execCloseAck a sIndex sInc rIndex rInc s
  | .pause a pauseUs serial => Sys2Proof.Machine.execPause a pauseUs serial s
  | .resume a serial aborted => Sys2Proof.Machine.execResume a serial aborted s
  | .pauseExpiry peer => Sys2Proof.Machine.execPauseExpiry peer s
  | .sbtFeedSend => Sys2Proof.Machine.execSbtFeedSend s
  | .sbtFeed a rtts t => Sys2Proof.Machine.execSbtFeed a rtts t s
  | .groupReg a name count rank dereg digest t => Sys2Proof.Machine.execGroupReg a name count rank dereg digest t s
  | .groupRegAns a name status epoch t => Sys2Proof.Machine.execGroupRegAns a name status epoch t s
  | .epoch a name epoch t => Sys2Proof.Machine.execEpoch a name epoch t s
  | .hsUp a seq sig mism rank => Sys2Proof.Machine.execHsUp a seq sig mism rank s
  | .hsDown a seq mism rank => Sys2Proof.Machine.execHsDown a seq mism rank s
  | .hsCount a seq sig count => Sys2Proof.Machine.execHsCount a seq sig count s
  | .credit a seq stage credits slot => Sys2Proof.Machine.execCredit a seq stage credits slot s
  | .mismatch a seq rank => Sys2Proof.Machine.execMismatch a seq rank s
  | .abort a seq status rank => Sys2Proof.Machine.execAbort a seq status rank s
  | .collWatchdog group => Sys2Proof.Machine.execCollWatchdog group s
  | .rtBegin a epoch mgrEpoch roleEpoch t => Sys2Proof.Machine.execRtBegin a epoch mgrEpoch roleEpoch t s
  | .rtBeginAck a epoch full t => Sys2Proof.Machine.execRtBeginAck a epoch full t s
  | .rtLoad a epoch items t => Sys2Proof.Machine.execRtLoad a epoch items t s
  | .rtCommit a epoch crc t => Sys2Proof.Machine.execRtCommit a epoch crc t s
  | .rtReady a epoch status t => Sys2Proof.Machine.execRtReady a epoch status t s
  | .rtFlip a epoch t => Sys2Proof.Machine.execRtFlip a epoch t s
  | .rtFlipAck a epoch t => Sys2Proof.Machine.execRtFlipAck a epoch t s
  | .rtAbort a epoch t => Sys2Proof.Machine.execRtAbort a epoch t s
  | .drainIntervalEnd => Sys2Proof.Machine.execDrainIntervalEnd s
  | .reHome a rIndex rInc oldCoord mIndex oldInc newCoord newInc => Sys2Proof.Machine.execReHome a rIndex rInc oldCoord mIndex oldInc newCoord newInc s
  | .reHomeAck a rIndex rInc => Sys2Proof.Machine.execReHomeAck a rIndex rInc s
  | .rekey a keyId => Sys2Proof.Machine.execRekey a keyId s
  | .rekeyAck a status => Sys2Proof.Machine.execRekeyAck a status s
  | .atsCompletion id pages res => Sys2Proof.Machine.execAtsCompletion id pages res s
  | .atsInvalidate f pasid iova length => Sys2Proof.Machine.execAtsInvalidate f pasid iova length s
  | .pageResponse f prg code => Sys2Proof.Machine.execPageResponse f prg code s
  | .faultWaitDeadline waiter => Sys2Proof.Machine.execFaultWaitDeadline waiter s
  | .atsEnableClear f => Sys2Proof.Machine.execAtsEnableClear f s
  | .revokeDrainDone slot => Sys2Proof.Machine.execRevokeDrainDone slot s
  | .revokeRecordExpiry => Sys2Proof.Machine.execRevokeRecordExpiry s
  | .flushReadCompletion id res => Sys2Proof.Machine.execFlushReadCompletion id res s
  | .eyeletLoad f requester offset length => Sys2Proof.Machine.execEyeletLoad f requester offset length s
  | .eyeletStore f requester offset bytes => Sys2Proof.Machine.execEyeletStore f requester offset bytes s
  | .eyeletLoadLimit id => Sys2Proof.Machine.execEyeletLoadLimit id s
  | .scrubBurst codewords => Sys2Proof.Machine.execScrubBurst codewords s
  | .memScrubCtrlWrite f value => Sys2Proof.Machine.execMemScrubCtrlWrite f value s
  | .memErrlogData1Read f => Sys2Proof.Machine.execMemErrlogData1Read f s
  | .farAccessTimeout id => Sys2Proof.Machine.execFarAccessTimeout id s
  | .cxlLinkDown port => Sys2Proof.Machine.execCxlLinkDown port s
  | .cxlLinkUp port lanes devices => Sys2Proof.Machine.execCxlLinkUp port lanes devices s
  | .linkHit port => Sys2Proof.Machine.execLinkHit port s
  | .linkDown port => Sys2Proof.Machine.execLinkDown port s
  | .linkUp port interface laneMap polarity => Sys2Proof.Machine.execLinkUp port interface laneMap polarity s
  | .autonegTimeout port => Sys2Proof.Machine.execAutonegTimeout port s
  | .interfaceWrite f port value => Sys2Proof.Machine.execInterfaceWrite f port value s
  | .retrain f port => Sys2Proof.Machine.execRetrain f port s
  | .forceDown f port on => Sys2Proof.Machine.execForceDown f port on s
  | .pfcFrame port mask quanta => Sys2Proof.Machine.execPfcFrame port mask quanta s
  | .pfcPauseExpiry port priority => Sys2Proof.Machine.execPfcPauseExpiry port priority s
  | .pfcRefreshTimer port priority => Sys2Proof.Machine.execPfcRefreshTimer port priority s
  | .hello port coord peerPort weltEnable sendStamp echoStamp nonce => Sys2Proof.Machine.execHello port coord peerPort weltEnable sendStamp echoStamp nonce s
  | .helloTimer port => Sys2Proof.Machine.execHelloTimer port s
  | .weltHelloTimeout port => Sys2Proof.Machine.execWeltHelloTimeout port s
  | .status port ackSeqs credits => Sys2Proof.Machine.execStatus port ackSeqs credits s
  | .statusTimer port => Sys2Proof.Machine.execStatusTimer port s
  | .weltNak port lane seq => Sys2Proof.Machine.execWeltNak port lane seq s
  | .weltResendTimer port lane => Sys2Proof.Machine.execWeltResendTimer port lane s
  | .weltGiveUp port => Sys2Proof.Machine.execWeltGiveUp port s
  | .time port t1 t1p t2p => Sys2Proof.Machine.execTime port t1 t1p t2p s
  | .timeSendTimer port => Sys2Proof.Machine.execTimeSendTimer port s
  | .bypassReqPin pin level => Sys2Proof.Machine.execBypassReqPin pin level s
  | .bypassDrainDone => Sys2Proof.Machine.execBypassDrainDone s
  | .bypassSwitchSettled => Sys2Proof.Machine.execBypassSwitchSettled s
  | .memArbCommit f => Sys2Proof.Machine.execMemArbCommit f s
  | .prtSchedCommit f port => Sys2Proof.Machine.execPrtSchedCommit f port s
  | .mbxDoorbell f slice count ok reqs => Sys2Proof.Machine.execMbxDoorbell f slice count ok reqs s
  | .mbxEnable f slice value => Sys2Proof.Machine.execMbxEnable f slice value s
  | .mbxResponse slice ok => Sys2Proof.Machine.execMbxResponse slice ok s
  | .mbxInfo slice tag => Sys2Proof.Machine.execMbxInfo slice tag s
  | .lastWrite slice tag slot offset buffer crc => Sys2Proof.Machine.execLastWrite slice tag slot offset buffer crc s
  | .lastCheck slice tag => Sys2Proof.Machine.execLastCheck slice tag s
  | .lastActivate slice tag => Sys2Proof.Machine.execLastActivate slice tag s
  | .lastPauseStart => Sys2Proof.Machine.execLastPauseStart s
  | .lastResume => Sys2Proof.Machine.execLastResume s
  | .roleSet slice tag role epoch => Sys2Proof.Machine.execRoleSet slice tag role epoch s
  | .fwBegin slice tag kind length => Sys2Proof.Machine.execFwBegin slice tag kind length s
  | .fwWrite slice tag offset length buffer crc => Sys2Proof.Machine.execFwWrite slice tag offset length buffer crc s
  | .fwCheck slice tag => Sys2Proof.Machine.execFwCheck slice tag s
  | .fwActivate slice tag driverConfirm => Sys2Proof.Machine.execFwActivate slice tag driverConfirm s
  | .handoverSwitch => Sys2Proof.Machine.execHandoverSwitch s
  | .cellComplexSwitch cluster => Sys2Proof.Machine.execCellComplexSwitch cluster s
  | .fwConfirm slice tag => Sys2Proof.Machine.execFwConfirm slice tag s
  | .healthConfirm => Sys2Proof.Machine.execHealthConfirm s
  | .healthWindowExpiry selfTestFailed handBack => Sys2Proof.Machine.execHealthWindowExpiry selfTestFailed handBack s
  | .fwStatus slice tag => Sys2Proof.Machine.execFwStatus slice tag s
  | .fwWatchdogExpiry => Sys2Proof.Machine.execFwWatchdogExpiry s
  | .eyeletMap slice tag p => Sys2Proof.Machine.execEyeletMap slice tag p s
  | .eyeletUnmap slice tag f granule => Sys2Proof.Machine.execEyeletUnmap slice tag f granule s
  | .eyeletRead slice tag f granule => Sys2Proof.Machine.execEyeletRead slice tag f granule s
  | .rangeRead slice tag slot => Sys2Proof.Machine.execRangeRead slice tag slot s
  | .queueCreate slice tag p => Sys2Proof.Machine.execQueueCreate slice tag p s
  | .queueDestroy slice tag q => Sys2Proof.Machine.execQueueDestroy slice tag q s
  | .regionRegister slice tag p => Sys2Proof.Machine.execRegionRegister slice tag p s
  | .regionRevoke slice tag slot incarnation => Sys2Proof.Machine.execRegionRevoke slice tag slot incarnation s
  | .tenantSet slice tag target tenant => Sys2Proof.Machine.execTenantSet slice tag target tenant s
  | .connResume slice tag conn => Sys2Proof.Machine.execConnResume slice tag conn s
  | .cyqPortSet slice tag port => Sys2Proof.Machine.execCyqPortSet slice tag port s
  | .connListen slice tag p => Sys2Proof.Machine.execConnListen slice tag p s
  | .connCreate slice tag p => Sys2Proof.Machine.execConnCreate slice tag p s
  | .connDestroy slice tag conn => Sys2Proof.Machine.execConnDestroy slice tag conn s
  | .grpQuotaSet slice tag src dst amount => Sys2Proof.Machine.execGrpQuotaSet slice tag src dst amount s
  | .groupCreate slice tag p => Sys2Proof.Machine.execGroupCreate slice tag p s
  | .groupDestroy slice tag handle => Sys2Proof.Machine.execGroupDestroy slice tag handle s
  | .collAbort slice tag handle => Sys2Proof.Machine.execCollAbort slice tag handle s
  | .memHistoryRead slice tag bufferOk => Sys2Proof.Machine.execMemHistoryRead slice tag bufferOk s
  | .farRescan slice tag devices0 devices1 => Sys2Proof.Machine.execFarRescan slice tag devices0 devices1 s
  | .filterSet slice tag index p => Sys2Proof.Machine.execFilterSet slice tag index p s
  | .filterClear slice tag index => Sys2Proof.Machine.execFilterClear slice tag index s
  | .filterRead slice tag index => Sys2Proof.Machine.execFilterRead slice tag index s
  | .chainBypass slice tag on => Sys2Proof.Machine.execChainBypass slice tag on s
  | .routeWrite slice tag items => Sys2Proof.Machine.execRouteWrite slice tag items s
  | .routeRead slice tag bank chain first count => Sys2Proof.Machine.execRouteRead slice tag bank chain first count s
  | .routeFlip slice tag memberMask => Sys2Proof.Machine.execRouteFlip slice tag memberMask s
  | .sliceBind slice tag target port fn pasid => Sys2Proof.Machine.execSliceBind slice tag target port fn pasid s
  | .sliceUnbind slice tag target => Sys2Proof.Machine.execSliceUnbind slice tag target s
  | .sliceReset slice tag target => Sys2Proof.Machine.execSliceReset slice tag target s
  | .sliceResetDrainDone target => Sys2Proof.Machine.execSliceResetDrainDone target s
  | .dirtyStart slice tag target iovaBase pages bitmap0 bitmap1 bytes => Sys2Proof.Machine.execDirtyStart slice tag target iovaBase pages bitmap0 bitmap1 bytes s
  | .dirtyStop slice tag target => Sys2Proof.Machine.execDirtyStop slice tag target s
  | .dirtySync slice tag target => Sys2Proof.Machine.execDirtySync slice tag target s
  | .dirtyFlush => Sys2Proof.Machine.execDirtyFlush s
  | .sliceFreeze slice tag target => Sys2Proof.Machine.execSliceFreeze slice tag target s
  | .freezeDrained target => Sys2Proof.Machine.execFreezeDrained target s
  | .sliceSave slice tag target length bufferOk => Sys2Proof.Machine.execSliceSave slice tag target length bufferOk s
  | .sliceRestore slice tag target image => Sys2Proof.Machine.execSliceRestore slice tag target image s
  | .sliceThaw slice tag target => Sys2Proof.Machine.execSliceThaw slice tag target s
  | .heartbeat f slice value => Sys2Proof.Machine.execHeartbeat f slice value s
  | .heartbeatExpiry slice => Sys2Proof.Machine.execHeartbeatExpiry slice s
  | .flr f => Sys2Proof.Machine.execFlr f s
  | .keyInfo slice tag t => Sys2Proof.Machine.execKeyInfo slice tag t s
  | .keyErase slice tag owner t => Sys2Proof.Machine.execKeyErase slice tag owner t s
  | .keyRootSet slice tag digest => Sys2Proof.Machine.execKeyRootSet slice tag digest s
  | .keyImport slice tag parent t blob => Sys2Proof.Machine.execKeyImport slice tag parent t blob s
  | .keyDerive slice tag parent t label context keyId => Sys2Proof.Machine.execKeyDerive slice tag parent t label context keyId s
  | .keyProvision port session owner slot keyId key => Sys2Proof.Machine.execKeyProvision port session owner slot keyId key s
  | .connRekey slice tag conn slot => Sys2Proof.Machine.execConnRekey slice tag conn slot s
  | .ownerEnroll slice tag ecdsa hss transfer => Sys2Proof.Machine.execOwnerEnroll slice tag ecdsa hss transfer s
  | .guardCipherOp engine disagree => Sys2Proof.Machine.execGuardCipherOp engine disagree s
  | .drbgHealthFail => Sys2Proof.Machine.execDrbgHealthFail s
  | .drbgRetest pass => Sys2Proof.Machine.execDrbgRetest pass s
  | .spdmRequest port session req => Sys2Proof.Machine.execSpdmRequest port session req s
  | .attestationReport port nonce mask => Sys2Proof.Machine.execAttestationReport port nonce mask s
  | .lmsTreeReady => Sys2Proof.Machine.execLmsTreeReady s
  | .hostLinkRetrain port speed width => Sys2Proof.Machine.execHostLinkRetrain port speed width s
  | .hostLinkEnd port cause => Sys2Proof.Machine.execHostLinkEnd port cause s
  | .hostLinkReturn port speed width flit => Sys2Proof.Machine.execHostLinkReturn port speed width flit s
  | .busMasterDisable f => Sys2Proof.Machine.execBusMasterDisable f s
  | .ideIntegrityFail port stream => Sys2Proof.Machine.execIdeIntegrityFail port stream s
  | .atomicopRequest f tlpTag => Sys2Proof.Machine.execAtomicopRequest f tlpTag s
  | .inputPowerApply => Sys2Proof.Machine.execInputPowerApply s
  | .inputUndervoltage => Sys2Proof.Machine.execInputUndervoltage s
  | .inputFault reversed => Sys2Proof.Machine.execInputFault reversed s
  | .modResetNAssert => Sys2Proof.Machine.execModResetNAssert s
  | .modResetNRelease => Sys2Proof.Machine.execModResetNRelease s
  | .pldmRequest req => Sys2Proof.Machine.execPldmRequest req s
  | .boardPowerLimitWrite watts => Sys2Proof.Machine.execBoardPowerLimitWrite watts s
  | .setEndpointId eid => Sys2Proof.Machine.execSetEndpointId eid s
  | .powerSample watts => Sys2Proof.Machine.execPowerSample watts s
  | .thermalSample junction hbm => Sys2Proof.Machine.execThermalSample junction hbm s
  | .thermalComparator junction hbm => Sys2Proof.Machine.execThermalComparator junction hbm s
  | .pwrBrakeAssert => Sys2Proof.Machine.execPwrBrakeAssert s
  | .pwrBrakeRelease => Sys2Proof.Machine.execPwrBrakeRelease s
  | .clusterLightSleep cluster => Sys2Proof.Machine.execClusterLightSleep cluster s
  | .clusterDeepSleep cluster => Sys2Proof.Machine.execClusterDeepSleep cluster s
  | .clusterWake cluster => Sys2Proof.Machine.execClusterWake cluster s
  | .hbmSelfRefresh => Sys2Proof.Machine.execHbmSelfRefresh s
  | .eventTimerFire slice index => Sys2Proof.Machine.execEventTimerFire slice index s
  | .slcTimerDeadlineWrite f slice value => Sys2Proof.Machine.execSlcTimerDeadlineWrite f slice value s
  | .timSetWrite f value => Sys2Proof.Machine.execTimSetWrite f value s
  | .timSlewWrite f value => Sys2Proof.Machine.execTimSlewWrite f value s
  | .timFreqWrite f value => Sys2Proof.Machine.execTimFreqWrite f value s
  | .ppsInEdge => Sys2Proof.Machine.execPpsInEdge s
  | .ppsOutSecond => Sys2Proof.Machine.execPpsOutSecond s
  | .timeSourceLoss => Sys2Proof.Machine.execTimeSourceLoss s
  | .timeCaptureEdge pin => Sys2Proof.Machine.execTimeCaptureEdge pin s
  | .pinShortCheck output levelOk => Sys2Proof.Machine.execPinShortCheck output levelOk s
  | .pinFaultRetry output levelOk => Sys2Proof.Machine.execPinFaultRetry output levelOk s
  | .slcCheckValWrite f slice value => Sys2Proof.Machine.execSlcCheckValWrite f slice value s
  | .registerWrite f offset width value => Sys2Proof.Machine.execRegisterWrite f offset width value s
  | .registerReadClear f offset width => Sys2Proof.Machine.execRegisterReadClear f offset width s
  | .hostReadCompletion id res => Sys2Proof.Machine.execHostReadCompletion id res s
  | .pcieCompletionTimeout id => Sys2Proof.Machine.execPcieCompletionTimeout id s
  | .dataLinkLayerAck port count => Sys2Proof.Machine.execDataLinkLayerAck port count s
  | .priEnableChange f enable => Sys2Proof.Machine.execPriEnableChange f enable s
  | .vfEnableChange port enable numVfs => Sys2Proof.Machine.execVfEnableChange port enable numVfs s
  | .class7TokensRefill port => Sys2Proof.Machine.execClass7TokensRefill port s
  | .linkSignalLoss port dark => Sys2Proof.Machine.execLinkSignalLoss port dark s
  | .sbtBucketRoll => Sys2Proof.Machine.execSbtBucketRoll s
  | .firmwareResetDone => Sys2Proof.Machine.execFirmwareResetDone s

end Sys2Proof.Machine
end

