-- ==== Sys2Proof/Machine/Step.lean ====
section
/-! DEFINITION. One step of the block: the command at the front of the queue, or a tick of Device Time. -/

namespace Sys2Proof.Machine

/-- Nothing waits: a tick of the block's clock (R28, R499; log entry 5). -/
def State.idle (s : State) : State := s.tickTime

/-- Take the command at the front of `pending` and run it on the state with the queue's rest; on an empty queue,
idle. -/
def step (s : State) : Host.Outcome State Fault Refusal :=
  match s.pending with
  | [] => .next s.idle
  | c :: rest => exec c { s with pending := rest }

/-- The state with the command that a table word spells put at the front of its queue. -/
def State.withFetchWord (s : State) (nbits w : Nat) : State :=
  match decodeTableWord nbits w with
  | some c => { s with pending := c :: s.pending }
  | none => s

end Sys2Proof.Machine
end

