-- ==== Sys2Proof/Safety.lean ====
section
/-! DEFINITION. The words in which claims are made: which parts of the state a command may change, the canonical form that
every command keeps, and when a mailbox command is taken up and answered. -/

namespace Sys2Proof.Machine

/-! ## Frames -/

/-- The parts of the state. -/
inductive Part where
  | pending | out | free | regs | time | board | power | boot | fw | last | mem | xlate | queue | trans | ports | filters
  | ingress | bypass | route | work | slices | dirtyLogs | mailboxes | host | hostReads | keys | checks
deriving DecidableEq, Repr

/-- Two states agree on a part. -/
def State.agree (s t : State) : Part → Prop
  | .pending => t.pending = s.pending
  | .out => t.out = s.out
  | .free => t.freeCount = s.freeCount
  | .regs => t.regs = s.regs
  | .time => t.time = s.time
  | .board => t.board = s.board
  | .power => t.power = s.power
  | .boot => t.boot = s.boot
  | .fw => t.fw = s.fw
  | .last => t.last = s.last
  | .mem => t.mem = s.mem
  | .xlate => t.xlate = s.xlate
  | .queue => t.queue = s.queue
  | .trans => t.trans = s.trans
  | .ports => t.ports = s.ports
  | .filters => t.filters = s.filters
  | .ingress => t.ingress = s.ingress
  | .bypass => t.bypass = s.bypass
  | .route => t.route = s.route
  | .work => t.work = s.work
  | .slices => t.slices = s.slices
  | .dirtyLogs => t.dirtyLogs = s.dirtyLogs
  | .mailboxes => t.mailboxes = s.mailboxes
  | .host => t.host = s.host
  | .hostReads => t.hostReads = s.hostReads
  | .keys => t.keys = s.keys
  | .checks => t.checks = s.checks

/-- From `s` to `t` nothing has changed but these parts. -/
def State.touches (s t : State) (parts : List Part) : Prop := ∀ p : Part, p ∉ parts → s.agree t p

/-! ## Canonical forms -/

/-- Memory in its canonical form. -/
def State.memOk (s : State) : Bool := Memory.wf s.mem.cells

/-! ## Mailbox commands -/

/-- The mailbox takes this command up: nothing holds it back and nothing refuses it (R466 to R470). -/
def State.takesUp (s : State) (slice : Nat) (tag : Word32) (op : Nat) : Prop := (s.take slice tag op).2 = true

/-- The state in which a command that has been taken up is carried out. -/
def State.taken (s : State) (slice : Nat) (tag : Word32) (op : Nat) : State := (s.take slice tag op).1

/-- A command has its answer: the newest response that waits to be written (R468). -/
def State.hasAnswer (s : State) (slice : Nat) (tag : Word32) (status : Status) (info : List Nat) : Prop :=
  ∃ r, (s.mailbox slice).ready.getLast? = some r ∧ r.slice = slice ∧ r.tag = tag ∧ r.status = status ∧ r.info = info

/-! ## Remote operations and arrivals -/

/-- A started descriptor passes every check of R128, its end has a line that may be pinned, and nothing of R131 or R184 holds
it back: the operation is posted on the end `c`. -/
def State.startsRemote (s : State) (q : Nat) (count : Word32) (op : Nat) (kind : OpKind) (x : Queue) (d : Started) (c : Conn) :
    Prop :=
  s.ready q count op = some (x, d) ∧ s.remoteCheck x d.entry = .ok c
    ∧ (Desc.inlineLength d.entry ≠ 0 ∨ Desc.length d.entry = 0
        ∨ s.localRange x.slice x.as (Desc.localOffset d.entry) (Desc.length d.entry) (!kind.isData) = none)
    ∧ s.cipherReady c = none ∧ (kind.isAtomic = true → (c.ops.filter fun o => o.kind.isAtomic).length < 16)
    ∧ (s.members c).all (fun m => m.cached && s.mayPin m) = true

/-- The state with a descriptor's operation posted and the descriptor running. -/
def State.posted (s : State) (q : Nat) (count : Word32) (kind : OpKind) (d : Started) (c : Conn) : State :=
  (s.post c (opOf kind q count c.payload d.entry)).modStarted q count fun d => { d with run := true }

/-- An arrival of a type, for a cluster that is awake, passes checks 1 to 7 of R170: `t` is the state after them and `c` the
end that takes the packet. -/
def State.reaches (s : State) (ty : PType) (a : Arrival) (t : State) (c : Conn) : Prop :=
  a.pkt.ptype = ty ∧ s.sleepsFor a.pkt = false ∧ ((s.takeIn a).frontChecks a).2 = true
    ∧ ((s.takeIn a).frontChecks a).1.endChecks (((s.takeIn a).frontChecks a).1.received a) = (t, some c)

/-- A node-scope control message arrives for the first time: `t` is the state after checks 1 and 2 of R170 and `src` its
sender (R163). -/
def State.newNodeMsg (s : State) (a : Arrival) (t : State) (src : Coord) : Prop :=
  (s.takeIn a).frontChecks a = (t, true) ∧ t.sender a = some src ∧ t.isRepeat a.pkt src = false

/-- A guarded message arrives and is accepted (R442): `t` is the state after that. -/
def State.newGuarded (s : State) (a : Arrival) (m : CtrlMsg) (tr : Trailer) (t : State) (src : Coord) : Prop :=
  ∃ u, (s.takeIn a).frontChecks a = (u, true) ∧ u.sender a = some src
    ∧ u.guardCheck src (subtypeOf a.pkt) m.body tr = (t, .fresh)

/-- A message of an end passes its checks and is new: `x` is the record of it, `t` the state after the checks and `c` the end
(R163, R234). -/
def State.newEndMsg (s : State) (a : Arrival) (m : CtrlMsg) (x : Received) (t : State) (c : Conn) : Prop :=
  ∃ u, (s.takeIn a).frontChecks a = (u, true) ∧ x = { u.received a with msg := some m } ∧ u.endChecks x = (t, some c)
    ∧ t.seenCtrl c.peer (ctrlSeqOf a.pkt) = none

/-- The state in which a message of an end acts: it is remembered with its reply, which has been sent. -/
def State.repliedEnd (s : State) (c : Conn) (a : Arrival) (r : CtrlMsg) : State :=
  ({ s with trans.ctrlSeen := s.trans.ctrlSeen ++ [(c.peer, ctrlSeqOf a.pkt, r, none)] } : State).replyEnd c r (ctrlSeqOf a.pkt)

/-! ## Arithmetic -/

/-- A block of a GATHER_MULTIPLY is at hand and a cluster's Matrix Tile may take it: `r` is the operation's record and `b` its B matrix
(R246). -/
def State.multiplies (s : State) (k block : Nat) (c : Fin 8) (g : Group) (o : CollOp) (r b : List Byte) : Bool :=
  decide (s.findGroup k = some g ∧ g.op = some o ∧ o.record = some r ∧ o.bmat = some b ∧ o.kind = CK.gatherMultiply ∧ o.phase = .data
      ∧ block < (s.shape g o).n)
    && ((s.shape g o).pieceUnits block).all (fun u => o.final.contains u && (discards o || o.written.contains u))
    && !o.rows.contains block && !s.collWaiting k (.rows block) && !s.arithOutOf c && s.computes c
    && o.tiles.all (fun t => decide (t.block ≠ block ∨ t.cluster = c.val)) && (!stochastic o || !s.keys.drbgHalted)

end Sys2Proof.Machine
end

