-- ==== Sys2Proof/Certificates/Slice0/Obligations.lean ====
section
/-! DEFINITION. The statements for the provers. -/

open Sys2Proof Sys2Proof.Machine

/-- A step with a command in front of the queue is exec of that command with the queue's rest. -/
def Obligations.StepRunsFrontCommand : Prop :=
  ∀ (c : Instr) (rest : List Instr) (s : State),
    step { s with pending := c :: rest } = exec c { s with pending := rest }

/-! ## Queues (chapter 05) -/

/-- R98 to R100: a doorbell on a work or RawRecv queue records the newest Count and the pending bit and wakes the home
cluster; a push that meets the four conditions of R100 is the descriptor for the head count; nothing else changes.
R118: Enable takes a Disabled queue to Running; clearing it takes a Running queue out of Running and discards what was
fetched and not started, with Head where it was, and a Halted queue stays Halted; Resume takes a Halted queue to Running or to Disabled. -/
def Obligations.DoorbellsPushesAndQueueControl : Prop :=
  ((∀ (f : Func) (q : Nat) (count : Word32) (s : State) (x : Queue),
    s.bar2 f q = some x → x.isWork = true → s.inPause = false →
    ∃ t y, exec (.qdbDoorbell f q count) s = .next t ∧ t.findQueue q = some y ∧ y.doorbell = count ∧ y.bell = true
      ∧ y.head = x.head ∧ y.state = x.state ∧ y.started = x.started ∧ t.awake (homeOf q) = true
      ∧ (∀ n, n ≠ q → t.findQueue n = s.findQueue n) ∧ s.touches t [.queue, .power, .regs])
  ∧ (∀ (f : Func) (q : Nat) (count : Word32) (s : State) (x : Queue),
    s.bar2 f q = some x → x.kind = .completion → x.held = [] → s.inPause = false →
    ∃ t y, exec (.completionDoorbell f q count false) s = .next t ∧ t.findQueue q = some y ∧ y.doorbell = count
      ∧ y.head = x.head ∧ y.arm = x.arm ∧ s.touches t [.queue, .power, .regs])
  ∧ (∀ (f : Func) (q : Nat) (count : Word32) (s : State) (x : Queue),
    s.bar2 f q = some x → x.kind = .completion → x.held = [] → x.writing = none → s.inPause = false →
    (x.head - count).toNat < x.modCount →
    ∃ t y a, exec (.completionDoorbell f q count true) s = .next t ∧ t.findQueue q = some y ∧ y.doorbell = count
      ∧ y.arm = some a ∧ a.written = (x.head - count).toNat ∧ s.touches t [.queue, .power, .regs])
  ∧ (∀ (f : Func) (q : Nat) (bytes : List Byte) (s : State) (x : Queue),
    s.bar2 f q = some x → x.isWork = true → (bytes.length = 64 ∨ bytes.length = 256) → s.inPause = false →
    x.takesPush bytes = true →
    ∃ t y, exec (.qdbPush f q bytes) s = .next t ∧ t.findQueue q = some y ∧ y.bell = true
      ∧ y.fetches.findSome? (fun r => if r.count = x.head then r.entry else none) = some bytes
      ∧ y.head = x.head ∧ s.touches t [.queue, .power, .regs]))
  ∧ ((∀ (f : Func) (q : Nat) (s : State) (x : Queue),
    s.bar2 f q = some x → x.isWork = true → x.state = .disabled →
    ∃ t y, exec (.queueEnable f q) s = .next t ∧ t.findQueue q = some y ∧ y.state = .running ∧ y.enable = true
      ∧ y.head = x.head ∧ y.started = x.started ∧ s.touches t [.queue, .slices, .power, .regs])
  ∧ (∀ (f : Func) (q : Nat) (s : State) (x : Queue),
    s.bar2 f q = some x → x.state = .halted →
    ∃ t y, exec (.queueEnable f q) s = .next t ∧ t.findQueue q = some y ∧ y.state = .halted ∧ y.enable = true
      ∧ s.touches t [.queue])
  ∧ (∀ (f : Func) (q : Nat) (s : State) (x : Queue),
    s.bar2 f q = some x → x.isWork = true → x.state = .running → s.queue.watch.all (fun w => w.q ≠ q) = true →
    s.work.services.all (fun v => v.q ≠ q) = true →
    ∃ t y, exec (.queueDisable f q) s = .next t ∧ t.findQueue q = some y ∧ y.enable = false
      ∧ y.state = (if x.started.isEmpty ∧ x.delivering.isEmpty ∧ (x.fetches.all fun r => !r.outstanding) = true then .disabled else .draining)
      ∧ y.fetches = x.unfetched ∧ y.head = x.head ∧ y.started = x.started
      ∧ s.touches t [.queue])
  ∧ (∀ (f : Func) (q : Nat) (s : State) (x : Queue),
    s.bar2 f q = some x → x.isWork = true → x.state = .halted → s.queue.watch.all (fun w => w.q ≠ q) = true →
    s.work.services.all (fun v => v.q ≠ q) = true →
    ∃ t y, exec (.queueDisable f q) s = .next t ∧ t.findQueue q = some y ∧ y.enable = false ∧ y.state = .halted
      ∧ y.fetches = x.unfetched ∧ y.head = x.head ∧ y.started = x.started ∧ s.touches t [.queue])
  ∧ (∀ (f : Func) (q : Nat) (s : State) (x : Queue),
    s.bar2 f q = some x → x.isWork = true → x.state = .halted → x.enable = true →
    ∃ t y, exec (.queueResume f q) s = .next t ∧ t.findQueue q = some y ∧ y.state = .running ∧ y.bell = true
      ∧ y.head = x.head ∧ y.fetches = x.unfetched ∧ s.touches t [.queue, .slices, .power, .regs])
  ∧ (∀ (f : Func) (q : Nat) (s : State) (x : Queue),
    s.bar2 f q = some x → x.state = .halted → x.enable = false →
    ∃ t y, exec (.queueResume f q) s = .next t ∧ t.findQueue q = some y ∧ y.state = .disabled ∧ y.head = x.head
      ∧ s.touches t [.queue]))

/-- R103, R104, R107, R108: a fetch asks for the wanted counts; an arriving entry is taken or discarded by its OWN, and one that
a push has brought stays; an invalid
entry is fetched again; the descriptor at Head starts, a malformed one with its final code at once. -/
def Obligations.DescriptorsAreFetchedAndStarted : Prop :=
  (∀ (q : Nat) (s : State) (x : Queue),
    s.findQueue q = some x → x.isWork = true → x.state = .running → s.awake (homeOf q) = true → x.bell = true →
    x.cached = true →
    exec (.descriptorFetch q) s = .next ((s.modQueue q fun x =>
      { x with bell := false, lastUse := s.time.now,
               fetches := x.fetches ++ x.wanted.map fun c => { count := c, outstanding := true, nextAt := some (s.time.now + 2000) } }).fetchAll x x.wanted))
  ∧ (∀ (q : Nat) (count : Word32) (res : ReadResult) (s s1 : State) (w : Waiting) (h : Nat) (bytes : List Byte),
    s.xlate.waiting.find? (fun w => w.access.use = .fetch q count &&
      (match w.on with | .hostRead _ => true | _ => false)) = some w →
    w.on = .hostRead h → s.readOutcome w res = (s1, .done bytes) → w.access.gen = (s1.endHostRead w).gen w.access.slice →
    exec (.descriptorArrival q count res) s = .next ((s1.endHostRead w).entryArrived q count bytes))
  ∧ (∀ (q : Nat) (count : Word32) (s : State) (x : Queue) (bytes : List Byte),
    s.findQueue q = some x → x.state = .running → Desc.own bytes = phaseOf x.logEntries count →
    countBefore count x.head = false → x.fetches.any (fun r => r.count = count) = true → x.fetches.all (fun r => r.count ≠ count || r.entry.isNone) = true →
    ∃ y, (s.entryArrived q count bytes).findQueue q = some y
      ∧ y.fetches.findSome? (fun r => if r.count = count then r.entry else none) = some bytes ∧ y.head = x.head)
  ∧ (∀ (q : Nat) (count : Word32) (s : State) (x : Queue) (bytes pushed : List Byte),
    s.findQueue q = some x → x.state = .running → countBefore count x.head = false →
    x.fetches.findSome? (fun r => if r.count = count then r.entry else none) = some pushed →
    ∃ y, (s.entryArrived q count bytes).findQueue q = some y
      ∧ y.fetches.findSome? (fun r => if r.count = count then r.entry else none) = some pushed ∧ y.head = x.head)
  ∧ (∀ (q : Nat) (count : Word32) (s : State) (x : Queue) (r : FetchRec),
    s.findQueue q = some x → x.state = .running → s.awake (homeOf q) = true →
    x.fetches.find? (fun r => r.count = count) = some r → r.outstanding = false → r.entry = none → r.stopped = false →
    countBefore count x.doorbell = true → r.nextAt.all s.due = true → (x.cached = true ∨ s.contextFits q = true) →
    exec (.descriptorRefetch q count) s = .next (((if x.cached then s else s.loadContext q).modQueue q fun x =>
      let again (r : FetchRec) : FetchRec :=
        { r with outstanding := true, refetches := r.refetches + 1, nextAt := some (s.time.now + 2000) }
      { x with fetches := updWhere (fun r => r.count = count) again x.fetches }).fetchOne x count))
  ∧ (∀ (q : Nat) (s : State) (x : Queue) (d : Desc),
    s.findQueue q = some x → x.fetches.findSome? (fun r => if r.count = x.head then r.entry else none) = some d →
    x.state = .running → (s.slice x.slice).state = .active → s.awake (homeOf q) = true → s.mayStartDesc x d = true →
    (x.cached = true ∨ s.contextFits q = true) →
    ∃ t y, exec (.descriptorStart q) s = .next t ∧ t.findQueue q = some y ∧ y.head = x.head + 1
      ∧ y.started = x.started ++ [(
          { count := x.head, entry := d,
            run := (malformed (x.kind = .rawRecv) x.entrySize (s.quota x.slice).lace d).isSome,
            ended := (malformed (x.kind = .rawRecv) x.entrySize (s.quota x.slice).lace d).map fun c => { status := c } } : Started)]
      ∧ s.touches t [.queue, .regs])

/-- R106, R110, R112, R113, R397: the oldest final descriptor sends a record only if Signal is set or it failed; its LaceDone, only
on SUCCESS, and with the code of a host path it wrote that could not be flushed in place of SUCCESS (R403), follows once its entry is written or, without one, once every completion before it is delivered; records and events reach their queue, or are held or counted as lost; interrupts are
sent when their moderation ends or their mask goes. -/
def Obligations.CompletionsAndEventsAreDelivered : Prop :=
  (∀ (q : Nat) (s : State) (x : Queue) (d : Started) (rest : List Started) (e : Done),
    s.findQueue q = some x → x.started = d :: rest → d.final = some e → d.flushIds = [] → d.peerPaths = [] →
    ∃ t y, exec (.completionDelivery q) s = .next t ∧ t.findQueue q = some y ∧ y.started = rest
      ∧ t.queue.records = s.queue.records ++ (if Desc.signal d.entry || !decide (e.status = Status.success) then
          [(x.cq, ({ q, count := d.count, opcode := Desc.opcode d.entry, tag := Desc.tag d.entry, status := e.status,
                     bytes := e.bytes, gen := x.gen, detail := e.detail, slice := x.slice } : CplRec))] else [])
      ∧ (let entry := Desc.signal d.entry || !decide (e.status = Status.success)
         let lace := if e.status = Status.success then Desc.laceDone d.entry else none
         if entry = true ∨ x.delivering ≠ [] then
           y.delivering = x.delivering ++ [⟨d.count, entry, lace⟩] ∧ t.queue.laceChanges = s.queue.laceChanges
         else y.delivering = [] ∧ t.queue.laceChanges = s.queue.laceChanges ++ lace.toList.map fun k => ⟨x.slice, x.gen, k, 1⟩)
      ∧ s.touches t [.queue, .regs])
  ∧ (∀ (q : Nat) (s : State) (x : Queue) (d : Delivery) (rest : List Delivery),
    s.findQueue q = some x → x.delivering = d :: rest → d.entry = true → rest.all (·.entry) = true →
    ∃ y, (s.delivered q d.count).findQueue q = some y ∧ y.delivering = rest ∧ y.started = x.started ∧ y.head = x.head
      ∧ (s.delivered q d.count).queue.laceChanges
          = s.queue.laceChanges ++ d.lace.toList.map fun k => ⟨x.slice, x.gen, k, 1⟩)
  ∧ (∀ (cq : Nat) (s : State) (x : Queue) (r : Nat × CplRec),
    s.queue.records.find? (fun r => r.1 = cq) = some r → s.findQueue cq = some x → r.2.gen = s.gen r.2.slice →
    x.slice = r.2.slice → x.state ≠ .running → (x.cached = true ∨ s.contextFits cq = true) →
    ∃ t y, exec (.completionRecord cq) s = .next t ∧ t.findQueue cq = some y ∧ y.held = x.held ++ [.cpl r.2]
      ∧ y.head = x.head ∧ t.queue.records = s.queue.records.erase r ∧ s.touches t [.queue])
  ∧ (∀ (cq : Nat) (s : State) (x : Queue) (r : Nat × CplRec),
    s.queue.records.find? (fun r => r.1 = cq) = some r → s.findQueue cq = some x → r.2.gen = s.gen r.2.slice →
    x.slice = r.2.slice → (x.cached = true ∨ s.contextFits cq = true) → exec (.completionRecord cq) s = .next
      (((({ s with queue.records := s.queue.records.erase r } : State).loadContext cq).modQueue cq fun x =>
        { x with held := x.held ++ [.cpl r.2] }).flushHeld cq))
  ∧ (∀ (slice : Fin 512) (s : State) (e : Event),
    s.queue.events.find? (fun e => e.slice = slice.val) = some e → e.gen = s.gen slice → s.evq slice = none →
    ∃ t, exec (.eventRecord slice) s = .next t ∧ t.queue.events = s.queue.events.erase e
      ∧ assoc t.queue.evLost slice.val = some ((assoc s.queue.evLost slice.val).getD 0 + 1)
      ∧ s.touches t [.queue, .regs])
  ∧ (∀ (slice : Fin 512) (s : State) (x : Queue) (e : Event),
    s.queue.events.find? (fun e => e.slice = slice.val) = some e → e.gen = s.gen slice → s.evq slice = some x →
    assoc s.queue.evLost slice.val = none → x.state = .running → x.occupied + x.held.length < x.entries →
    (x.cached = true ∨ s.contextFits x.number = true) →
    exec (.eventRecord slice) s = .next
      (((({ s with queue.events := s.queue.events.erase e } : State).loadContext x.number).modQueue x.number fun x =>
        { x with held := x.held ++ [.event e] }).flushHeld x.number))
  ∧ (∀ (q : Nat) (s : State) (x : Queue) (a : ArmState) (at_ : Nat),
    s.findQueue q = some x → x.arm = some a → a.firstAt = some at_ → s.due (at_ + x.modTimeUs * 1000) = true →
    exec (.msixModerationTimer q) s = .next ((s.modQueue q fun x => { x with arm := none }).sendMsix x.slice x.vector (some q)))
  ∧ (∀ (f : Func) (v : Nat) (s : State),
    exec (.msixUnmask f (some v)) s = .next
      ((s.modFunc f fun x => { x with masked := x.masked.filter fun u => u ≠ v }).sendHeldMsix f))
  ∧ (∀ (f : Func) (s : State),
    exec (.msixUnmask f none) s = .next ((s.modFunc f fun x => { x with funcMask := false }).sendHeldMsix f))

/-- R114, R116, R117: a WAIT ends with SUCCESS when its counter is at least Threshold, with WAIT_TIMEOUT when its deadline has
passed, with Detail 1 on a queue whose Enable is clear, and stands otherwise; a reached or polled one is released; lace counters take their changes, saturating, and
driver writes. -/
def Obligations.WaitsAndLaceCounters : Prop :=
  (∀ (q : Nat) (count : Word32) (s : State) (x : Queue) (d : Started),
    s.ready q count Op.nop = some (x, d) →
    exec (.nop q count) s = .next (s.endDesc q count { status := Status.success }))
  ∧ (∀ (q : Nat) (count : Word32) (s : State) (x : Queue) (d : Started),
    s.ready q count Op.wait = some (x, d) → Desc.waitThreshold d.entry ≤ s.laceValue x.slice (Desc.waitCounter d.entry) →
    exec (.wait q count) s = .next (s.endDesc q count { status := Status.success }))
  ∧ (∀ (q : Nat) (count : Word32) (s : State) (x : Queue) (d : Started),
    s.ready q count Op.wait = some (x, d) → s.laceValue x.slice (Desc.waitCounter d.entry) < Desc.waitThreshold d.entry →
    Desc.waitDeadline d.entry ≠ 0 → s.passed (Desc.waitDeadline d.entry) = true → Desc.waitHalt d.entry = false →
    exec (.wait q count) s = .next (s.endDesc q count { status := Status.waitTimeout }))
  ∧ (∀ (q : Nat) (count : Word32) (s : State) (x : Queue) (d : Started),
    s.ready q count Op.wait = some (x, d) → s.laceValue x.slice (Desc.waitCounter d.entry) < Desc.waitThreshold d.entry →
    Desc.waitDeadline d.entry = 0 → x.enable = true →
    ∃ t w, exec (.wait q count) s = .next t ∧ t.queue.watch = s.queue.watch ++ [w] ∧ w.q = q ∧ w.count = count
      ∧ w.threshold = Desc.waitThreshold d.entry ∧ w.counter = Desc.waitCounter d.entry ∧ w.reached = false
      ∧ s.touches t [.queue])
  ∧ (∀ (q : Nat) (count : Word32) (s : State) (x : Queue) (d : Started),
    s.ready q count Op.wait = some (x, d) → s.laceValue x.slice (Desc.waitCounter d.entry) < Desc.waitThreshold d.entry →
    (Desc.waitDeadline d.entry = 0 ∨ s.passed (Desc.waitDeadline d.entry) = false) → x.enable = false →
    exec (.wait q count) s = .next (s.endDesc q count { status := Status.waitTimeout, detail := 1 }))
  ∧ (∀ (q : Nat) (s : State) (w : Watch),
    s.watchOf q = some w → w.reached = true → w.polled = false → s.awake (homeOf q) = true →
    ∃ t, exec (.waitRelease q) s = .next t ∧ t.watchOf q = none
      ∧ t = ({ s with queue.watch := t.queue.watch } : State).endDesc q w.count { status := Status.success })
  ∧ (∀ (q : Nat) (s : State) (w : Watch),
    s.watchOf q = some w → w.deadline ≠ 0 → s.passed w.deadline = true → w.reached = false →
    ∃ t, exec (.waitDeadline q) s = .next t ∧ t.watchOf q = none ∧ s.touches t [.queue, .power, .regs])
  ∧ (∀ (q : Nat) (s : State) (w : Watch),
    s.watchOf q = some w → w.polled = true → s.due w.nextPoll = true → w.reached = true →
    exec (.waitPoll q) s = .next (s.endWait w))
  ∧ (∀ (q : Nat) (count : Word32) (s : State) (x : Queue) (d : Started),
    s.ready q count Op.laceAdd = some (x, d) →
    ∃ t, exec (.laceAdd q count) s = .next t
      ∧ t.queue.laceChanges = s.queue.laceChanges ++ [⟨x.slice, x.gen, Desc.addCounter d.entry, Desc.addAmount d.entry⟩]
      ∧ s.touches t [.queue])
  ∧ (∀ (s : State) (c : LaceChange) (r : List LaceChange),
    s.queue.laceChanges = c :: r → c.gen = s.gen c.slice → c.counter < (s.quota c.slice).lace →
    ∃ t, exec .laceCounterChange s = .next t ∧ t.queue.laceChanges = r
      ∧ t.laceValue c.slice c.counter = min (s.laceValue c.slice c.counter + c.amount) (2 ^ 64 - 1)
      ∧ (∀ slice k, (slice, k) ≠ (c.slice, c.counter) → t.laceValue slice k = s.laceValue slice k)
      ∧ s.touches t [.queue, .power, .regs])
  ∧ (∀ (f : Func) (slice : Fin 512) (value : Word64) (s : State),
    s.bound slice f = true → s.fld .slcLaceSelIndex slice < (s.quota slice).lace →
    ∃ t, exec (.slcLaceValWrite f slice value) s = .next t
      ∧ t.laceValue slice (s.fld .slcLaceSelIndex slice) = value.toNat ∧ s.touches t [.queue, .power, .regs])
/-! ## Remote memory (chapters 06 and 07) -/

/-- R127, R128: a remote descriptor that passes the operand checks is posted on its connection and starts to send; one that
fails them ends with their code, and nothing is sent.
R127: the operation that a descriptor posts carries the descriptor's operands, takes the set's next message number, and
leaves every other end as it was. -/
def Obligations.RemoteOperationsStart : Prop :=
  ((∀ (q : Nat) (count : Word32) (s : State) (x : Queue) (d : Started) (c : Conn),
    s.startsRemote q count Op.write .write x d c →
    exec (.write q count) s = .next ((s.posted q count .write d c).kickSet c).settle)
  ∧ (∀ (q : Nat) (count : Word32) (s : State) (x : Queue) (d : Started) (c : Conn),
    s.startsRemote q count Op.writeInc .writeInc x d c →
    exec (.writeInc q count) s = .next ((s.posted q count .writeInc d c).kickSet c).settle)
  ∧ (∀ (q : Nat) (count : Word32) (s : State) (x : Queue) (d : Started) (c : Conn),
    s.startsRemote q count Op.fetchAdd .fetchAdd x d c →
    exec (.fetchAdd q count) s = .next ((s.posted q count .fetchAdd d c).kick c.index).settle)
  ∧ (∀ (q : Nat) (count : Word32) (s : State) (x : Queue) (d : Started) (c : Conn),
    s.startsRemote q count Op.cmpSwap .cmpSwap x d c →
    exec (.cmpSwap q count) s = .next ((s.posted q count .cmpSwap d c).kick c.index).settle)
  ∧ (∀ (q : Nat) (count : Word32) (s : State) (x : Queue) (d : Started) (c c1 c2 : Conn) (o : ConnOp),
    s.startsRemote q count Op.read .read x d c → (s.posted q count .read d c).findConn c.index = some c1 →
    (s.posted q count .read d c).readOpOf q count = some (c2, o) → c1.hasTurn o.id = true →
    exec (.read q count) s = .next ((s.posted q count .read d c).sendSegment o c1).settle)
  ∧ (∀ (q : Nat) (count : Word32) (s : State) (c : Conn) (o : ConnOp),
    s.readOpOf q count = some (c, o) → c.hasTurn o.id = true →
    exec (.readSegmentSend q count) s = .next (s.sendSegment o c).settle)
  ∧ (∀ (q : Nat) (count : Word32) (s : State) (x : Queue) (d : Started) (op : Nat) (i : Instr) (f : Status),
    (i, op) ∈ [(Instr.write q count, Op.write), (Instr.writeInc q count, Op.writeInc), (Instr.read q count, Op.read),
      (Instr.fetchAdd q count, Op.fetchAdd), (Instr.cmpSwap q count, Op.cmpSwap)] →
    s.ready q count op = some (x, d) → s.remoteCheck x d.entry = .error f →
    ∃ t, exec i s = .next t ∧ t = s.endDesc q count { status := f } ∧ s.touches t [.queue]))
  ∧ (∀ (q : Nat) (count : Word32) (s : State) (kind : OpKind) (x : Queue) (d : Started) (c c1 : Conn) (op : Nat),
    s.startsRemote q count op kind x d c → s.findConn c.stripeFirst = some c1 →
    ∃ c2 o, (s.posted q count kind d c).findConn c.stripeFirst = some c2 ∧ c2.ops = c1.ops ++ [o]
      ∧ o.kind = kind ∧ o.origin = .desc q count ∧ o.length = Desc.length d.entry ∧ o.localOffset = Desc.localOffset d.entry
      ∧ o.remote = Desc.remoteFpa d.entry ∧ o.key = Desc.regionKey d.entry ∧ o.lace = Desc.laceRemote d.entry
      ∧ o.opA = Desc.atomicA d.entry ∧ o.opB = Desc.atomicB d.entry ∧ o.msn = c.nextMsn
      ∧ (∀ k, k ≠ c.stripeFirst → (s.posted q count kind d c).findConn k = s.findConn k)
      ∧ s.touches (s.posted q count kind d c) [.queue, .trans])

/-! ## Arriving packets (chapter 07) -/

/-- R170: a packet that passes the checks of its end has the effect of its type; a fresh request is served, and an
acknowledgement or a control message for an end of another cluster becomes a record for that cluster, which acts on it (R20).
Checks 8 to 10 of R170, and the duplicate of R133: a PSN behind E or marked is a duplicate, one above E + 65,535 is
dropped and counted, a higher one on an ordered end is not taken, and every other one is fresh and changes nothing yet. -/
def Obligations.ArrivingPacketsAct : Prop :=
  ((∀ (a : Arrival) (s t u : State) (c : Conn),
    s.reaches .data a t c → t.psnChecks c a.pkt = (u, .fresh) → a.pkt.coll = none →
    exec (.data a) s = .next (u.takeData c a).settle)
  ∧ (∀ (a : Arrival) (s t u : State) (c : Conn) (e : CollExt),
    s.reaches .data a t c → t.psnChecks c a.pkt = (u, .fresh) → a.pkt.coll = some e →
    exec (.data a) s = .next (u.takeChunk c a e).settle)
  ∧ (∀ (a : Arrival) (s t u : State) (c : Conn),
    s.reaches .readReq a t c → t.psnChecks c a.pkt = (u, .fresh) →
    exec (.readReq a) s = .next (u.takeReadReq c a).settle)
  ∧ (∀ (a : Arrival) (s t u : State) (c : Conn),
    s.reaches .atomicReq a t c → t.psnChecks c a.pkt = (u, .fresh) →
    exec (.atomicReq a) s = .next (u.takeAtomic c a).settle)
  ∧ (∀ (a : Arrival) (s t : State) (c : Conn), s.reaches .readResp a t c →
    exec (.readResp a) s = .next (t.takeResponse c a).settle)
  ∧ (∀ (a : Arrival) (s t : State) (c : Conn), s.reaches .atomicResp a t c →
    exec (.atomicResp a) s = .next (t.takeResponse c a).settle)
  ∧ (∀ (a : Arrival) (s t : State) (c : Conn) (x : Received), s.reaches .ack a t c → x = ((s.takeIn a).frontChecks a).1.received a →
    exec (.ack a) s = .next (if c.home = 0 then t.takeReport c.index x.rxAt a
      else { t with trans.ackRecords := t.trans.ackRecords ++ [⟨c.index, x.rxAt, a, none⟩] }).settle)
  ∧ (∀ (a : Arrival) (s t : State) (c : Conn) (x : Received), s.reaches .nak a t c → x = ((s.takeIn a).frontChecks a).1.received a →
    exec (.nak a) s = .next (if c.home = 0 then t.takeReport c.index x.rxAt a
      else { t with trans.ackRecords := t.trans.ackRecords ++ [⟨c.index, x.rxAt, a, none⟩] }).settle)
  ∧ (∀ (a : Arrival) (s t : State) (c : Conn), s.reaches .probe a t c → a.pkt.solicit = true →
    exec (.probe a) s = .next (t.sendEndC7 c (t.endPacket c .probe)).settle)
  ∧ (∀ (cluster : Fin 8) (s : State) (r : AckRec),
    s.trans.ackRecords.find? (fun r => r.conn % 8 = cluster.val) = some r → s.awake cluster = true → r.msg = none →
    exec (.ackRecord cluster) s = .next
      (({ s with trans.ackRecords := s.trans.ackRecords.erase r } : State).takeReport r.conn r.rxTime r.arrival).settle)
  ∧ (∀ (cluster : Fin 8) (s : State) (r : AckRec) (m : CtrlMsg) (c : Conn),
    s.trans.ackRecords.find? (fun r => r.conn % 8 = cluster.val) = some r → s.awake cluster = true → r.msg = some m →
    s.findConn r.conn = some c →
    exec (.ackRecord cluster) s = .next
      (({ s with trans.ackRecords := s.trans.ackRecords.erase r } : State).endCtrlAt c r.arrival m).settle))
  ∧ ((∀ (s : State) (c : Conn) (p : Packet), s.isDup c p.psn = true → s.psnChecks c p = (s, .dup))
  ∧ (∀ (s : State) (c : Conn) (p : Packet), s.isDup c p.psn = false → 65535 < (p.psn - c.expect).toNat →
    s.psnChecks c p = (s.bump .cluCyqStat1WindowDrop c.home, .stop))
  ∧ (∀ (s : State) (c : Conn) (p : Packet), s.isDup c p.psn = false → (p.psn - c.expect).toNat ≤ 65535 →
    c.ordered = true → p.psn ≠ c.expect → (s.psnChecks c p).2 = .stop)
  ∧ (∀ (s : State) (c : Conn) (p : Packet), s.isDup c p.psn = false → (p.psn - c.expect).toNat ≤ 65535 →
    (c.ordered = false ∨ p.psn = c.expect) → s.psnChecks c p = (s, .fresh))
  ∧ (∀ (s t : State) (c : Conn) (a : Arrival), s.reaches .data a t c → t.isDup c a.pkt.psn = true →
    exec (.data a) s = .next (t.ackDup c a.pkt).settle))

/-- The transport's timers and the Connection Cache (R167, R173, R177, R179, R185, R186): each acts when its time has
come. -/
def Obligations.TransportTimersAct : Prop :=
  (∀ (k : BitVec 24) (s : State) (c : Conn) (at_ : Nat), s.findConn k.toNat = some c → c.unreportedAt = some at_ →
    s.due (at_ + s.ackDelay c.home) = true → exec (.ackDelayTimer k) s = .next (s.sendAck c.index none))
  ∧ (∀ (k : BitVec 24) (s : State) (c : Conn) (d : Nat), s.findConn k.toNat = some c → c.state = .opened →
    c.pausedUntil = none → c.deadline = some d → s.passed d = true →
    exec (.retransmitTimer k) s = .next (s.timerPassed c).settle)
  ∧ (∀ (k : BitVec 24) (psn : Word32) (s : State) (c : Conn), s.findConn k.toNat = some c → c.pausedUntil = none →
    (s.nakRun c psn).filter (fun r => r.holdUntil.any s.due) ≠ [] →
    (((s.nakRun c psn).filter (fun r => r.holdUntil.any s.due)).map (·.op)).dedup.filterMap s.findOp = [] →
    exec (.nakRetryTimer k psn) s = .next
      ((((s.nakRun c psn).filter fun r => r.holdUntil.any s.due).foldl (fun s r => s.again c.index r.psn false) s).kick
        c.index).settle)
  ∧ (∀ (k : BitVec 24) (res : ReadResult) (s : State) (c : Conn), s.findConn k.toNat = some c → c.fetching = true →
    (s.trans.conns.filter fun d => d.home = c.home && d.cached).length < s.connLines → c.nearContext = true →
    exec (.contextFetchDone k res) s = .next
      (((s.modConn c.index fun c => { c with fetching := false, cached := true, lastUse := s.time.now }).unpark
        c.index).kickSet c).settle)
  ∧ (∀ (k : BitVec 24) (s : State) (c : Conn), s.findConn k.toNat = some c → c.evicting = true → s.pinned c = false →
    c.nearContext = true →
    ∃ t y, exec (.evictionCommit k) s = .next t ∧ t.findConn k.toNat = some y ∧ y.cached = false ∧ y.evicting = false
      ∧ y.state = c.state ∧ y.ops = c.ops ∧ s.touches t [.trans])
  ∧ (∀ (k : BitVec 24) (s : State) (c : Conn), s.findConn k.toNat = some c → c.state = .gone → s.due c.goneUntil = true →
    c.serves = [] →
    ∃ t, exec (.goneExpiry k) s = .next t ∧ t.findConn k.toNat = none
      ∧ (∀ n, n ≠ k.toNat → t.findConn n = s.findConn n) ∧ s.touches t [.trans, .mem])

/-! ## Connection setup and control messages (chapter 07) -/

/-- R161, R162, R168: the arrivals of connection setup and closing: a member of a stripe set that a CONNECT_REQ made is acknowledged again,
one whose turn it is joins, and the set is Open, and CONN_CREATE answered, with its last member. -/
def Obligations.ConnectionMessagesAct : Prop :=
  (∀ (a : Arrival) (b : ConnectReqBody) (s t : State) (src : Coord) (l : Listen) (k : Nat) (c : Conn),
    s.newNodeMsg a t src → t.fwAway = false → t.accepted src b = none → t.nextMember src b = none → t.keys.drbgHalted = false →
    t.groupFor src b.listenId = none → t.findListen b.listenId a.peerTag = some l →
    t.listenRefuses l a.peerTag b = none → t.newIndex b.stripes b.trafficClass none b.encrypted = some k →
    (t.acceptEnd { slice := l.slice, peer := src, mode := l.params.mode, tc := l.params.trafficClass,
                   payloadLog := l.params.payloadLog, stripes := b.stripes, sendSlot := slotOpt l.params.sendSlot,
                   recvSlot := slotOpt l.params.recvSlot, as := l.params.addressSpace, listenId := l.params.listenId } k
      b).findConn k = some c →
    exec (.connectReq a b) s = .next
      (((t.acceptEnd { slice := l.slice, peer := src, mode := l.params.mode, tc := l.params.trafficClass,
                       payloadLog := l.params.payloadLog, stripes := b.stripes, sendSlot := slotOpt l.params.sendSlot,
                       recvSlot := slotOpt l.params.recvSlot, as := l.params.addressSpace, listenId := l.params.listenId } k
        b).ackConnect a src (ctrlSeqOf a.pkt) c).raise
          { slice := l.slice, code := EventCode.connArrived, cluster := c.home, object := k,
            info := l.params.listenId.toNat + src.toNat * 2 ^ 32 }).settle)
  ∧ (∀ (a : Arrival) (b : ConnectReqBody) (s t : State) (src : Coord),
    s.newNodeMsg a t src → t.fwAway = false → t.accepted src b = none → t.nextMember src b = none → t.keys.drbgHalted = false →
    t.groupFor src b.listenId = none → t.findListen b.listenId a.peerTag = none →
    exec (.connectReq a b) s = .next (t.refuseConnect a src (ctrlSeqOf a.pkt) b Status.localAccess 1).settle)
  ∧ (∀ (a : Arrival) (b : ConnectReqBody) (s t : State) (src : Coord) (c : Conn),
    s.newNodeMsg a t src → t.fwAway = false → t.accepted src b = some c →
    exec (.connectReq a b) s = .next (t.ackConnect a src (ctrlSeqOf a.pkt) c).settle)
  ∧ (∀ (a : Arrival) (b : ConnectReqBody) (s t : State) (src : Coord) (c : Conn),
    s.newNodeMsg a t src → t.fwAway = false → t.accepted src b = none → t.nextMember src b = some c → c.group = none →
    exec (.connectReq a b) s = .next
      ((t.joinEnd c.index b.initIndex b.initInc b.initPsn).ackConnect a src (ctrlSeqOf a.pkt) c).settle)
  ∧ (∀ (a : Arrival) (idx : BitVec 24) (inc : BitVec 8) (id psn : Word32) (s t u : State) (src : Coord) (c : Conn),
    s.newNodeMsg a t src → t.connecting src (ctrlSeqOf a.pkt) = some c → c.listenId = id → t.fwAway = false →
    u = (t.dropCtrl fun o => o.seq = ctrlSeqOf a.pkt && o.dst = src && o.conn.isNone).joinEnd c.index idx inc psn →
    exec (.connectAck a idx inc id psn) s = .next (match (u.members c).find? fun (m : Conn) => !m.joined with
      | some m => u.sendCtrl src (.connectReq (connectBody m))
      | none => u.setOpened c).settle)
  ∧ (∀ (s : State) (c : Conn), (s.firstOf c).group = none →
    s.setOpened c = (List.range (s.firstOf c).stripes).foldl (fun (u : State) (i : Nat) => u.unpark ((s.firstOf c).index + i))
      ((s.modConn (s.firstOf c).index fun c => { c with creator := none }).respondTo (s.firstOf c).creator Status.success
        [(s.firstOf c).index, (s.firstOf c).incarnation.toNat]))
  ∧ (∀ (a : Arrival) (idx : BitVec 24) (inc : BitVec 8) (id : Word32) (st reason : Nat) (s t : State) (src : Coord) (c : Conn)
      (o : CtrlOut),
    s.newNodeMsg a t src → t.connecting src (ctrlSeqOf a.pkt) = some c →
    t.trans.ctrlOut.find? (fun o => o.seq = ctrlSeqOf a.pkt && o.dst = src && o.conn.isNone) = some o → t.fwAway = false →
    c.index = idx.toNat → c.incarnation = inc → c.listenId = id → c.group = none →
    exec (.connectRefuse a idx inc id st reason) s = .next
      (((t.dropCtrl fun o => o.seq = ctrlSeqOf a.pkt && o.dst = src && o.conn.isNone).respondTo c.creator (BitVec.ofNat 8 st)
        []).freeSet c))
  ∧ (∀ (a : Arrival) (si ri : BitVec 24) (sn rn : BitVec 8) (s t : State) (src : Coord) (c : Conn),
    s.newNodeMsg a t src → t.fw.resetting = false → t.findConn ri.toNat = some c → c.incarnation = rn → c.peer = src →
    c.peerIndex = si → c.peerInc = sn → c.state ≠ .gone →
    exec (.close a si sn ri rn) s = .next
      (((((t.rekeyOver (t.firstOf c)).endOps (t.firstOf c) Status.peerUnreachable).freeSet (t.firstOf c)).raise
        { slice := c.slice, code := EventCode.connClosed, cluster := (t.firstOf c).home,
          object := (t.firstOf c).index }).answerCtrl a src (.closeAck si sn ri rn) (ctrlSeqOf a.pkt)).settle)
  ∧ (∀ (a : Arrival) (si ri : BitVec 24) (sn rn : BitVec 8) (s t u : State) (src : Coord) (c : Conn),
    s.newNodeMsg a t src → t.fw.resetting = false →
    (t.trans.ctrlOut.any fun o => o.seq = ctrlSeqOf a.pkt && o.dst = src &&
      (match o.msg with | .close i n _ _ => i = si && n = sn | _ => false)) = true →
    u = t.dropCtrl (fun o => o.seq = ctrlSeqOf a.pkt && o.dst = src &&
      (match o.msg with | .close i n _ _ => i = si && n = sn | _ => false)) →
    u.findConn si.toNat = some c → c.state = .closing →
    exec (.closeAck a si sn ri rn) s = .next (u.freeSet c).settle)

/-- R180, R198, R387, R388, R430, R163: pauses, feeds, re-homing, rekeying, acknowledgements and repeats.
R387: RE_HOME_ACK ends the wait for the named end, and the peer has answered. -/
def Obligations.EndMaintenanceActs : Prop :=
  ((∀ (a : Arrival) (us : Nat) (serial : Word64) (s t : State) (src : Coord), s.newNodeMsg a t src →
    exec (.pause a us serial) s = .next
      (((t.endsTo src).foldl (fun s c => s.modConn c.index fun c =>
        { c with pausedUntil := some (t.time.now + 200000000, t.time.now) }) t).ackCtrl a src (ctrlSeqOf a.pkt)))
  ∧ (∀ (a : Arrival) (serial : Word64) (ab : Bool) (s t : State) (src : Coord), s.newNodeMsg a t src →
    exec (.resume a serial ab) s = .next
      (((t.endsTo src).foldl (fun s c => s.endPause c) t).ackCtrl a src (ctrlSeqOf a.pkt)).settle)
  ∧ (∀ (peer : Coord) (s : State),
    exec (.pauseExpiry peer) s = .next
      (((s.endsTo peer).filter fun c => c.pausedUntil.any fun p => s.passed p.1).foldl (fun s c => s.endPause c) s).settle)
  ∧ (∀ (s : State), s.last.role = 2 → s.due s.trans.feedAt = true →
    exec .sbtFeedSend s = .next
      (({ s with trans.feedAt := s.time.now + 1000000000 } : State).siteNodes.foldl
        (fun u c => u.sendCtrl c (.sbtFeed ((List.range 16).map fun k => (s.sbtRtt k).getD 0)))
        { s with trans.feedAt := s.time.now + 1000000000 }))
  ∧ (∀ (a : Arrival) (rtts : List Nat) (tr : Trailer) (s t : State) (src : Coord), s.newGuarded a (.sbtFeed rtts) tr t src →
    t.siteManager (coordSite t.coord) = src →
    exec (.sbtFeed a rtts tr) s = .next ((t.takeFeed rtts).ackCtrl a src (ctrlSeqOf a.pkt)))
  ∧ (∀ (a : Arrival) (keyId : Word32) (s t : State) (c : Conn) (x : Received), s.newEndMsg a (.rekey keyId) x t c →
    exec (.rekey a keyId) s = .next
      (if c.home = 0 then ((t.takeRekey c keyId).1.repliedEnd c a (.rekeyAck (t.takeRekey c keyId).2)).endMsg c (.rekey keyId)
      else { t with trans.ackRecords := t.trans.ackRecords ++ [⟨c.index, x.rxAt, a, some (.rekey keyId)⟩] }).settle)
  ∧ (∀ (a : Arrival) (st : Nat) (s t : State) (c : Conn) (x : Received), s.newEndMsg a (.rekeyAck st) x t c →
    exec (.rekeyAck a st) s = .next (if c.home = 0 then t.rekeyAnswered c st
      else { t with trans.ackRecords := t.trans.ackRecords ++ [⟨c.index, x.rxAt, a, some (.rekeyAck st)⟩] }).settle)
  ∧ (∀ (a : Arrival) (ri mi : BitVec 24) (rn on nn : BitVec 8) (oc nc : Coord) (s t : State) (src : Coord) (c : Conn),
    s.newNodeMsg a t src → t.findConn ri.toNat = some c → c.state = .opened → c.incarnation = rn →
    a.peerTag = (t.slice c.slice).tenant → c.peer = oc → c.peerIndex = mi → c.peerInc = on →
    exec (.reHome a ri rn oc mi on nc nn) s = .next
      ((t.moveEnd c nc nn).answerCtrl a src (.reHomeAck ri rn) (ctrlSeqOf a.pkt)).settle)
  ∧ (∀ (a : Arrival) (seq : Word32) (s t : State) (src : Coord), s.newNodeMsg a t src →
    exec (.ctrlAck a seq true) s = .next (t.dropCtrl fun o => o.seq = seq && o.dst = src && o.conn.isNone))
  ∧ (∀ (a : Arrival) (seq : Word32) (s t : State) (c : Conn) (x : Received), s.newEndMsg a (.ctrlAck seq false) x t c →
    exec (.ctrlAck a seq false) s = .next (if c.home = 0 then t.dropCtrl fun o => o.conn = some c.index && o.seq = seq
      else { t with trans.ackRecords := t.trans.ackRecords ++ [⟨c.index, x.rxAt, a, some (.ctrlAck seq false)⟩] }).settle)
  ∧ (∀ (seq : Word32) (s : State) (o : CtrlOut), s.trans.ctrlOut.find? (fun o => o.seq = seq) = some o → o.queued = false →
    s.passed o.nextAt = true → o.conn = none → o.tries ≤ 7 → exec (.ctrlRepeatTimer seq) s = .next (s.repeatCtrl o))
  ∧ (∀ (seq : Word32) (s : State) (o : CtrlOut), s.trans.ctrlOut.find? (fun o => o.seq = seq) = some o → o.queued = false →
    s.passed o.nextAt = true → o.conn = none → s.endless o = false → 7 < o.tries →
    exec (.ctrlRepeatTimer seq) s = .next (s.giveUp o).settle))
  ∧ (∀ (a : Arrival) (ri mi : BitVec 24) (rn on nn : BitVec 8) (oc nc : Coord) (s t : State) (src : Coord) (c : Conn) (o : CtrlOut),
    s.newNodeMsg a t src → t.trans.ctrlOut = [o] → o.seq = ctrlSeqOf a.pkt → o.dst = src →
    o.msg = .reHome ri rn oc mi on nc nn → t.findConn mi.toNat = some c →
    ∃ u : State, exec (.reHomeAck a ri rn) s = .next (u.rehomeDone c true).settle ∧ u.trans.ctrlOut = [])

/-- R154, R161, R162, R168, R151, R430: the connection commands of the mailbox. -/
def Obligations.ConnectionCommandsAnswer : Prop :=
  (∀ (slice : Fin 512) (tag : Word32) (p : ListenParams) (s t : State), s.takesUp slice tag MbxOp.connListen →
    (s.taken slice tag MbxOp.connListen).connListen slice p = (t, Status.success, []) →
    exec (.connListen slice tag p) s = .next (t.answer slice tag MbxOp.connListen Status.success 0 [])
      ∧ t.trans.listens = s.trans.listens ++ [⟨slice, p⟩])
  ∧ (∀ (slice : Fin 512) (tag : Word32) (p : ConnParams) (s t : State) (k : Nat), s.takesUp slice tag MbxOp.connCreate →
    t = s.taken slice tag MbxOp.connCreate → s.keys.drbgHalted = false →
    t.createRefused slice p = none → t.newIndex p.stripes p.trafficClass none (slotOpt p.sendSlot).isSome = some k →
    exec (.connCreate slice tag p) s = .next (t.openConn
        { slice, peer := p.peer, mode := p.mode, tc := p.trafficClass, payloadLog := p.payloadLog, stripes := p.stripes,
          sendSlot := slotOpt p.sendSlot, recvSlot := slotOpt p.recvSlot, as := p.addressSpace,
          contextRegion := p.contextRegion, listenId := p.listenId } k (some (slice.val, tag))))
  ∧ (∀ (slice : Fin 512) (tag : Word32) (p : ConnParams) (s : State) (c : Status), s.takesUp slice tag MbxOp.connCreate →
    s.keys.drbgHalted = false → (s.taken slice tag MbxOp.connCreate).createRefused slice p = some c →
    exec (.connCreate slice tag p) s = .next ((s.taken slice tag MbxOp.connCreate).respond (slice.val, tag) c []))
  ∧ (∀ (slice : Fin 512) (tag : Word32) (k : BitVec 24) (s t : State) (c : Conn), s.takesUp slice tag MbxOp.connDestroy →
    t = s.taken slice tag MbxOp.connDestroy → t.findConn k.toNat = some c → (t.firstOf c).slice = slice →
    t.quiet (t.firstOf c) = true → ((t.firstOf c).state = .opened ∨ (t.firstOf c).state = .failed) → (t.firstOf c).rekey = none →
    exec (.connDestroy slice tag k) s = .next
      ((t.closeSet (t.firstOf c)).answer slice tag MbxOp.connDestroy Status.success 0 []))
  ∧ (∀ (slice : Fin 512) (tag : Word32) (k : BitVec 24) (s t : State) (c : Conn), s.takesUp slice tag MbxOp.connResume →
    t = s.taken slice tag MbxOp.connResume → t.findConn k.toNat = some c → c.slice = slice → t.quiet c = true →
    exec (.connResume slice tag k) s = .next
      (((t.members c).foldl (fun s m => s.modConn m.index fun c => { c with fenced := false }) t).answer slice tag
        MbxOp.connResume Status.success 0 []))
  ∧ (∀ (slice : Fin 512) (tag : Word32) (k : BitVec 24) (slot : Nat) (s t : State) (c : Conn) (x : KeySlot),
    s.takesUp slice tag MbxOp.connRekey → t = s.taken slice tag MbxOp.connRekey → t.findConn k.toNat = some c →
    (t.firstOf c).slice = slice → t.keySlot slice slot false = some x → x.kind = 1 → (x.state = .loaded ∨ x.state = .warned) →
    (t.firstOf c).state = .opened → (t.firstOf c).fenced = false → (t.firstOf c).sendSlot.isSome = true →
    t.quiet (t.firstOf c) = true → (t.firstOf c).rekey = none →
    exec (.connRekey slice tag k slot) s = .next
      ((t.modConn (t.firstOf c).index fun c => { c with rekey := some (slice.val, tag, slot) }).sendEndCtrl (t.firstOf c)
        (.rekey x.keyId) true))
  ∧ (∀ (tag : Word32) (port : Word16) (s : State), s.takesUp 0 tag MbxOp.cyqPortSet → s.trans.conns = [] →
    ∃ t, exec (.cyqPortSet 0 tag port) s = .next t ∧ t.trans.cyqPort = port ∧ t.hasAnswer 0 tag Status.success []
      ∧ s.touches t [.trans, .mailboxes])
  ∧ (∀ (tag : Word32) (port : Word16) (s : State), s.takesUp 0 tag MbxOp.cyqPortSet → s.trans.conns ≠ [] →
    ∃ t, exec (.cyqPortSet 0 tag port) s = .next t ∧ t.hasAnswer 0 tag Status.busy [] ∧ s.touches t [.mailboxes])


/-! ## Pacing and the scheduler of a port (chapter 08) -/

/-- R206, R211, R203, R333: the wheel entry of an end or of a raw queue whose slot has come due is visited while its cluster is awake; an egress port that is up starts the frame of the
requester it grants. -/
def Obligations.PacingAndArbitration : Prop :=
  (∀ (k : Nat) (m : List Nat) (s : State) (e : WheelEntry), s.findWheel (.conn k) = some e → e.placed = true → s.due e.nextAt = true →
    s.awake (k % 8) = true → exec (.pacingWheelVisit (.conn k) m) s = .next (s.visit k m).settle)
  ∧ (∀ (q : Nat) (m : List Nat) (s : State) (e : WheelEntry), s.findWheel (.raw q) = some e → e.placed = true → s.due e.nextAt = true →
    s.awake (homeOf q) = true → exec (.pacingWheelVisit (.raw q) m) s = .next (s.visitQueue q).settle)
  ∧ (∀ (p : Fin 10) (s t : State) (f : TxFrame), s.linkUp p = true → s.portEnabled p = true →
    ((s.commitPort p).c7Refill p).countOverCap p = t → t.grantOf p = some 0 →
    (t.port p).egress.find? (fun y => y.cls = macClass) = some f →
    exec (.egressFrameSelect p) s = .next ((t.granted p 0).startFrame p f).settle)
  ∧ (∀ (p : Fin 10) (s t : State) (f : TxFrame), s.linkUp p = true → s.portEnabled p = true →
    ((s.commitPort p).c7Refill p).countOverCap p = t → t.grantOf p = some 1 → (t.granted p 1).c7Head p = some f →
    exec (.egressFrameSelect p) s = .next (((t.granted p 1).modPort p fun x =>
      { x with c7Tokens := x.c7Tokens - (t.granted p 1).charged p f.bytes * 100 }).startFrame p f).settle)
  ∧ (∀ (p : Fin 10) (s t : State) (f : ReplayFrame), s.linkUp p = true → s.portEnabled p = true →
    ((s.commitPort p).c7Refill p).countOverCap p = t → t.grantOf p = some 2 → (t.granted p 2).replayHead p = some f →
    exec (.egressFrameSelect p) s = .next ((t.granted p 2).resendFrame p f).settle)
  ∧ (∀ (p : Fin 10) (s t : State) (f : TxFrame) (turns : List (List Nat × Nat)), s.linkUp p = true → s.portEnabled p = true →
    ((s.commitPort p).c7Refill p).countOverCap p = t → t.grantOf p = some 3 →
    (t.granted p 3).scheduled p ((t.granted p 3).port p).dwrr ((t.granted p 3).ready06 p) = (turns, some f) →
    exec (.egressFrameSelect p) s = .next ((((t.granted p 3).modPort p fun x => { x with dwrr := turns }).startFrame p f).modPort p
      fun x => { x with dwrr := keepWaiting x.dwrr x.egress }).settle)
  ∧ (∀ (p r q : Nat) (s : State), r < 4 → q < 4 → s.grantOf p = some r → s.requests p q = true →
    (∀ o, o < 4 → s.requests p o = true → vget (s.port p).grantsWaited o 0 < 8) → s.arbRank p r ≤ s.arbRank p q)

/-- R200: the table of throttle levels, entered at 25, 50 and 75 % of the allowance and left, one level at a time, below 18.75,
43.75 and 68.75 %.
R203, R197, R213: the class 7 bucket fills at its cap's share of the port rate up to 16 KiB; the baseline buckets move on by
one for every second of Device Time that has begun, and a feed of 10 s counts no more; the shadows of an arbiter take effect together. -/
def Obligations.ThrottleBucketsAndCommits : Prop :=
  ((∀ (level depth allow : Nat), level ≤ 3 → 0 < allow →
    (3 * allow ≤ 4 * depth → throttleLevel level depth allow = 3)
    ∧ (2 * allow ≤ 4 * depth → 4 * depth < 3 * allow → level ≤ 2 → throttleLevel level depth allow = 2)
    ∧ (allow ≤ 4 * depth → 2 * allow > 4 * depth → level ≤ 1 → throttleLevel level depth allow = 1)
    ∧ (level = 3 → 11 * allow ≤ 16 * depth → throttleLevel level depth allow = 3)
    ∧ (level = 3 → 16 * depth < 11 * allow → throttleLevel level depth allow = 2)
    ∧ (level = 2 → 7 * allow ≤ 16 * depth → 4 * depth < 3 * allow → throttleLevel level depth allow = 2)
    ∧ (level = 2 → 16 * depth < 7 * allow → throttleLevel level depth allow = 1)
    ∧ (level = 1 → 3 * allow ≤ 16 * depth → 4 * depth < 2 * allow → throttleLevel level depth allow = 1)
    ∧ (level = 1 → 16 * depth < 3 * allow → throttleLevel level depth allow = 0)
    ∧ (level = 0 → 4 * depth < allow → throttleLevel level depth allow = 0))
  ∧ (∀ (p : Fin 10) (s : State), s.portEnabled p = true →
    ∃ t, exec (.throttleEval p) s = .next t
      ∧ (t.port p).throttle = throttleLevel (s.port p).throttle (s.queuedBytes p) (s.allowance p)
      ∧ (∀ r : Fin 10, r ≠ p → t.port r = s.port r) ∧ s.touches t [.ports, .regs]))
  ∧ ((∀ (p : Fin 10) (s : State), ∃ t, exec (.class7TokensRefill p) s = .next t
    ∧ (t.port p).c7Tokens = min (16384 * 100) ((s.port p).c7Tokens + (s.time.now - (s.port p).c7At) * portRate p * s.c7Cap)
    ∧ (t.port p).c7At = s.time.now ∧ (∀ r : Fin 10, r ≠ p → t.port r = s.port r) ∧ s.touches t [.ports])
  ∧ (∀ (s : State) (site : Nat) (e : SbtEntry), s.trans.sbt.toList[site]? = some e →
    ∃ t x, exec .sbtBucketRoll s = .next t ∧ t.trans.sbt.toList[site]? = some x ∧ x.feed = e.feed
      ∧ x.buckets = (if s.time.now / 1000000000 ≤ s.trans.sbtSecond then e.buckets
          else (List.replicate (min (s.time.now / 1000000000 - s.trans.sbtSecond) 10) none ++ e.buckets).take 10)
      ∧ t.trans.sbtSecond = max s.trans.sbtSecond (s.time.now / 1000000000) ∧ s.touches t [.trans])
  ∧ (∀ (e : SbtEntry) (now v at_ : Nat), minOpt e.buckets = none → e.feed = some (v, at_) →
    e.value now = if now < at_ + 10000000000 then some v else none)
  ∧ (∀ (f : Func) (s : State), s.isManager f = true →
    ∃ t, exec (.memArbCommit f) s = .next t ∧ t.rawReg .memArbRank (inForceAt 0) = s.rawReg .memArbRank 0
      ∧ t.rawReg .memArbRank 0 = s.rawReg .memArbRank 0 ∧ s.touches t [.regs])
  ∧ (∀ (f : Func) (p : Fin 10) (s : State), s.isManager f = true →
    ∃ t, exec (.prtSchedCommit f p) s = .next t
      ∧ (t.port p).pendingSched = some (s.rawReg .prtSchedQuantum p, s.rawReg .prtArbRank p)
      ∧ (∀ r : Fin 10, r ≠ p → t.port r = s.port r) ∧ s.touches t [.ports])
  ∧ (∀ (p : Fin 10) (s : State) (q r : Word64), (s.port p).pendingSched = some (q, r) →
    ((s.commitPort p).port p).pendingSched = none
      ∧ (s.commitPort p).rawReg .prtSchedQuantum (inForceAt p) = q ∧ (s.commitPort p).rawReg .prtArbRank (inForceAt p) = r))

/-! ## Ports (chapter 13) -/

/-- R319, R338: what a link does: the hit, the end of the link with every queued frame discarded, its return, and ForceDown. -/
def Obligations.LinkEvents : Prop :=
  (∀ (p : Fin 10) (dark : Bool) (s : State), s.linkUp p = true → (s.port p).lossSince = none →
    ∃ t, exec (.linkSignalLoss p dark) s = .next t ∧ (t.port p).lossSince = some s.time.now ∧ (t.port p).link = .up
      ∧ (t.port p).egress = (s.port p).egress ∧ (∀ r : Fin 10, r ≠ p → t.port r = s.port r) ∧ s.touches t [.ports])
  ∧ (∀ (p : Fin 10) (s : State) (l : Nat), s.linkUp p = true → (s.port p).lossSince = some l → s.time.now < l + 2000000 →
    ∃ t, exec (.linkHit p) s = .next t ∧ (t.port p).lossSince = none ∧ (t.port p).link = .up
      ∧ (t.port p).lastStatusRx = s.time.now ∧ (t.port p).egress = (s.port p).egress
      ∧ (t.port p).replay = (s.port p).replay.map (fun f => { f with again := true })
      ∧ (∀ r : Fin 10, r ≠ p → t.port r = s.port r) ∧ s.touches t [.ports, .regs])
  ∧ (∀ (p : Fin 10) (s : State) (l : Nat), s.linkUp p = true → (s.port p).lossSince = some l → l + 2000000 ≤ s.time.now →
    exec (.linkDown p) s = .next
      (if (s.port p).dark && s.chainLit then (s.goDown p 1).wiring p 1 0 else s.goDown p 1).settle)
  ∧ (∀ (p : Fin 10) (cause : Nat) (s : State), s.linkUp p = true →
    ((s.goDown p cause).port p).link ≠ .up ∧ ((s.goDown p cause).port p).egress = []
      ∧ ((s.goDown p cause).port p).waitRoom = [] ∧ ((s.goDown p cause).port p).replay = []
      ∧ (s.goDown p cause).queue.events.any (fun e => e.slice = 0 && e.code = EventCode.portLink && e.object = p.val
          && e.info / 256 % 256 = cause % 256) = true)
  ∧ (∀ (p : Fin 10) (i l q : Nat) (s : State), s.portEnabled p = true → (s.port p).link ≠ .up → (s.port p).forceDown = false →
    (p.val < 8 ∨ ((s.port p).helloSeen = true ∧ (s.port p).wireFault = 0)) → s.pauseHolds p = false →
    ∃ t, exec (.linkUp p i l q) s = .next t ∧ (t.port p).link = .up ∧ (t.port p).upSince = s.time.now
      ∧ (t.port p).interface = s.trainsAs p i ∧ (8 ≤ p.val → (t.port p).welt = true)
      ∧ (t.port p).egress = (s.port p).egress ∧ (∀ r : Fin 10, r ≠ p → t.port r = s.port r)
      ∧ s.touches t [.ports, .queue, .time])
  ∧ (∀ (p : Fin 10) (s : State), p.val < 8 → (s.port p).link = .training → (s.port p).interface = 0 →
    s.fld .prtLinkCtrlInterface p = 0 → s.passed ((s.port p).trainSince + 500000000) = true →
    ∃ t, exec (.autonegTimeout p) s = .next t ∧ (t.port p).interface = 2 ∧ (t.port p).link = .training
      ∧ (∀ r : Fin 10, r ≠ p → t.port r = s.port r) ∧ s.touches t [.ports])
  ∧ (∀ (f : Func) (p : Fin 10) (v : Word32) (s : State), s.isManager f = true → p.val < 8 →
    exec (.interfaceWrite f p v) s = .next ((s.setFld .prtLinkCtrlInterface p (bitsOf (v.zeroExtend 64) 5 4)).retrain p).settle)
  ∧ (∀ (f : Func) (p : Fin 10) (v : Word32) (s : State), s.isManager f = true → 8 ≤ p.val →
    exec (.interfaceWrite f p v) s = .next (s.setFld .prtLinkCtrlInterface p (bitsOf (v.zeroExtend 64) 5 4)).settle)
  ∧ (∀ (f : Func) (p : Fin 10) (s : State), s.isManager f = true → (s.port p).forceDown = false → s.linkUp p = true →
    exec (.retrain f p) s = .next (s.goDown p 4).settle)
  ∧ (∀ (f : Func) (p : Fin 10) (s : State), s.isManager f = true → s.linkUp p = true →
    ∃ u : State, exec (.forceDown f p true) s = .next (u.goDown p 2).settle ∧ (u.port p).forceDown = true
      ∧ (u.port p).link = .up ∧ u.rawReg .prtLinkCtrl p = setBits (s.rawReg .prtLinkCtrl p) 0 0 1 ∧ s.touches u [.ports, .regs])

/-- R326, R327: a received pause holds each priority it names for its quanta, or releases it; a held priority's pause ends when
its time has come; a pause that this port has sent is repeated.
R320, R321, R333, R336: what an arriving frame meets, in order. -/
def Obligations.PauseAndArrivingFrames : Prop :=
  ((∀ (p : Fin 10) (mask : Nat) (quanta : List Nat) (s : State), s.portEnabled p = true → s.linkUp p = true → p.val < 8 →
    ∃ t, exec (.pfcFrame p mask quanta) s = .next t
      ∧ (∀ k : Fin 8, vget (t.port p).pausedRx k 0 = if mask.testBit k then
          (if quanta.getD k 0 = 0 then 0 else s.time.now + ceilDiv (quanta.getD k 0 * 64) 100) else vget (s.port p).pausedRx k 0)
      ∧ (t.port p).egress = (s.port p).egress ∧ (∀ r : Fin 10, r ≠ p → t.port r = s.port r) ∧ s.touches t [.ports, .regs])
  ∧ (∀ (p : Fin 10) (mask : Nat) (quanta : List Nat) (s : State), s.portEnabled p = true → s.linkUp p = true → 8 ≤ p.val →
    ∃ t, exec (.pfcFrame p mask quanta) s = .next t ∧ s.touches t [.regs])
  ∧ (∀ (p : Fin 10) (k : Fin 8) (s : State), s.due (vget (s.port p).pausedRx k 0) = true →
    ∃ t, exec (.pfcPauseExpiry p k) s = .next t ∧ vget (t.port p).pausedRx k 0 = 0
      ∧ (∀ j : Fin 8, j ≠ k → vget (t.port p).pausedRx j 0 = vget (s.port p).pausedRx j 0)
      ∧ (t.port p).egress = (s.port p).egress ∧ (∀ r : Fin 10, r ≠ p → t.port r = s.port r) ∧ s.touches t [.ports])
  ∧ (∀ (p : Fin 10) (k : Fin 8) (s : State), s.linkUp p = true → vget (s.port p).xoff k false = true →
    s.due (vget (s.port p).nextXoff k 0) = true →
    ∃ t, exec (.pfcRefreshTimer p k) s = .next t ∧ vget (t.port p).nextXoff k 0 = s.time.now + s.refreshNs p
      ∧ (∃ f, (t.port p).egress = (s.port p).egress ++ [f] ∧ f.cls = macClass
          ∧ f.body = .pfc (2 ^ k.val) ((List.range 8).map fun j => if j = k.val then 0xFFFF else 0))
      ∧ (∀ r : Fin 10, r ≠ p → t.port r = s.port r) ∧ s.touches t [.ports]))
  ∧ ((∀ (p : Fin 10) (fr : RxFrame) (s : State), s.portEnabled p = true → s.linkUp p = true → fr.fcsOk = false →
    exec (.frameReceive p fr) s = .next (s.portCount p 4 1).settle)
  ∧ (∀ (p : Fin 10) (fr : RxFrame) (s : State), s.portEnabled p = true → s.linkUp p = true → fr.fcsOk = true →
    (fr.length < 64 ∨ (if (s.port p).welt then 9224 else 9216) < fr.length) →
    exec (.frameReceive p fr) s = .next (((s.portCount p 0 1).portCount p 1 fr.length).portCount p 5 1).settle)
  ∧ (∀ (p : Fin 10) (fr : RxFrame) (s : State), s.portEnabled p = true → s.linkUp p = true → fr.fcsOk = true →
    64 ≤ fr.length → fr.length ≤ 9216 → fr.kind = .pause8023x →
    exec (.frameReceive p fr) s = .next (((s.portCount p 0 1).portCount p 1 fr.length).portCount p 15 1).settle)
  ∧ (∀ (p : Fin 10) (fr : RxFrame) (m : Nat) (q : List Nat) (s : State), s.portEnabled p = true → s.linkUp p = true →
    fr.fcsOk = true → 64 ≤ fr.length → fr.length ≤ 9216 → fr.kind = .pfc m q →
    exec (.frameReceive p fr) s = .next (((s.portCount p 0 1).portCount p 1 fr.length).obeyPfc p m q).settle)
  ∧ (∀ (p : Fin 10) (fr : RxFrame) (s : State), s.portEnabled p = true → s.linkUp p = true → fr.fcsOk = true →
    64 ≤ fr.length → fr.length ≤ 9216 → (∀ m q, fr.kind ≠ .pfc m q) → fr.kind ≠ .weltControl → fr.kind ≠ .pause8023x →
    (s.port p).welt = false →
    exec (.frameReceive p fr) s = .next (((s.portCount p 0 1).portCount p 1 fr.length).classify p 0 fr).settle)
  ∧ (∀ (p : Fin 10) (fr : RxFrame) (s t : State) (lane : Nat) (seq : Word32), s.portEnabled p = true →
    s.linkUp p = true → fr.fcsOk = true → 64 ≤ fr.length → fr.length ≤ 9216 → (∀ m q, fr.kind ≠ .pfc m q) →
    fr.kind ≠ .weltControl → fr.kind ≠ .pause8023x → (s.port p).welt = true →
    fr.weltTag = some (lane, seq) → ((s.portCount p 0 1).portCount p 1 fr.length).acceptWelt p lane seq = (t, true) →
    exec (.frameReceive p fr) s = .next ((t.countWelt p).classify p lane fr).settle)
  ∧ (∀ (p : Fin 10) (fr : RxFrame) (s t : State) (lane : Nat) (seq : Word32), s.portEnabled p = true →
    s.linkUp p = true → fr.fcsOk = true → 64 ≤ fr.length → fr.length ≤ 9216 → (∀ m q, fr.kind ≠ .pfc m q) →
    fr.kind ≠ .weltControl → fr.kind ≠ .pause8023x → (s.port p).welt = true →
    fr.weltTag = some (lane, seq) → ((s.portCount p 0 1).portCount p 1 fr.length).acceptWelt p lane seq = (t, false) →
    exec (.frameReceive p fr) s = .next (t.countWelt p).settle)
  ∧ (∀ (p : Nat) (s : State), p < 10 → (s.port p).sinceStatus < 15 →
    ((s.countWelt p).port p).sinceStatus = (s.port p).sinceStatus + 1 ∧ s.touches (s.countWelt p) [.ports])
  ∧ (∀ (p : Nat) (s : State), p < 10 → 15 ≤ (s.port p).sinceStatus →
    ((s.countWelt p).port p).sinceStatus = 0 ∧ s.touches (s.countWelt p) [.ports])
  ∧ (∀ (p : Nat) (lane : Nat) (seq : Word32) (s : State), lane < 4 → seq = vget (s.port p).rxSeq lane 0 → p < 10 →
    (s.acceptWelt p lane seq).2 = true ∧ vget ((s.acceptWelt p lane seq).1.port p).rxSeq lane 0 = seq + 1)
  ∧ (∀ (p : Nat) (lane : Nat) (seq : Word32) (s : State), lane < 4 → seq ≠ vget (s.port p).rxSeq lane 0 → p < 10 →
    (s.acceptWelt p lane seq).2 = false
      ∧ vget ((s.acceptWelt p lane seq).1.port p).rxSeq lane 0 = vget (s.port p).rxSeq lane 0
      ∧ (vget (s.port p).nakSent lane false = false → vget ((s.acceptWelt p lane seq).1.port p).nakSent lane false = true
          ∧ ∃ f, ((s.acceptWelt p lane seq).1.port p).egress = (s.port p).egress ++ [f]
              ∧ f.body = .weltNak lane (vget (s.port p).rxSeq lane 0))))

/-- R318, R320, R321, R362: where a frame that has passed the checks of its port goes.
R321: slice 0 sets, clears and reads a filter; every other slice is refused; the frame goes to the matching filter of the
lowest index. -/
def Obligations.FramesAndFilters : Prop :=
  ((∀ (p lane : Nat) (fr : RxFrame) (s : State), (s.port p).wireFault = 0 → s.inPause = false → p < 8 → 1 < fr.tags.length →
    s.classify p lane fr = s.portCount p 6 1)
  ∧ (∀ (p lane : Nat) (fr : RxFrame) (target : BitVec 128) (s : State), (s.port p).wireFault = 0 → s.inPause = false →
    (8 ≤ p ∨ fr.tags.length ≤ 1) → fr.kind = .neighborSolicit target → s.activeBank.isSome = true →
    target = ipOf s.ownPrefix s.coord p → s.classify p lane fr = (s.advertise p fr target).done p lane fr)
  ∧ (∀ (p : Nat) (fr : RxFrame) (target : BitVec 128) (s : State), ∃ h, h.srcIp = target ∧ h.hop = 255 ∧
    s.advertise p fr target = s.queueFrame p { body := .neighborAdvert target (portMac p), cls := 7, bytes := 90, hdr := some h })
  ∧ (∀ (p lane : Nat) (fr : RxFrame) (a : Arrival) (s : State), a = readFrame p fr.bytes → (s.port p).wireFault = 0 → s.inPause = false → p < 8 →
    fr.tags.length ≤ 1 → fr.kind = .udp → s.addressOk a = true →
    s.tagAccepted p fr.tags = true →
    s.classify p lane fr =
      s.holdFrame p ((fr.tags.head?.map (·.pcp)).getD 0) fr.length a)
  ∧ (∀ (p lane : Nat) (fr : RxFrame) (a : Arrival) (s : State), a = readFrame p fr.bytes → (s.port p).wireFault = 0 → s.inPause = false → 8 ≤ p →
    fr.kind = .udp → s.addressOk a = true →
    s.classify p lane fr = { s with
      ingress := s.ingress ++ [({ arrival := a, bytes := fr.length, vl := lane } : Held)] })
  ∧ (∀ (p lane : Nat) (fr : RxFrame) (a : Arrival) (s : State), a = readFrame p fr.bytes → (s.port p).wireFault = 0 → s.inPause = false → 8 ≤ p →
    fr.kind = .udp → s.addressOk a = false → s.ownPortOf a.dst 8 = false →
    s.ownPortOf a.dst 9 = false →
    s.classify p lane fr = s.forwardFrame p fr a lane)
  ∧ (∀ (p lane : Nat) (fr : RxFrame) (n : Nat) (s : State), (s.port p).wireFault = 0 → s.inPause = false → p < 8 →
    fr.tags.length ≤ 1 → fr.kind = .ipv6 n →
    s.classify p lane fr = match s.filterFor p fr with
      | some (k, q) => s.rawDeliver p k q fr.bytes fr.transferUe
      | none => s.portCount p 7 1))
  ∧ ((∀ (tag : Word32) (k : Nat) (f : FilterRec) (s : State) (x : Queue), s.takesUp 0 tag MbxOp.filterSet → k ≤ 255 →
    f.rsvdZero = true → s.findQueue f.queue = some x → x.kind = .rawRecv →
    ∃ t, exec (.filterSet 0 tag k f) s = .next t ∧ assoc t.filters k = some f
      ∧ (∀ j, j ≠ k → assoc t.filters j = assoc s.filters j) ∧ t.hasAnswer 0 tag Status.success []
      ∧ s.touches t [.filters, .mailboxes])
  ∧ (∀ (tag : Word32) (k : Nat) (s : State), s.takesUp 0 tag MbxOp.filterClear → k ≤ 255 →
    ∃ t, exec (.filterClear 0 tag k) s = .next t ∧ assoc t.filters k = none
      ∧ (∀ j, j ≠ k → assoc t.filters j = assoc s.filters j) ∧ t.hasAnswer 0 tag Status.success []
      ∧ s.touches t [.filters, .mailboxes])
  ∧ (∀ (tag : Word32) (k : Nat) (s : State), s.takesUp 0 tag MbxOp.filterRead → k ≤ 255 →
    ∃ t, exec (.filterRead 0 tag k) s = .next t ∧ t.hasAnswer 0 tag Status.success (filterFields (assoc s.filters k))
      ∧ s.touches t [.mailboxes])
  ∧ (∀ (slice : Fin 512) (tag : Word32) (k : Nat) (f : FilterRec) (s : State), slice ≠ 0 →
    (s.takesUp slice tag MbxOp.filterSet → ∃ t, exec (.filterSet slice tag k f) s = .next t
        ∧ t.hasAnswer slice tag Status.localAccess [] ∧ s.touches t [.mailboxes])
      ∧ (s.takesUp slice tag MbxOp.filterClear → ∃ t, exec (.filterClear slice tag k) s = .next t
        ∧ t.hasAnswer slice tag Status.localAccess [] ∧ s.touches t [.mailboxes])
      ∧ (s.takesUp slice tag MbxOp.filterRead → ∃ t, exec (.filterRead slice tag k) s = .next t
        ∧ t.hasAnswer slice tag Status.localAccess [] ∧ s.touches t [.mailboxes]))
  ∧ (∀ (p : Nat) (fr : RxFrame) (s : State) (k q : Nat), s.filterFor p fr = some (k, q) →
    (∃ f, assoc s.filters k = some f ∧ filterHits f p fr = true ∧ f.queue = q)
      ∧ ∀ j, j < k → ∀ g, assoc s.filters j = some g → filterHits g p fr = false))

/-- R329, R332 to R334: HELLO, STATUS and NAK as they are sent and received, the resends, and the give-up. -/
def Obligations.WeltControl : Prop :=
  (∀ (p : Fin 10) (c : Coord) (pp : Nat) (w : Bool) (a b n : Word64) (s : State), s.portEnabled p = true →
    (s.port p).forceDown = false → exec (.hello p c pp w a b n) s = .next (s.takeHello p c pp w a b))
  ∧ (∀ (p : Fin 10) (s : State), s.portEnabled p = true → (s.port p).forceDown = false → s.due (s.port p).nextHello = true →
    (s.port p).link ≠ .up →
    ∃ t f, exec (.helloTimer p) s = .next t ∧ t.out = s.out ++ [.frame p f (f.image p)] ∧ (t.port p).nextHello = s.time.now + 100000
      ∧ t.freeCount = s.freeCount + 1 ∧ s.touches t [.out, .free, .ports, .regs])
  ∧ (∀ (p : Fin 10) (s : State), s.portEnabled p = true → (s.port p).forceDown = false → s.due (s.port p).nextHello = true →
    s.linkUp p = true → (s.port p).wireFault = 0 →
    ∃ t f, exec (.helloTimer p) s = .next t ∧ (t.port p).egress = (s.port p).egress ++ [f] ∧ f.cls = macClass
      ∧ (t.port p).nextHello = s.time.now + 1000000000 ∧ s.touches t [.free, .ports])
  ∧ (∀ (p : Fin 10) (s : State), p.val < 8 → (s.port p).link = .up → (s.port p).welt = false →
    s.passed ((s.port p).upSince + 1000000) = true →
    ∃ t, exec (.weltHelloTimeout p) s = .next t ∧ (t.port p).weltOff = true ∧ (t.port p).welt = false
      ∧ (t.port p).link = .up ∧ s.touches t [.ports])
  ∧ (∀ (p : Fin 10) (acks credits : List Word32) (s : State), s.linkUp p = true → (s.port p).welt = true →
    ∃ t, exec (.status p acks credits) s = .next t ∧ (t.port p).lastStatusRx = s.time.now
      ∧ (t.port p).replay = (s.port p).replay.filter (fun f => !countBefore f.seq (acks.getD f.lane 0))
      ∧ (8 ≤ p.val → ∀ vl : Fin 4, vget (t.port p).creditLimit vl 0 = credits.getD vl 0)
      ∧ (t.port p).creditUsed = (s.port p).creditUsed ∧ s.touches t [.ports, .regs])
  ∧ (∀ (p : Fin 10) (s : State), (s.port p).link = .up → (s.port p).welt = true → s.due (s.port p).nextStatus = true →
    ∃ t f, exec (.statusTimer p) s = .next t ∧ (t.port p).egress = (s.port p).egress ++ [f] ∧ f.cls = macClass
      ∧ (∃ cr, f.body = .weltStatus (s.port p).rxSeq.toList cr) ∧ (t.port p).nextStatus = s.time.now + 500
      ∧ (t.port p).sinceStatus = 0 ∧ s.touches t [.ports])
  ∧ (∀ (p : Fin 10) (lane : Fin 4) (seq : Word32) (s : State), s.linkUp p = true → (s.port p).welt = true →
    ∃ t, exec (.weltNak p lane seq) s = .next t ∧ (t.port p).replay =
        updWhere (fun f => f.lane = lane.val && !countBefore f.seq seq) (fun f => { f with again := true }) (s.port p).replay
      ∧ s.touches t [.ports, .regs])
  ∧ (∀ (p : Fin 10) (lane : Fin 4) (s : State) (f : ReplayFrame),
    (s.port p).replay.find? (fun f => f.lane = lane.val) = some f → (s.port p).link = .up → (s.port p).welt = true →
    (s.port p).lossSince = none → f.again = false → f.sentAt + (s.port p).rttNs + 2000 < s.time.now →
    ∃ t, exec (.weltResendTimer p lane) s = .next t ∧ (t.port p).replay =
        updWhere (fun g => g.lane = lane.val && !countBefore g.seq f.seq) (fun g => { g with again := true }) (s.port p).replay
      ∧ s.touches t [.ports])
  ∧ (∀ (p : Fin 10) (s : State), (s.port p).link = .up → (s.port p).welt = true →
    (((s.port p).lossSince = none ∧ s.passed ((s.port p).lastStatusRx + 100000) = true)
      ∨ (s.port p).replay.any (fun f => decide (16 ≤ f.resends)) = true) →
    exec (.weltGiveUp p) s = .next ((s.portCount p 18 (s.port p).replay.length).goDown p 3).settle)

/-- R507: TIME is sent every 125 µs and taken from the peer; θ of the Source's exchange becomes the slew.
R338, R339: the sources of bypass, the drain, the switch's move and its settling. -/
def Obligations.ChainTimeAndBypass : Prop :=
  ((∀ (p : Fin 10) (s : State), 8 ≤ p.val → (s.port p).link = .up → s.due (s.port p).nextTime = true →
    ∃ t f, exec (.timeSendTimer p) s = .next t ∧ (t.port p).egress = (s.port p).egress ++ [f] ∧ f.cls = macClass
      ∧ f.body = .time 0 ((s.port p).time1.getD (0, 0)).1 ((s.port p).time1.getD (0, 0)).2
      ∧ (t.port p).nextTime = s.time.now + 125000 ∧ s.touches t [.ports])
  ∧ (∀ (p : Fin 10) (t1 t1p t2p : Nat) (s : State), 8 ≤ p.val → s.linkUp p = true → t1p ≠ 0 → s.sourcePort = some p.val →
    ∃ t, exec (.time p t1 t1p t2p) s = .next t ∧ (t.port p).time1 = some (t1, s.time.now * 65536 + s.time.frac)
      ∧ t.time.slewLeft =
          ((((t2p : Int) - t1p) - (((s.time.now * 65536 + s.time.frac : Nat) : Int) - t1)) / 2) * 1000000
      ∧ t.time.now = s.time.now ∧ s.touches t [.ports, .regs, .time])
  ∧ (∀ (p : Fin 10) (t1 t1p t2p : Nat) (s : State), 8 ≤ p.val → s.linkUp p = true → (t1p = 0 ∨ s.sourcePort ≠ some p.val) →
    ∃ t, exec (.time p t1 t1p t2p) s = .next t ∧ (t.port p).time1 = some (t1, s.time.now * 65536 + s.time.frac)
      ∧ s.touches t [.ports, .regs]))
  ∧ ((∀ (pin : Fin 8) (level : Bool) (s : State), s.bypass.phase = .bypassed → s.bypass.waiter = [] →
    ∃ t, exec (.bypassReqPin pin level) s = .next t
      ∧ t.board.gpioIn = (if level then s.board.gpioIn ||| (1#8 <<< pin.val) else s.board.gpioIn &&& ~~~(1#8 <<< pin.val))
      ∧ t.bypass.phase = (if t.bypassWanted then .bypassed else .moving false (s.time.now + 8000000))
      ∧ s.touches t [.board, .bypass])
  ∧ (∀ (pin : Fin 8) (level : Bool) (s : State), s.bypass.phase = .lit → s.bypass.waiter = [] →
    ∃ t, exec (.bypassReqPin pin level) s = .next t
      ∧ t.board.gpioIn = (if level then s.board.gpioIn ||| (1#8 <<< pin.val) else s.board.gpioIn &&& ~~~(1#8 <<< pin.val))
      ∧ t.bypass.phase = (if t.bypassWanted then .draining (s.time.now + 1000000) else .lit) ∧ s.touches t [.board, .bypass])
  ∧ (∀ (s : State) (d : Nat), s.bypass.phase = .draining d → (s.chainEmpty = true ∨ s.due d = true) →
    ∃ t, exec .bypassDrainDone s = .next t ∧ t.bypass.phase = .moving true (s.time.now + 8000000)
      ∧ (∀ r : Fin 8, t.port r = s.port r) ∧ (∀ r : Fin 10, 8 ≤ r.val → (t.port r).egress = (s.port r).egress)
      ∧ s.touches t [.bypass, .ports])
  ∧ (∀ (s : State) (away : Bool) (d : Nat), s.bypass.phase = .moving away d →
    exec .bypassSwitchSettled s = .next (s.switchSettled away).settle)
  ∧ (∀ (s : State) (p : Nat), (p = 8 ∨ p = 9) → s.bypass.waiter = [] → s.linkUp p = true →
    ((s.switchSettled true).port p).link ≠ .up ∧ ((s.switchSettled true).port p).egress = [])
  ∧ (∀ (tag : Word32) (on : Bool) (s : State), s.takesUp 0 tag MbxOp.chainBypass →
    exec (.chainBypass 0 tag on) s = .next (({ s.taken 0 tag MbxOp.chainBypass with
      bypass.mailbox := on,
      bypass.waiter := (s.taken 0 tag MbxOp.chainBypass).bypass.waiter ++ [(0, tag, on)] } : State).bypassSources))
  ∧ (∀ (slice : Fin 512) (tag : Word32) (on : Bool) (s : State), s.takesUp slice tag MbxOp.chainBypass → slice ≠ 0 →
    ∃ t, exec (.chainBypass slice tag on) s = .next t ∧ t.hasAnswer slice tag Status.localAccess []
      ∧ s.touches t [.mailboxes]))


/-! ## Routes (chapter 14) -/

/-- R355 to R357: the route messages at a worker: RT_BEGIN of the winning claimant opens the inactive bank, RT_LOAD fills it,
RT_COMMIT makes it Ready where its CRC and its rules hold, RT_FLIP makes it Active, RT_ABORT frees it.
R352, R354: a flip makes the inactive bank Active under the new epoch and the Active one Draining, for twice the largest
round trip of the table and at least 200 µs; at its end the Draining bank is Free. -/
def Obligations.RouteWorkerAndBanks : Prop :=
  ((∀ (a : Arrival) (e m re : Word32) (tr : Trailer) (s t : State) (src : Coord), s.newGuarded a (.rtBegin e m re) tr t src →
    sameGroup src t.coord = true → claimWins (src, re) t.claimNow = true → t.activeBank.isSome = true →
    (t.bank t.inactive).state ≠ .draining →
    exec (.rtBegin a e m re tr) s = .next (({ t.loadBank e (!decide (t.route.epoch ≠ m)) with
      route.claim := some (src, re), route.lastBegin := some e } : State).answerCtrl a src
        (.rtBeginAck e t.route.epoch (decide (t.route.epoch ≠ m))) (ctrlSeqOf a.pkt)))
  ∧ (∀ (a : Arrival) (e m re : Word32) (tr : Trailer) (s t : State) (src : Coord), s.newGuarded a (.rtBegin e m re) tr t src →
    sameGroup src t.coord = true → claimWins (src, re) t.claimNow = false →
    exec (.rtBegin a e m re tr) s = .next (t.answerCtrl a src (.rtAbort e) (ctrlSeqOf a.pkt)))
  ∧ (∀ (e : Word32) (copy : Bool) (s : State), s.route.active < 2 →
    ((s.loadBank e copy).bank s.inactive).state = .loading ∧ ((s.loadBank e copy).bank s.inactive).epoch = e
      ∧ ((s.loadBank e copy).bank s.inactive).entries = (if copy then (s.bank s.route.active).entries else [])
      ∧ ((s.loadBank e copy).bank s.inactive).chain = (if copy then (s.bank s.route.active).chain else [])
      ∧ (s.loadBank e copy).bank s.route.active = s.bank s.route.active ∧ s.touches (s.loadBank e copy) [.route])
  ∧ (∀ (a : Arrival) (e : Word32) (items : RouteItems) (tr : Trailer) (s t : State) (src : Coord), s.newGuarded a (.rtLoad e items) tr t src →
    t.loadingFrom src e = true →
    exec (.rtLoad a e items tr) s = .next ((t.modBank t.inactive fun b => b.put items).ackCtrl a src (ctrlSeqOf a.pkt)))
  ∧ (∀ (a : Arrival) (e : Word32) (crc : Word64) (tr : Trailer) (s t : State) (src : Coord), s.newGuarded a (.rtCommit e crc) tr t src →
    t.loadingFrom src e = true → (t.bank t.inactive).crc = crc → (t.bank t.inactive).ok t.coord = true →
    exec (.rtCommit a e crc tr) s = .next ((t.modBank t.inactive fun b => { b with state := .ready }).answerCtrl a src
      (.rtReady e 0) (ctrlSeqOf a.pkt)))
  ∧ (∀ (a : Arrival) (e : Word32) (crc : Word64) (tr : Trailer) (s t : State) (src : Coord), s.newGuarded a (.rtCommit e crc) tr t src →
    t.loadingFrom src e = true → (t.bank t.inactive).crc ≠ crc →
    exec (.rtCommit a e crc tr) s = .next (t.answerCtrl a src (.rtReady e 1) (ctrlSeqOf a.pkt)))
  ∧ (∀ (a : Arrival) (e : Word32) (tr : Trailer) (s t : State) (src : Coord), s.newGuarded a (.rtFlip e) tr t src →
    t.route.lastBegin = some e → (t.bank t.inactive).state = .ready → t.route.claim.any (fun c => c.1 = src) = true →
    exec (.rtFlip a e tr) s = .next ((t.flipBanks e).answerCtrl a src (.rtFlipAck e) (ctrlSeqOf a.pkt)))
  ∧ (∀ (a : Arrival) (e : Word32) (tr : Trailer) (s t : State) (src : Coord), s.newGuarded a (.rtAbort e) tr t src →
    t.flipAnswer src (ctrlSeqOf a.pkt) e = none → t.route.lastBegin = some e →
    ((t.bank t.inactive).state = .loading ∨ (t.bank t.inactive).state = .ready) →
    t.route.claim.any (fun c => c.1 = src) = true →
    exec (.rtAbort a e tr) s = .next (((({ t.lateAnswer src (ctrlSeqOf a.pkt) with route.lastBegin := none } : State).modBank t.inactive fun _ => {}).bump
      .rteStatAborts 0).ackCtrl a src (ctrlSeqOf a.pkt))))
  ∧ ((∀ (s : State) (e : Word32), s.route.active < 2 → (s.bank s.route.active).state = .active →
    ((s.flipBanks e).bank s.inactive).state = .active ∧ ((s.flipBanks e).bank s.inactive).epoch = e
      ∧ ((s.flipBanks e).bank s.inactive).entries = (s.bank s.inactive).entries
      ∧ ((s.flipBanks e).bank s.route.active).state = .draining
      ∧ ((s.flipBanks e).bank s.route.active).entries = (s.bank s.route.active).entries
      ∧ (s.flipBanks e).route.active = s.inactive ∧ (s.flipBanks e).route.epoch = e
      ∧ (∃ d, (s.flipBanks e).route.drainEnd = some d ∧ s.time.now + 200000 ≤ d
          ∧ ∀ site rtt, site < 16 → s.sbtRtt site = some rtt → s.time.now + 2 * rtt ≤ d)
      ∧ s.touches (s.flipBanks e) [.route, .regs])
  ∧ (∀ (s : State) (d : Nat), s.route.drainEnd = some d → s.passed d = true →
    ∃ t, exec .drainIntervalEnd s = .next t ∧ t.route.drainEnd = none
      ∧ (∀ k : Fin 2, t.bank k = if (s.bank k).state = .draining then {} else s.bank k) ∧ s.touches t [.route]))

/-- R355 to R357: the route messages at the manager, and its mailbox commands.
R355: ROUTE_WRITE fills the inactive bank, opening it with the Active bank's contents where it is Free, and is BUSY while a flip runs; a
Ready bank that no flip uses is Loading again (the model's choice, log entry 85); ROUTE_READ answers entries and
records of either bank. Both are slice 0's alone. -/
def Obligations.RouteManagerAndTable : Prop :=
  ((∀ (a : Arrival) (e : Word32) (full : Bool) (tr : Trailer) (s t : State) (src : Coord) (x : Flip), s.newGuarded a (.rtBeginAck e s.route.epoch full) tr t src →
    t.flipAnswer src (ctrlSeqOf a.pkt) e = some x →
    exec (.rtBeginAck a e full tr) s = .next (((t.dropCtrl fun o => o.seq = ctrlSeqOf a.pkt && o.dst = src).modWorker
      (coordNode src) fun w => { w with began := true, full }).sendLoads (coordNode src) e full))
  ∧ (∀ (a : Arrival) (e : Word32) (tr : Trailer) (s t : State) (src : Coord) (x : Flip), s.newGuarded a (.rtReady e 0) tr t src →
    t.flipAnswer src (ctrlSeqOf a.pkt) e = some x →
    exec (.rtReady a e 0 tr) s = .next (((t.dropCtrl fun o => o.seq = ctrlSeqOf a.pkt && o.dst = src).modWorker
      (coordNode src) fun w => { w with ready := true }).tryFlip))
  ∧ (∀ (a : Arrival) (e : Word32) (st : Nat) (tr : Trailer) (s t : State) (src : Coord) (x : Flip), s.newGuarded a (.rtReady e st) tr t src →
    t.flipAnswer src (ctrlSeqOf a.pkt) e = some x → st ≠ 0 →
    exec (.rtReady a e st tr) s = .next ((t.dropCtrl fun o => o.seq = ctrlSeqOf a.pkt && o.dst = src).workerFailed
      Status.descMalformed))
  ∧ (∀ (a : Arrival) (e : Word32) (tr : Trailer) (s t : State) (src : Coord) (x : Flip), s.newGuarded a (.rtFlipAck e) tr t src →
    t.flipAnswer src (ctrlSeqOf a.pkt) e = some x →
    exec (.rtFlipAck a e tr) s = .next (((t.dropCtrl fun o => o.seq = ctrlSeqOf a.pkt && o.dst = src).modWorker
      (coordNode src) fun w => { w with flipped := true }).finishFlip false))
  ∧ (∀ (a : Arrival) (e : Word32) (tr : Trailer) (s t : State) (src : Coord) (x : Flip), s.newGuarded a (.rtAbort e) tr t src →
    t.flipAnswer src (ctrlSeqOf a.pkt) e = some x →
    exec (.rtAbort a e tr) s = .next ((t.dropCtrl fun o => o.seq = ctrlSeqOf a.pkt && o.dst = src).workerFailed
      Status.peerUnreachable))
  ∧ (∀ (s : State) (x : Flip), s.route.flip = some x → x.flipping = false → x.workers.all (·.ready) = true →
    s.tryFlip = (((x.workers.foldl (fun s w => s.sendCtrl (s.groupNode w.node) (.rtFlip x.epoch)) s).flipBanks x.epoch).modFlip
      fun x => { x with flipping := true }).finishFlip false)
  ∧ (∀ (tag : Word32) (mask : Word64) (s t : State), s.takesUp 0 tag MbxOp.routeFlip → t = s.taken 0 tag MbxOp.routeFlip →
    t.last.role ≠ 0 → t.route.flip = none → t.route.drainEnd = none → ((t.bank t.inactive).state = .loading ∨ (t.bank t.inactive).state = .ready) →
    (t.bank t.inactive).ok t.coord = true →
    ∃ (x : Flip) (u : State), x.epoch = t.route.epoch + 1 ∧ x.tag = tag
      ∧ x.workers.map (·.node) = (List.range 64).filter (fun n => mask.getLsbD n && n ≠ coordNode t.coord)
      ∧ u = ({ t with route.flip := some x, route.lastBegin := none } : State).modBank t.inactive (fun b => { b with state := .ready })
      ∧ exec (.routeFlip 0 tag mask) s = .next ((x.workers.map (·.node)).foldl
          (fun s n => s.sendCtrl (s.groupNode n) (.rtBegin x.epoch t.route.epoch t.last.roleEpoch)) u).tryFlip))
  ∧ ((∀ (tag : Word32) (items : RouteItems) (s t : State), s.takesUp 0 tag MbxOp.routeWrite →
    t = s.taken 0 tag MbxOp.routeWrite → t.last.role ≠ 0 → itemsInRange items = true →
    ((t.bank t.inactive).state = .loading ∨ (t.bank t.inactive).state = .ready) → t.flipRuns = false →
    exec (.routeWrite 0 tag items) s = .next ((t.modBank t.inactive fun b => { b.put items with state := .loading }).answer 0 tag
      MbxOp.routeWrite Status.success 0 []))
  ∧ (∀ (tag : Word32) (items : RouteItems) (s t : State), s.takesUp 0 tag MbxOp.routeWrite →
    t = s.taken 0 tag MbxOp.routeWrite → t.last.role ≠ 0 → itemsInRange items = true →
    (t.bank t.inactive).state = .free → t.flipRuns = false →
    exec (.routeWrite 0 tag items) s = .next (((t.loadBank (t.route.epoch + 1) true).modBank t.inactive fun b =>
      { b.put items with state := .loading }).answer 0 tag MbxOp.routeWrite Status.success 0 []))
  ∧ (∀ (tag : Word32) (items : RouteItems) (s t : State), s.takesUp 0 tag MbxOp.routeWrite →
    t = s.taken 0 tag MbxOp.routeWrite → t.last.role ≠ 0 → itemsInRange items = true → t.flipRuns = true →
    ∃ u, exec (.routeWrite 0 tag items) s = .next u ∧ u.hasAnswer 0 tag Status.busy [] ∧ s.touches u [.mailboxes])
  ∧ (∀ (slice : Fin 512) (tag : Word32) (items : RouteItems) (s : State), s.takesUp slice tag MbxOp.routeWrite → slice ≠ 0 →
    ∃ t, exec (.routeWrite slice tag items) s = .next t ∧ t.hasAnswer slice tag Status.localAccess []
      ∧ s.touches t [.mailboxes])
  ∧ (∀ (tag : Word32) (bank : Fin 2) (first count : Nat) (s : State), s.takesUp 0 tag MbxOp.routeRead → 0 < count → count ≤ 64 →
    first + count ≤ 16384 →
    ∃ t, exec (.routeRead 0 tag bank false first count) s = .next t
      ∧ t.hasAnswer 0 tag Status.success ((List.range count).map fun k => leNat (routeImage ((s.bank bank).entry (first + k))))
      ∧ s.touches t [.mailboxes])
  ∧ (∀ (tag : Word32) (bank : Fin 2) (first count : Nat) (s : State), s.takesUp 0 tag MbxOp.routeRead → 0 < count →
    first + count ≤ 64 →
    ∃ t, exec (.routeRead 0 tag bank true first count) s = .next t
      ∧ t.hasAnswer 0 tag Status.success ((List.range count).map fun k => chainWord ((s.bank bank).chainOf (first + k)))
      ∧ s.touches t [.mailboxes])
  ∧ (∀ (b : RouteBank) (first : Nat) (items : List RouteEntry) (k : Nat) (e : RouteEntry), items[k]? = some e →
    (b.put (.entries first items)).entry (first + k) = e)
  ∧ (∀ (b : RouteBank) (first : Nat) (items : List RouteEntry) (i : Nat), (i < first ∨ first + items.length ≤ i) →
    (b.put (.entries first items)).entry i = b.entry i))


/-! ## Collective Groups (chapter 09) -/

/-- R223, R225, R228: a COLL whose group is Ready and idle takes the next sequence and starts; a Broken group's, another slice's,
and one that fails its checks end with their codes.
R246, R260, R267: a granule of its reduction that passes its check advances the reduction, and a block of a GATHER_MULTIPLY that has
arrived is multiplied and its rows written. -/
def Obligations.CollectivesStart : Prop :=
  (∀ (q : Nat) (count : Word32) (s : State) (x : Queue) (d : Started) (g : Group) (alg : Nat),
    s.ready q count Op.coll = some (x, d) → s.findGroup (Desc.collGroup d.entry) = some g → g.slice = x.slice →
    g.state ≠ .broken → g.state ≠ .forming → g.op = none → s.lowrankHolds g.handle = false →
    s.collCheck x.slice x.as g (collOf q count d.entry) (collFields d.entry g.n (s.quota x.slice).lace) = .ok alg →
    exec (.coll q count) s = .next (((s.modStarted q count fun d => { d with run := true }).modGroup g.handle fun g =>
      { g with nextSeq := g.nextSeq + 1 }).collBegin g.handle { collOf q count d.entry with alg, seq := g.nextSeq }).settle)
  ∧ (∀ (q : Nat) (count : Word32) (s : State) (x : Queue) (d : Started) (g : Group) (c : Status),
    s.ready q count Op.coll = some (x, d) → s.findGroup (Desc.collGroup d.entry) = some g → g.slice = x.slice →
    g.state ≠ .broken → g.state ≠ .forming →
    s.collCheck x.slice x.as g (collOf q count d.entry) (collFields d.entry g.n (s.quota x.slice).lace) = .error c →
    exec (.coll q count) s = .next (s.endWith q count c).settle)
  ∧ (∀ (q : Nat) (count : Word32) (s : State) (x : Queue) (d : Started) (g : Group),
    s.ready q count Op.coll = some (x, d) → s.findGroup (Desc.collGroup d.entry) = some g → g.slice = x.slice →
    g.state = .broken → exec (.coll q count) s = .next (s.endWith q count Status.collAborted).settle)
  ∧ (∀ (q : Nat) (count : Word32) (s : State) (x : Queue) (d : Started) (g : Group),
    s.ready q count Op.coll = some (x, d) → s.findGroup (Desc.collGroup d.entry) = some g → g.slice ≠ x.slice →
    exec (.coll q count) s = .next (s.endWith q count Status.localAccess).settle)
  ∧ (∀ (c : Fin 8) (u : Fin 4) (s : State) (g : Group) (o : CollOp) (j : CollJob), s.computes c = true →
    s.jobOn c = some (g, o, j) → j.mism = none → (stochastic o = true → s.keys.drbgHalted = false) →
    ∃ t, exec (.reductionGranule c u []) s = .next t ∧ t = (s.jobStep g o j false).settle)
  ∧ (∀ (k block : Nat) (c : Fin 8) (s : State) (g : Group) (o : CollOp) (r b : List Byte), s.multiplies k block c g o r b = true →
    ∃ t, exec (.gatherMultiplyBlock k block c []) s = .next t ∧ t = (s.multiplyBlock g o (s.shape g o) r b block false).settle)

/-- R232 to R240, R244: a new message of a group's end is acknowledged and then acts on the group.
R239, R248: an expired watchdog writes COLL_STALL, starts again, and changes nothing of the operation. -/
def Obligations.GroupMessages : Prop :=
  (∀ (a : Arrival) (s t u v : State) (c : Conn) (g : Group) (r : Nat) (i : Instr) (m : CtrlMsg) (x : Received),
    s.newEndMsg a m x t c → c.home = 0 →
    u = t.repliedEnd c a (.ctrlAck (ctrlSeqOf a.pkt) false) → c.group.bind u.findGroup = some g → g.rankOf c.index 1 = some r →
    ((∃ seq sig mi k, i = .hsUp a seq sig mi k ∧ m = .hsUp seq sig mi k ∧ v = u.takeHsUp g r seq sig mi k)
      ∨ (∃ seq mi k, i = .hsDown a seq mi k ∧ m = .hsDown seq mi k ∧ v = u.takeHsDown g seq mi k)
      ∨ (∃ seq sig n, i = .hsCount a seq sig n ∧ m = .hsCount seq sig n ∧ v = u.takeHsCount g r seq sig n)
      ∨ (∃ seq stage n slot, i = .credit a seq stage n slot ∧ m = .credit seq stage n slot ∧ v = u.takeCredit g r seq stage n slot)
      ∨ (∃ seq k, i = .mismatch a seq k ∧ m = .mismatch seq k ∧ v = u.takeMismatch g r seq k)
      ∨ (∃ seq st k, i = .abort a seq st k ∧ m = .abort seq (BitVec.ofNat 8 st) k
          ∧ v = u.takeAbort g r seq (BitVec.ofNat 8 st) k)) →
    exec i s = .next v.settle)
  ∧ (∀ (a : Arrival) (s t : State) (c : Conn) (i : Instr) (m : CtrlMsg) (x : Received), s.newEndMsg a m x t c → c.home ≠ 0 →
    ((∃ seq sig mi k, i = .hsUp a seq sig mi k ∧ m = .hsUp seq sig mi k) ∨ (∃ seq mi k, i = .hsDown a seq mi k ∧ m = .hsDown seq mi k)
      ∨ (∃ seq sig n, i = .hsCount a seq sig n ∧ m = .hsCount seq sig n)
      ∨ (∃ seq stage n slot, i = .credit a seq stage n slot ∧ m = .credit seq stage n slot)
      ∨ (∃ seq k, i = .mismatch a seq k ∧ m = .mismatch seq k)
      ∨ (∃ seq st k, i = .abort a seq st k ∧ m = .abort seq (BitVec.ofNat 8 st) k)) →
    exec i s = .next ({ t with trans.ackRecords := t.trans.ackRecords ++ [⟨c.index, x.rxAt, a, some m⟩] } : State).settle)
  ∧ (∀ (k : Nat) (s : State) (g : Group), s.findGroup k = some g → (g.state = .forming ∨ g.op.isSome = true) →
    s.passed g.watchdogAt = true →
    ∃ t e x, exec (.collWatchdog k) s = .next t ∧ t.queue.events = s.queue.events ++ [e] ∧ e.slice = g.slice
      ∧ e.code = EventCode.collStall ∧ e.object = k ∧ t.findGroup k = some x
      ∧ x = { g with watchdogAt := s.time.now + g.params.watchdogMs * 1000000 } ∧ s.touches t [.queue, .regs, .work])

/-- R246, R260, R266 to R270: a granule whose residue and parity checks all pass advances its job, as one with a wrong output that no
check shows where an output is wrong (the free bytes of log entry 86); a first mismatch is noted for recomputation and changes
nothing else; a second takes the cluster's arithmetic out of service. A check passes just where the residue modulo 7 of the output is
the one predicted, and misses an output that is wrong by a multiple of 7. -/
def Obligations.ArithmeticGranules : Prop :=
  (∀ (c : Fin 8) (u : Fin 4) (s : State) (g : Group) (o : CollOp) (j : CollJob), s.computes c = true →
    s.jobOn c = some (g, o, j) → j.mism.all (fun m => m.1 = u.val) = true → (stochastic o = true → s.keys.drbgHalted = false) →
    ∀ checks : List ResidueCheck, checks.all checkPasses = true →
      exec (.reductionGranule c u checks) s = .next (s.jobStep g o j (checks.any checkMisses)).settle)
  ∧ (∀ (c : Fin 8) (u : Fin 4) (s : State) (g : Group) (o : CollOp) (j : CollJob), s.computes c = true →
    s.jobOn c = some (g, o, j) → j.mism = none → (stochastic o = true → s.keys.drbgHalted = false) →
    ∀ checks : List ResidueCheck, checks.all checkPasses = false →
    ∃ t, exec (.reductionGranule c u checks) s = .next t ∧ vget t.work.lastUnit c 0 = u.val
      ∧ t.work.arithOut = s.work.arithOut ∧ s.touches t [.work, .regs])
  ∧ (∀ (c : Fin 8) (u : Fin 4) (s : State) (g : Group) (o : CollOp) (j : CollJob) (at_ : Nat), s.computes c = true →
    s.jobOn c = some (g, o, j) → j.mism = some (u.val, at_) → (stochastic o = true → s.keys.drbgHalted = false) →
    ∀ checks : List ResidueCheck, checks.all checkPasses = false →
    exec (.reductionGranule c u checks) s = .next ((s.noteMismatch c u false).arithFail c u at_ (collOpcode o) o.q).settle)
  ∧ (∀ (c : Fin 8) (u : Fin 4) (b : List ResidueCheck) (s : State) (g : Group) (o : CollOp) (j : CollJob) (w : Nat × Nat), s.computes c = true →
    s.jobOn c = some (g, o, j) → j.mism = some w → w.1 ≠ u.val → exec (.reductionGranule c u b) s = .next s)
  ∧ (∀ (c : Fin 8) (u : Fin 4) (m : List ResidueCheck) (s : State), s.computes c = true → s.jobOn c = none →
    exec (.reductionGranule c u m) s = .next (s.svcGranule c u (m.any fun x => !checkPasses x)).settle)
  ∧ (∀ (c : Fin 8) (u : Fin 4) (m : List ResidueCheck) (s : State), s.computes c = false → exec (.reductionGranule c u m) s = .next s)
  ∧ (∀ (k block : Nat) (c : Fin 8) (s : State) (g : Group) (o : CollOp) (r b : List Byte), s.multiplies k block c g o r b = true →
    ∀ checks : List (Nat × ResidueCheck), checks.all (fun x => checkPasses x.2) = true →
      exec (.gatherMultiplyBlock k block c checks) s = .next
        (s.multiplyBlock g o (s.shape g o) r b block (checks.any fun x => checkMisses x.2)).settle)
  ∧ (∀ (k block n : Nat) (c : Fin 8) (s : State) (g : Group) (o : CollOp) (r b : List Byte), s.multiplies k block c g o r b = true →
    n < tileGranules r → o.tiles.all (fun t => t.block ≠ block || (assoc t.mism n).isNone) = true →
    ∀ checks : List (Nat × ResidueCheck), (checks.find? fun x => !checkPasses x.2).map (·.1) = some n →
    ∃ t, exec (.gatherMultiplyBlock k block c checks) s = .next t ∧ vget t.work.lastUnit c 0 = 4
      ∧ t.work.arithOut = s.work.arithOut ∧ s.touches t [.work, .regs])
  ∧ (∀ (k block n at_ : Nat) (c : Fin 8) (s : State) (g : Group) (o : CollOp) (r b : List Byte) (x : TileBlock),
    s.multiplies k block c g o r b = true → n < tileGranules r → o.tiles.find? (fun t => t.block = block) = some x →
    assoc x.mism n = some at_ →
    ∀ checks : List (Nat × ResidueCheck), (checks.find? fun x => !checkPasses x.2).map (·.1) = some n →
    exec (.gatherMultiplyBlock k block c checks) s = .next
      (((s.noteMismatch c 4 false).arithFail c 4 at_ (collOpcode o) o.q).collFail k Status.residueFault).settle)
  ∧ (∀ (a b out : Int), checkPasses (.product a b out) = true ↔ out % 7 = a * b % 7)
  ∧ (∀ (terms : List Int) (out : Int), checkPasses (.sum terms out) = true ↔ out % 7 = terms.sum % 7)
  ∧ (∀ (a b out : Int), checkMisses (.product a b out) = true ↔ out ≠ a * b ∧ ∃ k : Int, out - a * b = 7 * k)
  ∧ (∀ (terms : List Int) (out : Int), checkMisses (.sum terms out) = true ↔ out ≠ terms.sum ∧ ∃ k : Int, out - terms.sum = 7 * k)
  ∧ (∀ (predicted found : Bool), checkPasses (.parity predicted found) = (predicted == found))

/-- R253, R256, R257: every finite code of every format decodes and encodes to itself, and the canonical NaN of each format. -/
def Obligations.FormatsRoundTrip : Prop :=
  (∀ (f : Fmt) (b : Nat) (sat : Bool) (u : Option Nat), f ∈ [fp32, bf16, fp16, fp8e4m3, fp8e5m2, e2m3, e2m1] →
    b < 2 ^ f.bits → (f.decode b).isFin = true → f.encode sat u (f.decode b) = b)
  ∧ (∀ (sat : Bool) (u : Option Nat), fp32.encode sat u .nan = 0x7FC00000 ∧ bf16.encode sat u .nan = 0x7FC0
    ∧ fp16.encode sat u .nan = 0x7E00 ∧ fp8e4m3.encode sat u .nan = 0x7F ∧ fp8e5m2.encode sat u .nan = 0x7E)
  ∧ (∀ (u : Option Nat) (neg : Bool), fp8e4m3.encode true u (.inf neg) = 0x7F ∧ fp8e4m3.encode false u (.inf neg) = 0x7F
    ∧ fp8e5m2.encode true u (.inf neg) = (if neg then 0xFC else 0x7C))
  ∧ (∀ (m : Nat) (neg : Bool) (u : Option Nat), 15 * 2 ^ 12 < m →
    fp8e5m2.encode true none (.fin neg m 0) = (if neg then 0xFB else 0x7B)
      ∧ fp8e5m2.encode false none (.fin neg m 0) = (if neg then 0xFC else 0x7C)
      ∧ fp8e4m3.encode true none (.fin neg m 0) = (if neg then 0xFE else 0x7E)
      ∧ fp8e4m3.encode false u (.fin neg m 0) = 0x7F)

/-- R220, R221, R242: registrations at the registrar, which refuses one where its slots run short (the status byte is the model's choice, log
entry 86), and their answers at the member; an EPOCH notice breaks the group.
R218, R219, R224, R240: the mailbox commands of groups. -/
def Obligations.GroupRegistrationAndCommands : Prop :=
  ((∀ (a : Arrival) (name dg : Word64) (n rank : Nat) (tr : Trailer) (s t : State) (src : Coord), s.newGuarded a (.groupReg name n rank false dg) tr t src →
    t.last.role ≠ 0 →
    exec (.groupReg a name n rank false dg tr) s = .next ((t.register src name n rank dg).1.answerCtrl a src
      (.groupRegAns name (t.register src name n rank dg).2.1 (t.register src name n rank dg).2.2) (ctrlSeqOf a.pkt)))
  ∧ (∀ (a : Arrival) (name dg : Word64) (n rank : Nat) (tr : Trailer) (s t : State) (src : Coord), s.newGuarded a (.groupReg name n rank true dg) tr t src →
    t.last.role ≠ 0 →
    exec (.groupReg a name n rank true dg tr) s = .next ((t.deregister name rank).answerCtrl a src
      (.groupRegAns name 2 (((t.findReg name).map (·.epoch)).getD 0)) (ctrlSeqOf a.pkt)))
  ∧ (∀ (src : Coord) (name dg : Word64) (n rank : Nat) (s : State), s.findReg name = none →
    s.mgrSlotsUsed + s.registrySlots name ≤ s.spareSlots →
    ∃ r, (s.register src name n rank dg).1.findReg name = some r ∧ r.digest = dg ∧ r.count = n ∧ r.ranks = [(rank, src)]
      ∧ (s.register src name n rank dg).2 = (0, r.epoch) ∧ r.epoch = (assoc s.work.epochs name).getD 0 + 1)
  ∧ (∀ (src : Coord) (name dg : Word64) (n rank : Nat) (s : State), s.findReg name = none →
    s.spareSlots < s.mgrSlotsUsed + s.registrySlots name → s.register src name n rank dg = (s, Status.noResources.toNat, 0))
  ∧ (∀ (src : Coord) (name dg : Word64) (n rank : Nat) (s : State) (r : RegEntry), s.findReg name = some r → r.digest = dg →
    r.count = n → (assoc r.ranks rank).isSome = true →
    (s.register src name n rank dg).2 = (0, r.epoch + 1))
  ∧ (∀ (a : Arrival) (name : Word64) (e : Word32) (tr : Trailer) (s t u : State) (src : Coord) (rank : Nat)
    (g : Group), s.newGuarded a (.groupRegAns name 0 e) tr t src → t.regAnswered src (ctrlSeqOf a.pkt) name = some (rank, false) →
    u = t.dropCtrl (fun o => o.seq = ctrlSeqOf a.pkt && o.dst = src && o.conn.isNone) →
    u.work.groups.find? (fun g => g.params.name = name && g.me = rank && !g.registered) = some g →
    exec (.groupRegAns a name 0 e tr) s = .next ((((u.modGroup g.handle fun g =>
      { g with registered := true, epoch := e, creator := none }).respondTo g.creator Status.success
        [g.handle, e.toNat, g.home, if g.endpoint then 1 else 0]).openGroupEnds g.handle).groupReady g.handle))
  ∧ (∀ (a : Arrival) (name : Word64) (e : Word32) (tr : Trailer) (s t u : State) (src : Coord) (rank : Nat)
    (g : Group), s.newGuarded a (.groupRegAns name 1 e) tr t src → t.regAnswered src (ctrlSeqOf a.pkt) name = some (rank, false) →
    u = t.dropCtrl (fun o => o.seq = ctrlSeqOf a.pkt && o.dst = src && o.conn.isNone) →
    u.work.groups.find? (fun g => g.params.name = name && g.me = rank && !g.registered) = some g →
    exec (.groupRegAns a name 1 e tr) s = .next (u.groupFails g.handle Status.collMismatch))
  ∧ (∀ (a : Arrival) (name : Word64) (e : Word32) (st : Nat) (tr : Trailer) (s t u : State) (src : Coord) (rank : Nat)
    (g : Group), s.newGuarded a (.groupRegAns name st e) tr t src → t.regAnswered src (ctrlSeqOf a.pkt) name = some (rank, false) →
    u = t.dropCtrl (fun o => o.seq = ctrlSeqOf a.pkt && o.dst = src && o.conn.isNone) →
    u.work.groups.find? (fun g => g.params.name = name && g.me = rank && !g.registered) = some g → 1 < st →
    exec (.groupRegAns a name st e tr) s = .next (u.groupFails g.handle Status.noResources))
  ∧ (∀ (a : Arrival) (name : Word64) (e : Word32) (tr : Trailer) (s t : State) (src : Coord) (g : Group),
    s.newGuarded a (.epoch name e) tr t src → t.work.groups = [g] → g.params.name = name → g.registered = true → g.epoch ≠ e → g.state ≠ .broken →
    t.managerFor (g.members.headD (0, 0)).1 = src →
    exec (.epoch a name e tr) s = .next ((t.breakGroup g.handle Status.collAborted Status.collAborted 0 true).ackCtrl a src
      (ctrlSeqOf a.pkt)).settle))
  ∧ ((∀ (tag : Word32) (src dst n : Nat) (s : State), s.takesUp 0 tag MbxOp.grpQuotaSet → src < 512 → dst < 512 → src ≠ dst →
    n ≤ s.groupQuota src → s.groupsOf src ≤ s.groupQuota src - n →
    ∃ t, exec (.grpQuotaSet 0 tag src dst n) s = .next t ∧ t.groupQuota src = s.groupQuota src - n
      ∧ t.groupQuota dst = s.groupQuota dst + n ∧ (∀ k, k ≠ src → k ≠ dst → t.groupQuota k = s.groupQuota k)
      ∧ t.hasAnswer 0 tag Status.success [] ∧ s.touches t [.work, .mailboxes])
  ∧ (∀ (tag : Word32) (src dst n : Nat) (s : State), s.takesUp 0 tag MbxOp.grpQuotaSet → src < 512 → dst < 512 →
    (s.groupQuota src < n ∨ s.groupQuota src - n < s.groupsOf src) →
    ∃ t, exec (.grpQuotaSet 0 tag src dst n) s = .next t ∧ t.hasAnswer 0 tag Status.noResources [] ∧ s.touches t [.mailboxes])
  ∧ (∀ (slice : Fin 512) (tag : Word32) (p : GroupParams) (s t : State) (home h : Nat), s.takesUp slice tag MbxOp.groupCreate →
    t = s.taken slice tag MbxOp.groupCreate → groupParamsOk p = true → t.groupTablesOk slice p = true →
    t.groupsOf slice < t.groupQuota slice → t.bestCluster = some home → p.watchdogMs ≠ 0 →
    t.freeChoice 4096 (fun h => (t.findGroup h).isNone) = some h →
    ∃ (g : Group) (u : State), g.handle = h ∧ g.slice = slice ∧ g.params = p ∧ g.home = home ∧ g.state = .forming
      ∧ g.creator = some (slice.val, tag)
      ∧ u = ({ t.advanceFree with work.groups := t.work.groups ++ [g] } : State).progress h
      ∧ ∀ v b, u.access (collAccess g p.addressSpace .table p.tableOffset (8 * p.count) false [] false) = (v, .done b) →
          exec (.groupCreate slice tag p) s = .next (v.groupTable h b).settle)
  ∧ (∀ (slice : Fin 512) (tag : Word32) (h : Nat) (s t : State) (g : Group), s.takesUp slice tag MbxOp.groupDestroy →
    t = s.taken slice tag MbxOp.groupDestroy → t.findGroup h = some g → g.slice = slice → (g.state = .ready ∨ g.state = .broken) →
    exec (.groupDestroy slice tag h) s = .next (((t.sendCtrl (t.managerFor (g.members.headD (0, 0)).1)
      (.groupReg g.params.name g.n g.me true g.digest)).dropGroup h).answer slice tag MbxOp.groupDestroy Status.success 0 []))
  ∧ (∀ (slice : Fin 512) (tag : Word32) (h : Nat) (s : State) (g : Group), s.takesUp slice tag MbxOp.groupDestroy →
    s.findGroup h = some g → g.slice = slice → (g.state = .forming ∨ g.state = .active) →
    ∃ t, exec (.groupDestroy slice tag h) s = .next t ∧ t.hasAnswer slice tag Status.busy [] ∧ s.touches t [.mailboxes])
  ∧ (∀ (slice : Fin 512) (tag : Word32) (h : Nat) (s t : State) (g : Group), s.takesUp slice tag MbxOp.collAbort →
    t = s.taken slice tag MbxOp.collAbort → t.findGroup h = some g → g.slice = slice → g.state ≠ .broken →
    exec (.collAbort slice tag h) s = .next (((t.tellAll g g.neighbours (.abort
      (BitVec.ofNat 64 ((g.op.map (·.seq)).getD (g.nextSeq - 1))) Status.collAborted g.me)).breakGroup h Status.collAborted
        Status.collAborted g.me false).respond (slice.val, tag) Status.success []).settle))

/-! ## Services (chapter 11) -/

/-- R271, R272: each service descriptor has its operands checked and its record read once.
R274, R284, R285, R474: deferred services start in rotation, pieces run in their turn, and a LOWRANK takes its next step; gates
are read, and a passed Deadline ends a gated service with WAIT_TIMEOUT. -/
def Obligations.ServicesStartAndRun : Prop :=
  (∀ (op : Nat) (cmd : Nat → Word32 → Instr), (cmd, op) ∈ [(Instr.quant, Op.quant), (Instr.lowrank, Op.lowrank),
      (Instr.optstep, Op.optstep), (Instr.ckpt, Op.ckpt), (Instr.restore, Op.restore)] →
    ∀ (q : Nat) (count : Word32) (s : State) (x : Queue) (d : Started), s.ready q count op = some (x, d) →
      (svcOperandsOk d.entry (s.quota x.slice).lace = false →
        exec (cmd q count) s = .next (((s.bump .slcSvcStatCompleted x.slice).endWith q count Status.descMalformed).settle))
      ∧ (svcOperandsOk d.entry (s.quota x.slice).lace = true →
        ∃ (v : Service) (u : State), v.q = q ∧ v.count = count ∧ v.slice = x.slice ∧ v.opcode = op ∧ v.stage = 0
          ∧ v.lace = Desc.svcLace d.entry ∧ v.stoch = Desc.svcStoch d.entry
          ∧ u = ({ s with work.services := s.work.services ++ [v] } : State).modStarted q count (fun d => { d with run := true })
          ∧ ∀ t r, u.access (svcAccess v (q % 8) (Desc.svcRecord d.entry) (recordBytes op) false []) = (t, r) →
              exec (cmd q count) s = .next (match r with
                | .done b => t.svcArrived q count (Desc.svcRecord d.entry) b 2
                | .fail c => t.failSvc v c
                | _ => t).settle))
  ∧ ((∀ (s : State) (v : Service), s.nextService = some v →
    exec .serviceStart s = .next (({ s with work.serviceTurn := v.slice } : State).svcStart v).settle)
  ∧ (∀ (q : Nat) (count : Word32) (k : Nat) (host : List MemCell) (s : State) (v : Service) (p : Piece),
    s.findSvc q count = some v → s.fw.resetting = false → v.stage = 3 → v.opcode = Op.quant →
    v.pieces.find? (fun p => p.index = k) = some p → p.done = false → p.gate = false → v.turn p = true → v.owed.any (fun o => o.1 = k) = false → s.arithRuns = true →
    (v.stoch = true → s.keys.drbgHalted = false) → s.recomputes v (some p.cluster) = false → s.arithOutOf p.cluster = false →
    exec (.servicePiece q count k host) s = .next (s.quantPiece v p host ((v.cut v.units.length).getD k (0, 0)).1
      ((v.cut v.units.length).getD k (0, 0)).2).settle)
  ∧ (∀ (q : Nat) (count : Word32) (k : Nat) (host : List MemCell) (s : State) (v : Service) (p : Piece),
    s.findSvc q count = some v → s.fw.resetting = false → v.stage = 3 → v.opcode = Op.optstep →
    v.pieces.find? (fun p => p.index = k) = some p → p.done = false → p.gate = false → v.turn p = true → v.owed.any (fun o => o.1 = k) = false → s.arithRuns = true →
    (v.stoch = true → s.keys.drbgHalted = false) → s.recomputes v (some p.cluster) = false → s.arithOutOf p.cluster = false →
    exec (.servicePiece q count k host) s = .next (s.optPiece v p host ((v.cut v.units.length).getD k (0, 0)).1
      ((v.cut v.units.length).getD k (0, 0)).2).settle)
  ∧ (∀ (q : Nat) (count : Word32) (k : Nat) (host : List MemCell) (s : State) (v : Service),
    s.findSvc q count = some v → s.fw.resetting = false → v.stage = 3 → (v.opcode = Op.ckpt ∨ v.opcode = Op.restore) →
    exec (.servicePiece q count k host) s = .next (s.streamPump v).settle)
  ∧ (∀ (q : Nat) (count : Word32) (host : List MemCell) (s : State) (v : Service), s.findSvc q count = some v →
    v.opcode = Op.lowrank → s.fw.resetting = false → exec (.lowrankStep q count host) s = .next (s.lowStep v host).settle)
  ∧ (∀ (c : Fin 8) (host : List MemCell) (s : State) (v : Service) (p : Piece), s.work.services = [v] → v.stage = 3 →
    s.fw.resetting = false → v.pieces.filter (fun p => p.gate && p.cluster = c.val) = [p] →
    exec (.gatePoll c host) s = .next (s.pollGate v.q v.count host p).settle)
  ∧ (∀ (q : Nat) (count : Word32) (s : State) (v : Service), s.findSvc q count = some v → v.stage = 3 → v.gated = true →
    v.deadline ≠ 0 → s.passed v.deadline = true → v.pieces.any (·.gate) = true →
    exec (.gateDeadline q count) s = .next (s.endSvc q count Status.waitTimeout 0)))


/-! ## The host's answers (chapters 04, 06, 16) -/

/-- R80 to R89: how a translation request, an invalidation, a page response and the enables of a function end or change what waits
on them.
R402 to R404: reads that end, the completion timeout, noted as an error of its function (R392), and acknowledged posted writes, the last of
a message's letting it go on to its flush. -/
def Obligations.TranslationAndHostReads : Prop :=
  ((∀ (id : Nat) (pages : List (Nat × Nat × Bool × Bool)) (res : ReadResult) (s : State) (r : AtsReq),
    s.xlate.ats.find? (fun r => r.id = id) = some r →
    ∃ u : State, u = { s with xlate.ats := s.xlate.ats.filter fun x => x.id ≠ r.id }
      ∧ exec (.atsCompletion id pages res) s = .next (match res with
          | .ok _ => (u.addPages r pages).atsAnswered r
          | .unsupported => u.atsFailed r Status.xlateDenied
          | .timeout => (u.bump .slcHostStatCplTimeouts r.slice).atsFailed r Status.hostLinkDown : State).settle)
  ∧ (∀ (f : Func) (pasid : Option (BitVec 20)) (iova len : Nat) (s : State), ∃ t, exec (.atsInvalidate f pasid iova len) s = .next t
    ∧ (∀ (c : Fin 8) (size target : Nat) (at_ : Nat) (rd wr : Bool), at_ < iova + len → iova < at_ + size →
        CacheLine.page f pasid at_ size target rd wr ∉ vget t.xlate.caches c [])
    ∧ (∀ (c : Fin 8) (l : CacheLine), (∀ at_ size target rd wr, l ≠ .page f pasid at_ size target rd wr) →
        (l ∈ vget t.xlate.caches c [] ↔ l ∈ vget s.xlate.caches c []))
    ∧ (s.xlate.invalidating = [] → s.readsUsing f pasid iova len = [] → t.out = s.out ++ [.invalidateDone f])
    ∧ s.touches t [.xlate, .out])
  ∧ (∀ (f : Func) (s : State), s.xlate.ats = [] → s.xlate.waiting = [] → s.trans.heldArrivals = [] → s.trans.ended = [] →
    s.work.services = [] → s.xlate.eyeletBusy = [] → s.mem.infWaits = [] →
    ∃ t, exec (.atsEnableClear f) s = .next t ∧ (t.funcState f).ats = false ∧ s.touches t [.host, .xlate]
      ∧ (∀ (c : Fin 8) (pasid : Option (BitVec 20)) (at_ size target : Nat) (rd wr : Bool),
          CacheLine.page f pasid at_ size target rd wr ∉ vget t.xlate.caches c []))
  ∧ (∀ (f : Func) (prg code : Nat) (s : State), s.xlate.pft.find? (fun e => e.func = f && e.prg = prg) = none →
    ∃ t, exec (.pageResponse f prg code) s = .next t
      ∧ t.fld .xltFaultStatStray (s.sliceOf f) = min (s.fld .xltFaultStatStray (s.sliceOf f) + 1) 255 ∧ s.touches t [.regs])
  ∧ (∀ (f : Func) (prg : Nat) (s : State) (e : PftEntry), s.xlate.pft.find? (fun e => e.func = f && e.prg = prg) = some e →
    s.xlate.waiting.all (fun w => w.on ≠ .page e.id || !s.waitPassed w) = true →
    exec (.pageResponse f prg 0) s = .next ((s.xlate.waiting.filter fun w : Waiting => w.on = .page e.id).foldl
      (fun (s : State) w => s.resumeWaiting w) { s with xlate.pft := s.xlate.pft.filter fun x => x.id ≠ e.id }).retryStalled.settle)
  ∧ (∀ (f : Func) (s : State), ∃ t, exec (.priEnableChange f true) s = .next t ∧ s.touches t [.host, .xlate]
    ∧ ((s.funcState f).pri = false → f ∉ t.xlate.priStopped)
    ∧ ((s.funcState f).pri = true → t.xlate.priStopped = s.xlate.priStopped))
  ∧ (∀ (id : Nat) (s : State) (w : Waiting) (ff : Nat), s.xlate.waiting.find? (fun w => w.id = id &&
      (w.on = .stalled || (match w.on with | .page _ => true | _ => false))) = some w → w.firstFault = some ff →
    s.passed (ff + s.waitLimit w.access.slice) = true →
    ((s.failWaiting w Status.xlateFaultTimeout).retryStalled.trans.conns.findSome? fun c =>
      (c.ops.find? fun o => o.id = id).map fun o => (c, o)) = none →
    exec (.faultWaitDeadline id) s = .next (s.failWaiting w Status.xlateFaultTimeout).retryStalled.settle))
  ∧ ((∀ (id : Nat) (res : ReadResult) (s : State) (h : HostRead), s.hostReads.find? (fun h => h.id = id) = some h →
    exec (.hostReadCompletion id res) s = .next (s.readEnded h res).settle)
  ∧ (∀ (id : Nat) (res : ReadResult) (s : State) (h : HostRead), s.hostReads.find? (fun h => h.use = .flush id) = some h →
    exec (.flushReadCompletion id res) s = .next (s.readEnded h res).settle)
  ∧ (∀ (id : Nat) (s : State) (h : HostRead), s.hostReads.find? (fun h => h.id = id) = some h → s.passed (h.sentAt + s.cplTimeout h.port) = true →
    exec (.pcieCompletionTimeout id) s = .next
      ((s.aerNote ⟨Fin.ofNat 2 h.port, Fin.ofNat 256 h.fn⟩ aerTimeout).readEnded h .timeout).settle)
  ∧ (∀ (id : Nat) (s : State) (r : AtsReq), s.hostReads.find? (fun h => h.id = id) = none →
    s.xlate.ats.find? (fun r => r.id = id) = some r → s.passed (r.sentAt + s.cplTimeout r.func.port) = true →
    exec (.pcieCompletionTimeout id) s = .next ((s.aerNote r.func aerTimeout).atsEnded r [] .timeout).settle)
  ∧ (∀ (s : State) (h : HostRead) (w : Waiting) (id : Nat) (res : ReadResult) (u : State) (r : AccOut), h.use = .access id →
    s.xlate.waiting.find? (fun w => w.id = id) = some w → s.readOutcome w res = (u, r) →
    s.readEnded h res =
      (u.endHostRead w).deliver w.access (if w.access.gen = (u.endHostRead w).gen w.access.slice then r else .stale))
  ∧ (∀ (p : Fin 2) (n : Nat) (s : State), s.trans.conns.all (fun c => c.msgs.all fun m => !m.acksDue) = true → s.trans.ended = [] →
    s.work.services = [] → s.xlate.waiting = [] → s.trans.heldArrivals = [] → s.xlate.eyeletBusy = [] → s.mem.infWaits = [] →
    ∃ t, exec (.dataLinkLayerAck p n) s = .next t ∧ (t.hostPort p).unacked = (s.hostPort p).unacked - n
      ∧ (t.hostPort p).posted = (s.hostPort p).posted.drop n
      ∧ (∀ (i : Nat) (c : Conn), s.trans.conns[i]? = some c → ∃ d, t.trans.conns[i]? = some d ∧ d = { c with msgs := d.msgs }
          ∧ d.msgs = c.msgs.map fun m =>
              { m with tlps := (m.tlps.map fun y => if y.1 = p.val then (y.1, y.2 - n) else y).filter fun y => decide (y.2 ≠ 0) })
      ∧ s.touches t [.host, .trans, .queue])
  ∧ (∀ (p : Fin 2) (n : Nat) (s t : State) (c : Conn) (m : RxMsg), t = s.tlpsAcked p n → t.trans.conns = [c] → c.msgs = [m] →
    m.acksDue = true → m.tlps = [] →
    exec (.dataLinkLayerAck p n) s = .next ((t.releaseWrites (.posted p)).flushMsg c.index m.msn).settle))

/-- R143, R147: a revocation completes when no access is in flight: its record is written, but for a region that a slice reset
revoked, the entry is Free, its range lines are gone and REGION_REVOKE is answered; records last 4 ms. -/
def Obligations.RevocationsComplete : Prop :=
  (∀ (slot : Nat) (s : State) (e : RangeEntry), s.xlate.ranges.find? (fun e => e.slot = slot && e.state = .revoking) = some e →
    e.inFlight = 0 → exec (.revokeDrainDone slot) s = .next
      (((if e.revoker.isSome then s.addRevokeRecord e else s).freeRange e).respondTo e.revoker Status.success []))
  ∧ (∀ (s : State) (e : RangeEntry), s.xlate.revokeRecords.length < 4096 →
    ∃ r, (s.addRevokeRecord e).xlate.revokeRecords = s.xlate.revokeRecords ++ [r] ∧ r.slice = e.slice ∧ r.start = e.start
      ∧ r.length = e.length ∧ r.key = e.key ∧ r.expiry = s.time.now + 4000000)
  ∧ (∀ (s : State) (e : RangeEntry) (o : RevokeRecord) (rest : List RevokeRecord), s.xlate.revokeRecords = o :: rest →
    4095 ≤ rest.length → ∃ r, (s.addRevokeRecord e).xlate.revokeRecords = rest ++ [r] ∧ r.key = e.key)
  ∧ (∀ (s : State) (e : RangeEntry) (c : Fin 8) (start n : Nat) (i : BitVec 8),
    CacheLine.range e.slice start n e.slot i ∉ vget (s.freeRange e).xlate.caches c [])
  ∧ (∀ (s : State) (e : RangeEntry), s.range e.slice e.slot = some e →
    ∃ x, (s.freeRange e).range e.slice e.slot = some x ∧ x.state = .free ∧ x.incarnation = e.incarnation ∧ x.inFlight = 0)
  ∧ (∀ s : State, ∃ t, exec .revokeRecordExpiry s = .next t
    ∧ t.xlate.revokeRecords = s.xlate.revokeRecords.filter (fun r => !s.due r.expiry) ∧ s.touches t [.xlate])

/-! ## Regions, queues and the Eyelet (chapters 03 to 06) -/

/-- R124: a key is drawn until it is not zero, no live entry of the slice has it, and no standing Revoke Record of the slice.
R71, R123, R125, R143: a region is registered in a free slot of its slice's segment with the next Incarnation; it is revoked,
read, and a tenant tag is set. -/
def Obligations.RegionKeysAndCommands : Prop :=
  (∀ (s : State) (slice fuel : Nat), (∃ k : Word32, s.goodKey slice k = true) →
    (s.drawKey slice fuel).2 ≠ 0
    ∧ (∀ e ∈ s.xlate.ranges, e.slice = slice → e.state ≠ .free → e.key ≠ (s.drawKey slice fuel).2)
    ∧ (∀ r ∈ s.xlate.revokeRecords, r.slice = slice → s.passed r.expiry = false → r.key ≠ (s.drawKey slice fuel).2))
  ∧ ((∀ (slice : Fin 512) (tag : Word32) (p : RegionParams) (s t u : State) (info : List Nat), s.takesUp slice tag MbxOp.regionRegister →
    t = s.taken slice tag MbxOp.regionRegister → t.keys.drbgHalted = false →
    t.registerRegion slice p = (u, Status.success, info) →
    exec (.regionRegister slice tag p) s = .next (u.answer slice tag MbxOp.regionRegister Status.success 0 info)
      ∧ ∃ e slot inc key, info = [slot, inc, key] ∧ u.range slice slot = some e ∧ e.start = p.start ∧ e.length = p.length
          ∧ e.state = .active ∧ e.as = p.addressSpace ∧ e.perm = BitVec.ofNat 5 p.perm ∧ e.incarnation.toNat = inc
          ∧ e.key.toNat = key ∧ e.incarnation = ((t.range slice slot).map (·.incarnation)).getD 0 + 1
          ∧ t.segBase slice ≤ slot ∧ slot < t.segBase slice + (t.quota slice).ranges
          ∧ (∀ x ∈ t.liveRanges slice, x.slot ≠ slot))
  ∧ (∀ (slice : Fin 512) (tag : Word32) (p : RegionParams) (s : State) (c : Status), s.takesUp slice tag MbxOp.regionRegister →
    ((s.taken slice tag MbxOp.regionRegister).registerRegion slice p).2.1 = c → c ≠ Status.success →
    ∃ t, exec (.regionRegister slice tag p) s = .next t ∧ t.hasAnswer slice tag c [] ∧ s.touches t [.mailboxes])
  ∧ (∀ (slice : Fin 512) (tag : Word32) (slot : Nat) (s t : State) (e : RangeEntry), s.takesUp slice tag MbxOp.regionRevoke →
    t = s.taken slice tag MbxOp.regionRevoke → t.range slice slot = some e → e.state = .active →
    exec (.regionRevoke slice tag slot e.incarnation.toNat) s = .next (t.beginRevoke e (some (slice.val, tag))).settle)
  ∧ (∀ (slice : Fin 512) (tag : Word32) (slot inc : Nat) (s : State) (e : RangeEntry), s.takesUp slice tag MbxOp.regionRevoke →
    s.range slice slot = some e → e.state ≠ .free → e.incarnation.toNat ≠ inc →
    ∃ t, exec (.regionRevoke slice tag slot inc) s = .next t ∧ t.hasAnswer slice tag Status.localAccess []
      ∧ s.touches t [.mailboxes])
  ∧ (∀ (slice : Fin 512) (tag : Word32) (slot : Nat) (s : State) (e : RangeEntry), s.takesUp slice tag MbxOp.rangeRead →
    s.segBase slice ≤ slot → slot < s.segBase slice + (s.quota slice).ranges → s.range slice slot = some e →
    ∃ t, exec (.rangeRead slice tag slot) s = .next t ∧ t.hasAnswer slice tag Status.success (s.rangeBytes e)
      ∧ s.touches t [.mailboxes])
  ∧ (∀ (tag : Word32) (k n : Nat) (s : State), s.takesUp 0 tag MbxOp.tenantSet → k < 512 → n < 2 ^ 24 →
    (s.trans.conns.any fun c => c.slice = k) = false →
    ∃ t, exec (.tenantSet 0 tag k n) s = .next t ∧ (t.slice k).tenant.toNat = n ∧ (t.slice k).state = (s.slice k).state
      ∧ (∀ j : Fin 512, j.val ≠ k → t.slice j = s.slice j) ∧ t.hasAnswer 0 tag Status.success []
      ∧ s.touches t [.slices, .mailboxes]))

/-- R94, R95: a queue is created Disabled with its parameters, and an idle Disabled one destroyed. -/
def Obligations.QueueCommands : Prop :=
  (∀ (slice : Fin 512) (tag : Word32) (p : QueueParams) (s t u : State) (info : List Nat), s.takesUp slice tag MbxOp.queueCreate →
    t = s.taken slice tag MbxOp.queueCreate → t.createQueue slice p = (u, Status.success, info) →
    exec (.queueCreate slice tag p) s = .next (u.answer slice tag MbxOp.queueCreate Status.success 0 info)
      ∧ ∃ q, q ∈ u.queue.queues ∧ (p.trafficClass ≠ 7 → u.queue.queues = t.queue.queues ++ [q]) ∧ q.slice = slice.val ∧ q.state = .disabled ∧ q.enable = false
          ∧ q.logEntries = p.logEntries ∧ q.ringOffset = p.ringOffset ∧ q.as = p.addressSpace ∧ q.head = 0
          ∧ info.head? = some q.number ∧ (p.kind ≠ 0 → p.cluster < 8 → homeOf q.number = p.cluster))
  ∧ (∀ (slice : Fin 512) (tag : Word32) (p : QueueParams) (s : State), s.takesUp slice tag MbxOp.queueCreate → 3 < p.kind →
    ∃ t, exec (.queueCreate slice tag p) s = .next t ∧ t.hasAnswer slice tag Status.descMalformed [] ∧ s.touches t [.mailboxes])
  ∧ (∀ (slice : Fin 512) (tag : Word32) (q : Nat) (s : State) (x : Queue), s.takesUp slice tag MbxOp.queueDestroy →
    s.findQueue q = some x → x.slice = slice.val → x.state = .disabled → x.idle = true → x.kind ≠ .completion →
    ∃ t, exec (.queueDestroy slice tag q) s = .next t ∧ t.findQueue q = none
      ∧ (∀ n, n ≠ q → t.findQueue n = s.findQueue n) ∧ (∀ f ∈ t.filters, f.2.queue ≠ q) ∧ t.hasAnswer slice tag Status.success []
      ∧ t.trans = { s.trans with wheel := s.trans.wheel.filter fun w => decide (w.owner ≠ .raw q) }
      ∧ s.touches t [.queue, .filters, .mailboxes, .trans])
  ∧ (∀ (slice : Fin 512) (tag : Word32) (q : Nat) (s : State) (x : Queue), s.takesUp slice tag MbxOp.queueDestroy →
    s.findQueue q = some x → x.slice = slice.val → x.state ≠ .disabled →
    ∃ t, exec (.queueDestroy slice tag q) s = .next t ∧ t.hasAnswer slice tag Status.busy [] ∧ s.touches t [.mailboxes])

/-- R64 to R69: Eyelet accesses go through the map, or are turned away and counted; mappings are made, read and removed. -/
def Obligations.EyeletWindow : Prop :=
  (∀ (f : Func) (r : Word16) (off len : Nat) (s : State) (e : EyeletEntry), s.eyeletEntry f (granuleOf f off) = some e →
    e.admits r = true → e.read = true →
    exec (.eyeletLoad f r off len) s = .next (s.eyeletBegin f e (granuleOff off) len [] true).settle)
  ∧ (∀ (f : Func) (r : Word16) (off len : Nat) (s : State) (e : EyeletEntry), s.eyeletEntry f (granuleOf f off) = some e →
    (e.admits r = false ∨ e.read = false) →
    exec (.eyeletLoad f r off len) s = .next (((s.bump .slcEyeletErrUrCount e.slice).emit (.cplUnsupported f)).settle))
  ∧ (∀ (f : Func) (r : Word16) (off : Nat) (b : List Byte) (s : State) (e : EyeletEntry), s.eyeletEntry f (granuleOf f off) = some e →
    e.admits r = true → e.write = true →
    exec (.eyeletStore f r off b) s = .next (s.eyeletBegin f e (granuleOff off) b.length b false).settle)
  ∧ (∀ (id : Nat) (s : State) (x : EyeletAccess), s.xlate.eyeletBusy.find? (fun x => x.id = id && x.load) = some x →
    s.passed x.deadline = true → s.xlate.unmapping = [] →
    ∃ t ev, exec (.eyeletLoadLimit id) s = .next t ∧ t.out = s.out ++ [.cplAbort id]
      ∧ t.xlate.eyeletBusy = s.xlate.eyeletBusy.filter (fun x => x.id ≠ id)
      ∧ t.queue.events = s.queue.events ++ [ev] ∧ ev.slice = x.slice ∧ ev.code = EventCode.eyeletFail ∧ ev.object = x.granule
      ∧ s.touches t [.out, .free, .xlate, .queue, .regs])
  ∧ (∀ (slice : Fin 512) (tag : Word32) (p : EyeletParams) (s : State), s.takesUp slice tag MbxOp.eyeletMap →
    s.mapRefused slice p = none →
    ∃ t e, exec (.eyeletMap slice tag p) s = .next t ∧ t.xlate.eyelet = s.xlate.eyelet ++ [e] ∧ e.slice = slice.val
      ∧ e.granule = p.granule ∧ e.target = p.target.toNat ∧ e.read = p.read ∧ e.write = p.write ∧ e.as = p.addressSpace
      ∧ t.hasAnswer slice tag Status.success [] ∧ s.touches t [.xlate, .mailboxes])
  ∧ (∀ (slice : Fin 512) (tag : Word32) (p : EyeletParams) (s : State) (c : Status), s.takesUp slice tag MbxOp.eyeletMap →
    s.mapRefused slice p = some c →
    ∃ t, exec (.eyeletMap slice tag p) s = .next t ∧ t.hasAnswer slice tag c [] ∧ s.touches t [.mailboxes])
  ∧ (∀ (slice : Fin 512) (tag : Word32) (f : Func) (g : Nat) (s : State) (e : EyeletEntry), s.takesUp slice tag MbxOp.eyeletUnmap →
    s.eyeletEntry f g = some e → e.slice = slice.val → s.granuleBusy f g = true → s.xlate.unmapping = [] →
    ∃ t, exec (.eyeletUnmap slice tag f g) s = .next t ∧ t.eyeletEntry f g = none
      ∧ t.xlate.unmapping = [(slice.val, tag, f, g)] ∧ s.touches t [.xlate, .mailboxes])
  ∧ (∀ (slice : Fin 512) (tag : Word32) (f : Func) (g : Nat) (s : State) (e : EyeletEntry), s.takesUp slice tag MbxOp.eyeletUnmap →
    s.eyeletEntry f g = some e → e.slice = slice.val → s.granuleBusy f g = false → s.xlate.unmapping = [] →
    ∃ t, exec (.eyeletUnmap slice tag f g) s = .next t ∧ t.eyeletEntry f g = none ∧ t.xlate.unmapping = []
      ∧ t.hasAnswer slice tag Status.success [] ∧ s.touches t [.xlate, .mailboxes])
  ∧ (∀ (tag : Word32) (f : Func) (g : Nat) (s : State), s.takesUp 0 tag MbxOp.eyeletRead → g < aperture f →
    ∃ t, exec (.eyeletRead 0 tag f g) s = .next t ∧ t.hasAnswer 0 tag Status.success (eyeletFields (s.eyeletEntry f g))
      ∧ s.touches t [.mailboxes])

/-! ## COPY, SCAN and raw frames (chapters 12, 13, 18) -/

/-- R312 to R314: a COPY checks its length, its overlap and both ranges, then issues at most 64 units; a unit's end writes it.
R432 to R437: a SCAN takes its context, or is refused and counted; the register is loaded by software in Single mode; feeding in
two runs is feeding in one. -/
def Obligations.CopiesAndScans : Prop :=
  ((∀ (q : Nat) (count : Word32) (s : State) (x : Queue) (d : Started), s.ready q count Op.copy = some (x, d) →
    (Desc.copyLength d.entry = 0 ∨ (Desc.srcOffset d.entry < Desc.dstOffset d.entry + Desc.copyLength d.entry
      ∧ Desc.dstOffset d.entry < Desc.srcOffset d.entry + Desc.copyLength d.entry)) →
    exec (.copy q count) s = .next (s.endWith q count Status.descMalformed))
  ∧ (∀ (q : Nat) (count : Word32) (s : State) (x : Queue) (d : Started), s.ready q count Op.copy = some (x, d) →
    Desc.copyLength d.entry ≠ 0 → (Desc.dstOffset d.entry + Desc.copyLength d.entry ≤ Desc.srcOffset d.entry
      ∨ Desc.srcOffset d.entry + Desc.copyLength d.entry ≤ Desc.dstOffset d.entry) →
    s.localRange x.slice x.as (Desc.srcOffset d.entry) (Desc.copyLength d.entry) false = none →
    s.localRange x.slice x.as (Desc.dstOffset d.entry) (Desc.copyLength d.entry) true = none →
    exec (.copy q count) s = .next ((s.modStarted q count fun d => { d with run := true }).copyIssue q count 64).settle)
  ∧ (∀ (q : Nat) (count : Word32) (k : Nat) (r : ReadResult) (s t : State) (a : AccOut) (x : Queue) (d : Started),
    s.findStarted q count = some (x, d) → Desc.opcode d.entry = Op.copy → d.run = true → d.ended = none → k < d.issued →
    d.units.contains k = false → (d.data.any fun y => y.1 = k) = false →
    (s.xlate.waiting.any fun w => w.access.use = .copyWrite q count k) = false →
    s.xlate.waiting.find? (fun w => w.access.use = .copyRead q count k) = none →
    s.unitAccess ((s.farOf q count k).bind (·.src)) (copyRead x d k) = (t, a) →
    exec (.copyUnitDone q count k r) s = .next ((if (s.farOf q count k).any (fun f => f.dst.isNone) then t.farDone q count k
      else t).copyReadEnded q count k a).settle)
  ∧ (∀ (d : Desc), 0 < Desc.copyLength d → (((List.range (copyUnits d)).map fun u => (copyUnit d u).2).sum = Desc.copyLength d)
      ∧ ∀ u, u < copyUnits d → 0 < (copyUnit d u).2 ∧ (copyUnit d u).2 ≤ 4096
        ∧ (u + 1 < copyUnits d → (copyUnit d (u + 1)).1 = (copyUnit d u).1 + (copyUnit d u).2)))
  ∧ ((∀ (q : Nat) (count : Word32) (s : State) (x : Queue) (d : Started), s.ready q count Op.scan = some (x, d) →
    s.scanMalformed d.entry = false → scanInit d.entry = true → scanWrite d.entry = false →
    s.localRange x.slice x.as (Desc.f64 d.entry 16) (scanLength d.entry) false = none →
    (s.checkCtx (homeOf q) (scanChannel d.entry)).scanning = false →
    exec (.scan q count) s = .next (((s.setCheckCtx { s.checkCtx (homeOf q) (scanChannel d.entry) with
      value := algInit (scanAlg d.entry), algorithm := scanAlg d.entry, owner := some (x.slice, x.gen), valid := true,
      scanning := true }).modStarted q count fun d => { d with run := true }).scanRun q count (scanFuel d.entry)).settle)
  ∧ (∀ (q : Nat) (count : Word32) (s : State) (x : Queue) (d : Started), s.ready q count Op.scan = some (x, d) →
    (s.scanMalformed d.entry = true
      ∨ (scanInit d.entry = false ∧ (s.checkCtx (homeOf q) (scanChannel d.entry)).valid = false
          ∧ (s.checkCtx (homeOf q) (scanChannel d.entry)).scanning = false)) →
    exec (.scan q count) s = .next ((s.bump .cluChkStatScans (homeOf q)).endWith q count Status.descMalformed))
  ∧ (∀ (q : Nat) (count : Word32) (s : State) (x : Queue) (d : Started), s.ready q count Op.scan = some (x, d) →
    s.scanMalformed d.entry = false → scanInit d.entry = false → (s.checkCtx (homeOf q) (scanChannel d.entry)).valid = true →
    (s.checkCtx (homeOf q) (scanChannel d.entry)).owner ≠ some (x.slice, x.gen) →
    (s.checkCtx (homeOf q) (scanChannel d.entry)).scanning = false →
    exec (.scan q count) s = .next ((s.bump .cluChkStatScans (homeOf q)).endWith q count Status.localAccess))
  ∧ (∀ (q : Nat) (count : Word32) (s : State) (x : Queue) (d : Started), s.ready q count Op.scan = some (x, d) →
    s.scanMalformed d.entry = false → (s.checkCtx (homeOf q) (scanChannel d.entry)).scanning = true →
    exec (.scan q count) s = .next s)
  ∧ (∀ (alg : Nat) (r : Word64) (a b : List Byte), algFeed alg r (a ++ b) = algFeed alg (algFeed alg r a) b)
  ∧ (∀ (f : Func) (k : Fin 512) (v : Word64) (s : State) (c : CheckCtx), s.bound k f = true → s.multiMode = false →
    c = s.checkCtx (s.fld .slcCheckSelCluster k) 0 → c.owner = none → c.scanning = false →
    ∃ t x, exec (.slcCheckValWrite f k v) s = .next t ∧ x ∈ t.checks ∧ x.cluster = c.cluster ∧ x.channel = c.channel
      ∧ x.owner = some (k.val, s.gen k) ∧ x.valid = true ∧ x.algorithm = s.fld .slcCheckSelAlgorithm k
      ∧ (s.fld .slcCheckSelAlgorithm k = 2 → x.value = v) ∧ s.touches t [.checks])
  ∧ (∀ (f : Func) (k : Fin 512) (v : Word64) (s : State) (c : CheckCtx), s.bound k f = true → s.multiMode = false →
    c = s.checkCtx (s.fld .slcCheckSelCluster k) 0 → c.owner = some (k.val, s.gen k) → c.scanning = true →
    ∃ t x, exec (.slcCheckValWrite f k v) s = .next t ∧ x ∈ t.checks
      ∧ x = { c with load := some (k.val, s.fld .slcCheckSelAlgorithm k, v) } ∧ s.touches t [.checks]))

/-- R322, R323: a RAW_SEND takes its frame from the descriptor or from memory, and what it may not be ends it; below class 7 the
frame waits for its queue's wheel entry (R206). A RAW_RECV posts its buffer. -/
def Obligations.RawFrames : Prop :=
  (∀ (q : Nat) (count : Word32) (s : State) (x : Queue) (d : Started), s.ready q count Op.rawSend = some (x, d) →
    s.rawMalformed d.entry = true → exec (.rawSend q count) s = .next (s.endWith q count Status.descMalformed))
  ∧ (∀ (q : Nat) (count : Word32) (s : State) (x : Queue) (d : Started), s.ready q count Op.rawSend = some (x, d) →
    s.rawMalformed d.entry = false → Desc.inlineLength d.entry ≠ 0 → rawStamp d.entry = false →
    exec (.rawSend q count) s = .next ((s.modStarted q count fun d => { d with run := true }).rawSourced q count
      (Desc.inlineData d.entry)))
  ∧ (∀ (q : Nat) (count : Word32) (s t : State) (x : Queue) (d : Started) (r : AccOut), s.ready q count Op.rawSend = some (x, d) →
    s.rawMalformed d.entry = false → Desc.inlineLength d.entry = 0 → rawStamp d.entry = false →
    s.localRange x.slice x.as (Desc.localOffset d.entry) (rawLength d.entry) false = none →
    (s.modStarted q count fun d => { d with run := true }).access
      { cluster := homeOf q, slice := x.slice, gen := x.gen, as := x.as, offset := Desc.localOffset d.entry,
        length := rawLength d.entry, use := .source q count 0 } = (t, r) →
    exec (.rawSend q count) s = .next (t.sourceEnded q count 0 r).settle)
  ∧ (∀ (q : Nat) (count : Word32) (b : List Byte) (s : State) (x : Queue) (d : Started), s.findStarted q count = some (x, d) →
    twoTags b = false → s.rawForbidden b = false → s.linkUp (rawPort d.entry) = true →
    ∃ f : RawFrame, f.image = s.rawImage (rawPort d.entry) x.slice x.tc b ∧ f.cls = x.tc ∧ f.slice = x.slice ∧ f.q = q
      ∧ f.count = count ∧ f.port = rawPort d.entry ∧ s.rawSourced q count b = s.paceRaw f)
  ∧ (∀ (f : RawFrame) (s : State), f.cls = 7 → s.paceRaw f = s.queueFrame f.port f.frame)
  ∧ (∀ (f : RawFrame) (s : State), f.cls ≠ 7 → s.findWheel (.raw f.q) = none →
    ∃ e : WheelEntry, e.owner = .raw f.q ∧ e.nextAt = roundSlot s.time.now ∧ e.credit = s.burst f.port
      ∧ (s.paceRaw f).trans.raw = s.trans.raw ++ [f] ∧ (s.paceRaw f).trans.wheel = s.trans.wheel ++ [e]
      ∧ s.touches (s.paceRaw f) [.trans])
  ∧ (∀ (q : Nat) (count : Word32) (b : List Byte) (s : State) (x : Queue) (d : Started), s.findStarted q count = some (x, d) →
    (twoTags b = true → s.rawSourced q count b = s.endWith q count Status.descMalformed)
    ∧ (twoTags b = false → s.rawForbidden b = true → s.rawSourced q count b = s.endWith q count Status.localAccess)
    ∧ (twoTags b = false → s.rawForbidden b = false → s.linkUp (rawPort d.entry) = false →
        s.rawSourced q count b = s.endWith q count Status.peerUnreachable))
  ∧ (∀ (q : Nat) (count : Word32) (s : State) (x : Queue) (d : Started), s.ready q count Op.rawRecv = some (x, d) →
    zeroBytes d.entry 16 23 = true → zeroBytes d.entry 36 63 = true → rawBuf d.entry % 64 = 0 → 80 ≤ rawBufLen d.entry →
    s.localRange x.slice x.as (rawBuf d.entry) (rawBufLen d.entry) true = none →
    exec (.rawRecv q count) s = .next (s.modStarted q count fun d => { d with run := true }))

/-! ## Near and far memory (chapter 12) -/

/-- R297 and log entry 1: memory reads what was written, elsewhere what stood there; memories in canonical form that read
alike are equal. -/
def Obligations.MemoryReadsWhatWasWritten : Prop :=
  (∀ (m : List MemCell) (at_ : Nat) (bs : List Byte) (i : Nat), Memory.wf m = true →
    Memory.get (Memory.write m at_ bs) i = if at_ ≤ i then bs.getD (i - at_) (Memory.get m i) else Memory.get m i)
  ∧ (∀ (m n : List MemCell), Memory.wf m = true → Memory.wf n = true → (∀ i, Memory.get m i = Memory.get n i) → m = n)
  ∧ (∀ (s : State) (at_ : Nat) (bs : List Byte), s.memOk = true → s.mem.bad = [] →
    (s.writeNear at_ bs).2 = true ∧ (s.writeNear at_ bs).1.memOk = true
    ∧ ((s.writeNear at_ bs).1.readNear at_ bs.length).2 = some bs
    ∧ (∀ i, (i < at_ ∨ at_ + bs.length ≤ i) → ((s.writeNear at_ bs).1.readNear i 1).2 = some [Memory.get s.mem.cells i])
    ∧ s.touches (s.writeNear at_ bs).1 [.mem, .power])

/-- R296, R297: any one symbol in error is located and put right.
R303 to R305: a scrub burst reads on from where it stood, and as much as its pass owes by then; a pass that has read every codeword, as
with the end of its period it has, ends, and the next starts from offset 0 with the next period, and the log and the history are
read. -/
def Obligations.MemoryCodeAndErrorLog : Prop :=
  (∀ (i : Nat) (a : Byte), i < 68 → a ≠ 0 → decodeErrs [(i, a)] = .corrected [(i, a)])
  ∧ ((∀ (n : Nat) (s : State), s.fld .memScrubCtrlEnable 0 ≠ 0 → s.mem.passAt ≤ s.time.now → s.power.selfRefresh = false → s.mem.bad = [] →
    s.mem.scrubPos + s.scrubBytes n < nearBytes →
    n * 64 ≤ s.scrubBytes n ∧
    ∃ t, exec (.scrubBurst n) s = .next t ∧ t.mem.scrubPos = s.mem.scrubPos + s.scrubBytes n ∧ t.mem.cells = s.mem.cells
      ∧ s.touches t [.mem])
  ∧ (∀ (n : Nat) (s : State), s.fld .memScrubCtrlEnable 0 ≠ 0 → s.mem.passAt ≤ s.time.now → s.power.selfRefresh = false → s.mem.bad = [] →
    s.mem.scrubPos ≤ nearBytes → (nearBytes ≤ s.mem.scrubPos + n * 64 ∨ s.mem.passAt + s.scrubPeriod ≤ s.time.now) →
    ∃ t, exec (.scrubBurst n) s = .next t ∧ t.mem.scrubPos = 0 ∧ t.mem.passes = s.mem.passes + 1 ∧ t.mem.cells = s.mem.cells
      ∧ t.mem.passAt = s.mem.passAt + s.scrubPeriod ∧ s.touches t [.mem])
  ∧ (∀ (n : Nat) (s : State), s.time.now < s.mem.passAt → exec (.scrubBurst n) s = .next s)
  ∧ (∀ (n : Nat) (s : State), s.fld .memScrubCtrlEnable 0 ≠ 0 → s.mem.passAt ≤ s.time.now → s.power.selfRefresh = true →
    (∀ w, s.mem.scrubWake = some w → w + 16000000000 ≤ s.time.now) → s.mem.bad = [] → s.mem.scrubPos + s.scrubBytes n < nearBytes →
    ∃ t, exec (.scrubBurst n) s = .next t ∧ t.power.selfRefresh = false ∧ t.mem.scrubWake = some s.time.now
      ∧ t.mem.scrubPos = s.mem.scrubPos + s.scrubBytes n ∧ t.mem.cells = s.mem.cells ∧ s.touches t [.mem, .power])
  ∧ (∀ (n w : Nat) (s : State), s.power.selfRefresh = true → s.mem.scrubWake = some w → s.time.now < w + 16000000000 →
    exec (.scrubBurst n) s = .next s)
  ∧ (∀ (f : Func) (v : Word32) (s : State), s.isManager f = true →
    ∃ t, exec (.memScrubCtrlWrite f v) s = .next t ∧ t.mem.scrubPos = 0 ∧ t.mem.passes = s.mem.passes
      ∧ (∀ b ∈ t.mem.bad, b.logged = false) ∧ t.mem.cells = s.mem.cells ∧ s.touches t [.mem, .regs])
  ∧ (∀ (f : Func) (s : State), s.isManager f = true →
    ∃ t, exec (.memErrlogData1Read f) s = .next t ∧ t.out = s.out ++ [.readData f (logData1 s.logEntry)]
      ∧ (∀ e, s.logEntry = some e → t.logEntry = some { e with read := true }) ∧ s.touches t [.mem, .out])
  ∧ (∀ (tag : Word32) (s : State), s.takesUp 0 tag MbxOp.memHistoryRead →
    ∃ t, exec (.memHistoryRead 0 tag true) s = .next t ∧ t.hasAnswer 0 tag Status.success (s.mem.history.flatMap historyEntry)
      ∧ s.touches t [.mailboxes])
  ∧ (∀ (s : State) (off kind src : Nat) (pins : List Nat),
    ∃ e, (s.logError off kind src pins).mem.log = e :: s.mem.log.take 63 ∧ e.offset = off ∧ e.kind = kind ∧ e.source = src
      ∧ (s.logError off kind src pins).mem.history = s.mem.history ++ (if kind = 2 then [e] else [])
      ∧ ((∀ x ∈ s.mem.log, x.read = true) → (s.logError off kind src pins).regs = s.regs)))

/-- R308, R310: the far tier's ports come up and go down with FAR_LINK, and are laid out at boot. -/
def Obligations.FarTier : Prop :=
  (∀ (p : Fin 2) (s : State), (vget s.mem.far p {}).linkUp = true →
    ∃ t e, exec (.cxlLinkDown p) s = .next t ∧ (vget t.mem.far p {}).linkUp = false ∧ (vget t.mem.far p {}).inService = false
      ∧ t.queue.events = s.queue.events ++ [e] ∧ e.code = EventCode.farLink ∧ e.object = p.val ∧ s.touches t [.mem, .queue])
  ∧ (∀ (p : Fin 2) (lanes : Nat) (ds : List CxlDevice) (s : State), (vget s.mem.far p {}).linkUp = false → s.cxlReleased = true →
    (vget s.mem.far p {}).enumerated = false → s.farInUse = false → ∃ t e, exec (.cxlLinkUp p lanes ds) s = .next t ∧ (vget t.mem.far p {}).linkUp = true
      ∧ (vget t.mem.far p {}).inService = true ∧ (vget t.mem.far p {}).devices = inPortOrder ds
      ∧ (vget t.mem.far 1 {}).baseGiB = (vget t.mem.far 0 {}).decodedGiB ∧ (vget t.mem.far 0 {}).baseGiB = 0
      ∧ (vget t.mem.far 0 {}).decodedGiB ≤ 8192
      ∧ (vget t.mem.far 0 {}).decodedGiB + (vget t.mem.far 1 {}).decodedGiB ≤ 12288
      ∧ t.queue.events = s.queue.events ++ [e] ∧ e.code = EventCode.farLink ∧ s.touches t [.mem, .queue])
  ∧ (∀ (p : Fin 2) (lanes : Nat) (ds : List CxlDevice) (s : State), (vget s.mem.far p {}).linkUp = false → s.cxlReleased = true →
    (vget s.mem.far p {}).enumerated = true → ∃ t, exec (.cxlLinkUp p lanes ds) s = .next t ∧ (vget t.mem.far p {}).linkUp = true
      ∧ (vget t.mem.far p {}).inService = sameDevices (vget s.mem.far p {}).devices (inPortOrder ds)
      ∧ (vget t.mem.far p {}).decodedGiB = (vget s.mem.far p {}).decodedGiB ∧ s.touches t [.mem, .queue])
  ∧ (∀ (id : Nat) (s : State) (x : FarAccess), s.mem.farBusy.find? (fun x => x.id = id) = some x → s.passed x.deadline = true →
    exec (.farAccessTimeout id) s = .next (s.copyFailed x.q x.count x.unit false Status.memUncorrectable).settle)

/-! ## Slices (chapter 15) -/

/-- R368, R369: slice 0 binds an Unbound slice to a function, and unbinds an Active one through a reset; every other slice is
refused with LOCAL_ACCESS.
R373, R376, R379, R380: a slice resets itself, a drained reset ends, a heartbeat of the bound function is taken, a missed one and an FLR
reset. -/
def Obligations.SliceBinding : Prop :=
  (∀ (tag : Word32) (k port fn : Nat) (pasid : Option (BitVec 20)) (s : State), s.takesUp 0 tag MbxOp.sliceBind →
    k ≠ 0 → k < 512 → port ≤ 1 → fn ≤ 255 → s.funcEnabled ⟨Fin.ofNat 2 port, Fin.ofNat 256 fn⟩ = true →
    s.bindBreaks k ⟨Fin.ofNat 2 port, Fin.ofNat 256 fn⟩ pasid = false → (s.slice k).state = .unbound →
    ∃ t, exec (.sliceBind 0 tag k port fn pasid) s = .next t
      ∧ t.slice k = { s.slice k with state := .active, port := port, fn := fn, pasid := pasid }
      ∧ (∀ j : Fin 512, j.val ≠ k → t.slice j = s.slice j) ∧ t.hasAnswer 0 tag Status.success [] ∧ s.touches t [.slices, .mailboxes])
  ∧ (∀ (tag : Word32) (k port fn : Nat) (pasid : Option (BitVec 20)) (s : State), s.takesUp 0 tag MbxOp.sliceBind →
    (k = 0 ∨ 511 < k ∨ 1 < port ∨ 255 < fn ∨ s.funcEnabled ⟨Fin.ofNat 2 port, Fin.ofNat 256 fn⟩ = false
      ∨ s.bindBreaks k ⟨Fin.ofNat 2 port, Fin.ofNat 256 fn⟩ pasid = true) →
    ∃ t, exec (.sliceBind 0 tag k port fn pasid) s = .next t ∧ t.hasAnswer 0 tag Status.descMalformed []
      ∧ s.touches t [.mailboxes])
  ∧ (∀ (slice : Fin 512) (tag : Word32) (k port fn : Nat) (pasid : Option (BitVec 20)) (s : State), slice ≠ 0 →
    (s.takesUp slice tag MbxOp.sliceBind → ∃ t, exec (.sliceBind slice tag k port fn pasid) s = .next t
      ∧ t.hasAnswer slice tag Status.localAccess [] ∧ s.touches t [.mailboxes])
    ∧ (s.takesUp slice tag MbxOp.sliceUnbind → ∃ t, exec (.sliceUnbind slice tag k) s = .next t
      ∧ t.hasAnswer slice tag Status.localAccess [] ∧ s.touches t [.mailboxes]))
  ∧ (∀ (tag : Word32) (k : Nat) (s : State), s.takesUp 0 tag MbxOp.sliceUnbind → k ≠ 0 → k < 512 → (s.slice k).state = .active →
    exec (.sliceUnbind 0 tag k) s = .next
      ((s.taken 0 tag MbxOp.sliceUnbind).resetSlice k 6 (some (0, tag)) true).settle)
  ∧ (∀ (tag : Word32) (k : Nat) (s : State), s.takesUp 0 tag MbxOp.sliceUnbind → k ≠ 0 → k < 512 →
    ((s.slice k).state = .resetting ∨ (s.slice k).state = .freezing ∨ (s.slice k).state = .frozen) →
    ∃ t, exec (.sliceUnbind 0 tag k) s = .next t ∧ t.hasAnswer 0 tag Status.busy [] ∧ s.touches t [.mailboxes])
  ∧ (∀ (slice : Fin 512) (tag : Word32) (s : State), s.takesUp slice tag MbxOp.sliceReset →
    ∃ t, exec (.sliceReset slice tag slice) s = .next t
      ∧ t = ((s.taken slice tag MbxOp.sliceReset).resetSlice slice 1 (some (slice.val, tag)) false).settle)
  ∧ (∀ (k : Fin 512) (s : State), (s.slice k).state = .resetting → s.resetDrained k = true →
    ∃ t, exec (.sliceResetDrainDone k) s = .next t
      ∧ (t.slice k).state = (if (s.slice k).leaveUnbound then .unbound else .active) ∧ (t.slice k).gen = (s.slice k).gen)
  ∧ (∀ (f : Func) (k : Fin 512) (v : Word64) (s : State), s.bound k f = true →
    ∃ t, exec (.heartbeat f k v) s = .next t ∧ (t.slice k).heartbeat = v ∧ (t.slice k).armed = true
      ∧ (t.slice k).beatAt = s.time.now ∧ s.touches t [.slices])
  ∧ (∀ (k : Fin 512) (s : State), (s.slice k).armed = true → s.passed (s.slice k).hbDeadline = true →
    ∃ t, exec (.heartbeatExpiry k) s = .next t
      ∧ t = ((((s.modSlice k fun x => { x with armed := false }).raise
        { slice := 0, code := EventCode.heartbeatLost, object := k, detail := (s.slice k).beatAt }).resetSlice k 3 none false).settle))
  ∧ (∀ (f : Func) (s : State), s.inPause = false →
    ∃ t, exec (.flr f) s = .next t
      ∧ t = ((((s.flrClears f).flrSlices f).foldl (fun s k => s.resetSlice k 4 none false) (s.flrClears f)).retryStalled).settle)

/-- R373, R375, R376, R379, R380: a reset raises the generation, stops the slice's queues, sends its ends Gone and its regions
into Revoking, and, when its accesses have drained, leaves it Active and empty with SLICE_RESET_DONE; a cause that meets a reset
joins it. -/
def Obligations.SliceReset : Prop :=
  (∀ (slice : Fin 512) (tag : Word32) (s : State), s.takesUp slice tag MbxOp.sliceReset →
    exec (.sliceReset slice tag slice) s = .next
      ((s.taken slice tag MbxOp.sliceReset).resetSlice slice 1 (some (slice.val, tag)) false).settle)
  ∧ (∀ (k : Fin 512) (tag : Word32) (s : State), s.takesUp 0 tag MbxOp.sliceReset → k ≠ 0 → (s.slice k).state ≠ .unbound →
    exec (.sliceReset 0 tag k) s = .next
      ((s.taken 0 tag MbxOp.sliceReset).resetSlice k 2 (some (0, tag)) false).settle)
  ∧ (∀ (k : Fin 512) (cause : Nat) (who : Option (Nat × Word32)) (unbind : Bool) (s t : State), s.beginReset k cause who unbind = t →
    (t.slice k).state = .resetting ∧ (t.slice k).gen = ((s.slice k).gen + 1) % 65536 ∧ (t.slice k).lastCause = cause
      ∧ (t.slice k).tenant = (s.slice k).tenant ∧ (t.slice k).func = (s.slice k).func
      ∧ (∀ x ∈ t.queue.queues, x.slice = k.val → x.state = .inReset ∧ x.fetches = [] ∧ x.started = [] ∧ x.held = [])
      ∧ (∀ c ∈ t.trans.conns, c.slice = k.val → c.state = .gone)
      ∧ (∀ e ∈ t.xlate.ranges, e.slice = k.val → e.state ≠ .free → e.state = .revoking)
      ∧ (∀ g ∈ t.work.groups, g.slice ≠ k.val) ∧ (∀ v ∈ t.work.services, v.slice ≠ k.val)
      ∧ (∀ x ∈ t.time.timers, x.slice ≠ k.val) ∧ (∀ e ∈ t.xlate.eyelet, e.slice ≠ k.val)
      ∧ (∀ j : Fin 512, j ≠ k → t.slice j = s.slice j) ∧ t.mem.cells = s.mem.cells ∧ t.last = s.last)
  ∧ (∀ (k : Fin 512) (cause : Nat) (who : Option (Nat × Word32)) (unbind : Bool) (s : State), (s.slice k).state = .resetting →
    ((s.resetSlice k cause who unbind).slice k).gen = (s.slice k).gen
      ∧ ((s.resetSlice k cause who unbind).slice k).lastCause = (s.slice k).lastCause
      ∧ s.touches (s.resetSlice k cause who unbind) [.slices])
  ∧ (∀ (k : Fin 512) (s : State), (s.slice k).state = .resetting → s.resetDrained k = true → (s.slice k).leaveUnbound = false →
    ∃ t e, exec (.sliceResetDrainDone k) s = .next t ∧ (t.slice k).state = .active ∧ (t.slice k).gen = (s.slice k).gen
      ∧ (t.slice k).func = (s.slice k).func ∧ (t.slice k).tenant = (s.slice k).tenant
      ∧ (∀ x ∈ t.queue.queues, x.slice ≠ k.val) ∧ (∀ x ∈ t.queue.lace, x.1.1 ≠ k.val) ∧ t.queue.events = s.queue.events ++ [e]
      ∧ e.slice = 0 ∧ e.code = EventCode.sliceResetDone ∧ e.object = k.val ∧ e.info = (s.slice k).lastCause + (s.slice k).gen * 256
      ∧ (∀ j : Fin 512, j ≠ k → t.slice j = s.slice j))
  ∧ (∀ (k : Fin 512) (s : State), (s.slice k).state = .resetting → s.resetDrained k = true → (s.slice k).leaveUnbound = true →
    ∃ t, exec (.sliceResetDrainDone k) s = .next t ∧ (t.slice k).state = .unbound ∧ (t.slice k).gen = (s.slice k).gen)
  ∧ (∀ (f : Func) (k : Fin 512) (v : Word64) (s : State), s.bound k f = true →
    ∃ t, exec (.heartbeat f k v) s = .next t ∧ (t.slice k).heartbeat = v ∧ (t.slice k).armed = true
      ∧ (t.slice k).beatAt = s.time.now ∧ (t.slice k).state = (s.slice k).state
      ∧ (∀ j : Fin 512, j ≠ k → t.slice j = s.slice j) ∧ s.touches t [.slices])
  ∧ (∀ (f : Func) (k : Fin 512) (v : Word64) (s : State), s.bound k f = false → exec (.heartbeat f k v) s = .next s)
  ∧ (∀ (k : Fin 512) (s : State), (s.slice k).armed = true → s.passed (s.slice k).hbDeadline = true →
    exec (.heartbeatExpiry k) s = .next
      ((((s.modSlice k fun x => { x with armed := false }).raise
        { slice := 0, code := EventCode.heartbeatLost, object := k, detail := (s.slice k).beatAt }).resetSlice k 3 none false).settle))
  ∧ (∀ (f : Func) (s : State),
    s.inPause = false →
    exec (.flr f) s = .next
      ((((s.flrClears f).flrSlices f).foldl (fun s k => s.resetSlice k 4 none false) (s.flrClears f)).retryStalled).settle)
  ∧ (∀ (f : Func) (s : State), s.inPause = true →
    exec (.flr f) s = .next ({ s with last.held := s.last.held ++ [.flr f] } : State).settle)
  ∧ (∀ (f : Func) (s : State), (∀ e ∈ (s.flrClears f).xlate.pft, e.func ≠ f) ∧ s.touches (s.flrClears f) [.xlate, .host]
    ∧ (f.fn = 0 → ((s.flrClears f).hostPort f.port).vfEnable = false ∧ (∀ e ∈ (s.flrClears f).xlate.pft, e.func.port ≠ f.port)))

/-- R381, R383: slice 0 starts dirty-page logging, flushes it, freezes a bitmap, and stops it; a bitmap's word is read, gets its bits, and is
written.
R384 to R387: a slice freezes once its work has drained, its image is written to the buffer, a restored slice has the queues,
ends and regions of the image and is Frozen, and it thaws through RE_HOME. -/
def Obligations.DirtyLoggingAndMigration : Prop :=
  ((∀ (tag : Word32) (k : Fin 512) (iova pages b0 b1 n : Nat) (s : State), s.takesUp 0 tag MbxOp.dirtyStart → s.findLog k = none →
    iova % 4096 = 0 → bitmapBytes pages ≤ n →
    s.bitmapOk b0 (bitmapBytes pages) = true → s.bitmapOk b1 (bitmapBytes pages) = true →
    ∃ t d, exec (.dirtyStart 0 tag k iova pages b0 b1 n) s = .next t ∧ t.dirtyLogs = s.dirtyLogs ++ [d] ∧ d.slice = k.val
      ∧ d.base = iova ∧ d.pages = pages ∧ d.bitmap0 = b0 ∧ d.bitmap1 = b1 ∧ d.active = 0 ∧ d.recorded = []
      ∧ t.hasAnswer 0 tag Status.success [] ∧ s.touches t [.dirtyLogs, .mailboxes])
  ∧ (∀ (tag : Word32) (k : Fin 512) (iova pages b0 b1 n : Nat) (s : State), s.takesUp 0 tag MbxOp.dirtyStart →
    (s.findLog k).isSome = true →
    ∃ t, exec (.dirtyStart 0 tag k iova pages b0 b1 n) s = .next t ∧ t.hasAnswer 0 tag Status.busy [] ∧ s.touches t [.mailboxes])
  ∧ (∀ (tag : Word32) (k : Fin 512) (s : State) (d : DirtyLog), s.takesUp 0 tag MbxOp.dirtyStop → s.findLog k = some d →
    d.waiter = none →
    exec (.dirtyStop 0 tag k) s = .next (((((s.taken 0 tag MbxOp.dirtyStop).modLog k fun d =>
      { d with waiter := some (0, tag, true) }).flushLog k false).releaseLog).settle))
  ∧ (∀ (tag : Word32) (k : Fin 512) (s : State) (d : DirtyLog), s.takesUp 0 tag MbxOp.dirtySync → s.findLog k = some d →
    d.waiter = none →
    exec (.dirtySync 0 tag k) s = .next (((((s.taken 0 tag MbxOp.dirtySync).modLog k fun d =>
      { d with waiter := some (0, tag, false) }).flushLog k true).releaseLog).settle))
  ∧ (∀ (slice k : Fin 512) (tag : Word32) (s : State), slice ≠ 0 → s.takesUp slice tag MbxOp.dirtyStop →
    exec (.dirtyStop slice tag k) s = .next
      ((s.taken slice tag MbxOp.dirtyStop).respond (slice.val, tag) Status.localAccess []).settle)
  ∧ (∀ (s : State) (d : DirtyLog), s.dirtyLogs = [d] → d.waiter = none →
    (49152 ≤ s.logUsed ∨ s.due (d.lastFlush + 100000) = true) →
    exec .dirtyFlush s = .next ((s.flushLog d.slice false).releaseLog).settle)
  ∧ (∀ (s : State), s.dirtyLogs = [] → exec .dirtyFlush s = .next s.releaseLog.settle)
  ∧ (∀ (k n : Nat) (s u v : State) (d : DirtyLog) (w : BitmapWord) (b : List Byte) (r : AccOut), s.findLog k = some d →
    d.wordAt w.offset = some w → w.reading = true → u = s.modWord k w.offset (fun w => { w with reading := false }) →
    u.access (u.wordAccess k w (some (leBytes 8 (leNat b ||| w.bits)))) = (v, r) →
    s.bitmapEnded k w.offset (.done b) (n + 1) = v.bitmapEnded k w.offset r n))
  ∧ ((∀ (tag : Word32) (k : Fin 512) (s : State), s.takesUp 0 tag MbxOp.sliceFreeze → (s.slice k).state = .active →
    ∃ t, exec (.sliceFreeze 0 tag k) s = .next t ∧ (t.slice k).state = .freezing ∧ (t.slice k).freezer = some (0, tag)
      ∧ (t.slice k).gen = (s.slice k).gen ∧ (∀ j : Fin 512, j ≠ k → t.slice j = s.slice j) ∧ s.touches t [.slices, .mailboxes])
  ∧ (∀ (tag : Word32) (k : Fin 512) (s : State), (s.slice k).state = .freezing → s.frozenReady k = true →
    (s.slice k).freezer = some (0, tag) → ((s.mailbox 0).taken.any fun t => t.tag = tag) = true →
    ∃ t, exec (.freezeDrained k) s = .next t ∧ (t.slice k).state = .frozen ∧ t.hasAnswer 0 tag Status.success []
      ∧ (∀ j : Fin 512, j ≠ k → t.slice j = s.slice j) ∧ s.touches t [.slices, .mailboxes])
  ∧ (∀ (tag : Word32) (k : Fin 512) (n : Nat) (s : State), s.takesUp 0 tag MbxOp.sliceSave → (s.slice k).state = .frozen →
    (s.work.groups.any fun g => g.slice = k.val) = false → (s.xlate.eyelet.any fun e => e.slice = k.val) = false →
    (s.trans.conns.any fun c => c.slice = k.val && (c.sendSlot.isSome || c.recvSlot.isSome)) = false →
    s.imageSize k (s.imageOf k) ≤ n →
    ∃ t, exec (.sliceSave 0 tag k n true) s = .next t ∧ t.out = s.out ++ [.sliceImage k (s.sealedImage k)]
      ∧ (s.sealedImage k).crc = imageCrc (s.sealedImage k)
      ∧ (t.slice k).saved = true ∧ (t.slice k).state = .frozen
      ∧ t.hasAnswer 0 tag Status.success [s.imageSize k (s.imageOf k)] ∧ s.touches t [.out, .slices, .mailboxes])
  ∧ (∀ (tag : Word32) (k : Fin 512) (n : Nat) (ok : Bool) (s : State), s.takesUp 0 tag MbxOp.sliceSave →
    (s.slice k).state = .frozen → (s.work.groups.any fun g => g.slice = k.val) = false →
    (s.xlate.eyelet.any fun e => e.slice = k.val) = false →
    (s.trans.conns.any fun c => c.slice = k.val && (c.sendSlot.isSome || c.recvSlot.isSome)) = false →
    n < s.imageSize k (s.imageOf k) →
    ∃ t, exec (.sliceSave 0 tag k n ok) s = .next t ∧ t.hasAnswer 0 tag Status.noResources [s.imageSize k (s.imageOf k)]
      ∧ s.touches t [.mailboxes])
  ∧ (∀ (tag : Word32) (k : Fin 512) (i : SliceImage) (s : State), s.takesUp 0 tag MbxOp.sliceRestore → i.crc = imageCrc i →
    i.contractMajor = s.fld .gblContractMajor 0 → (s.slice k).state = .active → s.owns k = false → s.imageFits k i = true →
    exec (.sliceRestore 0 tag k (some i)) s = .next
      (((s.taken 0 tag MbxOp.sliceRestore).loadImage k i).answer 0 tag MbxOp.sliceRestore Status.success 0 []))
  ∧ (∀ (tag : Word32) (k : Fin 512) (i : SliceImage) (s : State), s.takesUp 0 tag MbxOp.sliceRestore →
    (s.slice k).state ≠ .resetting → i.crc ≠ imageCrc i →
    ∃ t, exec (.sliceRestore 0 tag k (some i)) s = .next t ∧ t.hasAnswer 0 tag Status.checkMismatch [] ∧ s.touches t [.mailboxes])
  ∧ (∀ (k : Fin 512) (i : SliceImage) (s : State),
    ((s.loadImage k i).slice k).state = .frozen ∧ ((s.loadImage k i).slice k).tenant = i.tenant
      ∧ ((s.loadImage k i).slice k).restored = true
      ∧ (i.queues.all (fun x => x.params.trafficClass ≠ 7) = true →
          (s.loadImage k i).queue.queues = s.queue.queues ++ i.queues.map (SavedQueue.load s k))
      ∧ (s.loadImage k i).queue.queues.map (·.number) = (s.queue.queues ++ i.queues.map (SavedQueue.load s k)).map (·.number)
      ∧ (∀ r ∈ i.regions, SavedRegion.load s k r ∈ (s.loadImage k i).xlate.ranges))
  ∧ (∀ (k : Nat) (s : State) (x : Queue), (x.state = .disabled ∨ x.state = .running ∨ x.state = .halted) →
    (SavedQueue.load s k x.save).number = x.number ∧ (SavedQueue.load s k x.save).kind = x.kind
      ∧ (SavedQueue.load s k x.save).state = x.state ∧ (SavedQueue.load s k x.save).head = x.head
      ∧ (SavedQueue.load s k x.save).doorbell = x.doorbell ∧ (SavedQueue.load s k x.save).logEntries = x.logEntries
      ∧ (SavedQueue.load s k x.save).ringOffset = x.ringOffset ∧ (SavedQueue.load s k x.save).cq = x.cq
      ∧ (SavedQueue.load s k x.save).lastStatus = x.lastStatus)
  ∧ (∀ (k : Nat) (s : State) (e : RangeEntry), s.segBase k ≤ e.slot → ∀ r, SavedRegion.load s k (RangeEntry.save (s.segBase k) e) = r →
    r.slot = e.slot ∧ r.start = e.start ∧ r.length = e.length ∧ r.key = e.key ∧ r.tier = e.tier
      ∧ r.incarnation = ((s.range k e.slot).map (·.incarnation)).getD 0 + 1
      ∧ r.perm = e.perm ∧ r.as = e.as ∧ r.state = if e.state = .revoking then .revoking else .active)
  ∧ (∀ (tag : Word32) (k : Fin 512) (s u : State), s.takesUp 0 tag MbxOp.sliceThaw →
    ((s.slice k).state = .frozen ∨ (s.slice k).state = .freezing) → (s.slice k).restored = false → (s.slice k).saved = false →
    (s.slice k).freezer = none →
    u = ((s.taken 0 tag MbxOp.sliceThaw).modSlice k fun x => { x with state := .active, freezer := none }).answer 0 tag
      MbxOp.sliceThaw Status.success 0 [0] →
    exec (.sliceThaw 0 tag k) s = .next ((u.trans.conns.filter fun c => c.slice = k.val).foldl (fun s c => s.kick c.index) u))
  ∧ (∀ (tag : Word32) (k : Fin 512) (s u : State) (mine : List Conn), s.takesUp 0 tag MbxOp.sliceThaw →
    (s.slice k).state = .frozen → (s.slice k).restored = true → (s.slice k).thawer = none →
    mine = (s.trans.conns.filter fun c => c.slice = k.val) →
    u = ((s.taken 0 tag MbxOp.sliceThaw).modSlice k fun x =>
      { x with thawer := some (0, tag), rehomed := mine.map (·.index), unanswered := 0 }) →
    exec (.sliceThaw 0 tag k) s = .next ((mine.foldl (fun s c => s.sendReHome k c) u).finishThaw k)))

/-! ## Host ports (chapter 16) -/

/-- R392 to R394, R405 to R410: what the links of the host ports do, and the enables of their functions. -/
def Obligations.HostLinks : Prop :=
  (∀ (p : Fin 2) (cause : Nat) (s : State), exec (.hostLinkEnd p cause) s = .next (s.endLink p cause).settle)
  ∧ (∀ (p : Fin 2) (cause : Nat) (s : State), (s.hostPort p).up = false →
    s.endLink p cause = s.modHost p fun h => { h with cfgReset := h.cfgReset || decide (cause = 2 ∨ cause = 3) })
  ∧ (∀ (p : Fin 2) (k : Fin 512) (s : State), (s.slice k).state ≠ .unbound → (s.slice k).port = p.val →
    k.val ∈ s.slicesOf p)
  ∧ (∀ (p : Fin 2) (s : State), (s.dropPortPaths p).xlate.caches = s.xlate.caches
    ∧ (∀ x ∈ (s.dropPortPaths p).xlate.dirty, ∀ d ∈ x.2, d.port ≠ p.val)
    ∧ (∀ e ∈ (s.dropPortPaths p).xlate.ranges, e.state = .revoking → e.tier.port = some p.val → e.inFlight = 0)
    ∧ (∀ x ∈ (s.dropPortPaths p).queue.queues, ∀ d ∈ x.started, ∀ y ∈ d.paths, y.port ≠ p.val)
    ∧ (∀ r ∈ (s.dropPortPaths p).queue.records, (∃ x ∈ s.xlate.dirty, x.1 = r.2.slice ∧ ∃ d ∈ x.2, d.port = p.val) →
        r.2.status ≠ Status.success)
    ∧ s.touches (s.dropPortPaths p) [.xlate, .queue, .trans, .regs])
  ∧ (∀ (p : Fin 2) (s : State), (s.slice 0).port = p.val → (s.hostPort (1 - p.val)).up = true →
    ((s.moveZero p).slice 0).func = ⟨Fin.ofNat 2 (1 - p.val), 0⟩ ∧ ((s.moveZero p).slice 0).pasid = none
      ∧ (∀ j : Fin 512, j ≠ 0 → (s.moveZero p).slice j = s.slice j) ∧ s.touches (s.moveZero p) [.slices])
  ∧ (∀ (p : Fin 2) (sp w : Nat) (s : State), (s.hostPort p).up = true →
    ∃ t, exec (.hostLinkRetrain p sp w) s = .next t ∧ (t.hostPort p).up = true ∧ (t.hostPort p).speed = sp
      ∧ (t.hostPort p).width = w ∧ (t.hostPort p).unacked = (s.hostPort p).unacked
      ∧ t.fld .gblHostStatusRetrains p = min (s.fld .gblHostStatusRetrains p + 1) 65535 ∧ s.touches t [.host, .regs])
  ∧ (∀ (p : Fin 2) (sp w : Nat) (flit : Bool) (s : State), (s.hostPort p).up = false → (s.hostPort p).lastDown ≠ 4 →
    s.board.resetN = true →
    ∃ t e, exec (.hostLinkReturn p sp w flit) s = .next t ∧ (t.hostPort p).up = true
      ∧ (t.hostPort p).cfgReset = false
      ∧ ((s.hostPort p).cfgReset = false → (t.hostPort p).pfState = (s.hostPort p).pfState ∧ (t.hostPort p).vfs = (s.hostPort p).vfs
          ∧ (t.hostPort p).vfEnable = (s.hostPort p).vfEnable)
      ∧ ((s.hostPort p).cfgReset = true → (t.hostPort p).pfState = {} ∧ (t.hostPort p).vfs = [] ∧ (t.hostPort p).vfEnable = false
          ∧ (t.hostPort p).numVfs = 0 ∧ (t.hostPort p).maxRead = 512 ∧ (t.hostPort p).maxPayload = 128)
      ∧ t.queue.events = s.queue.events ++ [e] ∧ e.slice = 0 ∧ e.code = EventCode.hostLink ∧ e.object = p.val
      ∧ e.info = 1 + (s.hostPort p).lastDown * 256 ∧ s.touches t [.host, .queue])
  ∧ (∀ (f : Func) (s : State), s.xlate.waiting = [] → s.trans.heldArrivals = [] → s.trans.ended = [] → s.work.services = [] →
    s.xlate.eyeletBusy = [] → s.mem.infWaits = [] →
    ∃ t, exec (.busMasterDisable f) s = .next t ∧ (t.funcState f).bme = false ∧ t.slices = s.slices
      ∧ s.touches t [.host])
  ∧ (∀ (p : Fin 2) (n : Nat) (on : Bool) (s : State),
    ∃ t, exec (.vfEnableChange p on n) s = .next t ∧ (t.hostPort p).vfEnable = on ∧ (t.hostPort p).numVfs = min 255 n
      ∧ (t.hostPort p).pfState = (s.hostPort p).pfState ∧ t.slices = s.slices ∧ s.touches t [.host])
  ∧ (∀ (f : Func) (n : Nat) (s : State), 
    exec (.atomicopRequest f n) s = .next { s.aerNote f aerUnsupported with out := s.out ++ [.cplAtomic f n] }
      ∧ ((s.aerNote f aerUnsupported).funcState f).aerUncor.getLsbD aerUnsupported = true)
  ∧ (∀ (p : Fin 2) (k : Fin 4) (s : State) (x : IdeStream), vget (s.hostPort p).ide k {} = x → x.state = 1 →
    x.covers 0xFFFF = true → s.fld .gblHostIdeCtrlRequired p = 1 →
    exec (.ideIntegrityFail p k) s = .next
      ((((s.modHost p fun h => { h with ide := vset h.ide k { x with state := 2 } }).aerNote ⟨p, 0⟩ aerIdeFail).endLink p 4).settle))
  ∧ (∀ (p : Fin 2) (k : Fin 4) (s : State) (x : IdeStream), vget (s.hostPort p).ide k {} = x → x.state = 1 →
    x.covers 0xFFFF = true → s.fld .gblHostIdeCtrlRequired p ≠ 1 →
    ∃ t, exec (.ideIntegrityFail p k) s = .next t ∧ (vget (t.hostPort p).ide k {}).state = 2 ∧ s.touches t [.host])

/-! ## Keys (chapter 17) -/

/-- R413 to R420, R423, R424: slots are read, erased, provisioned, imported and derived; the Guard Cipher Engines work their queue
one block at a time; the DRBG stops and is tested again. -/
def Obligations.KeysAreLoadedAndErased : Prop :=
  (∀ (slice : Fin 512) (tag : Word32) (k : KeyTarget) (s : State), s.takesUp slice tag MbxOp.keyInfo → s.slotOk slice k = true →
    ∃ t n, exec (.keyInfo slice tag k) s = .next t
      ∧ t.hasAnswer slice tag Status.success [(s.slotNow slice k).kind, (s.slotNow slice k).state.code,
          (s.slotNow slice k).keyId.toNat, (s.slotNow slice k).next, n]
      ∧ (k.kind ≠ 0 → n = s.endsNaming slice k.slot) ∧ s.touches t [.mailboxes])
  ∧ (∀ (slice owner : Fin 512) (tag : Word32) (k : KeyTarget) (s : State), s.takesUp slice tag MbxOp.keyErase →
    (slice = 0 ∨ owner = slice) → s.slotOk owner k = true → (k.kind ≠ 0 → s.endsNaming owner k.slot = 0) →
    (k.kind = 0 → (s.keys.guardJobs.any fun j => j.slice = owner.val && j.parent = k.slot) = false) →
    ∃ t, exec (.keyErase slice tag owner k) s = .next t ∧ (t.slotNow owner k).state = .empty ∧ (t.slotNow owner k).key = 0
      ∧ (t.slotNow owner k).salt = 0 ∧ (t.slotNow owner k).next = 0 ∧ t.hasAnswer slice tag Status.success []
      ∧ (k.kind ≠ 0 → ∀ l ∈ t.keys.engines.toList, ∀ x ∈ l, x.slice ≠ owner.val ∨ x.slot ≠ k.slot)
      ∧ s.touches t [.keys, .mailboxes])
  ∧ (∀ (slice owner : Fin 512) (tag : Word32) (k : KeyTarget) (s : State), s.takesUp slice tag MbxOp.keyErase →
    (slice = 0 ∨ owner = slice) → s.slotOk owner k = true → k.kind ≠ 0 → s.endsNaming owner k.slot ≠ 0 →
    ∃ t, exec (.keyErase slice tag owner k) s = .next t ∧ t.hasAnswer slice tag Status.busy [] ∧ s.touches t [.mailboxes])
  ∧ (∀ (slice : Fin 512) (tag : Word32) (parent : Nat) (k : KeyTarget) (b : List Byte) (s : State),
    s.takesUp slice tag MbxOp.keyImport → s.slotOk slice k = true → s.slotOk slice ⟨0, parent, 0⟩ = true →
    s.parentOk slice parent = true → (s.slotNow slice k).state = .empty → s.guardsUp ≠ [] →
    exec (.keyImport slice tag parent k b) s = .next
      ((s.taken slice tag MbxOp.keyImport).guardBegin slice tag parent k.kind k.slot (.unwrap b)))
  ∧ (∀ (slice : Fin 512) (tag : Word32) (parent : Nat) (k : KeyTarget) (l c : BitVec 256) (kid : Word32) (s : State),
    s.takesUp slice tag MbxOp.keyDerive → s.slotOk slice k = true → s.slotOk slice ⟨0, parent, 0⟩ = true →
    s.parentOk slice parent = true → (s.slotNow slice k).state = .empty → s.guardsUp ≠ [] →
    exec (.keyDerive slice tag parent k l c kid) s = .next
      ((s.taken slice tag MbxOp.keyDerive).guardBegin slice tag parent k.kind k.slot (.derive l c kid)))
  ∧ (∀ (slice : Fin 512) (tag : Word32) (parent : Nat) (k : KeyTarget) (b : List Byte) (s : State),
    s.takesUp slice tag MbxOp.keyImport → s.slotOk slice k = true → s.slotOk slice ⟨0, parent, 0⟩ = true →
    s.parentOk slice parent = false →
    ∃ t, exec (.keyImport slice tag parent k b) s = .next t ∧ t.hasAnswer slice tag Status.localAccess [] ∧ s.touches t [.mailboxes])
  ∧ (∀ (slice : Fin 512) (tag : Word32) (parent : Nat) (k : KeyTarget) (b : List Byte) (s : State),
    s.takesUp slice tag MbxOp.keyImport → (k.rsvd ≠ 0 ∨ 2 < k.kind) →
    ∃ t, exec (.keyImport slice tag parent k b) s = .next t ∧ t.hasAnswer slice tag Status.descMalformed [] ∧ s.touches t [.mailboxes])
  ∧ (∀ (slice parent kind slot : Nat) (tag : Word32) (w : GuardWork) (s : State) (j : GuardJob),
    (∀ x ∈ s.keys.guardJobs, x.queued = true ∧ x.id < s.keys.guardNext) → guardAdmits s.keys.guardQueue 0 = true →
    j = { id := s.keys.guardNext, slice := slice, tag := tag, parent := parent, kind := kind, slot := slot, work := w, left := w.blocks kind } →
    s.guardBegin slice tag parent kind slot w =
      { s with keys.guardNext := s.keys.guardNext + 1, keys.guardJobs := s.keys.guardJobs ++ [{ j with queued := true }],
               keys.guardQueue := s.keys.guardQueue ++ [s.guardEntry j] })
  ∧ (∀ (s : State) (core : Nat), s.keys.guardQueue.length ≤ 64 → (s.keys.guardQueue.filter fun e => e.core = core).length ≤ 16 →
    (s.keys.guardQueue.filter fun e => e.core ≠ 0).length ≤ 48 →
    s.feedGuard.keys.guardQueue.length ≤ 64 ∧ (s.feedGuard.keys.guardQueue.filter fun e => e.core = core).length ≤ 16
      ∧ (s.feedGuard.keys.guardQueue.filter fun e => e.core ≠ 0).length ≤ 48 ∧ s.keys.guardQueue <+: s.feedGuard.keys.guardQueue
      ∧ s.feedGuard.keys.slots = s.keys.slots ∧ s.touches s.feedGuard [.keys])
  ∧ (∀ (e : Fin 4) (s : State) (g : GuardEntry) (rest : List GuardEntry) (j : GuardJob), s.keys.guardQueue = g :: rest →
    s.keys.guardJobs.find? (fun x => x.id = g.job) = some j →
    s.keys.guardOut.getLsbD e = false → s.keys.drbgHalted = false → 1 < j.left →
    exec (.guardCipherOp e false) s = .next ({ s with keys.guardQueue := rest, keys.guardJobs :=
      (s.keys.guardJobs.filter fun x => x.id ≠ g.job) ++ [{ j with left := j.left - 1, queued := false }] } : State).feedGuard)
  ∧ (∀ (e : Fin 4) (s : State) (g : GuardEntry) (rest : List GuardEntry) (j : GuardJob), s.keys.guardQueue = g :: rest →
    s.keys.guardJobs.find? (fun x => x.id = g.job) = some j →
    s.keys.guardOut.getLsbD e = false → s.keys.drbgHalted = false → j.left ≤ 1 →
    exec (.guardCipherOp e false) s = .next ((({ s with keys.guardQueue := rest, keys.guardJobs :=
      (s.keys.guardJobs.filter fun x => x.id ≠ g.job) } : State).feedGuard).guardDone j))
  ∧ (∀ (s : State) (j : GuardJob) (p n slot : Nat) (r : SpdmReq) (owner : Fin 512) (kid : Word32) (key : BitVec 256),
    (j.work = .message p n r → s.guardDone j = s.spdmServe p n r)
    ∧ (j.work = .provision p n owner slot kid key → s.guardDone j = s.provision p n owner slot kid key))
  ∧ (∀ (s : State) (j : GuardJob) (p : KeySlot) (key : BitVec 256) (salt kid : Word32),
    s.keySlot j.slice j.parent true = some p → j.work.result j.kind p.key = .ok (key, salt, kid) →
    (s.slotNow j.slice ⟨j.kind, j.slot, 0⟩).state = .empty → s.keyIdTaken j.kind kid = false →
    s.guardDone j = (s.loadSlot j.slice j.kind j.slot key salt kid).respond (j.slice, j.tag) Status.success [])
  ∧ (∀ (s : State) (j : GuardJob) (p : KeySlot) (c : Status) (b : List Byte), j.work = .unwrap b →
    s.keySlot j.slice j.parent true = some p → j.work.result j.kind p.key = .error c →
    s.guardDone j = s.respond (j.slice, j.tag) c [])
  ∧ (∀ (e : Fin 4) (s : State) (g : GuardEntry) (rest : List GuardEntry) (j : GuardJob), s.keys.guardQueue = g :: rest →
    s.keys.guardJobs.find? (fun x => x.id = g.job) = some j →
    s.keys.guardOut.getLsbD e = false → s.keys.drbgHalted = false →
    ∃ t ev, exec (.guardCipherOp e true) s = .next t ∧ t.keys.guardOut.getLsbD e = true ∧ t.keys.slots = s.keys.slots
      ∧ t.queue.events = s.queue.events ++ [ev] ∧ ev.slice = 0 ∧ ev.code = EventCode.cipherOut ∧ ev.object = e.val
      ∧ s.touches t [.keys, .regs, .queue, .mailboxes, .out])
  ∧ (∀ (s : State) (slice kind slot : Nat) (key : BitVec 256) (salt kid : Word32), ∃ x,
    (s.loadSlot slice kind slot key salt kid).keySlot slice slot (kind = 0) = some x ∧ x.state = .loaded ∧ x.kind = kind
      ∧ x.key = key ∧ x.keyId = kid ∧ x.next = 0 ∧ (kind ≠ 0 → x.salt = salt))
  ∧ (∀ (s : State), s.keys.drbgHalted = false →
    ∃ t e, exec .drbgHealthFail s = .next t ∧ t.keys.drbgHalted = true ∧ t.queue.events = s.queue.events ++ [e] ∧ e.slice = 0
      ∧ e.code = EventCode.drbgHalt ∧ e.info = 1 ∧ s.touches t [.keys, .queue])
  ∧ (∀ (s : State), s.keys.drbgHalted = true → s.due s.keys.drbgNext = true →
    (∃ t e, exec (.drbgRetest true) s = .next (((t.work.groups.filter (·.endsDue)).foldl
        (fun s g => (s.openGroupEnds g.handle).groupReady g.handle) t).settle)
      ∧ t.keys.drbgHalted = false ∧ t.queue.events = s.queue.events ++ [e]
      ∧ e.slice = 0 ∧ e.code = EventCode.drbgHalt ∧ e.info = 0 ∧ s.touches t [.keys, .queue])
    ∧ ∃ t, exec (.drbgRetest false) s = .next t ∧ t.keys.drbgHalted = true ∧ s.touches t [.keys])
  ∧ (∀ (p : Fin 2) (n : Nat) (owner : Fin 512) (slot : Nat) (kid : Word32) (key : BitVec 256) (s : State),
    s.inSession p n = true → s.guardsUp ≠ [] →
    exec (.keyProvision p n owner slot kid key) s = .next (s.guardBegin 512 0 0 0 0 (.provision p n owner slot kid key)))
  ∧ (∀ (p : Fin 2) (n : Nat) (owner : Fin 512) (slot : Nat) (kid : Word32) (key : BitVec 256) (s : State),
    s.inSession p n = false → ∃ t c, exec (.keyProvision p n owner slot kid key) s = .next t
      ∧ t.out = s.out ++ [.spdm p n (.error c 0)] ∧ s.touches t [.out, .free])
  ∧ (∀ (p n : Nat) (owner : Fin 512) (slot : Nat) (kid : Word32) (key : BitVec 256) (s : State),
    (s.provisionOk p n owner slot = true → s.provision p n owner slot kid key =
      { s.loadSlot owner 0 slot key 0 kid with out := s.out ++ [.spdm p n (.answer [])] })
    ∧ (s.provisionOk p n owner slot = false → ∃ c, (s.provision p n owner slot kid key).out = s.out ++ [.spdm p n (.error c 0)]
      ∧ s.touches (s.provision p n owner slot kid key) [.out, .free]))

/-! ## Identity (chapter 19) -/

/-- R452, R454 to R461: owner banks fill in order; a bottom tree is certified with the next top index, or reports are refused; an identity
signature has the parts and the length of R454; a report uses the next bottom index, at most 8 a second; the responder answers what it
supports. -/
def Obligations.IdentityAnswers : Prop :=
  (∀ (tag : Word32) (e h n : List Byte) (s : State), s.takesUp 0 tag MbxOp.ownerEnroll →
    s.transferReason (Sha.sha384 e) (Sha.sha384 h) n = 0 → s.boot.ownerDigests.length < 4 → s.emergency = false →
    ∃ t, exec (.ownerEnroll 0 tag e h n) s = .next t
      ∧ t.boot = { s.boot with ownerDigests := s.boot.ownerDigests ++ [(Sha.sha384 e, Sha.sha384 h)] }
      ∧ t.hasAnswer 0 tag Status.success [s.boot.ownerDigests.length + 1] ∧ s.touches t [.boot, .mailboxes])
  ∧ (∀ (s : State) (e h : BitVec 384) (n : List Byte), s.boot.ownerDigests = [] → s.transferReason e h n = 0)
  ∧ (∀ (slice : Fin 512) (tag : Word32) (e h n : List Byte) (s : State), s.takesUp slice tag MbxOp.ownerEnroll → slice ≠ 0 →
    ∃ t, exec (.ownerEnroll slice tag e h n) s = .next t ∧ t.hasAnswer slice tag Status.localAccess [] ∧ s.touches t [.mailboxes])
  ∧ (∀ (tag : Word32) (e h n : List Byte) (s : State), s.takesUp 0 tag MbxOp.ownerEnroll → s.boot.ownerDigests.length < 4 →
    s.emergency = false → s.transferReason (Sha.sha384 e) (Sha.sha384 h) n ≠ 0 →
    ∃ t, exec (.ownerEnroll 0 tag e h n) s = .next t ∧ t.boot.ownerDigests = s.boot.ownerDigests
      ∧ t.hasAnswer 0 tag Status.authFail [] ∧ s.touches t [.boot, .mailboxes])
  ∧ (∀ (tag : Word32) (e h n : List Byte) (s : State), s.takesUp 0 tag MbxOp.ownerEnroll → 4 ≤ s.boot.ownerDigests.length →
    ∃ t, exec (.ownerEnroll 0 tag e h n) s = .next t ∧ t.hasAnswer 0 tag Status.noResources [] ∧ s.touches t [.mailboxes])
  ∧ (∀ (s : State), s.boot.generating = true → s.fw.resetting = false → s.keys.drbgHalted = false → s.boot.topNext < 1048576 →
    ∃ t, exec .lmsTreeReady s = .next t ∧ t.boot.generating = false ∧ t.freeCount = s.freeCount + 1 ∧ s.touches t [.boot, .free]
      ∧ ((t.boot.topNext = s.boot.topNext + 1 ∧ t.boot.bottomReady = true ∧ t.boot.bottomUsed = 0)
        ∨ (t.boot.topNext = s.boot.topNext ∧ t.boot.bottomReady = s.boot.bottomReady ∧ t.boot.lmsStuck = true
          ∧ t.boot.refused = true)))
  ∧ (∀ (s : State), (s.boot.topNext < 1048576 → s.boot.lmsStuck = false → s.nextTree = { s with boot.generating := true })
    ∧ ((1048576 ≤ s.boot.topNext ∨ s.boot.lmsStuck = true) → s.nextTree = { s with boot.refused := true }))
  ∧ (∀ (k : BitVec 384) (top used : Nat) (b : List Byte), (hssSignature k top used b).length = 5396
    ∧ (hssSignature k top used b).take 4 = [0, 0, 0, 1]
    ∧ ((hssSignature k top used b).drop 2832).take 56 = (Config.bottomKey k top).toList)
  ∧ (∀ (p : Fin 2) (nonce : BitVec 256) (mask : Word16) (s : State), s.boot.bottomReady = true → s.boot.bottomUsed < 1023 →
    (s.boot.reports.filter fun t => s.time.now < t + 1000000000).length < 8 →
    ∃ t b, exec (.attestationReport p nonce mask) s = .next t ∧ t.boot.bottomUsed = s.boot.bottomUsed + 1
      ∧ t.boot.bottomReady = true ∧ t.boot.topNext = s.boot.topNext
      ∧ b = Config.reportBody s.coord.toNat nonce.toNat (s.measurements mask.toNat) s.time.now (s.boot.topNext - 1) s.boot.bottomUsed
      ∧ t.out = s.out ++ [.spdm p 0 (.report s.coord Config.moduleSerial nonce (s.measurements mask.toNat) s.time.now
          (s.boot.topNext - 1) s.boot.bottomUsed (Config.ecdsaSign s.keys.deviceSecret (Sha.sha384 b).toNat s.freeNow)
          (hssSignature s.keys.deviceSecret (s.boot.topNext - 1) s.boot.bottomUsed b))] ∧ s.touches t [.boot, .out, .free])
  ∧ (∀ (p : Fin 2) (nonce : BitVec 256) (mask : Word16) (s : State), s.boot.bottomReady = true → s.boot.bottomUsed = 1023 →
    (s.boot.reports.filter fun t => s.time.now < t + 1000000000).length < 8 → s.boot.topNext < 1048576 →
    s.boot.lmsStuck = false →
    ∃ t, exec (.attestationReport p nonce mask) s = .next t ∧ t.boot.bottomUsed = 1024 ∧ t.boot.bottomReady = false
      ∧ t.boot.generating = true ∧ s.touches t [.boot, .out, .free])
  ∧ (∀ (p : Fin 2) (nonce : BitVec 256) (mask : Word16) (s : State), s.boot.bottomReady = true →
    8 ≤ (s.boot.reports.filter fun t => s.time.now < t + 1000000000).length →
    ∃ t c, exec (.attestationReport p nonce mask) s = .next t ∧ t.out = s.out ++ [.spdm p 0 (.error c 0)] ∧ c = spdmBusy
      ∧ s.touches t [.out])
  ∧ (∀ (p : Fin 2) (nonce : BitVec 256) (mask : Word16) (s : State), s.boot.bottomReady = false → s.boot.generating = true →
    ∃ t c, exec (.attestationReport p nonce mask) s = .next t ∧ t.out = s.out ++ [.spdm p 0 (.error c 21)] ∧ c = spdmNotReady
      ∧ s.touches t [.out])
  ∧ (∀ (p : Fin 2) (nonce : BitVec 256) (mask : Word16) (s : State), s.boot.bottomReady = false → s.boot.generating = false →
    ∃ t c, exec (.attestationReport p nonce mask) s = .next t ∧ t.boot = { s.boot with refused := true }
      ∧ t.out = s.out ++ [.spdm p 0 (.error c 0)] ∧ c = spdmUnspecified ∧ s.touches t [.boot, .out])
  ∧ (∀ (p : Fin 2) (n : Nat) (r : SpdmReq) (s : State), s.inSession p n = false →
    exec (.spdmRequest p n r) s = .next (s.spdmServe p n r))
  ∧ (∀ (p : Fin 2) (n : Nat) (r : SpdmReq) (s : State), s.inSession p n = true →
    (s.guardsUp ≠ [] → exec (.spdmRequest p n r) s = .next (s.guardBegin 512 0 0 0 0 (.message p n r)))
    ∧ (s.guardsUp = [] →
      exec (.spdmRequest p n r) s = .next { s with out := s.out ++ [.spdm p n (.error spdmUnspecified 0)] }))
  ∧ (∀ (p n c : Nat) (s : State),
    s.spdmServe p n (.unsupported c) = { s with out := s.out ++ [.spdm p n (.error spdmUnsupported 0)] })
  ∧ (∀ (p n : Nat) (mask : Word16) (s : State),
    s.spdmServe p n (.getMeasurements mask) =
      { s with out := s.out ++ [.spdm p n (.answer ((s.measurements mask.toNat).flatMap fun x => x.1 :: x.2))] })
  ∧ (∀ (p n : Nat) (r : SpdmReq) (s : State),
    r ∈ [.heartbeat, .keyUpdate, .chunkSend, .chunkGet, .vendorOther] →
    s.spdmServe p n r = { s with out := s.out ++ [.spdm p n (.answer [])] })
  ∧ (∀ (p n : Nat) (s : State), s.spdmServe p n .negotiateAlgorithms = { s with out := s.out ++
      [.spdm p n (.algorithms [.ecdsaP384, .sha384, .dheSecp384r1, .aeadAes256Gcm, .measurementSha384])] })
  ∧ (∀ (p n : Nat) (s : State), ∃ sig t, s.spdmServe p n .challenge = t
    ∧ t.out = s.out ++ [.spdm p n (.signed [(Sha.sha384 s.certChain).toNat] sig)] ∧ s.touches t [.out, .free])
  ∧ (∀ (p n : Nat) (s : State),
    s.spdmServe p n .getVersion = { s with out := s.out ++ [.spdm p n (.answer [1, 3])] }
      ∧ s.spdmServe p n .getCapabilities = { s with out := s.out ++ [.spdm p n (.answer [4096, 65536])] })
  ∧ (∀ (p n : Nat) (s : State),
    s.spdmServe p n .getCertificate =
      { s with out := s.out ++ [.spdm p n (.answer (s.certChain.map (·.toNat)))] })
  ∧ (∀ (p n : Nat) (s : State),
    s.spdmServe p n .getDigests =
      { s with out := s.out ++ [.spdm p n (.answer [(Sha.sha384 s.certChain).toNat])] })
  ∧ (∀ (p n : Nat) (s : State), (s.sessionsOf p).length < 4 →
    (s.boot.sessions.any fun x => x.port = p && x.session = n) = false →
    ∃ t sig, s.spdmServe p n .keyExchange = t
      ∧ t.boot.sessions = s.boot.sessions ++ [{ port := p, session := n }] ∧ t.out = s.out ++ [.spdm p n (.signed [] sig)]
      ∧ s.touches t [.boot, .out, .free])
  ∧ (∀ (p n : Nat) (s : State), 4 ≤ (s.sessionsOf p).length →
    s.spdmServe p n .keyExchange = { s with out := s.out ++ [.spdm p n (.error spdmSessionLimit 0)] })
  ∧ (∀ (p n : Nat) (root : Option (BitVec 384)) (s : State) (x : Session), x ∈ s.boot.sessions → x.port = p →
    x.session = n → ∃ t, s.spdmServe p n (.finish root) = t
      ∧ ({ x with established := true, root := root } : Session) ∈ t.boot.sessions ∧ s.touches t [.boot, .out])
  ∧ (∀ (p n : Nat) (s : State),
    ∃ t, s.spdmServe p n .endSession = t ∧ (∀ x ∈ t.boot.sessions, x.port ≠ p ∨ x.session ≠ n)
      ∧ s.touches t [.boot, .out])
  ∧ (∀ (p : Fin 2) (n : Nat) (k : Fin 4) (rids : Nat × Nat) (ranges : List (Nat × Nat)) (key : List Byte) (s : State),
    (s.boot.sessions.any fun x => x.port = p.val && x.session = n && x.established) = true → (s.hostPort p).up = true →
    ∃ t, s.spdmServe p n (.ideKm k rids ranges key) = t
      ∧ vget (t.hostPort p).ide k {} = { state := 1, rids := rids, ranges := ranges, key := key }
      ∧ (t.hostPort p).up = true ∧ s.touches t [.host, .out])

/-! ## Mailboxes (chapter 20) -/

/-- R465 to R471: the checks of a request in their order, its Crc among them; when a command is taken up; the doorbell, the enable and the
writing of a response, its bytes, and the message that follows it after 2 µs. -/
def Obligations.MailboxesWork : Prop :=
  (∀ (k : Nat) (r : MbxRequest) (s : State),
    ((r.major ≠ 1 ∧ r.major ≠ 2) ∨ (r.major = 2 ∧ r.minor ≠ 0) → s.requestFault k r = some (Status.descUnsupportedOp, 0, 2))
    ∧ (r.major = 1 ∨ (r.major = 2 ∧ r.minor = 0) →
      ((496 < r.length ∨ requestCrcOk r = false) → s.requestFault k r = some (Status.descMalformed, 1, r.major))
      ∧ (r.length ≤ 496 → requestCrcOk r = true →
        (r.major = 2 → r.slice ≠ k → s.requestFault k r = some (Status.localAccess, 0, r.major))
        ∧ ((r.major = 1 ∨ r.slice = k) →
          (mbxOpcodes.contains r.opcode = false → s.requestFault k r = some (Status.descUnsupportedOp, 0, r.major))
          ∧ (mbxOpcodes.contains r.opcode = true →
            (8 ≤ (s.mailbox k).outstanding none → s.requestFault k r = some (Status.busy, 0, r.major))
            ∧ ((s.mailbox k).outstanding none < 8 →
              (s.last.inForce = none → 0x30 ≤ r.opcode → s.requestFault k r = some (Status.noResources, 0, r.major))
              ∧ ((s.last.inForce ≠ none ∨ r.opcode < 0x30) → s.requestFault k r = none)))))))
  ∧ (∀ (k : Nat) (r : MbxRequest) (s : State), s.requestFault k r = none →
    ((s.takeOne k r).mailbox k).taken = (s.mailbox k).taken ++ [{ tag := r.tag, major := r.major, opcode := r.opcode }]
      ∧ ((s.takeOne k r).mailbox k).consumed = (s.mailbox k).consumed + 1 ∧ s.touches (s.takeOne k r) [.mailboxes])
  ∧ (∀ (k : Nat) (r : MbxRequest) (s : State) (c : Status) (d m : Nat), s.requestFault k r = some (c, d, m) →
    ∃ x, ((s.takeOne k r).mailbox k).ready = (s.mailbox k).ready ++ [x] ∧ x.status = c ∧ x.detail = d ∧ x.major = m ∧ x.tag = r.tag
      ∧ ((s.takeOne k r).mailbox k).taken = (s.mailbox k).taken ∧ s.touches (s.takeOne k r) [.mailboxes, .regs])
  ∧ (∀ (k op : Nat) (tag : Word32) (s : State), (s.slice k).state = .active → s.fwAway = false → s.inPause = false →
    s.serving = true → (s.mailbox k).outstanding (some tag) < 8 → (s.last.inForce ≠ none ∨ op < 0x30) → s.takesUp k tag op)
  ∧ (∀ (k op : Nat) (tag : Word32) (s : State), s.takesUp k tag op →
    s.touches (s.taken k tag op) [.mailboxes] ∧ ((s.taken k tag op).mailbox k).ready = (s.mailbox k).ready
      ∧ (∀ j, j ≠ k → (s.taken k tag op).mailbox j = s.mailbox j))
  ∧ (∀ (k op : Nat) (tag : Word32) (s : State), (s.slice k).state = .resetting → s.fwAway = false → s.inPause = false →
    s.serving = true → (s.take k tag op).2 = false ∧ (s.take k tag op).1.hasAnswer k tag Status.busy [])
  ∧ (∀ (f : Func) (k : Fin 512) (count : Word32) (reqs : List MbxRequest) (s : State), s.bound k f = true →
    s.fld .slcMbxCtrlEnable k ≠ 0 → (s.mailbox k).fault = false → s.ringsBlocked k = false → (s.mailbox k).intake = [] →
    s.inPause = false →
    exec (.mbxDoorbell f k count true reqs) s = .next
      (((s.modMailbox k fun m => { m with intake := reqs.take (count - (s.mailbox k).consumed).toNat }).intake k).serveBehind))
  ∧ (∀ (k : Nat) (s : State), s.mbxHeld = false → s.last.held = [] → s.intake k =
      ((s.mailbox k).intake.foldl (fun s r => s.takeOne k r) s).modMailbox k (fun m => { m with intake := [] }))
  ∧ (∀ (f : Func) (k : Fin 512) (count : Word32) (reqs : List MbxRequest) (s : State), s.bound k f = true →
    s.fld .slcMbxCtrlEnable k ≠ 0 → (s.mailbox k).fault = false →
    ∃ t, exec (.mbxDoorbell f k count false reqs) s = .next t ∧ (t.mailbox k).fault = true ∧ (t.mailbox k).ready = (s.mailbox k).ready
      ∧ s.touches t [.mailboxes])
  ∧ (∀ (f : Func) (k : Fin 512) (v : Word32) (s : State), s.bound k f = true → s.fld .slcMbxCtrlEnable k = 0 → v.getLsbD 0 = true →
    ∃ t, exec (.mbxEnable f k v) s = .next t ∧ t.fld .slcMbxCtrlEnable k = 1 ∧ (t.mailbox k).consumed = 0
      ∧ (t.mailbox k).produced = 0 ∧ (t.mailbox k).fault = false ∧ (t.mailbox k).taken = (s.mailbox k).taken
      ∧ (t.mailbox k).ready = (s.mailbox k).ready ∧ s.touches t [.regs, .mailboxes])
  ∧ (∀ (f : Func) (k : Fin 512) (v : Word32) (s : State), s.bound k f = true → v.getLsbD 0 = false →
    ∃ t, exec (.mbxEnable f k v) s = .next t ∧ t.fld .slcMbxCtrlEnable k = 0 ∧ (t.mailbox k).intake = []
      ∧ (t.mailbox k).consumed = (s.mailbox k).consumed ∧ (t.mailbox k).taken = (s.mailbox k).taken ∧ s.touches t [.regs, .mailboxes])
  ∧ (∀ (k : Fin 512) (s : State) (r : MbxResp) (rest : List MbxResp), (s.mailbox k).ready = r :: rest → (s.mailbox k).fault = false →
    s.fwAway = false → (s.mailbox k).writing = none → s.ringsBlocked k = false →
    exec (.mbxResponse k true) s = .next (s.writeResponse k r rest).serveBehind)
  ∧ (∀ (s : State), s.last.held = [] → s.serveBehind = s)
  ∧ (∀ (k : Fin 512) (s : State) (r : MbxResp) (rest : List MbxResp), (s.mailbox k).ready = r :: rest → (s.mailbox k).fault = false →
    s.fwAway = false → (s.mailbox k).writing = none →
    ∃ t, exec (.mbxResponse k false) s = .next t ∧ (t.mailbox k).fault = true ∧ s.touches t [.mailboxes])
  ∧ (∀ (k : Fin 512) (s : State) (r : MbxResp), (s.mailbox k).writing = some r → s.fld .slcMbxCtrlIntEnable k = 0 →
    s.ringsBlocked k = false → s.logFull k [s.respSlot k / 4096 * 4096] = false → s.postedFull (s.slice k).port 512 = false →
    (s.respWritten k).out = s.out ++ [.mailbox r (respImage (s.respOwn k) r)] ∧ ((s.respWritten k).mailbox k).writing = none
      ∧ ((s.respWritten k).mailbox k).produced = (s.mailbox k).produced + 1
      ∧ s.touches (s.respWritten k) [.out, .mailboxes, .dirtyLogs, .xlate, .host])
  ∧ (∀ (k : Fin 512) (s : State) (r : MbxResp), (s.mailbox k).writing = some r → s.fld .slcMbxCtrlIntEnable k = 1 →
    s.ringsBlocked k = false → s.logFull k [s.respSlot k / 4096 * 4096] = false → s.postedFull (s.slice k).port 512 = false →
    ((s.respWritten k).mailbox k).intAt = some ((s.mailbox k).intAt.getD (s.time.now + 2000))
      ∧ ((s.respWritten k).mailbox k).writing = none)
  ∧ (∀ (s : State) (k at_ : Nat) (m : Mailbox), s.mailboxes = [(k, m)] → m.intAt = some at_ →
    (s.due at_ = true → s.mailMessages =
      (s.modMailbox k fun x => { x with intAt := none }).sendMsix k (s.fld .slcMbxCtrlVector k) none)
    ∧ (s.due at_ = false → s.mailMessages = s))
  ∧ (∀ (own : Bool) (r : MbxResp), ((respImage own r).take 1).map (·.toNat) = [r.major % 128 + (if own then 128 else 0)]
    ∧ ((respImage own r).drop 2).take 2 = leBytes 2 r.opcode ∧ ((respImage own r).drop 6).take 4 = leBytes 4 r.tag.toNat
    ∧ (respImage own r).drop 16 = respBody r ∧ (respImage own r).length ≤ 512)
  ∧ (∀ (r : MbxResp), (respBody r).length ≤ 496 ∧ (respBody r).take 4 = leBytes 1 r.status.toNat ++ [0] ++ leBytes 2 r.detail)
  ∧ (∀ (r : MbxRequest), r.body.length = r.length →
    (requestCrcOk r = true ↔ r.crc = crc32c (mbxHeader false r.major r.minor r.opcode r.length r.tag.toNat r.slice ++ r.body)))
  ∧ (∀ (k : Fin 512) (s : State) (r : MbxResp), (s.mailbox k).writing = some r → s.ringsBlocked k = false →
    (s.logFull k [s.respSlot k / 4096 * 4096] = true ∨ s.postedFull (s.slice k).port 512 = true) →
    ((s.respWritten k).mailbox k).writing = some r ∧ s.touches (s.respWritten k) [.xlate])
  ∧ (∀ (slice : Fin 512) (tag : Word32) (s : State), s.takesUp slice tag MbxOp.mbxInfo →
    ∃ t, exec (.mbxInfo slice tag) s = .next t
      ∧ t.hasAnswer slice tag Status.success [1, 2, 8, s.runningImage.major, s.runningImage.minor, s.fwmImage]
      ∧ s.touches t [.mailboxes])

/-! ## Firmware (chapter 20) -/

/-- R450, R478 to R482: packages are opened, written and checked; only slice 0 issues the commands. -/
def Obligations.FirmwarePackages : Prop :=
  (∀ (tag : Word32) (kind n most : Nat) (s : State), s.takesUp 0 tag MbxOp.fwBegin → s.fw.update ≠ 3 → s.fw.update ≠ 4 →
    packageLimit kind = some most → n ≤ most →
    ∃ t, exec (.fwBegin 0 tag kind n) s = .next t ∧ t.fw = { s.fw with package := some { kind := kind, length := n }, update := 1 }
      ∧ t.hasAnswer 0 tag Status.success [] ∧ s.touches t [.fw, .mailboxes])
  ∧ (∀ (tag : Word32) (kind n : Nat) (s : State), s.takesUp 0 tag MbxOp.fwBegin →
    ((s.fw.update = 3 ∨ s.fw.update = 4) →
      ∃ t, exec (.fwBegin 0 tag kind n) s = .next t ∧ t.hasAnswer 0 tag Status.busy [] ∧ s.touches t [.mailboxes])
    ∧ (s.fw.update ≠ 3 → s.fw.update ≠ 4 → (∀ most, packageLimit kind = some most → most < n) →
      ∃ t, exec (.fwBegin 0 tag kind n) s = .next t ∧ t.hasAnswer 0 tag Status.descMalformed [] ∧ s.touches t [.mailboxes]))
  ∧ (∀ (slice : Fin 512) (tag : Word32) (c : Instr) (op : Nat) (s : State), slice ≠ 0 →
    (∃ (kind n off len : Nat) (buf : ReadResult) (crc : Word32) (dc : Bool), (c, op) ∈ [(.fwBegin slice tag kind n, MbxOp.fwBegin),
      (.fwWrite slice tag off len buf crc, MbxOp.fwWrite), (.fwCheck slice tag, MbxOp.fwCheck),
      (.fwActivate slice tag dc, MbxOp.fwActivate), (.fwConfirm slice tag, MbxOp.fwConfirm), (.fwStatus slice tag, MbxOp.fwStatus)]) →
    s.takesUp slice tag op →
    ∃ t, exec c s = .next t ∧ t.hasAnswer slice tag Status.localAccess [] ∧ s.touches t [.mailboxes])
  ∧ (∀ (tag : Word32) (off n : Nat) (b : List Byte) (crc : Word32) (s : State) (p : FwPackage), s.takesUp 0 tag MbxOp.fwWrite →
    s.fw.package = some p → s.fw.update = 1 → 0 < n → n ≤ 65536 → off + n ≤ p.length → n ≤ b.length →
    (crc32c (b.take n) = crc →
      ∃ t, exec (.fwWrite 0 tag off n (.ok b) crc) s = .next t
        ∧ t.fw = { s.fw with package := some { p with blocks := p.blocks ++ [(off, b.take n)] } }
        ∧ t.hasAnswer 0 tag Status.success [] ∧ s.touches t [.fw, .boot, .mailboxes])
    ∧ (crc32c (b.take n) ≠ crc →
      ∃ t, exec (.fwWrite 0 tag off n (.ok b) crc) s = .next t ∧ t.fw = s.fw ∧ t.boot = s.boot
        ∧ t.fld .fwmStatCrcRejects 0 = min (s.fld .fwmStatCrcRejects 0 + 1) 65535
        ∧ t.hasAnswer 0 tag Status.checkMismatch [] ∧ s.touches t [.regs, .mailboxes])
    ∧ (∃ t, exec (.fwWrite 0 tag off n .unsupported crc) s = .next t ∧ t.hasAnswer 0 tag Status.xlateDenied []
        ∧ s.touches t [.mailboxes]))
  ∧ (∀ (tag : Word32) (off n : Nat) (buf : ReadResult) (crc : Word32) (s : State) (p : FwPackage), s.takesUp 0 tag MbxOp.fwWrite →
    s.fw.package = some p → (n = 0 ∨ 65536 < n ∨ p.length < off + n) →
    ∃ t, exec (.fwWrite 0 tag off n buf crc) s = .next t ∧ t.hasAnswer 0 tag Status.descMalformed [] ∧ s.touches t [.mailboxes])
  ∧ (∀ (tag : Word32) (s : State) (p : FwPackage), s.takesUp 0 tag MbxOp.fwCheck → s.fw.package = some p →
    (s.fw.update = 1 ∨ s.fw.update = 2) →
    match s.checkPackage p with
    | .ok i => ∃ t, exec (.fwCheck 0 tag) s = .next t ∧ t.fw = { s.fw with package := some { p with checked := true }, update := 2 }
        ∧ t.boot = (s.putImage p.kind (some i)).boot ∧ t.hasAnswer 0 tag Status.success [] ∧ s.touches t [.fw, .boot, .mailboxes]
    | .error (c, _, r) => ∃ t, exec (.fwCheck 0 tag) s = .next t ∧ t.fw.package = none ∧ t.fw.update = 0
        ∧ t.boot.fwImages = (s.putImage p.kind none).boot.fwImages ∧ t.boot.stageImages = (s.putImage p.kind none).boot.stageImages
        ∧ (r ≠ 0 → t.boot.failReason = r) ∧ t.hasAnswer 0 tag c [] ∧ s.touches t [.fw, .boot, .mailboxes])
  ∧ (∀ (s : State) (p : FwPackage), p.complete = false → s.checkPackage p = .error (Status.descMalformed, 2, 0))
  ∧ (∀ (s : State) (kind : Nat) (i : FlashImage), i.reason = 0 →
    (i.spare = s.boot.spareKey → i.sec < s.fused kind → s.imageReason kind i = failRollback)
    ∧ (i.spare = s.boot.spareKey → s.fused kind ≤ i.sec → s.imageReason kind i = 0)
    ∧ (i.spare = false → s.boot.spareKey = true → s.imageReason kind i = failRevoked)
    ∧ (i.spare = true → s.boot.spareKey = false → s.imageReason kind i = failEcdsa))
  ∧ (∀ (tag : Word32) (s : State), s.takesUp 0 tag MbxOp.fwStatus →
    ∃ t, exec (.fwStatus 0 tag) s = .next t ∧ t.hasAnswer 0 tag Status.success [s.fwmStatus] ∧ s.touches t [.mailboxes])

/-- R477, R483 to R488: activation, Switch, the health window, confirmation, fallback and the firmware-only reset. -/
def Obligations.FirmwareHandover : Prop :=
  (∀ (tag : Word32) (dc : Bool) (s : State) (p : FwPackage), s.takesUp 0 tag MbxOp.fwActivate → s.emergency = false →
    s.activating = false → s.fw.package = some p → p.checked = true → s.fw.update = 2 →
    (p.kind = 1 → ∃ t, exec (.fwActivate 0 tag dc) s = .next t ∧ t.boot = s.boot.point (fun d => { d with stageSlot := s.spareStage })
        ∧ t.fw = { s.fw with package := none, update := 0 } ∧ t.hasAnswer 0 tag Status.success []
        ∧ s.touches t [.fw, .boot, .mailboxes])
    ∧ (p.kind ≠ 1 → ∃ t, exec (.fwActivate 0 tag dc) s = .next t
        ∧ t.fw = { s.fw with update := 3, switching := true, quiesceAt := some (s.time.now + s.freeNow), activator := some (0, tag),
                             driverConfirm := dc, confirmed := false, selfTested := false }
        ∧ (t.mailbox 0).ready = (s.mailbox 0).ready ∧ s.touches t [.fw, .mailboxes, .free]))
  ∧ (∀ (slice : Fin 512) (tag : Word32) (op : Nat) (s : State), s.fw.switching = true → s.fw.quiesceAt = some s.time.now →
    s.take slice tag op = (s, false))
  ∧ (∀ (tag : Word32) (dc : Bool) (s : State), s.takesUp 0 tag MbxOp.fwActivate →
    (s.emergency = true → ∃ t, exec (.fwActivate 0 tag dc) s = .next t ∧ t.hasAnswer 0 tag Status.fwDeferred []
      ∧ s.touches t [.mailboxes])
    ∧ (s.emergency = false → s.activating = true → ∃ t, exec (.fwActivate 0 tag dc) s = .next t
      ∧ t.hasAnswer 0 tag Status.busy [] ∧ s.touches t [.mailboxes])
    ∧ (s.emergency = false → s.activating = false → s.fw.package = none → ∃ t, exec (.fwActivate 0 tag dc) s = .next t
      ∧ t.hasAnswer 0 tag Status.descMalformed [] ∧ s.touches t [.mailboxes]))
  ∧ (∀ (s : State), s.fw.switching = true →
    ∃ u : State, exec .handoverSwitch s = .next
        (((u.fwEvent 1).serveAllHeld.respondTo s.fw.activator Status.success []).intakeAll).settle
      ∧ u.fw.update = 4 ∧ u.fw.switching = false ∧ u.fw.windowEnd = some (s.time.now + 300000000000)
      ∧ u.fw.runningSlot = s.spareFw ∧ u.fw.oldCells = 0xFF ∧ u.boot = s.boot ∧ s.touches u [.fw, .work])
  ∧ (∀ (c : Fin 8) (s : State), s.oldWork c = false →
    ∃ t, exec (.cellComplexSwitch c) s = .next t ∧ t.fw.oldCells.getLsbD c = false
      ∧ (∀ d : Fin 8, d ≠ c → t.fw.oldCells.getLsbD d = s.fw.oldCells.getLsbD d) ∧ s.touches t [.fw])
  ∧ (∀ (tag : Word32) (s : State), s.takesUp 0 tag MbxOp.fwConfirm →
    (s.inWindow = true → s.fw.selfTested = true → exec (.fwConfirm 0 tag) s = .next
      ((({ s.taken 0 tag MbxOp.fwConfirm with fw.confirmed := true } : State).confirmFw).answer 0 tag MbxOp.fwConfirm
        Status.success 0 []))
    ∧ ((s.inWindow = false ∨ s.fw.selfTested = false) → ∃ t, exec (.fwConfirm 0 tag) s = .next t
      ∧ t.hasAnswer 0 tag Status.busy [] ∧ s.touches t [.mailboxes]))
  ∧ (∀ (s : State), s.inWindow = true →
    (s.fw.driverConfirm = false → exec .healthConfirm s = .next ({ s with fw.selfTested := true } : State).confirmFw)
    ∧ (s.fw.driverConfirm = true → s.fw.confirmed = false → exec .healthConfirm s = .next { s with fw.selfTested := true }))
  ∧ (∀ (s : State), s.confirmFw.boot.fwSlot = s.fw.runningSlot ∧ s.confirmFw.fw.update = 0
      ∧ s.confirmFw.boot.fuseFw = max s.boot.fuseFw (min s.fw.runningSec 64)
      ∧ s.confirmFw.boot.fuseStage = max s.boot.fuseStage (min s.boot.loaderSec 64) ∧ s.confirmFw.boot.fuseLast = s.boot.fuseLast
      ∧ (s.confirmFw.boot.spareKey = (s.boot.spareKey || s.runningImage.spare))
      ∧ (∃ e, s.confirmFw.queue.events = s.queue.events ++ [e] ∧ e.slice = 0 ∧ e.code = EventCode.fwState
          ∧ e.info = 2 + s.fw.lastFailure * 256) ∧ s.touches s.confirmFw [.boot, .fw, .queue])
  ∧ (∀ (hb : Bool) (s : State) (w : Nat), s.fw.update = 4 → s.fw.windowEnd = some w →
    exec (.healthWindowExpiry true hb) s = .next (s.fallBack 2 hb)
    ∧ (s.passed w = true → exec (.healthWindowExpiry false hb) s = .next (s.fallBack 1 hb))
    ∧ (s.passed w = false → exec (.healthWindowExpiry false hb) s = .next s))
  ∧ (∀ (cause : Nat) (s : State), (s.fallBack cause true).fw.runningSlot = s.boot.fwSlot ∧ (s.fallBack cause true).fw.lastFailure = cause
    ∧ (s.fallBack cause true).fw.resetting = s.fw.resetting ∧ (s.fallBack cause false).fw.update = 5
    ∧ (s.fallBack cause false).fw.resetting = true ∧ (s.fallBack cause false).fw.lastFailure = cause
    ∧ (s.fallBack cause true).boot = s.boot ∧ (s.fallBack cause false).boot.bottomReady = false
    ∧ (s.fallBack cause false).boot.fwSlot = s.boot.fwSlot ∧ (s.fallBack cause false).boot.fuseFw = s.boot.fuseFw
    ∧ (∀ hb, (s.fallBack cause hb).fw.windowEnd = none
        ∧ (∀ p, (s.fallBack cause hb).fw.package = some p → p.checked = false)))
  ∧ (∀ (s : State), s.fw.resetting = false → s.fw.update ≠ 3 → s.fw.update ≠ 4 →
    ∃ t, exec .fwWatchdogExpiry s = .next t ∧ t.fw = { s.fw with resetting := true }
      ∧ t.boot = { s.boot with bottomReady := false, bottomUsed := 0, generating := t.boot.generating, refused := t.boot.refused }
      ∧ t.fld .fwmStatFwResets 0 = min (s.fld .fwmStatFwResets 0 + 1) 65535 ∧ s.touches t [.fw, .regs, .boot])
  ∧ (∀ (s : State), s.fw.resetting = false → s.fw.update = 3 → exec .fwWatchdogExpiry s = .next s.endHandover.beginFwReset)
  ∧ (∀ (s : State), s.fw.resetting = false → s.fw.update = 4 → exec .fwWatchdogExpiry s = .next (s.fallBack 3 false))
  ∧ (∀ (s : State) (i : FlashImage), s.fw.resetting = true → s.tryImage 2 s.boot.fwSlot = (s, some i) →
    ∃ u : State, exec .firmwareResetDone s = .next (((u.deferTaken.fwEvent 5).tellLow).intakeAll).settle ∧ u.fw.resetting = false
      ∧ u.fw.runningSlot = s.boot.fwSlot ∧ u.boot = { s.boot with fwFallback := false } ∧ u.keys = s.keys ∧ u.ports = s.ports
      ∧ u.time = s.time ∧ s.touches u [.fw, .work, .boot])
  ∧ (∀ (s u v : State), s.fw.resetting = true → s.tryImage 2 s.boot.fwSlot = (u, none) → u.tryImage 2 (1 - s.boot.fwSlot) = (v, none) →
    ∃ t, exec .firmwareResetDone s = .next t ∧ t.boot.stage = 3 ∧ t.ports = State.reset.ports ∧ t.boot.failReason = v.boot.failReason)

/-! ## The Last (chapter 02) -/

/-- R33, R44, R46 to R49: a Last is written into the inactive slot, checked, and activated through a pause of the node. -/
def Obligations.LastActivation : Prop :=
  (∀ (tag : Word32) (slot : Bool) (off : Nat) (b : List Byte) (crc : Word32) (s : State), s.takesUp 0 tag MbxOp.lastWrite →
    slot.toNat ≠ s.last.activeSlot → b ≠ [] → b.length ≤ 65536 → off + b.length ≤ 1048576 →
    (crc32c b = crc → ∃ t, exec (.lastWrite 0 tag slot off (.ok b) crc) s = .next t
      ∧ (t.lastSlot slot.toNat).bytes = putBlock (s.lastSlot slot.toNat).bytes off b ∧ (t.lastSlot slot.toNat).state ≠ 2
      ∧ t.lastSlot (!slot).toNat = s.lastSlot (!slot).toNat ∧ t.last.inForce = s.last.inForce
      ∧ t.hasAnswer 0 tag Status.success [] ∧ s.touches t [.last, .mailboxes])
    ∧ (crc32c b ≠ crc → ∃ t, exec (.lastWrite 0 tag slot off (.ok b) crc) s = .next t
      ∧ t.hasAnswer 0 tag Status.checkMismatch [] ∧ s.touches t [.regs, .mailboxes]))
  ∧ (∀ (b x : List Byte) (off : Nat), ((putBlock b off x).drop off).take x.length = x
    ∧ (∀ i, i < off → i < b.length → (putBlock b off x)[i]? = b[i]?))
  ∧ (∀ (tag : Word32) (s : State), s.takesUp 0 tag MbxOp.lastCheck → s.last.activeSlot ≤ 1 →
    match s.checkLast (s.lastSlot s.spareLast).bytes with
    | .ok _ => ∃ t, exec (.lastCheck 0 tag) s = .next t ∧ (t.lastSlot s.spareLast).state = 2
        ∧ (t.lastSlot s.spareLast).bytes = (s.lastSlot s.spareLast).bytes ∧ t.last.inForce = s.last.inForce
        ∧ t.hasAnswer 0 tag Status.success [] ∧ s.touches t [.last, .mailboxes]
    | .error f => ∃ t c, exec (.lastCheck 0 tag) s = .next t ∧ (t.lastSlot s.spareLast).state = 3
        ∧ t.fld .lstRejectReason 0 = f.reason % 256 ∧ t.fld .lstRejectSection 0 = f.sec % 256
        ∧ t.fld .lstRejectRecord 0 = f.record % 65536 ∧ t.last.inForce = s.last.inForce ∧ t.hasAnswer 0 tag c []
        ∧ s.touches t [.last, .mailboxes, .regs, .boot, .free])
  ∧ (∀ (s : State) (b : List Byte) (l : LastImage),
    (lastFormatOk b = false ∨ l.secVersion < s.boot.fuseLast ∨ poolFail b l ≠ none ∨ quotaFail b l ≠ none ∨ rangeFail b l ≠ none) →
    s.checkLast b ≠ .ok l)
  ∧ (∀ (b : List Byte) (l : LastImage), poolFail b l = none → l.pools.sum = 256 ∧ 8 ≤ l.pools.getD 0 0 ∧ l.pools.getD 0 0 % 8 = 0
    ∧ 8 ≤ l.pools.getD 2 0 ∧ l.pools.getD 3 0 = (((portRecords b).take 10).map (·.2.bufMiB)).sum ∧ 8 ≤ l.pools.getD 6 0
    ∧ secCount b Sec.pool = 7)
  ∧ (∀ (tag : Word32) (s : State), s.takesUp 0 tag MbxOp.lastActivate →
    (s.emergency = true → ∃ t, exec (.lastActivate 0 tag) s = .next t ∧ t.hasAnswer 0 tag Status.fwDeferred [] ∧ s.touches t [.mailboxes])
    ∧ (s.emergency = false → (s.fw.update = 3 ∨ s.activating = true) → ∃ t, exec (.lastActivate 0 tag) s = .next t
      ∧ t.hasAnswer 0 tag Status.busy [] ∧ s.touches t [.mailboxes]))
  ∧ (∀ (tag : Word32) (s : State) (l : LastImage), s.takesUp 0 tag MbxOp.lastActivate → s.emergency = false → s.fw.update ≠ 3 →
    s.activating = false → (s.lastSlot s.spareLast).state = 2 → l = parseLast (s.lastSlot s.spareLast).bytes →
    match s.lastInUse l with
    | none => exec (.lastActivate 0 tag) s = .next (s.openPeers.foldl (fun s c => s.sendCtrl c (.pause 150000 l.serial))
        { s.taken 0 tag MbxOp.lastActivate with last.phase := .notices s.time.now 0 tag l })
    | some f => ∃ t, exec (.lastActivate 0 tag) s = .next t ∧ t.last = s.last ∧ t.fld .lstRejectReason 0 = f.reason % 256
        ∧ t.hasAnswer 0 tag Status.noResources [] ∧ s.touches t [.mailboxes, .regs, .boot])
  ∧ (∀ (s : State) (since : Nat) (k : Nat) (tag : Word32) (l : LastImage), s.last.phase = .notices since k tag l →
    (s.noticesOut = false ∨ s.due (since + 5000000) = true) →
    ∃ u : State, u = ({ s with last.phase := .paused s.time.now k tag l } : State).guardClear.writeBackAll
      ∧ exec .lastPauseStart s = .next
        (((u.changedPorts l).foldl (fun s p => (s.goDown p 4).modPort p fun x => { x with link := .down }) u).settle))
  ∧ (∀ (s : State) (since : Nat) (k : Nat) (tag : Word32) (l : LastImage), s.last.phase = .notices since k tag l →
    s.noticesOut = true → s.due (since + 5000000) = false → exec .lastPauseStart s = .next s)
  ∧ (∀ (s : State) (since : Nat) (k : Nat) (tag : Word32) (l : LastImage), s.last.phase = .paused since k tag l →
    ∃ u v w : State, u = ({ s with last.phase := .idle, last.fallback := false,
                                   boot := s.boot.lastActivated s.spareLast l } : State).lastInForce s.spareLast l
      ∧ v = (s.changedPorts l).foldl (fun s p => s.startTraining p) u
      ∧ w = (v.openPeers.foldl (fun s c => s.sendCtrl c (.resume l.serial false)) v).respond (k, tag) Status.success []
      ∧ exec .lastResume s = .next (((w.trans.conns.foldl (fun s c => s.kick c.index) w).serveAllHeld).intakeAll).settle)
  ∧ (∀ (b : BootState) (k : Nat) (l : LastImage), (b.lastActivated k l).lastSlot = k
    ∧ (b.lastActivated k l).fuseLast = max b.fuseLast (min l.secVersion 64) ∧ (b.lastActivated k l).fwSlot = b.fwSlot
    ∧ (b.lastActivated k l).stageSlot = b.stageSlot)
  ∧ (∀ (s : State) (slot : Nat) (l : LastImage), (s.lastInForce slot l).last.inForce = some l
    ∧ (s.lastInForce slot l).last.activeSlot = slot ∧ (s.lastInForce slot l).last.booting = false
    ∧ (∀ k : Fin 512, ((s.lastInForce slot l).slice k).gen = 0 ∧ ((s.lastInForce slot l).slice k).tenant = 0))

/-- R25: a ROLE_SET is accepted only with an epoch greater than RoleEpoch; any other is answered with DESC_MALFORMED and leaves
the role unchanged. Role code 3 is reserved (GBL_ROLE) and is answered so too. -/
def Obligations.RoleSetNeedsAGreaterEpoch : Prop :=
  ∀ (slice : Fin 512) (tag : Word32) (role : Nat) (epoch : Word32) (s : State), s.takesUp slice tag MbxOp.roleSet →
    (s.last.roleEpoch < epoch → role < 3 →
      ∃ t, exec (.roleSet slice tag role epoch) s = .next t ∧ t.last.role = role ∧ t.last.roleEpoch = epoch
        ∧ t.last.inForce = s.last.inForce ∧ t.hasAnswer slice tag Status.success [] ∧ s.touches t [.last, .trans, .mailboxes])
    ∧ (epoch ≤ s.last.roleEpoch ∨ 3 ≤ role →
      ∃ t, exec (.roleSet slice tag role epoch) s = .next t ∧ t.hasAnswer slice tag Status.descMalformed []
        ∧ s.touches t [.mailboxes])

/-! ## Power and time (chapter 21) -/

/-- R483, R495 to R501: the capping ladder, the thermal states with their thresholds, Shutdown, the brake, and the limits in
force. -/
def Obligations.PowerAndThermal : Prop :=
  (∀ (w : Nat) (s : State),
    (s.serving = true → exec (.powerSample w) s = .next ((({ s with power.inputW := w } : State).capStepTo w).settle))
    ∧ (s.serving = false → exec (.powerSample w) s = .next { s with power.inputW := w }))
  ∧ (∀ (w : Nat) (s : State), s.power.limitW < w →
    (s.power.capStep < 5 → (s.capStepTo w).power.capStep = s.power.capStep + 1)
    ∧ (5 ≤ s.power.capStep → (s.capStepTo w).power.capStep = s.power.capStep ∧ (s.capStepTo w).power.capUnmet = true
        ∧ s.touches (s.capStepTo w) [.power]))
  ∧ (∀ (w : Nat) (s : State), w ≤ s.power.limitW → (s.capStepTo w).power.capUnmet = false ∧
    (95 * s.power.limitW ≤ 100 * w → (s.capStepTo w).power.capStep = s.power.capStep ∧ (s.capStepTo w).power.underSince = none)
    ∧ (100 * w < 95 * s.power.limitW → 0 < s.power.capStep →
      (s.power.underSince = none → (s.capStepTo w).power.underSince = some s.time.now
        ∧ (s.capStepTo w).power.capStep = s.power.capStep)
      ∧ (∀ u, s.power.underSince = some u → s.time.now < u + 10000000 → (s.capStepTo w).power.capStep = s.power.capStep)
      ∧ (∀ u, s.power.underSince = some u → u + 10000000 ≤ s.time.now → (s.capStepTo w).power.capStep = s.power.capStep - 1)))
  ∧ (∀ (j h : Nat),
    (thermalLevel j h = 4 ↔ 115 ≤ j ∨ 105 ≤ h) ∧ (3 ≤ thermalLevel j h ↔ 108 ≤ j ∨ 97 ≤ h)
    ∧ (2 ≤ thermalLevel j h ↔ 103 ≤ j ∨ 93 ≤ h) ∧ (1 ≤ thermalLevel j h ↔ 100 ≤ j ∨ 90 ≤ h))
  ∧ (∀ (j h : Nat) (s : State), s.power.shutdown = false → s.board.inputPower = true →
    exec (.thermalSample j h) s = .next
      ((({ s with power.junctionC := j, power.hbmC := h } : State).thermalStep j h).settle))
  ∧ (∀ (j h : Nat) (s : State), (s.power.shutdown = true ∨ s.board.inputPower = false) →
    exec (.thermalSample j h) s = .next { s with power.junctionC := j, power.hbmC := h })
  ∧ (∀ (j h : Nat) (s : State),
    (thermalLevel j h = 4 → s.thermalStep j h = s.shutDown)
    ∧ (s.power.thermal.code < thermalLevel j h → thermalLevel j h < 4 →
      (s.thermalStep j h).power.thermal.code = thermalLevel j h ∧ (s.thermalStep j h).power.coolSince = none)
    ∧ (thermalLevel j h < 4 → thermalLevel j h ≤ s.power.thermal.code → s.power.thermal.code ≠ 0 →
      isBelow s.power.thermal.code j h = true →
      (s.power.coolSince = none → (s.thermalStep j h).power.coolSince = some s.time.now
        ∧ (s.thermalStep j h).power.thermal = s.power.thermal)
      ∧ (∀ u, s.power.coolSince = some u → u + 10000000 ≤ s.time.now →
          (s.thermalStep j h).power.thermal.code = s.power.thermal.code - 1)
      ∧ (∀ u, s.power.coolSince = some u → s.time.now < u + 10000000 → s.thermalStep j h = s))
    ∧ (thermalLevel j h ≤ s.power.thermal.code → isBelow s.power.thermal.code j h = false → thermalLevel j h < 4 →
      (s.thermalStep j h).power.thermal = s.power.thermal ∧ (s.thermalStep j h).power.coolSince = none))
  ∧ (∀ (j h : Nat) (s : State), s.power.shutdown = false → s.board.inputPower = true →
    s.power.thermal.code < thermalLevel j h →
    (thermalLevel j h = 3 → exec (.thermalComparator j h) s = .next (s.setThermal 3).settle)
    ∧ (thermalLevel j h = 4 → exec (.thermalComparator j h) s = .next s.shutDown))
  ∧ (∀ (s : State), s.shutDown.power.shutdown = true ∧ s.shutDown.board.resetN = false ∧ s.shutDown.time.now = s.time.now
    ∧ s.shutDown.ports = State.reset.ports ∧ s.shutDown.queue = State.reset.queue ∧ s.shutDown.trans = State.reset.trans
    ∧ s.shutDown.keys = { deviceSecret := s.keys.deviceSecret } ∧ s.shutDown.boot.fuseLast = s.boot.fuseLast ∧ s.shutDown.boot.fuseFw = s.boot.fuseFw
    ∧ s.shutDown.boot.fuseStage = s.boot.fuseStage ∧ s.shutDown.boot.ownerDigests = s.boot.ownerDigests)
  ∧ (∀ (s : State), s.power.brake = false →
    exec .pwrBrakeAssert s = .next
      (((({ s with power.brake := true } : State).bump .pwrStatBrakes 0).brakeEvent.emergencyFrom s.emergency).settle))
  ∧ (∀ (s : State), s.power.brake = true →
    exec .pwrBrakeAssert s = .next s
    ∧ ∃ t, exec .pwrBrakeRelease s = .next t ∧ t.power.brake = false ∧ t.power.capStep = s.power.capStep
      ∧ s.touches t [.power, .queue])
  ∧ (∀ (s : State), s.arithClock ≤ 3 ∧
    (s.power.thermal = .critical → s.arithClock = 3) ∧ (s.power.brake = true → 2 ≤ s.arithClock)
    ∧ (s.power.thermal = .normal → s.power.brake = false → s.power.capStep = 0 → s.arithClock = 0 ∧ s.memCap = 100))
  ∧ (∀ (s : State), (s.power.thermal = .critical → s.memCap ≤ 25)
    ∧ (s.power.brake = true → s.memCap ≤ clamp 25 100 (s.fld .pwrCtrlBrakeMemPct 0))
    ∧ (s.power.capStep = 3 → s.memCap ≤ 75) ∧ (s.power.capStep = 4 → s.memCap ≤ 50) ∧ (s.power.capStep = 5 → s.memCap ≤ 25))

/-- R490 to R494: a cluster sleeps step by step, never below its floor, and wakes. -/
def Obligations.ClusterSleep : Prop :=
  (∀ (c : Fin 8) (s : State), s.awake c = true → s.hasWork c = false → s.floor c ≤ 1 →
    s.due (max (vget s.power.workAt c 0) (vget s.power.sleepSince c 0) + max 1 (s.fld .pwrCtrlLightIdle 0) * 16) = true →
    ∃ t, exec (.clusterLightSleep c) s = .next t ∧ vget t.power.sleep c .awake = .light
      ∧ vget t.power.sleepSince c 0 = s.time.now
      ∧ (∀ d : Fin 8, d ≠ c → vget t.power.sleep d .awake = vget s.power.sleep d .awake) ∧ s.touches t [.power])
  ∧ (∀ (c : Fin 8) (s : State), (s.hasWork c = true ∨ 1 < s.floor c) →
    exec (.clusterLightSleep c) s = .next s)
  ∧ (∀ (c : Fin 8) (s : State), vget s.power.sleep c .awake = .light → s.floor c = 0 → s.preWaked c = false →
    s.due (vget s.power.sleepSince c 0 + max 1 (s.fld .pwrCtrlDeepIdleUs 0) * 1000) = true →
    ∃ t, exec (.clusterDeepSleep c) s = .next t ∧ vget t.power.sleep c .awake = .deep
      ∧ (∀ d : Fin 8, d ≠ c → vget t.power.sleep d .awake = vget s.power.sleep d .awake) ∧ s.touches t [.power])
  ∧ (∀ (c : Fin 8) (s : State), s.floor c ≠ 0 → exec (.clusterDeepSleep c) s = .next s)
  ∧ (∀ (c : Fin 8) (s : State), ∃ t, exec (.clusterWake c) s = .next t ∧ t.awake c = true
    ∧ (∀ d : Fin 8, d ≠ c → vget t.power.sleep d .awake = vget s.power.sleep d .awake) ∧ s.touches t [.power, .regs])
  ∧ (∀ (s : State), (s.power.sleep.toList.all fun x => x = .deep) = true → s.due (s.power.edgeIdleSince + 20000) = true →
    ∃ t, exec .hbmSelfRefresh s = .next t ∧ t.power.selfRefresh = true ∧ t.power.sleep = s.power.sleep ∧ t.mem = s.mem
      ∧ s.touches t [.power])
  ∧ (∀ (s : State), (s.power.sleep.toList.all fun x => x = .deep) = false → exec .hbmSelfRefresh s = .next s)

/-- R503 to R510, R523: how Device Time is corrected and set, what PPS and the sources do, and when Event Timers are armed
and fire.
R4: the registers that have no command of their own, those of the time units among them, take a write and answer a read, which clears
their RC fields. -/
def Obligations.TimeAndTimers : Prop :=
  (∀ (s : State), s.time.now + 61 ≤ s.advanceTime.time.now ∧ s.touches s.advanceTime [.time])
  ∧ (∀ (f : Func) (v : Word64) (s : State), s.isManager f = true →
    (s.trans.conns = [] → s.time.timers = [] →
      ∃ t, exec (.timSetWrite f v) s = .next t ∧ t.time = { s.time with now := v.toNat, frac := 0, part := 0 }
        ∧ s.touches t [.time])
    ∧ ((s.trans.conns ≠ [] ∨ s.time.timers ≠ []) →
      ∃ t, exec (.timSetWrite f v) s = .next t
        ∧ t.fld .timStatusSetRefused 0 = min (s.fld .timStatusSetRefused 0 + 1) 65535 ∧ s.touches t [.regs])
    ∧ (s.driverTime = true →
      ∃ t, exec (.timSlewWrite f v) s = .next t ∧ t.time = { s.time with slewLeft := v.toInt * 65536 * 1000000 } ∧ s.touches t [.time])
    ∧ (s.driverTime = false → exec (.timSlewWrite f v) s = .next s))
  ∧ (∀ (f : Func) (v : Word32) (s : State), s.isManager f = true →
    (s.driverTime = true → ∃ t, exec (.timFreqWrite f v) s = .next t
      ∧ t.freqAdjust = max (-65536000) (min 65536000 v.toInt) ∧ t.fld .timFreqAdjust 0 = v.toNat ∧ s.touches t [.regs])
    ∧ (s.driverTime = false → exec (.timFreqWrite f v) s = .next s))
  ∧ (∀ (f : Func) (v : Word64) (w : Word32) (s : State), s.isManager f = false →
    exec (.timSetWrite f v) s = .next s ∧ exec (.timSlewWrite f v) s = .next s ∧ exec (.timFreqWrite f w) s = .next s)
  ∧ (∀ (s : State), s.fld .timCtrlSource 0 ≠ 4 →
    ∃ t, exec .ppsInEdge s = .next t ∧ t.time = { s.time with ppsCap := s.time.now, lastPps := s.time.now } ∧ s.touches t [.time])
  ∧ (∀ (s : State), s.fld .timCtrlSource 0 = 4 →
    ∃ t, exec .ppsInEdge s = .next t ∧ t.time.ppsCap = s.time.now ∧ t.time.holdover = false ∧ t.time.offsetNs = toSecond s.time.now
      ∧ t.time.slewLeft = toSecond s.time.now * 65536 * 1000000 ∧ s.touches t [.time, .queue])
  ∧ (∀ (now : Nat), ((now : Int) + toSecond now) % 1000000000 = 0 ∧ -500000000 ≤ toSecond now ∧ toSecond now < 500000000)
  ∧ (∀ (s : State), s.fld .timCtrlPpsOutEnable 0 = 1 → s.time.now / 1000000000 ≠ s.time.ppsSecond →
    s.board.shorted.getLsbD 8 = false →
    ∃ t, exec .ppsOutSecond s = .next t ∧ t.out = s.out ++ [.pinLevel 8 true] ∧ t.time.ppsSecond = s.time.now / 1000000000
      ∧ t.time.ppsHighUntil = some (s.time.now / 1000000000 * 1000000000 + max 1 (s.fld .timCtrlPpsWidthMs 0) * 1000000)
      ∧ s.touches t [.time, .out])
  ∧ (∀ (s : State) (p : Nat), s.sourcePort = some p → s.linkUp p = false → s.time.holdover = false →
    ∃ t e, exec .timeSourceLoss s = .next t ∧ t.time = { s.time with holdover := true } ∧ t.queue.events = s.queue.events ++ [e]
      ∧ e.slice = 0 ∧ e.code = EventCode.timeSource ∧ e.info = 1 + 2 * s.fld .timCtrlSource 0 ∧ s.touches t [.time, .queue])
  ∧ (∀ (s : State), s.fld .timCtrlSource 0 = 4 → s.due (s.time.lastPps + 2000000000) = true → s.time.holdover = false →
    ∃ t, exec .timeSourceLoss s = .next t ∧ t.time = { s.time with holdover := true } ∧ s.touches t [.time, .queue])
  ∧ (∀ (k : Fin 8) (s : State), (s.pinsWith 4).contains k.val = true →
    ∃ t, exec (.timeCaptureEdge k) s = .next t ∧ vget t.board.pinCap k 0 = s.time.now ∧ t.board.gpioIn.getLsbD k = true
      ∧ (∀ j : Fin 8, j ≠ k → vget t.board.pinCap j 0 = vget s.board.pinCap j 0) ∧ s.touches t [.board])
  ∧ (∀ (k : Fin 512) (i : Nat) (s : State) (x : EventTimer), s.time.timers.find? (fun t => t.is k.val i) = some x →
    tick x.deadline ≤ tick s.time.now →
    ∃ t, exec (.eventTimerFire (some k) i) s = .next t
      ∧ t.queue.laceChanges = s.queue.laceChanges ++ [⟨k.val, s.gen k, x.counter, 1⟩]
      ∧ t.time.timers = s.time.timers.filter (fun t => !t.is k.val i) ++
          (if timerPeriod (s.timerCfgOf k i).1 = 0 then [] else [{ x with deadline := x.deadline + timerPeriod (s.timerCfgOf k i).1 }])
      ∧ s.touches t [.time, .queue])
  ∧ (∀ (k : Fin 512) (i : Nat) (s : State) (x : EventTimer), s.time.timers.find? (fun t => t.is k.val i) = some x →
    tick s.time.now < tick x.deadline → exec (.eventTimerFire (some k) i) s = .next s)
  ∧ (∀ (i : Nat) (s : State), ∃ t, exec (.eventTimerFire none i) s = .next t ∧ s.touches t [.board, .out])
  ∧ (∀ (f : Func) (k : Fin 512) (v : Word64) (s : State), s.bound k f = true → s.fld .slcTimerSelIndex k < (s.quota k).timers →
    v ≠ 0 → (s.timerCfgOf k (s.fld .slcTimerSelIndex k)).2 < (s.quota k).lace →
    ∃ t x, exec (.slcTimerDeadlineWrite f k v) s = .next t ∧ x ∈ t.time.timers ∧ x.slice = k.val ∧ x.index = s.fld .slcTimerSelIndex k
      ∧ x.deadline = v.toNat ∧ x.counter = (s.timerCfgOf k (s.fld .slcTimerSelIndex k)).2 ∧ s.touches t [.time])
  ∧ (∀ (f : Func) (k : Fin 512) (s : State), s.bound k f = true → s.fld .slcTimerSelIndex k < (s.quota k).timers →
    ∃ t, exec (.slcTimerDeadlineWrite f k 0) s = .next t ∧ (∀ x ∈ t.time.timers, x.is k.val (s.fld .slcTimerSelIndex k) = false)
      ∧ s.touches t [.time])
  ∧ (∀ (f : Func) (k : Fin 512) (v : Word64) (s : State), (s.bound k f = false ∨ (s.quota k).timers ≤ s.fld .slcTimerSelIndex k) →
    exec (.slcTimerDeadlineWrite f k v) s = .next s)
  ∧ (∀ (f : Func) (off w : Nat) (v : Word64) (s : State) (r : Reg) (k : Nat), accessAt off w = some (r, k) →
    s.mayWrite f r k = true →
    ∃ t, exec (.registerWrite f off w v) s = .next t ∧ t = (s.writeReg r k v).settle)
  ∧ (∀ (f : Func) (off w : Nat) (s : State) (r : Reg) (k : Nat), s.answersReads = true → accessAt off w = some (r, k) →
    s.mayRead f off r k = true →
    ∃ t, exec (.registerReadClear f off w) s = .next t ∧ t.out = s.out ++ [.readData f (s.readReg r k)]
      ∧ (∀ g ∈ r.fields, t.fld g k = if g.acc = .rc then 0 else s.fld g k) ∧ s.touches t [.out, .regs, .mem, .free])

/-! ## The module (chapter 22), and boot (chapter 19) -/

/-- R444, R448, R449, R519 to R527: power, reset and boot, the sideband, and shorted outputs. -/
def Obligations.ModuleEvents : Prop :=
  (∀ (s : State), s.board.inputPower = false →
    ∃ t, exec .inputPowerApply s = .next t ∧ t.time = {} ∧ t.board.inputPower = true ∧ t.board.pwrGood = true
      ∧ t.board.resetN = false ∧ t.board.address = 0x5C + s.board.straps.toNat ∧ t.out = s.out ++ [.pwrGood true] ∧ s.touches t [.time, .board, .out])
  ∧ (∀ (s : State), s.board.inputPower = true →
    (∃ t, exec .inputUndervoltage s = .next t ∧ t.board.inputPower = false ∧ t.board.pwrGood = false ∧ t.time = {}
      ∧ t.out = s.out ++ [.pwrGood false] ∧ t.boot.fuseLast = s.boot.fuseLast ∧ t.boot.fwImages = s.boot.fwImages
      ∧ t.queue = State.reset.queue ∧ t.trans = State.reset.trans ∧ t.mem = State.reset.mem)
    ∧ (∀ b, ∃ t, exec (.inputFault b) s = .next t ∧ t.board.inputPower = false ∧ t.board.inputFault = true
      ∧ t.board.pwrGood = false ∧ t.out = s.out ++ [.pwrGood false]))
  ∧ (∀ (b : Bool) (s : State), s.board.inputPower = false →
    exec (.inputFault b) s = .next { s with board.inputFault := true } ∧ exec .inputUndervoltage s = .next s)
  ∧ (∀ (s : State), s.board.resetN = true →
    ∃ t, exec .modResetNAssert s = .next t ∧ t.board.resetN = false ∧ t.time.now = s.time.now ∧ t.keys = { deviceSecret := s.keys.deviceSecret }
      ∧ t.ports = State.reset.ports ∧ t.queue = State.reset.queue ∧ t.trans = State.reset.trans ∧ t.mem = State.reset.mem
      ∧ t.last.inForce = none ∧ t.boot.stage = 0 ∧ t.boot.fuseStage = s.boot.fuseStage ∧ t.boot.fuseFw = s.boot.fuseFw
      ∧ t.boot.fuseLast = s.boot.fuseLast ∧ t.boot.stageImages = s.boot.stageImages ∧ t.boot.fwImages = s.boot.fwImages
      ∧ t.boot.ownerDigests = s.boot.ownerDigests ∧ t.boot.topNext = s.boot.topNext ∧ t.pending = s.pending)
  ∧ (∀ (s : State), s.board.pwrGood = true → s.board.resetN = false → s.power.shutdown = false →
    exec .modResetNRelease s = .next (({ s with board.resetN := true } : State).bootChain).settle)
  ∧ (∀ (s : State), s.board.pwrGood = true → s.board.resetN = false → s.power.shutdown = true → 95 ≤ s.power.junctionC →
    exec .modResetNRelease s = .next s)
  ∧ (∀ (s : State), s.board.pwrGood = true → s.board.resetN = false → s.power.shutdown = true → s.power.junctionC < 95 →
    ∃ u : State, exec .modResetNRelease s = .next u.bootChain.settle ∧ u.power.shutdown = false ∧ u.board.resetN = true
      ∧ u.fld .pwrStatusWasShutdown 0 = 1 ∧ u.out = s.out ++ (if s.board.shorted.getLsbD 9 then [] else [.thermAlert false]))
  ∧ (∀ (s u : State), s.tryImage 1 s.boot.stageSlot = (u, none) →
    (u.tryImage 1 (1 - s.boot.stageSlot)).2 = none → s.bootChain.boot.stage = 3)
  ∧ (∀ (s : State) (kind slot : Nat), (kind = 1 ∨ kind = 2) →
    vget (if kind = 1 then s.boot.stageImages else s.boot.fwImages) slot none = none →
    s.tryImage kind slot = (s.bootFail failFormat kind, none))
  ∧ (∀ (s : State) (i : FlashImage) (j : FlashImage), vget s.boot.stageImages s.boot.stageSlot none = some i →
    s.imageReason 1 i = 0 → vget s.boot.fwImages s.boot.fwSlot none = some j → s.imageReason 2 j = 0 → j.major = i.major →
    s.bootChain.boot.stage = 2 ∧ s.bootChain.boot.stageFallback = false ∧ s.bootChain.boot.fwFallback = false
      ∧ s.bootChain.fw.runningSlot = s.boot.fwSlot)
  ∧ (∀ (s : State), s.board.inputPower = true →
    exec (.pldmRequest .base) s = .next { s with out := s.out ++ [.pldm .base] }
    ∧ exec (.pldmRequest .fru) s = .next { s with out := s.out ++
        [.pldm (.fru Config.partNumber 0x072400B0 Config.moduleSerial Config.manufactureDate)] }
    ∧ (∀ n, exec (.pldmRequest (.other n)) s = .next { s with out := s.out ++ [.pldm .invalidType] })
    ∧ (∀ n, ∃ t, exec (.pldmRequest (.readSensor n)) s = .next t ∧ t.out = s.out ++ [.pldm (s.readSensor n)]
        ∧ s.touches t [.out, .free])
    ∧ (∀ b k, s.boot.stage ≠ 3 → exec (.pldmRequest (.firmwareUpdate b k)) s = .next { s with out := s.out ++ [.pldm .invalidType] }))
  ∧ (∀ (s : State), s.readSensor 1 = .value s.power.inputW ∧ s.readSensor 3 = .value s.power.junctionC
    ∧ s.readSensor 4 = .value s.power.hbmC ∧ s.readSensor 6 = .value s.power.thermal.code
    ∧ (s.board.resetN = false → ∀ n, n ∈ [5, 7, 8, 9, 10, 11] → s.readSensor n = .unavailable)
    ∧ (s.board.resetN = true → s.boot.stage = 2 → ∀ i, i < 4 → s.readSensor (7 + i) = .value (s.busyShare i) ∧ s.busyShare i ≤ 100))
  ∧ (∀ (w : Nat) (s : State), s.board.inputPower = true →
    (s.board.resetN = true → ∃ t, exec (.boardPowerLimitWrite w) s = .next t
      ∧ t.power = { s.power with limitW := max 250 (min w 800) } ∧ t.out = s.out ++ [.pldm .accepted] ∧ s.touches t [.power, .out])
    ∧ (s.board.resetN = false → exec (.boardPowerLimitWrite w) s = .next { s with out := s.out ++ [.pldm .notReady] }))
  ∧ (∀ (n : Nat) (s : State), s.board.inputPower = true →
    ∃ t, exec (.setEndpointId n) s = .next t ∧ t.board = { s.board with eid := n } ∧ s.touches t [.board])
  ∧ (∀ (k : Fin 10) (s : State) (at_ : Nat), s.checkedOutput k = true → s.isShorted k = false → s.board.inputPower = true →
    (∃ t, exec (.pinShortCheck k true) s = .next t ∧ assoc t.board.shortSince k.val = none ∧ t.board.shorted = s.board.shorted
      ∧ s.touches t [.board])
    ∧ (s.pinReleased k = true → exec (.pinShortCheck k false) s = exec (.pinShortCheck k true) s)
    ∧ (s.pinReleased k = false → assoc s.board.shortSince k.val = none → ∃ t, exec (.pinShortCheck k false) s = .next t
      ∧ assoc t.board.shortSince k.val = some s.time.now ∧ t.board.shorted = s.board.shorted ∧ s.touches t [.board])
    ∧ (s.pinReleased k = false → assoc s.board.shortSince k.val = some at_ → s.due (at_ + 10000) = true →
      ∃ t e, exec (.pinShortCheck k false) s = .next t ∧ t.isShorted k = true ∧ t.out = s.out ++ [.pinFloat k]
        ∧ (∀ j : Fin 10, j ≠ k → t.isShorted j = s.isShorted j) ∧ t.queue.events = s.queue.events ++ [e] ∧ e.slice = 0
        ∧ e.code = EventCode.pinFault ∧ e.object = k.val ∧ e.info = 1 ∧ s.touches t [.board, .queue, .regs, .out]))
  ∧ (∀ (k : Fin 10) (s : State) (at_ : Nat), s.isShorted k = true → assoc s.board.retryAt k.val = some at_ → s.due at_ = true →
    (∃ t e, exec (.pinFaultRetry k true) s = .next t ∧ t.isShorted k = false ∧ t.queue.events = s.queue.events ++ [e]
      ∧ e.code = EventCode.pinFault ∧ e.object = k.val ∧ e.info = 0
      ∧ t.out = s.out ++ [if k.val = 9 then .thermAlert (!s.pinHigh k) else .pinLevel k (s.pinHigh k)]
      ∧ s.touches t [.board, .queue, .out])
    ∧ (s.pinReleased k = false → ∃ t, exec (.pinFaultRetry k false) s = .next t ∧ t.isShorted k = true
      ∧ assoc t.board.retryAt k.val = some (s.time.now + 100000000) ∧ s.touches t [.board]))

/-! ## Single rules, each stated whole -/

/-- R311: FAR_RESCAN, from slice 0 only, enumerates both ports again and lays the far tier out; BUSY while any region that is not
Free lies in the far tier, and LOCAL_ACCESS for other slices. -/
def Obligations.FarRescanRebuildsTheLayout : Prop :=
  (∀ (tag : Word32) (d0 d1 : List CxlDevice) (s : State), s.takesUp 0 tag MbxOp.farRescan →
    (∀ e ∈ s.xlate.ranges, e.state = .free ∨ e.tier ≠ .far) →
    ∃ t, exec (.farRescan 0 tag d0 d1) s = .next t ∧ t.hasAnswer 0 tag Status.success []
      ∧ (vget t.mem.far 0 {}).devices = (if (vget s.mem.far 0 {}).linkUp then inPortOrder d0 else [])
      ∧ (vget t.mem.far 1 {}).devices = (if (vget s.mem.far 1 {}).linkUp then inPortOrder d1 else [])
      ∧ (vget t.mem.far 0 {}).enumerated = true ∧ (vget t.mem.far 1 {}).enumerated = true
      ∧ (vget t.mem.far 0 {}).baseGiB = 0 ∧ (vget t.mem.far 1 {}).baseGiB = (vget t.mem.far 0 {}).decodedGiB
      ∧ ((vget t.mem.far 0 {}).ways, (vget t.mem.far 0 {}).decodedGiB) = decodePort (vget t.mem.far 0 {}).devices 8192
      ∧ ((vget t.mem.far 1 {}).ways, (vget t.mem.far 1 {}).decodedGiB)
          = decodePort (vget t.mem.far 1 {}).devices (min 8192 (12288 - (vget t.mem.far 0 {}).decodedGiB))
      ∧ t.mem.cells = s.mem.cells ∧ s.touches t [.mem, .mailboxes])
  ∧ (∀ (tag : Word32) (d0 d1 : List CxlDevice) (e : RangeEntry) (s : State), s.takesUp 0 tag MbxOp.farRescan →
    e ∈ s.xlate.ranges → e.state ≠ .free → e.tier = .far →
    ∃ t, exec (.farRescan 0 tag d0 d1) s = .next t ∧ t.hasAnswer 0 tag Status.busy [] ∧ s.touches t [.mailboxes])
  ∧ (∀ (slice : Fin 512) (tag : Word32) (d0 d1 : List CxlDevice) (s : State), s.takesUp slice tag MbxOp.farRescan → slice ≠ 0 →
    ∃ t, exec (.farRescan slice tag d0 d1) s = .next t ∧ t.hasAnswer slice tag Status.localAccess [] ∧ s.touches t [.mailboxes])

/-- R415: KEY_ROOT_SET, from slice 0, installs the digest once after each MOD_RESET_N; a second one is refused with BUSY. -/
def Obligations.KeyRootIsSetOnceAfterReset : Prop :=
  (∀ (tag : Word32) (dg : BitVec 384) (s : State), s.takesUp 0 tag MbxOp.keyRootSet → s.keys.rootDigest = none →
    ∃ t, exec (.keyRootSet 0 tag dg) s = .next t ∧ t.keys = { s.keys with rootDigest := some dg }
      ∧ t.hasAnswer 0 tag Status.success [] ∧ s.touches t [.keys, .mailboxes])
  ∧ (∀ (tag : Word32) (dg old : BitVec 384) (s : State), s.takesUp 0 tag MbxOp.keyRootSet → s.keys.rootDigest = some old →
    ∃ t, exec (.keyRootSet 0 tag dg) s = .next t ∧ t.hasAnswer 0 tag Status.busy [] ∧ s.touches t [.mailboxes])
  ∧ (∀ (slice : Fin 512) (tag : Word32) (dg : BitVec 384) (s : State), s.takesUp slice tag MbxOp.keyRootSet → slice ≠ 0 →
    ∃ t, exec (.keyRootSet slice tag dg) s = .next t ∧ t.hasAnswer slice tag Status.localAccess [] ∧ s.touches t [.mailboxes])
  ∧ (∀ (s : State), s.board.resetN = true → ∃ t, exec .modResetNAssert s = .next t ∧ t.keys.rootDigest = none)

/-! ## Registers and time -/

/-- R4, R5, R371, R396, R532: which accesses reach a register, what a write stores, what a read returns and clears; a function's MSI-X table
and PBA answer where no register does. -/
def Obligations.RegisterAccess : Prop :=
  (∀ (f : Func) (off w : Nat) (v : Word64) (s : State) (r : Reg) (k : Nat), accessAt off w = some (r, k) →
    (s.mayWrite f r k = true → exec (.registerWrite f off w v) s = .next (s.writeReg r k v).settle)
    ∧ (s.mayWrite f r k = false → exec (.registerWrite f off w v) s = .next s))
  ∧ (∀ (f : Func) (off w : Nat) (v : Word64) (s : State), accessAt off w = none →
    (tableAt f off = none → exec (.registerWrite f off w v) s = .next s)
    ∧ (∀ x, tableAt f off = some x → exec (.registerWrite f off w v) s = .next (s.writeMsix f off w v).settle)
    ∧ (s.answersReads = true →
        exec (.registerReadClear f off w) s = .next (s.emit (.readData f ((s.readMsix f off w).getD (s.readBar2 f off w))))
        ∧ (off < 2 ^ 32 → tableAt f off = none → pbaAt f off = none → s.readMsix f off w = none ∧ s.readBar2 f off w = 0)))
  ∧ (∀ (f : Func) (off v k : Nat) (x : Word64) (s : State), tableAt f off = some (v, k) → s.serving = true → s.funcEnabled f = true →
    s.writeMsix f off 4 x = (s.modFunc f fun y => y.setTableWord v k (x.toNat % 2 ^ 32)).sendHeldMsix f
    ∧ s.readMsix f off 4 = some (BitVec.ofNat 64 ((s.funcState f).tableWord v k)))
  ∧ (∀ (y : FuncState) (v k w : Nat), k < 4 → w < 2 ^ 32 →
    (y.setTableWord v k w).tableWord v k = if k = 3 then w / 65536 * 65536 + w % 2 else w)
  ∧ (∀ (f : Func) (off w : Nat) (s : State), s.answersReads = false → exec (.registerReadClear f off w) s = .next s)
  ∧ (∀ (f : Func) (off w : Nat) (s : State) (r : Reg) (k : Nat), s.answersReads = true → accessAt off w = some (r, k) →
    (s.mayRead f off r k = false → exec (.registerReadClear f off w) s = .next (s.emit (.readData f 0)))
    ∧ (s.mayRead f off r k = true → ∃ t, exec (.registerReadClear f off w) s = .next t ∧ t.out = s.out ++ [.readData f (s.readReg r k)]
        ∧ (∀ g ∈ r.fields, t.fld g k = if g.acc = .rc then 0 else s.fld g k) ∧ s.touches t [.out, .regs, .mem, .free]))
  ∧ (∀ (off w : Nat) (r : Reg) (k : Nat), accessAt off w = some (r, k) → r.place.width = 8 * w ∧ off % w = 0 ∧ (w = 4 ∨ w = 8))
  ∧ (∀ (r : Reg) (k : Nat) (v : Word64) (s : State),
    (∀ g ∈ r.fields, (s.storeReg r k v).fld g k = if g.acc = .rw ∨ g.acc = .rws then bitsOf v g.hi g.lo else s.fld g k)
    ∧ (∀ (q : Reg) (j : Nat), (q ≠ r ∨ j ≠ k) → (s.storeReg r k v).rawReg q j = s.rawReg q j)
    ∧ s.touches (s.storeReg r k v) [.regs])
  ∧ (∀ (r : Reg) (k : Nat) (s : State),
    (∀ g ∈ r.fields, bitsOf (s.readReg r k) g.hi g.lo = s.readFld (s.live r k) g k % 2 ^ (g.hi + 1 - g.lo))
    ∧ (∀ i, (∀ g ∈ r.fields, i < g.lo ∨ g.hi < i) → (s.readReg r k).getLsbD i = false))
  ∧ (∀ (r : Reg) (k : Nat) (g : Fld) (s : State), assoc (s.live r k) g = none →
    (g.acc = .rw ∨ g.acc = .rc → s.readFld (s.live r k) g k = s.fld g k)
    ∧ (g.acc = .rws → s.readFld (s.live r k) g k = s.fldNow g k)
    ∧ (g.acc = .wo ∨ g.acc = .w1s → s.readFld (s.live r k) g k = 0))
  ∧ (∀ (r : Reg) (k : Nat) (s : State), (s.commitReg r k).fldNow = fun g j =>
      if g.reg = r ∧ j = k then s.fld g k else s.fldNow g j)

/-- Log entry 5, the model's choice: on an empty queue a step is a tick of Device Time, which lowers the pins whose time is over, moves
the overflow entries that have come within a period into the wheel (R207) and notes the clusters' work; without input power nothing
happens. No mailbox message stands out here: what the tick does with those is said with the mailboxes (R471). -/
def Obligations.EmptyQueueTicks : Prop :=
  ∀ (s : State), s.pending = [] → (∀ m ∈ s.mailboxes, m.2.intAt = none) → ∃ t, step s = .next t
    ∧ (s.board.inputPower = false → t = s)
    ∧ (s.board.inputPower = true → t.time.now = s.advanceTime.time.now ∧ t.time.slewLeft = s.time.slewLeft - s.slewStep
        ∧ (∀ p ∈ t.board.pulseUntil, t.time.now < p.2) ∧ (∀ e, t.time.ppsHighUntil = some e → t.time.now < e)
        ∧ t.power.sleep = s.power.sleep ∧ (∀ w ∈ t.trans.wheel, w.overflow = true → t.time.now / 64 * 64 + 262144 < w.nextAt)
        ∧ t.trans = { s.trans with wheel := t.trans.wheel } ∧ t.fw = { s.fw with ranNs := t.fw.ranNs }
        ∧ (s.pinsWith 6 = [] → t.freeCount = s.freeCount)
        ∧ s.touches t [.time, .board, .power, .out, .trans, .fw, .free])

/-- What reset leaves (R6, R20, R368, R448, R466): no command waits, no slice but slice 0 is bound, no Last is in force, no
queue, connection, region or key exists, and memory is in its canonical form. -/
def Obligations.ResetState : Prop :=
  State.reset.pending = [] ∧ State.reset.memOk = true ∧ State.reset.queue.queues = [] ∧ State.reset.trans.conns = []
  ∧ State.reset.xlate.ranges = [] ∧ State.reset.keys.slots = [] ∧ State.reset.last.inForce = none ∧ State.reset.boot.stage = 0
  ∧ (State.reset.slice 0).state = .active ∧ (∀ k : Fin 512, k ≠ 0 → (State.reset.slice k).state = .unbound)
  ∧ (∀ r ∈ Reg.all, State.reset.rawReg r 0 = r.resetBits) ∧ State.reset.linkUp 0 = false

/-! ## The machine as a whole -/

/-- No command ends the machine: every one answers a next state. -/
def Obligations.NoCommandStopsTheMachine : Prop := ∀ (c : Instr) (s : State), ∃ t, exec c s = .next t

/-- Whatever a step does, memory keeps its canonical form. -/
def Obligations.MemoryStaysCanonical : Prop :=
  ∀ (s t : State), s.memOk = true → step s = .next t → t.memOk = true

/-- R451, R452: no command, reset or loss of power takes a fused version, an owner key bank or the spare key's revocation back. -/
def Obligations.FusedVersionsNeverFall : Prop :=
  ∀ (s t : State), step s = .next t →
    s.boot.fuseStage ≤ t.boot.fuseStage ∧ s.boot.fuseFw ≤ t.boot.fuseFw ∧ s.boot.fuseLast ≤ t.boot.fuseLast
    ∧ s.boot.ownerDigests <+: t.boot.ownerDigests ∧ (s.boot.spareKey = true → t.boot.spareKey = true)
    ∧ s.boot.topNext ≤ t.boot.topNext

/-- A command changes everything but the queue of commands, and what the block has sent out stays sent. -/
def Obligations.CommandsLeaveTheQueue : Prop :=
  ∀ (c : Instr) (s t : State), exec c s = .next t → t.pending = s.pending ∧ s.out <+: t.out
end

