-- ==== Sys2Proof/Laws/State.lean ====
section
/-! SUPPORT. What each named update of the state leaves alone: one lemma per update and field, so that a proof does not
unfold a record update. -/

namespace Sys2Proof.Machine

variable (s : State)

/-! ### setRawReg -/

@[simp] theorem setRawReg_pending (r : Reg) (k : Nat) (w : Word64) : (s.setRawReg r k w).pending = s.pending := rfl
@[simp] theorem setRawReg_out (r : Reg) (k : Nat) (w : Word64) : (s.setRawReg r k w).out = s.out := rfl
@[simp] theorem setRawReg_freeCount (r : Reg) (k : Nat) (w : Word64) : (s.setRawReg r k w).freeCount = s.freeCount := rfl
@[simp] theorem setRawReg_time (r : Reg) (k : Nat) (w : Word64) : (s.setRawReg r k w).time = s.time := rfl
@[simp] theorem setRawReg_board (r : Reg) (k : Nat) (w : Word64) : (s.setRawReg r k w).board = s.board := rfl
@[simp] theorem setRawReg_power (r : Reg) (k : Nat) (w : Word64) : (s.setRawReg r k w).power = s.power := rfl
@[simp] theorem setRawReg_boot (r : Reg) (k : Nat) (w : Word64) : (s.setRawReg r k w).boot = s.boot := rfl
@[simp] theorem setRawReg_fw (r : Reg) (k : Nat) (w : Word64) : (s.setRawReg r k w).fw = s.fw := rfl
@[simp] theorem setRawReg_last (r : Reg) (k : Nat) (w : Word64) : (s.setRawReg r k w).last = s.last := rfl
@[simp] theorem setRawReg_mem (r : Reg) (k : Nat) (w : Word64) : (s.setRawReg r k w).mem = s.mem := rfl
@[simp] theorem setRawReg_xlate (r : Reg) (k : Nat) (w : Word64) : (s.setRawReg r k w).xlate = s.xlate := rfl
@[simp] theorem setRawReg_queue (r : Reg) (k : Nat) (w : Word64) : (s.setRawReg r k w).queue = s.queue := rfl
@[simp] theorem setRawReg_trans (r : Reg) (k : Nat) (w : Word64) : (s.setRawReg r k w).trans = s.trans := rfl
@[simp] theorem setRawReg_ports (r : Reg) (k : Nat) (w : Word64) : (s.setRawReg r k w).ports = s.ports := rfl
@[simp] theorem setRawReg_filters (r : Reg) (k : Nat) (w : Word64) : (s.setRawReg r k w).filters = s.filters := rfl
@[simp] theorem setRawReg_ingress (r : Reg) (k : Nat) (w : Word64) : (s.setRawReg r k w).ingress = s.ingress := rfl
@[simp] theorem setRawReg_bypass (r : Reg) (k : Nat) (w : Word64) : (s.setRawReg r k w).bypass = s.bypass := rfl
@[simp] theorem setRawReg_route (r : Reg) (k : Nat) (w : Word64) : (s.setRawReg r k w).route = s.route := rfl
@[simp] theorem setRawReg_work (r : Reg) (k : Nat) (w : Word64) : (s.setRawReg r k w).work = s.work := rfl
@[simp] theorem setRawReg_slices (r : Reg) (k : Nat) (w : Word64) : (s.setRawReg r k w).slices = s.slices := rfl
@[simp] theorem setRawReg_dirtyLogs (r : Reg) (k : Nat) (w : Word64) : (s.setRawReg r k w).dirtyLogs = s.dirtyLogs := rfl
@[simp] theorem setRawReg_mailboxes (r : Reg) (k : Nat) (w : Word64) : (s.setRawReg r k w).mailboxes = s.mailboxes := rfl
@[simp] theorem setRawReg_host (r : Reg) (k : Nat) (w : Word64) : (s.setRawReg r k w).host = s.host := rfl
@[simp] theorem setRawReg_hostReads (r : Reg) (k : Nat) (w : Word64) : (s.setRawReg r k w).hostReads = s.hostReads := rfl
@[simp] theorem setRawReg_keys (r : Reg) (k : Nat) (w : Word64) : (s.setRawReg r k w).keys = s.keys := rfl
@[simp] theorem setRawReg_checks (r : Reg) (k : Nat) (w : Word64) : (s.setRawReg r k w).checks = s.checks := rfl

/-! ### setFld -/

@[simp] theorem setFld_pending (f : Fld) (k v : Nat) : (s.setFld f k v).pending = s.pending := rfl
@[simp] theorem setFld_out (f : Fld) (k v : Nat) : (s.setFld f k v).out = s.out := rfl
@[simp] theorem setFld_freeCount (f : Fld) (k v : Nat) : (s.setFld f k v).freeCount = s.freeCount := rfl
@[simp] theorem setFld_time (f : Fld) (k v : Nat) : (s.setFld f k v).time = s.time := rfl
@[simp] theorem setFld_board (f : Fld) (k v : Nat) : (s.setFld f k v).board = s.board := rfl
@[simp] theorem setFld_power (f : Fld) (k v : Nat) : (s.setFld f k v).power = s.power := rfl
@[simp] theorem setFld_boot (f : Fld) (k v : Nat) : (s.setFld f k v).boot = s.boot := rfl
@[simp] theorem setFld_fw (f : Fld) (k v : Nat) : (s.setFld f k v).fw = s.fw := rfl
@[simp] theorem setFld_last (f : Fld) (k v : Nat) : (s.setFld f k v).last = s.last := rfl
@[simp] theorem setFld_mem (f : Fld) (k v : Nat) : (s.setFld f k v).mem = s.mem := rfl
@[simp] theorem setFld_xlate (f : Fld) (k v : Nat) : (s.setFld f k v).xlate = s.xlate := rfl
@[simp] theorem setFld_queue (f : Fld) (k v : Nat) : (s.setFld f k v).queue = s.queue := rfl
@[simp] theorem setFld_trans (f : Fld) (k v : Nat) : (s.setFld f k v).trans = s.trans := rfl
@[simp] theorem setFld_ports (f : Fld) (k v : Nat) : (s.setFld f k v).ports = s.ports := rfl
@[simp] theorem setFld_filters (f : Fld) (k v : Nat) : (s.setFld f k v).filters = s.filters := rfl
@[simp] theorem setFld_ingress (f : Fld) (k v : Nat) : (s.setFld f k v).ingress = s.ingress := rfl
@[simp] theorem setFld_bypass (f : Fld) (k v : Nat) : (s.setFld f k v).bypass = s.bypass := rfl
@[simp] theorem setFld_route (f : Fld) (k v : Nat) : (s.setFld f k v).route = s.route := rfl
@[simp] theorem setFld_work (f : Fld) (k v : Nat) : (s.setFld f k v).work = s.work := rfl
@[simp] theorem setFld_slices (f : Fld) (k v : Nat) : (s.setFld f k v).slices = s.slices := rfl
@[simp] theorem setFld_dirtyLogs (f : Fld) (k v : Nat) : (s.setFld f k v).dirtyLogs = s.dirtyLogs := rfl
@[simp] theorem setFld_mailboxes (f : Fld) (k v : Nat) : (s.setFld f k v).mailboxes = s.mailboxes := rfl
@[simp] theorem setFld_host (f : Fld) (k v : Nat) : (s.setFld f k v).host = s.host := rfl
@[simp] theorem setFld_hostReads (f : Fld) (k v : Nat) : (s.setFld f k v).hostReads = s.hostReads := rfl
@[simp] theorem setFld_keys (f : Fld) (k v : Nat) : (s.setFld f k v).keys = s.keys := rfl
@[simp] theorem setFld_checks (f : Fld) (k v : Nat) : (s.setFld f k v).checks = s.checks := rfl

/-! ### bumpBy -/

@[simp] theorem bumpBy_pending (f : Fld) (k n : Nat) : (s.bumpBy f k n).pending = s.pending := rfl
@[simp] theorem bumpBy_out (f : Fld) (k n : Nat) : (s.bumpBy f k n).out = s.out := rfl
@[simp] theorem bumpBy_freeCount (f : Fld) (k n : Nat) : (s.bumpBy f k n).freeCount = s.freeCount := rfl
@[simp] theorem bumpBy_time (f : Fld) (k n : Nat) : (s.bumpBy f k n).time = s.time := rfl
@[simp] theorem bumpBy_board (f : Fld) (k n : Nat) : (s.bumpBy f k n).board = s.board := rfl
@[simp] theorem bumpBy_power (f : Fld) (k n : Nat) : (s.bumpBy f k n).power = s.power := rfl
@[simp] theorem bumpBy_boot (f : Fld) (k n : Nat) : (s.bumpBy f k n).boot = s.boot := rfl
@[simp] theorem bumpBy_fw (f : Fld) (k n : Nat) : (s.bumpBy f k n).fw = s.fw := rfl
@[simp] theorem bumpBy_last (f : Fld) (k n : Nat) : (s.bumpBy f k n).last = s.last := rfl
@[simp] theorem bumpBy_mem (f : Fld) (k n : Nat) : (s.bumpBy f k n).mem = s.mem := rfl
@[simp] theorem bumpBy_xlate (f : Fld) (k n : Nat) : (s.bumpBy f k n).xlate = s.xlate := rfl
@[simp] theorem bumpBy_queue (f : Fld) (k n : Nat) : (s.bumpBy f k n).queue = s.queue := rfl
@[simp] theorem bumpBy_trans (f : Fld) (k n : Nat) : (s.bumpBy f k n).trans = s.trans := rfl
@[simp] theorem bumpBy_ports (f : Fld) (k n : Nat) : (s.bumpBy f k n).ports = s.ports := rfl
@[simp] theorem bumpBy_filters (f : Fld) (k n : Nat) : (s.bumpBy f k n).filters = s.filters := rfl
@[simp] theorem bumpBy_ingress (f : Fld) (k n : Nat) : (s.bumpBy f k n).ingress = s.ingress := rfl
@[simp] theorem bumpBy_bypass (f : Fld) (k n : Nat) : (s.bumpBy f k n).bypass = s.bypass := rfl
@[simp] theorem bumpBy_route (f : Fld) (k n : Nat) : (s.bumpBy f k n).route = s.route := rfl
@[simp] theorem bumpBy_work (f : Fld) (k n : Nat) : (s.bumpBy f k n).work = s.work := rfl
@[simp] theorem bumpBy_slices (f : Fld) (k n : Nat) : (s.bumpBy f k n).slices = s.slices := rfl
@[simp] theorem bumpBy_dirtyLogs (f : Fld) (k n : Nat) : (s.bumpBy f k n).dirtyLogs = s.dirtyLogs := rfl
@[simp] theorem bumpBy_mailboxes (f : Fld) (k n : Nat) : (s.bumpBy f k n).mailboxes = s.mailboxes := rfl
@[simp] theorem bumpBy_host (f : Fld) (k n : Nat) : (s.bumpBy f k n).host = s.host := rfl
@[simp] theorem bumpBy_hostReads (f : Fld) (k n : Nat) : (s.bumpBy f k n).hostReads = s.hostReads := rfl
@[simp] theorem bumpBy_keys (f : Fld) (k n : Nat) : (s.bumpBy f k n).keys = s.keys := rfl
@[simp] theorem bumpBy_checks (f : Fld) (k n : Nat) : (s.bumpBy f k n).checks = s.checks := rfl

/-! ### bump -/

@[simp] theorem bump_pending (f : Fld) (k : Nat) : (s.bump f k).pending = s.pending := rfl
@[simp] theorem bump_out (f : Fld) (k : Nat) : (s.bump f k).out = s.out := rfl
@[simp] theorem bump_freeCount (f : Fld) (k : Nat) : (s.bump f k).freeCount = s.freeCount := rfl
@[simp] theorem bump_time (f : Fld) (k : Nat) : (s.bump f k).time = s.time := rfl
@[simp] theorem bump_board (f : Fld) (k : Nat) : (s.bump f k).board = s.board := rfl
@[simp] theorem bump_power (f : Fld) (k : Nat) : (s.bump f k).power = s.power := rfl
@[simp] theorem bump_boot (f : Fld) (k : Nat) : (s.bump f k).boot = s.boot := rfl
@[simp] theorem bump_fw (f : Fld) (k : Nat) : (s.bump f k).fw = s.fw := rfl
@[simp] theorem bump_last (f : Fld) (k : Nat) : (s.bump f k).last = s.last := rfl
@[simp] theorem bump_mem (f : Fld) (k : Nat) : (s.bump f k).mem = s.mem := rfl
@[simp] theorem bump_xlate (f : Fld) (k : Nat) : (s.bump f k).xlate = s.xlate := rfl
@[simp] theorem bump_queue (f : Fld) (k : Nat) : (s.bump f k).queue = s.queue := rfl
@[simp] theorem bump_trans (f : Fld) (k : Nat) : (s.bump f k).trans = s.trans := rfl
@[simp] theorem bump_ports (f : Fld) (k : Nat) : (s.bump f k).ports = s.ports := rfl
@[simp] theorem bump_filters (f : Fld) (k : Nat) : (s.bump f k).filters = s.filters := rfl
@[simp] theorem bump_ingress (f : Fld) (k : Nat) : (s.bump f k).ingress = s.ingress := rfl
@[simp] theorem bump_bypass (f : Fld) (k : Nat) : (s.bump f k).bypass = s.bypass := rfl
@[simp] theorem bump_route (f : Fld) (k : Nat) : (s.bump f k).route = s.route := rfl
@[simp] theorem bump_work (f : Fld) (k : Nat) : (s.bump f k).work = s.work := rfl
@[simp] theorem bump_slices (f : Fld) (k : Nat) : (s.bump f k).slices = s.slices := rfl
@[simp] theorem bump_dirtyLogs (f : Fld) (k : Nat) : (s.bump f k).dirtyLogs = s.dirtyLogs := rfl
@[simp] theorem bump_mailboxes (f : Fld) (k : Nat) : (s.bump f k).mailboxes = s.mailboxes := rfl
@[simp] theorem bump_host (f : Fld) (k : Nat) : (s.bump f k).host = s.host := rfl
@[simp] theorem bump_hostReads (f : Fld) (k : Nat) : (s.bump f k).hostReads = s.hostReads := rfl
@[simp] theorem bump_keys (f : Fld) (k : Nat) : (s.bump f k).keys = s.keys := rfl
@[simp] theorem bump_checks (f : Fld) (k : Nat) : (s.bump f k).checks = s.checks := rfl

/-! ### emit -/

@[simp] theorem emit_pending (o : Output) : (s.emit o).pending = s.pending := rfl
@[simp] theorem emit_freeCount (o : Output) : (s.emit o).freeCount = s.freeCount := rfl
@[simp] theorem emit_regs (o : Output) : (s.emit o).regs = s.regs := rfl
@[simp] theorem emit_time (o : Output) : (s.emit o).time = s.time := rfl
@[simp] theorem emit_board (o : Output) : (s.emit o).board = s.board := rfl
@[simp] theorem emit_power (o : Output) : (s.emit o).power = s.power := rfl
@[simp] theorem emit_boot (o : Output) : (s.emit o).boot = s.boot := rfl
@[simp] theorem emit_fw (o : Output) : (s.emit o).fw = s.fw := rfl
@[simp] theorem emit_last (o : Output) : (s.emit o).last = s.last := rfl
@[simp] theorem emit_mem (o : Output) : (s.emit o).mem = s.mem := rfl
@[simp] theorem emit_xlate (o : Output) : (s.emit o).xlate = s.xlate := rfl
@[simp] theorem emit_queue (o : Output) : (s.emit o).queue = s.queue := rfl
@[simp] theorem emit_trans (o : Output) : (s.emit o).trans = s.trans := rfl
@[simp] theorem emit_ports (o : Output) : (s.emit o).ports = s.ports := rfl
@[simp] theorem emit_filters (o : Output) : (s.emit o).filters = s.filters := rfl
@[simp] theorem emit_ingress (o : Output) : (s.emit o).ingress = s.ingress := rfl
@[simp] theorem emit_bypass (o : Output) : (s.emit o).bypass = s.bypass := rfl
@[simp] theorem emit_route (o : Output) : (s.emit o).route = s.route := rfl
@[simp] theorem emit_work (o : Output) : (s.emit o).work = s.work := rfl
@[simp] theorem emit_slices (o : Output) : (s.emit o).slices = s.slices := rfl
@[simp] theorem emit_dirtyLogs (o : Output) : (s.emit o).dirtyLogs = s.dirtyLogs := rfl
@[simp] theorem emit_mailboxes (o : Output) : (s.emit o).mailboxes = s.mailboxes := rfl
@[simp] theorem emit_host (o : Output) : (s.emit o).host = s.host := rfl
@[simp] theorem emit_hostReads (o : Output) : (s.emit o).hostReads = s.hostReads := rfl
@[simp] theorem emit_keys (o : Output) : (s.emit o).keys = s.keys := rfl
@[simp] theorem emit_checks (o : Output) : (s.emit o).checks = s.checks := rfl

/-! ### advanceFree -/

@[simp] theorem advanceFree_pending : (s.advanceFree).pending = s.pending := rfl
@[simp] theorem advanceFree_out : (s.advanceFree).out = s.out := rfl
@[simp] theorem advanceFree_regs : (s.advanceFree).regs = s.regs := rfl
@[simp] theorem advanceFree_time : (s.advanceFree).time = s.time := rfl
@[simp] theorem advanceFree_board : (s.advanceFree).board = s.board := rfl
@[simp] theorem advanceFree_power : (s.advanceFree).power = s.power := rfl
@[simp] theorem advanceFree_boot : (s.advanceFree).boot = s.boot := rfl
@[simp] theorem advanceFree_fw : (s.advanceFree).fw = s.fw := rfl
@[simp] theorem advanceFree_last : (s.advanceFree).last = s.last := rfl
@[simp] theorem advanceFree_mem : (s.advanceFree).mem = s.mem := rfl
@[simp] theorem advanceFree_xlate : (s.advanceFree).xlate = s.xlate := rfl
@[simp] theorem advanceFree_queue : (s.advanceFree).queue = s.queue := rfl
@[simp] theorem advanceFree_trans : (s.advanceFree).trans = s.trans := rfl
@[simp] theorem advanceFree_ports : (s.advanceFree).ports = s.ports := rfl
@[simp] theorem advanceFree_filters : (s.advanceFree).filters = s.filters := rfl
@[simp] theorem advanceFree_ingress : (s.advanceFree).ingress = s.ingress := rfl
@[simp] theorem advanceFree_bypass : (s.advanceFree).bypass = s.bypass := rfl
@[simp] theorem advanceFree_route : (s.advanceFree).route = s.route := rfl
@[simp] theorem advanceFree_work : (s.advanceFree).work = s.work := rfl
@[simp] theorem advanceFree_slices : (s.advanceFree).slices = s.slices := rfl
@[simp] theorem advanceFree_dirtyLogs : (s.advanceFree).dirtyLogs = s.dirtyLogs := rfl
@[simp] theorem advanceFree_mailboxes : (s.advanceFree).mailboxes = s.mailboxes := rfl
@[simp] theorem advanceFree_host : (s.advanceFree).host = s.host := rfl
@[simp] theorem advanceFree_hostReads : (s.advanceFree).hostReads = s.hostReads := rfl
@[simp] theorem advanceFree_keys : (s.advanceFree).keys = s.keys := rfl
@[simp] theorem advanceFree_checks : (s.advanceFree).checks = s.checks := rfl

/-! ### raise -/

@[simp] theorem raise_pending (e : Event) : (s.raise e).pending = s.pending := rfl
@[simp] theorem raise_out (e : Event) : (s.raise e).out = s.out := rfl
@[simp] theorem raise_freeCount (e : Event) : (s.raise e).freeCount = s.freeCount := rfl
@[simp] theorem raise_regs (e : Event) : (s.raise e).regs = s.regs := rfl
@[simp] theorem raise_time (e : Event) : (s.raise e).time = s.time := rfl
@[simp] theorem raise_board (e : Event) : (s.raise e).board = s.board := rfl
@[simp] theorem raise_power (e : Event) : (s.raise e).power = s.power := rfl
@[simp] theorem raise_boot (e : Event) : (s.raise e).boot = s.boot := rfl
@[simp] theorem raise_fw (e : Event) : (s.raise e).fw = s.fw := rfl
@[simp] theorem raise_last (e : Event) : (s.raise e).last = s.last := rfl
@[simp] theorem raise_mem (e : Event) : (s.raise e).mem = s.mem := rfl
@[simp] theorem raise_xlate (e : Event) : (s.raise e).xlate = s.xlate := rfl
@[simp] theorem raise_trans (e : Event) : (s.raise e).trans = s.trans := rfl
@[simp] theorem raise_ports (e : Event) : (s.raise e).ports = s.ports := rfl
@[simp] theorem raise_filters (e : Event) : (s.raise e).filters = s.filters := rfl
@[simp] theorem raise_ingress (e : Event) : (s.raise e).ingress = s.ingress := rfl
@[simp] theorem raise_bypass (e : Event) : (s.raise e).bypass = s.bypass := rfl
@[simp] theorem raise_route (e : Event) : (s.raise e).route = s.route := rfl
@[simp] theorem raise_work (e : Event) : (s.raise e).work = s.work := rfl
@[simp] theorem raise_slices (e : Event) : (s.raise e).slices = s.slices := rfl
@[simp] theorem raise_dirtyLogs (e : Event) : (s.raise e).dirtyLogs = s.dirtyLogs := rfl
@[simp] theorem raise_mailboxes (e : Event) : (s.raise e).mailboxes = s.mailboxes := rfl
@[simp] theorem raise_host (e : Event) : (s.raise e).host = s.host := rfl
@[simp] theorem raise_hostReads (e : Event) : (s.raise e).hostReads = s.hostReads := rfl
@[simp] theorem raise_keys (e : Event) : (s.raise e).keys = s.keys := rfl
@[simp] theorem raise_checks (e : Event) : (s.raise e).checks = s.checks := rfl

/-! ### modSlice -/

@[simp] theorem modSlice_pending (k : Nat) (f : Slice → Slice) : (s.modSlice k f).pending = s.pending := rfl
@[simp] theorem modSlice_out (k : Nat) (f : Slice → Slice) : (s.modSlice k f).out = s.out := rfl
@[simp] theorem modSlice_freeCount (k : Nat) (f : Slice → Slice) : (s.modSlice k f).freeCount = s.freeCount := rfl
@[simp] theorem modSlice_regs (k : Nat) (f : Slice → Slice) : (s.modSlice k f).regs = s.regs := rfl
@[simp] theorem modSlice_time (k : Nat) (f : Slice → Slice) : (s.modSlice k f).time = s.time := rfl
@[simp] theorem modSlice_board (k : Nat) (f : Slice → Slice) : (s.modSlice k f).board = s.board := rfl
@[simp] theorem modSlice_power (k : Nat) (f : Slice → Slice) : (s.modSlice k f).power = s.power := rfl
@[simp] theorem modSlice_boot (k : Nat) (f : Slice → Slice) : (s.modSlice k f).boot = s.boot := rfl
@[simp] theorem modSlice_fw (k : Nat) (f : Slice → Slice) : (s.modSlice k f).fw = s.fw := rfl
@[simp] theorem modSlice_last (k : Nat) (f : Slice → Slice) : (s.modSlice k f).last = s.last := rfl
@[simp] theorem modSlice_mem (k : Nat) (f : Slice → Slice) : (s.modSlice k f).mem = s.mem := rfl
@[simp] theorem modSlice_xlate (k : Nat) (f : Slice → Slice) : (s.modSlice k f).xlate = s.xlate := rfl
@[simp] theorem modSlice_queue (k : Nat) (f : Slice → Slice) : (s.modSlice k f).queue = s.queue := rfl
@[simp] theorem modSlice_trans (k : Nat) (f : Slice → Slice) : (s.modSlice k f).trans = s.trans := rfl
@[simp] theorem modSlice_ports (k : Nat) (f : Slice → Slice) : (s.modSlice k f).ports = s.ports := rfl
@[simp] theorem modSlice_filters (k : Nat) (f : Slice → Slice) : (s.modSlice k f).filters = s.filters := rfl
@[simp] theorem modSlice_ingress (k : Nat) (f : Slice → Slice) : (s.modSlice k f).ingress = s.ingress := rfl
@[simp] theorem modSlice_bypass (k : Nat) (f : Slice → Slice) : (s.modSlice k f).bypass = s.bypass := rfl
@[simp] theorem modSlice_route (k : Nat) (f : Slice → Slice) : (s.modSlice k f).route = s.route := rfl
@[simp] theorem modSlice_work (k : Nat) (f : Slice → Slice) : (s.modSlice k f).work = s.work := rfl
@[simp] theorem modSlice_dirtyLogs (k : Nat) (f : Slice → Slice) : (s.modSlice k f).dirtyLogs = s.dirtyLogs := rfl
@[simp] theorem modSlice_mailboxes (k : Nat) (f : Slice → Slice) : (s.modSlice k f).mailboxes = s.mailboxes := rfl
@[simp] theorem modSlice_host (k : Nat) (f : Slice → Slice) : (s.modSlice k f).host = s.host := rfl
@[simp] theorem modSlice_hostReads (k : Nat) (f : Slice → Slice) : (s.modSlice k f).hostReads = s.hostReads := rfl
@[simp] theorem modSlice_keys (k : Nat) (f : Slice → Slice) : (s.modSlice k f).keys = s.keys := rfl
@[simp] theorem modSlice_checks (k : Nat) (f : Slice → Slice) : (s.modSlice k f).checks = s.checks := rfl

/-! ### setSleep -/

@[simp] theorem setSleep_pending (c : Nat) (x : SleepState) : (s.setSleep c x).pending = s.pending := rfl
@[simp] theorem setSleep_out (c : Nat) (x : SleepState) : (s.setSleep c x).out = s.out := rfl
@[simp] theorem setSleep_freeCount (c : Nat) (x : SleepState) : (s.setSleep c x).freeCount = s.freeCount := rfl
@[simp] theorem setSleep_regs (c : Nat) (x : SleepState) : (s.setSleep c x).regs = s.regs := rfl
@[simp] theorem setSleep_time (c : Nat) (x : SleepState) : (s.setSleep c x).time = s.time := rfl
@[simp] theorem setSleep_board (c : Nat) (x : SleepState) : (s.setSleep c x).board = s.board := rfl
@[simp] theorem setSleep_boot (c : Nat) (x : SleepState) : (s.setSleep c x).boot = s.boot := rfl
@[simp] theorem setSleep_fw (c : Nat) (x : SleepState) : (s.setSleep c x).fw = s.fw := rfl
@[simp] theorem setSleep_last (c : Nat) (x : SleepState) : (s.setSleep c x).last = s.last := rfl
@[simp] theorem setSleep_mem (c : Nat) (x : SleepState) : (s.setSleep c x).mem = s.mem := rfl
@[simp] theorem setSleep_xlate (c : Nat) (x : SleepState) : (s.setSleep c x).xlate = s.xlate := rfl
@[simp] theorem setSleep_queue (c : Nat) (x : SleepState) : (s.setSleep c x).queue = s.queue := rfl
@[simp] theorem setSleep_trans (c : Nat) (x : SleepState) : (s.setSleep c x).trans = s.trans := rfl
@[simp] theorem setSleep_ports (c : Nat) (x : SleepState) : (s.setSleep c x).ports = s.ports := rfl
@[simp] theorem setSleep_filters (c : Nat) (x : SleepState) : (s.setSleep c x).filters = s.filters := rfl
@[simp] theorem setSleep_ingress (c : Nat) (x : SleepState) : (s.setSleep c x).ingress = s.ingress := rfl
@[simp] theorem setSleep_bypass (c : Nat) (x : SleepState) : (s.setSleep c x).bypass = s.bypass := rfl
@[simp] theorem setSleep_route (c : Nat) (x : SleepState) : (s.setSleep c x).route = s.route := rfl
@[simp] theorem setSleep_work (c : Nat) (x : SleepState) : (s.setSleep c x).work = s.work := rfl
@[simp] theorem setSleep_slices (c : Nat) (x : SleepState) : (s.setSleep c x).slices = s.slices := rfl
@[simp] theorem setSleep_dirtyLogs (c : Nat) (x : SleepState) : (s.setSleep c x).dirtyLogs = s.dirtyLogs := rfl
@[simp] theorem setSleep_mailboxes (c : Nat) (x : SleepState) : (s.setSleep c x).mailboxes = s.mailboxes := rfl
@[simp] theorem setSleep_host (c : Nat) (x : SleepState) : (s.setSleep c x).host = s.host := rfl
@[simp] theorem setSleep_hostReads (c : Nat) (x : SleepState) : (s.setSleep c x).hostReads = s.hostReads := rfl
@[simp] theorem setSleep_keys (c : Nat) (x : SleepState) : (s.setSleep c x).keys = s.keys := rfl
@[simp] theorem setSleep_checks (c : Nat) (x : SleepState) : (s.setSleep c x).checks = s.checks := rfl

/-! ### modFunc -/

@[simp] theorem modFunc_pending (f : Func) (g : FuncState → FuncState) : (s.modFunc f g).pending = s.pending := rfl
@[simp] theorem modFunc_out (f : Func) (g : FuncState → FuncState) : (s.modFunc f g).out = s.out := rfl
@[simp] theorem modFunc_freeCount (f : Func) (g : FuncState → FuncState) : (s.modFunc f g).freeCount = s.freeCount := rfl
@[simp] theorem modFunc_regs (f : Func) (g : FuncState → FuncState) : (s.modFunc f g).regs = s.regs := rfl
@[simp] theorem modFunc_time (f : Func) (g : FuncState → FuncState) : (s.modFunc f g).time = s.time := rfl
@[simp] theorem modFunc_board (f : Func) (g : FuncState → FuncState) : (s.modFunc f g).board = s.board := rfl
@[simp] theorem modFunc_power (f : Func) (g : FuncState → FuncState) : (s.modFunc f g).power = s.power := rfl
@[simp] theorem modFunc_boot (f : Func) (g : FuncState → FuncState) : (s.modFunc f g).boot = s.boot := rfl
@[simp] theorem modFunc_fw (f : Func) (g : FuncState → FuncState) : (s.modFunc f g).fw = s.fw := rfl
@[simp] theorem modFunc_last (f : Func) (g : FuncState → FuncState) : (s.modFunc f g).last = s.last := rfl
@[simp] theorem modFunc_mem (f : Func) (g : FuncState → FuncState) : (s.modFunc f g).mem = s.mem := rfl
@[simp] theorem modFunc_xlate (f : Func) (g : FuncState → FuncState) : (s.modFunc f g).xlate = s.xlate := rfl
@[simp] theorem modFunc_queue (f : Func) (g : FuncState → FuncState) : (s.modFunc f g).queue = s.queue := rfl
@[simp] theorem modFunc_trans (f : Func) (g : FuncState → FuncState) : (s.modFunc f g).trans = s.trans := rfl
@[simp] theorem modFunc_ports (f : Func) (g : FuncState → FuncState) : (s.modFunc f g).ports = s.ports := rfl
@[simp] theorem modFunc_filters (f : Func) (g : FuncState → FuncState) : (s.modFunc f g).filters = s.filters := rfl
@[simp] theorem modFunc_ingress (f : Func) (g : FuncState → FuncState) : (s.modFunc f g).ingress = s.ingress := rfl
@[simp] theorem modFunc_bypass (f : Func) (g : FuncState → FuncState) : (s.modFunc f g).bypass = s.bypass := rfl
@[simp] theorem modFunc_route (f : Func) (g : FuncState → FuncState) : (s.modFunc f g).route = s.route := rfl
@[simp] theorem modFunc_work (f : Func) (g : FuncState → FuncState) : (s.modFunc f g).work = s.work := rfl
@[simp] theorem modFunc_slices (f : Func) (g : FuncState → FuncState) : (s.modFunc f g).slices = s.slices := rfl
@[simp] theorem modFunc_dirtyLogs (f : Func) (g : FuncState → FuncState) : (s.modFunc f g).dirtyLogs = s.dirtyLogs := rfl
@[simp] theorem modFunc_mailboxes (f : Func) (g : FuncState → FuncState) : (s.modFunc f g).mailboxes = s.mailboxes := rfl
@[simp] theorem modFunc_hostReads (f : Func) (g : FuncState → FuncState) : (s.modFunc f g).hostReads = s.hostReads := rfl
@[simp] theorem modFunc_keys (f : Func) (g : FuncState → FuncState) : (s.modFunc f g).keys = s.keys := rfl
@[simp] theorem modFunc_checks (f : Func) (g : FuncState → FuncState) : (s.modFunc f g).checks = s.checks := rfl

/-! ### modHost -/

@[simp] theorem modHost_pending (p : Nat) (f : HostPort → HostPort) : (s.modHost p f).pending = s.pending := rfl
@[simp] theorem modHost_out (p : Nat) (f : HostPort → HostPort) : (s.modHost p f).out = s.out := rfl
@[simp] theorem modHost_freeCount (p : Nat) (f : HostPort → HostPort) : (s.modHost p f).freeCount = s.freeCount := rfl
@[simp] theorem modHost_regs (p : Nat) (f : HostPort → HostPort) : (s.modHost p f).regs = s.regs := rfl
@[simp] theorem modHost_time (p : Nat) (f : HostPort → HostPort) : (s.modHost p f).time = s.time := rfl
@[simp] theorem modHost_board (p : Nat) (f : HostPort → HostPort) : (s.modHost p f).board = s.board := rfl
@[simp] theorem modHost_power (p : Nat) (f : HostPort → HostPort) : (s.modHost p f).power = s.power := rfl
@[simp] theorem modHost_boot (p : Nat) (f : HostPort → HostPort) : (s.modHost p f).boot = s.boot := rfl
@[simp] theorem modHost_fw (p : Nat) (f : HostPort → HostPort) : (s.modHost p f).fw = s.fw := rfl
@[simp] theorem modHost_last (p : Nat) (f : HostPort → HostPort) : (s.modHost p f).last = s.last := rfl
@[simp] theorem modHost_mem (p : Nat) (f : HostPort → HostPort) : (s.modHost p f).mem = s.mem := rfl
@[simp] theorem modHost_xlate (p : Nat) (f : HostPort → HostPort) : (s.modHost p f).xlate = s.xlate := rfl
@[simp] theorem modHost_queue (p : Nat) (f : HostPort → HostPort) : (s.modHost p f).queue = s.queue := rfl
@[simp] theorem modHost_trans (p : Nat) (f : HostPort → HostPort) : (s.modHost p f).trans = s.trans := rfl
@[simp] theorem modHost_ports (p : Nat) (f : HostPort → HostPort) : (s.modHost p f).ports = s.ports := rfl
@[simp] theorem modHost_filters (p : Nat) (f : HostPort → HostPort) : (s.modHost p f).filters = s.filters := rfl
@[simp] theorem modHost_ingress (p : Nat) (f : HostPort → HostPort) : (s.modHost p f).ingress = s.ingress := rfl
@[simp] theorem modHost_bypass (p : Nat) (f : HostPort → HostPort) : (s.modHost p f).bypass = s.bypass := rfl
@[simp] theorem modHost_route (p : Nat) (f : HostPort → HostPort) : (s.modHost p f).route = s.route := rfl
@[simp] theorem modHost_work (p : Nat) (f : HostPort → HostPort) : (s.modHost p f).work = s.work := rfl
@[simp] theorem modHost_slices (p : Nat) (f : HostPort → HostPort) : (s.modHost p f).slices = s.slices := rfl
@[simp] theorem modHost_dirtyLogs (p : Nat) (f : HostPort → HostPort) : (s.modHost p f).dirtyLogs = s.dirtyLogs := rfl
@[simp] theorem modHost_mailboxes (p : Nat) (f : HostPort → HostPort) : (s.modHost p f).mailboxes = s.mailboxes := rfl
@[simp] theorem modHost_hostReads (p : Nat) (f : HostPort → HostPort) : (s.modHost p f).hostReads = s.hostReads := rfl
@[simp] theorem modHost_keys (p : Nat) (f : HostPort → HostPort) : (s.modHost p f).keys = s.keys := rfl
@[simp] theorem modHost_checks (p : Nat) (f : HostPort → HostPort) : (s.modHost p f).checks = s.checks := rfl

/-! ### modQueue -/

@[simp] theorem modQueue_pending (n : Nat) (f : Queue → Queue) : (s.modQueue n f).pending = s.pending := rfl
@[simp] theorem modQueue_out (n : Nat) (f : Queue → Queue) : (s.modQueue n f).out = s.out := rfl
@[simp] theorem modQueue_freeCount (n : Nat) (f : Queue → Queue) : (s.modQueue n f).freeCount = s.freeCount := rfl
@[simp] theorem modQueue_regs (n : Nat) (f : Queue → Queue) : (s.modQueue n f).regs = s.regs := rfl
@[simp] theorem modQueue_time (n : Nat) (f : Queue → Queue) : (s.modQueue n f).time = s.time := rfl
@[simp] theorem modQueue_board (n : Nat) (f : Queue → Queue) : (s.modQueue n f).board = s.board := rfl
@[simp] theorem modQueue_power (n : Nat) (f : Queue → Queue) : (s.modQueue n f).power = s.power := rfl
@[simp] theorem modQueue_boot (n : Nat) (f : Queue → Queue) : (s.modQueue n f).boot = s.boot := rfl
@[simp] theorem modQueue_fw (n : Nat) (f : Queue → Queue) : (s.modQueue n f).fw = s.fw := rfl
@[simp] theorem modQueue_last (n : Nat) (f : Queue → Queue) : (s.modQueue n f).last = s.last := rfl
@[simp] theorem modQueue_mem (n : Nat) (f : Queue → Queue) : (s.modQueue n f).mem = s.mem := rfl
@[simp] theorem modQueue_xlate (n : Nat) (f : Queue → Queue) : (s.modQueue n f).xlate = s.xlate := rfl
@[simp] theorem modQueue_trans (n : Nat) (f : Queue → Queue) : (s.modQueue n f).trans = s.trans := rfl
@[simp] theorem modQueue_ports (n : Nat) (f : Queue → Queue) : (s.modQueue n f).ports = s.ports := rfl
@[simp] theorem modQueue_filters (n : Nat) (f : Queue → Queue) : (s.modQueue n f).filters = s.filters := rfl
@[simp] theorem modQueue_ingress (n : Nat) (f : Queue → Queue) : (s.modQueue n f).ingress = s.ingress := rfl
@[simp] theorem modQueue_bypass (n : Nat) (f : Queue → Queue) : (s.modQueue n f).bypass = s.bypass := rfl
@[simp] theorem modQueue_route (n : Nat) (f : Queue → Queue) : (s.modQueue n f).route = s.route := rfl
@[simp] theorem modQueue_work (n : Nat) (f : Queue → Queue) : (s.modQueue n f).work = s.work := rfl
@[simp] theorem modQueue_slices (n : Nat) (f : Queue → Queue) : (s.modQueue n f).slices = s.slices := rfl
@[simp] theorem modQueue_dirtyLogs (n : Nat) (f : Queue → Queue) : (s.modQueue n f).dirtyLogs = s.dirtyLogs := rfl
@[simp] theorem modQueue_mailboxes (n : Nat) (f : Queue → Queue) : (s.modQueue n f).mailboxes = s.mailboxes := rfl
@[simp] theorem modQueue_host (n : Nat) (f : Queue → Queue) : (s.modQueue n f).host = s.host := rfl
@[simp] theorem modQueue_hostReads (n : Nat) (f : Queue → Queue) : (s.modQueue n f).hostReads = s.hostReads := rfl
@[simp] theorem modQueue_keys (n : Nat) (f : Queue → Queue) : (s.modQueue n f).keys = s.keys := rfl
@[simp] theorem modQueue_checks (n : Nat) (f : Queue → Queue) : (s.modQueue n f).checks = s.checks := rfl

/-! ### modStarted -/

@[simp] theorem modStarted_pending (q : Nat) (n : Word32) (f : Started → Started) : (s.modStarted q n f).pending = s.pending := rfl
@[simp] theorem modStarted_out (q : Nat) (n : Word32) (f : Started → Started) : (s.modStarted q n f).out = s.out := rfl
@[simp] theorem modStarted_freeCount (q : Nat) (n : Word32) (f : Started → Started) : (s.modStarted q n f).freeCount = s.freeCount := rfl
@[simp] theorem modStarted_regs (q : Nat) (n : Word32) (f : Started → Started) : (s.modStarted q n f).regs = s.regs := rfl
@[simp] theorem modStarted_time (q : Nat) (n : Word32) (f : Started → Started) : (s.modStarted q n f).time = s.time := rfl
@[simp] theorem modStarted_board (q : Nat) (n : Word32) (f : Started → Started) : (s.modStarted q n f).board = s.board := rfl
@[simp] theorem modStarted_power (q : Nat) (n : Word32) (f : Started → Started) : (s.modStarted q n f).power = s.power := rfl
@[simp] theorem modStarted_boot (q : Nat) (n : Word32) (f : Started → Started) : (s.modStarted q n f).boot = s.boot := rfl
@[simp] theorem modStarted_fw (q : Nat) (n : Word32) (f : Started → Started) : (s.modStarted q n f).fw = s.fw := rfl
@[simp] theorem modStarted_last (q : Nat) (n : Word32) (f : Started → Started) : (s.modStarted q n f).last = s.last := rfl
@[simp] theorem modStarted_mem (q : Nat) (n : Word32) (f : Started → Started) : (s.modStarted q n f).mem = s.mem := rfl
@[simp] theorem modStarted_xlate (q : Nat) (n : Word32) (f : Started → Started) : (s.modStarted q n f).xlate = s.xlate := rfl
@[simp] theorem modStarted_trans (q : Nat) (n : Word32) (f : Started → Started) : (s.modStarted q n f).trans = s.trans := rfl
@[simp] theorem modStarted_ports (q : Nat) (n : Word32) (f : Started → Started) : (s.modStarted q n f).ports = s.ports := rfl
@[simp] theorem modStarted_filters (q : Nat) (n : Word32) (f : Started → Started) : (s.modStarted q n f).filters = s.filters := rfl
@[simp] theorem modStarted_ingress (q : Nat) (n : Word32) (f : Started → Started) : (s.modStarted q n f).ingress = s.ingress := rfl
@[simp] theorem modStarted_bypass (q : Nat) (n : Word32) (f : Started → Started) : (s.modStarted q n f).bypass = s.bypass := rfl
@[simp] theorem modStarted_route (q : Nat) (n : Word32) (f : Started → Started) : (s.modStarted q n f).route = s.route := rfl
@[simp] theorem modStarted_work (q : Nat) (n : Word32) (f : Started → Started) : (s.modStarted q n f).work = s.work := rfl
@[simp] theorem modStarted_slices (q : Nat) (n : Word32) (f : Started → Started) : (s.modStarted q n f).slices = s.slices := rfl
@[simp] theorem modStarted_dirtyLogs (q : Nat) (n : Word32) (f : Started → Started) : (s.modStarted q n f).dirtyLogs = s.dirtyLogs := rfl
@[simp] theorem modStarted_mailboxes (q : Nat) (n : Word32) (f : Started → Started) : (s.modStarted q n f).mailboxes = s.mailboxes := rfl
@[simp] theorem modStarted_host (q : Nat) (n : Word32) (f : Started → Started) : (s.modStarted q n f).host = s.host := rfl
@[simp] theorem modStarted_hostReads (q : Nat) (n : Word32) (f : Started → Started) : (s.modStarted q n f).hostReads = s.hostReads := rfl
@[simp] theorem modStarted_keys (q : Nat) (n : Word32) (f : Started → Started) : (s.modStarted q n f).keys = s.keys := rfl
@[simp] theorem modStarted_checks (q : Nat) (n : Word32) (f : Started → Started) : (s.modStarted q n f).checks = s.checks := rfl

/-! ### endDesc -/

@[simp] theorem endDesc_pending (q : Nat) (n : Word32) (d : Done) : (s.endDesc q n d).pending = s.pending := rfl
@[simp] theorem endDesc_out (q : Nat) (n : Word32) (d : Done) : (s.endDesc q n d).out = s.out := rfl
@[simp] theorem endDesc_freeCount (q : Nat) (n : Word32) (d : Done) : (s.endDesc q n d).freeCount = s.freeCount := rfl
@[simp] theorem endDesc_regs (q : Nat) (n : Word32) (d : Done) : (s.endDesc q n d).regs = s.regs := rfl
@[simp] theorem endDesc_time (q : Nat) (n : Word32) (d : Done) : (s.endDesc q n d).time = s.time := rfl
@[simp] theorem endDesc_board (q : Nat) (n : Word32) (d : Done) : (s.endDesc q n d).board = s.board := rfl
@[simp] theorem endDesc_power (q : Nat) (n : Word32) (d : Done) : (s.endDesc q n d).power = s.power := rfl
@[simp] theorem endDesc_boot (q : Nat) (n : Word32) (d : Done) : (s.endDesc q n d).boot = s.boot := rfl
@[simp] theorem endDesc_fw (q : Nat) (n : Word32) (d : Done) : (s.endDesc q n d).fw = s.fw := rfl
@[simp] theorem endDesc_last (q : Nat) (n : Word32) (d : Done) : (s.endDesc q n d).last = s.last := rfl
@[simp] theorem endDesc_mem (q : Nat) (n : Word32) (d : Done) : (s.endDesc q n d).mem = s.mem := rfl
@[simp] theorem endDesc_xlate (q : Nat) (n : Word32) (d : Done) : (s.endDesc q n d).xlate = s.xlate := rfl
@[simp] theorem endDesc_trans (q : Nat) (n : Word32) (d : Done) : (s.endDesc q n d).trans = s.trans := rfl
@[simp] theorem endDesc_ports (q : Nat) (n : Word32) (d : Done) : (s.endDesc q n d).ports = s.ports := rfl
@[simp] theorem endDesc_filters (q : Nat) (n : Word32) (d : Done) : (s.endDesc q n d).filters = s.filters := rfl
@[simp] theorem endDesc_ingress (q : Nat) (n : Word32) (d : Done) : (s.endDesc q n d).ingress = s.ingress := rfl
@[simp] theorem endDesc_bypass (q : Nat) (n : Word32) (d : Done) : (s.endDesc q n d).bypass = s.bypass := rfl
@[simp] theorem endDesc_route (q : Nat) (n : Word32) (d : Done) : (s.endDesc q n d).route = s.route := rfl
@[simp] theorem endDesc_work (q : Nat) (n : Word32) (d : Done) : (s.endDesc q n d).work = s.work := rfl
@[simp] theorem endDesc_slices (q : Nat) (n : Word32) (d : Done) : (s.endDesc q n d).slices = s.slices := rfl
@[simp] theorem endDesc_dirtyLogs (q : Nat) (n : Word32) (d : Done) : (s.endDesc q n d).dirtyLogs = s.dirtyLogs := rfl
@[simp] theorem endDesc_mailboxes (q : Nat) (n : Word32) (d : Done) : (s.endDesc q n d).mailboxes = s.mailboxes := rfl
@[simp] theorem endDesc_host (q : Nat) (n : Word32) (d : Done) : (s.endDesc q n d).host = s.host := rfl
@[simp] theorem endDesc_hostReads (q : Nat) (n : Word32) (d : Done) : (s.endDesc q n d).hostReads = s.hostReads := rfl
@[simp] theorem endDesc_keys (q : Nat) (n : Word32) (d : Done) : (s.endDesc q n d).keys = s.keys := rfl
@[simp] theorem endDesc_checks (q : Nat) (n : Word32) (d : Done) : (s.endDesc q n d).checks = s.checks := rfl

/-! ### endWith -/

@[simp] theorem endWith_pending (q : Nat) (n : Word32) (c : Status) : (s.endWith q n c).pending = s.pending := rfl
@[simp] theorem endWith_out (q : Nat) (n : Word32) (c : Status) : (s.endWith q n c).out = s.out := rfl
@[simp] theorem endWith_freeCount (q : Nat) (n : Word32) (c : Status) : (s.endWith q n c).freeCount = s.freeCount := rfl
@[simp] theorem endWith_regs (q : Nat) (n : Word32) (c : Status) : (s.endWith q n c).regs = s.regs := rfl
@[simp] theorem endWith_time (q : Nat) (n : Word32) (c : Status) : (s.endWith q n c).time = s.time := rfl
@[simp] theorem endWith_board (q : Nat) (n : Word32) (c : Status) : (s.endWith q n c).board = s.board := rfl
@[simp] theorem endWith_power (q : Nat) (n : Word32) (c : Status) : (s.endWith q n c).power = s.power := rfl
@[simp] theorem endWith_boot (q : Nat) (n : Word32) (c : Status) : (s.endWith q n c).boot = s.boot := rfl
@[simp] theorem endWith_fw (q : Nat) (n : Word32) (c : Status) : (s.endWith q n c).fw = s.fw := rfl
@[simp] theorem endWith_last (q : Nat) (n : Word32) (c : Status) : (s.endWith q n c).last = s.last := rfl
@[simp] theorem endWith_mem (q : Nat) (n : Word32) (c : Status) : (s.endWith q n c).mem = s.mem := rfl
@[simp] theorem endWith_xlate (q : Nat) (n : Word32) (c : Status) : (s.endWith q n c).xlate = s.xlate := rfl
@[simp] theorem endWith_trans (q : Nat) (n : Word32) (c : Status) : (s.endWith q n c).trans = s.trans := rfl
@[simp] theorem endWith_ports (q : Nat) (n : Word32) (c : Status) : (s.endWith q n c).ports = s.ports := rfl
@[simp] theorem endWith_filters (q : Nat) (n : Word32) (c : Status) : (s.endWith q n c).filters = s.filters := rfl
@[simp] theorem endWith_ingress (q : Nat) (n : Word32) (c : Status) : (s.endWith q n c).ingress = s.ingress := rfl
@[simp] theorem endWith_bypass (q : Nat) (n : Word32) (c : Status) : (s.endWith q n c).bypass = s.bypass := rfl
@[simp] theorem endWith_route (q : Nat) (n : Word32) (c : Status) : (s.endWith q n c).route = s.route := rfl
@[simp] theorem endWith_work (q : Nat) (n : Word32) (c : Status) : (s.endWith q n c).work = s.work := rfl
@[simp] theorem endWith_slices (q : Nat) (n : Word32) (c : Status) : (s.endWith q n c).slices = s.slices := rfl
@[simp] theorem endWith_dirtyLogs (q : Nat) (n : Word32) (c : Status) : (s.endWith q n c).dirtyLogs = s.dirtyLogs := rfl
@[simp] theorem endWith_mailboxes (q : Nat) (n : Word32) (c : Status) : (s.endWith q n c).mailboxes = s.mailboxes := rfl
@[simp] theorem endWith_host (q : Nat) (n : Word32) (c : Status) : (s.endWith q n c).host = s.host := rfl
@[simp] theorem endWith_hostReads (q : Nat) (n : Word32) (c : Status) : (s.endWith q n c).hostReads = s.hostReads := rfl
@[simp] theorem endWith_keys (q : Nat) (n : Word32) (c : Status) : (s.endWith q n c).keys = s.keys := rfl
@[simp] theorem endWith_checks (q : Nat) (n : Word32) (c : Status) : (s.endWith q n c).checks = s.checks := rfl

/-! ### laceUp -/

@[simp] theorem laceUp_pending (slice gen counter amount : Nat) : (s.laceUp slice gen counter amount).pending = s.pending := rfl
@[simp] theorem laceUp_out (slice gen counter amount : Nat) : (s.laceUp slice gen counter amount).out = s.out := rfl
@[simp] theorem laceUp_freeCount (slice gen counter amount : Nat) : (s.laceUp slice gen counter amount).freeCount = s.freeCount := rfl
@[simp] theorem laceUp_regs (slice gen counter amount : Nat) : (s.laceUp slice gen counter amount).regs = s.regs := rfl
@[simp] theorem laceUp_time (slice gen counter amount : Nat) : (s.laceUp slice gen counter amount).time = s.time := rfl
@[simp] theorem laceUp_board (slice gen counter amount : Nat) : (s.laceUp slice gen counter amount).board = s.board := rfl
@[simp] theorem laceUp_power (slice gen counter amount : Nat) : (s.laceUp slice gen counter amount).power = s.power := rfl
@[simp] theorem laceUp_boot (slice gen counter amount : Nat) : (s.laceUp slice gen counter amount).boot = s.boot := rfl
@[simp] theorem laceUp_fw (slice gen counter amount : Nat) : (s.laceUp slice gen counter amount).fw = s.fw := rfl
@[simp] theorem laceUp_last (slice gen counter amount : Nat) : (s.laceUp slice gen counter amount).last = s.last := rfl
@[simp] theorem laceUp_mem (slice gen counter amount : Nat) : (s.laceUp slice gen counter amount).mem = s.mem := rfl
@[simp] theorem laceUp_xlate (slice gen counter amount : Nat) : (s.laceUp slice gen counter amount).xlate = s.xlate := rfl
@[simp] theorem laceUp_trans (slice gen counter amount : Nat) : (s.laceUp slice gen counter amount).trans = s.trans := rfl
@[simp] theorem laceUp_ports (slice gen counter amount : Nat) : (s.laceUp slice gen counter amount).ports = s.ports := rfl
@[simp] theorem laceUp_filters (slice gen counter amount : Nat) : (s.laceUp slice gen counter amount).filters = s.filters := rfl
@[simp] theorem laceUp_ingress (slice gen counter amount : Nat) : (s.laceUp slice gen counter amount).ingress = s.ingress := rfl
@[simp] theorem laceUp_bypass (slice gen counter amount : Nat) : (s.laceUp slice gen counter amount).bypass = s.bypass := rfl
@[simp] theorem laceUp_route (slice gen counter amount : Nat) : (s.laceUp slice gen counter amount).route = s.route := rfl
@[simp] theorem laceUp_work (slice gen counter amount : Nat) : (s.laceUp slice gen counter amount).work = s.work := rfl
@[simp] theorem laceUp_slices (slice gen counter amount : Nat) : (s.laceUp slice gen counter amount).slices = s.slices := rfl
@[simp] theorem laceUp_dirtyLogs (slice gen counter amount : Nat) : (s.laceUp slice gen counter amount).dirtyLogs = s.dirtyLogs := rfl
@[simp] theorem laceUp_mailboxes (slice gen counter amount : Nat) : (s.laceUp slice gen counter amount).mailboxes = s.mailboxes := rfl
@[simp] theorem laceUp_host (slice gen counter amount : Nat) : (s.laceUp slice gen counter amount).host = s.host := rfl
@[simp] theorem laceUp_hostReads (slice gen counter amount : Nat) : (s.laceUp slice gen counter amount).hostReads = s.hostReads := rfl
@[simp] theorem laceUp_keys (slice gen counter amount : Nat) : (s.laceUp slice gen counter amount).keys = s.keys := rfl
@[simp] theorem laceUp_checks (slice gen counter amount : Nat) : (s.laceUp slice gen counter amount).checks = s.checks := rfl

/-! ### modRange -/

@[simp] theorem modRange_pending (slice slot : Nat) (f : RangeEntry → RangeEntry) : (s.modRange slice slot f).pending = s.pending := rfl
@[simp] theorem modRange_out (slice slot : Nat) (f : RangeEntry → RangeEntry) : (s.modRange slice slot f).out = s.out := rfl
@[simp] theorem modRange_freeCount (slice slot : Nat) (f : RangeEntry → RangeEntry) : (s.modRange slice slot f).freeCount = s.freeCount := rfl
@[simp] theorem modRange_regs (slice slot : Nat) (f : RangeEntry → RangeEntry) : (s.modRange slice slot f).regs = s.regs := rfl
@[simp] theorem modRange_time (slice slot : Nat) (f : RangeEntry → RangeEntry) : (s.modRange slice slot f).time = s.time := rfl
@[simp] theorem modRange_board (slice slot : Nat) (f : RangeEntry → RangeEntry) : (s.modRange slice slot f).board = s.board := rfl
@[simp] theorem modRange_power (slice slot : Nat) (f : RangeEntry → RangeEntry) : (s.modRange slice slot f).power = s.power := rfl
@[simp] theorem modRange_boot (slice slot : Nat) (f : RangeEntry → RangeEntry) : (s.modRange slice slot f).boot = s.boot := rfl
@[simp] theorem modRange_fw (slice slot : Nat) (f : RangeEntry → RangeEntry) : (s.modRange slice slot f).fw = s.fw := rfl
@[simp] theorem modRange_last (slice slot : Nat) (f : RangeEntry → RangeEntry) : (s.modRange slice slot f).last = s.last := rfl
@[simp] theorem modRange_mem (slice slot : Nat) (f : RangeEntry → RangeEntry) : (s.modRange slice slot f).mem = s.mem := rfl
@[simp] theorem modRange_queue (slice slot : Nat) (f : RangeEntry → RangeEntry) : (s.modRange slice slot f).queue = s.queue := rfl
@[simp] theorem modRange_trans (slice slot : Nat) (f : RangeEntry → RangeEntry) : (s.modRange slice slot f).trans = s.trans := rfl
@[simp] theorem modRange_ports (slice slot : Nat) (f : RangeEntry → RangeEntry) : (s.modRange slice slot f).ports = s.ports := rfl
@[simp] theorem modRange_filters (slice slot : Nat) (f : RangeEntry → RangeEntry) : (s.modRange slice slot f).filters = s.filters := rfl
@[simp] theorem modRange_ingress (slice slot : Nat) (f : RangeEntry → RangeEntry) : (s.modRange slice slot f).ingress = s.ingress := rfl
@[simp] theorem modRange_bypass (slice slot : Nat) (f : RangeEntry → RangeEntry) : (s.modRange slice slot f).bypass = s.bypass := rfl
@[simp] theorem modRange_route (slice slot : Nat) (f : RangeEntry → RangeEntry) : (s.modRange slice slot f).route = s.route := rfl
@[simp] theorem modRange_work (slice slot : Nat) (f : RangeEntry → RangeEntry) : (s.modRange slice slot f).work = s.work := rfl
@[simp] theorem modRange_slices (slice slot : Nat) (f : RangeEntry → RangeEntry) : (s.modRange slice slot f).slices = s.slices := rfl
@[simp] theorem modRange_dirtyLogs (slice slot : Nat) (f : RangeEntry → RangeEntry) : (s.modRange slice slot f).dirtyLogs = s.dirtyLogs := rfl
@[simp] theorem modRange_mailboxes (slice slot : Nat) (f : RangeEntry → RangeEntry) : (s.modRange slice slot f).mailboxes = s.mailboxes := rfl
@[simp] theorem modRange_host (slice slot : Nat) (f : RangeEntry → RangeEntry) : (s.modRange slice slot f).host = s.host := rfl
@[simp] theorem modRange_hostReads (slice slot : Nat) (f : RangeEntry → RangeEntry) : (s.modRange slice slot f).hostReads = s.hostReads := rfl
@[simp] theorem modRange_keys (slice slot : Nat) (f : RangeEntry → RangeEntry) : (s.modRange slice slot f).keys = s.keys := rfl
@[simp] theorem modRange_checks (slice slot : Nat) (f : RangeEntry → RangeEntry) : (s.modRange slice slot f).checks = s.checks := rfl

/-! ### modWaiting -/

@[simp] theorem modWaiting_pending (id : Nat) (f : Waiting → Waiting) : (s.modWaiting id f).pending = s.pending := rfl
@[simp] theorem modWaiting_out (id : Nat) (f : Waiting → Waiting) : (s.modWaiting id f).out = s.out := rfl
@[simp] theorem modWaiting_freeCount (id : Nat) (f : Waiting → Waiting) : (s.modWaiting id f).freeCount = s.freeCount := rfl
@[simp] theorem modWaiting_regs (id : Nat) (f : Waiting → Waiting) : (s.modWaiting id f).regs = s.regs := rfl
@[simp] theorem modWaiting_time (id : Nat) (f : Waiting → Waiting) : (s.modWaiting id f).time = s.time := rfl
@[simp] theorem modWaiting_board (id : Nat) (f : Waiting → Waiting) : (s.modWaiting id f).board = s.board := rfl
@[simp] theorem modWaiting_power (id : Nat) (f : Waiting → Waiting) : (s.modWaiting id f).power = s.power := rfl
@[simp] theorem modWaiting_boot (id : Nat) (f : Waiting → Waiting) : (s.modWaiting id f).boot = s.boot := rfl
@[simp] theorem modWaiting_fw (id : Nat) (f : Waiting → Waiting) : (s.modWaiting id f).fw = s.fw := rfl
@[simp] theorem modWaiting_last (id : Nat) (f : Waiting → Waiting) : (s.modWaiting id f).last = s.last := rfl
@[simp] theorem modWaiting_mem (id : Nat) (f : Waiting → Waiting) : (s.modWaiting id f).mem = s.mem := rfl
@[simp] theorem modWaiting_queue (id : Nat) (f : Waiting → Waiting) : (s.modWaiting id f).queue = s.queue := rfl
@[simp] theorem modWaiting_trans (id : Nat) (f : Waiting → Waiting) : (s.modWaiting id f).trans = s.trans := rfl
@[simp] theorem modWaiting_ports (id : Nat) (f : Waiting → Waiting) : (s.modWaiting id f).ports = s.ports := rfl
@[simp] theorem modWaiting_filters (id : Nat) (f : Waiting → Waiting) : (s.modWaiting id f).filters = s.filters := rfl
@[simp] theorem modWaiting_ingress (id : Nat) (f : Waiting → Waiting) : (s.modWaiting id f).ingress = s.ingress := rfl
@[simp] theorem modWaiting_bypass (id : Nat) (f : Waiting → Waiting) : (s.modWaiting id f).bypass = s.bypass := rfl
@[simp] theorem modWaiting_route (id : Nat) (f : Waiting → Waiting) : (s.modWaiting id f).route = s.route := rfl
@[simp] theorem modWaiting_work (id : Nat) (f : Waiting → Waiting) : (s.modWaiting id f).work = s.work := rfl
@[simp] theorem modWaiting_slices (id : Nat) (f : Waiting → Waiting) : (s.modWaiting id f).slices = s.slices := rfl
@[simp] theorem modWaiting_dirtyLogs (id : Nat) (f : Waiting → Waiting) : (s.modWaiting id f).dirtyLogs = s.dirtyLogs := rfl
@[simp] theorem modWaiting_mailboxes (id : Nat) (f : Waiting → Waiting) : (s.modWaiting id f).mailboxes = s.mailboxes := rfl
@[simp] theorem modWaiting_host (id : Nat) (f : Waiting → Waiting) : (s.modWaiting id f).host = s.host := rfl
@[simp] theorem modWaiting_hostReads (id : Nat) (f : Waiting → Waiting) : (s.modWaiting id f).hostReads = s.hostReads := rfl
@[simp] theorem modWaiting_keys (id : Nat) (f : Waiting → Waiting) : (s.modWaiting id f).keys = s.keys := rfl
@[simp] theorem modWaiting_checks (id : Nat) (f : Waiting → Waiting) : (s.modWaiting id f).checks = s.checks := rfl

/-! ### dropWaiting -/

@[simp] theorem dropWaiting_pending (id : Nat) : (s.dropWaiting id).pending = s.pending := rfl
@[simp] theorem dropWaiting_out (id : Nat) : (s.dropWaiting id).out = s.out := rfl
@[simp] theorem dropWaiting_freeCount (id : Nat) : (s.dropWaiting id).freeCount = s.freeCount := rfl
@[simp] theorem dropWaiting_regs (id : Nat) : (s.dropWaiting id).regs = s.regs := rfl
@[simp] theorem dropWaiting_time (id : Nat) : (s.dropWaiting id).time = s.time := rfl
@[simp] theorem dropWaiting_board (id : Nat) : (s.dropWaiting id).board = s.board := rfl
@[simp] theorem dropWaiting_power (id : Nat) : (s.dropWaiting id).power = s.power := rfl
@[simp] theorem dropWaiting_boot (id : Nat) : (s.dropWaiting id).boot = s.boot := rfl
@[simp] theorem dropWaiting_fw (id : Nat) : (s.dropWaiting id).fw = s.fw := rfl
@[simp] theorem dropWaiting_last (id : Nat) : (s.dropWaiting id).last = s.last := rfl
@[simp] theorem dropWaiting_mem (id : Nat) : (s.dropWaiting id).mem = s.mem := rfl
@[simp] theorem dropWaiting_queue (id : Nat) : (s.dropWaiting id).queue = s.queue := rfl
@[simp] theorem dropWaiting_trans (id : Nat) : (s.dropWaiting id).trans = s.trans := rfl
@[simp] theorem dropWaiting_ports (id : Nat) : (s.dropWaiting id).ports = s.ports := rfl
@[simp] theorem dropWaiting_filters (id : Nat) : (s.dropWaiting id).filters = s.filters := rfl
@[simp] theorem dropWaiting_ingress (id : Nat) : (s.dropWaiting id).ingress = s.ingress := rfl
@[simp] theorem dropWaiting_bypass (id : Nat) : (s.dropWaiting id).bypass = s.bypass := rfl
@[simp] theorem dropWaiting_route (id : Nat) : (s.dropWaiting id).route = s.route := rfl
@[simp] theorem dropWaiting_work (id : Nat) : (s.dropWaiting id).work = s.work := rfl
@[simp] theorem dropWaiting_slices (id : Nat) : (s.dropWaiting id).slices = s.slices := rfl
@[simp] theorem dropWaiting_dirtyLogs (id : Nat) : (s.dropWaiting id).dirtyLogs = s.dirtyLogs := rfl
@[simp] theorem dropWaiting_mailboxes (id : Nat) : (s.dropWaiting id).mailboxes = s.mailboxes := rfl
@[simp] theorem dropWaiting_host (id : Nat) : (s.dropWaiting id).host = s.host := rfl
@[simp] theorem dropWaiting_hostReads (id : Nat) : (s.dropWaiting id).hostReads = s.hostReads := rfl
@[simp] theorem dropWaiting_keys (id : Nat) : (s.dropWaiting id).keys = s.keys := rfl
@[simp] theorem dropWaiting_checks (id : Nat) : (s.dropWaiting id).checks = s.checks := rfl

/-! ### setDirty -/

@[simp] theorem setDirty_pending (slice : Nat) (l : List DirtyPath) : (s.setDirty slice l).pending = s.pending := rfl
@[simp] theorem setDirty_out (slice : Nat) (l : List DirtyPath) : (s.setDirty slice l).out = s.out := rfl
@[simp] theorem setDirty_freeCount (slice : Nat) (l : List DirtyPath) : (s.setDirty slice l).freeCount = s.freeCount := rfl
@[simp] theorem setDirty_regs (slice : Nat) (l : List DirtyPath) : (s.setDirty slice l).regs = s.regs := rfl
@[simp] theorem setDirty_time (slice : Nat) (l : List DirtyPath) : (s.setDirty slice l).time = s.time := rfl
@[simp] theorem setDirty_board (slice : Nat) (l : List DirtyPath) : (s.setDirty slice l).board = s.board := rfl
@[simp] theorem setDirty_power (slice : Nat) (l : List DirtyPath) : (s.setDirty slice l).power = s.power := rfl
@[simp] theorem setDirty_boot (slice : Nat) (l : List DirtyPath) : (s.setDirty slice l).boot = s.boot := rfl
@[simp] theorem setDirty_fw (slice : Nat) (l : List DirtyPath) : (s.setDirty slice l).fw = s.fw := rfl
@[simp] theorem setDirty_last (slice : Nat) (l : List DirtyPath) : (s.setDirty slice l).last = s.last := rfl
@[simp] theorem setDirty_mem (slice : Nat) (l : List DirtyPath) : (s.setDirty slice l).mem = s.mem := rfl
@[simp] theorem setDirty_queue (slice : Nat) (l : List DirtyPath) : (s.setDirty slice l).queue = s.queue := rfl
@[simp] theorem setDirty_trans (slice : Nat) (l : List DirtyPath) : (s.setDirty slice l).trans = s.trans := rfl
@[simp] theorem setDirty_ports (slice : Nat) (l : List DirtyPath) : (s.setDirty slice l).ports = s.ports := rfl
@[simp] theorem setDirty_filters (slice : Nat) (l : List DirtyPath) : (s.setDirty slice l).filters = s.filters := rfl
@[simp] theorem setDirty_ingress (slice : Nat) (l : List DirtyPath) : (s.setDirty slice l).ingress = s.ingress := rfl
@[simp] theorem setDirty_bypass (slice : Nat) (l : List DirtyPath) : (s.setDirty slice l).bypass = s.bypass := rfl
@[simp] theorem setDirty_route (slice : Nat) (l : List DirtyPath) : (s.setDirty slice l).route = s.route := rfl
@[simp] theorem setDirty_work (slice : Nat) (l : List DirtyPath) : (s.setDirty slice l).work = s.work := rfl
@[simp] theorem setDirty_slices (slice : Nat) (l : List DirtyPath) : (s.setDirty slice l).slices = s.slices := rfl
@[simp] theorem setDirty_dirtyLogs (slice : Nat) (l : List DirtyPath) : (s.setDirty slice l).dirtyLogs = s.dirtyLogs := rfl
@[simp] theorem setDirty_mailboxes (slice : Nat) (l : List DirtyPath) : (s.setDirty slice l).mailboxes = s.mailboxes := rfl
@[simp] theorem setDirty_host (slice : Nat) (l : List DirtyPath) : (s.setDirty slice l).host = s.host := rfl
@[simp] theorem setDirty_hostReads (slice : Nat) (l : List DirtyPath) : (s.setDirty slice l).hostReads = s.hostReads := rfl
@[simp] theorem setDirty_keys (slice : Nat) (l : List DirtyPath) : (s.setDirty slice l).keys = s.keys := rfl
@[simp] theorem setDirty_checks (slice : Nat) (l : List DirtyPath) : (s.setDirty slice l).checks = s.checks := rfl

/-! ### logPages -/

@[simp] theorem logPages_pending (slice : Nat) (l : List Nat) : (s.logPages slice l).pending = s.pending := rfl
@[simp] theorem logPages_out (slice : Nat) (l : List Nat) : (s.logPages slice l).out = s.out := rfl
@[simp] theorem logPages_freeCount (slice : Nat) (l : List Nat) : (s.logPages slice l).freeCount = s.freeCount := rfl
@[simp] theorem logPages_regs (slice : Nat) (l : List Nat) : (s.logPages slice l).regs = s.regs := rfl
@[simp] theorem logPages_time (slice : Nat) (l : List Nat) : (s.logPages slice l).time = s.time := rfl
@[simp] theorem logPages_board (slice : Nat) (l : List Nat) : (s.logPages slice l).board = s.board := rfl
@[simp] theorem logPages_power (slice : Nat) (l : List Nat) : (s.logPages slice l).power = s.power := rfl
@[simp] theorem logPages_boot (slice : Nat) (l : List Nat) : (s.logPages slice l).boot = s.boot := rfl
@[simp] theorem logPages_fw (slice : Nat) (l : List Nat) : (s.logPages slice l).fw = s.fw := rfl
@[simp] theorem logPages_last (slice : Nat) (l : List Nat) : (s.logPages slice l).last = s.last := rfl
@[simp] theorem logPages_mem (slice : Nat) (l : List Nat) : (s.logPages slice l).mem = s.mem := rfl
@[simp] theorem logPages_xlate (slice : Nat) (l : List Nat) : (s.logPages slice l).xlate = s.xlate := rfl
@[simp] theorem logPages_queue (slice : Nat) (l : List Nat) : (s.logPages slice l).queue = s.queue := rfl
@[simp] theorem logPages_trans (slice : Nat) (l : List Nat) : (s.logPages slice l).trans = s.trans := rfl
@[simp] theorem logPages_ports (slice : Nat) (l : List Nat) : (s.logPages slice l).ports = s.ports := rfl
@[simp] theorem logPages_filters (slice : Nat) (l : List Nat) : (s.logPages slice l).filters = s.filters := rfl
@[simp] theorem logPages_ingress (slice : Nat) (l : List Nat) : (s.logPages slice l).ingress = s.ingress := rfl
@[simp] theorem logPages_bypass (slice : Nat) (l : List Nat) : (s.logPages slice l).bypass = s.bypass := rfl
@[simp] theorem logPages_route (slice : Nat) (l : List Nat) : (s.logPages slice l).route = s.route := rfl
@[simp] theorem logPages_work (slice : Nat) (l : List Nat) : (s.logPages slice l).work = s.work := rfl
@[simp] theorem logPages_slices (slice : Nat) (l : List Nat) : (s.logPages slice l).slices = s.slices := rfl
@[simp] theorem logPages_mailboxes (slice : Nat) (l : List Nat) : (s.logPages slice l).mailboxes = s.mailboxes := rfl
@[simp] theorem logPages_host (slice : Nat) (l : List Nat) : (s.logPages slice l).host = s.host := rfl
@[simp] theorem logPages_hostReads (slice : Nat) (l : List Nat) : (s.logPages slice l).hostReads = s.hostReads := rfl
@[simp] theorem logPages_keys (slice : Nat) (l : List Nat) : (s.logPages slice l).keys = s.keys := rfl
@[simp] theorem logPages_checks (slice : Nat) (l : List Nat) : (s.logPages slice l).checks = s.checks := rfl

/-! ### modMailbox -/

@[simp] theorem modMailbox_pending (k : Nat) (f : Mailbox → Mailbox) : (s.modMailbox k f).pending = s.pending := rfl
@[simp] theorem modMailbox_out (k : Nat) (f : Mailbox → Mailbox) : (s.modMailbox k f).out = s.out := rfl
@[simp] theorem modMailbox_freeCount (k : Nat) (f : Mailbox → Mailbox) : (s.modMailbox k f).freeCount = s.freeCount := rfl
@[simp] theorem modMailbox_regs (k : Nat) (f : Mailbox → Mailbox) : (s.modMailbox k f).regs = s.regs := rfl
@[simp] theorem modMailbox_time (k : Nat) (f : Mailbox → Mailbox) : (s.modMailbox k f).time = s.time := rfl
@[simp] theorem modMailbox_board (k : Nat) (f : Mailbox → Mailbox) : (s.modMailbox k f).board = s.board := rfl
@[simp] theorem modMailbox_power (k : Nat) (f : Mailbox → Mailbox) : (s.modMailbox k f).power = s.power := rfl
@[simp] theorem modMailbox_boot (k : Nat) (f : Mailbox → Mailbox) : (s.modMailbox k f).boot = s.boot := rfl
@[simp] theorem modMailbox_fw (k : Nat) (f : Mailbox → Mailbox) : (s.modMailbox k f).fw = s.fw := rfl
@[simp] theorem modMailbox_last (k : Nat) (f : Mailbox → Mailbox) : (s.modMailbox k f).last = s.last := rfl
@[simp] theorem modMailbox_mem (k : Nat) (f : Mailbox → Mailbox) : (s.modMailbox k f).mem = s.mem := rfl
@[simp] theorem modMailbox_xlate (k : Nat) (f : Mailbox → Mailbox) : (s.modMailbox k f).xlate = s.xlate := rfl
@[simp] theorem modMailbox_queue (k : Nat) (f : Mailbox → Mailbox) : (s.modMailbox k f).queue = s.queue := rfl
@[simp] theorem modMailbox_trans (k : Nat) (f : Mailbox → Mailbox) : (s.modMailbox k f).trans = s.trans := rfl
@[simp] theorem modMailbox_ports (k : Nat) (f : Mailbox → Mailbox) : (s.modMailbox k f).ports = s.ports := rfl
@[simp] theorem modMailbox_filters (k : Nat) (f : Mailbox → Mailbox) : (s.modMailbox k f).filters = s.filters := rfl
@[simp] theorem modMailbox_ingress (k : Nat) (f : Mailbox → Mailbox) : (s.modMailbox k f).ingress = s.ingress := rfl
@[simp] theorem modMailbox_bypass (k : Nat) (f : Mailbox → Mailbox) : (s.modMailbox k f).bypass = s.bypass := rfl
@[simp] theorem modMailbox_route (k : Nat) (f : Mailbox → Mailbox) : (s.modMailbox k f).route = s.route := rfl
@[simp] theorem modMailbox_work (k : Nat) (f : Mailbox → Mailbox) : (s.modMailbox k f).work = s.work := rfl
@[simp] theorem modMailbox_slices (k : Nat) (f : Mailbox → Mailbox) : (s.modMailbox k f).slices = s.slices := rfl
@[simp] theorem modMailbox_dirtyLogs (k : Nat) (f : Mailbox → Mailbox) : (s.modMailbox k f).dirtyLogs = s.dirtyLogs := rfl
@[simp] theorem modMailbox_host (k : Nat) (f : Mailbox → Mailbox) : (s.modMailbox k f).host = s.host := rfl
@[simp] theorem modMailbox_hostReads (k : Nat) (f : Mailbox → Mailbox) : (s.modMailbox k f).hostReads = s.hostReads := rfl
@[simp] theorem modMailbox_keys (k : Nat) (f : Mailbox → Mailbox) : (s.modMailbox k f).keys = s.keys := rfl
@[simp] theorem modMailbox_checks (k : Nat) (f : Mailbox → Mailbox) : (s.modMailbox k f).checks = s.checks := rfl

/-! ### answer -/

@[simp] theorem answer_pending (slice : Nat) (tag : Word32) (op : Nat) (st : Status) (detail : Nat) (info : List Nat) : (s.answer slice tag op st detail info).pending = s.pending := rfl
@[simp] theorem answer_out (slice : Nat) (tag : Word32) (op : Nat) (st : Status) (detail : Nat) (info : List Nat) : (s.answer slice tag op st detail info).out = s.out := rfl
@[simp] theorem answer_freeCount (slice : Nat) (tag : Word32) (op : Nat) (st : Status) (detail : Nat) (info : List Nat) : (s.answer slice tag op st detail info).freeCount = s.freeCount := rfl
@[simp] theorem answer_regs (slice : Nat) (tag : Word32) (op : Nat) (st : Status) (detail : Nat) (info : List Nat) : (s.answer slice tag op st detail info).regs = s.regs := rfl
@[simp] theorem answer_time (slice : Nat) (tag : Word32) (op : Nat) (st : Status) (detail : Nat) (info : List Nat) : (s.answer slice tag op st detail info).time = s.time := rfl
@[simp] theorem answer_board (slice : Nat) (tag : Word32) (op : Nat) (st : Status) (detail : Nat) (info : List Nat) : (s.answer slice tag op st detail info).board = s.board := rfl
@[simp] theorem answer_power (slice : Nat) (tag : Word32) (op : Nat) (st : Status) (detail : Nat) (info : List Nat) : (s.answer slice tag op st detail info).power = s.power := rfl
@[simp] theorem answer_boot (slice : Nat) (tag : Word32) (op : Nat) (st : Status) (detail : Nat) (info : List Nat) : (s.answer slice tag op st detail info).boot = s.boot := rfl
@[simp] theorem answer_fw (slice : Nat) (tag : Word32) (op : Nat) (st : Status) (detail : Nat) (info : List Nat) : (s.answer slice tag op st detail info).fw = s.fw := rfl
@[simp] theorem answer_last (slice : Nat) (tag : Word32) (op : Nat) (st : Status) (detail : Nat) (info : List Nat) : (s.answer slice tag op st detail info).last = s.last := rfl
@[simp] theorem answer_mem (slice : Nat) (tag : Word32) (op : Nat) (st : Status) (detail : Nat) (info : List Nat) : (s.answer slice tag op st detail info).mem = s.mem := rfl
@[simp] theorem answer_xlate (slice : Nat) (tag : Word32) (op : Nat) (st : Status) (detail : Nat) (info : List Nat) : (s.answer slice tag op st detail info).xlate = s.xlate := rfl
@[simp] theorem answer_queue (slice : Nat) (tag : Word32) (op : Nat) (st : Status) (detail : Nat) (info : List Nat) : (s.answer slice tag op st detail info).queue = s.queue := rfl
@[simp] theorem answer_trans (slice : Nat) (tag : Word32) (op : Nat) (st : Status) (detail : Nat) (info : List Nat) : (s.answer slice tag op st detail info).trans = s.trans := rfl
@[simp] theorem answer_ports (slice : Nat) (tag : Word32) (op : Nat) (st : Status) (detail : Nat) (info : List Nat) : (s.answer slice tag op st detail info).ports = s.ports := rfl
@[simp] theorem answer_filters (slice : Nat) (tag : Word32) (op : Nat) (st : Status) (detail : Nat) (info : List Nat) : (s.answer slice tag op st detail info).filters = s.filters := rfl
@[simp] theorem answer_ingress (slice : Nat) (tag : Word32) (op : Nat) (st : Status) (detail : Nat) (info : List Nat) : (s.answer slice tag op st detail info).ingress = s.ingress := rfl
@[simp] theorem answer_bypass (slice : Nat) (tag : Word32) (op : Nat) (st : Status) (detail : Nat) (info : List Nat) : (s.answer slice tag op st detail info).bypass = s.bypass := rfl
@[simp] theorem answer_route (slice : Nat) (tag : Word32) (op : Nat) (st : Status) (detail : Nat) (info : List Nat) : (s.answer slice tag op st detail info).route = s.route := rfl
@[simp] theorem answer_work (slice : Nat) (tag : Word32) (op : Nat) (st : Status) (detail : Nat) (info : List Nat) : (s.answer slice tag op st detail info).work = s.work := rfl
@[simp] theorem answer_slices (slice : Nat) (tag : Word32) (op : Nat) (st : Status) (detail : Nat) (info : List Nat) : (s.answer slice tag op st detail info).slices = s.slices := rfl
@[simp] theorem answer_dirtyLogs (slice : Nat) (tag : Word32) (op : Nat) (st : Status) (detail : Nat) (info : List Nat) : (s.answer slice tag op st detail info).dirtyLogs = s.dirtyLogs := rfl
@[simp] theorem answer_host (slice : Nat) (tag : Word32) (op : Nat) (st : Status) (detail : Nat) (info : List Nat) : (s.answer slice tag op st detail info).host = s.host := rfl
@[simp] theorem answer_hostReads (slice : Nat) (tag : Word32) (op : Nat) (st : Status) (detail : Nat) (info : List Nat) : (s.answer slice tag op st detail info).hostReads = s.hostReads := rfl
@[simp] theorem answer_keys (slice : Nat) (tag : Word32) (op : Nat) (st : Status) (detail : Nat) (info : List Nat) : (s.answer slice tag op st detail info).keys = s.keys := rfl
@[simp] theorem answer_checks (slice : Nat) (tag : Word32) (op : Nat) (st : Status) (detail : Nat) (info : List Nat) : (s.answer slice tag op st detail info).checks = s.checks := rfl

/-! ### modConn -/

@[simp] theorem modConn_pending (k : Nat) (f : Conn → Conn) : (s.modConn k f).pending = s.pending := rfl
@[simp] theorem modConn_out (k : Nat) (f : Conn → Conn) : (s.modConn k f).out = s.out := rfl
@[simp] theorem modConn_freeCount (k : Nat) (f : Conn → Conn) : (s.modConn k f).freeCount = s.freeCount := rfl
@[simp] theorem modConn_regs (k : Nat) (f : Conn → Conn) : (s.modConn k f).regs = s.regs := rfl
@[simp] theorem modConn_time (k : Nat) (f : Conn → Conn) : (s.modConn k f).time = s.time := rfl
@[simp] theorem modConn_board (k : Nat) (f : Conn → Conn) : (s.modConn k f).board = s.board := rfl
@[simp] theorem modConn_power (k : Nat) (f : Conn → Conn) : (s.modConn k f).power = s.power := rfl
@[simp] theorem modConn_boot (k : Nat) (f : Conn → Conn) : (s.modConn k f).boot = s.boot := rfl
@[simp] theorem modConn_fw (k : Nat) (f : Conn → Conn) : (s.modConn k f).fw = s.fw := rfl
@[simp] theorem modConn_last (k : Nat) (f : Conn → Conn) : (s.modConn k f).last = s.last := rfl
@[simp] theorem modConn_mem (k : Nat) (f : Conn → Conn) : (s.modConn k f).mem = s.mem := rfl
@[simp] theorem modConn_xlate (k : Nat) (f : Conn → Conn) : (s.modConn k f).xlate = s.xlate := rfl
@[simp] theorem modConn_queue (k : Nat) (f : Conn → Conn) : (s.modConn k f).queue = s.queue := rfl
@[simp] theorem modConn_ports (k : Nat) (f : Conn → Conn) : (s.modConn k f).ports = s.ports := rfl
@[simp] theorem modConn_filters (k : Nat) (f : Conn → Conn) : (s.modConn k f).filters = s.filters := rfl
@[simp] theorem modConn_ingress (k : Nat) (f : Conn → Conn) : (s.modConn k f).ingress = s.ingress := rfl
@[simp] theorem modConn_bypass (k : Nat) (f : Conn → Conn) : (s.modConn k f).bypass = s.bypass := rfl
@[simp] theorem modConn_route (k : Nat) (f : Conn → Conn) : (s.modConn k f).route = s.route := rfl
@[simp] theorem modConn_work (k : Nat) (f : Conn → Conn) : (s.modConn k f).work = s.work := rfl
@[simp] theorem modConn_slices (k : Nat) (f : Conn → Conn) : (s.modConn k f).slices = s.slices := rfl
@[simp] theorem modConn_dirtyLogs (k : Nat) (f : Conn → Conn) : (s.modConn k f).dirtyLogs = s.dirtyLogs := rfl
@[simp] theorem modConn_mailboxes (k : Nat) (f : Conn → Conn) : (s.modConn k f).mailboxes = s.mailboxes := rfl
@[simp] theorem modConn_host (k : Nat) (f : Conn → Conn) : (s.modConn k f).host = s.host := rfl
@[simp] theorem modConn_hostReads (k : Nat) (f : Conn → Conn) : (s.modConn k f).hostReads = s.hostReads := rfl
@[simp] theorem modConn_keys (k : Nat) (f : Conn → Conn) : (s.modConn k f).keys = s.keys := rfl
@[simp] theorem modConn_checks (k : Nat) (f : Conn → Conn) : (s.modConn k f).checks = s.checks := rfl

/-! ### modOp -/

@[simp] theorem modOp_pending (id : Nat) (f : ConnOp → ConnOp) : (s.modOp id f).pending = s.pending := rfl
@[simp] theorem modOp_out (id : Nat) (f : ConnOp → ConnOp) : (s.modOp id f).out = s.out := rfl
@[simp] theorem modOp_freeCount (id : Nat) (f : ConnOp → ConnOp) : (s.modOp id f).freeCount = s.freeCount := rfl
@[simp] theorem modOp_regs (id : Nat) (f : ConnOp → ConnOp) : (s.modOp id f).regs = s.regs := rfl
@[simp] theorem modOp_time (id : Nat) (f : ConnOp → ConnOp) : (s.modOp id f).time = s.time := rfl
@[simp] theorem modOp_board (id : Nat) (f : ConnOp → ConnOp) : (s.modOp id f).board = s.board := rfl
@[simp] theorem modOp_power (id : Nat) (f : ConnOp → ConnOp) : (s.modOp id f).power = s.power := rfl
@[simp] theorem modOp_boot (id : Nat) (f : ConnOp → ConnOp) : (s.modOp id f).boot = s.boot := rfl
@[simp] theorem modOp_fw (id : Nat) (f : ConnOp → ConnOp) : (s.modOp id f).fw = s.fw := rfl
@[simp] theorem modOp_last (id : Nat) (f : ConnOp → ConnOp) : (s.modOp id f).last = s.last := rfl
@[simp] theorem modOp_mem (id : Nat) (f : ConnOp → ConnOp) : (s.modOp id f).mem = s.mem := rfl
@[simp] theorem modOp_xlate (id : Nat) (f : ConnOp → ConnOp) : (s.modOp id f).xlate = s.xlate := rfl
@[simp] theorem modOp_queue (id : Nat) (f : ConnOp → ConnOp) : (s.modOp id f).queue = s.queue := rfl
@[simp] theorem modOp_ports (id : Nat) (f : ConnOp → ConnOp) : (s.modOp id f).ports = s.ports := rfl
@[simp] theorem modOp_filters (id : Nat) (f : ConnOp → ConnOp) : (s.modOp id f).filters = s.filters := rfl
@[simp] theorem modOp_ingress (id : Nat) (f : ConnOp → ConnOp) : (s.modOp id f).ingress = s.ingress := rfl
@[simp] theorem modOp_bypass (id : Nat) (f : ConnOp → ConnOp) : (s.modOp id f).bypass = s.bypass := rfl
@[simp] theorem modOp_route (id : Nat) (f : ConnOp → ConnOp) : (s.modOp id f).route = s.route := rfl
@[simp] theorem modOp_work (id : Nat) (f : ConnOp → ConnOp) : (s.modOp id f).work = s.work := rfl
@[simp] theorem modOp_slices (id : Nat) (f : ConnOp → ConnOp) : (s.modOp id f).slices = s.slices := rfl
@[simp] theorem modOp_dirtyLogs (id : Nat) (f : ConnOp → ConnOp) : (s.modOp id f).dirtyLogs = s.dirtyLogs := rfl
@[simp] theorem modOp_mailboxes (id : Nat) (f : ConnOp → ConnOp) : (s.modOp id f).mailboxes = s.mailboxes := rfl
@[simp] theorem modOp_host (id : Nat) (f : ConnOp → ConnOp) : (s.modOp id f).host = s.host := rfl
@[simp] theorem modOp_hostReads (id : Nat) (f : ConnOp → ConnOp) : (s.modOp id f).hostReads = s.hostReads := rfl
@[simp] theorem modOp_keys (id : Nat) (f : ConnOp → ConnOp) : (s.modOp id f).keys = s.keys := rfl
@[simp] theorem modOp_checks (id : Nat) (f : ConnOp → ConnOp) : (s.modOp id f).checks = s.checks := rfl

/-! ### modWheel -/

@[simp] theorem modWheel_pending (o : WheelOwner) (f : WheelEntry → WheelEntry) : (s.modWheel o f).pending = s.pending := rfl
@[simp] theorem modWheel_out (o : WheelOwner) (f : WheelEntry → WheelEntry) : (s.modWheel o f).out = s.out := rfl
@[simp] theorem modWheel_freeCount (o : WheelOwner) (f : WheelEntry → WheelEntry) : (s.modWheel o f).freeCount = s.freeCount := rfl
@[simp] theorem modWheel_regs (o : WheelOwner) (f : WheelEntry → WheelEntry) : (s.modWheel o f).regs = s.regs := rfl
@[simp] theorem modWheel_time (o : WheelOwner) (f : WheelEntry → WheelEntry) : (s.modWheel o f).time = s.time := rfl
@[simp] theorem modWheel_board (o : WheelOwner) (f : WheelEntry → WheelEntry) : (s.modWheel o f).board = s.board := rfl
@[simp] theorem modWheel_power (o : WheelOwner) (f : WheelEntry → WheelEntry) : (s.modWheel o f).power = s.power := rfl
@[simp] theorem modWheel_boot (o : WheelOwner) (f : WheelEntry → WheelEntry) : (s.modWheel o f).boot = s.boot := rfl
@[simp] theorem modWheel_fw (o : WheelOwner) (f : WheelEntry → WheelEntry) : (s.modWheel o f).fw = s.fw := rfl
@[simp] theorem modWheel_last (o : WheelOwner) (f : WheelEntry → WheelEntry) : (s.modWheel o f).last = s.last := rfl
@[simp] theorem modWheel_mem (o : WheelOwner) (f : WheelEntry → WheelEntry) : (s.modWheel o f).mem = s.mem := rfl
@[simp] theorem modWheel_xlate (o : WheelOwner) (f : WheelEntry → WheelEntry) : (s.modWheel o f).xlate = s.xlate := rfl
@[simp] theorem modWheel_queue (o : WheelOwner) (f : WheelEntry → WheelEntry) : (s.modWheel o f).queue = s.queue := rfl
@[simp] theorem modWheel_ports (o : WheelOwner) (f : WheelEntry → WheelEntry) : (s.modWheel o f).ports = s.ports := rfl
@[simp] theorem modWheel_filters (o : WheelOwner) (f : WheelEntry → WheelEntry) : (s.modWheel o f).filters = s.filters := rfl
@[simp] theorem modWheel_ingress (o : WheelOwner) (f : WheelEntry → WheelEntry) : (s.modWheel o f).ingress = s.ingress := rfl
@[simp] theorem modWheel_bypass (o : WheelOwner) (f : WheelEntry → WheelEntry) : (s.modWheel o f).bypass = s.bypass := rfl
@[simp] theorem modWheel_route (o : WheelOwner) (f : WheelEntry → WheelEntry) : (s.modWheel o f).route = s.route := rfl
@[simp] theorem modWheel_work (o : WheelOwner) (f : WheelEntry → WheelEntry) : (s.modWheel o f).work = s.work := rfl
@[simp] theorem modWheel_slices (o : WheelOwner) (f : WheelEntry → WheelEntry) : (s.modWheel o f).slices = s.slices := rfl
@[simp] theorem modWheel_dirtyLogs (o : WheelOwner) (f : WheelEntry → WheelEntry) : (s.modWheel o f).dirtyLogs = s.dirtyLogs := rfl
@[simp] theorem modWheel_mailboxes (o : WheelOwner) (f : WheelEntry → WheelEntry) : (s.modWheel o f).mailboxes = s.mailboxes := rfl
@[simp] theorem modWheel_host (o : WheelOwner) (f : WheelEntry → WheelEntry) : (s.modWheel o f).host = s.host := rfl
@[simp] theorem modWheel_hostReads (o : WheelOwner) (f : WheelEntry → WheelEntry) : (s.modWheel o f).hostReads = s.hostReads := rfl
@[simp] theorem modWheel_keys (o : WheelOwner) (f : WheelEntry → WheelEntry) : (s.modWheel o f).keys = s.keys := rfl
@[simp] theorem modWheel_checks (o : WheelOwner) (f : WheelEntry → WheelEntry) : (s.modWheel o f).checks = s.checks := rfl

/-! ### modPort -/

@[simp] theorem modPort_pending (p : Nat) (f : Port → Port) : (s.modPort p f).pending = s.pending := rfl
@[simp] theorem modPort_out (p : Nat) (f : Port → Port) : (s.modPort p f).out = s.out := rfl
@[simp] theorem modPort_freeCount (p : Nat) (f : Port → Port) : (s.modPort p f).freeCount = s.freeCount := rfl
@[simp] theorem modPort_regs (p : Nat) (f : Port → Port) : (s.modPort p f).regs = s.regs := rfl
@[simp] theorem modPort_time (p : Nat) (f : Port → Port) : (s.modPort p f).time = s.time := rfl
@[simp] theorem modPort_board (p : Nat) (f : Port → Port) : (s.modPort p f).board = s.board := rfl
@[simp] theorem modPort_power (p : Nat) (f : Port → Port) : (s.modPort p f).power = s.power := rfl
@[simp] theorem modPort_boot (p : Nat) (f : Port → Port) : (s.modPort p f).boot = s.boot := rfl
@[simp] theorem modPort_fw (p : Nat) (f : Port → Port) : (s.modPort p f).fw = s.fw := rfl
@[simp] theorem modPort_last (p : Nat) (f : Port → Port) : (s.modPort p f).last = s.last := rfl
@[simp] theorem modPort_mem (p : Nat) (f : Port → Port) : (s.modPort p f).mem = s.mem := rfl
@[simp] theorem modPort_xlate (p : Nat) (f : Port → Port) : (s.modPort p f).xlate = s.xlate := rfl
@[simp] theorem modPort_queue (p : Nat) (f : Port → Port) : (s.modPort p f).queue = s.queue := rfl
@[simp] theorem modPort_trans (p : Nat) (f : Port → Port) : (s.modPort p f).trans = s.trans := rfl
@[simp] theorem modPort_filters (p : Nat) (f : Port → Port) : (s.modPort p f).filters = s.filters := rfl
@[simp] theorem modPort_ingress (p : Nat) (f : Port → Port) : (s.modPort p f).ingress = s.ingress := rfl
@[simp] theorem modPort_bypass (p : Nat) (f : Port → Port) : (s.modPort p f).bypass = s.bypass := rfl
@[simp] theorem modPort_route (p : Nat) (f : Port → Port) : (s.modPort p f).route = s.route := rfl
@[simp] theorem modPort_work (p : Nat) (f : Port → Port) : (s.modPort p f).work = s.work := rfl
@[simp] theorem modPort_slices (p : Nat) (f : Port → Port) : (s.modPort p f).slices = s.slices := rfl
@[simp] theorem modPort_dirtyLogs (p : Nat) (f : Port → Port) : (s.modPort p f).dirtyLogs = s.dirtyLogs := rfl
@[simp] theorem modPort_mailboxes (p : Nat) (f : Port → Port) : (s.modPort p f).mailboxes = s.mailboxes := rfl
@[simp] theorem modPort_host (p : Nat) (f : Port → Port) : (s.modPort p f).host = s.host := rfl
@[simp] theorem modPort_hostReads (p : Nat) (f : Port → Port) : (s.modPort p f).hostReads = s.hostReads := rfl
@[simp] theorem modPort_keys (p : Nat) (f : Port → Port) : (s.modPort p f).keys = s.keys := rfl
@[simp] theorem modPort_checks (p : Nat) (f : Port → Port) : (s.modPort p f).checks = s.checks := rfl

/-! ### modGroup -/

@[simp] theorem modGroup_pending (h : Nat) (f : Group → Group) : (s.modGroup h f).pending = s.pending := rfl
@[simp] theorem modGroup_out (h : Nat) (f : Group → Group) : (s.modGroup h f).out = s.out := rfl
@[simp] theorem modGroup_freeCount (h : Nat) (f : Group → Group) : (s.modGroup h f).freeCount = s.freeCount := rfl
@[simp] theorem modGroup_regs (h : Nat) (f : Group → Group) : (s.modGroup h f).regs = s.regs := rfl
@[simp] theorem modGroup_time (h : Nat) (f : Group → Group) : (s.modGroup h f).time = s.time := rfl
@[simp] theorem modGroup_board (h : Nat) (f : Group → Group) : (s.modGroup h f).board = s.board := rfl
@[simp] theorem modGroup_power (h : Nat) (f : Group → Group) : (s.modGroup h f).power = s.power := rfl
@[simp] theorem modGroup_boot (h : Nat) (f : Group → Group) : (s.modGroup h f).boot = s.boot := rfl
@[simp] theorem modGroup_fw (h : Nat) (f : Group → Group) : (s.modGroup h f).fw = s.fw := rfl
@[simp] theorem modGroup_last (h : Nat) (f : Group → Group) : (s.modGroup h f).last = s.last := rfl
@[simp] theorem modGroup_mem (h : Nat) (f : Group → Group) : (s.modGroup h f).mem = s.mem := rfl
@[simp] theorem modGroup_xlate (h : Nat) (f : Group → Group) : (s.modGroup h f).xlate = s.xlate := rfl
@[simp] theorem modGroup_queue (h : Nat) (f : Group → Group) : (s.modGroup h f).queue = s.queue := rfl
@[simp] theorem modGroup_trans (h : Nat) (f : Group → Group) : (s.modGroup h f).trans = s.trans := rfl
@[simp] theorem modGroup_ports (h : Nat) (f : Group → Group) : (s.modGroup h f).ports = s.ports := rfl
@[simp] theorem modGroup_filters (h : Nat) (f : Group → Group) : (s.modGroup h f).filters = s.filters := rfl
@[simp] theorem modGroup_ingress (h : Nat) (f : Group → Group) : (s.modGroup h f).ingress = s.ingress := rfl
@[simp] theorem modGroup_bypass (h : Nat) (f : Group → Group) : (s.modGroup h f).bypass = s.bypass := rfl
@[simp] theorem modGroup_route (h : Nat) (f : Group → Group) : (s.modGroup h f).route = s.route := rfl
@[simp] theorem modGroup_slices (h : Nat) (f : Group → Group) : (s.modGroup h f).slices = s.slices := rfl
@[simp] theorem modGroup_dirtyLogs (h : Nat) (f : Group → Group) : (s.modGroup h f).dirtyLogs = s.dirtyLogs := rfl
@[simp] theorem modGroup_mailboxes (h : Nat) (f : Group → Group) : (s.modGroup h f).mailboxes = s.mailboxes := rfl
@[simp] theorem modGroup_host (h : Nat) (f : Group → Group) : (s.modGroup h f).host = s.host := rfl
@[simp] theorem modGroup_hostReads (h : Nat) (f : Group → Group) : (s.modGroup h f).hostReads = s.hostReads := rfl
@[simp] theorem modGroup_keys (h : Nat) (f : Group → Group) : (s.modGroup h f).keys = s.keys := rfl
@[simp] theorem modGroup_checks (h : Nat) (f : Group → Group) : (s.modGroup h f).checks = s.checks := rfl

/-! ### modColl -/

@[simp] theorem modColl_pending (h : Nat) (f : CollOp → CollOp) : (s.modColl h f).pending = s.pending := rfl
@[simp] theorem modColl_out (h : Nat) (f : CollOp → CollOp) : (s.modColl h f).out = s.out := rfl
@[simp] theorem modColl_freeCount (h : Nat) (f : CollOp → CollOp) : (s.modColl h f).freeCount = s.freeCount := rfl
@[simp] theorem modColl_regs (h : Nat) (f : CollOp → CollOp) : (s.modColl h f).regs = s.regs := rfl
@[simp] theorem modColl_time (h : Nat) (f : CollOp → CollOp) : (s.modColl h f).time = s.time := rfl
@[simp] theorem modColl_board (h : Nat) (f : CollOp → CollOp) : (s.modColl h f).board = s.board := rfl
@[simp] theorem modColl_power (h : Nat) (f : CollOp → CollOp) : (s.modColl h f).power = s.power := rfl
@[simp] theorem modColl_boot (h : Nat) (f : CollOp → CollOp) : (s.modColl h f).boot = s.boot := rfl
@[simp] theorem modColl_fw (h : Nat) (f : CollOp → CollOp) : (s.modColl h f).fw = s.fw := rfl
@[simp] theorem modColl_last (h : Nat) (f : CollOp → CollOp) : (s.modColl h f).last = s.last := rfl
@[simp] theorem modColl_mem (h : Nat) (f : CollOp → CollOp) : (s.modColl h f).mem = s.mem := rfl
@[simp] theorem modColl_xlate (h : Nat) (f : CollOp → CollOp) : (s.modColl h f).xlate = s.xlate := rfl
@[simp] theorem modColl_queue (h : Nat) (f : CollOp → CollOp) : (s.modColl h f).queue = s.queue := rfl
@[simp] theorem modColl_trans (h : Nat) (f : CollOp → CollOp) : (s.modColl h f).trans = s.trans := rfl
@[simp] theorem modColl_ports (h : Nat) (f : CollOp → CollOp) : (s.modColl h f).ports = s.ports := rfl
@[simp] theorem modColl_filters (h : Nat) (f : CollOp → CollOp) : (s.modColl h f).filters = s.filters := rfl
@[simp] theorem modColl_ingress (h : Nat) (f : CollOp → CollOp) : (s.modColl h f).ingress = s.ingress := rfl
@[simp] theorem modColl_bypass (h : Nat) (f : CollOp → CollOp) : (s.modColl h f).bypass = s.bypass := rfl
@[simp] theorem modColl_route (h : Nat) (f : CollOp → CollOp) : (s.modColl h f).route = s.route := rfl
@[simp] theorem modColl_slices (h : Nat) (f : CollOp → CollOp) : (s.modColl h f).slices = s.slices := rfl
@[simp] theorem modColl_dirtyLogs (h : Nat) (f : CollOp → CollOp) : (s.modColl h f).dirtyLogs = s.dirtyLogs := rfl
@[simp] theorem modColl_mailboxes (h : Nat) (f : CollOp → CollOp) : (s.modColl h f).mailboxes = s.mailboxes := rfl
@[simp] theorem modColl_host (h : Nat) (f : CollOp → CollOp) : (s.modColl h f).host = s.host := rfl
@[simp] theorem modColl_hostReads (h : Nat) (f : CollOp → CollOp) : (s.modColl h f).hostReads = s.hostReads := rfl
@[simp] theorem modColl_keys (h : Nat) (f : CollOp → CollOp) : (s.modColl h f).keys = s.keys := rfl
@[simp] theorem modColl_checks (h : Nat) (f : CollOp → CollOp) : (s.modColl h f).checks = s.checks := rfl

/-! ### modSvc -/

@[simp] theorem modSvc_pending (q : Nat) (n : Word32) (f : Service → Service) : (s.modSvc q n f).pending = s.pending := rfl
@[simp] theorem modSvc_out (q : Nat) (n : Word32) (f : Service → Service) : (s.modSvc q n f).out = s.out := rfl
@[simp] theorem modSvc_freeCount (q : Nat) (n : Word32) (f : Service → Service) : (s.modSvc q n f).freeCount = s.freeCount := rfl
@[simp] theorem modSvc_regs (q : Nat) (n : Word32) (f : Service → Service) : (s.modSvc q n f).regs = s.regs := rfl
@[simp] theorem modSvc_time (q : Nat) (n : Word32) (f : Service → Service) : (s.modSvc q n f).time = s.time := rfl
@[simp] theorem modSvc_board (q : Nat) (n : Word32) (f : Service → Service) : (s.modSvc q n f).board = s.board := rfl
@[simp] theorem modSvc_power (q : Nat) (n : Word32) (f : Service → Service) : (s.modSvc q n f).power = s.power := rfl
@[simp] theorem modSvc_boot (q : Nat) (n : Word32) (f : Service → Service) : (s.modSvc q n f).boot = s.boot := rfl
@[simp] theorem modSvc_fw (q : Nat) (n : Word32) (f : Service → Service) : (s.modSvc q n f).fw = s.fw := rfl
@[simp] theorem modSvc_last (q : Nat) (n : Word32) (f : Service → Service) : (s.modSvc q n f).last = s.last := rfl
@[simp] theorem modSvc_mem (q : Nat) (n : Word32) (f : Service → Service) : (s.modSvc q n f).mem = s.mem := rfl
@[simp] theorem modSvc_xlate (q : Nat) (n : Word32) (f : Service → Service) : (s.modSvc q n f).xlate = s.xlate := rfl
@[simp] theorem modSvc_queue (q : Nat) (n : Word32) (f : Service → Service) : (s.modSvc q n f).queue = s.queue := rfl
@[simp] theorem modSvc_trans (q : Nat) (n : Word32) (f : Service → Service) : (s.modSvc q n f).trans = s.trans := rfl
@[simp] theorem modSvc_ports (q : Nat) (n : Word32) (f : Service → Service) : (s.modSvc q n f).ports = s.ports := rfl
@[simp] theorem modSvc_filters (q : Nat) (n : Word32) (f : Service → Service) : (s.modSvc q n f).filters = s.filters := rfl
@[simp] theorem modSvc_ingress (q : Nat) (n : Word32) (f : Service → Service) : (s.modSvc q n f).ingress = s.ingress := rfl
@[simp] theorem modSvc_bypass (q : Nat) (n : Word32) (f : Service → Service) : (s.modSvc q n f).bypass = s.bypass := rfl
@[simp] theorem modSvc_route (q : Nat) (n : Word32) (f : Service → Service) : (s.modSvc q n f).route = s.route := rfl
@[simp] theorem modSvc_slices (q : Nat) (n : Word32) (f : Service → Service) : (s.modSvc q n f).slices = s.slices := rfl
@[simp] theorem modSvc_dirtyLogs (q : Nat) (n : Word32) (f : Service → Service) : (s.modSvc q n f).dirtyLogs = s.dirtyLogs := rfl
@[simp] theorem modSvc_mailboxes (q : Nat) (n : Word32) (f : Service → Service) : (s.modSvc q n f).mailboxes = s.mailboxes := rfl
@[simp] theorem modSvc_host (q : Nat) (n : Word32) (f : Service → Service) : (s.modSvc q n f).host = s.host := rfl
@[simp] theorem modSvc_hostReads (q : Nat) (n : Word32) (f : Service → Service) : (s.modSvc q n f).hostReads = s.hostReads := rfl
@[simp] theorem modSvc_keys (q : Nat) (n : Word32) (f : Service → Service) : (s.modSvc q n f).keys = s.keys := rfl
@[simp] theorem modSvc_checks (q : Nat) (n : Word32) (f : Service → Service) : (s.modSvc q n f).checks = s.checks := rfl

/-! ### modKey -/

@[simp] theorem modKey_pending (slice slot : Nat) (g : Bool) (f : KeySlot → KeySlot) : (s.modKey slice slot g f).pending = s.pending := rfl
@[simp] theorem modKey_out (slice slot : Nat) (g : Bool) (f : KeySlot → KeySlot) : (s.modKey slice slot g f).out = s.out := rfl
@[simp] theorem modKey_freeCount (slice slot : Nat) (g : Bool) (f : KeySlot → KeySlot) : (s.modKey slice slot g f).freeCount = s.freeCount := rfl
@[simp] theorem modKey_regs (slice slot : Nat) (g : Bool) (f : KeySlot → KeySlot) : (s.modKey slice slot g f).regs = s.regs := rfl
@[simp] theorem modKey_time (slice slot : Nat) (g : Bool) (f : KeySlot → KeySlot) : (s.modKey slice slot g f).time = s.time := rfl
@[simp] theorem modKey_board (slice slot : Nat) (g : Bool) (f : KeySlot → KeySlot) : (s.modKey slice slot g f).board = s.board := rfl
@[simp] theorem modKey_power (slice slot : Nat) (g : Bool) (f : KeySlot → KeySlot) : (s.modKey slice slot g f).power = s.power := rfl
@[simp] theorem modKey_boot (slice slot : Nat) (g : Bool) (f : KeySlot → KeySlot) : (s.modKey slice slot g f).boot = s.boot := rfl
@[simp] theorem modKey_fw (slice slot : Nat) (g : Bool) (f : KeySlot → KeySlot) : (s.modKey slice slot g f).fw = s.fw := rfl
@[simp] theorem modKey_last (slice slot : Nat) (g : Bool) (f : KeySlot → KeySlot) : (s.modKey slice slot g f).last = s.last := rfl
@[simp] theorem modKey_mem (slice slot : Nat) (g : Bool) (f : KeySlot → KeySlot) : (s.modKey slice slot g f).mem = s.mem := rfl
@[simp] theorem modKey_xlate (slice slot : Nat) (g : Bool) (f : KeySlot → KeySlot) : (s.modKey slice slot g f).xlate = s.xlate := rfl
@[simp] theorem modKey_queue (slice slot : Nat) (g : Bool) (f : KeySlot → KeySlot) : (s.modKey slice slot g f).queue = s.queue := rfl
@[simp] theorem modKey_trans (slice slot : Nat) (g : Bool) (f : KeySlot → KeySlot) : (s.modKey slice slot g f).trans = s.trans := rfl
@[simp] theorem modKey_ports (slice slot : Nat) (g : Bool) (f : KeySlot → KeySlot) : (s.modKey slice slot g f).ports = s.ports := rfl
@[simp] theorem modKey_filters (slice slot : Nat) (g : Bool) (f : KeySlot → KeySlot) : (s.modKey slice slot g f).filters = s.filters := rfl
@[simp] theorem modKey_ingress (slice slot : Nat) (g : Bool) (f : KeySlot → KeySlot) : (s.modKey slice slot g f).ingress = s.ingress := rfl
@[simp] theorem modKey_bypass (slice slot : Nat) (g : Bool) (f : KeySlot → KeySlot) : (s.modKey slice slot g f).bypass = s.bypass := rfl
@[simp] theorem modKey_route (slice slot : Nat) (g : Bool) (f : KeySlot → KeySlot) : (s.modKey slice slot g f).route = s.route := rfl
@[simp] theorem modKey_work (slice slot : Nat) (g : Bool) (f : KeySlot → KeySlot) : (s.modKey slice slot g f).work = s.work := rfl
@[simp] theorem modKey_slices (slice slot : Nat) (g : Bool) (f : KeySlot → KeySlot) : (s.modKey slice slot g f).slices = s.slices := rfl
@[simp] theorem modKey_dirtyLogs (slice slot : Nat) (g : Bool) (f : KeySlot → KeySlot) : (s.modKey slice slot g f).dirtyLogs = s.dirtyLogs := rfl
@[simp] theorem modKey_mailboxes (slice slot : Nat) (g : Bool) (f : KeySlot → KeySlot) : (s.modKey slice slot g f).mailboxes = s.mailboxes := rfl
@[simp] theorem modKey_host (slice slot : Nat) (g : Bool) (f : KeySlot → KeySlot) : (s.modKey slice slot g f).host = s.host := rfl
@[simp] theorem modKey_hostReads (slice slot : Nat) (g : Bool) (f : KeySlot → KeySlot) : (s.modKey slice slot g f).hostReads = s.hostReads := rfl
@[simp] theorem modKey_checks (slice slot : Nat) (g : Bool) (f : KeySlot → KeySlot) : (s.modKey slice slot g f).checks = s.checks := rfl

/-! ### modLog -/

@[simp] theorem modLog_pending (k : Nat) (f : DirtyLog → DirtyLog) : (s.modLog k f).pending = s.pending := rfl
@[simp] theorem modLog_out (k : Nat) (f : DirtyLog → DirtyLog) : (s.modLog k f).out = s.out := rfl
@[simp] theorem modLog_freeCount (k : Nat) (f : DirtyLog → DirtyLog) : (s.modLog k f).freeCount = s.freeCount := rfl
@[simp] theorem modLog_regs (k : Nat) (f : DirtyLog → DirtyLog) : (s.modLog k f).regs = s.regs := rfl
@[simp] theorem modLog_time (k : Nat) (f : DirtyLog → DirtyLog) : (s.modLog k f).time = s.time := rfl
@[simp] theorem modLog_board (k : Nat) (f : DirtyLog → DirtyLog) : (s.modLog k f).board = s.board := rfl
@[simp] theorem modLog_power (k : Nat) (f : DirtyLog → DirtyLog) : (s.modLog k f).power = s.power := rfl
@[simp] theorem modLog_boot (k : Nat) (f : DirtyLog → DirtyLog) : (s.modLog k f).boot = s.boot := rfl
@[simp] theorem modLog_fw (k : Nat) (f : DirtyLog → DirtyLog) : (s.modLog k f).fw = s.fw := rfl
@[simp] theorem modLog_last (k : Nat) (f : DirtyLog → DirtyLog) : (s.modLog k f).last = s.last := rfl
@[simp] theorem modLog_mem (k : Nat) (f : DirtyLog → DirtyLog) : (s.modLog k f).mem = s.mem := rfl
@[simp] theorem modLog_xlate (k : Nat) (f : DirtyLog → DirtyLog) : (s.modLog k f).xlate = s.xlate := rfl
@[simp] theorem modLog_queue (k : Nat) (f : DirtyLog → DirtyLog) : (s.modLog k f).queue = s.queue := rfl
@[simp] theorem modLog_trans (k : Nat) (f : DirtyLog → DirtyLog) : (s.modLog k f).trans = s.trans := rfl
@[simp] theorem modLog_ports (k : Nat) (f : DirtyLog → DirtyLog) : (s.modLog k f).ports = s.ports := rfl
@[simp] theorem modLog_filters (k : Nat) (f : DirtyLog → DirtyLog) : (s.modLog k f).filters = s.filters := rfl
@[simp] theorem modLog_ingress (k : Nat) (f : DirtyLog → DirtyLog) : (s.modLog k f).ingress = s.ingress := rfl
@[simp] theorem modLog_bypass (k : Nat) (f : DirtyLog → DirtyLog) : (s.modLog k f).bypass = s.bypass := rfl
@[simp] theorem modLog_route (k : Nat) (f : DirtyLog → DirtyLog) : (s.modLog k f).route = s.route := rfl
@[simp] theorem modLog_work (k : Nat) (f : DirtyLog → DirtyLog) : (s.modLog k f).work = s.work := rfl
@[simp] theorem modLog_slices (k : Nat) (f : DirtyLog → DirtyLog) : (s.modLog k f).slices = s.slices := rfl
@[simp] theorem modLog_mailboxes (k : Nat) (f : DirtyLog → DirtyLog) : (s.modLog k f).mailboxes = s.mailboxes := rfl
@[simp] theorem modLog_host (k : Nat) (f : DirtyLog → DirtyLog) : (s.modLog k f).host = s.host := rfl
@[simp] theorem modLog_hostReads (k : Nat) (f : DirtyLog → DirtyLog) : (s.modLog k f).hostReads = s.hostReads := rfl
@[simp] theorem modLog_keys (k : Nat) (f : DirtyLog → DirtyLog) : (s.modLog k f).keys = s.keys := rfl
@[simp] theorem modLog_checks (k : Nat) (f : DirtyLog → DirtyLog) : (s.modLog k f).checks = s.checks := rfl

/-! ### setCheckCtx -/

@[simp] theorem setCheckCtx_pending (c : CheckCtx) : (s.setCheckCtx c).pending = s.pending := rfl
@[simp] theorem setCheckCtx_out (c : CheckCtx) : (s.setCheckCtx c).out = s.out := rfl
@[simp] theorem setCheckCtx_freeCount (c : CheckCtx) : (s.setCheckCtx c).freeCount = s.freeCount := rfl
@[simp] theorem setCheckCtx_regs (c : CheckCtx) : (s.setCheckCtx c).regs = s.regs := rfl
@[simp] theorem setCheckCtx_time (c : CheckCtx) : (s.setCheckCtx c).time = s.time := rfl
@[simp] theorem setCheckCtx_board (c : CheckCtx) : (s.setCheckCtx c).board = s.board := rfl
@[simp] theorem setCheckCtx_power (c : CheckCtx) : (s.setCheckCtx c).power = s.power := rfl
@[simp] theorem setCheckCtx_boot (c : CheckCtx) : (s.setCheckCtx c).boot = s.boot := rfl
@[simp] theorem setCheckCtx_fw (c : CheckCtx) : (s.setCheckCtx c).fw = s.fw := rfl
@[simp] theorem setCheckCtx_last (c : CheckCtx) : (s.setCheckCtx c).last = s.last := rfl
@[simp] theorem setCheckCtx_mem (c : CheckCtx) : (s.setCheckCtx c).mem = s.mem := rfl
@[simp] theorem setCheckCtx_xlate (c : CheckCtx) : (s.setCheckCtx c).xlate = s.xlate := rfl
@[simp] theorem setCheckCtx_queue (c : CheckCtx) : (s.setCheckCtx c).queue = s.queue := rfl
@[simp] theorem setCheckCtx_trans (c : CheckCtx) : (s.setCheckCtx c).trans = s.trans := rfl
@[simp] theorem setCheckCtx_ports (c : CheckCtx) : (s.setCheckCtx c).ports = s.ports := rfl
@[simp] theorem setCheckCtx_filters (c : CheckCtx) : (s.setCheckCtx c).filters = s.filters := rfl
@[simp] theorem setCheckCtx_ingress (c : CheckCtx) : (s.setCheckCtx c).ingress = s.ingress := rfl
@[simp] theorem setCheckCtx_bypass (c : CheckCtx) : (s.setCheckCtx c).bypass = s.bypass := rfl
@[simp] theorem setCheckCtx_route (c : CheckCtx) : (s.setCheckCtx c).route = s.route := rfl
@[simp] theorem setCheckCtx_work (c : CheckCtx) : (s.setCheckCtx c).work = s.work := rfl
@[simp] theorem setCheckCtx_slices (c : CheckCtx) : (s.setCheckCtx c).slices = s.slices := rfl
@[simp] theorem setCheckCtx_dirtyLogs (c : CheckCtx) : (s.setCheckCtx c).dirtyLogs = s.dirtyLogs := rfl
@[simp] theorem setCheckCtx_mailboxes (c : CheckCtx) : (s.setCheckCtx c).mailboxes = s.mailboxes := rfl
@[simp] theorem setCheckCtx_host (c : CheckCtx) : (s.setCheckCtx c).host = s.host := rfl
@[simp] theorem setCheckCtx_hostReads (c : CheckCtx) : (s.setCheckCtx c).hostReads = s.hostReads := rfl
@[simp] theorem setCheckCtx_keys (c : CheckCtx) : (s.setCheckCtx c).keys = s.keys := rfl

/-! ### modLastSlot -/

@[simp] theorem modLastSlot_pending (k : Nat) (f : LastSlot → LastSlot) : (s.modLastSlot k f).pending = s.pending := rfl
@[simp] theorem modLastSlot_out (k : Nat) (f : LastSlot → LastSlot) : (s.modLastSlot k f).out = s.out := rfl
@[simp] theorem modLastSlot_freeCount (k : Nat) (f : LastSlot → LastSlot) : (s.modLastSlot k f).freeCount = s.freeCount := rfl
@[simp] theorem modLastSlot_regs (k : Nat) (f : LastSlot → LastSlot) : (s.modLastSlot k f).regs = s.regs := rfl
@[simp] theorem modLastSlot_time (k : Nat) (f : LastSlot → LastSlot) : (s.modLastSlot k f).time = s.time := rfl
@[simp] theorem modLastSlot_board (k : Nat) (f : LastSlot → LastSlot) : (s.modLastSlot k f).board = s.board := rfl
@[simp] theorem modLastSlot_power (k : Nat) (f : LastSlot → LastSlot) : (s.modLastSlot k f).power = s.power := rfl
@[simp] theorem modLastSlot_boot (k : Nat) (f : LastSlot → LastSlot) : (s.modLastSlot k f).boot = s.boot := rfl
@[simp] theorem modLastSlot_fw (k : Nat) (f : LastSlot → LastSlot) : (s.modLastSlot k f).fw = s.fw := rfl
@[simp] theorem modLastSlot_mem (k : Nat) (f : LastSlot → LastSlot) : (s.modLastSlot k f).mem = s.mem := rfl
@[simp] theorem modLastSlot_xlate (k : Nat) (f : LastSlot → LastSlot) : (s.modLastSlot k f).xlate = s.xlate := rfl
@[simp] theorem modLastSlot_queue (k : Nat) (f : LastSlot → LastSlot) : (s.modLastSlot k f).queue = s.queue := rfl
@[simp] theorem modLastSlot_trans (k : Nat) (f : LastSlot → LastSlot) : (s.modLastSlot k f).trans = s.trans := rfl
@[simp] theorem modLastSlot_ports (k : Nat) (f : LastSlot → LastSlot) : (s.modLastSlot k f).ports = s.ports := rfl
@[simp] theorem modLastSlot_filters (k : Nat) (f : LastSlot → LastSlot) : (s.modLastSlot k f).filters = s.filters := rfl
@[simp] theorem modLastSlot_ingress (k : Nat) (f : LastSlot → LastSlot) : (s.modLastSlot k f).ingress = s.ingress := rfl
@[simp] theorem modLastSlot_bypass (k : Nat) (f : LastSlot → LastSlot) : (s.modLastSlot k f).bypass = s.bypass := rfl
@[simp] theorem modLastSlot_route (k : Nat) (f : LastSlot → LastSlot) : (s.modLastSlot k f).route = s.route := rfl
@[simp] theorem modLastSlot_work (k : Nat) (f : LastSlot → LastSlot) : (s.modLastSlot k f).work = s.work := rfl
@[simp] theorem modLastSlot_slices (k : Nat) (f : LastSlot → LastSlot) : (s.modLastSlot k f).slices = s.slices := rfl
@[simp] theorem modLastSlot_dirtyLogs (k : Nat) (f : LastSlot → LastSlot) : (s.modLastSlot k f).dirtyLogs = s.dirtyLogs := rfl
@[simp] theorem modLastSlot_mailboxes (k : Nat) (f : LastSlot → LastSlot) : (s.modLastSlot k f).mailboxes = s.mailboxes := rfl
@[simp] theorem modLastSlot_host (k : Nat) (f : LastSlot → LastSlot) : (s.modLastSlot k f).host = s.host := rfl
@[simp] theorem modLastSlot_hostReads (k : Nat) (f : LastSlot → LastSlot) : (s.modLastSlot k f).hostReads = s.hostReads := rfl
@[simp] theorem modLastSlot_keys (k : Nat) (f : LastSlot → LastSlot) : (s.modLastSlot k f).keys = s.keys := rfl
@[simp] theorem modLastSlot_checks (k : Nat) (f : LastSlot → LastSlot) : (s.modLastSlot k f).checks = s.checks := rfl

/-! ### modBank -/

@[simp] theorem modBank_pending (k : Nat) (f : RouteBank → RouteBank) : (s.modBank k f).pending = s.pending := rfl
@[simp] theorem modBank_out (k : Nat) (f : RouteBank → RouteBank) : (s.modBank k f).out = s.out := rfl
@[simp] theorem modBank_freeCount (k : Nat) (f : RouteBank → RouteBank) : (s.modBank k f).freeCount = s.freeCount := rfl
@[simp] theorem modBank_regs (k : Nat) (f : RouteBank → RouteBank) : (s.modBank k f).regs = s.regs := rfl
@[simp] theorem modBank_time (k : Nat) (f : RouteBank → RouteBank) : (s.modBank k f).time = s.time := rfl
@[simp] theorem modBank_board (k : Nat) (f : RouteBank → RouteBank) : (s.modBank k f).board = s.board := rfl
@[simp] theorem modBank_power (k : Nat) (f : RouteBank → RouteBank) : (s.modBank k f).power = s.power := rfl
@[simp] theorem modBank_boot (k : Nat) (f : RouteBank → RouteBank) : (s.modBank k f).boot = s.boot := rfl
@[simp] theorem modBank_fw (k : Nat) (f : RouteBank → RouteBank) : (s.modBank k f).fw = s.fw := rfl
@[simp] theorem modBank_last (k : Nat) (f : RouteBank → RouteBank) : (s.modBank k f).last = s.last := rfl
@[simp] theorem modBank_mem (k : Nat) (f : RouteBank → RouteBank) : (s.modBank k f).mem = s.mem := rfl
@[simp] theorem modBank_xlate (k : Nat) (f : RouteBank → RouteBank) : (s.modBank k f).xlate = s.xlate := rfl
@[simp] theorem modBank_queue (k : Nat) (f : RouteBank → RouteBank) : (s.modBank k f).queue = s.queue := rfl
@[simp] theorem modBank_trans (k : Nat) (f : RouteBank → RouteBank) : (s.modBank k f).trans = s.trans := rfl
@[simp] theorem modBank_ports (k : Nat) (f : RouteBank → RouteBank) : (s.modBank k f).ports = s.ports := rfl
@[simp] theorem modBank_filters (k : Nat) (f : RouteBank → RouteBank) : (s.modBank k f).filters = s.filters := rfl
@[simp] theorem modBank_ingress (k : Nat) (f : RouteBank → RouteBank) : (s.modBank k f).ingress = s.ingress := rfl
@[simp] theorem modBank_bypass (k : Nat) (f : RouteBank → RouteBank) : (s.modBank k f).bypass = s.bypass := rfl
@[simp] theorem modBank_work (k : Nat) (f : RouteBank → RouteBank) : (s.modBank k f).work = s.work := rfl
@[simp] theorem modBank_slices (k : Nat) (f : RouteBank → RouteBank) : (s.modBank k f).slices = s.slices := rfl
@[simp] theorem modBank_dirtyLogs (k : Nat) (f : RouteBank → RouteBank) : (s.modBank k f).dirtyLogs = s.dirtyLogs := rfl
@[simp] theorem modBank_mailboxes (k : Nat) (f : RouteBank → RouteBank) : (s.modBank k f).mailboxes = s.mailboxes := rfl
@[simp] theorem modBank_host (k : Nat) (f : RouteBank → RouteBank) : (s.modBank k f).host = s.host := rfl
@[simp] theorem modBank_hostReads (k : Nat) (f : RouteBank → RouteBank) : (s.modBank k f).hostReads = s.hostReads := rfl
@[simp] theorem modBank_keys (k : Nat) (f : RouteBank → RouteBank) : (s.modBank k f).keys = s.keys := rfl
@[simp] theorem modBank_checks (k : Nat) (f : RouteBank → RouteBank) : (s.modBank k f).checks = s.checks := rfl

/-! ### modFlip -/

@[simp] theorem modFlip_pending (f : Flip → Flip) : (s.modFlip f).pending = s.pending := rfl
@[simp] theorem modFlip_out (f : Flip → Flip) : (s.modFlip f).out = s.out := rfl
@[simp] theorem modFlip_freeCount (f : Flip → Flip) : (s.modFlip f).freeCount = s.freeCount := rfl
@[simp] theorem modFlip_regs (f : Flip → Flip) : (s.modFlip f).regs = s.regs := rfl
@[simp] theorem modFlip_time (f : Flip → Flip) : (s.modFlip f).time = s.time := rfl
@[simp] theorem modFlip_board (f : Flip → Flip) : (s.modFlip f).board = s.board := rfl
@[simp] theorem modFlip_power (f : Flip → Flip) : (s.modFlip f).power = s.power := rfl
@[simp] theorem modFlip_boot (f : Flip → Flip) : (s.modFlip f).boot = s.boot := rfl
@[simp] theorem modFlip_fw (f : Flip → Flip) : (s.modFlip f).fw = s.fw := rfl
@[simp] theorem modFlip_last (f : Flip → Flip) : (s.modFlip f).last = s.last := rfl
@[simp] theorem modFlip_mem (f : Flip → Flip) : (s.modFlip f).mem = s.mem := rfl
@[simp] theorem modFlip_xlate (f : Flip → Flip) : (s.modFlip f).xlate = s.xlate := rfl
@[simp] theorem modFlip_queue (f : Flip → Flip) : (s.modFlip f).queue = s.queue := rfl
@[simp] theorem modFlip_trans (f : Flip → Flip) : (s.modFlip f).trans = s.trans := rfl
@[simp] theorem modFlip_ports (f : Flip → Flip) : (s.modFlip f).ports = s.ports := rfl
@[simp] theorem modFlip_filters (f : Flip → Flip) : (s.modFlip f).filters = s.filters := rfl
@[simp] theorem modFlip_ingress (f : Flip → Flip) : (s.modFlip f).ingress = s.ingress := rfl
@[simp] theorem modFlip_bypass (f : Flip → Flip) : (s.modFlip f).bypass = s.bypass := rfl
@[simp] theorem modFlip_work (f : Flip → Flip) : (s.modFlip f).work = s.work := rfl
@[simp] theorem modFlip_slices (f : Flip → Flip) : (s.modFlip f).slices = s.slices := rfl
@[simp] theorem modFlip_dirtyLogs (f : Flip → Flip) : (s.modFlip f).dirtyLogs = s.dirtyLogs := rfl
@[simp] theorem modFlip_mailboxes (f : Flip → Flip) : (s.modFlip f).mailboxes = s.mailboxes := rfl
@[simp] theorem modFlip_host (f : Flip → Flip) : (s.modFlip f).host = s.host := rfl
@[simp] theorem modFlip_hostReads (f : Flip → Flip) : (s.modFlip f).hostReads = s.hostReads := rfl
@[simp] theorem modFlip_keys (f : Flip → Flip) : (s.modFlip f).keys = s.keys := rfl
@[simp] theorem modFlip_checks (f : Flip → Flip) : (s.modFlip f).checks = s.checks := rfl

/-! ### modWorker -/

@[simp] theorem modWorker_pending (node : Nat) (f : FlipWorker → FlipWorker) : (s.modWorker node f).pending = s.pending := rfl
@[simp] theorem modWorker_out (node : Nat) (f : FlipWorker → FlipWorker) : (s.modWorker node f).out = s.out := rfl
@[simp] theorem modWorker_freeCount (node : Nat) (f : FlipWorker → FlipWorker) : (s.modWorker node f).freeCount = s.freeCount := rfl
@[simp] theorem modWorker_regs (node : Nat) (f : FlipWorker → FlipWorker) : (s.modWorker node f).regs = s.regs := rfl
@[simp] theorem modWorker_time (node : Nat) (f : FlipWorker → FlipWorker) : (s.modWorker node f).time = s.time := rfl
@[simp] theorem modWorker_board (node : Nat) (f : FlipWorker → FlipWorker) : (s.modWorker node f).board = s.board := rfl
@[simp] theorem modWorker_power (node : Nat) (f : FlipWorker → FlipWorker) : (s.modWorker node f).power = s.power := rfl
@[simp] theorem modWorker_boot (node : Nat) (f : FlipWorker → FlipWorker) : (s.modWorker node f).boot = s.boot := rfl
@[simp] theorem modWorker_fw (node : Nat) (f : FlipWorker → FlipWorker) : (s.modWorker node f).fw = s.fw := rfl
@[simp] theorem modWorker_last (node : Nat) (f : FlipWorker → FlipWorker) : (s.modWorker node f).last = s.last := rfl
@[simp] theorem modWorker_mem (node : Nat) (f : FlipWorker → FlipWorker) : (s.modWorker node f).mem = s.mem := rfl
@[simp] theorem modWorker_xlate (node : Nat) (f : FlipWorker → FlipWorker) : (s.modWorker node f).xlate = s.xlate := rfl
@[simp] theorem modWorker_queue (node : Nat) (f : FlipWorker → FlipWorker) : (s.modWorker node f).queue = s.queue := rfl
@[simp] theorem modWorker_trans (node : Nat) (f : FlipWorker → FlipWorker) : (s.modWorker node f).trans = s.trans := rfl
@[simp] theorem modWorker_ports (node : Nat) (f : FlipWorker → FlipWorker) : (s.modWorker node f).ports = s.ports := rfl
@[simp] theorem modWorker_filters (node : Nat) (f : FlipWorker → FlipWorker) : (s.modWorker node f).filters = s.filters := rfl
@[simp] theorem modWorker_ingress (node : Nat) (f : FlipWorker → FlipWorker) : (s.modWorker node f).ingress = s.ingress := rfl
@[simp] theorem modWorker_bypass (node : Nat) (f : FlipWorker → FlipWorker) : (s.modWorker node f).bypass = s.bypass := rfl
@[simp] theorem modWorker_work (node : Nat) (f : FlipWorker → FlipWorker) : (s.modWorker node f).work = s.work := rfl
@[simp] theorem modWorker_slices (node : Nat) (f : FlipWorker → FlipWorker) : (s.modWorker node f).slices = s.slices := rfl
@[simp] theorem modWorker_dirtyLogs (node : Nat) (f : FlipWorker → FlipWorker) : (s.modWorker node f).dirtyLogs = s.dirtyLogs := rfl
@[simp] theorem modWorker_mailboxes (node : Nat) (f : FlipWorker → FlipWorker) : (s.modWorker node f).mailboxes = s.mailboxes := rfl
@[simp] theorem modWorker_host (node : Nat) (f : FlipWorker → FlipWorker) : (s.modWorker node f).host = s.host := rfl
@[simp] theorem modWorker_hostReads (node : Nat) (f : FlipWorker → FlipWorker) : (s.modWorker node f).hostReads = s.hostReads := rfl
@[simp] theorem modWorker_keys (node : Nat) (f : FlipWorker → FlipWorker) : (s.modWorker node f).keys = s.keys := rfl
@[simp] theorem modWorker_checks (node : Nat) (f : FlipWorker → FlipWorker) : (s.modWorker node f).checks = s.checks := rfl

end Sys2Proof.Machine
end

