-- ==== Sys2Proof/Laws/Find.lean ====
section
/-! SUPPORT. What lookups find after an update: the element of a key is the updated one, every other key is as before. -/

namespace Sys2Proof.Machine

variable {α β : Type}

/-- Looking a key up after an update of that key's element. -/
theorem find_updWhere_self (p : α → Bool) (f : α → α) (l : List α) (hf : ∀ x, p x = true → p (f x) = true) :
    (updWhere p f l).find? p = (l.find? p).map f := by
  induction l with
  | nil => rfl
  | cons x r ih =>
    simp only [updWhere, List.map_cons, List.find?_cons] at ih ⊢
    by_cases h : p x = true
    · simp [h, hf x h]
    · simp [h, ih]

/-- Looking another key up after an update. -/
theorem find_updWhere_other (p g : α → Bool) (f : α → α) (l : List α) (hg : ∀ x, p x = true → g x = false)
    (hf : ∀ x, p x = true → g (f x) = false) : (updWhere p f l).find? g = l.find? g := by
  induction l with
  | nil => rfl
  | cons x r ih =>
    simp only [updWhere, List.map_cons, List.find?_cons] at ih ⊢
    by_cases h : p x = true
    · simp [h, hg x h, hf x h, ih]
    · simp [h, ih]

/-- An update that keeps a lookup's property changes only what is found. -/
theorem find_updWhere_same (p g : α → Bool) (f : α → α) (l : List α) (hf : ∀ x, p x = true → g (f x) = g x) :
    (updWhere p f l).find? g = (l.find? g).map fun x => if p x then f x else x := by
  induction l with
  | nil => rfl
  | cons x r ih =>
    simp only [updWhere, List.map_cons, List.find?_cons] at ih ⊢
    by_cases h : p x = true
    · by_cases hg : g x = true
      · simp [h, hg, hf x h]
      · simp [h, hg, hf x h, ih]
    · by_cases hg : g x = true
      · simp [h, hg]
      · simp [h, hg, ih]

@[simp] theorem assoc_assocSet_self {κ : Type} [DecidableEq κ] (l : List (κ × β)) (k : κ) (v : β) :
    assoc (assocSet l k v) k = some v := by
  induction l with
  | nil => simp [assocSet, assoc]
  | cons x r ih => obtain ⟨k', w⟩ := x; by_cases h : k = k' <;> simp_all [assocSet, assoc]

theorem assoc_assocSet_ne {κ : Type} [DecidableEq κ] (l : List (κ × β)) (k k' : κ) (v : β) (h : k' ≠ k) :
    assoc (assocSet l k v) k' = assoc l k' := by
  induction l with
  | nil => simp [assocSet, assoc, h]
  | cons x r ih =>
    obtain ⟨a, w⟩ := x
    by_cases ha : k = a
    · subst ha; simp [assocSet, assoc, h]
    · by_cases hb : k' = a <;> simp_all [assocSet, assoc]

@[simp] theorem assoc_assocDel_self {κ : Type} [DecidableEq κ] (l : List (κ × β)) (k : κ) : assoc (assocDel l k) k = none := by
  induction l with
  | nil => rfl
  | cons x r ih => obtain ⟨a, w⟩ := x; by_cases h : a = k <;> simp_all [assocDel, assoc, eq_comm]

variable (s : State)

theorem findQueue_modQueue (n : Nat) (f : Queue → Queue) (hf : ∀ x, (f x).number = x.number) :
    (s.modQueue n f).findQueue n = (s.findQueue n).map f := by
  simp only [State.findQueue, State.modQueue]
  exact find_updWhere_self _ _ _ (by intro x hx; simpa [hf] using hx)

theorem findQueue_modQueue_ne (n m : Nat) (f : Queue → Queue) (hf : ∀ x, (f x).number = x.number) (h : m ≠ n) :
    (s.modQueue n f).findQueue m = s.findQueue m := by
  simp only [State.findQueue, State.modQueue]
  exact find_updWhere_other _ _ _ _ (by intro x hx; simp_all; omega) (by intro x hx; simp_all; omega)

theorem findConn_modConn (n : Nat) (f : Conn → Conn) (hf : ∀ x, (f x).index = x.index) :
    (s.modConn n f).findConn n = (s.findConn n).map f := by
  simp only [State.findConn, State.modConn]
  exact find_updWhere_self _ _ _ (by intro x hx; simpa [hf] using hx)

theorem findConn_modConn_ne (n m : Nat) (f : Conn → Conn) (hf : ∀ x, (f x).index = x.index) (h : m ≠ n) :
    (s.modConn n f).findConn m = s.findConn m := by
  simp only [State.findConn, State.modConn]
  exact find_updWhere_other _ _ _ _ (by intro x hx; simp_all; omega) (by intro x hx; simp_all; omega)

theorem mailbox_modMailbox (k : Nat) (f : Mailbox → Mailbox) : (s.modMailbox k f).mailbox k = f (s.mailbox k) := by
  simp [State.mailbox, State.modMailbox]

theorem mailbox_modMailbox_ne (k j : Nat) (f : Mailbox → Mailbox) (h : j ≠ k) : (s.modMailbox k f).mailbox j = s.mailbox j := by
  simp [State.mailbox, State.modMailbox, assoc_assocSet_ne _ _ _ _ h]

theorem findQueue_mem {n : Nat} {x : Queue} (h : s.findQueue n = some x) : x.number = n := by
  simpa using List.find?_some h

theorem findConn_index {n : Nat} {x : Conn} (h : s.findConn n = some x) : x.index = n := by
  simpa using List.find?_some h

/-- An answer is the newest response of its mailbox. -/
theorem answer_hasAnswer (slice : Nat) (tag : Word32) (op : Nat) (st : Status) (detail : Nat) (info : List Nat) :
    (s.answer slice tag op st detail info).hasAnswer slice tag st info := by
  simp [State.hasAnswer, State.answer, mailbox_modMailbox]

/-- A choice among acceptable numbers is acceptable. -/
theorem chooseFrom_good {n : Nat} {good : Nat → Bool} {fuel k c : Nat} (h : chooseFrom n good fuel k = some c) : good c = true := by
  induction fuel generalizing k with
  | zero => simp [chooseFrom] at h
  | succ fuel ih =>
    unfold chooseFrom at h
    dsimp only at h
    generalize (if n = 0 then k else k % n) = c' at h
    by_cases hg : good c' = true
    · rw [if_pos hg] at h; cases h; exact hg
    · rw [if_neg hg] at h; exact ih h

theorem chooseFrom_none {n : Nat} {good : Nat → Bool} {fuel k : Nat} (hn : 0 < n) (h : chooseFrom n good fuel k = none)
    (i : Nat) (hi : i < fuel) : good ((k + i) % n) = false := by
  induction fuel generalizing k i with
  | zero => omega
  | succ fuel ih =>
    have hz : ¬n = 0 := by omega
    simp only [chooseFrom, if_neg hz] at h
    split at h
    · cases h
    · rename_i hg
      cases i with
      | zero => simpa using hg
      | succ i =>
        have := ih h i (by omega)
        have e : (k % n + 1 + i) % n = (k + (i + 1)) % n := by
          rw [Nat.add_assoc, Nat.mod_add_mod, Nat.add_comm 1 i]
        rwa [e] at this

/-- A choice among numbers of which one is acceptable answers one. -/
theorem chooseFrom_isSome {n : Nat} {good : Nat → Bool} {k j : Nat} (hj : j < n) (hg : good j = true) :
    ∃ c, chooseFrom n good n k = some c := by
  cases h : chooseFrom n good n k with
  | some c => exact ⟨c, rfl⟩
  | none =>
    exfalso
    have hn : 0 < n := by omega
    have hk := Nat.mod_lt k hn
    have hd := Nat.div_add_mod k n
    by_cases hc : k % n ≤ j
    · have := chooseFrom_none hn h (j - k % n) (by omega)
      have e : (k + (j - k % n)) % n = j := by
        rw [show k + (j - k % n) = j + n * (k / n) by omega, Nat.add_mul_mod_self_left, Nat.mod_eq_of_lt hj]
      rw [e, hg] at this; cases this
    · have := chooseFrom_none hn h (j + n - k % n) (by omega)
      have e : (k + (j + n - k % n)) % n = j := by
        rw [show k + (j + n - k % n) = j + n * (k / n + 1) by rw [Nat.mul_add]; omega, Nat.add_mul_mod_self_left,
          Nat.mod_eq_of_lt hj]
      rw [e, hg] at this; cases this

theorem freeChoice_isSome {s : State} {n : Nat} {good : Nat → Bool} (j : Nat) (hj : j < n) (hg : good j = true) :
    ∃ c, s.freeChoice n good = some c := chooseFrom_isSome hj hg

end Sys2Proof.Machine
end

