-- ==== Sys2Proof/Laws/Arrive.lean ====
section
/-! SUPPORT. What the shared front of an arrival, of a control message, of a remote descriptor and of a mailbox command comes to
once its checks have passed. -/

namespace Sys2Proof.Machine

variable {s t : State} {c : Conn} {a : Arrival}

theorem arriveAs_of_reaches {ty : PType} (h : s.reaches ty a t c) : s.arriveAs ty a = (t.endPacketIn c (((s.takeIn a).frontChecks a).1.received a)).settle := by
  obtain ⟨h1, h2, h3, h4⟩ := h
  unfold State.arriveAs State.arrive State.again_
  rw [if_pos ⟨.inl h1, by simp [h2]⟩]
  rcases hf : (s.takeIn a).frontChecks a with ⟨u, b⟩
  simp only [hf] at h3 h4
  subst h3
  simp [h4]

theorem nodeCtrl_of_new {src : Coord} (h : s.newNodeMsg a t src) (act : State → Coord → Word32 → State) :
    s.nodeCtrl a act = act t src (ctrlSeqOf a.pkt) := by
  obtain ⟨h1, h2, h3⟩ := h
  simp [State.nodeCtrl, h1, h2, h3]

theorem guardedCtrl_of_new {src : Coord} {m : CtrlMsg} {tr : Trailer} (h : s.newGuarded a m tr t src)
    (act : State → Coord → Word32 → State) : s.guardedCtrl a m tr act = act t src (ctrlSeqOf a.pkt) := by
  obtain ⟨u, h1, h2, h3⟩ := h
  simp [State.guardedCtrl, h1, h2, h3]

theorem endCtrl_of_new {m : CtrlMsg} {x : Received} (h : s.newEndMsg a m x t c) : s.endCtrl a m = t.ctrlRecord c x m := by
  obtain ⟨u, h1, rfl, h2, _⟩ := h
  simp [State.endCtrl, h1, h2]

/-- Cluster 0 acts itself on a message of an end homed there. -/
theorem ctrlRecord_home (h : c.home = 0) (x : Received) (m : CtrlMsg) : t.ctrlRecord c x m = t.endCtrlAt c x.arrival m := by
  simp [State.ctrlRecord, h]

/-- A message of an end homed elsewhere becomes a record for its home cluster. -/
theorem ctrlRecord_away (h : c.home ≠ 0) (x : Received) (m : CtrlMsg) :
    t.ctrlRecord c x m = { t with trans.ackRecords := t.trans.ackRecords ++ [⟨c.index, x.rxAt, x.arrival, some m⟩] } := by
  simp [State.ctrlRecord, h]

theorem endCtrlAt_of_new {m : CtrlMsg} {x : Received} (h : s.newEndMsg a m x t c) (hk : ∀ k, m ≠ .rekey k) (ha : ∀ q n, m ≠ .ctrlAck q n)
    (hr : ∀ n, m ≠ .rekeyAck n) :
    t.endCtrlAt c a m = (t.repliedEnd c a (.ctrlAck (ctrlSeqOf a.pkt) false)).endMsg c m := by
  obtain ⟨u, _, _, _, h3⟩ := h
  unfold State.endCtrlAt
  cases m <;> simp_all [State.repliedEnd]

theorem startRemote_of_starts {q : Nat} {count : Word32} {op : Nat} {kind : OpKind} {x : Queue} {d : Started}
    (h : s.startsRemote q count op kind x d c) : s.startRemote q count op kind = (s.posted q count kind d c, some c) := by
  obtain ⟨h1, h2, h3, h4, h5, h6⟩ := h
  have hf : (if Desc.inlineLength d.entry ≠ 0 ∨ Desc.length d.entry = 0 then none
      else s.localRange x.slice x.as (Desc.localOffset d.entry) (Desc.length d.entry) (!kind.isData)) = none := by
    rcases h3 with h | h | h
    · simp [h]
    · simp [h]
    · split <;> simp_all
  have ha : ¬(kind.isAtomic = true ∧ 16 ≤ (c.ops.filter fun o => o.kind.isAtomic).length) := by
    rintro ⟨h, g⟩; have := h5 h; omega
  have hc : ((s.members c).any fun m => !m.cached) = false := by
    simp only [List.all_eq_true, Bool.and_eq_true, List.any_eq_false] at h6 ⊢
    intro m hm; simp [(h6 m hm).1]
  have hp : ((s.members c).any fun m => !s.mayPin m) = false := by
    simp only [List.all_eq_true, Bool.and_eq_true, List.any_eq_false] at h6 ⊢
    intro m hm; simp [(h6 m hm).2]
  unfold State.startRemote
  simp only [h1, h2]
  rw [hf]
  simp only [h4, hc, hp]
  rw [if_neg ha]
  simp [State.posted]

/-- A command that only checks, acts and answers, once it is taken up. -/
theorem command_of_takesUp {slice : Nat} {tag : Word32} {op : Nat} (f : State → State × Status × List Nat)
    (h : s.takesUp slice tag op) :
    s.command slice tag op f =
      (f (s.taken slice tag op)).1.answer slice tag op (f (s.taken slice tag op)).2.1 0 (f (s.taken slice tag op)).2.2 := by
  unfold State.takesUp at h
  unfold State.command State.taken
  rcases hf : s.take slice tag op with ⟨u, b⟩
  simp only [hf] at h ⊢
  subst h
  rfl

theorem take_of_takesUp {slice : Nat} {tag : Word32} {op : Nat} (h : s.takesUp slice tag op) :
    s.take slice tag op = (s.taken slice tag op, true) := by
  unfold State.takesUp at h
  unfold State.taken
  rcases hf : s.take slice tag op with ⟨u, b⟩
  simp_all

/-- Taking a command up changes its mailbox alone. -/
theorem taken_of_takesUp {slice : Nat} {tag : Word32} {op : Nat} (h : s.takesUp slice tag op) :
    ∃ f, s.taken slice tag op = s.modMailbox slice f := by
  unfold State.takesUp at h
  unfold State.taken
  unfold State.take at h ⊢
  dsimp only at h ⊢
  split at h
  · simp at h
  · split at h
    · simp at h
    · split at h
      · simp at h
      · split at h
        · simp at h
        · rename_i h1 h2 h3 h4
          rw [if_neg h1, if_neg h2, if_neg h3, if_neg h4]
          dsimp only
          exact ⟨_, rfl⟩

end Sys2Proof.Machine
end

