-- ==== Sys2Proof/Laws/Memory.lean ====
section
/-! SUPPORT. The laws of the cell list: what a write makes a read give, and that every operation keeps the canonical form. -/

namespace Sys2Proof.Machine

/-! ## The canonical form -/

/-- A bound may be lowered. -/
theorem memory_wfFrom_weaken (lo : Nat) (o : Option Nat) (h : ∀ l ∈ o, l ≤ lo) (m : List MemCell)
    (hm : Memory.wfFrom (some lo) m = true) : Memory.wfFrom o m = true := by
  cases m with
  | nil => rfl
  | cons c m =>
    obtain ⟨x, y⟩ := c
    simp only [Memory.wfFrom, Bool.and_eq_true, decide_eq_true_eq, Option.mem_some_iff, forall_eq'] at hm ⊢
    exact ⟨⟨fun l hl => Nat.lt_of_le_of_lt (h l hl) hm.1.1, hm.1.2⟩, hm.2⟩

/-- One byte written above a bound keeps the form above it. -/
theorem memory_put_wfFrom (m : List MemCell) (o : Option Nat) (a : Nat) (b : Byte) (ha : ∀ l ∈ o, l < a)
    (hm : Memory.wfFrom o m = true) : Memory.wfFrom o (Memory.put m a b) = true := by
  induction m generalizing o with
  | nil =>
    simp only [Memory.put]
    split
    · rfl
    · simp_all [Memory.wfFrom]
  | cons c m ih =>
    obtain ⟨x, y⟩ := c
    simp only [Memory.wfFrom, Bool.and_eq_true, decide_eq_true_eq] at hm
    obtain ⟨⟨hx, hy⟩, hr⟩ := hm
    simp only [Memory.put]
    split
    · rename_i hlt
      split
      · simp only [Memory.wfFrom, Bool.and_eq_true, decide_eq_true_eq]
        exact ⟨⟨hx, hy⟩, hr⟩
      · rename_i hb
        simp only [Memory.wfFrom, Bool.and_eq_true, decide_eq_true_eq, Option.mem_some_iff, forall_eq']
        exact ⟨⟨ha, hb⟩, ⟨hlt, hy⟩, hr⟩
    · rename_i hge
      split
      · rename_i heq
        subst heq
        split
        · exact memory_wfFrom_weaken a o (fun l hl => Nat.le_of_lt (hx l hl)) m hr
        · rename_i hb
          simp only [Memory.wfFrom, Bool.and_eq_true, decide_eq_true_eq]
          exact ⟨⟨ha, hb⟩, hr⟩
      · rename_i hne
        simp only [Memory.wfFrom, Bool.and_eq_true, decide_eq_true_eq]
        refine ⟨⟨hx, hy⟩, ih (some x) ?_ hr⟩
        intro l hl
        simp only [Option.mem_some_iff] at hl
        omega

/-- One byte written. -/
theorem memory_put_wf (m : List MemCell) (a : Nat) (b : Byte) (hm : Memory.wf m = true) : Memory.wf (Memory.put m a b) = true :=
  memory_put_wfFrom m none a b (by simp) hm

/-- Consecutive bytes written. -/
theorem memory_write_wf (bs : List Byte) (m : List MemCell) (a : Nat) (hm : Memory.wf m = true) :
    Memory.wf (Memory.write m a bs) = true := by
  induction bs generalizing m a with
  | nil => exact hm
  | cons b r ih => exact ih _ _ (memory_put_wf m a b hm)

/-- Bytes written around codewords that stay uncorrectable (R300). -/
theorem memory_writeAround_wf (bad : List BadWord) (bs : List Byte) (m : List MemCell) (a : Nat) (hm : Memory.wf m = true) :
    Memory.wf (writeAround m bad a bs) = true := by
  induction bs generalizing m a with
  | nil => exact hm
  | cons b r ih =>
    simp only [writeAround]
    split
    · exact ih _ _ hm
    · exact ih _ _ (memory_put_wf m a b hm)

/-- Memory at reset. -/
theorem memory_reset_wf : Memory.wf State.reset.mem.cells = true := by decide

/-! ## Reads after a write -/

/-- Below a bound nothing is listed. -/
theorem memory_get_below (m : List MemCell) (lo a : Nat) (h : a ≤ lo) (hm : Memory.wfFrom (some lo) m = true) : Memory.get m a = 0 := by
  induction m generalizing lo with
  | nil => rfl
  | cons c m ih =>
    obtain ⟨x, y⟩ := c
    simp only [Memory.wfFrom, Bool.and_eq_true, decide_eq_true_eq, Option.mem_some_iff, forall_eq'] at hm
    have hx : x ≠ a := by omega
    simp only [Memory.get, hx, if_false]
    exact ih x (by omega) hm.2

/-- A byte that was written reads so. -/
theorem memory_get_put_self (m : List MemCell) (o : Option Nat) (a : Nat) (b : Byte) (hm : Memory.wfFrom o m = true) :
    Memory.get (Memory.put m a b) a = b := by
  induction m generalizing o with
  | nil =>
    simp only [Memory.put]
    split <;> simp_all [Memory.get]
  | cons c m ih =>
    obtain ⟨x, y⟩ := c
    simp only [Memory.wfFrom, Bool.and_eq_true, decide_eq_true_eq] at hm
    simp only [Memory.put]
    split
    · rename_i hlt
      split
      · rename_i hb
        have hx : x ≠ a := by omega
        simp only [Memory.get, hx, if_false, hb]
        exact memory_get_below m x a (by omega) hm.2
      · simp [Memory.get]
    · split
      · rename_i heq
        subst heq
        split
        · rename_i hb
          rw [hb]
          exact memory_get_below m a a (Nat.le_refl a) hm.2
        · simp [Memory.get]
      · rename_i hne
        have hx : x ≠ a := fun h => hne h.symm
        simp only [Memory.get, hx, if_false]
        exact ih (some x) hm.2

/-- Every other byte reads as before. -/
theorem memory_get_put_other (m : List MemCell) (a i : Nat) (b : Byte) (h : i ≠ a) :
    Memory.get (Memory.put m a b) i = Memory.get m i := by
  induction m with
  | nil =>
    simp only [Memory.put]
    split
    · rfl
    · simp [Memory.get, Ne.symm h]
  | cons c m ih =>
    obtain ⟨x, y⟩ := c
    simp only [Memory.put]
    split
    · split
      · rfl
      · simp [Memory.get, Ne.symm h]
    · split
      · rename_i heq
        subst heq
        split
        · simp [Memory.get, Ne.symm h]
        · simp [Memory.get, Ne.symm h]
      · simp only [Memory.get, ih]

end Sys2Proof.Machine
end

