-- ==== Sys2Proof/Tests/Slice0.lean ====
section
/-! SUPPORT. Tests of single steps on small states, the checks' refusals of ill-formed commands, and for each statement with
hypotheses a state and operands that meet them (`witness_…`). -/

namespace Sys2Proof.Tests

open Sys2Proof.Machine

set_option Elab.async false

/-- The state after a command. -/
def run (c : Instr) (s : State) : State :=
  match exec c s with
  | .next t => t
  | _ => s

/-! ## Small states -/

def quotaA : Quotas :=
  { queues := 64, conns := 64, ranges := 64, lace := 16, slots := 64, pft := 16, stream := 8, guardKeys := 8, timers := 8 }

/-- A Last in force that gives slices 0 and 1 a little of everything. -/
def lastA : LastImage :=
  { pools := [32, 32, 32, 32], ports := List.replicate 10 { mode := 1, bufMiB := 16, pfcMask := 3 }, coord := 0x12345,
    quotas := [quotaA, quotaA], prioClass := [0, 1, 2, 3, 4, 5, 6, 7], floors := List.replicate 8 2 }

/-- Tag and status of the newest response of a mailbox. -/
def answered (s : State) (slice : Nat) : Option (Word32 × Status) :=
  (s.mailbox slice).ready.getLast?.map fun r => (r.tag, r.status)

def pfA : Func := ⟨0, 0⟩
def pfB : Func := ⟨1, 0⟩

/-- Firmware runs, a Last is in force, both host ports are up, slice 0 is bound to host A and slice 1 to host B. -/
def base : State :=
  { State.reset with
    boot.stage := 2, last := { booting := false, inForce := some lastA },
    host := Vector.replicate 2 { up := true, numVfs := 4, vfEnable := true },
    slices := ((Vector.replicate 512 {}).set 0 { state := .active }).set 1 { state := .active, port := 1, gen := 3 } }

/-! ## Checks of WellFormed: each refuses an ill-formed term -/

def arrivalOf (p : Packet) : Arrival := { port := none, src := 0, dst := 0, udpDst := 0xC3FD, pkt := p }

theorem test_wf_refuses_queue : (Instr.descriptorFetch (2 ^ 18)).wf = false ∧ (Instr.descriptorFetch (2 ^ 18 - 1)).wf = true := by decide

theorem test_wf_refuses_push : (Instr.qdbPush pfA 8 [1, 2]).wf = false ∧ (Instr.qdbPush pfA 8 (List.replicate 64 0)).wf = true := by
  decide +kernel

theorem test_wf_refuses_read_result : wfReadResult (.ok []) = true ∧ wfReadResult .timeout = true := by decide

/-- A read of more than 2^32 bytes is refused. -/
theorem test_wf_refuses_long_read (l : List Byte) (h : 2 ^ 32 < l.length) : wfReadResult (.ok l) = false := by
  simp [wfReadResult]; omega

theorem test_wf_refuses_packet : wfPacket { ptype := .ack, version := 16 } = false
    ∧ wfPacket { ptype := .ack, sack := [(65536, 0)] } = false
    ∧ wfPacket { ptype := .nak, nak := some { code := 256, status := 0, psn := 0, retryUs := 0 } } = false
    ∧ wfPacket { ptype := .ack } = true := by decide

theorem test_wf_refuses_type : (Instr.data (arrivalOf { ptype := .ack })).wf = false ∧ (Instr.ack (arrivalOf { ptype := .ack })).wf = true
    ∧ (Instr.ack { arrivalOf { ptype := .ack } with udpDst := 65536 }).wf = false := by decide

theorem test_wf_refuses_subtype :
    (Instr.ctrlAck (arrivalOf { ptype := .ctrl, ctrl := some { subtype := 0x45, seq := 1 } }) 1 true).wf = false
    ∧ (Instr.ctrlAck (arrivalOf { ptype := .ctrl, ctrl := some { subtype := 0x46, seq := 1 } }) 1 true).wf = true
    ∧ (Instr.ctrlAck (arrivalOf { ptype := .data }) 1 true).wf = false := by decide

theorem test_wf_refuses_frames : (Instr.pfcFrame 0 256 (List.replicate 8 0)).wf = false ∧ (Instr.pfcFrame 0 1 [1]).wf = false
    ∧ (Instr.status 0 [0] [0, 0, 0, 0]).wf = false ∧ wfFeed [1, 2] = false ∧ wfFeed (List.replicate 16 (2 ^ 32)) = false := by decide

theorem test_wf_refuses_operands : (Instr.keyInfo 0 1 ⟨256, 0, 0⟩).wf = false ∧ (Instr.keyInfo 0 1 ⟨1, 65536, 0⟩).wf = false ∧ (Instr.msixUnmask pfA (some 2048)).wf = false
    ∧ (Instr.registerWrite pfA (2 ^ 26) 4 0).wf = false ∧ (Instr.registerWrite pfA 8 2 0).wf = false ∧ (Instr.roleSet 0 1 4 1).wf = false
    ∧ (Instr.powerSample 65536).wf = false ∧ (Instr.thermalSample 256 0).wf = false ∧ (Instr.setEndpointId 256).wf = false := by decide
/-! ## Queues -/

/-- A NOP descriptor for lap 0, with Signal. -/
def nopD : List Byte := [0x88, 0] ++ List.replicate 62 0

/-- A work queue of slice 0 on cluster 0, Running, and its completion queue on cluster 1. -/
def qWork : Queue := { number := 8, slice := 0, kind := .work, logEntries := 6, entrySize := 64, ringOffset := 0x10000, as := 0,
                       cq := 9, state := .running, enable := true, cached := true }
def qCpl : Queue := { number := 9, slice := 0, kind := .completion, logEntries := 6, entrySize := 32, ringOffset := 0x20000,
                      as := 0, modCount := 4, state := .running, enable := true }

def withQueues (l : List Queue) : State := { base with queue.queues := l }

theorem witness_DoorbellsPushesAndQueueControl :
    (withQueues [qWork]).bar2 pfA 8 = some qWork ∧ qWork.isWork = true ∧ (withQueues [qWork]).inPause = false
    ∧ (withQueues [qCpl]).bar2 pfA 9 = some qCpl ∧ (qCpl.head - 0).toNat < qCpl.modCount ∧ qWork.takesPush nopD = true
    ∧ nopD.length = 64 := by decide +kernel

theorem test_doorbell_records_count :
    ((run (.qdbDoorbell pfA 8 5) (withQueues [qWork])).findQueue 8).map (fun x => (x.doorbell, x.bell)) = some (5, true) := by
  decide +kernel

theorem witness_DoorbellsPushesAndQueueControl_QueueStateControl :
    (withQueues [{ qWork with state := .disabled }]).bar2 pfA 8 = some { qWork with state := .disabled }
    ∧ (withQueues [{ qWork with state := .halted }]).bar2 pfA 8 = some { qWork with state := .halted }
    ∧ (withQueues [{ qWork with state := .halted, enable := false }]).bar2 pfA 8 = some { qWork with state := .halted, enable := false }
    ∧ (withQueues [qWork]).queue.watch.all (fun w => w.q ≠ 8) = true
    ∧ (withQueues [qWork]).work.services.all (fun v => v.q ≠ 8) = true := by decide +kernel

theorem test_halted_queue_resumes :
    ((run (.queueResume pfA 8) (withQueues [{ qWork with state := .halted }])).findQueue 8).map (·.state) = some .running := by
  decide +kernel

theorem test_disabled_queue_drains_at_once :
    ((run (.queueDisable pfA 8) (withQueues [qWork])).findQueue 8).map (·.state) = some .disabled := by decide +kernel

/-- The work queue with its first descriptor fetched, rung, and fetched in part. -/
def qFetched : Queue := { qWork with doorbell := 2, bell := true, fetches := [{ count := 0, entry := some nopD }, { count := 1 }] }

/-- A fetch from host A that waits for its completion. -/
def fetchWait : Waiting :=
  { id := 1, access := { cluster := 0, slice := 0, gen := 0, as := 0, offset := 0x10040, length := 64, use := .fetch 8 1 },
    on := .hostRead 2 }

theorem witness_DescriptorsAreFetchedAndStarted :
    (withQueues [qFetched]).findQueue 8 = some qFetched ∧ qFetched.isWork = true ∧ (withQueues [qFetched]).awake (homeOf 8) = true
    ∧ Desc.own nopD = phaseOf 6 0 ∧ qFetched.fetches.any (fun r => r.count = 0) = true
    ∧ (({ withQueues [qFetched] with xlate.waiting := [fetchWait] } : State).readOutcome fetchWait (.ok nopD)).2 = .done nopD
    ∧ qFetched.fetches.find? (fun r => r.count = 1) = some { count := 1 } ∧ countBefore 1 qFetched.doorbell = true
    ∧ qFetched.fetches.findSome? (fun r => if r.count = qFetched.head then r.entry else none) = some nopD
    ∧ countBefore 1 qFetched.head = false ∧ (withQueues [qFetched]).mayStartDesc qFetched nopD = true ∧ qFetched.cached = true
    ∧ Desc.own nopD = phaseOf 6 1 ∧ qFetched.fetches.all (fun r => r.count ≠ 1 || r.entry.isNone) = true := by decide +kernel

theorem test_start_takes_the_head :
    ((run (.descriptorStart 8) (withQueues [qFetched])).findQueue 8).map (fun x => (x.head, x.started.map (·.ended))) =
      some (1, [none]) := by decide +kernel

/-- R108: a rsvd bit that is not zero ends the descriptor with DESC_MALFORMED at once. -/
theorem test_start_malformed :
    ((run (.descriptorStart 8) (withQueues [{ qFetched with fetches := [{ count := 0, entry := some (nopD.set 16 1) }] }])).findQueue
      8).map (fun x => x.started.map (·.ended.map (·.status))) = some [some Status.descMalformed] := by decide +kernel

def sNop : Started := { count := 0, entry := nopD, run := true, ended := some { status := 0 } }
def qEnded : Queue := { qWork with head := 1, started := [sNop] }
def recNop : Nat × CplRec := (9, { q := 8, count := 0, opcode := 0, tag := 0, status := 0, bytes := 0, gen := 0, detail := 0, slice := 0 })
def qEvent : Queue := { qCpl with number := 10, kind := .event }
def evA : Event := { slice := 0, code := EventCode.ringStale }

theorem witness_CompletionsAndEventsAreDelivered :
    (withQueues [qEnded, qCpl]).findQueue 8 = some qEnded ∧ sNop.final = some { status := 0 } ∧ sNop.peerPaths = []
    ∧ ({ withQueues [{ qCpl with state := .halted }] with queue.records := [recNop] } : State).queue.records.find? (fun r => r.1 = 9)
        = some recNop
    ∧ recNop.2.gen = (withQueues [qCpl]).gen 0 ∧ (withQueues [qCpl]).contextFits 9 = true
    ∧ ({ withQueues [qEvent] with queue.events := [evA] } : State).queue.events.find? (fun e => e.slice = (0 : Fin 512).val) = some evA
    ∧ evA.gen = base.gen 0 ∧ base.evq 0 = none ∧ (withQueues [qEvent]).evq 0 = some qEvent
    ∧ (withQueues [qEvent]).contextFits 10 = true
    ∧ assoc (withQueues [qEvent]).queue.evLost 0 = none ∧ qEvent.occupied + qEvent.held.length < qEvent.entries
    ∧ (withQueues [{ qCpl with arm := some { written := 1, firstAt := some 0 } }]).due (0 + qCpl.modTimeUs * 1000) = true
    ∧ (withQueues [{ qEnded with delivering := [⟨0, true, some 1⟩] }]).findQueue 8
        = some { qEnded with delivering := [⟨0, true, some 1⟩] } := by decide +kernel

/-- R106, R109: the SUCCESS entry of a Signal descriptor. -/
theorem test_delivery_makes_a_record :
    (run (.completionDelivery 8) (withQueues [qEnded, qCpl])).queue.records = [recNop] := by decide +kernel

theorem test_event_without_queue_is_lost :
    (run (.eventRecord 0) { base with queue.events := [evA] }).fld .slcEvqStatLost 0 = 1 := by decide +kernel

/-- A WAIT on counter 12 for 4, and a LACE_ADD of 3 to counter 12. -/
def waitD : List Byte :=
  [0x80, 1] ++ List.replicate 14 0 ++ [12, 0, 0, 0, 0, 0, 0, 0, 4, 0, 0, 0, 0, 0, 0, 0] ++ List.replicate 32 0
def addD : List Byte :=
  [0x80, 2] ++ List.replicate 14 0 ++ [12, 0, 0, 0, 0, 0, 0, 0, 3, 0, 0, 0, 0, 0, 0, 0] ++ List.replicate 32 0
def started (d : List Byte) : State := withQueues [{ qWork with head := 1, started := [{ count := 0, entry := d }] }]
def watchA : Watch := { q := 8, count := 0, slice := 0, counter := 12, threshold := 4, deadline := 0, halt := false, preWake := false,
                        polled := false }

theorem witness_WaitsAndLaceCounters :
    ((started nopD).ready 8 0 Op.nop).isSome = true ∧ ((started waitD).ready 8 0 Op.wait).isSome = true
    ∧ (started waitD).laceValue 0 (Desc.waitCounter waitD) < Desc.waitThreshold waitD ∧ Desc.waitDeadline waitD = 0
    ∧ Desc.waitThreshold waitD ≤ ({ started waitD with queue.lace := [((0, 12), 4)] } : State).laceValue 0 (Desc.waitCounter waitD)
    ∧ ({ started waitD with queue.watch := [{ watchA with reached := true }] } : State).watchOf 8 = some { watchA with reached := true }
    ∧ ({ started waitD with queue.watch := [{ watchA with reached := true, polled := true }] } : State).watchOf 8
        = some { watchA with reached := true, polled := true } ∧ base.due watchA.nextPoll = true
    ∧ ((withQueues [{ qWork with head := 1, enable := false, started := [{ count := 0, entry := waitD }] }]).ready 8 0 Op.wait).map
        (·.1.enable) = some false
    ∧ ({ base with time.now := 128 } : State).passed 1 = true
    ∧ ((started addD).ready 8 0 Op.laceAdd).isSome = true ∧ 12 < (base.quota 0).lace
    ∧ base.bound 0 pfA = true := by decide +kernel

theorem test_wait_stands : (run (.wait 8 0) (started waitD)).queue.watch = [{ watchA with nextPoll := 1000 }] := by decide +kernel

/-- R114: a change that would carry a counter past 2^64 − 1 leaves it there. -/
theorem test_lace_saturates :
    (run .laceCounterChange { base with queue.lace := [((0, 12), BitVec.allOnes 64)], queue.laceChanges := [⟨0, 0, 12, 3⟩] }).laceValue
      0 12 = 2 ^ 64 - 1 := by decide +kernel

/-! ## Remote memory and the transport -/

/-- A sprayed loopback end of slice 0 homed on cluster 0, and a near region that its slice reads and writes. -/
def cnA : Conn :=
  { index := 8, slice := 0, peer := 0x12345, peerIndex := 16, ordered := false, payloadLog := 10, stripeFirst := 8, window := 65536,
    srtt := 1000, rto := 50000, as := 0 }
def regA : RangeEntry :=
  { slice := 0, slot := 0, start := 0x10000, length := 0x10000, key := 7, perm := 0x1F, state := .active, incarnation := 1 }

/-- A remote descriptor on connection 8: opcode, length, and the bytes from 44 on. -/
def remoteD (op len : Nat) (rest : List Byte) : List Byte :=
  [0x80, BitVec.ofNat 8 op] ++ List.replicate 14 0 ++ [8, 0, 0, 0] ++ leBytes 4 len ++ leBytes 8 0x10000
    ++ leBytes 8 (mkFpa 0x12345 0x10000) ++ leBytes 4 7 ++ rest ++ List.replicate (20 - rest.length) 0
def lace12 : List Byte := [12, 0, 0, 0x80]
def withConn (d : List Byte) (c : Conn) : State := { started d with trans.conns := [c], xlate.ranges := [regA] }

/-- What `startsRemote` asks, as a test. -/
def canStart (s : State) (op : Nat) (kind : OpKind) : Bool :=
  match s.ready 8 0 op with
  | some (x, d) =>
    match s.remoteCheck x d.entry with
    | .ok c => s.localRange 0 0 (Desc.localOffset d.entry) (Desc.length d.entry) (!kind.isData) = none && s.cipherReady c = none
        && c.ops.isEmpty && (s.members c).all (fun m => m.cached && s.mayPin m)
    | .error _ => false
  | none => false

theorem witness_RemoteOperationsStart :
    canStart (withConn (remoteD 0x10 2048 []) cnA) Op.write .write = true
    ∧ canStart (withConn (remoteD 0x11 2048 lace12) cnA) Op.writeInc .writeInc = true
    ∧ canStart (withConn (remoteD 0x12 2048 []) cnA) Op.read .read = true
    ∧ canStart (withConn (remoteD 0x13 8 []) cnA) Op.fetchAdd .fetchAdd = true
    ∧ canStart (withConn (remoteD 0x14 8 []) cnA) Op.cmpSwap .cmpSwap = true
    ∧ (match (withConn (remoteD 0x10 0 []) cnA).ready 8 0 Op.write with
       | some (x, d) => (match (withConn (remoteD 0x10 0 []) cnA).remoteCheck x d.entry with | .error f => f | .ok _ => 0)
       | none => 0) = Status.descMalformed := by decide +kernel

/-- A READ that is posted and in turn. -/
def readOp : ConnOp :=
  { id := 1, origin := .desc 8 0, kind := .read, length := 2048, localOffset := 0x10000, remote := 0, key := 7, cursors := [0] }

theorem witness_ReadSegmentSend :
    (withConn nopD { cnA with ops := [readOp] }).readOpOf 8 0 = some ({ cnA with ops := [readOp] }, readOp)
    ∧ ({ cnA with ops := [readOp] } : Conn).hasTurn 1 = true := by decide +kernel

theorem witness_RemoteOperationsStart_PostedOperationCarriesTheDescriptor :
    canStart (withConn (remoteD 0x10 2048 []) cnA) Op.write .write = true
    ∧ ((withConn (remoteD 0x10 2048 []) cnA).findConn 8).isSome = true := by decide +kernel

/-- R128: a WRITE of no bytes ends with DESC_MALFORMED. -/
theorem test_write_of_nothing :
    ((run (.write 8 0) (withConn (remoteD 0x10 0 []) cnA)).findStarted 8 0).map (fun x => x.2.ended.map (·.status)) =
      some (some Status.descMalformed) := by decide +kernel

/-- R160: the DATA packets of 2,048 bytes at a payload of 1 KiB: two, of which the second is LAST. -/
theorem test_write_sends_two_packets :
    ((run (.write 8 0) (withConn (remoteD 0x10 2048 []) cnA)).out.map fun o =>
      match o with | .loopback (.packet p) => (p.psn, p.last, p.payload.length) | _ => (9, false, 0)) = [(0, false, 1024), (1, true, 1024)] := by
  decide +kernel

/-- A packet to end 8 by loopback. -/
def pktA (ty : PType) : Packet := { ptype := ty, destIndex := 8, addr := some ⟨BitVec.ofNat 64 (mkFpa 0x12345 0x10000), 7, 4, 0⟩ }
def arrA (p : Packet) : Arrival := { port := none, src := 0, dst := 0, udpDst := 50173, pkt := p }
def dataA : Arrival := arrA { pktA .data with last := true, payload := [1, 2, 3, 4] }
def atomicA : Arrival := arrA { pktA .atomicReq with addr := some ⟨BitVec.ofNat 64 (mkFpa 0x12345 0x10000), 7, 8, 0⟩, atomic := some ⟨false, 5, 0⟩ }
def bareA (ty : PType) : Arrival := arrA { ptype := ty, destIndex := 8, nak := if ty = .nak then some ⟨2, 0, 0, 50⟩ else none,
                                           solicit := true, atomic := if ty = .atomicResp then some ⟨false, 5, 0⟩ else none }

/-- What `reaches` asks, as a test: the end that the packet reaches. -/
def reachesEnd (s : State) (ty : PType) (a : Arrival) : Option Conn :=
  if a.pkt.ptype = ty ∧ s.sleepsFor a.pkt = false ∧ ((s.takeIn a).frontChecks a).2 = true then
    (((s.takeIn a).frontChecks a).1.endChecks (((s.takeIn a).frontChecks a).1.received a)).2 else none

def endState (c : Conn) : State := withConn nopD c

theorem witness_ArrivingPacketsAct :
    (reachesEnd (endState cnA) .data dataA).isSome = true ∧ ((endState cnA).psnChecks cnA dataA.pkt).2 = .fresh
    ∧ (reachesEnd (endState cnA) .readReq (arrA (pktA .readReq))).isSome = true
    ∧ (reachesEnd (endState cnA) .atomicReq atomicA).isSome = true
    ∧ (reachesEnd (endState cnA) .readResp (bareA .readResp)).isSome = true
    ∧ (reachesEnd (endState cnA) .atomicResp (bareA .atomicResp)).isSome = true
    ∧ (reachesEnd (endState cnA) .ack (bareA .ack)).isSome = true ∧ (reachesEnd (endState cnA) .nak (bareA .nak)).isSome = true
    ∧ (reachesEnd (endState cnA) .probe (bareA .probe)).isSome = true
    ∧ (reachesEnd (endState cnA) .data (arrA { dataA.pkt with coll := some { op := 0, seq := 1, src := 0, stage := 0, slot := 0, chunk := 0, sig := none } })).isSome = true
    ∧ ({ endState cnA with trans.ackRecords := [⟨8, 0, bareA .ack, none⟩] } : State).trans.ackRecords.find?
        (fun r => r.conn % 8 = (0 : Fin 8).val) = some ⟨8, 0, bareA .ack, none⟩
    ∧ ({ endState cnA with trans.ackRecords := [⟨8, 0, bareA .ctrl, some (.rekeyAck 0)⟩] } : State).trans.ackRecords.find?
        (fun r => r.conn % 8 = (0 : Fin 8).val) = some ⟨8, 0, bareA .ctrl, some (.rekeyAck 0)⟩
    ∧ (endState cnA).findConn 8 = some cnA ∧ (endState cnA).awake 0 = true := by decide +kernel

/-- R135, R173: the bytes of a message of one packet are placed, its PSN is acknowledged, and E moves on. -/
theorem test_data_is_placed :
    ((run (.data dataA) (endState cnA)).readNear 0x10000 4).2 = some [1, 2, 3, 4]
    ∧ ((run (.data dataA) (endState cnA)).findConn 8).map (·.expect) = some 1 := by decide +kernel

/-- R131: a fetch-add returns the old value and leaves the sum. -/
theorem test_fetch_add_at_target :
    ((run (.atomicReq atomicA) (endState cnA)).readNear 0x10000 8).2 = some (leBytes 8 5) := by decide +kernel

theorem witness_ArrivingPacketsAct_ReceiveWindow :
    (endState cnA).isDup { cnA with expect := 5 } 4 = true ∧ (endState cnA).isDup cnA 0 = false
    ∧ ((65536 : Word32) - cnA.expect).toNat > 65535 ∧ ((65535 : Word32) - cnA.expect).toNat ≤ 65535
    ∧ (reachesEnd (endState { cnA with expect := 5 }) .data dataA).isSome = true := by decide +kernel

/-- R171: an ordered end does not take a PSN above E. -/
theorem test_ordered_end_takes_only_expected :
    ((run (.data (arrA { dataA.pkt with psn := 1 })) (endState { cnA with ordered := true })).findConn 8).map
      (fun c => (c.expect, c.seqNakSent)) = some (0, true) := by decide +kernel

/-- A record in flight. -/
def recA : InFlight := { psn := 0, sentAt := 0, op := 1, pkt := pktA .data }

theorem witness_TransportTimersAct :
    ({ endState { cnA with unreportedAt := some 0 } with time.now := 128000 } : State).due (0 + base.ackDelay 0) = true
    ∧ ({ cnA with inflight := [recA] } : Conn).deadline = some 50000
    ∧ ({ base with time.now := 64000 } : State).passed 50000 = true
    ∧ ((endState { cnA with inflight := [{ recA with holdUntil := some 0 }] }).nakRun { cnA with inflight := [{ recA with holdUntil := some 0 }] }
        0).filter (fun r => r.holdUntil.any base.due) ≠ []
    ∧ ((endState { cnA with fetching := true, cached := false }).trans.conns.filter fun d => d.home = 0 && d.cached).length < base.connLines
    ∧ (endState { cnA with evicting := true }).pinned { cnA with evicting := true } = false
    ∧ base.due ({ cnA with state := .gone } : Conn).goneUntil = true := by decide +kernel

/-- R178: the eighth loss of a PSN is not resent; the end fails with PEER_UNREACHABLE. -/
theorem test_seven_retries_then_failed :
    ((run (.retransmitTimer 8) { endState { cnA with inflight := [{ recA with retries := 7 }] } with time.now := 64000 }).findConn 8).map
      (fun c => (c.state, c.failCode)) = some (.failed, Status.peerUnreachable) := by decide +kernel

/-- A node-scope control message by loopback, and what `newNodeMsg` asks. -/
def ctrlA (sub : Nat) : Arrival := arrA { ptype := .ctrl, ctrl := some ⟨sub, 1⟩ }
def newMsg (s : State) (a : Arrival) : Bool :=
  ((s.takeIn a).frontChecks a).2 && (((s.takeIn a).frontChecks a).1.sender a).isSome && (base.seenCtrl 0x12345 (ctrlSeqOf a.pkt)).isNone

def listenA : Listen :=
  ⟨0, { listenId := 5, addressSpace := 0, trafficClass := 0, mode := 1, payloadLog := 10, sendSlot := 0xFFFF, recvSlot := 0xFFFF, cq := 9 }⟩
def reqA : ConnectReqBody :=
  { initIndex := 16, initInc := 1, listenId := 5, initPsn := 0, mode := 1, trafficClass := 0, payloadLog := 10, stripes := 1, encrypted := false }
def listening : State := { base with trans.listens := [listenA] }
def connectingA : Conn := { cnA with state := .connecting, initiator := true, listenId := 5, incarnation := 1 }
def connectOut : CtrlOut := { seq := 1, msg := .connectReq { reqA with initIndex := 8 }, dst := 0x12345, nextAt := 0 }
def connecting : State := { endState connectingA with trans.conns := [connectingA], trans.ctrlOut := [connectOut] }
def closing : State :=
  { endState { cnA with state := .closing } with trans.conns := [{ cnA with state := .closing }],
                                                 trans.ctrlOut := [{ connectOut with msg := .close 8 0 16 0 }] }

/-- An accepting set of two whose first member has joined. -/
def halfJoined : State :=
  { base with trans.conns :=
      [{ cnA with state := .connecting, joined := true, listenId := 5, peerInc := 1, stripes := 2 },
       { cnA with index := 9, state := .connecting, joined := false, listenId := 5, peerIndex := 0, stripes := 2 }] }

theorem witness_ConnectionMessagesAct :
    newMsg listening (ctrlA 0x10) = true ∧ listening.fwAway = false ∧ listening.accepted 0x12345 reqA = none
    ∧ listening.groupFor 0x12345 5 = none ∧ listening.findListen 5 0 = some listenA ∧ listening.listenRefuses listenA 0 reqA = none
    ∧ listening.findListen 6 0 = none ∧ listening.nextMember 0x12345 reqA = none
    ∧ (halfJoined.accepted 0x12345 { reqA with stripes := 2 }).map (·.index) = some 8
    ∧ (halfJoined.nextMember 0x12345 { reqA with stripes := 2, initIndex := 17 }).map (fun c => (c.index, c.group)) = some (9, none)
    ∧ halfJoined.accepted 0x12345 { reqA with stripes := 2, initIndex := 17 } = none
    ∧ (connecting.firstOf connectingA).group = none
    ∧ connecting.connecting 0x12345 1 = some connectingA
    ∧ connecting.trans.ctrlOut.find? (fun o => o.seq = 1 && o.dst = 0x12345 && o.conn.isNone) = some connectOut
    ∧ (endState cnA).findConn (8 : BitVec 24).toNat = some cnA ∧ cnA.peerIndex = 16
    ∧ closing.trans.ctrlOut.any (fun o => o.seq = 1 && o.dst = 0x12345 &&
        (match o.msg with | .close i n _ _ => i = 8 && n = 0 | _ => false)) = true
    ∧ (closing.findConn 8).map (·.state) = some .closing := by decide +kernel

/-- R161, R164: a ListenId that no slice listens on is refused with reason 1. -/
theorem test_unknown_listen_refused :
    (run (.connectReq (ctrlA 0x10) { reqA with listenId := 6 }) listening).trans.ctrlSeen.map (fun x => x.2.2.1) =
      [.connectRefuse 16 1 6 Status.localAccess 1] := by decide +kernel

/-- R161: CONNECT_ACK opens the end. -/
theorem test_connect_ack_opens :
    ((run (.connectAck (ctrlA 0x11) 16 3 5 77) connecting).findConn 8).map (fun c => (c.state, c.peerInc, c.expect)) =
      some (.opened, 3, 77) := by decide +kernel

/-- The Guard Trailer that fits a message, with Resync set. -/
def trailerOf (m : CtrlMsg) : Trailer := { alive := 1, length := m.body.length, tflags := 1#8, check := crc64 m.body }
def feedState : State := { base with last.role := 2 }
def endMsgA (sub : Nat) : Arrival := arrA { ptype := .ctrl, destIndex := 8, ctrl := some ⟨sub, 1⟩ }

theorem witness_EndMaintenanceActs :
    newMsg (endState cnA) (ctrlA 0x18) = true ∧ feedState.last.role = 2 ∧ feedState.due feedState.trans.feedAt = true
    ∧ (base.guardCheck 0x12345 0x20 (CtrlMsg.sbtFeed (List.replicate 16 5)).body (trailerOf (.sbtFeed (List.replicate 16 5)))).2 = .fresh
    ∧ (reachesEnd (endState cnA) .ctrl (endMsgA 0x68)).isSome = true
    ∧ (endState cnA).seenCtrl 0x12345 1 = none ∧ cnA.state = .opened ∧ cnA.home = 0 ∧ ({ cnA with index := 9 } : Conn).home ≠ 0
    ∧ (reachesEnd (endState { cnA with index := 9, stripeFirst := 9 }) .ctrl
        { endMsgA 0x68 with pkt := { (endMsgA 0x68).pkt with destIndex := 9 } }).isSome = true
    ∧ (base.slice 0).tenant = 0
    ∧ ({ base with trans.ctrlOut := [connectOut] } : State).trans.ctrlOut.find? (fun o => o.seq = 1) = some connectOut
    ∧ ({ base with time.now := 64 } : State).passed connectOut.nextAt = true ∧ ({ base with trans.ctrlOut := [{ connectOut with tries := 8 }] } : State).endless
        { connectOut with tries := 8 } = false := by decide +kernel

/-- R180: a PAUSE notice pauses the ends toward its sender for at most 200 ms. -/
theorem test_pause_marks_ends :
    ((run (.pause (ctrlA 0x18) 1000 1) (endState cnA)).findConn 8).map (·.pausedUntil) = some (some (200000000, 0)) := by decide +kernel

theorem witness_EndMaintenanceActs_ReHomeAckEndsTheWait :
    newMsg (endState cnA) (ctrlA 0x61) = true
    ∧ ({ endState cnA with trans.ctrlOut := [{ connectOut with msg := .reHome 16 0 1 8 0 2 1 }] } : State).findConn (8 : BitVec 24).toNat
      = some cnA := by decide +kernel

def takesUpB (s : State) (slice op : Nat) : Bool := (s.take slice 1 op).2
def streamKey : KeySlot := { slice := 0, slot := 3, kind := 1, state := .loaded, keyId := 9 }
def encrypted : State := { endState { cnA with sendSlot := some 3, recvSlot := some 3 } with keys.slots := [streamKey] }

theorem witness_ConnectionCommandsAnswer :
    takesUpB base 0 MbxOp.connListen = true ∧ (base.connListen 0 listenA.params).2.1 = Status.success
    ∧ takesUpB base 0 MbxOp.connCreate = true ∧ base.keys.drbgHalted = false
    ∧ base.createRefused 0 { peer := 0x12345, listenId := 5, mode := 1, trafficClass := 0, payloadLog := 10, stripes := 1,
                             sendSlot := 0xFFFF, recvSlot := 0xFFFF, addressSpace := 0, contextRegion := 0 } = none
    ∧ base.createRefused 0 { peer := 0x12345, listenId := 5, mode := 1, trafficClass := 7, payloadLog := 10, stripes := 2,
                             sendSlot := 0xFFFF, recvSlot := 0xFFFF, addressSpace := 0, contextRegion := 0 } = some Status.descMalformed
    ∧ takesUpB (endState cnA) 0 MbxOp.connDestroy = true ∧ (endState cnA).quiet cnA = true ∧ (endState cnA).firstOf cnA = cnA
    ∧ takesUpB (endState cnA) 0 MbxOp.connResume = true ∧ takesUpB encrypted 0 MbxOp.connRekey = true
    ∧ encrypted.keySlot 0 3 false = some streamKey ∧ takesUpB base 0 MbxOp.cyqPortSet = true ∧ base.trans.conns = []
    ∧ (endState cnA).trans.conns ≠ [] := by decide +kernel

/-- R154: CYQ_PORT_SET is refused with BUSY while an index is not Free. -/
theorem test_port_set_busy :
    ((run (.cyqPortSet 0 1 4000) (endState cnA)).mailbox 0).ready.map (·.status) = [Status.busy] := by decide +kernel


/-- The free index that `witness_ConnectionCommandsAnswer`'s CONN_CREATE takes. -/
theorem witness_ConnectionCommandsAnswer_index : ∃ k, (base.taken 0 1 MbxOp.connCreate).newIndex 1 0 none false = some k := by
  obtain ⟨k, hk⟩ := freeChoice_isSome (s := base.taken 0 1 MbxOp.connCreate) (n := 2 ^ 24)
    (good := fun k => (base.taken 0 1 MbxOp.connCreate).indexFree k 1 && ((0 : Nat) ≠ 7 || k % 8 = 0) && (none : Option Nat).all (· = k % 8))
    8 (by decide) (by decide +kernel)
  refine ⟨k, ?_⟩
  rw [← hk]
  unfold State.newIndex
  dsimp only
  rw [if_pos (Or.inl (by decide))]

/-! ## Pacing and ports -/

/-- A state with one port as given, at a time. -/
def withPort (p : Nat) (x : Port) (now : Nat := 0) : State :=
  { base with ports := vset base.ports p x, time.now := now, bypass.phase := .lit }
def portUp : Port := { link := .up }
def macF : TxFrame := { body := .pfc 1 [0], cls := macClass, bytes := 64 }
def c7F : TxFrame := { body := .raw [], cls := 7, bytes := 100 }
def c0F : TxFrame := { body := .raw [], cls := 0, bytes := 100, vl := 1 }
def repF : ReplayFrame := { lane := 1, seq := 4, frame := c0F, sentAt := 0, again := true }
def weltP : Port := { portUp with welt := true, replay := [repF] }

/-- The state in which a port's requesters are looked at. -/
def atGrant (s : State) (p : Nat) : State := ((s.commitPort p).c7Refill p).countOverCap p

theorem witness_PacingAndArbitration :
    (({ base with trans.wheel := [{ owner := .conn 8, wheel := 0, nextAt := 0 }] } : State).findWheel (.conn 8)).isSome = true
    ∧ (({ base with trans.wheel := [{ owner := .raw 9, wheel := 0, nextAt := 0 }] } : State).findWheel (.raw 9)).isSome = true
    ∧ base.awake (wheelHome (.conn 8)) = true ∧ base.awake (wheelHome (.raw 9)) = true ∧ base.due 0 = true
    ∧ (withPort 0 portUp).linkUp 0 = true ∧ (withPort 0 portUp).portEnabled 0 = true
    ∧ (atGrant (withPort 0 { portUp with egress := [c0F, macF] }) 0).grantOf 0 = some 0
    ∧ (atGrant (withPort 0 { portUp with egress := [c0F, c7F] }) 0).grantOf 0 = some 1
    ∧ (((atGrant (withPort 0 { portUp with egress := [c7F] }) 0).granted 0 1).c7Head 0).isSome = true
    ∧ (atGrant (withPort 0 weltP) 0).grantOf 0 = some 2
    ∧ (((atGrant (withPort 0 weltP) 0).granted 0 2).replayHead 0).isSome = true
    ∧ (atGrant (withPort 0 { portUp with egress := [c0F] }) 0).grantOf 0 = some 3
    ∧ (((atGrant (withPort 0 { portUp with egress := [c0F] }) 0).scheduled 0 [] [c0F]).2).isSome = true
    ∧ (List.range 4).all (fun o => vget (portUp.grantsWaited) o 0 < 8) = true := by decide +kernel

/-- R211: MacControl goes before class 7, and class 7 before the scheduled classes. -/
theorem test_class7_goes_first :
    (((run (.egressFrameSelect 0) (withPort 0 { portUp with egress := [c0F, c7F] })).port 0).egress.map (·.cls)) = [0] := by
  decide +kernel

theorem witness_ThrottleBucketsAndCommits :
    (withPort 0 portUp).portEnabled 0 = true ∧ 0 < (withPort 0 portUp).allowance 0 := by decide +kernel

theorem test_throttle_climbs : throttleLevel 0 75 100 = 3 ∧ throttleLevel 3 68 100 = 2 ∧ throttleLevel 3 69 100 = 3 := by decide

theorem witness_ThrottleBucketsAndCommits_BucketsAndCommits :
    base.isManager pfA = true ∧ (base.trans.sbt.toList[0]?).isSome = true ∧ ((withPort 0 { portUp with pendingSched := some (5, 6) }).port 0).pendingSched = some (5, 6)
    ∧ ({ feed := some (5, 0) } : SbtEntry).feed = some (5, 0) ∧ minOpt ({ feed := some (5, 0) } : SbtEntry).buckets = none := by decide +kernel

/-- R203: 5 % of 100 B/ns for 1 µs is 5,000 B. -/
theorem test_class7_refill :
    ((run (.class7TokensRefill 0) (withPort 0 { portUp with c7Tokens := 0 } 1000)).port 0).c7Tokens = 500000 := by decide +kernel

theorem witness_LinkEvents :
    (withPort 0 portUp).linkUp 0 = true ∧ ((withPort 0 portUp).port 0).lossSince = none
    ∧ ((withPort 0 { portUp with lossSince := some 0 } 1999999).port 0).lossSince = some 0 ∧ 1999999 < 0 + 2000000
    ∧ 0 + 2000000 ≤ (withPort 0 { portUp with lossSince := some 0 } 2000000).time.now
    ∧ (withPort 0 { link := .training }).portEnabled 0 = true ∧ base.pauseHolds 0 = false
    ∧ (withPort 9 { link := .training, helloSeen := true }).portEnabled 9 = true
    ∧ ((withPort 0 { link := .training }).port 0).forceDown = false
    ∧ (withPort 0 { link := .training } 500000128).passed 500000000 = true
    ∧ (withPort 0 { link := .training } 500000000).fld .prtLinkCtrlInterface 0 = 0 ∧ (withPort 0 portUp).isManager pfA = true := by
  decide +kernel

/-- R319: 2 ms of loss take the link down with cause 1, and the frame that waited is gone. -/
theorem test_link_goes_down :
    (((run (.linkDown 0) (withPort 0 { portUp with lossSince := some 0, egress := [c7F] } 2000000)).port 0).egress = []
      ∧ ((run (.linkDown 0) (withPort 0 { portUp with lossSince := some 0 } 2000000)).queue.events.map (·.info)) = [256]) := by
  decide +kernel

theorem test_link_stays_up_before_2ms :
    ((run (.linkDown 0) (withPort 0 { portUp with lossSince := some 0 } 1999999)).port 0).link = .up := by decide +kernel

theorem witness_PauseAndArrivingFrames :
    (withPort 0 portUp).portEnabled 0 = true ∧ (withPort 8 portUp).portEnabled 8 = true ∧ (withPort 8 portUp).linkUp 8 = true
    ∧ (withPort 0 portUp).due (vget portUp.pausedRx 3 0) = true
    ∧ vget ({ portUp with xoff := vset portUp.xoff 3 true } : Port).xoff 3 false = true := by decide +kernel

/-- R326: 100 quanta are 64 ns; quanta of 0 release. -/
theorem test_pause_holds :
    vget ((run (.pfcFrame 0 8 [0, 0, 0, 100]) (withPort 0 portUp 1000)).port 0).pausedRx 3 0 = 1064
    ∧ vget ((run (.pfcFrame 0 8 [0, 0, 0, 0]) (withPort 0 { portUp with pausedRx := Vector.replicate 8 5000 } 1000)).port 0).pausedRx 3 0 = 0 := by
  decide +kernel

def frameA : RxFrame := { fcsOk := true, length := 100, etherType := 0x86DD, kind := .ipv6 6 }
def weltFrame : RxFrame := { frameA with weltTag := some (1, 0) }
/-- The bytes of an IPv6 UDP frame without its FCS, from no MAC address. -/
def etherBytes (h : PathHdr) (p : Packet) (body : List Byte) : List Byte :=
  let u := udpImage h (datagram p body)
  List.replicate 12 0 ++ beBytes 2 0x86DD ++ word (6 * 2 ^ 28) ++ beBytes 2 u.length ++ [17, 64] ++ beBytes 16 h.srcIp.toNat
    ++ beBytes 16 h.dstIp.toNat ++ u
def hdrTo (p : Nat) : PathHdr :=
  { srcIp := ipOf base.ownPrefix base.coord 0, dstIp := ipOf base.ownPrefix base.coord p, entropy := 49152, udpDst := 50173 }
def routeMsg : Packet := { ptype := .ctrl, ctrl := some ⟨0x50, 1⟩ }
def heldBytes (p : Nat) : List Byte := etherBytes (hdrTo p) routeMsg [1, 2, 3, 4]
/-- The same for another node of the ring. -/
def passingBytes : List Byte := etherBytes { hdrTo 2 with dstIp := ipOf base.ownPrefix (base.coord + 1) 2 } routeMsg [1, 2, 3, 4]
def udpFrame (p : Nat) : RxFrame := { frameA with kind := .udp, bytes := heldBytes p }

/-- A packet with every extension that one can carry. -/
def packetA : Packet :=
  { ptype := .data, last := true, ackreq := true, tenant := 0x123456, destIndex := 77, destInc := 3, psn := 0x80000001, msn := 5,
    addr := some ⟨0x123456789abcdef0, 7, 5, 0⟩, lace := some 9, cipher := some 4, coll := some ⟨1, 2, 3, 4, 5, 6, some 7⟩,
    payload := [1, 2, 3, 4, 5], tag := 99 }

/-- R153 to R158: a datagram is read as the packet it was laid out from. -/
theorem test_datagram_reads_back : readPacket (datagram packetA packetA.payload) = packetA := by decide +kernel

/-- R154, R155: the checks of a frame hold as it was laid out, and a changed payload byte breaks both. -/
theorem test_frame_checks :
    ((readFrame 0 (heldBytes 0)).csumOk, (readFrame 0 (heldBytes 0)).crcOk, (readFrame 0 (heldBytes 0)).udpDst) = (true, true, 50173)
    ∧ ((readFrame 0 ((heldBytes 0).set 105 9)).csumOk, (readFrame 0 ((heldBytes 0).set 105 9)).crcOk) = (false, false) := by
  decide +kernel

theorem witness_PauseAndArrivingFrames_FramesArrive :
    (withPort 0 portUp).portEnabled 0 = true ∧ (withPort 0 portUp).linkUp 0 = true ∧ frameA.fcsOk = true
    ∧ 64 ≤ frameA.length ∧ frameA.length ≤ 9216
    ∧ (portUp.sinceStatus < 15 ∧ 15 ≤ ({ portUp with sinceStatus := 15 } : Port).sinceStatus)
    ∧ ((withPort 0 weltP).acceptWelt 0 1 0).2 = true ∧ ((withPort 0 weltP).acceptWelt 0 1 5).2 = false ∧ (1 : Word32) ≠ vget weltP.rxSeq 1 0
    ∧ vget weltP.nakSent 1 false = false := by decide +kernel

/-- R333: a frame out of sequence is dropped and a NAK asks for the expected one. -/
theorem test_welt_gap_naks :
    (((run (.frameReceive 0 { weltFrame with weltTag := some (1, 5) }) (withPort 0 { portUp with welt := true })).port 0).egress.map
      (·.body)) = [.weltNak 1 0] := by decide +kernel

theorem witness_FramesAndFilters :
    ((withPort 0 portUp).port 0).wireFault = 0 ∧ (withPort 0 portUp).inPause = false
    ∧ 1 < ({ frameA with tags := [⟨1, 0⟩, ⟨2, 0⟩] } : RxFrame).tags.length
    ∧ (withPort 0 portUp).addressOk (readFrame 0 (heldBytes 0)) = true
    ∧ (withPort 0 portUp).tagAccepted 0 [] = true ∧ (withPort 8 portUp).tagAccepted 8 [] = true
    ∧ (withPort 8 portUp).addressOk (readFrame 8 (heldBytes 8)) = true
    ∧ (withPort 8 portUp).addressOk (readFrame 8 passingBytes) = false
    ∧ (withPort 8 portUp).ownPortOf (readFrame 8 passingBytes).dst 8 = false ∧ (withPort 8 portUp).ownPortOf (readFrame 8 passingBytes).dst 9 = false
    ∧ ({ base with route.banks := #v[{ state := .active, epoch := 4 }, {}] } : State).activeBank.isSome = true := by decide +kernel

/-- R320: a fabric port's packet to its own address waits for its destination. -/
theorem test_packet_is_held :
    (run (.frameReceive 0 (udpFrame 0)) (withPort 0 portUp)).ingress.length = 1 := by decide +kernel

theorem witness_WeltControl :
    ((withPort 0 portUp).port 0).forceDown = false ∧ (withPort 0 portUp).due portUp.nextHello = true
    ∧ (withPort 0 { link := .training }).portEnabled 0 = true ∧ (withPort 0 portUp 1000128).passed (portUp.upSince + 1000000) = true
    ∧ (withPort 0 weltP).due weltP.nextStatus = true
    ∧ ({ weltP with replay := [{ repF with again := false }] } : Port).replay.find? (fun f => f.lane = (1 : Fin 4).val)
        = some { repF with again := false }
    ∧ 0 + weltP.rttNs + 2000 < (withPort 0 weltP 2001).time.now ∧ weltP.lossSince = none
    ∧ (withPort 0 weltP 100128).passed (weltP.lastStatusRx + 100000) = true := by decide +kernel

/-- R333: STATUS lets go of what its AckSeq has passed. -/
theorem test_status_frees_replay :
    (((run (.status 0 [0, 5, 0, 0] [0, 0, 0, 0]) (withPort 0 weltP)).port 0).replay) = [] := by decide +kernel

theorem witness_ChainTimeAndBypass :
    ((withPort 9 portUp).port 9).link = .up ∧ (withPort 9 portUp).due portUp.nextTime = true
    ∧ ((withPort 9 portUp).setFld .timCtrlSource 0 3).sourcePort = some 9 := by decide +kernel

/-- R507's example: M is 20 ns behind A over 40 m of fibre. -/
theorem test_time_example :
    (run (.time 9 (5000125000 * 65536) (5000000000 * 65536) (5000000220 * 65536))
      ((withPort 9 portUp 5000125180).setFld .timCtrlSource 0 3)).time.offsetNs = 20 := by decide +kernel

theorem witness_ChainTimeAndBypass_BypassSwitch :
    base.bypass.phase = .bypassed ∧ base.bypass.waiter = [] ∧ (withPort 8 portUp).bypass.phase = .lit
    ∧ (withPort 8 portUp).chainEmpty = true ∧ (withPort 8 portUp).linkUp 8 = true
    ∧ ((withPort 8 portUp).take 0 1 MbxOp.chainBypass).2 = true ∧ (base.take 1 1 MbxOp.chainBypass).2 = true := by decide +kernel

/-- The switch on its way to bypass, with the command that waits for it. -/
def moving : State :=
  { base with
    bypass := { phase := .moving true 0, mailbox := true, waiter := [(0, 1, true)] },
    mailboxes := [(0, { taken := [{ tag := 1, major := 2, opcode := 0x93 }] })] }

/-- R339: CHAIN_BYPASS On first drains, and is answered when the switch has settled. -/
theorem test_chain_bypass_drains :
    (run (.chainBypass 0 1 true) (withPort 8 portUp)).bypass.phase = .draining 1000000
    ∧ answered (run .bypassSwitchSettled moving) 0 = some (1, Status.success) := by decide +kernel

def filterA : FilterRec :=
  { portMask := 1, vlanId := 0, vlanMask := 0, pcp := 0, pcpMask := 0, etherType := 0, etEnable := false, nextHeader := 6, nhEnable := true,
    udpDst := 0, udEnable := false, queue := 8 }
def rawQ : Queue := { qWork with kind := .rawRecv }

theorem witness_FramesAndFilters_Filters :
    ((withQueues [rawQ]).take 0 1 MbxOp.filterSet).2 = true ∧ (withQueues [rawQ]).findQueue filterA.queue = some rawQ
    ∧ (base.take 0 1 MbxOp.filterClear).2 = true ∧ (base.take 0 1 MbxOp.filterRead).2 = true ∧ (1 : Fin 512) ≠ 0
    ∧ (base.take 1 1 MbxOp.filterSet).2 = true ∧ (base.take 1 1 MbxOp.filterClear).2 = true
    ∧ (base.take 1 1 MbxOp.filterRead).2 = true
    ∧ ({ base with filters := [(3, filterA), (2, filterA)] } : State).filterFor 0 frameA = some (2, 8) := by decide +kernel

theorem test_filter_set_is_slice_0s :
    (run (.filterSet 0 1 3 filterA) (withQueues [rawQ])).filters = [(3, filterA)]
    ∧ (run (.filterSet 1 1 3 filterA) (withQueues [rawQ])).filters = [] := by decide +kernel

/-! ## Routes -/

/-- A node with an Active bank of epoch 4, its inactive bank as given, that follows a claim of node 0x12340. -/
def mgrA : Coord := 0x12340
def entA : RouteEntry := { pfx := 5, mac := 1, portSet := 255, valid := true, entropyBase := 49152, entropyLog := 8, hopLimit := 64 }
def ownIndex : Nat := routeIndex base.coord
def bankA (st : BankState) (e : Word32) : RouteBank :=
  { state := st, epoch := e, entries := [(ownIndex, entA)], chain := [(coordNode base.coord, { valid := true })] }
def routed (st : BankState) : State :=
  { base with route := { banks := #v[bankA .active 4, bankA st 5], active := 0, epoch := 4, claim := some (mgrA, 1),
                         lastBegin := some 5, drainEnd := none } }
def fromMgr (sub : Nat) : Arrival := { ctrlA sub with port := some 0, src := ipOf 5 mgrA 0, dst := ipOf 5 base.coord 0 }
def guardNew (s : State) (a : Arrival) (m : CtrlMsg) : Bool :=
  ((s.takeIn a).frontChecks a).2 && ((((s.takeIn a).frontChecks a).1.sender a) = some mgrA)
    && (((s.takeIn a).frontChecks a).1.guardCheck mgrA (subtypeOf a.pkt) m.body (trailerOf m)).2 = .fresh
def flipA : Flip := { slice := 0, tag := 1, epoch := 5, workers := [{ node := 0 }] }
def managing : State :=
  { routed .ready with
    last := { booting := false, inForce := some lastA, role := 1, roleEpoch := 1 },
    route.flip := some flipA, trans.ctrlOut := [{ seq := 1, dst := mgrA, msg := .rtCommit 5 0, nextAt := 0 }] }

theorem witness_RouteWorkerAndBanks :
    guardNew (routed .free) (fromMgr 0x50) (.rtBegin 5 4 1) = true ∧ sameGroup mgrA base.coord = true
    ∧ claimWins (mgrA, 1) (routed .free).claimNow = true ∧ (routed .free).activeBank.isSome = true
    ∧ claimWins (mgrA, 0) (some (0x12341, 1)) = false ∧ (routed .free).route.active < 2
    ∧ guardNew (routed .loading) (fromMgr 0x52) (.rtLoad 5 (.entries 0 [entA])) = true ∧ (routed .loading).loadingFrom mgrA 5 = true
    ∧ ((routed .loading).bank 1).ok base.coord = true ∧ (routed .ready).route.lastBegin = some 5
    ∧ ((routed .ready).bank (routed .ready).inactive).state = .ready
    ∧ (routed .ready).route.claim.any (fun c => c.1 = mgrA) = true
    ∧ (routed .ready).flipAnswer mgrA 1 5 = none := by decide +kernel

/-- R356: a worker that holds the manager's epoch copies its Active bank; RT_FLIP makes the Ready bank Active. -/
theorem test_worker_flips :
    (run (.rtFlip (fromMgr 0x55) 5 (trailerOf (.rtFlip 5))) (routed .ready)).route.active = 1
    ∧ ((run (.rtFlip (fromMgr 0x55) 5 (trailerOf (.rtFlip 5))) (routed .ready)).bank 0).state = .draining
    ∧ ((run (.rtBegin (fromMgr 0x50) 5 4 1 (trailerOf (.rtBegin 5 4 1))) (routed .free)).bank 1).entries = [(ownIndex, entA)] := by decide +kernel

theorem witness_RouteWorkerAndBanks_BanksFlipAndDrain :
    ((routed .ready).bank (routed .ready).route.active).state = .active
    ∧ ({ routed .draining with route.drainEnd := some 0, time.now := 64 } : State).passed 0 = true := by decide +kernel

theorem test_drain_ends :
    ((run .drainIntervalEnd { routed .draining with route.drainEnd := some 0, time.now := 64 }).bank 1).state = .free := by
  decide +kernel

theorem witness_RouteManagerAndTable :
    guardNew managing (fromMgr 0x51) (.rtBeginAck 5 4 false) = true ∧ managing.flipAnswer mgrA 1 5 = some flipA ∧ (1 : Nat) ≠ 0
    ∧ ({ flipA with workers := [{ node := 0, ready := true }] } : Flip).workers.all (·.ready) = true
    ∧ takesUpB { managing with route.flip := none } 0 MbxOp.routeFlip = true ∧ managing.last.role ≠ 0
    ∧ (routed .loading).route.flip = none ∧ (routed .loading).route.drainEnd = none := by decide +kernel

/-- R356: the last worker's RT_READY makes the manager flip. -/
theorem test_manager_flips :
    (run (.rtReady (fromMgr 0x54) 5 0 (trailerOf (.rtReady 5 0))) managing).route.active = 1 := by decide +kernel

theorem witness_RouteManagerAndTable_RouteTableCommands :
    takesUpB managing 0 MbxOp.routeWrite = true ∧ itemsInRange (.entries 0 [entA]) = true ∧ takesUpB base 1 MbxOp.routeWrite = true
    ∧ (1 : Fin 512) ≠ 0 ∧ takesUpB base 0 MbxOp.routeRead = true ∧ managing.flipRuns = true
    ∧ ({ routed .loading with route.lastBegin := none } : State).flipRuns = false ∧ ([entA] : List RouteEntry)[0]? = some entA := by decide +kernel

/-- R355: ROUTE_WRITE needs a role, and opens the inactive bank with the Active bank's contents. -/
theorem test_route_write :
    answered (run (.routeWrite 0 1 (.entries 3 [entA])) (routed .free)) 0 = some (1, Status.descMalformed)
    ∧ ((run (.routeWrite 0 1 (.entries 3 [entA])) { managing with route.flip := none, route.lastBegin := none, route.banks := #v[bankA .active 4, {}] }).bank
        1).entries = [(ownIndex, entA), (3, entA)] := by decide +kernel

/-! ## Collective Groups and services -/

/-- A group of two members with its end 8, Ready, and a COLL of kind ALL_REDUCE of 64 FP32 elements in place. -/
def paramsA : GroupParams :=
  { name := 7, count := 2, rank := 0, tableOffset := 0x10000, algorithms := 4, trafficClass := 0, chunkKiB := 8, depth := 1, flags := 0,
    flagBase := 0, flagCount := 0, watchdogMs := 100, crossFormat := 0, crossResidual := 0, addressSpace := 0 }
def groupA : Group :=
  { handle := 3, slice := 0, params := paramsA, members := [(0x12345, 0), (0x12346, 0)], state := .ready, registered := true, epoch := 1,
    slots := 1, conns := [(1, 8)] }
def collD : List Byte :=
  [0x80, 0x20] ++ List.replicate 14 0 ++ [3, 0, 4, 0, 0, 3, 0, 0] ++ leBytes 8 64 ++ leBytes 8 0x10000 ++ leBytes 8 0x10000
    ++ List.replicate 16 0
def grouped (g : Group) : State :=
  { withConn collD { cnA with peer := 0x12346, group := some 3, ordered := true } with work.groups := [g] }

theorem test_coll_opcode : Op.coll = 0x20 := by decide

def collStarts (g : Group) : Option (Except Status Nat) :=
  match (grouped g).ready 8 0 Op.coll with
  | some (x, d) => some ((grouped g).collCheck x.slice x.as g (collOf 8 0 d.entry) (collFields d.entry g.n ((grouped g).quota 0).lace))
  | none => none

theorem witness_CollectivesStart :
    (match collStarts groupA with | some (.ok a) => a | _ => 99) = 3
    ∧ (grouped groupA).findGroup (Desc.collGroup collD) = some groupA
    ∧ (match collStarts { groupA with params := { paramsA with algorithms := 8 } } with | some (.error c) => c | _ => 0) = Status.descMalformed
    ∧ (grouped groupA).lowrankHolds 3 = false ∧ groupA.slice = 0 := by decide +kernel

/-- R223: the operation takes sequence 1, and the group is Active. -/
theorem test_coll_begins :
    ((run (.coll 8 0) (grouped groupA)).findGroup 3).map (fun g => (g.state, g.nextSeq, g.op.map (·.seq))) = some (.active, 2, some 1) := by
  decide +kernel

def groupMsg (sub : Nat) : Arrival := endMsgA sub
def groupEndState : State :=
  { endState { cnA with group := some 3 } with work.groups := [{ groupA with members := [(0x12345, 0), (0x12345, 0)] }] }

theorem witness_GroupMessages :
    ({ cnA with group := some 3 } : Conn).home = 0 ∧ (reachesEnd groupEndState .ctrl (groupMsg 0x30)).isSome = true ∧ groupEndState.seenCtrl 0x12345 1 = none
    ∧ ((groupEndState.repliedEnd { cnA with group := some 3 } (groupMsg 0x30) (.ctrlAck 1 false)).findGroup 3).isSome = true
    ∧ groupA.rankOf 8 1 = some 1 := by decide +kernel

theorem test_hs_up_is_kept :
    ((run (.hsUp (groupMsg 0x30) 1 77 false 0) groupEndState).findGroup 3).map (·.hsUps) = some [(1, 1, 77, false, 0)] := by decide +kernel

theorem witness_GroupMessages_WatchdogWritesCollStall :
    ({ grouped { groupA with state := .forming } with time.now := 64 } : State).findGroup 3 = some { groupA with state := .forming }
    ∧ ({ base with time.now := 64 } : State).passed groupA.watchdogAt = true := by decide +kernel

def jobA : CollJob := { unit := 0, rows := [(0, leBytes 4 0x40000000)], legs := [] }
def opA : CollOp :=
  { q := 8, count := 0, seq := 1, kind := CK.allReduce, alg := 3, dt := 0, red := 0, flags := 0, elems := 1, send := 0x10000, recv := 0x10000,
    root := 0, aux := 0, lace := none, phase := .data, vals := [(0, leBytes 4 0x3F800000)] }
def reducing (j : CollJob) : State := grouped { groupA with state := .active, op := some { opA with jobs := [j] } }
def gmOp : CollOp :=
  { opA with kind := CK.gatherMultiply, dt := 1, elems := 4, record := some (List.replicate 32 0), bmat := some [], final := List.range 64,
             written := List.range 64 }

theorem witness_ArithmeticGranules :
    ((reducing jobA).jobOn 0).map (fun x => (x.2.2, stochastic x.2.1)) = some (jobA, false) ∧ (reducing jobA).computes 0 = true
    ∧ ([.product 3 5 15, .sum [3, 5] 8] : List ResidueCheck).all checkPasses = true ∧ ([.product 3 5 16] : List ResidueCheck).all checkPasses = false
    ∧ ((reducing { jobA with mism := some (2, 0) }).jobOn 0).map (fun x => x.2.2.mism) = some (some (2, 0))
    ∧ base.jobOn 0 = none ∧ base.computes 0 = true
    ∧ ({ base with power.sleep := Vector.replicate 8 .light } : State).computes 0 = false := by decide +kernel

/-- R266: 15 + 7 has the residue of 15, so the check misses it. -/
theorem test_residue_misses_sevens : checkPasses (.product 3 5 22) = true ∧ checkMisses (.product 3 5 22) = true
    ∧ checkPasses (.sum [3, 5] 15) = true ∧ checkMisses (.sum [3, 5] 15) = true := by decide

/-- A block of a GATHER_MULTIPLY of a 4 × 4 product that is at hand. -/
def gmState (o : CollOp) : State := grouped { groupA with state := .active, op := some o }
def gmRecord : List Byte := List.replicate 16 0 ++ leBytes 4 4 ++ leBytes 4 4 ++ leBytes 4 4 ++ List.replicate 4 0
def gmA : CollOp := { gmOp with record := some gmRecord }
def gmSeen : CollOp := { gmA with tiles := [{ block := 0, cluster := 0, mism := [(0, 5)] }] }

theorem witness_ArithmeticGranules_Blocks :
    (gmState gmA).multiplies 3 0 0 { groupA with state := .active, op := some gmA } gmA gmRecord [] = true ∧ tileGranules gmRecord = 1
    ∧ (([(0, .product 3 5 16)] : List (Nat × ResidueCheck)).find? fun x => !checkPasses x.2).map (·.1) = some 0
    ∧ (gmState gmSeen).multiplies 3 0 0 { groupA with state := .active, op := some gmSeen } gmSeen gmRecord [] = true
    ∧ gmSeen.tiles.find? (fun t => t.block = 0) = some { block := 0, cluster := 0, mism := [(0, 5)] } := by decide +kernel

/-- R267: 65 × 64 outputs over 2,049 of K are two tiles in two segments. -/
theorem test_tile_granules :
    tileGranules (List.replicate 16 0 ++ leBytes 4 65 ++ leBytes 4 2049 ++ leBytes 4 64 ++ List.replicate 4 0) = 4 := by decide +kernel

/-- R260: 1 + 2 = 3 in FP32. -/
theorem test_granule_adds :
    ((run (.reductionGranule 0 0 [.sum [1, 2] 3]) (reducing jobA)).findGroup 3).bind (fun g => g.op.map fun o => assoc o.vals 0) =
      some (some (leBytes 4 0x40400000)) := by decide +kernel

/-- R269: a second mismatch takes the cluster's arithmetic out of service. -/
theorem test_second_mismatch :
    (run (.reductionGranule 0 2 [.sum [1, 2] 4]) (reducing { jobA with mism := some (2, 0) })).work.arithOut = 1
    ∧ (run (.reductionGranule 0 1 [.sum [1, 2] 4]) (reducing { jobA with mism := some (2, 0) })).work.arithOut = 0 := by decide +kernel

theorem witness_FormatsRoundTrip :
    (fp8e4m3.decode 0x7E).isFin = true ∧ (bf16.decode 0x7F7F).isFin = true ∧ (fp32.decode 1).isFin = true ∧ 15 * 2 ^ 12 < 61441 := by
  decide +kernel

/-- R253: 0x7E is 448 = 14 × 2^5. R257: 449 rounds back to it, and 480 overflows. -/
theorem test_e4m3_top :
    fp8e4m3.decode 0x7E = .fin false 14 5 ∧ fp8e4m3.encode false none (.fin false 449 0) = 0x7E
    ∧ fp8e4m3.encode false none (.fin false 480 0) = 0x7F ∧ fp8e4m3.encode true none (.fin false 480 0) = 0x7E := by decide +kernel

def regOut : CtrlOut := { seq := 1, dst := mgrA, msg := .groupReg 7 2 0 false 0, nextAt := 0 }
def regWaits : State :=
  { routed .free with
    trans.ctrlOut := [regOut], last := { booting := false, inForce := some lastA, role := 1, roleEpoch := 1 },
    work.groups := [{ groupA with state := .forming, registered := false, creator := some (0, 1) }] }
def regA_ : RegEntry := { name := 7, epoch := 4, count := 2, digest := 5, ranks := [(0, mgrA)] }

/-- A registrar whose own Manager Tree group of that name has taken every slot that no SLICE record grants. -/
def slotsGone : State := { regWaits with work.groups := [{ groupA with mgrSlots := 100000 }] }

theorem witness_GroupRegistrationAndCommands :
    guardNew regWaits (fromMgr 0x30) (.groupReg 7 2 0 false 5) = true
    ∧ regWaits.mgrSlotsUsed + regWaits.registrySlots 7 ≤ regWaits.spareSlots
    ∧ (slotsGone.findReg 7 = none ∧ slotsGone.spareSlots < slotsGone.mgrSlotsUsed + slotsGone.registrySlots 7) ∧ regWaits.last.role ≠ 0 ∧ regWaits.findReg 7 = none
    ∧ ({ regWaits with work.registry := [regA_] } : State).findReg 7 = some regA_ ∧ (assoc regA_.ranks 0).isSome = true
    ∧ regWaits.regAnswered mgrA 1 7 = some (0, false)
    ∧ (regWaits.work.groups.find? fun g => g.params.name = 7 && g.me = 0 && !g.registered).isSome = true
    ∧ groupA.params.name = 7 ∧ groupA.registered = true ∧ groupA.epoch ≠ 2
    ∧ ({ routed .free with last := { booting := false, inForce := some lastA } } : State).managerFor mgrA = mgrA := by decide +kernel

/-- R221: a second registration of a rank raises the epoch. -/
theorem test_reregistration_raises_epoch :
    (({ base with work.registry := [regA_] } : State).register mgrA 7 2 0 5).2 = (0, 5) := by decide +kernel

def groupNear : State :=
  { base with mem.cells := [], xlate.ranges := [regA] }

theorem witness_GroupRegistrationAndCommands_GroupCommands :
    takesUpB base 0 MbxOp.grpQuotaSet = true ∧ base.groupQuota 0 = 8 ∧ base.groupsOf 0 = 0
    ∧ takesUpB groupNear 0 MbxOp.groupCreate = true ∧ groupParamsOk paramsA = true
    ∧ groupNear.groupTablesOk 0 paramsA = true ∧ groupNear.bestCluster = some 0
    ∧ (∃ h, (groupNear.taken 0 1 MbxOp.groupCreate).freeChoice 4096
        (fun h => ((groupNear.taken 0 1 MbxOp.groupCreate).findGroup h).isNone) = some h)
    ∧ takesUpB (grouped groupA) 0 MbxOp.groupDestroy = true ∧ takesUpB (grouped groupA) 0 MbxOp.collAbort = true
    ∧ (grouped groupA).findGroup 3 = some groupA := by
  refine ⟨by decide +kernel, by decide +kernel, by decide +kernel, by decide +kernel, by decide +kernel, by decide +kernel,
    by decide +kernel, freeChoice_isSome 0 (by decide) (by decide +kernel), by decide +kernel, by decide +kernel,
    by decide +kernel⟩

/-- R218: slice 0 moves 3 groups of quota to slice 1. -/
theorem test_quota_moves :
    let t := run (.grpQuotaSet 0 1 0 1 3) base
    (t.groupQuota 0, t.groupQuota 1) = (5, 11) := by decide +kernel

/-- A QUANT descriptor whose record is at 0x10000, and the service with its first piece. -/
def svcD (op : Nat) : List Byte :=
  [0x80, BitVec.ofNat 8 op] ++ List.replicate 22 0 ++ leBytes 8 0x10000 ++ List.replicate 32 0
def quantRec : List Byte :=
  leBytes 8 0x11000 ++ leBytes 8 0x12000 ++ leBytes 8 0 ++ leBytes 4 64 ++ leBytes 4 0 ++ [0, 5, 0] ++ List.replicate 29 0
def pieceA : Piece := { index := 0, cluster := 0 }
def quantV : Service :=
  { q := 8, count := 0, slice := 0, as := 0, opcode := Op.quant, stage := 3, rec_ := quantRec, units := [0], pieces := [pieceA] }
def serving (v : Service) : State := { withConn (svcD v.opcode) cnA with work.services := [v] }
def gatedV : Service :=
  { quantV with
    opcode := Op.optstep, rec_ := List.replicate 47 0 ++ [8] ++ List.replicate 52 0 ++ leBytes 8 1 ++ List.replicate 20 0,
    pieces := [{ pieceA with gate := true }] }

theorem witness_ServicesStartAndRun :
    ([(Op.quant, svcD Op.quant), (Op.lowrank, svcD Op.lowrank), (Op.optstep, svcD Op.optstep), (Op.ckpt, svcD Op.ckpt),
        (Op.restore, svcD Op.restore)].all fun x =>
      ((started x.2).ready 8 0 x.1).isSome && svcOperandsOk x.2 ((started x.2).quota 0).lace) = true
    ∧ svcOperandsOk ((svcD Op.quant).set 20 2) 16 = false := by decide +kernel

theorem witness_ServicesStartAndRun_ServicesRun :
    ({ serving { quantV with stage := 2, deferred := true, units := [], pieces := [] } with
       last.inForce := some { lastA with pools := List.replicate 8 4 } } : State).nextService.isSome = true
    ∧ (serving quantV).findSvc 8 0 = some quantV ∧ quantV.pieces.find? (fun p => p.index = 0) = some pieceA
    ∧ quantV.turn pieceA = true ∧ quantV.owed = [] ∧ (serving quantV).recomputes quantV (some 0) = false ∧ (serving quantV).arithRuns = true ∧ (serving quantV).arithOutOf 0 = false
    ∧ (serving { quantV with opcode := Op.optstep }).findSvc 8 0 = some { quantV with opcode := Op.optstep }
    ∧ ({ quantV with opcode := Op.optstep } : Service).turn pieceA = true
    ∧ (serving { quantV with opcode := Op.ckpt }).findSvc 8 0 = some { quantV with opcode := Op.ckpt }
    ∧ (serving { quantV with opcode := Op.lowrank }).findSvc 8 0 = some { quantV with opcode := Op.lowrank }
    ∧ gatedV.pieces.filter (fun p => p.gate && p.cluster = (0 : Fin 8).val) = [{ pieceA with gate := true }]
    ∧ gatedV.gated = true ∧ gatedV.deadline = 1 ∧ ({ base with time.now := 128 } : State).passed 1 = true := by decide +kernel

/-- R284: a passed Deadline ends the service with WAIT_TIMEOUT. -/
theorem test_gate_deadline :
    ((run (.gateDeadline 8 0) { serving gatedV with time.now := 128 }).findStarted 8 0).map (fun x => x.2.ended.map (·.status)) =
      some (some Status.waitTimeout) := by decide +kernel

/-! ## The host's answers, regions, queues and the Eyelet -/

def atsA : AtsReq := { id := 4, cluster := 0, func := pfA, pasid := none, page := 0x4000, pages := 1, sentAt := 0 }
def pftA : PftEntry := { id := 5, slice := 0, pasid := none, page := 0x4000, func := pfA, prg := 9 }
def stalledA : Waiting :=
  { id := 6, access := { slice := 0, offset := 0x10000, length := 8, use := .eyelet 1 }, on := .stalled, firstFault := some 0 }
def lineA : CacheLine := .page pfA none 0x4000 4096 0x9000 true true
def xlating : State :=
  { base with
    time.now := 300000000, xlate.ats := [atsA], xlate.pft := [pftA], xlate.waiting := [stalledA],
    xlate.caches := (Vector.replicate 8 []).set 0 [lineA] }

theorem witness_TranslationAndHostReads :
    xlating.xlate.ats.find? (fun r => r.id = 4) = some atsA ∧ base.xlate.invalidating = [] ∧ base.readsUsing pfA none 0 4096 = []
    ∧ base.xlate.ats = [] ∧ base.xlate.waiting = [] ∧ base.trans.heldArrivals = [] ∧ base.trans.ended = [] ∧ base.work.services = []
    ∧ base.xlate.pft.find? (fun e => e.func = pfA && e.prg = 9) = none
    ∧ xlating.xlate.pft.find? (fun e => e.func = pfA && e.prg = 9) = some pftA
    ∧ (base.funcState pfA).pri = true ∧ (({ base with host := Vector.replicate 2 { pfState := { pri := false } } } : State).funcState pfA).pri = false
    ∧ ([] : List Waiting).all (fun w => w.on ≠ .page 5 || !base.waitPassed w) = true ∧ stalledA.firstFault = some 0 ∧ xlating.passed (0 + xlating.waitLimit 0) = true ∧ xlating.trans.conns = [] := by decide +kernel

/-- R83: the line of the page goes, and the completion is sent. -/
theorem test_invalidate :
    (run (.atsInvalidate pfA none 0x4000 4096) xlating).xlate.caches.toList.flatten = []
    ∧ (run (.atsInvalidate pfA none 0x4000 4096) xlating).out = [.invalidateDone pfA]
    ∧ (run (.atsInvalidate pfA (some 1) 0x4000 4096) xlating).xlate.caches.toList.flatten = [lineA] := by decide +kernel

/-- R87: a page response that matches no entry is counted. -/
theorem test_stray_page_response : (run (.pageResponse pfA 9 0) base).fld .xltFaultStatStray 0 = 1 := by decide +kernel

def flushRead : HostRead := { id := 7, port := 0, fn := 0, slice := 0, sentAt := 0, use := .flush 3 }
def accessRead : HostRead := { id := 2, port := 0, fn := 0, slice := 0, sentAt := 0, use := .access 1 }

/-- A message whose last TLP on host A's port is not acknowledged. -/
def msgWaits : RxMsg := { msn := 1, total := 4, acksDue := true, tlps := [(0, 1)] }
def ackWaits : State := { base with trans.conns := [{ cnA with msgs := [msgWaits] }] }

theorem witness_TranslationAndHostReads_HostReadsEnd :
    ({ base with hostReads := [accessRead] } : State).hostReads.find? (fun h => h.id = 2) = some accessRead
    ∧ ({ base with hostReads := [flushRead] } : State).hostReads.find? (fun h => h.use = .flush 3) = some flushRead
    ∧ ({ base with time.now := 50000000 + 64 } : State).passed (0 + 50000000) = true
    ∧ xlating.hostReads.find? (fun h => h.id = 4) = none ∧ xlating.passed (atsA.sentAt + 50000000) = true
    ∧ ({ base with xlate.waiting := [fetchWait] } : State).xlate.waiting.find? (fun w => w.id = 1) = some fetchWait
    ∧ base.xlate.eyeletBusy = [] ∧ base.mem.infWaits = []
    ∧ (ackWaits.tlpsAcked 0 1).trans.conns = [{ cnA with msgs := [{ msgWaits with tlps := [] }] }] := by decide +kernel

/-- R392: with no value programmed, the completion timeout is 50 ms. -/
theorem witness_TranslationAndHostReads_timeout : xlating.passed (0 + xlating.cplTimeout 0) = true := by
  have h : (xlating.hostPort 0).cplValue = 0 := by decide +kernel
  have e : xlating.cplTimeout 0 = 50000000 := by simp [State.cplTimeout, h, cplRange, Nat.mod_one]
  rw [e]; decide +kernel

def revoking : RangeEntry := { regA with state := .revoking, revoker := some (0, 1) }

theorem witness_RevocationsComplete :
    ({ base with xlate.ranges := [revoking] } : State).xlate.ranges.find? (fun e => e.slot = 0 && e.state = .revoking) = some revoking
    ∧ revoking.inFlight = 0 ∧ base.xlate.revokeRecords.length < 4096
    ∧ 4095 ≤ (List.replicate 4095 ({ slice := 0, start := 0, length := 64, key := 1, expiry := 0 } : RevokeRecord)).length
    ∧ ({ base with xlate.ranges := [revoking] } : State).range 0 0 = some revoking := by decide +kernel

/-- R147: the record stands for 4 ms. -/
theorem test_revoke_drain :
    (run (.revokeDrainDone 0) { base with xlate.ranges := [revoking] }).xlate.revokeRecords.map (fun r => (r.key, r.expiry)) =
      [(7, 4000000)] := by decide +kernel

theorem witness_RegionKeysAndCommands : base.goodKey 0 1 = true := by decide +kernel

def regionA : RegionParams :=
  { tier := 0, start := 0x40000, length := 0x1000, target := 0, perm := 0x1F, anyAs := false, pinned := false, addressSpace := 0, pathTag := 0 }

theorem registers_of_slot {s : State} {slice : Nat} {p : RegionParams} {k : Nat} (hb : s.regionBad p = false)
    (hc : s.crossPort slice ((tierOf p.tier).getD .near) = false) (hh : ((tierOf p.tier).getD .near).isHost = false)
    (ho : (s.xlate.ranges.any fun e => e.overlaps p.start p.length) = false)
    (hq : (s.liveRanges slice).length < (s.quota slice).ranges)
    (hk : s.freeChoice (s.quota slice).ranges (fun k => !((s.liveRanges slice).any fun e => e.slot = s.segBase slice + k)) = some k) :
    ∃ u info, s.registerRegion slice p = (u, Status.success, info) := by
  have hn (f : RangeEntry → Bool) : (s.xlate.ranges.any fun e => f e && e.overlaps p.start p.length) = false := by
    simp only [List.any_eq_false] at ho ⊢
    intro e he; simp [ho e he]
  unfold State.registerRegion
  dsimp only
  rw [if_neg (by simp [hb]), if_neg (by simp [hc]), if_neg (by simp [hn]), if_neg (by simp [hn]), if_neg (by simp [hn]),
    if_neg (by omega), if_neg (by simp [hh]), hk]
  exact ⟨_, _, rfl⟩

theorem witness_RegionKeysAndCommands_RegionCommands :
    takesUpB base 0 MbxOp.regionRegister = true ∧ base.keys.drbgHalted = false
    ∧ (∃ u info, (base.taken 0 1 MbxOp.regionRegister).registerRegion 0 regionA = (u, Status.success, info))
    ∧ (base.registerRegion 0 { regionA with start := 1 }).2.1 = Status.descMalformed
    ∧ takesUpB groupNear 0 MbxOp.regionRevoke = true ∧ groupNear.range 0 0 = some regA ∧ regA.state = .active
    ∧ regA.incarnation.toNat ≠ 0 ∧ takesUpB groupNear 0 MbxOp.rangeRead = true ∧ groupNear.segBase 0 ≤ 0
    ∧ 0 < groupNear.segBase 0 + (groupNear.quota 0).ranges ∧ takesUpB base 0 MbxOp.tenantSet = true := by
  refine ⟨by decide +kernel, by decide +kernel, ?_, by decide +kernel, by decide +kernel, by decide +kernel, by decide +kernel,
    by decide +kernel, by decide +kernel, by decide +kernel, by decide +kernel, by decide +kernel⟩
  obtain ⟨k, hk⟩ := freeChoice_isSome (s := base.taken 0 1 MbxOp.regionRegister) (n := ((base.taken 0 1 MbxOp.regionRegister).quota 0).ranges)
    (good := fun k => !(((base.taken 0 1 MbxOp.regionRegister).liveRanges 0).any fun e =>
      e.slot = (base.taken 0 1 MbxOp.regionRegister).segBase 0 + k)) 0 (by decide +kernel) (by decide +kernel)
  exact registers_of_slot (by decide +kernel) (by decide +kernel) (by decide +kernel) (by decide +kernel) (by decide +kernel) hk

/-- R123: an overlap with another slice's Active region is LOCAL_ACCESS, with an own one DESC_MALFORMED. -/
theorem test_region_overlap :
    answered (run (.regionRegister 1 1 { regionA with start := 0x10000 }) groupNear) 1 = some (1, Status.localAccess)
    ∧ answered (run (.regionRegister 0 1 { regionA with start := 0x10000 }) groupNear) 0 = some (1, Status.descMalformed) := by
  decide +kernel

theorem test_tenant_set : ((run (.tenantSet 0 1 1 77) base).slice 1).tenant = 77 := by decide +kernel

def cqParams : QueueParams := { kind := 1, logEntries := 6, ringOffset := 0x10000, addressSpace := 0, cluster := 3 }

theorem creates_of_group {s : State} {slice g k : Nat} (p : QueueParams) (hk : kindOf p.kind = some .completion)
    (hb : s.queueBad slice .completion p = false) (hr : s.ringOk slice p.ringOffset (2 ^ p.logEntries * entryBytes .completion p) = true)
    (hq : (s.queue.queues.filter fun q => q.slice = slice).length < (s.quota slice).queues) (hc : p.cluster ≠ 0xFF)
    (hm : s.queueGroups slice = []) (hg : s.freeChoice 32768 (fun g => !(s.queue.groups.any fun h => h.1 = g)) = some g)
    (hn : s.newSlot slice g = some k) : ∃ u info, s.createQueue slice p = (u, Status.success, info) := by
  unfold State.createQueue
  simp only [hk, hb, hr]
  rw [if_neg (by simp), if_neg (by simp), if_neg (by omega), if_neg (by simp), if_neg (by simp), if_neg hc]
  simp only [State.queueNumber, hm, List.filter_nil, List.getElem?_nil, hg, hn]
  exact ⟨_, _, rfl⟩

theorem witness_QueueCommands :
    takesUpB groupNear 0 MbxOp.queueCreate = true
    ∧ (∃ u info, (groupNear.taken 0 1 MbxOp.queueCreate).createQueue 0 cqParams = (u, Status.success, info))
    ∧ cqParams.kind ≠ 0 ∧ cqParams.cluster < 8 ∧ 3 < (4 : Nat)
    ∧ takesUpB (withQueues [{ qWork with state := .disabled }]) 0 MbxOp.queueDestroy = true
    ∧ (withQueues [{ qWork with state := .disabled }]).findQueue 8 = some { qWork with state := .disabled }
    ∧ ({ qWork with state := .disabled } : Queue).idle = true ∧ qWork.kind ≠ .completion ∧ qWork.state ≠ .disabled := by
  refine ⟨by decide +kernel, ?_, by decide +kernel, by decide +kernel, by decide, by decide +kernel, by decide +kernel,
    by decide +kernel, by decide +kernel, by decide +kernel⟩
  obtain ⟨g, hg⟩ := freeChoice_isSome (s := groupNear.taken 0 1 MbxOp.queueCreate) (n := 32768)
    (good := fun g => !((groupNear.taken 0 1 MbxOp.queueCreate).queue.groups.any fun h => h.1 = g)) 0 (by decide) (by decide +kernel)
  have hf : ((groupNear.taken 0 1 MbxOp.queueCreate).slice 0).fn = 0 := by decide +kernel
  exact creates_of_group cqParams (by decide) (by decide +kernel) (by decide +kernel) (by decide +kernel) (by decide) (by decide +kernel) hg
    (k := g) (by unfold State.newSlot; dsimp only; rw [if_pos hf])

theorem test_queue_destroyed :
    (run (.queueDestroy 0 1 8) (withQueues [{ qWork with state := .disabled }])).queue.queues = []
    ∧ answered (run (.queueDestroy 0 1 8) (withQueues [qWork])) 0 = some (1, Status.busy) := by decide +kernel

def eyeletA : EyeletEntry :=
  { port := 0, fn := 0, granule := 2, slice := 0, as := 0, target := mkFpa 0x12345 0, requesterId := 5, requesterMask := 0xFFFF, read := true,
    write := false, conn := 0, key := 0 }
def eyeletBusyA : EyeletAccess := { id := 3, slice := 0, func := pfA, granule := 2, fpa := 0, load := true, deadline := 0 }
def withEyelet : State := { groupNear with xlate.eyelet := [eyeletA] }
def mapA : EyeletParams :=
  { func := pfA, granule := 3, target := BitVec.ofNat 64 (mkFpa 0x12345 0), addressSpace := 0, requesterId := 0, requesterMask := 0, read := true,
    write := true, conn := 0, key := 0 }

theorem witness_EyeletWindow :
    withEyelet.eyeletEntry pfA (granuleOf pfA (2 * 2 ^ 26 + 64)) = some eyeletA ∧ eyeletA.admits 5 = true ∧ eyeletA.admits 6 = false
    ∧ eyeletA.read = true ∧ ({ eyeletA with write := true } : EyeletEntry).write = true
    ∧ ({ base with xlate.eyeletBusy := [eyeletBusyA], time.now := 64 } : State).xlate.eyeletBusy.find? (fun x => x.id = 3 && x.load) = some eyeletBusyA
    ∧ ({ base with time.now := 64 } : State).passed eyeletBusyA.deadline = true ∧ base.xlate.unmapping = []
    ∧ takesUpB withEyelet 0 MbxOp.eyeletMap = true ∧ withEyelet.mapRefused 0 mapA = none
    ∧ withEyelet.mapRefused 0 { mapA with granule := 2 } = some Status.descMalformed
    ∧ takesUpB withEyelet 0 MbxOp.eyeletUnmap = true ∧ withEyelet.eyeletEntry pfA 2 = some eyeletA
    ∧ withEyelet.granuleBusy pfA 2 = false ∧ ({ withEyelet with xlate.eyeletBusy := [eyeletBusyA] } : State).granuleBusy pfA 2 = true
    ∧ takesUpB withEyelet 0 MbxOp.eyeletRead = true ∧ 2 < aperture pfA := by decide +kernel

/-- R67: a requester whose masked ID differs gets Unsupported Request, and UrCount goes up. -/
theorem test_eyelet_turns_away :
    (run (.eyeletLoad pfA 6 (2 * 2 ^ 26) 4) withEyelet).out = [.cplUnsupported pfA]
    ∧ (run (.eyeletLoad pfA 6 (2 * 2 ^ 26) 4) withEyelet).fld .slcEyeletErrUrCount 0 = 1 := by decide +kernel

/-! ## COPY, SCAN, raw frames and memory -/

/-- A COPY of 0x1800 bytes from 0x10000 to 0x18800, in two units. -/
def copyD (src dst n : Nat) : List Byte :=
  [0x80, BitVec.ofNat 8 Op.copy] ++ List.replicate 14 0 ++ leBytes 8 src ++ leBytes 8 dst ++ leBytes 8 n ++ List.replicate 24 0
def copying : State :=
  { withConn (copyD 0x10000 0x18800 0x1800) cnA with
    queue.queues := [{ qWork with head := 1, started := [{ count := 0, entry := copyD 0x10000 0x18800 0x1800, run := true, issued := 2 }] }] }

theorem witness_CopiesAndScans :
    ((started (copyD 0x10000 0x10800 0x1800)).ready 8 0 Op.copy).isSome = true
    ∧ Desc.copyLength (copyD 0x10000 0x10800 0x1800) = 0x1800 ∧ Desc.srcOffset (copyD 0x10000 0x10800 0x1800) = 0x10000
    ∧ Desc.dstOffset (copyD 0x10000 0x10800 0x1800) = 0x10800
    ∧ ((withConn (copyD 0x10000 0x18800 0x1800) cnA).ready 8 0 Op.copy).isSome = true
    ∧ (withConn nopD cnA).localRange 0 0 0x10000 0x1800 false = none ∧ (withConn nopD cnA).localRange 0 0 0x18800 0x1800 true = none
    ∧ (copying.findStarted 8 0).isSome = true ∧ copying.xlate.waiting = [] := by decide +kernel

/-- R312: an overlap is malformed. -/
theorem test_copy_overlap :
    ((run (.copy 8 0) (started (copyD 0x10000 0x10800 0x1800))).findStarted 8 0).map (fun x => x.2.ended.map (·.status)) =
      some (some Status.descMalformed) := by decide +kernel

/-- R313: the units of a copy end at the destination's 4 KiB blocks. -/
theorem test_copy_units :
    copyUnits (copyD 0x10000 0x18800 0x1800) = 2 ∧ copyUnit (copyD 0x10000 0x18800 0x1800) 0 = (0, 0x800)
    ∧ copyUnit (copyD 0x10000 0x18800 0x1800) 1 = (0x800, 0x1000) := by decide +kernel

/-- A SCAN of 9 bytes at 0x10000 with CRC-32C: Init and Final. -/
def scanD (alg fl : Nat) : List Byte :=
  [0x80, BitVec.ofNat 8 Op.scan] ++ List.replicate 14 0 ++ leBytes 8 0x10000 ++ leBytes 8 9 ++ [BitVec.ofNat 8 alg, BitVec.ofNat 8 fl]
    ++ List.replicate 30 0
def ctxOther : CheckCtx := { cluster := 0, channel := 0, valid := true, owner := some (1, 0) }

def ctxBusy : CheckCtx := { cluster := 0, channel := 0, valid := true, scanning := true, owner := some (0, 0) }

theorem witness_CopiesAndScans_ScansRun :
    ((withConn (scanD 0 3) cnA).ready 8 0 Op.scan).isSome = true ∧ (withConn (scanD 0 3) cnA).scanMalformed (scanD 0 3) = false
    ∧ scanInit (scanD 0 3) = true ∧ scanWrite (scanD 0 3) = false ∧ scanInit (scanD 0 2) = false
    ∧ (withConn nopD cnA).localRange 0 0 0x10000 9 false = none ∧ (base.checkCtx 0 0).scanning = false
    ∧ (base.checkCtx 0 0).valid = false ∧ base.scanMalformed (scanD 0 2) = false
    ∧ ({ base with checks := [ctxOther] } : State).checkCtx 0 0 = ctxOther ∧ ctxOther.owner ≠ some (0, 0)
    ∧ ctxOther.scanning = false ∧ ({ base with checks := [ctxBusy] } : State).checkCtx 0 0 = ctxBusy ∧ ctxBusy.scanning = true
    ∧ base.bound 0 pfA = true ∧ base.multiMode = false ∧ (base.checkCtx (base.fld .slcCheckSelCluster 0) 0).owner = none
    ∧ ctxBusy.owner = some (0, base.gen 0) ∧ ({ base with checks := [ctxBusy] } : State).bound 0 pfA = true := by
  decide +kernel

/-- R437: a write of SLC_CHECK_VAL waits for the end of the SCAN that is in the context. -/
theorem test_check_load_waits :
    let s := run (.slcCheckValWrite pfA 0 7) ({ base with checks := [ctxBusy] } : State)
    (s.checkCtx 0 0).value = 0 ∧ (s.checkCtx 0 0).load = some (0, 0, 7) := by decide +kernel

/-- R432's check value of CRC-32C: "123456789" gives 0xE3069283. -/
theorem test_crc32c : algResult 0 (algFeed 0 (algInit 0) [0x31, 0x32, 0x33, 0x34, 0x35, 0x36, 0x37, 0x38, 0x39]) = 0xE3069283 := by
  decide +kernel

theorem test_scan_completes :
    ((run (.scan 8 0) (withConn (scanD 0 3) cnA)).findStarted 8 0).map (fun x => x.2.ended.map (fun e => (e.status, e.bytes))) =
      some (some (Status.success, 9)) := by decide +kernel

/-- A RAW_SEND of 60 inline or memory bytes at port 0. -/
def rawD (flags : Nat) (off : Nat) : List Byte :=
  [0x80, BitVec.ofNat 8 Op.rawSend] ++ List.replicate 14 0 ++ leBytes 4 0 ++ leBytes 4 60 ++ leBytes 8 off ++ [BitVec.ofNat 8 flags]
    ++ List.replicate 31 0
def recvD : List Byte :=
  [0x80, BitVec.ofNat 8 Op.rawRecv] ++ List.replicate 22 0 ++ leBytes 8 0x10000 ++ leBytes 4 2048 ++ List.replicate 28 0
def rawState (d : List Byte) : State := { withConn d cnA with ports := vset base.ports 0 portUp }
def rawInline : List Byte := (rawD 0 0).set 2 60 ++ List.replicate 192 0
def recvState : State :=
  { withConn recvD cnA with queue.queues := [{ qWork with kind := .rawRecv, head := 1, started := [{ count := 0, entry := recvD }] }] }

theorem witness_RawFrames :
    ((rawState (rawD 2 0x10000)).ready 8 0 Op.rawSend).isSome = true ∧ (rawState nopD).rawMalformed (rawD 2 0x10000) = true
    ∧ (rawState nopD).rawMalformed (rawD 0 0x10000) = false ∧ Desc.inlineLength (rawD 0 0x10000) = 0 ∧ rawStamp (rawD 0 0x10000) = false
    ∧ (rawState nopD).localRange 0 0 0x10000 60 false = none
    ∧ twoTags (List.replicate 60 0) = false ∧ (rawState nopD).rawForbidden (List.replicate 60 0) = false
    ∧ (rawState nopD).linkUp 0 = true ∧ base.linkUp 0 = false
    ∧ twoTags (List.replicate 12 0 ++ [0x81, 0, 0, 0, 0x81, 0]) = true
    ∧ (rawState nopD).rawForbidden (List.replicate 12 0 ++ [0x88, 0x08]) = true
    ∧ (recvState.ready 8 0 Op.rawRecv).isSome = true ∧ zeroBytes recvD 16 23 = true ∧ zeroBytes recvD 36 63 = true
    ∧ rawBuf recvD % 64 = 0 ∧ 80 ≤ rawBufLen recvD ∧ recvState.localRange 0 0 (rawBuf recvD) (rawBufLen recvD) true = none := by
  decide +kernel

/-- The inline form of `witness_RawFrames`. -/
theorem witness_RawFrames_inline :
    (Desc.inlineLength rawInline, (rawState nopD).rawMalformed rawInline, rawStamp rawInline) = (60, false, false) := by decide +kernel

theorem test_raw_send_needs_link :
    ((run (.rawSend 8 0) { rawState (rawD 0 0x10000) with ports := base.ports }).findStarted 8 0).map (fun x => x.2.ended.map (·.status)) =
      some (some Status.peerUnreachable) := by decide +kernel

theorem witness_MemoryReadsWhatWasWritten : Memory.wf [(1, 5), (9, 7)] = true ∧ base.memOk = true ∧ base.mem.bad = [] := by decide +kernel

theorem test_zero_is_unlisted : Memory.write [(1, 5), (9, 7)] 0 [3, 0, 4] = [(0, 3), (2, 4), (9, 7)] := by decide

theorem witness_MemoryCodeAndErrorLog : (67 : Nat) < 68 ∧ (1 : Byte) ≠ 0 := by decide

def errA : ErrEntry := { stamp := 0, stack := 0, channel := 0, kind := 2, source := 1, offset := 64, sym0 := 255, sym1 := 255 }

/-- The stacks are in self-refresh, and scrub has woken them at 0. -/
def resting : State := { base with power.selfRefresh := true, mem.scrubWake := some 0 }

theorem witness_MemoryCodeAndErrorLog_ScrubAndErrorLog :
    base.fld .memScrubCtrlEnable 0 ≠ 0 ∧ base.mem.bad = [] ∧ base.mem.scrubPos + base.scrubBytes 1 < nearBytes ∧ base.mem.passAt ≤ base.time.now ∧ base.power.selfRefresh = false
    ∧ base.time.now < ({ base with mem.passAt := base.time.now + 1 } : State).mem.passAt
    ∧ ({ base with time.now := base.scrubPeriod } : State).mem.passAt + base.scrubPeriod ≤ ({ base with time.now := base.scrubPeriod } : State).time.now
    ∧ resting.power.selfRefresh = true ∧ resting.mem.passAt ≤ resting.time.now ∧ resting.mem.scrubWake = some 0 ∧ resting.time.now < 0 + 16000000000
    ∧ resting.fld .memScrubCtrlEnable 0 ≠ 0 ∧ base.mem.scrubWake = none
    ∧ ({ base with mem.scrubPos := nearBytes - 64 } : State).mem.scrubPos ≤ nearBytes ∧ nearBytes ≤ nearBytes - 64 + 1 * 64
    ∧ base.isManager pfA = true ∧ takesUpB base 0 MbxOp.memHistoryRead = true
    ∧ ({ base with mem.log := [errA] } : State).logEntry = some errA := by decide +kernel

/-- R303: a scrub pass corrects and rewrites a codeword with one bad symbol. -/
theorem test_scrub_corrects :
    let s : State := { base with mem.bad := [{ offset := 64, errs := [(5, 1)] }] }
    (run (.scrubBurst 4) s).mem.bad = [] := by decide +kernel

def devA : CxlDevice := { serial := 1, gib := 5, downstream := 0 }

def farSeen : State := { base with mem.far := Vector.replicate 2 { enumerated := true, devices := [devA] } }

theorem witness_FarTier :
    (vget ({ base with mem.far := Vector.replicate 2 { linkUp := true } } : State).mem.far 0 {}).linkUp = true
    ∧ (vget base.mem.far 0 {}).linkUp = false ∧ base.cxlReleased = true ∧ (vget base.mem.far 0 {}).enumerated = false
    ∧ base.farInUse = false ∧ (vget farSeen.mem.far 0 {}).enumerated = true ∧ (vget farSeen.mem.far 0 {}).linkUp = false
    ∧ ({ base with mem.farBusy := [{ id := 1, deadline := 0, q := 8, count := 0, unit := 0 }] } : State).mem.farBusy.find? (fun x => x.id = 1)
        = some { id := 1, deadline := 0, q := 8, count := 0, unit := 0 } ∧ ({ base with time.now := 64 } : State).passed 0 = true := by
  decide +kernel

/-- R308: two equal devices interleave, three do not. -/
theorem test_far_layout :
    decodePort [devA, devA] 8192 = (2, 10) ∧ decodePort [devA, devA, devA] 8192 = (0, 15) ∧ decodePort [devA, devA] 9 = (2, 8) := by decide

/-- R310: other devices than before keep the port out of service. -/
theorem test_far_returns :
    (vget (run (.cxlLinkUp 0 16 [devA]) farSeen).mem.far 0 {}).inService = true
    ∧ (vget (run (.cxlLinkUp 0 16 [{ devA with serial := 2 }]) farSeen).mem.far 0 {}).inService = false := by decide +kernel

/-- R53: the borders of the local offset map. -/
theorem test_areas :
    base.area 0x6BFFFFFFFF = .near ∧ base.area 0x6C00000000 = .reserved ∧ base.area 0xFFFFFFFFFF = .reserved
    ∧ base.area 0xD0000000000 = .hostA ∧ base.area 0xE0000000000 = .hostB ∧ base.area 0xF0000000000 = .reserved
    ∧ nearBytes = 432 * 2 ^ 30 ∧ reserveBase = 424 * 2 ^ 30 := by decide

/-! ## Slices and host ports -/

/-- Slice 5 is in a state, with a generation. -/
def sliceIn (st : SliceState) (x : Slice := {}) : State := { base with slices := vset base.slices 5 { x with state := st } }
def qFive : Queue := { qWork with slice := 5 }
def regFive : RangeEntry := { regA with slice := 5, slot := base.segBase 5 }
def imageFive : SliceImage := (sliceIn .frozen).imageOf 5

theorem witness_SliceBinding_ResetsAndHeartbeats :
    takesUpB base 1 MbxOp.sliceReset = true ∧ ((sliceIn .resetting).slice 5).state = .resetting
    ∧ (sliceIn .resetting).resetDrained 5 = true ∧ base.bound 1 pfB = true ∧ base.inPause = false
    ∧ ((sliceIn .active { armed := true }).slice 5).armed = true
    ∧ ({ sliceIn .active { armed := true } with time.now := 1000 } : State).passed ((sliceIn .active { armed := true }).slice 5).hbDeadline = true := by
  decide +kernel

theorem witness_SliceBinding :
    takesUpB base 0 MbxOp.sliceBind = true ∧ base.funcEnabled pfB = true ∧ base.funcEnabled ⟨1, 9⟩ = false
    ∧ base.bindBreaks 5 ⟨0, 3⟩ none = false ∧ base.bindBreaks 5 pfB none = true ∧ base.funcEnabled ⟨0, 3⟩ = true
    ∧ (base.slice 5).state = .unbound ∧ takesUpB base 1 MbxOp.sliceBind = true ∧ takesUpB base 1 MbxOp.sliceUnbind = true
    ∧ takesUpB base 0 MbxOp.sliceUnbind = true ∧ (base.slice 1).state = .active ∧ takesUpB (sliceIn .frozen) 0 MbxOp.sliceUnbind = true
    ∧ ((sliceIn .frozen).slice 5).state = .frozen := by decide +kernel

/-- R368: a second slice without a PASID on one function breaks the rule; one with a PASID does too. -/
theorem test_bind_twice :
    answered (run (.sliceBind 0 1 5 1 0 none) base) 0 = some (1, Status.descMalformed)
    ∧ answered (run (.sliceBind 0 1 5 1 2 none) base) 0 = some (1, Status.success) := by decide +kernel

theorem test_unbind_of_frozen : answered (run (.sliceUnbind 0 1 5) (sliceIn .frozen)) 0 = some (1, Status.busy) := by decide +kernel

theorem witness_SliceReset :
    takesUpB base 1 MbxOp.sliceReset = true ∧ takesUpB base 0 MbxOp.sliceReset = true ∧ (base.slice 1).state ≠ .unbound
    ∧ ((sliceIn .resetting).slice 5).state = .resetting ∧ (sliceIn .resetting).resetDrained 5 = true
    ∧ ((sliceIn .resetting).slice 5).leaveUnbound = false
    ∧ ((sliceIn .resetting { leaveUnbound := true }).slice 5).leaveUnbound = true ∧ base.bound 1 pfB = true ∧ base.bound 1 pfA = false ∧ base.inPause = false
    ∧ ({ base with last.phase := .paused 0 0 1 lastA } : State).inPause = true
    ∧ ((sliceIn .active { armed := true }).slice 5).armed = true
    ∧ ({ sliceIn .active { armed := true } with time.now := 1000 } : State).passed ((sliceIn .active { armed := true }).slice 5).hbDeadline = true := by
  decide +kernel

/-- The generation of slice 1 wraps (R373), and the answer to its own reset carries the new one (R376). -/
theorem test_generation_wraps :
    let s : State := { base with slices := vset base.slices 1 { state := .active, port := 1, gen := 65535 } }
    let t := run (.sliceReset 1 7 1) s
    ((t.slice 1).gen, (t.slice 1).state) = (0, .resetting)
    ∧ answered (run (.sliceResetDrainDone 1) t) 1 = some (7, Status.success) := by decide +kernel

theorem test_reset_stops_queues :
    let s : State := { sliceIn .active with queue.queues := [{ qFive with head := 1, started := [{ count := 0, entry := nopD }] }] }
    let t := run (.sliceReset 0 7 5) s
    (t.queue.queues.map fun x => (x.state, x.started.isEmpty)) = [(.inReset, true)]
    ∧ (run (.sliceResetDrainDone 5) t).queue.queues.isEmpty = true := by decide +kernel

/-- R380: an FLR of the PF of port B resets slice 1. -/
theorem test_flr_resets : ((run (.flr pfB) base).slice 1).lastCause = 4 := by decide +kernel

def bitmapReg : RangeEntry :=
  { regA with start := 0x80000000000, length := 0x10000, tier := .hostA, pinned := true }
def logA : DirtyLog := { slice := 5, base := 0, pages := 64, bitmap0 := 0, bitmap1 := 8, lastFlush := 0 }
def logging : State := { sliceIn .active with dirtyLogs := [logA] }

theorem witness_DirtyLoggingAndMigration :
    takesUpB (sliceIn .active) 0 MbxOp.dirtyStart = true ∧ ((sliceIn .active).findLog 5).isNone = true
    ∧ ({ sliceIn .active with xlate.ranges := [bitmapReg] } : State).bitmapOk 0x80000000000 (bitmapBytes 64) = true
    ∧ bitmapBytes 64 = 8 ∧ (logging.findLog 5).isSome = true ∧ logA.waiter = none ∧ takesUpB logging 0 MbxOp.dirtyStart = true
    ∧ takesUpB logging 0 MbxOp.dirtyStop = true ∧ takesUpB logging 0 MbxOp.dirtySync = true ∧ takesUpB base 1 MbxOp.dirtyStop = true
    ∧ ({ logging with time.now := 100000 } : State).due (logA.lastFlush + 100000) = true := by decide +kernel

/-- R381: the bitmap of 65 pages needs 16 bytes. -/
theorem test_bitmap_too_short :
    answered (run (.dirtyStart 0 1 5 0 65 0 8 8) (sliceIn .active)) 0 = some (1, Status.descMalformed) ∧ bitmapBytes 65 = 16 := by
  decide +kernel

theorem witness_DirtyLoggingAndMigration_FreezeSaveRestore :
    takesUpB (sliceIn .active) 0 MbxOp.sliceFreeze = true
    ∧ ((run (.sliceFreeze 0 1 5) (sliceIn .active)).slice 5).freezer = some (0, 1)
    ∧ (run (.sliceFreeze 0 1 5) (sliceIn .active)).frozenReady 5 = true
    ∧ ((run (.sliceFreeze 0 1 5) (sliceIn .active)).mailbox 0).taken.any (fun t => t.tag = 1) = true
    ∧ takesUpB (sliceIn .frozen) 0 MbxOp.sliceSave = true ∧ (sliceIn .frozen).imageSize 5 imageFive ≤ 1000
    ∧ takesUpB (sliceIn .active) 0 MbxOp.sliceRestore = true
    ∧ imageFive.contractMajor = (sliceIn .active).fld .gblContractMajor 0 ∧ (sliceIn .active).owns 5 = false
    ∧ (sliceIn .active).imageFits 5 imageFive = true ∧ qFive.state = .running ∧ base.segBase 5 ≤ regFive.slot
    ∧ takesUpB (sliceIn .frozen) 0 MbxOp.sliceThaw = true ∧ ((sliceIn .frozen).slice 5).restored = false
    ∧ ((sliceIn .frozen { restored := true }).slice 5).restored = true ∧ ((sliceIn .frozen { restored := true }).slice 5).thawer = none := by
  decide +kernel

theorem test_freeze_answers :
    answered (run (.freezeDrained 5) (run (.sliceFreeze 0 1 5) (sliceIn .active))) 0 = some (1, Status.success) := by decide +kernel

/-- R384: a thaw of a slice that was not saved. -/
theorem test_thaw : ((run (.sliceThaw 0 1 5) (sliceIn .frozen)).slice 5).state = .active := by decide +kernel

theorem test_save_needs_room :
    answered (run (.sliceSave 0 1 5 100 true) (sliceIn .frozen)) 0 = some (1, Status.noResources) := by decide +kernel

/-- R385: a sealed image bears its CRC-64; one with another is turned away. -/
theorem witness_DirtyLoggingAndMigration_ImageCheck :
    { imageFive with crc := imageCrc imageFive }.crc = imageCrc { imageFive with crc := imageCrc imageFive }
    ∧ { imageFive with crc := imageCrc imageFive + 1 }.crc ≠ imageCrc { imageFive with crc := imageCrc imageFive + 1 } := by
  have same (i : SliceImage) (c : Word64) : imageCrc { i with crc := c } = imageCrc i := rfl
  have other (c : Word64) : c + 1 ≠ c := by simp
  generalize imageFive = i
  exact ⟨(same i _).symm, fun h => other _ (h.trans (same i _))⟩

def wordA : BitmapWord := { offset := 0x80000000000, bits := 2, reading := true }

theorem witness_DirtyLoggingAndMigration_WordRead :
    ({ logging with dirtyLogs := [{ logA with words := [wordA] }] } : State).findLog 5 = some { logA with words := [wordA] }
    ∧ DirtyLog.wordAt { logA with words := [wordA] } wordA.offset = some wordA := by decide +kernel

def ideA : IdeStream := { state := 1, rids := (0xFFFF, 0xFFFF) }
def withIde (required : Nat) : State :=
  { (base.setFld .gblHostIdeCtrlRequired 0 required) with host := vmod base.host 0 fun h => { h with ide := vset h.ide 0 ideA } }
def linkDownA (cause : Nat) : State := { base with host := vmod base.host 0 fun h => { h with up := false, lastDown := cause } }

theorem witness_HostLinks :
    ((linkDownA 1).hostPort 0).up = false ∧ (base.slice 1).port = 1 ∧ (base.slice 0).port = 0 ∧ (base.hostPort (1 - 0)).up = true
    ∧ (linkDownA 1).board.resetN = true ∧ (base.hostPort 0).up = true ∧ ((linkDownA 1).hostPort 0).cfgReset = false ∧ ((linkDownA 1).hostPort 0).lastDown ≠ 4
    ∧ ((run (.hostLinkEnd 0 3) (linkDownA 1)).hostPort 0).cfgReset = true ∧ base.mem.infWaits = [] ∧ ideA.covers 0xFFFF = true
    ∧ base.xlate.waiting = [] ∧ base.trans.heldArrivals = [] ∧ base.trans.ended = [] ∧ base.work.services = [] ∧ base.xlate.eyeletBusy = []
    ∧ vget ((withIde 1).hostPort 0).ide 0 {} = ideA ∧ (withIde 1).fld .gblHostIdeCtrlRequired 0 = 1
    ∧ vget ((withIde 0).hostPort 0).ide 0 {} = ideA ∧ (withIde 0).fld .gblHostIdeCtrlRequired 0 ≠ 1 := by decide +kernel

/-- R370, R406: when port A ends, slice 0 is reset with cause 5 and moves to the PF of port B. -/
theorem test_slice_zero_moves :
    let t := run (.hostLinkEnd 0 2) base
    ((t.slice 0).port, (t.slice 0).lastCause, (t.slice 0).state, (t.slice 1).state) = (1, 5, .resetting, .active) := by decide +kernel

/-- R410: a lost stream that covers host memory ends the port's link with cause 4. -/
theorem test_ide_ends_link : ((run (.ideIntegrityFail 0 0) (withIde 1)).hostPort 0).lastDown = 4 := by decide +kernel

/-! ## Keys, identity, mailboxes -/

def guardKey : KeySlot := { slice := 0, slot := 2, kind := 0, state := .loaded, key := 5 }
def rootA : BitVec 384 := 77
def withKeys : State := { base with keys.slots := [guardKey, streamKey], keys.rootDigest := some rootA }
def jobK (w : GuardWork) (left : Nat) : GuardJob := { id := 3, slice := 0, tag := 1, parent := 2, kind := 2, slot := 4, work := w, left, queued := true }
def guarding (w : GuardWork) (left : Nat) : State :=
  { withKeys with keys.guardJobs := [jobK w left], keys.guardQueue := [withKeys.guardEntry (jobK w left)] }
def sessionA : Session := { port := 1, session := 9, established := true, root := some rootA }

theorem witness_KeysAreLoadedAndErased :
    takesUpB withKeys 0 MbxOp.keyInfo = true ∧ withKeys.slotOk 0 ⟨1, 3, 0⟩ = true ∧ takesUpB withKeys 0 MbxOp.keyErase = true
    ∧ withKeys.endsNaming 0 3 = 0 ∧ (withKeys.keys.guardJobs.any fun j => j.slice = 0 && j.parent = 2) = false
    ∧ takesUpB encrypted 0 MbxOp.keyErase = true ∧ encrypted.slotOk 0 ⟨1, 3, 0⟩ = true ∧ encrypted.endsNaming 0 3 ≠ 0
    ∧ takesUpB withKeys 0 MbxOp.keyImport = true ∧ withKeys.slotOk 0 ⟨2, 4, 0⟩ = true
    ∧ withKeys.slotOk 0 ⟨0, 2, 0⟩ = true ∧ withKeys.parentOk 0 2 = true ∧ (withKeys.slotNow 0 ⟨2, 4, 0⟩).state = .empty
    ∧ withKeys.guardsUp ≠ [] ∧ takesUpB withKeys 0 MbxOp.keyDerive = true ∧ withKeys.parentOk 0 1 = false ∧ withKeys.slotOk 0 ⟨0, 1, 0⟩ = true
    ∧ withKeys.keys.guardOut.getLsbD 3 = false ∧ withKeys.keys.drbgHalted = false
    ∧ (withKeys.slotNow 0 ⟨2, 4, 0⟩).state = .empty ∧ withKeys.keyIdTaken 2 9 = false
    ∧ (guarding (.unwrap []) 1).keys.guardJobs.find? (fun x => x.id = ((guarding (.unwrap []) 1).keys.guardQueue.map (·.job)).headD 0) =
        some (jobK (.unwrap []) 1)
    ∧ guardAdmits (guarding (.unwrap []) 1).keys.guardQueue 0 = true ∧ withKeys.keys.guardJobs = []
    ∧ ({ withKeys with boot.sessions := [sessionA] } : State).inSession 1 9 = true ∧ base.inSession 1 9 = false
    ∧ ({ withKeys with keys.guardOut := 15 } : State).guardsUp = []
    ∧ (guarding (.unwrap []) 1).keySlot 0 2 true = some guardKey
    ∧ ({ base with keys.drbgHalted := true } : State).due base.keys.drbgNext = true
    ∧ ({ withKeys with boot.sessions := [sessionA] } : State).provisionOk 1 9 1 2 = true ∧ base.provisionOk 1 9 1 2 = false := by
  decide +kernel

/-- `witness_KeysAreLoadedAndErased`, for the results of the engines' work: a blob of the wrong length fails its check. -/
theorem witness_KeysAreLoadedAndErased_results :
    (match GuardWork.result (.unwrap []) 2 5 with | .error c => decide (c = Status.authFail) | .ok _ => false) = true
    ∧ ∃ r, GuardWork.result (.derive 1 2 9) 2 5 = .ok r := ⟨by decide +kernel, _, rfl⟩

/-- R419: a second StreamSend slot with one KeyId. -/
theorem test_keyid_taken : withKeys.keyIdTaken 1 9 = true ∧ withKeys.keyIdTaken 1 10 = false := by decide +kernel

theorem test_erase_of_named_slot : answered (run (.keyErase 0 1 0 ⟨1, 3, 0⟩) encrypted) 0 = some (1, Status.busy) := by decide +kernel

/-- R424: the last engine's fault ends every request with CIPHER_FAULT. -/
theorem test_last_guard_engine :
    let s : State := { guarding (.unwrap []) 5 with keys.guardOut := 7, mailboxes := [(0, { taken := [{ tag := 1, major := 2, opcode := 0xC3 }] })] }
    answered (run (.guardCipherOp 3 true) s) 0 = some (1, Status.cipherFault) := by decide +kernel

/-- R425: of the Security Core at most 16 requests wait. -/
theorem test_guard_queue_full :
    guardAdmits (List.replicate 15 (withKeys.guardEntry (jobK (.unwrap []) 30))) 0 = true
    ∧ guardAdmits (List.replicate 16 (withKeys.guardEntry (jobK (.unwrap []) 30))) 0 = false := by decide +kernel

def lmsState (generating ready : Bool) (used : Nat) : State :=
  { base with boot.generating := generating, boot.bottomReady := ready, boot.bottomUsed := used, boot.lms := #v[{ next := 4, seq := 1 }, {}] }

theorem witness_IdentityAnswers :
    takesUpB base 0 MbxOp.ownerEnroll = true ∧ base.boot.ownerDigests = [] ∧ base.emergency = false ∧ base.transferReason 1 2 [] = 0
    ∧ ({ base with boot.ownerDigests := [(0, 0)] } : State).transferReason 1 2 [] ≠ 0
    ∧ takesUpB base 1 MbxOp.ownerEnroll = true
    ∧ takesUpB ({ base with boot.ownerDigests := List.replicate 4 (0, 0) } : State) 0 MbxOp.ownerEnroll = true
    ∧ (lmsState true false 0).fw.resetting = false ∧ (lmsState false true 1023).boot.topNext < 1048576
    ∧ ({ lmsState false true 1023 with boot.lmsStuck := true } : State).boot.lmsStuck = true
    ∧ (lmsState true false 0).boot.generating = true ∧ (lmsState true false 0).keys.drbgHalted = false
    ∧ (lmsState false true 0).boot.bottomReady = true ∧ (lmsState true false 0).boot.topNext = 4 ∧ (lmsState false true 1023).boot.lmsStuck = false
    ∧ ((lmsState false true 1023).boot.reports.filter fun t => (lmsState false true 1023).time.now < t + 1000000000).length < 8
    ∧ 8 ≤ (({ lmsState false true 0 with boot.reports := List.replicate 8 1 } : State).boot.reports.filter fun t => 0 < t + 1000000000).length
    ∧ (base.sessionsOf 0).length < 4 ∧ (base.boot.sessions.any fun x => x.port = 0 && x.session = 9) = false
    ∧ 4 ≤ (({ base with boot.sessions := List.replicate 4 sessionA } : State).sessionsOf 1).length
    ∧ (({ base with boot.sessions := [sessionA] } : State).boot.sessions.any fun x => x.port = 1 && x.session = 9 && x.established) = true
    ∧ (base.hostPort 1).up = true := by decide +kernel

/-- R455, R461: a report while the tree is being generated, and the next tree after its 1,024th index. -/
theorem test_reports :
    (run (.attestationReport 0 1 0) (lmsState true false 0)).out = [.spdm 0 0 (.error 0x42 21)]
    ∧ (run (.attestationReport 0 1 0) (lmsState false true 1023)).boot.generating = true := by decide +kernel

def mbxReq : MbxRequest := { major := 2, minor := 0, opcode := 0x40, length := 32, tag := 6, slice := 0, crc := 3450625156 }
def enabled : State := base.setFld .slcMbxCtrlEnable 0 1
def responding : State := { base with mailboxes := [(0, { ready := [{ slice := 0, tag := 6, status := 0 }] })] }

def interrupting : State :=
  { base.setFld .slcMbxCtrlIntEnable 0 1 with mailboxes := [(0, { writing := some { slice := 0, tag := 6, status := 0 } })] }
def interrupted (now : Nat) : State := { base with mailboxes := [(0, { intAt := some 2000 })], time.now := now }

theorem witness_MailboxesWork :
    base.requestFault 0 mbxReq = none ∧ base.requestFault 0 { mbxReq with crc := 0 } = some (Status.descMalformed, 1, 2)
    ∧ (base.slice 0).state = .active ∧ base.fwAway = false ∧ base.inPause = false ∧ base.serving = true
    ∧ (base.mailbox 0).outstanding (some 6) < 8 ∧ takesUpB base 0 0x40 = true ∧ ((sliceIn .resetting).slice 5).state = .resetting
    ∧ enabled.bound 0 pfA = true ∧ enabled.fld .slcMbxCtrlEnable 0 ≠ 0 ∧ (enabled.mailbox 0).fault = false
    ∧ enabled.ringsBlocked 0 = false ∧ enabled.inPause = false ∧ (enabled.mailbox 0).intake = [] ∧ base.fld .slcMbxCtrlEnable 0 = 0
    ∧ (responding.mailbox 0).ready = [{ slice := 0, tag := 6, status := 0 }] ∧ responding.ringsBlocked 0 = false
    ∧ responding.logFull 0 [0] = false ∧ responding.postedFull 0 512 = false ∧ base.last.held = [] ∧ base.mbxHeld = false
    ∧ ({ responding with host := vmod responding.host 0 fun h => { h with posted := List.replicate 1000 512 } } : State).postedFull 0 512 = true
    ∧ (responding.mailbox 0).writing = none ∧ responding.fld .slcMbxCtrlIntEnable 0 = 0
    ∧ (interrupting.mailbox 0).writing.isSome = true ∧ interrupting.fld .slcMbxCtrlIntEnable 0 = 1
    ∧ interrupting.ringsBlocked 0 = false ∧ interrupting.logFull 0 [interrupting.respSlot 0 / 4096 * 4096] = false
    ∧ interrupting.postedFull (interrupting.slice 0).port 512 = false
    ∧ (interrupted 2000).due 2000 = true ∧ (interrupted 1999).due 2000 = false ∧ mbxReq.crc = 3450625156
    ∧ (mbxOpcodes.contains 0x40) = true ∧ mbxOpcodes.contains 0x41 = true ∧ mbxOpcodes.contains 0x0 = false := by decide +kernel

/-- R469: the major is checked before the CRC, and the slice before the opcode. -/
theorem test_request_order :
    base.requestFault 0 { mbxReq with major := 3 } = some (Status.descUnsupportedOp, 0, 2)
    ∧ base.requestFault 0 { mbxReq with slice := 1, opcode := 0, crc := 2636295721 } = some (Status.localAccess, 0, 2)
    ∧ base.requestFault 0 { mbxReq with major := 1, slice := 1, crc := 330021652 } = none := by decide +kernel

/-- R471: the message for a response goes 2 µs after it. -/
theorem test_mailbox_message :
    ((interrupting.respWritten 0).mailbox 0).intAt = some (base.time.now + 2000)
    ∧ ((interrupted 2000).mailMessages.mailbox 0).intAt = none ∧ ((interrupted 1999).mailMessages.mailbox 0).intAt = some 2000 := by
  decide +kernel

theorem test_response_written : (run (.mbxResponse 0 true) responding).out.length = 1 := by decide +kernel

/-! ## Firmware and the Last -/

def fwPkg : FwPackage := { kind := 2, length := 8, checked := true }
def fwAt (u : Nat) (p : Option FwPackage) : State := { base with fw := { update := u, package := p } }
def imageR : FlashImage := { sec := 3 }

theorem witness_FirmwarePackages :
    takesUpB base 0 MbxOp.fwBegin = true ∧ packageLimit 2 = some 33554432 ∧ packageLimit 9 = none ∧ (fwAt 3 none).fw.update = 3
    ∧ takesUpB (fwAt 3 none) 0 MbxOp.fwBegin = true
    ∧ takesUpB base 1 MbxOp.fwBegin = true ∧ takesUpB base 1 MbxOp.fwWrite = true ∧ takesUpB base 1 MbxOp.fwCheck = true
    ∧ takesUpB base 1 MbxOp.fwActivate = true ∧ takesUpB base 1 MbxOp.fwConfirm = true ∧ takesUpB base 1 MbxOp.fwStatus = true
    ∧ takesUpB (fwAt 1 (some fwPkg)) 0 MbxOp.fwWrite = true ∧ crc32c (([1, 2, 3, 4] : List Byte).take 4) = crc32c [1, 2, 3, 4]
    ∧ crc32c [1, 2, 3, 4] ≠ 0 ∧ 4 + 4 ≤ fwPkg.length ∧ fwPkg.length < 5 + 4
    ∧ takesUpB (fwAt 1 (some fwPkg)) 0 MbxOp.fwCheck = true ∧ fwPkg.complete = false
    ∧ imageR.reason = 0 ∧ imageR.spare = base.boot.spareKey ∧ base.fused 2 ≤ imageR.sec
    ∧ imageR.sec < ({ base with boot.fwFuses := ({} : Thermo).blow 4 } : State).fused 2 ∧ takesUpB base 0 MbxOp.fwStatus = true := by decide +kernel

/-- R481: bytes unwritten. -/
theorem test_check_of_unwritten :
    answered (run (.fwCheck 0 1) (fwAt 1 (some fwPkg))) 0 = some (1, Status.descMalformed) := by decide +kernel

/-- R479: a block's bytes are recorded, and a rewritten byte takes the later value. -/
theorem test_blocks_overlay :
    ({ fwPkg with blocks := [(0, [1, 2, 3, 4]), (4, [5, 6, 7, 8]), (3, [9, 9])] } : FwPackage).bytes = [1, 2, 3, 9, 9, 6, 7, 8]
    ∧ ({ fwPkg with blocks := [(0, [1, 2, 3, 4]), (4, [5, 6, 7, 8])] } : FwPackage).complete = true := by decide +kernel

/-- R480: COPY of 3 bytes at offset 1 and DATA of 2. -/
theorem test_delta_operations :
    deltaRun [10, 11, 12, 13] 2 [1, 0, 0, 0, 3, 0, 0, 0, 1, 0, 0, 0, 2, 0, 0, 0, 2, 0, 0, 0, 7, 8, 0, 0] [] = some [11, 12, 13, 7, 8] := by
  decide +kernel

def windowS : State := { base with fw := { update := 4, runningSlot := 1, runningSec := 12, windowEnd := some 100, selfTested := true } }

def quiesced : State := { base with fw := { update := 3, switching := true, quiesceAt := some base.time.now } }
def noBundle : State := { base with boot.fwImages := #v[none, none], fw.resetting := true }

theorem witness_FirmwareHandover :
    takesUpB (fwAt 2 (some fwPkg)) 0 MbxOp.fwActivate = true ∧ (fwAt 2 (some fwPkg)).emergency = false
    ∧ (fwAt 2 (some fwPkg)).activating = false ∧ fwPkg.kind ≠ 1
    ∧ takesUpB ({ base with power.brake := true } : State) 0 MbxOp.fwActivate = true
    ∧ ({ base with power.brake := true } : State).emergency = true
    ∧ ({ base with last.phase := .notices 0 0 1 {} } : State).activating = true
    ∧ takesUpB ({ base with last.phase := .notices 0 0 1 {} } : State) 0 MbxOp.fwActivate = true
    ∧ base.oldWork 3 = false ∧ takesUpB windowS 0 MbxOp.fwConfirm = true ∧ windowS.inWindow = true ∧ base.inWindow = false
    ∧ takesUpB base 0 MbxOp.fwConfirm = true ∧ windowS.passed 100 = false ∧ ({ windowS with time.now := 1000 } : State).passed 100 = true
    ∧ base.fw.update ≠ 3 ∧ base.fw.update ≠ 4 ∧ base.fw.resetting = false
    ∧ (base.tryImage 2 base.boot.fwSlot).2 = some {} ∧ quiesced.fw.switching = true ∧ quiesced.fw.quiesceAt = some quiesced.time.now
    ∧ ({ base with fw.resetting := true } : State).fw.resetting = true
    ∧ (noBundle.tryImage 2 noBundle.boot.fwSlot).2 = none
    ∧ ((noBundle.tryImage 2 noBundle.boot.fwSlot).1.tryImage 2 (1 - noBundle.boot.fwSlot)).2 = none
    ∧ noBundle.fw.resetting = true := by decide +kernel

/-- R484: from Quiesce on, mailbox intake stops. -/
theorem test_quiesce_holds : (quiesced.take 0 1 MbxOp.fwStatus).2 = false := by decide +kernel

/-- R485, R497: the brake before Switch aborts the handover with FW_DEFERRED, and the package stays Checked. -/
theorem test_brake_aborts_handover :
    let t := run .pwrBrakeAssert (run (.fwActivate 0 1 false) (fwAt 2 (some fwPkg)))
    answered t 0 = some (1, Status.fwDeferred) ∧ t.fw.update = 2 ∧ t.fw.switching = false := by decide +kernel

/-- R451: confirmation raises the fused version to the image's. -/
theorem test_confirm_raises_fuse : (run .healthConfirm windowS).boot.fuseFw = 12 ∧ (run .healthConfirm windowS).boot.fwSlot = 1 := by
  decide +kernel

theorem test_watchdog_in_window : (run .fwWatchdogExpiry windowS).fw.update = 5 ∧ (run .fwWatchdogExpiry windowS).fw.resetting = true := by
  decide +kernel

/-- The header and the directory of an image with one section: POOL with 7 records. -/
def poolB : List Byte := List.replicate 6 0 ++ [1, 0] ++ List.replicate 120 0 ++ [1, 0, 7, 0] ++ List.replicate 12 0

def lastReady : State := { base with last.slots := #v[{}, { bytes := [0xC4, 0xF0, 0x31, 0x7A], state := 2 }] }
def lastPausing (out : List CtrlOut) : State := { base with last.phase := .notices 0 0 1 {}, trans.ctrlOut := out }

theorem witness_LastActivation :
    takesUpB base 0 MbxOp.lastWrite = true ∧ (true).toNat ≠ base.last.activeSlot ∧ crc32c [1] = crc32c [1] ∧ crc32c [1] ≠ 0
    ∧ takesUpB base 0 MbxOp.lastCheck = true ∧ base.last.activeSlot ≤ 1 ∧ lastFormatOk [] = false
    ∧ poolFail poolB { pools := [16, 0, 8, 0, 0, 0, 232] } = none ∧ poolFail poolB {} ≠ none
    ∧ takesUpB base 0 MbxOp.lastActivate = true ∧ takesUpB ({ base with power.brake := true } : State) 0 MbxOp.lastActivate = true
    ∧ (fwAt 3 none).fw.update = 3 ∧ takesUpB (fwAt 3 none) 0 MbxOp.lastActivate = true
    ∧ takesUpB lastReady 0 MbxOp.lastActivate = true ∧ (lastReady.lastSlot lastReady.spareLast).state = 2
    ∧ lastReady.activating = false ∧ (lastPausing []).noticesOut = false
    ∧ (lastPausing [{ seq := 1, dst := 0, msg := .pause 150000 0, nextAt := 0 }]).noticesOut = true
    ∧ (lastPausing []).due 5000000 = false := by decide +kernel

/-- R46: a slot whose magic is not valid is empty, and the active slot is not written. -/
theorem test_last_write :
    ((run (.lastWrite 0 1 true 2 (.ok [7]) (crc32c [7])) base).lastSlot 1).bytes = [0xFF, 0xFF, 7]
    ∧ answered (run (.lastWrite 0 1 false 2 (.ok [7]) (crc32c [7])) base) 0 = some (1, Status.descMalformed) := by decide +kernel

/-- R33: partition 3 holds the ports' buffers. -/
theorem test_pool_sum :
    (poolFail poolB { pools := [16, 0, 8, 4, 0, 0, 228] }).map (·.record) = some 3 ∧ (poolFail poolB { pools := [8, 0, 8] }).map (·.record) = some 0 := by
  decide +kernel

theorem witness_RoleSetNeedsAGreaterEpoch : takesUpB base 0 MbxOp.roleSet = true ∧ base.last.roleEpoch < 1 ∧ (0 : Word32) ≤ base.last.roleEpoch := by
  decide +kernel

theorem test_role_set :
    (run (.roleSet 0 1 2 5) base).last.role = 2 ∧ answered (run (.roleSet 0 1 2 0) base) 0 = some (1, Status.descMalformed) := by
  decide +kernel

/-! ## Power, time and the module -/

def hot (j : Nat) (since : Option Nat) (x : ThermalState) : State :=
  { base with power := { thermal := x, coolSince := since, junctionC := j }, time.now := 20000000 }
def braked : State := { base with power.brake := true }
def capped (n : Nat) (u : Option Nat) : State := { base with power := { limitW := 400, capStep := n, underSince := u }, time.now := 20000000 }

theorem witness_PowerAndThermal :
    base.serving = true ∧ ({ base with board.resetN := false } : State).serving = false
    ∧ (capped 4 none).power.limitW < 401 ∧ (capped 4 none).power.capStep < 5 ∧ 5 ≤ (capped 5 none).power.capStep
    ∧ 380 ≤ (capped 5 none).power.limitW ∧ 95 * 400 ≤ 100 * 380 ∧ 100 * 379 < 95 * 400 ∧ 0 < (capped 1 none).power.capStep
    ∧ (capped 1 none).power.underSince = none ∧ (capped 1 (some 10000000)).power.underSince = some 10000000
    ∧ 10000000 + 10000000 ≤ (capped 1 none).time.now ∧ (capped 1 none).time.now < 10000001 + 10000000
    ∧ base.power.shutdown = false ∧ base.board.inputPower = true ∧ ({ base with power.shutdown := true } : State).power.shutdown = true
    ∧ thermalLevel 115 0 = 4 ∧ thermalLevel 0 97 = 3 ∧ thermalLevel 99 89 = 0 ∧ thermalLevel 100 0 = 1
    ∧ (hot 0 none .normal).power.thermal.code < 1 ∧ (hot 0 none .warning1).power.thermal.code ≠ 0 ∧ isBelow 1 96 86 = true
    ∧ isBelow 1 97 0 = false ∧ thermalLevel 97 0 ≤ (hot 0 none .warning1).power.thermal.code
    ∧ (hot 0 (some 10000000) .warning1).power.coolSince = some 10000000 ∧ (hot 0 none .warning1).power.coolSince = none
    ∧ base.power.brake = false ∧ braked.power.brake = true ∧ (hot 0 none .critical).power.thermal = .critical
    ∧ base.power.thermal = .normal ∧ base.power.capStep = 0 ∧ (capped 3 none).power.capStep = 3 := by decide +kernel

/-- R495: above the limit a capping step enters, and PWR_STATE tells of it. -/
theorem test_cap_step :
    let t := run (.powerSample 401) (capped 0 none)
    t.power.capStep = 1 ∧ t.arithClock = 1 ∧ t.memCap = 100 ∧ t.queue.events.map (fun e => (e.code, e.info)) = [(EventCode.pwrState, 8)] := by
  decide +kernel

/-- R499: temperatures reach Warning 2, and leave it below 100 and 90 for 10 ms. -/
theorem test_thermal_steps :
    (run (.thermalSample 103 0) base).power.thermal = .warning2 ∧ (run (.thermalComparator 50 97) base).power.thermal = .critical
    ∧ (run (.thermalSample 99 89) (hot 103 (some 10000000) .warning2)).power.thermal = .warning1 := by decide +kernel

/-- R501: Shutdown ends the module's work until a reset below 95. -/
theorem test_shutdown :
    let t := run (.thermalSample 115 0) base
    t.power.shutdown = true ∧ (run .modResetNRelease t).power.shutdown = true ∧ t.slices[0].state = .active := by decide +kernel

/-- R498: the brake's limits. -/
theorem test_brake : (run .pwrBrakeAssert base).arithClock = 2 ∧ (run .pwrBrakeAssert base).power.brake = true
    ∧ (run .pwrBrakeRelease braked).power.brake = false := by decide +kernel

def idle (x : SleepState) (f : Nat) : State :=
  { base with last.inForce := some { lastA with floors := List.replicate 8 f }, power.sleep := Vector.replicate 8 x, time.now := 1000000 }

theorem witness_ClusterSleep :
    (idle .awake 1).awake 3 = true ∧ (idle .awake 1).hasWork 3 = false ∧ (idle .awake 1).floor 3 ≤ 1
    ∧ (idle .awake 1).due (max 0 0 + max 1 ((idle .awake 1).fld .pwrCtrlLightIdle 0) * 16) = true ∧ 1 < (idle .awake 2).floor 3
    ∧ vget (idle .light 0).power.sleep 3 .awake = .light ∧ (idle .light 0).floor 3 = 0 ∧ (idle .light 0).preWaked 3 = false
    ∧ (idle .light 0).due (0 + max 1 ((idle .light 0).fld .pwrCtrlDeepIdleUs 0) * 1000) = true ∧ (idle .light 1).floor 3 ≠ 0
    ∧ ((idle .deep 0).power.sleep.toList.all fun x => x = .deep) = true ∧ (idle .deep 0).due ((idle .deep 0).power.edgeIdleSince + 20000) = true
    ∧ ((idle .light 0).power.sleep.toList.all fun x => x = .deep) = false := by decide +kernel

/-- R491, R492: light, deep, awake. -/
theorem test_sleep :
    vget (run (.clusterLightSleep 3) (idle .awake 1)).power.sleep 3 .awake = .light
    ∧ vget (run (.clusterDeepSleep 3) (idle .light 0)).power.sleep 3 .awake = .deep
    ∧ vget (run (.clusterWake 3) (idle .deep 0)).power.sleep 3 .deep = .awake
    ∧ (run .hbmSelfRefresh (idle .deep 0)).power.selfRefresh = true := by decide +kernel

def timed (source : Nat) : State := { base with time.now := 5000000100 }.setFld .timCtrlSource 0 source
def pinsS : State :=
  { base with last.inForce := some { lastA with pins := [{ pin := 2, function := 4 }, { pin := 5, function := 3, param := 1 },
                                                        { pin := 6, function := 2 }] } }
def armed (now : Nat) : State :=
  { base with time.timers := [{ slice := 0, index := 2, deadline := 1000, counter := 5 }], time.now := now }

theorem witness_TimeAndTimers :
    base.isManager pfA = true ∧ base.isManager pfB = false ∧ base.trans.conns = [] ∧ base.time.timers = [] ∧ (armed 0).time.timers ≠ []
    ∧ base.driverTime = true ∧ (timed 2).driverTime = false ∧ (timed 2).isManager pfA = true ∧ (timed 4).fld .timCtrlSource 0 = 4
    ∧ base.fld .timCtrlSource 0 ≠ 4 ∧ ((timed 0).setFld .timCtrlPpsOutEnable 0 1).fld .timCtrlPpsOutEnable 0 = 1
    ∧ (timed 0).time.now / 1000000000 ≠ (timed 0).time.ppsSecond ∧ (timed 0).board.shorted.getLsbD 8 = false
    ∧ (timed 2).sourcePort = some 8 ∧ (timed 2).linkUp 8 = false ∧ (timed 2).time.holdover = false
    ∧ (timed 4).due ((timed 4).time.lastPps + 2000000000) = true ∧ (pinsS.pinsWith 4).contains 2 = true
    ∧ (armed 1000).time.timers.find? (fun t => t.is 0 2) = some { slice := 0, index := 2, deadline := 1000, counter := 5 }
    ∧ tick 1000 ≤ tick (armed 960).time.now ∧ tick (armed 959).time.now < tick 1000
    ∧ accessAt 0xC0100 4 = some (.pwrGpio, 0) ∧ base.mayWrite pfA .pwrGpio 0 = true ∧ base.answersReads = true
    ∧ base.mayRead pfA 0xC0100 .pwrGpio 0 = true ∧ base.bound 0 pfA = true ∧ base.fld .slcTimerSelIndex 0 < (base.quota 0).timers ∧ (1 : Word64) ≠ 0
    ∧ (base.timerCfgOf 0 0).2 < (base.quota 0).lace ∧ base.bound 0 pfB = false := by decide +kernel

/-- R508: PPS_OUT rises at a whole second; a capture 100 ns late steers back 100 ns. -/
theorem test_pps :
    (run .ppsOutSecond ((timed 0).setFld .timCtrlPpsOutEnable 0 1)).out = [.pinLevel 8 true]
    ∧ (run .ppsInEdge (timed 4)).time.offsetNs = -100 := by decide +kernel

/-- R505: a tick of 64 ns, and one slowed by a slew of 500 ppm. -/
theorem test_time_passes :
    base.advanceTime.time.now = 64 ∧ ({ base with time.slewLeft := -1 } : State).advanceTime.time.part = 999999
    ∧ (run (.timFreqWrite pfA (BitVec.ofInt 32 (-65536001))) base).freqAdjust = -65536000 := by decide +kernel

theorem test_source_loss :
    (run .timeSourceLoss (timed 3)).queue.events.map (fun e => (e.code, e.info)) = [(EventCode.timeSource, 7)]
    ∧ (run (.timeCaptureEdge 2) { pinsS with time.now := 77 }).board.pinCap[2] = 77
    ∧ (run (.timSetWrite pfA 9) base).time.now = 9 ∧ (run (.timSlewWrite pfA 2) base).time.slewLeft = 131072000000 := by decide +kernel

/-- R510: a timer adds one to its counter; a write of 0 disarms. -/
theorem test_event_timer :
    (run (.eventTimerFire (some 0) 2) (armed 960)).queue.laceChanges = [⟨0, 0, 5, 1⟩]
    ∧ (run (.slcTimerDeadlineWrite pfA 0 5000) base).time.timers = [{ slice := 0, index := 0, deadline := 5000, counter := 0 }]
    ∧ (run (.slcTimerDeadlineWrite pfA 0 0) ((armed 0).setFld .slcTimerSelIndex 0 2)).time.timers = []
    ∧ (run (.eventTimerFire none 1) pinsS).out = [.pinLevel 5 true] := by decide +kernel

def unpowered : State := { State.reset with board := { inputPower := false, pwrGood := false, resetN := false } }
def inReset : State := { State.reset with board.resetN := false }
def noImages : State := { inReset with boot.stageImages := #v[none, none] }
def pinLow (since : Option Nat) : State :=
  { pinsS with board.shortSince := since.toList.map (fun x => (6, x)), time.now := 20000 }
def pinShort : State := { pinsS with board := { shorted := 64, retryAt := [(6, 100)] }, time.now := 20000 }

theorem witness_ModuleEvents :
    unpowered.board.inputPower = false ∧ base.board.inputPower = true ∧ base.board.resetN = true ∧ inReset.board.pwrGood = true
    ∧ inReset.board.resetN = false ∧ inReset.power.shutdown = false
    ∧ ({ inReset with power := { shutdown := true, junctionC := 95 } } : State).power.junctionC = 95
    ∧ ({ inReset with power := { shutdown := true, junctionC := 94 } } : State).power.shutdown = true
    ∧ (noImages.tryImage 1 noImages.boot.stageSlot).2 = none
    ∧ ((noImages.tryImage 1 noImages.boot.stageSlot).1.tryImage 1 (1 - noImages.boot.stageSlot)).2 = none
    ∧ vget noImages.boot.stageImages 0 none = none ∧ vget inReset.boot.stageImages inReset.boot.stageSlot none = some {}
    ∧ inReset.imageReason 1 {} = 0 ∧ vget inReset.boot.fwImages inReset.boot.fwSlot none = some {} ∧ inReset.imageReason 2 {} = 0
    ∧ base.boot.stage ≠ 3 ∧ pinsS.checkedOutput 6 = true ∧ pinsS.isShorted 6 = false
    ∧ assoc (pinLow none).board.shortSince 6 = none ∧ assoc (pinLow (some 10000)).board.shortSince 6 = some 10000
    ∧ (pinLow (some 10000)).due (10000 + 10000) = true ∧ pinShort.isShorted 6 = true ∧ assoc pinShort.board.retryAt 6 = some 100
    ∧ pinShort.due 100 = true ∧ (pinLow none).pinReleased 6 = false ∧ pinShort.pinReleased 6 = false
    ∧ base.pinReleased 9 = true ∧ base.checkedOutput 9 = true ∧ base.isShorted 9 = false ∧ base.boot.stage = 2 := by decide +kernel

/-- R448: from reset the module boots its factory images; the stage then reads 2. -/
theorem test_boot : (run .modResetNRelease inReset).boot.stage = 2 ∧ (run .modResetNRelease noImages).boot.stage = 3
    ∧ (run .modResetNRelease noImages).boot.failReason = failFormat := by decide +kernel

/-- R525: reset keeps flash, fuses and Device Time. -/
theorem test_mod_reset :
    let t := run .modResetNAssert { base with time.now := 99, boot.fwFuses := ({} : Thermo).blow 4 }
    t.boot.stage = 0 ∧ t.time.now = 99 ∧ t.boot.fuseFw = 4 ∧ t.last.inForce.isNone := by decide +kernel

theorem test_power_input :
    (run .inputPowerApply unpowered).out = [.pwrGood true] ∧ (run .inputUndervoltage base).out = [.pwrGood false]
    ∧ (run (.inputFault true) base).board.inputFault = true := by decide +kernel

/-- R527: the sideband's sensors and power limit. -/
theorem test_sideband :
    (run (.pldmRequest (.readSensor 5)) inReset).out = [.pldm .unavailable]
    ∧ (run (.boardPowerLimitWrite 900) base).power.limitW = 800 ∧ (run (.boardPowerLimitWrite 900) inReset).out = [.pldm .notReady]
    ∧ (run (.setEndpointId 7) base).board.eid = 7 := by decide +kernel

/-- R522: a short of 10 µs, and its end. -/
theorem test_pin_short :
    (run (.pinShortCheck 6 false) (pinLow (some 10000))).board.shorted = 64
    ∧ (run (.pinShortCheck 6 false) (pinLow (some 10000))).out = [.pinFloat 6]
    ∧ (run (.pinFaultRetry 6 true) pinShort).queue.events.map (fun e => (e.code, e.object, e.info)) = [(EventCode.pinFault, 6, 0)] := by
  decide +kernel

/-! ## Single rules, registers and the whole machine -/

theorem witness_FarRescanRebuildsTheLayout :
    takesUpB base 0 MbxOp.farRescan = true ∧ (∀ e ∈ base.xlate.ranges, e.state = .free ∨ e.tier ≠ .far)
    ∧ takesUpB ({ base with xlate.ranges := [{ regA with tier := .far }] } : State) 0 MbxOp.farRescan = true
    ∧ ({ regA with tier := .far } : RangeEntry).state ≠ .free ∧ takesUpB base 1 MbxOp.farRescan = true := by decide +kernel

theorem witness_KeyRootIsSetOnceAfterReset :
    takesUpB base 0 MbxOp.keyRootSet = true ∧ base.keys.rootDigest = none ∧ takesUpB withKeys 0 MbxOp.keyRootSet = true
    ∧ withKeys.keys.rootDigest.isSome = true ∧ takesUpB base 1 MbxOp.keyRootSet = true ∧ base.board.resetN = true := by decide +kernel

theorem witness_RegisterAccess :
    accessAt 0xC0100 4 = some (.pwrGpio, 0) ∧ base.mayWrite pfA .pwrGpio 0 = true ∧ base.mayWrite pfB .pwrGpio 0 = false
    ∧ accessAt 0xC0100 8 = none ∧ accessAt 0xC0102 2 = none ∧ base.answersReads = true
    ∧ ({ base with board.resetN := false } : State).answersReads = false ∧ base.mayRead pfA 0xC0100 .pwrGpio 0 = true
    ∧ base.mayRead pfB 0xC0100 .pwrGpio 0 = false ∧ assoc (base.live .pwrStat 0) .pwrStatBrakes = none
    ∧ Fld.acc .pwrStatBrakes = .rc ∧ Fld.acc .memArbRankEdge = .rws
    ∧ tableAt pfA 0x03000014 = some (1, 1) ∧ accessAt 0x03000014 4 = none ∧ pbaAt pfA 0x03010004 = some 1
    ∧ tableAt ⟨0, 1⟩ (0x03000000 + 64 * 16) = none ∧ base.serving = true ∧ base.funcEnabled pfA = true := by decide +kernel

/-- R396, R397: a write of the MSI-X table's third entry is read back; its first word is the address's low half. -/
theorem test_msix_table :
    (run (.registerReadClear pfA 0x03000020 8) (run (.registerWrite pfA 0x03000020 8 0xFEE00000) base)).out =
      [.readData pfA 0xFEE00000] := by decide +kernel

/-- Every register lies at a multiple of its width. -/
theorem test_registers_aligned :
    (Reg.all.all fun r => let p := r.place; (p.width = 32 || p.width = 64) && p.offset % (p.width / 8) = 0
      && (p.stride % (p.width / 8) = 0 || p.count = 1) && p.block.base.1 % 8 = 0 && (p.block = .device || p.block.base.2.1 % 8 = 0)) = true := by decide +kernel

/-- The fields of a register do not overlap. -/
theorem test_fields_disjoint :
    (Reg.all.all fun r => r.fields.all fun f => f.reg = r && f.lo ≤ f.hi && f.hi < r.place.width
      && r.fields.all fun g => f = g || decide (f.hi < g.lo) || decide (g.hi < f.lo)) = true := by decide +kernel

/-- R4: an RC field is read and cleared; a write leaves it. -/
theorem test_read_clears :
    let s := base.setFld .pwrStatBrakes 0 3
    let t := run (.registerReadClear pfA 0xC0010 8) s
    (t.out.map fun o => match o with | .readData _ v => bitsOf v Fld.pwrStatBrakes.hi Fld.pwrStatBrakes.lo | _ => 0) = [3]
      ∧ t.fld .pwrStatBrakes 0 = 0 ∧ (run (.registerWrite pfA 0xC0010 8 0) s).fld .pwrStatBrakes 0 = 3 := by decide +kernel

theorem test_write_gpio :
    (run (.registerWrite pfA 0xC0100 4 0x4000) pinsS).out = [.pinLevel 6 true]
    ∧ (run (.registerWrite pfB 0xC0100 4 0x4000) pinsS).out = [] := by decide +kernel

theorem witness_EmptyQueueTicks : base.pending = [] ∧ base.mailboxes = [] ∧ base.board.inputPower = true ∧ unpowered.board.inputPower = false := by
  decide +kernel

theorem witness_MemoryStaysCanonical :
    ({ base with mem.cells := [(4, 1), (9, 255)] } : State).memOk = true ∧ ({ base with mem.cells := [(9, 1), (4, 1)] } : State).memOk = false
    ∧ ({ base with mem.cells := [(4, 0)] } : State).memOk = false := by decide +kernel

theorem witness_FusedVersionsNeverFall : step { base with pending := [.pwrBrakeRelease] } = .next base := by rfl

theorem witness_CommandsLeaveTheQueue : exec .pwrBrakeRelease base = .next base := by rfl
end Sys2Proof.Tests
end

section
/-! SUPPORT. The rules of frames (`State.touches`) and of a mailbox command that only checks, acts and answers. -/

namespace Sys2Proof.Machine

variable {s t u : State}

/-! ## Frames -/

theorem touches_refl (ps : List Part) : s.touches s ps := by
  intro p _
  cases p <;> rfl

theorem touches_trans {ps : List Part} (hst : s.touches t ps) (htu : t.touches u ps) : s.touches u ps := by
  intro p hp
  have hagree := hst p hp
  have hagree' := htu p hp
  cases p <;> exact Eq.trans hagree' hagree

theorem touches_mono {ps qs : List Part} (hsub : ps ⊆ qs) (h : s.touches t ps) : s.touches t qs :=
  fun p hp => h p fun hps => hp (hsub hps)

theorem modMailbox_touches (k : Nat) (f : Mailbox → Mailbox) : s.touches (s.modMailbox k f) [.mailboxes] := by
  intro p hp
  cases p <;> simp [State.agree] at hp ⊢

theorem answer_touches (slice : Nat) (tag : Word32) (op : Nat) (st : Status) (detail : Nat) (info : List Nat) :
    s.touches (s.answer slice tag op st detail info) [.mailboxes] :=
  modMailbox_touches slice _

/-! ## A command that has been taken up -/

section TakenUp

variable {slice : Nat} {tag : Word32} {op : Nat} (h : s.takesUp slice tag op)
include h

theorem taken_touches : s.touches (s.taken slice tag op) [.mailboxes] := by
  obtain ⟨f, hf⟩ := taken_of_takesUp h
  rw [hf]
  exact modMailbox_touches slice f

theorem taken_last : (s.taken slice tag op).last = s.last :=
  taken_touches h .last (by decide)

variable {f : State → State × Status × List Nat} {st : Status} {info : List Nat}
  (hact : f (s.taken slice tag op) = (u, st, info))
include hact

/-- The action leaves the state `u`, and answering it changes no more than the mailbox. -/
theorem command_eq_answer : s.command slice tag op f = u.answer slice tag op st 0 info := by
  rw [command_of_takesUp f h, hact]

theorem command_hasAnswer : (s.command slice tag op f).hasAnswer slice tag st info := by
  rw [command_eq_answer h hact]
  exact answer_hasAnswer u slice tag op st 0 info

theorem command_last : (s.command slice tag op f).last = u.last := by
  rw [command_eq_answer h hact, answer_last]

/-- The parts that a command may change are those of its action, and the mailboxes. -/
theorem command_touches {ps : List Part} (hmbx : .mailboxes ∈ ps) (hu : (s.taken slice tag op).touches u ps) :
    s.touches (s.command slice tag op f) ps := by
  have hsub : [Part.mailboxes] ⊆ ps := by simpa using hmbx
  rw [command_eq_answer h hact]
  have htaken := touches_mono hsub (taken_touches h)
  have hanswer := touches_mono hsub (answer_touches (s := u) slice tag op st 0 info)
  exact touches_trans htaken (touches_trans hu hanswer)

end TakenUp

end Sys2Proof.Machine
end

section
/-! PROOFS. The role and ROLE_SET (R24, R25). -/

namespace Sys2Proof.Machine

variable {s : State}

theorem setRole_last (role : Nat) (epoch : Word32) :
    (s.setRole role epoch).last = { s.last with role := role, roleEpoch := epoch } := by
  unfold State.setRole
  dsimp only
  split <;> rfl

/-- A new role reaches past the Last's part only through the records of guarded messages, which a new RoleEpoch clears
(R441, R442). -/
theorem setRole_touches (role : Nat) (epoch : Word32) : s.touches (s.setRole role epoch) [.last, .trans] := by
  unfold State.setRole
  dsimp only
  intro p hp
  split <;> cases p <;> simp [State.agree, State.guardClear] at hp ⊢

/-- The state that an accepted ROLE_SET leaves, before its answer; its epoch is kept for the loads of later Lasts (R39). -/
def State.roleAccepted (s : State) (role : Nat) (epoch : Word32) : State :=
  { s.setRole role epoch with last.roleSet := some epoch }

theorem roleAccepted_last (role : Nat) (epoch : Word32) :
    (s.roleAccepted role epoch).last = { s.last with role := role, roleEpoch := epoch, roleSet := some epoch } := by
  simp [State.roleAccepted, setRole_last]

theorem roleAccepted_touches (role : Nat) (epoch : Word32) : s.touches (s.roleAccepted role epoch) [.last, .trans] := by
  have hlast : (s.setRole role epoch).touches (s.roleAccepted role epoch) [.last, .trans] := by
    intro p hp
    cases p <;> simp [State.agree, State.roleAccepted] at hp ⊢
  exact touches_trans (setRole_touches role epoch) hlast

/-- What a ROLE_SET does once it is taken up (R25). -/
def roleAction (role : Nat) (epoch : Word32) (s : State) : State × Status × List Nat :=
  if 3 ≤ role ∨ epoch ≤ s.last.roleEpoch then (s, Status.descMalformed, [])
  else (s.roleAccepted role epoch, Status.success, [])

theorem exec_roleSet (slice : Fin 512) (tag : Word32) (role : Nat) (epoch : Word32) (s : State) :
    exec (.roleSet slice tag role epoch) s = .next (s.command slice tag MbxOp.roleSet (roleAction role epoch)) := rfl

theorem roleAction_accepted {role : Nat} {epoch : Word32} (hepoch : s.last.roleEpoch < epoch) (hrole : role < 3) :
    roleAction role epoch s = (s.roleAccepted role epoch, Status.success, []) :=
  if_neg (not_or.mpr ⟨Nat.not_le.mpr hrole, BitVec.not_le.mpr hepoch⟩)

theorem roleAction_refused {role : Nat} {epoch : Word32} (hbad : epoch ≤ s.last.roleEpoch ∨ 3 ≤ role) :
    roleAction role epoch s = (s, Status.descMalformed, []) :=
  if_pos hbad.symm

end Sys2Proof.Machine

open Sys2Proof Sys2Proof.Machine

/-- Settles O47: taking the command up leaves RoleEpoch as it was, so its action falls on the side of the check that the
hypothesis names, and changes only the parts of that side. -/
theorem roleSetNeedsAGreaterEpoch : Obligations.RoleSetNeedsAGreaterEpoch := by
  unfold Obligations.RoleSetNeedsAGreaterEpoch
  intro slice tag role epoch s h
  have hlast := taken_last h
  constructor
  · intro hepoch hrole
    have hact := roleAction_accepted (hlast ▸ hepoch) hrole
    have htlast := command_last h hact
    rw [roleAccepted_last, hlast] at htlast
    refine ⟨_, exec_roleSet slice tag role epoch s, ?_, ?_, ?_, command_hasAnswer h hact, command_touches h hact (by decide) ?_⟩
    · rw [htlast]
    · rw [htlast]
    · rw [htlast]
    · exact touches_mono (by decide) (roleAccepted_touches role epoch)
  · intro hbad
    have hact := roleAction_refused (hlast ▸ hbad)
    exact ⟨_, exec_roleSet slice tag role epoch s, command_hasAnswer h hact, command_touches h hact (by decide) (touches_refl _)⟩
end

section
/-! SUPPORT. Reading an element of a vector after a change of one element. -/

namespace Sys2Proof.Machine

variable {α : Type} {n k : Nat} (v : Vector α n) (f : α → α) (d : α)

theorem vget_vmod_same (hk : k < n) : vget (vmod v k f) k d = f (vget v k d) := by
  simp [vget, vmod, hk]

theorem vget_vmod_other {j : Nat} (hne : j ≠ k) : vget (vmod v k f) j d = vget v j d := by
  unfold vget vmod
  split
  · rw [Vector.getElem?_setIfInBounds_ne hne.symm]
  · rfl

variable (w : Vector α 2) (g : α → α)

/-- Both elements of a pair changed, as the two ports of the far tier are: the first. -/
theorem vget_vmod_both_zero : vget (vmod (vmod w 0 f) 1 g) 0 d = f (vget w 0 d) := by
  rw [vget_vmod_other _ _ _ (by decide), vget_vmod_same _ _ _ (by decide)]

theorem vget_vmod_both_one : vget (vmod (vmod w 0 f) 1 g) 1 d = g (vget w 1 d) := by
  rw [vget_vmod_same _ _ _ (by decide), vget_vmod_other _ _ _ (by decide)]

end Sys2Proof.Machine
end

section
/-! PROOFS. The layout of the far tier and FAR_RESCAN (R308, R311). -/

namespace Sys2Proof.Machine

variable {s : State}

/-! ## The parts that a command leaves to its action -/

section TakenUp

variable {slice : Nat} {tag : Word32} {op : Nat} (h : s.takesUp slice tag op)
include h

theorem taken_mem : (s.taken slice tag op).mem = s.mem :=
  taken_touches h .mem (by decide)

theorem taken_xlate : (s.taken slice tag op).xlate = s.xlate :=
  taken_touches h .xlate (by decide)

theorem command_mem {f : State → State × Status × List Nat} {u : State} {st : Status} {info : List Nat}
    (hact : f (s.taken slice tag op) = (u, st, info)) : (s.command slice tag op f).mem = u.mem := by
  rw [command_eq_answer h hact]
  exact answer_touches slice tag op st 0 info .mem (by decide)

end TakenUp

/-! ## The layout (R308) -/

/-- Port 0 begins at 0 and takes no more than its own limit. -/
theorem layoutFar_port_zero :
    vget s.layoutFar.mem.far 0 {} =
      let p := vget s.mem.far 0 {}
      let d := decodePort p.devices 8192
      { p with baseGiB := 0, ways := d.1, decodedGiB := d.2 } :=
  vget_vmod_both_zero ..

/-- Port 1 begins where port 0 ends and takes what the tier's limit leaves it. -/
theorem layoutFar_port_one :
    vget s.layoutFar.mem.far 1 {} =
      let c := (vget s.layoutFar.mem.far 0 {}).decodedGiB
      let p := vget s.mem.far 1 {}
      let d := decodePort p.devices (min 8192 (12288 - c))
      { p with baseGiB := c, ways := d.1, decodedGiB := d.2 } := by
  rw [layoutFar_port_zero]
  exact vget_vmod_both_one ..

theorem layoutFar_cells : s.layoutFar.mem.cells = s.mem.cells := rfl

theorem layoutFar_touches : s.touches s.layoutFar [.mem] := by
  intro p hp
  cases p <;> simp [State.agree, State.layoutFar] at hp ⊢

/-! ## FAR_RESCAN (R311) -/

/-- A port enumerated again: behind a link that is down there are no devices. -/
def FarPort.enumerate (p : FarPort) (devices : List CxlDevice) : FarPort :=
  { p with devices := if p.linkUp then inPortOrder devices else [], inService := p.linkUp, enumerated := true }

/-- Both ports enumerated again, not yet laid out. -/
def State.enumerateFar (s : State) (devices0 devices1 : List CxlDevice) : State :=
  { s with mem.far := vmod (vmod s.mem.far 0 (·.enumerate devices0)) 1 (·.enumerate devices1) }

/-- What FAR_RESCAN does once it is taken up. -/
def farRescanAction (slice : Nat) (devices0 devices1 : List CxlDevice) (s : State) : State × Status × List Nat :=
  if slice ≠ 0 then (s, Status.localAccess, [])
  else if s.farInUse then (s, Status.busy, [])
  else ((s.enumerateFar devices0 devices1).layoutFar, Status.success, [])

theorem exec_farRescan (slice : Fin 512) (tag : Word32) (devices0 devices1 : List CxlDevice) (s : State) :
    exec (.farRescan slice tag devices0 devices1) s =
      .next (s.command slice tag MbxOp.farRescan (farRescanAction slice devices0 devices1)) := rfl

theorem farInUse_iff : s.farInUse = true ↔ ∃ e ∈ s.xlate.ranges, e.state ≠ .free ∧ e.tier = .far := by
  simp [State.farInUse]

variable {devices0 devices1 : List CxlDevice}

theorem enumerateFar_port_zero :
    vget (s.enumerateFar devices0 devices1).mem.far 0 {} = (vget s.mem.far 0 {}).enumerate devices0 :=
  vget_vmod_both_zero ..

theorem enumerateFar_port_one :
    vget (s.enumerateFar devices0 devices1).mem.far 1 {} = (vget s.mem.far 1 {}).enumerate devices1 :=
  vget_vmod_both_one ..

theorem enumerateFar_cells : (s.enumerateFar devices0 devices1).mem.cells = s.mem.cells := rfl

theorem enumerateFar_touches : s.touches (s.enumerateFar devices0 devices1) [.mem] := by
  intro p hp
  cases p <;> simp [State.agree, State.enumerateFar] at hp ⊢

theorem farRescanAction_success (hfree : ∀ e ∈ s.xlate.ranges, e.state = .free ∨ e.tier ≠ .far) :
    farRescanAction 0 devices0 devices1 s = ((s.enumerateFar devices0 devices1).layoutFar, Status.success, []) := by
  have hunused : ¬s.farInUse = true := by
    rw [farInUse_iff]
    rintro ⟨e, he, hstate, htier⟩
    exact (hfree e he).elim hstate (· htier)
  rw [farRescanAction, if_neg (by decide), if_neg hunused]

theorem farRescanAction_busy {e : RangeEntry} (he : e ∈ s.xlate.ranges) (hstate : e.state ≠ .free) (htier : e.tier = .far) :
    farRescanAction 0 devices0 devices1 s = (s, Status.busy, []) := by
  have hused : s.farInUse = true := farInUse_iff.mpr ⟨e, he, hstate, htier⟩
  rw [farRescanAction, if_neg (by decide), if_pos hused]

theorem farRescanAction_localAccess {slice : Nat} (hslice : slice ≠ 0) :
    farRescanAction slice devices0 devices1 s = (s, Status.localAccess, []) :=
  if_pos hslice

end Sys2Proof.Machine

open Sys2Proof Sys2Proof.Machine

/-- Settles O52: taking the command up leaves the regions and the ports as they were, so the action falls on the side that each
clause names; an accepted one enumerates both ports and then lays them out, port 1 behind port 0. -/
theorem farRescanRebuildsTheLayout : Obligations.FarRescanRebuildsTheLayout := by
  unfold Obligations.FarRescanRebuildsTheLayout
  refine ⟨fun tag d0 d1 s h hfree => ?_, fun tag d0 d1 e s h he hstate htier => ?_, fun slice tag d0 d1 s h hslice => ?_⟩
  · have hact := farRescanAction_success (devices0 := d0) (devices1 := d1) ((taken_xlate h).symm ▸ hfree)
    have hmem := command_mem h hact
    refine ⟨s.command 0 tag MbxOp.farRescan (farRescanAction 0 d0 d1), exec_farRescan 0 tag d0 d1 s, command_hasAnswer h hact, ?_⟩
    rw [hmem, layoutFar_port_one, layoutFar_port_zero, enumerateFar_port_zero, enumerateFar_port_one, layoutFar_cells,
      enumerateFar_cells, taken_mem h]
    refine ⟨rfl, rfl, rfl, rfl, rfl, rfl, rfl, rfl, rfl, command_touches h hact (by decide) ?_⟩
    exact touches_mono (by decide) (touches_trans enumerateFar_touches layoutFar_touches)
  · have hact := farRescanAction_busy (devices0 := d0) (devices1 := d1) ((taken_xlate h).symm ▸ he) hstate htier
    exact ⟨s.command 0 tag MbxOp.farRescan (farRescanAction 0 d0 d1), exec_farRescan 0 tag d0 d1 s, command_hasAnswer h hact,
      command_touches h hact (by decide) (touches_refl _)⟩
  · have hact := farRescanAction_localAccess (s := s.taken slice tag MbxOp.farRescan) (devices0 := d0) (devices1 := d1)
      (Fin.val_ne_of_ne hslice)
    exact ⟨_, exec_farRescan slice tag d0 d1 s, command_hasAnswer h hact, command_touches h hact (by decide) (touches_refl _)⟩
end

section
/-! PROOFS. The root digest and KEY_ROOT_SET (R415, R420). -/

namespace Sys2Proof.Machine

variable {s : State}

/-! ## The key store under a command -/

section TakenUp

variable {slice : Nat} {tag : Word32} {op : Nat} (h : s.takesUp slice tag op)
include h

theorem taken_keys : (s.taken slice tag op).keys = s.keys :=
  taken_touches h .keys (by decide)

theorem command_keys {f : State → State × Status × List Nat} {u : State} {st : Status} {info : List Nat}
    (hact : f (s.taken slice tag op) = (u, st, info)) : (s.command slice tag op f).keys = u.keys := by
  rw [command_eq_answer h hact, answer_keys]

end TakenUp

/-! ## KEY_ROOT_SET -/

variable {digest : BitVec 384}

/-- The state that an accepted KEY_ROOT_SET leaves, before its answer. -/
def State.installRoot (s : State) (digest : BitVec 384) : State := { s with keys.rootDigest := some digest }

theorem installRoot_keys : (s.installRoot digest).keys = { s.keys with rootDigest := some digest } := rfl

theorem installRoot_touches : s.touches (s.installRoot digest) [.keys] := by
  intro p hp
  cases p <;> simp [State.agree, State.installRoot] at hp ⊢

/-- What a KEY_ROOT_SET does once it is taken up (R415, R420). -/
def keyRootAction (slice : Fin 512) (digest : BitVec 384) (s : State) : State × Status × List Nat :=
  if slice ≠ 0 then (s, Status.localAccess, [])
  else if s.keys.rootDigest.isSome then (s, Status.busy, [])
  else (s.installRoot digest, Status.success, [])

theorem exec_keyRootSet (slice : Fin 512) (tag : Word32) (digest : BitVec 384) (s : State) :
    exec (.keyRootSet slice tag digest) s =
      .next (s.command slice tag MbxOp.keyRootSet (keyRootAction slice digest)) := rfl

theorem keyRootAction_success (hroot : s.keys.rootDigest = none) :
    keyRootAction 0 digest s = (s.installRoot digest, Status.success, []) := by
  simp [keyRootAction, hroot]

theorem keyRootAction_busy {old : BitVec 384} (hroot : s.keys.rootDigest = some old) :
    keyRootAction 0 digest s = (s, Status.busy, []) := by
  simp [keyRootAction, hroot]

theorem keyRootAction_localAccess {slice : Fin 512} (hslice : slice ≠ 0) :
    keyRootAction slice digest s = (s, Status.localAccess, []) :=
  if_pos hslice

/-! ## MOD_RESET_N -/

theorem stopUnits_rootDigest (s : State) : s.stopUnits.keys.rootDigest = none := rfl

theorem exec_modResetNAssert_of_resetN (hreset : s.board.resetN = true) :
    exec .modResetNAssert s = .next { s.stopUnits with board.resetN := false } :=
  if_pos hreset

end Sys2Proof.Machine

open Sys2Proof Sys2Proof.Machine

/-- Settles O53: taking the command up leaves the root digest as it was, so the action falls on the side that each clause names;
only an accepted one changes the key store, and a reset leaves a key store without a digest. -/
theorem keyRootIsSetOnceAfterReset : Obligations.KeyRootIsSetOnceAfterReset := by
  unfold Obligations.KeyRootIsSetOnceAfterReset
  refine ⟨fun tag dg s h hroot => ?_, fun tag dg old s h hroot => ?_, fun slice tag dg s h hslice => ?_, fun s hreset => ?_⟩
  · have hkeys := taken_keys h
    have hact := keyRootAction_success (digest := dg) (hkeys.symm ▸ hroot)
    have htkeys := command_keys h hact
    rw [installRoot_keys, hkeys] at htkeys
    exact ⟨_, exec_keyRootSet 0 tag dg s, htkeys, command_hasAnswer h hact,
      command_touches h hact (by decide) (touches_mono (by decide) installRoot_touches)⟩
  · have hact := keyRootAction_busy (digest := dg) ((taken_keys h).symm ▸ hroot)
    exact ⟨_, exec_keyRootSet 0 tag dg s, command_hasAnswer h hact, command_touches h hact (by decide) (touches_refl _)⟩
  · have hact := keyRootAction_localAccess (s := s.taken slice tag MbxOp.keyRootSet) (digest := dg) hslice
    exact ⟨_, exec_keyRootSet slice tag dg s, command_hasAnswer h hact, command_touches h hact (by decide) (touches_refl _)⟩
  · exact ⟨_, exec_modResetNAssert_of_resetN hreset, stopUnits_rootDigest s⟩
end

section
/-! SUPPORT. What every operation of the model keeps, in one relation: a state moves to another within some parts. -/

set_option Elab.async false

namespace Sys2Proof.Machine

/-! ## The relation -/

/-- The highest position of which one holds rises with the positions. -/
theorem foldl_highest_le (p q : Nat → Bool) (hpq : ∀ k, p k = true → q k = true) (n : Nat) :
    (List.range n).foldl (fun v k => if p k then k + 1 else v) 0 ≤ n
      ∧ (List.range n).foldl (fun v k => if p k then k + 1 else v) 0
        ≤ (List.range n).foldl (fun v k => if q k then k + 1 else v) 0 := by
  induction n with
  | zero => simp
  | succ n ih =>
    obtain ⟨hn, hle⟩ := ih
    simp only [List.range_succ, List.foldl_append, List.foldl_cons, List.foldl_nil]
    by_cases hp : p n = true
    · simp [hp, hpq n hp]
    · rw [if_neg hp]
      refine ⟨by omega, ?_⟩
      split <;> omega

/-- Fuses that are blown on read no lower version than before (R450, R451). -/
theorem Thermo.version_le_blow (f : Thermo) (v : Nat) : f.version ≤ (f.blow v).version := by
  refine (foldl_highest_le (fun k => f.bits.getLsbD k || f.twins.getLsbD k)
    (fun k => (f.blow v).bits.getLsbD k || (f.blow v).twins.getLsbD k) (fun k hk => ?_) 64).2
  simp only [Thermo.blow, BitVec.getLsbD_or, Bool.or_eq_true] at hk ⊢
  tauto

/-- The copy of the LMS state in use is valid, and the other one is not, or is older, or is copy 1 of the same age (R456). -/
theorem lmsInUse_cases {b : BootState} {k : Nat} (hk : b.lmsInUse = some k) :
    (k = 0 ∧ (vget b.lms 0 {}).good = true ∧ ((vget b.lms 1 {}).good = false ∨ (vget b.lms 1 {}).seq < (vget b.lms 0 {}).seq))
      ∨ (k = 1 ∧ (vget b.lms 1 {}).good = true ∧ ((vget b.lms 0 {}).good = false ∨ (vget b.lms 0 {}).seq ≤ (vget b.lms 1 {}).seq)) := by
  unfold BootState.lmsInUse at hk
  dsimp only at hk
  split at hk
  · rename_i h
    cases hk
    simpa using h
  · rename_i h
    split at hk
    · rename_i h1
      cases hk
      simp only [h1, not_and_or] at h
      refine .inr ⟨rfl, h1, ?_⟩
      simpa using h
    · cases hk

/-- The next index of the top tree, once it is known which copy is in use. -/
theorem topNext_of_inUse {b : BootState} {k : Nat} (hk : b.lmsInUse = some k) : b.topNext = (vget b.lms k {}).next := by
  simp [BootState.topNext, hk]

theorem vget_vset_same {α : Type} {n : Nat} (v : Vector α n) (k : Nat) (x d : α) (hk : k < n) : vget (vset v k x) k d = x := by
  simp [vget, vset, hk]

theorem vget_vset_other {α : Type} {n : Nat} (v : Vector α n) (k j : Nat) (x d : α) (hjk : j ≠ k) :
    vget (vset v k x) j d = vget v j d := by
  simp [vget, vset, Ne.symm hjk]

/-- A written copy with the next index and the next sequence number is in use from then on. -/
theorem topNext_advanced {b : BootState} {k : Nat} (hk : b.lmsInUse = some k) {c : BootState}
    (hc : c.lms = vset b.lms (1 - k) { next := (vget b.lms k {}).next + 1, seq := (vget b.lms k {}).seq + 1 } := by rfl) :
    c.topNext = b.topNext + 1 := by
  rcases lmsInUse_cases hk with ⟨rfl, hgood, -⟩ | ⟨rfl, hgood, -⟩
  · have h0 : vget c.lms 0 {} = vget b.lms 0 {} := by rw [hc]; exact vget_vset_other _ _ _ _ _ (by decide)
    have h1 : vget c.lms 1 {} = { next := (vget b.lms 0 {}).next + 1, seq := (vget b.lms 0 {}).seq + 1 } := by
      rw [hc]; exact vget_vset_same _ _ _ _ (by decide)
    have hin : c.lmsInUse = some 1 := by simp [BootState.lmsInUse, h0, h1]
    rw [topNext_of_inUse hk, topNext_of_inUse hin, h1]
  · have h1 : vget c.lms 1 {} = vget b.lms 1 {} := by rw [hc]; exact vget_vset_other _ _ _ _ _ (by decide)
    have h0 : vget c.lms 0 {} = { next := (vget b.lms 1 {}).next + 1, seq := (vget b.lms 1 {}).seq + 1 } := by
      rw [hc]; exact vget_vset_same _ _ _ _ (by decide)
    have hin : c.lmsInUse = some 0 := by simp [BootState.lmsInUse, h0, h1]
    rw [topNext_of_inUse hk, topNext_of_inUse hin, h0]

theorem topNext_le_advanced {b : BootState} {k : Nat} (hk : b.lmsInUse = some k) {c : BootState}
    (hc : c.lms = vset b.lms (1 - k) { next := (vget b.lms k {}).next + 1, seq := (vget b.lms k {}).seq + 1 } := by rfl) :
    b.topNext ≤ c.topNext := by
  rw [topNext_advanced hk hc]
  exact Nat.le_succ _

/-- A copy that could not be written is not valid, and the one in use stays so. -/
theorem topNext_failed {b : BootState} {k : Nat} (hk : b.lmsInUse = some k) {c : BootState}
    (hc : c.lms = vset b.lms (1 - k) { good := false } := by rfl) : c.topNext = b.topNext := by
  rcases lmsInUse_cases hk with ⟨rfl, hgood, -⟩ | ⟨rfl, hgood, -⟩
  · have h0 : vget c.lms 0 {} = vget b.lms 0 {} := by rw [hc]; exact vget_vset_other _ _ _ _ _ (by decide)
    have h1 : vget c.lms 1 {} = { good := false } := by rw [hc]; exact vget_vset_same _ _ _ _ (by decide)
    have hin : c.lmsInUse = some 0 := by simp [BootState.lmsInUse, h0, h1, hgood]
    rw [topNext_of_inUse hk, topNext_of_inUse hin, h0]
  · have h1 : vget c.lms 1 {} = vget b.lms 1 {} := by rw [hc]; exact vget_vset_other _ _ _ _ _ (by decide)
    have h0 : vget c.lms 0 {} = { good := false } := by rw [hc]; exact vget_vset_same _ _ _ _ (by decide)
    have hin : c.lmsInUse = some 1 := by simp [BootState.lmsInUse, h0, h1, hgood]
    rw [topNext_of_inUse hk, topNext_of_inUse hin, h1]

theorem topNext_le_failed {b : BootState} {k : Nat} (hk : b.lmsInUse = some k) {c : BootState}
    (hc : c.lms = vset b.lms (1 - k) { good := false } := by rfl) : b.topNext ≤ c.topNext :=
  (topNext_failed hk hc).ge

/-- What fuses and the flash guard: nothing that is blown, enrolled or used up comes back (R451, R452, R454). -/
structure BootState.Keeps (b c : BootState) : Prop where
  stage : b.fuseStage ≤ c.fuseStage
  fw : b.fuseFw ≤ c.fuseFw
  last : b.fuseLast ≤ c.fuseLast
  owners : b.ownerDigests <+: c.ownerDigests
  spare : b.spareKey = true → c.spareKey = true
  top : b.topNext ≤ c.topNext

theorem BootState.Keeps.refl (b : BootState) : b.Keeps b :=
  ⟨le_rfl, le_rfl, le_rfl, List.prefix_rfl, id, le_rfl⟩

theorem BootState.Keeps.trans {b c d : BootState} (h : b.Keeps c) (h' : c.Keeps d) : b.Keeps d where
  stage := h.stage.trans h'.stage
  fw := h.fw.trans h'.fw
  last := h.last.trans h'.last
  owners := h.owners.trans h'.owners
  spare := h'.spare ∘ h.spare
  top := h.top.trans h'.top

/-- A change that leaves the guarded fields alone. -/
theorem BootState.Keeps.of_eq {b c : BootState} (hstage : c.stageFuses = b.stageFuses := by rfl)
    (hfw : c.fwFuses = b.fwFuses := by rfl) (hlast : c.lastFuses = b.lastFuses := by rfl)
    (howners : c.ownerDigests = b.ownerDigests := by rfl) (hspare : c.spareKey = b.spareKey := by rfl)
    (hlms : c.lms = b.lms := by rfl) : b.Keeps c where
  stage := by simp [BootState.fuseStage, hstage]
  fw := by simp [BootState.fuseFw, hfw]
  last := by simp [BootState.fuseLast, hlast]
  owners := by simp [howners]
  spare := by simp [hspare]
  top := by simp [BootState.topNext, BootState.lmsInUse, hlms]

/-- The thermal state and the capping step, with what they wait on (R495, R499). -/
def PowerState.levels (p : PowerState) : ThermalState × Option Nat × Nat × Bool × Option Nat :=
  (p.thermal, p.coolSince, p.capStep, p.capUnmet, p.underSince)

/-- From `s` to `t` only these parts have changed; what was sent stays sent, memory stays canonical and the boot state keeps
what it may not lose. The thermal state and the capping step change only where the firmware's part may, as a new emergency aborts
a handover (R485). -/
structure State.Moves (s t : State) (parts : List Part) : Prop where
  frame : s.touches t parts
  sent : s.out <+: t.out
  canon : s.memOk = true → t.memOk = true
  boot : s.boot.Keeps t.boot
  levels : .fw ∉ parts → t.power.levels = s.power.levels

variable {s t u : State} {ps qs : List Part}

theorem State.Moves.refl : s.Moves s ps := ⟨touches_refl ps, List.prefix_rfl, id, .refl _, fun _ => rfl⟩

theorem State.Moves.trans (h : s.Moves t ps) (h' : t.Moves u ps) : s.Moves u ps :=
  ⟨touches_trans h.frame h'.frame, h.sent.trans h'.sent, h'.canon ∘ h.canon, h.boot.trans h'.boot,
    fun hfw => (h'.levels hfw).trans (h.levels hfw)⟩

theorem State.Moves.mono (h : s.Moves t ps) (hsub : ∀ p ∈ ps, p ∈ qs := by decide) : s.Moves t qs :=
  ⟨touches_mono hsub h.frame, h.sent, h.canon, h.boot, fun hfw => h.levels (hfw ∘ hsub _)⟩

/-- One more operation after a move. -/
theorem State.Moves.then (h : s.Moves t ps) (h' : t.Moves u qs) (hsub : ∀ p ∈ qs, p ∈ ps := by decide) : s.Moves u ps :=
  h.trans (h'.mono hsub)

theorem State.Moves.ite {c : Prop} [Decidable c] (ht : s.Moves t ps) (hu : s.Moves u ps) : s.Moves (if c then t else u) ps := by
  split
  · exact ht
  · exact hu

theorem State.Moves.pair {α : Type} {a : α} (h : s.Moves t ps) : s.Moves (t, a).1 ps := h

theorem State.Moves.iteFst {α : Type} {c : Prop} [Decidable c] {x y : State × α} (hx : s.Moves x.1 ps) (hy : s.Moves y.1 ps) :
    s.Moves (if c then x else y).1 ps := by
  split
  · exact hx
  · exact hy

theorem State.Moves.elim {α : Type} {o : Option α} {f : α → State} (ht : s.Moves t ps) (hf : ∀ x, s.Moves (f x) ps) :
    s.Moves (o.elim t f) ps := by
  cases o with
  | none => exact ht
  | some x => exact hf x

/-- A step that is repeated for every element of a list. -/
theorem State.Moves.foldl {α : Type} {f : State → α → State} {l : List α} (h : s.Moves t ps)
    (hf : ∀ (t : State) (x : α), t.Moves (f t x) ps) :
    s.Moves (l.foldl f t) ps := by
  induction l generalizing t with
  | nil => exact h
  | cons x r ih => exact ih (h.trans (hf t x))

/-- The state of a pair that an operation answers. -/
theorem State.Moves.ofPair {α : Type} {p : State × α} {a : α} (hp : p = (t, a)) (h : s.Moves p.1 ps) : s.Moves t ps := by
  rwa [hp] at h

/-- Such a step whose state is carried in a pair. -/
theorem State.Moves.foldlFst {α β : Type} {f : State × β → α → State × β} {l : List α} {p : State × β} (h : s.Moves p.1 ps)
    (hf : ∀ (p : State × β) (x : α), p.1.Moves (f p x).1 ps) : s.Moves (l.foldl f p).1 ps := by
  induction l generalizing p with
  | nil => exact h
  | cons x r ih => exact ih (h.trans (hf p x))

/-- A command answers a next state, reached within these parts. -/
def State.Answers (s : State) (r : Result) (parts : List Part) : Prop := ∃ t, r = .next t ∧ s.Moves t parts

theorem State.Answers.next (h : s.Moves t ps) : s.Answers (.next t) ps := ⟨t, rfl, h⟩

theorem State.Answers.ite {c : Prop} [Decidable c] {x y : Result} (hx : s.Answers x ps) (hy : s.Answers y ps) :
    s.Answers (if c then x else y) ps := by
  split
  · exact hx
  · exact hy

theorem State.Answers.mono {r : Result} (h : s.Answers r ps) (hsub : ∀ p ∈ ps, p ∈ qs := by decide) : s.Answers r qs :=
  let ⟨t, hr, ht⟩ := h
  ⟨t, hr, ht.mono hsub⟩

/-- A command that goes on from a state that its first operations have reached. -/
theorem State.Moves.answers {r : Result} (h : s.Moves t ps) (h' : t.Answers r ps) : s.Answers r ps :=
  let ⟨u, hr, hu⟩ := h'
  ⟨u, hr, h.trans hu⟩

/-! ## One part replaced -/

variable (s)

/-- A change that leaves what was sent, the memory's cells, the boot state and the levels of power alone. -/
theorem record_moves (h : s.touches t ps) (ho : t.out = s.out := by rfl) (hm : t.mem.cells = s.mem.cells := by rfl)
    (hb : t.boot = s.boot := by rfl) (hl : t.power.levels = s.power.levels := by rfl) : s.Moves t ps where
  frame := h
  sent := by rw [ho]
  canon := by simp [State.memOk, hm]
  boot := hb ▸ .refl _
  levels _ := hl

theorem setFreeCount_moves (x : Nat) : s.Moves { s with freeCount := x } [.free] :=
  record_moves s (by intro p hp; cases p <;> simp [State.agree] at hp ⊢)

theorem setRegs_moves (x : List ((Nat × Nat) × Word64)) : s.Moves { s with regs := x } [.regs] :=
  record_moves s (by intro p hp; cases p <;> simp [State.agree] at hp ⊢)

theorem setTime_moves (x : TimeState) : s.Moves { s with time := x } [.time] :=
  record_moves s (by intro p hp; cases p <;> simp [State.agree] at hp ⊢)

theorem setBoard_moves (x : BoardState) : s.Moves { s with board := x } [.board] :=
  record_moves s (by intro p hp; cases p <;> simp [State.agree] at hp ⊢)

theorem setPower_moves (x : PowerState) (hx : x.levels = s.power.levels := by rfl) : s.Moves { s with power := x } [.power] :=
  record_moves s (by intro p hp; cases p <;> simp [State.agree] at hp ⊢) rfl rfl rfl hx

theorem setLevels_moves (x : PowerState) : s.Moves { s with power := x } [.power, .fw] where
  frame := by intro p hp; cases p <;> simp [State.agree] at hp ⊢
  sent := List.prefix_rfl
  canon := id
  boot := .refl _
  levels hfw := absurd (by decide) hfw

theorem setFw_moves (x : FwState) : s.Moves { s with fw := x } [.fw] :=
  record_moves s (by intro p hp; cases p <;> simp [State.agree] at hp ⊢)

theorem setLast_moves (x : LastState) : s.Moves { s with last := x } [.last] :=
  record_moves s (by intro p hp; cases p <;> simp [State.agree] at hp ⊢)

theorem setXlate_moves (x : XlateState) : s.Moves { s with xlate := x } [.xlate] :=
  record_moves s (by intro p hp; cases p <;> simp [State.agree] at hp ⊢)

theorem setQueue_moves (x : QueueState) : s.Moves { s with queue := x } [.queue] :=
  record_moves s (by intro p hp; cases p <;> simp [State.agree] at hp ⊢)

theorem setTrans_moves (x : TransState) : s.Moves { s with trans := x } [.trans] :=
  record_moves s (by intro p hp; cases p <;> simp [State.agree] at hp ⊢)

theorem setPorts_moves (x : Vector Port 10) : s.Moves { s with ports := x } [.ports] :=
  record_moves s (by intro p hp; cases p <;> simp [State.agree] at hp ⊢)

theorem setFilters_moves (x : List (Nat × FilterRec)) : s.Moves { s with filters := x } [.filters] :=
  record_moves s (by intro p hp; cases p <;> simp [State.agree] at hp ⊢)

theorem setIngress_moves (x : List Held) : s.Moves { s with ingress := x } [.ingress] :=
  record_moves s (by intro p hp; cases p <;> simp [State.agree] at hp ⊢)

theorem setBypass_moves (x : Bypass) : s.Moves { s with bypass := x } [.bypass] :=
  record_moves s (by intro p hp; cases p <;> simp [State.agree] at hp ⊢)

theorem setRoute_moves (x : RouteState) : s.Moves { s with route := x } [.route] :=
  record_moves s (by intro p hp; cases p <;> simp [State.agree] at hp ⊢)

theorem setWork_moves (x : WorkState) : s.Moves { s with work := x } [.work] :=
  record_moves s (by intro p hp; cases p <;> simp [State.agree] at hp ⊢)

theorem setSlices_moves (x : Vector Slice 512) : s.Moves { s with slices := x } [.slices] :=
  record_moves s (by intro p hp; cases p <;> simp [State.agree] at hp ⊢)

theorem setDirtyLogs_moves (x : List DirtyLog) : s.Moves { s with dirtyLogs := x } [.dirtyLogs] :=
  record_moves s (by intro p hp; cases p <;> simp [State.agree] at hp ⊢)

theorem setMailboxes_moves (x : List (Nat × Mailbox)) : s.Moves { s with mailboxes := x } [.mailboxes] :=
  record_moves s (by intro p hp; cases p <;> simp [State.agree] at hp ⊢)

theorem setHost_moves (x : Vector HostPort 2) : s.Moves { s with host := x } [.host] :=
  record_moves s (by intro p hp; cases p <;> simp [State.agree] at hp ⊢)

theorem setHostReads_moves (x : List HostRead) : s.Moves { s with hostReads := x } [.hostReads] :=
  record_moves s (by intro p hp; cases p <;> simp [State.agree] at hp ⊢)

theorem setKeys_moves (x : KeyStoreState) : s.Moves { s with keys := x } [.keys] :=
  record_moves s (by intro p hp; cases p <;> simp [State.agree] at hp ⊢)

theorem setChecks_moves (x : List CheckCtx) : s.Moves { s with checks := x } [.checks] :=
  record_moves s (by intro p hp; cases p <;> simp [State.agree] at hp ⊢)

theorem setMem_moves (m : MemState) (hm : m.cells = s.mem.cells := by rfl) : s.Moves { s with mem := m } [.mem] :=
  record_moves s (by intro p hp; cases p <;> simp [State.agree] at hp ⊢) rfl hm

/-- Cells that are canonical where those before were. -/
theorem setCells_moves (m : MemState) (hm : Memory.wf s.mem.cells = true → Memory.wf m.cells = true) :
    s.Moves { s with mem := m } [.mem] where
  frame := by intro p hp; cases p <;> simp [State.agree] at hp ⊢
  sent := List.prefix_rfl
  canon := hm
  boot := .refl _
  levels _ := rfl

theorem setBoot_moves (b : BootState) (hb : s.boot.Keeps b := by exact .of_eq) : s.Moves { s with boot := b } [.boot] where
  frame := by intro p hp; cases p <;> simp [State.agree] at hp ⊢
  sent := List.prefix_rfl
  canon := id
  boot := hb
  levels _ := rfl

theorem emit_moves (o : Output) : s.Moves (s.emit o) [.out] where
  frame := by intro p hp; cases p <;> simp [State.agree] at hp ⊢
  sent := List.prefix_append ..
  canon := id
  boot := .refl _
  levels _ := rfl

end Sys2Proof.Machine
end

section
/-! SUPPORT. What each operation of the model moves, in the order of the model's files: the parts it may change, with what `State.Moves`
says of all of them. The operations are many and their proofs independent; they are elaborated one after another. -/

set_option Elab.async false

namespace Sys2Proof.Machine

/-! ### Records with several parts changed -/

theorem setXlateHostReads_moves (s : State) (x0 : XlateState) (x1 : List HostRead) :
    s.Moves { s with xlate := x0, hostReads := x1 } [.xlate, .hostReads] :=
  (setXlate_moves _ x0).mono.then (setHostReads_moves _ x1)

theorem setQueueTrans_moves (s : State) (x0 : QueueState) (x1 : TransState) :
    s.Moves { s with queue := x0, trans := x1 } [.queue, .trans] :=
  (setQueue_moves _ x0).mono.then (setTrans_moves _ x1)

theorem setMemTrans_moves (s : State) (m : MemState) (x1 : TransState) (hm : m.cells = s.mem.cells := by rfl) :
    s.Moves { s with mem := m, trans := x1 } [.mem, .trans] :=
  (setMem_moves _ m hm).mono.then (setTrans_moves _ x1)

theorem setXlateWork_moves (s : State) (x0 : XlateState) (x1 : WorkState) :
    s.Moves { s with xlate := x0, work := x1 } [.xlate, .work] :=
  (setXlate_moves _ x0).mono.then (setWork_moves _ x1)

theorem setBootFw_moves (s : State) (b : BootState) (x1 : FwState) (hb : s.boot.Keeps b := by exact .of_eq) :
    s.Moves { s with boot := b, fw := x1 } [.boot, .fw] :=
  (setBoot_moves _ b hb).mono.then (setFw_moves _ x1)

theorem setXlateQueueTransWorkSlicesChecks_moves (s : State) (x0 : XlateState) (x1 : QueueState) (x2 : TransState) (x3 : WorkState)
    (x4 : Vector Slice 512) (x5 : List CheckCtx) :
    s.Moves { s with xlate := x0, queue := x1, trans := x2, work := x3, slices := x4, checks := x5 } [.xlate, .queue, .trans, .work,
        .slices, .checks] :=
  (setXlate_moves _ x0).mono.then (setQueue_moves _ x1) |>.then (setTrans_moves _ x2) |>.then (setWork_moves _ x3)
      |>.then (setSlices_moves _ x4) |>.then (setChecks_moves _ x5)

theorem setTimeWork_moves (s : State) (x0 : TimeState) (x1 : WorkState) :
    s.Moves { s with time := x0, work := x1 } [.time, .work] :=
  (setTime_moves _ x0).mono.then (setWork_moves _ x1)

theorem setQueueTransKeys_moves (s : State) (x0 : QueueState) (x1 : TransState) (x2 : KeyStoreState) :
    s.Moves { s with queue := x0, trans := x1, keys := x2 } [.queue, .trans, .keys] :=
  (setQueue_moves _ x0).mono.then (setTrans_moves _ x1) |>.then (setKeys_moves _ x2)

theorem setMemXlate_moves (s : State) (m : MemState) (x1 : XlateState) (hm : m.cells = s.mem.cells := by rfl) :
    s.Moves { s with mem := m, xlate := x1 } [.mem, .xlate] :=
  (setMem_moves _ m hm).mono.then (setXlate_moves _ x1)

theorem setXlateHost_moves (s : State) (x0 : XlateState) (x1 : Vector HostPort 2) :
    s.Moves { s with xlate := x0, host := x1 } [.xlate, .host] :=
  (setXlate_moves _ x0).mono.then (setHost_moves _ x1)

theorem setQueueTransFilters_moves (s : State) (x0 : QueueState) (x1 : TransState) (x2 : List (Nat × FilterRec)) :
    s.Moves { s with queue := x0, trans := x1, filters := x2 } [.queue, .trans, .filters] :=
  (setQueue_moves _ x0).mono.then (setTrans_moves _ x1) |>.then (setFilters_moves _ x2)

theorem setXlateQueueTrans_moves (s : State) (x0 : XlateState) (x1 : QueueState) (x2 : TransState) :
    s.Moves { s with xlate := x0, queue := x1, trans := x2 } [.xlate, .queue, .trans] :=
  (setXlate_moves _ x0).mono.then (setQueue_moves _ x1) |>.then (setTrans_moves _ x2)

theorem setTimeBoardPower_moves (s : State) (x0 : TimeState) (x1 : BoardState) (x2 : PowerState) :
    s.Moves { s with time := x0, board := x1, power := x2 } [.time, .board, .power, .fw] :=
  (setTime_moves _ x0).mono.then (setBoard_moves _ x1) |>.then (setLevels_moves _ x2)

theorem setXlateQueue_moves (s : State) (x0 : XlateState) (x1 : QueueState) :
    s.Moves { s with xlate := x0, queue := x1 } [.xlate, .queue] :=
  (setXlate_moves _ x0).mono.then (setQueue_moves _ x1)

theorem setFwWork_moves (s : State) (x0 : FwState) (x1 : WorkState) :
    s.Moves { s with fw := x0, work := x1 } [.fw, .work] :=
  (setFw_moves _ x0).mono.then (setWork_moves _ x1)

theorem setBoardPower_moves (s : State) (x0 : BoardState) (x1 : PowerState) :
    s.Moves { s with board := x0, power := x1 } [.board, .power, .fw] :=
  (setBoard_moves _ x0).mono.then (setLevels_moves _ x1)

theorem setQueueFiltersKeysChecks_moves (s : State) (x0 : QueueState) (x1 : List (Nat × FilterRec)) (x2 : KeyStoreState)
    (x3 : List CheckCtx) :
    s.Moves { s with queue := x0, filters := x1, keys := x2, checks := x3 } [.queue, .filters, .keys, .checks] :=
  (setQueue_moves _ x0).mono.then (setFilters_moves _ x1) |>.then (setKeys_moves _ x2) |>.then (setChecks_moves _ x3)

theorem setLastWorkChecks_moves (s : State) (x0 : LastState) (x1 : WorkState) (x2 : List CheckCtx) :
    s.Moves { s with last := x0, work := x1, checks := x2 } [.last, .work, .checks] :=
  (setLast_moves _ x0).mono.then (setWork_moves _ x1) |>.then (setChecks_moves _ x2)

theorem setTimeBoard_moves (s : State) (x0 : TimeState) (x1 : BoardState) :
    s.Moves { s with time := x0, board := x1 } [.time, .board] :=
  (setTime_moves _ x0).mono.then (setBoard_moves _ x1)

theorem setQueueTransHost_moves (s : State) (x0 : QueueState) (x1 : TransState) (x2 : Vector HostPort 2) :
    s.Moves { s with queue := x0, trans := x1, host := x2 } [.queue, .trans, .host] :=
  (setQueue_moves _ x0).mono.then (setTrans_moves _ x1) |>.then (setHost_moves _ x2)

theorem setBootFwWork_moves (s : State) (b : BootState) (x1 : FwState) (x2 : WorkState) (hb : s.boot.Keeps b := by exact .of_eq) :
    s.Moves { s with boot := b, fw := x1, work := x2 } [.boot, .fw, .work] :=
  (setBoot_moves _ b hb).mono.then (setFw_moves _ x1) |>.then (setWork_moves _ x2)

theorem setBootLast_moves (s : State) (b : BootState) (x1 : LastState) (hb : s.boot.Keeps b := by exact .of_eq) :
    s.Moves { s with boot := b, last := x1 } [.boot, .last] :=
  (setBoot_moves _ b hb).mono.then (setLast_moves _ x1)

/-! ### The operations of Machine/Ops.lean -/

theorem advanceFree_moves (s : State) :
    s.Moves (s.advanceFree) [.free] := by
  unfold State.advanceFree
  exact setFreeCount_moves _ _

theorem setRawReg_moves (s : State) (r : Reg) (k : Nat) (w : Word64) :
    s.Moves (s.setRawReg r k w) [.regs] := by
  unfold State.setRawReg
  exact setRegs_moves _ _

theorem setFld_moves (s : State) (f : Fld) (k : Nat) (v : Nat) :
    s.Moves (s.setFld f k v) [.regs] := by
  unfold State.setFld
  exact setRawReg_moves ..

theorem bumpBy_moves (s : State) (f : Fld) (k : Nat) (n : Nat) :
    s.Moves (s.bumpBy f k n) [.regs] := by
  unfold State.bumpBy
  exact setFld_moves ..

theorem bump_moves (s : State) (f : Fld) (k : Nat) :
    s.Moves (s.bump f k) [.regs] := by
  unfold State.bump
  exact bumpBy_moves ..

theorem raise_moves (s : State) (e : Event) :
    s.Moves (s.raise e) [.queue] := by
  unfold State.raise
  exact setQueue_moves _ _

theorem modSlice_moves (s : State) (k : Nat) (f : Slice → Slice) :
    s.Moves (s.modSlice k f) [.slices] := by
  unfold State.modSlice
  exact setSlices_moves _ _

theorem setSleep_moves (s : State) (c : Nat) (x : SleepState) :
    s.Moves (s.setSleep c x) [.power] := by
  unfold State.setSleep
  exact setPower_moves _ _

theorem wakeCluster_moves (s : State) (c : Nat) :
    s.Moves (s.wakeCluster c) [.regs, .power] := by
  unfold State.wakeCluster
  refine .ite .refl ?_
  dsimp -proj only
  refine .then ?_ (setSleep_moves ..)
  exact .ite (bump_moves ..).mono .refl

theorem wakeAll_moves (s : State) (l : List Nat) :
    s.Moves (s.wakeAll l) [.regs, .power] := by
  unfold State.wakeAll
  exact .foldl .refl (fun t x => (wakeCluster_moves ..))

theorem modFunc_moves (s : State) (f : Func) (g : FuncState → FuncState) :
    s.Moves (s.modFunc f g) [.host] := by
  unfold State.modFunc
  exact setHost_moves _ _

theorem aerNote_moves (s : State) (f : Func) (bit : Nat) :
    s.Moves (s.aerNote f bit) [.host] := by
  unfold State.aerNote
  exact modFunc_moves ..

/-! ### The operations of Machine/ArbOps.lean -/

theorem commitReg_moves (s : State) (r : Reg) (k : Nat) :
    s.Moves (s.commitReg r k) [.regs] := by
  unfold State.commitReg
  exact setRawReg_moves ..

theorem shankUse_moves (s : State) (r : Nat) (offset : Nat) (length : Nat) :
    s.Moves (s.shankUse r offset length) [.mem] := by
  unfold State.shankUse
  exact setMem_moves _ _

theorem shankLock_moves (s : State) (r : Nat) (offset : Nat) :
    s.Moves (s.shankLock r offset) [.mem] := by
  unfold State.shankLock
  exact setMem_moves _ _

theorem shankBack_moves (s : State) (offset : Nat) :
    s.Moves (s.shankBack offset) [.mem] := by
  unfold State.shankBack
  exact setMem_moves _ _

theorem shankFree_moves (s : State) (offset : Nat) :
    s.Moves (s.shankFree offset) [.mem] := by
  unfold State.shankFree
  exact setMem_moves _ _

/-! ### The operations of Machine/Memory.lean -/

theorem logError_moves (s : State) (offset : Nat) (kind : Nat) (source : Nat) (pins : List Nat) :
    s.Moves (s.logError offset kind source pins) [.regs, .mem] := by
  unfold State.logError
  dsimp -proj only
  refine .then ?_ (setMem_moves _ _)
  exact .ite .refl (bumpBy_moves ..).mono

theorem memUe_moves (s : State) (offset : Nat) (source : Nat) (pins : List Nat) :
    s.Moves (s.memUe offset source pins) [.regs, .mem, .queue] := by
  unfold State.memUe
  dsimp -proj only
  split
  · exact .ite ((bump_moves ..).mono.then (logError_moves ..) |>.then (raise_moves ..))
        ((bump_moves ..).mono.then (logError_moves ..) |>.then (raise_moves ..) |>.then (raise_moves ..))
  · exact (bump_moves ..).mono.then (logError_moves ..) |>.then (raise_moves ..)

theorem transferUe_moves (s : State) (offset : Nat) :
    s.Moves (s.transferUe offset) [.regs, .mem, .queue] := by
  unfold State.transferUe
  exact memUe_moves ..

theorem memCe_moves (s : State) (offset : Nat) (source : Nat) (pins : List Nat) :
    s.Moves (s.memCe offset source pins) [.regs, .mem, .queue] := by
  unfold State.memCe
  dsimp -proj only
  refine .ite ?_ ?_
  · refine .then ?_ (raise_moves ..)
    refine .then ?_ (setMem_moves _ _)
    exact (bump_moves ..).mono.then (logError_moves ..)
  · refine .then ?_ (setMem_moves _ _)
    exact (bump_moves ..).mono.then (logError_moves ..)

theorem repair_moves (s : State) (w : BadWord) (source : Nat) :
    s.Moves (s.repair w source).1 [.regs, .mem, .queue] := by
  unfold State.repair
  dsimp -proj only
  split
  · exact (setCells_moves _ _ (memory_write_wf _ _ _)).mono
  · refine .then ?_ (memCe_moves ..)
    refine .then ?_ (shankBack_moves ..)
    exact (setCells_moves _ _ (memory_write_wf _ _ _)).mono
  · refine .then ?_ (setMem_moves _ _)
    exact memUe_moves ..

theorem repairAll_moves (s : State) (source : Nat) (l : List BadWord) :
    s.Moves (s.repairAll source l).1 [.regs, .mem, .queue] := by
  induction l generalizing s with
  | nil => exact .refl
  | cons x r ih =>
    rw [State.repairAll]
    split
    · rename_i heq
      refine State.Moves.trans (.ofPair heq (repair_moves ..)) ?_
      split
      · rename_i heq
        refine State.Moves.trans (.ofPair heq ((ih ..))) ?_
        exact .refl

theorem touchNear_moves (s : State) :
    s.Moves (s.touchNear) [.power] := by
  unfold State.touchNear
  exact setPower_moves _ _

theorem readNear_moves (s : State) (offset : Nat) (length : Nat) (r : Nat) :
    s.Moves (s.readNear offset length r).1 [.regs, .power, .mem, .queue] := by
  unfold State.readNear
  split
  · rename_i heq
    refine State.Moves.trans (.ofPair heq ((touchNear_moves ..).mono.then (shankUse_moves ..) |>.then (repairAll_moves ..))) ?_
    exact .refl

theorem writeNear_moves (s : State) (offset : Nat) (bytes : List Byte) (r : Nat) :
    s.Moves (s.writeNear offset bytes r).1 [.regs, .power, .mem, .queue] := by
  unfold State.writeNear
  dsimp -proj only
  refine .then ?_ (setCells_moves _ _ (memory_writeAround_wf _ _ _ _))
  refine .then ?_ (repairAll_moves ..)
  refine .then ?_ (setMem_moves _ _)
  exact (touchNear_moves ..).mono.then (shankUse_moves ..)

theorem readLocal_moves (s : State) (tier : Tier) (offset : Nat) (length : Nat) (r : Nat) :
    s.Moves (s.readLocal tier offset length r).1 [.free, .regs, .power, .mem, .queue] := by
  unfold State.readLocal
  refine .iteFst ?_ (readNear_moves ..).mono
  exact .iteFst (advanceFree_moves ..).mono .refl

theorem writeLocal_moves (s : State) (tier : Tier) (offset : Nat) (bytes : List Byte) (r : Nat) :
    s.Moves (s.writeLocal tier offset bytes r).1 [.free, .regs, .power, .mem, .queue] := by
  unfold State.writeLocal
  refine .iteFst ?_ (writeNear_moves ..).mono
  refine .iteFst .refl ?_
  refine .iteFst (advanceFree_moves ..).mono ?_
  refine .then ?_ (setCells_moves s.advanceFree _ (memory_write_wf _ _ _))
  exact (advanceFree_moves ..).mono

/-! ### The operations of Machine/Access.lean -/

theorem addLine_moves (s : State) (c : Nat) (l : CacheLine) :
    s.Moves (s.addLine c l) [.free, .xlate] := by
  unfold State.addLine
  exact .ite (setXlate_moves _ _).mono ((advanceFree_moves ..).mono.then (setXlate_moves _ _))

theorem lookup_moves (s : State) (c : Nat) (slice : Nat) (offset : Nat) (length : Nat) :
    s.Moves (s.lookup c slice offset length).1 [.free, .regs, .xlate] := by
  unfold State.lookup
  split
  · exact (bump_moves ..).mono
  · refine .iteFst ?_ .refl
    dsimp -proj only
    split
    · exact (bump_moves ..).mono.then (addLine_moves ..)
    · exact (bump_moves ..).mono

theorem modRange_moves (s : State) (slice : Nat) (slot : Nat) (f : RangeEntry → RangeEntry) :
    s.Moves (s.modRange slice slot f) [.xlate] := by
  unfold State.modRange
  exact setXlate_moves _ _

theorem sendAts_moves (s : State) (slice : Nat) (c : Nat) (f : Func) (pasid : Option (BitVec 20)) (page : Nat) (lastPage : Nat) :
    s.Moves (s.sendAts slice c f pasid page lastPage).1 [.out, .regs, .xlate] := by
  unfold State.sendAts
  exact (bump_moves ..).mono.then (setXlate_moves _ _) |>.then (emit_moves ..)

theorem setDirty_moves (s : State) (slice : Nat) (l : List DirtyPath) :
    s.Moves (s.setDirty slice l) [.xlate] := by
  unfold State.setDirty
  exact setXlate_moves _ _

theorem coverPath_moves (s : State) (slice : Nat) (p : DirtyPath) (r : Except Status Nat) :
    s.Moves (s.coverPath slice p r) [.queue, .trans] := by
  unfold State.coverPath
  exact setQueueTrans_moves _ _ _

theorem issueFlush_moves (s : State) (slice : Nat) (p : DirtyPath) (evicted : Bool) :
    s.Moves (s.issueFlush slice p evicted).1 [.out, .regs, .xlate, .queue, .trans, .hostReads] := by
  unfold State.issueFlush
  dsimp -proj only
  split
  · exact .ite ((setDirty_moves ..).mono.then (bump_moves ..) |>.then (coverPath_moves ..) |>.then (setXlate_moves _ _))
        ((setDirty_moves ..).mono.then (bump_moves ..) |>.then (coverPath_moves ..))
  · refine .then ?_ (emit_moves ..)
    refine .then ?_ (coverPath_moves ..)
    refine .then ?_ (setXlateHostReads_moves _ _ _)
    exact (setDirty_moves ..).mono

theorem markDirty_moves (s : State) (slice : Nat) (d : DirtyPath) :
    s.Moves (s.markDirty slice d) [.out, .regs, .xlate, .queue, .trans, .hostReads] := by
  unfold State.markDirty
  dsimp -proj only
  refine .ite (setDirty_moves ..).mono ?_
  refine .then ?_ (setDirty_moves ..)
  split
  · exact .ite (issueFlush_moves ..) .refl
  · exact .refl

theorem issueFlushes_moves (s : State) (slice : Nat) (l : List DirtyPath) :
    s.Moves (s.issueFlushes slice l).1 [.out, .regs, .xlate, .queue, .trans, .hostReads] := by
  induction l generalizing s with
  | nil => exact .refl
  | cons x r ih =>
    rw [State.issueFlushes]
    split
    · rename_i heq
      refine State.Moves.trans (.ofPair heq (issueFlush_moves ..)) ?_
      split
      · rename_i heq
        refine State.Moves.trans (.ofPair heq ((ih ..))) ?_
        exact .refl
    · rename_i heq
      refine State.Moves.trans (.ofPair heq (issueFlush_moves ..)) ?_
      split
      · rename_i heq
        refine State.Moves.trans (.ofPair heq ((ih ..))) ?_
        exact .refl

theorem fence_moves (s : State) (slice : Nat) (own : Option (Nat × Nat)) :
    s.Moves (s.fence slice own).1 [.out, .regs, .xlate, .queue, .trans, .hostReads] := by
  unfold State.fence
  dsimp -proj only
  exact issueFlushes_moves ..

theorem leavePath_moves (s : State) (slice : Nat) (port : Nat) (pathTag : Nat) :
    s.Moves (s.leavePath slice port pathTag) [.xlate] := by
  unfold State.leavePath
  exact setDirty_moves ..

theorem logPages_moves (s : State) (slice : Nat) (pages : List Nat) :
    s.Moves (s.logPages slice pages) [.dirtyLogs] := by
  unfold State.logPages
  exact setDirtyLogs_moves _ _

theorem modWaiting_moves (s : State) (id : Nat) (f : Waiting → Waiting) :
    s.Moves (s.modWaiting id f) [.xlate] := by
  unfold State.modWaiting
  exact setXlate_moves _ _

theorem dropWaiting_moves (s : State) (id : Nat) :
    s.Moves (s.dropWaiting id) [.xlate] := by
  unfold State.dropWaiting
  exact setXlate_moves _ _

theorem park_moves (s : State) (w : Waiting) :
    s.Moves (s.park w).1 [.xlate] := by
  unfold State.park
  exact setXlate_moves _ _

theorem failAccess_moves (s : State) (slice : Nat) (c : Status) :
    s.Moves (s.failAccess slice c).1 [.regs] := by
  unfold State.failAccess
  refine .ite (bump_moves ..) ?_
  exact .ite (bump_moves ..) .refl

theorem countEnd_moves (s : State) (slice : Nat) (c : Status) :
    s.Moves (s.countEnd slice c) [.regs] := by
  unfold State.countEnd
  refine .ite (bump_moves ..) ?_
  exact .ite (bump_moves ..) .refl

theorem patchEntry_moves (s : State) (w : Waiting) :
    s.Moves (s.patchEntry w).1 [.regs] := by
  unfold State.patchEntry
  split
  · exact .ite (countEnd_moves ..) .refl
  · exact .refl

theorem postTlps_moves (s : State) (port : Nat) (sizes : List Nat) :
    s.Moves (s.postTlps port sizes) [.host] := by
  unfold State.postTlps
  exact setHost_moves _ _

theorem emitWrites_moves (s : State) (f : Func) (pasid : Option (BitVec 20)) (data : List Byte) (relaxed : Bool) (tag : Option
    (BitVec 16)) (l : List (Nat × Nat)) :
    s.Moves (s.emitWrites f pasid data relaxed tag l) [.out, .host] := by
  induction l generalizing s data with
  | nil => exact .refl
  | cons x r ih =>
    rw [State.emitWrites]
    exact (postTlps_moves ..).mono.then (emit_moves ..) |>.then (ih ..)

theorem notePath_moves (s : State) (u : AccessUse) (d : DirtyPath) :
    s.Moves (s.notePath u d) [.queue] := by
  unfold State.notePath
  split
  · exact setQueue_moves _ _
  · split
    · exact .refl
    · exact setQueue_moves _ _

theorem hostAccess_moves (s : State) (w : Waiting) (w0 : Waiting) (e : RangeEntry) (f : Func) (pasid : Option (BitVec 20)) (iova : Nat) :
    s.Moves (s.hostAccess w w0 e f pasid iova).1 [.out, .regs, .xlate, .queue, .trans, .dirtyLogs, .host, .hostReads] := by
  unfold State.hostAccess
  dsimp -proj only
  refine .iteFst ?_ ((setXlateHostReads_moves _ _ _).mono.then (modRange_moves ..) |>.then (emit_moves ..) |>.then (park_moves ..))
  refine .iteFst .refl ?_
  refine .iteFst (park_moves ..).mono ?_
  refine .iteFst (park_moves ..).mono ?_
  refine .then ?_ (notePath_moves ..)
  refine .then ?_ (emitWrites_moves ..)
  exact .ite ((logPages_moves ..).mono.then (leavePath_moves ..)) ((logPages_moves ..).mono.then (markDirty_moves ..))

theorem localAccess_moves (s : State) (tier : Tier) (a : Access) :
    s.Moves (s.localAccess tier a).1 [.free, .regs, .power, .mem, .queue] := by
  unfold State.localAccess
  dsimp -proj only
  refine .iteFst ?_ ?_
  · exact writeLocal_moves ..
  · exact readLocal_moves ..

theorem attempt_moves (s : State) (w0 : Waiting) :
    s.Moves (s.attempt w0).1 [.out, .free, .regs, .power, .mem, .xlate, .queue, .trans, .dirtyLogs, .host, .hostReads] := by
  unfold State.attempt
  dsimp -proj only
  refine .iteFst (bump_moves ..).mono ?_
  split
  · exact (localAccess_moves ..).mono
  · split
    · exact (lookup_moves ..).mono.then (failAccess_moves ..)
    · split
      · exact (lookup_moves ..).mono.then (failAccess_moves ..)
      · split
        · exact (lookup_moves ..).mono.then (failAccess_moves ..)
        · split
          · exact (lookup_moves ..).mono.then (sendAts_moves ..) |>.then (park_moves ..)
          · split
            · exact (lookup_moves ..).mono.then (failAccess_moves ..)
            · exact .iteFst ((lookup_moves ..).mono.then (hostAccess_moves ..)) ((lookup_moves ..).mono.then (localAccess_moves ..))

theorem access_moves (s : State) (a : Access) :
    s.Moves (s.access a).1 [.out, .free, .regs, .power, .mem, .xlate, .queue, .trans, .dirtyLogs, .host, .hostReads] := by
  unfold State.access
  dsimp -proj only
  refine .iteFst ?_ ((setXlate_moves _ _).mono.then (attempt_moves ..))
  refine .iteFst ?_ ?_
  · refine .then ?_ (attempt_moves ..)
    refine .then ?_ (patchEntry_moves ..)
    exact .ite ((setXlate_moves _ _).mono.then (fence_moves ..) |>.then (setXlate_moves _ _))
        ((setXlate_moves _ _).mono.then (fence_moves ..))
  · refine .then ?_ (park_moves ..)
    exact .ite ((setXlate_moves _ _).mono.then (fence_moves ..) |>.then (setXlate_moves _ _))
        ((setXlate_moves _ _).mono.then (fence_moves ..))

theorem fault_moves (s : State) (slice : Nat) (f : Func) (pasid : Option (BitVec 20)) (page : Nat) :
    s.Moves (s.fault slice f pasid page).1 [.out, .free, .xlate] := by
  unfold State.fault
  split
  · exact .refl
  · split
    · exact .refl
    · exact (advanceFree_moves ..).mono.then (setXlate_moves _ _) |>.then (emit_moves ..)

/-! ### The operations of Machine/QueueOps.lean -/

theorem modQueue_moves (s : State) (n : Nat) (f : Queue → Queue) :
    s.Moves (s.modQueue n f) [.queue] := by
  unfold State.modQueue
  exact setQueue_moves _ _

theorem modStarted_moves (s : State) (q : Nat) (count : Word32) (f : Started → Started) :
    s.Moves (s.modStarted q count f) [.queue] := by
  unfold State.modStarted
  exact modQueue_moves ..

theorem loadContext_moves (s : State) (q : Nat) :
    s.Moves (s.loadContext q) [.queue] := by
  unfold State.loadContext
  refine .ite .refl ?_
  dsimp -proj only
  refine .then ?_ (modQueue_moves ..)
  split
  · exact modQueue_moves ..
  · exact .refl

theorem endDesc_moves (s : State) (q : Nat) (count : Word32) (d : Done) :
    s.Moves (s.endDesc q count d) [.queue] := by
  unfold State.endDesc
  exact modStarted_moves ..

theorem endWith_moves (s : State) (q : Nat) (count : Word32) (c : Status) :
    s.Moves (s.endWith q count c) [.queue] := by
  unfold State.endWith
  exact endDesc_moves ..

theorem laceUp_moves (s : State) (slice : Nat) (gen : Nat) (counter : Nat) (amount : Nat) :
    s.Moves (s.laceUp slice gen counter amount) [.queue] := by
  unfold State.laceUp
  exact setQueue_moves _ _

theorem setLace_moves (s : State) (slice : Nat) (counter : Nat) (v : Nat) :
    s.Moves (s.setLace slice counter v) [.regs, .power, .queue] := by
  unfold State.setLace
  exact (setQueue_moves _ _).mono.then (wakeAll_moves ..)

theorem ringFault_moves (s : State) (q : Nat) (c : Status) :
    s.Moves (s.ringFault q c) [.queue] := by
  unfold State.ringFault
  split
  · exact .refl
  · exact .ite (modQueue_moves ..) ((modQueue_moves ..).then (raise_moves ..))

theorem cqFault_moves (s : State) (cq : Nat) (c : Status) :
    s.Moves (s.cqFault cq c) [.queue] := by
  unfold State.cqFault
  split
  · exact .refl
  · exact .ite (setQueue_moves _ _) ((setQueue_moves _ _).then (raise_moves ..))

theorem parkOwn_moves (s : State) (slice : Nat) (u : AccessUse) (on : WaitFor) :
    s.Moves (s.parkOwn slice u on) [.xlate] := by
  unfold State.parkOwn
  exact setXlate_moves _ _

theorem emitMsix_moves (s : State) (slice : Nat) (f : Func) (vector : Nat) :
    s.Moves (s.emitMsix slice f vector) [.out, .xlate, .host] := by
  unfold State.emitMsix
  refine .ite .refl ?_
  exact .ite (parkOwn_moves ..).mono ((leavePath_moves ..).mono.then (postTlps_moves ..) |>.then (emit_moves ..))

theorem fenceMsix_moves (s : State) (f : Func) (d : MsixDue) :
    s.Moves (s.fenceMsix f d).1 [.out, .regs, .xlate, .queue, .trans, .hostReads] := by
  unfold State.fenceMsix
  dsimp -proj only
  exact (fence_moves ..).then (issueFlushes_moves ..)

theorem launchMsix_moves (s : State) (f : Func) (vector : Nat) (due : List MsixDue) :
    s.Moves (s.launchMsix f vector due) [.out, .regs, .xlate, .queue, .trans, .host, .hostReads] := by
  have hfences (t : State) (ids : List Nat) :
      t.Moves (due.foldl (fun (x : State × List Nat) d => (fun (y : State × List Nat) => (y.1, x.2 ++ y.2)) (x.1.fenceMsix f d)) (t, ids)).1
        [.out, .regs, .xlate, .queue, .trans, .host, .hostReads] :=
    .foldlFst .refl fun p x => (fenceMsix_moves ..).mono
  unfold State.launchMsix
  dsimp -proj only
  refine .ite ?_ ?_
  · exact .then (hfences ..) (emitMsix_moves ..)
  · exact .then (hfences ..) (parkOwn_moves ..)

theorem sendMsix_moves (s : State) (slice : Nat) (vector : Nat) (queue : Option Nat) :
    s.Moves (s.sendMsix slice vector queue) [.out, .regs, .xlate, .queue, .trans, .host, .hostReads] := by
  unfold State.sendMsix
  dsimp -proj only
  refine .ite (bump_moves ..).mono ?_
  exact .ite (modFunc_moves ..).mono (launchMsix_moves ..)

theorem checkArm_moves (s : State) (q : Nat) :
    s.Moves (s.checkArm q) [.out, .regs, .xlate, .queue, .trans, .host, .hostReads] := by
  unfold State.checkArm
  split
  · exact .refl
  · split
    · exact .ite ((modQueue_moves ..).mono.then (sendMsix_moves ..)) .refl
    · exact .refl

theorem deliverQuiet_moves (s : State) (x : Queue) (l : List Delivery) :
    s.Moves (s.deliverQuiet x l) [.queue] := by
  induction l generalizing s with
  | nil => exact .refl
  | cons x r ih =>
    rw [State.deliverQuiet]
    refine .ite .refl ?_
    dsimp -proj only
    refine .then ?_ (ih ..)
    split
    · exact (modQueue_moves ..).then (laceUp_moves ..)
    · exact modQueue_moves ..

theorem delivered_moves (s : State) (q : Nat) (count : Word32) :
    s.Moves (s.delivered q count) [.queue] := by
  unfold State.delivered
  split
  · exact .refl
  · split
    · exact .refl
    · exact .ite .refl ((deliverQuiet_moves ..).then (modQueue_moves ..))

theorem recordDelivered_moves (s : State) (x1 : QRecord) :
    s.Moves (s.recordDelivered x1) [.queue] := by
  unfold State.recordDelivered
  split
  · exact delivered_moves ..
  · exact .refl

theorem entryWritten_moves (s : State) (q : Nat) :
    s.Moves (s.entryWritten q) [.out, .regs, .xlate, .queue, .trans, .host, .hostReads] := by
  unfold State.entryWritten
  dsimp -proj only
  refine .then ?_ (checkArm_moves ..)
  refine .then ?_ (modQueue_moves ..)
  refine .then ?_ (modQueue_moves ..)
  split
  · exact (recordDelivered_moves ..).mono
  · exact .refl

theorem writeHeld_moves (s : State) (q : Nat) (fuel : Nat) :
    s.Moves (s.writeHeld q fuel) [.out, .free, .regs, .power, .mem, .xlate, .queue, .trans, .dirtyLogs, .host, .hostReads] := by
  induction fuel generalizing s with
  | zero => exact .refl
  | succ fuel ih =>
    rw [State.writeHeld]
    split
    · exact .refl
    · split
      · exact .refl
      · refine .ite .refl ?_
        refine .ite ((modQueue_moves ..).mono.then (bump_moves ..) |>.then (ih ..)) ?_
        refine .ite .refl ?_
        dsimp -proj only
        split
        · rename_i heq
          refine State.Moves.trans (.ofPair heq ((modQueue_moves ..).mono.then (access_moves ..))) ?_
          exact (entryWritten_moves ..).mono.then (ih ..)
        · rename_i heq
          refine State.Moves.trans (.ofPair heq ((modQueue_moves ..).mono.then (access_moves ..))) ?_
          exact .refl
        · rename_i heq
          refine State.Moves.trans (.ofPair heq ((modQueue_moves ..).mono.then (access_moves ..))) ?_
          exact (modQueue_moves ..).mono
        · rename_i heq
          refine State.Moves.trans (.ofPair heq ((modQueue_moves ..).mono.then (access_moves ..))) ?_
          exact (modQueue_moves ..).mono.then (cqFault_moves ..)

theorem flushHeld_moves (s : State) (q : Nat) :
    s.Moves (s.flushHeld q) [.out, .free, .regs, .power, .mem, .xlate, .queue, .trans, .dirtyLogs, .host, .hostReads] := by
  unfold State.flushHeld
  split
  · exact writeHeld_moves ..
  · exact .refl

theorem overflow_moves (s : State) (slice : Nat) :
    s.Moves (s.overflow slice) [.out, .free, .regs, .power, .mem, .xlate, .queue, .trans, .dirtyLogs, .host, .hostReads] := by
  unfold State.overflow
  split
  · refine .ite ?_ .refl
    exact .ite .refl ((setQueue_moves _ _).mono.then (loadContext_moves ..) |>.then (modQueue_moves ..) |>.then (flushHeld_moves ..))
  · exact .refl

theorem loseEvent_moves (s : State) (slice : Nat) :
    s.Moves (s.loseEvent slice) [.regs, .queue] := by
  unfold State.loseEvent
  exact (bump_moves ..).mono.then (setQueue_moves _ _)

theorem ring_moves (s : State) (q : Nat) (count : Word32) :
    s.Moves (s.ring q count) [.regs, .power, .queue] := by
  unfold State.ring
  exact (modQueue_moves ..).mono.then (wakeCluster_moves ..)

/-! ### The operations of Machine/KeyOps.lean -/

theorem modKey_moves (s : State) (slice : Nat) (slot : Nat) (guardKind : Bool) (f : KeySlot → KeySlot) :
    s.Moves (s.modKey slice slot guardKind f) [.keys] := by
  unfold State.modKey
  exact setKeys_moves _ _

theorem useSlot_moves (s : State) (e : Nat) (x : EngineSlot) :
    s.Moves (s.useSlot e x) [.keys] := by
  unfold State.useSlot
  exact setKeys_moves _ _

theorem engineSlot_moves (s : State) (c : Nat) (e : Nat) (slice : Nat) (slot : Nat) :
    s.Moves (s.engineSlot c e slice slot).1 [.regs] := by
  unfold State.engineSlot
  split
  · exact .refl
  · exact bump_moves ..

theorem loadRecv_moves (s : State) (c : Nat) (slice : Nat) (slot : Nat) :
    s.Moves (s.loadRecv c slice slot) [.free, .regs, .keys] := by
  unfold State.loadRecv
  dsimp -proj only
  split
  · exact .refl
  · exact (advanceFree_moves ..).mono.then (engineSlot_moves ..) |>.then (useSlot_moves ..)

theorem drawBlock_moves (s : State) (slice : Nat) (slot : Nat) :
    s.Moves (s.drawBlock slice slot) [.queue, .keys] := by
  unfold State.drawBlock
  split
  · exact .refl
  · exact .ite ((modKey_moves ..).mono.then (raise_moves ..)) (modKey_moves ..).mono

theorem takeCounter_moves (s : State) (c : Nat) (slice : Nat) (slot : Nat) (again : Bool) :
    s.Moves (s.takeCounter c slice slot again).1 [.free, .regs, .queue, .keys] := by
  unfold State.takeCounter
  split
  · exact .refl
  · refine .iteFst .refl ?_
    dsimp -proj only
    split
    · exact .refl
    · refine .iteFst ((advanceFree_moves ..).mono.then (engineSlot_moves ..)) ?_
      refine .iteFst ((advanceFree_moves ..).mono.then (engineSlot_moves ..)) ?_
      refine .then ?_ (useSlot_moves ..)
      exact .ite ((advanceFree_moves ..).mono.then (engineSlot_moves ..) |>.then (drawBlock_moves ..) |>.then (bump_moves ..))
          ((advanceFree_moves ..).mono.then (engineSlot_moves ..))

/-! ### The operations of Machine/MbxOps.lean -/

theorem modMailbox_moves (s : State) (k : Nat) (f : Mailbox → Mailbox) :
    s.Moves (s.modMailbox k f) [.mailboxes] := by
  unfold State.modMailbox
  exact setMailboxes_moves _ _

theorem answer_moves (s : State) (slice : Nat) (tag : Word32) (op : Nat) (status : Status) (detail : Nat) (info : List Nat) :
    s.Moves (s.answer slice tag op status detail info) [.mailboxes] := by
  unfold State.answer
  exact modMailbox_moves ..

theorem respond_moves (s : State) (who : Nat × Word32) (status : Status) (info : List Nat) :
    s.Moves (s.respond who status info) [.mailboxes] := by
  unfold State.respond
  split
  · exact answer_moves ..
  · exact .refl

theorem respondTo_moves (s : State) (who : Option (Nat × Word32)) (status : Status) (info : List Nat) :
    s.Moves (s.respondTo who status info) [.mailboxes] := by
  unfold State.respondTo
  split
  · exact respond_moves ..
  · exact .refl

theorem take_moves (s : State) (slice : Nat) (tag : Word32) (op : Nat) :
    s.Moves (s.take slice tag op).1 [.regs, .mailboxes] := by
  unfold State.take
  refine .iteFst .refl ?_
  refine .iteFst (answer_moves ..).mono ?_
  refine .iteFst ((bump_moves ..).mono.then (answer_moves ..)) ?_
  refine .iteFst (answer_moves ..).mono ?_
  exact .pair (modMailbox_moves ..).mono

/-- A mailbox command moves what its action moves, and its mailbox. -/
theorem command_moves {s : State} {slice : Nat} {tag : Word32} {op : Nat} {f : State → State × Status × List Nat} {ps : List Part}
    (hf : ∀ t : State, t.Moves (f t).1 ps) (hsub : ∀ p ∈ [Part.regs, .mailboxes], p ∈ ps := by decide) :
    s.Moves (s.command slice tag op f) ps := by
  have htake : s.Moves (s.take slice tag op).1 ps := (take_moves ..).mono hsub
  unfold State.command
  split
  · rename_i heq
    exact .ofPair heq htake
  · rename_i heq
    exact .then (.trans (.ofPair heq htake) (hf _)) ((answer_moves ..).mono (qs := [.regs, .mailboxes])) hsub

/-! ### The operations of Machine/KeyStore.lean -/

theorem loadSlot_moves (s : State) (slice : Nat) (kind : Nat) (slot : Nat) (key : BitVec 256) (salt : Word32) (keyId : Word32) :
    s.Moves (s.loadSlot slice kind slot key salt keyId) [.keys] := by
  unfold State.loadSlot
  exact setKeys_moves _ _

theorem zeroize_moves (s : State) (slice : Nat) (slot : Nat) (guardKind : Bool) :
    s.Moves (s.zeroize slice slot guardKind) [.keys] := by
  unfold State.zeroize
  exact .ite (modKey_moves ..) ((modKey_moves ..).then (setKeys_moves _ _))

theorem feedGuard_moves (s : State) :
    s.Moves (s.feedGuard) [.keys] := by
  unfold State.feedGuard
  exact .foldl .refl (fun s j => .ite .refl (setKeys_moves _ _))

theorem guardBegin_moves (s : State) (slice : Nat) (tag : Word32) (parent : Nat) (kind : Nat) (slot : Nat) (w : GuardWork) :
    s.Moves (s.guardBegin slice tag parent kind slot w) [.keys] := by
  unfold State.guardBegin
  exact (setKeys_moves _ _).then (feedGuard_moves ..)

theorem guardFails_moves (s : State) (j : GuardJob) :
    s.Moves (s.guardFails j) [.out, .mailboxes] := by
  unfold State.guardFails
  split
  · exact (emit_moves ..).mono
  · exact (emit_moves ..).mono
  · exact (respond_moves ..).mono

theorem finishJob_moves (s : State) (j : GuardJob) :
    s.Moves (s.finishJob j) [.mailboxes, .keys] := by
  unfold State.finishJob
  dsimp -proj only
  split
  · exact (respond_moves ..).mono
  · split
    · exact (respond_moves ..).mono
    · refine .ite (respond_moves ..).mono ?_
      exact .ite (respond_moves ..).mono ((loadSlot_moves ..).mono.then (respond_moves ..))

theorem guardFault_moves (s : State) (e : Nat) (j : GuardJob) :
    s.Moves (s.guardFault e j) [.out, .regs, .queue, .mailboxes, .keys] := by
  unfold State.guardFault
  exact .ite ((setKeys_moves _ _).mono.then (bump_moves ..) |>.then (raise_moves ..) |>.then (guardFails_moves ..)
      |>.then (setKeys_moves _ _) |>.foldl (fun s j => (guardFails_moves ..).mono)) ((setKeys_moves _ _).mono.then (bump_moves ..)
      |>.then (raise_moves ..) |>.then (guardFails_moves ..) |>.then (feedGuard_moves ..))

theorem beginKey_moves (s : State) (slice : Nat) (tag : Word32) (parent : Nat) (t : KeyTarget) (w : GuardWork) :
    s.Moves (s.beginKey slice tag parent t w) [.mailboxes, .keys] := by
  unfold State.beginKey
  dsimp -proj only
  refine .ite (respond_moves ..).mono ?_
  refine .ite (respond_moves ..).mono ?_
  refine .ite (respond_moves ..).mono ?_
  exact .ite (respond_moves ..).mono (guardBegin_moves ..).mono

/-! ### The operations of Machine/Net.lean -/

theorem modPort_moves (s : State) (p : Nat) (f : Port → Port) :
    s.Moves (s.modPort p f) [.ports] := by
  unfold State.modPort
  exact setPorts_moves _ _

theorem sbtRoll_moves (s : State) :
    s.Moves (s.sbtRoll) [.trans] := by
  unfold State.sbtRoll
  exact .ite .refl (setTrans_moves _ _)

theorem admitWaiting_moves (s : State) (port : Nat) (l : List TxFrame) :
    s.Moves (s.admitWaiting port l) [.ports] := by
  induction l generalizing s with
  | nil => exact .refl
  | cons x r ih =>
    rw [State.admitWaiting]
    exact .ite ((modPort_moves ..).then (ih ..)) (ih ..)

theorem queueFrame_moves (s : State) (port : Nat) (t : TxFrame) :
    s.Moves (s.queueFrame port t) [.regs, .ports] := by
  unfold State.queueFrame
  dsimp -proj only
  refine .ite (modPort_moves ..).mono ?_
  exact .ite ((modPort_moves ..).mono.then (bump_moves ..)) (modPort_moves ..).mono

theorem loopBack_moves (s : State) (body : Packet → FrameBody) (p : Packet) (conn : Option Nat) :
    s.Moves (s.loopBack body p conn) [.out, .ingress] := by
  unfold State.loopBack
  exact (emit_moves ..).mono.then (setIngress_moves _ _)

theorem sendC7_moves (s : State) (dst : Coord) (h : Nat) (r : Nat) (body : Packet → FrameBody) (p : Packet) (slice : Nat)
    (conn : Option Nat) :
    s.Moves (s.sendC7 dst h r body p slice conn) [.out, .regs, .ports, .ingress] := by
  unfold State.sendC7
  dsimp -proj only
  split
  · exact (loopBack_moves ..).mono
  · exact (bump_moves ..).mono
  · exact (queueFrame_moves ..).mono
  · split
    · exact (bump_moves ..).mono
    · exact (queueFrame_moves ..).mono

theorem putCtrl_moves (s : State) (dst : Coord) (m : CtrlMsg) (seq : Word32) (r : Nat) (g : Option (Word32 × Bool)) :
    s.Moves (s.putCtrl dst m seq r g) [.out, .regs, .ports, .ingress] := by
  unfold State.putCtrl
  exact sendC7_moves ..

theorem takeAlive_moves (s : State) (dst : Coord) :
    s.Moves (s.takeAlive dst).1 [.trans] := by
  unfold State.takeAlive
  split
  · exact setTrans_moves _ _

theorem resyncTo_moves (s : State) (dst : Coord) :
    s.Moves (s.resyncTo dst) [.trans] := by
  unfold State.resyncTo
  exact setTrans_moves _ _

theorem guardClear_moves (s : State) :
    s.Moves (s.guardClear) [.trans] := by
  unfold State.guardClear
  exact setTrans_moves _ _

theorem replyCtrl_moves (s : State) (dst : Coord) (m : CtrlMsg) (seq : Word32) :
    s.Moves (s.replyCtrl dst m seq) [.out, .regs, .trans, .ports, .ingress] := by
  unfold State.replyCtrl
  split
  · rename_i heq
    refine State.Moves.trans (.ofPair heq (.iteFst (takeAlive_moves ..).mono .refl)) ?_
    exact (setTrans_moves _ _).mono.then (putCtrl_moves ..)

theorem sendReply_moves (s : State) (a : Arrival) (src : Coord) (m : CtrlMsg) (seq : Word32) (g : Option (Word32 × Bool)) :
    s.Moves (s.sendReply a src m seq g) [.out, .regs, .ports, .ingress] := by
  unfold State.sendReply
  split
  · exact (queueFrame_moves ..).mono
  · exact putCtrl_moves ..

theorem answerCtrl_moves (s : State) (a : Arrival) (src : Coord) (m : CtrlMsg) (seq : Word32) :
    s.Moves (s.answerCtrl a src m seq) [.out, .regs, .trans, .ports, .ingress] := by
  unfold State.answerCtrl
  split
  · rename_i heq
    refine State.Moves.trans (.ofPair heq (.iteFst (takeAlive_moves ..).mono .refl)) ?_
    exact (setTrans_moves _ _).mono.then (sendReply_moves ..)

theorem ackCtrl_moves (s : State) (a : Arrival) (src : Coord) (seq : Word32) :
    s.Moves (s.ackCtrl a src seq) [.out, .regs, .trans, .ports, .ingress] := by
  unfold State.ackCtrl
  exact answerCtrl_moves ..

theorem startCtrl_moves (s : State) (m : CtrlOut) :
    s.Moves (s.startCtrl m) [.out, .regs, .trans, .ports, .ingress] := by
  unfold State.startCtrl
  split
  · rename_i heq
    refine State.Moves.trans (.ofPair heq (.iteFst (takeAlive_moves ..).mono .refl)) ?_
    exact (setTrans_moves _ _).mono.then (putCtrl_moves ..)

theorem sendCtrl_moves (s : State) (dst : Coord) (m : CtrlMsg) :
    s.Moves (s.sendCtrl dst m) [.out, .regs, .trans, .ports, .ingress] := by
  unfold State.sendCtrl
  exact .ite (setTrans_moves _ _).mono ((setTrans_moves _ _).mono.then (startCtrl_moves ..))

theorem dropCtrl_moves (s : State) (good : CtrlOut → Bool) :
    s.Moves (s.dropCtrl good) [.out, .regs, .trans, .ports, .ingress] := by
  unfold State.dropCtrl
  dsimp -proj only
  refine (setTrans_moves _ _).mono.foldl (fun s g => ?_)
  refine .ite ?_ .refl
  split
  · exact startCtrl_moves ..
  · exact .refl

theorem sendEndC7_moves (s : State) (c : Conn) (p : Packet) :
    s.Moves (s.sendEndC7 c p) [.out, .regs, .ports, .ingress] := by
  unfold State.sendEndC7
  exact sendC7_moves ..

theorem sendEndCtrl_moves (s : State) (c : Conn) (m : CtrlMsg) (again : Bool) :
    s.Moves (s.sendEndCtrl c m again) [.out, .regs, .trans, .ports, .ingress] := by
  unfold State.sendEndCtrl
  dsimp -proj only
  refine .then ?_ (sendC7_moves ..)
  exact .ite ((setTrans_moves _ _).mono.then (setTrans_moves _ _)) (setTrans_moves _ _).mono

/-! ### The operations of Machine/RegOps.lean -/

theorem storeReg_moves (s : State) (r : Reg) (k : Nat) (v : Word64) :
    s.Moves (s.storeReg r k v) [.regs] := by
  unfold State.storeReg
  exact .foldl .refl (fun s f => (setFld_moves ..))

theorem askCommit_moves (s : State) (p : Nat) :
    s.Moves (s.askCommit p) [.ports] := by
  unfold State.askCommit
  exact modPort_moves ..

/-! ### The operations of Machine/MbxRun.lean -/

theorem countRefusal_moves (s : State) (r : MbxRequest) (c : Status) :
    s.Moves (s.countRefusal r c) [.regs] := by
  unfold State.countRefusal
  refine .ite (bump_moves ..) ?_
  exact .ite (bump_moves ..) .refl

theorem takeOne_moves (s : State) (k : Nat) (r : MbxRequest) :
    s.Moves (s.takeOne k r) [.regs, .mailboxes] := by
  unfold State.takeOne
  dsimp -proj only
  split
  · exact (modMailbox_moves ..).mono.then (countRefusal_moves ..) |>.then (modMailbox_moves ..)
  · exact (modMailbox_moves ..).mono.then (modMailbox_moves ..)

theorem intake_moves (s : State) (k : Nat) :
    s.Moves (s.intake k) [.regs, .mailboxes] := by
  unfold State.intake
  refine .ite .refl ?_
  refine .then ?_ (modMailbox_moves ..)
  exact .foldl .refl (fun s r => (takeOne_moves ..))

theorem intakeOne_moves (s : State) (k : Nat) :
    s.Moves (s.intakeOne k) [.regs, .mailboxes] := by
  unfold State.intakeOne
  split
  · exact .ite .refl ((modMailbox_moves ..).mono.then (takeOne_moves ..))
  · exact .refl

theorem intakeAll_moves (s : State) :
    s.Moves (s.intakeAll) [.regs, .mailboxes] := by
  unfold State.intakeAll
  exact .foldl .refl (fun s m => (intake_moves ..))

theorem mbxFault_moves (s : State) (k : Nat) :
    s.Moves (s.mbxFault k) [.mailboxes] := by
  unfold State.mbxFault
  exact modMailbox_moves ..

theorem mailMessages_moves (s : State) :
    s.Moves (s.mailMessages) [.out, .regs, .xlate, .queue, .trans, .mailboxes, .host, .hostReads] := by
  unfold State.mailMessages
  exact .foldl .refl (fun s m => (modMailbox_moves ..).mono.then (sendMsix_moves ..))

theorem respWritten_moves (s : State) (k : Nat) :
    s.Moves (s.respWritten k) [.out, .xlate, .dirtyLogs, .mailboxes, .host] := by
  unfold State.respWritten
  split
  · exact .refl
  · dsimp -proj only
    refine .ite ((modMailbox_moves ..).mono.then (mbxFault_moves ..)) ?_
    refine .ite (parkOwn_moves ..).mono ?_
    refine .ite (parkOwn_moves ..).mono ?_
    exact .ite ((logPages_moves ..).mono.then (leavePath_moves ..) |>.then (postTlps_moves ..) |>.then (modMailbox_moves ..)
        |>.then (emit_moves ..) |>.then (modMailbox_moves ..)) ((logPages_moves ..).mono.then (leavePath_moves ..)
        |>.then (postTlps_moves ..) |>.then (modMailbox_moves ..) |>.then (emit_moves ..))

theorem writeResponse_moves (s : State) (k : Nat) (r : MbxResp) (rest : List MbxResp) :
    s.Moves (s.writeResponse k r rest) [.out, .regs, .xlate, .queue, .trans, .dirtyLogs, .mailboxes, .host, .hostReads] := by
  unfold State.writeResponse
  dsimp -proj only
  exact .ite ((modMailbox_moves ..).mono.then (fence_moves ..) |>.then (respWritten_moves ..))
      ((modMailbox_moves ..).mono.then (fence_moves ..) |>.then (parkOwn_moves ..))

/-! ### The operations of Machine/PortOps.lean -/

theorem portCount_moves (s : State) (p : Nat) (i : Nat) (n : Nat) :
    s.Moves (s.portCount p i n) [.regs] := by
  unfold State.portCount
  exact .ite (bumpBy_moves ..) .refl

theorem queueMac_moves (s : State) (p : Nat) (b : FrameBody) :
    s.Moves (s.queueMac p b) [.regs, .ports] := by
  unfold State.queueMac
  exact queueFrame_moves ..

theorem sendPause_moves (s : State) (p : Nat) (prio : Nat) (quanta : Nat) :
    s.Moves (s.sendPause p prio quanta) [.regs, .ports] := by
  unfold State.sendPause
  exact queueMac_moves ..

theorem pausePeer_moves (s : State) (p : Nat) (prio : Nat) :
    s.Moves (s.pausePeer p prio) [.regs, .ports] := by
  unfold State.pausePeer
  exact (modPort_moves ..).mono.then (sendPause_moves ..)

theorem freeVl_moves (s : State) (p : Nat) (vl : Nat) (bytes : Nat) :
    s.Moves (s.freeVl p vl bytes) [.ports] := by
  unfold State.freeVl
  refine .ite .refl ?_
  exact .ite (modPort_moves ..) (modPort_moves ..)

theorem freeForwarded_moves (s : State) (out : Nat) (f : RxFrame) :
    s.Moves (s.freeForwarded out f) [.ports] := by
  unfold State.freeForwarded
  exact freeVl_moves ..

theorem freeHeld_moves (s : State) (h : Held) :
    s.Moves (s.freeHeld h) [.regs, .ports, .ingress] := by
  unfold State.freeHeld
  dsimp -proj only
  split
  · exact (setIngress_moves _ _).mono
  · exact .ite ((setIngress_moves _ _).mono.then (freeVl_moves ..) |>.then (modPort_moves ..) |>.then (sendPause_moves ..))
        ((setIngress_moves _ _).mono.then (freeVl_moves ..))

theorem takeIn_moves (s : State) (a : Arrival) :
    s.Moves (s.takeIn a) [.regs, .ports, .ingress] := by
  unfold State.takeIn
  split
  · exact freeHeld_moves ..
  · exact .refl

theorem holdFrame_moves (s : State) (p : Nat) (prio : Nat) (bytes : Nat) (a : Arrival) :
    s.Moves (s.holdFrame p prio bytes a) [.regs, .ports, .ingress] := by
  unfold State.holdFrame
  dsimp -proj only
  refine .ite (portCount_moves ..).mono ?_
  refine .ite (portCount_moves ..).mono ?_
  exact .ite ((setIngress_moves _ _).mono.then (pausePeer_moves ..)) (setIngress_moves _ _).mono

theorem obeyPfc_moves (s : State) (p : Nat) (mask : Nat) (quanta : List Nat) :
    s.Moves (s.obeyPfc p mask quanta) [.regs, .ports] := by
  unfold State.obeyPfc
  dsimp -proj only
  refine .ite ?_ ?_
  · exact .foldl .refl (fun s k => (portCount_moves ..).mono)
  · refine .then ?_ (modPort_moves ..)
    exact .foldl .refl (fun s k => (portCount_moves ..).mono)

theorem sendStatus_moves (s : State) (p : Nat) :
    s.Moves (s.sendStatus p) [.regs, .ports] := by
  unfold State.sendStatus
  exact (queueMac_moves ..).then (modPort_moves ..)

theorem acceptWelt_moves (s : State) (p : Nat) (lane : Nat) (seq : Word32) :
    s.Moves (s.acceptWelt p lane seq).1 [.regs, .ports] := by
  unfold State.acceptWelt
  dsimp -proj only
  refine .iteFst (modPort_moves ..).mono ?_
  exact .iteFst ((queueMac_moves ..).then (modPort_moves ..)) .refl

theorem countWelt_moves (s : State) (p : Nat) :
    s.Moves (s.countWelt p) [.regs, .ports] := by
  unfold State.countWelt
  exact .ite ((modPort_moves ..).mono.then (sendStatus_moves ..)) (modPort_moves ..).mono

theorem countOwn_moves (s : State) (p : Nat) (x1 : FrameBody) :
    s.Moves (s.countOwn p x1) [.regs] := by
  unfold State.countOwn
  split
  · exact .foldl .refl (fun s k => (portCount_moves ..))
  · exact portCount_moves ..
  · exact .refl

theorem putFrame_moves (s : State) (p : Nat) (t : TxFrame) (tag : Option (Nat × Word32)) :
    s.Moves (s.putFrame p t tag) [.out, .regs] := by
  unfold State.putFrame
  exact (countOwn_moves ..).mono.then (portCount_moves ..) |>.then (portCount_moves ..) |>.then (emit_moves ..)

theorem sendHello_moves (s : State) (p : Nat) :
    s.Moves (s.sendHello p) [.out, .free, .regs, .ports] := by
  unfold State.sendHello
  exact .ite ((advanceFree_moves ..).mono.then (queueFrame_moves ..) |>.then (modPort_moves ..))
      ((advanceFree_moves ..).mono.then (putFrame_moves ..) |>.then (modPort_moves ..))

theorem portLink_moves (s : State) (p : Nat) (cause : Nat) :
    s.Moves (s.portLink p cause) [.queue] := by
  unfold State.portLink
  exact raise_moves ..

theorem wiring_moves (s : State) (p : Nat) (code : Nat) (detail : Nat) :
    s.Moves (s.wiring p code detail) [.queue, .ports] := by
  unfold State.wiring
  refine .ite .refl ?_
  exact .ite (modPort_moves ..).mono ((modPort_moves ..).mono.then (raise_moves ..))

theorem startTraining_moves (s : State) (p : Nat) :
    s.Moves (s.startTraining p) [.ports] := by
  unfold State.startTraining
  exact modPort_moves ..

theorem sourceState_moves (s : State) (lost : Bool) :
    s.Moves (s.sourceState lost) [.time, .queue] := by
  unfold State.sourceState
  exact .ite .refl ((setTime_moves _ _).mono.then (raise_moves ..))

/-! ### The operations of Machine/FilterOps.lean -/

theorem rawWrite_moves (s : State) (x : Queue) (d : Started) (bytes : List Byte) :
    s.Moves (s.rawWrite x d bytes) [.out, .free, .regs, .power, .mem, .xlate, .queue, .trans, .dirtyLogs, .host, .hostReads] := by
  unfold State.rawWrite
  split
  · rename_i heq
    refine State.Moves.trans (.ofPair heq (access_moves ..)) ?_
    exact (endDesc_moves ..).mono
  · rename_i heq
    refine State.Moves.trans (.ofPair heq (access_moves ..)) ?_
    exact (endWith_moves ..).mono
  · rename_i heq
    refine State.Moves.trans (.ofPair heq (access_moves ..)) ?_
    exact .refl

theorem rawDeliver_moves (s : State) (port : Nat) (k : Nat) (q : Nat) (bytes : List Byte) (ue : Option Nat) :
    s.Moves (s.rawDeliver port k q bytes ue) [.out, .free, .regs, .power, .mem, .xlate, .queue, .trans, .dirtyLogs, .host, .hostReads] := by
  unfold State.rawDeliver
  split
  · exact (portCount_moves ..).mono
  · split
    · exact (portCount_moves ..).mono
    · refine .ite (portCount_moves ..).mono ?_
      split
      · exact (transferUe_moves ..).mono
      · exact (modStarted_moves ..).mono.then (rawWrite_moves ..)

theorem toFilters_moves (s : State) (p : Nat) (fr : RxFrame) :
    s.Moves (s.toFilters p fr) [.out, .free, .regs, .power, .mem, .xlate, .queue, .trans, .dirtyLogs, .host, .hostReads] := by
  unfold State.toFilters
  split
  · exact rawDeliver_moves ..
  · exact (portCount_moves ..).mono

/-! ### The operations of Machine/TransportOps.lean -/

theorem modConn_moves (s : State) (k : Nat) (f : Conn → Conn) :
    s.Moves (s.modConn k f) [.trans] := by
  unfold State.modConn
  exact setTrans_moves _ _

theorem modOp_moves (s : State) (id : Nat) (f : ConnOp → ConnOp) :
    s.Moves (s.modOp id f) [.trans] := by
  unfold State.modOp
  exact setTrans_moves _ _

theorem opEnded_moves (s : State) (o : ConnOp) (c : Status) :
    s.Moves (s.opEnded o c) [.queue, .trans] := by
  unfold State.opEnded
  split
  · exact (endDesc_moves ..).mono
  · exact (setTrans_moves _ _).mono

theorem finishOps_moves (s : State) (first : Nat) :
    s.Moves (s.finishOps first) [.queue, .trans] := by
  unfold State.finishOps
  split
  · exact .refl
  · exact (modConn_moves ..).mono.foldl (fun s o => .ite .refl (opEnded_moves ..))

theorem stopOp_moves (s : State) (id : Nat) (c : Status) :
    s.Moves (s.stopOp id c) [.trans] := by
  unfold State.stopOp
  exact modOp_moves ..

theorem reportOp_moves (s : State) (id : Nat) (c : Status) :
    s.Moves (s.reportOp id c) [.queue, .trans] := by
  unfold State.reportOp
  split
  · exact .refl
  · exact .ite .refl ((modOp_moves ..).mono.then (opEnded_moves ..))

theorem endServe_moves (s : State) (k : Nat) :
    s.Moves (s.endServe k) [.xlate, .trans] := by
  unfold State.endServe
  split
  · exact .refl
  · split
    · exact .refl
    · exact (modConn_moves ..).mono.then (modRange_moves ..) |>.then (setTrans_moves _ _)

theorem failOne_moves (s : State) (k : Nat) (code : Status) (info : Nat) :
    s.Moves (s.failOne k code info) [.regs, .mem, .queue, .trans] := by
  unfold State.failOne
  split
  · exact .refl
  · exact .ite .refl ((setMemTrans_moves _ _ _).mono.then (modConn_moves ..) |>.then (bump_moves ..) |>.then (raise_moves ..)
        |>.foldl (fun s o => (opEnded_moves ..).mono))

theorem failEnd_moves (s : State) (c : Conn) (code : Status) (psn : Nat) :
    s.Moves (s.failEnd c code psn) [.regs, .mem, .queue, .trans] := by
  unfold State.failEnd
  exact (failOne_moves ..).foldl (fun s m => (failOne_moves ..))

theorem makeRoom_moves (s : State) (home : Nat) (keep : Nat) :
    s.Moves (s.makeRoom home keep) [.trans] := by
  unfold State.makeRoom
  dsimp -proj only
  refine .ite .refl ?_
  split
  · exact modConn_moves ..
  · exact .refl

theorem fetchContext_moves (s : State) (k : Nat) :
    s.Moves (s.fetchContext k) [.trans] := by
  unfold State.fetchContext
  split
  · exact .refl
  · exact .ite .refl ((modConn_moves ..).then (makeRoom_moves ..))

theorem touchLine_moves (s : State) (c : Conn) :
    s.Moves (s.touchLine c) [.trans] := by
  unfold State.touchLine
  exact .ite ((modConn_moves ..).then (makeRoom_moves ..)) (modConn_moves ..)

theorem sourceBytes_moves (s : State) (c : Conn) (o : ConnOp) (k : Nat) :
    s.Moves (s.sourceBytes c o k).1 [.out, .free, .regs, .power, .mem, .xlate, .queue, .trans, .dirtyLogs, .host, .hostReads] := by
  unfold State.sourceBytes
  refine .iteFst .refl ?_
  split
  · exact .refl
  · split
    · refine .iteFst .refl ?_
      dsimp -proj only
      split
      · rename_i heq
        refine State.Moves.trans (.ofPair heq (access_moves ..)) ?_
        exact .refl
      · rename_i heq
        refine State.Moves.trans (.ofPair heq (access_moves ..)) ?_
        exact .refl
      · rename_i heq
        refine State.Moves.trans (.ofPair heq (access_moves ..)) ?_
        exact (stopOp_moves ..).mono
      · rename_i heq
        refine State.Moves.trans (.ofPair heq (access_moves ..)) ?_
        exact (stopOp_moves ..).mono
    · exact .refl

theorem newPacket_moves (s : State) (c : Conn) :
    s.Moves (s.newPacket c).1 [.out, .free, .regs, .power, .mem, .xlate, .queue, .trans, .dirtyLogs, .host, .hostReads] := by
  unfold State.newPacket
  dsimp -proj only
  split
  · exact .refl
  · refine .iteFst .refl ?_
    refine .iteFst ?_ ?_
    · exact .iteFst .refl .refl
    · refine .iteFst .refl ?_
      split
      · rename_i heq
        refine State.Moves.trans (.ofPair heq (sourceBytes_moves ..)) ?_
        exact .refl
      · rename_i heq
        refine State.Moves.trans (.ofPair heq (sourceBytes_moves ..)) ?_
        exact .refl

theorem nextFrame_moves (s : State) (k : Nat) :
    s.Moves (s.nextFrame k).1 [.out, .free, .regs, .power, .mem, .xlate, .queue, .trans, .dirtyLogs, .host, .hostReads] := by
  unfold State.nextFrame
  split
  · exact .refl
  · refine .iteFst .refl ?_
    split
    · exact .refl
    · split
      · exact .refl
      · split
        · exact .refl
        · exact newPacket_moves ..

theorem launch_moves (s : State) (c : Conn) (p : Packet) (r : Nat) (prev : Option Nat) (chosen : Option (Word32 × Nat)) :
    s.Moves (s.launch c p r prev chosen).1 [.out, .regs, .ports, .ingress] := by
  unfold State.launch
  dsimp -proj only
  split
  · exact (loopBack_moves ..).mono
  · exact (bump_moves ..).mono
  · exact (queueFrame_moves ..).mono
  · split
    · exact (queueFrame_moves ..).mono
    · exact (bump_moves ..).mono

theorem sendAck_moves (s : State) (k : Nat) (dup : Option Word32) :
    s.Moves (s.sendAck k dup) [.out, .regs, .trans, .ports, .ingress] := by
  unfold State.sendAck
  split
  · exact .refl
  · exact (modConn_moves ..).mono.then (sendEndC7_moves ..)

theorem sendNak_moves (s : State) (k : Nat) (code : Nat) (status : Status) (psn : Word32) (retryUs : Nat) (stamp : Word32) :
    s.Moves (s.sendNak k code status psn retryUs stamp) [.out, .regs, .trans, .ports, .ingress] := by
  unfold State.sendNak
  split
  · exact .refl
  · exact (modConn_moves ..).mono.then (sendEndC7_moves ..)

theorem inboundEvent_moves (s : State) (c : Conn) (code : EventCode) (st : Status) (cause : Nat) (off : Nat) (ptype : Nat) (psn : Word32) :
    s.Moves (s.inboundEvent c code st cause off ptype psn) [.queue] := by
  unfold State.inboundEvent
  exact raise_moves ..

theorem refuseServe_moves (s : State) (k : Nat) (code : Status) :
    s.Moves (s.refuseServe k code) [.out, .regs, .xlate, .queue, .trans, .ports, .ingress] := by
  unfold State.refuseServe
  split
  · exact .refl
  · dsimp -proj only
    refine .then ?_ (sendNak_moves ..)
    refine .then ?_ (endServe_moves ..)
    exact .ite (inboundEvent_moves ..).mono .refl

theorem faultServe_moves (s : State) (k : Nat) :
    s.Moves (s.faultServe k) [.out, .regs, .xlate, .trans, .ports, .ingress] := by
  unfold State.faultServe
  split
  · exact .refl
  · exact (endServe_moves ..).mono.then (sendNak_moves ..)

theorem setServed_moves (s : State) (k : Nat) (b : List Byte) :
    s.Moves (s.setServed k b) [.trans] := by
  unfold State.setServed
  exact modConn_moves ..

theorem readServe_moves (s : State) (k : Nat) :
    s.Moves (s.readServe k) [.out, .free, .regs, .power, .mem, .xlate, .queue, .trans, .ports, .ingress, .hostReads] := by
  unfold State.readServe
  split
  · exact .refl
  · split
    · exact .refl
    · refine .ite .refl ?_
      dsimp -proj only
      split
      · exact (endServe_moves ..).mono
      · split
        · split
          · rename_i heq
            refine State.Moves.trans (.ofPair heq ((readLocal_moves ..).mono)) ?_
            exact (setServed_moves ..).mono
          · rename_i heq
            refine State.Moves.trans (.ofPair heq ((readLocal_moves ..).mono)) ?_
            exact (refuseServe_moves ..).mono
        · split
          · exact (refuseServe_moves ..).mono
          · split
            · exact (setXlate_moves _ _).mono.then (sendAts_moves ..) |>.then (park_moves ..)
            · refine .then ?_ (emit_moves ..)
              refine .then ?_ (setXlateHostReads_moves _ _ _)
              exact (modRange_moves ..).mono

theorem streamOut_moves (s : State) (e : Nat) :
    s.Moves (s.streamOut e) [.queue, .keys] := by
  unfold State.streamOut
  exact (setKeys_moves _ _).mono.then (raise_moves ..)

theorem seal_moves (s : State) (c : Conn) (p : Packet) (again : Bool) (mismatches : Nat) :
    s.Moves (s.seal c p again mismatches).1 [.free, .regs, .queue, .keys] := by
  unfold State.seal
  split
  · exact .refl
  · split
    · rename_i heq
      refine State.Moves.trans (.ofPair heq (takeCounter_moves ..)) ?_
      exact .refl
    · rename_i heq
      refine State.Moves.trans (.ofPair heq (takeCounter_moves ..)) ?_
      exact .refl
    · rename_i heq
      refine State.Moves.trans (.ofPair heq (takeCounter_moves ..)) ?_
      refine .iteFst .refl ?_
      exact .iteFst ((bump_moves ..).mono.then (bumpBy_moves ..)) ((bump_moves ..).mono.then (bumpBy_moves ..) |>.then (streamOut_moves ..))

theorem addRecord_moves (s : State) (c : Conn) (op : Nat) (idx : Nat) (bytes : Nat) (p : Packet) (port : Option Nat) :
    s.Moves (s.addRecord c op idx bytes p port) [.mem, .trans] := by
  unfold State.addRecord
  dsimp -proj only
  refine .then ?_ (setMem_moves _ _)
  exact (modConn_moves ..).mono

theorem dropRecords_moves (s : State) (k : Nat) (gone : InFlight → Bool) :
    s.Moves (s.dropRecords k gone) [.mem, .trans] := by
  unfold State.dropRecords
  split
  · exact .refl
  · dsimp -proj only
    refine .then ?_ (setMem_moves _ _)
    exact (modConn_moves ..).mono

theorem dropUnsent_moves (s : State) (op : Nat) :
    s.Moves (s.dropUnsent op) [.mem, .trans] := by
  unfold State.dropUnsent
  refine .foldl .refl (fun s c => ?_)
  split
  · exact .refl
  · exact (dropRecords_moves ..).then (modOp_moves ..) |>.then (modConn_moves ..)

theorem firstRefused_moves (s : State) (c : Conn) (psn : Word32) (f : Status) :
    s.Moves (s.firstRefused c psn f) [.mem, .queue, .trans] := by
  unfold State.firstRefused
  dsimp -proj only
  refine .then ?_ (finishOps_moves ..)
  exact .foldl .refl (fun s id => (stopOp_moves ..).mono.then (dropUnsent_moves ..))

theorem transmit_moves (s : State) (k : Nat) (w : Sending) (p : Packet) (mismatches : Nat) (chosen : Option (Word32 × Nat)) :
    s.Moves (s.transmit k w p mismatches chosen) [.out, .free, .regs, .mem, .xlate, .queue, .trans, .ports, .ingress, .keys] := by
  unfold State.transmit
  split
  · exact .refl
  · dsimp -proj only
    split
    · split
      · rename_i heq
        refine State.Moves.trans (.ofPair heq ((seal_moves ..).mono)) ?_
        exact .ite (failEnd_moves ..).mono (firstRefused_moves ..).mono
      · rename_i heq
        refine State.Moves.trans (.ofPair heq ((seal_moves ..).mono)) ?_
        refine .ite (firstRefused_moves ..).mono ?_
        refine .then ?_ (modConn_moves ..)
        exact .foldl .refl (fun s id => (reportOp_moves ..).mono)
      · rename_i heq
        refine State.Moves.trans (.ofPair heq ((seal_moves ..).mono)) ?_
        refine .then ?_ (modConn_moves ..)
        refine .then ?_ (launch_moves ..)
        exact .ite (bump_moves ..).mono .refl
    · refine .then ?_ (modConn_moves ..)
      refine .then ?_ (advanceFree_moves ..)
      split
      · rename_i heq
        refine State.Moves.trans (.ofPair heq ((seal_moves ..).mono)) ?_
        exact (launch_moves ..).mono
      · rename_i heq
        refine State.Moves.trans (.ofPair heq ((seal_moves ..).mono)) ?_
        exact .refl
    · refine .ite ?_ ?_
      · refine .then ?_ (modConn_moves ..)
        refine .then ?_ (advanceFree_moves ..)
        split
        · rename_i heq
          refine State.Moves.trans (.ofPair heq ((seal_moves ..).mono)) ?_
          exact (launch_moves ..).mono
        · rename_i heq
          refine State.Moves.trans (.ofPair heq ((seal_moves ..).mono)) ?_
          exact .refl
      · refine .then ?_ (endServe_moves ..)
        refine .then ?_ (advanceFree_moves ..)
        split
        · rename_i heq
          refine State.Moves.trans (.ofPair heq ((seal_moves ..).mono)) ?_
          exact (launch_moves ..).mono
        · rename_i heq
          refine State.Moves.trans (.ofPair heq ((seal_moves ..).mono)) ?_
          exact .refl
    · split
      · rename_i heq
        refine State.Moves.trans (.ofPair heq ((seal_moves ..).mono)) ?_
        exact (launch_moves ..).mono.then (addRecord_moves ..) |>.then (modOp_moves ..)
      · rename_i heq
        refine State.Moves.trans (.ofPair heq ((seal_moves ..).mono)) ?_
        exact (stopOp_moves ..).mono.then (finishOps_moves ..)
      · rename_i heq
        refine State.Moves.trans (.ofPair heq ((seal_moves ..).mono)) ?_
        exact (stopOp_moves ..).mono.then (finishOps_moves ..)
    · split
      · rename_i heq
        refine State.Moves.trans (.ofPair heq ((seal_moves ..).mono)) ?_
        exact (launch_moves ..).mono.then (addRecord_moves ..) |>.then (modOp_moves ..)
      · rename_i heq
        refine State.Moves.trans (.ofPair heq ((seal_moves ..).mono)) ?_
        exact (stopOp_moves ..).mono.then (finishOps_moves ..)
      · rename_i heq
        refine State.Moves.trans (.ofPair heq ((seal_moves ..).mono)) ?_
        exact (stopOp_moves ..).mono.then (finishOps_moves ..)

theorem needContext_moves (s : State) (k : Nat) :
    s.Moves (s.needContext k) [.trans] := by
  unfold State.needContext
  split
  · exact .refl
  · exact .ite (fetchContext_moves ..) .refl

theorem freeMismatches_moves (s : State) (k : Nat) :
    s.Moves (s.freeMismatches k).1 [.free] := by
  unfold State.freeMismatches
  exact .iteFst (advanceFree_moves ..) .refl

theorem awaitRecords_moves (s : State) (k : Nat) :
    s.Moves (s.awaitRecords k) [.mem] := by
  unfold State.awaitRecords
  exact .ite .refl (setMem_moves _ _)

theorem askNeeds_moves (s : State) (k : Nat) :
    s.Moves (s.askNeeds k) [.mem, .trans] := by
  unfold State.askNeeds
  dsimp -proj only
  split
  · exact (needContext_moves ..).mono
  · exact .ite ((needContext_moves ..).mono.then (awaitRecords_moves ..)) (needContext_moves ..).mono

theorem pump_moves (s : State) (k : Nat) (fuel : Nat) :
    s.Moves (s.pump k fuel) [.out, .free, .regs, .power, .mem, .xlate, .queue, .trans, .ports, .ingress, .dirtyLogs, .host, .hostReads,
        .keys] := by
  induction fuel generalizing s with
  | zero => exact .refl
  | succ fuel ih =>
    rw [State.pump]
    split
    · rename_i heq
      refine State.Moves.trans (.ofPair heq ((readServe_moves ..).mono.then (nextFrame_moves ..))) ?_
      split
      · rename_i heq
        refine State.Moves.trans (.ofPair heq ((freeMismatches_moves ..).mono)) ?_
        exact (transmit_moves ..).mono.then (ih ..)
    · rename_i heq
      refine State.Moves.trans (.ofPair heq ((readServe_moves ..).mono.then (nextFrame_moves ..))) ?_
      split
      · exact (askNeeds_moves ..).mono.then (finishOps_moves ..)
      · exact .refl

theorem modWheel_moves (s : State) (o : WheelOwner) (f : WheelEntry → WheelEntry) :
    s.Moves (s.modWheel o f) [.trans] := by
  unfold State.modWheel
  exact setTrans_moves _ _

theorem placeEntry_moves (s : State) (o : WheelOwner) (wheel : Nat) (at_ : Nat) (chosen : Option (Word32 × Nat)) :
    s.Moves (s.placeEntry o wheel at_ chosen) [.trans] := by
  unfold State.placeEntry
  exact modWheel_moves ..

theorem kick_moves (s : State) (k : Nat) :
    s.Moves (s.kick k) [.out, .free, .regs, .power, .mem, .xlate, .queue, .trans, .ports, .ingress, .dirtyLogs, .host, .hostReads,
        .keys] := by
  unfold State.kick
  split
  · exact .refl
  · dsimp -proj only
    split
    · rename_i heq
      refine State.Moves.trans (.ofPair heq ((readServe_moves ..).mono.then (nextFrame_moves ..))) ?_
      exact (askNeeds_moves ..).mono.then (finishOps_moves ..)
    · rename_i heq
      refine State.Moves.trans (.ofPair heq ((readServe_moves ..).mono.then (nextFrame_moves ..))) ?_
      split
      · exact pump_moves ..
      · split
        · exact (setTrans_moves _ _).mono.then (placeEntry_moves ..)
        · exact .ite .refl (placeEntry_moves ..).mono

theorem kickSet_moves (s : State) (c : Conn) :
    s.Moves (s.kickSet c) [.out, .free, .regs, .power, .mem, .xlate, .queue, .trans, .ports, .ingress, .dirtyLogs, .host, .hostReads,
        .keys] := by
  unfold State.kickSet
  exact .foldl .refl (fun s m => (kick_moves ..))

theorem visitLoop_moves (s : State) (k : Nat) (mismatches : List Nat) (fuel : Nat) :
    s.Moves (s.visitLoop k mismatches fuel) [.out, .free, .regs, .power, .mem, .xlate, .queue, .trans, .ports, .ingress, .dirtyLogs,
        .host, .hostReads, .keys] := by
  induction fuel generalizing s mismatches with
  | zero => exact .refl
  | succ fuel ih =>
    rw [State.visitLoop]
    dsimp -proj only
    split
    · rename_i heq _ _
      refine .trans (.ofPair heq ((readServe_moves ..).mono.then (nextFrame_moves ..))) ?_
      split
      · exact (transmit_moves ..).mono.then (ih ..)
      · refine .ite ?_ (placeEntry_moves ..).mono
        exact (modWheel_moves ..).mono.then (transmit_moves ..) |>.then (ih ..)
    · rename_i heq _
      refine .trans (.ofPair heq ((readServe_moves ..).mono.then (nextFrame_moves ..))) ?_
      split
      · exact (modWheel_moves ..).mono.then (askNeeds_moves ..) |>.then (finishOps_moves ..)
      · exact (modWheel_moves ..).mono

theorem gainCredit_moves (s : State) (o : WheelOwner) (gain : Rat) :
    s.Moves (s.gainCredit o gain) [.trans] := by
  unfold State.gainCredit
  exact modWheel_moves ..

theorem visit_moves (s : State) (k : Nat) (mismatches : List Nat) :
    s.Moves (s.visit k mismatches) [.out, .free, .regs, .power, .mem, .xlate, .queue, .trans, .ports, .ingress, .dirtyLogs, .host,
        .hostReads, .keys] := by
  unfold State.visit
  split
  · rename_i heq
    refine State.Moves.trans (.ofPair heq ((readServe_moves ..).mono.then (nextFrame_moves ..))) ?_
    split
    · exact (gainCredit_moves ..).mono.then (visitLoop_moves ..)
    · exact .refl

theorem markReceived_moves (s : State) (k : Nat) (psns : List Word32) (stamp : Word32) :
    s.Moves (s.markReceived k psns stamp) [.trans] := by
  unfold State.markReceived
  exact modConn_moves ..

theorem siteSample_moves (s : State) (c : Coord) (r : Nat) :
    s.Moves (s.siteSample c r) [.trans] := by
  unfold State.siteSample
  exact setTrans_moves _ _

theorem sample_moves (s : State) (k : Nat) (r : Nat) :
    s.Moves (s.sample k r) [.trans] := by
  unfold State.sample
  split
  · exact .refl
  · exact (modConn_moves ..).then (sbtRoll_moves ..) |>.then (siteSample_moves ..)

theorem windowSample_moves (s : State) (k : Nat) (r : Nat) (bytes : Nat) (ece : Bool) :
    s.Moves (s.windowSample k r bytes ece) [.regs, .trans] := by
  unfold State.windowSample
  split
  · exact .refl
  · refine .ite .refl ?_
    dsimp -proj only
    refine .ite ?_ ?_
    · refine .ite (modConn_moves ..).mono ?_
      exact .ite ((bump_moves ..).mono.then (modConn_moves ..)) .refl
    · exact .ite ((bump_moves ..).mono.then (modConn_moves ..)) .refl

theorem resolve_moves (s : State) (k : Nat) (ackPsn : Word32) (sack : List (Nat × Nat)) :
    s.Moves (s.resolve k ackPsn sack).1 [.mem, .trans] := by
  unfold State.resolve
  split
  · exact .refl
  · dsimp -proj only
    refine .then ?_ (modConn_moves ..)
    refine .then ?_ (dropRecords_moves ..)
    exact .foldl .refl (fun s r => (modOp_moves ..).mono)

theorem again_moves (s : State) (k : Nat) (psn : Word32) (retry : Bool) :
    s.Moves (s.again k psn retry) [.trans] := by
  unfold State.again
  exact modConn_moves ..

theorem againAll_moves (s : State) (k : Nat) (rs : List InFlight) :
    s.Moves (s.againAll k rs) [.trans] := by
  unfold State.againAll
  exact .foldl .refl (fun s r => (again_moves ..))

theorem detectLoss_moves (s : State) (k : Nat) (echo : Word32) (ackPsn : Word32) (sack : List (Nat × Nat)) :
    s.Moves (s.detectLoss k echo ackPsn sack) [.trans] := by
  unfold State.detectLoss
  split
  · exact .refl
  · exact .ite .refl (againAll_moves ..)

theorem onReport_moves (s : State) (k : Nat) (rxTime : Nat) (p : Packet) :
    s.Moves (s.onReport k rxTime p) [.regs, .mem, .queue, .trans] := by
  unfold State.onReport
  split
  · exact .refl
  · dsimp -proj only
    refine .then ?_ (finishOps_moves ..)
    refine .then ?_ (detectLoss_moves ..)
    exact .ite ((sample_moves ..).mono.then (resolve_moves ..)) ((sample_moves ..).mono.then (resolve_moves ..)
        |>.then (windowSample_moves ..))

/-! ### The operations of Machine/RemoteOps.lean -/

theorem post_moves (s : State) (c : Conn) (o : ConnOp) :
    s.Moves (s.post c o) [.trans] := by
  unfold State.post
  exact (modConn_moves ..).then (setTrans_moves _ _)

theorem startRemote_moves (s : State) (q : Nat) (count : Word32) (op : Nat) (kind : OpKind) :
    s.Moves (s.startRemote q count op kind).1 [.queue, .trans] := by
  unfold State.startRemote
  split
  · exact .refl
  · dsimp -proj only
    split
    · exact (endWith_moves ..).mono
    · split
      · exact (endWith_moves ..).mono
      · split
        · exact (endWith_moves ..).mono
        · refine .iteFst .refl ?_
          refine .iteFst .refl ?_
          refine .iteFst ?_ ((post_moves ..).mono.then (modStarted_moves ..))
          exact .foldl .refl (fun s m => (fetchContext_moves ..).mono)

theorem landingReady_moves (s : State) (c : Conn) (o : ConnOp) (len : Nat) :
    s.Moves (s.landingReady c o len).1 [.out, .free, .regs, .power, .mem, .xlate, .queue, .trans, .dirtyLogs, .host, .hostReads] := by
  unfold State.landingReady
  split
  · exact .refl
  · exact .refl
  · exact .iteFst .refl (access_moves ..)

theorem sendSegment_moves (s : State) (o : ConnOp) (first : Conn) :
    s.Moves (s.sendSegment o first) [.out, .free, .regs, .power, .mem, .xlate, .queue, .trans, .ports, .ingress, .dirtyLogs, .host,
        .hostReads, .keys] := by
  unfold State.sendSegment
  dsimp -proj only
  split
  · exact .refl
  · refine .ite .refl ?_
    split
    · rename_i heq
      refine State.Moves.trans (.ofPair heq ((landingReady_moves ..).mono)) ?_
      exact (stopOp_moves ..).mono.then (finishOps_moves ..)
    · rename_i heq
      refine State.Moves.trans (.ofPair heq ((landingReady_moves ..).mono)) ?_
      refine .then ?_ (kick_moves ..)
      refine .then ?_ (setMem_moves _ _)
      exact (modOp_moves ..).mono.then (modConn_moves ..)
    · rename_i heq
      refine State.Moves.trans (.ofPair heq ((landingReady_moves ..).mono)) ?_
      exact .refl

/-! ### The operations of Machine/RecvOps.lean -/

theorem frontChecks_moves (s : State) (a : Arrival) :
    s.Moves (s.frontChecks a).1 [.out, .free, .regs, .power, .mem, .xlate, .queue, .trans, .dirtyLogs, .host, .hostReads] := by
  unfold State.frontChecks
  refine .iteFst ?_ ?_
  · split
    · exact toFilters_moves ..
    · exact .refl
  · refine .iteFst (bump_moves ..).mono ?_
    exact .iteFst (bump_moves ..).mono .refl

theorem parkArrival_moves (s : State) (c : Conn) (x : Received) :
    s.Moves (s.parkArrival c x) [.out, .regs, .trans, .ports, .ingress] := by
  unfold State.parkArrival
  dsimp -proj only
  refine .ite ((bump_moves ..).mono.then (sendNak_moves ..)) ?_
  exact .ite ((bump_moves ..).mono.then (modConn_moves ..)) ((bump_moves ..).mono.then (modConn_moves ..) |>.then (fetchContext_moves ..))

theorem invMismatch_moves (s : State) (home : Nat) :
    s.Moves (s.invMismatch home) [.free, .regs, .queue, .keys] := by
  unfold State.invMismatch
  dsimp -proj only
  split
  · exact (bump_moves ..).mono.then (bump_moves ..)
  · exact .ite ((bump_moves ..).mono.then (bump_moves ..) |>.then (advanceFree_moves ..) |>.then (setKeys_moves _ _)
        |>.then (streamOut_moves ..)) ((bump_moves ..).mono.then (bump_moves ..) |>.then (advanceFree_moves ..) |>.then (setKeys_moves _ _))

theorem unseal_moves (s : State) (c : Conn) (slot : Nat) (n : Word64) (a : Arrival) :
    s.Moves (s.unseal c slot n a).1 [.free, .regs, .queue, .keys] := by
  unfold State.unseal
  refine .iteFst (bump_moves ..).mono ?_
  refine .iteFst (bump_moves ..).mono ?_
  dsimp -proj only
  refine .iteFst ((loadRecv_moves ..).mono.then (bump_moves ..)) ?_
  exact .iteFst ((loadRecv_moves ..).mono.then (invMismatch_moves ..)) (loadRecv_moves ..).mono

theorem endChecks_moves (s : State) (x : Received) :
    s.Moves (s.endChecks x).1 [.out, .free, .regs, .queue, .trans, .ports, .ingress, .keys] := by
  unfold State.endChecks
  dsimp -proj only
  split
  · exact (bump_moves ..).mono
  · refine .iteFst (bump_moves ..).mono ?_
    refine .iteFst (bump_moves ..).mono ?_
    refine .iteFst ?_ ?_
    · exact .ite (sendNak_moves ..).mono .refl
    · refine .iteFst .refl ?_
      refine .iteFst ((bump_moves ..).mono.then (sendNak_moves ..)) ?_
      refine .iteFst (parkArrival_moves ..).mono ?_
      split
      · split
        · rename_i heq
          refine State.Moves.trans (.ofPair heq ((touchLine_moves ..).mono.then (unseal_moves ..))) ?_
          exact .refl
        · rename_i heq
          refine State.Moves.trans (.ofPair heq ((touchLine_moves ..).mono.then (unseal_moves ..))) ?_
          exact .refl
      · exact (touchLine_moves ..).mono

theorem psnChecks_moves (s : State) (c : Conn) (p : Packet) :
    s.Moves (s.psnChecks c p).1 [.out, .regs, .trans, .ports, .ingress] := by
  unfold State.psnChecks
  refine .iteFst .refl ?_
  refine .iteFst (bump_moves ..).mono ?_
  refine .iteFst ?_ .refl
  exact .iteFst .refl ((modConn_moves ..).mono.then (sendNak_moves ..))

theorem ackDup_moves (s : State) (c : Conn) (p : Packet) :
    s.Moves (s.ackDup c p) [.out, .regs, .trans, .ports, .ingress] := by
  unfold State.ackDup
  exact (bump_moves ..).mono.then (sendAck_moves ..)

theorem inboundFault_moves (s : State) (e : RangeEntry) (f : Func) (pasid : Option (BitVec 20)) (page : Nat) :
    s.Moves (s.inboundFault e f pasid page).1 [.out, .free, .regs, .xlate] := by
  unfold State.inboundFault
  refine .iteFst (bump_moves ..).mono ?_
  refine .iteFst (bump_moves ..).mono ?_
  exact .iteFst (bump_moves ..).mono (fault_moves ..).mono

theorem inbound_moves (s : State) (c : Conn) (off : Nat) (len : Nat) (perm : Nat) (key : Word32) :
    s.Moves (s.inbound c off len perm key).1 [.out, .free, .regs, .xlate] := by
  unfold State.inbound
  refine .iteFst .refl ?_
  refine .iteFst .refl ?_
  refine .iteFst .refl ?_
  split
  · rename_i heq
    refine State.Moves.trans (.ofPair heq ((lookup_moves ..).mono)) ?_
    split
    · exact .refl
    · dsimp -proj only
      refine .iteFst ?_ ?_
      · split
        · exact .refl
        · exact .refl
      · split
        · exact .ite (bump_moves ..).mono .refl
        · split
          · exact (setXlate_moves _ _).mono
          · split
            · exact (sendAts_moves ..).mono
            · split
              · exact .refl
              · exact .refl

theorem refuseEvent_moves (s : State) (c : Conn) (p : Packet) (code : EventCode) (st : Status) (cause : Nat) :
    s.Moves (s.refuseEvent c p code st cause) [.queue] := by
  unfold State.refuseEvent
  exact inboundEvent_moves ..

theorem refuse_moves (s : State) (k : Nat) (p : Packet) (psns : List Word32) (st : Status) :
    s.Moves (s.refuse k p psns st) [.out, .regs, .trans, .ports, .ingress] := by
  unfold State.refuse
  exact (markReceived_moves ..).mono.then (sendNak_moves ..)

theorem modMsg_moves (s : State) (c : Conn) (p : Packet) (f : RxMsg → RxMsg) :
    s.Moves (s.modMsg c p f) [.trans] := by
  unfold State.modMsg
  exact modConn_moves ..

theorem noteCe_moves (s : State) (k : Nat) (ce : Bool) :
    s.Moves (s.noteCe k ce) [.trans] := by
  unfold State.noteCe
  exact .ite (modConn_moves ..) .refl

theorem releaseHeld_moves (s : State) (first : Nat) (msn : BitVec 24) :
    s.Moves (s.releaseHeld first msn) [.out, .regs, .trans, .ports, .ingress] := by
  unfold State.releaseHeld
  split
  · exact .refl
  · exact (modConn_moves ..).mono.foldl (fun s h => (markReceived_moves ..).mono.then (noteCe_moves ..) |>.then (sendAck_moves ..))

theorem loseMsg_moves (s : State) (c : Conn) (p : Packet) :
    s.Moves (s.loseMsg c p) [.out, .regs, .trans, .ports, .ingress] := by
  unfold State.loseMsg
  exact (modMsg_moves ..).mono.then (releaseHeld_moves ..)

theorem violate_moves (s : State) (c : Conn) (p : Packet) (psns : List Word32) (cause : Nat) :
    s.Moves (s.violate c p psns cause) [.out, .regs, .queue, .trans, .ports, .ingress] := by
  unfold State.violate
  dsimp -proj only
  refine .then ?_ (refuse_moves ..)
  refine .ite ?_ ?_
  · refine .then ?_ (loseMsg_moves ..)
    refine .then ?_ (modMsg_moves ..)
    exact .ite (bump_moves ..).mono ((bump_moves ..).mono.then (refuseEvent_moves ..))
  · refine .ite ?_ ?_
    · exact .ite (bump_moves ..).mono ((bump_moves ..).mono.then (refuseEvent_moves ..))
    · refine .then ?_ (modConn_moves ..)
      exact .ite (bump_moves ..).mono ((bump_moves ..).mono.then (refuseEvent_moves ..))

theorem turnAway_moves (s : State) (c : Conn) (a : Arrival) (psns : List Word32) (x1 : Inbound) :
    s.Moves (s.turnAway c a psns x1) [.out, .regs, .queue, .trans, .ports, .ingress] := by
  unfold State.turnAway
  split
  · exact violate_moves ..
  · dsimp -proj only
    refine .then ?_ (refuse_moves ..)
    exact .ite ((bump_moves ..).mono.then (loseMsg_moves ..)) (bump_moves ..).mono
  · dsimp -proj only
    refine .then ?_ (refuse_moves ..)
    refine .ite ?_ ?_
    · refine .then ?_ (loseMsg_moves ..)
      exact .ite (refuseEvent_moves ..).mono .refl
    · exact .ite (refuseEvent_moves ..).mono .refl
  · exact (sendNak_moves ..).mono
  · exact (setTrans_moves _ _).mono
  · exact .refl

theorem takeHeld_moves (s : State) (good : WaitFor → Bool) :
    s.Moves (s.takeHeld good).1 [.trans] := by
  unfold State.takeHeld
  split
  · exact setTrans_moves _ _

theorem finishMsg_moves (s : State) (first : Nat) (msn : BitVec 24) :
    s.Moves (s.finishMsg first msn) [.out, .regs, .power, .queue, .trans, .ports, .ingress] := by
  unfold State.finishMsg
  split
  · dsimp -proj only
    split
    · exact (releaseHeld_moves ..).mono.then (modConn_moves ..)
    · exact .ite ((setLace_moves ..).mono.then (releaseHeld_moves ..) |>.then (modConn_moves ..))
          ((bump_moves ..).mono.then (inboundEvent_moves ..) |>.then (markReceived_moves ..) |>.then (sendNak_moves ..)
          |>.then (modConn_moves ..) |>.then (releaseHeld_moves ..) |>.then (modConn_moves ..))
  · exact .refl

theorem refuseMsg_moves (s : State) (first : Nat) (msn : BitVec 24) (code : Status) :
    s.Moves (s.refuseMsg first msn code) [.out, .regs, .trans, .ports, .ingress] := by
  unfold State.refuseMsg
  split
  · exact .refl
  · exact (modConn_moves ..).mono.foldl (fun s h => (markReceived_moves ..).mono.then (sendNak_moves ..))

theorem updMsg_moves (s : State) (first : Nat) (msn : BitVec 24) (f : RxMsg → RxMsg) :
    s.Moves (s.updMsg first msn f) [.trans] := by
  unfold State.updMsg
  exact modConn_moves ..

theorem flushMsgFailed_moves (s : State) (c : Conn) (m : RxMsg) (pathTag : Nat) (code : Status) :
    s.Moves (s.flushMsgFailed c m pathTag code) [.out, .regs, .queue, .trans, .ports, .ingress] := by
  unfold State.flushMsgFailed
  dsimp -proj only
  refine .then ?_ (refuseMsg_moves ..)
  exact .ite (bump_moves ..).mono ((bump_moves ..).mono.then (raise_moves ..))

theorem flushedMsg_moves (s : State) (first : Nat) (msn : BitVec 24) :
    s.Moves (s.flushedMsg first msn) [.out, .regs, .power, .queue, .trans, .ports, .ingress] := by
  unfold State.flushedMsg
  split
  · refine .ite .refl ?_
    split
    · exact (flushMsgFailed_moves ..).mono
    · exact .ite (finishMsg_moves ..) .refl
  · exact .refl

theorem flushMsg_moves (s : State) (first : Nat) (msn : BitVec 24) :
    s.Moves (s.flushMsg first msn) [.out, .regs, .power, .xlate, .queue, .trans, .ports, .ingress, .hostReads] := by
  unfold State.flushMsg
  split
  · split
    · rename_i heq
      refine State.Moves.trans (.ofPair heq ((issueFlushes_moves ..).mono)) ?_
      exact (updMsg_moves ..).mono.then (flushedMsg_moves ..)
  · exact .refl

theorem completeMsg_moves (s : State) (first : Nat) (msn : BitVec 24) :
    s.Moves (s.completeMsg first msn) [.out, .regs, .power, .xlate, .queue, .trans, .ports, .ingress, .hostReads] := by
  unfold State.completeMsg
  split
  · exact .refl
  · exact .ite (flushMsg_moves ..) (updMsg_moves ..).mono

theorem ackIfDue_moves (s : State) (k : Nat) (p : Packet) :
    s.Moves (s.ackIfDue k p) [.out, .regs, .trans, .ports, .ingress] := by
  unfold State.ackIfDue
  split
  · exact .refl
  · exact .ite (sendAck_moves ..) .refl

theorem placeBytes_moves (s : State) (c : Conn) (e : RangeEntry) (off : Nat) (bytes : List Byte) :
    s.Moves (s.placeBytes c e off bytes).1 [.out, .free, .regs, .power, .mem, .xlate, .queue, .trans, .dirtyLogs, .host, .hostReads] := by
  unfold State.placeBytes
  split
  · split
    · rename_i heq
      refine State.Moves.trans (.ofPair heq ((writeLocal_moves ..).mono)) ?_
      exact .refl
  · refine .iteFst .refl ?_
    split
    · exact (hostAccess_moves ..).mono

theorem dataPlaced_moves (s : State) (c : Conn) (a : Arrival) (path : Option (Nat × Nat)) :
    s.Moves (s.dataPlaced c a path) [.out, .regs, .power, .xlate, .queue, .trans, .ports, .ingress, .hostReads] := by
  unfold State.dataPlaced
  dsimp -proj only
  split
  · exact (modMsg_moves ..).mono
  · refine .ite ?_ ?_
    · refine .ite ?_ ?_
      · refine .then ?_ (finishMsg_moves ..)
        exact .ite (modMsg_moves ..).mono ((modMsg_moves ..).mono.then (markReceived_moves ..) |>.then (noteCe_moves ..))
      · refine .ite ?_ ?_
        · refine .then ?_ (completeMsg_moves ..)
          exact .ite (modMsg_moves ..).mono ((modMsg_moves ..).mono.then (markReceived_moves ..) |>.then (noteCe_moves ..))
        · exact .ite (modMsg_moves ..).mono ((modMsg_moves ..).mono.then (markReceived_moves ..) |>.then (noteCe_moves ..))
    · refine .then ?_ (ackIfDue_moves ..)
      refine .ite ?_ ?_
      · refine .then ?_ (finishMsg_moves ..)
        exact .ite (modMsg_moves ..).mono ((modMsg_moves ..).mono.then (markReceived_moves ..) |>.then (noteCe_moves ..))
      · refine .ite ?_ ?_
        · refine .then ?_ (completeMsg_moves ..)
          exact .ite (modMsg_moves ..).mono ((modMsg_moves ..).mono.then (markReceived_moves ..) |>.then (noteCe_moves ..))
        · exact .ite (modMsg_moves ..).mono ((modMsg_moves ..).mono.then (markReceived_moves ..) |>.then (noteCe_moves ..))

theorem takeData_moves (s : State) (c : Conn) (a : Arrival) :
    s.Moves (s.takeData c a) [.out, .free, .regs, .power, .mem, .xlate, .queue, .trans, .ports, .ingress, .dirtyLogs, .host,
        .hostReads] := by
  unfold State.takeData
  dsimp -proj only
  split
  · exact .refl
  · split
    · rename_i heq
      refine State.Moves.trans (.ofPair heq ((inbound_moves ..).mono)) ?_
      exact (dataPlaced_moves ..).mono
    · rename_i heq
      refine State.Moves.trans (.ofPair heq ((inbound_moves ..).mono)) ?_
      split
      · exact (transferUe_moves ..).mono
      · split
        · rename_i heq
          refine State.Moves.trans (.ofPair heq ((placeBytes_moves ..).mono)) ?_
          exact (dataPlaced_moves ..).mono
        · rename_i heq
          refine State.Moves.trans (.ofPair heq ((placeBytes_moves ..).mono)) ?_
          exact (turnAway_moves ..).mono
        · rename_i heq
          refine State.Moves.trans (.ofPair heq ((placeBytes_moves ..).mono)) ?_
          exact (turnAway_moves ..).mono
    · rename_i heq
      refine State.Moves.trans (.ofPair heq ((inbound_moves ..).mono)) ?_
      exact (turnAway_moves ..).mono

theorem takeReadReq_moves (s : State) (c : Conn) (a : Arrival) :
    s.Moves (s.takeReadReq c a) [.out, .free, .regs, .power, .mem, .xlate, .queue, .trans, .ports, .ingress, .dirtyLogs, .host,
        .hostReads, .keys] := by
  unfold State.takeReadReq
  dsimp -proj only
  split
  · exact .refl
  · refine .ite (sendNak_moves ..).mono ?_
    split
    · rename_i heq
      refine State.Moves.trans (.ofPair heq ((inbound_moves ..).mono)) ?_
      refine .then ?_ (kick_moves ..)
      refine .then ?_ (ackIfDue_moves ..)
      exact .ite ((modRange_moves ..).mono.then (setTrans_moves _ _) |>.then (modConn_moves ..))
          ((modRange_moves ..).mono.then (setTrans_moves _ _) |>.then (modConn_moves ..) |>.then (noteCe_moves ..)
          |>.then (markReceived_moves ..))
    · rename_i heq
      refine State.Moves.trans (.ofPair heq ((inbound_moves ..).mono)) ?_
      exact (noteCe_moves ..).mono.then (markReceived_moves ..) |>.then (ackIfDue_moves ..)
    · rename_i heq
      refine State.Moves.trans (.ofPair heq ((inbound_moves ..).mono)) ?_
      exact (turnAway_moves ..).mono

theorem answerAtomic_moves (s : State) (c : Conn) (w : AtomicAnswer) :
    s.Moves (s.answerAtomic c w) [.out, .free, .regs, .power, .mem, .xlate, .queue, .trans, .ports, .ingress, .dirtyLogs, .host,
        .hostReads, .keys] := by
  unfold State.answerAtomic
  exact (modConn_moves ..).mono.then (kick_moves ..)

theorem takeAtomic_moves (s : State) (c : Conn) (a : Arrival) :
    s.Moves (s.takeAtomic c a) [.out, .free, .regs, .power, .mem, .xlate, .queue, .trans, .ports, .ingress, .dirtyLogs, .host,
        .hostReads, .keys] := by
  unfold State.takeAtomic
  dsimp -proj only
  split
  · split
    · rename_i heq
      refine State.Moves.trans (.ofPair heq ((inbound_moves ..).mono)) ?_
      split
      · rename_i heq
        refine State.Moves.trans (.ofPair heq ((shankLock_moves ..).mono.then (readNear_moves ..))) ?_
        exact (shankFree_moves ..).mono.then (turnAway_moves ..)
      · rename_i heq
        refine State.Moves.trans (.ofPair heq ((shankLock_moves ..).mono.then (readNear_moves ..))) ?_
        refine .ite ?_ ?_
        · refine .then ?_ (turnAway_moves ..)
          refine .then ?_ (shankFree_moves ..)
          exact .iteFst .refl (writeNear_moves ..).mono
        · refine .then ?_ (answerAtomic_moves ..)
          refine .then ?_ (ackIfDue_moves ..)
          refine .then ?_ (modConn_moves ..)
          refine .then ?_ (markReceived_moves ..)
          refine .then ?_ (noteCe_moves ..)
          refine .then ?_ (shankFree_moves ..)
          exact .iteFst .refl (writeNear_moves ..).mono
    · rename_i heq
      refine State.Moves.trans (.ofPair heq ((inbound_moves ..).mono)) ?_
      exact (turnAway_moves ..).mono
  · exact .refl

/-! ### The operations of Machine/ConnOps.lean -/

theorem makeEnd_moves (s : State) (x : EndSpec) (first : Nat) (i : Nat) (initiator : Bool) (creator : Option (Nat × Word32)) :
    s.Moves (s.makeEnd x first i initiator creator) [.free, .trans] := by
  unfold State.makeEnd
  exact .ite ((advanceFree_moves ..).mono.then (setTrans_moves _ _) |>.then (fetchContext_moves ..))
      ((advanceFree_moves ..).mono.then (setTrans_moves _ _))

theorem makeEnds_moves (s : State) (x : EndSpec) (first : Nat) (initiator : Bool) (creator : Option (Nat × Word32)) :
    s.Moves (s.makeEnds x first initiator creator) [.free, .trans] := by
  unfold State.makeEnds
  exact .foldl .refl (fun s i => (makeEnd_moves ..))

theorem joinEnd_moves (s : State) (k : Nat) (peerIndex : BitVec 24) (peerInc : BitVec 8) (peerPsn : Word32) :
    s.Moves (s.joinEnd k peerIndex peerInc peerPsn) [.trans] := by
  unfold State.joinEnd
  dsimp -proj only
  split
  · exact modConn_moves ..
  · exact .ite ((modConn_moves ..).foldl (fun s m => (modConn_moves ..))) (modConn_moves ..)

theorem freeEnd_moves (s : State) (k : Nat) :
    s.Moves (s.freeEnd k) [.mem, .xlate, .trans] := by
  unfold State.freeEnd
  split
  · exact .refl
  · dsimp -proj only
    refine .then ?_ (setMemTrans_moves _ _ _)
    exact .foldl .refl (fun s x => (endServe_moves ..).mono)

theorem freeSet_moves (s : State) (c : Conn) :
    s.Moves (s.freeSet c) [.mem, .xlate, .trans] := by
  unfold State.freeSet
  exact .foldl .refl (fun s m => (freeEnd_moves ..))

theorem endOps_moves (s : State) (c : Conn) (code : Status) :
    s.Moves (s.endOps c code) [.mem, .queue, .trans] := by
  unfold State.endOps
  dsimp -proj only
  refine .foldl ?_ (fun s o => (opEnded_moves ..).mono)
  refine .then ?_ (modConn_moves ..)
  refine .foldl .refl (fun s m => ?_)
  refine .then ?_ (setMem_moves _ _)
  exact (modConn_moves ..).mono

theorem makeSet_moves (s : State) (x : EndSpec) (first : Nat) (initiator : Bool) (creator : Option (Nat × Word32)) :
    s.Moves (s.makeSet x first initiator creator) [.free, .trans] := by
  unfold State.makeSet
  exact (makeEnds_moves ..).foldl (fun s i => (modConn_moves ..).mono)

theorem openConn_moves (s : State) (x : EndSpec) (first : Nat) (creator : Option (Nat × Word32)) :
    s.Moves (s.openConn x first creator) [.out, .free, .regs, .trans, .ports, .ingress] := by
  unfold State.openConn
  dsimp -proj only
  split
  · exact (makeSet_moves ..).mono.then (sendCtrl_moves ..)
  · exact (makeSet_moves ..).mono

theorem closeSet_moves (s : State) (c : Conn) :
    s.Moves (s.closeSet c) [.out, .regs, .mem, .xlate, .trans, .ports, .ingress] := by
  unfold State.closeSet
  refine .ite ?_ ?_
  · dsimp -proj only
    refine .then ?_ (sendCtrl_moves ..)
    exact .foldl .refl (fun s m => (modConn_moves ..).mono)
  · refine .ite ((dropCtrl_moves ..).mono.then (freeSet_moves ..)) ?_
    exact .ite (freeSet_moves ..).mono .refl

/-! ### The operations of Machine/CollOps.lean -/

theorem modGroup_moves (s : State) (h : Nat) (f : Group → Group) :
    s.Moves (s.modGroup h f) [.work] := by
  unfold State.modGroup
  exact setWork_moves _ _

theorem modColl_moves (s : State) (h : Nat) (f : CollOp → CollOp) :
    s.Moves (s.modColl h f) [.work] := by
  unfold State.modColl
  exact modGroup_moves ..

theorem progress_moves (s : State) (h : Nat) :
    s.Moves (s.progress h) [.work] := by
  unfold State.progress
  exact modGroup_moves ..

theorem tell_moves (s : State) (g : Group) (r : Nat) (m : CtrlMsg) :
    s.Moves (s.tell g r m) [.out, .regs, .trans, .ports, .ingress] := by
  unfold State.tell
  split
  · exact sendEndCtrl_moves ..
  · exact .refl

theorem tellAll_moves (s : State) (g : Group) (rs : List Nat) (m : CtrlMsg) :
    s.Moves (s.tellAll g rs m) [.out, .regs, .trans, .ports, .ingress] := by
  unfold State.tellAll
  exact .foldl .refl (fun s r => (tell_moves ..))

theorem stopSends_moves (s : State) (h : Nat) :
    s.Moves (s.stopSends h) [.trans] := by
  unfold State.stopSends
  exact setTrans_moves _ _

theorem endColl_moves (s : State) (h : Nat) (st : Status) (detail : Nat) (bytes : Nat) :
    s.Moves (s.endColl h st detail bytes) [.regs, .xlate, .queue, .work] := by
  unfold State.endColl
  split
  · exact .refl
  · split
    · exact .refl
    · dsimp -proj only
      refine .then ?_ (progress_moves ..)
      refine .ite ?_ ?_
      · refine .then ?_ (setWork_moves _ _)
        refine .then ?_ (setXlate_moves _ _)
        refine .ite ((modGroup_moves ..).mono.then (bump_moves ..)) ?_
        exact .ite ((modGroup_moves ..).mono.then (bump_moves ..)) (modGroup_moves ..).mono
      · refine .then ?_ (endDesc_moves ..)
        refine .then ?_ (setXlate_moves _ _)
        refine .ite ((modGroup_moves ..).mono.then (bump_moves ..)) ?_
        exact .ite ((modGroup_moves ..).mono.then (bump_moves ..)) (modGroup_moves ..).mono

theorem breakGroup_moves (s : State) (h : Nat) (st : Status) (event : Status) (origin : Nat) (epochCause : Bool) :
    s.Moves (s.breakGroup h st event origin epochCause) [.regs, .xlate, .queue, .trans, .work] := by
  unfold State.breakGroup
  split
  · exact .refl
  · exact (stopSends_moves ..).mono.then (endColl_moves ..) |>.then (modGroup_moves ..) |>.then (raise_moves ..)

theorem collFail_moves (s : State) (h : Nat) (code : Status) :
    s.Moves (s.collFail h code) [.out, .regs, .xlate, .queue, .trans, .ports, .ingress, .work] := by
  unfold State.collFail
  split
  · exact .refl
  · split
    · exact .refl
    · exact (tellAll_moves ..).mono.then (breakGroup_moves ..)

theorem collMismatch_moves (s : State) (h : Nat) (seq : Nat) (rank : Nat) (from_ : Option Nat) :
    s.Moves (s.collMismatch h seq rank from_) [.out, .regs, .trans, .ports, .ingress, .work] := by
  unfold State.collMismatch
  split
  · exact .refl
  · refine .ite .refl ?_
    dsimp -proj only
    split
    · exact .ite ((tellAll_moves ..).mono.then (modGroup_moves ..) |>.then (stopSends_moves ..) |>.then (modColl_moves ..))
          ((tellAll_moves ..).mono.then (modGroup_moves ..))
    · exact (tellAll_moves ..).mono.then (modGroup_moves ..)

theorem pieceDone_moves (s : State) (h : Nat) (p : Nat) :
    s.Moves (s.pieceDone h p) [.work] := by
  unfold State.pieceDone
  exact modColl_moves ..

theorem collDelivered_moves (s : State) (h : Nat) (what : CollUse) (bytes : List Byte) :
    s.Moves (s.collDelivered h what bytes) [.work] := by
  unfold State.collDelivered
  split
  · exact .refl
  · exact modColl_moves ..
  · exact modColl_moves ..
  · exact modColl_moves ..
  · exact modColl_moves ..
  · exact modColl_moves ..
  · exact modColl_moves ..
  · exact modColl_moves ..
  · exact .refl
  · exact modColl_moves ..
  · exact pieceDone_moves ..

theorem collStart_moves (s : State) (h : Nat) (what : CollUse) (a : Access) :
    s.Moves (s.collStart h what a) [.out, .free, .regs, .power, .mem, .xlate, .queue, .trans, .ports, .ingress, .work, .dirtyLogs,
        .host, .hostReads] := by
  unfold State.collStart
  refine .ite .refl ?_
  split
  · rename_i heq
    refine State.Moves.trans (.ofPair heq ((access_moves ..).mono)) ?_
    exact (collDelivered_moves ..).mono
  · rename_i heq
    refine State.Moves.trans (.ofPair heq ((access_moves ..).mono)) ?_
    exact .refl
  · rename_i heq
    refine State.Moves.trans (.ofPair heq ((access_moves ..).mono)) ?_
    exact .refl
  · rename_i heq
    refine State.Moves.trans (.ofPair heq ((access_moves ..).mono)) ?_
    exact (collFail_moves ..).mono

theorem collReject_moves (s : State) (h : Nat) (c : Status) :
    s.Moves (s.collReject h c) [.xlate, .queue, .work] := by
  unfold State.collReject
  split
  · exact .refl
  · split
    · exact .refl
    · exact .ite ((modGroup_moves ..).mono.then (setXlate_moves _ _) |>.then (setWork_moves _ _))
          ((modGroup_moves ..).mono.then (setXlate_moves _ _) |>.then (endWith_moves ..))

theorem pumpTables_moves (s : State) (h : Nat) :
    s.Moves (s.pumpTables h) [.out, .free, .regs, .power, .mem, .xlate, .queue, .trans, .ports, .ingress, .work, .dirtyLogs, .host,
        .hostReads] := by
  unfold State.pumpTables
  split
  · exact .refl
  · split
    · exact .refl
    · refine .ite .refl ?_
      dsimp -proj only
      split
      · split
        · split
          · refine .then ?_ (collStart_moves ..)
            split
            · refine .ite ?_ ?_
              · refine .ite ?_ ?_
                · refine .then ?_ (collStart_moves ..)
                  exact .ite (collStart_moves ..) .refl
                · exact .ite (collStart_moves ..) .refl
              · split
                · refine .then ?_ (collReject_moves ..)
                  refine .ite ?_ ?_
                  · refine .then ?_ (collStart_moves ..)
                    exact .ite (collStart_moves ..) .refl
                  · exact .ite (collStart_moves ..) .refl
                · refine .ite ?_ ?_
                  · refine .then ?_ (collStart_moves ..)
                    exact .ite (collStart_moves ..) .refl
                  · exact .ite (collStart_moves ..) .refl
            · refine .ite ?_ ?_
              · refine .then ?_ (collStart_moves ..)
                exact .ite (collStart_moves ..) .refl
              · exact .ite (collStart_moves ..) .refl
          · split
            · refine .ite ?_ ?_
              · refine .ite ?_ ?_
                · refine .then ?_ (collStart_moves ..)
                  exact .ite (collStart_moves ..) .refl
                · exact .ite (collStart_moves ..) .refl
              · split
                · refine .then ?_ (collReject_moves ..)
                  refine .ite ?_ ?_
                  · refine .then ?_ (collStart_moves ..)
                    exact .ite (collStart_moves ..) .refl
                  · exact .ite (collStart_moves ..) .refl
                · refine .ite ?_ ?_
                  · refine .then ?_ (collStart_moves ..)
                    exact .ite (collStart_moves ..) .refl
                  · exact .ite (collStart_moves ..) .refl
            · refine .ite ?_ ?_
              · refine .then ?_ (collStart_moves ..)
                exact .ite (collStart_moves ..) .refl
              · exact .ite (collStart_moves ..) .refl
        · split
          · refine .ite ?_ ?_
            · refine .ite ?_ ?_
              · refine .then ?_ (collStart_moves ..)
                exact .ite (collStart_moves ..) .refl
              · exact .ite (collStart_moves ..) .refl
            · split
              · refine .then ?_ (collReject_moves ..)
                refine .ite ?_ ?_
                · refine .then ?_ (collStart_moves ..)
                  exact .ite (collStart_moves ..) .refl
                · exact .ite (collStart_moves ..) .refl
              · refine .ite ?_ ?_
                · refine .then ?_ (collStart_moves ..)
                  exact .ite (collStart_moves ..) .refl
                · exact .ite (collStart_moves ..) .refl
          · refine .ite ?_ ?_
            · refine .then ?_ (collStart_moves ..)
              exact .ite (collStart_moves ..) .refl
            · exact .ite (collStart_moves ..) .refl
      · refine .ite ?_ ?_
        · split
          · split
            · refine .then ?_ (collStart_moves ..)
              split
              · refine .ite ?_ ?_
                · refine .ite ?_ ?_
                  · refine .then ?_ (collStart_moves ..)
                    exact .ite (collStart_moves ..) .refl
                  · exact .ite (collStart_moves ..) .refl
                · split
                  · refine .then ?_ (collReject_moves ..)
                    refine .ite ?_ ?_
                    · refine .then ?_ (collStart_moves ..)
                      exact .ite (collStart_moves ..) .refl
                    · exact .ite (collStart_moves ..) .refl
                  · refine .ite ?_ ?_
                    · refine .then ?_ (collStart_moves ..)
                      exact .ite (collStart_moves ..) .refl
                    · exact .ite (collStart_moves ..) .refl
              · refine .ite ?_ ?_
                · refine .then ?_ (collStart_moves ..)
                  exact .ite (collStart_moves ..) .refl
                · exact .ite (collStart_moves ..) .refl
            · split
              · refine .ite ?_ ?_
                · refine .ite ?_ ?_
                  · refine .then ?_ (collStart_moves ..)
                    exact .ite (collStart_moves ..) .refl
                  · exact .ite (collStart_moves ..) .refl
                · split
                  · refine .then ?_ (collReject_moves ..)
                    refine .ite ?_ ?_
                    · refine .then ?_ (collStart_moves ..)
                      exact .ite (collStart_moves ..) .refl
                    · exact .ite (collStart_moves ..) .refl
                  · refine .ite ?_ ?_
                    · refine .then ?_ (collStart_moves ..)
                      exact .ite (collStart_moves ..) .refl
                    · exact .ite (collStart_moves ..) .refl
              · refine .ite ?_ ?_
                · refine .then ?_ (collStart_moves ..)
                  exact .ite (collStart_moves ..) .refl
                · exact .ite (collStart_moves ..) .refl
          · split
            · refine .ite ?_ ?_
              · refine .ite ?_ ?_
                · refine .then ?_ (collStart_moves ..)
                  exact .ite (collStart_moves ..) .refl
                · exact .ite (collStart_moves ..) .refl
              · split
                · refine .then ?_ (collReject_moves ..)
                  refine .ite ?_ ?_
                  · refine .then ?_ (collStart_moves ..)
                    exact .ite (collStart_moves ..) .refl
                  · exact .ite (collStart_moves ..) .refl
                · refine .ite ?_ ?_
                  · refine .then ?_ (collStart_moves ..)
                    exact .ite (collStart_moves ..) .refl
                  · exact .ite (collStart_moves ..) .refl
            · refine .ite ?_ ?_
              · refine .then ?_ (collStart_moves ..)
                exact .ite (collStart_moves ..) .refl
              · exact .ite (collStart_moves ..) .refl
        · refine .ite ?_ ?_
          · refine .then ?_ (modColl_moves ..)
            split
            · split
              · refine .then ?_ (collStart_moves ..)
                split
                · refine .ite ?_ ?_
                  · refine .ite ?_ ?_
                    · refine .then ?_ (collStart_moves ..)
                      exact .ite (collStart_moves ..) .refl
                    · exact .ite (collStart_moves ..) .refl
                  · split
                    · refine .then ?_ (collReject_moves ..)
                      refine .ite ?_ ?_
                      · refine .then ?_ (collStart_moves ..)
                        exact .ite (collStart_moves ..) .refl
                      · exact .ite (collStart_moves ..) .refl
                    · refine .ite ?_ ?_
                      · refine .then ?_ (collStart_moves ..)
                        exact .ite (collStart_moves ..) .refl
                      · exact .ite (collStart_moves ..) .refl
                · refine .ite ?_ ?_
                  · refine .then ?_ (collStart_moves ..)
                    exact .ite (collStart_moves ..) .refl
                  · exact .ite (collStart_moves ..) .refl
              · split
                · refine .ite ?_ ?_
                  · refine .ite ?_ ?_
                    · refine .then ?_ (collStart_moves ..)
                      exact .ite (collStart_moves ..) .refl
                    · exact .ite (collStart_moves ..) .refl
                  · split
                    · refine .then ?_ (collReject_moves ..)
                      refine .ite ?_ ?_
                      · refine .then ?_ (collStart_moves ..)
                        exact .ite (collStart_moves ..) .refl
                      · exact .ite (collStart_moves ..) .refl
                    · refine .ite ?_ ?_
                      · refine .then ?_ (collStart_moves ..)
                        exact .ite (collStart_moves ..) .refl
                      · exact .ite (collStart_moves ..) .refl
                · refine .ite ?_ ?_
                  · refine .then ?_ (collStart_moves ..)
                    exact .ite (collStart_moves ..) .refl
                  · exact .ite (collStart_moves ..) .refl
            · split
              · refine .ite ?_ ?_
                · refine .ite ?_ ?_
                  · refine .then ?_ (collStart_moves ..)
                    exact .ite (collStart_moves ..) .refl
                  · exact .ite (collStart_moves ..) .refl
                · split
                  · refine .then ?_ (collReject_moves ..)
                    refine .ite ?_ ?_
                    · refine .then ?_ (collStart_moves ..)
                      exact .ite (collStart_moves ..) .refl
                    · exact .ite (collStart_moves ..) .refl
                  · refine .ite ?_ ?_
                    · refine .then ?_ (collStart_moves ..)
                      exact .ite (collStart_moves ..) .refl
                    · exact .ite (collStart_moves ..) .refl
              · refine .ite ?_ ?_
                · refine .then ?_ (collStart_moves ..)
                  exact .ite (collStart_moves ..) .refl
                · exact .ite (collStart_moves ..) .refl
          · refine .ite ?_ ?_
            · refine .foldl ?_ (fun s r => .ite .refl (tell_moves ..).mono)
              refine .then ?_ (modColl_moves ..)
              split
              · split
                · refine .then ?_ (collStart_moves ..)
                  split
                  · refine .ite ?_ ?_
                    · refine .ite ?_ ?_
                      · refine .then ?_ (collStart_moves ..)
                        exact .ite (collStart_moves ..) .refl
                      · exact .ite (collStart_moves ..) .refl
                    · split
                      · refine .then ?_ (collReject_moves ..)
                        refine .ite ?_ ?_
                        · refine .then ?_ (collStart_moves ..)
                          exact .ite (collStart_moves ..) .refl
                        · exact .ite (collStart_moves ..) .refl
                      · refine .ite ?_ ?_
                        · refine .then ?_ (collStart_moves ..)
                          exact .ite (collStart_moves ..) .refl
                        · exact .ite (collStart_moves ..) .refl
                  · refine .ite ?_ ?_
                    · refine .then ?_ (collStart_moves ..)
                      exact .ite (collStart_moves ..) .refl
                    · exact .ite (collStart_moves ..) .refl
                · split
                  · refine .ite ?_ ?_
                    · refine .ite ?_ ?_
                      · refine .then ?_ (collStart_moves ..)
                        exact .ite (collStart_moves ..) .refl
                      · exact .ite (collStart_moves ..) .refl
                    · split
                      · refine .then ?_ (collReject_moves ..)
                        refine .ite ?_ ?_
                        · refine .then ?_ (collStart_moves ..)
                          exact .ite (collStart_moves ..) .refl
                        · exact .ite (collStart_moves ..) .refl
                      · refine .ite ?_ ?_
                        · refine .then ?_ (collStart_moves ..)
                          exact .ite (collStart_moves ..) .refl
                        · exact .ite (collStart_moves ..) .refl
                  · refine .ite ?_ ?_
                    · refine .then ?_ (collStart_moves ..)
                      exact .ite (collStart_moves ..) .refl
                    · exact .ite (collStart_moves ..) .refl
              · split
                · refine .ite ?_ ?_
                  · refine .ite ?_ ?_
                    · refine .then ?_ (collStart_moves ..)
                      exact .ite (collStart_moves ..) .refl
                    · exact .ite (collStart_moves ..) .refl
                  · split
                    · refine .then ?_ (collReject_moves ..)
                      refine .ite ?_ ?_
                      · refine .then ?_ (collStart_moves ..)
                        exact .ite (collStart_moves ..) .refl
                      · exact .ite (collStart_moves ..) .refl
                    · refine .ite ?_ ?_
                      · refine .then ?_ (collStart_moves ..)
                        exact .ite (collStart_moves ..) .refl
                      · exact .ite (collStart_moves ..) .refl
                · refine .ite ?_ ?_
                  · refine .then ?_ (collStart_moves ..)
                    exact .ite (collStart_moves ..) .refl
                  · exact .ite (collStart_moves ..) .refl
            · refine .then ?_ (modColl_moves ..)
              split
              · split
                · refine .then ?_ (collStart_moves ..)
                  split
                  · refine .ite ?_ ?_
                    · refine .ite ?_ ?_
                      · refine .then ?_ (collStart_moves ..)
                        exact .ite (collStart_moves ..) .refl
                      · exact .ite (collStart_moves ..) .refl
                    · split
                      · refine .then ?_ (collReject_moves ..)
                        refine .ite ?_ ?_
                        · refine .then ?_ (collStart_moves ..)
                          exact .ite (collStart_moves ..) .refl
                        · exact .ite (collStart_moves ..) .refl
                      · refine .ite ?_ ?_
                        · refine .then ?_ (collStart_moves ..)
                          exact .ite (collStart_moves ..) .refl
                        · exact .ite (collStart_moves ..) .refl
                  · refine .ite ?_ ?_
                    · refine .then ?_ (collStart_moves ..)
                      exact .ite (collStart_moves ..) .refl
                    · exact .ite (collStart_moves ..) .refl
                · split
                  · refine .ite ?_ ?_
                    · refine .ite ?_ ?_
                      · refine .then ?_ (collStart_moves ..)
                        exact .ite (collStart_moves ..) .refl
                      · exact .ite (collStart_moves ..) .refl
                    · split
                      · refine .then ?_ (collReject_moves ..)
                        refine .ite ?_ ?_
                        · refine .then ?_ (collStart_moves ..)
                          exact .ite (collStart_moves ..) .refl
                        · exact .ite (collStart_moves ..) .refl
                      · refine .ite ?_ ?_
                        · refine .then ?_ (collStart_moves ..)
                          exact .ite (collStart_moves ..) .refl
                        · exact .ite (collStart_moves ..) .refl
                  · refine .ite ?_ ?_
                    · refine .then ?_ (collStart_moves ..)
                      exact .ite (collStart_moves ..) .refl
                    · exact .ite (collStart_moves ..) .refl
              · split
                · refine .ite ?_ ?_
                  · refine .ite ?_ ?_
                    · refine .then ?_ (collStart_moves ..)
                      exact .ite (collStart_moves ..) .refl
                    · exact .ite (collStart_moves ..) .refl
                  · split
                    · refine .then ?_ (collReject_moves ..)
                      refine .ite ?_ ?_
                      · refine .then ?_ (collStart_moves ..)
                        exact .ite (collStart_moves ..) .refl
                      · exact .ite (collStart_moves ..) .refl
                    · refine .ite ?_ ?_
                      · refine .then ?_ (collStart_moves ..)
                        exact .ite (collStart_moves ..) .refl
                      · exact .ite (collStart_moves ..) .refl
                · refine .ite ?_ ?_
                  · refine .then ?_ (collStart_moves ..)
                    exact .ite (collStart_moves ..) .refl
                  · exact .ite (collStart_moves ..) .refl

theorem verdict_moves (s : State) (h : Nat) (mism : Bool) (rank : Nat) :
    s.Moves (s.verdict h mism rank) [.out, .regs, .xlate, .queue, .trans, .ports, .ingress, .work] := by
  unfold State.verdict
  split
  · exact .refl
  · split
    · exact .refl
    · exact .ite ((tellAll_moves ..).mono.then (endColl_moves ..)) ((tellAll_moves ..).mono.then (modColl_moves ..)
          |>.then (progress_moves ..))

theorem pumpHandshake_moves (s : State) (h : Nat) :
    s.Moves (s.pumpHandshake h) [.out, .regs, .xlate, .queue, .trans, .ports, .ingress, .work] := by
  unfold State.pumpHandshake
  split
  · exact .refl
  · split
    · exact .refl
    · dsimp -proj only
      refine .ite .refl ?_
      exact .ite ((modColl_moves ..).mono.then (verdict_moves ..)) ((modColl_moves ..).mono.then (tell_moves ..))

theorem pumpCounts_moves (s : State) (h : Nat) :
    s.Moves (s.pumpCounts h) [.work] := by
  unfold State.pumpCounts
  exact modGroup_moves ..

theorem pumpReads_moves (s : State) (h : Nat) :
    s.Moves (s.pumpReads h) [.out, .free, .regs, .power, .mem, .xlate, .queue, .trans, .ports, .ingress, .work, .dirtyLogs, .host,
        .hostReads] := by
  unfold State.pumpReads
  split
  · exact .refl
  · split
    · exact .refl
    · refine .ite .refl ?_
      dsimp -proj only
      refine .ite (collFail_moves ..).mono ?_
      split
      · exact (collFail_moves ..).mono
      · refine .foldl ?_ (fun s u => ?_)
        · exact .ite (collStart_moves ..) .refl
        · split
          · exact .refl
          · refine .ite .refl ?_
            exact .ite (modColl_moves ..).mono (collStart_moves ..)

theorem pumpSelf_moves (s : State) (h : Nat) :
    s.Moves (s.pumpSelf h) [.work] := by
  unfold State.pumpSelf
  split
  · exact .refl
  · split
    · exact .refl
    · refine .ite .refl ?_
      exact .foldl .refl (fun s u => (modColl_moves ..))

theorem wantJob_moves (s : State) (h : Nat) (j : CollJob) :
    s.Moves (s.wantJob h j) [.work] := by
  unfold State.wantJob
  exact modColl_moves ..

theorem legBytes_moves (s : State) (h : Nat) (o : CollOp) (x : Shape) (l : Leg) (u : Nat) (bytes : List Byte) :
    s.Moves (s.legBytes h o x l u bytes).1 [.work] := by
  unfold State.legBytes
  refine .iteFst .refl ?_
  dsimp -proj only
  split
  · exact .refl
  · exact wantJob_moves ..

theorem sendChunk_moves (s : State) (h : Nat) (l : Leg) (k : Nat) (u : Nat) (slot : Nat) (bytes : List Byte) :
    s.Moves (s.sendChunk h l k u slot bytes) [.out, .free, .regs, .power, .mem, .xlate, .queue, .trans, .ports, .ingress, .work,
        .dirtyLogs, .host, .hostReads, .keys] := by
  unfold State.sendChunk
  split
  · exact .refl
  · split
    · dsimp -proj only
      split
      · rename_i heq
        refine State.Moves.trans (.ofPair heq ((legBytes_moves ..).mono)) ?_
        exact .refl
      · rename_i heq
        refine State.Moves.trans (.ofPair heq ((legBytes_moves ..).mono)) ?_
        exact (modColl_moves ..).mono.then (post_moves ..) |>.then (kickSet_moves ..)
    · exact .refl

theorem pumpSends_moves (s : State) (h : Nat) :
    s.Moves (s.pumpSends h) [.out, .free, .regs, .power, .mem, .xlate, .queue, .trans, .ports, .ingress, .work, .dirtyLogs, .host,
        .hostReads, .keys] := by
  unfold State.pumpSends
  split
  · exact .refl
  · split
    · exact .refl
    · refine .ite .refl ?_
      dsimp -proj only
      refine .foldl .refl (fun s l => ?_)
      refine .foldl .refl (fun s uk => ?_)
      split
      · exact .refl
      · split
        · exact .refl
        · split
          · exact .refl
          · refine .ite .refl ?_
            split
            · exact sendChunk_moves ..
            · exact .refl

theorem pumpCredits_moves (s : State) (h : Nat) :
    s.Moves (s.pumpCredits h) [.out, .regs, .trans, .ports, .ingress, .work] := by
  unfold State.pumpCredits
  split
  · exact .refl
  · split
    · exact .refl
    · refine .ite .refl ?_
      dsimp -proj only
      refine .foldl .refl (fun s l => ?_)
      split
      · exact .refl
      · split
        · exact .refl
        · exact .ite .refl ((modColl_moves ..).mono.then (tell_moves ..))

theorem takeCopy_moves (s : State) (h : Nat) (x : Shape) (l : Leg) (y : CollGot) :
    s.Moves (s.takeCopy h x l y) [.work] := by
  unfold State.takeCopy
  exact .ite ((modColl_moves ..).then (wantJob_moves ..)) (modColl_moves ..)

theorem placeOwn_moves (s : State) (h : Nat) (g : Group) (x : Shape) (o : CollOp) (u : Nat) (v : List Byte) :
    s.Moves (s.placeOwn h g x o u v).1 [.out, .free, .regs, .power, .mem, .xlate, .queue, .trans, .ports, .ingress, .work, .dirtyLogs,
        .host, .hostReads] := by
  unfold State.placeOwn
  exact .iteFst .refl (collStart_moves ..)

theorem reduceUnit_moves (s : State) (h : Nat) (g : Group) (x : Shape) (legs : List Leg) (l : Leg) (o : CollOp) (u : Nat)
    (v : List Byte) (ready : List CollGot) :
    s.Moves (s.reduceUnit h g x legs l o u v ready) [.out, .free, .regs, .power, .mem, .xlate, .queue, .trans, .ports, .ingress, .work,
        .dirtyLogs, .host, .hostReads] := by
  unfold State.reduceUnit
  dsimp -proj only
  refine .ite (wantJob_moves ..).mono ?_
  refine .ite (wantJob_moves ..).mono ?_
  refine .ite .refl ?_
  split
  · rename_i heq
    refine State.Moves.trans (.ofPair heq (placeOwn_moves ..)) ?_
    exact (wantJob_moves ..).mono
  · rename_i heq
    refine State.Moves.trans (.ofPair heq (placeOwn_moves ..)) ?_
    exact .refl

theorem pumpJobs_moves (s : State) (h : Nat) :
    s.Moves (s.pumpJobs h) [.out, .free, .regs, .power, .mem, .xlate, .queue, .trans, .ports, .ingress, .work, .dirtyLogs, .host,
        .hostReads] := by
  unfold State.pumpJobs
  split
  · exact .refl
  · split
    · exact .refl
    · refine .ite .refl ?_
      dsimp -proj only
      refine .foldl .refl (fun s y => ?_)
      split
      · refine .ite .refl ?_
        refine .ite (takeCopy_moves ..).mono ?_
        refine .ite .refl ?_
        split
        · exact .refl
        · exact reduceUnit_moves ..
      · exact .refl

theorem pumpWrites_moves (s : State) (h : Nat) :
    s.Moves (s.pumpWrites h) [.out, .free, .regs, .power, .mem, .xlate, .queue, .trans, .ports, .ingress, .work, .dirtyLogs, .host,
        .hostReads] := by
  unfold State.pumpWrites
  split
  · exact .refl
  · split
    · exact .refl
    · refine .ite .refl ?_
      dsimp -proj only
      refine .foldl .refl (fun s u => ?_)
      split
      · exact .refl
      · refine .ite .refl ?_
        refine .ite (modColl_moves ..).mono ?_
        refine .ite .refl ?_
        split
        · exact .refl
        · exact .ite (modColl_moves ..).mono (collStart_moves ..)

theorem pumpPieces_moves (s : State) (h : Nat) :
    s.Moves (s.pumpPieces h) [.out, .free, .regs, .power, .mem, .xlate, .queue, .trans, .ports, .ingress, .work, .dirtyLogs, .host,
        .hostReads] := by
  unfold State.pumpPieces
  split
  · exact .refl
  · split
    · exact .refl
    · refine .ite .refl ?_
      dsimp -proj only
      refine .foldl .refl (fun s p => ?_)
      split
      · exact .refl
      · split
        · exact .refl
        · refine .ite .refl ?_
          refine .ite ?_ ?_
          · refine .then ?_ (collStart_moves ..)
            refine .then ?_ (modColl_moves ..)
            split
            · exact (laceUp_moves ..).mono
            · exact .refl
          · refine .then ?_ (pieceDone_moves ..)
            split
            · exact (laceUp_moves ..).mono
            · exact .refl

theorem pumpDone_moves (s : State) (h : Nat) :
    s.Moves (s.pumpDone h) [.regs, .xlate, .queue, .work] := by
  unfold State.pumpDone
  split
  · exact .refl
  · split
    · exact .refl
    · dsimp -proj only
      refine .ite ?_ ?_
      · split
        · exact .ite (endColl_moves ..) .refl
        · exact .refl
      · refine .ite .refl ?_
        exact .ite (endColl_moves ..) .refl

theorem collPump_moves (s : State) (h : Nat) :
    s.Moves (s.collPump h) [.out, .free, .regs, .power, .mem, .xlate, .queue, .trans, .ports, .ingress, .work, .dirtyLogs, .host,
        .hostReads, .keys] := by
  unfold State.collPump
  exact (pumpTables_moves ..).mono.then (pumpHandshake_moves ..) |>.then (pumpCounts_moves ..) |>.then (pumpReads_moves ..)
      |>.then (pumpSelf_moves ..) |>.then (pumpCredits_moves ..) |>.then (pumpJobs_moves ..) |>.then (pumpSends_moves ..)
      |>.then (pumpWrites_moves ..) |>.then (pumpPieces_moves ..) |>.then (pumpDone_moves ..)

theorem collAccessEnded_moves (s : State) (h : Nat) (what : CollUse) (r : AccOut) :
    s.Moves (s.collAccessEnded h what r) [.out, .free, .regs, .power, .mem, .xlate, .queue, .trans, .ports, .ingress, .work, .dirtyLogs,
        .host, .hostReads, .keys] := by
  unfold State.collAccessEnded
  split
  · exact (collDelivered_moves ..).mono.then (collPump_moves ..)
  · exact (collFail_moves ..).mono
  · exact .refl

theorem chunkEnded_moves (s : State) (h : Nat) (id : Nat) (st : Status) :
    s.Moves (s.chunkEnded h id st) [.out, .free, .regs, .power, .mem, .xlate, .queue, .trans, .ports, .ingress, .work, .dirtyLogs,
        .host, .hostReads, .keys] := by
  unfold State.chunkEnded
  split
  · exact .refl
  · split
    · exact .refl
    · dsimp -proj only
      refine .then ?_ (collPump_moves ..)
      refine .ite ?_ ?_
      · refine .then ?_ (collMismatch_moves ..)
        exact .ite (modColl_moves ..).mono .refl
      · refine .ite ?_ ?_
        · exact .ite (modColl_moves ..).mono .refl
        · refine .then ?_ (collFail_moves ..)
          exact .ite (modColl_moves ..).mono .refl

theorem landing_moves (s : State) (c : Conn) (as : Nat) (off : Nat) (len : Nat) :
    s.Moves (s.landing c as off len).1 [.out, .free, .regs, .xlate] := by
  unfold State.landing
  split
  · rename_i heq
    refine State.Moves.trans (.ofPair heq ((lookup_moves ..).mono)) ?_
    split
    · exact .refl
    · dsimp -proj only
      refine .iteFst ?_ ?_
      · split
        · exact .refl
        · exact .refl
      · split
        · exact .refl
        · split
          · exact (sendAts_moves ..).mono
          · split
            · exact .refl
            · exact .refl

theorem noteChunk_moves (s : State) (h : Nat) (l : Leg) (u : Nat) (total : Nat) (off : Nat) (bytes : List Byte) :
    s.Moves (s.noteChunk h l u total off bytes) [.work] := by
  unfold State.noteChunk
  exact modColl_moves ..

theorem refuseChunk_moves (s : State) (c : Conn) (a : Arrival) (home : Nat) :
    s.Moves (s.refuseChunk c a home) [.out, .regs, .trans, .ports, .ingress] := by
  unfold State.refuseChunk
  exact (bump_moves ..).mono.then (loseMsg_moves ..) |>.then (refuse_moves ..)

theorem takeChunk_moves (s : State) (c : Conn) (a : Arrival) (e : CollExt) :
    s.Moves (s.takeChunk c a e) [.out, .free, .regs, .power, .mem, .xlate, .queue, .trans, .ports, .ingress, .work, .dirtyLogs, .host,
        .hostReads, .keys] := by
  unfold State.takeChunk
  dsimp -proj only
  split
  · split
    · exact (refuseChunk_moves ..).mono
    · refine .ite (refuseChunk_moves ..).mono ?_
      refine .ite (collMismatch_moves ..).mono ?_
      split
      · exact (refuseChunk_moves ..).mono
      · refine .ite (refuseChunk_moves ..).mono ?_
        refine .ite (turnAway_moves ..).mono ?_
        refine .ite ?_ ?_
        · split
          · exact (transferUe_moves ..).mono.then (advanceFree_moves ..)
          · exact (noteChunk_moves ..).mono.then (progress_moves ..) |>.then (dataPlaced_moves ..) |>.then (collPump_moves ..)
        · split
          · rename_i heq
            refine State.Moves.trans (.ofPair heq ((landing_moves ..).mono)) ?_
            split
            · exact (transferUe_moves ..).mono
            · split
              · rename_i heq
                refine State.Moves.trans (.ofPair heq ((placeBytes_moves ..).mono)) ?_
                exact (noteChunk_moves ..).mono.then (progress_moves ..) |>.then (dataPlaced_moves ..) |>.then (collPump_moves ..)
              · rename_i heq
                refine State.Moves.trans (.ofPair heq ((placeBytes_moves ..).mono)) ?_
                exact (collFail_moves ..).mono
              · rename_i heq
                refine State.Moves.trans (.ofPair heq ((placeBytes_moves ..).mono)) ?_
                exact (turnAway_moves ..).mono
          · rename_i heq
            refine State.Moves.trans (.ofPair heq ((landing_moves ..).mono)) ?_
            exact (turnAway_moves ..).mono
          · rename_i heq
            refine State.Moves.trans (.ofPair heq ((landing_moves ..).mono)) ?_
            exact (collFail_moves ..).mono
          · rename_i heq
            refine State.Moves.trans (.ofPair heq ((landing_moves ..).mono)) ?_
            exact .refl
  · exact (refuseChunk_moves ..).mono

/-! ### The operations of Machine/CollStart.lean -/

theorem collBegin_moves (s : State) (h : Nat) (o : CollOp) :
    s.Moves (s.collBegin h o) [.out, .free, .regs, .power, .mem, .xlate, .queue, .trans, .ports, .ingress, .work, .dirtyLogs, .host,
        .hostReads, .keys] := by
  unfold State.collBegin
  dsimp -proj only
  split
  · exact (modGroup_moves ..).mono.then (progress_moves ..)
  · refine .ite ((modGroup_moves ..).mono.then (progress_moves ..) |>.then (collFail_moves ..)) ?_
    refine .ite ?_ ((modGroup_moves ..).mono.then (progress_moves ..) |>.then (collPump_moves ..))
    split
    · exact (modGroup_moves ..).mono.then (progress_moves ..) |>.then (endColl_moves ..)
    · exact (modGroup_moves ..).mono.then (progress_moves ..) |>.then (collPump_moves ..)

/-! ### The operations of Machine/CtrlOps.lean -/

theorem guardNote_moves (s : State) (src : Coord) (alive : Word32) :
    s.Moves (s.guardNote src alive) [.trans] := by
  unfold State.guardNote
  exact setTrans_moves _ _

theorem aliveGap_moves (s : State) (src : Coord) (subtype : Nat) (alive : Word32) (last : Word32) :
    s.Moves (s.aliveGap src subtype alive last) [.regs, .queue] := by
  unfold State.aliveGap
  exact (bump_moves ..).mono.then (raise_moves ..)

theorem guardCheck_moves (s : State) (src : Coord) (subtype : Nat) (payload : List Byte) (t : Trailer) :
    s.Moves (s.guardCheck src subtype payload t).1 [.regs, .queue, .trans] := by
  unfold State.guardCheck
  dsimp -proj only
  refine .iteFst (bump_moves ..).mono ?_
  refine .iteFst (bump_moves ..).mono ?_
  exact .iteFst (guardNote_moves ..).mono (aliveGap_moves ..).mono

theorem replyAgain_moves (s : State) (a : Arrival) (src : Coord) (seq : Word32) :
    s.Moves (s.replyAgain a src seq) [.out, .regs, .ports, .ingress] := by
  unfold State.replyAgain
  split
  · exact .ite (sendReply_moves ..) .refl
  · exact .refl

/-- A node-scope message that is new moves what its action moves, and what the checks and a repeated reply do. -/
theorem nodeCtrl_moves {s : State} {a : Arrival} {act : State → Coord → Word32 → State} {ps : List Part}
    (hf : ∀ (t : State) (src : Coord) (seq : Word32), t.Moves (act t src seq) ps)
    (hsub : ∀ p ∈ [Part.out, .free, .regs, .power, .mem, .xlate, .queue, .trans, .ports, .ingress, .dirtyLogs, .host, .hostReads],
      p ∈ ps := by decide) :
    s.Moves (s.nodeCtrl a act) ps := by
  have hfront : s.Moves ((s.takeIn a).frontChecks a).1 ps := ((takeIn_moves ..).mono.then (frontChecks_moves ..)).mono hsub
  unfold State.nodeCtrl
  split
  · rename_i heq
    exact .ofPair heq hfront
  · rename_i heq
    refine .trans (.ofPair heq hfront) ?_
    split
    · exact .refl
    · exact .ite ((replyAgain_moves ..).mono.mono hsub) (hf ..)

/-- A guarded message that passes its checks moves what its action moves, and what the checks and a repeated reply do. -/
theorem guardedCtrl_moves {s : State} {a : Arrival} {m : CtrlMsg} {g : Trailer} {act : State → Coord → Word32 → State}
    {ps : List Part} (hf : ∀ (t : State) (src : Coord) (seq : Word32), t.Moves (act t src seq) ps)
    (hsub : ∀ p ∈ [Part.out, .free, .regs, .power, .mem, .xlate, .queue, .trans, .ports, .ingress, .dirtyLogs, .host, .hostReads],
      p ∈ ps := by decide) :
    s.Moves (s.guardedCtrl a m g act) ps := by
  have hfront : s.Moves ((s.takeIn a).frontChecks a).1 ps := ((takeIn_moves ..).mono.then (frontChecks_moves ..)).mono hsub
  unfold State.guardedCtrl
  split
  · rename_i heq
    exact .ofPair heq hfront
  · rename_i heq
    refine .trans (.ofPair heq hfront) ?_
    split
    · exact .refl
    · have hguard (t : State) (src : Coord) : t.Moves (t.guardCheck src (subtypeOf a.pkt) m.body g).1 ps :=
        (guardCheck_moves ..).mono.mono hsub
      split
      · rename_i heq
        exact .ofPair heq (hguard ..)
      · rename_i heq
        exact .trans (.ofPair heq (hguard ..)) ((replyAgain_moves ..).mono.mono hsub)
      · rename_i heq
        exact .trans (.ofPair heq (hguard ..)) (hf ..)

theorem replyEnd_moves (s : State) (c : Conn) (m : CtrlMsg) (seq : Word32) :
    s.Moves (s.replyEnd c m seq) [.out, .regs, .ports, .ingress] := by
  unfold State.replyEnd
  exact sendC7_moves ..

theorem abandonBlock_moves (s : State) (home : Nat) (slice : Nat) (slot : Nat) :
    s.Moves (s.abandonBlock home slice slot) [.keys] := by
  unfold State.abandonBlock
  exact setKeys_moves _ _

theorem setSlots_moves (s : State) (c : Conn) (send : Bool) (slot : Nat) :
    s.Moves (s.setSlots c send slot) [.trans, .keys] := by
  unfold State.setSlots
  dsimp -proj only
  refine .foldl ?_ (fun s m => (modConn_moves ..).mono)
  split
  · refine .ite .refl ?_
    exact .foldl .refl (fun s m => (abandonBlock_moves ..).mono)
  · exact .refl

theorem takeRekey_moves (s : State) (c : Conn) (keyId : Word32) :
    s.Moves (s.takeRekey c keyId).1 [.trans, .keys] := by
  unfold State.takeRekey
  split
  · exact setSlots_moves ..
  · exact .refl

theorem rekeyAnswered_moves (s : State) (c : Conn) (status : Nat) :
    s.Moves (s.rekeyAnswered c status) [.out, .free, .regs, .power, .mem, .xlate, .queue, .trans, .ports, .ingress, .dirtyLogs,
        .mailboxes, .host, .hostReads, .keys] := by
  unfold State.rekeyAnswered
  dsimp -proj only
  split
  · exact .refl
  · refine .then ?_ (kickSet_moves ..)
    exact .ite ((dropCtrl_moves ..).mono.then (modConn_moves ..) |>.then (setSlots_moves ..) |>.then (respond_moves ..))
        ((dropCtrl_moves ..).mono.then (modConn_moves ..) |>.then (respond_moves ..))

theorem groupOn_moves (s : State) (g : Group) (seq : Nat) :
    s.Moves (s.groupOn g seq) [.out, .free, .regs, .power, .mem, .xlate, .queue, .trans, .ports, .ingress, .work, .dirtyLogs, .host,
        .hostReads, .keys] := by
  unfold State.groupOn
  refine .then ?_ (collPump_moves ..)
  exact .ite (progress_moves ..).mono .refl

theorem takeHsUp_moves (s : State) (g : Group) (r : Nat) (seq : Word64) (sig : Word64) (mism : Bool) (rank : Nat) :
    s.Moves (s.takeHsUp g r seq sig mism rank) [.out, .free, .regs, .power, .mem, .xlate, .queue, .trans, .ports, .ingress, .work,
        .dirtyLogs, .host, .hostReads, .keys] := by
  unfold State.takeHsUp
  exact .ite .refl ((modGroup_moves ..).mono.then (groupOn_moves ..))

theorem takeHsDown_moves (s : State) (g : Group) (seq : Word64) (mism : Bool) (rank : Nat) :
    s.Moves (s.takeHsDown g seq mism rank) [.out, .free, .regs, .power, .mem, .xlate, .queue, .trans, .ports, .ingress, .work,
        .dirtyLogs, .host, .hostReads, .keys] := by
  unfold State.takeHsDown
  exact .ite ((progress_moves ..).mono.then (verdict_moves ..) |>.then (collPump_moves ..)) .refl

theorem takeHsCount_moves (s : State) (g : Group) (r : Nat) (seq : Word64) (sig : Word64) (count : Word64) :
    s.Moves (s.takeHsCount g r seq sig count) [.out, .free, .regs, .power, .mem, .xlate, .queue, .trans, .ports, .ingress, .work,
        .dirtyLogs, .host, .hostReads, .keys] := by
  unfold State.takeHsCount
  exact .ite .refl ((modGroup_moves ..).mono.then (groupOn_moves ..))

theorem takeCredit_moves (s : State) (g : Group) (r : Nat) (seq : Word64) (stage : Nat) (credits : Nat) (slot : Nat) :
    s.Moves (s.takeCredit g r seq stage credits slot) [.out, .free, .regs, .power, .mem, .xlate, .queue, .trans, .ports, .ingress,
        .work, .dirtyLogs, .host, .hostReads, .keys] := by
  unfold State.takeCredit
  exact .ite (progress_moves ..).mono ((modGroup_moves ..).mono.then (progress_moves ..) |>.then (groupOn_moves ..))

theorem takeMismatch_moves (s : State) (g : Group) (r : Nat) (seq : Word64) (rank : Nat) :
    s.Moves (s.takeMismatch g r seq rank) [.out, .free, .regs, .power, .mem, .xlate, .queue, .trans, .ports, .ingress, .work,
        .dirtyLogs, .host, .hostReads, .keys] := by
  unfold State.takeMismatch
  exact .ite (tellAll_moves ..).mono ((collMismatch_moves ..).mono.then (collPump_moves ..))

theorem takeAbort_moves (s : State) (g : Group) (r : Nat) (seq : Word64) (status : Status) (rank : Nat) :
    s.Moves (s.takeAbort g r seq status rank) [.out, .regs, .xlate, .queue, .trans, .ports, .ingress, .work] := by
  unfold State.takeAbort
  exact .ite .refl ((tellAll_moves ..).mono.then (breakGroup_moves ..))

theorem endMsg_moves (s : State) (c : Conn) (m : CtrlMsg) :
    s.Moves (s.endMsg c m) [.out, .free, .regs, .power, .mem, .xlate, .queue, .trans, .ports, .ingress, .work, .dirtyLogs, .mailboxes,
        .host, .hostReads, .keys] := by
  unfold State.endMsg
  split
  · exact (dropCtrl_moves ..).mono
  · exact (rekeyAnswered_moves ..).mono
  · split
    · exact .refl
    · split
      · exact .refl
      · split
        · exact (takeHsUp_moves ..).mono
        · exact (takeHsDown_moves ..).mono
        · exact (takeHsCount_moves ..).mono
        · exact (takeCredit_moves ..).mono
        · exact (takeMismatch_moves ..).mono
        · exact (takeAbort_moves ..).mono
        · exact .refl

theorem endCtrlAt_moves (s : State) (c : Conn) (a : Arrival) (m : CtrlMsg) :
    s.Moves (s.endCtrlAt c a m) [.out, .free, .regs, .power, .mem, .xlate, .queue, .trans, .ports, .ingress, .work, .dirtyLogs,
        .mailboxes, .host, .hostReads, .keys] := by
  unfold State.endCtrlAt
  dsimp -proj only
  split
  · exact endMsg_moves ..
  · exact endMsg_moves ..
  · split
    · exact (replyEnd_moves ..).mono
    · refine .then ?_ (endMsg_moves ..)
      refine .then ?_ (replyEnd_moves ..)
      refine .then ?_ (setTrans_moves _ _)
      split
      · exact (takeRekey_moves ..).mono
      · exact .refl

theorem ctrlRecord_moves (s : State) (c : Conn) (x : Received) (m : CtrlMsg) :
    s.Moves (s.ctrlRecord c x m) [.out, .free, .regs, .power, .mem, .xlate, .queue, .trans, .ports, .ingress, .work, .dirtyLogs,
        .mailboxes, .host, .hostReads, .keys] := by
  unfold State.ctrlRecord
  exact .ite (endCtrlAt_moves ..) (setTrans_moves _ _).mono

theorem endCtrl_moves (s : State) (a : Arrival) (m : CtrlMsg) :
    s.Moves (s.endCtrl a m) [.out, .free, .regs, .power, .mem, .xlate, .queue, .trans, .ports, .ingress, .work, .dirtyLogs, .mailboxes,
        .host, .hostReads, .keys] := by
  unfold State.endCtrl
  split
  · rename_i heq
    refine State.Moves.trans (.ofPair heq ((takeIn_moves ..).mono.then (frontChecks_moves ..))) ?_
    exact .refl
  · rename_i heq
    refine State.Moves.trans (.ofPair heq ((takeIn_moves ..).mono.then (frontChecks_moves ..))) ?_
    dsimp -proj only
    split
    · rename_i heq
      refine State.Moves.trans (.ofPair heq ((endChecks_moves ..).mono)) ?_
      exact ctrlRecord_moves ..
    · rename_i heq
      refine State.Moves.trans (.ofPair heq ((endChecks_moves ..).mono)) ?_
      exact .refl

/-! ### The operations of Machine/RouteOps.lean -/

theorem modBank_moves (s : State) (k : Nat) (f : RouteBank → RouteBank) :
    s.Moves (s.modBank k f) [.route] := by
  unfold State.modBank
  exact setRoute_moves _ _

theorem loadBank_moves (s : State) (epoch : Word32) (copy : Bool) :
    s.Moves (s.loadBank epoch copy) [.route] := by
  unfold State.loadBank
  exact modBank_moves ..

theorem flipBanks_moves (s : State) (epoch : Word32) :
    s.Moves (s.flipBanks epoch) [.regs, .route] := by
  unfold State.flipBanks
  exact (modBank_moves ..).mono.then (modBank_moves ..) |>.then (setRoute_moves _ _) |>.then (bump_moves ..)

theorem sendLoads_moves (s : State) (node : Nat) (epoch : Word32) (full : Bool) :
    s.Moves (s.sendLoads node epoch full) [.out, .regs, .trans, .ports, .ingress] := by
  unfold State.sendLoads
  dsimp -proj only
  refine .then ?_ (sendCtrl_moves ..)
  exact .foldl .refl (fun s i => (sendCtrl_moves ..))

theorem modFlip_moves (s : State) (f : Flip → Flip) :
    s.Moves (s.modFlip f) [.route] := by
  unfold State.modFlip
  exact setRoute_moves _ _

theorem modWorker_moves (s : State) (node : Nat) (f : FlipWorker → FlipWorker) :
    s.Moves (s.modWorker node f) [.route] := by
  unfold State.modWorker
  exact modFlip_moves ..

theorem dropFlipMsgs_moves (s : State) (epoch : Word32) :
    s.Moves (s.dropFlipMsgs epoch) [.out, .regs, .trans, .ports, .ingress] := by
  unfold State.dropFlipMsgs
  exact dropCtrl_moves ..

theorem abortFlip_moves (s : State) (st : Status) :
    s.Moves (s.abortFlip st) [.out, .regs, .trans, .ports, .ingress, .route, .mailboxes] := by
  unfold State.abortFlip
  split
  · exact .refl
  · exact (dropFlipMsgs_moves ..).mono.then (bump_moves ..) |>.foldl (fun s w => (sendCtrl_moves ..).mono)
        |>.then (setRoute_moves _ _) |>.then (modBank_moves ..) |>.then (respond_moves ..)

theorem finishFlip_moves (s : State) (failed : Bool) :
    s.Moves (s.finishFlip failed) [.route, .mailboxes] := by
  unfold State.finishFlip
  split
  · exact .refl
  · refine .ite ((setRoute_moves _ _).mono.then (respond_moves ..)) ?_
    exact .ite ((setRoute_moves _ _).mono.then (respond_moves ..)) .refl

theorem tryFlip_moves (s : State) :
    s.Moves (s.tryFlip) [.out, .regs, .trans, .ports, .ingress, .route, .mailboxes] := by
  unfold State.tryFlip
  split
  · exact .refl
  · refine .ite .refl ?_
    dsimp -proj only
    refine .then ?_ (finishFlip_moves ..)
    refine .then ?_ (modFlip_moves ..)
    refine .then ?_ (flipBanks_moves ..)
    exact .foldl .refl (fun s w => (sendCtrl_moves ..).mono)

theorem lateAnswer_moves (s : State) (src : Coord) (seq : Word32) :
    s.Moves (s.lateAnswer src seq) [.out, .regs, .trans, .ports, .ingress] := by
  unfold State.lateAnswer
  exact dropCtrl_moves ..

theorem workerFailed_moves (s : State) (st : Status) :
    s.Moves (s.workerFailed st) [.out, .regs, .trans, .ports, .ingress, .route, .mailboxes] := by
  unfold State.workerFailed
  split
  · exact .refl
  · exact .ite (finishFlip_moves ..).mono (abortFlip_moves ..)

/-! ### The operations of Machine/GroupOps.lean -/

theorem openGroupEnds_moves (s : State) (h : Nat) :
    s.Moves (s.openGroupEnds h) [.out, .free, .regs, .trans, .ports, .ingress, .work] := by
  unfold State.openGroupEnds
  split
  · exact .refl
  · refine .ite (modGroup_moves ..).mono ?_
    refine (modGroup_moves ..).mono.foldl (fun s r => ?_)
    dsimp -proj only
    split
    · exact .refl
    · exact (openConn_moves ..).mono.then (modGroup_moves ..)

theorem groupReady_moves (s : State) (h : Nat) :
    s.Moves (s.groupReady h) [.work] := by
  unfold State.groupReady
  split
  · exact .refl
  · exact .ite ((modGroup_moves ..).then (progress_moves ..)) .refl

theorem dropGroup_moves (s : State) (h : Nat) :
    s.Moves (s.dropGroup h) [.out, .regs, .mem, .xlate, .trans, .ports, .ingress, .work] := by
  unfold State.dropGroup
  split
  · exact .refl
  · dsimp -proj only
    refine .then ?_ (setXlateWork_moves _ _ _)
    refine .foldl .refl (fun s x => ?_)
    split
    · exact (closeSet_moves ..).mono
    · exact .refl

theorem groupFails_moves (s : State) (h : Nat) (c : Status) :
    s.Moves (s.groupFails h c) [.out, .regs, .mem, .xlate, .trans, .ports, .ingress, .work, .mailboxes] := by
  unfold State.groupFails
  split
  · exact .refl
  · exact (dropGroup_moves ..).mono.then (respondTo_moves ..)

theorem groupTable_moves (s : State) (h : Nat) (bytes : List Byte) :
    s.Moves (s.groupTable h bytes) [.out, .regs, .mem, .xlate, .trans, .ports, .ingress, .work, .mailboxes] := by
  unfold State.groupTable
  dsimp -proj only
  split
  · exact (modGroup_moves ..).mono
  · split
    · exact (modGroup_moves ..).mono.then (modGroup_moves ..) |>.then (groupFails_moves ..)
    · exact (modGroup_moves ..).mono.then (modGroup_moves ..) |>.then (modGroup_moves ..) |>.then (progress_moves ..)
          |>.then (sendCtrl_moves ..)

theorem groupBegin_moves (s : State) (slice : Nat) (tag : Word32) (p : GroupParams) :
    s.Moves (s.groupBegin slice tag p) [.out, .free, .regs, .power, .mem, .xlate, .queue, .trans, .ports, .ingress, .work, .dirtyLogs,
        .mailboxes, .host, .hostReads] := by
  unfold State.groupBegin
  dsimp -proj only
  refine .ite (respond_moves ..).mono ?_
  refine .ite (respond_moves ..).mono ?_
  refine .ite (respond_moves ..).mono ?_
  split
  · split
    · rename_i heq
      refine State.Moves.trans (.ofPair heq ((advanceFree_moves ..).mono.then (setWork_moves _ _) |>.then (progress_moves ..)
          |>.then (access_moves ..))) ?_
      exact (groupTable_moves ..).mono
    · rename_i heq
      refine State.Moves.trans (.ofPair heq ((advanceFree_moves ..).mono.then (setWork_moves _ _) |>.then (progress_moves ..)
          |>.then (access_moves ..))) ?_
      exact (groupFails_moves ..).mono
    · rename_i heq
      refine State.Moves.trans (.ofPair heq ((advanceFree_moves ..).mono.then (setWork_moves _ _) |>.then (progress_moves ..)
          |>.then (access_moves ..))) ?_
      exact .refl
  · exact (respond_moves ..).mono

theorem modReg_moves (s : State) (name : Word64) (f : RegEntry → RegEntry) :
    s.Moves (s.modReg name f) [.work] := by
  unfold State.modReg
  exact setWork_moves _ _

theorem register_moves (s : State) (src : Coord) (name : Word64) (count : Nat) (rank : Nat) (digest : Word64) :
    s.Moves (s.register src name count rank digest).1 [.out, .regs, .trans, .ports, .ingress, .work] := by
  unfold State.register
  split
  · exact .iteFst .refl (setWork_moves _ _).mono
  · refine .iteFst .refl ?_
    exact .iteFst (modReg_moves ..).mono ((setWork_moves _ _).mono.then (modReg_moves ..) |>.foldl (fun s x => (sendCtrl_moves ..).mono))

theorem deregister_moves (s : State) (name : Word64) (rank : Nat) :
    s.Moves (s.deregister name rank) [.work] := by
  unfold State.deregister
  exact (modReg_moves ..).then (setWork_moves _ _)

/-! ### The operations of Machine/SvcOps.lean -/

theorem modSvc_moves (s : State) (q : Nat) (count : Word32) (f : Service → Service) :
    s.Moves (s.modSvc q count f) [.work] := by
  unfold State.modSvc
  exact setWork_moves _ _

theorem stopSvcOps_moves (s : State) (q : Nat) (count : Word32) (c : Status) :
    s.Moves (s.stopSvcOps q count c) [.trans] := by
  unfold State.stopSvcOps
  exact setTrans_moves _ _

theorem endSvc_moves (s : State) (q : Nat) (count : Word32) (c : Status) (detail : Nat) :
    s.Moves (s.endSvc q count c detail) [.regs, .xlate, .queue, .trans, .work] := by
  unfold State.endSvc
  split
  · exact .refl
  · exact (setXlateWork_moves _ _ _).mono.then (stopSvcOps_moves ..) |>.then (bump_moves ..) |>.then (endDesc_moves ..)

theorem failSvc_moves (s : State) (v : Service) (c : Status) :
    s.Moves (s.failSvc v c) [.regs, .xlate, .queue, .trans, .work] := by
  unfold State.failSvc
  exact endSvc_moves ..

theorem svcLaceUp_moves (s : State) (v : Service) :
    s.Moves (s.svcLaceUp v) [.queue] := by
  unfold State.svcLaceUp
  split
  · exact laceUp_moves ..
  · exact .refl

theorem svcHost_moves (s : State) (v : Service) (c : Nat) (off : Nat) (len : Nat) (write : Bool) :
    s.Moves (s.svcHost v c off len write).1 [.out, .regs, .xlate] := by
  unfold State.svcHost
  split
  · exact .refl
  · split
    · dsimp -proj only
      split
      · exact .refl
      · split
        · exact .refl
        · split
          · exact .refl
          · refine .iteFst .refl ?_
            exact (sendAts_moves ..).then (setXlate_moves _ _) |>.then (park_moves ..)

theorem svcRead_moves (s : State) (v : Service) (c : Nat) (host : List MemCell) (off : Nat) (len : Nat) :
    s.Moves (s.svcRead v c host off len).1 [.out, .free, .regs, .power, .mem, .xlate, .queue, .trans, .dirtyLogs, .host, .hostReads] := by
  unfold State.svcRead
  refine .iteFst .refl ?_
  refine .iteFst ?_ (access_moves ..)
  split
  · rename_i heq
    refine State.Moves.trans (.ofPair heq ((svcHost_moves ..).mono)) ?_
    exact .refl
  · exact (svcHost_moves ..).mono

theorem svcReady_moves (s : State) (v : Service) (c : Nat) (off : Nat) (len : Nat) :
    s.Moves (s.svcReady v c off len).1 [.out, .regs, .xlate] := by
  unfold State.svcReady
  exact .iteFst (svcHost_moves ..) .refl

theorem svcReads_moves (s : State) (v : Service) (c : Nat) (host : List MemCell) (l : List (Nat × Nat)) :
    s.Moves (s.svcReads v c host l).1 [.out, .free, .regs, .power, .mem, .xlate, .queue, .trans, .dirtyLogs, .host, .hostReads] := by
  induction l generalizing s with
  | nil => exact .refl
  | cons x r ih =>
    rw [State.svcReads]
    split
    · rename_i heq
      refine State.Moves.trans (.ofPair heq (svcRead_moves ..)) ?_
      split
      · rename_i heq
        refine State.Moves.trans (.ofPair heq ((ih ..))) ?_
        exact .refl
      · exact ih ..
    · rename_i heq
      refine State.Moves.trans (.ofPair heq (svcRead_moves ..)) ?_
      exact .refl

theorem svcReadyAll_moves (s : State) (v : Service) (c : Nat) (l : List (Nat × Nat)) :
    s.Moves (s.svcReadyAll v c l).1 [.out, .regs, .xlate] := by
  induction l generalizing s with
  | nil => exact .refl
  | cons x r ih =>
    rw [State.svcReadyAll]
    split
    · rename_i heq
      refine State.Moves.trans (.ofPair heq (svcReady_moves ..)) ?_
      exact ih ..
    · exact svcReady_moves ..

theorem svcWrites_moves (s : State) (v : Service) (c : Nat) (tag : Nat) (l : List (Nat × List Byte)) :
    s.Moves (s.svcWrites v c tag l).1 [.out, .free, .regs, .power, .mem, .xlate, .queue, .trans, .dirtyLogs, .host, .hostReads] := by
  induction l generalizing s with
  | nil => exact .refl
  | cons x r ih =>
    rw [State.svcWrites]
    refine .iteFst (ih ..) ?_
    split
    · rename_i heq
      refine State.Moves.trans (.ofPair heq (access_moves ..)) ?_
      exact .refl
    · rename_i heq
      refine State.Moves.trans (.ofPair heq (access_moves ..)) ?_
      split
      · rename_i heq
        refine State.Moves.trans (.ofPair heq ((ih ..))) ?_
        exact .refl
      · exact ih ..

theorem svcWork_moves (s : State) (v : Service) (c : Nat) (tag : Nat) (outs : List (Nat × List Byte)) :
    s.Moves (s.svcWork v c tag outs).1 [.out, .free, .regs, .power, .mem, .xlate, .queue, .trans, .work, .dirtyLogs, .host,
        .hostReads] := by
  unfold State.svcWork
  split
  · rename_i heq
    refine State.Moves.trans (.ofPair heq ((svcReadyAll_moves ..).mono)) ?_
    exact (failSvc_moves ..).mono
  · rename_i heq
    refine State.Moves.trans (.ofPair heq ((svcReadyAll_moves ..).mono)) ?_
    split
    · rename_i heq
      refine State.Moves.trans (.ofPair heq ((svcWrites_moves ..).mono)) ?_
      exact (failSvc_moves ..).mono
    · rename_i heq
      refine State.Moves.trans (.ofPair heq ((svcWrites_moves ..).mono)) ?_
      exact .refl
    · rename_i heq
      refine State.Moves.trans (.ofPair heq ((svcWrites_moves ..).mono)) ?_
      exact .refl
  · rename_i heq
    refine State.Moves.trans (.ofPair heq ((svcReadyAll_moves ..).mono)) ?_
    exact .refl

/-! ### The operations of Machine/RxOps.lean -/

theorem takeDup_moves (s : State) (c : Conn) (a : Arrival) :
    s.Moves (s.takeDup c a) [.out, .free, .regs, .power, .mem, .xlate, .queue, .trans, .ports, .ingress, .dirtyLogs, .host, .hostReads,
        .keys] := by
  unfold State.takeDup
  dsimp -proj only
  split
  · exact .ite (takeReadReq_moves ..) (ackDup_moves ..).mono
  · split
    · exact answerAtomic_moves ..
    · exact (ackDup_moves ..).mono
  · exact (ackDup_moves ..).mono

theorem takeFresh_moves (s : State) (c : Conn) (a : Arrival) :
    s.Moves (s.takeFresh c a) [.out, .free, .regs, .power, .mem, .xlate, .queue, .trans, .ports, .ingress, .work, .dirtyLogs, .host,
        .hostReads, .keys] := by
  unfold State.takeFresh
  split
  · exact (takeReadReq_moves ..).mono
  · exact (takeAtomic_moves ..).mono
  · split
    · exact takeChunk_moves ..
    · exact (takeData_moves ..).mono

theorem takeRequest_moves (s : State) (c : Conn) (a : Arrival) :
    s.Moves (s.takeRequest c a) [.out, .free, .regs, .power, .mem, .xlate, .queue, .trans, .ports, .ingress, .work, .dirtyLogs, .host,
        .hostReads, .keys] := by
  unfold State.takeRequest
  split
  · rename_i heq
    refine State.Moves.trans (.ofPair heq ((psnChecks_moves ..).mono)) ?_
    exact .refl
  · rename_i heq
    refine State.Moves.trans (.ofPair heq ((psnChecks_moves ..).mono)) ?_
    exact (takeDup_moves ..).mono
  · rename_i heq
    refine State.Moves.trans (.ofPair heq ((psnChecks_moves ..).mono)) ?_
    exact takeFresh_moves ..

theorem landed_moves (s : State) (k : Nat) (psn : Word32) :
    s.Moves (s.landed k psn) [.out, .free, .regs, .power, .mem, .xlate, .queue, .trans, .ports, .ingress, .dirtyLogs, .host, .hostReads,
        .keys] := by
  unfold State.landed
  split
  · exact .refl
  · split
    · exact .refl
    · exact (modOp_moves ..).mono.then (dropRecords_moves ..) |>.then (finishOps_moves ..) |>.then (kickSet_moves ..)

theorem landingEnded_moves (s : State) (k : Nat) (psn : Word32) (lost : Bool) (x1 : AccOut) :
    s.Moves (s.landingEnded k psn lost x1) [.out, .free, .regs, .power, .mem, .xlate, .queue, .trans, .ports, .ingress, .dirtyLogs,
        .host, .hostReads, .keys] := by
  unfold State.landingEnded
  split
  · exact .ite ((again_moves ..).mono.then (kick_moves ..)) (landed_moves ..)
  · split
    · exact .refl
    · dsimp -proj only
      refine .then ?_ (kickSet_moves ..)
      refine .then ?_ (finishOps_moves ..)
      refine .then ?_ (dropRecords_moves ..)
      exact .foldl .refl (fun s id => (stopOp_moves ..).mono)
  · exact .refl

theorem placeResponse_moves (s : State) (c : Conn) (o : ConnOp) (psn : Word32) (at_ : Nat) (bytes : List Byte) :
    s.Moves (s.placeResponse c o psn at_ bytes) [.out, .free, .regs, .power, .mem, .xlate, .queue, .trans, .ports, .ingress, .dirtyLogs,
        .host, .hostReads, .keys] := by
  unfold State.placeResponse
  split
  · exact (modOp_moves ..).mono.then (landed_moves ..)
  · exact (modOp_moves ..).mono.then (landed_moves ..)
  · split
    · rename_i heq
      refine State.Moves.trans (.ofPair heq ((access_moves ..).mono)) ?_
      exact landingEnded_moves ..

theorem takeResponse_moves (s : State) (c : Conn) (a : Arrival) :
    s.Moves (s.takeResponse c a) [.out, .free, .regs, .power, .mem, .xlate, .queue, .trans, .ports, .ingress, .dirtyLogs, .host,
        .hostReads, .keys] := by
  unfold State.takeResponse
  split
  · exact (transferUe_moves ..).mono.then (advanceFree_moves ..)
  · dsimp -proj only
    split
    · exact (sample_moves ..).mono.then (windowSample_moves ..)
    · split
      · exact (sample_moves ..).mono.then (windowSample_moves ..)
      · refine .ite ((sample_moves ..).mono.then (windowSample_moves ..)) ?_
        split
        · exact (sample_moves ..).mono.then (windowSample_moves ..) |>.then (modOp_moves ..) |>.then (placeResponse_moves ..)
        · exact (sample_moves ..).mono.then (windowSample_moves ..) |>.then (placeResponse_moves ..)
        · exact (sample_moves ..).mono.then (windowSample_moves ..)

theorem goBack_moves (s : State) (c : Conn) (psn : Word32) :
    s.Moves (s.goBack c psn) [.trans] := by
  unfold State.goBack
  dsimp -proj only
  refine .ite ?_ .refl
  exact .foldl .refl (fun s r => (again_moves ..))

theorem holdBack_moves (s : State) (c : Conn) (n : NakExt) :
    s.Moves (s.holdBack c n) [.trans] := by
  unfold State.holdBack
  exact modConn_moves ..

theorem fenceOp_moves (s : State) (id : Nat) :
    s.Moves (s.fenceOp id) [.mem, .trans] := by
  unfold State.fenceOp
  exact (modOp_moves ..).mono.then (dropUnsent_moves ..)

theorem fenceSet_moves (s : State) (c : Conn) (op : Nat) :
    s.Moves (s.fenceSet c op) [.mem, .trans] := by
  unfold State.fenceSet
  dsimp -proj only
  refine .foldl ?_ (fun t x => (fenceOp_moves ..))
  exact .foldl .refl (fun s m => (modConn_moves ..).mono)

theorem takeRefused_moves (s : State) (c : Conn) (n : NakExt) :
    s.Moves (s.takeRefused c n) [.regs, .mem, .queue, .trans] := by
  unfold State.takeRefused
  dsimp -proj only
  refine .ite (failEnd_moves ..) ?_
  split
  · exact (dropRecords_moves ..).mono
  · exact .ite ((dropRecords_moves ..).mono.then (stopOp_moves ..) |>.then (dropUnsent_moves ..) |>.then (fenceSet_moves ..))
        ((dropRecords_moves ..).mono.then (stopOp_moves ..) |>.then (dropUnsent_moves ..))

theorem takeReport_moves (s : State) (k : Nat) (rxTime : Nat) (a : Arrival) :
    s.Moves (s.takeReport k rxTime a) [.out, .free, .regs, .power, .mem, .xlate, .queue, .trans, .ports, .ingress, .dirtyLogs, .host,
        .hostReads, .keys] := by
  unfold State.takeReport
  split
  · exact .refl
  · refine .ite .refl ?_
    dsimp -proj only
    refine .then ?_ (kickSet_moves ..)
    refine .then ?_ (onReport_moves ..)
    split
    · exact .refl
    · refine .ite (goBack_moves ..).mono ?_
      exact .ite (takeRefused_moves ..).mono (holdBack_moves ..).mono

theorem report_moves (s : State) (c : Conn) (x : Received) :
    s.Moves (s.report c x) [.out, .free, .regs, .power, .mem, .xlate, .queue, .trans, .ports, .ingress, .dirtyLogs, .host, .hostReads,
        .keys] := by
  unfold State.report
  exact .ite (takeReport_moves ..) (setTrans_moves _ _).mono

theorem takeProbe_moves (s : State) (c : Conn) (a : Arrival) :
    s.Moves (s.takeProbe c a) [.out, .regs, .ports, .ingress] := by
  unfold State.takeProbe
  exact .ite (sendEndC7_moves ..) .refl

theorem endPacketIn_moves (s : State) (c : Conn) (x : Received) :
    s.Moves (s.endPacketIn c x) [.out, .free, .regs, .power, .mem, .xlate, .queue, .trans, .ports, .ingress, .work, .dirtyLogs,
        .mailboxes, .host, .hostReads, .keys] := by
  unfold State.endPacketIn
  dsimp -proj only
  split
  · exact (takeRequest_moves ..).mono
  · exact (takeRequest_moves ..).mono
  · exact (takeRequest_moves ..).mono
  · exact (takeResponse_moves ..).mono
  · exact (takeResponse_moves ..).mono
  · exact (report_moves ..).mono
  · exact (report_moves ..).mono
  · exact (takeProbe_moves ..).mono
  · split
    · exact ctrlRecord_moves ..
    · exact .refl
  · exact .refl

theorem again_received_moves (s : State) (x : Received) :
    s.Moves (s.again_ x) [.out, .free, .regs, .power, .mem, .xlate, .queue, .trans, .ports, .ingress, .work, .dirtyLogs, .mailboxes,
        .host, .hostReads, .keys] := by
  unfold State.again_
  split
  · rename_i heq
    refine State.Moves.trans (.ofPair heq ((endChecks_moves ..).mono)) ?_
    exact endPacketIn_moves ..
  · rename_i heq
    refine State.Moves.trans (.ofPair heq ((endChecks_moves ..).mono)) ?_
    exact .refl

theorem arrive_moves (s : State) (a : Arrival) :
    s.Moves (s.arrive a) [.out, .free, .regs, .power, .mem, .xlate, .queue, .trans, .ports, .ingress, .work, .dirtyLogs, .mailboxes,
        .host, .hostReads, .keys] := by
  unfold State.arrive
  split
  · rename_i heq
    refine State.Moves.trans (.ofPair heq ((takeIn_moves ..).mono.then (frontChecks_moves ..))) ?_
    exact again_received_moves ..
  · rename_i heq
    refine State.Moves.trans (.ofPair heq ((takeIn_moves ..).mono.then (frontChecks_moves ..))) ?_
    exact .refl

theorem unpark_moves (s : State) (k : Nat) :
    s.Moves (s.unpark k) [.out, .free, .regs, .power, .mem, .xlate, .queue, .trans, .ports, .ingress, .work, .dirtyLogs, .mailboxes,
        .host, .hostReads, .keys] := by
  unfold State.unpark
  split
  · exact .refl
  · exact (modConn_moves ..).mono.foldl (fun s x => (again_received_moves ..))

/-! ### The operations of Machine/EyeletOps.lean -/

theorem finishUnmaps_moves (s : State) :
    s.Moves (s.finishUnmaps) [.xlate, .mailboxes] := by
  unfold State.finishUnmaps
  split
  · exact (setXlate_moves _ _).mono.foldl (fun s u => (respond_moves ..).mono)

theorem eyeletDone_moves (s : State) (id : Nat) (st : Status) (data : List Byte) :
    s.Moves (s.eyeletDone id st data) [.out, .regs, .xlate, .queue, .mailboxes] := by
  unfold State.eyeletDone
  split
  · exact .refl
  · dsimp -proj only
    refine .then ?_ (finishUnmaps_moves ..)
    refine .ite ?_ ?_
    · exact .ite ((setXlate_moves _ _).mono.then (emit_moves ..)) (setXlate_moves _ _).mono
    · refine .then ?_ (raise_moves ..)
      exact .ite ((setXlate_moves _ _).mono.then (emit_moves ..) |>.then (bump_moves ..)) (setXlate_moves _ _).mono

theorem sendLoad_moves (s : State) (k : Nat) :
    s.Moves (s.sendLoad k) [.out, .free, .regs, .power, .mem, .xlate, .queue, .trans, .ports, .ingress, .dirtyLogs, .host, .hostReads,
        .keys] := by
  unfold State.sendLoad
  split
  · exact .refl
  · dsimp -proj only
    split
    · exact .ite (sendSegment_moves ..) .refl
    · exact .refl

theorem sendEyeletLoads_moves (s : State) :
    s.Moves (s.sendEyeletLoads) [.out, .free, .regs, .power, .mem, .xlate, .queue, .trans, .ports, .ingress, .dirtyLogs, .host,
        .hostReads, .keys] := by
  unfold State.sendEyeletLoads
  exact .foldl .refl (fun t x => (sendLoad_moves ..))

theorem eyeletBegin_moves (s : State) (f : Func) (e : EyeletEntry) (off : Nat) (len : Nat) (bytes : List Byte) (load : Bool) :
    s.Moves (s.eyeletBegin f e off len bytes load) [.out, .free, .regs, .power, .mem, .xlate, .queue, .trans, .ports, .ingress,
        .dirtyLogs, .mailboxes, .host, .hostReads, .keys] := by
  unfold State.eyeletBegin
  dsimp -proj only
  refine .ite ?_ ?_
  · split
    · rename_i heq
      refine State.Moves.trans (.ofPair heq ((setXlate_moves _ _).mono.then (access_moves ..))) ?_
      exact (eyeletDone_moves ..).mono
    · rename_i heq
      refine State.Moves.trans (.ofPair heq ((setXlate_moves _ _).mono.then (access_moves ..))) ?_
      exact (eyeletDone_moves ..).mono
    · rename_i heq
      refine State.Moves.trans (.ofPair heq ((setXlate_moves _ _).mono.then (access_moves ..))) ?_
      exact .refl
  · split
    · exact (setXlate_moves _ _).mono.then (eyeletDone_moves ..)
    · refine .ite ((setXlate_moves _ _).mono.then (eyeletDone_moves ..)) ?_
      refine .ite ((setXlate_moves _ _).mono.then (eyeletDone_moves ..)) ?_
      split
      · exact (setXlate_moves _ _).mono.then (eyeletDone_moves ..)
      · exact .ite ((setXlate_moves _ _).mono.then (post_moves ..) |>.then (fetchContext_moves ..) |>.then (sendLoad_moves ..))
            ((setXlate_moves _ _).mono.then (post_moves ..) |>.then (fetchContext_moves ..) |>.then (kick_moves ..))

/-! ### The operations of Machine/SvcRun.lean -/

theorem streamPost_moves (s : State) (v : Service) (tag : Nat) (kind : OpKind) (at_ : Nat) (len : Nat) (bytes : List Byte)
    (lace : Option Nat) :
    s.Moves (s.streamPost v tag kind at_ len bytes lace) [.out, .free, .regs, .power, .mem, .xlate, .queue, .trans, .ports, .ingress,
        .work, .dirtyLogs, .host, .hostReads, .keys] := by
  unfold State.streamPost
  split
  · exact (failSvc_moves ..).mono
  · dsimp -proj only
    refine .ite (failSvc_moves ..).mono ?_
    refine .ite (failSvc_moves ..).mono ?_
    refine .ite ?_ ((post_moves ..).mono.then (fetchContext_moves ..) |>.then (kickSet_moves ..))
    split
    · exact .ite ((post_moves ..).mono.then (fetchContext_moves ..) |>.then (sendSegment_moves ..))
          ((post_moves ..).mono.then (fetchContext_moves ..))
    · exact (post_moves ..).mono.then (fetchContext_moves ..)

theorem sendBlock_moves (s : State) (v : Service) (k : Nat) (payload : List Byte) :
    s.Moves (s.sendBlock v k payload) [.out, .free, .regs, .power, .mem, .xlate, .queue, .trans, .ports, .ingress, .work, .dirtyLogs,
        .host, .hostReads, .keys] := by
  unfold State.sendBlock
  exact .ite ((modSvc_moves ..).mono.then (streamPost_moves ..) |>.then (streamPost_moves ..))
      ((modSvc_moves ..).mono.then (streamPost_moves ..))

theorem ckptPump_moves (s : State) (q : Nat) (count : Word32) (fuel : Nat) :
    s.Moves (s.ckptPump q count fuel) [.out, .free, .regs, .power, .mem, .xlate, .queue, .trans, .ports, .ingress, .work, .dirtyLogs,
        .host, .hostReads, .keys] := by
  induction fuel generalizing s with
  | zero => exact .refl
  | succ fuel ih =>
    rw [State.ckptPump]
    split
    · exact .refl
    · dsimp -proj only
      refine .ite ?_ ?_
      · refine .ite .refl ?_
        split
        · rename_i heq
          refine State.Moves.trans (.ofPair heq ((svcReads_moves ..).mono)) ?_
          exact (failSvc_moves ..).mono
        · rename_i heq
          refine State.Moves.trans (.ofPair heq ((svcReads_moves ..).mono)) ?_
          exact .refl
        · rename_i heq
          refine State.Moves.trans (.ofPair heq ((svcReads_moves ..).mono)) ?_
          split
          · rename_i heq
            refine State.Moves.trans (.ofPair heq ((svcWrites_moves ..).mono)) ?_
            exact (failSvc_moves ..).mono
          · rename_i heq
            refine State.Moves.trans (.ofPair heq ((svcWrites_moves ..).mono)) ?_
            exact (modSvc_moves ..).mono.then (sendBlock_moves ..) |>.then (ih ..)
          · rename_i heq
            refine State.Moves.trans (.ofPair heq ((svcWrites_moves ..).mono)) ?_
            exact .refl
      · refine .ite .refl ?_
        refine .ite ((modSvc_moves ..).mono.then (sendBlock_moves ..)) ?_
        exact .ite ((modSvc_moves ..).mono.then (streamPost_moves ..)) (endSvc_moves ..).mono

theorem restoreAsk_moves (s : State) (v : Service) (tag : Nat) :
    s.Moves (s.restoreAsk v tag) [.out, .free, .regs, .power, .mem, .xlate, .queue, .trans, .ports, .ingress, .work, .dirtyLogs, .host,
        .hostReads, .keys] := by
  unfold State.restoreAsk
  split
  · exact .refl
  · refine .ite .refl ?_
    split
    · refine .ite ((modSvc_moves ..).mono.then (streamPost_moves ..)) ?_
      split
      · rename_i heq
        refine State.Moves.trans (.ofPair heq ((access_moves ..).mono)) ?_
        exact (modSvc_moves ..).mono
      · rename_i heq
        refine State.Moves.trans (.ofPair heq ((access_moves ..).mono)) ?_
        exact (modSvc_moves ..).mono
      · rename_i heq
        refine State.Moves.trans (.ofPair heq ((access_moves ..).mono)) ?_
        exact (failSvc_moves ..).mono
      · rename_i heq
        refine State.Moves.trans (.ofPair heq ((access_moves ..).mono)) ?_
        exact .refl

theorem countCheck_moves (s : State) (c : Nat) (code : Status) :
    s.Moves (s.countCheck c code) [.regs] := by
  unfold State.countCheck
  refine .ite (bump_moves ..) ?_
  refine .ite (bump_moves ..) ?_
  exact .ite (bump_moves ..) .refl

theorem restorePump_moves (s : State) (q : Nat) (count : Word32) (fuel : Nat) :
    s.Moves (s.restorePump q count fuel) [.out, .free, .regs, .power, .mem, .xlate, .queue, .trans, .ports, .ingress, .work, .dirtyLogs,
        .host, .hostReads, .keys] := by
  have hask (s : State) (v : Service) (l : List Nat) : s.Moves (l.foldl (fun t i => t.restoreAsk v (v.ended + i + 2)) s)
      [.out, .free, .regs, .power, .mem, .xlate, .queue, .trans, .ports, .ingress, .work, .dirtyLogs, .host, .hostReads, .keys] :=
    .foldl .refl fun t i => (restoreAsk_moves ..).mono
  induction fuel generalizing s with
  | zero => exact .refl
  | succ fuel ih =>
    conv => arg 2; whnf
    split
    · exact .refl
    · dsimp -proj only
      refine .ite ?_ ?_
      · split
        · refine .ite ?_ .refl
          exact .ite ((restoreAsk_moves ..).mono.then (ih ..)) (restoreAsk_moves ..).mono
        · refine .ite ?_ (failSvc_moves ..).mono
          exact .elim (modSvc_moves ..).mono fun v => (modSvc_moves ..).mono.then (restoreAsk_moves ..) |>.then (ih ..)
      · refine .ite ?_ ?_
        · split
          · exact .refl
          · split
            · exact (countCheck_moves ..).mono.then (failSvc_moves ..)
            · exact (modSvc_moves ..).mono.then (ih ..)
        · refine .ite (endSvc_moves ..).mono ?_
          split
          · exact hask ..
          · split
            · exact hask ..
            · split
              · exact (hask ..).then (countCheck_moves ..) |>.then (failSvc_moves ..)
              · split
                · rename_i heq
                  exact .then (.ofPair heq ((hask ..).then (svcWrites_moves ..))) (failSvc_moves ..)
                · rename_i heq
                  refine .trans (.ofPair heq ((hask ..).then (svcWrites_moves ..))) ?_
                  exact (modSvc_moves ..).mono.then (svcLaceUp_moves ..) |>.then (ih ..)
                · rename_i heq
                  exact .ofPair heq ((hask ..).then (svcWrites_moves ..))

theorem streamPump_moves (s : State) (v : Service) :
    s.Moves (s.streamPump v) [.out, .free, .regs, .power, .mem, .xlate, .queue, .trans, .ports, .ingress, .work, .dirtyLogs, .host,
        .hostReads, .keys] := by
  unfold State.streamPump
  refine .ite .refl ?_
  exact .ite (ckptPump_moves ..) (restorePump_moves ..)

theorem streamEnded_moves (s : State) (q : Nat) (count : Word32) (tag : Nat) (e : Ended) :
    s.Moves (s.streamEnded q count tag e) [.out, .free, .regs, .power, .mem, .xlate, .queue, .trans, .ports, .ingress, .work,
        .dirtyLogs, .host, .hostReads, .keys] := by
  unfold State.streamEnded
  split
  · exact .refl
  · refine .ite (failSvc_moves ..).mono ?_
    refine .ite ?_ ((modSvc_moves ..).mono.then (streamPump_moves ..))
    dsimp -proj only
    refine .ite (modSvc_moves ..).mono ?_
    refine .then ?_ (streamPump_moves ..)
    exact .ite ((modSvc_moves ..).mono.then (svcLaceUp_moves ..)) (modSvc_moves ..).mono

theorem svcStart_moves (s : State) (v : Service) :
    s.Moves (s.svcStart v) [.out, .free, .regs, .power, .mem, .xlate, .queue, .trans, .ports, .ingress, .work, .dirtyLogs, .host,
        .hostReads, .keys] := by
  unfold State.svcStart
  dsimp -proj only
  refine .ite ?_ ?_
  · split
    · exact (modSvc_moves ..).mono.then (wakeAll_moves ..) |>.then (modGroup_moves ..) |>.then (modSvc_moves ..)
    · exact (modSvc_moves ..).mono.then (wakeAll_moves ..)
  · refine .ite ?_ ((modSvc_moves ..).mono.then (wakeAll_moves ..))
    split
    · exact (modSvc_moves ..).mono.then (wakeAll_moves ..) |>.then (streamPump_moves ..)
    · exact (modSvc_moves ..).mono.then (wakeAll_moves ..)

theorem svcBegin_moves (s : State) (q : Nat) (count : Word32) :
    s.Moves (s.svcBegin q count) [.out, .free, .regs, .power, .mem, .xlate, .queue, .trans, .ports, .ingress, .work, .dirtyLogs, .host,
        .hostReads, .keys] := by
  unfold State.svcBegin
  split
  · exact .refl
  · split
    · exact (failSvc_moves ..).mono
    · exact .ite ((setWork_moves _ _).mono.then (svcStart_moves ..)) ((modSvc_moves ..).mono.then (bump_moves ..) |>.then (bump_moves ..))

theorem svcArrived_moves (s : State) (q : Nat) (count : Word32) (offset : Nat) (b : List Byte) (fuel : Nat) :
    s.Moves (s.svcArrived q count offset b fuel) [.out, .free, .regs, .power, .mem, .xlate, .queue, .trans, .ports, .ingress, .work,
        .dirtyLogs, .host, .hostReads, .keys] := by
  induction fuel generalizing s offset b with
  | zero => exact .refl
  | succ fuel ih =>
    rw [State.svcArrived]
    split
    · exact .refl
    · refine .ite ?_ ?_
      · dsimp -proj only
        refine .ite ?_ ((modSvc_moves ..).mono.then (svcBegin_moves ..))
        split
        · exact (modSvc_moves ..).mono
        · refine .ite ((modSvc_moves ..).mono.then (failSvc_moves ..)) ?_
          split
          · rename_i heq
            refine State.Moves.trans (.ofPair heq ((modSvc_moves ..).mono.then (access_moves ..))) ?_
            exact ih ..
          · rename_i heq
            refine State.Moves.trans (.ofPair heq ((modSvc_moves ..).mono.then (access_moves ..))) ?_
            exact (failSvc_moves ..).mono
          · rename_i heq
            refine State.Moves.trans (.ofPair heq ((modSvc_moves ..).mono.then (access_moves ..))) ?_
            exact .refl
      · refine .ite ((modSvc_moves ..).mono.then (svcBegin_moves ..)) ?_
        refine .ite ?_ .refl
        split
        · exact (modSvc_moves ..).mono.then (streamPump_moves ..)
        · exact .refl

theorem svcPostDesc_moves (s : State) (q : Nat) (count : Word32) (op : Nat) :
    s.Moves (s.svcPostDesc q count op) [.out, .free, .regs, .power, .mem, .xlate, .queue, .trans, .ports, .ingress, .work, .dirtyLogs,
        .host, .hostReads, .keys] := by
  unfold State.svcPostDesc
  split
  · exact .refl
  · dsimp -proj only
    refine .ite ((bump_moves ..).mono.then (endWith_moves ..)) ?_
    split
    · rename_i heq
      refine State.Moves.trans (.ofPair heq ((setWork_moves _ _).mono.then (modStarted_moves ..) |>.then (access_moves ..))) ?_
      exact svcArrived_moves ..
    · rename_i heq
      refine State.Moves.trans (.ofPair heq ((setWork_moves _ _).mono.then (modStarted_moves ..) |>.then (access_moves ..))) ?_
      exact (failSvc_moves ..).mono
    · rename_i heq
      refine State.Moves.trans (.ofPair heq ((setWork_moves _ _).mono.then (modStarted_moves ..) |>.then (access_moves ..))) ?_
      exact .refl

theorem pieceWritten_moves (s : State) (v : Service) (p : Piece) (bytes : Nat) (detail : Nat) :
    s.Moves (s.pieceWritten v p bytes detail) [.regs, .xlate, .queue, .trans, .work] := by
  unfold State.pieceWritten
  dsimp -proj only
  split
  · exact .ite ((modSvc_moves ..).mono.then (bump_moves ..) |>.then (svcLaceUp_moves ..) |>.then (endSvc_moves ..))
        ((modSvc_moves ..).mono.then (bump_moves ..) |>.then (svcLaceUp_moves ..))
  · exact (modSvc_moves ..).mono.then (bump_moves ..) |>.then (svcLaceUp_moves ..)

theorem lowColl_moves (s : State) (v : Service) :
    s.Moves (s.lowColl v) [.out, .free, .regs, .power, .mem, .xlate, .queue, .trans, .ports, .ingress, .work, .dirtyLogs, .host,
        .hostReads, .keys] := by
  unfold State.lowColl
  split
  · exact (endSvc_moves ..).mono
  · refine .ite (endSvc_moves ..).mono ?_
    refine .ite .refl ?_
    dsimp -proj only
    split
    · exact (endSvc_moves ..).mono
    · exact collBegin_moves ..

theorem lowDone_moves (s : State) (v : Service) (bytes : Nat) (detail : Nat) :
    s.Moves (s.lowDone v bytes detail) [.out, .free, .regs, .power, .mem, .xlate, .queue, .trans, .ports, .ingress, .work, .dirtyLogs,
        .host, .hostReads, .keys] := by
  unfold State.lowDone
  dsimp -proj only
  split
  · exact (svcLaceUp_moves ..).mono.then (modSvc_moves ..)
  · refine .ite ((svcLaceUp_moves ..).mono.then (modSvc_moves ..) |>.then (endSvc_moves ..)) ?_
    exact .ite ((svcLaceUp_moves ..).mono.then (modSvc_moves ..) |>.then (lowColl_moves ..))
        ((svcLaceUp_moves ..).mono.then (modSvc_moves ..))

theorem shares_moves (s : State) (cs : List Nat) :
    s.Moves (s.shares cs) [.regs] := by
  unfold State.shares
  exact .foldl .refl (fun s c => (bump_moves ..))

theorem svcNext_moves (s : State) (v : Service) (x1 : SvcNext) :
    s.Moves (s.svcNext v x1) [.out, .free, .regs, .power, .mem, .xlate, .queue, .trans, .ports, .ingress, .work, .dirtyLogs, .host,
        .hostReads, .keys] := by
  unfold State.svcNext
  split
  · split
    · exact (pieceWritten_moves ..).mono
    · exact .refl
  · exact (shares_moves ..).mono.then (lowDone_moves ..)

theorem svcOwed_moves (s : State) (v : Service) (tag : Nat) (x : SvcNext) (through : Bool) :
    s.Moves (s.svcOwed v tag x through) [.out, .free, .regs, .power, .mem, .xlate, .queue, .trans, .ports, .ingress, .work, .dirtyLogs,
        .host, .hostReads, .keys] := by
  unfold State.svcOwed
  exact .ite (svcNext_moves ..) (modSvc_moves ..).mono

theorem svcOutEnded_moves (s : State) (q : Nat) (count : Word32) (tag : Nat) :
    s.Moves (s.svcOutEnded q count tag) [.out, .free, .regs, .power, .mem, .xlate, .queue, .trans, .ports, .ingress, .work, .dirtyLogs,
        .host, .hostReads, .keys] := by
  unfold State.svcOutEnded
  split
  · exact .refl
  · refine .ite .refl ?_
    split
    · exact .refl
    · exact (modSvc_moves ..).mono.then (svcNext_moves ..)

theorem quantPiece_moves (s : State) (v : Service) (p : Piece) (host : List MemCell) (first : Nat) (n : Nat) :
    s.Moves (s.quantPiece v p host first n) [.out, .free, .regs, .power, .mem, .xlate, .queue, .trans, .ports, .ingress, .work,
        .dirtyLogs, .host, .hostReads, .keys] := by
  unfold State.quantPiece
  dsimp -proj only
  split
  · rename_i heq
    refine State.Moves.trans (.ofPair heq ((svcReads_moves ..).mono)) ?_
    split
    · rename_i heq
      refine State.Moves.trans (.ofPair heq ((svcWork_moves ..).mono)) ?_
      exact (setFreeCount_moves _ _).mono.then (svcOwed_moves ..)
    · rename_i heq
      refine State.Moves.trans (.ofPair heq ((svcWork_moves ..).mono)) ?_
      exact .refl
  · rename_i heq
    refine State.Moves.trans (.ofPair heq ((svcReads_moves ..).mono)) ?_
    exact (failSvc_moves ..).mono
  · rename_i heq
    refine State.Moves.trans (.ofPair heq ((svcReads_moves ..).mono)) ?_
    exact .refl

theorem optPiece_moves (s : State) (v : Service) (p : Piece) (host : List MemCell) (first : Nat) (n : Nat) :
    s.Moves (s.optPiece v p host first n) [.out, .free, .regs, .power, .mem, .xlate, .queue, .trans, .ports, .ingress, .work,
        .dirtyLogs, .host, .hostReads, .keys] := by
  unfold State.optPiece
  dsimp -proj only
  split
  · rename_i heq
    refine State.Moves.trans (.ofPair heq ((svcReads_moves ..).mono)) ?_
    exact (failSvc_moves ..).mono
  · rename_i heq
    refine State.Moves.trans (.ofPair heq ((svcReads_moves ..).mono)) ?_
    exact .refl
  · rename_i heq
    refine State.Moves.trans (.ofPair heq ((svcReads_moves ..).mono)) ?_
    refine .ite (endSvc_moves ..).mono ?_
    split
    · rename_i heq
      refine State.Moves.trans (.ofPair heq ((modSvc_moves ..).mono.then (svcReads_moves ..))) ?_
      exact (failSvc_moves ..).mono
    · rename_i heq
      refine State.Moves.trans (.ofPair heq ((modSvc_moves ..).mono.then (svcReads_moves ..))) ?_
      exact .refl
    · rename_i heq
      refine State.Moves.trans (.ofPair heq ((modSvc_moves ..).mono.then (svcReads_moves ..))) ?_
      refine .ite (endSvc_moves ..).mono ?_
      split
      · rename_i heq
        refine State.Moves.trans (.ofPair heq ((svcWork_moves ..).mono)) ?_
        exact (setFreeCount_moves _ _).mono.then (svcOwed_moves ..)
      · rename_i heq
        refine State.Moves.trans (.ofPair heq ((svcWork_moves ..).mono)) ?_
        exact .refl

theorem runPiece_moves (s : State) (v : Service) (k : Nat) (host : List MemCell) :
    s.Moves (s.runPiece v k host) [.out, .free, .regs, .power, .mem, .xlate, .queue, .trans, .ports, .ingress, .work, .dirtyLogs, .host,
        .hostReads, .keys] := by
  unfold State.runPiece
  split
  · exact .refl
  · refine .ite .refl ?_
    refine .ite (failSvc_moves ..).mono ?_
    split
    · exact .ite (quantPiece_moves ..) (optPiece_moves ..)

theorem lowWork_moves (s : State) (v : Service) (host : List MemCell) (ins : List (Nat × Nat)) (outs : List (Nat × Nat)) (f : List
    (List Byte) → List (List Byte)) (bytes : Nat) (detail : List (List Byte) → Nat) (cs : List Nat) (drawn : Nat) :
    s.Moves (s.lowWork v host ins outs f bytes detail cs drawn) [.out, .free, .regs, .power, .mem, .xlate, .queue, .trans, .ports,
        .ingress, .work, .dirtyLogs, .host, .hostReads, .keys] := by
  unfold State.lowWork
  split
  · rename_i heq
    refine State.Moves.trans (.ofPair heq ((svcReads_moves ..).mono)) ?_
    exact (failSvc_moves ..).mono
  · rename_i heq
    refine State.Moves.trans (.ofPair heq ((svcReads_moves ..).mono)) ?_
    exact .refl
  · rename_i heq
    refine State.Moves.trans (.ofPair heq ((svcReads_moves ..).mono)) ?_
    split
    · rename_i heq
      refine State.Moves.trans (.ofPair heq ((svcWork_moves ..).mono)) ?_
      exact (setFreeCount_moves _ _).mono.then (svcOwed_moves ..)
    · rename_i heq
      refine State.Moves.trans (.ofPair heq ((svcWork_moves ..).mono)) ?_
      exact .refl

theorem lowStep_moves (s : State) (v : Service) (host : List MemCell) :
    s.Moves (s.lowStep v host) [.out, .free, .regs, .power, .mem, .xlate, .queue, .trans, .ports, .ingress, .work, .dirtyLogs, .host,
        .hostReads, .keys] := by
  unfold State.lowStep
  dsimp -proj only
  refine .ite .refl ?_
  refine .ite ?_ ?_
  · split
    · exact .ite .refl (lowColl_moves ..)
    · exact .ite (lowDone_moves ..) (endSvc_moves ..).mono
  · refine .ite (failSvc_moves ..).mono ?_
    refine .ite (lowWork_moves ..) ?_
    refine .ite (lowWork_moves ..) ?_
    refine .ite (lowWork_moves ..) ?_
    refine .ite (lowWork_moves ..) ?_
    exact .ite (lowWork_moves ..) ((shares_moves ..).mono.then (lowDone_moves ..))

theorem lowFailed_moves (s : State) :
    s.Moves (s.lowFailed) [.regs, .xlate, .queue, .trans, .work] := by
  unfold State.lowFailed
  refine .foldl .refl (fun s v => ?_)
  split
  · exact .ite .refl (endSvc_moves ..)
  · exact .refl

/-! ### The operations of Machine/Settle.lean -/

theorem tellOrigin_moves (s : State) (e : Ended) :
    s.Moves (s.tellOrigin e) [.out, .free, .regs, .power, .mem, .xlate, .queue, .trans, .ports, .ingress, .work, .dirtyLogs, .mailboxes,
        .host, .hostReads, .keys] := by
  unfold State.tellOrigin
  split
  · exact (chunkEnded_moves ..).mono
  · exact (eyeletDone_moves ..).mono
  · exact (streamEnded_moves ..).mono
  · exact .refl

theorem tellAllOrigins_moves (s : State) (fuel : Nat) :
    s.Moves (s.tellAllOrigins fuel) [.out, .free, .regs, .power, .mem, .xlate, .queue, .trans, .ports, .ingress, .work, .dirtyLogs,
        .mailboxes, .host, .hostReads, .keys] := by
  induction fuel generalizing s with
  | zero => exact .refl
  | succ fuel ih =>
    rw [State.tellAllOrigins]
    split
    · exact .refl
    · exact (setTrans_moves _ _).mono.then (tellOrigin_moves ..) |>.then (ih ..)

theorem serveRecordWaits_moves (s : State) :
    s.Moves (s.serveRecordWaits) [.out, .free, .regs, .power, .mem, .xlate, .queue, .trans, .ports, .ingress, .dirtyLogs, .host,
        .hostReads, .keys] := by
  unfold State.serveRecordWaits
  exact .ite .refl ((setMem_moves _ _).mono.foldl (fun s k => (kick_moves ..)))

theorem serveCounts_moves (s : State) :
    s.Moves (s.serveCounts) [.out, .free, .regs, .power, .mem, .xlate, .queue, .trans, .ports, .ingress, .work, .dirtyLogs, .mailboxes,
        .host, .hostReads, .keys] := by
  unfold State.serveCounts
  dsimp -proj only
  exact (takeHeld_moves ..).mono.foldl (fun s a => (again_received_moves ..))

theorem settle_moves (s : State) :
    s.Moves (s.settle) [.out, .free, .regs, .power, .mem, .xlate, .queue, .trans, .ports, .ingress, .work, .dirtyLogs, .mailboxes,
        .host, .hostReads, .keys] := by
  unfold State.settle
  exact (serveRecordWaits_moves ..).mono.then (serveCounts_moves ..) |>.then (sendEyeletLoads_moves ..)
      |>.then (tellAllOrigins_moves ..) |>.then (lowFailed_moves ..)

/-! ### The operations of Machine/Connect.lean -/

theorem refuseConnect_moves (s : State) (a : Arrival) (src : Coord) (seq : Word32) (b : ConnectReqBody) (st : Status) (reason : Nat) :
    s.Moves (s.refuseConnect a src seq b st reason) [.out, .regs, .trans, .ports, .ingress] := by
  unfold State.refuseConnect
  exact answerCtrl_moves ..

theorem ackConnect_moves (s : State) (a : Arrival) (src : Coord) (seq : Word32) (c : Conn) :
    s.Moves (s.ackConnect a src seq c) [.out, .regs, .trans, .ports, .ingress] := by
  unfold State.ackConnect
  exact answerCtrl_moves ..

theorem acceptEnd_moves (s : State) (x : EndSpec) (k : Nat) (b : ConnectReqBody) :
    s.Moves (s.acceptEnd x k b) [.free, .trans] := by
  unfold State.acceptEnd
  exact (makeSet_moves ..).then (joinEnd_moves ..)

theorem acceptGroup_moves (s : State) (a : Arrival) (src : Coord) (seq : Word32) (b : ConnectReqBody) (g : Group) (r : Nat) :
    s.Moves (s.acceptGroup a src seq b g r) [.out, .free, .regs, .trans, .ports, .ingress, .work] := by
  unfold State.acceptGroup
  refine .ite (refuseConnect_moves ..).mono ?_
  refine .ite (refuseConnect_moves ..).mono ?_
  refine .ite (refuseConnect_moves ..).mono ?_
  split
  · exact (refuseConnect_moves ..).mono
  · dsimp -proj only
    split
    · exact (acceptEnd_moves ..).mono.then (modGroup_moves ..) |>.then (ackConnect_moves ..) |>.then (groupReady_moves ..)
    · exact (acceptEnd_moves ..).mono.then (modGroup_moves ..)

theorem acceptListen_moves (s : State) (a : Arrival) (src : Coord) (seq : Word32) (b : ConnectReqBody) (l : Listen) :
    s.Moves (s.acceptListen a src seq b l) [.out, .free, .regs, .queue, .trans, .ports, .ingress] := by
  unfold State.acceptListen
  split
  · exact (refuseConnect_moves ..).mono
  · dsimp -proj only
    split
    · exact (refuseConnect_moves ..).mono
    · split
      · exact (acceptEnd_moves ..).mono.then (ackConnect_moves ..) |>.then (raise_moves ..)
      · exact (acceptEnd_moves ..).mono

theorem execConnectReq_answers (a : Arrival) (body : ConnectReqBody) (s : State) :
    s.Answers (execConnectReq a body s) [.out, .free, .regs, .power, .mem, .xlate, .queue, .trans, .ports, .ingress, .work, .dirtyLogs,
        .mailboxes, .host, .hostReads, .keys] := by
  unfold execConnectReq
  refine .next ?_
  refine .then ?_ (settle_moves ..)
  refine nodeCtrl_moves fun _ _ _ => ?_
  refine .ite .refl ?_
  split
  · exact (ackConnect_moves ..).mono
  · split
    · dsimp -proj only
      split
      · exact (joinEnd_moves ..).mono.then (ackConnect_moves ..) |>.then (groupReady_moves ..)
      · exact (joinEnd_moves ..).mono.then (ackConnect_moves ..)
    · refine .ite .refl ?_
      split
      · exact (acceptGroup_moves ..).mono
      · exact (acceptListen_moves ..).mono
      · exact (refuseConnect_moves ..).mono

theorem setOpened_moves (s : State) (c : Conn) :
    s.Moves (s.setOpened c) [.out, .free, .regs, .power, .mem, .xlate, .queue, .trans, .ports, .ingress, .work, .dirtyLogs, .mailboxes,
        .host, .hostReads, .keys] := by
  unfold State.setOpened
  dsimp -proj only
  split
  · exact (modConn_moves ..).mono.then (respondTo_moves ..) |>.foldl (fun s i => (unpark_moves ..)) |>.then (groupReady_moves ..)
  · exact (modConn_moves ..).mono.then (respondTo_moves ..) |>.foldl (fun s i => (unpark_moves ..))

theorem execConnectAck_answers (a : Arrival) (accIndex : BitVec 24) (accInc : BitVec 8) (listenId : Word32) (accPsn : Word32) (s : State) :
    s.Answers (execConnectAck a accIndex accInc listenId accPsn s) [.out, .free, .regs, .power, .mem, .xlate, .queue, .trans, .ports,
        .ingress, .work, .dirtyLogs, .mailboxes, .host, .hostReads, .keys] := by
  unfold execConnectAck
  refine .next ?_
  refine .then ?_ (settle_moves ..)
  refine nodeCtrl_moves fun _ _ _ => ?_
  split
  · exact .refl
  · refine .ite .refl ?_
    dsimp -proj only
    split
    · exact (dropCtrl_moves ..).mono.then (joinEnd_moves ..) |>.then (sendCtrl_moves ..)
    · exact (dropCtrl_moves ..).mono.then (joinEnd_moves ..) |>.then (setOpened_moves ..)

theorem askAgain_moves (s : State) (o : CtrlOut) :
    s.Moves (s.askAgain o) [.trans] := by
  unfold State.askAgain
  exact setTrans_moves _ _

theorem execConnectRefuse_answers (a : Arrival) (initIndex : BitVec 24) (initInc : BitVec 8) (listenId : Word32) (status : Nat)
    (_reason : Nat) (s : State) :
    s.Answers (execConnectRefuse a initIndex initInc listenId status _reason s) [.out, .free, .regs, .power, .mem, .xlate, .queue,
        .trans, .ports, .ingress, .dirtyLogs, .mailboxes, .host, .hostReads] := by
  unfold execConnectRefuse
  refine .next ?_
  refine nodeCtrl_moves fun _ _ _ => ?_
  split
  · refine .ite .refl ?_
    exact .ite (askAgain_moves ..).mono ((dropCtrl_moves ..).mono.then (respondTo_moves ..) |>.then (freeSet_moves ..))
  · exact .refl

theorem rekeyOver_moves (s : State) (c : Conn) :
    s.Moves (s.rekeyOver c) [.trans, .mailboxes] := by
  unfold State.rekeyOver
  split
  · exact (modConn_moves ..).mono.then (respond_moves ..)
  · exact .refl

theorem execClose_answers (a : Arrival) (sIndex : BitVec 24) (sInc : BitVec 8) (rIndex : BitVec 24) (rInc : BitVec 8) (s : State) :
    s.Answers (execClose a sIndex sInc rIndex rInc s) [.out, .free, .regs, .power, .mem, .xlate, .queue, .trans, .ports, .ingress,
        .work, .dirtyLogs, .mailboxes, .host, .hostReads, .keys] := by
  unfold execClose
  refine .next ?_
  refine .then ?_ (settle_moves ..)
  refine nodeCtrl_moves fun _ _ _ => ?_
  dsimp -proj only
  refine .ite .refl ?_
  split
  · exact (answerCtrl_moves ..).mono
  · exact .ite (answerCtrl_moves ..).mono ((rekeyOver_moves ..).mono.then (endOps_moves ..) |>.then (freeSet_moves ..)
        |>.then (raise_moves ..) |>.then (answerCtrl_moves ..))

theorem execCloseAck_answers (a : Arrival) (sIndex : BitVec 24) (sInc : BitVec 8) (_rIndex : BitVec 24) (_rInc : BitVec 8) (s : State) :
    s.Answers (execCloseAck a sIndex sInc _rIndex _rInc s) [.out, .free, .regs, .power, .mem, .xlate, .queue, .trans, .ports, .ingress,
        .dirtyLogs, .host, .hostReads] := by
  unfold execCloseAck
  refine .next ?_
  refine nodeCtrl_moves fun _ _ _ => ?_
  dsimp -proj only
  refine .ite ?_ .refl
  split
  · exact .ite ((dropCtrl_moves ..).mono.then (freeSet_moves ..)) (dropCtrl_moves ..).mono
  · exact (dropCtrl_moves ..).mono

theorem execPause_answers (a : Arrival) (_pauseUs : Nat) (_serial : Word64) (s : State) :
    s.Answers (execPause a _pauseUs _serial s) [.out, .free, .regs, .power, .mem, .xlate, .queue, .trans, .ports, .ingress, .dirtyLogs,
        .host, .hostReads] := by
  unfold execPause
  refine .next ?_
  refine nodeCtrl_moves fun _ _ _ => ?_
  dsimp -proj only
  refine .then ?_ (ackCtrl_moves ..)
  exact .foldl .refl (fun s c => (modConn_moves ..).mono)

theorem endPause_moves (s : State) (c : Conn) :
    s.Moves (s.endPause c) [.out, .free, .regs, .power, .mem, .xlate, .queue, .trans, .ports, .ingress, .dirtyLogs, .host, .hostReads,
        .keys] := by
  unfold State.endPause
  split
  · exact .refl
  · dsimp -proj only
    refine .then ?_ (kick_moves ..)
    refine .then ?_ (modConn_moves ..)
    exact .foldl .refl (fun s r => (again_moves ..).mono)

theorem execResume_answers (a : Arrival) (_serial : Word64) (_aborted : Bool) (s : State) :
    s.Answers (execResume a _serial _aborted s) [.out, .free, .regs, .power, .mem, .xlate, .queue, .trans, .ports, .ingress, .work,
        .dirtyLogs, .mailboxes, .host, .hostReads, .keys] := by
  unfold execResume
  refine .next ?_
  refine .then ?_ (settle_moves ..)
  refine nodeCtrl_moves fun _ _ _ => ?_
  refine .then ?_ (ackCtrl_moves ..)
  exact .foldl .refl (fun s c => (endPause_moves ..).mono)

theorem execPauseExpiry_answers (peer : Coord) (s : State) :
    s.Answers (execPauseExpiry peer s) [.out, .free, .regs, .power, .mem, .xlate, .queue, .trans, .ports, .ingress, .work, .dirtyLogs,
        .mailboxes, .host, .hostReads, .keys] := by
  unfold execPauseExpiry
  refine .next ?_
  refine .then ?_ (settle_moves ..)
  exact .foldl .refl (fun s c => (endPause_moves ..).mono)

theorem execSbtFeedSend_answers (s : State) :
    s.Answers (execSbtFeedSend s) [.out, .regs, .trans, .ports, .ingress] := by
  unfold execSbtFeedSend
  exact .ite (.next ((setTrans_moves _ _).mono.foldl (fun s c => (sendCtrl_moves ..)))) (.next .refl)

theorem takeFeed_moves (s : State) (rtts : List Nat) :
    s.Moves (s.takeFeed rtts) [.trans] := by
  unfold State.takeFeed
  exact setTrans_moves _ _

theorem execSbtFeed_answers (a : Arrival) (rtts : List Nat) (t : Trailer) (s : State) :
    s.Answers (execSbtFeed a rtts t s) [.out, .free, .regs, .power, .mem, .xlate, .queue, .trans, .ports, .ingress, .dirtyLogs, .host,
        .hostReads] := by
  unfold execSbtFeed
  exact .next (guardedCtrl_moves fun _ _ _ => .ite ((takeFeed_moves ..).mono.then (ackCtrl_moves ..)) .refl)

theorem execRekey_answers (a : Arrival) (keyId : Word32) (s : State) :
    s.Answers (execRekey a keyId s) [.out, .free, .regs, .power, .mem, .xlate, .queue, .trans, .ports, .ingress, .work, .dirtyLogs,
        .mailboxes, .host, .hostReads, .keys] := by
  unfold execRekey
  exact .next ((endCtrl_moves ..).then (settle_moves ..))

theorem execRekeyAck_answers (a : Arrival) (status : Nat) (s : State) :
    s.Answers (execRekeyAck a status s) [.out, .free, .regs, .power, .mem, .xlate, .queue, .trans, .ports, .ingress, .work, .dirtyLogs,
        .mailboxes, .host, .hostReads, .keys] := by
  unfold execRekeyAck
  exact .next ((endCtrl_moves ..).then (settle_moves ..))

theorem connRekey_moves (s : State) (slice : Nat) (tag : Word32) (conn : Nat) (slot : Nat) :
    s.Moves (s.connRekey slice tag conn slot) [.out, .regs, .trans, .ports, .ingress, .mailboxes] := by
  unfold State.connRekey
  dsimp -proj only
  split
  · exact (respond_moves ..).mono
  · refine .ite (respond_moves ..).mono ?_
    split
    · exact (respond_moves ..).mono
    · refine .ite (respond_moves ..).mono ?_
      refine .ite (respond_moves ..).mono ?_
      refine .ite (respond_moves ..).mono ?_
      exact .ite (respond_moves ..).mono ((modConn_moves ..).mono.then (sendEndCtrl_moves ..))

theorem execConnRekey_answers (slice : Fin 512) (tag : Word32) (conn : BitVec 24) (slot : Nat) (s : State) :
    s.Answers (execConnRekey slice tag conn slot s) [.out, .regs, .trans, .ports, .ingress, .mailboxes] := by
  unfold execConnRekey
  split
  · rename_i heq
    refine State.Moves.answers (.ofPair heq ((take_moves ..).mono)) ?_
    exact .next .refl
  · rename_i heq
    refine State.Moves.answers (.ofPair heq ((take_moves ..).mono)) ?_
    exact .next (connRekey_moves ..)

theorem finishThaw_moves (s : State) (k : Nat) :
    s.Moves (s.finishThaw k) [.out, .free, .regs, .power, .mem, .xlate, .queue, .trans, .ports, .ingress, .slices, .dirtyLogs,
        .mailboxes, .host, .hostReads, .keys] := by
  unfold State.finishThaw
  exact .ite ((modSlice_moves ..).mono.then (respondTo_moves ..) |>.foldl (fun s c => (kick_moves ..).mono)) .refl

theorem rehomeDone_moves (s : State) (c : Conn) (answered : Bool) :
    s.Moves (s.rehomeDone c answered) [.out, .free, .regs, .power, .mem, .xlate, .queue, .trans, .ports, .ingress, .slices, .dirtyLogs,
        .mailboxes, .host, .hostReads, .keys] := by
  unfold State.rehomeDone
  dsimp -proj only
  refine .then ?_ (finishThaw_moves ..)
  exact .ite ((modConn_moves ..).mono.then (modSlice_moves ..)) ((modConn_moves ..).mono.then (modSlice_moves ..)
      |>.then (failEnd_moves ..))

theorem moveEnd_moves (s : State) (c : Conn) (newCoord : Coord) (newInc : BitVec 8) :
    s.Moves (s.moveEnd c newCoord newInc) [.out, .free, .regs, .power, .mem, .xlate, .queue, .trans, .ports, .ingress, .dirtyLogs,
        .host, .hostReads, .keys] := by
  unfold State.moveEnd
  dsimp -proj only
  refine .then ?_ (kick_moves ..)
  refine .then ?_ (raise_moves ..)
  refine .then ?_ (modConn_moves ..)
  exact .foldl .refl (fun s r => (again_moves ..).mono)

theorem execReHome_answers (a : Arrival) (rIndex : BitVec 24) (rInc : BitVec 8) (oldCoord : Coord) (mIndex : BitVec 24)
    (oldInc : BitVec 8) (newCoord : Coord) (newInc : BitVec 8) (s : State) :
    s.Answers (execReHome a rIndex rInc oldCoord mIndex oldInc newCoord newInc s) [.out, .free, .regs, .power, .mem, .xlate, .queue,
        .trans, .ports, .ingress, .work, .dirtyLogs, .mailboxes, .host, .hostReads, .keys] := by
  unfold execReHome
  refine .next ?_
  refine .then ?_ (settle_moves ..)
  refine nodeCtrl_moves fun _ _ _ => ?_
  split
  · exact (bump_moves ..).mono
  · exact .ite ((moveEnd_moves ..).mono.then (answerCtrl_moves ..)) (bump_moves ..).mono

theorem execReHomeAck_answers (a : Arrival) (rIndex : BitVec 24) (rInc : BitVec 8) (s : State) :
    s.Answers (execReHomeAck a rIndex rInc s) [.out, .free, .regs, .power, .mem, .xlate, .queue, .trans, .ports, .ingress, .work,
        .slices, .dirtyLogs, .mailboxes, .host, .hostReads, .keys] := by
  unfold execReHomeAck
  refine .next ?_
  refine .then ?_ (settle_moves ..)
  refine nodeCtrl_moves fun _ _ _ => ?_
  dsimp -proj only
  split
  · exact (dropCtrl_moves ..).mono.then (rehomeDone_moves ..)
  · exact .refl

theorem execCtrlAck_answers (a : Arrival) (seq : Word32) (node : Bool) (s : State) :
    s.Answers (execCtrlAck a seq node s) [.out, .free, .regs, .power, .mem, .xlate, .queue, .trans, .ports, .ingress, .work, .dirtyLogs,
        .mailboxes, .host, .hostReads, .keys] := by
  unfold execCtrlAck
  exact .ite (.next (nodeCtrl_moves fun _ _ _ => (dropCtrl_moves ..).mono)) (.next ((endCtrl_moves ..).then (settle_moves ..)))

theorem forgetCtrl_moves (s : State) (o : CtrlOut) :
    s.Moves (s.forgetCtrl o) [.out, .regs, .trans, .ports, .ingress, .mailboxes] := by
  unfold State.forgetCtrl
  dsimp -proj only
  split
  · exact (dropCtrl_moves ..).mono.then (rekeyOver_moves ..)
  · exact (dropCtrl_moves ..).mono

theorem giveUp_moves (s : State) (o : CtrlOut) :
    s.Moves (s.giveUp o) [.out, .free, .regs, .power, .mem, .xlate, .queue, .trans, .ports, .ingress, .route, .work, .slices,
        .dirtyLogs, .mailboxes, .host, .hostReads, .keys] := by
  unfold State.giveUp
  dsimp -proj only
  split
  · split
    · refine .then ?_ (freeSet_moves ..)
      refine .then ?_ (respondTo_moves ..)
      refine .then ?_ (dropCtrl_moves ..)
      exact .ite (resyncTo_moves ..).mono .refl
    · refine .then ?_ (dropCtrl_moves ..)
      exact .ite (resyncTo_moves ..).mono .refl
  · split
    · refine .ite ?_ ?_
      · refine .then ?_ (freeSet_moves ..)
        refine .then ?_ (dropCtrl_moves ..)
        exact .ite (resyncTo_moves ..).mono .refl
      · refine .then ?_ (dropCtrl_moves ..)
        exact .ite (resyncTo_moves ..).mono .refl
    · refine .then ?_ (dropCtrl_moves ..)
      exact .ite (resyncTo_moves ..).mono .refl
  · split
    · refine .ite ?_ ?_
      · refine .then ?_ (dropCtrl_moves ..)
        exact .ite (resyncTo_moves ..).mono .refl
      · refine .then ?_ (groupFails_moves ..)
        refine .then ?_ (dropCtrl_moves ..)
        exact .ite (resyncTo_moves ..).mono .refl
    · refine .then ?_ (dropCtrl_moves ..)
      exact .ite (resyncTo_moves ..).mono .refl
  · refine .ite ?_ ?_
    · refine .then ?_ (workerFailed_moves ..)
      refine .then ?_ (dropCtrl_moves ..)
      exact .ite (resyncTo_moves ..).mono .refl
    · refine .then ?_ (dropCtrl_moves ..)
      exact .ite (resyncTo_moves ..).mono .refl
  · refine .ite ?_ ?_
    · refine .then ?_ (workerFailed_moves ..)
      refine .then ?_ (dropCtrl_moves ..)
      exact .ite (resyncTo_moves ..).mono .refl
    · refine .then ?_ (dropCtrl_moves ..)
      exact .ite (resyncTo_moves ..).mono .refl
  · refine .ite ?_ ?_
    · refine .then ?_ (workerFailed_moves ..)
      refine .then ?_ (dropCtrl_moves ..)
      exact .ite (resyncTo_moves ..).mono .refl
    · refine .then ?_ (dropCtrl_moves ..)
      exact .ite (resyncTo_moves ..).mono .refl
  · refine .ite ?_ ?_
    · refine .then ?_ (workerFailed_moves ..)
      refine .then ?_ (dropCtrl_moves ..)
      exact .ite (resyncTo_moves ..).mono .refl
    · refine .then ?_ (dropCtrl_moves ..)
      exact .ite (resyncTo_moves ..).mono .refl
  · split
    · refine .then ?_ (rehomeDone_moves ..)
      refine .then ?_ (dropCtrl_moves ..)
      exact .ite (resyncTo_moves ..).mono .refl
    · refine .then ?_ (dropCtrl_moves ..)
      exact .ite (resyncTo_moves ..).mono .refl
  · split
    · refine .then ?_ (kickSet_moves ..)
      refine .then ?_ (rekeyOver_moves ..)
      refine .then ?_ (dropCtrl_moves ..)
      exact .ite (resyncTo_moves ..).mono .refl
    · refine .then ?_ (dropCtrl_moves ..)
      exact .ite (resyncTo_moves ..).mono .refl
  · refine .then ?_ (dropCtrl_moves ..)
    exact .ite (resyncTo_moves ..).mono .refl

theorem repeatCtrl_moves (s : State) (o : CtrlOut) :
    s.Moves (s.repeatCtrl o) [.out, .regs, .trans, .ports, .ingress] := by
  unfold State.repeatCtrl
  dsimp -proj only
  split
  · exact (setTrans_moves _ _).mono.then (putCtrl_moves ..)
  · split
    · exact (setTrans_moves _ _).mono
    · exact (setTrans_moves _ _).mono.then (sendC7_moves ..)

theorem execCtrlRepeatTimer_answers (seq : Word32) (s : State) :
    s.Answers (execCtrlRepeatTimer seq s) [.out, .free, .regs, .power, .mem, .xlate, .queue, .trans, .ports, .ingress, .route, .work,
        .slices, .dirtyLogs, .mailboxes, .host, .hostReads, .keys] := by
  unfold execCtrlRepeatTimer
  split
  · exact .next .refl
  · refine .ite (.next .refl) ?_
    refine .ite (.next ((forgetCtrl_moves ..).mono)) ?_
    exact .ite (.next ((repeatCtrl_moves ..).mono)) (.next ((giveUp_moves ..).then (settle_moves ..)))

theorem connListen_moves (s : State) (slice : Nat) (p : ListenParams) :
    s.Moves (s.connListen slice p).1 [.trans] := by
  unfold State.connListen
  refine .iteFst .refl ?_
  split
  · exact .refl
  · exact setTrans_moves _ _

theorem execConnListen_answers (slice : Fin 512) (tag : Word32) (p : ListenParams) (s : State) :
    s.Answers (execConnListen slice tag p s) [.regs, .trans, .mailboxes] := by
  unfold execConnListen
  exact .next (command_moves fun _ => (connListen_moves ..).mono)

theorem connCreate_moves (s : State) (slice : Nat) (tag : Word32) (p : ConnParams) :
    s.Moves (s.connCreate slice tag p) [.out, .free, .regs, .trans, .ports, .ingress, .mailboxes] := by
  unfold State.connCreate
  split
  · exact (respond_moves ..).mono
  · split
    · exact (respond_moves ..).mono
    · exact (openConn_moves ..).mono

theorem execConnCreate_answers (slice : Fin 512) (tag : Word32) (p : ConnParams) (s : State) :
    s.Answers (execConnCreate slice tag p s) [.out, .free, .regs, .trans, .ports, .ingress, .mailboxes] := by
  unfold execConnCreate
  refine .ite (.next .refl) ?_
  split
  · rename_i heq
    refine State.Moves.answers (.ofPair heq ((take_moves ..).mono)) ?_
    exact .next .refl
  · rename_i heq
    refine State.Moves.answers (.ofPair heq ((take_moves ..).mono)) ?_
    exact .next (connCreate_moves ..)

theorem connDestroy_moves (s : State) (slice : Nat) (conn : Nat) :
    s.Moves (s.connDestroy slice conn).1 [.out, .regs, .mem, .xlate, .trans, .ports, .ingress] := by
  unfold State.connDestroy
  split
  · exact .refl
  · dsimp -proj only
    refine .iteFst .refl ?_
    exact .iteFst .refl (closeSet_moves ..)

theorem execConnDestroy_answers (slice : Fin 512) (tag : Word32) (conn : BitVec 24) (s : State) :
    s.Answers (execConnDestroy slice tag conn s) [.out, .regs, .mem, .xlate, .trans, .ports, .ingress, .mailboxes] := by
  unfold execConnDestroy
  exact .next (command_moves fun _ => (connDestroy_moves ..).mono)

theorem connResume_moves (s : State) (slice : Nat) (conn : Nat) :
    s.Moves (s.connResume slice conn).1 [.trans] := by
  unfold State.connResume
  split
  · exact .refl
  · refine .iteFst .refl ?_
    refine .iteFst .refl ?_
    exact .foldl .refl (fun s m => (modConn_moves ..))

theorem execConnResume_answers (slice : Fin 512) (tag : Word32) (conn : BitVec 24) (s : State) :
    s.Answers (execConnResume slice tag conn s) [.regs, .trans, .mailboxes] := by
  unfold execConnResume
  exact .next (command_moves fun _ => (connResume_moves ..).mono)

theorem cyqPortSet_moves (s : State) (slice : Nat) (port : Word16) :
    s.Moves (s.cyqPortSet slice port).1 [.trans] := by
  unfold State.cyqPortSet
  refine .iteFst .refl ?_
  exact .iteFst .refl (setTrans_moves _ _)

theorem execCyqPortSet_answers (slice : Fin 512) (tag : Word32) (port : Word16) (s : State) :
    s.Answers (execCyqPortSet slice tag port s) [.regs, .trans, .mailboxes] := by
  unfold execCyqPortSet
  exact .next (command_moves fun _ => (cyqPortSet_moves ..).mono)

/-! ### The operations of Machine/DirtyOps.lean -/

theorem modLog_moves (s : State) (k : Nat) (f : DirtyLog → DirtyLog) :
    s.Moves (s.modLog k f) [.dirtyLogs] := by
  unfold State.modLog
  exact setDirtyLogs_moves _ _

theorem flushOver_moves (s : State) (k : Nat) :
    s.Moves (s.flushOver k) [.dirtyLogs, .mailboxes] := by
  unfold State.flushOver
  split
  · exact .refl
  · refine .ite .refl ?_
    split
    · exact (modLog_moves ..).mono
    · exact (setDirtyLogs_moves _ _).mono.then (respond_moves ..)
    · exact (modLog_moves ..).mono.then (respond_moves ..)
    · exact (modLog_moves ..).mono.then (respond_moves ..)

theorem modWord_moves (s : State) (k : Nat) (offset : Nat) (f : BitmapWord → BitmapWord) :
    s.Moves (s.modWord k offset f) [.dirtyLogs] := by
  unfold State.modWord
  exact modLog_moves ..

theorem wordOver_moves (s : State) (k : Nat) (offset : Nat) (code : Option Status) :
    s.Moves (s.wordOver k offset code) [.dirtyLogs, .mailboxes] := by
  unfold State.wordOver
  exact (modLog_moves ..).mono.then (flushOver_moves ..)

theorem wordRead_moves (s : State) (k : Nat) (w : BitmapWord) (b : List Byte) :
    s.Moves (s.wordRead k w b).1 [.out, .free, .regs, .power, .mem, .xlate, .queue, .trans, .dirtyLogs, .host, .hostReads] := by
  unfold State.wordRead
  exact (modWord_moves ..).mono.then (access_moves ..)

theorem bitmapEnded_moves (s : State) (k : Nat) (offset : Nat) (r : AccOut) (fuel : Nat) :
    s.Moves (s.bitmapEnded k offset r fuel) [.out, .free, .regs, .power, .mem, .xlate, .queue, .trans, .dirtyLogs, .mailboxes, .host,
        .hostReads] := by
  induction fuel generalizing s r with
  | zero => exact .refl
  | succ fuel ih =>
    unfold State.bitmapEnded
    split
    · exact .refl
    · exact .refl
    · refine .ite ?_ ?_
      · exact (wordRead_moves ..).mono.then (ih ..)
      · refine .ite ?_ (wordOver_moves ..).mono
        exact (modWord_moves ..).mono.then (access_moves ..) |>.then (ih ..)
    · exact (wordOver_moves ..).mono
    · exact (wordOver_moves ..).mono

theorem setWord_moves (s : State) (k : Nat) (w : BitmapWord) :
    s.Moves (s.setWord k w) [.out, .free, .regs, .power, .mem, .xlate, .queue, .trans, .dirtyLogs, .mailboxes, .host, .hostReads] := by
  unfold State.setWord
  split
  · exact (modWord_moves ..).mono
  · split
    · rename_i heq
      refine State.Moves.trans (.ofPair heq ((modLog_moves ..).mono.then (access_moves ..))) ?_
      exact bitmapEnded_moves ..

theorem flushLog_moves (s : State) (k : Nat) (fenced : Bool) :
    s.Moves (s.flushLog k fenced) [.out, .free, .regs, .power, .mem, .xlate, .queue, .trans, .dirtyLogs, .mailboxes, .host,
        .hostReads] := by
  unfold State.flushLog
  split
  · exact .refl
  · exact (modLog_moves ..).mono.foldl (fun s w => (setWord_moves ..)) |>.then (flushOver_moves ..)

/-! ### The operations of Machine/HostRead.lean -/

theorem finishInvalidates_moves (s : State) :
    s.Moves (s.finishInvalidates) [.out, .xlate] := by
  unfold State.finishInvalidates
  exact (setXlate_moves _ _).mono.foldl (fun s x => (emit_moves ..).mono)

theorem endHostRead_moves (s : State) (w : Waiting) :
    s.Moves (s.endHostRead w) [.out, .xlate, .hostReads] := by
  unfold State.endHostRead
  dsimp -proj only
  refine .then ?_ (finishInvalidates_moves ..)
  refine .then ?_ (setXlateHostReads_moves _ _ _)
  split
  · exact (modRange_moves ..).mono
  · exact .refl

theorem readOutcome_moves (s : State) (w : Waiting) (x1 : ReadResult) :
    s.Moves (s.readOutcome w x1).1 [.regs] := by
  unfold State.readOutcome
  split
  · exact .refl
  · exact failAccess_moves ..
  · exact (bump_moves ..).then (failAccess_moves ..)

/-! ### The operations of Machine/Queues.lean -/

theorem ringCompletion_moves (s : State) (x : Queue) (count : Word32) (arm : Bool) :
    s.Moves (s.ringCompletion x count arm) [.out, .free, .regs, .power, .mem, .xlate, .queue, .trans, .dirtyLogs, .host, .hostReads] := by
  unfold State.ringCompletion
  dsimp -proj only
  refine .ite ?_ ?_
  · refine .then ?_ (overflow_moves ..)
    refine .then ?_ (flushHeld_moves ..)
    exact .ite ((wakeCluster_moves ..).mono.then (modQueue_moves ..) |>.then (checkArm_moves ..))
        ((wakeCluster_moves ..).mono.then (modQueue_moves ..))
  · refine .then ?_ (flushHeld_moves ..)
    exact .ite ((wakeCluster_moves ..).mono.then (modQueue_moves ..) |>.then (checkArm_moves ..))
        ((wakeCluster_moves ..).mono.then (modQueue_moves ..))

theorem doorbell_moves (s : State) (f : Func) (q : Nat) (count : Word32) (arm : Bool) :
    s.Moves (s.doorbell f q count arm) [.out, .free, .regs, .power, .last, .mem, .xlate, .queue, .trans, .dirtyLogs, .host,
        .hostReads] := by
  unfold State.doorbell
  split
  · exact .refl
  · refine .ite (setLast_moves _ _).mono ?_
    exact .ite (ring_moves ..).mono (ringCompletion_moves ..).mono

theorem execQdbDoorbell_answers (f : Func) (q : Nat) (count : Word32) (s : State) :
    s.Answers (execQdbDoorbell f q count s) [.out, .free, .regs, .power, .last, .mem, .xlate, .queue, .trans, .dirtyLogs, .host,
        .hostReads] := by
  unfold execQdbDoorbell
  exact .next (doorbell_moves ..)

theorem execCompletionDoorbell_answers (f : Func) (q : Nat) (count : Word32) (arm : Bool) (s : State) :
    s.Answers (execCompletionDoorbell f q count arm s) [.out, .free, .regs, .power, .last, .mem, .xlate, .queue, .trans, .dirtyLogs,
        .host, .hostReads] := by
  unfold execCompletionDoorbell
  exact .next (doorbell_moves ..)

theorem execQdbPush_answers (f : Func) (q : Nat) (bytes : List Byte) (s : State) :
    s.Answers (execQdbPush f q bytes s) [.regs, .power, .last, .queue] := by
  unfold execQdbPush
  split
  · exact .next .refl
  · refine .ite (.next .refl) ?_
    refine .ite (.next ((setLast_moves _ _).mono)) ?_
    exact .ite (.next ((ring_moves ..).mono.then (modQueue_moves ..) |>.then (wakeAll_moves ..))) (.next ((ring_moves ..).mono))

theorem armWatch_moves (s : State) (k : Nat) :
    s.Moves (s.armWatch k) [.slices] := by
  unfold State.armWatch
  exact modSlice_moves ..

theorem entersRunning_moves (s : State) (x : Queue) :
    s.Moves (s.entersRunning x) [.out, .free, .regs, .power, .mem, .xlate, .queue, .trans, .slices, .dirtyLogs, .host, .hostReads] := by
  unfold State.entersRunning
  dsimp -proj only
  refine .ite ((armWatch_moves ..).mono.then (wakeCluster_moves ..)) ?_
  exact .ite ((armWatch_moves ..).mono.then (flushHeld_moves ..) |>.then (overflow_moves ..))
      ((armWatch_moves ..).mono.then (flushHeld_moves ..))

theorem execQueueEnable_answers (f : Func) (q : Nat) (s : State) :
    s.Answers (execQueueEnable f q s) [.out, .free, .regs, .power, .mem, .xlate, .queue, .trans, .slices, .dirtyLogs, .host,
        .hostReads] := by
  unfold execQueueEnable
  split
  · exact .next .refl
  · exact .ite (.next ((modQueue_moves ..).mono.then (modQueue_moves ..) |>.then (entersRunning_moves ..)))
        (.next ((modQueue_moves ..).mono))

theorem timeoutWait_moves (s : State) (q : Nat) (detail : Nat) :
    s.Moves (s.timeoutWait q detail) [.queue] := by
  unfold State.timeoutWait
  split
  · exact .refl
  · exact (setQueue_moves _ _).then (endDesc_moves ..)

theorem timeoutGates_moves (s : State) (q : Nat) :
    s.Moves (s.timeoutGates q) [.regs, .xlate, .queue, .trans, .work] := by
  unfold State.timeoutGates
  exact .foldl .refl (fun s v => (endSvc_moves ..))

theorem execQueueDisable_answers (f : Func) (q : Nat) (s : State) :
    s.Answers (execQueueDisable f q s) [.regs, .xlate, .queue, .trans, .work] := by
  unfold execQueueDisable
  split
  · exact .next .refl
  · exact .ite (.next ((modQueue_moves ..).mono.then (modQueue_moves ..) |>.then (timeoutWait_moves ..)
        |>.then (timeoutGates_moves ..) |>.then (modQueue_moves ..))) (.next ((modQueue_moves ..).mono))

theorem execQueueResume_answers (f : Func) (q : Nat) (s : State) :
    s.Answers (execQueueResume f q s) [.out, .free, .regs, .power, .mem, .xlate, .queue, .trans, .slices, .dirtyLogs, .host,
        .hostReads] := by
  unfold execQueueResume
  split
  · exact .next .refl
  · refine .ite ?_ (.next .refl)
    exact .ite (.next ((modQueue_moves ..).mono.then (entersRunning_moves ..))) (.next ((modQueue_moves ..).mono))

theorem entryArrived_moves (s : State) (q : Nat) (count : Word32) (bytes : List Byte) :
    s.Moves (s.entryArrived q count bytes) [.regs, .power, .queue] := by
  unfold State.entryArrived
  split
  · exact .refl
  · refine .ite ((modQueue_moves ..).mono.then (modQueue_moves ..)) ?_
    refine .ite (modQueue_moves ..).mono ?_
    refine .ite ((modQueue_moves ..).mono.then (wakeAll_moves ..)) ?_
    refine .ite ?_ (modQueue_moves ..).mono
    exact .ite ((modQueue_moves ..).mono.then (raise_moves ..)) (modQueue_moves ..).mono

theorem fetchOne_moves (s : State) (x : Queue) (count : Word32) :
    s.Moves (s.fetchOne x count) [.out, .free, .regs, .power, .mem, .xlate, .queue, .trans, .dirtyLogs, .host, .hostReads] := by
  unfold State.fetchOne
  dsimp -proj only
  split
  · rename_i heq
    refine State.Moves.trans (.ofPair heq (access_moves ..)) ?_
    exact (entryArrived_moves ..).mono
  · rename_i heq
    refine State.Moves.trans (.ofPair heq (access_moves ..)) ?_
    exact .refl
  · rename_i heq
    refine State.Moves.trans (.ofPair heq (access_moves ..)) ?_
    exact (modQueue_moves ..).mono
  · rename_i heq
    refine State.Moves.trans (.ofPair heq (access_moves ..)) ?_
    exact (modQueue_moves ..).mono.then (ringFault_moves ..)

theorem fetchAll_moves (s : State) (x : Queue) (l : List Word32) :
    s.Moves (s.fetchAll x l) [.out, .free, .regs, .power, .mem, .xlate, .queue, .trans, .dirtyLogs, .host, .hostReads] := by
  induction l generalizing s with
  | nil => exact .refl
  | cons x r ih =>
    rw [State.fetchAll]
    exact (fetchOne_moves ..).then (ih ..)

theorem serveEvicted_moves (s : State) (q : Nat) :
    s.Moves (s.serveEvicted q) [.queue] := by
  unfold State.serveEvicted
  exact (setQueue_moves _ _).then (loadContext_moves ..)

theorem execDescriptorFetch_answers (q : Nat) (s : State) :
    s.Answers (execDescriptorFetch q s) [.out, .free, .regs, .power, .mem, .xlate, .queue, .trans, .dirtyLogs, .host, .hostReads] := by
  unfold execDescriptorFetch
  split
  · exact .next .refl
  · dsimp -proj only
    refine .ite (.next .refl) ?_
    refine .ite (.next .refl) ?_
    refine .ite (.next (.ite .refl (serveEvicted_moves ..).mono)) ?_
    refine .next ?_
    refine .then ?_ (fetchAll_moves ..)
    refine .then ?_ (modQueue_moves ..)
    exact .ite .refl (serveEvicted_moves ..).mono

theorem execDescriptorArrival_answers (q : Nat) (count : Word32) (res : ReadResult) (s : State) :
    s.Answers (execDescriptorArrival q count res s) [.out, .regs, .power, .xlate, .queue, .hostReads] := by
  unfold execDescriptorArrival
  split
  · exact .next .refl
  · split
    · rename_i heq
      refine State.Moves.answers (.ofPair heq ((readOutcome_moves ..).mono)) ?_
      dsimp -proj only
      split
      · exact .ite (.next ((endHostRead_moves ..).mono.then (entryArrived_moves ..))) (.next ((endHostRead_moves ..).mono))
      · exact .next ((endHostRead_moves ..).mono.then (modQueue_moves ..) |>.then (ringFault_moves ..))
      · exact .next ((endHostRead_moves ..).mono)

theorem execDescriptorRefetch_answers (q : Nat) (count : Word32) (s : State) :
    s.Answers (execDescriptorRefetch q count s) [.out, .free, .regs, .power, .mem, .xlate, .queue, .trans, .dirtyLogs, .host,
        .hostReads] := by
  unfold execDescriptorRefetch
  split
  · exact .next .refl
  · split
    · exact .next .refl
    · refine .ite ?_ (.next .refl)
      dsimp -proj only
      refine .next ?_
      refine .then ?_ (fetchOne_moves ..)
      refine .then ?_ (modQueue_moves ..)
      exact .ite .refl (loadContext_moves ..).mono

theorem execDescriptorStart_answers (q : Nat) (s : State) :
    s.Answers (execDescriptorStart q s) [.regs, .queue] := by
  unfold execDescriptorStart
  split
  · exact .next .refl
  · split
    · exact .next .refl
    · refine .ite (.next .refl) ?_
      refine .ite (.next .refl) ?_
      dsimp -proj only
      refine .next ?_
      refine .then ?_ (modQueue_moves ..)
      refine .then ?_ (loadContext_moves ..)
      exact .ite (bump_moves ..).mono .refl

theorem execCompletionDelivery_answers (q : Nat) (s : State) :
    s.Answers (execCompletionDelivery q s) [.out, .regs, .xlate, .queue, .trans, .hostReads] := by
  unfold execCompletionDelivery
  split
  · exact .next .refl
  · split
    · exact .next .refl
    · split
      · exact .next .refl
      · refine .ite (.next .refl) ?_
        refine .ite (.next (issueFlushes_moves ..)) ?_
        dsimp -proj only
        split
        · refine .next ?_
          refine .then ?_ (laceUp_moves ..)
          exact .ite ((countEnd_moves ..).mono.then (modQueue_moves ..) |>.then (setQueue_moves _ _))
              ((countEnd_moves ..).mono.then (modQueue_moves ..))
        · exact .next (.ite ((countEnd_moves ..).mono.then (modQueue_moves ..) |>.then (setQueue_moves _ _))
              ((countEnd_moves ..).mono.then (modQueue_moves ..)))

theorem execCompletionRecord_answers (cq : Nat) (s : State) :
    s.Answers (execCompletionRecord cq s) [.out, .free, .regs, .power, .mem, .xlate, .queue, .trans, .dirtyLogs, .host, .hostReads] := by
  unfold execCompletionRecord
  split
  · exact .next .refl
  · dsimp -proj only
    split
    · exact .next ((setQueue_moves _ _).mono.then (bump_moves ..))
    · refine .ite (.next .refl) ?_
      exact .ite (.next ((setQueue_moves _ _).mono.then (bump_moves ..)))
          (.next ((setQueue_moves _ _).mono.then (loadContext_moves ..) |>.then (modQueue_moves ..) |>.then (flushHeld_moves ..)))

theorem execEventRecord_answers (slice : Fin 512) (s : State) :
    s.Answers (execEventRecord slice s) [.out, .free, .regs, .power, .mem, .xlate, .queue, .trans, .dirtyLogs, .host, .hostReads] := by
  unfold execEventRecord
  split
  · exact .next .refl
  · dsimp -proj only
    refine .ite (.next ((setQueue_moves _ _).mono.then (bump_moves ..))) ?_
    split
    · exact .next ((setQueue_moves _ _).mono.then (overflow_moves ..) |>.then (loseEvent_moves ..))
    · refine .ite (.next ((setQueue_moves _ _).mono.then (overflow_moves ..) |>.then (loseEvent_moves ..))) ?_
      exact .ite (.next .refl) (.next ((setQueue_moves _ _).mono.then (overflow_moves ..) |>.then (loadContext_moves ..)
          |>.then (modQueue_moves ..) |>.then (flushHeld_moves ..)))

theorem execMsixModerationTimer_answers (q : Nat) (s : State) :
    s.Answers (execMsixModerationTimer q s) [.out, .regs, .xlate, .queue, .trans, .host, .hostReads] := by
  unfold execMsixModerationTimer
  split
  · exact .next .refl
  · split
    · exact .next .refl
    · exact .ite (.next ((modQueue_moves ..).mono.then (sendMsix_moves ..))) (.next .refl)

theorem sendHeldMsix_moves (s : State) (f : Func) :
    s.Moves (s.sendHeldMsix f) [.out, .regs, .xlate, .queue, .trans, .host, .hostReads] := by
  unfold State.sendHeldMsix
  exact .ite .refl ((modFunc_moves ..).mono.foldl (fun s v => (launchMsix_moves ..)))

theorem execMsixUnmask_answers (f : Func) (vector : Option Nat) (s : State) :
    s.Answers (execMsixUnmask f vector s) [.out, .regs, .xlate, .queue, .trans, .host, .hostReads] := by
  unfold execMsixUnmask
  dsimp -proj only
  refine .next ?_
  refine .then ?_ (sendHeldMsix_moves ..)
  split
  · exact (modFunc_moves ..).mono
  · exact (modFunc_moves ..).mono

theorem execNop_answers (q : Nat) (count : Word32) (s : State) :
    s.Answers (execNop q count s) [.queue] := by
  unfold execNop
  split
  · exact .next (endWith_moves ..)
  · exact .next .refl

theorem waitTimedOut_moves (s : State) (q : Nat) (count : Word32) (halt : Bool) :
    s.Moves (s.waitTimedOut q count halt) [.queue] := by
  unfold State.waitTimedOut
  exact .ite ((endDesc_moves ..).then (modQueue_moves ..)) (endDesc_moves ..)

theorem execWait_answers (q : Nat) (count : Word32) (s : State) :
    s.Answers (execWait q count s) [.queue] := by
  unfold execWait
  split
  · exact .next .refl
  · dsimp -proj only
    refine .ite (.next (endWith_moves ..)) ?_
    refine .ite (.next (waitTimedOut_moves ..)) ?_
    exact .ite (.next (endDesc_moves ..)) (.next ((setQueue_moves _ _).then (modStarted_moves ..)))

theorem endWait_moves (s : State) (w : Watch) :
    s.Moves (s.endWait w) [.queue] := by
  unfold State.endWait
  exact (setQueue_moves _ _).then (endWith_moves ..)

theorem execWaitRelease_answers (q : Nat) (s : State) :
    s.Answers (execWaitRelease q s) [.queue] := by
  unfold execWaitRelease
  split
  · exact .ite (.next (endWait_moves ..)) (.next .refl)
  · exact .next .refl

theorem execWaitDeadline_answers (q : Nat) (s : State) :
    s.Answers (execWaitDeadline q s) [.regs, .power, .queue] := by
  unfold execWaitDeadline
  split
  · exact .ite (.next ((wakeCluster_moves ..).mono.then (setQueue_moves _ _) |>.then (waitTimedOut_moves ..))) (.next .refl)
  · exact .next .refl

theorem execWaitPoll_answers (q : Nat) (s : State) :
    s.Answers (execWaitPoll q s) [.queue] := by
  unfold execWaitPoll
  split
  · refine .ite ?_ (.next .refl)
    exact .ite (.next (endWait_moves ..)) (.next ((setQueue_moves _ _)))
  · exact .next .refl

theorem execLaceAdd_answers (q : Nat) (count : Word32) (s : State) :
    s.Answers (execLaceAdd q count s) [.queue] := by
  unfold execLaceAdd
  split
  · exact .next ((laceUp_moves ..).then (endWith_moves ..))
  · exact .next .refl

theorem execLaceCounterChange_answers (s : State) :
    s.Answers (execLaceCounterChange s) [.regs, .power, .queue] := by
  unfold execLaceCounterChange
  split
  · exact .next .refl
  · dsimp -proj only
    refine .ite (.next ((setQueue_moves _ _).mono.then (bump_moves ..))) ?_
    exact .ite (.next ((setQueue_moves _ _).mono)) (.next ((setQueue_moves _ _).mono.then (setLace_moves ..)))

theorem setLaceVal_moves (s : State) (slice : Nat) (value : Word64) :
    s.Moves (s.setLaceVal slice value) [.regs, .power, .queue] := by
  unfold State.setLaceVal
  exact .ite (setLace_moves ..) .refl

theorem execSlcLaceValWrite_answers (f : Func) (slice : Fin 512) (value : Word64) (s : State) :
    s.Answers (execSlcLaceValWrite f slice value s) [.regs, .power, .queue] := by
  unfold execSlcLaceValWrite
  exact .ite (.next (setLaceVal_moves ..)) (.next .refl)

/-! ### The operations of Machine/CopyOps.lean -/

theorem copySettle_moves (s : State) (q : Nat) (count : Word32) :
    s.Moves (s.copySettle q count) [.queue] := by
  unfold State.copySettle
  split
  · exact .refl
  · refine .ite .refl ?_
    split
    · exact endDesc_moves ..
    · exact .ite (endDesc_moves ..) .refl

theorem farDone_moves (s : State) (q : Nat) (count : Word32) (u : Nat) :
    s.Moves (s.farDone q count u) [.mem, .xlate] := by
  unfold State.farDone
  split
  · exact .refl
  · dsimp -proj only
    refine .then ?_ (setMem_moves _ _)
    exact .foldl .refl (fun s slot => (modRange_moves ..).mono)

theorem copyFailed_moves (s : State) (q : Nat) (count : Word32) (u : Nat) (write : Bool) (c : Status) :
    s.Moves (s.copyFailed q count u write c) [.mem, .xlate, .queue] := by
  unfold State.copyFailed
  exact (farDone_moves ..).mono.then (modStarted_moves ..) |>.then (copySettle_moves ..)

theorem farHold_moves (s : State) (a : Access) :
    s.Moves (s.farHold a).1 [.free, .regs, .xlate] := by
  unfold State.farHold
  refine .iteFst .refl ?_
  split
  · rename_i heq
    refine State.Moves.trans (.ofPair heq (lookup_moves ..)) ?_
    split
    · exact .refl
    · split
      · exact .refl
      · exact (modRange_moves ..).mono

theorem farIssue_moves (s : State) (x : Queue) (d : Started) (u : Nat) :
    s.Moves (s.farIssue x d u).1 [.free, .regs, .mem, .xlate] := by
  unfold State.farIssue
  split
  · rename_i heq
    refine State.Moves.trans (.ofPair heq ((farHold_moves ..).mono)) ?_
    exact .refl
  · rename_i heq
    refine State.Moves.trans (.ofPair heq ((farHold_moves ..).mono)) ?_
    split
    · rename_i heq
      refine State.Moves.trans (.ofPair heq ((farHold_moves ..).mono)) ?_
      exact .foldl .refl (fun s k => (modRange_moves ..).mono)
    · rename_i heq
      refine State.Moves.trans (.ofPair heq ((farHold_moves ..).mono)) ?_
      exact .iteFst .refl (setMemXlate_moves _ _ _).mono

theorem unitAccess_moves (s : State) (held : Option Nat) (a : Access) :
    s.Moves (s.unitAccess held a).1 [.out, .free, .regs, .power, .mem, .xlate, .queue, .trans, .dirtyLogs, .host, .hostReads] := by
  unfold State.unitAccess
  exact .iteFst (localAccess_moves ..).mono (access_moves ..)

theorem copyIssue_moves (s : State) (q : Nat) (count : Word32) (fuel : Nat) :
    s.Moves (s.copyIssue q count fuel) [.out, .free, .regs, .power, .mem, .xlate, .queue, .trans, .dirtyLogs, .host, .hostReads] := by
  induction fuel generalizing s with
  | zero => exact .refl
  | succ fuel ih =>
    rw [State.copyIssue]
    split
    · exact .refl
    · refine .ite .refl ?_
      dsimp -proj only
      refine .ite ?_ ?_
      · split
        · rename_i heq
          refine State.Moves.trans (.ofPair heq ((modStarted_moves ..).mono.then (access_moves ..))) ?_
          exact (copyFailed_moves ..).mono
        · rename_i heq
          refine State.Moves.trans (.ofPair heq ((modStarted_moves ..).mono.then (access_moves ..))) ?_
          exact ih ..
      · split
        · rename_i heq
          refine State.Moves.trans (.ofPair heq ((modStarted_moves ..).mono.then (farIssue_moves ..))) ?_
          exact (copyFailed_moves ..).mono
        · rename_i heq
          refine State.Moves.trans (.ofPair heq ((modStarted_moves ..).mono.then (farIssue_moves ..))) ?_
          exact ih ..

theorem copyWritten_moves (s : State) (q : Nat) (count : Word32) (u : Nat) :
    s.Moves (s.copyWritten q count u) [.out, .free, .regs, .power, .mem, .xlate, .queue, .trans, .dirtyLogs, .host, .hostReads] := by
  unfold State.copyWritten
  exact (farDone_moves ..).mono.then (modStarted_moves ..) |>.then (copyIssue_moves ..) |>.then (copySettle_moves ..)

theorem copyWriteEnded_moves (s : State) (q : Nat) (count : Word32) (u : Nat) (x1 : AccOut) :
    s.Moves (s.copyWriteEnded q count u x1) [.out, .free, .regs, .power, .mem, .xlate, .queue, .trans, .dirtyLogs, .host, .hostReads] := by
  unfold State.copyWriteEnded
  split
  · exact copyWritten_moves ..
  · exact (copyFailed_moves ..).mono
  · exact .refl

theorem copySource_moves (s : State) (q : Nat) (count : Word32) (u : Nat) (bytes : List Byte) :
    s.Moves (s.copySource q count u bytes) [.out, .free, .regs, .power, .mem, .xlate, .queue, .trans, .dirtyLogs, .host, .hostReads] := by
  unfold State.copySource
  split
  · exact .refl
  · split
    · rename_i heq
      refine State.Moves.trans (.ofPair heq (unitAccess_moves ..)) ?_
      exact copyWriteEnded_moves ..

theorem copyReadEnded_moves (s : State) (q : Nat) (count : Word32) (u : Nat) (x1 : AccOut) :
    s.Moves (s.copyReadEnded q count u x1) [.out, .free, .regs, .power, .mem, .xlate, .queue, .trans, .dirtyLogs, .host, .hostReads] := by
  unfold State.copyReadEnded
  split
  · exact copySource_moves ..
  · exact (copyFailed_moves ..).mono
  · exact .refl

theorem setCheckCtx_moves (s : State) (c : CheckCtx) :
    s.Moves (s.setCheckCtx c) [.checks] := by
  unfold State.setCheckCtx
  exact setChecks_moves _ _

theorem scanEnd_moves (s : State) (x : Queue) (d : Started) (c : Status) (broken : Bool) :
    s.Moves (s.scanEnd x d c broken) [.regs, .queue, .checks] := by
  unfold State.scanEnd
  dsimp -proj only
  refine .then ?_ (endDesc_moves ..)
  refine .then ?_ (bump_moves ..)
  exact .ite ((setCheckCtx_moves ..).mono.then (bump_moves ..)) (setCheckCtx_moves ..).mono

theorem scanFinish_moves (s : State) (x : Queue) (d : Started) :
    s.Moves (s.scanFinish x d) [.regs, .queue, .checks] := by
  unfold State.scanFinish
  exact scanEnd_moves ..

theorem scanWritten_moves (s : State) (q : Nat) (count : Word32) (r : AccOut) :
    s.Moves (s.scanWritten q count r) [.regs, .queue, .checks] := by
  unfold State.scanWritten
  split
  · exact scanFinish_moves ..
  · exact scanEnd_moves ..
  · exact .refl

theorem scanFeed_moves (s : State) (q : Nat) (count : Word32) (bytes : List Byte) :
    s.Moves (s.scanFeed q count bytes) [.queue, .checks] := by
  unfold State.scanFeed
  split
  · exact .refl
  · exact (setCheckCtx_moves ..).mono.then (modStarted_moves ..)

theorem scanRun_moves (s : State) (q : Nat) (count : Word32) (fuel : Nat) :
    s.Moves (s.scanRun q count fuel) [.out, .free, .regs, .power, .mem, .xlate, .queue, .trans, .dirtyLogs, .host, .hostReads,
        .checks] := by
  induction fuel generalizing s with
  | zero => exact .refl
  | succ fuel ih =>
    rw [State.scanRun]
    split
    · exact .refl
    · refine .ite ?_ ?_
      · refine .ite ?_ (scanFinish_moves ..).mono
        split
        · rename_i heq
          refine State.Moves.trans (.ofPair heq ((access_moves ..).mono)) ?_
          exact (scanWritten_moves ..).mono
      · split
        · split
          · rename_i heq
            refine State.Moves.trans (.ofPair heq ((access_moves ..).mono)) ?_
            exact (scanFeed_moves ..).mono.then (ih ..)
          · rename_i heq
            refine State.Moves.trans (.ofPair heq ((access_moves ..).mono)) ?_
            exact (scanEnd_moves ..).mono
          · rename_i heq
            refine State.Moves.trans (.ofPair heq ((access_moves ..).mono)) ?_
            exact .refl

theorem scanReadEnded_moves (s : State) (q : Nat) (count : Word32) (r : AccOut) :
    s.Moves (s.scanReadEnded q count r) [.out, .free, .regs, .power, .mem, .xlate, .queue, .trans, .dirtyLogs, .host, .hostReads,
        .checks] := by
  unfold State.scanReadEnded
  split
  · exact (scanFeed_moves ..).mono.then (scanRun_moves ..)
  · exact (scanEnd_moves ..).mono
  · exact .refl

/-! ### The operations of Machine/RawOps.lean -/

theorem visitRaw_moves (s : State) (q : Nat) (fuel : Nat) :
    s.Moves (s.visitRaw q fuel) [.regs, .trans, .ports] := by
  induction fuel generalizing s with
  | zero => exact .refl
  | succ fuel ih =>
    rw [State.visitRaw]
    split
    · exact .ite ((modWheel_moves ..).mono.then (setTrans_moves _ _) |>.then (queueFrame_moves ..) |>.then (ih ..))
          (placeEntry_moves ..).mono
    · exact (modWheel_moves ..).mono

theorem visitQueue_moves (s : State) (q : Nat) :
    s.Moves (s.visitQueue q) [.regs, .trans, .ports] := by
  unfold State.visitQueue
  split
  · exact (gainCredit_moves ..).mono.then (visitRaw_moves ..)
  · exact visitRaw_moves ..

theorem paceRaw_moves (s : State) (f : RawFrame) :
    s.Moves (s.paceRaw f) [.regs, .trans, .ports] := by
  unfold State.paceRaw
  refine .ite (queueFrame_moves ..).mono ?_
  dsimp -proj only
  split
  · exact (setTrans_moves _ _).mono.then (setTrans_moves _ _)
  · exact .ite (setTrans_moves _ _).mono ((setTrans_moves _ _).mono.then (placeEntry_moves ..))

theorem rawSourced_moves (s : State) (q : Nat) (count : Word32) (b : List Byte) :
    s.Moves (s.rawSourced q count b) [.regs, .queue, .trans, .ports] := by
  unfold State.rawSourced
  split
  · exact .refl
  · dsimp -proj only
    refine .ite (endWith_moves ..).mono ?_
    refine .ite (endWith_moves ..).mono ?_
    exact .ite (endWith_moves ..).mono (paceRaw_moves ..).mono

theorem rawSent_moves (s : State) (q : Nat) (count : Word32) :
    s.Moves (s.rawSent q count) [.out, .free, .regs, .power, .mem, .xlate, .queue, .trans, .dirtyLogs, .host, .hostReads] := by
  unfold State.rawSent
  split
  · exact .refl
  · dsimp -proj only
    refine .ite ?_ (endDesc_moves ..).mono
    split
    · rename_i heq
      refine State.Moves.trans (.ofPair heq (access_moves ..)) ?_
      exact (endDesc_moves ..).mono
    · rename_i heq
      refine State.Moves.trans (.ofPair heq (access_moves ..)) ?_
      exact (endWith_moves ..).mono
    · rename_i heq
      refine State.Moves.trans (.ofPair heq (access_moves ..)) ?_
      exact .refl

theorem rawBufferEnded_moves (s : State) (q : Nat) (count : Word32) (r : AccOut) :
    s.Moves (s.rawBufferEnded q count r) [.queue] := by
  unfold State.rawBufferEnded
  split
  · exact .ite (endDesc_moves ..) (endDesc_moves ..)
  · exact endWith_moves ..
  · exact .refl

/-! ### The operations of Machine/DeliverOps.lean -/

theorem sourceEnded_moves (s : State) (q : Nat) (count : Word32) (k : Nat) (r : AccOut) :
    s.Moves (s.sourceEnded q count k r) [.out, .free, .regs, .power, .mem, .xlate, .queue, .trans, .ports, .ingress, .dirtyLogs, .host,
        .hostReads, .keys] := by
  unfold State.sourceEnded
  split
  · exact .refl
  · refine .ite ?_ ?_
    · split
      · exact (rawSourced_moves ..).mono
      · exact (endWith_moves ..).mono
      · exact .refl
    · dsimp -proj only
      split
      · exact .refl
      · split
        · exact (modOp_moves ..).mono.then (kickSet_moves ..)
        · exact (stopOp_moves ..).mono.then (finishOps_moves ..) |>.then (kickSet_moves ..)
        · exact .refl

theorem fetchEnded_moves (s : State) (q : Nat) (count : Word32) (r : AccOut) :
    s.Moves (s.fetchEnded q count r) [.regs, .power, .queue] := by
  unfold State.fetchEnded
  dsimp -proj only
  split
  · exact entryArrived_moves ..
  · exact (modQueue_moves ..).mono.then (ringFault_moves ..)
  · exact (modQueue_moves ..).mono
  · exact .refl

theorem entryEnded_moves (s : State) (cq : Nat) (r : AccOut) :
    s.Moves (s.entryEnded cq r) [.out, .free, .regs, .power, .mem, .xlate, .queue, .trans, .dirtyLogs, .host, .hostReads] := by
  unfold State.entryEnded
  split
  · exact .refl
  · split
    · exact .ite ((entryWritten_moves ..).mono.then (flushHeld_moves ..) |>.then (overflow_moves ..))
          ((entryWritten_moves ..).mono.then (flushHeld_moves ..))
    · exact (modQueue_moves ..).mono.then (cqFault_moves ..)
    · exact (modQueue_moves ..).mono
    · exact .refl

theorem serveEnded_moves (s : State) (k : Nat) (r : AccOut) :
    s.Moves (s.serveEnded k r) [.out, .free, .regs, .power, .mem, .xlate, .queue, .trans, .ports, .ingress, .dirtyLogs, .host,
        .hostReads, .keys] := by
  unfold State.serveEnded
  split
  · exact (setServed_moves ..).mono.then (kick_moves ..)
  · exact (refuseServe_moves ..).mono
  · exact .refl

theorem serviceEnded_moves (s : State) (q : Nat) (count : Word32) (a : Access) (r : AccOut) :
    s.Moves (s.serviceEnded q count a r) [.out, .free, .regs, .power, .mem, .xlate, .queue, .trans, .ports, .ingress, .work, .dirtyLogs,
        .host, .hostReads, .keys] := by
  unfold State.serviceEnded
  split
  · exact .refl
  · split
    · exact .ite .refl (svcArrived_moves ..)
    · exact (failSvc_moves ..).mono
    · exact .refl

theorem probeEnded_moves (s : State) (op : Nat) (r : AccOut) :
    s.Moves (s.probeEnded op r) [.out, .free, .regs, .power, .mem, .xlate, .queue, .trans, .ports, .ingress, .dirtyLogs, .host,
        .hostReads, .keys] := by
  unfold State.probeEnded
  split
  · exact .refl
  · split
    · exact .ite (sendSegment_moves ..) .refl
    · exact (stopOp_moves ..).mono.then (finishOps_moves ..) |>.then (kickSet_moves ..)
    · exact .refl

theorem pieceEnded_moves (s : State) (h : Nat) (what : CollUse) (r : AccOut) :
    s.Moves (s.pieceEnded h what r) [.out, .free, .regs, .power, .mem, .xlate, .queue, .trans, .ports, .ingress, .work, .dirtyLogs,
        .mailboxes, .host, .hostReads, .keys] := by
  unfold State.pieceEnded
  split
  · exact (groupTable_moves ..).mono
  · exact (groupFails_moves ..).mono
  · exact .refl
  · exact (collAccessEnded_moves ..).mono

theorem deliver_moves (s : State) (a : Access) (r : AccOut) :
    s.Moves (s.deliver a r) [.out, .free, .regs, .power, .mem, .xlate, .queue, .trans, .ports, .ingress, .work, .dirtyLogs, .mailboxes,
        .host, .hostReads, .keys, .checks] := by
  unfold State.deliver
  split
  · exact (fetchEnded_moves ..).mono
  · exact (entryEnded_moves ..).mono
  · exact (sourceEnded_moves ..).mono
  · exact (copyReadEnded_moves ..).mono
  · exact (copyWriteEnded_moves ..).mono
  · exact (landingEnded_moves ..).mono
  · exact (rawBufferEnded_moves ..).mono
  · exact (scanReadEnded_moves ..).mono
  · exact (scanWritten_moves ..).mono
  · exact (serveEnded_moves ..).mono
  · exact (serviceEnded_moves ..).mono
  · split
    · exact (failSvc_moves ..).mono
    · exact (svcOutEnded_moves ..).mono
    · exact .refl
  · exact (pieceEnded_moves ..).mono
  · split
    · exact (eyeletDone_moves ..).mono
    · exact (eyeletDone_moves ..).mono
    · exact .refl
  · exact (probeEnded_moves ..).mono
  · exact (bitmapEnded_moves ..).mono
  · exact (emitMsix_moves ..).mono
  · exact (respWritten_moves ..).mono
  · exact .refl

theorem resumeWaiting_moves (s : State) (w : Waiting) :
    s.Moves (s.resumeWaiting w) [.out, .free, .regs, .power, .mem, .xlate, .queue, .trans, .ports, .ingress, .work, .dirtyLogs,
        .mailboxes, .host, .hostReads, .keys, .checks] := by
  unfold State.resumeWaiting
  split
  · exact (dropWaiting_moves ..).mono.then (readServe_moves ..) |>.then (kick_moves ..)
  · exact (dropWaiting_moves ..).mono.then (emitMsix_moves ..)
  · exact (dropWaiting_moves ..).mono.then (respWritten_moves ..)
  · split
    · rename_i heq
      refine State.Moves.trans (.ofPair heq ((dropWaiting_moves ..).mono.then (attempt_moves ..))) ?_
      exact deliver_moves ..

theorem failWaiting_moves (s : State) (w : Waiting) (c : Status) :
    s.Moves (s.failWaiting w c) [.out, .free, .regs, .power, .mem, .xlate, .queue, .trans, .ports, .ingress, .work, .dirtyLogs,
        .mailboxes, .host, .hostReads, .keys, .checks] := by
  unfold State.failWaiting
  split
  · rename_i heq
    refine State.Moves.trans (.ofPair heq ((dropWaiting_moves ..).mono.then (failAccess_moves ..))) ?_
    exact deliver_moves ..

theorem failAll_moves (s : State) (good : Waiting → Bool) (c : Status) :
    s.Moves (s.failAll good c) [.out, .free, .regs, .power, .mem, .xlate, .queue, .trans, .ports, .ingress, .work, .dirtyLogs,
        .mailboxes, .host, .hostReads, .keys, .checks] := by
  unfold State.failAll
  exact .foldl .refl (fun s w => (failWaiting_moves ..))

theorem moveBefore_moves (s : State) (w : Waiting) (f : Func) (pasid : Option (BitVec 20)) (page : Nat) :
    s.Moves (s.moveBefore w f pasid page).1 [.out, .regs, .xlate, .queue, .trans, .dirtyLogs, .host, .hostReads] := by
  unfold State.moveBefore
  dsimp -proj only
  split
  · exact .refl
  · refine .iteFst .refl ?_
    split
    · exact .refl
    · split
      · rename_i heq
        refine State.Moves.trans (.ofPair heq (hostAccess_moves ..)) ?_
        exact .refl
      · exact .refl

theorem faultServing_moves (s : State) (k : Nat) (e : RangeEntry) (f : Func) (pasid : Option (BitVec 20)) (page : Nat) :
    s.Moves (s.faultServing k e f pasid page) [.out, .free, .regs, .power, .mem, .xlate, .queue, .trans, .ports, .ingress, .dirtyLogs,
        .host, .hostReads, .keys] := by
  unfold State.faultServing
  split
  · rename_i heq
    refine State.Moves.trans (.ofPair heq ((inboundFault_moves ..).mono)) ?_
    exact (refuseServe_moves ..).mono.then (kick_moves ..)
  · rename_i heq
    refine State.Moves.trans (.ofPair heq ((inboundFault_moves ..).mono)) ?_
    exact (faultServe_moves ..).mono.then (kick_moves ..)

theorem faultWaiting_moves (s : State) (w : Waiting) :
    s.Moves (s.faultWaiting w) [.out, .free, .regs, .power, .mem, .xlate, .queue, .trans, .ports, .ingress, .work, .dirtyLogs,
        .mailboxes, .host, .hostReads, .keys, .checks] := by
  unfold State.faultWaiting
  split
  · exact resumeWaiting_moves ..
  · split
    · exact (dropWaiting_moves ..).mono.then (faultServing_moves ..)
    · split
      · exact failWaiting_moves ..
      · refine .ite (failWaiting_moves ..) ?_
        split
        · rename_i heq
          refine State.Moves.trans (.ofPair heq ((dropWaiting_moves ..).mono.then (moveBefore_moves ..))) ?_
          dsimp -proj only
          split
          · rename_i heq
            refine State.Moves.trans (.ofPair heq ((fault_moves ..).mono)) ?_
            exact (park_moves ..).mono
          · rename_i heq
            refine State.Moves.trans (.ofPair heq ((fault_moves ..).mono)) ?_
            exact (park_moves ..).mono

theorem retryStalled_moves (s : State) :
    s.Moves (s.retryStalled) [.out, .free, .regs, .power, .mem, .xlate, .queue, .trans, .ports, .ingress, .work, .dirtyLogs, .mailboxes,
        .host, .hostReads, .keys, .checks] := by
  unfold State.retryStalled
  exact .foldl .refl (fun s w => (faultWaiting_moves ..))

theorem heldEnds_moves (s : State) (c : Conn) (a : Arrival) (psns : List Word32) (r : Inbound) :
    s.Moves (s.heldEnds c a psns r) [.out, .regs, .xlate, .queue, .trans, .ports, .ingress, .work] := by
  unfold State.heldEnds
  split
  · exact collFail_moves ..
  · exact collFail_moves ..
  · exact (turnAway_moves ..).mono

theorem heldAnswered_moves (s : State) (asked : Nat → Bool) (a : Arrival) :
    s.Moves (s.heldAnswered asked a) [.out, .free, .regs, .power, .mem, .xlate, .queue, .trans, .ports, .ingress, .work, .dirtyLogs,
        .mailboxes, .host, .hostReads, .keys] := by
  unfold State.heldAnswered
  dsimp -proj only
  split
  · rename_i heq
    refine State.Moves.trans (.ofPair heq ((endChecks_moves ..).mono)) ?_
    exact .refl
  · rename_i heq
    refine State.Moves.trans (.ofPair heq ((endChecks_moves ..).mono)) ?_
    split
    · exact endPacketIn_moves ..
    · split
      · exact endPacketIn_moves ..
      · refine .ite (endPacketIn_moves ..) ?_
        exact (inboundFault_moves ..).mono.then (heldEnds_moves ..)

theorem turnHeld_moves (s : State) (r : Inbound) (a : Arrival) :
    s.Moves (s.turnHeld r a) [.out, .free, .regs, .power, .mem, .xlate, .queue, .trans, .ports, .ingress, .work, .dirtyLogs, .mailboxes,
        .host, .hostReads, .keys] := by
  unfold State.turnHeld
  dsimp -proj only
  split
  · rename_i heq
    refine State.Moves.trans (.ofPair heq ((endChecks_moves ..).mono)) ?_
    exact .refl
  · rename_i heq
    refine State.Moves.trans (.ofPair heq ((endChecks_moves ..).mono)) ?_
    exact .ite (endPacketIn_moves ..) (heldEnds_moves ..).mono

theorem refuseHeld_moves (s : State) (code : Status) (a : Arrival) :
    s.Moves (s.refuseHeld code a) [.out, .free, .regs, .power, .mem, .xlate, .queue, .trans, .ports, .ingress, .work, .dirtyLogs,
        .mailboxes, .host, .hostReads, .keys] := by
  unfold State.refuseHeld
  dsimp -proj only
  refine .then ?_ (turnHeld_moves ..)
  split
  · exact .ite (bump_moves ..).mono .refl
  · exact .refl

theorem releaseWrites_moves (s : State) (on : WaitFor) :
    s.Moves (s.releaseWrites on) [.out, .free, .regs, .power, .mem, .xlate, .queue, .trans, .ports, .ingress, .work, .dirtyLogs,
        .mailboxes, .host, .hostReads, .keys, .checks] := by
  unfold State.releaseWrites
  dsimp -proj only
  refine .foldl ?_ (fun s a => (again_received_moves ..).mono)
  refine .then ?_ (takeHeld_moves ..)
  exact .foldl .refl (fun s w => (resumeWaiting_moves ..))

theorem releaseLog_moves (s : State) :
    s.Moves (s.releaseLog) [.out, .free, .regs, .power, .mem, .xlate, .queue, .trans, .ports, .ingress, .work, .dirtyLogs, .mailboxes,
        .host, .hostReads, .keys, .checks] := by
  unfold State.releaseLog
  exact releaseWrites_moves ..

theorem flushWaiting_moves (s : State) (id : Nat) (code : Option Status) (w : Waiting) :
    s.Moves (s.flushWaiting id code w) [.out, .free, .regs, .power, .mem, .xlate, .queue, .trans, .ports, .ingress, .work, .dirtyLogs,
        .mailboxes, .host, .hostReads, .keys, .checks] := by
  unfold State.flushWaiting
  split
  · dsimp -proj only
    refine .ite (modWaiting_moves ..).mono ?_
    exact (patchEntry_moves ..).mono.then (resumeWaiting_moves ..)
  · exact .refl

theorem flushStarted_moves (s : State) (id : Nat) (code : Option Status) :
    s.Moves (s.flushStarted id code) [.queue] := by
  unfold State.flushStarted
  exact setQueue_moves _ _

theorem flushMsgs_moves (s : State) (id : Nat) (pathTag : Nat) (code : Option Status) :
    s.Moves (s.flushMsgs id pathTag code) [.out, .regs, .power, .queue, .trans, .ports, .ingress] := by
  unfold State.flushMsgs
  exact (setTrans_moves _ _).mono.foldl (fun s x => (flushedMsg_moves ..))

theorem flushEnded_moves (s : State) (f : Flush) (code : Option Status) :
    s.Moves (s.flushEnded f code) [.out, .free, .regs, .power, .mem, .xlate, .queue, .trans, .ports, .ingress, .work, .dirtyLogs,
        .mailboxes, .host, .hostReads, .keys, .checks] := by
  unfold State.flushEnded
  dsimp -proj only
  refine .then ?_ (finishInvalidates_moves ..)
  refine .then ?_ (flushMsgs_moves ..)
  refine .then ?_ (flushStarted_moves ..)
  refine .foldl ?_ (fun s w => (flushWaiting_moves ..))
  split
  · refine .ite ?_ ?_
    · refine .then ?_ (setXlate_moves _ _)
      exact .ite ((setXlateHostReads_moves _ _ _).mono.then (bump_moves ..)) (setXlateHostReads_moves _ _ _).mono
    · exact .ite ((setXlateHostReads_moves _ _ _).mono.then (bump_moves ..)) (setXlateHostReads_moves _ _ _).mono
  · exact .ite ((setXlateHostReads_moves _ _ _).mono.then (bump_moves ..)) (setXlateHostReads_moves _ _ _).mono

/-! ### The operations of Machine/Deliver.lean -/

theorem addPages_moves (s : State) (r : AtsReq) (pages : List (Nat × Nat × Bool × Bool)) :
    s.Moves (s.addPages r pages) [.free, .xlate] := by
  unfold State.addPages
  exact .foldl .refl (fun s p => (setXlate_moves _ _).mono.then (addLine_moves ..))

theorem atsAnswered_moves (s : State) (r : AtsReq) :
    s.Moves (s.atsAnswered r) [.out, .free, .regs, .power, .mem, .xlate, .queue, .trans, .ports, .ingress, .work, .dirtyLogs,
        .mailboxes, .host, .hostReads, .keys, .checks] := by
  unfold State.atsAnswered
  dsimp -proj only
  refine .foldl ?_ (fun s a => (heldAnswered_moves ..).mono)
  refine .then ?_ (takeHeld_moves ..)
  exact .foldl .refl (fun s w => .ite (faultWaiting_moves ..) (resumeWaiting_moves ..))

theorem atsFailed_moves (s : State) (r : AtsReq) (c : Status) :
    s.Moves (s.atsFailed r c) [.out, .free, .regs, .power, .mem, .xlate, .queue, .trans, .ports, .ingress, .work, .dirtyLogs,
        .mailboxes, .host, .hostReads, .keys, .checks] := by
  unfold State.atsFailed
  dsimp -proj only
  exact (failAll_moves ..).then (takeHeld_moves ..) |>.foldl (fun s a => (refuseHeld_moves ..).mono)

theorem atsEnded_moves (s : State) (r : AtsReq) (pages : List (Nat × Nat × Bool × Bool)) (res : ReadResult) :
    s.Moves (s.atsEnded r pages res) [.out, .free, .regs, .power, .mem, .xlate, .queue, .trans, .ports, .ingress, .work, .dirtyLogs,
        .mailboxes, .host, .hostReads, .keys, .checks] := by
  unfold State.atsEnded
  dsimp -proj only
  split
  · exact (setXlate_moves _ _).mono.then (addPages_moves ..) |>.then (atsAnswered_moves ..)
  · exact (setXlate_moves _ _).mono.then (atsFailed_moves ..)
  · exact (setXlate_moves _ _).mono.then (bump_moves ..) |>.then (atsFailed_moves ..)

theorem execAtsCompletion_answers (id : Nat) (pages : List (Nat × Nat × Bool × Bool)) (res : ReadResult) (s : State) :
    s.Answers (execAtsCompletion id pages res s) [.out, .free, .regs, .power, .mem, .xlate, .queue, .trans, .ports, .ingress, .work,
        .dirtyLogs, .mailboxes, .host, .hostReads, .keys, .checks] := by
  unfold execAtsCompletion
  split
  · exact .next .refl
  · exact .next ((atsEnded_moves ..).then (settle_moves ..))

theorem execAtsInvalidate_answers (f : Func) (pasid : Option (BitVec 20)) (iova : Nat) (length : Nat) (s : State) :
    s.Answers (execAtsInvalidate f pasid iova length s) [.out, .xlate] := by
  unfold execAtsInvalidate
  exact .next ((setXlate_moves _ _).mono.then (finishInvalidates_moves ..))

theorem dropLines_moves (s : State) (good : Func → Bool) :
    s.Moves (s.dropLines good) [.xlate] := by
  unfold State.dropLines
  exact setXlate_moves _ _

theorem execAtsEnableClear_answers (f : Func) (s : State) :
    s.Answers (execAtsEnableClear f s) [.out, .free, .regs, .power, .mem, .xlate, .queue, .trans, .ports, .ingress, .work, .dirtyLogs,
        .mailboxes, .host, .hostReads, .keys, .checks] := by
  unfold execAtsEnableClear
  dsimp -proj only
  exact .next ((modFunc_moves ..).mono.then (dropLines_moves ..) |>.then (setXlate_moves _ _) |>.then (failAll_moves ..)
      |>.then (takeHeld_moves ..) |>.foldl (fun s a => (refuseHeld_moves ..).mono) |>.then (settle_moves ..))

theorem execPageResponse_answers (f : Func) (prg : Nat) (code : Nat) (s : State) :
    s.Answers (execPageResponse f prg code s) [.out, .free, .regs, .power, .mem, .xlate, .queue, .trans, .ports, .ingress, .work,
        .dirtyLogs, .mailboxes, .host, .hostReads, .keys, .checks] := by
  unfold execPageResponse
  split
  · exact .next ((bump_moves ..).mono)
  · dsimp -proj only
    refine .ite (.next ((failAll_moves ..).then (setXlate_moves _ _) |>.foldl (fun s w => (resumeWaiting_moves ..))
        |>.then (retryStalled_moves ..) |>.then (settle_moves ..))) ?_
    exact .ite (.next ((failAll_moves ..).then (setXlate_moves _ _) |>.then (setXlate_moves _ _)
        |>.foldl (fun s w => (failWaiting_moves ..)) |>.then (retryStalled_moves ..) |>.then (settle_moves ..)))
        (.next ((failAll_moves ..).then (setXlate_moves _ _) |>.then (setXlate_moves _ _) |>.then (failAll_moves ..)
        |>.then (retryStalled_moves ..) |>.then (settle_moves ..)))

theorem execPriEnableChange_answers (f : Func) (enable : Bool) (s : State) :
    s.Answers (execPriEnableChange f enable s) [.xlate, .host] := by
  unfold execPriEnableChange
  exact .ite (.next ((modFunc_moves ..).mono.then (setXlate_moves _ _))) (.next ((modFunc_moves ..).mono))

theorem execFaultWaitDeadline_answers (waiter : Nat) (s : State) :
    s.Answers (execFaultWaitDeadline waiter s) [.out, .free, .regs, .power, .mem, .xlate, .queue, .trans, .ports, .ingress, .work,
        .dirtyLogs, .mailboxes, .host, .hostReads, .keys, .checks] := by
  unfold execFaultWaitDeadline
  dsimp -proj only
  split
  · refine .ite ?_ ?_
    · refine .next ?_
      refine .then ?_ (settle_moves ..)
      refine .then ?_ (reportOp_moves ..)
      split
      · exact .ite ((failWaiting_moves ..).then (retryStalled_moves ..)) .refl
      · exact .refl
    · refine .next ?_
      refine .then ?_ (settle_moves ..)
      split
      · exact .ite ((failWaiting_moves ..).then (retryStalled_moves ..)) .refl
      · exact .refl
  · refine .next ?_
    refine .then ?_ (settle_moves ..)
    split
    · exact .ite ((failWaiting_moves ..).then (retryStalled_moves ..)) .refl
    · exact .refl

theorem readEnded_moves (s : State) (h : HostRead) (res : ReadResult) :
    s.Moves (s.readEnded h res) [.out, .free, .regs, .power, .mem, .xlate, .queue, .trans, .ports, .ingress, .work, .dirtyLogs,
        .mailboxes, .host, .hostReads, .keys, .checks] := by
  unfold State.readEnded
  split
  · split
    · exact (setHostReads_moves _ _).mono.then (finishInvalidates_moves ..)
    · split
      · rename_i heq
        refine State.Moves.trans (.ofPair heq ((readOutcome_moves ..).mono)) ?_
        exact (endHostRead_moves ..).mono.then (deliver_moves ..)
  · split
    · exact (setHostReads_moves _ _).mono
    · split
      · exact flushEnded_moves ..
      · exact flushEnded_moves ..
      · exact (bump_moves ..).mono.then (flushEnded_moves ..)

theorem execFlushReadCompletion_answers (id : Nat) (res : ReadResult) (s : State) :
    s.Answers (execFlushReadCompletion id res s) [.out, .free, .regs, .power, .mem, .xlate, .queue, .trans, .ports, .ingress, .work,
        .dirtyLogs, .mailboxes, .host, .hostReads, .keys, .checks] := by
  unfold execFlushReadCompletion
  split
  · exact .next ((readEnded_moves ..).then (settle_moves ..))
  · exact .next .refl

theorem execHostReadCompletion_answers (id : Nat) (res : ReadResult) (s : State) :
    s.Answers (execHostReadCompletion id res s) [.out, .free, .regs, .power, .mem, .xlate, .queue, .trans, .ports, .ingress, .work,
        .dirtyLogs, .mailboxes, .host, .hostReads, .keys, .checks] := by
  unfold execHostReadCompletion
  split
  · exact .next ((readEnded_moves ..).then (settle_moves ..))
  · exact .next .refl

theorem execPcieCompletionTimeout_answers (id : Nat) (s : State) :
    s.Answers (execPcieCompletionTimeout id s) [.out, .free, .regs, .power, .mem, .xlate, .queue, .trans, .ports, .ingress, .work,
        .dirtyLogs, .mailboxes, .host, .hostReads, .keys, .checks] := by
  unfold execPcieCompletionTimeout
  split
  · exact .ite (.next ((aerNote_moves ..).mono.then (readEnded_moves ..) |>.then (settle_moves ..))) (.next .refl)
  · split
    · exact .ite (.next ((aerNote_moves ..).mono.then (atsEnded_moves ..) |>.then (settle_moves ..))) (.next .refl)
    · exact .next .refl

theorem tlpsAcked_moves (s : State) (port : Nat) (count : Nat) :
    s.Moves (s.tlpsAcked port count) [.queue, .trans, .host] := by
  unfold State.tlpsAcked
  exact setQueueTransHost_moves _ _ _ _

theorem execDataLinkLayerAck_answers (port : Fin 2) (count : Nat) (s : State) :
    s.Answers (execDataLinkLayerAck port count s) [.out, .free, .regs, .power, .mem, .xlate, .queue, .trans, .ports, .ingress, .work,
        .dirtyLogs, .mailboxes, .host, .hostReads, .keys, .checks] := by
  unfold execDataLinkLayerAck
  exact .next ((tlpsAcked_moves ..).mono.then (releaseWrites_moves ..) |>.foldl (fun s x => (flushMsg_moves ..).mono)
      |>.then (settle_moves ..))

theorem dropRangeLines_moves (s : State) (slice : Nat) (slot : Nat) :
    s.Moves (s.dropRangeLines slice slot) [.xlate] := by
  unfold State.dropRangeLines
  exact setXlate_moves _ _

theorem addRevokeRecord_moves (s : State) (e : RangeEntry) :
    s.Moves (s.addRevokeRecord e) [.regs, .xlate] := by
  unfold State.addRevokeRecord
  dsimp -proj only
  split
  · refine .ite ?_ (setXlate_moves _ _).mono
    refine .then ?_ (setXlate_moves _ _)
    exact .ite .refl (bump_moves ..).mono
  · exact (setXlate_moves _ _).mono

theorem freeRange_moves (s : State) (e : RangeEntry) :
    s.Moves (s.freeRange e) [.xlate] := by
  unfold State.freeRange
  exact (dropRangeLines_moves ..).then (modRange_moves ..)

theorem execRevokeDrainDone_answers (slot : Nat) (s : State) :
    s.Answers (execRevokeDrainDone slot s) [.regs, .xlate, .mailboxes] := by
  unfold execRevokeDrainDone
  split
  · exact .next .refl
  · refine .ite (.next .refl) ?_
    dsimp -proj only
    refine .next ?_
    refine .then ?_ (respondTo_moves ..)
    refine .then ?_ (freeRange_moves ..)
    exact .ite (addRevokeRecord_moves ..).mono .refl

theorem execRevokeRecordExpiry_answers (s : State) :
    s.Answers (execRevokeRecordExpiry s) [.xlate] := by
  unfold execRevokeRecordExpiry
  exact .next (setXlate_moves _ _)

/-! ### The operations of Machine/RegionOps.lean -/

theorem drawKey_moves (s : State) (slice : Nat) (fuel : Nat) :
    s.Moves (s.drawKey slice fuel).1 [.free] := by
  induction fuel generalizing s with
  | zero => exact advanceFree_moves ..
  | succ fuel ih =>
    rw [State.drawKey]
    exact .iteFst (advanceFree_moves ..) ((advanceFree_moves ..).then (ih ..))

theorem registerRegion_moves (s : State) (slice : Nat) (p : RegionParams) :
    s.Moves (s.registerRegion slice p).1 [.free, .xlate] := by
  unfold State.registerRegion
  dsimp -proj only
  refine .iteFst .refl ?_
  refine .iteFst .refl ?_
  refine .iteFst .refl ?_
  refine .iteFst .refl ?_
  refine .iteFst .refl ?_
  refine .iteFst .refl ?_
  refine .iteFst .refl ?_
  split
  · exact .refl
  · exact (advanceFree_moves ..).mono.then (drawKey_moves ..) |>.then (setXlate_moves _ _)

theorem beginRevoke_moves (s : State) (e : RangeEntry) (who : Option (Nat × Word32)) :
    s.Moves (s.beginRevoke e who) [.out, .free, .regs, .power, .mem, .xlate, .queue, .trans, .ports, .ingress, .work, .dirtyLogs,
        .mailboxes, .host, .hostReads, .keys, .checks] := by
  unfold State.beginRevoke
  dsimp -proj only
  exact (dropRangeLines_moves ..).mono.then (modRange_moves ..) |>.then (failAll_moves ..) |>.then (setTrans_moves _ _)
      |>.foldl (fun s h => (turnHeld_moves ..).mono)

theorem queueNumber_moves (s : State) (slice : Nat) (c : Nat) :
    s.Moves (s.queueNumber slice c).1 [.free, .queue] := by
  unfold State.queueNumber
  dsimp -proj only
  split
  · exact (advanceFree_moves ..).mono
  · split
    · exact .refl
    · split
      · exact .refl
      · exact (advanceFree_moves ..).mono.then (advanceFree_moves ..) |>.then (setQueue_moves _ _)

theorem trimGroups_moves (s : State) :
    s.Moves (s.trimGroups) [.queue] := by
  unfold State.trimGroups
  exact setQueue_moves _ _

theorem createQueue_moves (s : State) (slice : Nat) (p : QueueParams) :
    s.Moves (s.createQueue slice p).1 [.free, .queue] := by
  unfold State.createQueue
  split
  · exact .refl
  · dsimp -proj only
    refine .iteFst .refl ?_
    refine .iteFst .refl ?_
    refine .iteFst .refl ?_
    refine .iteFst .refl ?_
    split
    · rename_i heq
      refine State.Moves.trans (.ofPair heq ?_) ?_
      · refine .then ?_ (queueNumber_moves ..)
        refine .iteFst .refl ?_
        exact .iteFst (advanceFree_moves ..).mono .refl
      · exact .refl
    · rename_i heq
      refine State.Moves.trans (.ofPair heq ?_) ?_
      · refine .then ?_ (queueNumber_moves ..)
        refine .iteFst .refl ?_
        exact .iteFst (advanceFree_moves ..).mono .refl
      · exact .ite ((setQueue_moves _ _).mono.then (loadContext_moves ..)) (setQueue_moves _ _).mono

theorem destroyQueue_moves (s : State) (slice : Nat) (n : Nat) :
    s.Moves (s.destroyQueue slice n).1 [.queue, .trans, .filters] := by
  unfold State.destroyQueue
  split
  · exact .refl
  · refine .iteFst .refl ?_
    exact .iteFst .refl ((setQueueTransFilters_moves _ _ _ _).then (trimGroups_moves ..))

/-! ### The operations of Machine/SliceOps.lean -/

theorem resetQueues_moves (s : State) (k : Nat) :
    s.Moves (s.resetQueues k) [.regs, .queue, .trans, .mailboxes, .keys] := by
  unfold State.resetQueues
  dsimp -proj only
  refine .then ?_ (modMailbox_moves ..)
  refine .then ?_ (setQueueTransKeys_moves _ _ _ _)
  exact (bumpBy_moves ..).mono

theorem resetWaiting_moves (s : State) (k : Nat) :
    s.Moves (s.resetWaiting k) [.regs, .xlate, .dirtyLogs] := by
  unfold State.resetWaiting
  exact .ite ((bumpBy_moves ..).mono.then (setXlate_moves _ _) |>.then (setDirtyLogs_moves _ _))
      ((bumpBy_moves ..).mono.then (setXlate_moves _ _))

theorem dropOp_moves (s : State) (o : ConnOp) :
    s.Moves (s.dropOp o) [.xlate] := by
  unfold State.dropOp
  split
  · exact setXlate_moves _ _
  · exact .refl

theorem ackPlaced_moves (s : State) (c : Conn) :
    s.Moves (s.ackPlaced c) [.out, .regs, .trans, .ports, .ingress] := by
  unfold State.ackPlaced
  dsimp -proj only
  refine .foldl ?_ (fun s m => .ite (sendAck_moves ..) .refl)
  exact .foldl .refl (fun s h => (markReceived_moves ..).mono)

theorem endGone_moves (s : State) (c : Conn) :
    s.Moves (s.endGone c) [.out, .regs, .mem, .xlate, .trans, .ports, .ingress] := by
  unfold State.endGone
  dsimp -proj only
  refine .then ?_ (setMemTrans_moves _ _ _)
  refine .then ?_ (modConn_moves ..)
  refine .foldl ?_ (fun t x => (dropOp_moves ..).mono)
  refine .foldl ?_ (fun s x => (endServe_moves ..).mono)
  exact .ite (ackPlaced_moves ..).mono .refl

theorem resetEnds_moves (s : State) (k : Nat) :
    s.Moves (s.resetEnds k) [.out, .regs, .mem, .xlate, .trans, .ports, .ingress] := by
  unfold State.resetEnds
  dsimp -proj only
  refine .then ?_ (setTrans_moves _ _)
  refine .then ?_ (bumpBy_moves ..)
  refine .then ?_ (dropCtrl_moves ..)
  exact .foldl .refl (fun t x => (endGone_moves ..))

theorem resetRegions_moves (s : State) (k : Nat) :
    s.Moves (s.resetRegions k) [.xlate] := by
  unfold State.resetRegions
  exact setXlate_moves _ _

theorem resetWork_moves (s : State) (k : Nat) :
    s.Moves (s.resetWork k) [.time, .work] := by
  unfold State.resetWork
  exact setTimeWork_moves _ _ _

theorem beginReset_moves (s : State) (k : Nat) (cause : Nat) (who : Option (Nat × Word32)) (unbind : Bool) :
    s.Moves (s.beginReset k cause who unbind) [.out, .regs, .time, .mem, .xlate, .queue, .trans, .ports, .ingress, .work, .slices,
        .dirtyLogs, .mailboxes, .keys] := by
  unfold State.beginReset
  exact (respondTo_moves ..).mono.then (respondTo_moves ..) |>.then (modSlice_moves ..) |>.then (resetQueues_moves ..)
      |>.then (resetWaiting_moves ..) |>.then (resetEnds_moves ..) |>.then (resetRegions_moves ..) |>.then (resetWork_moves ..)

theorem resetSlice_moves (s : State) (k : Nat) (cause : Nat) (who : Option (Nat × Word32)) (unbind : Bool) :
    s.Moves (s.resetSlice k cause who unbind) [.out, .regs, .time, .last, .mem, .xlate, .queue, .trans, .ports, .ingress, .work,
        .slices, .dirtyLogs, .mailboxes, .keys] := by
  unfold State.resetSlice
  split
  · exact .refl
  · exact (modSlice_moves ..).mono
  · exact .ite (setLast_moves _ _).mono (beginReset_moves ..).mono

theorem flrClears_moves (s : State) (f : Func) :
    s.Moves (s.flrClears f) [.xlate, .host] := by
  unfold State.flrClears
  dsimp -proj only
  refine .then ?_ (setXlateHost_moves _ _ _)
  exact (dropLines_moves ..).mono

theorem flrNow_moves (s : State) (f : Func) :
    s.Moves (s.flrNow f) [.out, .free, .regs, .time, .power, .last, .mem, .xlate, .queue, .trans, .ports, .ingress, .work, .slices,
        .dirtyLogs, .mailboxes, .host, .hostReads, .keys, .checks] := by
  unfold State.flrNow
  exact (flrClears_moves ..).mono.foldl (fun s k => (resetSlice_moves ..).mono) |>.then (retryStalled_moves ..)

theorem takeFlr_moves (s : State) (f : Func) :
    s.Moves (s.takeFlr f) [.out, .free, .regs, .time, .power, .last, .mem, .xlate, .queue, .trans, .ports, .ingress, .work, .slices,
        .dirtyLogs, .mailboxes, .host, .hostReads, .keys, .checks] := by
  unfold State.takeFlr
  exact .ite (setLast_moves _ _).mono (flrNow_moves ..)

theorem serveHeld_moves (s : State) (h : HeldItem) :
    s.Moves (s.serveHeld h) [.out, .free, .regs, .time, .power, .last, .mem, .xlate, .queue, .trans, .ports, .ingress, .work, .slices,
        .dirtyLogs, .mailboxes, .host, .hostReads, .keys, .checks] := by
  unfold State.serveHeld
  split
  · exact (doorbell_moves ..).mono
  · exact (resetSlice_moves ..).mono
  · exact takeFlr_moves ..
  · exact (intakeOne_moves ..).mono
  · exact .refl

theorem serveInOrder_moves (s : State) (l : List HeldItem) :
    s.Moves (s.serveInOrder l) [.out, .free, .regs, .time, .power, .last, .mem, .xlate, .queue, .trans, .ports, .ingress, .work,
        .slices, .dirtyLogs, .mailboxes, .host, .hostReads, .keys, .checks] := by
  induction l generalizing s with
  | nil => exact .refl
  | cons x r ih =>
    rw [State.serveInOrder]
    dsimp -proj only
    split
    · exact (serveHeld_moves ..).then (setLast_moves _ _)
    · exact (serveHeld_moves ..).then (ih ..)

theorem serveAllHeld_moves (s : State) :
    s.Moves (s.serveAllHeld) [.out, .free, .regs, .time, .power, .last, .mem, .xlate, .queue, .trans, .ports, .ingress, .work, .slices,
        .dirtyLogs, .mailboxes, .host, .hostReads, .keys, .checks] := by
  unfold State.serveAllHeld
  exact (setLast_moves _ _).mono.then (serveInOrder_moves ..)

theorem serveBehind_moves (s : State) :
    s.Moves (s.serveBehind) [.out, .free, .regs, .time, .power, .last, .mem, .xlate, .queue, .trans, .ports, .ingress, .work, .slices,
        .dirtyLogs, .mailboxes, .host, .hostReads, .keys, .checks] := by
  unfold State.serveBehind
  split
  · exact .ite .refl ((serveAllHeld_moves ..).then (intakeAll_moves ..))
  · exact .refl

theorem restoreRegs_moves (s : State) (k : Nat) :
    s.Moves (s.restoreRegs k) [.regs] := by
  unfold State.restoreRegs
  dsimp -proj only
  refine .then ?_ (setFld_moves ..)
  exact .foldl .refl (fun s f => (setFld_moves ..))

theorem destroyObjects_moves (s : State) (k : Nat) :
    s.Moves (s.destroyObjects k) [.regs, .xlate, .queue, .filters, .keys, .checks] := by
  unfold State.destroyObjects
  dsimp -proj only
  refine .then ?_ (restoreRegs_moves ..)
  refine .then ?_ (trimGroups_moves ..)
  refine .then ?_ (setQueueFiltersKeysChecks_moves _ _ _ _ _)
  exact .foldl .refl (fun t x => (freeRange_moves ..).mono)

theorem finishReset_moves (s : State) (k : Nat) :
    s.Moves (s.finishReset k) [.queue, .slices, .mailboxes] := by
  unfold State.finishReset
  exact (modSlice_moves ..).mono.then (raise_moves ..) |>.foldl (fun s w => (respond_moves ..).mono)

theorem loadEnd_moves (s : State) (k : Nat) (e : SavedEnd) :
    s.Moves (s.loadEnd k e) [.trans] := by
  unfold State.loadEnd
  exact setTrans_moves _ _

theorem loadImage_moves (s : State) (k : Nat) (i : SliceImage) :
    s.Moves (s.loadImage k i) [.xlate, .queue, .trans, .slices] := by
  unfold State.loadImage
  dsimp -proj only
  refine .then ?_ (modSlice_moves ..)
  exact .ite ((setXlateQueue_moves _ _ _).mono.foldl (fun s x => (loadContext_moves ..).mono)
      |>.foldl (fun s e => (loadEnd_moves ..).mono) |>.then (armWatch_moves ..))
      ((setXlateQueue_moves _ _ _).mono.foldl (fun s x => (loadContext_moves ..).mono) |>.foldl (fun s e => (loadEnd_moves ..).mono))

/-! ### The operations of Machine/FwOps.lean -/

theorem fwEvent_moves (s : State) (kind : Nat) :
    s.Moves (s.fwEvent kind) [.queue] := by
  unfold State.fwEvent
  exact raise_moves ..

theorem putImage_moves (s : State) (kind : Nat) (i : Option FlashImage) :
    s.Moves (s.putImage kind i) [.boot] := by
  unfold State.putImage
  exact .ite (setBoot_moves _ _) (setBoot_moves _ _)

theorem endHandover_moves (s : State) :
    s.Moves (s.endHandover) [.out, .free, .regs, .time, .power, .fw, .last, .mem, .xlate, .queue, .trans, .ports, .ingress, .work,
        .slices, .dirtyLogs, .mailboxes, .host, .hostReads, .keys, .checks] := by
  unfold State.endHandover
  exact (respondTo_moves ..).mono.then (setFw_moves _ _) |>.then (serveAllHeld_moves ..)

theorem abortHandover_moves (s : State) :
    s.Moves (s.abortHandover) [.out, .free, .regs, .time, .power, .fw, .last, .mem, .xlate, .queue, .trans, .ports, .ingress, .work,
        .slices, .dirtyLogs, .mailboxes, .host, .hostReads, .keys, .checks] := by
  unfold State.abortHandover
  exact .ite ((endHandover_moves ..).then (setFw_moves _ _) |>.then (fwEvent_moves ..) |>.then (intakeAll_moves ..)) .refl

theorem switchTo_moves (s : State) (slot : Nat) :
    s.Moves (s.switchTo slot) [.fw, .work] := by
  unfold State.switchTo
  exact setFwWork_moves _ _ _

theorem confirmFw_moves (s : State) :
    s.Moves (s.confirmFw) [.boot, .fw, .queue] := by
  have hboot (f : BootDesc → BootDesc) (fwSec stageSec : Nat) (spare : Bool) :
      s.boot.Keeps { s.boot.point f with fwFuses := s.boot.fwFuses.blow fwSec, stageFuses := s.boot.stageFuses.blow stageSec,
                                         spareKey := s.boot.spareKey || spare } :=
    { BootState.Keeps.refl s.boot with
      stage := Thermo.version_le_blow ..
      fw := Thermo.version_le_blow ..
      spare := fun h => by simp [h] }
  unfold State.confirmFw
  refine .then ?_ (fwEvent_moves ..)
  exact (setBootFw_moves _ _ _ (hboot ..)).mono

theorem nextTree_moves (s : State) :
    s.Moves (s.nextTree) [.boot] := by
  unfold State.nextTree
  exact .ite (setBoot_moves _ _) (setBoot_moves _ _)

theorem beginFwReset_moves (s : State) :
    s.Moves (s.beginFwReset) [.regs, .boot, .fw] := by
  unfold State.beginFwReset
  refine .then ?_ (nextTree_moves ..)
  dsimp -proj only
  refine .then ?_ (setBootFw_moves _ _ _)
  exact (bump_moves ..).mono

theorem uncheck_moves (s : State) :
    s.Moves (s.uncheck) [.fw] := by
  unfold State.uncheck
  exact setFw_moves _ _

theorem fallBack_moves (s : State) (cause : Nat) (handBack : Bool) :
    s.Moves (s.fallBack cause handBack) [.regs, .boot, .fw, .queue, .work] := by
  unfold State.fallBack
  exact .ite ((bump_moves ..).mono.then (uncheck_moves ..) |>.then (setFw_moves _ _) |>.then (switchTo_moves ..)
      |>.then (setFw_moves _ _) |>.then (fwEvent_moves ..)) ((bump_moves ..).mono.then (uncheck_moves ..)
      |>.then (setFw_moves _ _) |>.then (setFw_moves _ _) |>.then (beginFwReset_moves ..))

theorem deferTaken_moves (s : State) :
    s.Moves (s.deferTaken) [.mailboxes] := by
  unfold State.deferTaken
  exact .foldl .refl (fun s m => .foldl .refl (fun s t => (answer_moves ..)))

/-! ### The operations of Machine/HostPorts.lean -/

theorem modHost_moves (s : State) (p : Nat) (f : HostPort → HostPort) :
    s.Moves (s.modHost p f) [.host] := by
  unfold State.modHost
  exact setHost_moves _ _

theorem readFailed_moves (s : State) (h : HostRead) (c : Status) :
    s.Moves (s.readFailed h c) [.out, .free, .regs, .power, .mem, .xlate, .queue, .trans, .ports, .ingress, .work, .dirtyLogs,
        .mailboxes, .host, .hostReads, .keys, .checks] := by
  unfold State.readFailed
  split
  · split
    · exact (setHostReads_moves _ _).mono
    · split
      · rename_i heq
        refine State.Moves.trans (.ofPair heq ((failAccess_moves ..).mono)) ?_
        exact (endHostRead_moves ..).mono.then (deliver_moves ..)
  · split
    · exact (setHostReads_moves _ _).mono
    · exact flushEnded_moves ..

theorem dropPortWaits_moves (s : State) (p : Nat) :
    s.Moves (s.dropPortWaits p) [.out, .free, .regs, .power, .mem, .xlate, .queue, .trans, .ports, .ingress, .work, .dirtyLogs,
        .mailboxes, .host, .hostReads, .keys, .checks] := by
  unfold State.dropPortWaits
  dsimp -proj only
  refine .then ?_ (retryStalled_moves ..)
  refine .then ?_ (failAll_moves ..)
  refine .then ?_ (setXlate_moves _ _)
  refine .foldl ?_ (fun s r => (atsFailed_moves ..))
  refine .then ?_ (setXlate_moves _ _)
  exact .foldl .refl (fun s h => (readFailed_moves ..))

theorem dropUnacked_moves (s : State) (p : Nat) :
    s.Moves (s.dropUnacked p) [.out, .regs, .power, .queue, .trans, .ports, .ingress, .host] := by
  unfold State.dropUnacked
  dsimp -proj only
  refine .foldl ?_ (fun s q => (cqFault_moves ..).mono)
  refine .foldl ?_ (fun s x => (flushedMsg_moves ..).mono)
  refine .then ?_ (setQueueTrans_moves _ _ _)
  exact (modHost_moves ..).mono

theorem downSuccess_moves (s : State) (slice : Nat) :
    s.Moves (s.downSuccess slice) [.regs, .queue] := by
  unfold State.downSuccess
  exact (bumpBy_moves ..).mono.then (setQueue_moves _ _)

theorem dropPortPaths_moves (s : State) (p : Nat) :
    s.Moves (s.dropPortPaths p) [.regs, .xlate, .queue, .trans] := by
  unfold State.dropPortPaths
  exact (setXlateQueueTrans_moves _ _ _ _).mono.foldl (fun t x => (downSuccess_moves ..).mono)

theorem moveZero_moves (s : State) (p : Nat) :
    s.Moves (s.moveZero p) [.slices] := by
  unfold State.moveZero
  exact .ite (modSlice_moves ..) .refl

theorem endLink_moves (s : State) (p : Nat) (cause : Nat) :
    s.Moves (s.endLink p cause) [.out, .free, .regs, .time, .power, .last, .mem, .xlate, .queue, .trans, .ports, .ingress, .work,
        .slices, .dirtyLogs, .mailboxes, .host, .hostReads, .keys, .checks] := by
  unfold State.endLink
  exact .ite (modHost_moves ..).mono ((modHost_moves ..).mono.then (modHost_moves ..) |>.then (bump_moves ..)
      |>.foldl (fun s k => (resetSlice_moves ..).mono) |>.then (moveZero_moves ..) |>.then (dropPortPaths_moves ..)
      |>.then (dropPortWaits_moves ..) |>.then (dropUnacked_moves ..) |>.then (dropLines_moves ..)
      |>.then (releaseWrites_moves ..) |>.then (raise_moves ..))

theorem execHostLinkEnd_answers (port : Fin 2) (cause : Nat) (s : State) :
    s.Answers (execHostLinkEnd port cause s) [.out, .free, .regs, .time, .power, .last, .mem, .xlate, .queue, .trans, .ports, .ingress,
        .work, .slices, .dirtyLogs, .mailboxes, .host, .hostReads, .keys, .checks] := by
  unfold execHostLinkEnd
  exact .next ((endLink_moves ..).then (settle_moves ..))

theorem execHostLinkRetrain_answers (port : Fin 2) (speed : Nat) (width : Nat) (s : State) :
    s.Answers (execHostLinkRetrain port speed width s) [.regs, .host] := by
  unfold execHostLinkRetrain
  exact .ite (.next ((modHost_moves ..).mono.then (bump_moves ..))) (.next .refl)

theorem linkReturns_moves (s : State) (p : Nat) (speed : Nat) (width : Nat) (flit : Bool) :
    s.Moves (s.linkReturns p speed width flit) [.queue, .host] := by
  unfold State.linkReturns
  exact (modHost_moves ..).mono.then (raise_moves ..)

theorem execHostLinkReturn_answers (port : Fin 2) (speed : Nat) (width : Nat) (flit : Bool) (s : State) :
    s.Answers (execHostLinkReturn port speed width flit s) [.queue, .host] := by
  unfold execHostLinkReturn
  exact .ite (.next .refl) (.next (linkReturns_moves ..))

theorem execBusMasterDisable_answers (f : Func) (s : State) :
    s.Answers (execBusMasterDisable f s) [.out, .free, .regs, .power, .mem, .xlate, .queue, .trans, .ports, .ingress, .work, .dirtyLogs,
        .mailboxes, .host, .hostReads, .keys, .checks] := by
  unfold execBusMasterDisable
  exact .next ((modFunc_moves ..).mono.then (failAll_moves ..) |>.then (settle_moves ..))

theorem execVfEnableChange_answers (port : Fin 2) (enable : Bool) (numVfs : Nat) (s : State) :
    s.Answers (execVfEnableChange port enable numVfs s) [.host] := by
  unfold execVfEnableChange
  exact .next (modHost_moves ..)

theorem execAtomicopRequest_answers (f : Func) (tlpTag : Nat) (s : State) :
    s.Answers (execAtomicopRequest f tlpTag s) [.out, .host] := by
  unfold execAtomicopRequest
  exact .next ((aerNote_moves ..).mono.then (emit_moves ..))

theorem execIdeIntegrityFail_answers (port : Fin 2) (stream : Fin 4) (s : State) :
    s.Answers (execIdeIntegrityFail port stream s) [.out, .free, .regs, .time, .power, .last, .mem, .xlate, .queue, .trans, .ports,
        .ingress, .work, .slices, .dirtyLogs, .mailboxes, .host, .hostReads, .keys, .checks] := by
  unfold execIdeIntegrityFail
  dsimp -proj only
  refine .ite (.next .refl) ?_
  refine .ite ?_ (.next ((modHost_moves ..).mono.then (aerNote_moves ..) |>.foldl (fun s h => (readFailed_moves ..).mono)
      |>.then (settle_moves ..)))
  exact .ite (.next ((modHost_moves ..).mono.then (aerNote_moves ..) |>.then (endLink_moves ..) |>.then (settle_moves ..)))
      (.next ((modHost_moves ..).mono.then (aerNote_moves ..)))

/-! ### The operations of Machine/Identity.lean -/

theorem execOwnerEnroll_answers (slice : Fin 512) (tag : Word32) (ecdsa : List Byte) (hss : List Byte) (transfer : List Byte)
    (s : State) : s.Answers (execOwnerEnroll slice tag ecdsa hss transfer s) [.regs, .boot, .mailboxes] := by
  have hboot (t : State) (d : BitVec 384 × BitVec 384) :
      t.boot.Keeps { t.boot with ownerDigests := t.boot.ownerDigests ++ [d] } :=
    { BootState.Keeps.refl t.boot with owners := List.prefix_append .. }
  unfold execOwnerEnroll
  refine .next ?_
  refine command_moves fun t => ?_
  refine .iteFst .refl ?_
  refine .iteFst .refl ?_
  refine .iteFst .refl ?_
  refine .iteFst ?_ ?_
  · exact (setBoot_moves t _).mono
  · exact (setBoot_moves t _ (hboot ..)).mono

theorem execLmsTreeReady_answers (s : State) :
    s.Answers (execLmsTreeReady s) [.free, .boot] := by
  unfold execLmsTreeReady
  split
  · exact .next .refl
  · rename_i k hk
    dsimp -proj only
    refine .ite (.next .refl) ?_
    refine .ite (.next ?_) (.next ?_)
    · refine .then ?_ (setBoot_moves _ _)
      refine .then (advanceFree_moves ..).mono (setBoot_moves s.advanceFree _ ?_)
      exact { BootState.Keeps.refl s.boot with top := topNext_le_advanced hk }
    · refine .then ?_ (setBoot_moves _ _)
      refine .then (advanceFree_moves ..).mono (setBoot_moves s.advanceFree _ ?_)
      exact { BootState.Keeps.refl s.boot with top := topNext_le_failed hk }

theorem execAttestationReport_answers (port : Fin 2) (nonce : BitVec 256) (mask : Word16) (s : State) :
    s.Answers (execAttestationReport port nonce mask s) [.out, .free, .boot] := by
  unfold execAttestationReport
  dsimp -proj only
  refine .ite ?_ ?_
  · exact .ite (.next ((emit_moves ..).mono)) (.next ((setBoot_moves _ _).mono.then (emit_moves ..)))
  · refine .ite (.next ((emit_moves ..).mono)) ?_
    refine .next ?_
    refine .then ?_ (emit_moves ..)
    refine .ite ?_ ?_
    · refine .then ?_ (setBoot_moves _ _)
      exact (advanceFree_moves ..).mono
    · refine .then ?_ (nextTree_moves ..)
      refine .then ?_ (setBoot_moves _ _)
      exact (advanceFree_moves ..).mono

theorem secureStream_moves (s : State) (p : Nat) (stream : Nat) (x : IdeStream) :
    s.Moves (s.secureStream p stream x) [.queue, .host] := by
  unfold State.secureStream
  exact .ite ((modHost_moves ..).mono.then (linkReturns_moves ..)) (modHost_moves ..).mono

theorem spdmSigned_moves (s : State) (p : Nat) (session : Nat) (body : List Nat) :
    s.Moves (s.spdmSigned p session body) [.out, .free] := by
  unfold State.spdmSigned
  exact (setFreeCount_moves _ _).mono.then (emit_moves ..)

theorem spdmServe_moves (s : State) (p : Nat) (session : Nat) (req : SpdmReq) :
    s.Moves (s.spdmServe p session req) [.out, .free, .boot, .queue, .host] := by
  unfold State.spdmServe
  dsimp -proj only
  split
  · exact (emit_moves ..).mono
  · exact .ite (emit_moves ..).mono ((setBoot_moves _ _).mono.then (spdmSigned_moves ..))
  · exact .ite ((setBoot_moves _ _).mono.then (emit_moves ..)) (emit_moves ..).mono
  · exact (setBoot_moves _ _).mono.then (emit_moves ..)
  · exact .ite ((secureStream_moves ..).mono.then (emit_moves ..)) (emit_moves ..).mono
  · exact (emit_moves ..).mono
  · exact (emit_moves ..).mono
  · exact (emit_moves ..).mono
  · exact (emit_moves ..).mono
  · exact (emit_moves ..).mono
  · exact (emit_moves ..).mono
  · exact (spdmSigned_moves ..).mono
  · exact (emit_moves ..).mono
  · exact (emit_moves ..).mono
  · exact (emit_moves ..).mono
  · exact (emit_moves ..).mono
  · exact (emit_moves ..).mono

theorem openMessage_moves (s : State) (port : Nat) (session : Nat) (w : GuardWork) :
    s.Moves (s.openMessage port session w) [.out, .keys] := by
  unfold State.openMessage
  exact .ite (emit_moves ..).mono (guardBegin_moves ..).mono

theorem execSpdmRequest_answers (port : Fin 2) (session : Nat) (req : SpdmReq) (s : State) :
    s.Answers (execSpdmRequest port session req s) [.out, .free, .boot, .queue, .host, .keys] := by
  unfold execSpdmRequest
  exact .ite (.next ((openMessage_moves ..).mono)) (.next ((spdmServe_moves ..).mono))

/-! ### The operations of Machine/TimeOps.lean -/

theorem drive_moves (s : State) (pin : Nat) (high : Bool) :
    s.Moves (s.drive pin high) [.out] := by
  unfold State.drive
  exact .ite .refl (emit_moves ..)

theorem alertPin_moves (s : State) (low : Bool) :
    s.Moves (s.alertPin low) [.out] := by
  unfold State.alertPin
  exact .ite .refl (emit_moves ..)

theorem advanceTime_moves (s : State) :
    s.Moves (s.advanceTime) [.time] := by
  unfold State.advanceTime
  exact setTime_moves _ _

theorem lowerPins_moves (s : State) :
    s.Moves (s.lowerPins) [.out, .time, .board] := by
  unfold State.lowerPins
  dsimp -proj only
  refine .foldl ?_ (fun s p => (drive_moves ..).mono)
  refine .then ?_ (setBoard_moves _ _)
  exact .ite ((setTime_moves _ _).mono.then (drive_moves ..)) .refl

theorem faultPins_moves (s : State) :
    s.Moves (s.faultPins) [.out, .free, .board] := by
  unfold State.faultPins
  split
  · exact .refl
  · exact .ite (advanceFree_moves ..).mono ((advanceFree_moves ..).mono.then (setBoard_moves _ _)
        |>.foldl (fun s p => (drive_moves ..).mono))

theorem drivePins_moves (s : State) :
    s.Moves (s.drivePins) [.out] := by
  unfold State.drivePins
  dsimp -proj only
  refine .foldl ?_ (fun s p => (drive_moves ..))
  exact .foldl .refl (fun s p => (drive_moves ..))

theorem noteWork_moves (s : State) :
    s.Moves (s.noteWork) [.power] := by
  unfold State.noteWork
  exact setPower_moves _ _

theorem moveOverflow_moves (s : State) :
    s.Moves (s.moveOverflow) [.trans] := by
  unfold State.moveOverflow
  exact setTrans_moves _ _

theorem runFirmware_moves (s : State) :
    s.Moves (s.runFirmware) [.fw] := by
  unfold State.runFirmware
  exact .ite (setFw_moves _ _) .refl

theorem tickTime_moves (s : State) :
    s.Moves (s.tickTime) [.out, .free, .regs, .time, .board, .power, .fw, .xlate, .queue, .trans, .mailboxes, .host, .hostReads] := by
  unfold State.tickTime
  exact .ite ((advanceTime_moves ..).mono.then (moveOverflow_moves ..) |>.then (lowerPins_moves ..) |>.then (faultPins_moves ..)
      |>.then (runFirmware_moves ..) |>.then (mailMessages_moves ..) |>.then (noteWork_moves ..)) .refl

/-! ### The operations of Machine/PortCtl.lean -/

theorem dropQueued_moves (s : State) (p : Nat) :
    s.Moves (s.dropQueued p) [.regs, .queue, .trans, .ports] := by
  unfold State.dropQueued
  dsimp -proj only
  refine .foldl ?_ (fun s t => ?_)
  · refine .then ?_ (modPort_moves ..)
    exact .ite ((setTrans_moves _ _).mono.foldl (fun s f => (endWith_moves ..).mono))
        ((setTrans_moves _ _).mono.foldl (fun s f => (endWith_moves ..).mono) |>.then (bumpBy_moves ..))
  · split
    · exact (freeForwarded_moves ..).mono
    · exact (endWith_moves ..).mono
    · exact .refl

theorem goDown_moves (s : State) (p : Nat) (cause : Nat) :
    s.Moves (s.goDown p cause) [.regs, .time, .queue, .trans, .ports] := by
  unfold State.goDown
  refine .ite .refl ?_
  exact .ite ((dropQueued_moves ..).mono.then (modPort_moves ..) |>.then (portLink_moves ..) |>.then (startTraining_moves ..)
      |>.then (sourceState_moves ..)) ((dropQueued_moves ..).mono.then (modPort_moves ..) |>.then (portLink_moves ..)
      |>.then (startTraining_moves ..))

theorem spanEvent_moves (s : State) (p : Nat) :
    s.Moves (s.spanEvent p) [.queue] := by
  unfold State.spanEvent
  exact .ite (raise_moves ..) .refl

theorem startWelt_moves (s : State) (p : Nat) :
    s.Moves (s.startWelt p) [.ports] := by
  unfold State.startWelt
  exact modPort_moves ..

theorem comeUp_moves (s : State) (p : Nat) (interface : Nat) (laneMap : Nat) (polarity : Nat) :
    s.Moves (s.comeUp p interface laneMap polarity) [.time, .queue, .ports] := by
  unfold State.comeUp
  dsimp -proj only
  refine .ite ?_ ?_
  · refine .then ?_ (sourceState_moves ..)
    refine .then ?_ (spanEvent_moves ..)
    refine .then ?_ (portLink_moves ..)
    exact .ite ((modPort_moves ..).mono.then (startWelt_moves ..)) (modPort_moves ..).mono
  · refine .then ?_ (spanEvent_moves ..)
    refine .then ?_ (portLink_moves ..)
    exact .ite ((modPort_moves ..).mono.then (startWelt_moves ..)) (modPort_moves ..).mono

theorem retrain_moves (s : State) (p : Nat) :
    s.Moves (s.retrain p) [.regs, .time, .queue, .trans, .ports] := by
  unfold State.retrain
  refine .ite .refl ?_
  exact .ite (goDown_moves ..) (startTraining_moves ..).mono

theorem setForceDown_moves (s : State) (p : Nat) (on : Bool) :
    s.Moves (s.setForceDown p on) [.regs, .time, .queue, .trans, .ports] := by
  unfold State.setForceDown
  dsimp -proj only
  refine .ite ?_ ?_
  · exact .ite ((modPort_moves ..).mono.then (goDown_moves ..)) ((modPort_moves ..).mono.then (modPort_moves ..))
  · exact .ite ((modPort_moves ..).mono.then (startTraining_moves ..)) (modPort_moves ..).mono

theorem writeLinkCtrl_moves (s : State) (p : Nat) (v : Word64) :
    s.Moves (s.writeLinkCtrl p v) [.regs, .time, .queue, .trans, .ports] := by
  unfold State.writeLinkCtrl
  exact .ite ((storeReg_moves ..).mono.then (setForceDown_moves ..) |>.then (retrain_moves ..))
      ((storeReg_moves ..).mono.then (setForceDown_moves ..))

theorem forwardFrame_moves (s : State) (p : Nat) (fr : RxFrame) (a : Arrival) (lane : Nat) :
    s.Moves (s.forwardFrame p fr a lane) [.regs, .ports] := by
  unfold State.forwardFrame
  dsimp -proj only
  split
  · exact (bump_moves ..).mono.then (freeVl_moves ..)
  · refine .ite ((bump_moves ..).mono.then (freeVl_moves ..)) ?_
    exact .ite ((portCount_moves ..).mono.then (freeVl_moves ..)) ((bump_moves ..).mono.then (queueFrame_moves ..))

theorem done_moves (s : State) (p : Nat) (lane : Nat) (fr : RxFrame) :
    s.Moves (s.done p lane fr) [.ports] := by
  unfold State.done
  exact freeVl_moves ..

theorem advertise_moves (s : State) (p : Nat) (fr : RxFrame) (target : BitVec 128) :
    s.Moves (s.advertise p fr target) [.regs, .ports] := by
  unfold State.advertise
  exact queueFrame_moves ..

theorem classify_moves (s : State) (p : Nat) (lane : Nat) (fr : RxFrame) :
    s.Moves (s.classify p lane fr) [.out, .free, .regs, .power, .mem, .xlate, .queue, .trans, .ports, .ingress, .dirtyLogs, .host,
        .hostReads] := by
  have hfilters : s.Moves ((s.toFilters p fr).done p lane fr)
      [.out, .free, .regs, .power, .mem, .xlate, .queue, .trans, .ports, .ingress, .dirtyLogs, .host, .hostReads] :=
    (toFilters_moves ..).mono.then (done_moves ..)
  rw [State.classify]
  refine .ite (done_moves ..).mono ?_
  refine .ite (portCount_moves ..).mono ?_
  cases fr.kind with
  | neighborSolicit target => exact .ite ((advertise_moves ..).mono.then (done_moves ..)) hfilters
  | udp =>
    refine .ite ?_ ?_
    · refine .ite (portCount_moves ..).mono ?_
      exact .ite (holdFrame_moves ..).mono (setIngress_moves ..).mono
    · exact .ite (forwardFrame_moves ..).mono hfilters
  | _ => exact hfilters

theorem receiveFrame_moves (s : State) (p : Nat) (fr : RxFrame) :
    s.Moves (s.receiveFrame p fr) [.out, .free, .regs, .power, .mem, .xlate, .queue, .trans, .ports, .ingress, .dirtyLogs, .host,
        .hostReads] := by
  unfold State.receiveFrame
  dsimp -proj only
  refine .ite .refl ?_
  refine .ite (portCount_moves ..).mono ?_
  refine .ite ((portCount_moves ..).mono.then (portCount_moves ..) |>.then (portCount_moves ..)) ?_
  split
  · exact (portCount_moves ..).mono.then (portCount_moves ..) |>.then (obeyPfc_moves ..)
  · exact (portCount_moves ..).mono.then (portCount_moves ..)
  · exact (portCount_moves ..).mono.then (portCount_moves ..) |>.then (portCount_moves ..)
  · refine .ite ((portCount_moves ..).mono.then (portCount_moves ..) |>.then (classify_moves ..)) ?_
    split
    · exact (portCount_moves ..).mono.then (portCount_moves ..)
    · split
      · rename_i heq
        refine State.Moves.trans (.ofPair heq ((portCount_moves ..).mono.then (portCount_moves ..) |>.then (acceptWelt_moves ..))) ?_
        exact (countWelt_moves ..).mono.then (classify_moves ..)
      · rename_i heq
        refine State.Moves.trans (.ofPair heq ((portCount_moves ..).mono.then (portCount_moves ..) |>.then (acceptWelt_moves ..))) ?_
        exact (countWelt_moves ..).mono

theorem countControl_moves (s : State) (p : Nat) :
    s.Moves (s.countControl p) [.regs] := by
  unfold State.countControl
  exact (portCount_moves ..).then (portCount_moves ..)

theorem takeHello_moves (s : State) (p : Nat) (c : Coord) (pp : Nat) (weltEnable : Bool) (send : Word64) (echo : Word64) :
    s.Moves (s.takeHello p c pp weltEnable send echo) [.regs, .queue, .ports] := by
  unfold State.takeHello
  dsimp -proj only
  refine .ite ((countControl_moves ..).mono.then (wiring_moves ..)) ?_
  refine .ite ((countControl_moves ..).mono.then (wiring_moves ..) |>.then (modPort_moves ..)) ?_
  refine .ite ((countControl_moves ..).mono.then (wiring_moves ..) |>.then (modPort_moves ..) |>.then (modPort_moves ..)
      |>.then (startWelt_moves ..) |>.then (portLink_moves ..) |>.then (spanEvent_moves ..)) ?_
  exact .ite ((countControl_moves ..).mono.then (wiring_moves ..) |>.then (modPort_moves ..) |>.then (spanEvent_moves ..))
      ((countControl_moves ..).mono.then (wiring_moves ..) |>.then (modPort_moves ..))

theorem takeTime_moves (s : State) (p : Nat) (t1 : Nat) (t1p : Nat) (t2p : Nat) :
    s.Moves (s.takeTime p t1 t1p t2p) [.regs, .time, .ports] := by
  unfold State.takeTime
  exact .ite ((countControl_moves ..).mono.then (modPort_moves ..)) ((countControl_moves ..).mono.then (modPort_moves ..)
      |>.then (setTime_moves _ _))

theorem moveSwitch_moves (s : State) (away : Bool) :
    s.Moves (s.moveSwitch away) [.ports, .bypass] := by
  unfold State.moveSwitch
  exact .ite ((setBypass_moves _ _).mono.foldl (fun s p => (modPort_moves ..).mono)) (setBypass_moves _ _).mono

theorem answerBypass_moves (s : State) (good : Bool → Bool) :
    s.Moves (s.answerBypass good) [.bypass, .mailboxes] := by
  unfold State.answerBypass
  split
  · exact (setBypass_moves _ _).mono.foldl (fun s w => (respond_moves ..).mono)

theorem bypassSources_moves (s : State) :
    s.Moves (s.bypassSources) [.ports, .bypass, .mailboxes] := by
  unfold State.bypassSources
  dsimp -proj only
  split
  · exact (setBypass_moves _ _).mono.then (setBypass_moves _ _)
  · exact (setBypass_moves _ _).mono.then (setBypass_moves _ _) |>.then (modPort_moves ..) |>.then (modPort_moves ..)
        |>.then (answerBypass_moves ..)
  · exact (setBypass_moves _ _).mono.then (moveSwitch_moves ..)
  · exact (setBypass_moves _ _).mono.then (answerBypass_moves ..)
  · exact (setBypass_moves _ _).mono.then (answerBypass_moves ..)
  · exact (setBypass_moves _ _).mono

theorem switchSettled_moves (s : State) (away : Bool) :
    s.Moves (s.switchSettled away) [.regs, .time, .queue, .trans, .ports, .bypass, .mailboxes] := by
  unfold State.switchSettled
  dsimp -proj only
  refine .then ?_ (bypassSources_moves ..)
  refine .then ?_ (answerBypass_moves ..)
  exact .ite ((setBypass_moves _ _).mono.foldl (fun s p => (goDown_moves ..).mono.then (startTraining_moves ..)))
      ((setBypass_moves _ _).mono.foldl (fun s p => (startTraining_moves ..).mono))

/-! ### The operations of Machine/Receive.lean -/

theorem arriveAs_moves (s : State) (t : PType) (a : Arrival) :
    s.Moves (s.arriveAs t a) [.out, .free, .regs, .power, .mem, .xlate, .queue, .trans, .ports, .ingress, .work, .dirtyLogs, .mailboxes,
        .host, .hostReads, .keys] := by
  unfold State.arriveAs
  exact .ite ((arrive_moves ..).then (settle_moves ..)) .refl

theorem execData_answers (a : Arrival) (s : State) :
    s.Answers (execData a s) [.out, .free, .regs, .power, .mem, .xlate, .queue, .trans, .ports, .ingress, .work, .dirtyLogs, .mailboxes,
        .host, .hostReads, .keys] := by
  unfold execData
  exact .next (arriveAs_moves ..)

theorem execReadReq_answers (a : Arrival) (s : State) :
    s.Answers (execReadReq a s) [.out, .free, .regs, .power, .mem, .xlate, .queue, .trans, .ports, .ingress, .work, .dirtyLogs,
        .mailboxes, .host, .hostReads, .keys] := by
  unfold execReadReq
  exact .next (arriveAs_moves ..)

theorem execReadResp_answers (a : Arrival) (s : State) :
    s.Answers (execReadResp a s) [.out, .free, .regs, .power, .mem, .xlate, .queue, .trans, .ports, .ingress, .work, .dirtyLogs,
        .mailboxes, .host, .hostReads, .keys] := by
  unfold execReadResp
  exact .next (arriveAs_moves ..)

theorem execAtomicReq_answers (a : Arrival) (s : State) :
    s.Answers (execAtomicReq a s) [.out, .free, .regs, .power, .mem, .xlate, .queue, .trans, .ports, .ingress, .work, .dirtyLogs,
        .mailboxes, .host, .hostReads, .keys] := by
  unfold execAtomicReq
  exact .next (arriveAs_moves ..)

theorem execAtomicResp_answers (a : Arrival) (s : State) :
    s.Answers (execAtomicResp a s) [.out, .free, .regs, .power, .mem, .xlate, .queue, .trans, .ports, .ingress, .work, .dirtyLogs,
        .mailboxes, .host, .hostReads, .keys] := by
  unfold execAtomicResp
  exact .next (arriveAs_moves ..)

theorem execAck_answers (a : Arrival) (s : State) :
    s.Answers (execAck a s) [.out, .free, .regs, .power, .mem, .xlate, .queue, .trans, .ports, .ingress, .work, .dirtyLogs, .mailboxes,
        .host, .hostReads, .keys] := by
  unfold execAck
  exact .next (arriveAs_moves ..)

theorem execNak_answers (a : Arrival) (s : State) :
    s.Answers (execNak a s) [.out, .free, .regs, .power, .mem, .xlate, .queue, .trans, .ports, .ingress, .work, .dirtyLogs, .mailboxes,
        .host, .hostReads, .keys] := by
  unfold execNak
  exact .next (arriveAs_moves ..)

theorem execProbe_answers (a : Arrival) (s : State) :
    s.Answers (execProbe a s) [.out, .free, .regs, .power, .mem, .xlate, .queue, .trans, .ports, .ingress, .work, .dirtyLogs,
        .mailboxes, .host, .hostReads, .keys] := by
  unfold execProbe
  exact .next (arriveAs_moves ..)

theorem takeRecord_moves (s : State) (r : AckRec) :
    s.Moves (s.takeRecord r) [.out, .free, .regs, .power, .mem, .xlate, .queue, .trans, .ports, .ingress, .work, .dirtyLogs, .mailboxes,
        .host, .hostReads, .keys] := by
  unfold State.takeRecord
  split
  · exact (takeReport_moves ..).mono
  · split
    · exact endCtrlAt_moves ..
    · exact .refl

theorem execAckRecord_answers (cluster : Fin 8) (s : State) :
    s.Answers (execAckRecord cluster s) [.out, .free, .regs, .power, .mem, .xlate, .queue, .trans, .ports, .ingress, .work, .dirtyLogs,
        .mailboxes, .host, .hostReads, .keys] := by
  unfold execAckRecord
  split
  · exact .next .refl
  · exact .ite (.next .refl) (.next ((setTrans_moves _ _).mono.then (takeRecord_moves ..) |>.then (settle_moves ..)))

theorem execAckDelayTimer_answers (conn : BitVec 24) (s : State) :
    s.Answers (execAckDelayTimer conn s) [.out, .regs, .trans, .ports, .ingress] := by
  unfold execAckDelayTimer
  split
  · exact .next .refl
  · split
    · exact .ite (.next (sendAck_moves ..)) (.next .refl)
    · exact .next .refl

theorem timerPassed_moves (s : State) (c : Conn) :
    s.Moves (s.timerPassed c) [.out, .free, .regs, .power, .mem, .xlate, .queue, .trans, .ports, .ingress, .dirtyLogs, .host,
        .hostReads, .keys] := by
  unfold State.timerPassed
  dsimp -proj only
  split
  · exact (bump_moves ..).mono.then (failEnd_moves ..)
  · refine .then ?_ (kick_moves ..)
    refine .then ?_ (modConn_moves ..)
    refine .then ?_ (againAll_moves ..)
    exact .ite ((bump_moves ..).mono.then (bump_moves ..)) (bump_moves ..).mono

theorem execRetransmitTimer_answers (conn : BitVec 24) (s : State) :
    s.Answers (execRetransmitTimer conn s) [.out, .free, .regs, .power, .mem, .xlate, .queue, .trans, .ports, .ingress, .work,
        .dirtyLogs, .mailboxes, .host, .hostReads, .keys] := by
  unfold execRetransmitTimer
  split
  · exact .next .refl
  · exact .ite (.next ((timerPassed_moves ..).mono.then (settle_moves ..))) (.next .refl)

theorem execNakRetryTimer_answers (conn : BitVec 24) (psn : Word32) (s : State) :
    s.Answers (execNakRetryTimer conn psn s) [.out, .free, .regs, .power, .mem, .xlate, .queue, .trans, .ports, .ingress, .work,
        .dirtyLogs, .mailboxes, .host, .hostReads, .keys] := by
  unfold execNakRetryTimer
  split
  · exact .next .refl
  · dsimp -proj only
    refine .ite (.next .refl) ?_
    refine .next ?_
    refine .then ?_ (settle_moves ..)
    refine .then ?_ (kick_moves ..)
    refine .foldl ?_ (fun s r => (again_moves ..).mono)
    exact .foldl .refl (fun s o => (reportOp_moves ..).mono)

theorem execContextFetchDone_answers (conn : BitVec 24) (res : ReadResult) (s : State) :
    s.Answers (execContextFetchDone conn res s) [.out, .free, .regs, .power, .mem, .xlate, .queue, .trans, .ports, .ingress, .work,
        .dirtyLogs, .mailboxes, .host, .hostReads, .keys] := by
  unfold execContextFetchDone
  split
  · exact .next .refl
  · dsimp -proj only
    refine .ite (.next .refl) ?_
    refine .ite (.next ((makeRoom_moves ..).mono)) ?_
    split
    · refine .next ?_
      refine .then ?_ (settle_moves ..)
      refine .then ?_ (unpark_moves ..)
      refine .then ?_ (failEnd_moves ..)
      refine .then ?_ (modConn_moves ..)
      exact .ite (bump_moves ..).mono .refl
    · exact .next ((modConn_moves ..).mono.then (unpark_moves ..) |>.then (kickSet_moves ..) |>.then (settle_moves ..))

theorem writeContext_moves (s : State) (c : Conn) :
    s.Moves (s.writeContext c) [.out, .free, .regs, .power, .mem, .xlate, .queue, .trans, .dirtyLogs, .host, .hostReads] := by
  unfold State.writeContext
  refine .ite .refl ?_
  split
  · exact .refl
  · exact (setFreeCount_moves _ _).mono.then (access_moves ..)

theorem execEvictionCommit_answers (conn : BitVec 24) (s : State) :
    s.Answers (execEvictionCommit conn s) [.out, .free, .regs, .power, .mem, .xlate, .queue, .trans, .dirtyLogs, .host, .hostReads] := by
  unfold execEvictionCommit
  split
  · exact .next .refl
  · refine .ite (.next ((modConn_moves ..).mono.then (writeContext_moves ..))) ?_
    exact .ite (.next ((modConn_moves ..).mono.then (makeRoom_moves ..))) (.next .refl)

theorem execGoneExpiry_answers (conn : BitVec 24) (s : State) :
    s.Answers (execGoneExpiry conn s) [.mem, .xlate, .trans] := by
  unfold execGoneExpiry
  split
  · exact .next .refl
  · exact .ite (.next (freeEnd_moves ..)) (.next .refl)

/-! ### The operations of Machine/LastOps.lean -/

theorem modLastSlot_moves (s : State) (k : Nat) (f : LastSlot → LastSlot) :
    s.Moves (s.modLastSlot k f) [.last] := by
  unfold State.modLastSlot
  exact setLast_moves _ _

theorem rejectLast_moves (s : State) (f : LastFail) :
    s.Moves (s.rejectLast f) [.regs, .boot] := by
  unfold State.rejectLast
  dsimp -proj only
  refine .ite ((setFld_moves ..).mono.then (setFld_moves ..) |>.then (setFld_moves ..)) ?_
  refine .then ?_ (setBoot_moves _ _)
  exact (setFld_moves ..).mono.then (setFld_moves ..) |>.then (setFld_moves ..)

theorem checkSlot_moves (s : State) (k : Nat) :
    s.Moves (s.checkSlot k).1 [.regs, .boot, .last] := by
  unfold State.checkSlot
  split
  · exact (modLastSlot_moves ..).mono
  · exact (modLastSlot_moves ..).mono.then (rejectLast_moves ..)

theorem setRole_moves (s : State) (role : Nat) (epoch : Word32) :
    s.Moves (s.setRole role epoch) [.last, .trans] := by
  unfold State.setRole
  exact .ite ((setLast_moves _ _).mono.then (guardClear_moves ..)) (setLast_moves _ _).mono

theorem placeZero_moves (s : State) :
    s.Moves (s.placeZero) [.out, .regs, .time, .last, .mem, .xlate, .queue, .trans, .ports, .ingress, .work, .slices, .dirtyLogs,
        .mailboxes, .keys] := by
  unfold State.placeZero
  exact .ite .refl ((resetSlice_moves ..).then (moveZero_moves ..))

theorem loadLimits_moves (s : State) :
    s.Moves (s.loadLimits) [.regs] := by
  unfold State.loadLimits
  exact .foldl .refl (fun s k => (setFld_moves ..))

theorem zeroGens_moves (s : State) :
    s.Moves (s.zeroGens) [.xlate, .queue, .trans, .work, .slices, .checks] := by
  unfold State.zeroGens
  exact setXlateQueueTransWorkSlicesChecks_moves _ _ _ _ _ _ _

theorem lastInForce_moves (s : State) (slot : Nat) (l : LastImage) :
    s.Moves (s.lastInForce slot l) [.out, .regs, .time, .last, .mem, .xlate, .queue, .trans, .ports, .ingress, .bypass, .work, .slices,
        .dirtyLogs, .mailboxes, .keys, .checks] := by
  unfold State.lastInForce
  dsimp -proj only
  refine .then ?_ (drivePins_moves ..)
  refine .then ?_ (bypassSources_moves ..)
  refine .then ?_ (placeZero_moves ..)
  refine .then ?_ (loadLimits_moves ..)
  refine .then ?_ (zeroGens_moves ..)
  exact .ite (setLastWorkChecks_moves _ _ _ _).mono ((setLastWorkChecks_moves _ _ _ _).mono.then (setRole_moves ..))

theorem abortActivation_moves (s : State) :
    s.Moves (s.abortActivation) [.out, .regs, .last, .trans, .ports, .ingress, .mailboxes] := by
  unfold State.abortActivation
  split
  · exact (dropCtrl_moves ..).mono.then (setLast_moves _ _) |>.foldl (fun s c => (sendCtrl_moves ..).mono) |>.then (respond_moves ..)
  · exact .refl

theorem writeBackAll_moves (s : State) :
    s.Moves (s.writeBackAll) [.out, .free, .regs, .power, .mem, .xlate, .queue, .trans, .dirtyLogs, .host, .hostReads] := by
  unfold State.writeBackAll
  exact .foldl .refl (fun s c => .ite ((modConn_moves ..).mono.then (writeContext_moves ..)) .refl)

/-! ### The operations of Machine/PowerOps.lean -/

/-- A loss of power or a reset leaves what the flash, the fuses and the board keep, and memory empty (R525). -/
theorem stopUnits_moves (s : State) :
    s.Moves (s.stopUnits) [.regs, .time, .board, .power, .boot, .fw, .last, .mem, .xlate, .queue, .trans, .ports, .filters, .ingress,
        .bypass, .route, .work, .slices, .dirtyLogs, .mailboxes, .host, .hostReads, .keys, .checks] where
  frame := by intro p hp; cases p <;> simp [State.agree, State.stopUnits] at hp ⊢
  sent := List.prefix_rfl
  canon _ := memory_reset_wf
  boot := .of_eq
  levels hfw := absurd (by decide) hfw

theorem losePower_moves (s : State) (fault : Bool) :
    s.Moves (s.losePower fault) [.out, .regs, .time, .board, .power, .boot, .fw, .last, .mem, .xlate, .queue, .trans, .ports, .filters,
        .ingress, .bypass, .route, .work, .slices, .dirtyLogs, .mailboxes, .host, .hostReads, .keys, .checks] := by
  unfold State.losePower
  dsimp -proj only
  refine .then ?_ (emit_moves ..)
  refine .then ?_ (setTimeBoardPower_moves _ _ _ _)
  exact (stopUnits_moves ..).mono

theorem pwrEvent_moves (s : State) :
    s.Moves (s.pwrEvent) [.queue] := by
  unfold State.pwrEvent
  exact raise_moves ..

theorem emergencyFrom_moves (s : State) (before : Bool) :
    s.Moves (s.emergencyFrom before) [.out, .free, .regs, .time, .power, .fw, .last, .mem, .xlate, .queue, .trans, .ports, .ingress,
        .work, .slices, .dirtyLogs, .mailboxes, .host, .hostReads, .keys, .checks] := by
  unfold State.emergencyFrom
  exact .ite ((abortHandover_moves ..).then (abortActivation_moves ..)) .refl

theorem thermPin_moves (s : State) (was : Nat) :
    s.Moves (s.thermPin was) [.out] := by
  unfold State.thermPin
  exact .ite .refl (alertPin_moves ..)

theorem setThermal_moves (s : State) (level : Nat) :
    s.Moves (s.setThermal level) [.out, .free, .regs, .time, .power, .fw, .last, .mem, .xlate, .queue, .trans, .ports, .ingress, .work,
        .slices, .dirtyLogs, .mailboxes, .host, .hostReads, .keys, .checks] := by
  unfold State.setThermal
  exact .ite .refl ((setLevels_moves _ _).mono.then (bump_moves ..) |>.then (thermPin_moves ..) |>.then (pwrEvent_moves ..)
      |>.then (emergencyFrom_moves ..))

theorem shutDown_moves (s : State) :
    s.Moves (s.shutDown) [.out, .regs, .time, .board, .power, .boot, .fw, .last, .mem, .xlate, .queue, .trans, .ports, .filters,
        .ingress, .bypass, .route, .work, .slices, .dirtyLogs, .mailboxes, .host, .hostReads, .keys, .checks] := by
  unfold State.shutDown
  dsimp -proj only
  refine .then ?_ (setBoardPower_moves _ _ _)
  refine .then ?_ (stopUnits_moves ..)
  exact .ite (alertPin_moves ..).mono .refl

theorem thermalStep_moves (s : State) (j : Nat) (h : Nat) :
    s.Moves (s.thermalStep j h) [.out, .free, .regs, .time, .board, .power, .boot, .fw, .last, .mem, .xlate, .queue, .trans, .ports,
        .filters, .ingress, .bypass, .route, .work, .slices, .dirtyLogs, .mailboxes, .host, .hostReads, .keys, .checks] := by
  unfold State.thermalStep
  dsimp -proj only
  refine .ite (shutDown_moves ..).mono ?_
  refine .ite (setThermal_moves ..).mono ?_
  refine .ite (setLevels_moves _ _).mono ?_
  split
  · exact (setLevels_moves _ _).mono
  · exact .ite .refl ((setThermal_moves ..).mono.then (setLevels_moves _ _))

theorem setCap_moves (s : State) (step : Nat) :
    s.Moves (s.setCap step) [.out, .free, .regs, .time, .power, .fw, .last, .mem, .xlate, .queue, .trans, .ports, .ingress, .work,
        .slices, .dirtyLogs, .mailboxes, .host, .hostReads, .keys, .checks] := by
  unfold State.setCap
  exact (setLevels_moves _ _).mono.then (bump_moves ..) |>.then (pwrEvent_moves ..) |>.then (emergencyFrom_moves ..)

theorem capStepTo_moves (s : State) (watts : Nat) :
    s.Moves (s.capStepTo watts) [.out, .free, .regs, .time, .power, .fw, .last, .mem, .xlate, .queue, .trans, .ports, .ingress, .work,
        .slices, .dirtyLogs, .mailboxes, .host, .hostReads, .keys, .checks] := by
  unfold State.capStepTo
  dsimp -proj only
  refine .ite ?_ ?_
  · exact .ite ((setLevels_moves _ _).mono.then (setCap_moves ..)) ((setLevels_moves _ _).mono.then (setLevels_moves _ _))
  · refine .ite ((setLevels_moves _ _).mono.then (setLevels_moves _ _)) ?_
    split
    · exact (setLevels_moves _ _).mono.then (setLevels_moves _ _)
    · exact .ite (setLevels_moves _ _).mono ((setLevels_moves _ _).mono.then (setLevels_moves _ _) |>.then (setCap_moves ..))

theorem brakeEvent_moves (s : State) :
    s.Moves (s.brakeEvent) [.power, .queue] := by
  unfold State.brakeEvent
  exact .ite .refl ((setPower_moves _ _).mono.then (pwrEvent_moves ..))

/-! ### The operations of Machine/BootOps.lean -/

theorem bootFail_moves (s : State) (reason : Nat) (object : Nat) :
    s.Moves (s.bootFail reason object) [.boot] := by
  unfold State.bootFail
  exact setBoot_moves _ _

theorem tryImage_moves (s : State) (kind : Nat) (slot : Nat) :
    s.Moves (s.tryImage kind slot).1 [.free, .boot] := by
  unfold State.tryImage
  split
  · exact (bootFail_moves ..).mono
  · dsimp -proj only
    refine .iteFst (bootFail_moves ..).mono ?_
    exact .iteFst ((bootFail_moves ..).mono.then (advanceFree_moves ..)) .refl

theorem bootImage_moves (s : State) (kind : Nat) (slot : Nat) :
    s.Moves (s.bootImage kind slot).1 [.free, .boot] := by
  unfold State.bootImage
  split
  · rename_i heq
    refine State.Moves.trans (.ofPair heq (tryImage_moves ..)) ?_
    exact .refl
  · rename_i heq
    refine State.Moves.trans (.ofPair heq (tryImage_moves ..)) ?_
    split
    · rename_i heq
      refine State.Moves.trans (.ofPair heq (tryImage_moves ..)) ?_
      exact .refl
    · rename_i heq
      refine State.Moves.trans (.ofPair heq (tryImage_moves ..)) ?_
      exact .refl

theorem enterRecovery_moves (s : State) :
    s.Moves (s.enterRecovery) [.boot] := by
  unfold State.enterRecovery
  exact setBoot_moves _ _

theorem bootLast_moves (s : State) :
    s.Moves (s.bootLast) [.out, .regs, .time, .boot, .last, .mem, .xlate, .queue, .trans, .ports, .ingress, .bypass, .work, .slices,
        .dirtyLogs, .mailboxes, .keys, .checks] := by
  unfold State.bootLast
  dsimp -proj only
  split
  · rename_i heq
    refine State.Moves.trans (.ofPair heq ((checkSlot_moves ..).mono)) ?_
    exact (lastInForce_moves ..).mono.foldl (fun s p => (startTraining_moves ..).mono)
  · rename_i heq
    refine State.Moves.trans (.ofPair heq ((checkSlot_moves ..).mono)) ?_
    split
    · rename_i heq
      refine State.Moves.trans (.ofPair heq ((checkSlot_moves ..).mono)) ?_
      exact (setLast_moves _ _).mono.then (lastInForce_moves ..) |>.foldl (fun s p => (startTraining_moves ..).mono)
    · rename_i heq
      refine State.Moves.trans (.ofPair heq ((checkSlot_moves ..).mono)) ?_
      exact (setLast_moves _ _).mono

theorem tellLow_moves (s : State) :
    s.Moves (s.tellLow) [.queue] := by
  unfold State.tellLow
  exact .ite (raise_moves ..) .refl

theorem bootLms_moves (s : State) :
    s.Moves (s.bootLms) [.boot, .queue] := by
  unfold State.bootLms
  exact (tellLow_moves ..).mono.then (nextTree_moves ..)

theorem deriveIdentity_moves (s : State) :
    s.Moves (s.deriveIdentity) [.boot] := by
  unfold State.deriveIdentity
  exact setBoot_moves _ _

theorem bootChain_moves (s : State) :
    s.Moves (s.bootChain) [.out, .free, .regs, .time, .boot, .fw, .last, .mem, .xlate, .queue, .trans, .ports, .ingress, .bypass, .work,
        .slices, .dirtyLogs, .mailboxes, .keys, .checks] := by
  unfold State.bootChain
  split
  · rename_i heq
    refine State.Moves.trans (.ofPair heq ((bootImage_moves ..).mono)) ?_
    exact (enterRecovery_moves ..).mono
  · rename_i heq
    refine State.Moves.trans (.ofPair heq ((bootImage_moves ..).mono)) ?_
    dsimp -proj only
    split
    · rename_i heq
      refine State.Moves.trans (.ofPair heq ((setBoot_moves _ _).mono.then (bootImage_moves ..))) ?_
      exact (enterRecovery_moves ..).mono
    · rename_i heq
      refine State.Moves.trans (.ofPair heq ((setBoot_moves _ _).mono.then (bootImage_moves ..))) ?_
      exact (setBootFw_moves _ _ _).mono.then (bootLast_moves ..) |>.then (deriveIdentity_moves ..) |>.then (bootLms_moves ..)

theorem pinEvent_moves (s : State) (k : Nat) (found : Bool) :
    s.Moves (s.pinEvent k found) [.queue] := by
  unfold State.pinEvent
  exact raise_moves ..

theorem shortFound_moves (s : State) (k : Nat) :
    s.Moves (s.shortFound k) [.out, .regs, .board, .queue] := by
  unfold State.shortFound
  exact (setBoard_moves _ _).mono.then (bump_moves ..) |>.then (emit_moves ..) |>.then (pinEvent_moves ..)

theorem shortGone_moves (s : State) (k : Nat) :
    s.Moves (s.shortGone k) [.out, .board, .queue] := by
  unfold State.shortGone
  dsimp -proj only
  refine .then ?_ (pinEvent_moves ..)
  exact .ite ((setBoard_moves _ _).mono.then (alertPin_moves ..)) ((setBoard_moves _ _).mono.then (drive_moves ..))

/-! ### The operations of Machine/Board.lean -/

theorem execInputPowerApply_answers (s : State) :
    s.Answers (execInputPowerApply s) [.out, .time, .board] := by
  unfold execInputPowerApply
  exact .ite (.next .refl) (.next ((setTimeBoard_moves _ _ _).mono.then (emit_moves ..)))

theorem execInputUndervoltage_answers (s : State) :
    s.Answers (execInputUndervoltage s) [.out, .regs, .time, .board, .power, .boot, .fw, .last, .mem, .xlate, .queue, .trans, .ports,
        .filters, .ingress, .bypass, .route, .work, .slices, .dirtyLogs, .mailboxes, .host, .hostReads, .keys, .checks] := by
  unfold execInputUndervoltage
  exact .ite (.next (losePower_moves ..)) (.next .refl)

theorem execInputFault_answers (_reversed : Bool) (s : State) :
    s.Answers (execInputFault _reversed s) [.out, .regs, .time, .board, .power, .boot, .fw, .last, .mem, .xlate, .queue, .trans, .ports,
        .filters, .ingress, .bypass, .route, .work, .slices, .dirtyLogs, .mailboxes, .host, .hostReads, .keys, .checks] := by
  unfold execInputFault
  exact .ite (.next (losePower_moves ..)) (.next ((setBoard_moves _ _).mono))

theorem execModResetNAssert_answers (s : State) :
    s.Answers (execModResetNAssert s) [.regs, .time, .board, .power, .boot, .fw, .last, .mem, .xlate, .queue, .trans, .ports, .filters,
        .ingress, .bypass, .route, .work, .slices, .dirtyLogs, .mailboxes, .host, .hostReads, .keys, .checks] := by
  unfold execModResetNAssert
  exact .ite (.next ((stopUnits_moves ..).then (setBoard_moves _ _))) (.next .refl)

theorem execModResetNRelease_answers (s : State) :
    s.Answers (execModResetNRelease s) [.out, .free, .regs, .time, .board, .power, .boot, .fw, .last, .mem, .xlate, .queue, .trans,
        .ports, .ingress, .bypass, .work, .slices, .dirtyLogs, .mailboxes, .host, .hostReads, .keys, .checks] := by
  unfold execModResetNRelease
  refine .ite (.next .refl) ?_
  refine .ite ?_ (.next ((setBoard_moves _ _).mono.then (bootChain_moves ..) |>.then (settle_moves ..)))
  exact .ite (.next .refl) (.next ((setBoardPower_moves _ _ _).mono.then (setFld_moves ..) |>.then (alertPin_moves ..)
      |>.then (bootChain_moves ..) |>.then (settle_moves ..)))

theorem recoveryImage_moves (s : State) (image : List Byte) (kind : Nat) :
    s.Moves (s.recoveryImage image kind).1 [.boot] := by
  unfold State.recoveryImage
  dsimp -proj only
  refine .iteFst .refl ?_
  refine .iteFst .refl ?_
  refine .iteFst (bootFail_moves ..) ?_
  exact .iteFst (setBoot_moves _ _) (setBoot_moves _ _)

theorem execPldmRequest_answers (req : PldmReq) (s : State) :
    s.Answers (execPldmRequest req s) [.out, .free, .boot] := by
  unfold execPldmRequest
  refine .ite (.next .refl) ?_
  split
  · exact .next ((emit_moves ..).mono)
  · exact .next ((emit_moves ..).mono)
  · exact .next ((emit_moves ..).mono.then (advanceFree_moves ..))
  · split
    · rename_i heq
      refine State.Moves.answers (.ofPair heq ((recoveryImage_moves ..).mono)) ?_
      exact .next ((emit_moves ..).mono)
  · exact .next ((emit_moves ..).mono)

theorem execBoardPowerLimitWrite_answers (watts : Nat) (s : State) :
    s.Answers (execBoardPowerLimitWrite watts s) [.out, .power] := by
  unfold execBoardPowerLimitWrite
  refine .ite (.next .refl) ?_
  exact .ite (.next ((setPower_moves _ _).mono.then (emit_moves ..))) (.next ((emit_moves ..).mono))

theorem execSetEndpointId_answers (eid : Nat) (s : State) :
    s.Answers (execSetEndpointId eid s) [.board] := by
  unfold execSetEndpointId
  exact .ite (.next ((setBoard_moves _ _))) (.next .refl)

theorem execPinShortCheck_answers (output : Fin 10) (levelOk : Bool) (s : State) :
    s.Answers (execPinShortCheck output levelOk s) [.out, .regs, .board, .queue] := by
  unfold execPinShortCheck
  dsimp -proj only
  refine .ite (.next .refl) ?_
  refine .ite (.next ((setBoard_moves _ _).mono)) ?_
  split
  · exact .next ((setBoard_moves _ _).mono)
  · exact .ite (.next (shortFound_moves ..)) (.next .refl)

theorem execPinFaultRetry_answers (output : Fin 10) (levelOk : Bool) (s : State) :
    s.Answers (execPinFaultRetry output levelOk s) [.out, .board, .queue] := by
  unfold execPinFaultRetry
  dsimp -proj only
  refine .ite ?_ (.next .refl)
  exact .ite (.next (shortGone_moves ..)) (.next ((setBoard_moves _ _).mono))

/-! ### The operations of Machine/Collectives.lean -/

theorem collDesc_moves (s : State) (q : Nat) (count : Word32) :
    s.Moves (s.collDesc q count) [.out, .free, .regs, .power, .mem, .xlate, .queue, .trans, .ports, .ingress, .work, .dirtyLogs, .host,
        .hostReads, .keys] := by
  unfold State.collDesc
  split
  · exact .refl
  · split
    · exact (endWith_moves ..).mono
    · refine .ite (endWith_moves ..).mono ?_
      refine .ite (endWith_moves ..).mono ?_
      refine .ite .refl ?_
      dsimp -proj only
      split
      · exact (endWith_moves ..).mono
      · exact .ite .refl ((modStarted_moves ..).mono.then (modGroup_moves ..) |>.then (collBegin_moves ..))

theorem execColl_answers (q : Nat) (count : Word32) (s : State) :
    s.Answers (execColl q count s) [.out, .free, .regs, .power, .mem, .xlate, .queue, .trans, .ports, .ingress, .work, .dirtyLogs,
        .mailboxes, .host, .hostReads, .keys] := by
  unfold execColl
  exact .next ((collDesc_moves ..).mono.then (settle_moves ..))

theorem execHsUp_answers (a : Arrival) (seq : Word64) (sig : Word64) (mism : Bool) (rank : Nat) (s : State) :
    s.Answers (execHsUp a seq sig mism rank s) [.out, .free, .regs, .power, .mem, .xlate, .queue, .trans, .ports, .ingress, .work,
        .dirtyLogs, .mailboxes, .host, .hostReads, .keys] := by
  unfold execHsUp
  exact .next ((endCtrl_moves ..).then (settle_moves ..))

theorem execHsDown_answers (a : Arrival) (seq : Word64) (mism : Bool) (rank : Nat) (s : State) :
    s.Answers (execHsDown a seq mism rank s) [.out, .free, .regs, .power, .mem, .xlate, .queue, .trans, .ports, .ingress, .work,
        .dirtyLogs, .mailboxes, .host, .hostReads, .keys] := by
  unfold execHsDown
  exact .next ((endCtrl_moves ..).then (settle_moves ..))

theorem execHsCount_answers (a : Arrival) (seq : Word64) (sig : Word64) (count : Word64) (s : State) :
    s.Answers (execHsCount a seq sig count s) [.out, .free, .regs, .power, .mem, .xlate, .queue, .trans, .ports, .ingress, .work,
        .dirtyLogs, .mailboxes, .host, .hostReads, .keys] := by
  unfold execHsCount
  exact .next ((endCtrl_moves ..).then (settle_moves ..))

theorem execCredit_answers (a : Arrival) (seq : Word64) (stage : Nat) (credits : Nat) (slot : Nat) (s : State) :
    s.Answers (execCredit a seq stage credits slot s) [.out, .free, .regs, .power, .mem, .xlate, .queue, .trans, .ports, .ingress,
        .work, .dirtyLogs, .mailboxes, .host, .hostReads, .keys] := by
  unfold execCredit
  exact .next ((endCtrl_moves ..).then (settle_moves ..))

theorem execMismatch_answers (a : Arrival) (seq : Word64) (rank : Nat) (s : State) :
    s.Answers (execMismatch a seq rank s) [.out, .free, .regs, .power, .mem, .xlate, .queue, .trans, .ports, .ingress, .work,
        .dirtyLogs, .mailboxes, .host, .hostReads, .keys] := by
  unfold execMismatch
  exact .next ((endCtrl_moves ..).then (settle_moves ..))

theorem execAbort_answers (a : Arrival) (seq : Word64) (status : Nat) (rank : Nat) (s : State) :
    s.Answers (execAbort a seq status rank s) [.out, .free, .regs, .power, .mem, .xlate, .queue, .trans, .ports, .ingress, .work,
        .dirtyLogs, .mailboxes, .host, .hostReads, .keys] := by
  unfold execAbort
  exact .next ((endCtrl_moves ..).then (settle_moves ..))

theorem execCollWatchdog_answers (group : Nat) (s : State) :
    s.Answers (execCollWatchdog group s) [.regs, .queue, .work] := by
  unfold execCollWatchdog
  split
  · exact .next .refl
  · refine .ite ?_ (.next .refl)
    split
    · exact .next ((bump_moves ..).mono.then (raise_moves ..) |>.then (progress_moves ..))

theorem svcResidue_moves (s : State) (v : Service) :
    s.Moves (s.svcResidue v) [.out, .regs, .xlate, .queue, .trans, .ports, .ingress, .work] := by
  unfold State.svcResidue
  exact .ite (collFail_moves ..) (failSvc_moves ..).mono

theorem arithFail_moves (s : State) (cluster : Nat) (unit : Nat) (first : Nat) (opcode : Nat) (queue : Nat) :
    s.Moves (s.arithFail cluster unit first opcode queue) [.out, .regs, .xlate, .queue, .trans, .ports, .ingress, .work] := by
  unfold State.arithFail
  exact (setWork_moves _ _).mono.then (raise_moves ..) |>.foldl (fun s g => (collFail_moves ..)) |>.foldl (fun t x => (svcResidue_moves ..))

theorem noteMismatch_moves (s : State) (cluster : Nat) (unit : Nat) (first : Bool) :
    s.Moves (s.noteMismatch cluster unit first) [.regs, .work] := by
  unfold State.noteMismatch
  exact .ite ((setWork_moves _ _).mono.then (bump_moves ..)) (setWork_moves _ _).mono

theorem putOut_moves (s : State) (hidden : Bool) (bytes : List Byte) :
    s.Moves (s.putOut hidden bytes).1 [.free] := by
  unfold State.putOut
  exact .iteFst (setFreeCount_moves _ _) .refl

theorem encodeOut_moves (s : State) (o : CollOp) (dt : Nat) (sat : Bool) (hidden : Bool) (xs : List Num) :
    s.Moves (s.encodeOut o dt sat hidden xs).1 [.free] := by
  unfold State.encodeOut
  exact (setFreeCount_moves _ _).then (putOut_moves ..)

theorem granuleDone_moves (s : State) (g : Group) (j : CollJob) (n : Nat) (out : List Byte) (ends : CollOp → List Byte → CollOp) :
    s.Moves (s.granuleDone g j n out ends) [.work] := by
  unfold State.granuleDone
  exact .ite (modColl_moves ..) (modColl_moves ..)

theorem enterGranule_moves (s : State) (g : Group) (o : CollOp) (j : CollJob) (hidden : Bool) :
    s.Moves (s.enterGranule g o j hidden) [.out, .free, .regs, .power, .mem, .xlate, .queue, .trans, .ports, .ingress, .work,
        .dirtyLogs, .host, .hostReads] := by
  unfold State.enterGranule
  dsimp -proj only
  split
  · rename_i heq
    refine State.Moves.trans (.ofPair heq ((access_moves ..).mono)) ?_
    exact (collFail_moves ..).mono
  · rename_i heq
    refine State.Moves.trans (.ofPair heq ((access_moves ..).mono)) ?_
    split
    · rename_i heq
      refine State.Moves.trans (.ofPair heq ((encodeOut_moves ..).mono.then (access_moves ..))) ?_
      exact (collFail_moves ..).mono
    · rename_i heq
      refine State.Moves.trans (.ofPair heq ((encodeOut_moves ..).mono.then (access_moves ..))) ?_
      exact (granuleDone_moves ..).mono
  · rename_i heq
    refine State.Moves.trans (.ofPair heq ((access_moves ..).mono)) ?_
    exact .refl

theorem recodeGranule_moves (s : State) (g : Group) (o : CollOp) (j : CollJob) (hidden : Bool) :
    s.Moves (s.recodeGranule g o j hidden) [.free, .work] := by
  unfold State.recodeGranule
  dsimp -proj only
  refine .ite ?_ ?_
  · exact (encodeOut_moves ..).mono.then (granuleDone_moves ..)
  · exact (encodeOut_moves ..).mono.then (granuleDone_moves ..)

theorem readSum_moves (s : State) (g : Group) (x : Shape) (o : CollOp) (u : Nat) (off : Nat) (len : Nat) :
    s.Moves (s.readSum g x o u off len).1 [.out, .free, .regs, .power, .mem, .xlate, .queue, .trans, .ports, .ingress, .work,
        .dirtyLogs, .host, .hostReads] := by
  unfold State.readSum
  refine .iteFst ?_ ?_
  · split
    · rename_i heq
      refine State.Moves.trans (.ofPair heq ((access_moves ..).mono)) ?_
      exact .refl
    · rename_i heq
      refine State.Moves.trans (.ofPair heq ((access_moves ..).mono)) ?_
      exact (collFail_moves ..).mono
    · rename_i heq
      refine State.Moves.trans (.ofPair heq ((access_moves ..).mono)) ?_
      exact .refl
  · split
    · rename_i heq
      refine State.Moves.trans (.ofPair heq ((readNear_moves ..).mono)) ?_
      exact (collFail_moves ..).mono
    · rename_i heq
      refine State.Moves.trans (.ofPair heq ((readNear_moves ..).mono)) ?_
      exact .refl

theorem writeSum_moves (s : State) (g : Group) (x : Shape) (o : CollOp) (u : Nat) (off : Nat) (bytes : List Byte) :
    s.Moves (s.writeSum g x o u off bytes).1 [.out, .free, .regs, .power, .mem, .xlate, .queue, .trans, .ports, .ingress, .work,
        .dirtyLogs, .host, .hostReads] := by
  unfold State.writeSum
  refine .iteFst ?_ (shankUse_moves ..).mono
  split
  · rename_i heq
    refine State.Moves.trans (.ofPair heq ((access_moves ..).mono)) ?_
    exact .refl
  · rename_i heq
    refine State.Moves.trans (.ofPair heq ((access_moves ..).mono)) ?_
    exact (collFail_moves ..).mono
  · rename_i heq
    refine State.Moves.trans (.ofPair heq ((access_moves ..).mono)) ?_
    exact .refl

theorem reduceGranule_moves (s : State) (g : Group) (o : CollOp) (j : CollJob) (hidden : Bool) :
    s.Moves (s.reduceGranule g o j hidden) [.out, .free, .regs, .power, .mem, .xlate, .queue, .trans, .ports, .ingress, .work,
        .dirtyLogs, .host, .hostReads] := by
  unfold State.reduceGranule
  dsimp -proj only
  split
  · rename_i heq
    refine State.Moves.trans (.ofPair heq ((shankLock_moves ..).mono.then (readSum_moves ..))) ?_
    exact (shankFree_moves ..).mono
  · rename_i heq
    refine State.Moves.trans (.ofPair heq ((shankLock_moves ..).mono.then (readSum_moves ..))) ?_
    split
    · rename_i heq
      refine State.Moves.trans (.ofPair heq ?_) ?_
      · refine .then ?_ (writeSum_moves ..)
        refine .iteFst ?_ ?_
        · exact .iteFst (encodeOut_moves ..).mono .refl
        · refine .then ?_ (encodeOut_moves ..)
          exact .iteFst (encodeOut_moves ..).mono .refl
      · exact (shankFree_moves ..).mono
    · rename_i heq
      refine State.Moves.trans (.ofPair heq ?_) ?_
      · refine .then ?_ (writeSum_moves ..)
        refine .iteFst ?_ ?_
        · exact .iteFst (encodeOut_moves ..).mono .refl
        · refine .then ?_ (encodeOut_moves ..)
          exact .iteFst (encodeOut_moves ..).mono .refl
      · exact .ite ((shankFree_moves ..).mono.then (modColl_moves ..) |>.then (granuleDone_moves ..) |>.then (collStart_moves ..))
            ((shankFree_moves ..).mono.then (modColl_moves ..) |>.then (granuleDone_moves ..))

theorem jobStep_moves (s : State) (g : Group) (o : CollOp) (j : CollJob) (hidden : Bool) :
    s.Moves (s.jobStep g o j hidden) [.out, .free, .regs, .power, .mem, .xlate, .queue, .trans, .ports, .ingress, .work, .dirtyLogs,
        .host, .hostReads, .keys] := by
  unfold State.jobStep
  dsimp -proj only
  refine .then ?_ (collPump_moves ..)
  split
  · exact (reduceGranule_moves ..).mono
  · exact (enterGranule_moves ..).mono
  · exact (recodeGranule_moves ..).mono

theorem svcGranule_moves (s : State) (cluster : Nat) (unit : Nat) (mismatch : Bool) :
    s.Moves (s.svcGranule cluster unit mismatch) [.out, .regs, .xlate, .queue, .trans, .ports, .ingress, .work] := by
  unfold State.svcGranule
  dsimp -proj only
  split
  · split
    · exact (setWork_moves _ _).mono
    · exact .ite ((setWork_moves _ _).mono.then (noteMismatch_moves ..) |>.then (arithFail_moves ..)) (setWork_moves _ _).mono
  · split
    · exact .ite ((noteMismatch_moves ..).mono.then (setWork_moves _ _)) .refl
    · exact .refl

theorem execReductionGranule_answers (cluster : Fin 8) (unit : Fin 4) (checks : List ResidueCheck) (s : State) :
    s.Answers (execReductionGranule cluster unit checks s) [.out, .free, .regs, .power, .mem, .xlate, .queue, .trans, .ports, .ingress,
        .work, .dirtyLogs, .mailboxes, .host, .hostReads, .keys] := by
  unfold execReductionGranule
  dsimp -proj only
  refine .ite (.next .refl) ?_
  split
  · exact .next ((svcGranule_moves ..).mono.then (settle_moves ..))
  · refine .ite (.next .refl) ?_
    refine .ite (.next .refl) ?_
    refine .ite (.next ((jobStep_moves ..).mono.then (settle_moves ..))) ?_
    split
    · exact .next ((noteMismatch_moves ..).mono.then (modColl_moves ..))
    · exact .next ((noteMismatch_moves ..).mono.then (arithFail_moves ..) |>.then (settle_moves ..))

theorem multiplyBlock_moves (s : State) (g : Group) (o : CollOp) (x : Shape) (r : List Byte) (b : List Byte) (block : Nat) (hidden : Bool) :
    s.Moves (s.multiplyBlock g o x r b block hidden) [.out, .free, .regs, .power, .mem, .xlate, .queue, .trans, .ports, .ingress, .work,
        .dirtyLogs, .host, .hostReads, .keys] := by
  unfold State.multiplyBlock
  dsimp -proj only
  exact (setFreeCount_moves _ _).mono.then (putOut_moves ..) |>.then (modColl_moves ..) |>.then (collStart_moves ..)
      |>.then (collPump_moves ..)

theorem tileMismatch_moves (s : State) (group : Nat) (o : CollOp) (block : Nat) (cluster : Nat) (granule : Nat) :
    s.Moves (s.tileMismatch group o block cluster granule) [.out, .free, .regs, .power, .mem, .xlate, .queue, .trans, .ports, .ingress,
        .work, .dirtyLogs, .mailboxes, .host, .hostReads, .keys] := by
  unfold State.tileMismatch
  dsimp -proj only
  split
  · exact (noteMismatch_moves ..).mono.then (modColl_moves ..)
  · exact (noteMismatch_moves ..).mono.then (arithFail_moves ..) |>.then (collFail_moves ..) |>.then (settle_moves ..)

theorem execGatherMultiplyBlock_answers (group : Nat) (block : Nat) (cluster : Fin 8) (checks : List (Nat × ResidueCheck)) (s : State) :
    s.Answers (execGatherMultiplyBlock group block cluster checks s) [.out, .free, .regs, .power, .mem, .xlate, .queue, .trans, .ports,
        .ingress, .work, .dirtyLogs, .mailboxes, .host, .hostReads, .keys] := by
  unfold execGatherMultiplyBlock
  split
  · exact .next .refl
  · split
    · exact .next .refl
    · dsimp -proj only
      split
      · refine .ite (.next .refl) ?_
        split
        · exact .next ((multiplyBlock_moves ..).mono.then (settle_moves ..))
        · exact .ite (.next .refl) (.next (tileMismatch_moves ..))
      · exact .next .refl

theorem execGroupReg_answers (a : Arrival) (name : Word64) (count : Nat) (rank : Nat) (dereg : Bool) (digest : Word64) (t : Trailer)
    (s : State) :
    s.Answers (execGroupReg a name count rank dereg digest t s) [.out, .free, .regs, .power, .mem, .xlate, .queue, .trans, .ports,
        .ingress, .work, .dirtyLogs, .host, .hostReads] := by
  unfold execGroupReg
  refine .next ?_
  refine guardedCtrl_moves fun _ _ _ => ?_
  refine .ite .refl ?_
  refine .ite ((deregister_moves ..).mono.then (answerCtrl_moves ..)) ?_
  split
  · rename_i heq
    refine State.Moves.trans (.ofPair heq ((register_moves ..).mono)) ?_
    exact (answerCtrl_moves ..).mono

theorem execGroupRegAns_answers (a : Arrival) (name : Word64) (status : Nat) (epoch : Word32) (t : Trailer) (s : State) :
    s.Answers (execGroupRegAns a name status epoch t s) [.out, .free, .regs, .power, .mem, .xlate, .queue, .trans, .ports, .ingress,
        .work, .dirtyLogs, .mailboxes, .host, .hostReads] := by
  unfold execGroupRegAns
  refine .next ?_
  refine guardedCtrl_moves fun _ _ _ => ?_
  split
  · exact .refl
  · dsimp -proj only
    split
    · exact (dropCtrl_moves ..).mono
    · refine .ite (dropCtrl_moves ..).mono ?_
      refine .ite ((dropCtrl_moves ..).mono.then (groupFails_moves ..)) ?_
      exact .ite ((dropCtrl_moves ..).mono.then (groupFails_moves ..)) ((dropCtrl_moves ..).mono.then (modGroup_moves ..)
          |>.then (respondTo_moves ..) |>.then (openGroupEnds_moves ..) |>.then (groupReady_moves ..))

theorem execEpoch_answers (a : Arrival) (name : Word64) (epoch : Word32) (t : Trailer) (s : State) :
    s.Answers (execEpoch a name epoch t s) [.out, .free, .regs, .power, .mem, .xlate, .queue, .trans, .ports, .ingress, .work,
        .dirtyLogs, .mailboxes, .host, .hostReads, .keys] := by
  unfold execEpoch
  refine .next ?_
  refine .then ?_ (settle_moves ..)
  refine guardedCtrl_moves fun _ _ _ => ?_
  dsimp -proj only
  refine .then ?_ (ackCtrl_moves ..)
  exact .foldl .refl (fun s g => (breakGroup_moves ..).mono)

theorem grpQuotaSet_moves (s : State) (slice : Nat) (src : Nat) (dst : Nat) (amount : Nat) :
    s.Moves (s.grpQuotaSet slice src dst amount).1 [.work] := by
  unfold State.grpQuotaSet
  refine .iteFst .refl ?_
  refine .iteFst .refl ?_
  exact .iteFst .refl ((setWork_moves _ _).then (setWork_moves _ _))

theorem execGrpQuotaSet_answers (slice : Fin 512) (tag : Word32) (src : Nat) (dst : Nat) (amount : Nat) (s : State) :
    s.Answers (execGrpQuotaSet slice tag src dst amount s) [.regs, .work, .mailboxes] := by
  unfold execGrpQuotaSet
  exact .next (command_moves fun _ => (grpQuotaSet_moves ..).mono)

theorem execGroupCreate_answers (slice : Fin 512) (tag : Word32) (p : GroupParams) (s : State) :
    s.Answers (execGroupCreate slice tag p s) [.out, .free, .regs, .power, .mem, .xlate, .queue, .trans, .ports, .ingress, .work,
        .dirtyLogs, .mailboxes, .host, .hostReads, .keys] := by
  unfold execGroupCreate
  split
  · rename_i heq
    refine State.Moves.answers (.ofPair heq ((take_moves ..).mono)) ?_
    exact .next .refl
  · rename_i heq
    refine State.Moves.answers (.ofPair heq ((take_moves ..).mono)) ?_
    exact .next ((groupBegin_moves ..).mono.then (settle_moves ..))

theorem groupDestroy_moves (s : State) (slice : Nat) (handle : Nat) :
    s.Moves (s.groupDestroy slice handle).1 [.out, .regs, .mem, .xlate, .trans, .ports, .ingress, .work] := by
  unfold State.groupDestroy
  split
  · exact .refl
  · refine .iteFst .refl ?_
    exact .iteFst .refl ((sendCtrl_moves ..).mono.then (dropGroup_moves ..))

theorem execGroupDestroy_answers (slice : Fin 512) (tag : Word32) (handle : Nat) (s : State) :
    s.Answers (execGroupDestroy slice tag handle s) [.out, .regs, .mem, .xlate, .trans, .ports, .ingress, .work, .mailboxes] := by
  unfold execGroupDestroy
  exact .next (command_moves fun _ => (groupDestroy_moves ..).mono)

theorem collAbort_moves (s : State) (slice : Nat) (handle : Nat) :
    s.Moves (s.collAbort slice handle).1 [.out, .regs, .xlate, .queue, .trans, .ports, .ingress, .work] := by
  unfold State.collAbort
  split
  · exact .refl
  · refine .iteFst .refl ?_
    exact .iteFst .refl ((tellAll_moves ..).mono.then (breakGroup_moves ..))

theorem execCollAbort_answers (slice : Fin 512) (tag : Word32) (handle : Nat) (s : State) :
    s.Answers (execCollAbort slice tag handle s) [.out, .free, .regs, .power, .mem, .xlate, .queue, .trans, .ports, .ingress, .work,
        .dirtyLogs, .mailboxes, .host, .hostReads, .keys] := by
  unfold execCollAbort
  split
  · rename_i heq
    refine State.Moves.answers (.ofPair heq ((take_moves ..).mono)) ?_
    exact .next .refl
  · rename_i heq
    refine State.Moves.answers (.ofPair heq ((take_moves ..).mono)) ?_
    split
    · rename_i heq
      refine State.Moves.answers (.ofPair heq ((collAbort_moves ..).mono)) ?_
      exact .next ((respond_moves ..).mono.then (settle_moves ..))

/-! ### The operations of Machine/Firmware.lean -/

theorem execFwBegin_answers (slice : Fin 512) (tag : Word32) (kind : Nat) (length : Nat) (s : State) :
    s.Answers (execFwBegin slice tag kind length s) [.regs, .fw, .mailboxes] := by
  unfold execFwBegin
  refine .next ?_
  refine command_moves fun _ => ?_
  refine .iteFst .refl ?_
  refine .iteFst .refl ?_
  split
  · exact .refl
  · exact .iteFst .refl (setFw_moves _ _).mono

theorem execFwWrite_answers (slice : Fin 512) (tag : Word32) (offset : Nat) (length : Nat) (buffer : ReadResult) (crc : Word32) (s : State) :
    s.Answers (execFwWrite slice tag offset length buffer crc s) [.regs, .boot, .fw, .mailboxes] := by
  unfold execFwWrite
  refine .next ?_
  refine command_moves fun _ => ?_
  refine .iteFst .refl ?_
  split
  · exact .refl
  · refine .iteFst .refl ?_
    split
    · refine .iteFst (bump_moves ..).mono ?_
      exact .ite (setFw_moves _ _).mono ((setFw_moves _ _).mono.then (putImage_moves ..))
    · exact .refl

theorem execFwCheck_answers (slice : Fin 512) (tag : Word32) (s : State) :
    s.Answers (execFwCheck slice tag s) [.regs, .boot, .fw, .mailboxes] := by
  unfold execFwCheck
  split
  · rename_i heq
    refine State.Moves.answers (.ofPair heq ((take_moves ..).mono)) ?_
    exact .next .refl
  · rename_i heq
    refine State.Moves.answers (.ofPair heq ((take_moves ..).mono)) ?_
    dsimp -proj only
    refine .ite (.next ((answer_moves ..).mono)) ?_
    split
    · exact .next ((answer_moves ..).mono)
    · refine .ite (.next ((answer_moves ..).mono)) ?_
      split
      · exact .next ((putImage_moves ..).mono.then (setFw_moves _ _) |>.then (answer_moves ..))
      · refine .next ?_
        refine .then ?_ (answer_moves ..)
        refine .ite ((putImage_moves ..).mono.then (setFw_moves _ _)) ?_
        refine .then ?_ (setBoot_moves _ _)
        exact (putImage_moves ..).mono.then (setFw_moves _ _)

theorem execFwActivate_answers (slice : Fin 512) (tag : Word32) (driverConfirm : Bool) (s : State) :
    s.Answers (execFwActivate slice tag driverConfirm s) [.free, .regs, .boot, .fw, .mailboxes] := by
  unfold execFwActivate
  split
  · rename_i heq
    refine State.Moves.answers (.ofPair heq ((take_moves ..).mono)) ?_
    exact .next .refl
  · rename_i heq
    refine State.Moves.answers (.ofPair heq ((take_moves ..).mono)) ?_
    dsimp -proj only
    refine .ite (.next ((answer_moves ..).mono)) ?_
    refine .ite (.next ((answer_moves ..).mono)) ?_
    refine .ite (.next ((answer_moves ..).mono)) ?_
    split
    · exact .next ((answer_moves ..).mono)
    · refine .ite (.next ((answer_moves ..).mono)) ?_
      exact .ite (.next ((setBootFw_moves _ _ _).mono.then (answer_moves ..))) (.next ((advanceFree_moves ..).mono.then (setFw_moves _ _)))

theorem execHandoverSwitch_answers (s : State) :
    s.Answers (execHandoverSwitch s) [.out, .free, .regs, .time, .power, .fw, .last, .mem, .xlate, .queue, .trans, .ports, .ingress,
        .work, .slices, .dirtyLogs, .mailboxes, .host, .hostReads, .keys, .checks] := by
  unfold execHandoverSwitch
  exact .ite (.next ((switchTo_moves ..).mono.then (setFw_moves _ _) |>.then (fwEvent_moves ..) |>.then (serveAllHeld_moves ..)
      |>.then (respondTo_moves ..) |>.then (intakeAll_moves ..) |>.then (settle_moves ..))) (.next .refl)

theorem execCellComplexSwitch_answers (cluster : Fin 8) (s : State) :
    s.Answers (execCellComplexSwitch cluster s) [.fw] := by
  unfold execCellComplexSwitch
  exact .ite (.next .refl) (.next ((setFw_moves _ _)))

theorem execFwConfirm_answers (slice : Fin 512) (tag : Word32) (s : State) :
    s.Answers (execFwConfirm slice tag s) [.regs, .boot, .fw, .queue, .mailboxes] := by
  unfold execFwConfirm
  refine .next ?_
  refine command_moves fun _ => ?_
  refine .iteFst .refl ?_
  exact .iteFst .refl ((setFw_moves _ _).mono.then (confirmFw_moves ..))

theorem execHealthConfirm_answers (s : State) :
    s.Answers (execHealthConfirm s) [.boot, .fw, .queue] := by
  unfold execHealthConfirm
  refine .ite ?_ (.next .refl)
  exact .ite (.next ((setFw_moves _ _).mono)) (.next ((setFw_moves _ _).mono.then (confirmFw_moves ..)))

theorem execHealthWindowExpiry_answers (selfTestFailed : Bool) (handBack : Bool) (s : State) :
    s.Answers (execHealthWindowExpiry selfTestFailed handBack s) [.regs, .boot, .fw, .queue, .work] := by
  unfold execHealthWindowExpiry
  exact .ite (.next (fallBack_moves ..)) (.next .refl)

theorem execFwStatus_answers (slice : Fin 512) (tag : Word32) (s : State) :
    s.Answers (execFwStatus slice tag s) [.regs, .mailboxes] := by
  unfold execFwStatus
  exact .next (command_moves fun _ => .iteFst .refl .refl)

theorem execFwWatchdogExpiry_answers (s : State) :
    s.Answers (execFwWatchdogExpiry s) [.out, .free, .regs, .time, .power, .boot, .fw, .last, .mem, .xlate, .queue, .trans, .ports,
        .ingress, .work, .slices, .dirtyLogs, .mailboxes, .host, .hostReads, .keys, .checks] := by
  unfold execFwWatchdogExpiry
  refine .ite (.next .refl) ?_
  refine .ite (.next ((endHandover_moves ..).mono.then (beginFwReset_moves ..))) ?_
  exact .ite (.next ((fallBack_moves ..).mono)) (.next ((beginFwReset_moves ..).mono))

theorem recover_moves (s : State) :
    s.Moves (s.recover) [.regs, .time, .board, .power, .boot, .fw, .last, .mem, .xlate, .queue, .trans, .ports, .filters, .ingress,
        .bypass, .route, .work, .slices, .dirtyLogs, .mailboxes, .host, .hostReads, .keys, .checks] := by
  unfold State.recover
  dsimp -proj only
  refine .then ?_ (enterRecovery_moves ..)
  refine .then ?_ (setBoot_moves _ _)
  exact stopUnits_moves ..

theorem execFirmwareResetDone_answers (s : State) :
    s.Answers (execFirmwareResetDone s) [.out, .free, .regs, .time, .board, .power, .boot, .fw, .last, .mem, .xlate, .queue, .trans,
        .ports, .filters, .ingress, .bypass, .route, .work, .slices, .dirtyLogs, .mailboxes, .host, .hostReads, .keys, .checks] := by
  unfold execFirmwareResetDone
  refine .ite ?_ (.next .refl)
  dsimp -proj only
  split
  · rename_i heq
    refine State.Moves.answers (.ofPair heq ((bootImage_moves ..).mono)) ?_
    exact .next ((recover_moves ..).mono)
  · rename_i heq
    refine State.Moves.answers (.ofPair heq ((bootImage_moves ..).mono)) ?_
    refine .next ?_
    refine .then ?_ (settle_moves ..)
    refine .then ?_ (intakeAll_moves ..)
    refine .then ?_ (tellLow_moves ..)
    refine .then ?_ (fwEvent_moves ..)
    refine .then ?_ (deferTaken_moves ..)
    refine .then ?_ (setBootFwWork_moves _ _ _ _)
    exact (switchTo_moves ..).mono

/-! ### The operations of Machine/Keys.lean -/

theorem execKeyInfo_answers (slice : Fin 512) (tag : Word32) (t : KeyTarget) (s : State) :
    s.Answers (execKeyInfo slice tag t s) [.regs, .mailboxes] := by
  unfold execKeyInfo
  exact .next (command_moves fun _ => .iteFst .refl .refl)

theorem execKeyErase_answers (slice : Fin 512) (tag : Word32) (owner : Fin 512) (t : KeyTarget) (s : State) :
    s.Answers (execKeyErase slice tag owner t s) [.regs, .mailboxes, .keys] := by
  unfold execKeyErase
  refine .next ?_
  refine command_moves fun _ => ?_
  refine .iteFst .refl ?_
  refine .iteFst .refl ?_
  exact .iteFst .refl (zeroize_moves ..).mono

theorem execKeyRootSet_answers (slice : Fin 512) (tag : Word32) (digest : BitVec 384) (s : State) :
    s.Answers (execKeyRootSet slice tag digest s) [.regs, .mailboxes, .keys] := by
  unfold execKeyRootSet
  refine .next ?_
  refine command_moves fun _ => ?_
  refine .iteFst .refl ?_
  exact .iteFst .refl (setKeys_moves _ _).mono

theorem execKeyImport_answers (slice : Fin 512) (tag : Word32) (parent : Nat) (t : KeyTarget) (blob : List Byte) (s : State) :
    s.Answers (execKeyImport slice tag parent t blob s) [.regs, .mailboxes, .keys] := by
  unfold execKeyImport
  split
  · rename_i heq
    refine State.Moves.answers (.ofPair heq ((take_moves ..).mono)) ?_
    exact .next .refl
  · rename_i heq
    refine State.Moves.answers (.ofPair heq ((take_moves ..).mono)) ?_
    exact .next ((beginKey_moves ..).mono)

theorem execKeyDerive_answers (slice : Fin 512) (tag : Word32) (parent : Nat) (t : KeyTarget) (label : BitVec 256) (context : BitVec 256)
    (keyId : Word32) (s : State) :
    s.Answers (execKeyDerive slice tag parent t label context keyId s) [.regs, .mailboxes, .keys] := by
  unfold execKeyDerive
  split
  · rename_i heq
    refine State.Moves.answers (.ofPair heq ((take_moves ..).mono)) ?_
    exact .next .refl
  · rename_i heq
    refine State.Moves.answers (.ofPair heq ((take_moves ..).mono)) ?_
    exact .next ((beginKey_moves ..).mono)

theorem provision_moves (s : State) (port : Nat) (session : Nat) (owner : Nat) (slot : Nat) (keyId : Word32) (key : BitVec 256) :
    s.Moves (s.provision port session owner slot keyId key) [.out, .free, .keys] := by
  unfold State.provision
  exact .ite ((loadSlot_moves ..).mono.then (emit_moves ..)) ((advanceFree_moves ..).mono.then (emit_moves ..))

theorem execKeyProvision_answers (port : Fin 2) (session : Nat) (owner : Fin 512) (slot : Nat) (keyId : Word32) (key : BitVec 256)
    (s : State) :
    s.Answers (execKeyProvision port session owner slot keyId key s) [.out, .free, .keys] := by
  unfold execKeyProvision
  exact .ite (.next ((openMessage_moves ..).mono)) (.next ((advanceFree_moves ..).mono.then (emit_moves ..)))

theorem guardDone_moves (s : State) (j : GuardJob) :
    s.Moves (s.guardDone j) [.out, .free, .boot, .queue, .mailboxes, .host, .keys] := by
  unfold State.guardDone
  split
  · exact (spdmServe_moves ..).mono
  · exact (provision_moves ..).mono
  · exact (finishJob_moves ..).mono

theorem execGuardCipherOp_answers (engine : Fin 4) (disagree : Bool) (s : State) :
    s.Answers (execGuardCipherOp engine disagree s) [.out, .free, .regs, .boot, .queue, .mailboxes, .host, .keys] := by
  unfold execGuardCipherOp
  split
  · exact .next .refl
  · refine .ite (.next .refl) ?_
    dsimp -proj only
    split
    · exact .next ((setKeys_moves _ _).mono.then (feedGuard_moves ..))
    · refine .ite (.next ((setKeys_moves _ _).mono.then (guardFault_moves ..))) ?_
      exact .ite (.next ((setKeys_moves _ _).mono.then (feedGuard_moves ..) |>.then (guardDone_moves ..)))
          (.next ((setKeys_moves _ _).mono.then (setKeys_moves _ _) |>.then (feedGuard_moves ..)))

theorem execDrbgHealthFail_answers (s : State) :
    s.Answers (execDrbgHealthFail s) [.queue, .keys] := by
  unfold execDrbgHealthFail
  exact .ite (.next .refl) (.next ((setKeys_moves _ _).mono.then (raise_moves ..)))

theorem execDrbgRetest_answers (pass : Bool) (s : State) :
    s.Answers (execDrbgRetest pass s) [.out, .free, .regs, .power, .mem, .xlate, .queue, .trans, .ports, .ingress, .work, .dirtyLogs,
        .mailboxes, .host, .hostReads, .keys] := by
  unfold execDrbgRetest
  refine .ite (.next .refl) ?_
  exact .ite (.next ((setKeys_moves _ _).mono.then (raise_moves ..)
      |>.foldl (fun s g => (openGroupEnds_moves ..).mono.then (groupReady_moves ..)) |>.then (settle_moves ..)))
      (.next ((setKeys_moves _ _).mono))

/-! ### The operations of Machine/Last.lean -/

theorem writeLast_moves (s : State) (slot : Nat) (offset : Nat) (x : List Byte) :
    s.Moves (s.writeLast slot offset x) [.last] := by
  unfold State.writeLast
  exact modLastSlot_moves ..

theorem execLastWrite_answers (slice : Fin 512) (tag : Word32) (slot : Bool) (offset : Nat) (buffer : ReadResult) (crc : Word32) (s : State) :
    s.Answers (execLastWrite slice tag slot offset buffer crc s) [.regs, .last, .mailboxes] := by
  unfold execLastWrite
  refine .next ?_
  refine command_moves fun _ => ?_
  refine .iteFst .refl ?_
  refine .iteFst .refl ?_
  split
  · refine .iteFst .refl ?_
    exact .iteFst (bump_moves ..).mono (writeLast_moves ..).mono
  · exact .refl

theorem execLastCheck_answers (slice : Fin 512) (tag : Word32) (s : State) :
    s.Answers (execLastCheck slice tag s) [.free, .regs, .boot, .last, .mailboxes] := by
  unfold execLastCheck
  refine .next ?_
  refine command_moves fun _ => ?_
  refine .iteFst .refl ?_
  split
  · rename_i heq
    refine State.Moves.trans (.ofPair heq ((checkSlot_moves ..).mono)) ?_
    exact .refl
  · rename_i heq
    refine State.Moves.trans (.ofPair heq ((checkSlot_moves ..).mono)) ?_
    exact (advanceFree_moves ..).mono

theorem execLastActivate_answers (slice : Fin 512) (tag : Word32) (s : State) :
    s.Answers (execLastActivate slice tag s) [.out, .free, .regs, .boot, .last, .trans, .ports, .ingress, .mailboxes] := by
  unfold execLastActivate
  split
  · rename_i heq
    refine State.Moves.answers (.ofPair heq ((take_moves ..).mono)) ?_
    exact .next .refl
  · rename_i heq
    refine State.Moves.answers (.ofPair heq ((take_moves ..).mono)) ?_
    dsimp -proj only
    refine .ite (.next ((answer_moves ..).mono)) ?_
    refine .ite (.next ((answer_moves ..).mono)) ?_
    refine .ite (.next ((answer_moves ..).mono)) ?_
    refine .ite (.next ((advanceFree_moves ..).mono.then (answer_moves ..))) ?_
    split
    · exact .next ((rejectLast_moves ..).mono.then (answer_moves ..))
    · exact .next ((setLast_moves _ _).mono.foldl (fun s c => (sendCtrl_moves ..).mono))

theorem execLastPauseStart_answers (s : State) :
    s.Answers (execLastPauseStart s) [.out, .free, .regs, .time, .power, .last, .mem, .xlate, .queue, .trans, .ports, .ingress, .work,
        .dirtyLogs, .mailboxes, .host, .hostReads, .keys] := by
  unfold execLastPauseStart
  split
  · exact .ite (.next .refl) (.next ((setLast_moves _ _).mono.then (guardClear_moves ..) |>.then (writeBackAll_moves ..)
        |>.foldl (fun s p => (goDown_moves ..).mono.then (modPort_moves ..)) |>.then (settle_moves ..)))
  · exact .next .refl

theorem execLastResume_answers (s : State) :
    s.Answers (execLastResume s) [.out, .free, .regs, .time, .power, .boot, .last, .mem, .xlate, .queue, .trans, .ports, .ingress,
        .bypass, .work, .slices, .dirtyLogs, .mailboxes, .host, .hostReads, .keys, .checks] := by
  have hboot (slot : Nat) (l : LastImage) : s.boot.Keeps (s.boot.lastActivated slot l) :=
    { BootState.Keeps.refl s.boot with last := Thermo.version_le_blow .. }
  unfold execLastResume
  split
  · refine .next ?_
    refine .then ?_ (settle_moves ..)
    refine .then ?_ (intakeAll_moves ..)
    refine .then ?_ (serveAllHeld_moves ..)
    refine .foldl ?_ fun t c => (kick_moves ..).mono
    refine .then ?_ (respond_moves ..)
    refine .foldl ?_ fun t c => (sendCtrl_moves ..).mono
    refine .foldl ?_ fun t p => (startTraining_moves ..).mono
    refine .then ?_ (lastInForce_moves ..)
    exact (setBootLast_moves _ _ _ (hboot ..)).mono
  · exact .next .refl

theorem execRoleSet_answers (slice : Fin 512) (tag : Word32) (role : Nat) (epoch : Word32) (s : State) :
    s.Answers (execRoleSet slice tag role epoch s) [.regs, .last, .trans, .mailboxes] := by
  unfold execRoleSet
  exact .next (command_moves fun _ => .iteFst .refl ((setRole_moves ..).mono.then (setLast_moves _ _)))

/-! ### The operations of Machine/LocalCmds.lean -/

theorem execCopy_answers (q : Nat) (count : Word32) (s : State) :
    s.Answers (execCopy q count s) [.out, .free, .regs, .power, .mem, .xlate, .queue, .trans, .ports, .ingress, .work, .dirtyLogs,
        .mailboxes, .host, .hostReads, .keys] := by
  unfold execCopy
  split
  · exact .next .refl
  · dsimp -proj only
    refine .ite (.next ((endWith_moves ..).mono)) ?_
    split
    · exact .next ((endWith_moves ..).mono)
    · exact .next ((modStarted_moves ..).mono.then (copyIssue_moves ..) |>.then (settle_moves ..))

theorem execCopyUnitDone_answers (q : Nat) (count : Word32) (unit : Nat) (src : ReadResult) (s : State) :
    s.Answers (execCopyUnitDone q count unit src s) [.out, .free, .regs, .power, .mem, .xlate, .queue, .trans, .ports, .ingress, .work,
        .dirtyLogs, .mailboxes, .host, .hostReads, .keys, .checks] := by
  unfold execCopyUnitDone
  split
  · exact .next ((farDone_moves ..).mono)
  · dsimp -proj only
    refine .ite (.next .refl) ?_
    split
    · split
      · exact .next ((readOutcome_moves ..).mono.then (endHostRead_moves ..) |>.then (deliver_moves ..) |>.then (settle_moves ..))
      · exact .next .refl
    · refine .next ?_
      refine .then ?_ (settle_moves ..)
      refine .then ?_ (copyReadEnded_moves ..)
      exact .ite ((unitAccess_moves ..).mono.then (farDone_moves ..)) (unitAccess_moves ..).mono

theorem execScan_answers (q : Nat) (count : Word32) (s : State) :
    s.Answers (execScan q count s) [.out, .free, .regs, .power, .mem, .xlate, .queue, .trans, .ports, .ingress, .work, .dirtyLogs,
        .mailboxes, .host, .hostReads, .keys, .checks] := by
  unfold execScan
  split
  · exact .next .refl
  · dsimp -proj only
    refine .ite (.next ((bump_moves ..).mono.then (endWith_moves ..))) ?_
    refine .ite (.next .refl) ?_
    refine .ite (.next ((bump_moves ..).mono.then (endWith_moves ..))) ?_
    refine .ite (.next ((bump_moves ..).mono.then (endWith_moves ..))) ?_
    split
    · exact .next ((bump_moves ..).mono.then (endWith_moves ..))
    · exact .next ((setCheckCtx_moves ..).mono.then (modStarted_moves ..) |>.then (scanRun_moves ..) |>.then (settle_moves ..))

theorem loadCheck_moves (s : State) (k : Nat) (value : Word64) :
    s.Moves (s.loadCheck k value) [.checks] := by
  unfold State.loadCheck
  dsimp -proj only
  refine .ite .refl ?_
  exact .ite (setCheckCtx_moves ..) (setCheckCtx_moves ..)

theorem execSlcCheckValWrite_answers (f : Func) (slice : Fin 512) (value : Word64) (s : State) :
    s.Answers (execSlcCheckValWrite f slice value s) [.checks] := by
  unfold execSlcCheckValWrite
  exact .ite (.next (loadCheck_moves ..)) (.next .refl)

theorem execRawSend_answers (q : Nat) (count : Word32) (s : State) :
    s.Answers (execRawSend q count s) [.out, .free, .regs, .power, .mem, .xlate, .queue, .trans, .ports, .ingress, .work, .dirtyLogs,
        .mailboxes, .host, .hostReads, .keys] := by
  unfold execRawSend
  split
  · exact .next .refl
  · dsimp -proj only
    refine .ite (.next ((endWith_moves ..).mono)) ?_
    split
    · exact .next ((endWith_moves ..).mono)
    · refine .ite (.next ((modStarted_moves ..).mono.then (rawSourced_moves ..))) ?_
      exact .next ((modStarted_moves ..).mono.then (access_moves ..) |>.then (sourceEnded_moves ..) |>.then (settle_moves ..))

theorem execRawRecv_answers (q : Nat) (count : Word32) (s : State) :
    s.Answers (execRawRecv q count s) [.queue] := by
  unfold execRawRecv
  split
  · exact .next .refl
  · dsimp -proj only
    refine .ite (.next (endWith_moves ..)) ?_
    split
    · exact .next (endWith_moves ..)
    · exact .next (modStarted_moves ..)

theorem newPass_moves (s : State) (passes : Nat) (at_ : Nat) :
    s.Moves (s.newPass passes at_) [.mem] := by
  unfold State.newPass
  exact setMem_moves _ _

theorem execScrubBurst_answers (codewords : Nat) (s : State) :
    s.Answers (execScrubBurst codewords s) [.regs, .power, .mem, .queue] := by
  unfold execScrubBurst
  refine .ite (.next .refl) ?_
  dsimp -proj only
  refine .ite ?_ ?_
  · refine .next ?_
    refine .then ?_ (newPass_moves ..)
    refine .then ?_ (repairAll_moves ..)
    refine .then ?_ (shankUse_moves ..)
    refine .ite ?_ .refl
    refine .then ?_ (setMem_moves _ _)
    exact (touchNear_moves ..).mono
  · refine .next ?_
    refine .then ?_ (setMem_moves _ _)
    refine .then ?_ (repairAll_moves ..)
    refine .then ?_ (shankUse_moves ..)
    refine .ite ?_ .refl
    refine .then ?_ (setMem_moves _ _)
    exact (touchNear_moves ..).mono

theorem setScrub_moves (s : State) (value : Word64) :
    s.Moves (s.setScrub value) [.regs, .mem] := by
  unfold State.setScrub
  exact (storeReg_moves ..).mono.then (newPass_moves ..)

theorem execMemScrubCtrlWrite_answers (f : Func) (value : Word32) (s : State) :
    s.Answers (execMemScrubCtrlWrite f value s) [.regs, .mem] := by
  unfold execMemScrubCtrlWrite
  exact .ite (.next (setScrub_moves ..)) (.next .refl)

theorem markRead_moves (s : State) :
    s.Moves (s.markRead) [.mem] := by
  unfold State.markRead
  exact setMem_moves _ _

theorem execMemErrlogData1Read_answers (f : Func) (s : State) :
    s.Answers (execMemErrlogData1Read f s) [.out, .mem] := by
  unfold execMemErrlogData1Read
  exact .ite (.next ((markRead_moves ..).mono.then (emit_moves ..))) (.next ((emit_moves ..).mono))

theorem execMemHistoryRead_answers (slice : Fin 512) (tag : Word32) (bufferOk : Bool) (s : State) :
    s.Answers (execMemHistoryRead slice tag bufferOk s) [.regs, .mailboxes] := by
  unfold execMemHistoryRead
  refine .next ?_
  refine command_moves fun _ => ?_
  refine .iteFst .refl ?_
  exact .iteFst .refl .refl

theorem layoutFar_moves (s : State) :
    s.Moves (s.layoutFar) [.mem] := by
  unfold State.layoutFar
  dsimp -proj only
  exact setMem_moves _ _

theorem farLink_moves (s : State) (port : Nat) :
    s.Moves (s.farLink port) [.queue] := by
  unfold State.farLink
  exact raise_moves ..

theorem execFarAccessTimeout_answers (id : Nat) (s : State) :
    s.Answers (execFarAccessTimeout id s) [.out, .free, .regs, .power, .mem, .xlate, .queue, .trans, .ports, .ingress, .work,
        .dirtyLogs, .mailboxes, .host, .hostReads, .keys] := by
  unfold execFarAccessTimeout
  split
  · exact .next .refl
  · exact .ite (.next ((copyFailed_moves ..).mono.then (settle_moves ..))) (.next .refl)

theorem execCxlLinkDown_answers (port : Fin 2) (s : State) :
    s.Answers (execCxlLinkDown port s) [.mem, .queue] := by
  unfold execCxlLinkDown
  exact .ite (.next .refl) (.next ((setMem_moves _ _).mono.then (farLink_moves ..)))

theorem execCxlLinkUp_answers (port : Fin 2) (lanes : Nat) (devices : List CxlDevice) (s : State) :
    s.Answers (execCxlLinkUp port lanes devices s) [.mem, .queue] := by
  unfold execCxlLinkUp
  dsimp -proj only
  refine .ite (.next .refl) ?_
  exact .ite (.next ((setMem_moves _ _).mono.then (layoutFar_moves ..) |>.then (farLink_moves ..)))
      (.next ((setMem_moves _ _).mono.then (farLink_moves ..)))

theorem execFarRescan_answers (slice : Fin 512) (tag : Word32) (devices0 : List CxlDevice) (devices1 : List CxlDevice) (s : State) :
    s.Answers (execFarRescan slice tag devices0 devices1 s) [.regs, .mem, .mailboxes] := by
  unfold execFarRescan
  refine .next ?_
  refine command_moves fun _ => ?_
  refine .iteFst .refl ?_
  exact .iteFst .refl ((setMem_moves _ _).mono.then (layoutFar_moves ..))

/-! ### The operations of Machine/Mailboxes.lean -/

theorem execMbxDoorbell_answers (f : Func) (slice : Fin 512) (count : Word32) (ok : Bool) (reqs : List MbxRequest) (s : State) :
    s.Answers (execMbxDoorbell f slice count ok reqs s) [.out, .free, .regs, .time, .power, .last, .mem, .xlate, .queue, .trans, .ports,
        .ingress, .work, .slices, .dirtyLogs, .mailboxes, .host, .hostReads, .keys, .checks] := by
  unfold execMbxDoorbell
  dsimp -proj only
  refine .ite (.next .refl) ?_
  refine .ite (.next ((mbxFault_moves ..).mono)) ?_
  refine .next ?_
  refine .then ?_ (serveBehind_moves ..)
  refine .then ?_ (intake_moves ..)
  refine .then ?_ (modMailbox_moves ..)
  exact .ite (setLast_moves _ _).mono .refl

theorem setMbxCtrl_moves (s : State) (k : Nat) (value : Word64) :
    s.Moves (s.setMbxCtrl k value) [.regs, .mailboxes] := by
  unfold State.setMbxCtrl
  dsimp -proj only
  refine .ite ((storeReg_moves ..).mono.then (modMailbox_moves ..)) ?_
  exact .ite (storeReg_moves ..).mono ((storeReg_moves ..).mono.then (modMailbox_moves ..))

theorem execMbxEnable_answers (f : Func) (slice : Fin 512) (value : Word32) (s : State) :
    s.Answers (execMbxEnable f slice value s) [.regs, .mailboxes] := by
  unfold execMbxEnable
  exact .ite (.next (setMbxCtrl_moves ..)) (.next .refl)

theorem execMbxResponse_answers (slice : Fin 512) (ok : Bool) (s : State) :
    s.Answers (execMbxResponse slice ok s) [.out, .free, .regs, .time, .power, .last, .mem, .xlate, .queue, .trans, .ports, .ingress,
        .work, .slices, .dirtyLogs, .mailboxes, .host, .hostReads, .keys, .checks] := by
  unfold execMbxResponse
  dsimp -proj only
  split
  · exact .next .refl
  · refine .ite (.next .refl) ?_
    exact .ite (.next ((mbxFault_moves ..).mono)) (.next ((writeResponse_moves ..).mono.then (serveBehind_moves ..)))

theorem execMbxInfo_answers (slice : Fin 512) (tag : Word32) (s : State) :
    s.Answers (execMbxInfo slice tag s) [.regs, .mailboxes] := by
  unfold execMbxInfo
  exact .next (command_moves fun _ => .refl)

/-! ### The operations of Machine/EgressOps.lean -/

theorem c7Refill_moves (s : State) (p : Nat) :
    s.Moves (s.c7Refill p) [.ports] := by
  unfold State.c7Refill
  exact modPort_moves ..

theorem granted_moves (s : State) (p : Nat) (r : Nat) :
    s.Moves (s.granted p r) [.ports] := by
  unfold State.granted
  exact modPort_moves ..

theorem stampRecords_moves (s : State) (t : TxFrame) :
    s.Moves (s.stampRecords t) [.trans] := by
  unfold State.stampRecords
  split
  · split
    · exact .refl
    · exact modConn_moves ..
  · exact .refl

theorem startFrame_moves (s : State) (p : Nat) (t0 : TxFrame) :
    s.Moves (s.startFrame p t0) [.out, .free, .regs, .power, .mem, .xlate, .queue, .trans, .ports, .dirtyLogs, .host, .hostReads] := by
  unfold State.startFrame
  dsimp -proj only
  split
  · refine .then ?_ (freeForwarded_moves ..)
    refine .then ?_ (admitWaiting_moves ..)
    refine .then ?_ (stampRecords_moves ..)
    refine .then ?_ (putFrame_moves ..)
    exact .ite ((modPort_moves ..).mono.then (modPort_moves ..)) (modPort_moves ..).mono
  · refine .then ?_ (rawSent_moves ..)
    refine .then ?_ (admitWaiting_moves ..)
    refine .then ?_ (stampRecords_moves ..)
    refine .then ?_ (putFrame_moves ..)
    exact .ite ((modPort_moves ..).mono.then (modPort_moves ..)) (modPort_moves ..).mono
  · refine .then ?_ (admitWaiting_moves ..)
    refine .then ?_ (stampRecords_moves ..)
    refine .then ?_ (putFrame_moves ..)
    exact .ite ((modPort_moves ..).mono.then (modPort_moves ..)) (modPort_moves ..).mono

theorem resendFrame_moves (s : State) (p : Nat) (f : ReplayFrame) :
    s.Moves (s.resendFrame p f) [.out, .regs, .ports] := by
  unfold State.resendFrame
  exact (modPort_moves ..).mono.then (portCount_moves ..) |>.then (putFrame_moves ..)

theorem countOverCap_moves (s : State) (p : Nat) :
    s.Moves (s.countOverCap p) [.regs, .ports] := by
  unfold State.countOverCap
  split
  · exact .refl
  · exact .ite .refl ((modPort_moves ..).mono.then (bump_moves ..))

theorem commitPort_moves (s : State) (p : Nat) :
    s.Moves (s.commitPort p) [.regs, .ports] := by
  unfold State.commitPort
  split
  · exact (setRawReg_moves ..).mono.then (setRawReg_moves ..) |>.then (modPort_moves ..)
  · exact .refl

theorem selectFrame_moves (s : State) (p : Nat) :
    s.Moves (s.selectFrame p) [.out, .free, .regs, .power, .mem, .xlate, .queue, .trans, .ports, .dirtyLogs, .host, .hostReads] := by
  unfold State.selectFrame
  dsimp -proj only
  split
  · exact (commitPort_moves ..).mono.then (c7Refill_moves ..) |>.then (countOverCap_moves ..)
  · split
    · split
      · exact (commitPort_moves ..).mono.then (c7Refill_moves ..) |>.then (countOverCap_moves ..) |>.then (granted_moves ..)
            |>.then (startFrame_moves ..)
      · exact (commitPort_moves ..).mono.then (c7Refill_moves ..) |>.then (countOverCap_moves ..) |>.then (granted_moves ..)
    · split
      · exact (commitPort_moves ..).mono.then (c7Refill_moves ..) |>.then (countOverCap_moves ..) |>.then (granted_moves ..)
            |>.then (modPort_moves ..) |>.then (startFrame_moves ..)
      · exact (commitPort_moves ..).mono.then (c7Refill_moves ..) |>.then (countOverCap_moves ..) |>.then (granted_moves ..)
    · split
      · exact (commitPort_moves ..).mono.then (c7Refill_moves ..) |>.then (countOverCap_moves ..) |>.then (granted_moves ..)
            |>.then (resendFrame_moves ..)
      · exact (commitPort_moves ..).mono.then (c7Refill_moves ..) |>.then (countOverCap_moves ..) |>.then (granted_moves ..)
    · split
      · exact (commitPort_moves ..).mono.then (c7Refill_moves ..) |>.then (countOverCap_moves ..) |>.then (granted_moves ..)
            |>.then (modPort_moves ..) |>.then (startFrame_moves ..) |>.then (modPort_moves ..)
      · exact (commitPort_moves ..).mono.then (c7Refill_moves ..) |>.then (countOverCap_moves ..) |>.then (granted_moves ..)

/-! ### The operations of Machine/Pacing.lean -/

theorem execPacingWheelVisit_answers (entry : WheelOwner) (cipherMismatches : List Nat) (s : State) :
    s.Answers (execPacingWheelVisit entry cipherMismatches s) [.out, .free, .regs, .power, .mem, .xlate, .queue, .trans, .ports,
        .ingress, .work, .dirtyLogs, .mailboxes, .host, .hostReads, .keys] := by
  unfold execPacingWheelVisit
  split
  · exact .next .refl
  · refine .ite ?_ (.next .refl)
    refine .next ?_
    refine .then ?_ (settle_moves ..)
    split
    · exact (visit_moves ..).mono
    · exact (visitQueue_moves ..).mono

theorem execEgressFrameSelect_answers (port : Fin 10) (s : State) :
    s.Answers (execEgressFrameSelect port s) [.out, .free, .regs, .power, .mem, .xlate, .queue, .trans, .ports, .ingress, .work,
        .dirtyLogs, .mailboxes, .host, .hostReads, .keys] := by
  unfold execEgressFrameSelect
  exact .ite (.next ((selectFrame_moves ..).mono.then (settle_moves ..))) (.next .refl)

theorem execThrottleEval_answers (port : Fin 10) (s : State) :
    s.Answers (execThrottleEval port s) [.regs, .ports] := by
  unfold execThrottleEval
  exact .ite (.next .refl) (.next ((modPort_moves ..).mono.then (bump_moves ..)))

theorem execClass7TokensRefill_answers (port : Fin 10) (s : State) :
    s.Answers (execClass7TokensRefill port s) [.ports] := by
  unfold execClass7TokensRefill
  exact .next (c7Refill_moves ..)

theorem execSbtBucketRoll_answers (s : State) :
    s.Answers (execSbtBucketRoll s) [.trans] := by
  unfold execSbtBucketRoll
  exact .next (sbtRoll_moves ..)

theorem execMemArbCommit_answers (f : Func) (s : State) :
    s.Answers (execMemArbCommit f s) [.regs] := by
  unfold execMemArbCommit
  exact .ite (.next (commitReg_moves ..)) (.next .refl)

theorem execPrtSchedCommit_answers (f : Func) (port : Fin 10) (s : State) :
    s.Answers (execPrtSchedCommit f port s) [.ports] := by
  unfold execPrtSchedCommit
  exact .ite (.next (askCommit_moves ..)) (.next .refl)

/-! ### The operations of Machine/Ports.lean -/

theorem execFrameReceive_answers (port : Fin 10) (frame : RxFrame) (s : State) :
    s.Answers (execFrameReceive port frame s) [.out, .free, .regs, .power, .mem, .xlate, .queue, .trans, .ports, .ingress, .work,
        .dirtyLogs, .mailboxes, .host, .hostReads, .keys] := by
  unfold execFrameReceive
  exact .next ((receiveFrame_moves ..).mono.then (settle_moves ..))

theorem execLinkSignalLoss_answers (port : Fin 10) (dark : Bool) (s : State) :
    s.Answers (execLinkSignalLoss port dark s) [.ports] := by
  unfold execLinkSignalLoss
  exact .ite (.next (modPort_moves ..)) (.next .refl)

theorem execLinkHit_answers (port : Fin 10) (s : State) :
    s.Answers (execLinkHit port s) [.regs, .ports] := by
  unfold execLinkHit
  dsimp -proj only
  refine .ite (.next ((modPort_moves ..).mono)) ?_
  exact .ite (.next ((modPort_moves ..).mono.then (portCount_moves ..))) (.next .refl)

theorem execLinkDown_answers (port : Fin 10) (s : State) :
    s.Answers (execLinkDown port s) [.out, .free, .regs, .time, .power, .mem, .xlate, .queue, .trans, .ports, .ingress, .work,
        .dirtyLogs, .mailboxes, .host, .hostReads, .keys] := by
  unfold execLinkDown
  split
  · refine .ite ?_ ?_
    · dsimp -proj only
      refine .next ?_
      refine .then ?_ (settle_moves ..)
      exact .ite ((goDown_moves ..).mono.then (wiring_moves ..)) (goDown_moves ..).mono
    · exact .ite (.next ((startTraining_moves ..).mono.then (wiring_moves ..))) (.next .refl)
  · exact .next .refl

theorem execLinkUp_answers (port : Fin 10) (interface : Nat) (laneMap : Nat) (polarity : Nat) (s : State) :
    s.Answers (execLinkUp port interface laneMap polarity s) [.time, .queue, .ports] := by
  unfold execLinkUp
  exact .ite (.next (comeUp_moves ..)) (.next .refl)

theorem execAutonegTimeout_answers (port : Fin 10) (s : State) :
    s.Answers (execAutonegTimeout port s) [.ports] := by
  unfold execAutonegTimeout
  exact .ite (.next (modPort_moves ..)) (.next .refl)

theorem execInterfaceWrite_answers (f : Func) (port : Fin 10) (value : Word32) (s : State) :
    s.Answers (execInterfaceWrite f port value s) [.out, .free, .regs, .time, .power, .mem, .xlate, .queue, .trans, .ports, .ingress,
        .work, .dirtyLogs, .mailboxes, .host, .hostReads, .keys] := by
  unfold execInterfaceWrite
  refine .ite (.next .refl) ?_
  dsimp -proj only
  refine .next ?_
  refine .then ?_ (settle_moves ..)
  exact .ite ((setFld_moves ..).mono.then (retrain_moves ..)) (setFld_moves ..).mono

theorem execRetrain_answers (f : Func) (port : Fin 10) (s : State) :
    s.Answers (execRetrain f port s) [.out, .free, .regs, .time, .power, .mem, .xlate, .queue, .trans, .ports, .ingress, .work,
        .dirtyLogs, .mailboxes, .host, .hostReads, .keys] := by
  unfold execRetrain
  exact .ite (.next ((retrain_moves ..).mono.then (settle_moves ..))) (.next .refl)

theorem execForceDown_answers (f : Func) (port : Fin 10) (on : Bool) (s : State) :
    s.Answers (execForceDown f port on s) [.out, .free, .regs, .time, .power, .mem, .xlate, .queue, .trans, .ports, .ingress, .work,
        .dirtyLogs, .mailboxes, .host, .hostReads, .keys] := by
  unfold execForceDown
  exact .ite (.next ((setFld_moves ..).mono.then (setForceDown_moves ..) |>.then (settle_moves ..))) (.next .refl)

theorem execPfcFrame_answers (port : Fin 10) (mask : Nat) (quanta : List Nat) (s : State) :
    s.Answers (execPfcFrame port mask quanta s) [.regs, .ports] := by
  unfold execPfcFrame
  exact .ite (.next ((countControl_moves ..).mono.then (obeyPfc_moves ..))) (.next .refl)

theorem execPfcPauseExpiry_answers (port : Fin 10) (priority : Fin 8) (s : State) :
    s.Answers (execPfcPauseExpiry port priority s) [.ports] := by
  unfold execPfcPauseExpiry
  exact .ite (.next (modPort_moves ..)) (.next .refl)

theorem execPfcRefreshTimer_answers (port : Fin 10) (priority : Fin 8) (s : State) :
    s.Answers (execPfcRefreshTimer port priority s) [.regs, .ports] := by
  unfold execPfcRefreshTimer
  exact .ite (.next (pausePeer_moves ..)) (.next .refl)

theorem execHello_answers (port : Fin 10) (coord : Coord) (peerPort : Nat) (weltEnable : Bool) (sendStamp : Word64) (echoStamp : Word64)
    (_nonce : Word64) (s : State) :
    s.Answers (execHello port coord peerPort weltEnable sendStamp echoStamp _nonce s) [.regs, .queue, .ports] := by
  unfold execHello
  exact .ite (.next (takeHello_moves ..)) (.next .refl)

theorem execHelloTimer_answers (port : Fin 10) (s : State) :
    s.Answers (execHelloTimer port s) [.out, .free, .regs, .ports] := by
  unfold execHelloTimer
  exact .ite (.next (sendHello_moves ..)) (.next .refl)

theorem execWeltHelloTimeout_answers (port : Fin 10) (s : State) :
    s.Answers (execWeltHelloTimeout port s) [.ports] := by
  unfold execWeltHelloTimeout
  exact .ite (.next (modPort_moves ..)) (.next .refl)

theorem execStatus_answers (port : Fin 10) (ackSeqs : List Word32) (credits : List Word32) (s : State) :
    s.Answers (execStatus port ackSeqs credits s) [.regs, .ports] := by
  unfold execStatus
  exact .ite (.next ((countControl_moves ..).mono.then (modPort_moves ..))) (.next .refl)

theorem execStatusTimer_answers (port : Fin 10) (s : State) :
    s.Answers (execStatusTimer port s) [.regs, .ports] := by
  unfold execStatusTimer
  exact .ite (.next (sendStatus_moves ..)) (.next .refl)

theorem execWeltNak_answers (port : Fin 10) (lane : Fin 4) (seq : Word32) (s : State) :
    s.Answers (execWeltNak port lane seq s) [.regs, .ports] := by
  unfold execWeltNak
  exact .ite (.next ((countControl_moves ..).mono.then (modPort_moves ..))) (.next .refl)

theorem execWeltResendTimer_answers (port : Fin 10) (lane : Fin 4) (s : State) :
    s.Answers (execWeltResendTimer port lane s) [.ports] := by
  unfold execWeltResendTimer
  dsimp -proj only
  split
  · exact .next .refl
  · exact .ite (.next (modPort_moves ..)) (.next .refl)

theorem execWeltGiveUp_answers (port : Fin 10) (s : State) :
    s.Answers (execWeltGiveUp port s) [.out, .free, .regs, .time, .power, .mem, .xlate, .queue, .trans, .ports, .ingress, .work,
        .dirtyLogs, .mailboxes, .host, .hostReads, .keys] := by
  unfold execWeltGiveUp
  exact .ite (.next ((portCount_moves ..).mono.then (goDown_moves ..) |>.then (settle_moves ..))) (.next .refl)

theorem execTime_answers (port : Fin 10) (t1 : Nat) (t1p : Nat) (t2p : Nat) (s : State) :
    s.Answers (execTime port t1 t1p t2p s) [.regs, .time, .ports] := by
  unfold execTime
  exact .ite (.next (takeTime_moves ..)) (.next .refl)

theorem execTimeSendTimer_answers (port : Fin 10) (s : State) :
    s.Answers (execTimeSendTimer port s) [.regs, .ports] := by
  unfold execTimeSendTimer
  dsimp -proj only
  refine .ite ?_ (.next .refl)
  exact .next ((queueMac_moves ..).then (modPort_moves ..))

theorem execBypassReqPin_answers (pin : Fin 8) (level : Bool) (s : State) :
    s.Answers (execBypassReqPin pin level s) [.board, .ports, .bypass, .mailboxes] := by
  unfold execBypassReqPin
  exact .next ((setBoard_moves _ _).mono.then (bypassSources_moves ..))

theorem execBypassDrainDone_answers (s : State) :
    s.Answers (execBypassDrainDone s) [.ports, .bypass] := by
  unfold execBypassDrainDone
  split
  · exact .ite (.next (moveSwitch_moves ..)) (.next .refl)
  · exact .next .refl

theorem execBypassSwitchSettled_answers (s : State) :
    s.Answers (execBypassSwitchSettled s) [.out, .free, .regs, .time, .power, .mem, .xlate, .queue, .trans, .ports, .ingress, .bypass,
        .work, .dirtyLogs, .mailboxes, .host, .hostReads, .keys] := by
  unfold execBypassSwitchSettled
  split
  · exact .next ((switchSettled_moves ..).mono.then (settle_moves ..))
  · exact .next .refl

theorem execFilterSet_answers (slice : Fin 512) (tag : Word32) (index : Nat) (p : FilterRec) (s : State) :
    s.Answers (execFilterSet slice tag index p s) [.regs, .filters, .mailboxes] := by
  unfold execFilterSet
  refine .next ?_
  refine command_moves fun _ => ?_
  dsimp -proj only
  refine .iteFst .refl ?_
  exact .iteFst .refl (setFilters_moves _ _).mono

theorem execFilterClear_answers (slice : Fin 512) (tag : Word32) (index : Nat) (s : State) :
    s.Answers (execFilterClear slice tag index s) [.regs, .filters, .mailboxes] := by
  unfold execFilterClear
  refine .next ?_
  refine command_moves fun _ => ?_
  refine .iteFst .refl ?_
  exact .iteFst .refl (setFilters_moves _ _).mono

theorem execFilterRead_answers (slice : Fin 512) (tag : Word32) (index : Nat) (s : State) :
    s.Answers (execFilterRead slice tag index s) [.regs, .mailboxes] := by
  unfold execFilterRead
  refine .next ?_
  refine command_moves fun _ => ?_
  refine .iteFst .refl ?_
  exact .iteFst .refl .refl

theorem execChainBypass_answers (slice : Fin 512) (tag : Word32) (on : Bool) (s : State) :
    s.Answers (execChainBypass slice tag on s) [.regs, .ports, .bypass, .mailboxes] := by
  unfold execChainBypass
  split
  · rename_i heq
    refine State.Moves.answers (.ofPair heq ((take_moves ..).mono)) ?_
    exact .next .refl
  · rename_i heq
    refine State.Moves.answers (.ofPair heq ((take_moves ..).mono)) ?_
    exact .ite (.next ((answer_moves ..).mono)) (.next ((setBypass_moves _ _).mono.then (bypassSources_moves ..)))

/-! ### The operations of Machine/Power.lean -/

theorem execPowerSample_answers (watts : Nat) (s : State) :
    s.Answers (execPowerSample watts s) [.out, .free, .regs, .time, .power, .fw, .last, .mem, .xlate, .queue, .trans, .ports, .ingress,
        .work, .slices, .dirtyLogs, .mailboxes, .host, .hostReads, .keys, .checks] := by
  unfold execPowerSample
  exact .ite (.next ((setPower_moves _ _).mono.then (capStepTo_moves ..) |>.then (settle_moves ..))) (.next ((setPower_moves _ _).mono))

theorem execThermalSample_answers (junction : Nat) (hbm : Nat) (s : State) :
    s.Answers (execThermalSample junction hbm s) [.out, .free, .regs, .time, .board, .power, .boot, .fw, .last, .mem, .xlate, .queue,
        .trans, .ports, .filters, .ingress, .bypass, .route, .work, .slices, .dirtyLogs, .mailboxes, .host, .hostReads, .keys,
        .checks] := by
  unfold execThermalSample
  exact .ite (.next ((setPower_moves _ _).mono)) (.next ((setPower_moves _ _).mono.then (thermalStep_moves ..) |>.then (settle_moves ..)))

theorem execThermalComparator_answers (junction : Nat) (hbm : Nat) (s : State) :
    s.Answers (execThermalComparator junction hbm s) [.out, .free, .regs, .time, .board, .power, .boot, .fw, .last, .mem, .xlate,
        .queue, .trans, .ports, .filters, .ingress, .bypass, .route, .work, .slices, .dirtyLogs, .mailboxes, .host, .hostReads, .keys,
        .checks] := by
  unfold execThermalComparator
  dsimp -proj only
  refine .ite (.next .refl) ?_
  exact .ite (.next ((shutDown_moves ..).mono)) (.next ((setThermal_moves ..).mono.then (settle_moves ..)))

theorem execPwrBrakeAssert_answers (s : State) :
    s.Answers (execPwrBrakeAssert s) [.out, .free, .regs, .time, .power, .fw, .last, .mem, .xlate, .queue, .trans, .ports, .ingress,
        .work, .slices, .dirtyLogs, .mailboxes, .host, .hostReads, .keys, .checks] := by
  unfold execPwrBrakeAssert
  exact .ite (.next .refl) (.next ((setPower_moves _ _).mono.then (bump_moves ..) |>.then (brakeEvent_moves ..)
      |>.then (emergencyFrom_moves ..) |>.then (settle_moves ..)))

theorem execPwrBrakeRelease_answers (s : State) :
    s.Answers (execPwrBrakeRelease s) [.power, .queue] := by
  unfold execPwrBrakeRelease
  exact .ite (.next ((setPower_moves _ _).mono.then (brakeEvent_moves ..))) (.next .refl)

theorem execClusterLightSleep_answers (cluster : Fin 8) (s : State) :
    s.Answers (execClusterLightSleep cluster s) [.power] := by
  unfold execClusterLightSleep
  exact .ite (.next (setSleep_moves ..)) (.next .refl)

theorem execClusterDeepSleep_answers (cluster : Fin 8) (s : State) :
    s.Answers (execClusterDeepSleep cluster s) [.power] := by
  unfold execClusterDeepSleep
  exact .ite (.next (setSleep_moves ..)) (.next .refl)

theorem execClusterWake_answers (cluster : Fin 8) (s : State) :
    s.Answers (execClusterWake cluster s) [.regs, .power] := by
  unfold execClusterWake
  exact .next (wakeCluster_moves ..)

theorem execHbmSelfRefresh_answers (s : State) :
    s.Answers (execHbmSelfRefresh s) [.power] := by
  unfold execHbmSelfRefresh
  exact .ite (.next ((setPower_moves _ _))) (.next .refl)

/-! ### The operations of Machine/Regions.lean -/

theorem eyeletAccess_moves (s : State) (f : Func) (requester : Word16) (offset : Nat) (len : Nat) (bytes : List Byte) (load : Bool) :
    s.Moves (s.eyeletAccess f requester offset len bytes load) [.out, .free, .regs, .power, .mem, .xlate, .queue, .trans, .ports,
        .ingress, .dirtyLogs, .mailboxes, .host, .hostReads, .keys] := by
  unfold State.eyeletAccess
  split
  · exact .ite ((bump_moves ..).mono.then (emit_moves ..)) (bump_moves ..).mono
  · refine .ite (eyeletBegin_moves ..) ?_
    exact .ite ((bump_moves ..).mono.then (emit_moves ..)) (bump_moves ..).mono

theorem execEyeletLoad_answers (f : Func) (requester : Word16) (offset : Nat) (length : Nat) (s : State) :
    s.Answers (execEyeletLoad f requester offset length s) [.out, .free, .regs, .power, .mem, .xlate, .queue, .trans, .ports, .ingress,
        .work, .dirtyLogs, .mailboxes, .host, .hostReads, .keys] := by
  unfold execEyeletLoad
  exact .next ((eyeletAccess_moves ..).mono.then (settle_moves ..))

theorem execEyeletStore_answers (f : Func) (requester : Word16) (offset : Nat) (bytes : List Byte) (s : State) :
    s.Answers (execEyeletStore f requester offset bytes s) [.out, .free, .regs, .power, .mem, .xlate, .queue, .trans, .ports, .ingress,
        .work, .dirtyLogs, .mailboxes, .host, .hostReads, .keys] := by
  unfold execEyeletStore
  exact .next ((eyeletAccess_moves ..).mono.then (settle_moves ..))

theorem execEyeletLoadLimit_answers (id : Nat) (s : State) :
    s.Answers (execEyeletLoadLimit id s) [.out, .free, .regs, .xlate, .queue, .mailboxes] := by
  unfold execEyeletLoadLimit
  split
  · exact .next .refl
  · exact .ite (.next .refl) (.next ((advanceFree_moves ..).mono.then (setXlate_moves _ _) |>.then (emit_moves ..)
        |>.then (bump_moves ..) |>.then (raise_moves ..) |>.then (finishUnmaps_moves ..)))

theorem execEyeletMap_answers (slice : Fin 512) (tag : Word32) (p : EyeletParams) (s : State) :
    s.Answers (execEyeletMap slice tag p s) [.regs, .xlate, .mailboxes] := by
  unfold execEyeletMap
  refine .next ?_
  refine command_moves fun _ => ?_
  split
  · exact .refl
  · exact (setXlate_moves _ _).mono

theorem execEyeletUnmap_answers (slice : Fin 512) (tag : Word32) (f : Func) (granule : Nat) (s : State) :
    s.Answers (execEyeletUnmap slice tag f granule s) [.regs, .xlate, .mailboxes] := by
  unfold execEyeletUnmap
  split
  · rename_i heq
    refine State.Moves.answers (.ofPair heq ((take_moves ..).mono)) ?_
    exact .next .refl
  · rename_i heq
    refine State.Moves.answers (.ofPair heq ((take_moves ..).mono)) ?_
    exact .ite (.next ((setXlate_moves _ _).mono.then (finishUnmaps_moves ..))) (.next ((answer_moves ..).mono))

theorem execEyeletRead_answers (slice : Fin 512) (tag : Word32) (f : Func) (granule : Nat) (s : State) :
    s.Answers (execEyeletRead slice tag f granule s) [.regs, .mailboxes] := by
  unfold execEyeletRead
  refine .next ?_
  refine command_moves fun _ => ?_
  dsimp -proj only
  refine .iteFst .refl ?_
  exact .iteFst .refl .refl

theorem execRangeRead_answers (slice : Fin 512) (tag : Word32) (slot : Nat) (s : State) :
    s.Answers (execRangeRead slice tag slot s) [.regs, .mailboxes] := by
  unfold execRangeRead
  refine .next ?_
  refine command_moves fun _ => ?_
  dsimp -proj only
  refine .iteFst .refl ?_
  split
  · exact .refl
  · exact .refl

theorem execRegionRegister_answers (slice : Fin 512) (tag : Word32) (p : RegionParams) (s : State) :
    s.Answers (execRegionRegister slice tag p s) [.free, .regs, .xlate, .mailboxes] := by
  unfold execRegionRegister
  split
  · rename_i heq
    exact .next (.ofPair heq (take_moves ..).mono)
  · rename_i heq
    refine State.Moves.answers (.ofPair heq (take_moves ..).mono) ?_
    exact .ite (.next .refl) (.next ((registerRegion_moves ..).mono.then (answer_moves ..)))

theorem execRegionRevoke_answers (slice : Fin 512) (tag : Word32) (slot : Nat) (incarnation : Nat) (s : State) :
    s.Answers (execRegionRevoke slice tag slot incarnation s) [.out, .free, .regs, .power, .mem, .xlate, .queue, .trans, .ports,
        .ingress, .work, .dirtyLogs, .mailboxes, .host, .hostReads, .keys, .checks] := by
  unfold execRegionRevoke
  split
  · rename_i heq
    refine State.Moves.answers (.ofPair heq ((take_moves ..).mono)) ?_
    exact .next .refl
  · rename_i heq
    refine State.Moves.answers (.ofPair heq ((take_moves ..).mono)) ?_
    dsimp -proj only
    split
    · exact .next ((answer_moves ..).mono)
    · refine .ite (.next ((answer_moves ..).mono)) ?_
      exact .ite (.next ((answer_moves ..).mono)) (.next ((beginRevoke_moves ..).then (settle_moves ..)))

theorem execTenantSet_answers (slice : Fin 512) (tag : Word32) (target : Nat) (tenant : Nat) (s : State) :
    s.Answers (execTenantSet slice tag target tenant s) [.regs, .slices, .mailboxes] := by
  unfold execTenantSet
  refine .next ?_
  refine command_moves fun _ => ?_
  refine .iteFst .refl ?_
  refine .iteFst .refl ?_
  exact .iteFst .refl (modSlice_moves ..).mono

theorem execQueueCreate_answers (slice : Fin 512) (tag : Word32) (p : QueueParams) (s : State) :
    s.Answers (execQueueCreate slice tag p s) [.free, .regs, .queue, .mailboxes] := by
  unfold execQueueCreate
  exact .next (command_moves fun _ => (createQueue_moves ..).mono)

theorem execQueueDestroy_answers (slice : Fin 512) (tag : Word32) (q : Nat) (s : State) :
    s.Answers (execQueueDestroy slice tag q s) [.regs, .queue, .trans, .filters, .mailboxes] := by
  unfold execQueueDestroy
  refine .next ?_
  refine command_moves fun _ => ?_
  split
  · rename_i heq
    refine State.Moves.trans (.ofPair heq ((destroyQueue_moves ..).mono)) ?_
    exact .refl

/-! ### The operations of Machine/MsixTable.lean -/

theorem writeTableWord_moves (s : State) (f : Func) (off : Nat) (w : Nat) :
    s.Moves (s.writeTableWord f off w) [.host] := by
  unfold State.writeTableWord
  split
  · exact modFunc_moves ..
  · exact .refl

theorem writeMsix_moves (s : State) (f : Func) (off : Nat) (width : Nat) (v : Word64) :
    s.Moves (s.writeMsix f off width v) [.out, .regs, .xlate, .queue, .trans, .host, .hostReads] := by
  unfold State.writeMsix
  refine .ite .refl ?_
  dsimp -proj only
  refine .then ?_ (sendHeldMsix_moves ..)
  exact .ite ((writeTableWord_moves ..).mono.then (writeTableWord_moves ..)) (writeTableWord_moves ..).mono

/-! ### The operations of Machine/Timers.lean -/

theorem pulse_moves (s : State) (idx : Nat) :
    s.Moves (s.pulse idx) [.out, .board] := by
  unfold State.pulse
  exact .foldl .refl (fun s p => (setBoard_moves _ _).mono.then (drive_moves ..))

theorem execEventTimerFire_answers (slice : Option (Fin 512)) (index : Nat) (s : State) :
    s.Answers (execEventTimerFire slice index s) [.out, .time, .board, .queue] := by
  unfold execEventTimerFire
  split
  · exact .next ((pulse_moves ..).mono)
  · split
    · exact .next .refl
    · exact .ite (.next .refl) (.next ((setTime_moves _ _).mono.then (laceUp_moves ..)))

theorem armTimer_moves (s : State) (k : Nat) (value : Word64) :
    s.Moves (s.armTimer k value) [.time] := by
  unfold State.armTimer
  dsimp -proj only
  refine .ite .refl ?_
  refine .ite (setTime_moves _ _) ?_
  exact .ite .refl (setTime_moves _ _)

theorem execSlcTimerDeadlineWrite_answers (f : Func) (slice : Fin 512) (value : Word64) (s : State) :
    s.Answers (execSlcTimerDeadlineWrite f slice value s) [.time] := by
  unfold execSlcTimerDeadlineWrite
  exact .ite (.next (armTimer_moves ..)) (.next .refl)

theorem writeTime_moves (s : State) (value : Word64) : s.Moves (s.setTime value) [.regs, .time] :=
  .ite (setTime_moves _ _).mono (bump_moves ..).mono

theorem setSlew_moves (s : State) (value : Word64) :
    s.Moves (s.setSlew value) [.time] := by
  unfold State.setSlew
  exact .ite (setTime_moves _ _) .refl

theorem setFreq_moves (s : State) (value : Word32) :
    s.Moves (s.setFreq value) [.regs] := by
  unfold State.setFreq
  exact .ite (setFld_moves ..) .refl

theorem setTimCtrl_moves (s : State) (value : Word64) :
    s.Moves (s.setTimCtrl value) [.regs, .time] := by
  unfold State.setTimCtrl
  exact .ite (storeReg_moves ..).mono ((storeReg_moves ..).mono.then (setTime_moves _ _))

theorem execTimSetWrite_answers (f : Func) (value : Word64) (s : State) :
    s.Answers (execTimSetWrite f value s) [.regs, .time] :=
  .ite (.next (writeTime_moves ..)) (.next .refl)

theorem execTimSlewWrite_answers (f : Func) (value : Word64) (s : State) :
    s.Answers (execTimSlewWrite f value s) [.time] := by
  unfold execTimSlewWrite
  exact .ite (.next (setSlew_moves ..)) (.next .refl)

theorem execTimFreqWrite_answers (f : Func) (value : Word32) (s : State) :
    s.Answers (execTimFreqWrite f value s) [.regs] := by
  unfold execTimFreqWrite
  exact .ite (.next (setFreq_moves ..)) (.next .refl)

theorem execPpsInEdge_answers (s : State) :
    s.Answers (execPpsInEdge s) [.time, .queue] := by
  unfold execPpsInEdge
  exact .ite (.next ((setTime_moves _ _).mono.then (setTime_moves _ _) |>.then (sourceState_moves ..))) (.next ((setTime_moves _ _).mono))

theorem execPpsOutSecond_answers (s : State) :
    s.Answers (execPpsOutSecond s) [.out, .time] := by
  unfold execPpsOutSecond
  exact .ite (.next ((setTime_moves _ _).mono.then (drive_moves ..))) (.next .refl)

theorem execTimeSourceLoss_answers (s : State) :
    s.Answers (execTimeSourceLoss s) [.time, .queue] := by
  unfold execTimeSourceLoss
  exact .ite (.next (sourceState_moves ..)) (.next .refl)

theorem execTimeCaptureEdge_answers (pin : Fin 8) (s : State) :
    s.Answers (execTimeCaptureEdge pin s) [.board] := by
  unfold execTimeCaptureEdge
  exact .ite (.next ((setBoard_moves _ _).then (setBoard_moves _ _))) (.next ((setBoard_moves _ _)))

/-! ### The operations of Machine/RegRead.lean -/

theorem clearRc_moves (s : State) (r : Reg) (k : Nat) :
    s.Moves (s.clearRc r k) [.regs] := by
  unfold State.clearRc
  exact .foldl .refl (fun s f => (setFld_moves ..))

/-! ### The operations of Machine/Slices.lean -/

theorem execSliceBind_answers (slice : Fin 512) (tag : Word32) (target : Nat) (port : Nat) (fn : Nat) (pasid : Option (BitVec 20))
    (s : State) :
    s.Answers (execSliceBind slice tag target port fn pasid s) [.regs, .slices, .mailboxes] := by
  unfold execSliceBind
  refine .next ?_
  refine command_moves fun _ => ?_
  dsimp -proj only
  refine .iteFst .refl ?_
  refine .iteFst .refl ?_
  exact .iteFst .refl (modSlice_moves ..).mono

theorem execSliceUnbind_answers (slice : Fin 512) (tag : Word32) (target : Nat) (s : State) :
    s.Answers (execSliceUnbind slice tag target s) [.out, .free, .regs, .time, .power, .last, .mem, .xlate, .queue, .trans, .ports,
        .ingress, .work, .slices, .dirtyLogs, .mailboxes, .host, .hostReads, .keys] := by
  unfold execSliceUnbind
  split
  · rename_i heq
    refine State.Moves.answers (.ofPair heq ((take_moves ..).mono)) ?_
    exact .next .refl
  · rename_i heq
    refine State.Moves.answers (.ofPair heq ((take_moves ..).mono)) ?_
    dsimp -proj only
    refine .ite (.next ((answer_moves ..).mono)) ?_
    refine .ite (.next ((answer_moves ..).mono)) ?_
    split
    · exact .next ((answer_moves ..).mono)
    · exact .next ((resetSlice_moves ..).mono.then (settle_moves ..))
    · exact .next ((answer_moves ..).mono)

theorem execSliceReset_answers (slice : Fin 512) (tag : Word32) (target : Fin 512) (s : State) :
    s.Answers (execSliceReset slice tag target s) [.out, .free, .regs, .time, .power, .last, .mem, .xlate, .queue, .trans, .ports,
        .ingress, .work, .slices, .dirtyLogs, .mailboxes, .host, .hostReads, .keys] := by
  unfold execSliceReset
  split
  · rename_i heq
    refine State.Moves.answers (.ofPair heq ((take_moves ..).mono)) ?_
    exact .next .refl
  · rename_i heq
    refine State.Moves.answers (.ofPair heq ((take_moves ..).mono)) ?_
    refine .ite (.next ((answer_moves ..).mono)) ?_
    exact .ite (.next ((answer_moves ..).mono)) (.next ((resetSlice_moves ..).mono.then (settle_moves ..)))

theorem execSliceResetDrainDone_answers (target : Fin 512) (s : State) :
    s.Answers (execSliceResetDrainDone target s) [.regs, .xlate, .queue, .filters, .slices, .mailboxes, .keys, .checks] := by
  unfold execSliceResetDrainDone
  exact .ite (.next ((destroyObjects_moves ..).mono.then (finishReset_moves ..))) (.next .refl)

theorem beat_moves (s : State) (k : Nat) (value : Word64) :
    s.Moves (s.beat k value) [.slices] := by
  unfold State.beat
  exact modSlice_moves ..

theorem execHeartbeat_answers (f : Func) (slice : Fin 512) (value : Word64) (s : State) :
    s.Answers (execHeartbeat f slice value s) [.slices] := by
  unfold execHeartbeat
  exact .ite (.next (beat_moves ..)) (.next .refl)

theorem execHeartbeatExpiry_answers (slice : Fin 512) (s : State) :
    s.Answers (execHeartbeatExpiry slice s) [.out, .free, .regs, .time, .power, .last, .mem, .xlate, .queue, .trans, .ports, .ingress,
        .work, .slices, .dirtyLogs, .mailboxes, .host, .hostReads, .keys] := by
  unfold execHeartbeatExpiry
  exact .ite (.next ((modSlice_moves ..).mono.then (raise_moves ..) |>.then (resetSlice_moves ..) |>.then (settle_moves ..))) (.next .refl)

theorem execFlr_answers (f : Func) (s : State) :
    s.Answers (execFlr f s) [.out, .free, .regs, .time, .power, .last, .mem, .xlate, .queue, .trans, .ports, .ingress, .work, .slices,
        .dirtyLogs, .mailboxes, .host, .hostReads, .keys, .checks] := by
  unfold execFlr
  exact .next ((takeFlr_moves ..).then (settle_moves ..))

theorem execDirtyStart_answers (slice : Fin 512) (tag : Word32) (target : Fin 512) (iovaBase : Nat) (pages : Nat) (bitmap0 : Nat)
    (bitmap1 : Nat) (bytes : Nat) (s : State) :
    s.Answers (execDirtyStart slice tag target iovaBase pages bitmap0 bitmap1 bytes s) [.regs, .dirtyLogs, .mailboxes] := by
  unfold execDirtyStart
  refine .next ?_
  refine command_moves fun _ => ?_
  refine .iteFst .refl ?_
  refine .iteFst .refl ?_
  refine .iteFst .refl ?_
  exact .iteFst .refl (setDirtyLogs_moves _ _).mono

theorem endLogging_moves (s : State) (slice : Nat) (tag : Word32) (target : Nat) (stop : Bool) :
    s.Moves (s.endLogging slice tag target stop) [.out, .free, .regs, .power, .mem, .xlate, .queue, .trans, .ports, .ingress, .work,
        .dirtyLogs, .mailboxes, .host, .hostReads, .keys, .checks] := by
  unfold State.endLogging
  dsimp -proj only
  refine .ite (respond_moves ..).mono ?_
  split
  · exact (respond_moves ..).mono
  · exact .ite (respond_moves ..).mono ((modLog_moves ..).mono.then (flushLog_moves ..) |>.then (releaseLog_moves ..))

theorem execDirtyStop_answers (slice : Fin 512) (tag : Word32) (target : Fin 512) (s : State) :
    s.Answers (execDirtyStop slice tag target s) [.out, .free, .regs, .power, .mem, .xlate, .queue, .trans, .ports, .ingress, .work,
        .dirtyLogs, .mailboxes, .host, .hostReads, .keys, .checks] := by
  unfold execDirtyStop
  split
  · rename_i heq
    refine State.Moves.answers (.ofPair heq ((take_moves ..).mono)) ?_
    exact .next .refl
  · rename_i heq
    refine State.Moves.answers (.ofPair heq ((take_moves ..).mono)) ?_
    exact .next ((endLogging_moves ..).then (settle_moves ..))

theorem execDirtySync_answers (slice : Fin 512) (tag : Word32) (target : Fin 512) (s : State) :
    s.Answers (execDirtySync slice tag target s) [.out, .free, .regs, .power, .mem, .xlate, .queue, .trans, .ports, .ingress, .work,
        .dirtyLogs, .mailboxes, .host, .hostReads, .keys, .checks] := by
  unfold execDirtySync
  split
  · rename_i heq
    refine State.Moves.answers (.ofPair heq ((take_moves ..).mono)) ?_
    exact .next .refl
  · rename_i heq
    refine State.Moves.answers (.ofPair heq ((take_moves ..).mono)) ?_
    exact .next ((endLogging_moves ..).then (settle_moves ..))

theorem execDirtyFlush_answers (s : State) :
    s.Answers (execDirtyFlush s) [.out, .free, .regs, .power, .mem, .xlate, .queue, .trans, .ports, .ingress, .work, .dirtyLogs,
        .mailboxes, .host, .hostReads, .keys, .checks] := by
  unfold execDirtyFlush
  dsimp -proj only
  refine .next ?_
  refine .then ?_ (settle_moves ..)
  refine .then ?_ (releaseLog_moves ..)
  exact .foldl .refl (fun s d => (flushLog_moves ..).mono)

theorem execSliceFreeze_answers (slice : Fin 512) (tag : Word32) (target : Fin 512) (s : State) :
    s.Answers (execSliceFreeze slice tag target s) [.regs, .slices, .mailboxes] := by
  unfold execSliceFreeze
  split
  · rename_i heq
    refine State.Moves.answers (.ofPair heq ((take_moves ..).mono)) ?_
    exact .next .refl
  · rename_i heq
    refine State.Moves.answers (.ofPair heq ((take_moves ..).mono)) ?_
    dsimp -proj only
    refine .ite (.next ((answer_moves ..).mono)) ?_
    split
    · exact .next ((modSlice_moves ..).mono)
    · exact .next ((answer_moves ..).mono)
    · exact .next ((answer_moves ..).mono)

theorem execFreezeDrained_answers (target : Fin 512) (s : State) :
    s.Answers (execFreezeDrained target s) [.slices, .mailboxes] := by
  unfold execFreezeDrained
  exact .ite (.next ((modSlice_moves ..).mono.then (respondTo_moves ..))) (.next .refl)

theorem execSliceSave_answers (slice : Fin 512) (tag : Word32) (target : Fin 512) (length : Nat) (bufferOk : Bool) (s : State) :
    s.Answers (execSliceSave slice tag target length bufferOk s) [.out, .regs, .slices, .mailboxes] := by
  unfold execSliceSave
  refine .next ?_
  refine command_moves fun _ => ?_
  dsimp -proj only
  refine .iteFst .refl ?_
  refine .iteFst .refl ?_
  refine .iteFst .refl ?_
  refine .iteFst .refl ?_
  exact .iteFst .refl ((modSlice_moves ..).mono.then (emit_moves ..))

theorem execSliceRestore_answers (slice : Fin 512) (tag : Word32) (target : Fin 512) (image : Option SliceImage) (s : State) :
    s.Answers (execSliceRestore slice tag target image s) [.regs, .xlate, .queue, .trans, .slices, .mailboxes] := by
  unfold execSliceRestore
  refine .next ?_
  refine command_moves fun _ => ?_
  dsimp -proj only
  refine .iteFst .refl ?_
  refine .iteFst .refl ?_
  split
  · exact .refl
  · refine .iteFst .refl ?_
    refine .iteFst .refl ?_
    refine .iteFst .refl ?_
    exact .iteFst .refl (loadImage_moves ..).mono

theorem sendReHome_moves (s : State) (k : Nat) (c : Conn) :
    s.Moves (s.sendReHome k c) [.out, .regs, .trans, .ports, .ingress] := by
  unfold State.sendReHome
  exact sendCtrl_moves ..

theorem execSliceThaw_answers (slice : Fin 512) (tag : Word32) (target : Fin 512) (s : State) :
    s.Answers (execSliceThaw slice tag target s) [.out, .free, .regs, .power, .mem, .xlate, .queue, .trans, .ports, .ingress, .slices,
        .dirtyLogs, .mailboxes, .host, .hostReads, .keys] := by
  unfold execSliceThaw
  split
  · rename_i heq
    refine State.Moves.answers (.ofPair heq ((take_moves ..).mono)) ?_
    exact .next .refl
  · rename_i heq
    refine State.Moves.answers (.ofPair heq ((take_moves ..).mono)) ?_
    dsimp -proj only
    refine .ite (.next ((answer_moves ..).mono)) ?_
    refine .ite (.next ((answer_moves ..).mono)) ?_
    refine .ite ?_ ?_
    · exact .ite (.next ((answer_moves ..).mono)) (.next ((modSlice_moves ..).mono.foldl (fun s c => (sendReHome_moves ..).mono)
          |>.then (finishThaw_moves ..)))
    · exact .ite (.next ((answer_moves ..).mono)) (.next ((modSlice_moves ..).mono.then (respondTo_moves ..)
          |>.then (answer_moves ..) |>.foldl (fun s c => (kick_moves ..).mono)))

/-! ### The operations of Machine/Registers.lean -/

theorem writeGpio_moves (s : State) (v : Word64) :
    s.Moves (s.writeGpio v) [.out, .regs] := by
  unfold State.writeGpio
  exact (storeReg_moves ..).mono.foldl (fun s p => (drive_moves ..).mono)

theorem writeTimerCfg_moves (s : State) (k : Nat) (v : Word64) :
    s.Moves (s.writeTimerCfg k v) [.time] := by
  unfold State.writeTimerCfg
  exact .ite .refl (setTime_moves _ _)

theorem writeIde_moves (s : State) (p : Nat) (v : Word64) :
    s.Moves (s.writeIde p v) [.out, .free, .regs, .time, .power, .last, .mem, .xlate, .queue, .trans, .ports, .ingress, .work, .slices,
        .dirtyLogs, .mailboxes, .host, .hostReads, .keys, .checks] := by
  unfold State.writeIde
  exact .ite ((storeReg_moves ..).mono.then (endLink_moves ..)) (storeReg_moves ..).mono

theorem writeReg_moves (s : State) (r : Reg) (k : Nat) (v : Word64) :
    s.Moves (s.writeReg r k v) [.out, .free, .regs, .time, .power, .last, .mem, .xlate, .queue, .trans, .ports, .ingress, .work,
        .slices, .dirtyLogs, .mailboxes, .host, .hostReads, .keys, .checks] := by
  unfold State.writeReg
  split
  · exact (writeLinkCtrl_moves ..).mono
  · exact .ite (commitReg_moves ..).mono .refl
  · exact .ite (askCommit_moves ..).mono .refl
  · exact (setScrub_moves ..).mono
  · exact (writeTime_moves ..).mono
  · exact (setSlew_moves ..).mono
  · exact (setFreq_moves ..).mono
  · exact (setTimCtrl_moves ..).mono
  · exact (writeGpio_moves ..).mono
  · exact writeIde_moves ..
  · exact (beat_moves ..).mono
  · exact (setLaceVal_moves ..).mono
  · exact (loadCheck_moves ..).mono
  · exact (armTimer_moves ..).mono
  · exact (writeTimerCfg_moves ..).mono
  · exact (setMbxCtrl_moves ..).mono
  · exact .ite .refl (storeReg_moves ..).mono
  · exact .ite .refl (storeReg_moves ..).mono
  · exact (storeReg_moves ..).mono

theorem execRegisterWrite_answers (f : Func) (offset : Nat) (width : Nat) (value : Word64) (s : State) :
    s.Answers (execRegisterWrite f offset width value s) [.out, .free, .regs, .time, .power, .last, .mem, .xlate, .queue, .trans,
        .ports, .ingress, .work, .slices, .dirtyLogs, .mailboxes, .host, .hostReads, .keys, .checks] := by
  unfold execRegisterWrite
  split
  · exact .ite (.next ((writeMsix_moves ..).mono.then (settle_moves ..))) (.next .refl)
  · exact .ite (.next ((writeReg_moves ..).then (settle_moves ..))) (.next .refl)

theorem execRegisterReadClear_answers (f : Func) (offset : Nat) (width : Nat) (s : State) :
    s.Answers (execRegisterReadClear f offset width s) [.out, .free, .regs, .mem] := by
  unfold execRegisterReadClear
  refine .ite (.next .refl) ?_
  split
  · exact .next ((emit_moves ..).mono)
  · refine .ite (.next ((emit_moves ..).mono)) ?_
    dsimp -proj only
    refine .next ?_
    refine .then ?_ (emit_moves ..)
    refine .ite ((clearRc_moves ..).mono.then (markRead_moves ..)) ?_
    exact .ite ((clearRc_moves ..).mono.then (advanceFree_moves ..)) (clearRc_moves ..).mono

/-! ### The operations of Machine/Remote.lean -/

theorem execWrite_answers (q : Nat) (count : Word32) (s : State) :
    s.Answers (execWrite q count s) [.out, .free, .regs, .power, .mem, .xlate, .queue, .trans, .ports, .ingress, .work, .dirtyLogs,
        .mailboxes, .host, .hostReads, .keys] := by
  unfold execWrite
  split
  · rename_i heq
    refine State.Moves.answers (.ofPair heq ((startRemote_moves ..).mono)) ?_
    exact .next ((kickSet_moves ..).mono.then (settle_moves ..))
  · rename_i heq
    refine State.Moves.answers (.ofPair heq ((startRemote_moves ..).mono)) ?_
    exact .next .refl

theorem execWriteInc_answers (q : Nat) (count : Word32) (s : State) :
    s.Answers (execWriteInc q count s) [.out, .free, .regs, .power, .mem, .xlate, .queue, .trans, .ports, .ingress, .work, .dirtyLogs,
        .mailboxes, .host, .hostReads, .keys] := by
  unfold execWriteInc
  split
  · rename_i heq
    refine State.Moves.answers (.ofPair heq ((startRemote_moves ..).mono)) ?_
    exact .next ((kickSet_moves ..).mono.then (settle_moves ..))
  · rename_i heq
    refine State.Moves.answers (.ofPair heq ((startRemote_moves ..).mono)) ?_
    exact .next .refl

theorem execFetchAdd_answers (q : Nat) (count : Word32) (s : State) :
    s.Answers (execFetchAdd q count s) [.out, .free, .regs, .power, .mem, .xlate, .queue, .trans, .ports, .ingress, .work, .dirtyLogs,
        .mailboxes, .host, .hostReads, .keys] := by
  unfold execFetchAdd
  split
  · rename_i heq
    refine State.Moves.answers (.ofPair heq ((startRemote_moves ..).mono)) ?_
    exact .next ((kick_moves ..).mono.then (settle_moves ..))
  · rename_i heq
    refine State.Moves.answers (.ofPair heq ((startRemote_moves ..).mono)) ?_
    exact .next .refl

theorem execCmpSwap_answers (q : Nat) (count : Word32) (s : State) :
    s.Answers (execCmpSwap q count s) [.out, .free, .regs, .power, .mem, .xlate, .queue, .trans, .ports, .ingress, .work, .dirtyLogs,
        .mailboxes, .host, .hostReads, .keys] := by
  unfold execCmpSwap
  split
  · rename_i heq
    refine State.Moves.answers (.ofPair heq ((startRemote_moves ..).mono)) ?_
    exact .next ((kick_moves ..).mono.then (settle_moves ..))
  · rename_i heq
    refine State.Moves.answers (.ofPair heq ((startRemote_moves ..).mono)) ?_
    exact .next .refl

theorem execRead_answers (q : Nat) (count : Word32) (s : State) :
    s.Answers (execRead q count s) [.out, .free, .regs, .power, .mem, .xlate, .queue, .trans, .ports, .ingress, .work, .dirtyLogs,
        .mailboxes, .host, .hostReads, .keys] := by
  unfold execRead
  split
  · rename_i heq
    refine State.Moves.answers (.ofPair heq ((startRemote_moves ..).mono)) ?_
    exact .next .refl
  · rename_i heq
    refine State.Moves.answers (.ofPair heq ((startRemote_moves ..).mono)) ?_
    split
    · exact .ite (.next ((sendSegment_moves ..).mono.then (settle_moves ..))) (.next .refl)
    · exact .next .refl

theorem execReadSegmentSend_answers (q : Nat) (count : Word32) (s : State) :
    s.Answers (execReadSegmentSend q count s) [.out, .free, .regs, .power, .mem, .xlate, .queue, .trans, .ports, .ingress, .work,
        .dirtyLogs, .mailboxes, .host, .hostReads, .keys] := by
  unfold execReadSegmentSend
  split
  · exact .next .refl
  · exact .ite (.next ((sendSegment_moves ..).mono.then (settle_moves ..))) (.next .refl)

/-! ### The operations of Machine/Route.lean -/

theorem takeBegin_moves (s : State) (a : Arrival) (src : Coord) (seq : Word32) (epoch : Word32) (mgr : Word32) (roleEpoch : Word32) :
    s.Moves (s.takeBegin a src seq epoch mgr roleEpoch) [.out, .regs, .trans, .ports, .ingress, .route] := by
  unfold State.takeBegin
  refine .ite .refl ?_
  refine .ite (answerCtrl_moves ..).mono ?_
  dsimp -proj only
  refine .ite ?_ ?_
  · exact .ite (setRoute_moves _ _).mono .refl
  · refine .then ?_ (answerCtrl_moves ..)
    refine .then ?_ (setRoute_moves _ _)
    refine .then ?_ (loadBank_moves ..)
    exact .ite (setRoute_moves _ _).mono .refl

theorem execRtBegin_answers (a : Arrival) (epoch : Word32) (mgrEpoch : Word32) (roleEpoch : Word32) (t : Trailer) (s : State) :
    s.Answers (execRtBegin a epoch mgrEpoch roleEpoch t s) [.out, .free, .regs, .power, .mem, .xlate, .queue, .trans, .ports, .ingress,
        .route, .dirtyLogs, .host, .hostReads] := by
  unfold execRtBegin
  exact .next (guardedCtrl_moves fun _ _ _ => (takeBegin_moves ..).mono)

theorem execRtBeginAck_answers (a : Arrival) (epoch : Word32) (full : Bool) (t : Trailer) (s : State) :
    s.Answers (execRtBeginAck a epoch full t s) [.out, .free, .regs, .power, .mem, .xlate, .queue, .trans, .ports, .ingress, .route,
        .dirtyLogs, .host, .hostReads] := by
  unfold execRtBeginAck
  refine .next ?_
  refine guardedCtrl_moves fun _ _ _ => ?_
  split
  · exact (lateAnswer_moves ..).mono
  · exact (dropCtrl_moves ..).mono.then (modWorker_moves ..) |>.then (sendLoads_moves ..)

theorem execRtLoad_answers (a : Arrival) (epoch : Word32) (items : RouteItems) (t : Trailer) (s : State) :
    s.Answers (execRtLoad a epoch items t s) [.out, .free, .regs, .power, .mem, .xlate, .queue, .trans, .ports, .ingress, .route,
        .dirtyLogs, .host, .hostReads] := by
  unfold execRtLoad
  exact .next (guardedCtrl_moves fun _ _ _ => .ite ((modBank_moves ..).mono.then (ackCtrl_moves ..)) .refl)

theorem execRtCommit_answers (a : Arrival) (epoch : Word32) (crc : Word64) (t : Trailer) (s : State) :
    s.Answers (execRtCommit a epoch crc t s) [.out, .free, .regs, .power, .mem, .xlate, .queue, .trans, .ports, .ingress, .route,
        .dirtyLogs, .host, .hostReads] := by
  unfold execRtCommit
  refine .next ?_
  refine guardedCtrl_moves fun _ _ _ => ?_
  refine .ite .refl ?_
  dsimp -proj only
  refine .then ?_ (answerCtrl_moves ..)
  exact .ite (modBank_moves ..).mono .refl

theorem execRtReady_answers (a : Arrival) (epoch : Word32) (status : Nat) (t : Trailer) (s : State) :
    s.Answers (execRtReady a epoch status t s) [.out, .free, .regs, .power, .mem, .xlate, .queue, .trans, .ports, .ingress, .route,
        .dirtyLogs, .mailboxes, .host, .hostReads] := by
  unfold execRtReady
  refine .next ?_
  refine guardedCtrl_moves fun _ _ _ => ?_
  split
  · exact (lateAnswer_moves ..).mono
  · exact .ite ((dropCtrl_moves ..).mono.then (workerFailed_moves ..)) ((dropCtrl_moves ..).mono.then (modWorker_moves ..)
        |>.then (tryFlip_moves ..))

theorem execRtFlip_answers (a : Arrival) (epoch : Word32) (t : Trailer) (s : State) :
    s.Answers (execRtFlip a epoch t s) [.out, .free, .regs, .power, .mem, .xlate, .queue, .trans, .ports, .ingress, .route, .dirtyLogs,
        .host, .hostReads] := by
  unfold execRtFlip
  refine .next ?_
  refine guardedCtrl_moves fun _ _ _ => ?_
  dsimp -proj only
  refine .ite ((flipBanks_moves ..).mono.then (answerCtrl_moves ..)) ?_
  exact .ite (answerCtrl_moves ..).mono .refl

theorem execRtFlipAck_answers (a : Arrival) (epoch : Word32) (t : Trailer) (s : State) :
    s.Answers (execRtFlipAck a epoch t s) [.out, .free, .regs, .power, .mem, .xlate, .queue, .trans, .ports, .ingress, .route,
        .dirtyLogs, .mailboxes, .host, .hostReads] := by
  unfold execRtFlipAck
  refine .next ?_
  refine guardedCtrl_moves fun _ _ _ => ?_
  split
  · exact (lateAnswer_moves ..).mono
  · exact (dropCtrl_moves ..).mono.then (modWorker_moves ..) |>.then (finishFlip_moves ..)

theorem execRtAbort_answers (a : Arrival) (epoch : Word32) (t : Trailer) (s : State) :
    s.Answers (execRtAbort a epoch t s) [.out, .free, .regs, .power, .mem, .xlate, .queue, .trans, .ports, .ingress, .route, .dirtyLogs,
        .mailboxes, .host, .hostReads] := by
  unfold execRtAbort
  refine .next ?_
  refine guardedCtrl_moves fun _ _ _ => ?_
  split
  · exact (dropCtrl_moves ..).mono.then (workerFailed_moves ..)
  · dsimp -proj only
    refine .then ?_ (ackCtrl_moves ..)
    exact .ite ((lateAnswer_moves ..).mono.then (setRoute_moves _ _) |>.then (modBank_moves ..) |>.then (bump_moves ..))
        (lateAnswer_moves ..).mono

theorem execDrainIntervalEnd_answers (s : State) :
    s.Answers (execDrainIntervalEnd s) [.route] := by
  unfold execDrainIntervalEnd
  split
  · exact .next .refl
  · exact .ite (.next ((setRoute_moves _ _))) (.next .refl)

theorem routeWrite_moves (s : State) (slice : Nat) (items : RouteItems) :
    s.Moves (s.routeWrite slice items).1 [.route] := by
  unfold State.routeWrite
  dsimp -proj only
  refine .iteFst .refl ?_
  refine .iteFst .refl ?_
  refine .iteFst .refl ?_
  refine .then ?_ (modBank_moves ..)
  exact .ite (loadBank_moves ..) .refl

theorem execRouteWrite_answers (slice : Fin 512) (tag : Word32) (items : RouteItems) (s : State) :
    s.Answers (execRouteWrite slice tag items s) [.regs, .route, .mailboxes] := by
  unfold execRouteWrite
  exact .next (command_moves fun _ => (routeWrite_moves ..).mono)

theorem routeRead_moves (s : State) (slice : Nat) (bank : Nat) (chain : Bool) (first : Nat) (count : Nat) :
    s.Moves (s.routeRead slice bank chain first count).1 [] := by
  unfold State.routeRead
  dsimp -proj only
  refine .iteFst .refl ?_
  refine .iteFst .refl ?_
  exact .iteFst .refl .refl

theorem execRouteRead_answers (slice : Fin 512) (tag : Word32) (bank : Fin 2) (chain : Bool) (first : Nat) (count : Nat) (s : State) :
    s.Answers (execRouteRead slice tag bank chain first count s) [.regs, .mailboxes] := by
  unfold execRouteRead
  exact .next (command_moves fun _ => (routeRead_moves ..).mono)

theorem startFlip_moves (s : State) (slice : Nat) (tag : Word32) (mask : Word64) :
    s.Moves (s.startFlip slice tag mask) [.out, .regs, .trans, .ports, .ingress, .route, .mailboxes] := by
  unfold State.startFlip
  dsimp -proj only
  refine .ite (respond_moves ..).mono ?_
  refine .ite (respond_moves ..).mono ?_
  refine .ite (respond_moves ..).mono ?_
  exact .ite (respond_moves ..).mono ((setRoute_moves _ _).mono.then (modBank_moves ..)
      |>.foldl (fun s n => (sendCtrl_moves ..).mono) |>.then (tryFlip_moves ..))

theorem execRouteFlip_answers (slice : Fin 512) (tag : Word32) (memberMask : Word64) (s : State) :
    s.Answers (execRouteFlip slice tag memberMask s) [.out, .regs, .trans, .ports, .ingress, .route, .mailboxes] := by
  unfold execRouteFlip
  split
  · rename_i heq
    refine State.Moves.answers (.ofPair heq ((take_moves ..).mono)) ?_
    exact .next .refl
  · rename_i heq
    refine State.Moves.answers (.ofPair heq ((take_moves ..).mono)) ?_
    exact .next (startFlip_moves ..)

/-! ### The operations of Machine/Services.lean -/

theorem execQuant_answers (q : Nat) (count : Word32) (s : State) :
    s.Answers (execQuant q count s) [.out, .free, .regs, .power, .mem, .xlate, .queue, .trans, .ports, .ingress, .work, .dirtyLogs,
        .mailboxes, .host, .hostReads, .keys] := by
  unfold execQuant
  exact .next ((svcPostDesc_moves ..).mono.then (settle_moves ..))

theorem execLowrank_answers (q : Nat) (count : Word32) (s : State) :
    s.Answers (execLowrank q count s) [.out, .free, .regs, .power, .mem, .xlate, .queue, .trans, .ports, .ingress, .work, .dirtyLogs,
        .mailboxes, .host, .hostReads, .keys] := by
  unfold execLowrank
  exact .next ((svcPostDesc_moves ..).mono.then (settle_moves ..))

theorem execOptstep_answers (q : Nat) (count : Word32) (s : State) :
    s.Answers (execOptstep q count s) [.out, .free, .regs, .power, .mem, .xlate, .queue, .trans, .ports, .ingress, .work, .dirtyLogs,
        .mailboxes, .host, .hostReads, .keys] := by
  unfold execOptstep
  exact .next ((svcPostDesc_moves ..).mono.then (settle_moves ..))

theorem execCkpt_answers (q : Nat) (count : Word32) (s : State) :
    s.Answers (execCkpt q count s) [.out, .free, .regs, .power, .mem, .xlate, .queue, .trans, .ports, .ingress, .work, .dirtyLogs,
        .mailboxes, .host, .hostReads, .keys] := by
  unfold execCkpt
  exact .next ((svcPostDesc_moves ..).mono.then (settle_moves ..))

theorem execRestore_answers (q : Nat) (count : Word32) (s : State) :
    s.Answers (execRestore q count s) [.out, .free, .regs, .power, .mem, .xlate, .queue, .trans, .ports, .ingress, .work, .dirtyLogs,
        .mailboxes, .host, .hostReads, .keys] := by
  unfold execRestore
  exact .next ((svcPostDesc_moves ..).mono.then (settle_moves ..))

theorem execServiceStart_answers (s : State) :
    s.Answers (execServiceStart s) [.out, .free, .regs, .power, .mem, .xlate, .queue, .trans, .ports, .ingress, .work, .dirtyLogs,
        .mailboxes, .host, .hostReads, .keys] := by
  unfold execServiceStart
  split
  · exact .next .refl
  · exact .next ((setWork_moves _ _).mono.then (svcStart_moves ..) |>.then (settle_moves ..))

theorem execServicePiece_answers (q : Nat) (count : Word32) (piece : Nat) (host : List MemCell) (s : State) :
    s.Answers (execServicePiece q count piece host s) [.out, .free, .regs, .power, .mem, .xlate, .queue, .trans, .ports, .ingress,
        .work, .dirtyLogs, .mailboxes, .host, .hostReads, .keys] := by
  unfold execServicePiece
  split
  · exact .next .refl
  · refine .ite (.next .refl) ?_
    exact .ite (.next ((streamPump_moves ..).mono.then (settle_moves ..))) (.next ((runPiece_moves ..).mono.then (settle_moves ..)))

theorem execLowrankStep_answers (q : Nat) (count : Word32) (host : List MemCell) (s : State) :
    s.Answers (execLowrankStep q count host s) [.out, .free, .regs, .power, .mem, .xlate, .queue, .trans, .ports, .ingress, .work,
        .dirtyLogs, .mailboxes, .host, .hostReads, .keys] := by
  unfold execLowrankStep
  split
  · exact .next .refl
  · exact .ite (.next ((lowStep_moves ..).mono.then (settle_moves ..))) (.next .refl)

theorem pollGate_moves (s : State) (q : Nat) (count : Word32) (host : List MemCell) (p : Piece) :
    s.Moves (s.pollGate q count host p) [.out, .free, .regs, .power, .mem, .xlate, .queue, .trans, .work, .dirtyLogs, .host,
        .hostReads] := by
  unfold State.pollGate
  split
  · exact .refl
  · split
    · rename_i heq
      refine State.Moves.trans (.ofPair heq ((svcRead_moves ..).mono)) ?_
      refine .ite (modSvc_moves ..).mono ?_
      dsimp -proj only
      refine .then ?_ (modSvc_moves ..)
      exact .ite .refl (bump_moves ..).mono
    · rename_i heq
      refine State.Moves.trans (.ofPair heq ((svcRead_moves ..).mono)) ?_
      exact (failSvc_moves ..).mono
    · rename_i heq
      refine State.Moves.trans (.ofPair heq ((svcRead_moves ..).mono)) ?_
      exact .refl

theorem execGatePoll_answers (cluster : Fin 8) (host : List MemCell) (s : State) :
    s.Answers (execGatePoll cluster host s) [.out, .free, .regs, .power, .mem, .xlate, .queue, .trans, .ports, .ingress, .work,
        .dirtyLogs, .mailboxes, .host, .hostReads, .keys] := by
  unfold execGatePoll
  refine .next ?_
  refine .then ?_ (settle_moves ..)
  refine .foldl .refl (fun s v => ?_)
  refine .ite ?_ .refl
  exact .foldl .refl (fun s p => (pollGate_moves ..).mono)

theorem execGateDeadline_answers (q : Nat) (count : Word32) (s : State) :
    s.Answers (execGateDeadline q count s) [.regs, .xlate, .queue, .trans, .work] := by
  unfold execGateDeadline
  split
  · exact .next .refl
  · exact .ite (.next (endSvc_moves ..)) (.next .refl)

/-! ### The operations of Safety.lean -/

theorem taken_moves (s : State) (slice : Nat) (tag : Word32) (op : Nat) :
    s.Moves (s.taken slice tag op) [.regs, .mailboxes] := by
  unfold State.taken
  exact take_moves ..

theorem posted_moves (s : State) (q : Nat) (count : Word32) (kind : OpKind) (d : Started) (c : Conn) :
    s.Moves (s.posted q count kind d c) [.queue, .trans] := by
  unfold State.posted
  exact (post_moves ..).mono.then (modStarted_moves ..)

/-! ### The operations of Tests/Slice0.lean -/

theorem roleAccepted_moves (s : State) (role : Nat) (epoch : Word32) :
    s.Moves (s.roleAccepted role epoch) [.last, .trans] := by
  unfold State.roleAccepted
  exact (setRole_moves ..).then (setLast_moves _ _)

theorem enumerateFar_moves (s : State) (devices0 : List CxlDevice) (devices1 : List CxlDevice) :
    s.Moves (s.enumerateFar devices0 devices1) [.mem] := by
  unfold State.enumerateFar
  exact setMem_moves _ _

theorem installRoot_moves (s : State) (digest : BitVec 384) :
    s.Moves (s.installRoot digest) [.keys] := by
  unfold State.installRoot
  exact setKeys_moves _ _

/-! ## Every command -/

/-- A command answers a next state, whatever it is, and moves every part but the queue of commands. -/
theorem exec_answers (c : Instr) (s : State) :
    s.Answers (exec c s) [.out, .free, .regs, .time, .board, .power, .boot, .fw, .last, .mem, .xlate, .queue, .trans, .ports, .filters,
      .ingress, .bypass, .route, .work, .slices, .dirtyLogs, .mailboxes, .host, .hostReads, .keys, .checks] := by
  cases c with
  | qdbDoorbell f q count => exact (execQdbDoorbell_answers f q count s).mono
  | completionDoorbell f q count arm => exact (execCompletionDoorbell_answers f q count arm s).mono
  | qdbPush f q bytes => exact (execQdbPush_answers f q bytes s).mono
  | queueEnable f q => exact (execQueueEnable_answers f q s).mono
  | queueDisable f q => exact (execQueueDisable_answers f q s).mono
  | queueResume f q => exact (execQueueResume_answers f q s).mono
  | descriptorFetch q => exact (execDescriptorFetch_answers q s).mono
  | descriptorArrival q count res => exact (execDescriptorArrival_answers q count res s).mono
  | descriptorRefetch q count => exact (execDescriptorRefetch_answers q count s).mono
  | descriptorStart q => exact (execDescriptorStart_answers q s).mono
  | completionDelivery q => exact (execCompletionDelivery_answers q s).mono
  | completionRecord cq => exact (execCompletionRecord_answers cq s).mono
  | eventRecord slice => exact (execEventRecord_answers slice s).mono
  | msixModerationTimer q => exact (execMsixModerationTimer_answers q s).mono
  | msixUnmask f vector => exact (execMsixUnmask_answers f vector s).mono
  | nop q count => exact (execNop_answers q count s).mono
  | wait q count => exact (execWait_answers q count s).mono
  | waitRelease q => exact (execWaitRelease_answers q s).mono
  | waitDeadline q => exact (execWaitDeadline_answers q s).mono
  | waitPoll q => exact (execWaitPoll_answers q s).mono
  | laceAdd q count => exact (execLaceAdd_answers q count s).mono
  | laceCounterChange => exact (execLaceCounterChange_answers s).mono
  | slcLaceValWrite f slice value => exact (execSlcLaceValWrite_answers f slice value s).mono
  | write q count => exact (execWrite_answers q count s).mono
  | writeInc q count => exact (execWriteInc_answers q count s).mono
  | read q count => exact (execRead_answers q count s).mono
  | readSegmentSend q count => exact (execReadSegmentSend_answers q count s).mono
  | fetchAdd q count => exact (execFetchAdd_answers q count s).mono
  | cmpSwap q count => exact (execCmpSwap_answers q count s).mono
  | copy q count => exact (execCopy_answers q count s).mono
  | copyUnitDone q count unit src => exact (execCopyUnitDone_answers q count unit src s).mono
  | scan q count => exact (execScan_answers q count s).mono
  | coll q count => exact (execColl_answers q count s).mono
  | quant q count => exact (execQuant_answers q count s).mono
  | lowrank q count => exact (execLowrank_answers q count s).mono
  | lowrankStep q count host => exact (execLowrankStep_answers q count host s).mono
  | optstep q count => exact (execOptstep_answers q count s).mono
  | ckpt q count => exact (execCkpt_answers q count s).mono
  | restore q count => exact (execRestore_answers q count s).mono
  | rawSend q count => exact (execRawSend_answers q count s).mono
  | rawRecv q count => exact (execRawRecv_answers q count s).mono
  | serviceStart => exact (execServiceStart_answers s).mono
  | servicePiece q count piece host => exact (execServicePiece_answers q count piece host s).mono
  | gatePoll cluster host => exact (execGatePoll_answers cluster host s).mono
  | gateDeadline q count => exact (execGateDeadline_answers q count s).mono
  | reductionGranule cluster unit checks => exact (execReductionGranule_answers cluster unit checks s).mono
  | gatherMultiplyBlock group block cluster checks => exact (execGatherMultiplyBlock_answers group block cluster checks s).mono
  | frameReceive port frame => exact (execFrameReceive_answers port frame s).mono
  | data a => exact (execData_answers a s).mono
  | readReq a => exact (execReadReq_answers a s).mono
  | readResp a => exact (execReadResp_answers a s).mono
  | atomicReq a => exact (execAtomicReq_answers a s).mono
  | atomicResp a => exact (execAtomicResp_answers a s).mono
  | ack a => exact (execAck_answers a s).mono
  | nak a => exact (execNak_answers a s).mono
  | probe a => exact (execProbe_answers a s).mono
  | ackRecord cluster => exact (execAckRecord_answers cluster s).mono
  | ackDelayTimer conn => exact (execAckDelayTimer_answers conn s).mono
  | retransmitTimer conn => exact (execRetransmitTimer_answers conn s).mono
  | nakRetryTimer conn psn => exact (execNakRetryTimer_answers conn psn s).mono
  | pacingWheelVisit entry cipherMismatches => exact (execPacingWheelVisit_answers entry cipherMismatches s).mono
  | egressFrameSelect port => exact (execEgressFrameSelect_answers port s).mono
  | throttleEval port => exact (execThrottleEval_answers port s).mono
  | contextFetchDone conn res => exact (execContextFetchDone_answers conn res s).mono
  | evictionCommit conn => exact (execEvictionCommit_answers conn s).mono
  | goneExpiry conn => exact (execGoneExpiry_answers conn s).mono
  | connectReq a body => exact (execConnectReq_answers a body s).mono
  | connectAck a accIndex accInc listenId accPsn => exact (execConnectAck_answers a accIndex accInc listenId accPsn s).mono
  | connectRefuse a initIndex initInc listenId status reason => exact (execConnectRefuse_answers a initIndex initInc listenId status reason s).mono
  | ctrlRepeatTimer seq => exact (execCtrlRepeatTimer_answers seq s).mono
  | ctrlAck a seq node => exact (execCtrlAck_answers a seq node s).mono
  | close a sIndex sInc rIndex rInc => exact (execClose_answers a sIndex sInc rIndex rInc s).mono
  | closeAck a sIndex sInc rIndex rInc => exact (execCloseAck_answers a sIndex sInc rIndex rInc s).mono
  | pause a pauseUs serial => exact (execPause_answers a pauseUs serial s).mono
  | resume a serial aborted => exact (execResume_answers a serial aborted s).mono
  | pauseExpiry peer => exact (execPauseExpiry_answers peer s).mono
  | sbtFeedSend => exact (execSbtFeedSend_answers s).mono
  | sbtFeed a rtts t => exact (execSbtFeed_answers a rtts t s).mono
  | groupReg a name count rank dereg digest t => exact (execGroupReg_answers a name count rank dereg digest t s).mono
  | groupRegAns a name status epoch t => exact (execGroupRegAns_answers a name status epoch t s).mono
  | epoch a name epoch t => exact (execEpoch_answers a name epoch t s).mono
  | hsUp a seq sig mism rank => exact (execHsUp_answers a seq sig mism rank s).mono
  | hsDown a seq mism rank => exact (execHsDown_answers a seq mism rank s).mono
  | hsCount a seq sig count => exact (execHsCount_answers a seq sig count s).mono
  | credit a seq stage credits slot => exact (execCredit_answers a seq stage credits slot s).mono
  | mismatch a seq rank => exact (execMismatch_answers a seq rank s).mono
  | abort a seq status rank => exact (execAbort_answers a seq status rank s).mono
  | collWatchdog group => exact (execCollWatchdog_answers group s).mono
  | rtBegin a epoch mgrEpoch roleEpoch t => exact (execRtBegin_answers a epoch mgrEpoch roleEpoch t s).mono
  | rtBeginAck a epoch full t => exact (execRtBeginAck_answers a epoch full t s).mono
  | rtLoad a epoch items t => exact (execRtLoad_answers a epoch items t s).mono
  | rtCommit a epoch crc t => exact (execRtCommit_answers a epoch crc t s).mono
  | rtReady a epoch status t => exact (execRtReady_answers a epoch status t s).mono
  | rtFlip a epoch t => exact (execRtFlip_answers a epoch t s).mono
  | rtFlipAck a epoch t => exact (execRtFlipAck_answers a epoch t s).mono
  | rtAbort a epoch t => exact (execRtAbort_answers a epoch t s).mono
  | drainIntervalEnd => exact (execDrainIntervalEnd_answers s).mono
  | reHome a rIndex rInc oldCoord mIndex oldInc newCoord newInc => exact (execReHome_answers a rIndex rInc oldCoord mIndex oldInc newCoord newInc s).mono
  | reHomeAck a rIndex rInc => exact (execReHomeAck_answers a rIndex rInc s).mono
  | rekey a keyId => exact (execRekey_answers a keyId s).mono
  | rekeyAck a status => exact (execRekeyAck_answers a status s).mono
  | atsCompletion id pages res => exact (execAtsCompletion_answers id pages res s).mono
  | atsInvalidate f pasid iova length => exact (execAtsInvalidate_answers f pasid iova length s).mono
  | pageResponse f prg code => exact (execPageResponse_answers f prg code s).mono
  | faultWaitDeadline waiter => exact (execFaultWaitDeadline_answers waiter s).mono
  | atsEnableClear f => exact (execAtsEnableClear_answers f s).mono
  | revokeDrainDone slot => exact (execRevokeDrainDone_answers slot s).mono
  | revokeRecordExpiry => exact (execRevokeRecordExpiry_answers s).mono
  | flushReadCompletion id res => exact (execFlushReadCompletion_answers id res s).mono
  | eyeletLoad f requester offset length => exact (execEyeletLoad_answers f requester offset length s).mono
  | eyeletStore f requester offset bytes => exact (execEyeletStore_answers f requester offset bytes s).mono
  | eyeletLoadLimit id => exact (execEyeletLoadLimit_answers id s).mono
  | scrubBurst codewords => exact (execScrubBurst_answers codewords s).mono
  | memScrubCtrlWrite f value => exact (execMemScrubCtrlWrite_answers f value s).mono
  | memErrlogData1Read f => exact (execMemErrlogData1Read_answers f s).mono
  | farAccessTimeout id => exact (execFarAccessTimeout_answers id s).mono
  | cxlLinkDown port => exact (execCxlLinkDown_answers port s).mono
  | cxlLinkUp port lanes devices => exact (execCxlLinkUp_answers port lanes devices s).mono
  | linkHit port => exact (execLinkHit_answers port s).mono
  | linkDown port => exact (execLinkDown_answers port s).mono
  | linkUp port interface laneMap polarity => exact (execLinkUp_answers port interface laneMap polarity s).mono
  | autonegTimeout port => exact (execAutonegTimeout_answers port s).mono
  | interfaceWrite f port value => exact (execInterfaceWrite_answers f port value s).mono
  | retrain f port => exact (execRetrain_answers f port s).mono
  | forceDown f port on => exact (execForceDown_answers f port on s).mono
  | pfcFrame port mask quanta => exact (execPfcFrame_answers port mask quanta s).mono
  | pfcPauseExpiry port priority => exact (execPfcPauseExpiry_answers port priority s).mono
  | pfcRefreshTimer port priority => exact (execPfcRefreshTimer_answers port priority s).mono
  | hello port coord peerPort weltEnable sendStamp echoStamp nonce => exact (execHello_answers port coord peerPort weltEnable sendStamp echoStamp nonce s).mono
  | helloTimer port => exact (execHelloTimer_answers port s).mono
  | weltHelloTimeout port => exact (execWeltHelloTimeout_answers port s).mono
  | status port ackSeqs credits => exact (execStatus_answers port ackSeqs credits s).mono
  | statusTimer port => exact (execStatusTimer_answers port s).mono
  | weltNak port lane seq => exact (execWeltNak_answers port lane seq s).mono
  | weltResendTimer port lane => exact (execWeltResendTimer_answers port lane s).mono
  | weltGiveUp port => exact (execWeltGiveUp_answers port s).mono
  | time port t1 t1p t2p => exact (execTime_answers port t1 t1p t2p s).mono
  | timeSendTimer port => exact (execTimeSendTimer_answers port s).mono
  | bypassReqPin pin level => exact (execBypassReqPin_answers pin level s).mono
  | bypassDrainDone => exact (execBypassDrainDone_answers s).mono
  | bypassSwitchSettled => exact (execBypassSwitchSettled_answers s).mono
  | memArbCommit f => exact (execMemArbCommit_answers f s).mono
  | prtSchedCommit f port => exact (execPrtSchedCommit_answers f port s).mono
  | mbxDoorbell f slice count ok reqs => exact (execMbxDoorbell_answers f slice count ok reqs s).mono
  | mbxEnable f slice value => exact (execMbxEnable_answers f slice value s).mono
  | mbxResponse slice ok => exact (execMbxResponse_answers slice ok s).mono
  | mbxInfo slice tag => exact (execMbxInfo_answers slice tag s).mono
  | lastWrite slice tag slot offset buffer crc => exact (execLastWrite_answers slice tag slot offset buffer crc s).mono
  | lastCheck slice tag => exact (execLastCheck_answers slice tag s).mono
  | lastActivate slice tag => exact (execLastActivate_answers slice tag s).mono
  | lastPauseStart => exact (execLastPauseStart_answers s).mono
  | lastResume => exact (execLastResume_answers s).mono
  | roleSet slice tag role epoch => exact (execRoleSet_answers slice tag role epoch s).mono
  | fwBegin slice tag kind length => exact (execFwBegin_answers slice tag kind length s).mono
  | fwWrite slice tag offset length buffer crc => exact (execFwWrite_answers slice tag offset length buffer crc s).mono
  | fwCheck slice tag => exact (execFwCheck_answers slice tag s).mono
  | fwActivate slice tag driverConfirm => exact (execFwActivate_answers slice tag driverConfirm s).mono
  | handoverSwitch => exact (execHandoverSwitch_answers s).mono
  | cellComplexSwitch cluster => exact (execCellComplexSwitch_answers cluster s).mono
  | fwConfirm slice tag => exact (execFwConfirm_answers slice tag s).mono
  | healthConfirm => exact (execHealthConfirm_answers s).mono
  | healthWindowExpiry selfTestFailed handBack => exact (execHealthWindowExpiry_answers selfTestFailed handBack s).mono
  | fwStatus slice tag => exact (execFwStatus_answers slice tag s).mono
  | fwWatchdogExpiry => exact (execFwWatchdogExpiry_answers s).mono
  | eyeletMap slice tag p => exact (execEyeletMap_answers slice tag p s).mono
  | eyeletUnmap slice tag f granule => exact (execEyeletUnmap_answers slice tag f granule s).mono
  | eyeletRead slice tag f granule => exact (execEyeletRead_answers slice tag f granule s).mono
  | rangeRead slice tag slot => exact (execRangeRead_answers slice tag slot s).mono
  | queueCreate slice tag p => exact (execQueueCreate_answers slice tag p s).mono
  | queueDestroy slice tag q => exact (execQueueDestroy_answers slice tag q s).mono
  | regionRegister slice tag p => exact (execRegionRegister_answers slice tag p s).mono
  | regionRevoke slice tag slot incarnation => exact (execRegionRevoke_answers slice tag slot incarnation s).mono
  | tenantSet slice tag target tenant => exact (execTenantSet_answers slice tag target tenant s).mono
  | connResume slice tag conn => exact (execConnResume_answers slice tag conn s).mono
  | cyqPortSet slice tag port => exact (execCyqPortSet_answers slice tag port s).mono
  | connListen slice tag p => exact (execConnListen_answers slice tag p s).mono
  | connCreate slice tag p => exact (execConnCreate_answers slice tag p s).mono
  | connDestroy slice tag conn => exact (execConnDestroy_answers slice tag conn s).mono
  | grpQuotaSet slice tag src dst amount => exact (execGrpQuotaSet_answers slice tag src dst amount s).mono
  | groupCreate slice tag p => exact (execGroupCreate_answers slice tag p s).mono
  | groupDestroy slice tag handle => exact (execGroupDestroy_answers slice tag handle s).mono
  | collAbort slice tag handle => exact (execCollAbort_answers slice tag handle s).mono
  | memHistoryRead slice tag bufferOk => exact (execMemHistoryRead_answers slice tag bufferOk s).mono
  | farRescan slice tag devices0 devices1 => exact (execFarRescan_answers slice tag devices0 devices1 s).mono
  | filterSet slice tag index p => exact (execFilterSet_answers slice tag index p s).mono
  | filterClear slice tag index => exact (execFilterClear_answers slice tag index s).mono
  | filterRead slice tag index => exact (execFilterRead_answers slice tag index s).mono
  | chainBypass slice tag on => exact (execChainBypass_answers slice tag on s).mono
  | routeWrite slice tag items => exact (execRouteWrite_answers slice tag items s).mono
  | routeRead slice tag bank chain first count => exact (execRouteRead_answers slice tag bank chain first count s).mono
  | routeFlip slice tag memberMask => exact (execRouteFlip_answers slice tag memberMask s).mono
  | sliceBind slice tag target port fn pasid => exact (execSliceBind_answers slice tag target port fn pasid s).mono
  | sliceUnbind slice tag target => exact (execSliceUnbind_answers slice tag target s).mono
  | sliceReset slice tag target => exact (execSliceReset_answers slice tag target s).mono
  | sliceResetDrainDone target => exact (execSliceResetDrainDone_answers target s).mono
  | dirtyStart slice tag target iovaBase pages bitmap0 bitmap1 bytes => exact (execDirtyStart_answers slice tag target iovaBase pages bitmap0 bitmap1 bytes s).mono
  | dirtyStop slice tag target => exact (execDirtyStop_answers slice tag target s).mono
  | dirtySync slice tag target => exact (execDirtySync_answers slice tag target s).mono
  | dirtyFlush => exact (execDirtyFlush_answers s).mono
  | sliceFreeze slice tag target => exact (execSliceFreeze_answers slice tag target s).mono
  | freezeDrained target => exact (execFreezeDrained_answers target s).mono
  | sliceSave slice tag target length bufferOk => exact (execSliceSave_answers slice tag target length bufferOk s).mono
  | sliceRestore slice tag target image => exact (execSliceRestore_answers slice tag target image s).mono
  | sliceThaw slice tag target => exact (execSliceThaw_answers slice tag target s).mono
  | heartbeat f slice value => exact (execHeartbeat_answers f slice value s).mono
  | heartbeatExpiry slice => exact (execHeartbeatExpiry_answers slice s).mono
  | flr f => exact (execFlr_answers f s).mono
  | keyInfo slice tag t => exact (execKeyInfo_answers slice tag t s).mono
  | keyErase slice tag owner t => exact (execKeyErase_answers slice tag owner t s).mono
  | keyRootSet slice tag digest => exact (execKeyRootSet_answers slice tag digest s).mono
  | keyImport slice tag parent t blob => exact (execKeyImport_answers slice tag parent t blob s).mono
  | keyDerive slice tag parent t label context keyId => exact (execKeyDerive_answers slice tag parent t label context keyId s).mono
  | keyProvision port session owner slot keyId key => exact (execKeyProvision_answers port session owner slot keyId key s).mono
  | connRekey slice tag conn slot => exact (execConnRekey_answers slice tag conn slot s).mono
  | ownerEnroll slice tag ecdsa hss transfer => exact (execOwnerEnroll_answers slice tag ecdsa hss transfer s).mono
  | guardCipherOp engine disagree => exact (execGuardCipherOp_answers engine disagree s).mono
  | drbgHealthFail => exact (execDrbgHealthFail_answers s).mono
  | drbgRetest pass => exact (execDrbgRetest_answers pass s).mono
  | spdmRequest port session req => exact (execSpdmRequest_answers port session req s).mono
  | attestationReport port nonce mask => exact (execAttestationReport_answers port nonce mask s).mono
  | lmsTreeReady => exact (execLmsTreeReady_answers s).mono
  | hostLinkRetrain port speed width => exact (execHostLinkRetrain_answers port speed width s).mono
  | hostLinkEnd port cause => exact (execHostLinkEnd_answers port cause s).mono
  | hostLinkReturn port speed width flit => exact (execHostLinkReturn_answers port speed width flit s).mono
  | busMasterDisable f => exact (execBusMasterDisable_answers f s).mono
  | ideIntegrityFail port stream => exact (execIdeIntegrityFail_answers port stream s).mono
  | atomicopRequest f tlpTag => exact (execAtomicopRequest_answers f tlpTag s).mono
  | inputPowerApply => exact (execInputPowerApply_answers s).mono
  | inputUndervoltage => exact (execInputUndervoltage_answers s).mono
  | inputFault reversed => exact (execInputFault_answers reversed s).mono
  | modResetNAssert => exact (execModResetNAssert_answers s).mono
  | modResetNRelease => exact (execModResetNRelease_answers s).mono
  | pldmRequest req => exact (execPldmRequest_answers req s).mono
  | boardPowerLimitWrite watts => exact (execBoardPowerLimitWrite_answers watts s).mono
  | setEndpointId eid => exact (execSetEndpointId_answers eid s).mono
  | powerSample watts => exact (execPowerSample_answers watts s).mono
  | thermalSample junction hbm => exact (execThermalSample_answers junction hbm s).mono
  | thermalComparator junction hbm => exact (execThermalComparator_answers junction hbm s).mono
  | pwrBrakeAssert => exact (execPwrBrakeAssert_answers s).mono
  | pwrBrakeRelease => exact (execPwrBrakeRelease_answers s).mono
  | clusterLightSleep cluster => exact (execClusterLightSleep_answers cluster s).mono
  | clusterDeepSleep cluster => exact (execClusterDeepSleep_answers cluster s).mono
  | clusterWake cluster => exact (execClusterWake_answers cluster s).mono
  | hbmSelfRefresh => exact (execHbmSelfRefresh_answers s).mono
  | eventTimerFire slice index => exact (execEventTimerFire_answers slice index s).mono
  | slcTimerDeadlineWrite f slice value => exact (execSlcTimerDeadlineWrite_answers f slice value s).mono
  | timSetWrite f value => exact (execTimSetWrite_answers f value s).mono
  | timSlewWrite f value => exact (execTimSlewWrite_answers f value s).mono
  | timFreqWrite f value => exact (execTimFreqWrite_answers f value s).mono
  | ppsInEdge => exact (execPpsInEdge_answers s).mono
  | ppsOutSecond => exact (execPpsOutSecond_answers s).mono
  | timeSourceLoss => exact (execTimeSourceLoss_answers s).mono
  | timeCaptureEdge pin => exact (execTimeCaptureEdge_answers pin s).mono
  | pinShortCheck output levelOk => exact (execPinShortCheck_answers output levelOk s).mono
  | pinFaultRetry output levelOk => exact (execPinFaultRetry_answers output levelOk s).mono
  | slcCheckValWrite f slice value => exact (execSlcCheckValWrite_answers f slice value s).mono
  | registerWrite f offset width value => exact (execRegisterWrite_answers f offset width value s).mono
  | registerReadClear f offset width => exact (execRegisterReadClear_answers f offset width s).mono
  | hostReadCompletion id res => exact (execHostReadCompletion_answers id res s).mono
  | pcieCompletionTimeout id => exact (execPcieCompletionTimeout_answers id s).mono
  | dataLinkLayerAck port count => exact (execDataLinkLayerAck_answers port count s).mono
  | priEnableChange f enable => exact (execPriEnableChange_answers f enable s).mono
  | vfEnableChange port enable numVfs => exact (execVfEnableChange_answers port enable numVfs s).mono
  | class7TokensRefill port => exact (execClass7TokensRefill_answers port s).mono
  | linkSignalLoss port dark => exact (execLinkSignalLoss_answers port dark s).mono
  | sbtBucketRoll => exact (execSbtBucketRoll_answers s).mono
  | firmwareResetDone => exact (execFirmwareResetDone_answers s).mono

end Sys2Proof.Machine
end

section
/-! PROOFS. The machine as a whole. -/

set_option Elab.async false

namespace Sys2Proof.Machine

/-- A step moves the state that is left of the queue of commands; a tick moves the state itself. -/
theorem step_moves {s t : State} (h : step s = .next t) : ∃ q ps, State.Moves { s with pending := q } t ps := by
  unfold step at h
  split at h
  · cases h
    exact ⟨s.pending, _, tickTime_moves s⟩
  · rename_i c rest _
    obtain ⟨u, hu, hmoves⟩ := exec_answers c { s with pending := rest }
    rw [hu] at h
    cases h
    exact ⟨rest, _, hmoves⟩

end Sys2Proof.Machine

open Sys2Proof Sys2Proof.Machine

/-- Settles O58: every operation writes memory through cells that stay canonical. -/
theorem memoryStaysCanonical : Obligations.MemoryStaysCanonical := by
  intro s t hs h
  obtain ⟨q, ps, hmoves⟩ := step_moves h
  exact hmoves.canon hs

/-- Settles O59: fuses are only blown, owner banks only added, and an index of the top tree is given up only for a later one. -/
theorem fusedVersionsNeverFall : Obligations.FusedVersionsNeverFall := by
  intro s t h
  obtain ⟨q, ps, hmoves⟩ := step_moves h
  obtain ⟨hstage, hfw, hlast, howners, hspare, htop⟩ := hmoves.boot
  exact ⟨hstage, hfw, hlast, howners, hspare, htop⟩

/-- Settles O60: no operation of a command reaches the queue, and what it sends is appended. -/
theorem commandsLeaveTheQueue : Obligations.CommandsLeaveTheQueue := by
  intro c s t h
  obtain ⟨u, hu, hmoves⟩ := exec_answers c s
  rw [hu] at h
  cases h
  exact ⟨hmoves.frame .pending (by decide), hmoves.sent⟩

/-- Settles O57: each command's meaning ends in a next state. -/
theorem noCommandStopsTheMachine : Obligations.NoCommandStopsTheMachine := by
  intro c s
  obtain ⟨t, ht, -⟩ := exec_answers c s
  exact ⟨t, ht⟩

/-- Settles O1: the front command is the one that `step` takes. -/
theorem stepRunsFrontCommand : Obligations.StepRunsFrontCommand := by
  intro c rest s
  rfl
end

section
/-! PROOFS. What the tick and reset leave. -/

set_option Elab.async false

namespace Sys2Proof.Machine

/-! ## The tick -/

variable (s : State)

/-- Pins that are driven change nothing but what was sent. -/
theorem drives_moves {α : Type} (l : List α) (f : α → Nat) (h : Bool) :
    s.Moves (l.foldl (fun s x => s.drive (f x) h) s) [.out] :=
  .foldl .refl fun s _ => drive_moves s ..

/-- PPS_OUT falls when its time is over. -/
theorem lowerPins_time :
    s.lowerPins.time = { s.time with ppsHighUntil := s.time.ppsHighUntil.filter (s.time.now < ·) } := by
  unfold State.lowerPins
  dsimp only
  rw [(drives_moves ..).frame .time (by decide)]
  cases he : s.time.ppsHighUntil with
  | none => exact congrArg (fun p => { s.time with ppsHighUntil := p }) he
  | some e =>
    by_cases hd : e ≤ s.time.now
    · simp only [Option.any_some, hd, decide_true, if_true]
      rw [(drive_moves ..).frame .time (by decide)]
      simp [Option.filter, hd]
    · simp only [Option.any_some, hd, decide_false, Bool.false_eq_true, if_false]
      have hf : Option.filter (fun e => decide (s.time.now < e)) (some e) = s.time.ppsHighUntil := by
        rw [he]; simp [Option.filter, Nat.not_le.1 hd]
      rw [hf]

theorem lowerPins_pulseUntil : s.lowerPins.board.pulseUntil = s.board.pulseUntil.filter fun p => s.time.now < p.2 := by
  unfold State.lowerPins
  dsimp only
  rw [(drives_moves ..).frame .board (by decide)]
  split
  · exact congrArg (fun b : BoardState => b.pulseUntil.filter fun p => s.time.now < p.2) ((drive_moves ..).frame .board (by decide))
  · rfl

theorem faultPins_pulseUntil : s.faultPins.board.pulseUntil = s.board.pulseUntil := by
  unfold State.faultPins
  split
  · rfl
  · dsimp only
    split
    · rfl
    · rw [(drives_moves ..).frame .board (by decide)]; rfl

theorem faultPins_of_noPins (h : s.pinsWith 6 = []) : s.faultPins = s := by
  simp [State.faultPins, h]

theorem pinsWith_eq {s t : State} (h : t.last = s.last) (n : Nat) : t.pinsWith n = s.pinsWith n := by
  simp [State.pinsWith, h]

/-- An entry that stays in overflow lies beyond one period. -/
theorem moveOverflow_bound : ∀ w ∈ s.moveOverflow.trans.wheel, w.overflow = true → s.time.now / 64 * 64 + 262144 < w.nextAt := by
  intro w hw ho
  obtain ⟨v, -, rfl⟩ := List.mem_map.1 hw
  split at ho
  · simp at ho
  · rename_i hv
    rw [if_neg hv]
    simp only [Bool.and_eq_true, decide_eq_true_eq, not_and, Nat.not_le] at hv
    exact hv ho

theorem mailMessages_of_none {s : State} (h : ∀ m ∈ s.mailboxes, m.2.intAt = none) : s.mailMessages = s := by
  have hnil : s.mailboxes.filter (fun m => m.2.intAt.any s.due) = [] :=
    List.filter_eq_nil_iff.2 fun m hm => by simp [h m hm]
  simp only [State.mailMessages, hnil, List.foldl_nil]

theorem runFirmware_fw : s.runFirmware.fw = { s.fw with ranNs := s.runFirmware.fw.ranNs } := by
  unfold State.runFirmware
  split <;> rfl

/-- The tick where no mailbox has a message to send. -/
theorem tickTime_of_noMessage (hp : s.board.inputPower = true) (h : ∀ m ∈ s.mailboxes, m.2.intAt = none) :
    s.tickTime = s.advanceTime.moveOverflow.lowerPins.faultPins.runFirmware.noteWork := by
  have hbox : s.advanceTime.moveOverflow.lowerPins.faultPins.runFirmware.mailboxes = s.mailboxes := by
    have hmoves := ((advanceTime_moves s).mono.then (moveOverflow_moves _) |>.then (lowerPins_moves _) |>.then (faultPins_moves _)
      |>.then (runFirmware_moves _) : s.Moves _ [.out, .free, .time, .board, .fw, .trans])
    exact hmoves.frame .mailboxes (by decide)
  rw [State.tickTime, if_pos hp, mailMessages_of_none (by rwa [hbox])]

/-! ## Reset -/

theorem reset_slice_active : (State.reset.slice 0).state = .active := by
  simp [State.slice, State.reset, vget]

theorem reset_slice_unbound {k : Fin 512} (h : k ≠ 0) : (State.reset.slice k).state = .unbound := by
  have hk : 0 ≠ k.val := fun he => h (Fin.ext he.symm)
  simp [State.slice, State.reset, vget, hk]

end Sys2Proof.Machine

open Sys2Proof Sys2Proof.Machine

/-- Settles O55: each part of the tick keeps what the parts before it have set. -/
theorem emptyQueueTicks : Obligations.EmptyQueueTicks := by
  intro s hq hm
  refine ⟨s.tickTime, by simp [step, hq, State.idle], fun hp => by simp [State.tickTime, hp], fun hp => ?_⟩
  rw [tickTime_of_noMessage s hp hm]
  set o := s.advanceTime.moveOverflow
  set l := o.lowerPins
  set f := l.faultPins
  have hso : s.Moves o [.time, .trans] := (advanceTime_moves s).mono.then (moveOverflow_moves _)
  have hol : o.Moves l [.time, .board, .out] := (lowerPins_moves o).mono
  have hlf : l.Moves f [.board, .out, .free] := (faultPins_moves l).mono
  have hft : f.Moves f.runFirmware.noteWork [.fw, .power] := (runFirmware_moves f).mono.then (noteWork_moves _)
  set t := f.runFirmware.noteWork
  have htime : t.time = { o.time with ppsHighUntil := o.time.ppsHighUntil.filter (o.time.now < ·) } :=
    (hft.frame .time (by decide)).trans ((hlf.frame .time (by decide)).trans (lowerPins_time o))
  have htrans : t.trans = o.trans := (hft.frame .trans (by decide)).trans
    ((hlf.frame .trans (by decide)).trans (hol.frame .trans (by decide)))
  have hpulse : t.board.pulseUntil = o.board.pulseUntil.filter fun p => o.time.now < p.2 := by
    rw [(hft.frame .board (by decide) : t.board = f.board), faultPins_pulseUntil l, lowerPins_pulseUntil o]
  refine ⟨by rw [htime]; rfl, by rw [htime]; rfl, ?_, ?_, ?_, ?_, ?_, ?_, ?_, ?_⟩
  · rw [hpulse, htime]
    intro p hp
    simpa using (List.mem_filter.1 hp).2
  · rw [htime]
    intro e he
    simpa using (Option.filter_eq_some_iff.1 he).2
  · have hpower : f.power = s.power := (hlf.frame .power (by decide)).trans
      ((hol.frame .power (by decide)).trans (hso.frame .power (by decide)))
    have hsleep : f.runFirmware.power = f.power := (runFirmware_moves f).frame .power (by decide)
    exact (congrArg PowerState.sleep (hsleep.trans hpower) : f.runFirmware.power.sleep = _)
  · rw [htrans, htime]
    exact moveOverflow_bound s.advanceTime
  · rw [htrans]; rfl
  · have hfw : f.fw = s.fw := (hlf.frame .fw (by decide)).trans ((hol.frame .fw (by decide)).trans (hso.frame .fw (by decide)))
    have htfw : t.fw = f.runFirmware.fw := (noteWork_moves _).frame .fw (by decide)
    rw [htfw, runFirmware_fw, hfw]
  · intro hpins
    have hlast : l.last = s.last := (hol.frame .last (by decide)).trans (hso.frame .last (by decide))
    have hf : f = l := faultPins_of_noPins l ((pinsWith_eq hlast 6).trans hpins)
    have hfree : l.freeCount = s.freeCount := (hol.frame .free (by decide)).trans (hso.frame .free (by decide))
    rw [(hft.frame .free (by decide) : t.freeCount = f.freeCount), hf, hfree]
  · exact (hso.mono.then hol |>.then hlf |>.then hft : s.Moves t [.time, .board, .power, .out, .trans, .fw, .free]).frame

/-- Settles O56: the state at reset is written out, but for the slices, of which only slice 0 is set. -/
theorem resetState : Obligations.ResetState := by
  refine ⟨rfl, memory_reset_wf, rfl, rfl, rfl, rfl, rfl, rfl, reset_slice_active, fun k hk => reset_slice_unbound hk, ?_, ?_⟩
  · intro r _
    rfl
  · decide
end

section
/-! SUPPORT. Queues after the operations on them. -/

set_option Elab.async false

namespace Sys2Proof.Machine

variable {s t : State} {q : Nat} {x : Queue}

/-- Lookups of queues read the queues alone. -/
theorem findQueue_congr (h : t.queue = s.queue) (n : Nat) : t.findQueue n = s.findQueue n := by
  simp [State.findQueue, h]

theorem findQueue_of_modQueue {f : Queue → Queue} (hx : s.findQueue q = some x) (hf : ∀ x, (f x).number = x.number := by intro; rfl) :
    (s.modQueue q f).findQueue q = some (f x) := by
  rw [findQueue_modQueue s q f hf, hx]; rfl

theorem findQueue_of_bar2 {f : Func} (h : s.bar2 f q = some x) : s.findQueue q = some x := by
  unfold State.bar2 at h
  split at h
  · split at h
    · cases h; assumption
    · cases h
  · cases h

@[simp] theorem findQueue_wakeCluster (c n : Nat) : (s.wakeCluster c).findQueue n = s.findQueue n :=
  findQueue_congr ((wakeCluster_moves s c).frame .queue (by decide)) n

@[simp] theorem findQueue_armWatch (k n : Nat) : (s.armWatch k).findQueue n = s.findQueue n :=
  findQueue_congr ((armWatch_moves s k).frame .queue (by decide)) n

@[simp] theorem findQueue_wakeAll (l : List Nat) (n : Nat) : (s.wakeAll l).findQueue n = s.findQueue n :=
  findQueue_congr ((wakeAll_moves s l).frame .queue (by decide)) n

theorem wakeCluster_awake {c : Nat} (hc : c < 8) : (s.wakeCluster c).awake c = true := by
  unfold State.wakeCluster
  split
  · assumption
  · simp [State.awake, State.setSleep, vget_vset_same, hc]

theorem homeOf_lt (n : Nat) : homeOf n < 8 := Nat.mod_lt _ (by decide)

/-- Nothing is written of a queue that holds nothing. -/
theorem flushHeld_of_nil (hx : s.findQueue q = some x) (hheld : x.held = []) : s.flushHeld q = s := by
  simp [State.flushHeld, hx, hheld, State.writeHeld]

end Sys2Proof.Machine
end

section
/-! PROOFS. Doorbells, pushes and queue control. -/

set_option Elab.async false

namespace Sys2Proof.Machine

variable {s : State} {f : Func} {q : Nat} {x : Queue} {count : Word32}

/-- The queue as a rung doorbell leaves it. -/
def Queue.rung (x : Queue) (count : Word32) : Queue :=
  { x with doorbell := count, bell := true,
           fetches := x.fetches.map fun r => if r.stopped then { r with stopped := false, refetches := 0, nextAt := none } else r }

theorem findQueue_ring (hx : s.findQueue q = some x) (count : Word32) : (s.ring q count).findQueue q = some (x.rung count) := by
  rw [State.ring, findQueue_wakeCluster]
  exact findQueue_of_modQueue hx

theorem findQueue_ring_ne {n : Nat} (hn : n ≠ q) (count : Word32) : (s.ring q count).findQueue n = s.findQueue n := by
  rw [State.ring, findQueue_wakeCluster]
  exact findQueue_modQueue_ne s q n _ (fun _ => rfl) hn

theorem execQdbDoorbell_work (hx : s.bar2 f q = some x) (hw : x.isWork = true) (hp : s.inPause = false) :
    exec (.qdbDoorbell f q count) s = .next (s.ring q count) := by
  simp [exec, execQdbDoorbell, State.doorbell, hx, hw, hp]

/-- What a completion queue's doorbell makes of the queue (R112). -/
def Queue.released (x : Queue) (count : Word32) (arm : Bool) (now : Nat) : Queue :=
  let left := (x.head - count).toNat - (if x.writing.isSome then 1 else 0)
  { x with doorbell := count,
           arm := if arm then some { written := left, firstAt := if left = 0 then none else some now } else x.arm }

/-- The doorbell of a completion queue that holds no record, and whose ModCount is not reached. -/
theorem execCompletionDoorbell_empty {arm : Bool} (hx : s.bar2 f q = some x) (hk : x.kind = .completion) (hheld : x.held = [])
    (hp : s.inPause = false) (hmod : arm = true → (x.head - count).toNat - (if x.writing.isSome then 1 else 0) < x.modCount) :
    ∃ t, exec (.completionDoorbell f q count arm) s = .next t ∧ t.findQueue q = some (x.released count arm s.time.now)
      ∧ s.touches t [.queue, .power, .regs] := by
  have hw : x.isWork = false := by simp [Queue.isWork, hk]
  have hq := findQueue_of_bar2 hx
  have hn : x.number = q := findQueue_mem s hq
  have hring : s.ringCompletion x count arm = (let u := (s.wakeCluster (homeOf q)).modQueue q fun y =>
      { y with doorbell := count, arm := if arm then (x.released count true s.time.now).arm else y.arm }
      (if arm then u.checkArm q else u).flushHeld q) := by
    have hev : x.kind ≠ .event := by simp [hk]
    simp only [State.ringCompletion, hn, if_neg hev]
    rfl
  have hu : ((s.wakeCluster (homeOf q)).modQueue q fun y =>
      { y with doorbell := count, arm := if arm then (x.released count true s.time.now).arm else y.arm }).findQueue q
      = some (x.released count arm s.time.now) := by
    refine (findQueue_of_modQueue (by simpa using hq)).trans ?_
    cases arm <;> rfl
  have htouch := ((wakeCluster_moves s (homeOf q)).mono.then (modQueue_moves _ q fun y =>
      { y with doorbell := count, arm := if arm then (x.released count true s.time.now).arm else y.arm })
    : s.Moves _ [.queue, .power, .regs]).frame
  generalize (s.wakeCluster (homeOf q)).modQueue q _ = u at hring hu htouch
  have hcheck : (if arm then u.checkArm q else u) = u := by
    split
    · rename_i ha
      have hlt := Nat.not_le.2 (hmod ha)
      simp only [State.checkArm, hu, Queue.released, ha, if_true, if_neg hlt]
    · rfl
  refine ⟨u, ?_, hu, htouch⟩
  have hflush : u.flushHeld q = u := flushHeld_of_nil hu hheld
  simp only [hcheck, hflush] at hring
  simp [exec, execCompletionDoorbell, State.doorbell, hx, hw, hp, hring]

/-- A push that is taken: the descriptor for the head count (R100). -/
theorem execQdbPush_taken {bytes : List Byte} (hx : s.bar2 f q = some x) (hw : x.isWork = true)
    (hlen : bytes.length = 64 ∨ bytes.length = 256) (hp : s.inPause = false) (htakes : x.takesPush bytes = true) :
    ∃ t y, exec (.qdbPush f q bytes) s = .next t ∧ t.findQueue q = some y ∧ y.bell = true
      ∧ y.fetches.findSome? (fun r => if r.count = x.head then r.entry else none) = some bytes
      ∧ y.head = x.head ∧ s.touches t [.queue, .power, .regs] := by
  have hno : ¬((!x.isWork) = true ∨ (bytes.length ≠ 64 ∧ bytes.length ≠ 256)) := by
    rw [hw]
    rintro (h | h)
    · cases h
    · omega
  have hexec : exec (.qdbPush f q bytes) s = .next (((s.ring q x.pushCount).modQueue q fun y =>
      { y with fetches := (y.fetches.filter fun r => r.count ≠ y.head)
                 ++ [{ count := y.head, entry := some bytes,
                       outstanding := x.fetches.any fun r => r.count = x.head && r.outstanding }] }).wakeAll
      ((s.ring q x.pushCount).preWakes bytes)) := by
    simp only [exec, execQdbPush, hx, if_neg hno, hp, Bool.false_eq_true, if_false, htakes, if_true]
  refine ⟨_, _, hexec,
    (findQueue_wakeAll ..).trans (findQueue_of_modQueue (findQueue_ring (findQueue_of_bar2 hx) x.pushCount)), rfl, ?_, rfl, ?_⟩
  · rw [List.findSome?_append, List.findSome?_eq_none_iff.2]
    · simp [Queue.rung]
    · intro r hr
      have hne : r.count ≠ x.head := of_decide_eq_true (List.mem_filter.1 hr).2
      simp [hne]
  · exact ((ring_moves s ..).mono.then (modQueue_moves ..) |>.then (wakeAll_moves ..) : s.Moves _ [.queue, .power, .regs]).frame

/-! ## Queue control (R118) -/

/-- A work queue that enters Running wakes its home cluster. -/
theorem entersRunning_work (hw : x.isWork = true) : s.entersRunning x = (s.armWatch x.slice).wakeCluster (homeOf x.number) := by
  simp [State.entersRunning, hw]

theorem execQueueEnable_disabled (hx : s.bar2 f q = some x) (hw : x.isWork = true) (hst : x.state = .disabled) :
    ∃ t y, exec (.queueEnable f q) s = .next t ∧ t.findQueue q = some y ∧ y.state = .running ∧ y.enable = true
      ∧ y.head = x.head ∧ y.started = x.started ∧ s.touches t [.queue, .slices, .power, .regs] := by
  have hexec : exec (.queueEnable f q) s = .next ((((s.modQueue q fun x => { x with enable := true }).modQueue q fun x =>
      { x with state := .running, bell := x.isWork }).armWatch x.slice).wakeCluster (homeOf x.number)) := by
    simp only [exec, execQueueEnable, hx, hst, true_or, if_true, entersRunning_work hw]
  refine ⟨_, _, hexec, (findQueue_wakeCluster ..).trans ((findQueue_armWatch ..).trans
    (findQueue_of_modQueue (findQueue_of_modQueue (findQueue_of_bar2 hx)))), rfl, rfl, rfl, rfl, ?_⟩
  exact ((modQueue_moves s ..).mono.then (modQueue_moves ..) |>.then (armWatch_moves ..) |>.then (wakeCluster_moves ..)
    : s.Moves _ [.queue, .slices, .power, .regs]).frame

theorem execQueueEnable_halted (hx : s.bar2 f q = some x) (hst : x.state = .halted) :
    ∃ t y, exec (.queueEnable f q) s = .next t ∧ t.findQueue q = some y ∧ y.state = .halted ∧ y.enable = true
      ∧ s.touches t [.queue] := by
  refine ⟨s.modQueue q fun x => { x with enable := true }, { x with enable := true }, ?_,
    findQueue_of_modQueue (findQueue_of_bar2 hx), hst, rfl, (modQueue_moves ..).frame⟩
  simp [exec, execQueueEnable, hx, hst]

theorem timeoutWait_of_none {detail : Nat} (h : s.queue.watch.all (fun w => w.q ≠ q) = true) : s.timeoutWait q detail = s := by
  have hnone : s.queue.watch.find? (fun w => w.q = q) = none := by
    simpa [List.find?_eq_none] using h
  simp [State.timeoutWait, hnone]

theorem timeoutGates_of_none (h : s.work.services.all (fun v => v.q ≠ q) = true) : s.timeoutGates q = s := by
  have hnil : s.work.services.filter (fun v => v.q = q && v.stage = 3 && v.gated && v.pieces.any (·.gate)) = [] := by
    refine List.filter_eq_nil_iff.2 fun v hv => ?_
    have hne : v.q ≠ q := by simpa using List.all_eq_true.1 h v hv
    simp [hne]
  simp [State.timeoutGates, hnil]

/-- A queue whose fetched entries are discarded has a fetch outstanding just where it had one. -/
theorem unfetched_any_outstanding (x : Queue) : x.unfetched.any (·.outstanding) = x.fetches.any (·.outstanding) := by
  simp [Queue.unfetched, List.any_map, List.any_filter, Function.comp_def]

/-- The queue as the clearing of Enable leaves it. -/
def Queue.disabled (x : Queue) : Queue :=
  Queue.settle { x with enable := false, state := if x.state = .halted then .halted else .draining, fetches := x.unfetched }

theorem settle_number (x : Queue) : x.settle.number = x.number := by
  simp only [Queue.settle, apply_ite Queue.number, ite_self]

/-- A Running or Halted queue with no standing WAIT and no service is disabled. -/
theorem execQueueDisable_noWait (hx : s.bar2 f q = some x) (hst : x.state = .running ∨ x.state = .halted)
    (hwait : s.queue.watch.all (fun w => w.q ≠ q) = true) (hsvc : s.work.services.all (fun v => v.q ≠ q) = true) :
    ∃ t, exec (.queueDisable f q) s = .next t ∧ t.findQueue q = some x.disabled ∧ s.touches t [.queue] := by
  have hexec : exec (.queueDisable f q) s = .next (((s.modQueue q fun x => { x with enable := false }).modQueue q fun y =>
      { y with state := if x.state = .halted then .halted else .draining, fetches := y.unfetched }).modQueue q Queue.settle) := by
    simp only [exec, execQueueDisable, hx, if_pos hst]
    rw [timeoutWait_of_none (s := _) (by exact hwait), timeoutGates_of_none (s := _) (by exact hsvc)]
  exact ⟨_, hexec, findQueue_of_modQueue (findQueue_of_modQueue (findQueue_of_modQueue (findQueue_of_bar2 hx))) settle_number,
    ((modQueue_moves s ..).then (modQueue_moves ..) |>.then (modQueue_moves ..)).frame⟩

/-- A Running work queue settles in Disabled where nothing of it is still at work. -/
theorem disabled_of_running (hw : x.isWork = true) (hst : x.state = .running) :
    x.disabled = { x with
      enable := false, fetches := x.unfetched,
      state := if x.started.isEmpty ∧ x.delivering.isEmpty ∧ (x.fetches.all fun r => !r.outstanding) = true then .disabled
        else .draining } := by
  have hidle : (x.started.isEmpty && x.delivering.isEmpty && !x.unfetched.any (·.outstanding)) = true
      ↔ x.started.isEmpty ∧ x.delivering.isEmpty ∧ (x.fetches.all fun r => !r.outstanding) = true := by
    rw [unfetched_any_outstanding, ← List.not_any_eq_all_not]
    simp only [Bool.and_eq_true, and_assoc]
  have hw' : Queue.isWork { x with enable := false, state := .draining, fetches := x.unfetched } = true := hw
  simp only [Queue.disabled, Queue.settle, hst, reduceCtorEq, if_false, true_and, Queue.idle, hw', if_true, hidle]
  split <;> rfl

theorem disabled_of_halted (hst : x.state = .halted) :
    x.disabled = { x with enable := false, state := .halted, fetches := x.unfetched } := by
  simp [Queue.disabled, Queue.settle, hst]

theorem execQueueResume_enabled (hx : s.bar2 f q = some x) (hw : x.isWork = true) (hst : x.state = .halted) (he : x.enable = true) :
    ∃ t y, exec (.queueResume f q) s = .next t ∧ t.findQueue q = some y ∧ y.state = .running ∧ y.bell = true
      ∧ y.head = x.head ∧ y.fetches = x.unfetched ∧ s.touches t [.queue, .slices, .power, .regs] := by
  have hexec : exec (.queueResume f q) s = .next (((s.modQueue q fun x =>
      { x with state := .running, bell := x.isWork, fetches := x.unfetched }).armWatch x.slice).wakeCluster (homeOf x.number)) := by
    simp only [exec, execQueueResume, hx, hst, he, if_true, entersRunning_work hw]
  refine ⟨_, _, hexec, (findQueue_wakeCluster ..).trans ((findQueue_armWatch ..).trans
    (findQueue_of_modQueue (findQueue_of_bar2 hx))), rfl, hw, rfl, rfl, ?_⟩
  exact ((modQueue_moves s ..).mono.then (armWatch_moves ..) |>.then (wakeCluster_moves ..)
    : s.Moves _ [.queue, .slices, .power, .regs]).frame

theorem execQueueResume_notEnabled (hx : s.bar2 f q = some x) (hst : x.state = .halted) (he : x.enable = false) :
    ∃ t y, exec (.queueResume f q) s = .next t ∧ t.findQueue q = some y ∧ y.state = .disabled ∧ y.head = x.head
      ∧ s.touches t [.queue] := by
  refine ⟨s.modQueue q fun x => { x with state := .disabled }, { x with state := .disabled }, ?_,
    findQueue_of_modQueue (findQueue_of_bar2 hx), rfl, rfl, (modQueue_moves ..).frame⟩
  simp [exec, execQueueResume, hx, hst, he]

end Sys2Proof.Machine

open Sys2Proof Sys2Proof.Machine

/-- Settles O2: each register access of a queue comes to one change of that queue, which its own lemma gives. -/
theorem doorbellsPushesAndQueueControl : Obligations.DoorbellsPushesAndQueueControl := by
  refine ⟨⟨?_, ?_, ?_, ?_⟩, ?_, ?_, ?_, ?_, ?_, ?_⟩
  · intro f q count s x hx hw hp
    exact ⟨_, _, execQdbDoorbell_work hx hw hp, findQueue_ring (findQueue_of_bar2 hx) count, rfl, rfl, rfl, rfl, rfl,
      wakeCluster_awake (homeOf_lt q), fun n hn => findQueue_ring_ne hn count, (ring_moves s q count).mono.frame⟩
  · intro f q count s x hx hk hheld hp
    obtain ⟨t, ht, hq, hframe⟩ := execCompletionDoorbell_empty (arm := false) hx hk hheld hp nofun
    exact ⟨t, _, ht, hq, rfl, rfl, rfl, hframe⟩
  · intro f q count s x hx hk hheld hwr hp hmod
    obtain ⟨t, ht, hq, hframe⟩ := execCompletionDoorbell_empty (arm := true) hx hk hheld hp fun _ => by simpa [hwr] using hmod
    exact ⟨t, _, _, ht, hq, rfl, rfl, by simp [hwr], hframe⟩
  · intro f q bytes s x hx hw hlen hp htakes
    exact execQdbPush_taken hx hw hlen hp htakes
  · intro f q s x hx hw hst
    exact execQueueEnable_disabled hx hw hst
  · intro f q s x hx hst
    exact execQueueEnable_halted hx hst
  · intro f q s x hx hw hst hwait hsvc
    obtain ⟨t, ht, hq, hframe⟩ := execQueueDisable_noWait hx (.inl hst) hwait hsvc
    rw [disabled_of_running hw hst] at hq
    exact ⟨t, _, ht, hq, rfl, rfl, rfl, rfl, rfl, hframe⟩
  · intro f q s x hx hw hst hwait hsvc
    obtain ⟨t, ht, hq, hframe⟩ := execQueueDisable_noWait hx (.inr hst) hwait hsvc
    rw [disabled_of_halted hst] at hq
    exact ⟨t, _, ht, hq, rfl, rfl, rfl, rfl, rfl, hframe⟩
  · intro f q s x hx hw hst he
    exact execQueueResume_enabled hx hw hst he
  · intro f q s x hx hst he
    exact execQueueResume_notEnabled hx hst he
end

section
/-! PROOFS. Descriptors are fetched and started. -/

set_option Elab.async false

namespace Sys2Proof.Machine

/-- A queue with 32 slots and 64-byte entries. -/
def smallQueue (number : Nat) : Queue :=
  { number, slice := 0, kind := .work, logEntries := 5, entrySize := 64, ringOffset := 0, as := 0 }

/-- A running queue that wants no entry, since its doorbell stands 32 counts behind its head, and a queue of the same number
that wants 32. -/
def twoQueuesOfOneNumber : State :=
  { State.reset with
    queue.queues := [{ smallQueue 8 with state := .running, bell := true, cached := true, doorbell := -32 }, smallQueue 8] }

/-- How many entries each queue has fetched or asked for. -/
def fetchCounts : Result → List Nat
  | .next t => t.queue.queues.map fun x => x.fetches.length
  | _ => []

end Sys2Proof.Machine

open Sys2Proof Sys2Proof.Machine

/-- Refutes O3: where two queues have one number, a fetch gives both the counts that the first one wants, and the statement
gives each its own. -/
theorem not_descriptorsAreFetchedAndStarted : ¬ Obligations.DescriptorsAreFetchedAndStarted := by
  rintro ⟨hfetch, -⟩
  have h := congrArg fetchCounts (hfetch 8 twoQueuesOfOneNumber _ rfl rfl rfl rfl rfl rfl)
  exact absurd h (by decide +kernel)
end

section
/-! PROOFS. Completions and events are delivered. -/

set_option Elab.async false

namespace Sys2Proof.Machine

variable {s : State} {q : Nat} {x : Queue}

/-- Settling changes a queue's state alone. -/
theorem settle_eq (x : Queue) : x.settle = { x with state := x.settle.state } := by
  unfold Queue.settle
  by_cases h : x.state = .draining ∧ (if x.isWork then x.idle else x.writing.isNone) = true
  · rw [if_pos h]
  · rw [if_neg h]

/-- What `loadContext` makes of its queue: the context is in the cache, or stays as it was where it does not fit (R104). -/
theorem findQueue_loadContext (hx : s.findQueue q = some x) :
    ∃ y, (s.loadContext q).findQueue q = some y ∧ y = { x with cached := y.cached, lastUse := y.lastUse } := by
  unfold State.loadContext
  split
  · exact ⟨x, hx, rfl⟩
  · cases s.contextVictim q with
    | none => exact ⟨_, findQueue_of_modQueue hx, rfl⟩
    | some v =>
      dsimp only
      by_cases hq : v.number = q
      · rw [hq]
        exact ⟨_, findQueue_of_modQueue (findQueue_of_modQueue hx), rfl⟩
      · have hv : (s.modQueue v.number fun y => { y with cached := false }).findQueue q = some x := by
          rw [findQueue_modQueue_ne s v.number q (fun y => { y with cached := false }) (fun _ => rfl) (Ne.symm hq), hx]
        exact ⟨_, findQueue_of_modQueue hv, rfl⟩

/-- Loading a context changes the queues alone. -/
theorem loadContext_queue : (s.loadContext q).queue = { s.queue with queues := (s.loadContext q).queue.queues } := by
  unfold State.loadContext
  split
  · rfl
  · cases s.contextVictim q <;> rfl

/-- Writing what is held changes nothing of a queue that is not Running. -/
theorem flushHeld_of_notRunning (hx : s.findQueue q = some x) (hst : x.state ≠ .running) : s.flushHeld q = s := by
  simp only [State.flushHeld, hx, State.writeHeld]
  cases x.held with
  | nil => rfl
  | cons r rest => simp [hst]

theorem deliverQuiet_of_entries {l : List Delivery} (h : l.all (·.entry) = true) : s.deliverQuiet x l = s := by
  cases l with
  | nil => rfl
  | cons d r =>
    have hd : d.entry = true := (List.all_eq_true.1 h) d (List.mem_cons_self ..)
    simp [State.deliverQuiet, hd]

/-- The lace counter's change that a delivery brings. -/
def State.laceOf (s : State) (x : Queue) : Option Nat → State
  | some k => s.laceUp x.slice x.gen k 1
  | none => s

theorem laceOf_changes (o : Option Nat) :
    (s.laceOf x o).queue = { s.queue with laceChanges := s.queue.laceChanges ++ o.toList.map fun k => ⟨x.slice, x.gen, k, 1⟩ } := by
  cases o <;> simp [State.laceOf, State.laceUp]

theorem laceOf_next (o : Option Nat) :
    (match o with
      | some k => (.next (s.laceUp x.slice x.gen k 1) : Result)
      | none => .next s) = .next (s.laceOf x o) := by
  cases o <;> rfl

theorem laceOf_moves (o : Option Nat) : s.Moves (s.laceOf x o) [.queue] := by
  cases o with
  | none => exact .refl
  | some k => exact laceUp_moves ..

theorem findQueue_laceOf (o : Option Nat) (n : Nat) : (s.laceOf x o).findQueue n = s.findQueue n := by
  cases o <;> rfl

theorem delivered_oldest {d : Delivery} {rest : List Delivery} (hx : s.findQueue q = some x) (hdel : x.delivering = d :: rest)
    (hent : d.entry = true) (hall : rest.all (·.entry) = true) :
    s.delivered q d.count = (((s.modQueue q fun y => { y with delivering := y.delivering.drop 1 }).laceOf x d.lace).modQueue q
      Queue.settle) := by
  have hn : x.number = q := findQueue_mem s hx
  simp only [State.delivered, hx, hdel, hent, State.deliverQuiet, hn, deliverQuiet_of_entries hall]
  cases d.lace <;> simp [State.laceOf]

/-- A completion whose entry and LaceDone are to be sent (R106). -/
def Started.delivery (d : Started) (e : Done) : Delivery :=
  { count := d.count, entry := Desc.signal d.entry || !decide (e.status = Status.success),
    lace := if e.status = Status.success then Desc.laceDone d.entry else none }

/-- The delivery of the oldest descriptor, but for its LaceDone. -/
def State.deliverOldest (s : State) (q : Nat) (x : Queue) (d : Started) (rest : List Started) (e : Done) : State :=
  let s := (s.countEnd x.slice e.status).modQueue q fun y =>
    ({ y with started := rest, delivering := if !(d.delivery e).entry && x.delivering.isEmpty then y.delivering
                                             else y.delivering ++ [d.delivery e] } : Queue).settle
  if (d.delivery e).entry then
    { s with queue.records := s.queue.records ++
        [(x.cq, ({ q, count := d.count, opcode := Desc.opcode d.entry, tag := Desc.tag d.entry, status := e.status,
                   bytes := e.bytes, gen := x.gen, detail := e.detail, slice := x.slice } : CplRec))] }
  else s

theorem execCompletionDelivery_final {d : Started} {rest : List Started} {e : Done} (hx : s.findQueue q = some x)
    (hst : x.started = d :: rest) (hfin : d.final = some e) (hfl : d.flushIds = []) (hpp : d.peerPaths = []) :
    exec (.completionDelivery q) s = .next ((s.deliverOldest q x d rest e).laceOf x
      (if !(d.delivery e).entry && x.delivering.isEmpty then (d.delivery e).lace else none)) := by
  simp only [exec, execCompletionDelivery, hx, hst, hfin, hfl, hpp, List.isEmpty_nil, Bool.not_true, Bool.false_eq_true, if_false]
  exact laceOf_next _

theorem findQueue_deliverOldest {d : Started} {rest : List Started} {e : Done} (hx : s.findQueue q = some x) :
    ∃ y, (s.deliverOldest q x d rest e).findQueue q = some y ∧ y.started = rest
      ∧ y.delivering = if !(d.delivery e).entry && x.delivering.isEmpty then x.delivering else x.delivering ++ [d.delivery e] := by
  have hcount : (s.countEnd x.slice e.status).findQueue q = some x :=
    (findQueue_congr ((countEnd_moves ..).frame .queue (by decide)) q).trans hx
  have hmod := findQueue_of_modQueue hcount (f := fun y =>
    ({ y with started := rest, delivering := if !(d.delivery e).entry && x.delivering.isEmpty then y.delivering
                                             else y.delivering ++ [d.delivery e] } : Queue).settle) fun _ => settle_number _
  exact ⟨_, Eq.trans (by unfold State.deliverOldest; dsimp only; split <;> rfl) hmod, by rw [settle_eq], by rw [settle_eq]⟩

theorem deliverOldest_queue {d : Started} {rest : List Started} {e : Done} :
    (s.deliverOldest q x d rest e).queue.laceChanges = s.queue.laceChanges
      ∧ (s.deliverOldest q x d rest e).queue.records = s.queue.records ++ (if (d.delivery e).entry then
          [(x.cq, ({ q, count := d.count, opcode := Desc.opcode d.entry, tag := Desc.tag d.entry, status := e.status,
                     bytes := e.bytes, gen := x.gen, detail := e.detail, slice := x.slice } : CplRec))] else []) := by
  have hcount : (s.countEnd x.slice e.status).queue = s.queue := (countEnd_moves ..).frame .queue (by decide)
  have hlace : (s.countEnd x.slice e.status).queue.laceChanges = s.queue.laceChanges := by rw [hcount]
  have hrec : (s.countEnd x.slice e.status).queue.records = s.queue.records := by rw [hcount]
  unfold State.deliverOldest
  dsimp only
  split
  · exact ⟨hlace, congrArg (· ++ _) hrec⟩
  · exact ⟨hlace, hrec.trans (List.append_nil _).symm⟩

theorem deliverOldest_moves {d : Started} {rest : List Started} {e : Done} :
    s.Moves (s.deliverOldest q x d rest e) [.queue, .regs] := by
  unfold State.deliverOldest
  refine .ite ?_ ?_
  · exact (countEnd_moves ..).mono.then (modQueue_moves ..) |>.then (setQueue_moves ..)
  · exact (countEnd_moves ..).mono.then (modQueue_moves ..)

/-- A record for a queue of its slice and generation is held there, and written as far as the queue takes it. -/
theorem execCompletionRecord_held {r : Nat × CplRec} (hr : s.queue.records.find? (fun r => r.1 = q) = some r)
    (hx : s.findQueue q = some x) (hgen : r.2.gen = s.gen r.2.slice) (hsl : x.slice = r.2.slice)
    (hfit : x.cached = true ∨ s.contextFits q = true) :
    exec (.completionRecord q) s = .next
      (((({ s with queue.records := s.queue.records.erase r } : State).loadContext q).modQueue q fun x =>
        { x with held := x.held ++ [.cpl r.2] }).flushHeld q) := by
  have hq : State.findQueue { s with queue.records := s.queue.records.erase r } q = some x := hx
  simp only [exec, execCompletionRecord, hr, hq]
  have hcached : ¬((!x.cached) = true ∧ (!s.contextFits q) = true) := by
    rintro ⟨hc, hf⟩
    simp_all
  have hstale : ¬(r.2.gen ≠ s.gen r.2.slice ∨ x.slice ≠ r.2.slice) := by
    rintro (h | h)
    · exact h hgen
    · exact h hsl
  exact (if_neg hcached).trans (if_neg hstale)

/-- The overflow of an event queue that has lost nothing. -/
theorem overflow_of_none {slice : Nat} (h : s.evq slice = none ∨ assoc s.queue.evLost slice = none) : s.overflow slice = s := by
  unfold State.overflow
  rcases h with h | h <;> rw [h]
  cases s.evq slice <;> rfl

end Sys2Proof.Machine

open Sys2Proof Sys2Proof.Machine

/-- Settles O4: what a completion or an event waits for is given, so that each command takes its one course. -/
theorem completionsAndEventsAreDelivered : Obligations.CompletionsAndEventsAreDelivered := by
  refine ⟨?_, ?_, ?_, ?_, ?_, ?_, ?_, ?_, ?_⟩
  · intro q s x d rest e hx hst hfin hfl hpp
    obtain ⟨y, hy, hrest, hdel⟩ := findQueue_deliverOldest (d := d) (rest := rest) (e := e) hx
    obtain ⟨hlace, hrec⟩ := deliverOldest_queue (s := s) (q := q) (x := x) (d := d) (rest := rest) (e := e)
    refine ⟨_, y, execCompletionDelivery_final hx hst hfin hfl hpp, (findQueue_laceOf ..).trans hy, hrest, ?_, ?_, ?_⟩
    · rw [laceOf_changes]
      exact hrec
    · rw [laceOf_changes]
      dsimp only
      rw [hlace, hdel]
      by_cases hc : Desc.signal d.entry || !decide (e.status = Status.success)
      · simp only [hc, true_or, if_true, Started.delivery, Bool.not_true, Bool.false_and, Bool.false_eq_true, if_false]
        simp
      · simp only [Bool.not_eq_true] at hc
        cases hd : x.delivering <;> simp [hc, Started.delivery]
    · exact (deliverOldest_moves.then (laceOf_moves _)).frame
  · intro q s x d rest hx hdel hent hall
    rw [delivered_oldest hx hdel hent hall]
    refine ⟨_, findQueue_of_modQueue ((findQueue_laceOf ..).trans (findQueue_of_modQueue hx)) settle_number, ?_⟩
    rw [settle_eq]
    refine ⟨by simp [hdel], rfl, rfl, ?_⟩
    exact congrArg QueueState.laceChanges (laceOf_changes (s := s.modQueue q _) d.lace)
  · intro cq s x r hr hx hgen hsl hst hfit
    have hq : State.findQueue { s with queue.records := s.queue.records.erase r } cq = some x := hx
    obtain ⟨y, hy, hyx⟩ := findQueue_loadContext hq
    have hz := findQueue_of_modQueue hy (f := fun x => { x with held := x.held ++ [.cpl r.2] })
    have hrun : y.state ≠ .running := by rw [hyx]; exact hst
    have hexec := execCompletionRecord_held hr hx hgen hsl hfit
    rw [flushHeld_of_notRunning hz hrun] at hexec
    refine ⟨_, _, hexec, hz, by rw [hyx], by rw [hyx], ?_, ?_⟩
    · exact congrArg QueueState.records (loadContext_queue (s := { s with queue.records := s.queue.records.erase r }) (q := cq))
    · exact ((setQueue_moves s _).then (loadContext_moves ..) |>.then (modQueue_moves ..)).frame
  · intro cq s x r hr hx hgen hsl hfit
    exact execCompletionRecord_held hr hx hgen hsl hfit
  · intro slice s e he hgen hevq
    have hnone : State.evq { s with queue.events := s.queue.events.erase e } slice = none := hevq
    refine ⟨({ s with queue.events := s.queue.events.erase e } : State).loseEvent slice, ?_, rfl, by simp [State.loseEvent], ?_⟩
    · simp only [exec, execEventRecord, he]
      refine (if_neg (not_not.2 hgen)).trans ?_
      rw [overflow_of_none (.inl hnone), hnone]
    · exact ((setQueue_moves s _).mono.then (loseEvent_moves _ slice.val) : s.Moves _ [.queue, .regs]).frame
  · intro slice s x e he hgen hevq hlost hst hroom hfit
    have hsome : State.evq { s with queue.events := s.queue.events.erase e } slice = some x := hevq
    have hfull : ¬(x.state ≠ .running ∨ x.entries ≤ x.occupied + x.held.length) := by
      rintro (h | h)
      · exact h hst
      · omega
    have hcached : ¬((!x.cached) = true ∧ (!s.contextFits x.number) = true) := by
      rintro ⟨hc, hf⟩
      simp_all
    simp only [exec, execEventRecord, he]
    refine (if_neg (not_not.2 hgen)).trans ?_
    have hover := overflow_of_none (s := { s with queue.events := s.queue.events.erase e }) (slice := slice) (.inr hlost)
    rw [hover, hsome]
    exact (if_neg hfull).trans (if_neg hcached)
  · intro q s x a at_ hx ha hat hdue
    have hbind : x.arm.bind (·.firstAt) = some at_ := by rw [ha]; exact hat
    simp [exec, execMsixModerationTimer, hx, hbind, hdue]
  · intro f v s
    rfl
  · intro f s
    rfl
end

section
/-! PROOFS. WAITs and lace counters. -/

set_option Elab.async false

namespace Sys2Proof.Machine

variable {s : State} {q : Nat} {w : Watch}

theorem watchOf_q (h : s.watchOf q = some w) : w.q = q := by
  simpa using List.find?_some h

/-- No WAIT of a queue stands once the queue's are filtered out. -/
theorem watchOf_of_filter {t : State} (h : t.queue.watch = s.queue.watch.filter fun v => v.q ≠ q) : t.watchOf q = none := by
  simp [State.watchOf, h, List.find?_eq_none]

@[simp] theorem wakeAll_queue (l : List Nat) : (s.wakeAll l).queue = s.queue := (wakeAll_moves s l).frame .queue (by decide)

@[simp] theorem wakeCluster_queue (c : Nat) : (s.wakeCluster c).queue = s.queue := (wakeCluster_moves s c).frame .queue (by decide)

theorem setLace_laceChanges (slice k v : Nat) : (s.setLace slice k v).queue.laceChanges = s.queue.laceChanges := by
  simp [State.setLace]

theorem laceValue_setLace (slice k v : Nat) (hv : v < 2 ^ 64) : (s.setLace slice k v).laceValue slice k = v := by
  simpa [State.setLace, State.laceValue] using hv

theorem laceValue_setLace_ne {slice k v j m : Nat} (h : (j, m) ≠ (slice, k)) :
    (s.setLace slice k v).laceValue j m = s.laceValue j m := by
  simp [State.setLace, State.laceValue, assoc_assocSet_ne _ _ _ _ h]

end Sys2Proof.Machine

open Sys2Proof Sys2Proof.Machine

/-- Settles O5: each command takes the course that the watch entry and the counter give it. -/
theorem waitsAndLaceCounters : Obligations.WaitsAndLaceCounters := by
  refine ⟨?_, ?_, ?_, ?_, ?_, ?_, ?_, ?_, ?_, ?_, ?_⟩
  · intro q count s x d hr
    simp [exec, execNop, hr, State.endWith]
  · intro q count s x d hr hle
    simp [exec, execWait, hr, hle, State.endWith]
  · intro q count s x d hr hlt hdl hp hh
    simp [exec, execWait, hr, Nat.not_le.2 hlt, hdl, hp, hh, State.waitTimedOut]
  · intro q count s x d hr hlt hdl hen
    simp only [exec, execWait, hr, if_neg (Nat.not_le.2 hlt), hdl, ne_eq, not_true_eq_false, false_and, if_false, hen,
      Bool.not_true, Bool.false_eq_true]
    exact ⟨_, _, rfl, rfl, rfl, rfl, rfl, rfl, rfl, ((setQueue_moves s _).then (modStarted_moves ..)).frame⟩
  · intro q count s x d hr hlt hdl hen
    have hno : ¬(Desc.waitDeadline d.entry ≠ 0 ∧ s.passed (Desc.waitDeadline d.entry) = true) := by
      rintro ⟨h0, hp⟩
      rcases hdl with h | h
      · exact h0 h
      · rw [h] at hp; cases hp
    simp only [exec, execWait, hr, if_neg (Nat.not_le.2 hlt), if_neg hno, hen, Bool.not_false, if_true]
  · intro q s w hw hre hpo haw
    obtain rfl : w.q = q := watchOf_q hw
    have hexec : exec (.waitRelease w.q) s = .next (s.endWait w) := by simp [exec, execWaitRelease, hw, hre, hpo, haw]
    exact ⟨_, hexec, watchOf_of_filter (s := s) rfl, rfl⟩
  · intro q s w hw hdl hp hre
    have hexec : exec (.waitDeadline q) s = .next
        (({ s.wakeCluster (homeOf q) with
            queue.watch := (s.wakeCluster (homeOf q)).queue.watch.filter fun v => v.q ≠ q } : State).waitTimedOut q w.count w.halt) := by
      simp only [exec, execWaitDeadline, hw]
      rw [if_pos ⟨hdl, hp, by simp [hre]⟩]
    refine ⟨_, hexec, watchOf_of_filter (s := s.wakeCluster (homeOf q)) ?_, ?_⟩
    · unfold State.waitTimedOut
      dsimp only
      split <;> rfl
    · exact ((wakeCluster_moves s _).mono.then (setQueue_moves ..) |>.then (waitTimedOut_moves ..)
        : s.Moves _ [.queue, .power, .regs]).frame
  · intro q s w hw hpo hdue hre
    simp [exec, execWaitPoll, hw, hpo, hdue, hre]
  · intro q count s x d hr
    have hexec : exec (.laceAdd q count) s = .next ((s.laceUp x.slice x.gen (Desc.addCounter d.entry)
        (Desc.addAmount d.entry)).endWith q count Status.success) := by
      simp only [exec, execLaceAdd, hr]
    exact ⟨_, hexec, rfl, ((laceUp_moves s ..).then (endWith_moves ..)).frame⟩
  · intro s c r hc hgen hk
    have hexec : exec .laceCounterChange s = .next (({ s with queue.laceChanges := r } : State).setLace c.slice c.counter
        (min (s.laceValue c.slice c.counter + c.amount) (2 ^ 64 - 1))) := by
      simp only [exec, execLaceCounterChange, hc]
      exact (if_neg (not_not.2 hgen)).trans (if_neg (Nat.not_le.2 hk))
    refine ⟨_, hexec, setLace_laceChanges .., laceValue_setLace _ _ _ (by omega), fun slice k h => laceValue_setLace_ne h, ?_⟩
    exact ((setQueue_moves s _).mono.then (setLace_moves ..) : s.Moves _ [.queue, .power, .regs]).frame
  · intro f slice value s hb hk
    have hexec : exec (.slcLaceValWrite f slice value) s = .next
        (s.setLace slice (s.fld .slcLaceSelIndex slice) value.toNat) := by
      simp only [exec, execSlcLaceValWrite, hb, if_true, State.setLaceVal, if_pos hk]
    exact ⟨_, hexec, laceValue_setLace _ _ _ value.isLt, (setLace_moves ..).mono.frame⟩
end

section
/-! PROOFS. Remote operations start. -/

set_option Elab.async false

namespace Sys2Proof.Machine

variable {s : State} {q : Nat} {count : Word32} {op : Nat} {kind : OpKind} {x : Queue} {d : Started} {c : Conn}

/-- A descriptor that fails an operand check ends with its code. -/
theorem startRemote_of_error {f : Status} (hr : s.ready q count op = some (x, d)) (he : s.remoteCheck x d.entry = .error f) :
    s.startRemote q count op kind = (s.endDesc q count { status := f }, none) := by
  simp only [State.startRemote, hr, he, State.endWith]

/-- The operation that a descriptor posts. -/
def State.opPosted (s : State) (q : Nat) (count : Word32) (kind : OpKind) (d : Started) (c : Conn) : ConnOp :=
  { opOf kind q count c.payload d.entry with id := s.trans.nextOp, msn := c.nextMsn, cursors := List.replicate c.stripes 0 }

theorem findConn_posted {c1 : Conn} (h : s.findConn c.stripeFirst = some c1) :
    (s.posted q count kind d c).findConn c.stripeFirst = some { c1 with
      ops := c1.ops ++ [s.opPosted q count kind d c], nextMsn := c1.nextMsn + 1, lastUse := s.time.now } := by
  refine (findConn_modConn s c.stripeFirst (fun c' => { c' with
    ops := c'.ops ++ [s.opPosted q count kind d c], nextMsn := c'.nextMsn + 1, lastUse := s.time.now }) fun _ => rfl).trans ?_
  rw [h]; rfl

theorem findConn_posted_ne {k : Nat} (h : k ≠ c.stripeFirst) : (s.posted q count kind d c).findConn k = s.findConn k :=
  findConn_modConn_ne s c.stripeFirst k (fun c' => { c' with
    ops := c'.ops ++ [s.opPosted q count kind d c], nextMsn := c'.nextMsn + 1, lastUse := s.time.now }) (fun _ => rfl) h

end Sys2Proof.Machine

open Sys2Proof Sys2Proof.Machine

/-- Settles O6: what `startRemote` comes to is known from the checks, and each command goes on from there. -/
theorem remoteOperationsStart : Obligations.RemoteOperationsStart := by
  refine ⟨⟨?_, ?_, ?_, ?_, ?_, ?_, ?_⟩, ?_⟩
  · intro q count s x d c h
    simp only [exec, execWrite, startRemote_of_starts h]
  · intro q count s x d c h
    simp only [exec, execWriteInc, startRemote_of_starts h]
  · intro q count s x d c h
    simp only [exec, execFetchAdd, startRemote_of_starts h]
  · intro q count s x d c h
    simp only [exec, execCmpSwap, startRemote_of_starts h]
  · intro q count s x d c c1 c2 o h h1 h2 hturn
    simp only [exec, execRead, startRemote_of_starts h, h1, h2, hturn, if_true]
  · intro q count s c o h hturn
    simp only [exec, execReadSegmentSend, h, hturn, if_true]
  · intro q count s x d op i f hi hr he
    refine ⟨_, ?_, rfl, (endDesc_moves ..).frame⟩
    simp only [List.mem_cons, Prod.mk.injEq, List.not_mem_nil, or_false] at hi
    rcases hi with ⟨rfl, rfl⟩ | ⟨rfl, rfl⟩ | ⟨rfl, rfl⟩ | ⟨rfl, rfl⟩ | ⟨rfl, rfl⟩
    · simp only [exec, execWrite, startRemote_of_error hr he]
    · simp only [exec, execWriteInc, startRemote_of_error hr he]
    · simp only [exec, execRead, startRemote_of_error hr he]
    · simp only [exec, execFetchAdd, startRemote_of_error hr he]
    · simp only [exec, execCmpSwap, startRemote_of_error hr he]
  · intro q count s kind x d c c1 op _ h1
    exact ⟨_, _, findConn_posted h1, rfl, rfl, rfl, rfl, rfl, rfl, rfl, rfl, rfl, rfl, rfl, fun k hk => findConn_posted_ne hk,
      (posted_moves ..).mono.frame⟩
end

section
/-! PROOFS. Arriving packets. -/

set_option Elab.async false

namespace Sys2Proof.Machine

variable {s t u : State} {c : Conn} {a : Arrival} {ty : PType} {p : Packet}

/-- A packet that reaches an end is of the type of its command. -/
theorem ptype_of_reaches (h : s.reaches ty a t c) : a.pkt.ptype = ty := h.1

/-- A request that reaches an end and whose PSN is fresh. -/
theorem endPacketIn_fresh {x : Received} (hty : a.pkt.ptype = .data ∨ a.pkt.ptype = .readReq ∨ a.pkt.ptype = .atomicReq)
    (hx : x.arrival = a) (hp : t.psnChecks c a.pkt = (u, .fresh)) : t.endPacketIn c x = u.takeFresh c a := by
  subst hx
  rcases hty with h | h | h <;> simp [State.endPacketIn, h, State.takeRequest, hp]

/-- What an acknowledgement that reaches an end comes to: its home cluster acts on it. -/
theorem report_eq (x : Received) : t.report c x = if c.home = 0 then t.takeReport c.index x.rxAt x.arrival
    else { t with trans.ackRecords := t.trans.ackRecords ++ [⟨c.index, x.rxAt, x.arrival, none⟩] } := rfl

/-! ## Checks 8 to 10 of R170 -/

theorem psnChecks_dup (h : s.isDup c p.psn = true) : s.psnChecks c p = (s, .dup) := by
  simp [State.psnChecks, h]

theorem psnChecks_beyond (h : s.isDup c p.psn = false) (hw : 65535 < (p.psn - c.expect).toNat) :
    s.psnChecks c p = (s.bump .cluCyqStat1WindowDrop c.home, .stop) := by
  unfold State.psnChecks
  rw [if_neg (by simp [h]), if_pos hw]

theorem psnChecks_within (h : s.isDup c p.psn = false) (hw : (p.psn - c.expect).toNat ≤ 65535) :
    s.psnChecks c p = if c.ordered ∧ p.psn ≠ c.expect then
        if c.seqNakSent then (s, .stop)
        else ((s.modConn c.index fun c => { c with seqNakSent := true }).sendNak c.index 1 0 c.expect 0 p.sendStamp, .stop)
      else (s, .fresh) := by
  unfold State.psnChecks
  rw [if_neg (by simp [h]), if_neg (Nat.not_lt.2 hw)]

/-- The oldest record of a cluster that is awake is acted on. -/
theorem execAckRecord_awake {cluster : Fin 8} {r : AckRec}
    (hr : s.trans.ackRecords.find? (fun r => r.conn % 8 = cluster.val) = some r) (haw : s.awake cluster = true) :
    exec (.ackRecord cluster) s = .next
      (({ s with trans.ackRecords := s.trans.ackRecords.erase r } : State).takeRecord r).settle := by
  simp only [exec, execAckRecord, hr, haw, Bool.not_true, Bool.false_eq_true, if_false]

end Sys2Proof.Machine

open Sys2Proof Sys2Proof.Machine

/-- Settles O7: what the checks of R170 leave is known from `reaches`, and the effect of the packet's type goes on from there. -/
theorem arrivingPacketsAct : Obligations.ArrivingPacketsAct := by
  refine ⟨⟨?_, ?_, ?_, ?_, ?_, ?_, ?_, ?_, ?_, ?_, ?_⟩, ?_, ?_, ?_, ?_, ?_⟩
  · intro a s t u c h hp hc
    have hty := ptype_of_reaches h
    simp only [exec, execData, arriveAs_of_reaches h]
    rw [endPacketIn_fresh (.inl hty) rfl hp]
    simp only [State.takeFresh, hty, hc]
  · intro a s t u c e h hp hc
    have hty := ptype_of_reaches h
    simp only [exec, execData, arriveAs_of_reaches h]
    rw [endPacketIn_fresh (.inl hty) rfl hp]
    simp only [State.takeFresh, hty, hc]
  · intro a s t u c h hp
    have hty := ptype_of_reaches h
    simp only [exec, execReadReq, arriveAs_of_reaches h]
    rw [endPacketIn_fresh (.inr (.inl hty)) rfl hp]
    simp only [State.takeFresh, hty]
  · intro a s t u c h hp
    have hty := ptype_of_reaches h
    simp only [exec, execAtomicReq, arriveAs_of_reaches h]
    rw [endPacketIn_fresh (.inr (.inr hty)) rfl hp]
    simp only [State.takeFresh, hty]
  · intro a s t c h
    simp only [exec, execReadResp, arriveAs_of_reaches h, State.endPacketIn, State.received, ptype_of_reaches h]
  · intro a s t c h
    simp only [exec, execAtomicResp, arriveAs_of_reaches h, State.endPacketIn, State.received, ptype_of_reaches h]
  · rintro a s t c x h rfl
    simp only [exec, execAck, arriveAs_of_reaches h, State.endPacketIn, State.received, ptype_of_reaches h, report_eq]
  · rintro a s t c x h rfl
    simp only [exec, execNak, arriveAs_of_reaches h, State.endPacketIn, State.received, ptype_of_reaches h, report_eq]
  · intro a s t c h hsol
    simp only [exec, execProbe, arriveAs_of_reaches h, State.endPacketIn, State.received, ptype_of_reaches h, State.takeProbe,
      hsol, if_true]
  · intro cluster s r hr haw hm
    rw [execAckRecord_awake hr haw]
    simp only [State.takeRecord, hm]
  · intro cluster s r m c hr haw hm hc
    rw [execAckRecord_awake hr haw]
    have hc' : State.findConn { s with trans.ackRecords := s.trans.ackRecords.erase r } r.conn = some c := hc
    simp only [State.takeRecord, hm, hc']
  · intro s c p h
    exact psnChecks_dup h
  · intro s c p h hw
    exact psnChecks_beyond h hw
  · intro s c p h hw hord hne
    rw [psnChecks_within h hw, if_pos ⟨hord, hne⟩]
    split <;> rfl
  · intro s c p h hw hord
    rw [psnChecks_within h hw, if_neg]
    rintro ⟨ho, hne⟩
    rcases hord with hn | he
    · rw [hn] at ho; cases ho
    · exact hne he
  · intro s t c a h hd
    have hty := ptype_of_reaches h
    simp only [exec, execData, arriveAs_of_reaches h, State.endPacketIn, State.received, hty, State.takeRequest,
      psnChecks_dup hd, State.takeDup]
end

section
/-! PROOFS. The transport's timers and the Connection Cache. -/

set_option Elab.async false

namespace Sys2Proof.Machine

variable {s : State} {c : Conn} {k : Nat}

/-- What stays of a list of ends once those of one index are taken out. -/
theorem find_filter_index (l : List Conn) (n : Nat) :
    (l.filter fun c => c.index ≠ k).find? (fun c => c.index = n) = if n = k then none else l.find? fun c => c.index = n := by
  induction l with
  | nil => simp
  | cons c l ih =>
    by_cases hc : c.index = k
    · by_cases hn : n = k
      · simpa [hn, hc] using ih
      · simpa [hc, Ne.symm hn, hn] using ih
    · by_cases hn : n = k
      · subst hn
        simpa [hc] using ih
      · by_cases he : c.index = n
        · simp [hc, hn, he]
        · simpa [hc, hn, he] using ih

/-- The end that is freed, where it serves nothing. -/
theorem freeEnd_of_noServes (hc : s.findConn k = some c) (hs : c.serves = []) :
    (∀ n, (s.freeEnd k).findConn n = if n = k then none else s.findConn n) ∧ s.touches (s.freeEnd k) [.trans, .mem] := by
  simp only [State.freeEnd, hc, hs, List.foldl_nil]
  exact ⟨fun n => find_filter_index s.trans.conns n, (setMemTrans_moves s _ _).mono.frame⟩

end Sys2Proof.Machine

open Sys2Proof Sys2Proof.Machine

/-- Settles O8: each timer's condition holds, so that its command takes the course that acts. -/
theorem transportTimersAct : Obligations.TransportTimersAct := by
  refine ⟨?_, ?_, ?_, ?_, ?_, ?_⟩
  · intro k s c at_ hc hat hdue
    simp [exec, execAckDelayTimer, hc, hat, hdue]
  · intro k s c d hc hst hpause hd hpass
    simp [exec, execRetransmitTimer, hc, hst, hpause, hd, hpass]
  · intro k psn s c hc hpause hrun hops
    have hno : ¬(c.pausedUntil.isSome = true ∨ ((s.nakRun c psn).filter fun r => r.holdUntil.any s.due).isEmpty = true) := by
      rintro (h | h)
      · rw [hpause] at h; cases h
      · exact hrun (List.isEmpty_iff.1 h)
    simp only [exec, execNakRetryTimer, hc, if_neg hno, hops, List.filter_nil, List.foldl_nil]
  · intro k res s c hc hfetch hlines hnear
    have hfail : s.contextFail c res = none := by simp [State.contextFail, hnear]
    simp only [exec, execContextFetchDone, hc, hfetch, Bool.not_true, Bool.false_eq_true, if_false, if_neg (Nat.not_le.2 hlines), hfail]
  · intro k s c hc hev hpin hnear
    have hk : c.index = k.toNat := findConn_index s hc
    have hexec : exec (.evictionCommit k) s = .next (s.modConn k.toNat fun c => { c with evicting := false, cached := false }) := by
      simp only [exec, execEvictionCommit, hc, hev, hpin, Bool.not_false, and_self, if_true, State.writeContext, hnear, hk]
    have hy := findConn_modConn s k.toNat (fun c => { c with evicting := false, cached := false }) fun _ => rfl
    rw [hc] at hy
    exact ⟨_, _, hexec, hy, rfl, rfl, rfl, rfl, (modConn_moves ..).frame⟩
  · intro k s c hc hst hdue hs
    have hk : c.index = k.toNat := findConn_index s hc
    obtain ⟨hfind, hframe⟩ := freeEnd_of_noServes hc hs
    refine ⟨s.freeEnd k.toNat, ?_, ?_, fun n hn => ?_, hframe⟩
    · simp [exec, execGoneExpiry, hc, hst, hdue, hk]
    · rw [hfind, if_pos rfl]
    · rw [hfind, if_neg hn]
end

section
/-! PROOFS. The arrivals of connection setup and closing. -/

set_option Elab.async false

namespace Sys2Proof.Machine

/-- A Last for a single node. -/
def loneLast : LastImage :=
  { pools := [32, 32, 32, 32], ports := List.replicate 10 { mode := 1, bufMiB := 16, pfcMask := 3 }, coord := 0x12345,
    quotas := [], prioClass := [0, 1, 2, 3, 4, 5, 6, 7], floors := List.replicate 8 2 }

/-- A node that runs under that Last. -/
def loneNode : State := { State.reset with boot.stage := 2, last := { booting := false, inForce := some loneLast } }

/-- A node-scope control message that the node sends itself. -/
def ownCtrl (sub : Nat) : Arrival :=
  { port := none, src := 0, dst := 0, udpDst := 50173, pkt := { ptype := .ctrl, ctrl := some ⟨sub, 1⟩ } }

/-- The second end of a stripe set of two, whose CONNECT_REQ is out. -/
def secondEnd : Conn := { index := 9, slice := 0, stripes := 2, stripeFirst := 8, state := .connecting }

/-- The CONNECT_REQ of the second end. -/
def secondRequest : CtrlOut :=
  { seq := 1, dst := 0x12345, nextAt := 0,
    msg := .connectReq { initIndex := 9, initInc := 0, listenId := 0, initPsn := 0, mode := 1, trafficClass := 0, payloadLog := 10,
                         stripes := 2, encrypted := false } }

/-- A stripe set of two that a CONN_CREATE asked for, which its first end remembers. -/
def halfConnected : State :=
  { loneNode with
    trans.conns := [{ index := 8, slice := 0, stripes := 2, stripeFirst := 8, creator := some (0, 7) }, secondEnd],
    trans.ctrlOut := [secondRequest],
    mailboxes := [(0, { taken := [{ tag := 7, major := 2, opcode := MbxOp.connCreate }] })] }

/-- How many responses wait in slice 0's mailbox. -/
def responsesWaiting : Result → Nat
  | .next t => (t.mailbox 0).ready.length
  | _ => 0

theorem halfConnected_newNodeMsg : halfConnected.newNodeMsg (ownCtrl 0x12) halfConnected 0x12345 :=
  ⟨rfl, by decide +kernel, by decide +kernel⟩

end Sys2Proof.Machine

open Sys2Proof Sys2Proof.Machine

/-- Refutes O9: a CONNECT_REFUSE for the second end of a stripe set answers the CONN_CREATE that the first end remembers, and the
statement answers what the refused end remembers, which is nothing. -/
theorem not_connectionMessagesAct : ¬ Obligations.ConnectionMessagesAct := by
  rintro ⟨-, -, -, -, -, -, hrefuse, -, -⟩
  have h := congrArg responsesWaiting
    (hrefuse (ownCtrl 0x12) 9 0 0 1 0 halfConnected halfConnected 0x12345 secondEnd secondRequest halfConnected_newNodeMsg
      (by decide +kernel) (by decide +kernel) (by decide +kernel) rfl rfl rfl rfl)
  exact absurd h (by decide +kernel)
end

section
/-! PROOFS. The maintenance of ends. -/

set_option Elab.async false

namespace Sys2Proof.Machine

variable {s t : State} {c : Conn} {a : Arrival} {m : CtrlMsg} {x : Received}

/-- A message of an end that passes its checks: its home cluster acts on it, or gets a record of it (R20). -/
theorem endCtrl_at_home (h : s.newEndMsg a m x t c) :
    s.endCtrl a m = if c.home = 0 then t.endCtrlAt c a m
      else { t with trans.ackRecords := t.trans.ackRecords ++ [⟨c.index, x.rxAt, a, some m⟩] } := by
  have harr : x.arrival = a := by
    obtain ⟨u, -, rfl, -, -⟩ := h
    rfl
  rw [endCtrl_of_new h, State.ctrlRecord, harr]

theorem seenCtrl_of_new (h : s.newEndMsg a m x t c) : t.seenCtrl c.peer (ctrlSeqOf a.pkt) = none := by
  obtain ⟨u, -, -, -, hseen⟩ := h
  exact hseen

/-- The only control message is dropped. -/
theorem dropCtrl_only {o : CtrlOut} {good : CtrlOut → Bool} (ho : t.trans.ctrlOut = [o]) (hg : good o = true) :
    (t.dropCtrl good).trans.ctrlOut = [] := by
  unfold State.dropCtrl
  simp only [ho, List.filter_cons, hg, Bool.not_true, Bool.false_eq_true, if_false, if_true, List.filter_nil, List.foldl_cons,
    List.foldl_nil, List.find?_nil]
  split <;> rfl

end Sys2Proof.Machine

open Sys2Proof Sys2Proof.Machine

/-- Settles O10: the message is new, so that its command's act is carried out on the state after the checks. -/
theorem endMaintenanceActs : Obligations.EndMaintenanceActs := by
  refine ⟨⟨?_, ?_, ?_, ?_, ?_, ?_, ?_, ?_, ?_, ?_, ?_, ?_⟩, ?_⟩
  · intro a us serial s t src h
    simp only [exec, execPause, nodeCtrl_of_new h]
  · intro a serial ab s t src h
    simp only [exec, execResume, nodeCtrl_of_new h]
  · intro peer s
    rfl
  · intro s hrole hdue
    simp only [exec, execSbtFeedSend]
    exact if_pos ⟨hrole, hdue⟩
  · intro a rtts tr s t src h hman
    simp only [exec, execSbtFeed, guardedCtrl_of_new h]
    rw [if_pos hman]
  · intro a keyId s t c x h
    simp only [exec, execRekey, endCtrl_at_home h, State.endCtrlAt, seenCtrl_of_new h, State.repliedEnd]
  · intro a st s t c x h
    simp only [exec, execRekeyAck, endCtrl_at_home h, State.endCtrlAt, State.endMsg]
  · intro a ri mi rn on nn oc nc s t src c h hc hst hinc htag hpeer hmi hon
    simp only [exec, execReHome, nodeCtrl_of_new h, hc]
    rw [if_pos ⟨hst, hinc, htag, hpeer, hmi, hon⟩]
  · intro a seq s t src h
    simp only [exec, execCtrlAck, if_true, nodeCtrl_of_new h]
  · intro a seq s t c x h
    simp only [exec, execCtrlAck, Bool.false_eq_true, if_false, endCtrl_at_home h, State.endCtrlAt, State.endMsg]
  · intro seq s o ho hq hp hconn htries
    simp only [exec, execCtrlRepeatTimer, ho, hq, hp, hconn]
    simp [htries]
  · intro seq s o ho hq hp hconn hend htries
    simp only [exec, execCtrlRepeatTimer, ho, hq, hp, hconn, hend]
    simp [htries]
  · intro a ri mi rn on nn oc nc s t src c o h ho hseq hdst hmsg hc
    simp only [exec, execReHomeAck, nodeCtrl_of_new h, ho, List.findSome?_cons, hseq, hdst, hmsg, and_self, if_true, Option.bind_some, hc]
    exact ⟨_, rfl, dropCtrl_only ho (by simp [hseq, hdst, hmsg])⟩
end

section
/-! PROOFS. The connection commands of the mailbox. -/

set_option Elab.async false

namespace Sys2Proof.Machine

variable {s t : State} {slice : Nat} {tag : Word32} {op : Nat}

theorem taken_trans (h : s.takesUp slice tag op) : (s.taken slice tag op).trans = s.trans :=
  taken_touches h .trans (by decide)

/-- A cipher slot is refused with a code of its own, never with SUCCESS. -/
theorem slotsRefused_ne_success (send recv : Nat) : s.slotsRefused slice send recv ≠ some Status.success := by
  unfold State.slotsRefused
  repeat' split
  all_goals simp [Status.cipherExhausted, Status.descMalformed, Status.success]

/-- CONN_LISTEN that succeeds adds the listener. -/
theorem connListen_success {p : ListenParams} (h : s.connListen slice p = (t, Status.success, [])) :
    t = { s with trans.listens := s.trans.listens ++ [⟨slice, p⟩] } := by
  unfold State.connListen at h
  split at h
  · simp [Status.descMalformed, Status.success] at h
  · split at h
    · rename_i c hc
      simp only [Prod.mk.injEq] at h
      exact absurd (h.2.1 ▸ hc) (slotsRefused_ne_success p.sendSlot p.recvSlot)
    · exact (Prod.mk.inj h).1.symm

theorem connDestroy_closes {k : Nat} {c : Conn} (hc : s.findConn k = some c) (hsl : (s.firstOf c).slice = slice)
    (hq : s.quiet (s.firstOf c) = true) (hst : (s.firstOf c).state = .opened ∨ (s.firstOf c).state = .failed)
    (hr : (s.firstOf c).rekey = none) : s.connDestroy slice k = (s.closeSet (s.firstOf c), Status.success, []) := by
  have hne : (s.firstOf c).state ≠ .connecting ∧ (s.firstOf c).state ≠ .closing := by
    rcases hst with h | h <;> simp [h]
  simp [State.connDestroy, hc, hsl, hq, hr, hne]

theorem connResume_unfences {k : Nat} {c : Conn} (hc : s.findConn k = some c) (hsl : c.slice = slice) (hq : s.quiet c = true) :
    s.connResume slice k = ((s.members c).foldl (fun s m => s.modConn m.index fun c => { c with fenced := false }) s,
      Status.success, []) := by
  simp [State.connResume, hc, hsl, hq]

theorem cyqPortSet_eq (port : Word16) : s.cyqPortSet 0 port =
    if s.trans.conns = [] then ({ s with trans.cyqPort := port }, Status.success, []) else (s, Status.busy, []) := by
  cases h : s.trans.conns <;> simp [State.cyqPortSet, h]

end Sys2Proof.Machine

open Sys2Proof Sys2Proof.Machine

/-- Settles O11: each command is taken up and passes its checks, so that it acts and answers. -/
theorem connectionCommandsAnswer : Obligations.ConnectionCommandsAnswer := by
  refine ⟨?_, ?_, ?_, ?_, ?_, ?_, ?_, ?_⟩
  · intro slice tag p s t h hact
    refine ⟨by simp only [exec, execConnListen, command_of_takesUp _ h, hact], ?_⟩
    rw [connListen_success hact, ← taken_trans h]
  · rintro slice tag p s t k h rfl hd hno hk
    simp only [exec, execConnCreate, hd, Bool.false_eq_true, if_false, take_of_takesUp h, State.connCreate, hno, hk]
  · intro slice tag p s c h hd hno
    simp only [exec, execConnCreate, hd, Bool.false_eq_true, if_false, take_of_takesUp h, State.connCreate, hno]
  · rintro slice tag k s t c h rfl hc hsl hq hst hr
    simp only [exec, execConnDestroy, command_of_takesUp _ h, connDestroy_closes hc hsl hq hst hr]
  · rintro slice tag k s t c h rfl hc hsl hq
    simp only [exec, execConnResume, command_of_takesUp _ h, connResume_unfences hc hsl hq]
  · rintro slice tag k slot s t c x h rfl hc hsl hx hkind hst hopen hf hsend hq hr
    have hkey : x.state ≠ .exhausted ∧ x.state ≠ .empty := by
      rcases hst with h | h <;> simp [h]
    simp only [exec, execConnRekey, take_of_takesUp h, State.connRekey, hc, hx]
    simp [hsl, hkind, hkey, hopen, hf, hq, hr, Option.isSome_iff_ne_none.1 hsend]
  · intro tag port s h hnil
    have hact := (cyqPortSet_eq (s := s.taken 0 tag MbxOp.cyqPortSet) port).trans (if_pos (by rw [taken_trans h, hnil]))
    refine ⟨_, rfl, ?_, command_hasAnswer (f := fun s => s.cyqPortSet 0 port) h hact, command_touches (f := fun s => s.cyqPortSet 0 port) h hact (by decide) (setTrans_moves ..).mono.frame⟩
    exact congrArg (fun x : State => x.trans.cyqPort) (command_eq_answer (f := fun s => s.cyqPortSet 0 port) h hact)
  · intro tag port s h hne
    have hact := (cyqPortSet_eq (s := s.taken 0 tag MbxOp.cyqPortSet) port).trans (if_neg (by rwa [taken_trans h]))
    exact ⟨_, rfl, command_hasAnswer (f := fun s => s.cyqPortSet 0 port) h hact, command_touches (f := fun s => s.cyqPortSet 0 port) h hact (by decide) (touches_refl _)⟩
end

section
/-! PROOFS. Pacing and arbitration. -/

set_option Elab.async false

namespace Sys2Proof.Machine

variable {s t : State} {p : Nat}

theorem port_modPort_same (hp : p < 10) (f : Port → Port) : (s.modPort p f).port p = f (s.port p) :=
  vget_vmod_same _ _ _ hp

theorem port_modPort_other {r : Nat} (hr : r ≠ p) (f : Port → Port) : (s.modPort p f).port r = s.port r :=
  vget_vmod_other _ _ _ hr

/-- Where no requester has waited long enough, one of the lowest rank is granted (R211). -/
theorem arbGrant_lowest {rank : Nat → Nat} {age : Nat} {guarded : Nat → Bool} {waited : Vector Nat 4} {last r : Nat}
    {asks : List Nat} (h : arbGrant rank age guarded waited last asks = some r) (hw : ∀ o ∈ asks, vget waited o 0 < age) :
    ∀ q ∈ asks, rank r ≤ rank q := by
  have haged : asks.filter (fun r => decide (age ≤ vget waited r 0) && asks.all fun o => o = r || !guarded o) = [] := by
    refine List.filter_eq_nil_iff.2 fun o ho => ?_
    simp [Nat.not_le.2 (hw o ho)]
  unfold arbGrant at h
  rw [haged] at h
  have hgood := chooseFrom_good h
  simp only [Bool.and_eq_true, decide_eq_true_eq] at hgood
  intro q hq
  exact (List.min?_eq_some_iff.1 hgood.2.symm).2 _ (List.mem_map_of_mem hq)

/-- The port's selection once it is known whom it grants. -/
theorem execEgressFrameSelect_granted {p : Fin 10} {r : Nat} (hup : s.linkUp p = true) (hen : s.portEnabled p = true)
    (ht : ((s.commitPort p).c7Refill p).countOverCap p = t) (hr : t.grantOf p = some r) :
    exec (.egressFrameSelect p) s = .next (match r with
      | 0 => match ((t.granted p r).port p).egress.find? fun (y : TxFrame) => y.cls = macClass with
        | some f => (t.granted p r).startFrame p f
        | none => t.granted p r
      | 1 => match (t.granted p r).c7Head p with
        | some f => ((t.granted p r).modPort p fun x =>
            { x with c7Tokens := x.c7Tokens - (t.granted p r).charged p f.bytes * 100 }).startFrame p f
        | none => t.granted p r
      | 2 => match (t.granted p r).replayHead p with
        | some f => (t.granted p r).resendFrame p f
        | none => t.granted p r
      | _ => match (t.granted p r).scheduled p ((t.granted p r).port p).dwrr ((t.granted p r).ready06 p) with
        | (turns, some f) => (((t.granted p r).modPort p fun x => { x with dwrr := turns }).startFrame p f).modPort p
            fun x => { x with dwrr := keepWaiting x.dwrr x.egress }
        | (_, none) => t.granted p r).settle := by
  simp only [exec, execEgressFrameSelect, hup, hen, and_self, if_true, State.selectFrame, ht, hr] <;> rfl

end Sys2Proof.Machine

open Sys2Proof Sys2Proof.Machine

/-- Settles O12: a visit and a selection are due, and what the port grants is known. -/
theorem pacingAndArbitration : Obligations.PacingAndArbitration := by
  refine ⟨?_, ?_, ?_, ?_, ?_, ?_, ?_⟩
  · intro k m s e he hpl hdue haw
    simp only [exec, execPacingWheelVisit, he]
    exact if_pos ⟨hpl, hdue, haw⟩
  · intro q m s e he hpl hdue haw
    simp only [exec, execPacingWheelVisit, he]
    exact if_pos ⟨hpl, hdue, haw⟩
  · intro p s t f hup hen ht hr hf
    have hegress : ((t.granted p 0).port p).egress = (t.port p).egress := by
      simp only [State.granted, port_modPort_same p.isLt]
    rw [execEgressFrameSelect_granted hup hen ht hr]
    simp only [hegress, hf]
  · intro p s t f hup hen ht hr hf
    rw [execEgressFrameSelect_granted hup hen ht hr]
    simp only [hf]
  · intro p s t f hup hen ht hr hf
    rw [execEgressFrameSelect_granted hup hen ht hr]
    simp only [hf]
  · intro p s t f turns hup hen ht hr hf
    rw [execEgressFrameSelect_granted hup hen ht hr]
    simp only [hf]
  · intro p r q s hr hq hg hreq hw
    refine arbGrant_lowest hg (fun o ho => ?_) q (List.mem_filter.2 ⟨List.mem_range.2 hq, hreq⟩)
    obtain ⟨ho4, hoask⟩ := List.mem_filter.1 ho
    exact (hw o (List.mem_range.1 ho4) hoask).trans_le (le_max_left ..)
end

section
/-! PROOFS. Throttle, buckets and commits. -/

set_option Elab.async false

namespace Sys2Proof.Machine

variable {s t : State} {p : Nat}

theorem rawReg_setRawReg_same (r : Reg) (k : Nat) (w : Word64) : (s.setRawReg r k w).rawReg r k = w := by
  simp [State.rawReg, State.setRawReg]

theorem rawReg_setRawReg_ne {r q : Reg} {k j : Nat} (h : (q.code, j) ≠ (r.code, k)) (w : Word64) :
    (s.setRawReg r k w).rawReg q j = s.rawReg q j := by
  simp [State.rawReg, State.setRawReg, assoc_assocSet_ne _ _ _ _ h]

@[simp] theorem port_bump (f : Fld) (k r : Nat) : (s.bump f k).port r = s.port r := by
  simp only [State.port, bump_ports]

/-! ## Levels (R200) -/

/-- The level whose threshold a depth has reached. -/
def levelReached (depth allow : Nat) : Nat :=
  if 3 * allow ≤ 4 * depth then 3 else if 2 * allow ≤ 4 * depth then 2 else if allow ≤ 4 * depth then 1 else 0

/-- A depth lies below the threshold at which a level is left. -/
def levelLeft (level depth allow : Nat) : Bool :=
  match level with
  | 0 => false
  | 1 => decide (16 * depth < 3 * allow)
  | 2 => decide (16 * depth < 7 * allow)
  | _ => decide (16 * depth < 11 * allow)

variable {level depth allow : Nat}

theorem throttleLevel_rise (h : level < levelReached depth allow) : throttleLevel level depth allow = levelReached depth allow :=
  if_pos h

theorem throttleLevel_fall (h : levelReached depth allow ≤ level) (hl : levelLeft level depth allow = true) :
    throttleLevel level depth allow = level - 1 :=
  (if_neg (Nat.not_lt.2 h)).trans (if_pos hl)

theorem throttleLevel_stay (h : levelReached depth allow ≤ level) (hl : levelLeft level depth allow = false) :
    throttleLevel level depth allow = level :=
  (if_neg (Nat.not_lt.2 h)).trans (if_neg (Bool.eq_false_iff.1 hl))

theorem levelReached_three (h : 3 * allow ≤ 4 * depth) : levelReached depth allow = 3 := if_pos h

theorem levelReached_two (h : 2 * allow ≤ 4 * depth) (h' : 4 * depth < 3 * allow) : levelReached depth allow = 2 :=
  (if_neg (by omega)).trans (if_pos h)

theorem levelReached_one (h : allow ≤ 4 * depth) (h' : 4 * depth < 2 * allow) : levelReached depth allow = 1 :=
  (if_neg (by omega)).trans ((if_neg (by omega)).trans (if_pos h))

theorem levelReached_zero (h : 4 * depth < allow) : levelReached depth allow = 0 :=
  (if_neg (by omega)).trans ((if_neg (by omega)).trans (if_neg (by omega)))

theorem levelReached_le_three : levelReached depth allow ≤ 3 := by
  unfold levelReached
  split_ifs <;> omega

theorem levelReached_le_two (h : 4 * depth < 3 * allow) : levelReached depth allow ≤ 2 := by
  unfold levelReached
  split_ifs <;> omega

theorem levelReached_le_one (h : 4 * depth < 2 * allow) : levelReached depth allow ≤ 1 := by
  unfold levelReached
  split_ifs <;> omega

/-- A level that is reached is not left: its threshold of leaving lies lower. -/
theorem throttleLevel_reached {n : Nat} (hn : levelReached depth allow = n) (hl : level ≤ n)
    (hstay : levelLeft n depth allow = false) : throttleLevel level depth allow = n := by
  rcases Nat.lt_or_eq_of_le hl with h | rfl
  · rw [throttleLevel_rise (hn ▸ h), hn]
  · exact throttleLevel_stay hn.le hstay

/-- Without a bucket the feed counts, for 10 s. -/
theorem value_of_noBuckets {e : SbtEntry} {now : Nat} (h : minOpt e.buckets = none) :
    e.value now = e.feed.bind fun f => if now < f.2 + 10000000000 then some f.1 else none := by
  simp only [SbtEntry.value, h]

end Sys2Proof.Machine

open Sys2Proof Sys2Proof.Machine

/-- Settles O13: the levels by what is reached and what is left, the buckets and the shadows by their one update. -/
theorem throttleBucketsAndCommits : Obligations.ThrottleBucketsAndCommits := by
  refine ⟨⟨?_, ?_⟩, ?_, ?_, ?_, ?_, ?_, ?_⟩
  · intro level depth allow hl ha
    refine ⟨fun h => ?_, fun h h' hle => ?_, fun h h' hle => ?_, ?_, ?_, ?_, ?_, ?_, ?_, ?_⟩
    · exact throttleLevel_reached (levelReached_three h) hl (by simp [levelLeft]; omega)
    · exact throttleLevel_reached (levelReached_two h h') hle (by simp [levelLeft]; omega)
    · exact throttleLevel_reached (levelReached_one h h') hle (by simp [levelLeft]; omega)
    · rintro rfl h
      exact throttleLevel_stay levelReached_le_three (by simp [levelLeft]; omega)
    · rintro rfl h
      exact throttleLevel_fall levelReached_le_three (by simp [levelLeft]; omega)
    · rintro rfl h h'
      exact throttleLevel_stay (levelReached_le_two h') (by simp [levelLeft]; omega)
    · rintro rfl h
      exact throttleLevel_fall (levelReached_le_two (by omega)) (by simp [levelLeft]; omega)
    · rintro rfl h h'
      exact throttleLevel_stay (levelReached_le_one h') (by simp [levelLeft]; omega)
    · rintro rfl h
      exact throttleLevel_fall (levelReached_le_one (by omega)) (by simp [levelLeft]; omega)
    · rintro rfl h
      exact throttleLevel_stay (levelReached_zero h).le rfl
  · intro p s hen
    by_cases h : throttleLevel (s.port p).throttle (s.queuedBytes p) (s.allowance p) = (s.port p).throttle
    · refine ⟨s, ?_, h.symm, fun _ _ => rfl, touches_refl _⟩
      simp only [exec, execThrottleEval, h, true_or, if_true]
    · have hexec : exec (.throttleEval p) s = .next ((s.modPort p fun x => { x with
          throttle := throttleLevel (s.port p).throttle (s.queuedBytes p) (s.allowance p) }).bump .prtThrottleStatLevelChanges p) := by
        simp only [exec, execThrottleEval, h, hen, Bool.not_true, Bool.false_eq_true, or_self, if_false]
      refine ⟨_, hexec, ?_, fun r hr => ?_, ?_⟩
      · rw [port_bump, port_modPort_same p.isLt]
      · rw [port_bump, port_modPort_other (Fin.val_ne_of_ne hr)]
      · exact ((modPort_moves s ..).mono.then (bump_moves ..) : s.Moves _ [.ports, .regs]).frame
  · intro p s
    have hport : (s.c7Refill p).port p = { s.port p with c7Tokens := s.c7Now p, c7At := s.time.now } := port_modPort_same p.isLt _
    have hnow : s.c7Now p = min (16384 * 100) ((s.port p).c7Tokens + (s.time.now - (s.port p).c7At) * portRate p * s.c7Cap) := by
      simp only [State.c7Now, c7Depth]
    exact ⟨_, rfl, (congrArg Port.c7Tokens hport).trans hnow, congrArg Port.c7At hport, fun r hr => port_modPort_other (Fin.val_ne_of_ne hr) _,
      (c7Refill_moves ..).frame⟩
  · intro s site e he
    by_cases h : s.time.now / 1000000000 ≤ s.trans.sbtSecond
    · have hn : s.sbtBehind = 0 := Nat.sub_eq_zero_of_le h
      refine ⟨s, e, by simp [exec, execSbtBucketRoll, State.sbtRoll, hn], he, rfl, (if_pos h).symm, (max_eq_left h).symm, touches_refl _⟩
    · have hn : s.sbtBehind ≠ 0 := by unfold State.sbtBehind; omega
      have hroll : s.sbtRoll = { s with trans.sbt := s.trans.sbt.map fun e => e.roll s.sbtBehind,
                                        trans.sbtSecond := s.trans.sbtSecond + s.sbtBehind } := if_neg hn
      refine ⟨_, e.roll s.sbtBehind, congrArg Host.Outcome.next hroll, ?_, rfl, (if_neg h).symm, ?_, (setTrans_moves ..).frame⟩
      · simp only [Vector.toList_map, List.getElem?_map, he, Option.map_some]
      · unfold State.sbtBehind
        dsimp only
        omega
  · intro e now v at_ hmin hfeed
    rw [value_of_noBuckets hmin, hfeed, Option.bind_some]
  · intro f s hm
    refine ⟨s.commitReg .memArbRank 0, by simp [exec, execMemArbCommit, hm], rawReg_setRawReg_same .., ?_, (setRawReg_moves ..).frame⟩
    exact rawReg_setRawReg_ne (by decide) _
  · intro f p s hm
    refine ⟨s.askCommit p, by simp [exec, execPrtSchedCommit, hm], congrArg Port.pendingSched (port_modPort_same p.isLt _),
      fun r hr => port_modPort_other (Fin.val_ne_of_ne hr) _, (modPort_moves ..).frame⟩
  · intro p s q r hp
    have hcommit : s.commitPort p = ((s.setRawReg .prtSchedQuantum (inForceAt p) q).setRawReg .prtArbRank (inForceAt p) r).modPort p
        fun x => { x with pendingSched := none } := by
      simp only [State.commitPort, hp]
    rw [hcommit]
    refine ⟨congrArg Port.pendingSched (port_modPort_same p.isLt _), ?_, rawReg_setRawReg_same ..⟩
    refine (rawReg_setRawReg_ne (s := s.setRawReg .prtSchedQuantum (inForceAt p) q) ?_ r).trans (rawReg_setRawReg_same ..)
    intro h
    exact absurd (Prod.mk.inj h).1 (by decide)
end

section
/-! PROOFS. Links going up and down. -/

set_option Elab.async false

namespace Sys2Proof.Machine

variable {s t : State} {p : Nat}

/-! ## Ports after an operation -/

theorem port_congr (h : t.ports = s.ports) (r : Nat) : t.port r = s.port r := by
  simp [State.port, h]

/-- What holds of a port holds of it after a change of some port that keeps it. -/
theorem port_modPort_keeps {P : Port → Prop} {r : Nat} {f : Port → Port} (hf : ∀ x, P x → P (f x)) (h : P (s.port p)) :
    P ((s.modPort r f).port p) := by
  by_cases hr : p = r
  · subst hr
    by_cases hp : p < 10
    · rw [port_modPort_same hp]
      exact hf _ h
    · have hnone : s.ports[p]? = none := by simpa using hp
      have hsame : vmod s.ports p f = s.ports := by simp [vmod, hnone]
      rwa [port_congr (s := s) hsame]
  · rwa [port_modPort_other hr]

/-- A fold keeps what its steps keep. -/
theorem foldl_keeps {α β : Type} {P : β → Prop} {f : β → α → β} (l : List α) {b : β} (hf : ∀ b a, P b → P (f b a)) (h : P b) :
    P (l.foldl f b) := by
  induction l generalizing b with
  | nil => exact h
  | cons a l ih => exact ih (hf b a h)

theorem seesLight_keeps (x : Port) : x.seesLight.link = x.link ∧ x.seesLight.egress = x.egress ∧ x.seesLight.replay = x.replay := by
  unfold Port.seesLight
  split <;> exact ⟨rfl, rfl, rfl⟩

theorem linkUp_iff : s.linkUp p = true ↔ (s.port p).link = .up := by
  simp [State.linkUp]

/-! ## The end of a link -/

/-- No frame waits at a port. -/
structure Port.Empty (x : Port) : Prop where
  egress : x.egress = []
  waitRoom : x.waitRoom = []
  replay : x.replay = []

theorem freeForwarded_keeps {P : Port → Prop} {q : Nat} {f : RxFrame} (hf : ∀ (x : Port) (v w : Vector Nat 4), P x → P { x with freed := v, keptBack := w })
    (h : P (s.port p)) : P ((s.freeForwarded q f).port p) := by
  unfold State.freeForwarded State.freeVl
  generalize (if q = 8 then 9 else 8) = r
  split
  · exact h
  · split
    · exact port_modPort_keeps (fun x hx => hf x x.freed _ hx) h
    · exact port_modPort_keeps (fun x hx => hf x _ x.keptBack hx) h

theorem dropQueued_empty (hp : p < 10) : ((s.dropQueued p).port p).Empty := by
  unfold State.dropQueued
  dsimp only
  refine foldl_keeps (P := fun u => (State.port u p).Empty) _ (fun u f hu => ?_) ?_
  · split
    · exact freeForwarded_keeps (fun x _ _ hx => ⟨hx.egress, hx.waitRoom, hx.replay⟩) hu
    · rwa [port_congr ((endWith_moves ..).frame .ports (by decide))]
    · exact hu
  · rw [port_modPort_same hp]
    exact ⟨rfl, rfl, rfl⟩

/-- A link that goes down. -/
def State.linkLost (s : State) (p cause : Nat) : State :=
  (((s.dropQueued p).modPort p fun x => { x with link := .down, welt := false, weltOff := false, peer := none, peerWelt := false,
                                                 lastHelloRx := none, time1 := none }).portLink p cause).startTraining p

theorem goDown_of_up (h : s.linkUp p = true) (cause : Nat) : s.goDown p cause =
    if (s.linkLost p cause).sourcePort = some p then (s.linkLost p cause).sourceState true else s.linkLost p cause := by
  simp only [State.goDown, h, Bool.not_true, Bool.false_eq_true, if_false]
  rfl

theorem linkLost_port (hp : p < 10) (cause : Nat) : ((s.linkLost p cause).port p).link ≠ .up ∧ ((s.linkLost p cause).port p).Empty := by
  obtain ⟨he, hw, hr⟩ := dropQueued_empty (s := s) hp
  unfold State.linkLost State.startTraining
  rw [port_modPort_same hp, port_congr ((portLink_moves ..).frame .ports (by decide)), port_modPort_same hp]
  refine ⟨?_, he, hw, hr⟩
  dsimp only
  split <;> simp

/-- The event of a link that has gone down. -/
theorem linkLost_event (hp : p < 10) (cause : Nat) :
    (s.linkLost p cause).queue.events.any (fun e => e.slice = 0 && e.code = EventCode.portLink && e.object = p
      && e.info / 256 % 256 = cause % 256) = true := by
  unfold State.linkLost State.startTraining
  rw [modPort_queue, State.portLink]
  simp only [port_modPort_same hp]
  refine List.any_eq_true.2 ⟨_, List.mem_append_right _ (List.mem_singleton_self _), ?_⟩
  simp

theorem sourceState_events (lost : Bool) : s.queue.events ⊆ (s.sourceState lost).queue.events := by
  unfold State.sourceState
  split
  · exact List.Subset.refl _
  · exact List.subset_append_left ..

/-! ## The return of a link -/

/-- Telling of a link changes no port. -/
theorem announced_ports (u : State) (p : Nat) :
    (if ((u.portLink p 0).spanEvent p).sourcePort = some p then ((u.portLink p 0).spanEvent p).sourceState false
      else (u.portLink p 0).spanEvent p).ports = u.ports := by
  have hspan : u.Moves ((u.portLink p 0).spanEvent p) [.queue, .time] := (portLink_moves ..).mono.then (spanEvent_moves ..)
  exact (State.Moves.ite (hspan.then (sourceState_moves ..)) hspan).frame .ports (by decide)

theorem comeUp_port {interface laneMap polarity : Nat} (hp : p < 10) :
    ((s.comeUp p interface laneMap polarity).port p).link = .up
      ∧ ((s.comeUp p interface laneMap polarity).port p).upSince = s.time.now
      ∧ ((s.comeUp p interface laneMap polarity).port p).interface = interface
      ∧ (8 ≤ p → ((s.comeUp p interface laneMap polarity).port p).welt = true)
      ∧ ((s.comeUp p interface laneMap polarity).port p).egress = (s.port p).egress
      ∧ ∀ r, r ≠ p → (s.comeUp p interface laneMap polarity).port r = s.port r := by
  unfold State.comeUp
  simp only [port_congr (announced_ports _ p)]
  split
  · simp only [State.startWelt, port_modPort_same hp]
    refine ⟨trivial, trivial, trivial, fun _ => trivial, trivial, fun r hr => ?_⟩
    rw [port_modPort_other hr, port_modPort_other hr]
  · rename_i h
    simp only [port_modPort_same hp]
    exact ⟨trivial, trivial, trivial, fun h8 => absurd (.inl h8) h, trivial, fun r hr => port_modPort_other hr _⟩

end Sys2Proof.Machine

open Sys2Proof Sys2Proof.Machine

/-- Settles O14: what stands at a port is followed through the operations of its link. -/
theorem linkEvents : Obligations.LinkEvents := by
  refine ⟨?_, ?_, ?_, ?_, ?_, ?_, ?_, ?_, ?_, ?_⟩
  · intro p dark s hup hloss
    have hexec : exec (.linkSignalLoss p dark) s = .next (s.modPort p fun x =>
        { x with lossSince := some s.time.now, dark := dark && decide (8 ≤ p.val) }) := by
      simp [exec, execLinkSignalLoss, State.looks, hup, hloss]
    have hport := port_modPort_same (s := s) p.isLt fun x => { x with lossSince := some s.time.now, dark := dark && decide (8 ≤ p.val) }
    exact ⟨_, hexec, by rw [hport], by rw [hport]; exact linkUp_iff.1 hup, by rw [hport],
      fun r hr => port_modPort_other (Fin.val_ne_of_ne hr) _, (modPort_moves ..).frame⟩
  · intro p s l hup hloss hshort
    have hexec : exec (.linkHit p) s = .next ((s.modPort p fun x =>
        { x.resendAll.seesLight with lossSince := none, dark := false, lastStatusRx := s.time.now }).portCount p 19 1) := by
      simp only [exec, execLinkHit, hup, hloss, Bool.not_true, Bool.false_eq_true, if_false]
      rw [if_pos (by simpa using hshort)]
    have hsame : ∀ r, (((s.modPort p fun x =>
        { x.resendAll.seesLight with lossSince := none, dark := false, lastStatusRx := s.time.now }).portCount p 19 1).port r)
        = (s.modPort p fun x =>
        { x.resendAll.seesLight with lossSince := none, dark := false, lastStatusRx := s.time.now }).port r :=
      port_congr ((portCount_moves ..).frame .ports (by decide))
    obtain ⟨hl, he, hr⟩ := seesLight_keeps (s.port p).resendAll
    refine ⟨_, hexec, ?_, ?_, ?_, ?_, ?_, fun r hr => ?_, ?_⟩
    · rw [hsame, port_modPort_same p.isLt]
    · rw [hsame, port_modPort_same p.isLt]
      exact hl.trans (linkUp_iff.1 hup)
    · rw [hsame, port_modPort_same p.isLt]
    · rw [hsame, port_modPort_same p.isLt]
      exact he
    · rw [hsame, port_modPort_same p.isLt]
      exact hr
    · rw [hsame, port_modPort_other (Fin.val_ne_of_ne hr)]
    · exact ((modPort_moves s ..).mono.then (portCount_moves ..) : s.Moves _ [.ports, .regs]).frame
  · intro p s l hup hloss hlate
    simp only [exec, execLinkDown, hloss]
    rw [if_pos ⟨hup, hlate⟩]
  · intro p cause s hup
    rw [goDown_of_up hup]
    obtain ⟨hlink, he, hw, hr⟩ := linkLost_port (s := s) p.isLt cause
    have hevent := linkLost_event (s := s) p.isLt cause
    split
    · have hports : ((s.linkLost p cause).sourceState true).ports = (s.linkLost p cause).ports :=
        (sourceState_moves ..).frame .ports (by decide)
      rw [port_congr hports]
      refine ⟨hlink, he, hw, hr, ?_⟩
      obtain ⟨e, hmem, hthis⟩ := List.any_eq_true.1 hevent
      exact List.any_eq_true.2 ⟨e, sourceState_events true hmem, hthis⟩
    · exact ⟨hlink, he, hw, hr, hevent⟩
  · intro p i l q s hen hlink hforce hready hpause
    have hexec : exec (.linkUp p i l q) s = .next (s.comeUp p (s.trainsAs p i) l q) := by
      simp only [exec, execLinkUp]
      rw [if_pos]
      refine ⟨hen, hlink, by simp [hforce], ?_, by simp [hpause]⟩
      simpa using hready
    obtain ⟨h1, h2, h3, h4, h5, h6⟩ := comeUp_port (s := s) (interface := s.trainsAs p i) (laneMap := l) (polarity := q) p.isLt
    exact ⟨_, hexec, h1, h2, h3, h4, h5, fun r hr => h6 r (Fin.val_ne_of_ne hr), (comeUp_moves ..).mono.frame⟩
  · intro p s hp hlink hint hfld hpass
    have hexec : exec (.autonegTimeout p) s = .next (s.modPort p fun x => { x with interface := 2 }) := by
      simp only [exec, execAutonegTimeout]
      rw [if_pos ⟨hp, hlink, hint, hfld, hpass⟩]
    have hport := port_modPort_same (s := s) p.isLt fun x => { x with interface := 2 }
    exact ⟨_, hexec, by rw [hport], by rw [hport]; exact hlink, fun r hr => port_modPort_other (Fin.val_ne_of_ne hr) _,
      (modPort_moves ..).frame⟩
  · intro f p v s hm hp
    simp only [exec, execInterfaceWrite, hm, Bool.not_true, Bool.false_eq_true, if_false, hp, if_true]
  · intro f p v s hm hp
    simp only [exec, execInterfaceWrite, hm, Bool.not_true, Bool.false_eq_true, if_false, Nat.not_lt.2 hp]
  · intro f p s hm hforce hup
    simp only [exec, execRetrain, hm, if_true, State.retrain, hforce, Bool.false_eq_true, if_false, hup]
  · intro f p s hm hup
    refine ⟨(s.setFld .prtLinkCtrlForceDown p 1).modPort p fun x => { x with forceDown := true }, ?_, ?_, ?_, ?_, ?_⟩
    · have hup' : ((s.setFld .prtLinkCtrlForceDown p 1).modPort p fun x => { x with forceDown := true }).linkUp p = true := by
        rw [linkUp_iff, port_modPort_same p.isLt]
        exact linkUp_iff.1 hup
      simp only [exec, execForceDown, hm, if_true, State.setForceDown, hup']
    · rw [port_modPort_same p.isLt]
    · rw [port_modPort_same p.isLt]
      exact linkUp_iff.1 hup
    · exact rawReg_setRawReg_same ..
    · exact ((setFld_moves ..).mono.then (modPort_moves ..) : s.Moves _ [.ports, .regs]).frame
end

section
/-! PROOFS. Pause and arriving frames. -/

set_option Elab.async false

namespace Sys2Proof.Machine

variable {s t : State} {p : Nat}

theorem portCount_port (i n r : Nat) : (s.portCount p i n).port r = s.port r :=
  port_congr ((portCount_moves ..).frame .ports (by decide)) r

/-- A frame of the MAC's own always finds room. -/
theorem queueMac_appends (b : FrameBody) : ∃ f : TxFrame, f.cls = macClass ∧ f.body = b
    ∧ s.queueMac p b = s.modPort p fun x => { x with egress := x.egress ++ [f] } := by
  refine ⟨{ body := b, cls := macClass, bytes := 64, queuedAt := s.time.now, vlan := match b with
    | .packet _ | .ctrl .. => s.tagFor p macClass
    | _ => none }, rfl, rfl, ?_⟩
  have hroom : ∀ f : TxFrame, f.cls = macClass → s.roomFor p f = true := by
    intro f hf
    simp [State.roomFor, hf, macClass]
  unfold State.queueMac State.queueFrame
  dsimp only
  rw [if_pos (hroom _ rfl)]
  cases b <;> simp [macClass]

/-- Values written one after another, each at its own place. -/
theorem vget_foldl_vset {α : Type} {n : Nat} (g : Nat → α) (l : List Nat) (v : Vector α n) (d : α) {j : Nat} (hj : j < n) :
    vget (l.foldl (fun v k => vset v k (g k)) v) j d = if j ∈ l then g j else vget v j d := by
  induction l generalizing v with
  | nil => simp
  | cons k l ih =>
    rw [List.foldl_cons, ih]
    by_cases hjl : j ∈ l
    · simp [hjl]
    · by_cases hjk : j = k
      · subst hjk
        simp [hjl, vget_vset_same _ _ _ _ hj]
      · simp [hjl, hjk, vget_vset_other _ _ _ _ _ hjk]

/-! ## Pause (R326, R327) -/

theorem execPfcFrame_up {p : Fin 10} {mask : Nat} {quanta : List Nat} (hen : s.portEnabled p = true) (hup : s.linkUp p = true) :
    exec (.pfcFrame p mask quanta) s = .next ((s.countControl p).obeyPfc p mask quanta) := by
  simp only [exec, execPfcFrame, hen, hup, and_self, if_true]

/-- The priorities that a pause names. -/
def pausedPriorities (mask : Nat) : List Nat := (List.range 8).filter fun k => mask.testBit k

theorem pausedCounts_moves (mask : Nat) : s.Moves ((pausedPriorities mask).foldl (fun s k => s.portCount p (20 + k) 1) s) [.regs] :=
  .foldl .refl fun _ _ => portCount_moves ..

theorem obeyPfc_chain (hp : 8 ≤ p) (mask : Nat) (quanta : List Nat) :
    s.obeyPfc p mask quanta = (pausedPriorities mask).foldl (fun s k => s.portCount p (20 + k) 1) s :=
  if_pos hp

/-- What a received pause makes of a fabric port. -/
def Port.paused (x : Port) (mask : Nat) (quanta : List Nat) (now : Nat) : Port :=
  { x with pausedRx := (pausedPriorities mask).foldl (fun v k =>
      vset v k (if quanta.getD k 0 = 0 then 0 else now + ceilDiv (quanta.getD k 0 * 64) 100)) x.pausedRx }

theorem obeyPfc_fabric (hp : p < 8) (mask : Nat) (quanta : List Nat) :
    ((s.obeyPfc p mask quanta).port p = (s.port p).paused mask quanta s.time.now)
      ∧ ∀ r, r ≠ p → (s.obeyPfc p mask quanta).port r = s.port r := by
  have hcount := pausedCounts_moves (s := s) (p := p) mask
  have heq : s.obeyPfc p mask quanta = ((pausedPriorities mask).foldl (fun s k => s.portCount p (20 + k) 1) s).modPort p
      fun x => x.paused mask quanta ((pausedPriorities mask).foldl (fun s k => s.portCount p (20 + k) 1) s).time.now :=
    if_neg (Nat.not_le.2 hp)
  have htime : ((pausedPriorities mask).foldl (fun s k => s.portCount p (20 + k) 1) s).time = s.time := hcount.frame .time (by decide)
  have hports := port_congr (hcount.frame .ports (by decide))
  rw [heq, htime]
  exact ⟨by rw [port_modPort_same (by omega), hports], fun r hr => by rw [port_modPort_other hr, hports]⟩

theorem paused_rx (x : Port) (mask : Nat) (quanta : List Nat) (now : Nat) (k : Fin 8) :
    vget (x.paused mask quanta now).pausedRx k 0 = if mask.testBit k then
      (if quanta.getD k 0 = 0 then 0 else now + ceilDiv (quanta.getD k 0 * 64) 100) else vget x.pausedRx k 0 := by
  have hmem : k.val ∈ pausedPriorities mask ↔ mask.testBit k = true := by
    simp [pausedPriorities]
  rw [Port.paused]
  dsimp only
  rw [vget_foldl_vset _ _ _ _ k.isLt]
  simp only [hmem]

/-! ## Arriving frames (R320) -/

/-- A frame with a good FCS and a fitting length, on a link that is up. -/
theorem receiveFrame_fits {fr : RxFrame} (hen : s.portEnabled p = true) (hup : s.linkUp p = true) (hfcs : fr.fcsOk = true)
    (hlo : 64 ≤ fr.length) (hhi : fr.length ≤ 9216) : s.receiveFrame p fr = match fr.kind with
      | .pfc mask quanta => ((s.portCount p 0 1).portCount p 1 fr.length).obeyPfc p mask quanta
      | .weltControl => (s.portCount p 0 1).portCount p 1 fr.length
      | .pause8023x => ((s.portCount p 0 1).portCount p 1 fr.length).portCount p 15 1
      | _ =>
        if !(s.port p).welt then ((s.portCount p 0 1).portCount p 1 fr.length).classify p 0 fr
        else match fr.weltTag with
          | none => (s.portCount p 0 1).portCount p 1 fr.length
          | some (lane, seq) =>
            match ((s.portCount p 0 1).portCount p 1 fr.length).acceptWelt p lane seq with
            | (u, true) => (u.countWelt p).classify p lane fr
            | (u, false) => u.countWelt p := by
  have hlen : ¬((if (s.port p).welt then 9224 else 9216) < fr.length ∨ fr.length < 64) := by
    split <;> omega
  simp only [State.receiveFrame, hen, hup, hfcs, Bool.not_true, Bool.false_eq_true, or_self, if_false, if_neg hlen] <;> rfl

theorem receiveFrame_data {fr : RxFrame} (hen : s.portEnabled p = true) (hup : s.linkUp p = true) (hfcs : fr.fcsOk = true)
    (hlo : 64 ≤ fr.length) (hhi : fr.length ≤ 9216) (hpfc : ∀ m q, fr.kind ≠ .pfc m q) (hctl : fr.kind ≠ .weltControl)
    (hpause : fr.kind ≠ .pause8023x) : s.receiveFrame p fr =
      if !(s.port p).welt then ((s.portCount p 0 1).portCount p 1 fr.length).classify p 0 fr
      else match fr.weltTag with
        | none => (s.portCount p 0 1).portCount p 1 fr.length
        | some (lane, seq) =>
          match ((s.portCount p 0 1).portCount p 1 fr.length).acceptWelt p lane seq with
          | (u, true) => (u.countWelt p).classify p lane fr
          | (u, false) => u.countWelt p := by
  rw [receiveFrame_fits hen hup hfcs hlo hhi]
  split
  · rename_i h
    exact absurd h (hpfc _ _)
  · rename_i h
    exact absurd h hctl
  · rename_i h
    exact absurd h hpause
  · rfl

/-! ## Frames of a Welt link (R333) -/

theorem modPort_modPort (f g : Port → Port) : (s.modPort p f).modPort p g = s.modPort p (g ∘ f) := by
  unfold State.modPort vmod
  cases h : s.ports[p]? with
  | none => simp [h]
  | some x =>
    have hp : p < 10 := by
      by_contra hp
      simp [hp] at h
    simp [hp]

theorem countWelt_few (hp : p < 10) (h : (s.port p).sinceStatus < 15) :
    s.countWelt p = s.modPort p fun x => { x with sinceStatus := x.sinceStatus + 1 } := by
  unfold State.countWelt
  dsimp only
  rw [if_neg]
  rw [port_modPort_same hp]
  dsimp only
  omega

/-- Every sixteenth frame a STATUS goes out, and the count starts again. -/
theorem countWelt_due (hp : p < 10) (h : 15 ≤ (s.port p).sinceStatus) :
    ∃ g : Port → Port, (∀ x, (g x).sinceStatus = 0) ∧ s.countWelt p = s.modPort p g := by
  have hcount : s.countWelt p = (s.modPort p fun x => { x with sinceStatus := x.sinceStatus + 1 }).sendStatus p := by
    unfold State.countWelt
    dsimp only
    rw [if_pos]
    rw [port_modPort_same hp]
    dsimp only
    omega
  rw [hcount, State.sendStatus]
  obtain ⟨f, -, -, hput⟩ := queueMac_appends (p := p) (s := s.modPort p fun x => { x with sinceStatus := x.sinceStatus + 1 }) _
  rw [hput, modPort_modPort, modPort_modPort]
  exact ⟨_, fun _ => rfl, rfl⟩

variable {lane : Nat} {seq : Word32}

theorem acceptWelt_next (hl : lane < 4) (h : seq = vget (s.port p).rxSeq lane 0) :
    s.acceptWelt p lane seq = (s.modPort p fun x =>
      { x with rxSeq := vset x.rxSeq lane (seq + 1), nakSent := vset x.nakSent lane false }, true) := by
  unfold State.acceptWelt
  dsimp only
  rw [if_pos ⟨hl, h⟩, h]

theorem vget_default {α : Type} {n : Nat} (v : Vector α n) {k : Nat} (hk : k < n) (a b : α) : vget v k a = vget v k b := by
  simp [vget, hk]

theorem acceptWelt_nakSent (hl : lane < 4) (h : seq ≠ vget (s.port p).rxSeq lane 0) (hn : vget (s.port p).nakSent lane false = true) :
    s.acceptWelt p lane seq = (s, false) := by
  have hn' : vget (s.port p).nakSent lane true = true := (vget_default _ hl _ _).trans hn
  unfold State.acceptWelt
  dsimp only
  rw [if_neg (fun hc => h hc.2), if_neg (by simp [hn'])]

theorem acceptWelt_naks (hl : lane < 4) (h : seq ≠ vget (s.port p).rxSeq lane 0) (hn : vget (s.port p).nakSent lane false = false) :
    ∃ f : TxFrame, f.body = .weltNak lane (vget (s.port p).rxSeq lane 0) ∧ s.acceptWelt p lane seq =
      (s.modPort p fun x => { x with egress := x.egress ++ [f], nakSent := vset x.nakSent lane true }, false) := by
  have hn' : vget (s.port p).nakSent lane true = false := (vget_default _ hl _ _).trans hn
  obtain ⟨f, -, hbody, hput⟩ := queueMac_appends (s := s) (p := p) (.weltNak lane (vget (s.port p).rxSeq lane 0))
  refine ⟨f, hbody, ?_⟩
  unfold State.acceptWelt
  dsimp only
  rw [if_neg (fun hc => h hc.2), if_pos ⟨hl, by simp [hn']⟩, hput, modPort_modPort]
  rfl

end Sys2Proof.Machine

open Sys2Proof Sys2Proof.Machine

/-- Settles O15: the frame is followed through the checks of R320 in their order. -/
theorem pauseAndArrivingFrames : Obligations.PauseAndArrivingFrames := by
  refine ⟨⟨?_, ?_, ?_, ?_⟩, ?_, ?_, ?_, ?_, ?_, ?_, ?_, ?_, ?_, ?_, ?_⟩
  · intro p mask quanta s hen hup hp
    obtain ⟨hport, hother⟩ := obeyPfc_fabric (s := s.countControl p) hp mask quanta
    have hcount : ∀ r, (s.countControl p).port r = s.port r := port_congr ((countControl_moves ..).frame .ports (by decide))
    have htime : (s.countControl p).time = s.time := (countControl_moves ..).frame .time (by decide)
    rw [hcount, htime] at hport
    refine ⟨_, execPfcFrame_up hen hup, fun k => ?_, ?_, fun r hr => ?_, ?_⟩
    · rw [hport, paused_rx]
    · rw [hport]; rfl
    · rw [hother r (Fin.val_ne_of_ne hr), hcount]
    · exact ((countControl_moves s _).mono.then (obeyPfc_moves ..) : s.Moves _ [.ports, .regs]).frame
  · intro p mask quanta s hen hup hp
    refine ⟨_, execPfcFrame_up hen hup, ?_⟩
    rw [obeyPfc_chain hp]
    exact ((countControl_moves s _).then (pausedCounts_moves mask)).frame
  · intro p k s hdue
    have hexec : exec (.pfcPauseExpiry p k) s = .next (s.modPort p fun x => { x with pausedRx := vset x.pausedRx k 0 }) := by
      simp only [exec, execPfcPauseExpiry, hdue, if_true]
    have hport := port_modPort_same (s := s) p.isLt fun x => { x with pausedRx := vset x.pausedRx k 0 }
    refine ⟨_, hexec, ?_, fun j hj => ?_, by rw [hport], fun r hr => port_modPort_other (Fin.val_ne_of_ne hr) _, (modPort_moves ..).frame⟩
    · rw [hport]
      exact vget_vset_same _ _ _ _ k.isLt
    · rw [hport]
      exact vget_vset_other _ _ _ _ _ (Fin.val_ne_of_ne hj)
  · intro p k s hup hoff hdue
    have hexec : exec (.pfcRefreshTimer p k) s = .next (s.pausePeer p k) := by
      simp only [exec, execPfcRefreshTimer]
      rw [if_pos ⟨hup, hoff, hdue⟩]
    obtain ⟨f, hcls, hbody, hput⟩ := queueMac_appends (p := p) (s := s.modPort p fun x =>
      { x with xoff := vset x.xoff k true, nextXoff := vset x.nextXoff k (s.time.now + s.refreshNs p) })
      (.pfc (2 ^ k.val) ((List.range 8).map fun j => if j = k.val then 0xFFFF else 0))
    have hpeer : s.pausePeer p k = _ := hput
    rw [hpeer] at hexec
    refine ⟨_, hexec, ?_, ⟨f, ?_, hcls, hbody⟩, fun r hr => ?_, ?_⟩
    · rw [port_modPort_same p.isLt, port_modPort_same p.isLt]
      exact vget_vset_same _ _ _ _ k.isLt
    · rw [port_modPort_same p.isLt, port_modPort_same p.isLt]
    · rw [port_modPort_other (Fin.val_ne_of_ne hr), port_modPort_other (Fin.val_ne_of_ne hr)]
    · exact ((modPort_moves s ..).then (modPort_moves ..)).frame
  · intro p fr s hen hup hfcs
    simp only [exec, execFrameReceive, State.receiveFrame, hen, hup, hfcs, Bool.not_true, Bool.not_false, Bool.false_eq_true, or_self,
      if_false, if_true]
  · intro p fr s hen hup hfcs hlen
    simp only [exec, execFrameReceive, State.receiveFrame, hen, hup, hfcs, Bool.not_true, Bool.false_eq_true, or_self, if_false,
      if_pos hlen.symm]
  · intro p fr s hen hup hfcs hlo hhi hk
    simp only [exec, execFrameReceive, receiveFrame_fits hen hup hfcs hlo hhi, hk]
  · intro p fr m q s hen hup hfcs hlo hhi hk
    simp only [exec, execFrameReceive, receiveFrame_fits hen hup hfcs hlo hhi, hk]
  · intro p fr s hen hup hfcs hlo hhi hpfc hctl hpause hw
    simp only [exec, execFrameReceive, receiveFrame_data hen hup hfcs hlo hhi hpfc hctl hpause, hw, Bool.not_false, if_true]
  · intro p fr s t lane seq hen hup hfcs hlo hhi hpfc hctl hpause hw htag hacc
    simp only [exec, execFrameReceive, receiveFrame_data hen hup hfcs hlo hhi hpfc hctl hpause, hw, Bool.not_true, Bool.false_eq_true,
      if_false, htag, hacc]
  · intro p fr s t lane seq hen hup hfcs hlo hhi hpfc hctl hpause hw htag hacc
    simp only [exec, execFrameReceive, receiveFrame_data hen hup hfcs hlo hhi hpfc hctl hpause, hw, Bool.not_true, Bool.false_eq_true,
      if_false, htag, hacc]
  · intro p s hp hlt
    rw [countWelt_few hp (by omega)]
    exact ⟨by rw [port_modPort_same hp], (modPort_moves ..).frame⟩
  · intro p s hp hle
    obtain ⟨g, hg, hcount⟩ := countWelt_due hp hle
    rw [hcount]
    exact ⟨by rw [port_modPort_same hp, hg], (modPort_moves ..).frame⟩
  · intro p lane seq s hl hseq hp
    rw [acceptWelt_next hl hseq]
    refine ⟨rfl, ?_⟩
    rw [port_modPort_same hp]
    exact vget_vset_same _ _ _ _ hl
  · intro p lane seq s hl hseq hp
    by_cases hnak : vget (s.port p).nakSent lane false = true
    · rw [acceptWelt_nakSent hl hseq hnak]
      exact ⟨rfl, rfl, fun h => absurd hnak (by simp [h])⟩
    · obtain ⟨f, hbody, hacc⟩ := acceptWelt_naks (p := p) hl hseq (by simpa using hnak)
      rw [hacc]
      dsimp only
      rw [port_modPort_same hp]
      exact ⟨rfl, rfl, fun _ => ⟨vget_vset_same _ _ _ _ hl, f, rfl, hbody⟩⟩
end

section
/-! PROOFS. Frames and their filters. -/

set_option Elab.async false

namespace Sys2Proof.Machine

variable {s t : State} {p lane : Nat} {fr : RxFrame}

/-! ## Where an accepted frame goes -/

/-- A frame at a port without a fault, outside a pause. -/
theorem classify_open (hw : (s.port p).wireFault = 0) (hp : s.inPause = false) : s.classify p lane fr =
    if p < 8 ∧ 1 < fr.tags.length then s.portCount p 6 1
    else match fr.kind with
      | .neighborSolicit target =>
        if s.activeBank.isSome ∧ target = ipOf s.ownPrefix s.coord p then (s.advertise p fr target).done p lane fr
        else (s.toFilters p fr).done p lane fr
      | .udp =>
        let a := readFrame p fr.bytes
        if s.addressOk a then
          if p < 8 ∧ !s.tagAccepted p fr.tags then s.portCount p 6 1
          else if p < 8 then s.holdFrame p ((fr.tags.head?.map (·.pcp)).getD 0) fr.length a
          else { s with ingress := s.ingress ++ [({ arrival := a, bytes := fr.length, vl := lane } : Held)] }
        else if 8 ≤ p ∧ !s.ownPortOf a.dst 8 ∧ !s.ownPortOf a.dst 9 then s.forwardFrame p fr a lane
        else (s.toFilters p fr).done p lane fr
      | _ => (s.toFilters p fr).done p lane fr := by
  have hno : ¬((s.port p).wireFault ≠ 0 ∨ (s.inPause = true ∧ s.classIn p lane fr ≠ 7)) := by
    simp [hw, hp]
  exact if_neg hno

theorem not_twoTags (h : 8 ≤ p ∨ fr.tags.length ≤ 1) : ¬(p < 8 ∧ 1 < fr.tags.length) := by
  omega

/-- A fabric frame has no buffer of a chain lane to free. -/
theorem done_fabric (hp : p < 8) : s.done p lane fr = s := if_pos hp

/-! ## Filters (R321) -/

theorem assoc_assocDel_ne {κ β : Type} [DecidableEq κ] (l : List (κ × β)) {k j : κ} (h : j ≠ k) :
    assoc (assocDel l k) j = assoc l j := by
  induction l with
  | nil => rfl
  | cons x r ih =>
    obtain ⟨a, w⟩ := x
    by_cases ha : a = k <;> by_cases hj : j = a <;> simp_all [assocDel, assoc]

theorem taken_filters {slice : Nat} {tag : Word32} {op : Nat} (h : s.takesUp slice tag op) :
    (s.taken slice tag op).filters = s.filters :=
  taken_touches h .filters (by decide)

/-- What a command's action and its answer change. -/
theorem answered_touches {slice : Nat} {tag : Word32} {op : Nat} {st : Status} {info : List Nat} {u : State} {ps : List Part}
    (h : s.takesUp slice tag op) (hmbx : .mailboxes ∈ ps) (hu : (s.taken slice tag op).touches u ps) :
    s.touches (u.answer slice tag op st 0 info) ps := by
  have hsub : [Part.mailboxes] ⊆ ps := by simpa using hmbx
  exact touches_trans (touches_mono hsub (taken_touches h))
    (touches_trans hu (touches_mono hsub (answer_touches (s := u) slice tag op st 0 info)))

/-- A command that is taken up, acts and answers. -/
theorem command_next {slice : Nat} {tag : Word32} {op : Nat} {f : State → State × Status × List Nat} {st : Status} {info : List Nat}
    {u : State} (h : s.takesUp slice tag op) (hact : f (s.taken slice tag op) = (u, st, info)) :
    (.next (s.command slice tag op f) : Result) = .next (u.answer slice tag op st 0 info) :=
  congrArg Host.Outcome.next (command_eq_answer h hact)

/-- The first element of which a function gives something, with those before it that give nothing. -/
theorem findSome_range {β : Type} {f : Nat → Option β} {n : Nat} {b : β} (h : (List.range n).findSome? f = some b) :
    ∃ k, f k = some b ∧ ∀ j, j < k → f j = none := by
  induction n with
  | zero => simp at h
  | succ n ih =>
    rw [List.range_succ, List.findSome?_append] at h
    cases hr : (List.range n).findSome? f with
    | some c =>
      rw [hr] at h
      exact ih (hr.trans h)
    | none =>
      rw [hr] at h
      refine ⟨n, by simpa using h, fun j hj => ?_⟩
      simpa using List.findSome?_eq_none_iff.1 hr j (List.mem_range.2 hj)

end Sys2Proof.Machine

open Sys2Proof Sys2Proof.Machine

/-- Settles O16: a frame that no fault or pause holds goes by its kind, and slice 0's commands set, clear and read one filter. -/
theorem framesAndFilters : Obligations.FramesAndFilters := by
  refine ⟨⟨?_, ?_, ?_, ?_, ?_, ?_, ?_⟩, ?_, ?_, ?_, ?_, ?_⟩
  · intro p lane fr s hw hp hlt htags
    rw [classify_open hw hp, if_pos ⟨hlt, htags⟩]
  · intro p lane fr target s hw hp htags hk hbank htarget
    rw [classify_open hw hp, if_neg (not_twoTags htags), hk]
    exact if_pos ⟨hbank, htarget⟩
  · intro p fr target s
    exact ⟨_, rfl, rfl, rfl⟩
  · rintro p lane fr a s rfl hw hp hlt htags hk haddr hacc
    rw [classify_open hw hp, if_neg (not_twoTags (.inr htags)), hk]
    simp [haddr, hacc, hlt]
  · rintro p lane fr a s rfl hw hp hge hk haddr
    rw [classify_open hw hp, if_neg (not_twoTags (.inl hge)), hk]
    simp [haddr, Nat.not_lt.2 hge]
  · rintro p lane fr a s rfl hw hp hge hk haddr h8 h9
    rw [classify_open hw hp, if_neg (not_twoTags (.inl hge)), hk]
    simp [haddr, hge, h8, h9]
  · intro p lane fr n s hw hp hlt htags hk
    rw [classify_open hw hp, if_neg (not_twoTags (.inr htags)), hk]
    cases hfilter : s.filterFor p fr with
    | none => simp only [done_fabric hlt, State.toFilters, hlt, if_true, hfilter]
    | some kq => simp only [done_fabric hlt, State.toFilters, hlt, if_true, hfilter]
  · intro tag k f s x h hk hz hx hraw
    have hq : (s.taken 0 tag MbxOp.filterSet).findQueue f.queue = some x :=
      (findQueue_congr (taken_touches h .queue (by decide)) _).trans hx
    refine ⟨_, command_next h (u := { s.taken 0 tag MbxOp.filterSet with filters := assocSet (s.taken 0 tag MbxOp.filterSet).filters k f }) (st := Status.success)
      (info := []) (by simp [hz, hq, hraw, Nat.not_lt.2 hk]), assoc_assocSet_self .., fun j hj => ?_, answer_hasAnswer .., answered_touches h (by decide) (setFilters_moves ..).mono.frame⟩
    exact (assoc_assocSet_ne _ _ _ _ hj).trans (by rw [taken_filters h])
  · intro tag k s h hk
    refine ⟨_, command_next h (u := { s.taken 0 tag MbxOp.filterClear with filters := assocDel (s.taken 0 tag MbxOp.filterClear).filters k }) (st := Status.success)
      (info := []) (by simp [Nat.not_lt.2 hk]), assoc_assocDel_self .., fun j hj => ?_, answer_hasAnswer .., answered_touches h (by decide) (setFilters_moves ..).mono.frame⟩
    exact (assoc_assocDel_ne _ hj).trans (by rw [taken_filters h])
  · intro tag k s h hk
    exact ⟨_, command_next h (u := s.taken 0 tag MbxOp.filterRead) (st := Status.success)
      (info := filterFields (assoc s.filters k)) (by simp [Nat.not_lt.2 hk, taken_filters h]), answer_hasAnswer .., answered_touches h (by decide) (touches_refl _)⟩
  · intro slice tag k f s hs
    have hne : slice.val ≠ 0 := Fin.val_ne_of_ne hs
    refine ⟨fun h => ?_, fun h => ?_, fun h => ?_⟩
    · exact ⟨_, command_next h (u := s.taken slice tag MbxOp.filterSet) (st := Status.localAccess) (info := []) (if_pos hs), answer_hasAnswer .., answered_touches h (by decide) (touches_refl _)⟩
    · exact ⟨_, command_next h (u := s.taken slice tag MbxOp.filterClear) (st := Status.localAccess) (info := []) (if_pos hs), answer_hasAnswer .., answered_touches h (by decide) (touches_refl _)⟩
    · exact ⟨_, command_next h (u := s.taken slice tag MbxOp.filterRead) (st := Status.localAccess) (info := []) (if_pos hs), answer_hasAnswer .., answered_touches h (by decide) (touches_refl _)⟩
  · intro p fr s k q h
    obtain ⟨j, hj, hbefore⟩ := findSome_range h
    have hfound : j = k ∧ ∃ f, assoc s.filters j = some f ∧ filterHits f p fr = true ∧ f.queue = q := by
      cases hf : assoc s.filters j with
      | none => simp [hf] at hj
      | some f =>
        by_cases hh : filterHits f p fr = true
        · simp only [hf, hh, if_true, Option.some.injEq, Prod.mk.injEq] at hj
          exact ⟨hj.1, f, rfl, hh, hj.2⟩
        · simp [hf, hh] at hj
    obtain ⟨rfl, hthis⟩ := hfound
    refine ⟨hthis, fun i hi g hg => ?_⟩
    have hnone := hbefore i hi
    by_contra hh
    simp [hg, hh] at hnone
end

section
/-! PROOFS. Control frames of a chain link. -/

set_option Elab.async false

namespace Sys2Proof.Machine

variable {s : State} {p : Nat}

theorem countOwn_out (b : FrameBody) : (s.countOwn p b).out = s.out := (countOwn_moves ..).frame .out (by decide)

/-- A frame put on the line is the last thing sent. -/
theorem putFrame_out (p : Fin 10) (f : TxFrame) : (s.putFrame p f none).out = s.out ++ [.frame p f (f.image p)] := by
  have hcount : (((s.countOwn p f.body).portCount p 2 1).portCount p 3 f.bytes).out = s.out :=
    (((countOwn_moves s ..).then (portCount_moves ..)).then (portCount_moves ..) : s.Moves _ [.regs]).frame .out (by decide)
  simp only [State.putFrame, State.emit, Option.isSome_none, Bool.false_eq_true, if_false, hcount]
  simp [Fin.ofNat, Nat.mod_eq_of_lt p.isLt]

/-- The HELLO of a port: a frame in its queue where the link is up and wired as it should be, else one on the line. -/
theorem sendHello_queued (hup : s.linkUp p = true) (hw : (s.port p).wireFault = 0) :
    ∃ f : TxFrame, f.cls = macClass ∧ s.sendHello p = s.advanceFree.modPort p fun x =>
      { x with egress := x.egress ++ [f], nextHello := s.time.now + 1000000000 } := by
  obtain ⟨f, hcls, -, hput⟩ := queueMac_appends (s := s.advanceFree) (p := p) (.hello s.coord p (s.offersWelt p)
    (BitVec.ofNat 64 s.time.now) (((s.port p).lastHelloRx.map fun h => h.1 + BitVec.ofNat 64 (s.time.now - h.2)).getD 0)
    (Config.freeBits s.freeCount))
  refine ⟨f, hcls, (if_pos ⟨hup, hw⟩).trans ?_⟩
  have hqueue : ∀ b, s.advanceFree.queueFrame p { body := b, cls := macClass, bytes := 64, queuedAt := s.time.now }
      = s.advanceFree.queueMac p b := fun _ => rfl
  rw [hqueue, hput, modPort_modPort]
  rfl

theorem sendHello_put (hup : (s.port p).link ≠ .up) : ∃ f : TxFrame, s.sendHello p =
    (s.advanceFree.putFrame p f none).modPort p fun x => { x with nextHello := s.time.now + 100000 } :=
  ⟨_, if_neg fun h => hup (linkUp_iff.1 h.1)⟩

end Sys2Proof.Machine

open Sys2Proof Sys2Proof.Machine

/-- Settles O17: each control frame changes its port alone. -/
theorem weltControl : Obligations.WeltControl := by
  refine ⟨?_, ?_, ?_, ?_, ?_, ?_, ?_, ?_, ?_⟩
  · intro p c pp w a b n s hen hdown
    exact if_pos ⟨hen, by simp [hdown]⟩
  · intro p s hen hdown hdue hlink
    have hexec : exec (.helloTimer p) s = .next (s.sendHello p) := if_pos ⟨hen, by simp [hdown], hdue⟩
    obtain ⟨f, hsend⟩ := sendHello_put hlink
    refine ⟨_, f, hexec.trans (congrArg _ hsend), putFrame_out p f, ?_, ?_, ?_⟩
    · rw [port_modPort_same p.isLt]
    · exact (putFrame_moves s.advanceFree ..).frame .free (by decide)
    · exact ((advanceFree_moves s).mono.then (putFrame_moves ..) |>.then (modPort_moves ..) : s.Moves _ [.out, .free, .ports, .regs]).frame
  · intro p s hen hdown hdue hup hwire
    have hexec : exec (.helloTimer p) s = .next (s.sendHello p) := if_pos ⟨hen, by simp [hdown], hdue⟩
    obtain ⟨f, hcls, hsend⟩ := sendHello_queued hup hwire
    refine ⟨_, f, hexec.trans (congrArg _ hsend), ?_, hcls, ?_, ((advanceFree_moves s).mono.then (modPort_moves ..) : s.Moves _ [.free, .ports]).frame⟩
    · rw [port_modPort_same p.isLt]; rfl
    · rw [port_modPort_same p.isLt]
  · intro p s hp hlink hwelt hpassed
    refine ⟨_, if_pos ⟨hp, hlink, by simp [hwelt], hpassed⟩, ?_, ?_, ?_, (modPort_moves ..).frame⟩ <;> rw [port_modPort_same p.isLt]
    · exact hwelt
    · exact hlink
  · intro p acks credits s hup hwelt
    have hcount : (s.countControl p).port p = s.port p := port_congr ((countControl_moves ..).frame .ports (by decide)) p
    refine ⟨_, if_pos ⟨hup, hwelt⟩, ?_, ?_, fun h8 vl => ?_, ?_,
      ((countControl_moves s _).mono.then (modPort_moves ..) : s.Moves _ [.ports, .regs]).frame⟩ <;>
      rw [port_modPort_same p.isLt, hcount]
    rw [if_neg (by omega)]
    simp [vget]
  · intro p s hlink hwelt hdue
    obtain ⟨f, hcls, hbody, hput⟩ := queueMac_appends (s := s) (p := p) (.weltStatus (s.port p).rxSeq.toList
      ((List.range 4).map fun vl => if p.val < 8 then (0 : Word32) else BitVec.ofNat 32 (s.vlGrant p vl + vget (s.port p).freed vl 0)))
    have hexec : exec (.statusTimer p) s = .next (s.modPort p fun x =>
        { x with egress := x.egress ++ [f], nextStatus := s.time.now + 500, sinceStatus := 0 }) := by
      refine (if_pos ⟨hlink, hwelt, hdue⟩).trans (congrArg _ ?_)
      rw [State.sendStatus, hput, modPort_modPort]
      rfl
    refine ⟨_, f, hexec, ?_, hcls, ⟨_, hbody⟩, ?_, ?_, (modPort_moves ..).frame⟩ <;> rw [port_modPort_same p.isLt]
  · intro p lane seq s hup hwelt
    refine ⟨_, if_pos ⟨hup, hwelt⟩, ?_, ((countControl_moves s _).mono.then (modPort_moves ..) : s.Moves _ [.ports, .regs]).frame⟩
    rw [port_modPort_same p.isLt, port_congr ((countControl_moves ..).frame .ports (by decide))]
    rfl
  · intro p lane s f hfind hlink hwelt hloss hagain hold
    have hexec : exec (.weltResendTimer p lane) s = .next (s.modPort p fun x => x.resendFrom lane f.seq) := by
      simp only [exec, execWeltResendTimer, hfind]
      exact if_pos ⟨hlink, hwelt, by simp [Port.inHit, hloss], by simp [hagain], hold⟩
    refine ⟨_, hexec, ?_, (modPort_moves ..).frame⟩
    rw [port_modPort_same p.isLt]
    rfl
  · intro p s hlink hwelt hgone
    refine if_pos ⟨hlink, hwelt, hgone.imp_left fun h => ?_⟩
    obtain ⟨hloss, hsilent⟩ := h
    simp [Port.inHit, hloss, hsilent]
end

section
/-! PROOFS. Time over the chain, and the bypass. -/

set_option Elab.async false

namespace Sys2Proof.Machine

variable {s t : State} {p t1 t1p t2p : Nat}

/-! ## Time (R507) -/

theorem fld_setFld_ne {f g : Fld} {k j : Nat} (h : (g.reg.code, j) ≠ (f.reg.code, k)) (v : Nat) : (s.setFld f k v).fld g j = s.fld g j := by
  simp only [State.fld, State.setFld, rawReg_setRawReg_ne h]

theorem sourcePort_portCount (i n : Nat) : (s.portCount p i n).sourcePort = s.sourcePort := by
  have hfld : ∀ k v, (s.setFld .prtCounterCount k v).fld .timCtrlSource 0 = s.fld .timCtrlSource 0 := fun k v =>
    fld_setFld_ne (fun h => absurd (Prod.mk.inj h).1 (by decide)) v
  unfold State.portCount State.bumpBy
  split
  · simp only [State.sourcePort, hfld]
  · rfl

/-- The port after a TIME that it has received. -/
theorem takeTime_port (hp : p < 10) :
    ((s.takeTime p t1 t1p t2p).port p).time1 = some (t1, s.time.now * 65536 + s.time.frac) := by
  have hport : ((s.countControl p).modPort p fun x => { x with time1 := some (t1, s.time.now * 65536 + s.time.frac) }).port p
      = { s.port p with time1 := some (t1, s.time.now * 65536 + s.time.frac) } := by
    rw [port_modPort_same hp, port_congr ((countControl_moves ..).frame .ports (by decide))]
  unfold State.takeTime
  dsimp only
  split
  · rw [hport]
  · exact congrArg Port.time1 hport

theorem sourcePort_countControl (f : Port → Port) : ((s.countControl p).modPort p f).sourcePort = s.sourcePort :=
  (sourcePort_portCount ..).trans (sourcePort_portCount ..)

theorem takeTime_source (ht : t1p ≠ 0) (hsrc : s.sourcePort = some p) :
    (s.takeTime p t1 t1p t2p).time.slewLeft =
        ((((t2p : Int) - t1p) - (((s.time.now * 65536 + s.time.frac : Nat) : Int) - t1)) / 2) * 1000000
      ∧ (s.takeTime p t1 t1p t2p).time.now = s.time.now := by
  have htime : (s.countControl p).time = s.time := (countControl_moves ..).frame .time (by decide)
  unfold State.takeTime
  dsimp only
  rw [if_neg (by rw [sourcePort_countControl]; simp [ht, hsrc])]
  exact ⟨rfl, (congrArg TimeState.now htime :)⟩

theorem takeTime_other (h : t1p = 0 ∨ s.sourcePort ≠ some p) : s.takeTime p t1 t1p t2p =
    (s.countControl p).modPort p fun x => { x with time1 := some (t1, s.time.now * 65536 + s.time.frac) } := by
  unfold State.takeTime
  exact if_pos (by rwa [sourcePort_countControl])

/-! ## The bypass (R338, R339) -/

/-- The sources of bypass as they stand. -/
def State.sourcesNoted (s : State) : State :=
  { s with
    bypass.noLast := s.last.inForce.isNone,
    bypass.record := s.last.inForce.isSome && [8, 9].any fun p => (s.portRec p).mode = 0,
    bypass.pin := (s.pinsWith pinBypassReq).any fun k => !s.board.gpioIn.getLsbD k }

theorem answerBypass_of_none (h : s.bypass.waiter = []) (good : Bool → Bool) : s.answerBypass good = s := by
  have hsplit : s.bypass.waiter.partition (fun w => good w.2.2) = ([], []) := by simp [h]
  simp only [State.answerBypass, hsplit, List.foldl_nil]
  rw [← h]

theorem bypassSources_of_bypassed (hph : s.bypass.phase = .bypassed) (hw : s.bypass.waiter = []) :
    s.bypassSources = if s.sourcesNoted.bypassWanted then s.sourcesNoted else s.sourcesNoted.moveSwitch false := by
  have hph' : s.sourcesNoted.bypass.phase = .bypassed := hph
  have hw' : s.sourcesNoted.bypass.waiter = [] := hw
  unfold State.bypassSources
  change (match s.sourcesNoted.bypass.phase, s.sourcesNoted.bypassWanted with
    | .lit, true => _ | .draining _, false => _ | .bypassed, false => _ | .lit, false => _ | .bypassed, true => _ | _, _ => _) = _
  rw [hph']
  cases s.sourcesNoted.bypassWanted
  · rfl
  · exact answerBypass_of_none hw' _

theorem bypassSources_of_lit (hph : s.bypass.phase = .lit) (hw : s.bypass.waiter = []) :
    s.bypassSources = if s.sourcesNoted.bypassWanted
      then { s.sourcesNoted with bypass.phase := .draining (s.time.now + 1000000) } else s.sourcesNoted := by
  have hph' : s.sourcesNoted.bypass.phase = .lit := hph
  have hw' : s.sourcesNoted.bypass.waiter = [] := hw
  unfold State.bypassSources
  change (match s.sourcesNoted.bypass.phase, s.sourcesNoted.bypassWanted with
    | .lit, true => _ | .draining _, false => _ | .bypassed, false => _ | .lit, false => _ | .bypassed, true => _ | _, _ => _) = _
  rw [hph']
  cases s.sourcesNoted.bypassWanted
  · exact answerBypass_of_none hw' _
  · rfl

theorem sourcesNoted_moves (s : State) : s.Moves s.sourcesNoted [.bypass] := setBypass_moves s _

/-- The level of one of the module's inputs. -/
def State.inputSet (s : State) (pin : Fin 8) (level : Bool) : State :=
  { s with board.gpioIn := if level then s.board.gpioIn ||| (1#8 <<< pin.val) else s.board.gpioIn &&& ~~~(1#8 <<< pin.val) }

theorem inputSet_moves (s : State) (pin : Fin 8) (level : Bool) : s.Moves (s.inputSet pin level) [.board] := setBoard_moves s _

theorem exec_bypassReqPin (pin : Fin 8) (level : Bool) :
    exec (.bypassReqPin pin level) s = .next (s.inputSet pin level).bypassSources := rfl

theorem moveSwitch_phase (away : Bool) : (s.moveSwitch away).bypass.phase = .moving away (s.time.now + 8000000) := by
  cases away <;> rfl

/-- Only the chain's ports lose their light, and no frame with it. -/
theorem moveSwitch_keeps {P : Port → Prop} (hf : ∀ (x : Port) (l : Option Nat), P x → P { x with lossSince := l, dark := true })
    (away : Bool) (h : P (s.port p)) : P ((s.moveSwitch away).port p) := by
  cases away
  · exact h
  · refine port_modPort_keeps (fun x hx => ?_) (port_modPort_keeps (fun x hx => ?_) h) <;> split
    · exact hf _ _ hx
    · exact hx
    · exact hf _ _ hx
    · exact hx

theorem moveSwitch_other (h8 : p ≠ 8) (h9 : p ≠ 9) (away : Bool) : (s.moveSwitch away).port p = s.port p := by
  cases away
  · rfl
  · exact (port_modPort_other h9 _).trans (port_modPort_other h8 _)

/-- No link is up at a port, and no frame waits in its queue. -/
def Port.Silent (x : Port) : Prop := x.link ≠ .up ∧ x.egress = []

theorem startTraining_silent (h : (s.port p).egress = []) (hp : p < 10) : ((s.startTraining p).port p).Silent := by
  rw [State.startTraining, port_modPort_same hp]
  refine ⟨?_, h⟩
  dsimp only
  split <;> simp

theorem endAll_ports (l : List RawFrame) :
    (l.foldl (fun s f => s.endWith f.q f.count Status.peerUnreachable) s).ports = s.ports :=
  foldl_keeps (P := fun u => u.ports = s.ports) _ (fun u f hu => ((endWith_moves u ..).frame .ports (by decide)).trans hu) rfl

section Other

variable {P : Port → Prop} (hf : ∀ (x : Port) (v w : Vector Nat 4), P x → P { x with freed := v, keptBack := w }) {r : Nat} (hr : r ≠ p)
include hf hr

/-- Dropping one port's frames leaves what stands at another, but for the credits that they give back. -/
theorem dropQueued_keeps_other (h : P (s.port r)) : P ((s.dropQueued p).port r) := by
  unfold State.dropQueued
  dsimp only
  refine foldl_keeps (P := fun u => P (State.port u r)) _ (fun u f hu => ?_) ?_
  · split
    · exact freeForwarded_keeps hf hu
    · rwa [port_congr ((endWith_moves ..).frame .ports (by decide))]
    · exact hu
  · rw [port_modPort_other hr]
    have hpaced := endAll_ports (s := { s with trans.raw := s.trans.raw.filter fun f => f.port ≠ p }) (s.trans.raw.filter fun f => f.port = p)
    split
    · rwa [port_congr hpaced]
    · rwa [port_congr (s := s)]
      exact hpaced

theorem goDown_keeps_other (cause : Nat) (h : P (s.port r)) : P (((s.goDown p cause).startTraining p).port r) := by
  have hlost : P ((s.linkLost p cause).port r) := by
    unfold State.linkLost State.startTraining
    rw [port_modPort_other hr, port_congr ((portLink_moves ..).frame .ports (by decide)), port_modPort_other hr]
    exact dropQueued_keeps_other hf hr h
  rw [State.startTraining, port_modPort_other hr]
  by_cases hup : s.linkUp p = true
  · rw [goDown_of_up hup]
    split
    · rwa [port_congr ((sourceState_moves ..).frame .ports (by decide))]
    · exact hlost
  · rwa [State.goDown, if_pos (by simpa using hup)]

end Other

theorem goDown_silent (hp : p < 10) (cause : Nat) (hup : s.linkUp p = true) : (((s.goDown p cause).startTraining p).port p).Silent := by
  obtain ⟨-, hempty⟩ := linkLost_port (s := s) hp cause
  refine startTraining_silent ?_ hp
  rw [goDown_of_up hup]
  split
  · rw [port_congr ((sourceState_moves ..).frame .ports (by decide))]
    exact hempty.egress
  · exact hempty.egress

/-- Both links of the chain end, and their training starts. -/
def State.linksEnded (s : State) : State := (((s.goDown 8 1).startTraining 8).goDown 9 1).startTraining 9

theorem linksEnded_silent (hp : p = 8 ∨ p = 9) (hup : s.linkUp p = true) : (s.linksEnded.port p).Silent := by
  rcases hp with rfl | rfl
  · exact goDown_keeps_other (fun x _ _ hx => hx) (by decide) 1 (goDown_silent (by decide) 1 hup)
  · refine goDown_silent (by decide) 1 (linkUp_iff.2 ?_)
    exact goDown_keeps_other (P := fun x => x.link = .up) (fun x _ _ hx => hx) (by decide) 1 (linkUp_iff.1 hup)

theorem linksEnded_bypass : s.linksEnded.bypass = s.bypass :=
  ((goDown_moves s 8 1).mono.then (startTraining_moves ..) |>.then (goDown_moves ..) |>.then (startTraining_moves ..) :
    s.Moves s.linksEnded [.regs, .time, .queue, .trans, .ports]).frame .bypass (by decide)

/-- What the switch has moved away from. -/
theorem switchSettled_away (hw : s.bypass.waiter = []) :
    s.switchSettled true = State.bypassSources (State.linksEnded { s with bypass.phase := .bypassed }) := by
  have hbypass := linksEnded_bypass (s := { s with bypass.phase := .bypassed })
  unfold State.switchSettled
  simp only [if_true, List.foldl_cons, List.foldl_nil]
  rw [← State.linksEnded, answerBypass_of_none]
  rw [hbypass]
  exact hw

/-- Both links of the chain end as the switch settles away from it. -/
theorem switchSettled_silent (hp : p = 8 ∨ p = 9) (hw : s.bypass.waiter = []) (hup : s.linkUp p = true) :
    ((s.switchSettled true).port p).Silent := by
  have hbypass := linksEnded_bypass (s := { s with bypass.phase := .bypassed })
  have hsilent := linksEnded_silent (s := { s with bypass.phase := .bypassed }) hp hup
  rw [switchSettled_away hw]
  generalize State.linksEnded { s with bypass.phase := .bypassed } = v at hbypass hsilent ⊢
  rw [bypassSources_of_bypassed (by rw [hbypass]) (by rw [hbypass]; exact hw)]
  split <;> exact hsilent

end Sys2Proof.Machine

open Sys2Proof Sys2Proof.Machine

/-- Settles O18: the chain's ports are followed through the switch's move, and the sources of bypass are noted anew at each change. -/
theorem chainTimeAndBypass : Obligations.ChainTimeAndBypass := by
  refine ⟨⟨?_, ?_, ?_⟩, ?_, ?_, ?_, ?_, ?_, ?_, ?_⟩
  · intro p s h8 hlink hdue
    obtain ⟨f, hcls, hbody, hput⟩ := queueMac_appends (s := s) (p := p)
      (.time 0 ((s.port p).time1.getD (0, 0)).1 ((s.port p).time1.getD (0, 0)).2)
    have hexec : exec (.timeSendTimer p) s = .next (s.modPort p fun x =>
        { x with egress := x.egress ++ [f], nextTime := s.time.now + 125000 }) := by
      refine (if_pos ⟨h8, hlink, hdue⟩).trans (congrArg _ ?_)
      refine (congrArg (fun u : State => u.modPort p _) hput).trans ?_
      rw [ modPort_modPort]
      rfl
    refine ⟨_, f, hexec, ?_, hcls, hbody, ?_, (modPort_moves ..).frame⟩ <;> rw [port_modPort_same p.isLt]
  · intro p t1 t1p t2p s h8 hup ht hsrc
    refine ⟨_, if_pos ⟨h8, hup⟩, takeTime_port p.isLt, 
      (takeTime_source ht hsrc).1, (takeTime_source ht hsrc).2, ((takeTime_moves ..).mono : s.Moves _ [.ports, .regs, .time]).frame⟩
  · intro p t1 t1p t2p s h8 hup hnot
    refine ⟨_, if_pos ⟨h8, hup⟩, takeTime_port p.isLt, ?_⟩
    rw [takeTime_other hnot]
    exact ((countControl_moves s _).mono.then (modPort_moves ..) : s.Moves _ [.ports, .regs]).frame
  · intro pin level s hph hw
    refine ⟨_, exec_bypassReqPin pin level, ?_⟩
    rw [bypassSources_of_bypassed (s := s.inputSet pin level) hph hw]
    have hmoves := (inputSet_moves s pin level).mono.then (sourcesNoted_moves _) (ps := [.board, .bypass])
    split <;> rename_i hwant
    · exact ⟨rfl, hph, hmoves.frame⟩
    · exact ⟨rfl, (if_neg hwant).symm, (hmoves.then (setBypass_moves _ _)).frame⟩
  · intro pin level s hph hw
    refine ⟨_, exec_bypassReqPin pin level, ?_⟩
    rw [bypassSources_of_lit (s := s.inputSet pin level) hph hw]
    have hmoves := (inputSet_moves s pin level).mono.then (sourcesNoted_moves _) (ps := [.board, .bypass])
    split <;> rename_i hwant
    · exact ⟨rfl, (if_pos hwant).symm, (hmoves.then (setBypass_moves _ _)).frame⟩
    · exact ⟨rfl, hph, hmoves.frame⟩
  · intro s d hph hready
    have hexec : exec .bypassDrainDone s = .next (s.moveSwitch true) := by
      simp only [exec, execBypassDrainDone, hph]
      exact if_pos hready
    refine ⟨_, hexec, moveSwitch_phase true, fun r => moveSwitch_other (by omega) (by omega) true, fun r _ => ?_,
      ((moveSwitch_moves ..).mono : s.Moves _ [.bypass, .ports]).frame⟩
    exact moveSwitch_keeps (P := fun x => x.egress = (s.port r).egress) (fun _ _ hx => hx) true rfl
  · intro s away d hph
    simp only [exec, execBypassSwitchSettled, hph]
  · intro s p hp hw hup
    exact switchSettled_silent hp hw hup
  · intro tag on s h
    have htake : s.take (0 : Fin 512).val tag MbxOp.chainBypass = (s.taken 0 tag MbxOp.chainBypass, true) := take_of_takesUp h
    simp only [exec, execChainBypass, htake]
    rfl
  · intro slice tag on s h hs
    refine ⟨(s.taken slice tag MbxOp.chainBypass).answer slice tag MbxOp.chainBypass Status.localAccess 0 [], ?_, answer_hasAnswer ..,
      answered_touches h (by decide) (touches_refl _)⟩
    simp only [exec, execChainBypass, take_of_takesUp h]
    exact if_pos hs
end

section
/-! PROOFS. Route messages at a worker, and the banks of the route table. -/

set_option Elab.async false

namespace Sys2Proof.Machine

variable {s t : State}

/-! ## The two banks (R352) -/

theorem bank_modBank_same {k : Nat} (hk : k < 2) (f : RouteBank → RouteBank) : (s.modBank k f).bank k = f (s.bank k) := by
  simp only [State.bank, State.modBank, vget_vmod_same _ _ _ hk]

theorem bank_modBank_other {k j : Nat} (h : j ≠ k) (f : RouteBank → RouteBank) : (s.modBank k f).bank j = s.bank j := by
  simp only [State.bank, State.modBank]
  exact vget_vmod_other _ _ _ h

theorem inactive_lt : s.inactive < 2 := by
  unfold State.inactive
  omega

theorem inactive_ne (h : s.route.active < 2) : s.route.active ≠ s.inactive := by
  unfold State.inactive
  omega

/-- The Active bank that a flip puts out of use. -/
def RouteBank.retired (b : RouteBank) : RouteBank := { b with state := .draining }

/-- A flip from an Active bank, and the time that its drain takes. -/
theorem flipBanks_of_active (h : (s.bank s.route.active).state = .active) (e : Word32) : s.flipBanks e =
    (({ (s.modBank s.route.active RouteBank.retired).modBank s.inactive fun b => { b with state := .active, epoch := e } with
      route.active := s.inactive, route.epoch := e, route.lastBegin := none,
      route.drainEnd := some (s.time.now + s.drainLength) } : State)).bump .rteStatFlips 0 := by
  simp only [State.flipBanks, h, if_true]
  rfl

theorem foldl_max_ge (l : List Nat) (a : Nat) : a ≤ l.foldl max a ∧ ∀ x ∈ l, x ≤ l.foldl max a := by
  induction l generalizing a with
  | nil => exact ⟨le_refl a, fun x hx => by simp at hx⟩
  | cons y l ih =>
    obtain ⟨hbase, hall⟩ := ih (max a y)
    refine ⟨(le_max_left a y).trans hbase, fun x hx => ?_⟩
    rcases List.mem_cons.1 hx with rfl | hx
    · exact (le_max_right a x).trans hbase
    · exact hall x hx

/-- The drain lasts for twice the largest round trip, and 200 µs at least (R354). -/
theorem drainLength_ge : 200000 ≤ s.drainLength ∧ ∀ site rtt, site < 16 → s.sbtRtt site = some rtt → 2 * rtt ≤ s.drainLength := by
  obtain ⟨hbase, hall⟩ := foldl_max_ge ((List.range 16).filterMap s.sbtRtt) 100000
  refine ⟨by unfold State.drainLength; omega, fun site rtt hs hr => ?_⟩
  have := hall rtt (List.mem_filterMap.2 ⟨site, List.mem_range.2 hs, hr⟩)
  unfold State.drainLength
  omega

end Sys2Proof.Machine

open Sys2Proof Sys2Proof.Machine

/-- Settles O19: each route message that passes its checks acts on the inactive bank, and a flip changes the two banks over. -/
theorem routeWorkerAndBanks : Obligations.RouteWorkerAndBanks := by
  refine ⟨⟨?_, ?_, ?_, ?_, ?_, ?_, ?_, ?_⟩, ?_, ?_⟩
  · intro a e m re tr s t src hnew hgroup hwins hactive hbank
    have hnone : t.activeBank.isNone = false := by simp [Option.isNone_eq_false_iff, hactive]
    simp only [exec, execRtBegin, guardedCtrl_of_new hnew, State.takeBegin, hgroup, hwins, hnone, Bool.not_true, Bool.false_eq_true,
      if_false, if_neg hbank]
    rfl
  · intro a e m re tr s t src hnew hgroup hwins
    simp only [exec, execRtBegin, guardedCtrl_of_new hnew, State.takeBegin, hgroup, hwins, Bool.not_true, Bool.not_false,
      Bool.false_eq_true, if_false, if_true]
  · intro e copy s hactive
    have hbank : (s.loadBank e copy).bank s.inactive = if copy
        then { state := .loading, epoch := e, entries := (s.bank s.route.active).entries, chain := (s.bank s.route.active).chain }
        else { state := .loading, epoch := e } := bank_modBank_same inactive_lt _
    rw [hbank]
    refine ⟨?_, ?_, ?_, ?_, bank_modBank_other (inactive_ne hactive) _, (loadBank_moves ..).frame⟩ <;> cases copy <;> rfl
  · intro a e items tr s t src hnew hload
    simp only [exec, execRtLoad, guardedCtrl_of_new hnew, hload, if_true]
  · intro a e crc tr s t src hnew hload hcrc hok
    simp only [exec, execRtCommit, guardedCtrl_of_new hnew, hload, hcrc, hok, Bool.not_true, Bool.false_eq_true, if_false, if_true,
      ne_eq, not_true]
  · intro a e crc tr s t src hnew hload hcrc
    simp only [exec, execRtCommit, guardedCtrl_of_new hnew, hload, Bool.not_true, Bool.false_eq_true, if_false, if_pos hcrc]
    rfl
  · intro a e tr s t src hnew hbegin hready hclaim
    simp only [exec, execRtFlip, guardedCtrl_of_new hnew]
    exact congrArg _ (if_pos ⟨hbegin, hready, hclaim⟩)
  · intro a e tr s t src hnew hflip hbegin hstate hclaim
    have hroute : (t.lateAnswer src (ctrlSeqOf a.pkt)).route = t.route := (lateAnswer_moves ..).frame .route (by decide)
    have hbank : ∀ k, (t.lateAnswer src (ctrlSeqOf a.pkt)).bank k = t.bank k := fun k => by simp only [State.bank, hroute]
    have hinactive : (t.lateAnswer src (ctrlSeqOf a.pkt)).inactive = t.inactive := by simp only [State.inactive, hroute]
    simp only [exec, execRtAbort, guardedCtrl_of_new hnew, hflip, hbank, hinactive, hroute]
    rw [if_pos ⟨hbegin, hstate, hclaim⟩]
  · intro s e hlt hactive
    have hne := inactive_ne hlt
    have hnew : (s.flipBanks e).bank s.inactive = { s.bank s.inactive with state := .active, epoch := e } := by
      rw [flipBanks_of_active hactive]
      exact (bank_modBank_same inactive_lt _).trans (by rw [bank_modBank_other hne.symm])
    have hold : (s.flipBanks e).bank s.route.active = (s.bank s.route.active).retired := by
      rw [flipBanks_of_active hactive]
      exact (bank_modBank_other hne _).trans (bank_modBank_same hlt _)
    obtain ⟨hmin, hmax⟩ := drainLength_ge (s := s)
    rw [hnew, hold]
    refine ⟨rfl, rfl, rfl, rfl, rfl, ?_, ?_, ⟨s.time.now + s.drainLength, ?_, by omega, fun site rtt hs hr => ?_⟩,
      ((flipBanks_moves ..).mono : s.Moves _ [.route, .regs]).frame⟩
    · rw [flipBanks_of_active hactive]; rfl
    · rw [flipBanks_of_active hactive]; rfl
    · rw [flipBanks_of_active hactive]; rfl
    · have := hmax site rtt hs hr
      omega
  · intro s d hd hpassed
    have hexec : exec .drainIntervalEnd s = .next { s with
        route.drainEnd := none, route.banks := s.route.banks.map fun b => if b.state = .draining then {} else b } := by
      simp only [exec, execDrainIntervalEnd, hd, hpassed, if_true]
    refine ⟨_, hexec, rfl, fun k => ?_, (setRoute_moves s _).frame⟩
    simp [State.bank, vget, k.isLt]
end

section
/-! PROOFS. Route messages at the manager, and the commands of the route table. -/

set_option Elab.async false

namespace Sys2Proof.Machine

variable {s t : State}

/-! ## Entries of a bank -/

theorem assoc_putItem_same {β : Type} [DecidableEq β] (zero : β) (l : List (Nat × β)) (k : Nat) (v : β) :
    (assoc (putItem zero l k v) k).getD zero = v := by
  unfold putItem
  split
  · rename_i h
    simp [h]
  · simp

theorem assoc_putItem_other {β : Type} [DecidableEq β] (zero : β) (l : List (Nat × β)) (v : β) {k j : Nat} (h : j ≠ k) :
    assoc (putItem zero l k v) j = assoc l j := by
  unfold putItem
  split
  · exact assoc_assocDel_ne l h
  · exact assoc_assocSet_ne l k j v h

/-- Items that are put from a place on leave every other place. -/
theorem assoc_putItems_other {β : Type} [DecidableEq β] (zero : β) (items : List β) (first n i : Nat) (l : List (Nat × β))
    (h : i < first + n ∨ first + n + items.length ≤ i) :
    assoc ((items.zipIdx n).foldl (fun l x => putItem zero l (first + x.2) x.1) l) i = assoc l i := by
  induction items generalizing n l with
  | nil => rfl
  | cons x items ih =>
    rw [List.length_cons] at h
    rw [List.zipIdx_cons, List.foldl_cons, ih (n + 1) _ (by omega), assoc_putItem_other zero l x (by omega)]

/-- Items that are put stand one after the other. -/
theorem assoc_putItems_at {β : Type} [DecidableEq β] (zero : β) (items : List β) (first n k : Nat) (l : List (Nat × β)) {e : β}
    (h : items[k]? = some e) :
    (assoc ((items.zipIdx n).foldl (fun l x => putItem zero l (first + x.2) x.1) l) (first + n + k)).getD zero = e := by
  induction items generalizing n k l with
  | nil => simp at h
  | cons x items ih =>
    rw [List.zipIdx_cons, List.foldl_cons]
    cases k with
    | zero =>
      obtain rfl : x = e := by simpa using h
      rw [assoc_putItems_other zero items first (n + 1) _ _ (by omega), Nat.add_zero, assoc_putItem_same]
    | succ k =>
      have hk := ih (n + 1) k (putItem zero l (first + n) x) (by simpa using h)
      rwa [show first + n + (k + 1) = first + (n + 1) + k by omega]

/-! ## Commands of the route table (R355) -/

theorem taken_bank {slice : Nat} {tag : Word32} {op : Nat} (h : s.takesUp slice tag op) (k : Nat) :
    (s.taken slice tag op).bank k = s.bank k := by
  have hroute : (s.taken slice tag op).route = s.route := taken_touches h .route (by decide)
  simp only [State.bank, hroute]

/-- A bank that is being filled, or has been, neither drains nor is free. -/
theorem state_of_filled {b : RouteBank} (h : b.state = .loading ∨ b.state = .ready) : b.state ≠ .free ∧ b.state ≠ .draining := by
  rcases h with h | h <;> simp [h]

theorem routeWrite_fills {items : RouteItems} (hrole : t.last.role ≠ 0) (hrange : itemsInRange items = true)
    (hdraining : (t.bank t.inactive).state ≠ .draining) (hruns : t.flipRuns = false) : t.routeWrite 0 items =
      ((if (t.bank t.inactive).state = .free then t.loadBank (t.route.epoch + 1) true else t).modBank t.inactive fun b =>
        { b.put items with state := .loading }, Status.success, []) := by
  unfold State.routeWrite
  simp only [hrole, hrange, hdraining, hruns, ne_eq, not_true, if_false, Bool.not_true, Bool.false_eq_true, or_self]
  split <;> rfl

/-- RT_BEGIN goes to every worker with the role epoch that stood at the start. -/
theorem beginAll_eq (nodes : List Nat) (e old : Word32) (u : State) :
    nodes.foldl (fun s n => s.sendCtrl (s.groupNode n) (.rtBegin e old s.last.roleEpoch)) u
      = nodes.foldl (fun s n => s.sendCtrl (s.groupNode n) (.rtBegin e old u.last.roleEpoch)) u := by
  induction nodes generalizing u with
  | nil => rfl
  | cons n nodes ih =>
    have hlast : (u.sendCtrl (u.groupNode n) (.rtBegin e old u.last.roleEpoch)).last = u.last :=
      (sendCtrl_moves ..).frame .last (by decide)
    rw [List.foldl_cons, List.foldl_cons, ih, hlast]

end Sys2Proof.Machine

open Sys2Proof Sys2Proof.Machine

/-- Settles O20: the manager acts on an answer to its own flip, and slice 0's commands write the inactive bank and read either. -/
theorem routeManagerAndTable : Obligations.RouteManagerAndTable := by
  refine ⟨⟨?_, ?_, ?_, ?_, ?_, ?_, ?_⟩, ?_, ?_, ?_, ?_, ?_, ?_, ?_, ?_⟩
  · intro a e full tr s t src x hnew hflip
    simp only [exec, execRtBeginAck, guardedCtrl_of_new hnew, hflip]
  · intro a e tr s t src x hnew hflip
    simp only [exec, execRtReady, guardedCtrl_of_new hnew, hflip, ne_eq, not_true, if_false]
  · intro a e st tr s t src x hnew hflip hst
    simp only [exec, execRtReady, guardedCtrl_of_new hnew, hflip, if_pos hst]
  · intro a e tr s t src x hnew hflip
    simp only [exec, execRtFlipAck, guardedCtrl_of_new hnew, hflip]
  · intro a e tr s t src x hnew hflip
    simp only [exec, execRtAbort, guardedCtrl_of_new hnew, hflip]
  · intro s x hflip hrun hready
    simp only [State.tryFlip, hflip, hrun, hready, Bool.not_true, Bool.false_eq_true, or_self, if_false]
  · rintro tag mask s t h rfl hrole hflip hdrain hstate hok
    have htake : s.take (0 : Fin 512).val tag MbxOp.routeFlip = (s.taken 0 tag MbxOp.routeFlip, true) := take_of_takesUp h
    generalize s.taken 0 tag MbxOp.routeFlip = t at *
    refine ⟨{ slice := 0, tag, epoch := t.route.epoch + 1, workers :=
      ((List.range 64).filter fun n => mask.getLsbD n && n ≠ coordNode t.coord).map fun n => { node := n } }, _, rfl, rfl, ?_, rfl, ?_⟩
    · exact (List.map_map ..).trans (List.map_id _)
    · obtain ⟨-, hdraining⟩ := state_of_filled hstate
      have hfilled : ¬((t.bank t.inactive).state ≠ .loading ∧ (t.bank t.inactive).state ≠ .ready) := by tauto
      simp only [exec, execRouteFlip, htake, State.startFlip, hflip, hdrain, hok, if_neg hrole, hdraining, hfilled, Option.isSome_none,
        Bool.not_true, Bool.false_eq_true, or_self, if_false]
      rw [if_neg (by simp), List.map_map]
      refine congrArg (fun v : State => Host.Outcome.next v.tryFlip) ((beginAll_eq _ _ _ _).trans ?_)
      exact congrArg (List.foldl _ _) (List.map_id _).symm
  · rintro tag items s t h rfl hrole hrange hstate hruns
    obtain ⟨hfree, hdraining⟩ := state_of_filled hstate
    exact command_next h ((routeWrite_fills hrole hrange hdraining hruns).trans (by rw [if_neg hfree]))
  · rintro tag items s t h rfl hrole hrange hstate hruns
    exact command_next h ((routeWrite_fills hrole hrange (by simp [hstate]) hruns).trans (by rw [if_pos hstate]))
  · rintro tag items s t h rfl hrole hrange hruns
    have hact : (s.taken 0 tag MbxOp.routeWrite).routeWrite 0 items = (s.taken 0 tag MbxOp.routeWrite, Status.busy, []) := by
      simp [State.routeWrite, hrole, hrange, hruns]
    exact ⟨_, command_next h hact, answer_hasAnswer .., answered_touches h (by decide) (touches_refl _)⟩
  · intro slice tag items s h hs
    exact ⟨_, command_next h (if_pos (Fin.val_ne_of_ne hs)), answer_hasAnswer .., answered_touches h (by decide) (touches_refl _)⟩
  · intro tag bank first count s h hpos hle hfit
    have hact : (s.taken 0 tag MbxOp.routeRead).routeRead 0 bank false first count = (s.taken 0 tag MbxOp.routeRead, Status.success,
        (List.range count).map fun k => leNat (routeImage ((s.bank bank).entry (first + k)))) := by
      simp only [State.routeRead, taken_bank h]
      rw [if_neg (by simp), if_neg (by simp; omega), if_neg (by simp)]
    exact ⟨_, command_next h hact, answer_hasAnswer .., answered_touches h (by decide) (touches_refl _)⟩
  · intro tag bank first count s h hpos hfit
    have hact : (s.taken 0 tag MbxOp.routeRead).routeRead 0 bank true first count = (s.taken 0 tag MbxOp.routeRead, Status.success,
        (List.range count).map fun k => chainWord ((s.bank bank).chainOf (first + k))) := by
      simp only [State.routeRead, taken_bank h]
      rw [if_neg (by simp), if_neg (by simp; omega), if_pos trivial]
    exact ⟨_, command_next h hact, answer_hasAnswer .., answered_touches h (by decide) (touches_refl _)⟩
  · intro b first items k e hk
    exact assoc_putItems_at {} items first 0 k b.entries hk
  · intro b first items i hi
    exact congrArg (·.getD {}) (assoc_putItems_other {} items first 0 i b.entries hi)
end

section
/-! PROOFS. Starts of collective operations, and the granules that pass. -/

set_option Elab.async false

namespace Sys2Proof.Machine

variable {s t : State}

/-- A block of a GATHER_MULTIPLY that has arrived is multiplied, or its first mismatch is noted. -/
theorem execGatherMultiplyBlock_of_multiplies {k block : Nat} {c : Fin 8} {g : Group} {o : CollOp} {r b : List Byte}
    (h : s.multiplies k block c g o r b = true) (checks : List (Nat × ResidueCheck)) :
    execGatherMultiplyBlock k block c checks s = ((checks.find? fun c => !checkPasses c.2).map (·.1)).elim
      (.next (s.multiplyBlock g o (s.shape g o) r b block (checks.any fun c => checkMisses c.2)).settle)
      (fun n => if tileGranules r ≤ n then .next s else .next (s.tileMismatch k o block c n)) := by
  simp only [State.multiplies, Bool.and_eq_true, decide_eq_true_eq, Bool.not_eq_true', Bool.or_eq_true] at h
  obtain ⟨⟨⟨⟨⟨⟨⟨⟨hgroup, hop, hrec, hb, hkind, hphase, hlt⟩, hhere⟩, hrows⟩, hwait⟩, hout⟩, hcomp⟩, htiles⟩, hdrbg⟩ := h
  have htile : o.tiles.any (fun t => t.block = block && decide (t.cluster ≠ c.val)) = false := by
    simp only [List.all_eq_true, decide_eq_true_eq] at htiles
    simp only [List.any_eq_false, Bool.and_eq_true, decide_eq_true_eq, not_and, not_not]
    exact fun x hx hblock => (htiles x hx).resolve_left (not_not.2 hblock)
  have hrandom : ¬(stochastic o = true ∧ s.keys.drbgHalted = true) := by
    rintro ⟨hs, hd⟩
    simp [hs, hd] at hdrbg
  simp only [execGatherMultiplyBlock, hgroup, hop, hrec, hb]
  rw [if_neg]
  · cases (checks.find? fun c => !checkPasses c.2).map (·.1) <;> rfl
  · simp only [hkind, hphase, Nat.not_le.2 hlt, hhere, hrows, hwait, hout, hcomp, htile, hrandom]
    simp

/-- A cluster's arithmetic that computes, with a reduction on it whose draws are to be had. -/
structure State.Reduces (s : State) (c : Nat) (g : Group) (o : CollOp) (j : CollJob) : Prop where
  computes : s.computes c = true
  job : s.jobOn c = some (g, o, j)
  draws : stochastic o = true → s.keys.drbgHalted = false

/-- A granule of a reduction, on the unit of its first mismatch if it had one. -/
theorem execReductionGranule_of_reduces {c : Fin 8} {u : Fin 4} {g : Group} {o : CollOp} {j : CollJob} (h : s.Reduces c g o j)
    (hunit : j.mism.all (fun m => m.1 = u.val) = true) (checks : List ResidueCheck) : execReductionGranule c u checks s =
      if checks.all checkPasses then .next (s.jobStep g o j (checks.any checkMisses)).settle
      else j.mism.elim
        (.next ((s.noteMismatch c u true).modColl g.handle fun o => { o with jobs := o.jobs.map fun k =>
          if k.unit = j.unit then { k with mism := some (u.val, s.time.now) } else k }))
        (fun w => .next ((s.noteMismatch c u false).arithFail c u w.2 (collOpcode o) o.q).settle) := by
  obtain ⟨hcomp, hjob, hdraws⟩ := h
  have hany : j.mism.any (fun m => decide (m.1 ≠ u.val)) = false := by
    cases hm : j.mism <;> simp_all
  have hrandom : ¬(stochastic o = true ∧ s.keys.drbgHalted = true) := fun hr => by simp [hdraws hr.1] at hr
  have hmism : (checks.any fun c => !checkPasses c) = !checks.all checkPasses := by
    simp [List.all_eq_not_any_not]
  simp only [execReductionGranule, hcomp, hjob, hany, hmism, Bool.not_true, Bool.false_eq_true, if_false, if_neg hrandom, Bool.not_not]
  split
  · rfl
  · cases j.mism <;> rfl

end Sys2Proof.Machine

open Sys2Proof Sys2Proof.Machine

/-- Settles O21: a COLL's checks in their order, and granules of which no check tells a fault. -/
theorem collectivesStart : Obligations.CollectivesStart := by
  refine ⟨?_, ?_, ?_, ?_, ?_, ?_⟩
  · intro q count s x d g alg hready hgroup hslice hbroken hforming hidle hlow hcheck
    have hfree : ¬(g.op.isSome = true ∨ s.lowrankHolds g.handle = true) := by simp [hidle, hlow]
    simp only [exec, execColl, State.collDesc, hready, hgroup, hslice, ne_eq, not_true, if_false, if_neg hbroken, if_neg hforming,
      hcheck, if_neg hfree]
  · intro q count s x d g c hready hgroup hslice hbroken hforming hcheck
    simp only [exec, execColl, State.collDesc, hready, hgroup, hslice, ne_eq, not_true, if_false, if_neg hbroken, if_neg hforming, hcheck]
  · intro q count s x d g hready hgroup hslice hbroken
    simp only [exec, execColl, State.collDesc, hready, hgroup, hslice, ne_eq, not_true, if_false, if_pos hbroken]
  · intro q count s x d g hready hgroup hslice
    simp only [exec, execColl, State.collDesc, hready, hgroup, if_pos hslice]
  · intro c u s g o j hcomp hjob hmism hdrbg
    exact ⟨_, execReductionGranule_of_reduces ⟨hcomp, hjob, hdrbg⟩ (by simp [hmism]) [], rfl⟩
  · intro k block c s g o r b h
    exact ⟨_, execGatherMultiplyBlock_of_multiplies h [], rfl⟩
end

section
/-! PROOFS. Messages of a group's ends, and its watchdog. -/

set_option Elab.async false

namespace Sys2Proof.Machine

variable {s t u : State} {a : Arrival} {c : Conn} {g : Group}

/-- A message of the collective protocol. -/
inductive CtrlMsg.OfGroup : CtrlMsg → Prop
  | hsUp (seq sig mism rank) : OfGroup (.hsUp seq sig mism rank)
  | hsDown (seq mism rank) : OfGroup (.hsDown seq mism rank)
  | hsCount (seq sig n) : OfGroup (.hsCount seq sig n)
  | credit (seq stage n slot) : OfGroup (.credit seq stage n slot)
  | mismatch (seq rank) : OfGroup (.mismatch seq rank)
  | abort (seq st rank) : OfGroup (.abort seq st rank)

/-- A new message of a group's end homed with cluster 0 is acknowledged and acts. -/
theorem endCtrl_of_group {m : CtrlMsg} {x : Received} (h : s.newEndMsg a m x t c) (hhome : c.home = 0) (hm : m.OfGroup) :
    s.endCtrl a m = (t.repliedEnd c a (.ctrlAck (ctrlSeqOf a.pkt) false)).endMsg c m := by
  have harr : x.arrival = a := by
    obtain ⟨u, -, rfl, -⟩ := h
    rfl
  rw [endCtrl_of_new h, ctrlRecord_home hhome, harr]
  refine endCtrlAt_of_new h ?_ ?_ ?_ <;> cases hm <;> simp

theorem endCtrl_recorded {m : CtrlMsg} {x : Received} (h : s.newEndMsg a m x t c) (hhome : c.home ≠ 0) :
    s.endCtrl a m = { t with trans.ackRecords := t.trans.ackRecords ++ [⟨c.index, x.rxAt, a, some m⟩] } := by
  have harr : x.arrival = a := by
    obtain ⟨u, -, rfl, -⟩ := h
    rfl
  rw [endCtrl_of_new h, ctrlRecord_away hhome, harr]

theorem findGroup_modGroup {k : Nat} {f : Group → Group} (hf : ∀ x, (f x).handle = x.handle) :
    (s.modGroup k f).findGroup k = (s.findGroup k).map f :=
  find_updWhere_self _ f _ fun x hx => by simpa [hf] using hx

/-- The watchdog of a group starts again. -/
theorem findGroup_progress {k : Nat} (h : s.findGroup k = some g) :
    (s.progress k).findGroup k = some { g with watchdogAt := s.time.now + g.params.watchdogMs * 1000000 } := by
  rw [State.progress, findGroup_modGroup (by intro x; rfl), h]
  rfl

end Sys2Proof.Machine

open Sys2Proof Sys2Proof.Machine

/-- Settles O22: a message of a group's end acts at the end's home cluster, and the watchdog tells of a group that waits. -/
theorem groupMessages : Obligations.GroupMessages := by
  refine ⟨?_, ?_, ?_⟩
  · rintro a s t u v c g r i m x hnew hhome rfl hgroup hrank h
    have hact : ∀ hm : m.OfGroup, (s.endCtrl a m).settle = ((t.repliedEnd c a (.ctrlAck (ctrlSeqOf a.pkt) false)).endMsg c m).settle :=
      fun hm => congrArg State.settle (endCtrl_of_group hnew hhome hm)
    obtain ⟨seq, sig, mi, k, rfl, rfl, rfl⟩ | ⟨seq, mi, k, rfl, rfl, rfl⟩ | ⟨seq, sig, n, rfl, rfl, rfl⟩
      | ⟨seq, stage, n, slot, rfl, rfl, rfl⟩ | ⟨seq, k, rfl, rfl, rfl⟩ | ⟨seq, st, k, rfl, rfl, rfl⟩ := h
    all_goals
      refine congrArg Host.Outcome.next ((hact (by constructor)).trans ?_)
      simp only [State.endMsg, hgroup, hrank]
  · rintro a s t c i m x hnew hhome h
    have hact := congrArg State.settle (endCtrl_recorded hnew hhome)
    obtain ⟨seq, sig, mi, k, rfl, rfl⟩ | ⟨seq, mi, k, rfl, rfl⟩ | ⟨seq, sig, n, rfl, rfl⟩
      | ⟨seq, stage, n, slot, rfl, rfl⟩ | ⟨seq, k, rfl, rfl⟩ | ⟨seq, st, k, rfl, rfl⟩ := h
    all_goals exact congrArg Host.Outcome.next hact
  · intro k s g hgroup hwaits hpassed
    have hexec : ∃ e : Event, e.slice = g.slice ∧ e.code = EventCode.collStall ∧ e.object = k ∧
        exec (.collWatchdog k) s = .next (((s.bump .cluCollStatStalls g.home).raise e).progress k) := by
      refine ⟨{ slice := g.slice, code := EventCode.collStall, cluster := g.home, object := k, info := (g.op.map (·.seq)).getD 0,
                detail := (s.awaited g).1.min?.getD 0 + min (s.awaited g).1.length 65535 * 2 ^ 16 + (s.awaited g).2 * 2 ^ 32
                  + s.stallCause g (s.awaited g).1 * 2 ^ 36 }, rfl, rfl, rfl, ?_⟩
      simp only [exec, execCollWatchdog, hgroup]
      exact if_pos ⟨hwaits, hpassed⟩
    obtain ⟨e, hslice, hcode, hobject, hexec⟩ := hexec
    refine ⟨_, { e with gen := ((s.bump .cluCollStatStalls g.home).slice e.slice).gen }, _, hexec, rfl, hslice, hcode, hobject,
      findGroup_progress hgroup, rfl, ?_⟩
    exact ((bump_moves s ..).mono.then (raise_moves ..) |>.then (progress_moves ..) : s.Moves _ [.queue, .regs, .work]).frame
end

section
/-! PROOFS. The checks of arithmetic granules. -/

set_option Elab.async false

namespace Sys2Proof.Machine

variable {s : State}

/-! ## Residues modulo 7 (R266) -/

theorem res7_eq_iff (x y : Int) : res7 x = res7 y ↔ x % 7 = y % 7 := by
  unfold res7
  omega

theorem predictProduct_eq (a b : Int) : predictProduct a b = res7 (a * b) := by
  have hcast : ((predictProduct a b : Nat) : Int) = (res7 (a * b) : Nat) := by
    simp only [predictProduct, res7, Int.natCast_emod, Int.natCast_mul, Int.toNat_of_nonneg (Int.emod_nonneg _ (by norm_num : (7 : Int) ≠ 0))]
    exact (Int.mul_emod a b 7).symm
  exact_mod_cast hcast

theorem predictSum_eq (l : List Int) : predictSum l = res7 l.sum := by
  have hstep : ∀ x y : Int, res7 (x + y) = (res7 x + res7 y % 7) % 7 := fun x y => by unfold res7; omega
  induction l with
  | nil => rfl
  | cons x l ih =>
    rw [List.sum_cons, hstep, ← ih, predictSum, predictSum, List.map_cons, List.sum_cons]
    omega

theorem residueOk_iff (z out : Int) : residueOk (res7 z) out = true ↔ out % 7 = z % 7 := by
  rw [residueOk, decide_eq_true_iff, res7_eq_iff]

theorem misses_iff (z out : Int) : (residueOk (res7 z) out && decide (out ≠ z)) = true ↔ out ≠ z ∧ ∃ k : Int, out - z = 7 * k := by
  rw [Bool.and_eq_true, residueOk_iff, decide_eq_true_iff, and_comm]
  refine and_congr_right fun _ => ⟨fun h => ⟨(out - z) / 7, by omega⟩, fun ⟨k, hk⟩ => by omega⟩

/-! ## Blocks of a matrix product (R267) -/

/-- The block whose product is computed on a cluster. -/
def CollOp.tileOf (o : CollOp) (block cluster : Nat) : TileBlock := (o.tiles.find? fun t => t.block = block).getD { block, cluster }

theorem tileOf_none {o : CollOp} {block cluster n : Nat}
    (h : o.tiles.all (fun t => t.block ≠ block || (assoc t.mism n).isNone) = true) : assoc (o.tileOf block cluster).mism n = none := by
  unfold CollOp.tileOf
  cases hx : o.tiles.find? fun t => t.block = block with
  | none => rfl
  | some x =>
    have hblock : x.block = block := by simpa using List.find?_some hx
    have hmem := List.all_eq_true.1 h x (List.mem_of_find?_eq_some hx)
    simpa [hblock] using hmem

theorem tileMismatch_first {k block c n : Nat} {o : CollOp} (h : assoc (o.tileOf block c).mism n = none) :
    s.tileMismatch k o block c n = (s.noteMismatch c 4 true).modColl k fun o' =>
      { o' with tiles := (o'.tiles.filter fun t => t.block ≠ block)
          ++ [{ o.tileOf block c with mism := (o.tileOf block c).mism ++ [(n, s.time.now)] }] } := by
  unfold CollOp.tileOf at *
  simp only [State.tileMismatch, h]

end Sys2Proof.Machine

open Sys2Proof Sys2Proof.Machine

/-- Settles O23: a granule goes by the first of its checks that fails, and a check sees the residue modulo 7 alone. -/
theorem arithmeticGranules : Obligations.ArithmeticGranules := by
  refine ⟨?_, ?_, ?_, ?_, ?_, ?_, ?_, ?_, ?_, ?_, ?_, ?_, ?_, ?_⟩
  · intro c u s g o j hcomp hjob hunit hdraws checks hpass
    exact (execReductionGranule_of_reduces ⟨hcomp, hjob, hdraws⟩ hunit checks).trans (if_pos hpass)
  · intro c u s g o j hcomp hjob hnone hdraws checks hfail
    have hexec := execReductionGranule_of_reduces (u := u) ⟨hcomp, hjob, hdraws⟩ (by simp [hnone]) checks
    rw [if_neg (by simp [hfail]), hnone] at hexec
    refine ⟨_, hexec, vget_vset_same _ _ _ _ c.isLt, rfl, ?_⟩
    exact ((noteMismatch_moves s ..).mono.then (modColl_moves ..) : s.Moves _ [.work, .regs]).frame
  · intro c u s g o j at_ hcomp hjob hsome hdraws checks hfail
    have hexec := execReductionGranule_of_reduces (u := u) ⟨hcomp, hjob, hdraws⟩ (by simp [hsome]) checks
    rwa [if_neg (by simp [hfail]), hsome] at hexec
  · intro c u b s g o j w hcomp hjob hsome hne
    simp [exec, execReductionGranule, hcomp, hjob, hsome, hne]
  · intro c u m s hcomp hjob
    simp only [exec, execReductionGranule, hcomp, hjob, Bool.not_true, Bool.false_eq_true, if_false]
  · intro c u m s hcomp
    simp only [exec, execReductionGranule, hcomp, Bool.not_false, if_true]
  · intro k block c s g o r b h checks hpass
    have hfind : (checks.find? fun c => !checkPasses c.2) = none := by
      simpa [List.find?_eq_none] using hpass
    refine (execGatherMultiplyBlock_of_multiplies h checks).trans ?_
    rw [hfind]
    rfl
  · intro k block n c s g o r b h hn htiles checks hfirst
    have hexec := execGatherMultiplyBlock_of_multiplies h checks
    rw [hfirst, Option.elim_some, if_neg (Nat.not_le.2 hn)] at hexec
    rw [tileMismatch_first (tileOf_none htiles)] at hexec
    refine ⟨_, hexec, vget_vset_same _ _ _ _ c.isLt, rfl, ?_⟩
    exact ((noteMismatch_moves s ..).mono.then (modColl_moves ..) : s.Moves _ [.work, .regs]).frame
  · intro k block n at_ c s g o r b x h hn hx hat checks hfirst
    have hexec := execGatherMultiplyBlock_of_multiplies h checks
    rw [hfirst, Option.elim_some, if_neg (Nat.not_le.2 hn)] at hexec
    refine hexec.trans ?_
    simp only [State.tileMismatch, hx, Option.getD_some, hat]
  · intro a b out
    rw [checkPasses, predictProduct_eq, residueOk_iff]
  · intro terms out
    rw [checkPasses, predictSum_eq, residueOk_iff]
  · intro a b out
    rw [checkMisses, predictProduct_eq, misses_iff]
  · intro terms out
    rw [checkMisses, predictSum_eq, misses_iff]
  · intro predicted found
    cases predicted <;> cases found <;> rfl
end

section
/-! PROOFS. Numbers and their codes. -/

set_option Elab.async false

namespace Sys2Proof.Machine

variable {f : Fmt} {u : Option Nat} {sat neg : Bool} {m k b : Nat} {e q : Int}

/-! ## Exact values -/

theorem alignTo_self (m : Nat) (e : Int) : alignTo m e e = m := by simp [alignTo]

/-- A magnitude whose unit the format keeps is not rounded. -/
theorem round_exact (h : max (e + Nat.log2 m - f.man) f.minExp = e) : f.round u m e = (m, e) := by
  simp only [Fmt.round, h, le_refl, if_true, alignTo_self]

theorem round_normal (hlo : 2 ^ f.man ≤ m) (hhi : m < 2 ^ (f.man + 1)) (he : f.minExp ≤ e) : f.round u m e = (m, e) := by
  have hpos : m ≠ 0 := (Nat.two_pow_pos f.man |>.trans_le hlo).ne'
  have hlog : Nat.log2 m = f.man := (Nat.log2_eq_iff hpos).2 ⟨hlo, hhi⟩
  refine round_exact ?_
  rw [hlog, max_eq_left] <;> omega

theorem round_subnormal (hpos : m ≠ 0) (hhi : m < 2 ^ f.man) : f.round u m f.minExp = (m, f.minExp) := by
  have hlog : Nat.log2 m < f.man := (Nat.log2_lt hpos).2 hhi
  exact round_exact (max_eq_right (by omega))

/-- What does not exceed the largest magnitude does not overflow. -/
theorem overflows_not (hq : q ≤ f.maxExp) (h : k ≤ f.maxMan ∨ (q < f.maxExp ∧ k ≤ 2 * f.maxMan)) : f.overflows k q = false := by
  have hlo : min q f.maxExp = q := min_eq_left hq
  simp only [Fmt.overflows, hlo]
  rw [alignTo_self, decide_eq_false_iff_not, not_lt, alignTo]
  rcases h with h | ⟨hlt, h⟩
  · exact h.trans (Nat.le_mul_of_pos_right _ (Nat.two_pow_pos _))
  · obtain ⟨n, hn⟩ : ∃ n : Nat, (f.maxExp - q).toNat = n + 1 := ⟨(f.maxExp - q).toNat - 1, by omega⟩
    rw [hn, pow_succ]
    calc k ≤ 2 * f.maxMan := h
      _ ≤ 2 ^ n * (2 * f.maxMan) := Nat.le_mul_of_pos_left _ (Nat.two_pow_pos n)
      _ = f.maxMan * (2 ^ n * 2) := by ring

/-! ## Codes of finite values (R253) -/

/-- A code in its three fields. -/
theorem code_eq (hb : b < 2 ^ f.bits) :
    signBit f (decide (b / 2 ^ (f.exp + f.man) % 2 = 1)) + b / 2 ^ f.man % 2 ^ f.exp * 2 ^ f.man + b % 2 ^ f.man = b := by
  have hdiv : b / 2 ^ (f.exp + f.man) = b / 2 ^ f.man / 2 ^ f.exp := by rw [Nat.div_div_eq_div_mul, ← pow_add, Nat.add_comm f.man]
  have hsign : b / 2 ^ f.man / 2 ^ f.exp < 2 := by
    rw [← hdiv, Nat.div_lt_iff_lt_mul (Nat.two_pow_pos _), ← pow_succ']
    exact hb.trans_eq (by rw [Fmt.bits]; ring_nf)
  have hbit : signBit f (decide (b / 2 ^ (f.exp + f.man) % 2 = 1)) = b / 2 ^ f.man / 2 ^ f.exp * 2 ^ f.exp * 2 ^ f.man := by
    rw [hdiv, signBit, pow_add, Nat.mod_eq_of_lt hsign]
    interval_cases b / 2 ^ f.man / 2 ^ f.exp <;> simp
  rw [hbit, ← Nat.add_mul, Nat.div_add_mod', Nat.div_add_mod']

/-- The formats have a mantissa, and exponents between the least and the greatest. -/
structure Fmt.Proper (f : Fmt) : Prop where
  man : 1 ≤ f.man
  exp : 2 ≤ f.exp

/-- How many of the exponent codes and of the greatest magnitudes stand for no finite value. -/
def Fmt.topCodes (f : Fmt) : Nat := match f.kind with | .ieee => 2 | _ => 1
def Fmt.topMans (f : Fmt) : Nat := match f.kind with | .e4m3 => 2 | _ => 1

theorem minExp_le_maxExp (hf : f.Proper) : f.minExp ≤ f.maxExp := by
  have hexp : 2 ^ 2 ≤ 2 ^ f.exp := Nat.pow_le_pow_right (by decide) hf.exp
  have htop : ((f.maxExp : Int)) = 2 ^ f.exp - f.topCodes - f.bias - f.man := by
    unfold Fmt.maxExp Fmt.topCodes
    cases f.kind <;> rfl
  have hcodes : f.topCodes ≤ 2 := by
    unfold Fmt.topCodes
    split <;> decide
  have hcast : ((2 ^ f.exp : Nat) : Int) = 2 ^ f.exp := by norm_num
  rw [htop, Fmt.minExp, ← hcast]
  omega

theorem two_pow_le_maxMan (hf : f.Proper) : 2 ^ f.man ≤ f.maxMan := by
  have hman : 2 ^ 1 ≤ 2 ^ f.man := Nat.pow_le_pow_right (by decide) hf.man
  unfold Fmt.maxMan
  rw [pow_succ]
  split <;> omega

/-- The encoding of a magnitude that is exact and not too large. -/
theorem encode_fin (hm : m ≠ 0) (hround : f.round u m e = (m, e)) (hover : f.overflows m e = false) :
    f.encode sat u (.fin neg m e) = f.pack neg m e := by
  simp only [Fmt.encode, hround, if_neg hm, hover, Bool.false_eq_true, if_false]

theorem encode_subnormal (hf : f.Proper) (hhi : m < 2 ^ f.man) : f.encode sat u (.fin neg m f.minExp) = signBit f neg + m := by
  by_cases hm : m = 0
  · simp [Fmt.encode, hm]
  · rw [encode_fin hm (round_subnormal hm hhi) (overflows_not (minExp_le_maxExp hf) (.inl (hhi.le.trans (two_pow_le_maxMan hf)))),
      Fmt.pack, if_pos hhi]

/-- The largest exponent with the largest magnitudes left out. -/
theorem encode_normal {x : Nat} (hx : 1 ≤ x) (hm : m < 2 ^ f.man)
    (hover : f.overflows (m + 2 ^ f.man) (x - f.bias - f.man) = false) :
    f.encode sat u (.fin neg (m + 2 ^ f.man) (x - f.bias - f.man)) = signBit f neg + x * 2 ^ f.man + m := by
  have hlt : m + 2 ^ f.man < 2 ^ (f.man + 1) := by rw [pow_succ]; omega
  have hexp : ((x : Int) - f.bias - f.man + f.bias + f.man).toNat = x := by omega
  rw [encode_fin (by have := Nat.two_pow_pos f.man; omega) (round_normal (Nat.le_add_left ..) hlt (by rw [Fmt.minExp]; omega)) hover,
    Fmt.pack, if_neg (by omega)]
  simp only [if_neg (Nat.not_le.2 hlt), hexp]
  omega

/-- A code with the exponent `x` and the mantissa `m` that is neither an infinity nor a NaN is not above the largest. -/
theorem overflows_code (hf : f.Proper) {x : Nat} (hx : x < 2 ^ f.exp) (hm : m < 2 ^ f.man)
    (hieee : ¬(f.kind = .ieee ∧ x = 2 ^ f.exp - 1)) (he4m3 : ¬(f.kind = .e4m3 ∧ x = 2 ^ f.exp - 1 ∧ m = 2 ^ f.man - 1)) :
    f.overflows (m + 2 ^ f.man) (x - f.bias - f.man) = false := by
  have hcast : ((2 ^ f.exp : Nat) : Int) = 2 ^ f.exp := by norm_num
  have hman : 2 ^ 1 ≤ 2 ^ f.man := Nat.pow_le_pow_right (by decide) hf.man
  cases hkind : f.kind
  case ieee =>
    have htop : x ≠ 2 ^ f.exp - 1 := fun h => hieee ⟨hkind, h⟩
    refine overflows_not ?_ (.inl ?_)
    · simp only [Fmt.maxExp, hkind, ← hcast]
      omega
    · simp only [Fmt.maxMan, hkind, pow_succ]
      omega
  case finite =>
    refine overflows_not ?_ (.inl ?_)
    · simp only [Fmt.maxExp, hkind, ← hcast]
      omega
    · simp only [Fmt.maxMan, hkind, pow_succ]
      omega
  case e4m3 =>
    refine overflows_not ?_ ?_
    · simp only [Fmt.maxExp, hkind, ← hcast]
      omega
    · simp only [Fmt.maxMan, Fmt.maxExp, hkind, pow_succ, ← hcast]
      by_cases htop : x = 2 ^ f.exp - 1
      · have hm' : m ≠ 2 ^ f.man - 1 := fun h => he4m3 ⟨hkind, htop, h⟩
        exact .inl (by omega)
      · exact .inr ⟨by omega, by omega⟩

theorem encode_decode (hf : f.Proper) (hb : b < 2 ^ f.bits) (hfin : (f.decode b).isFin = true) :
    f.encode sat u (f.decode b) = b := by
  have hm : b % 2 ^ f.man < 2 ^ f.man := Nat.mod_lt _ (Nat.two_pow_pos _)
  have hx : b / 2 ^ f.man % 2 ^ f.exp < 2 ^ f.exp := Nat.mod_lt _ (Nat.two_pow_pos _)
  have hcode := code_eq hb
  unfold Fmt.decode at hfin ⊢
  dsimp only at hfin ⊢
  by_cases hieee : f.kind = .ieee ∧ b / 2 ^ f.man % 2 ^ f.exp = 2 ^ f.exp - 1
  · rw [if_pos hieee] at hfin
    split at hfin <;> exact absurd hfin Bool.false_ne_true
  · by_cases he4m3 : f.kind = .e4m3 ∧ b / 2 ^ f.man % 2 ^ f.exp = 2 ^ f.exp - 1 ∧ b % 2 ^ f.man = 2 ^ f.man - 1
    · rw [if_neg hieee, if_pos he4m3] at hfin
      exact absurd hfin Bool.false_ne_true
    · rw [if_neg hieee, if_neg he4m3]
      by_cases hzero : b / 2 ^ f.man % 2 ^ f.exp = 0
      · rw [if_pos hzero, encode_subnormal hf hm]
        simpa [hzero] using hcode
      · rw [if_neg hzero, encode_normal (Nat.pos_of_ne_zero hzero) hm (overflows_code hf hx hm hieee he4m3)]
        exact hcode

/-! ## Values beyond the largest (R257) -/

/-- An integer beyond a format's precision keeps its leading digits. -/
theorem round_integer (hman : f.man < Nat.log2 m) (hmin : f.minExp ≤ 0) :
    2 ^ f.man ≤ (f.round u m 0).1 ∧ (f.round u m 0).2 = Nat.log2 m - f.man := by
  have hmax : max ((0 : Int) + Nat.log2 m - f.man) f.minExp = Nat.log2 m - f.man := by rw [max_eq_left] <;> omega
  have hneg : ¬((Nat.log2 m : Int) - f.man ≤ 0) := by omega
  have hdigits : ((Nat.log2 m : Int) - f.man - 0).toNat = Nat.log2 m - f.man := by omega
  have hlead : 2 ^ f.man ≤ m / 2 ^ (Nat.log2 m - f.man) := by
    rw [Nat.le_div_iff_mul_le (Nat.two_pow_pos _), ← pow_add, Nat.add_sub_cancel' hman.le]
    exact Nat.log2_self_le (by rintro rfl; simp at hman)
  unfold Fmt.round
  simp only [hmax, if_neg hneg, hdigits]
  have hup : ∀ (up : Bool) (n : Nat), n ≤ if up then n + 1 else n := fun up n => by cases up <;> simp
  exact ⟨hlead.trans (hup _ _), trivial⟩

theorem overflows_above (hq : f.maxExp < q) (hk : 2 ^ f.man ≤ k) : f.overflows k q = true := by
  have hlo : min q f.maxExp = f.maxExp := min_eq_right hq.le
  obtain ⟨n, hn⟩ : ∃ n : Nat, (q - f.maxExp).toNat = n + 1 := ⟨(q - f.maxExp).toNat - 1, by omega⟩
  have hmans : f.maxMan < 2 * 2 ^ f.man := by
    have := Nat.two_pow_pos f.man
    unfold Fmt.maxMan
    rw [pow_succ]
    split <;> omega
  simp only [Fmt.overflows, hlo]
  rw [alignTo_self, decide_eq_true_iff, alignTo, hn, pow_succ]
  calc f.maxMan < 2 * 2 ^ f.man := hmans
    _ ≤ 2 * k := Nat.mul_le_mul_left 2 hk
    _ ≤ 2 ^ n * (2 * k) := Nat.le_mul_of_pos_left _ (Nat.two_pow_pos n)
    _ = k * (2 ^ n * 2) := by ring

theorem encode_overflow (hm : m ≠ 0) (hover : f.overflows (f.round u m e).1 (f.round u m e).2 = true) :
    f.encode sat u (.fin neg m e) =
      if sat ∨ f.kind = .finite then f.maxBits neg else if f.kind = .ieee then f.infBits neg else f.nanBits := by
  simp only [Fmt.encode, if_neg hm, hover, if_true]

theorem log2_of_large (h : 15 * 2 ^ 12 < m) : 15 ≤ Nat.log2 m :=
  (Nat.le_log2 (by omega)).2 (by omega)

theorem overflows_e4m3 (h : 15 * 2 ^ 12 < m) : fp8e4m3.overflows (fp8e4m3.round u m 0).1 (fp8e4m3.round u m 0).2 = true := by
  have hlog := log2_of_large h
  obtain ⟨hk, hq⟩ := round_integer (f := fp8e4m3) (u := u) (m := m) (show 3 < _ by omega) (by decide)
  refine overflows_above ?_ hk
  rw [hq]
  change (5 : Int) < Nat.log2 m - (3 : Nat)
  omega

theorem overflows_e5m2 (h : 15 * 2 ^ 12 < m) : fp8e5m2.overflows (fp8e5m2.round none m 0).1 (fp8e5m2.round none m 0).2 = true := by
  have hlog := log2_of_large h
  by_cases hlarge : 16 ≤ Nat.log2 m
  · obtain ⟨hk, hq⟩ := round_integer (f := fp8e5m2) (u := none) (m := m) (show 2 < _ by omega) (by decide)
    refine overflows_above ?_ hk
    rw [hq]
    change (13 : Int) < Nat.log2 m - (2 : Nat)
    omega
  · have hlog15 : Nat.log2 m = 15 := by omega
    have hlt : m < 2 ^ 16 := by
      have := (Nat.log2_eq_iff (n := m) (k := 15) (by omega)).1 hlog15
      exact this.2
    have hround : fp8e5m2.round none m 0 = (8, 13) := by
      have hdiv : m / 8192 = 7 := by omega
      have hrest : 8192 < 2 * (m % 8192) := by omega
      have hunit : max ((0 : Int) + (15 : Nat) - fp8e5m2.man) fp8e5m2.minExp = 13 := by decide
      simp only [Fmt.round, hlog15, hunit]
      simp [hdiv, hrest]
    rw [hround]
    decide

end Sys2Proof.Machine

open Sys2Proof Sys2Proof.Machine

/-- Settles O24: a finite code's magnitude is exact in its format and below the largest. -/
theorem formatsRoundTrip : Obligations.FormatsRoundTrip := by
  refine ⟨?_, ?_, ?_, ?_⟩
  · intro f b sat u hf hb hfin
    refine encode_decode ?_ hb hfin
    simp only [List.mem_cons, List.not_mem_nil, or_false] at hf
    rcases hf with rfl | rfl | rfl | rfl | rfl | rfl | rfl <;> exact ⟨by decide, by decide⟩
  · intro sat u
    exact ⟨rfl, rfl, rfl, rfl, rfl⟩
  · intro u neg
    cases neg <;> exact ⟨rfl, rfl, rfl⟩
  · intro m neg u hm
    have hpos : m ≠ 0 := by omega
    refine ⟨?_, ?_, ?_, ?_⟩
    · rw [encode_overflow hpos (overflows_e5m2 hm)]
      cases neg <;> rfl
    · rw [encode_overflow hpos (overflows_e5m2 hm)]
      cases neg <;> rfl
    · rw [encode_overflow hpos (overflows_e4m3 hm)]
      cases neg <;> rfl
    · rw [encode_overflow hpos (overflows_e4m3 hm)]
      cases neg <;> rfl
end

section
/-! PROOFS. Registration of groups, and their commands. -/

set_option Elab.async false

namespace Sys2Proof.Machine

variable {s t u : State} {src : Coord} {name dg : Word64} {n rank : Nat}

/-! ## Registration (R220, R221, R242) -/

theorem register_new (hnone : s.findReg name = none) (hroom : s.mgrSlotsUsed + s.registrySlots name ≤ s.spareSlots) :
    ∃ r, (s.register src name n rank dg).1.findReg name = some r ∧ r.digest = dg ∧ r.count = n ∧ r.ranks = [(rank, src)]
      ∧ (s.register src name n rank dg).2 = (0, r.epoch) ∧ r.epoch = (assoc s.work.epochs name).getD 0 + 1 := by
  have hreg : s.work.registry.find? (fun e => e.name = name) = none := hnone
  simp only [State.register, hnone, if_neg (Nat.not_lt.2 hroom), State.findReg, List.find?_append, hreg]
  exact ⟨{ name, epoch := (assoc s.work.epochs name).getD 0 + 1, count := n, digest := dg, ranks := [(rank, src)],
           slots := s.registrySlots name }, by simp, rfl, rfl, rfl, rfl, rfl⟩

/-! ## Quotas (R218) -/

section TakenUp

variable {slice : Nat} {tag : Word32} {op : Nat} (h : s.takesUp slice tag op)
include h

theorem taken_work : (s.taken slice tag op).work = s.work := taken_touches h .work (by decide)

theorem taken_groupQuota (k : Nat) : (s.taken slice tag op).groupQuota k = s.groupQuota k := by simp only [State.groupQuota, taken_work h]

theorem taken_groupsOf (k : Nat) : (s.taken slice tag op).groupsOf k = s.groupsOf k := by simp only [State.groupsOf, taken_work h]

end TakenUp

theorem answer_groupQuota (slice : Nat) (tag : Word32) (op : Nat) (st : Status) (detail : Nat) (info : List Nat) (k : Nat) :
    (s.answer slice tag op st detail info).groupQuota k = s.groupQuota k := rfl

/-- A slice's quota of groups is set. -/
def State.quotaSet (s : State) (k n : Nat) : State := { s with work.quota := assocSet s.work.quota k n }

theorem groupQuota_quotaSet (k m j : Nat) : (s.quotaSet k m).groupQuota j = if j = k then m else s.groupQuota j := by
  unfold State.groupQuota State.quotaSet
  by_cases h : j = k
  · subst h; simp
  · simp [assoc_assocSet_ne _ _ _ _ h, h]

/-- The state once a part of one slice's quota is another's. -/
def State.transferred (s : State) (a b n : Nat) : State :=
  (s.quotaSet a (s.groupQuota a - n)).quotaSet b ((s.quotaSet a (s.groupQuota a - n)).groupQuota b + n)

theorem grpQuotaSet_transfers {a b : Nat} (ha : a < 512) (hb : b < 512) (hle : n ≤ s.groupQuota a)
    (hused : s.groupsOf a ≤ s.groupQuota a - n) : s.grpQuotaSet 0 a b n = (s.transferred a b n, Status.success, []) := by
  unfold State.grpQuotaSet
  rw [if_neg (by simp), if_neg (by omega), if_neg (by omega)]
  rfl

/-- The quotas after a transfer. -/
theorem transferred_quota {a b : Nat} (hab : a ≠ b) (k : Nat) : (s.transferred a b n).groupQuota k =
    if k = b then s.groupQuota b + n else if k = a then s.groupQuota a - n else s.groupQuota k := by
  rw [State.transferred, groupQuota_quotaSet, groupQuota_quotaSet, groupQuota_quotaSet, if_neg hab.symm]

end Sys2Proof.Machine

open Sys2Proof Sys2Proof.Machine

/-- Settles O25: a registration by what the registry holds, and each command by its checks in their order. -/
theorem groupRegistrationAndCommands : Obligations.GroupRegistrationAndCommands := by
  refine ⟨⟨?_, ?_, ?_, ?_, ?_, ?_, ?_, ?_, ?_⟩, ?_, ?_, ?_, ?_, ?_, ?_⟩
  · intro a name dg n rank tr s t src hnew hrole
    simp only [exec, execGroupReg, guardedCtrl_of_new hnew, if_neg hrole, Bool.false_eq_true, if_false]
  · intro a name dg n rank tr s t src hnew hrole
    simp only [exec, execGroupReg, guardedCtrl_of_new hnew, if_neg hrole, if_true]
  · intro src name dg n rank s hnone hroom
    exact register_new hnone hroom
  · intro src name dg n rank s hnone hfull
    simp only [State.register, hnone, if_pos hfull]
  · intro src name dg n rank s r hsome hdig hcount hrank
    have hknown : ¬(assoc r.ranks rank).isNone = true := by simpa [Option.isSome_iff_ne_none] using hrank
    simp only [State.register, hsome, hdig, hcount, ne_eq, not_true, or_self, if_false, if_neg hknown]
  · rintro a name e tr s t u src rank g hnew hans rfl hfind
    simp only [exec, execGroupRegAns, guardedCtrl_of_new hnew, hans, hfind, Bool.false_eq_true, if_false]
    rfl
  · rintro a name e tr s t u src rank g hnew hans rfl hfind
    simp only [exec, execGroupRegAns, guardedCtrl_of_new hnew, hans, hfind, Bool.false_eq_true, if_false, if_true]
  · rintro a name e st tr s t u src rank g hnew hans rfl hfind hst
    simp only [exec, execGroupRegAns, guardedCtrl_of_new hnew, hans, hfind, Bool.false_eq_true, if_false,
      if_neg (show ¬st = 1 by omega), if_pos (show st ≠ 0 by omega)]
  · intro a name e tr s t src g hnew hgroups hname hreg hepoch hbroken hmgr
    simp only [exec, execEpoch, guardedCtrl_of_new hnew, hgroups]
    rw [List.filter_cons_of_pos (by rw [hname, hreg, hmgr]; simp [hepoch, hbroken]), List.filter_nil]
    rfl
  · intro tag src dst n s h hsrc hdst hne hle hused
    have hact := grpQuotaSet_transfers (s := s.taken 0 tag MbxOp.grpQuotaSet) (n := n) hsrc hdst (by rwa [taken_groupQuota h])
      (by rwa [taken_groupQuota h, taken_groupsOf h])
    refine ⟨_, command_next h hact, ?_, ?_, fun k hk hk' => ?_, answer_hasAnswer .., answered_touches h (by decide)
      ((setWork_moves _ _).mono : State.Moves _ _ [.work, .mailboxes]).frame⟩
    · rw [answer_groupQuota, transferred_quota hne, if_neg hne, if_pos rfl, taken_groupQuota h]
    · rw [answer_groupQuota, transferred_quota hne, if_pos rfl, taken_groupQuota h]
    · rw [answer_groupQuota, transferred_quota hne, if_neg hk', if_neg hk, taken_groupQuota h]
  · intro tag src dst n s h hsrc hdst hshort
    have hact : (s.taken 0 tag MbxOp.grpQuotaSet).grpQuotaSet 0 src dst n = (s.taken 0 tag MbxOp.grpQuotaSet, Status.noResources, []) := by
      simp only [State.grpQuotaSet, taken_groupQuota h, taken_groupsOf h, ne_eq, not_true, if_false, if_pos hshort]
      rw [if_neg (by omega)]
    exact ⟨_, command_next h hact, answer_hasAnswer .., answered_touches h (by decide) (touches_refl _)⟩
  · rintro slice tag p s t home hh h rfl hok htables hquota hbest hwatch hfree
    refine ⟨{ handle := hh, slice, gen := (s.taken slice tag MbxOp.groupCreate).gen slice, params := p, home, creator := some (slice.val, tag) }, _,
      rfl, rfl, rfl, rfl, rfl, rfl, rfl, fun v b hacc => ?_⟩
    simp only [exec, execGroupCreate, take_of_takesUp h, State.groupBegin, hok, htables, hbest, hfree, Bool.not_true, Bool.false_eq_true,
      if_false, if_neg (Nat.not_le.2 hquota), if_neg hwatch, hacc]
  · rintro slice tag hh s t g h rfl hgroup hslice hstate
    have hidle : ¬(g.state ≠ .ready ∧ g.state ≠ .broken) := by tauto
    refine command_next h ?_
    simp only [State.groupDestroy, hgroup, hslice, ne_eq, not_true, if_false, if_neg hidle]
  · intro slice tag hh s g h hgroup hslice hstate
    have hact : (s.taken slice tag MbxOp.groupDestroy).groupDestroy slice hh = (s.taken slice tag MbxOp.groupDestroy, Status.busy, []) := by
      have hgroup' : (s.taken slice tag MbxOp.groupDestroy).findGroup hh = some g := by
        rwa [State.findGroup, taken_work h]
      have hbusy : g.state ≠ .ready ∧ g.state ≠ .broken := by rcases hstate with h | h <;> simp [h]
      simp only [State.groupDestroy, hgroup', hslice, ne_eq, not_true, if_false]
      exact if_pos hbusy
    exact ⟨_, command_next h hact, answer_hasAnswer .., answered_touches h (by decide) (touches_refl _)⟩
  · rintro slice tag hh s t g h rfl hgroup hslice hstate
    simp only [exec, execCollAbort, take_of_takesUp h, State.collAbort, hgroup, hslice, ne_eq, not_true, if_false, if_neg hstate]
end

section
/-! PROOFS. Service descriptors, and the steps of services. -/

set_option Elab.async false

namespace Sys2Proof.Machine

variable {s : State} {q : Nat} {count : Word32} {op : Nat} {x : Queue} {d : Started}

/-- The service that a descriptor asks for. -/
def Started.service (d : Started) (x : Queue) (q : Nat) (count : Word32) (op : Nat) : Service :=
  { q, count, slice := x.slice, gen := x.gen, as := x.as, opcode := op, stoch := Desc.svcStoch d.entry, lace := Desc.svcLace d.entry }

/-- The service is known, and its descriptor runs. -/
def State.servicePosted (s : State) (v : Service) : State :=
  ({ s with work.services := s.work.services ++ [v] } : State).modStarted v.q v.count fun d => { d with run := true }

theorem svcPostDesc_bad (h : s.ready q count op = some (x, d)) (hbad : svcOperandsOk d.entry (s.quota x.slice).lace = false) :
    s.svcPostDesc q count op = (s.bump .slcSvcStatCompleted x.slice).endWith q count Status.descMalformed := by
  simp only [State.svcPostDesc, h, hbad, Bool.not_false, if_true]

/-- A descriptor whose operands are well formed has its record read. -/
theorem svcPostDesc_reads (h : s.ready q count op = some (x, d)) (hok : svcOperandsOk d.entry (s.quota x.slice).lace = true) :
    s.svcPostDesc q count op = match (s.servicePosted (d.service x q count op)).access
        (svcAccess (d.service x q count op) (q % 8) (Desc.svcRecord d.entry) (recordBytes op) false []) with
      | (s, .done b) => s.svcArrived q count (Desc.svcRecord d.entry) b 2
      | (s, .fail c) => s.failSvc (d.service x q count op) c
      | (s, _) => s := by
  simp only [State.svcPostDesc, h, hok, Bool.not_true, Bool.false_eq_true, if_false]
  rfl

/-- What lets a piece of a service run. -/
structure State.RunsPiece (s : State) (v : Service) (k : Nat) (p : Piece) : Prop where
  piece : v.pieces.find? (fun p => p.index = k) = some p
  stage : v.stage = 3
  done : p.done = false
  gate : p.gate = false
  turn : v.turn p = true
  owed : v.owed.any (fun o => o.1 = k) = false
  runs : s.arithRuns = true
  draws : v.stoch = true → s.keys.drbgHalted = false
  recomputes : s.recomputes v (some p.cluster) = false
  served : s.arithOutOf p.cluster = false

theorem runPiece_of_runs {v : Service} {k : Nat} {p : Piece} (h : s.RunsPiece v k p) (host : List MemCell) :
    s.runPiece v k host = if v.opcode = Op.quant
      then s.quantPiece v p host ((v.cut v.units.length).getD k (0, 0)).1 ((v.cut v.units.length).getD k (0, 0)).2
      else s.optPiece v p host ((v.cut v.units.length).getD k (0, 0)).1 ((v.cut v.units.length).getD k (0, 0)).2 := by
  have hrandom : ¬(v.stoch = true ∧ s.keys.drbgHalted = true) := fun hr => by simp [h.draws hr.1] at hr
  simp only [State.runPiece, h.piece, h.stage, h.done, h.gate, h.turn, h.owed, h.runs, h.recomputes, h.served, hrandom, ne_eq, not_true,
    Bool.not_true, Bool.false_eq_true, or_self, if_false]

/-- A piece of a service that computes, of QUANT or of OPTSTEP. -/
theorem execServicePiece_of_computes {v : Service} {k : Nat} {host : List MemCell} (hfind : s.findSvc q count = some v)
    (hreset : s.fw.resetting = false) (hop : v.opcode = Op.quant ∨ v.opcode = Op.optstep) :
    execServicePiece q count k host s = .next (s.runPiece v k host).settle := by
  have hstream : ¬(v.stage = 3 ∧ (v.isCkpt = true ∨ v.opcode = Op.restore)) := by
    rcases hop with h | h <;> simp [Service.isCkpt, h, Op.quant, Op.optstep, Op.ckpt, Op.restore]
  simp only [execServicePiece, hfind, hreset, Bool.false_eq_true, if_false, if_neg hstream]

theorem execServiceStart_of_next {v : Service} (h : s.nextService = some v) :
    execServiceStart s = .next (({ s with work.serviceTurn := v.slice } : State).svcStart v).settle := by
  unfold execServiceStart
  rw [h]

end Sys2Proof.Machine

open Sys2Proof Sys2Proof.Machine

/-- Settles O26: every service opcode posts alike, and a piece or a step runs when nothing bars it. -/
theorem servicesStartAndRun : Obligations.ServicesStartAndRun := by
  refine ⟨?_, ?_, ?_, ?_, ?_, ?_, ?_, ?_⟩
  · intro op cmd hcmd q count s x d hready
    have hexec : exec (cmd q count) s = .next (s.svcPostDesc q count op).settle := by
      simp only [List.mem_cons, Prod.mk.injEq, List.not_mem_nil, or_false] at hcmd
      obtain ⟨rfl, rfl⟩ | ⟨rfl, rfl⟩ | ⟨rfl, rfl⟩ | ⟨rfl, rfl⟩ | ⟨rfl, rfl⟩ := hcmd <;> rfl
    refine ⟨fun hbad => ?_, fun hok => ⟨d.service x q count op, _, rfl, rfl, rfl, rfl, rfl, rfl, rfl, rfl, fun t r hacc => ?_⟩⟩
    · rw [hexec, svcPostDesc_bad hready hbad]
    · have hacc' : (s.servicePosted (d.service x q count op)).access
          (svcAccess (d.service x q count op) (q % 8) (Desc.svcRecord d.entry) (recordBytes op) false []) = (t, r) := hacc
      rw [hexec, svcPostDesc_reads hready hok, hacc']
      cases r <;> rfl
  · intro s v hnext
    have hexec := execServiceStart_of_next hnext
    exact hexec
  · intro q count k host s v p hfind hreset hstage hop hpiece hdone hgate hturn howed hruns hdraws hrec hout
    refine (execServicePiece_of_computes hfind hreset (.inl hop)).trans ?_
    rw [runPiece_of_runs ⟨hpiece, hstage, hdone, hgate, hturn, howed, hruns, hdraws, hrec, hout⟩, if_pos hop]
  · intro q count k host s v p hfind hreset hstage hop hpiece hdone hgate hturn howed hruns hdraws hrec hout
    refine (execServicePiece_of_computes hfind hreset (.inr hop)).trans ?_
    rw [runPiece_of_runs ⟨hpiece, hstage, hdone, hgate, hturn, howed, hruns, hdraws, hrec, hout⟩, if_neg (by rw [hop]; decide)]
  · intro q count k host s v hfind hreset hstage hop
    simp only [exec, execServicePiece, hfind, hreset, Bool.false_eq_true, if_false]
    exact if_pos ⟨hstage, hop.imp_left fun h => by simp [Service.isCkpt, h]⟩
  · intro q count host s v hfind hop hreset
    simp only [exec, execLowrankStep, hfind]
    exact if_pos ⟨hop, by simp [hreset]⟩
  · intro c host s v p hservices hstage hreset hpieces
    simp only [exec, execGatePoll, hservices, List.foldl_cons, List.foldl_nil]
    rw [if_pos ⟨hstage, by simp [hreset]⟩, hpieces]
    rfl
  · intro q count s v hfind hstage hgated hdeadline hpassed hgate
    simp only [exec, execGateDeadline, hfind]
    exact if_pos ⟨hstage, hgated, hdeadline, hpassed, hgate⟩
end

section
/-! PROOFS. Answers of the host: translations, reads and acknowledged writes. -/

set_option Elab.async false

namespace Sys2Proof.Machine

variable {s t : State}

/-! ## Fields of a register (R4) -/

/-- A word with a field set: the bits below it, the field, and the bits above it. -/
theorem toNat_setBits (w : Word64) {hi lo : Nat} (hle : lo ≤ hi) (hhi : hi < 64) (v : Nat) :
    (setBits w hi lo v).toNat = w.toNat % 2 ^ lo
      + (w.toNat / 2 ^ lo / 2 ^ (hi + 1 - lo) * 2 ^ (hi + 1 - lo) + v % 2 ^ (hi + 1 - lo)) * 2 ^ lo := by
  have hspan : 2 ^ lo * 2 ^ (hi + 1 - lo) = 2 ^ (hi + 1) := by rw [← pow_add]; congr 1; omega
  have hword : 2 ^ (63 - hi) * 2 ^ (hi + 1) = 2 ^ 64 := by rw [← pow_add]; congr 1; omega
  have hhigh : w.toNat / 2 ^ lo / 2 ^ (hi + 1 - lo) < 2 ^ (63 - hi) := by
    rw [Nat.div_div_eq_div_mul, hspan, Nat.div_lt_iff_lt_mul (Nat.two_pow_pos _), hword]
    exact w.isLt
  have hpos := Nat.two_pow_pos lo
  have hlow : w.toNat % 2 ^ lo < 2 ^ lo := Nat.mod_lt _ hpos
  have hnew : v % 2 ^ (hi + 1 - lo) < 2 ^ (hi + 1 - lo) := Nat.mod_lt _ (Nat.two_pow_pos _)
  have hparts : w.toNat - w.toNat / 2 ^ lo % 2 ^ (hi + 1 - lo) * 2 ^ lo + v % 2 ^ (hi + 1 - lo) * 2 ^ lo
      = w.toNat % 2 ^ lo + (w.toNat / 2 ^ lo / 2 ^ (hi + 1 - lo) * 2 ^ (hi + 1 - lo) + v % 2 ^ (hi + 1 - lo)) * 2 ^ lo := by
    have hquot := Nat.div_add_mod' (w.toNat / 2 ^ lo) (2 ^ (hi + 1 - lo))
    have hnum := Nat.div_add_mod' w.toNat (2 ^ lo)
    rw [← hquot, Nat.add_mul] at hnum
    rw [Nat.add_mul]
    omega
  have hsmall : w.toNat % 2 ^ lo + (w.toNat / 2 ^ lo / 2 ^ (hi + 1 - lo) * 2 ^ (hi + 1 - lo) + v % 2 ^ (hi + 1 - lo)) * 2 ^ lo
      < 2 ^ 64 := by
    calc _ < 2 ^ lo + (w.toNat / 2 ^ lo / 2 ^ (hi + 1 - lo) * 2 ^ (hi + 1 - lo) + v % 2 ^ (hi + 1 - lo)) * 2 ^ lo := by omega
      _ = (w.toNat / 2 ^ lo / 2 ^ (hi + 1 - lo) * 2 ^ (hi + 1 - lo) + (v % 2 ^ (hi + 1 - lo) + 1)) * 2 ^ lo := by ring
      _ ≤ (w.toNat / 2 ^ lo / 2 ^ (hi + 1 - lo) * 2 ^ (hi + 1 - lo) + 2 ^ (hi + 1 - lo)) * 2 ^ lo :=
        Nat.mul_le_mul_right _ (Nat.add_le_add_left hnew _)
      _ = (w.toNat / 2 ^ lo / 2 ^ (hi + 1 - lo) + 1) * (2 ^ lo * 2 ^ (hi + 1 - lo)) := by ring
      _ ≤ 2 ^ (63 - hi) * (2 ^ lo * 2 ^ (hi + 1 - lo)) := Nat.mul_le_mul_right _ hhigh
      _ = 2 ^ 64 := by rw [hspan, hword]
  simp only [bitsOf, setBits, BitVec.toNat_ofNat]
  rw [hparts, Nat.mod_eq_of_lt hsmall]

theorem bitsOf_setBits (w : Word64) {hi lo : Nat} (hle : lo ≤ hi) (hhi : hi < 64) (v : Nat) :
    bitsOf (setBits w hi lo v) hi lo = v % 2 ^ (hi + 1 - lo) := by
  have hpos := Nat.two_pow_pos lo
  rw [bitsOf, toNat_setBits w hle hhi v, Nat.add_mul_div_right _ _ hpos, Nat.div_eq_of_lt (Nat.mod_lt _ hpos), Nat.zero_add,
    Nat.mul_add_mod', Nat.mod_mod]

theorem fld_setFld_same {f : Fld} (hle : f.lo ≤ f.hi) (hhi : f.hi < 64) (k v : Nat) :
    (s.setFld f k v).fld f k = v % 2 ^ (f.hi + 1 - f.lo) := by
  rw [State.fld, State.setFld, rawReg_setRawReg_same, bitsOf_setBits _ hle hhi]

/-- A counter that is moved on by one, and stays at its greatest value. -/
theorem fld_bump_same {f : Fld} (hle : f.lo ≤ f.hi) (hhi : f.hi < 64) (k : Nat) :
    (s.bump f k).fld f k = min (s.fld f k + 1) (2 ^ (f.hi + 1 - f.lo) - 1) := by
  have hpos := Nat.two_pow_pos (f.hi + 1 - f.lo)
  rw [State.bump, State.bumpBy, fld_setFld_same hle hhi, Nat.mod_eq_of_lt]
  omega

/-! ## Settling where nothing waits -/

/-- Nothing waits that settling would go on with. -/
structure State.Quiet (s : State) : Prop where
  infWaits : s.mem.infWaits = []
  heldArrivals : s.trans.heldArrivals = []
  eyeletBusy : s.xlate.eyeletBusy = []
  ended : s.trans.ended = []
  services : s.work.services = []

theorem takeHeld_of_none (h : s.trans.heldArrivals = []) (good : WaitFor → Bool) : s.takeHeld good = (s, []) := by
  have hsplit : s.trans.heldArrivals.partition (fun x => good x.1) = ([], []) := by simp [h]
  simp only [State.takeHeld, hsplit, List.map_nil]
  rw [← h]

theorem tellAllOrigins_of_none (h : s.trans.ended = []) (n : Nat) : s.tellAllOrigins n = s := by
  cases n <;> simp [State.tellAllOrigins, h]

theorem settle_of_quiet (h : s.Quiet) : s.settle = s := by
  have hwaits : s.serveRecordWaits = s := by
    unfold State.serveRecordWaits
    split
    · rfl
    · rw [h.infWaits, List.foldl_nil, ← h.infWaits]
  have hcounts : s.serveCounts = s := by
    unfold State.serveCounts
    dsimp only
    rw [takeHeld_of_none h.heldArrivals]
    rfl
  have hloads : s.sendEyeletLoads = s := by
    unfold State.sendEyeletLoads
    rw [h.eyeletBusy]
    rfl
  have hlow : s.lowFailed = s := by
    unfold State.lowFailed
    rw [h.services]
    rfl
  rw [State.settle, hwaits, hcounts, hloads, tellAllOrigins_of_none h.ended, hlow]

/-! ## The cached translations -/

theorem vget_map_nil {α : Type} {n : Nat} (v : Vector (List α) n) (f : List α → List α) (hf : f [] = []) (k : Nat) :
    vget (v.map f) k [] = f (vget v k []) := by
  unfold vget
  by_cases hk : k < n <;> simp [hk, hf]

theorem finishInvalidates_caches : s.finishInvalidates.xlate.caches = s.xlate.caches := by
  unfold State.finishInvalidates
  exact foldl_keeps (P := fun u : State => u.xlate.caches = s.xlate.caches) _ (fun _ _ hu => hu) rfl

theorem funcState_modFunc (f : Func) (g : FuncState → FuncState) : (s.modFunc f g).funcState f = g (s.funcState f) := by
  simp only [State.funcState, State.modFunc, State.hostPort]
  rw [vget_vmod_same _ _ _ f.port.isLt]
  unfold HostPort.setFunc HostPort.func
  split <;> simp_all

/-- The line holds a page that an invalidation names. -/
def CacheLine.overlaps (f : Func) (pasid : Option (BitVec 20)) (iova len : Nat) : CacheLine → Bool
  | .page g p at_ size .. => g = f && p = pasid && at_ < iova + len && iova < at_ + size
  | .range .. => false

theorem overlaps_of_ne {f : Func} {pasid : Option (BitVec 20)} {iova len : Nat} {l : CacheLine}
    (h : ∀ at_ size target rd wr, l ≠ .page f pasid at_ size target rd wr) : l.overlaps f pasid iova len = false := by
  cases l with
  | page g p at_ size target rd wr =>
    by_cases hg : g = f
    · by_cases hp : p = pasid
      · subst hg hp
        exact absurd rfl (h at_ size target rd wr)
      · simp [CacheLine.overlaps, hp]
    · simp [CacheLine.overlaps, hg]
  | range => rfl

/-- The named lines are gone, and the invalidation waits for the reads that use them. -/
def State.invalidated (s : State) (f : Func) (pasid : Option (BitVec 20)) (iova len : Nat) : State :=
  { s with xlate.caches := s.xlate.caches.map fun ls => ls.filter fun l => !l.overlaps f pasid iova len,
           xlate.invalidating := s.xlate.invalidating ++ [(f, s.readsUsing f pasid iova len)] }

/-- A function that no longer uses ATS. -/
def State.atsOff (s : State) (f : Func) : State := (s.modFunc f fun x => { x with ats := false }).dropLines fun g => g = f

theorem atsOff_funcState (f : Func) : ((s.atsOff f).funcState f).ats = false :=
  congrArg FuncState.ats (funcState_modFunc (s := s) f fun x => { x with ats := false })

/-- The line holds a page of the function. -/
def CacheLine.isOf (f : Func) : CacheLine → Bool
  | .page g .. => decide (g = f)
  | .range .. => false

theorem atsOff_caches (f : Func) (k : Nat) :
    vget (s.atsOff f).xlate.caches k [] = (vget s.xlate.caches k []).filter fun l => !l.isOf f :=
  vget_map_nil s.xlate.caches (fun ls => ls.filter fun l => !l.isOf f) rfl k

theorem exec_atsEnableClear {f : Func} (hats : s.xlate.ats = []) (hwait : s.xlate.waiting = []) (hquiet : (s.atsOff f).Quiet) :
    exec (.atsEnableClear f) s = .next (s.atsOff f) := by
  have hats' : (s.atsOff f).xlate.ats = [] := hats
  have hwait' : (s.atsOff f).xlate.waiting = [] := hwait
  change execAtsEnableClear f s = _
  unfold execAtsEnableClear
  rw [← State.atsOff]
  generalize s.atsOff f = u at *
  have hsame : ({ u with xlate.ats := u.xlate.ats.filter fun r => r.func ≠ f } : State) = u := by
    rw [hats', List.filter_nil, ← hats']
  simp only [hsame]
  simp only [hats', List.filter_nil, List.map_nil, State.failAll, hwait', List.foldl_nil,
    takeHeld_of_none hquiet.heldArrivals, settle_of_quiet hquiet]

theorem exec_atsInvalidate (f : Func) (pasid : Option (BitVec 20)) (iova len : Nat) :
    exec (.atsInvalidate f pasid iova len) s = .next (s.invalidated f pasid iova len).finishInvalidates := rfl

/-- An invalidation that waits for no read is done. -/
theorem finishInvalidates_one {f : Func} (h : s.xlate.invalidating = [(f, [])]) : s.finishInvalidates.out = s.out ++ [.invalidateDone f] := by
  simp [State.finishInvalidates, h, State.emit]

theorem releaseWrites_of_none (hwait : s.xlate.waiting = []) (hheld : s.trans.heldArrivals = []) (on : WaitFor) :
    s.releaseWrites on = s := by
  unfold State.releaseWrites
  rw [hwait, List.filter_nil, List.foldl_nil]
  dsimp only
  rw [takeHeld_of_none hheld]
  rfl

theorem waitPassed_of_passed {w : Waiting} {ff : Nat} (hff : w.firstFault = some ff)
    (hpassed : s.passed (ff + s.waitLimit w.access.slice) = true) : s.waitPassed w = true := by
  rw [State.waitPassed, hff, Option.any_some]
  exact hpassed

theorem execFaultWaitDeadline_of_passed {id : Nat} {w : Waiting} (hfind : s.xlate.waiting.find? (fun w => w.id = id &&
      (w.on = .stalled || (match w.on with | .page _ => true | _ => false))) = some w) (hw : s.waitPassed w = true)
    (hconns : ((s.failWaiting w Status.xlateFaultTimeout).retryStalled.trans.conns.findSome? fun c =>
      (c.ops.find? fun o => o.id = id).map fun o => (c, o)) = none) :
    execFaultWaitDeadline id s = .next (s.failWaiting w Status.xlateFaultTimeout).retryStalled.settle := by
  unfold execFaultWaitDeadline
  generalize hwaiter : List.find? _ s.xlate.waiting = o
  obtain rfl : o = some w := hwaiter.symm.trans hfind
  dsimp only
  rw [if_pos hw, hconns]

/-- No message's acknowledgements are done where none is due. -/
theorem acksDone_of_none {p n : Nat} (h : s.trans.conns.all (fun c => c.msgs.all fun m => !m.acksDue) = true) :
    ((s.tlpsAcked p n).trans.conns.flatMap fun c =>
      (c.msgs.filter fun m => m.acksDue && m.tlps.isEmpty).map fun m => (c.index, m.msn)) = [] := by
  simp only [List.all_eq_true, Bool.not_eq_true'] at h
  simp only [State.tlpsAcked, List.flatMap_map, List.flatMap_eq_nil_iff, List.map_eq_nil_iff, List.filter_eq_nil_iff]
  intro c hc m hm
  obtain ⟨m', hm', rfl⟩ := List.mem_map.1 hm
  simp [h c hc m' hm']

end Sys2Proof.Machine

open Sys2Proof Sys2Proof.Machine

/-- Settles O27: an answer of the host ends what waits for it, and settling has nothing to do where nothing else waits. -/
theorem translationAndHostReads : Obligations.TranslationAndHostReads := by
  refine ⟨⟨?_, ?_, ?_, ?_, ?_, ?_, ?_⟩, ?_, ?_, ?_, ?_, ?_, ?_, ?_⟩
  · intro id pages res s r hfind
    refine ⟨_, rfl, ?_⟩
    simp only [exec, execAtsCompletion, hfind]
    cases res <;> rfl
  · intro f pasid iova len s
    have hcaches : ∀ k, vget ((s.invalidated f pasid iova len).finishInvalidates).xlate.caches k []
        = (vget s.xlate.caches k []).filter fun l => !l.overlaps f pasid iova len := fun k => by
      rw [finishInvalidates_caches]
      exact vget_map_nil s.xlate.caches _ rfl k
    refine ⟨_, exec_atsInvalidate f pasid iova len, fun c size target at_ rd wr hlo hhi hmem => ?_, fun c l hl => ?_, fun hinv hreads => ?_,
      ((setXlate_moves s _).mono.then (finishInvalidates_moves _) : s.Moves _ [.xlate, .out]).frame⟩
    · rw [hcaches] at hmem
      simpa [CacheLine.overlaps, hlo, hhi] using List.of_mem_filter hmem
    · rw [hcaches, List.mem_filter, overlaps_of_ne hl]
      simp
    · exact finishInvalidates_one (by simp [State.invalidated, hinv, hreads])
  · intro f s hats hwait hheld hended hservices hbusy hinf
    have hquiet : (s.atsOff f).Quiet := ⟨hinf, hheld, hbusy, hended, hservices⟩
    refine ⟨_, exec_atsEnableClear hats hwait hquiet, ?_, ((modFunc_moves s ..).mono.then (dropLines_moves ..) : s.Moves _ [.host, .xlate]).frame,
      fun c pasid at_ size target rd wr hmem => ?_⟩
    · rw [atsOff_funcState]
    · rw [atsOff_caches] at hmem
      simpa [CacheLine.isOf] using List.of_mem_filter hmem
  · intro f prg code s hnone
    have hexec : exec (.pageResponse f prg code) s = .next (s.bump .xltFaultStatStray (s.sliceOf f)) := by
      simp only [exec, execPageResponse, hnone]
    exact ⟨_, hexec, fld_bump_same (by decide) (by decide) _, (bump_moves ..).frame⟩
  · intro f prg s e hfind hwait
    have hnone : s.failAll (fun w => decide (w.on = .page e.id) && s.waitPassed w) Status.xlateFaultTimeout = s := by
      have hempty : s.xlate.waiting.filter (fun w => decide (w.on = .page e.id) && s.waitPassed w) = [] := by
        simp only [List.all_eq_true, Bool.or_eq_true, decide_eq_true_eq, Bool.not_eq_true'] at hwait
        refine List.filter_eq_nil_iff.2 fun w hw hboth => ?_
        simp only [Bool.and_eq_true, decide_eq_true_eq] at hboth
        rcases hwait w hw with h | h
        · exact h hboth.1
        · simp [h] at hboth
      rw [State.failAll, hempty]
      rfl
    simp only [exec, execPageResponse, hfind, hnone, if_true]
  · intro f s
    by_cases hpri : (s.funcState f).pri = true
    · have hexec : exec (.priEnableChange f true) s = .next (s.modFunc f fun x => { x with pri := true }) := by
        simp [exec, execPriEnableChange, hpri]
      exact ⟨_, hexec, ((modFunc_moves ..).mono : s.Moves _ [.host, .xlate]).frame, fun h => absurd hpri (by simp [h]), fun _ => rfl⟩
    · have hexec : exec (.priEnableChange f true) s = .next { s.modFunc f fun x => { x with pri := true } with
          xlate.priStopped := s.xlate.priStopped.filter (· ≠ f) } := by
        simp only [exec, execPriEnableChange]
        exact if_pos ⟨trivial, by simpa using hpri⟩
      refine ⟨_, hexec, ((modFunc_moves s ..).mono.then (setXlate_moves _ _) : s.Moves _ [.host, .xlate]).frame, fun _ => ?_,
        fun h => absurd h hpri⟩
      simp
  · intro id s w ff hfind hff hpassed hconns
    exact execFaultWaitDeadline_of_passed hfind (waitPassed_of_passed hff hpassed) hconns
  · intro id res s h hfind
    simp only [exec, execHostReadCompletion, hfind]
  · intro id res s h hfind
    simp only [exec, execFlushReadCompletion, hfind]
  · intro id s h hfind hpassed
    simp only [exec, execPcieCompletionTimeout, hfind, hpassed, if_true]
  · intro id s r hnone hfind hpassed
    simp only [exec, execPcieCompletionTimeout, hnone, hfind, hpassed, if_true]
  · intro s h w id res u r huse hfind hout
    simp only [State.readEnded, huse, hfind, hout]
  · intro p n s hacks hended hservices hwait hheld hbusy hinf
    have hquiet : (s.tlpsAcked p n).Quiet := ⟨hinf, hheld, hbusy, hended, hservices⟩
    have hnothing := acksDone_of_none (p := p) (n := n) hacks
    have hexec : exec (.dataLinkLayerAck p n) s = .next (s.tlpsAcked p n) := by
      simp only [exec, execDataLinkLayerAck, hnothing, List.foldl_nil]
      rw [releaseWrites_of_none (s := s.tlpsAcked p n) hwait hheld, settle_of_quiet hquiet]
    refine ⟨_, hexec, ?_, ?_, fun i c hc => ?_, ((tlpsAcked_moves ..).mono : s.Moves _ [.host, .trans, .queue]).frame⟩
    · simp only [State.hostPort, State.tlpsAcked, vget_vmod_same _ _ _ p.isLt]
    · simp only [State.hostPort, State.tlpsAcked, vget_vmod_same _ _ _ p.isLt]
    · simp only [State.tlpsAcked, List.getElem?_map, hc, Option.map_some]
      exact ⟨_, rfl, rfl, rfl⟩
  · rintro p n s t c m rfl hconns hmsgs hacks htlps
    simp only [exec, execDataLinkLayerAck, hconns, hmsgs, List.flatMap_cons, List.flatMap_nil, List.append_nil]
    simp [hacks, htlps]
end

section
/-! PROOFS. The end of a revocation. -/

set_option Elab.async false

namespace Sys2Proof.Machine

variable {s : State} {e : RangeEntry}

/-- The record of a revoked region. -/
def State.revokeRecord (s : State) (e : RangeEntry) : RevokeRecord :=
  { slice := e.slice, start := e.start, length := e.length, key := e.key, expiry := s.time.now + 4000000 }

theorem addRevokeRecord_room (h : s.xlate.revokeRecords.length < 4096) :
    (s.addRevokeRecord e).xlate.revokeRecords = s.xlate.revokeRecords ++ [s.revokeRecord e] := by
  unfold State.addRevokeRecord
  cases hrec : s.xlate.revokeRecords with
  | nil => rfl
  | cons o rest =>
    rw [hrec] at h
    dsimp only
    rw [if_neg (Nat.not_le.2 h)]
    rfl

/-- Where every place is taken, the oldest record makes room. -/
theorem addRevokeRecord_full {o : RevokeRecord} {rest : List RevokeRecord} (h : s.xlate.revokeRecords = o :: rest) (hlen : 4095 ≤ rest.length) :
    (s.addRevokeRecord e).xlate.revokeRecords = rest ++ [s.revokeRecord e] := by
  have hfull : 4096 ≤ s.xlate.revokeRecords.length := by
    rw [h, List.length_cons]
    omega
  simp only [State.addRevokeRecord, h] at hfull ⊢
  rw [if_pos hfull]
  rfl

/-- The line is of a region's entry. -/
def CacheLine.isRange (slice slot : Nat) : CacheLine → Bool
  | .range k _ _ n _ => k = slice && n = slot
  | .page .. => false

theorem freeRange_caches (k : Nat) :
    vget (s.freeRange e).xlate.caches k [] = (vget s.xlate.caches k []).filter fun l => !l.isRange e.slice e.slot :=
  vget_map_nil s.xlate.caches (fun ls => ls.filter fun l => !l.isRange e.slice e.slot) rfl k

theorem range_modRange {slice slot : Nat} {f : RangeEntry → RangeEntry} (hf : ∀ x, (f x).slice = x.slice ∧ (f x).slot = x.slot) :
    (s.modRange slice slot f).range slice slot = (s.range slice slot).map f :=
  find_updWhere_self _ f _ fun x hx => by simpa [hf] using hx

theorem range_freeRange (h : s.range e.slice e.slot = some e) :
    (s.freeRange e).range e.slice e.slot = some { e with state := .free, inFlight := 0, revoker := none } := by
  have hdrop : (s.dropRangeLines e.slice e.slot).range e.slice e.slot = some e := h
  rw [State.freeRange, range_modRange (by intro x; exact ⟨rfl, rfl⟩), hdrop]
  rfl

end Sys2Proof.Machine

open Sys2Proof Sys2Proof.Machine

/-- Settles O28: what the end of a revocation does, part by part. -/
theorem revocationsComplete : Obligations.RevocationsComplete := by
  refine ⟨?_, ?_, ?_, ?_, ?_, ?_⟩
  · intro slot s e hfind hflight
    simp only [exec, execRevokeDrainDone, hfind, hflight, ne_eq, not_true, if_false]
  · intro s e hlen
    exact ⟨s.revokeRecord e, addRevokeRecord_room hlen, rfl, rfl, rfl, rfl, rfl⟩
  · intro s e o rest hrec hlen
    exact ⟨s.revokeRecord e, addRevokeRecord_full hrec hlen, rfl⟩
  · intro s e c start n i hmem
    rw [freeRange_caches] at hmem
    simpa [CacheLine.isRange] using List.of_mem_filter hmem
  · intro s e h
    exact ⟨_, range_freeRange h, rfl, rfl, rfl⟩
  · intro s
    exact ⟨_, rfl, rfl, (setXlate_moves s _).frame⟩
end

section
/-! PROOFS. Keys of regions, and the commands of regions. -/

set_option Elab.async false

namespace Sys2Proof.Machine

variable {s t u : State} {slice : Nat}

/-! ## The key (R124) -/

theorem goodKey_advanceFree (k : Word32) : s.advanceFree.goodKey slice k = s.goodKey slice k := rfl

/-- A key that is good is drawn wherever there is one. -/
theorem drawKey_good (h : ∃ k : Word32, s.goodKey slice k = true) (fuel : Nat) : s.goodKey slice (s.drawKey slice fuel).2 = true := by
  induction fuel generalizing s with
  | zero =>
    obtain ⟨k, hk⟩ := h
    obtain ⟨c, hc⟩ := freeChoice_isSome (s := s) (n := 2 ^ 32) (good := fun k => s.goodKey slice (BitVec.ofNat 32 k)) k.toNat k.isLt
      (by rwa [BitVec.ofNat_toNat, BitVec.setWidth_eq])
    rw [State.drawKey, hc]
    exact chooseFrom_good hc
  | succ fuel ih =>
    unfold State.drawKey
    dsimp only
    split
    · assumption
    · exact ih (s := s.advanceFree) h

theorem goodKey_iff (k : Word32) : s.goodKey slice k = true ↔ k ≠ 0
    ∧ (∀ e ∈ s.xlate.ranges, e.slice = slice → e.state ≠ .free → e.key ≠ k)
    ∧ (∀ r ∈ s.xlate.revokeRecords, r.slice = slice → s.passed r.expiry = false → r.key ≠ k) := by
  simp only [State.goodKey, Bool.and_eq_true, decide_eq_true_eq, Bool.not_eq_true', List.any_eq_false, and_assoc, not_and]
  refine and_congr_right fun _ => and_congr_right fun _ => forall₂_congr fun r _ => forall_congr' fun _ => ?_
  exact ⟨fun h hp hk => h hk hp, fun h hk hp => h hp hk⟩

/-! ## Registration (R71, R123, R125) -/

/-- The entry of a region as its parameters ask. -/
structure RangeEntry.Asked (e : RangeEntry) (slice : Nat) (p : RegionParams) : Prop where
  slice : e.slice = slice
  start : e.start = p.start
  length : e.length = p.length
  state : e.state = .active
  as : e.as = p.addressSpace
  perm : e.perm = BitVec.ofNat 5 p.perm

/-- The entry that a registration makes (R125). -/
def State.regionEntry (s : State) (slice slot : Nat) (p : RegionParams) (key : Word32) : RangeEntry :=
  let tier := (tierOf p.tier).getD .near
  { slice, slot, start := p.start, length := p.length, target := if tier.isHost then p.target else mkFpa s.coord p.start, key,
    as := p.addressSpace, perm := BitVec.ofNat 5 p.perm, anyAs := p.anyAs, pinned := p.pinned && tier.isHost,
    pasid := if tier.isHost ∧ !s.crossPort slice tier then (s.slice slice).pasid else none, tier, state := .active,
    incarnation := ((s.range slice slot).map (·.incarnation)).getD 0 + 1, pathTag := if tier.isHost then p.pathTag else 0xFFFF }

/-- The state with a region's entry in its slot. -/
def State.withRange (s : State) (e : RangeEntry) : State :=
  { s with xlate.ranges := (s.xlate.ranges.filter fun x => !(x.slice = e.slice && x.slot = e.slot)) ++ [e] }

/-- What a registration comes to: a refusal that changes nothing, or an entry in a free slot of the segment. -/
inductive State.Registration (t : State) (slice : Nat) (p : RegionParams) : State × Status × List Nat → Prop
  | refused (c : Status) (h : c ≠ Status.success) : Registration t slice p (t, c, [])
  | entered (k : Nat) (v : State) (e : RangeEntry)
      (slot : t.freeChoice (t.quota slice).ranges (fun k => !((t.liveRanges slice).any fun e => e.slot = t.segBase slice + k)) = some k)
      (drawn : v = (t.advanceFree.drawKey slice 256).1) (asked : e.Asked slice p) (at_ : e.slot = t.segBase slice + k)
      (inc : e.incarnation = ((v.range slice e.slot).map (·.incarnation)).getD 0 + 1) :
      Registration t slice p (v.withRange e, Status.success, [e.slot, e.incarnation.toNat, e.key.toNat])

theorem registerRegion_registration (p : RegionParams) : t.Registration slice p (t.registerRegion slice p) := by
  have hrefuse : ∀ c, c ≠ Status.success → t.Registration slice p (t, c, []) := .refused
  unfold State.registerRegion
  dsimp only
  refine iteInduction (fun _ => hrefuse _ (by decide)) fun _ => ?_
  refine iteInduction (fun _ => hrefuse _ (by decide)) fun _ => ?_
  refine iteInduction (fun _ => hrefuse _ (by decide)) fun _ => ?_
  refine iteInduction (fun _ => hrefuse _ (by decide)) fun _ => ?_
  refine iteInduction (fun _ => hrefuse _ (by decide)) fun _ => ?_
  refine iteInduction (fun _ => hrefuse _ (by decide)) fun _ => ?_
  refine iteInduction (fun _ => hrefuse _ (by decide)) fun _ => ?_
  split
  · exact hrefuse _ (by decide)
  · rename_i k hk
    exact .entered k _ ((t.advanceFree.drawKey slice 256).1.regionEntry slice (t.segBase slice + k) p (t.advanceFree.drawKey slice 256).2)
      hk rfl ⟨rfl, rfl, rfl, rfl, rfl, rfl⟩ rfl rfl

theorem range_withRange {e : RangeEntry} : (s.withRange e).range e.slice e.slot = some e := by
  have hnone : (s.xlate.ranges.filter fun x => !(x.slice = e.slice && x.slot = e.slot)).find?
      (fun x => x.slice = e.slice && x.slot = e.slot) = none := by
    refine List.find?_eq_none.2 fun x hx => ?_
    simpa [imp_iff_not_or] using List.of_mem_filter hx
  simp only [State.range, State.withRange, List.find?_append, hnone]
  simp

/-- A choice lies below its bound. -/
theorem chooseFrom_lt {n : Nat} {good : Nat → Bool} {fuel k c : Nat} (hn : 0 < n) (h : chooseFrom n good fuel k = some c) : c < n := by
  induction fuel generalizing k with
  | zero => simp [chooseFrom] at h
  | succ fuel ih =>
    unfold chooseFrom at h
    dsimp only at h
    rw [if_neg hn.ne'] at h
    split at h
    · cases h
      exact Nat.mod_lt _ hn
    · exact ih h

theorem freeChoice_lt {n : Nat} {good : Nat → Bool} {c : Nat} (h : s.freeChoice n good = some c) : c < n := by
  rcases Nat.eq_zero_or_pos n with rfl | hn
  · simp [State.freeChoice, chooseFrom] at h
  · exact chooseFrom_lt hn h

/-- A region that has been registered: its entry stands in a slot that was free. -/
theorem registerRegion_success {p : RegionParams} {info : List Nat} (h : t.registerRegion slice p = (u, Status.success, info)) :
    ∃ e slot inc key, info = [slot, inc, key] ∧ u.range slice slot = some e ∧ e.start = p.start ∧ e.length = p.length
      ∧ e.state = .active ∧ e.as = p.addressSpace ∧ e.perm = BitVec.ofNat 5 p.perm ∧ e.incarnation.toNat = inc
      ∧ e.key.toNat = key ∧ e.incarnation = ((t.range slice slot).map (·.incarnation)).getD 0 + 1
      ∧ t.segBase slice ≤ slot ∧ slot < t.segBase slice + (t.quota slice).ranges
      ∧ (∀ x ∈ t.liveRanges slice, x.slot ≠ slot) := by
  have hreg := registerRegion_registration (t := t) (slice := slice) p
  rw [h] at hreg
  generalize hr : (u, Status.success, info) = r at hreg
  cases hreg with
  | refused c hc => exact absurd (congrArg (·.2.1) hr).symm hc
  | entered k v e hk hv hasked hat hinc =>
    obtain ⟨rfl, -, rfl⟩ : u = v.withRange e ∧ Status.success = Status.success ∧ info = _ := by simpa using hr
    obtain ⟨rfl, hstart, hlength, hstate, has, hperm⟩ := hasked
    have hxlate : v.xlate = t.xlate := by
      rw [hv]
      exact ((advanceFree_moves t).then (drawKey_moves ..)).frame .xlate (by decide)
    have hrange : v.range e.slice e.slot = t.range e.slice e.slot := by simp only [State.range, hxlate]
    have hlt := freeChoice_lt hk
    refine ⟨e, e.slot, _, _, rfl, range_withRange, hstart, hlength, hstate, has, hperm, rfl, rfl, hrange ▸ hinc, by omega, by omega,
      fun x hx hslot => ?_⟩
    have hgood := chooseFrom_good hk
    simp only [Bool.not_eq_true', List.any_eq_false, decide_eq_true_eq] at hgood
    exact hgood x hx (hslot.trans hat)

/-- A region that is refused leaves everything as it stands. -/
theorem registerRegion_refused {p : RegionParams} (h : (t.registerRegion slice p).2.1 ≠ Status.success) :
    t.registerRegion slice p = (t, (t.registerRegion slice p).2.1, []) := by
  have hreg := registerRegion_registration (t := t) (slice := slice) p
  generalize t.registerRegion slice p = r at *
  cases hreg with
  | refused => rfl
  | entered => exact absurd rfl h

/-! ## Reads and tenants -/

theorem slice_modSlice_same {k : Nat} (hk : k < 512) (f : Slice → Slice) : (s.modSlice k f).slice k = f (s.slice k) :=
  vget_vmod_same _ _ _ hk

theorem slice_modSlice_other {k j : Nat} (h : j ≠ k) (f : Slice → Slice) : (s.modSlice k f).slice j = s.slice j :=
  vget_vmod_other _ _ _ h

theorem answer_slice (slice : Nat) (tag : Word32) (op : Nat) (st : Status) (detail : Nat) (info : List Nat) (k : Nat) :
    (s.answer slice tag op st detail info).slice k = s.slice k := rfl

section TakenUp

variable {tag : Word32} {op : Nat} (h : s.takesUp slice tag op)
include h

theorem taken_quota (k : Nat) : (s.taken slice tag op).quota k = s.quota k := by simp only [State.quota, taken_last h]

theorem taken_segBase (k : Nat) : (s.taken slice tag op).segBase k = s.segBase k := by simp only [State.segBase, taken_quota h]

theorem taken_range (k n : Nat) : (s.taken slice tag op).range k n = s.range k n := by simp only [State.range, taken_xlate h]

theorem taken_rangeBytes (e : RangeEntry) : (s.taken slice tag op).rangeBytes e = s.rangeBytes e := by
  simp only [State.rangeBytes, State.rangeImage, State.sortIndex, taken_segBase h, State.liveRanges, taken_xlate h]

theorem taken_slice (k : Nat) : (s.taken slice tag op).slice k = s.slice k := by
  have hslices : (s.taken slice tag op).slices = s.slices := taken_touches h .slices (by decide)
  simp only [State.slice, hslices]

end TakenUp

end Sys2Proof.Machine

open Sys2Proof Sys2Proof.Machine

/-- Settles O29: a drawn key is good, and a registered region has a slot that was free. -/
theorem regionKeysAndCommands : Obligations.RegionKeysAndCommands := by
  refine ⟨?_, ?_, ?_, ?_, ?_, ?_, ?_⟩
  · intro s slice fuel h
    exact (goodKey_iff _).1 (drawKey_good h fuel)
  · rintro slice tag p s t u info h rfl hdrbg hreg
    refine ⟨?_, registerRegion_success hreg⟩
    simp only [exec, execRegionRegister, take_of_takesUp h, hreg, hdrbg, Bool.false_eq_true, false_and, if_false]
  · rintro slice tag p s c h rfl hc
    have hreg := registerRegion_refused hc
    refine ⟨_, ?_, answer_hasAnswer .., answered_touches h (by decide) (touches_refl _)⟩
    simp only [exec, execRegionRegister, take_of_takesUp h]
    rw [hreg]
    exact if_neg fun hs => hc hs.2
  · rintro slice tag slot s t e h rfl hrange hactive
    have hlive : ¬(e.state = .free ∨ e.incarnation.toNat ≠ e.incarnation.toNat) := by simp [hactive]
    simp only [exec, execRegionRevoke, take_of_takesUp h, hrange]
    rw [if_neg hlive, if_neg (by rw [hactive]; decide)]
  · intro slice tag slot inc s e h hrange hfree hinc
    refine ⟨(s.taken slice tag MbxOp.regionRevoke).answer slice tag MbxOp.regionRevoke Status.localAccess 0 [], ?_, answer_hasAnswer ..,
      answered_touches h (by decide) (touches_refl _)⟩
    have hrange' : (s.taken slice tag MbxOp.regionRevoke).range slice slot = some e := by rwa [State.range, taken_xlate h]
    simp only [exec, execRegionRevoke, take_of_takesUp h, hrange']
    exact if_pos (.inr hinc)
  · intro slice tag slot s e h hlo hhi hrange
    refine ⟨_, command_next h (u := s.taken slice tag MbxOp.rangeRead) (st := Status.success) (info := s.rangeBytes e) ?_,
      answer_hasAnswer .., answered_touches h (by decide) (touches_refl _)⟩
    simp only [taken_segBase h, taken_quota h, taken_range h, hrange, taken_rangeBytes h]
    exact if_neg (by omega)
  · intro tag k n s h hk hn hconns
    have htrans : (s.taken (0 : Fin 512).val tag MbxOp.tenantSet).trans = s.trans := taken_touches h .trans (by decide)
    refine ⟨_, command_next h (u := (s.taken 0 tag MbxOp.tenantSet).modSlice k fun x => { x with tenant := BitVec.ofNat 24 n })
      (st := Status.success) (info := []) ?_, ?_, ?_, fun j hj => ?_, answer_hasAnswer ..,
      answered_touches h (by decide) ((modSlice_moves ..).mono : State.Moves _ _ [.slices, .mailboxes]).frame⟩
    · rw [if_neg (by simp), if_neg (by omega), htrans, hconns]
      rfl
    · rw [answer_slice, slice_modSlice_same hk]
      exact (BitVec.toNat_ofNat ..).trans (Nat.mod_eq_of_lt hn)
    · rw [answer_slice, slice_modSlice_same hk, taken_slice h]
    · rw [answer_slice, slice_modSlice_other hj, taken_slice h]
end

section
/-! PROOFS. Commands of queues. -/

set_option Elab.async false

namespace Sys2Proof.Machine

variable {s t u v : State} {slice : Nat} {p : QueueParams}

/-! ## Creation (R94) -/

/-- The number drawn for a queue is of the cluster asked for, and no queue has changed. -/
theorem queueNumber_spec {c n slot : Nat} (h : s.queueNumber slice c = (v, some (n, slot))) :
    v.queue.queues = s.queue.queues ∧ ∃ g, n = 8 * g + c := by
  unfold State.queueNumber at h
  dsimp only at h
  split at h
  · obtain ⟨rfl, hn⟩ := Prod.mk.inj h
    obtain ⟨rfl, -⟩ := Prod.mk.inj (Option.some.inj hn)
    exact ⟨rfl, _, rfl⟩
  · split at h
    · exact absurd (Prod.mk.inj h).2 (by simp)
    · split at h
      · exact absurd (Prod.mk.inj h).2 (by simp)
      · obtain ⟨rfl, hn⟩ := Prod.mk.inj h
        obtain ⟨rfl, -⟩ := Prod.mk.inj (Option.some.inj hn)
        exact ⟨rfl, _, rfl⟩

/-- A queue as its parameters ask. -/
structure Queue.Asked (q : Queue) (slice n : Nat) (p : QueueParams) : Prop where
  number : q.number = n
  slice : q.slice = slice
  state : q.state = .disabled
  enable : q.enable = false
  logEntries : q.logEntries = p.logEntries
  ringOffset : q.ringOffset = p.ringOffset
  as : q.as = p.addressSpace
  head : q.head = 0

/-- The traffic class of a queue of a kind. -/
def queueClass (p : QueueParams) (k : QKind) : Nat := if k = .work then p.trafficClass else 0

/-- What the creation of a queue comes to. -/
inductive State.Creation (t : State) (slice : Nat) (p : QueueParams) : State × Status × List Nat → Prop
  | refused (u : State) (c : Status) (h : c ≠ Status.success) : Creation t slice p (u, c, [])
  | created (k : QKind) (c n slot : Nat) (u v : State) (q : Queue) (kind : kindOf p.kind = some k)
      (drawn : u.queueNumber slice c = (v, some (n, slot))) (same : u.queue = t.queue)
      (cluster : queueClass p k ≠ 7 → p.cluster ≠ 0xFF → c = p.cluster) (asked : q.Asked slice n p) :
      Creation t slice p (if queueClass p k = 7 then ({ v with queue.queues := v.queue.queues ++ [q] } : State).loadContext n
        else { v with queue.queues := v.queue.queues ++ [q] }, Status.success, [n, slot * 4096 + n % 8 * 512])

theorem createQueue_creation (p : QueueParams) : t.Creation slice p (t.createQueue slice p) := by
  have hrefuse : ∀ u c, c ≠ Status.success → t.Creation slice p (u, c, []) := .refused
  unfold State.createQueue
  split
  · exact hrefuse _ _ (by decide)
  · rename_i k hk
    dsimp only
    refine iteInduction (fun _ => hrefuse _ _ (by decide)) fun _ => ?_
    refine iteInduction (fun _ => hrefuse _ _ (by decide)) fun _ => ?_
    refine iteInduction (fun _ => hrefuse _ _ (by decide)) fun _ => ?_
    refine iteInduction (fun _ => hrefuse _ _ (by decide)) fun _ => ?_
    split
    · exact hrefuse _ _ (by decide)
    · rename_i v n slot hdrawn
      refine .created k _ n slot _ v _ hk hdrawn ?_ ?_ (by exact ⟨rfl, rfl, rfl, rfl, rfl, rfl, rfl, rfl⟩)
      · by_cases h7 : (if k = .work then p.trafficClass else 0) = 7
        · rw [if_pos h7]
        · rw [if_neg h7]
          split <;> rfl
      · intro h7 hff
        have h7' : ¬(if k = .work then p.trafficClass else 0) = 7 := h7
        rw [if_neg h7', if_neg hff]

/-- Loading a context keeps what holds of a queue apart from its place in the cache. -/
theorem loadContext_mem {P : Queue → Prop} (hP : ∀ (x : Queue) (b : Bool) (n : Nat), P x → P { x with cached := b, lastUse := n }) (n : Nat)
    (h : ∃ q ∈ s.queue.queues, P q) : ∃ q ∈ (s.loadContext n).queue.queues, P q := by
  have hmod : ∀ (s : State) (m : Nat) (f : Queue → Queue), (∀ x, P x → P (f x)) → (∃ q ∈ s.queue.queues, P q) →
      ∃ q ∈ (s.modQueue m f).queue.queues, P q := by
    rintro s m f hf ⟨q, hq, hp⟩
    refine ⟨_, List.mem_map_of_mem hq, ?_⟩
    dsimp only
    split
    · exact hf q hp
    · exact hp
  unfold State.loadContext
  split
  · exact h
  · refine hmod _ _ _ (fun x hx => hP x true _ hx) ?_
    split
    · exact hmod _ _ _ (fun x hx => hP x false x.lastUse hx) h
    · exact h

/-- A queue that has been created is of its kind's cluster, and stands at the end of the list unless its context was loaded. -/
theorem createQueue_success {info : List Nat} (h : t.createQueue slice p = (u, Status.success, info)) :
    ∃ q, q ∈ u.queue.queues ∧ (p.trafficClass ≠ 7 → u.queue.queues = t.queue.queues ++ [q]) ∧ q.slice = slice ∧ q.state = .disabled
      ∧ q.enable = false ∧ q.logEntries = p.logEntries ∧ q.ringOffset = p.ringOffset ∧ q.as = p.addressSpace ∧ q.head = 0
      ∧ info.head? = some q.number ∧ (p.kind ≠ 0 → p.cluster < 8 → homeOf q.number = p.cluster) := by
  have hcreate := createQueue_creation (t := t) (slice := slice) p
  rw [h] at hcreate
  generalize hr : (u, Status.success, info) = r at hcreate
  cases hcreate with
  | refused w c hc => exact absurd (congrArg (·.2.1) hr).symm hc
  | created k c n slot w v q hkind hdrawn hsame hcluster hasked =>
    obtain ⟨rfl, hinfo⟩ := Prod.mk.inj hr
    obtain ⟨-, rfl⟩ := Prod.mk.inj hinfo
    obtain ⟨hqueues, g, rfl⟩ := queueNumber_spec hdrawn
    have hhome : p.kind ≠ 0 → p.cluster < 8 → homeOf (8 * g + c) = p.cluster := by
      intro hk hlt
      have hwork : k ≠ .work := by
        rintro rfl
        unfold kindOf at hkind
        split at hkind <;> simp_all
      have hc : c = p.cluster := hcluster (by simp [queueClass, hwork]) (by omega)
      rw [homeOf, hc]
      omega
    by_cases h7 : queueClass p k = 7
    · have htc : p.trafficClass = 7 := by
        unfold queueClass at h7
        split at h7
        · exact h7
        · omega
      rw [if_pos h7]
      obtain ⟨x, hx, hasked'⟩ := loadContext_mem (P := fun x => x.Asked slice (8 * g + c) p)
        (s := { v with queue.queues := v.queue.queues ++ [q] }) (fun x b m hx => ⟨hx.1, hx.2, hx.3, hx.4, hx.5, hx.6, hx.7, hx.8⟩)
        (8 * g + c) ⟨q, by simp, hasked⟩
      obtain ⟨hnum, hslice, hst, hen, hlog, hring, has, hhead⟩ := hasked'
      exact ⟨x, hx, fun h => absurd htc h, hslice, hst, hen, hlog, hring, has, hhead, by rw [hnum]; rfl, by rwa [hnum]⟩
    · rw [if_neg h7]
      obtain ⟨hnum, hslice, hst, hen, hlog, hring, has, hhead⟩ := hasked
      refine ⟨q, by simp, fun _ => ?_, hslice, hst, hen, hlog, hring, has, hhead, by rw [hnum]; rfl, by rwa [hnum]⟩
      rw [hqueues, hsame]

/-! ## Destruction (R95) -/

/-- The state without a queue, its filters and its wheel entry. -/
def State.withoutQueue (s : State) (n : Nat) : State :=
  ({ s with queue.queues := s.queue.queues.filter fun x => x.number ≠ n,
            filters := s.filters.filter fun f => f.2.queue ≠ n,
            trans.wheel := s.trans.wheel.filter fun (w : WheelEntry) => decide (w.owner ≠ WheelOwner.raw n) } : State).trimGroups

theorem withoutQueue_moves (s : State) (n : Nat) : s.Moves (s.withoutQueue n) [.queue, .filters, .mailboxes, .trans] := by
  unfold State.withoutQueue
  exact ((setQueueTransFilters_moves s _ _ _).mono.then (trimGroups_moves ..))

theorem destroyQueue_idle {n : Nat} {x : Queue} (hx : s.findQueue n = some x) (hst : x.state = .disabled) (hidle : x.idle = true)
    (hk : x.kind ≠ .completion) : s.destroyQueue x.slice n = (s.withoutQueue n, Status.success) := by
  simp only [State.destroyQueue, hx, hst, hidle, hk, ne_eq, not_true, if_false, Bool.not_true, Bool.false_eq_true, false_and, or_self]
  rfl

theorem findQueue_withoutQueue_same (n : Nat) : (s.withoutQueue n).findQueue n = none := by
  refine List.find?_eq_none.2 fun x hx => ?_
  simpa using List.of_mem_filter hx

theorem findQueue_withoutQueue_other {n m : Nat} (h : m ≠ n) : (s.withoutQueue n).findQueue m = s.findQueue m := by
  change (s.queue.queues.filter fun x => x.number ≠ n).find? (fun x => x.number = m) = _
  rw [List.find?_filter]
  refine congrArg (fun f => s.queue.queues.find? f) (funext fun x => ?_)
  by_cases hx : x.number = m
  · simp [hx, h]
  · simp [hx]

end Sys2Proof.Machine

open Sys2Proof Sys2Proof.Machine

/-- Settles O30: a created queue stands at the end of the list, and a destroyed one is found no more. -/
theorem queueCommands : Obligations.QueueCommands := by
  refine ⟨?_, ?_, ?_, ?_⟩
  · rintro slice tag p s t u info h rfl hcreate
    exact ⟨command_next h hcreate, createQueue_success hcreate⟩
  · intro slice tag p s h hkind
    have hnone : kindOf p.kind = none := by
      unfold kindOf
      split
      any_goals omega
      rfl
    have hact : (s.taken slice tag MbxOp.queueCreate).createQueue slice p = (s.taken slice tag MbxOp.queueCreate, Status.descMalformed, []) := by
      simp only [State.createQueue, hnone]
    exact ⟨_, command_next h hact, answer_hasAnswer .., answered_touches h (by decide) (touches_refl _)⟩
  · intro slice tag q s x h hx hslice hst hidle hk
    have hx' : (s.taken slice tag MbxOp.queueDestroy).findQueue q = some x := (findQueue_congr (taken_touches h .queue (by decide)) _).trans hx
    have hact := destroyQueue_idle hx' hst hidle hk
    rw [hslice] at hact
    have htrans : (s.taken slice tag MbxOp.queueDestroy).trans = s.trans := taken_touches h .trans (by decide)
    refine ⟨_, command_next h (u := (s.taken slice tag MbxOp.queueDestroy).withoutQueue q) (st := Status.success) (info := []) (by rw [hact]),
      findQueue_withoutQueue_same q, fun n hn => ?_, fun f hf => ?_, answer_hasAnswer .., ?_, answered_touches h (by decide)
      (withoutQueue_moves ..).frame⟩
    · exact (findQueue_withoutQueue_other hn).trans (findQueue_congr (taken_touches h .queue (by decide)) _)
    · simpa using List.of_mem_filter hf
    · exact congrArg (fun x : TransState => { x with wheel := x.wheel.filter fun w => decide (w.owner ≠ WheelOwner.raw q) }) htrans
  · intro slice tag q s x h hx hslice hst
    have hx' : (s.taken slice tag MbxOp.queueDestroy).findQueue q = some x := (findQueue_congr (taken_touches h .queue (by decide)) _).trans hx
    have hact : (s.taken slice tag MbxOp.queueDestroy).destroyQueue slice q = (s.taken slice tag MbxOp.queueDestroy, Status.busy) := by
      simp only [State.destroyQueue, hx', hslice, ne_eq, not_true, if_false]
      exact if_pos (.inl hst)
    exact ⟨_, command_next h (u := s.taken slice tag MbxOp.queueDestroy) (st := Status.busy) (info := []) (by rw [hact]),
      answer_hasAnswer .., answered_touches h (by decide) (touches_refl _)⟩
end

section
/-! PROOFS. The Eyelet's window. -/

set_option Elab.async false

namespace Sys2Proof.Machine

variable {s : State}

/-- No unmapping that stands has accesses to wait for. -/
theorem finishUnmaps_of_none (h : s.xlate.unmapping = []) : s.finishUnmaps = s := by
  have hsplit : s.xlate.unmapping.partition (fun u => s.granuleBusy u.2.2.1 u.2.2.2) = ([], []) := by simp [h]
  simp only [State.finishUnmaps, hsplit, List.foldl_nil]
  rw [← h]

section TakenUp

variable {slice : Nat} {tag : Word32} {op : Nat} (h : s.takesUp slice tag op)
include h

theorem taken_mapRefused (k : Nat) (p : EyeletParams) : (s.taken slice tag op).mapRefused k p = s.mapRefused k p := by
  obtain ⟨f, hf⟩ := taken_of_takesUp h
  rw [hf]
  rfl

theorem taken_eyeletEntry (f : Func) (g : Nat) : (s.taken slice tag op).eyeletEntry f g = s.eyeletEntry f g := by
  simp only [State.eyeletEntry, taken_xlate h]

/-- A command that has been taken up stands in its mailbox under its tag. -/
theorem taken_listed : ∃ t, ((s.taken slice tag op).mailbox slice).taken.find? (fun t => t.tag = tag) = some t := by
  unfold State.takesUp at h
  unfold State.taken
  unfold State.take at h ⊢
  dsimp only at h ⊢
  split at h
  · simp at h
  · split at h
    · simp at h
    · split at h
      · simp at h
      · split at h
        · simp at h
        · rename_i h1 h2 h3 h4
          rw [if_neg h1, if_neg h2, if_neg h3, if_neg h4]
          dsimp only
          rw [mailbox_modMailbox]
          dsimp only
          split
          · rename_i hany
            rw [find_updWhere_self]
            · obtain ⟨t, ht, htag⟩ := List.any_eq_true.1 hany
              cases hf : (s.mailbox slice).taken.find? fun t => t.tag = tag with
              | none => exact absurd htag (List.find?_eq_none.1 hf t ht)
              | some t => exact ⟨_, rfl⟩
            · exact fun x hx => hx
          · rename_i hany
            have hnone : (s.mailbox slice).taken.find? (fun t => t.tag = tag) = none :=
              List.find?_eq_none.2 fun t ht htag => hany (List.any_eq_true.2 ⟨t, ht, htag⟩)
            rw [List.find?_append, hnone]
            simp

/-- The response to a command that has been taken up and not yet answered. -/
theorem respond_taken {u : State} (hu : u.mailboxes = (s.taken slice tag op).mailboxes) (st : Status) (info : List Nat) :
    ∃ o, u.respond (slice, tag) st info = u.answer slice tag o st 0 info := by
  obtain ⟨t, ht⟩ := taken_listed h
  have hmbx : u.mailbox slice = (s.taken slice tag op).mailbox slice := by simp only [State.mailbox, hu]
  refine ⟨t.opcode, ?_⟩
  simp only [State.respond, hmbx, ht]

end TakenUp

/-- The state without a granule's mapping, whose unmapping waits. -/
def State.unmapped (s : State) (slice : Nat) (tag : Word32) (f : Func) (g : Nat) : State :=
  { s with xlate.eyelet := s.xlate.eyelet.filter fun e => !(e.port = f.port.val && e.fn = f.fn.val && e.granule = g),
           xlate.unmapping := s.xlate.unmapping ++ [(slice, tag, f, g)] }

theorem eyeletEntry_unmapped (slice : Nat) (tag : Word32) (f : Func) (g : Nat) : (s.unmapped slice tag f g).eyeletEntry f g = none := by
  refine List.find?_eq_none.2 fun x hx => ?_
  simpa [imp_iff_not_or, or_assoc] using List.of_mem_filter hx

theorem exec_eyeletUnmap {slice : Fin 512} {tag : Word32} {f : Func} {g : Nat} {e : EyeletEntry} (h : s.takesUp slice tag MbxOp.eyeletUnmap)
    (he : s.eyeletEntry f g = some e) (hslice : e.slice = slice.val) :
    exec (.eyeletUnmap slice tag f g) s = .next ((s.taken slice tag MbxOp.eyeletUnmap).unmapped slice tag f g).finishUnmaps := by
  simp only [exec, execEyeletUnmap, take_of_takesUp h, taken_eyeletEntry h, he, Option.any_some, hslice, decide_true, if_true]
  rfl

/-- The entry that EYELET_MAP makes. -/
def State.mapped (s : State) (slice : Nat) (p : EyeletParams) : EyeletEntry :=
  { port := p.func.port, fn := p.func.fn, granule := p.granule, slice, as := p.addressSpace, target := p.target.toNat,
    requesterId := p.requesterId, requesterMask := p.requesterMask, read := p.read, write := p.write,
    conn := if fpaCoord p.target.toNat = s.coord then 0 else p.conn, key := p.key }

theorem taken_coord {slice : Nat} {tag : Word32} {op : Nat} (h : s.takesUp slice tag op) : (s.taken slice tag op).coord = s.coord := by
  obtain ⟨f, hf⟩ := taken_of_takesUp h
  rw [hf]
  rfl

/-- A load that is over its limit is answered with an abort and counted. -/
def State.loadEnded (s : State) (id : Nat) (x : EyeletAccess) : State :=
  (({ s.advanceFree with xlate.eyeletBusy := s.xlate.eyeletBusy.filter fun x => x.id ≠ id } : State).emit (.cplAbort id)).bump
    .slcEyeletErrCaCount x.slice

theorem loadEnded_moves (s : State) (id : Nat) (x : EyeletAccess) : s.Moves (s.loadEnded id x) [.out, .free, .xlate, .regs] :=
  (advanceFree_moves s).mono.then (setXlate_moves _ _) |>.then (emit_moves ..) |>.then (bump_moves ..)

/-! ## Unmapping (R68) -/

section Unmapping

variable {u : State} {slice : Nat} {tag : Word32} {f : Func} {g : Nat} {op : Nat}

theorem unmapping_unmapped (h : s.takesUp slice tag op) (hunmap : s.xlate.unmapping = []) :
    ((s.taken slice tag op).unmapped slice tag f g).xlate.unmapping = [(slice, tag, f, g)] := by
  simp [State.unmapped, taken_xlate h, hunmap]

theorem granuleBusy_unmapped (h : s.takesUp slice tag op) :
    ((s.taken slice tag op).unmapped slice tag f g).granuleBusy f g = s.granuleBusy f g := by
  simp only [State.granuleBusy, State.unmapped, taken_xlate h]

theorem finishUnmaps_busy (hone : u.xlate.unmapping = [(slice, tag, f, g)]) (hbusy : u.granuleBusy f g = true) : u.finishUnmaps = u := by
  have hsplit : u.xlate.unmapping.partition (fun x => u.granuleBusy x.2.2.1 x.2.2.2) = ([(slice, tag, f, g)], []) := by simp [hone, hbusy]
  simp only [State.finishUnmaps, hsplit, List.foldl_nil]
  rw [← hone]

theorem finishUnmaps_idle (h : s.takesUp slice tag op)
    (hone : ((s.taken slice tag op).unmapped slice tag f g).xlate.unmapping = [(slice, tag, f, g)])
    (hidle : ((s.taken slice tag op).unmapped slice tag f g).granuleBusy f g = false) :
    ∃ o, ((s.taken slice tag op).unmapped slice tag f g).finishUnmaps =
      ({ (s.taken slice tag op).unmapped slice tag f g with xlate.unmapping := [] } : State).answer slice tag o Status.success 0 [] := by
  obtain ⟨o, ho⟩ := respond_taken (u := { (s.taken slice tag op).unmapped slice tag f g with xlate.unmapping := [] }) h rfl Status.success []
  refine ⟨o, ?_⟩
  generalize (s.taken slice tag op).unmapped slice tag f g = u at *
  have hsplit : u.xlate.unmapping.partition (fun x => u.granuleBusy x.2.2.1 x.2.2.2) = ([], [(slice, tag, f, g)]) := by simp [hone, hidle]
  simp only [State.finishUnmaps, hsplit, List.foldl_cons, List.foldl_nil]
  exact ho

end Unmapping

end Sys2Proof.Machine

open Sys2Proof Sys2Proof.Machine

/-- Settles O31: an access goes by the entry of its granule, and an unmapping by the accesses that stand. -/
theorem eyeletWindow : Obligations.EyeletWindow := by
  refine ⟨?_, ?_, ?_, ?_, ?_, ?_, ?_, ?_, ?_⟩
  · intro f r off len s e he hadmits hread
    simp [exec, execEyeletLoad, State.eyeletAccess, he, hadmits, hread]
  · intro f r off len s e he hrefused
    have hturned : ¬(e.admits r && e.read) = true := by rcases hrefused with h | h <;> simp [h]
    simp only [exec, execEyeletLoad, State.eyeletAccess, he, if_true, if_neg hturned]
  · intro f r off b s e he hadmits hwrite
    simp [exec, execEyeletStore, State.eyeletAccess, he, hadmits, hwrite]
  · intro id s x hfind hpassed hunmap
    have hexec : ∃ ev : Event, ev.slice = x.slice ∧ ev.code = EventCode.eyeletFail ∧ ev.object = x.granule
        ∧ exec (.eyeletLoadLimit id) s = .next ((s.loadEnded id x).raise ev) := by
      refine ⟨{ slice := x.slice, code := EventCode.eyeletFail, status := BitVec.ofNat 8 s.freeNow, object := x.granule, info := x.fpa },
        rfl, rfl, rfl, ?_⟩
      simp only [exec, execEyeletLoadLimit, hfind, hpassed, Bool.not_true, Bool.false_eq_true, if_false]
      exact congrArg Host.Outcome.next (finishUnmaps_of_none hunmap)
    obtain ⟨ev, hslice, hcode, hobject, hexec⟩ := hexec
    refine ⟨_, { ev with gen := ((s.loadEnded id x).slice ev.slice).gen }, hexec, rfl, rfl, rfl, hslice, hcode, hobject, ?_⟩
    exact ((loadEnded_moves s id x).mono.then (raise_moves ..) : s.Moves _ [.out, .free, .xlate, .queue, .regs]).frame
  · intro slice tag p s h hmap
    refine ⟨_, s.mapped slice p, command_next h (u := { s.taken slice tag MbxOp.eyeletMap with
      xlate.eyelet := (s.taken slice tag MbxOp.eyeletMap).xlate.eyelet ++ [s.mapped slice p] })
      (st := Status.success) (info := []) ?_, ?_, rfl, rfl, rfl, rfl, rfl, rfl, answer_hasAnswer .., answered_touches h (by decide)
      ((setXlate_moves _ _).mono : State.Moves _ _ [.xlate, .mailboxes]).frame⟩
    · simp only [taken_mapRefused h, hmap, State.mapped, taken_coord h]
    · exact congrArg (fun x : XlateState => x.eyelet ++ [s.mapped slice p]) (taken_xlate h)
  · intro slice tag p s c h hmap
    refine ⟨_, command_next h (u := s.taken slice tag MbxOp.eyeletMap) (st := c) (info := []) ?_, answer_hasAnswer ..,
      answered_touches h (by decide) (touches_refl _)⟩
    simp only [taken_mapRefused h, hmap]
  · intro slice tag f g s e h he hslice hbusy hunmap
    have hwaits := finishUnmaps_busy (u := (s.taken slice tag MbxOp.eyeletUnmap).unmapped slice tag f g) (unmapping_unmapped h hunmap)
      ((granuleBusy_unmapped h ..).trans hbusy)
    refine ⟨_, (exec_eyeletUnmap h he hslice).trans (congrArg _ hwaits), eyeletEntry_unmapped .., unmapping_unmapped h hunmap, ?_⟩
    exact touches_trans (touches_mono (by decide) (taken_touches h)) ((setXlate_moves _ _).mono : State.Moves _ _ [.xlate, .mailboxes]).frame
  · intro slice tag f g s e h he hslice hbusy hunmap
    obtain ⟨o, hdone⟩ := finishUnmaps_idle h (unmapping_unmapped h hunmap) ((granuleBusy_unmapped h ..).trans hbusy)
    refine ⟨_, (exec_eyeletUnmap h he hslice).trans (congrArg _ hdone), eyeletEntry_unmapped slice tag f g, rfl, answer_hasAnswer .., ?_⟩
    exact touches_trans (touches_mono (by decide) (taken_touches h)) (touches_trans
      ((setXlate_moves _ _).mono.then (setXlate_moves _ _) : State.Moves _ _ [.xlate, .mailboxes]).frame
      (touches_mono (by decide) (answer_touches slice tag o Status.success 0 [])))
  · intro tag f g s h hg
    refine ⟨_, command_next h (u := s.taken 0 tag MbxOp.eyeletRead) (st := Status.success) (info := eyeletFields (s.eyeletEntry f g)) ?_,
      answer_hasAnswer .., answered_touches h (by decide) (touches_refl _)⟩
    rw [if_neg (by simp), if_neg (by omega), ← taken_eyeletEntry h]
    rfl
end

section
/-! PROOFS. Copies and scans. -/

set_option Elab.async false

namespace Sys2Proof.Machine

variable {s : State} {q : Nat} {count : Word32} {x : Queue} {d : Started}

/-! ## The units of a COPY (R313) -/

/-- The units before one end where it begins. -/
theorem copyUnit_starts (d : Desc) (u : Nat) (h : u < copyUnits d) :
    ((List.range u).map fun u => (copyUnit d u).2).sum = (copyUnit d u).1 := by
  induction u with
  | zero => simp [copyUnit]; omega
  | succ u ih =>
    rw [List.range_succ, List.map_append, List.sum_append, ih (by omega)]
    simp only [List.map_cons, List.map_nil, List.sum_cons, List.sum_nil, copyUnit]
    simp only [copyUnits] at h
    omega

theorem copyUnits_sum (d : Desc) (h : 0 < Desc.copyLength d) :
    ((List.range (copyUnits d)).map fun u => (copyUnit d u).2).sum = Desc.copyLength d := by
  have hpos : 0 < copyUnits d := by unfold copyUnits; omega
  obtain ⟨n, hn⟩ : ∃ n, copyUnits d = n + 1 := ⟨copyUnits d - 1, by omega⟩
  rw [hn, List.range_succ, List.map_append, List.sum_append, copyUnit_starts d n (by omega)]
  simp only [List.map_cons, List.map_nil, List.sum_cons, List.sum_nil, copyUnit]
  simp only [copyUnits] at hn
  omega

theorem copyUnit_bounds (d : Desc) {u : Nat} (hpos : 0 < Desc.copyLength d) (h : u < copyUnits d) :
    0 < (copyUnit d u).2 ∧ (copyUnit d u).2 ≤ 4096
      ∧ (u + 1 < copyUnits d → (copyUnit d (u + 1)).1 = (copyUnit d u).1 + (copyUnit d u).2) := by
  simp only [copyUnits, copyUnit] at *
  omega

/-! ## Feeding a check value (R434) -/

theorem crcFeed_append {w : Nat} (poly r : BitVec w) (a b : List Byte) : crcFeed poly r (a ++ b) = crcFeed poly (crcFeed poly r a) b := by
  induction a generalizing r with
  | nil => rfl
  | cons y a ih => exact ih _

theorem algFeed_append (alg : Nat) (r : Word64) (a b : List Byte) : algFeed alg r (a ++ b) = algFeed alg (algFeed alg r a) b := by
  unfold algFeed
  by_cases h : alg = 2
  · simp only [if_pos h, crcFeed_append]
  · simp only [if_neg h, crcFeed_append]
    rw [BitVec.setWidth_setWidth_of_le _ (by decide), BitVec.setWidth_eq]

theorem mem_setCheckCtx (c : CheckCtx) : c ∈ (s.setCheckCtx c).checks :=
  List.mem_append_right _ (List.mem_singleton_self c)

end Sys2Proof.Machine

open Sys2Proof Sys2Proof.Machine

/-- Settles O32: what a COPY's and a SCAN's checks come to, and what the units of a COPY cover. -/
theorem copiesAndScans : Obligations.CopiesAndScans := by
  refine ⟨⟨?_, ?_, ?_, ?_⟩, ?_, ?_, ?_, ?_, ?_, ?_, ?_⟩
  · intro q count s x d hready hbad
    simp only [exec, execCopy, hready, if_pos hbad]
  · intro q count s x d hready hlen hapart hsrc hdst
    have hok : ¬(Desc.copyLength d.entry = 0 ∨ (Desc.srcOffset d.entry < Desc.dstOffset d.entry + Desc.copyLength d.entry
        ∧ Desc.dstOffset d.entry < Desc.srcOffset d.entry + Desc.copyLength d.entry)) := by omega
    simp only [exec, execCopy, hready, if_neg hok, hsrc, hdst]
    rfl
  · intro q count k r s t a x d hfind hop hrun hended hissued hunits hdata hwriting hwaiting haccess
    simp only [exec, execCopyUnitDone, hfind, hop, hrun, hended, Nat.not_le.2 hissued, hunits, hdata, hwriting, hwaiting, haccess, ne_eq, not_true,
      Bool.not_true, Option.isSome_none, Bool.false_eq_true, or_self, if_false]
  · intro d hpos
    exact ⟨copyUnits_sum d hpos, fun u hu => copyUnit_bounds d hpos hu⟩
  · intro q count s x d hready hok hinit hwrite hrange hidle
    simp only [exec, execScan, hready, hok, hinit, hwrite, hrange, hidle, Bool.not_true, Bool.false_eq_true, false_and, if_false, if_true]
    rfl
  · intro q count s x d hready hbad
    rcases hbad with hbad | ⟨hinit, hvalid, hidle⟩
    · simp only [exec, execScan, hready, hbad, if_true]
    · simp only [exec, execScan, hready, hinit, hvalid, hidle, Bool.not_false, and_self, Bool.false_eq_true, if_false, if_true]
      split <;> rfl
  · intro q count s x d hready hok hinit hvalid howner hidle
    simp only [exec, execScan, hready, hok, hinit, hvalid, hidle, Bool.not_false, Bool.not_true, Bool.false_eq_true, and_false, if_false]
    exact if_pos ⟨trivial, howner⟩
  · intro q count s x d hready hok hbusy
    simp only [exec, execScan, hready, hok, hbusy, Bool.false_eq_true, if_false, if_true]
  · exact algFeed_append
  · rintro f k v s c hbound hmulti rfl howner hidle
    have hexec : exec (.slcCheckValWrite f k v) s = .next (s.setCheckCtx (s.loaded (s.checkCtx (s.fld .slcCheckSelCluster k) 0) k
        (s.fld .slcCheckSelAlgorithm k) v)) := by
      refine (if_pos hbound).trans (congrArg _ ?_)
      unfold State.loadCheck
      dsimp only
      rw [if_neg (by simp [hmulti, howner]), if_neg (by simp [hidle])]
    exact ⟨_, _, hexec, mem_setCheckCtx _, rfl, rfl, rfl, rfl, rfl, fun h2 => if_pos h2, (setCheckCtx_moves ..).frame⟩
  · rintro f k v s c hbound hmulti rfl howner hbusy
    have hexec : exec (.slcCheckValWrite f k v) s = .next (s.setCheckCtx { s.checkCtx (s.fld .slcCheckSelCluster k) 0 with
        load := some (k.val, s.fld .slcCheckSelAlgorithm k, v) }) := by
      refine (if_pos hbound).trans (congrArg _ ?_)
      unfold State.loadCheck
      dsimp only
      rw [if_neg (by simp [hmulti, howner]), if_pos hbusy]
    exact ⟨_, _, hexec, mem_setCheckCtx _, rfl, (setCheckCtx_moves ..).frame⟩
end

section
/-! PROOFS. Raw frames. -/

set_option Elab.async false

namespace Sys2Proof.Machine

variable {s t : State} {q : Nat} {count : Word32} {x : Queue} {d : Started} {b : List Byte}

/-- A frame may be sent: it has one tag at most, it is none that raw queues may not send, and its port's link is up. -/
theorem rawSourced_paced (hfind : s.findStarted q count = some (x, d)) (htags : twoTags b = false) (hok : s.rawForbidden b = false)
    (hup : s.linkUp (rawPort d.entry) = true) : s.rawSourced q count b = s.paceRaw
      { q, count, port := rawPort d.entry, cls := x.tc, slice := x.slice, image := s.rawImage (rawPort d.entry) x.slice x.tc b } := by
  simp only [State.rawSourced, hfind, htags, hok, hup, Bool.not_true, Bool.false_eq_true, if_false]

/-- The wheel entry that a raw queue's first frame makes. -/
def State.rawEntry (s : State) (f : RawFrame) : WheelEntry :=
  { owner := .raw f.q, wheel := s.wheelOf f.port, nextAt := roundSlot s.time.now, credit := s.burst f.port, lastVisit := s.time.now }

theorem paceRaw_first {f : RawFrame} (hcls : f.cls ≠ 7) (hnone : s.findWheel (.raw f.q) = none) :
    s.paceRaw f = { s with trans.raw := s.trans.raw ++ [f], trans.wheel := s.trans.wheel ++ [s.rawEntry f] } := by
  have hnone' : ({ s with trans.raw := s.trans.raw ++ [f] } : State).findWheel (.raw f.q) = none := hnone
  unfold State.paceRaw
  rw [if_neg hcls]
  dsimp only
  rw [hnone']
  rfl

end Sys2Proof.Machine

open Sys2Proof Sys2Proof.Machine

/-- Settles O33: a raw frame is followed through its checks to its queue's wheel entry. -/
theorem rawFrames : Obligations.RawFrames := by
  refine ⟨?_, ?_, ?_, ?_, ?_, ?_, ?_, ?_⟩
  · intro q count s x d hready hbad
    simp only [exec, execRawSend, hready, hbad, if_true]
  · intro q count s x d hready hok hinline hstamp
    simp only [exec, execRawSend, hready, hok, hstamp, Bool.false_eq_true, if_false, if_pos hinline]
    rfl
  · intro q count s t x d r hready hok hinline hstamp hrange haccess
    simp only [exec, execRawSend, hready, hok, hinline, hstamp, hrange, haccess, ne_eq, not_true, Bool.false_eq_true, if_false]
    rfl
  · intro q count b s x d hfind htags hok hup
    exact ⟨_, rfl, rfl, rfl, rfl, rfl, rfl, rawSourced_paced hfind htags hok hup⟩
  · intro f s hcls
    exact if_pos hcls
  · intro f s hcls hnone
    rw [paceRaw_first hcls hnone]
    exact ⟨s.rawEntry f, rfl, rfl, rfl, rfl, rfl, (setTrans_moves s _).frame⟩
  · intro q count b s x d hfind
    refine ⟨fun htags => ?_, fun htags hbad => ?_, fun htags hok hdown => ?_⟩
    · simp only [State.rawSourced, hfind, htags, if_true]
    · simp only [State.rawSourced, hfind, htags, hbad, Bool.false_eq_true, if_false, if_true]
    · simp only [State.rawSourced, hfind, htags, hok, hdown, Bool.not_false, Bool.false_eq_true, if_false, if_true]
  · intro q count s x d hready hz hz' halign hlen hrange
    have hfits : ¬((!zeroBytes d.entry 16 23) = true ∨ (!zeroBytes d.entry 36 63) = true ∨ rawBuf d.entry % 64 ≠ 0
        ∨ rawBufLen d.entry < 80) := by
      simp only [hz, hz', halign, Bool.not_true, Bool.false_eq_true, ne_eq, not_true, false_or]
      omega
    simp only [exec, execRawRecv, hready, if_neg hfits, hrange]
end

section
/-! PROOFS. Memory reads what was written. -/

set_option Elab.async false

namespace Sys2Proof.Machine

variable {s : State}

/-! ## The cells -/

theorem memory_get_write (bs : List Byte) (m : List MemCell) (a i : Nat) (hm : Memory.wf m = true) :
    Memory.get (Memory.write m a bs) i = if a ≤ i then bs.getD (i - a) (Memory.get m i) else Memory.get m i := by
  induction bs generalizing m a with
  | nil => simp [Memory.write]
  | cons b bs ih =>
    rw [Memory.write, ih _ _ (memory_put_wf m a b hm)]
    rcases Nat.lt_trichotomy i a with h | rfl | h
    · rw [if_neg (by omega), if_neg (by omega), memory_get_put_other m a i b h.ne]
    · rw [if_neg (by omega), if_pos le_rfl, memory_get_put_self m none i b hm, Nat.sub_self]
      rfl
    · rw [if_pos (by omega), if_pos (by omega), memory_get_put_other m a i b h.ne', show i - a = i - (a + 1) + 1 by omega,
        List.getD_cons_succ]

/-- Canonical cells that read alike are the same. -/
theorem memory_ext_from (m n : List MemCell) (o : Option Nat) (hm : Memory.wfFrom o m = true) (hn : Memory.wfFrom o n = true)
    (h : ∀ i, Memory.get m i = Memory.get n i) : m = n := by
  induction m generalizing n o with
  | nil =>
    cases n with
    | nil => rfl
    | cons c n =>
      obtain ⟨x, y⟩ := c
      simp only [Memory.wfFrom, Bool.and_eq_true, decide_eq_true_eq] at hn
      have hx := h x
      simp only [Memory.get, if_true] at hx
      exact absurd hx.symm hn.1.2
  | cons c m ih =>
    obtain ⟨x, y⟩ := c
    simp only [Memory.wfFrom, Bool.and_eq_true, decide_eq_true_eq] at hm
    obtain ⟨⟨hlo, hy⟩, hrest⟩ := hm
    cases n with
    | nil =>
      have hx := h x
      simp only [Memory.get, if_true] at hx
      exact absurd hx hy
    | cons d n =>
      obtain ⟨x', y'⟩ := d
      simp only [Memory.wfFrom, Bool.and_eq_true, decide_eq_true_eq] at hn
      obtain ⟨⟨hlo', hy'⟩, hrest'⟩ := hn
      rcases Nat.lt_trichotomy x x' with hlt | rfl | hlt
      · have hx := h x
        simp only [Memory.get, if_true, if_neg hlt.ne', memory_get_below n x' x hlt.le hrest'] at hx
        exact absurd hx hy
      · have hx := h x
        simp only [Memory.get, if_true] at hx
        rw [hx, ih n (some x) hrest hrest' fun i => ?_]
        rcases Nat.lt_or_ge x i with hi | hi
        · have hi' := h i
          simpa only [Memory.get, if_neg hi.ne] using hi'
        · rw [memory_get_below m x i hi hrest, memory_get_below n x i hi hrest']
      · have hx := h x'
        simp only [Memory.get, if_true, if_neg hlt.ne', memory_get_below m x x' hlt.le hrest] at hx
        exact absurd hx.symm hy'

theorem memory_read_write (bs : List Byte) (m : List MemCell) (a : Nat) (hm : Memory.wf m = true) :
    Memory.read (Memory.write m a bs) a bs.length = bs := by
  have hread : ∀ (n a : Nat) (m : List MemCell) (k : Nat), k < n → (Memory.read m a n)[k]? = some (Memory.get m (a + k)) := by
    intro n
    induction n with
    | zero => intro a m k hk; omega
    | succ n ih =>
      intro a m k hk
      cases k with
      | zero => rfl
      | succ k => simpa [Memory.read, Nat.add_assoc, Nat.add_comm 1 k] using ih (a + 1) m k (by omega)
  have hlen : ∀ (n a : Nat) (m : List MemCell), (Memory.read m a n).length = n := by
    intro n
    induction n with
    | zero => intro a m; rfl
    | succ n ih => intro a m; simp [Memory.read, ih]
  refine List.ext_getElem? fun k => ?_
  rcases Nat.lt_or_ge k bs.length with hk | hk
  · rw [hread _ _ _ _ hk, memory_get_write bs m a _ hm, if_pos (Nat.le_add_right a k), Nat.add_sub_cancel_left,
      List.getElem?_eq_getElem hk, List.getD_eq_getElem _ _ hk]
  · rw [List.getElem?_eq_none (by rw [hlen]; exact hk), List.getElem?_eq_none hk]

/-! ## Near memory where no codeword is faulty (R297) -/

/-- A request that finds near memory awake and its codewords sound. -/
def State.nearAsked (s : State) (at_ n : Nat) : State := s.touchNear.shankUse 2 at_ n

theorem badIn_nil (at_ n : Nat) : badIn [] at_ n = [] := rfl

theorem writeAround_nil (bs : List Byte) (m : List MemCell) (a : Nat) : writeAround m [] a bs = Memory.write m a bs := by
  induction bs generalizing m a with
  | nil => rfl
  | cons b bs ih => exact ih _ _

theorem writeNear_sound (h : s.mem.bad = []) (at_ : Nat) (bs : List Byte) : s.writeNear at_ bs =
    ({ s.nearAsked at_ bs.length with mem.bad := [], mem.cells := Memory.write s.mem.cells at_ bs }, true) := by
  have hbad : (s.nearAsked at_ bs.length).mem.bad = [] := h
  unfold State.writeNear
  rw [← State.nearAsked]
  simp only [hbad, badIn_nil, List.filter_nil, State.repairAll, writeAround_nil]
  rfl

theorem readNear_sound (h : s.mem.bad = []) (at_ n : Nat) : s.readNear at_ n = (s.nearAsked at_ n, some (Memory.read s.mem.cells at_ n)) := by
  unfold State.readNear
  rw [h, badIn_nil, ← State.nearAsked]
  rfl

end Sys2Proof.Machine

open Sys2Proof Sys2Proof.Machine

/-- Settles O34: a write is followed byte by byte, and canonical cells compared from the lowest offset on. -/
theorem memoryReadsWhatWasWritten : Obligations.MemoryReadsWhatWasWritten := by
  refine ⟨fun m at_ bs i hm => memory_get_write bs m at_ i hm, fun m n hm hn h => memory_ext_from m n none hm hn h, ?_⟩
  intro s at_ bs hok hbad
  rw [writeNear_sound hbad]
  refine ⟨rfl, memory_write_wf bs _ _ hok, ?_, fun i hi => ?_, ?_⟩
  · rw [readNear_sound rfl]
    exact congrArg some (memory_read_write bs _ _ hok)
  · rw [readNear_sound rfl]
    refine congrArg (fun b => some [b]) ((memory_get_write bs s.mem.cells at_ i hok).trans ?_)
    split
    · rw [List.getD_eq_default _ _ (by omega)]
    · rfl
  · intro p hp
    cases p <;> simp [State.agree, State.nearAsked, State.touchNear, State.shankUse] at hp ⊢
end

section
/-! PROOFS. The memory's code, its scrubbing, its error log and its history. -/

set_option Elab.async false

namespace Sys2Proof.Machine

/-! ## Multiplication in the field -/

theorem gfXtime_xor (a b : Byte) : gfXtime (a ^^^ b) = gfXtime a ^^^ gfXtime b := by
  have hshift : (a ^^^ b) <<< 1 = a <<< 1 ^^^ b <<< 1 := BitVec.shiftLeft_xor_distrib a b 1
  simp only [gfXtime, BitVec.msb_xor, hshift]
  cases a.msb <;> cases b.msb
  · simp
  · simp [BitVec.xor_assoc]
  · simp only [Bool.true_bne, Bool.not_false, if_true, Bool.false_eq_true, if_false]
    ac_rfl
  · have hself : (0x1D : Byte) ^^^ 0x1D = 0 := by decide
    calc a <<< 1 ^^^ b <<< 1 = a <<< 1 ^^^ b <<< 1 ^^^ (0x1D ^^^ 0x1D) := by rw [hself]; exact BitVec.xor_zero.symm
      _ = (a <<< 1 ^^^ 0x1D) ^^^ (b <<< 1 ^^^ 0x1D) := by ac_rfl

theorem gfXtime_zero : gfXtime 0 = 0 := by decide

theorem gfMulAux_xor (n : Nat) (a b c : Byte) : gfMulAux n (a ^^^ b) c = gfMulAux n a c ^^^ gfMulAux n b c := by
  induction n generalizing a b c with
  | zero => exact BitVec.xor_zero.symm
  | succ n ih =>
    simp only [gfMulAux, gfXtime_xor, ih]
    cases c.getLsbD 0
    · simp
    · simp only [if_true]
      ac_rfl

theorem gfMulAux_zero (n : Nat) (c : Byte) : gfMulAux n 0 c = 0 := by
  induction n generalizing c with
  | zero => rfl
  | succ n ih => simp only [gfMulAux, gfXtime_zero, ih, ite_self]; decide

/-- Bit k of a symbol, in its place. -/
def bitPart (a : Byte) (k : Nat) : Byte := if a.getLsbD k then 1#8 <<< k else 0

theorem bitPart_sum : ∀ a : Byte, a = bitPart a 0 ^^^ bitPart a 1 ^^^ bitPart a 2 ^^^ bitPart a 3 ^^^ bitPart a 4
    ^^^ bitPart a 5 ^^^ bitPart a 6 ^^^ bitPart a 7 := by decide +kernel

/-- Two additive maps that agree on single bits agree. -/
theorem additive_ext {f g : Byte → Byte} (hf : ∀ a b, f (a ^^^ b) = f a ^^^ f b) (hg : ∀ a b, g (a ^^^ b) = g a ^^^ g b)
    (h0 : f 0 = g 0) (h : ∀ k < 8, f (1#8 <<< k) = g (1#8 <<< k)) (a : Byte) : f a = g a := by
  have hpart : ∀ k < 8, f (bitPart a k) = g (bitPart a k) := by
    intro k hk
    unfold bitPart
    split
    · exact h k hk
    · exact h0
  rw [bitPart_sum a]
  simp only [hf, hg, hpart 0 (by decide), hpart 1 (by decide), hpart 2 (by decide), hpart 3 (by decide), hpart 4 (by decide),
    hpart 5 (by decide), hpart 6 (by decide), hpart 7 (by decide)]

theorem gfMul_xtime_bit : ∀ b : Byte, ∀ k < 8, gfMul (1#8 <<< k) (gfXtime b) = gfXtime (gfMul (1#8 <<< k) b) := by decide +kernel

theorem gfMul_xtime (a b : Byte) : gfMul a (gfXtime b) = gfXtime (gfMul a b) := by
  refine additive_ext (f := fun a => gfMul a (gfXtime b)) (g := fun a => gfXtime (gfMul a b)) (fun a c => gfMulAux_xor 8 a c _)
    (fun a c => ?_) ?_ (gfMul_xtime_bit b) a
  · exact (congrArg gfXtime (gfMulAux_xor 8 a c b)).trans (gfXtime_xor _ _)
  · simp only [gfMul, gfMulAux_zero, gfXtime_zero]

theorem gfMul_one : ∀ a : Byte, gfMul a 1 = a := by decide +kernel

/-- Multiplying by α^n is n times multiplying by α. -/
theorem gfMul_alpha (a : Byte) (n : Nat) : gfMul a (gfAlpha n) = gfXtime^[n] a := by
  induction n with
  | zero => exact gfMul_one a
  | succ n ih => rw [gfAlpha, gfMul_xtime, ih, Function.iterate_succ_apply']

/-- Whether one of the next `n` multiplications by α takes `b` to `a`. -/
def comesBack (a : Byte) : Nat → Byte → Bool
  | 0, _ => false
  | n + 1, b => decide (gfXtime b = a) || comesBack a n (gfXtime b)

theorem not_comesBack_67 : ∀ a : Byte, a ≠ 0 → comesBack a 67 a = false := by decide +kernel

theorem comesBack_iterate (a b : Byte) (d n : Nat) (h : gfXtime^[d + 1] b = a) (hd : d < n) : comesBack a n b = true := by
  induction n generalizing b d with
  | zero => exact absurd hd (Nat.not_lt_zero d)
  | succ n ih =>
    simp only [comesBack, Bool.or_eq_true, decide_eq_true_eq]
    cases d with
    | zero => exact .inl h
    | succ d => exact .inr (ih (gfXtime b) d h (by omega))

theorem gfXtime_injective : Function.Injective gfXtime := by
  have hback : ∀ b : Byte, gfXtime^[254] (gfXtime b) = b := by decide +kernel
  intro a b h
  rw [← hback a, h, hback b]

/-- A symbol other than 0 times two powers of α below 68 is the same only for one power. -/
theorem gfXtime_iterate_inj {a : Byte} (ha : a ≠ 0) {m n : Nat} (hm : m < 68) (hn : n < 68) (h : gfXtime^[m] a = gfXtime^[n] a) :
    m = n := by
  have hlt : ∀ m n : Nat, m < n → n < 68 → gfXtime^[m] a ≠ gfXtime^[n] a := by
    intro m n hmn hn h
    obtain ⟨d, rfl⟩ : ∃ d, n = m + (d + 1) := ⟨n - m - 1, by omega⟩
    rw [Function.iterate_add_apply] at h
    have hround := (gfXtime_injective.iterate m) h
    have := comesBack_iterate a a d 67 hround.symm (by omega)
    rw [not_comesBack_67 a ha] at this
    exact absurd this (by decide)
  rcases Nat.lt_trichotomy m n with hmn | hmn | hmn
  · exact absurd h (hlt m n hmn hn)
  · exact hmn
  · exact absurd h.symm (hlt n m hmn hm)

/-! ## One symbol in error -/

theorem syndrome_single (i : Nat) (a : Byte) {k : Nat} (hi : i < 68) (hk : k < 4) :
    syndrome [(i, a)] k = gfXtime^[k * (67 - i)] a := by
  have hsmall : k * (67 - i) < 255 := by
    have : k * (67 - i) ≤ 3 * 67 := Nat.mul_le_mul (by omega) (by omega)
    omega
  simp only [syndrome, List.foldl_cons, List.foldl_nil, pinPower, Nat.mod_eq_of_lt hsmall, gfMul_alpha]
  exact BitVec.zero_xor

theorem solveOne_finds {i : Nat} {a : Byte} (ha : a ≠ 0) (hi : i < 68) (n : Nat) (hn : n ≤ 68) (hin : i < n) :
    solveOne (syndrome [(i, a)] 0) (syndrome [(i, a)] 1) (syndrome [(i, a)] 2) (syndrome [(i, a)] 3) n = some (i, a) := by
  have h0 : syndrome [(i, a)] 0 = a := by rw [syndrome_single i a hi (by decide), Nat.zero_mul]; rfl
  have hnext : ∀ k, k + 1 < 4 → syndrome [(i, a)] (k + 1) = gfMul (syndrome [(i, a)] k) (gfAlpha (pinPower i)) := by
    intro k hk
    rw [syndrome_single i a hi hk, syndrome_single i a hi (by omega), gfMul_alpha, ← Function.iterate_add_apply, pinPower]
    congr 2
    rw [Nat.succ_mul, Nat.add_comm]
  induction n with
  | zero => exact absurd hin (Nat.not_lt_zero i)
  | succ n ih =>
    rcases Nat.lt_or_eq_of_le (Nat.le_of_lt_succ hin) with hlt | rfl
    · have hwrong : ¬ syndrome [(i, a)] 1 = gfMul (syndrome [(i, a)] 0) (gfAlpha (pinPower n)) := by
        rw [hnext 0 (by decide), h0, gfMul_alpha, gfMul_alpha]
        intro h
        have := gfXtime_iterate_inj ha (show pinPower i < 68 by unfold pinPower; omega)
          (show pinPower n < 68 by unfold pinPower; omega) h
        unfold pinPower at this
        omega
      rw [solveOne, if_neg fun h => hwrong h.2.1]
      exact ih (by omega) hlt
    · rw [solveOne, if_pos ⟨h0.symm ▸ ha, hnext 0 (by decide), hnext 1 (by decide), hnext 2 (by decide)⟩, h0]

theorem decodeErrs_single {i : Nat} {a : Byte} (hi : i < 68) (ha : a ≠ 0) : decodeErrs [(i, a)] = .corrected [(i, a)] := by
  have h0 : syndrome [(i, a)] 0 = a := by rw [syndrome_single i a hi (by decide), Nat.zero_mul]; rfl
  unfold decodeErrs
  rw [if_neg fun h => ha (h0 ▸ h.1), solveOne_finds ha hi 68 le_rfl hi]

/-! ## Scrub bursts -/

variable {s : State}

/-- The state a burst reads from: an idle memory is awake first. -/
def State.scrubWoken (s : State) : State :=
  if s.power.selfRefresh then { s.touchNear with mem.scrubWake := some s.time.now } else s

/-- A burst over sound memory, as its pass goes on or ends. -/
def State.scrubbed (s : State) (n : Nat) : State :=
  if nearBytes ≤ s.mem.scrubPos + s.scrubBytes n then
    (s.shankUse 3 s.mem.scrubPos (s.scrubBytes n)).newPass (s.mem.passes + 1) (s.mem.passAt + s.scrubPeriod)
  else { s.shankUse 3 s.mem.scrubPos (s.scrubBytes n) with mem.scrubPos := s.mem.scrubPos + s.scrubBytes n }

theorem scrubWoken_of_awake (h : s.power.selfRefresh = false) : s.scrubWoken = s := by
  unfold State.scrubWoken
  rw [if_neg (by rw [h]; decide)]

theorem scrubWoken_touches : s.touches s.scrubWoken [.mem, .power] := by
  unfold State.scrubWoken
  split
  · exact ((touchNear_moves s).mono.then (setMem_moves _ _)).frame
  · exact touches_refl _

theorem scrubWoken_keeps (n : Nat) : s.scrubWoken.mem.scrubPos = s.mem.scrubPos ∧ s.scrubWoken.scrubBytes n = s.scrubBytes n
    ∧ s.scrubWoken.mem.cells = s.mem.cells := by
  unfold State.scrubWoken
  split
  · exact ⟨rfl, rfl, rfl⟩
  · exact ⟨rfl, rfl, rfl⟩

theorem scrubWoken_of_asleep (h : s.power.selfRefresh = true) :
    s.scrubWoken.power.selfRefresh = false ∧ s.scrubWoken.mem.scrubWake = some s.time.now := by
  unfold State.scrubWoken
  rw [if_pos h]
  exact ⟨rfl, rfl⟩

theorem execScrubBurst_waits {n : Nat} (h : s.time.now < s.mem.passAt
    ∨ (s.power.selfRefresh = true ∧ s.mem.scrubWake.any (fun t => decide (s.time.now < t + 16000000000)) = true)) :
    exec (.scrubBurst n) s = .next s := by
  change execScrubBurst n s = _
  unfold execScrubBurst
  rw [if_pos (.inr h)]

theorem execScrubBurst_of_sound (n : Nat) (hon : s.fld .memScrubCtrlEnable 0 ≠ 0) (hat : s.mem.passAt ≤ s.time.now)
    (hwake : s.power.selfRefresh = true → ∀ w, s.mem.scrubWake = some w → w + 16000000000 ≤ s.time.now) (hbad : s.mem.bad = []) :
    exec (.scrubBurst n) s = .next (s.scrubWoken.scrubbed n) := by
  have hgo : ¬ (s.fld .memScrubCtrlEnable 0 = 0 ∨ s.time.now < s.mem.passAt ∨
      (s.power.selfRefresh ∧ s.mem.scrubWake.any fun t => decide (s.time.now < t + 16000000000))) := by
    rintro (h | h | ⟨hself, h⟩)
    · exact hon h
    · omega
    · obtain ⟨w, hw, hlt⟩ := (Option.any_eq_true _ _).mp h
      have := hwake hself w hw
      have := of_decide_eq_true hlt
      omega
  have hwbad : s.scrubWoken.mem.bad = [] := by
    unfold State.scrubWoken
    split
    · exact hbad
    · exact hbad
  have hnone : ∀ (r at_ use pos len : Nat),
      (badIn (s.scrubWoken.shankUse r at_ use).mem.bad pos len).filter (fun w => !w.logged) = [] := by
    intro r at_ use pos len
    change (badIn s.scrubWoken.mem.bad pos len).filter _ = []
    rw [hwbad]
    rfl
  change execScrubBurst n s = _
  unfold execScrubBurst
  rw [if_neg hgo]
  change (let u := s.scrubWoken.shankUse 3 s.scrubWoken.mem.scrubPos (s.scrubWoken.scrubBytes n)
    let u' := (u.repairAll 3 ((badIn u.mem.bad u.mem.scrubPos (s.scrubWoken.scrubBytes n)).filter fun w => !w.logged)).1
    if nearBytes ≤ u'.mem.scrubPos + s.scrubWoken.scrubBytes n then
      Host.Outcome.next (u'.newPass (u'.mem.passes + 1) (u'.mem.passAt + u'.scrubPeriod))
    else .next { u' with mem.scrubPos := u'.mem.scrubPos + s.scrubWoken.scrubBytes n }) = _
  dsimp only
  rw [hnone]
  exact (apply_ite _ _ _ _).symm

/-- A burst is as much as its pass owes, and no more than is left of the pass. -/
theorem scrubBytes_ge {n : Nat} (h : s.mem.scrubPos + s.scrubBytes n < nearBytes) : n * 64 ≤ s.scrubBytes n := by
  obtain ⟨owed, howed⟩ : ∃ owed, s.scrubBytes n = min (max (n * 64) owed) (nearBytes - s.mem.scrubPos) := ⟨_, rfl⟩
  rw [howed] at h ⊢
  generalize nearBytes = near at h ⊢
  omega

theorem scrubPeriod_pos : 0 < s.scrubPeriod := by
  refine Nat.mul_pos ?_ (by decide)
  unfold clamp
  split
  · decide
  · split <;> omega

/-- A pass whose codewords are read, or whose period is over, ends with the burst. -/
theorem scrubBytes_ends {n : Nat} (hpos : s.mem.scrubPos ≤ nearBytes)
    (h : nearBytes ≤ s.mem.scrubPos + n * 64 ∨ s.mem.passAt + s.scrubPeriod ≤ s.time.now) :
    nearBytes ≤ s.mem.scrubPos + s.scrubBytes n := by
  have howed : s.mem.passAt + s.scrubPeriod ≤ s.time.now →
      nearBytes ≤ nearBytes / 64 * (s.time.now - s.mem.passAt) / s.scrubPeriod * 64 := by
    intro hover
    have hper : nearBytes / 64 ≤ nearBytes / 64 * (s.time.now - s.mem.passAt) / s.scrubPeriod :=
      (Nat.le_div_iff_mul_le scrubPeriod_pos).mpr (Nat.mul_le_mul_left _ (by omega))
    calc nearBytes = nearBytes / 64 * 64 := by decide
      _ ≤ _ := Nat.mul_le_mul_right 64 hper
  unfold State.scrubBytes
  dsimp only
  generalize nearBytes / 64 * (s.time.now - s.mem.passAt) / s.scrubPeriod * 64 = owed at howed ⊢
  generalize nearBytes = near at *
  omega

theorem scrubbed_touches (n : Nat) : s.touches (s.scrubbed n) [.mem] := by
  unfold State.scrubbed
  split
  · exact ((shankUse_moves s ..).then (newPass_moves ..)).frame
  · exact ((shankUse_moves s ..).then (setMem_moves _ _)).frame

theorem scrubbed_goes {n : Nat} (h : s.mem.scrubPos + s.scrubBytes n < nearBytes) :
    (s.scrubbed n).mem.scrubPos = s.mem.scrubPos + s.scrubBytes n ∧ (s.scrubbed n).mem.cells = s.mem.cells
      ∧ (s.scrubbed n).mem.scrubWake = s.mem.scrubWake := by
  unfold State.scrubbed
  rw [if_neg (Nat.not_le.mpr h)]
  exact ⟨rfl, rfl, rfl⟩

theorem scrubbed_ends {n : Nat} (h : nearBytes ≤ s.mem.scrubPos + s.scrubBytes n) :
    (s.scrubbed n).mem.scrubPos = 0 ∧ (s.scrubbed n).mem.passes = s.mem.passes + 1 ∧ (s.scrubbed n).mem.cells = s.mem.cells
      ∧ (s.scrubbed n).mem.passAt = s.mem.passAt + s.scrubPeriod := by
  unfold State.scrubbed
  rw [if_pos h]
  exact ⟨rfl, rfl, rfl, rfl⟩

/-! ## The error log -/

theorem markRead_logEntry {e : ErrEntry} (h : s.logEntry = some e) : s.markRead.logEntry = some { e with read := true } := by
  unfold State.logEntry at h
  unfold State.logEntry State.markRead
  change (s.mem.log.zipIdx.map _)[s.fld .memErrlogSelIndex 0]? = _
  rw [List.getElem?_map, List.getElem?_zipIdx, h]
  simp only [Option.map_some, Nat.zero_add, if_true]

theorem logError_logs (off kind src : Nat) (pins : List Nat) :
    ∃ e, (s.logError off kind src pins).mem.log = e :: s.mem.log.take 63 ∧ e.offset = off ∧ e.kind = kind ∧ e.source = src
      ∧ (s.logError off kind src pins).mem.history = s.mem.history ++ (if kind = 2 then [e] else [])
      ∧ ((∀ x ∈ s.mem.log, x.read = true) → (s.logError off kind src pins).regs = s.regs) := by
  have hmem : ∀ n, (if n = 0 then s else s.bumpBy .memErrlogStatLost 0 n).mem = s.mem := by
    intro n
    split <;> rfl
  unfold State.logError
  dsimp only
  simp only [hmem]
  refine ⟨_, rfl, rfl, rfl, rfl, ?_, fun hread => ?_⟩
  · by_cases h : kind = 2
    · simp only [if_pos h]
    · simp only [if_neg h, List.append_nil]
  · have hnone : (s.mem.log.drop 63).countP (fun x => !x.read) = 0 := by
      refine List.countP_eq_zero.mpr fun x hx => ?_
      rw [hread x (List.mem_of_mem_drop hx)]
      decide
    rw [hnone]
    rfl

end Sys2Proof.Machine

open Sys2Proof Sys2Proof.Machine

/-- Settles O35: one symbol in error is found because two powers of α below 68 take no symbol to the same one; a burst over sound
memory reads on or ends its pass. -/
theorem memoryCodeAndErrorLog : Obligations.MemoryCodeAndErrorLog := by
  refine ⟨fun i a hi ha => decodeErrs_single hi ha, ?_, ?_, ?_, ?_, ?_, ?_, ?_, ?_, ?_⟩
  · intro n s hon hat hawake hbad hlt
    have hexec := execScrubBurst_of_sound n hon hat (fun h => absurd h (by rw [hawake]; decide)) hbad
    rw [scrubWoken_of_awake hawake] at hexec
    obtain ⟨hpos, hcells, -⟩ := scrubbed_goes hlt
    exact ⟨scrubBytes_ge hlt, _, hexec, hpos, hcells, scrubbed_touches n⟩
  · intro n s hon hat hawake hbad hpos hend
    have hexec := execScrubBurst_of_sound n hon hat (fun h => absurd h (by rw [hawake]; decide)) hbad
    rw [scrubWoken_of_awake hawake] at hexec
    obtain ⟨hzero, hpasses, hcells, hpassAt⟩ := scrubbed_ends (scrubBytes_ends hpos hend)
    exact ⟨_, hexec, hzero, hpasses, hcells, hpassAt, scrubbed_touches n⟩
  · intro n s hlt
    exact execScrubBurst_waits (.inl hlt)
  · intro n s hon hat hself hwake hbad hlt
    have hexec := execScrubBurst_of_sound n hon hat (fun _ => hwake) hbad
    obtain ⟨hsame, hbytes, hsound⟩ := scrubWoken_keeps (s := s) n
    obtain ⟨hawake, hat'⟩ := scrubWoken_of_asleep hself
    obtain ⟨hpos, hcells, hw⟩ := scrubbed_goes (s := s.scrubWoken) (n := n) (by rw [hsame, hbytes]; exact hlt)
    have hpower : (s.scrubWoken.scrubbed n).power = s.scrubWoken.power := scrubbed_touches n .power (by decide)
    refine ⟨_, hexec, hpower.symm ▸ hawake, hw.trans hat', ?_, hcells.trans hsound, ?_⟩
    · rw [hpos, hsame, hbytes]
    · exact touches_trans scrubWoken_touches (touches_mono (ps := [.mem]) (by decide) (scrubbed_touches n))
  · intro n w s hself hw hlt
    exact execScrubBurst_waits (.inr ⟨hself, by rw [hw, Option.any_some]; exact decide_eq_true hlt⟩)
  · intro f v s hman
    have hmem : (s.storeReg .memScrubCtrl 0 (v.setWidth 64)).mem = s.mem := (storeReg_moves s ..).frame .mem (by decide)
    refine ⟨s.setScrub (v.setWidth 64), if_pos hman, rfl, ?_, ?_, ?_, touches_mono (ps := [.regs, .mem]) (by decide) (setScrub_moves s _).frame⟩
    · exact congrArg (·.passes) hmem
    rotate_left
    · exact congrArg (·.cells) hmem
    intro b hb
    obtain ⟨w, -, rfl⟩ := List.mem_map.mp hb
    rfl
  · intro f s hman
    exact ⟨_, if_pos hman, rfl, fun e he => markRead_logEntry he, ((markRead_moves s).mono.then (emit_moves ..) : s.Moves _ [.mem, .out]).frame⟩
  · intro tag s htake
    obtain ⟨f, hf⟩ := taken_of_takesUp htake
    have hhist : (s.taken 0 tag MbxOp.memHistoryRead).mem.history = s.mem.history := by rw [hf]; rfl
    let act := fun s : State => (s, Status.success, s.mem.history.flatMap historyEntry)
    have hact : act (s.taken 0 tag MbxOp.memHistoryRead)
        = (s.taken 0 tag MbxOp.memHistoryRead, Status.success, s.mem.history.flatMap historyEntry) := by
      rw [← hhist]
    exact ⟨s.command 0 tag MbxOp.memHistoryRead act, rfl, command_hasAnswer htake hact, command_touches htake hact (by decide) (touches_refl _)⟩
  · intro s off kind src pins
    exact logError_logs off kind src pins

end

section
/-! PROOFS. The far tier's ports as their links come and go. -/

set_option Elab.async false

namespace Sys2Proof.Machine

variable {s : State}

/-! ## What the layout bounds and leaves (R308) -/

theorem decodePort_le (devices : List CxlDevice) (limit : Nat) : (decodePort devices limit).2 ≤ limit := by
  have hways : ∀ total n : Nat, min total limit / n * n ≤ limit := fun total n =>
    (Nat.div_mul_le_self _ n).trans (Nat.min_le_right total limit)
  unfold decodePort
  dsimp only
  split
  · exact hways _ _
  · exact Nat.min_le_right _ _

theorem layoutFar_bounds : (vget s.layoutFar.mem.far 0 {}).decodedGiB ≤ 8192
    ∧ (vget s.layoutFar.mem.far 0 {}).decodedGiB + (vget s.layoutFar.mem.far 1 {}).decodedGiB ≤ 12288 := by
  have hfirst : (vget s.layoutFar.mem.far 0 {}).decodedGiB ≤ 8192 := by
    rw [layoutFar_port_zero]
    exact decodePort_le _ _
  have hsecond : (vget s.layoutFar.mem.far 1 {}).decodedGiB ≤ min 8192 (12288 - (vget s.layoutFar.mem.far 0 {}).decodedGiB) := by
    rw [layoutFar_port_one]
    exact decodePort_le _ _
  exact ⟨hfirst, by omega⟩

/-- The layout changes nothing of a port but its place. -/
theorem layoutFar_keeps (p : Fin 2) : (vget s.layoutFar.mem.far p {}).linkUp = (vget s.mem.far p {}).linkUp
    ∧ (vget s.layoutFar.mem.far p {}).inService = (vget s.mem.far p {}).inService
    ∧ (vget s.layoutFar.mem.far p {}).devices = (vget s.mem.far p {}).devices := by
  match p with
  | 0 =>
    have h0 := layoutFar_port_zero (s := s)
    exact ⟨congrArg (·.linkUp) h0, congrArg (·.inService) h0, congrArg (·.devices) h0⟩
  | 1 =>
    have h1 := layoutFar_port_one (s := s)
    exact ⟨congrArg (·.linkUp) h1, congrArg (·.inService) h1, congrArg (·.devices) h1⟩

/-! ## A port that changes -/

/-- One port of the far tier changed. -/
def State.modFar (s : State) (p : Fin 2) (f : FarPort → FarPort) : State := { s with mem.far := vmod s.mem.far p f }

theorem modFar_same (p : Fin 2) (f : FarPort → FarPort) : vget (s.modFar p f).mem.far p {} = f (vget s.mem.far p {}) :=
  vget_vmod_same _ _ _ p.isLt

/-- A port with its link down. -/
def FarPort.down (p : FarPort) : FarPort := { p with linkUp := false, inService := false, lanes := 0 }

/-- A port that comes up for the first time. -/
def FarPort.found (lanes : Nat) (ds : List CxlDevice) (p : FarPort) : FarPort :=
  { p with linkUp := true, inService := true, enumerated := true, lanes, devices := ds }

/-- A port that comes up again. -/
def FarPort.back (lanes : Nat) (ds : List CxlDevice) (p : FarPort) : FarPort :=
  { p with linkUp := true, inService := p.enumerated && sameDevices p.devices ds, lanes }

theorem exec_cxlLinkDown (p : Fin 2) (h : (vget s.mem.far p {}).linkUp = true) :
    exec (.cxlLinkDown p) s = .next ((s.modFar p FarPort.down).farLink p) := by
  change execCxlLinkDown p s = _
  unfold execCxlLinkDown
  rw [h]
  rfl

theorem exec_cxlLinkUp_first (p : Fin 2) (lanes : Nat) (ds : List CxlDevice) (hdown : (vget s.mem.far p {}).linkUp = false)
    (hrel : s.cxlReleased = true) (henum : (vget s.mem.far p {}).enumerated = false) (huse : s.farInUse = false) :
    exec (.cxlLinkUp p lanes ds) s = .next ((s.modFar p (FarPort.found lanes (inPortOrder ds))).layoutFar.farLink p) := by
  change execCxlLinkUp p lanes ds s = _
  unfold execCxlLinkUp
  simp only [hdown, hrel, henum, huse, Bool.false_eq_true, Bool.not_true, Bool.not_false, or_self, and_self, if_true, if_false]
  rfl

theorem exec_cxlLinkUp_again (p : Fin 2) (lanes : Nat) (ds : List CxlDevice) (hdown : (vget s.mem.far p {}).linkUp = false)
    (hrel : s.cxlReleased = true) (henum : (vget s.mem.far p {}).enumerated = true) :
    exec (.cxlLinkUp p lanes ds) s = .next ((s.modFar p (FarPort.back lanes (inPortOrder ds))).farLink p) := by
  change execCxlLinkUp p lanes ds s = _
  unfold execCxlLinkUp
  simp only [hdown, hrel, henum, Bool.false_eq_true, Bool.not_true, or_self, false_and, if_false]
  rfl

theorem modFar_moves (p : Fin 2) (f : FarPort → FarPort) : s.Moves (s.modFar p f) [.mem] := setMem_moves _ _

end Sys2Proof.Machine

open Sys2Proof Sys2Proof.Machine

/-- Settles O36: each link event changes its port and raises FAR_LINK; the first one lays both ports out within the tier's limits. -/
theorem farTier : Obligations.FarTier := by
  refine ⟨?_, ?_, ?_, ?_⟩
  · intro p s hup
    have hport : vget ((s.modFar p FarPort.down).farLink p).mem.far p {} = FarPort.down (vget s.mem.far p {}) := modFar_same p _
    refine ⟨_, _, exec_cxlLinkDown p hup, ?_, ?_, rfl, rfl, rfl, ((modFar_moves p _).mono.then (farLink_moves ..) : s.Moves _ [.mem, .queue]).frame⟩
    · rw [hport]
      rfl
    · rw [hport]
      rfl
  · intro p lanes ds s hdown hrel henum huse
    let u := s.modFar p (FarPort.found lanes (inPortOrder ds))
    have hport : vget u.mem.far p {} = FarPort.found lanes (inPortOrder ds) (vget s.mem.far p {}) := modFar_same p _
    obtain ⟨hup, hin, hdevices⟩ := layoutFar_keeps (s := u) p
    obtain ⟨hfirst, hboth⟩ := layoutFar_bounds (s := u)
    rw [hport] at hup hin hdevices
    refine ⟨_, _, exec_cxlLinkUp_first p lanes ds hdown hrel henum huse, hup, hin, hdevices, ?_, ?_, hfirst, hboth, rfl, rfl, ?_⟩
    · exact congrArg (·.baseGiB) (layoutFar_port_one (s := u))
    · exact congrArg (·.baseGiB) (layoutFar_port_zero (s := u))
    · exact ((modFar_moves p _).mono.then (layoutFar_moves ..) |>.then (farLink_moves ..) : s.Moves _ [.mem, .queue]).frame
  · intro p lanes ds s hdown hrel henum
    have hport : vget ((s.modFar p (FarPort.back lanes (inPortOrder ds))).farLink p).mem.far p {}
        = FarPort.back lanes (inPortOrder ds) (vget s.mem.far p {}) := modFar_same p _
    refine ⟨_, exec_cxlLinkUp_again p lanes ds hdown hrel henum, ?_, ?_, ?_,
      ((modFar_moves p _).mono.then (farLink_moves ..) : s.Moves _ [.mem, .queue]).frame⟩
    · rw [hport]
      rfl
    · rw [hport, FarPort.back, henum]
      rfl
    · rw [hport]
      rfl
  · intro id s x hfind hpassed
    simp only [exec, execFarAccessTimeout, hfind, hpassed, if_true]

end

section
/-! PROOFS. Slices bound to functions, and what ends a binding. -/

set_option Elab.async false

namespace Sys2Proof.Machine

variable {s : State}

/-! ## Binding (R368) -/

/-- What a SLICE_BIND does once it is taken up. -/
def bindAction (slice : Fin 512) (target port fn : Nat) (pasid : Option (BitVec 20)) (s : State) : State × Status × List Nat :=
  if slice ≠ 0 then (s, Status.localAccess, [])
  else if target = 0 ∨ 511 < target ∨ 1 < port ∨ 255 < fn ∨ !s.funcEnabled ⟨Fin.ofNat 2 port, Fin.ofNat 256 fn⟩
      ∨ s.bindBreaks target ⟨Fin.ofNat 2 port, Fin.ofNat 256 fn⟩ pasid then (s, Status.descMalformed, [])
  else if (s.slice target).state ≠ .unbound then (s, Status.busy, [])
  else (s.modSlice target fun x => { x with state := .active, port, fn, pasid }, Status.success, [])

theorem exec_sliceBind (slice : Fin 512) (tag : Word32) (target port fn : Nat) (pasid : Option (BitVec 20)) :
    exec (.sliceBind slice tag target port fn pasid) s = .next (s.command slice tag MbxOp.sliceBind (bindAction slice target port fn pasid)) :=
  rfl

theorem bindAction_binds {k port fn : Nat} {pasid : Option (BitVec 20)} (hk : k ≠ 0) (hk' : k < 512) (hport : port ≤ 1) (hfn : fn ≤ 255)
    (hen : s.funcEnabled ⟨Fin.ofNat 2 port, Fin.ofNat 256 fn⟩ = true)
    (hbreaks : s.bindBreaks k ⟨Fin.ofNat 2 port, Fin.ofNat 256 fn⟩ pasid = false) (hstate : (s.slice k).state = .unbound) :
    bindAction 0 k port fn pasid s = (s.modSlice k fun x => { x with state := .active, port, fn, pasid }, Status.success, []) := by
  unfold bindAction
  rw [if_neg (by decide), if_neg, if_neg (by rw [hstate]; exact fun h => h rfl)]
  rw [hen, hbreaks]
  simp only [Bool.not_true, Bool.false_eq_true, or_false]
  omega

theorem bindAction_malformed {k port fn : Nat} {pasid : Option (BitVec 20)}
    (h : k = 0 ∨ 511 < k ∨ 1 < port ∨ 255 < fn ∨ s.funcEnabled ⟨Fin.ofNat 2 port, Fin.ofNat 256 fn⟩ = false
      ∨ s.bindBreaks k ⟨Fin.ofNat 2 port, Fin.ofNat 256 fn⟩ pasid = true) :
    bindAction 0 k port fn pasid s = (s, Status.descMalformed, []) := by
  unfold bindAction
  rw [if_neg (by decide), if_pos]
  simpa only [Bool.not_eq_true'] using h

/-- A command leaves what bindings are judged by. -/
theorem taken_binding {slice : Nat} {tag : Word32} {op : Nat} (h : s.takesUp slice tag op) (k : Nat) (f : Func) (pasid : Option (BitVec 20)) :
    (s.taken slice tag op).funcEnabled f = s.funcEnabled f ∧ (s.taken slice tag op).bindBreaks k f pasid = s.bindBreaks k f pasid := by
  obtain ⟨g, hg⟩ := taken_of_takesUp h
  rw [hg]
  exact ⟨rfl, rfl⟩

/-! ## Unbinding and resets -/

theorem active_of_takesUp {slice : Nat} {tag : Word32} {op : Nat} (h : s.takesUp slice tag op) (hop : op ≠ MbxOp.dirtySync) :
    (s.slice slice).state = .active := by
  unfold State.takesUp State.take at h
  by_contra hne
  dsimp only at h
  rw [apply_ite Prod.snd] at h
  split at h
  · exact Bool.false_ne_true h
  · rw [if_pos ⟨hne, by simp [hop]⟩] at h
    exact Bool.false_ne_true h

theorem exec_sliceUnbind_other {slice : Fin 512} {tag : Word32} (h : s.takesUp slice tag MbxOp.sliceUnbind) (hslice : slice ≠ 0) (k : Nat) :
    exec (.sliceUnbind slice tag k) s =
      .next ((s.taken slice tag MbxOp.sliceUnbind).answer slice tag MbxOp.sliceUnbind Status.localAccess 0 []) := by
  have htake : s.take slice.val tag MbxOp.sliceUnbind = (s.taken slice tag MbxOp.sliceUnbind, true) := take_of_takesUp h
  change execSliceUnbind slice tag k s = _
  unfold execSliceUnbind
  rw [htake]
  exact if_pos hslice

section SliceZero

variable {tag : Word32} {k : Nat} (h : s.takesUp 0 tag MbxOp.sliceUnbind) (hk : k ≠ 0) (hk' : k < 512)
include h hk hk'

theorem exec_sliceUnbind_active (hstate : (s.slice k).state = .active) :
    exec (.sliceUnbind 0 tag k) s = .next ((s.taken 0 tag MbxOp.sliceUnbind).resetSlice k 6 (some (0, tag)) true).settle := by
  have htake : s.take (0 : Fin 512).val tag MbxOp.sliceUnbind = (s.taken 0 tag MbxOp.sliceUnbind, true) := take_of_takesUp h
  change execSliceUnbind 0 tag k s = _
  unfold execSliceUnbind
  rw [htake]
  dsimp only
  rw [if_neg (by decide), if_neg (by omega), taken_slice h, hstate]
  rfl

theorem exec_sliceUnbind_busy
    (hstate : (s.slice k).state = .resetting ∨ (s.slice k).state = .freezing ∨ (s.slice k).state = .frozen) :
    exec (.sliceUnbind 0 tag k) s = .next ((s.taken 0 tag MbxOp.sliceUnbind).answer 0 tag MbxOp.sliceUnbind Status.busy 0 []) := by
  have htake : s.take (0 : Fin 512).val tag MbxOp.sliceUnbind = (s.taken 0 tag MbxOp.sliceUnbind, true) := take_of_takesUp h
  change execSliceUnbind 0 tag k s = _
  unfold execSliceUnbind
  rw [htake]
  dsimp only
  rw [if_neg (by decide), if_neg (by omega), taken_slice h]
  rcases hstate with hstate | hstate | hstate
  · rw [hstate]; rfl
  · rw [hstate]; rfl
  · rw [hstate]; rfl

end SliceZero

theorem exec_sliceReset {slice : Fin 512} {tag : Word32} (h : s.takesUp slice tag MbxOp.sliceReset) (k : Fin 512)
    (hmay : slice = 0 ∨ slice = k) (hstate : (s.slice k).state ≠ .unbound) :
    exec (.sliceReset slice tag k) s = .next
      ((s.taken slice tag MbxOp.sliceReset).resetSlice k (if slice = k then 1 else 2) (some (slice.val, tag)) false).settle := by
  have htake : s.take slice.val tag MbxOp.sliceReset = (s.taken slice tag MbxOp.sliceReset, true) := take_of_takesUp h
  change execSliceReset slice tag k s = _
  unfold execSliceReset
  rw [htake]
  dsimp only
  rw [if_neg (fun hne => hmay.elim hne.1 hne.2), taken_slice h, if_neg hstate]

theorem exec_sliceReset_own {slice : Fin 512} {tag : Word32} (h : s.takesUp slice tag MbxOp.sliceReset) :
    exec (.sliceReset slice tag slice) s = .next
      ((s.taken slice tag MbxOp.sliceReset).resetSlice slice 1 (some (slice.val, tag)) false).settle := by
  have hactive := active_of_takesUp h (by decide)
  rw [exec_sliceReset h slice (.inr rfl) (by rw [hactive]; decide), if_pos rfl]

/-- An answer that is the whole of a command's effect. -/
theorem answered {slice : Nat} {tag : Word32} {op : Nat} (h : s.takesUp slice tag op) (st : Status) :
    ((s.taken slice tag op).answer slice tag op st 0 []).hasAnswer slice tag st []
      ∧ s.touches ((s.taken slice tag op).answer slice tag op st 0 []) [.mailboxes] :=
  ⟨answer_hasAnswer _ slice tag op st 0 [], answered_touches h (by decide) (touches_refl _)⟩

/-! ## The end of a reset -/

theorem destroyObjects_slice (k j : Nat) : (s.destroyObjects k).slice j = s.slice j := by
  have h : (s.destroyObjects k).slices = s.slices := (destroyObjects_moves s k).frame .slices (by decide)
  simp only [State.slice, h]

/-- What the end of a reset leaves of its slice. -/
def Slice.afterReset (x : Slice) : Slice :=
  if x.leaveUnbound then { gen := x.gen, lastCause := x.lastCause, heartbeat := x.heartbeat, beatAt := x.beatAt, tenant := x.tenant }
  else { x with state := .active, resetters := [] }

/-- The answers at a reset's end change no more than mailboxes. -/
theorem finishReset_touches (k : Nat) :
    ((s.modSlice k Slice.afterReset).raise
      { slice := 0, code := EventCode.sliceResetDone, object := k, info := (s.slice k).lastCause + (s.slice k).gen * 256 }).touches
        (s.finishReset k) [.mailboxes] :=
  (State.Moves.foldl (.refl) (fun s w => (respond_moves s w ..)) : State.Moves _ (s.finishReset k) [.mailboxes]).frame

theorem finishReset_slices (k : Nat) : (s.finishReset k).slices = (s.modSlice k Slice.afterReset).slices :=
  finishReset_touches k .slices (by decide)

theorem slice_finishReset_same {k : Nat} (hk : k < 512) : (s.finishReset k).slice k = (s.slice k).afterReset := by
  rw [← slice_modSlice_same hk Slice.afterReset]
  simp only [State.slice, finishReset_slices]

theorem exec_sliceResetDrainDone {k : Fin 512} (hstate : (s.slice k).state = .resetting) (hdrained : s.resetDrained k = true) :
    exec (.sliceResetDrainDone k) s = .next ((s.destroyObjects k).finishReset k) :=
  if_pos ⟨hstate, hdrained⟩

theorem slice_resetDrained (k : Fin 512) : ((s.destroyObjects k).finishReset k).slice k = (s.slice k).afterReset := by
  rw [slice_finishReset_same k.isLt, destroyObjects_slice]

theorem exec_heartbeat {f : Func} {k : Fin 512} (v : Word64) (h : s.bound k f = true) : exec (.heartbeat f k v) s = .next (s.beat k v) :=
  if_pos h

theorem slice_beat (k : Fin 512) (v : Word64) : (s.beat k v).slice k =
    { s.slice k with heartbeat := v, beatAt := s.time.now, armed := true, hbDeadline := s.time.now + s.beatLimit k } :=
  slice_modSlice_same k.isLt _

theorem exec_flr_outside {f : Func} (h : s.inPause = false) : exec (.flr f) s = .next
    (((s.flrClears f).flrSlices f).foldl (fun s k => s.resetSlice k 4 none false) (s.flrClears f)).retryStalled.settle := by
  change Host.Outcome.next (s.takeFlr f).settle = _
  unfold State.takeFlr
  rw [if_neg (by rw [h]; decide)]
  rfl

theorem exec_heartbeatExpiry {k : Fin 512} (harmed : (s.slice k).armed = true) (hpassed : s.passed (s.slice k).hbDeadline = true) :
    exec (.heartbeatExpiry k) s = .next
      (((s.modSlice k fun x => { x with armed := false }).raise
        { slice := 0, code := EventCode.heartbeatLost, object := k, detail := (s.slice k).beatAt }).resetSlice k 3 none false).settle :=
  if_pos ⟨harmed, hpassed⟩

end Sys2Proof.Machine

open Sys2Proof Sys2Proof.Machine

/-- Settles O37: taking a command up leaves bindings as they were, so each lands on the side its clause names; a reset's end rests on
what destroying a slice's objects leaves of the slices. -/
theorem sliceBinding : Obligations.SliceBinding := by
  refine ⟨?_, ?_, ?_, ?_, ?_, ?_, ?_, ?_, ?_, ?_⟩
  · intro tag k port fn pasid s h hk hk' hport hfn hen hbreaks hstate
    obtain ⟨ten, tbreaks⟩ := taken_binding h k ⟨Fin.ofNat 2 port, Fin.ofNat 256 fn⟩ pasid
    have hact := bindAction_binds hk hk' hport hfn (ten.trans hen) (tbreaks.trans hbreaks) ((congrArg (·.state) (taken_slice h k)).trans hstate)
    have hslice : ∀ j, (s.command 0 tag MbxOp.sliceBind (bindAction 0 k port fn pasid)).slice j =
        ((s.taken 0 tag MbxOp.sliceBind).modSlice k fun x => { x with state := .active, port, fn, pasid }).slice j := by
      intro j
      rw [command_eq_answer h hact, answer_slice]
    refine ⟨_, exec_sliceBind 0 tag k port fn pasid, ?_, ?_, command_hasAnswer h hact,
      command_touches h hact (by decide) (modSlice_moves ..).mono.frame⟩
    · exact (hslice k).trans (by rw [slice_modSlice_same hk', taken_slice h])
    · exact fun j hj => (hslice j).trans (by rw [slice_modSlice_other hj, taken_slice h])
  · intro tag k port fn pasid s h hbad
    obtain ⟨ten, tbreaks⟩ := taken_binding h k ⟨Fin.ofNat 2 port, Fin.ofNat 256 fn⟩ pasid
    have hact := bindAction_malformed (s := s.taken 0 tag MbxOp.sliceBind) (pasid := pasid) (by rw [ten, tbreaks]; exact hbad)
    exact ⟨_, exec_sliceBind 0 tag k port fn pasid, command_hasAnswer h hact, command_touches h hact (by decide) (touches_refl _)⟩
  · intro slice tag k port fn pasid s hslice
    constructor
    · intro h
      have hact : bindAction slice k port fn pasid (s.taken slice tag MbxOp.sliceBind) = (_, Status.localAccess, []) := if_pos hslice
      exact ⟨_, exec_sliceBind slice tag k port fn pasid, command_hasAnswer h hact, command_touches h hact (by decide) (touches_refl _)⟩
    · intro h
      exact ⟨_, exec_sliceUnbind_other h hslice k, answered h _⟩
  · intro tag k s h hk hk' hstate
    exact exec_sliceUnbind_active h hk hk' hstate
  · intro tag k s h hk hk' hstate
    exact ⟨_, exec_sliceUnbind_busy h hk hk' hstate, answered h Status.busy⟩
  · intro slice tag s h
    exact ⟨_, exec_sliceReset_own h, rfl⟩
  · intro k s hstate hdrained
    refine ⟨_, exec_sliceResetDrainDone hstate hdrained, ?_, ?_⟩
    · rw [slice_resetDrained, Slice.afterReset]
      split <;> rfl
    · rw [slice_resetDrained, Slice.afterReset]
      split <;> rfl
  · intro f k v s h
    refine ⟨_, exec_heartbeat v h, ?_, ?_, ?_, (beat_moves ..).frame⟩
    · rw [slice_beat]
    · rw [slice_beat]
    · rw [slice_beat]
  · intro k s harmed hpassed
    exact ⟨_, exec_heartbeatExpiry harmed hpassed, rfl⟩
  · intro f s hpause
    exact ⟨_, exec_flr_outside hpause, rfl⟩

end

section
/-! PROOFS. What the reset of a slice does at its start, at its end, and what joins it. -/

set_option Elab.async false

namespace Sys2Proof.Machine

variable {s t u : State}

/-! ## Ends that stay Gone -/

/-- Every end of `t` is one of `s`, of the same slice and index, and Gone if that one was. -/
def State.EndsKept (s t : State) : Prop :=
  ∀ d ∈ t.trans.conns, ∃ c ∈ s.trans.conns, d.index = c.index ∧ d.slice = c.slice ∧ (c.state = .gone → d.state = .gone)

theorem endsKept_of_conns (h : t.trans.conns = s.trans.conns) : s.EndsKept t :=
  fun d hd => ⟨d, h ▸ hd, rfl, rfl, id⟩

theorem endsKept_of_trans (h : t.trans = s.trans) : s.EndsKept t := endsKept_of_conns (congrArg (·.conns) h)

theorem endsKept_trans (hst : s.EndsKept t) (htu : t.EndsKept u) : s.EndsKept u := by
  intro e he
  obtain ⟨d, hd, hi, hs, hg⟩ := htu e he
  obtain ⟨c, hc, hi', hs', hg'⟩ := hst d hd
  exact ⟨c, hc, hi.trans hi', hs.trans hs', hg ∘ hg'⟩

theorem endsKept_modConn (k : Nat) {f : Conn → Conn} (h : ∀ c, (f c).index = c.index ∧ (f c).slice = c.slice ∧
    (c.state = .gone → (f c).state = .gone)) : s.EndsKept (s.modConn k f) := by
  intro d hd
  obtain ⟨c, hc, rfl⟩ := List.mem_map.mp hd
  refine ⟨c, hc, ?_⟩
  split
  · exact h c
  · exact ⟨rfl, rfl, id⟩

theorem endsKept_foldl {α : Type} {f : State → α → State} (h : ∀ (s : State) a, s.EndsKept (f s a)) (l : List α) : s.EndsKept (l.foldl f s) := by
  induction l generalizing s with
  | nil => exact endsKept_of_conns rfl
  | cons a l ih => exact endsKept_trans (h s a) ih

theorem endsKept_ite {c : Prop} [Decidable c] (ht : s.EndsKept t) (hu : s.EndsKept u) : s.EndsKept (if c then t else u) :=
  iteInduction (fun _ => ht) fun _ => hu

theorem advance_keeps (fuel : Nat) (c : Conn) :
    (c.advance fuel).index = c.index ∧ (c.advance fuel).slice = c.slice ∧ (c.state = .gone → (c.advance fuel).state = .gone) := by
  induction fuel generalizing c with
  | zero => exact ⟨rfl, rfl, id⟩
  | succ fuel ih =>
    rw [Conn.advance]
    split
    · exact ih _
    · exact ⟨rfl, rfl, id⟩

theorem endsKept_markReceived (k : Nat) (psns : List Word32) (stamp : Word32) : s.EndsKept (s.markReceived k psns stamp) :=
  endsKept_modConn k fun _ => advance_keeps _ _

theorem endsKept_sendAck (k : Nat) (dup : Option Word32) : s.EndsKept (s.sendAck k dup) := by
  unfold State.sendAck
  split
  · exact endsKept_of_conns rfl
  · exact endsKept_trans (endsKept_modConn k (f := Conn.reported) fun _ => ⟨rfl, rfl, id⟩)
      (endsKept_of_trans ((sendEndC7_moves (s.modConn k Conn.reported) _ _).frame .trans (by decide)))

theorem endsKept_ackPlaced (c : Conn) : s.EndsKept (s.ackPlaced c) := by
  unfold State.ackPlaced
  dsimp only
  refine endsKept_trans (endsKept_foldl (fun s h => endsKept_markReceived _ _ _) _) (endsKept_foldl (fun s m => ?_) _)
  exact endsKept_ite (endsKept_sendAck _ _) (endsKept_of_conns rfl)

theorem endsKept_endServe (k : Nat) : s.EndsKept (s.endServe k) := by
  unfold State.endServe
  split
  · exact endsKept_of_conns rfl
  · split
    · exact endsKept_of_conns rfl
    · exact endsKept_modConn k fun _ => ⟨rfl, rfl, id⟩

theorem endsKept_dropOp (o : ConnOp) : s.EndsKept (s.dropOp o) := endsKept_of_trans ((dropOp_moves s o).frame .trans (by decide))

theorem endsKept_startCtrl (m : CtrlOut) : s.EndsKept (s.startCtrl m) := by
  unfold State.startCtrl
  dsimp only
  refine endsKept_trans (t := { (if m.msg.guarded then ((s.takeAlive m.dst).1, some (s.takeAlive m.dst).2) else (s, none)).1 with
    trans.ctrlOut := _ }) ?_ (endsKept_of_trans ((putCtrl_moves ..).frame .trans (by decide)))
  refine endsKept_of_conns ?_
  split <;> rfl

theorem endsKept_dropCtrl (good : CtrlOut → Bool) : s.EndsKept (s.dropCtrl good) := by
  unfold State.dropCtrl
  dsimp only
  refine endsKept_trans (endsKept_of_conns rfl) (endsKept_foldl (fun s g => ?_) _)
  refine endsKept_ite ?_ (endsKept_of_conns rfl)
  split
  · exact endsKept_startCtrl _
  · exact endsKept_of_conns rfl

/-! ## An end that goes (R167) -/

/-- What an end still does before it goes. -/
def State.endServed (s : State) (c : Conn) : State :=
  c.ops.foldl State.dropOp (c.serves.foldl (fun s _ => s.endServe c.index) (if c.index = c.stripeFirst then s.ackPlaced c else s))

theorem endServed_keeps (c : Conn) : s.EndsKept (s.endServed c) ∧ (s.endServed c).mem = s.mem := by
  have hmoves : s.Moves (s.endServed c) [.out, .regs, .xlate, .trans, .ports, .ingress] := by
    unfold State.endServed
    refine .foldl ?_ (fun t x => (dropOp_moves ..).mono)
    refine .foldl ?_ (fun s x => (endServe_moves ..).mono)
    exact .ite (ackPlaced_moves ..).mono .refl
  refine ⟨?_, hmoves.frame .mem (by decide)⟩
  have hplaced : s.EndsKept (if c.index = c.stripeFirst then s.ackPlaced c else s) :=
    endsKept_ite (endsKept_ackPlaced c) (endsKept_of_conns rfl)
  exact endsKept_trans (endsKept_trans hplaced (endsKept_foldl (fun s _ => endsKept_endServe c.index) _))
    (endsKept_foldl (fun s o => endsKept_dropOp o) _)

/-- An end as it is Gone. -/
def Conn.goneFrom (now : Nat) (c : Conn) : Conn :=
  { c with state := .gone, goneUntil := now + 1000000000, ops := [], inflight := [], msgs := [], serves := [], answers := [],
           parked := [], pausedUntil := none, rekey := none, rehome := none, creator := none, group := none,
           unreportedAt := none, unreported := 0 }

theorem endGone_conns (c : Conn) :
    (s.endGone c).trans.conns = ((s.endServed c).modConn c.index (Conn.goneFrom (s.endServed c).time.now)).trans.conns := rfl

theorem endGone_cells (c : Conn) : (s.endGone c).mem.cells = s.mem.cells := congrArg (·.cells) (endServed_keeps c).2

theorem endsKept_endGone (c : Conn) : s.EndsKept (s.endGone c) :=
  endsKept_trans (endServed_keeps c).1
    (endsKept_trans (endsKept_modConn c.index (f := Conn.goneFrom (s.endServed c).time.now) fun _ => ⟨rfl, rfl, fun _ => rfl⟩) (endsKept_of_conns (endGone_conns c)))

theorem endGone_gone (c : Conn) {d : Conn} (hd : d ∈ (s.endGone c).trans.conns) (hi : d.index = c.index) : d.state = .gone := by
  rw [endGone_conns] at hd
  obtain ⟨e, he, rfl⟩ := List.mem_map.mp hd
  by_cases heq : e.index = c.index
  · simp only [heq, decide_true, if_true]
    rfl
  · simp only [heq, decide_false, Bool.false_eq_true, if_false] at hi

theorem endGone_all_gone (l : List Conn) {c d : Conn} (hc : c ∈ l) (hd : d ∈ (l.foldl State.endGone s).trans.conns) (hi : d.index = c.index) :
    d.state = .gone := by
  induction l generalizing s with
  | nil => exact absurd hc List.not_mem_nil
  | cons a l ih =>
    rcases List.mem_cons.mp hc with rfl | hc
    · obtain ⟨e, he, hie, -, hgone⟩ := endsKept_foldl (s := s.endGone c) (fun s c => endsKept_endGone c) l d hd
      exact hgone (endGone_gone c he (hie.symm.trans hi))
    · exact ih hc hd

theorem endGone_all_cells (l : List Conn) : (l.foldl State.endGone s).mem.cells = s.mem.cells := by
  induction l generalizing s with
  | nil => rfl
  | cons a l ih => exact ih.trans (endGone_cells a)

/-- The ends of a slice that are not yet Gone. -/
def State.liveEnds (s : State) (k : Nat) : List Conn := s.trans.conns.filter fun c => c.slice = k && c.state ≠ .gone

/-- The ends of a slice gone, and their messages with them. -/
def State.endsDropped (s : State) (k : Nat) : State :=
  ((s.liveEnds k).foldl State.endGone s).dropCtrl fun o => (s.liveEnds k).any fun c => o.ofEnd c.index

theorem resetEnds_conns (k : Nat) : (s.resetEnds k).trans.conns = (s.endsDropped k).trans.conns := rfl

theorem resetEnds_cells (k : Nat) : (s.resetEnds k).mem.cells = s.mem.cells := by
  have hdrop : (s.endsDropped k).mem = ((s.liveEnds k).foldl State.endGone s).mem := (dropCtrl_moves ..).frame .mem (by decide)
  have hreset : (s.resetEnds k).mem = (s.endsDropped k).mem := rfl
  rw [hreset, hdrop, endGone_all_cells]

theorem resetEnds_gone {k : Nat} {d : Conn} (hd : d ∈ (s.resetEnds k).trans.conns) (hk : d.slice = k) : d.state = .gone := by
  rw [resetEnds_conns] at hd
  obtain ⟨c, hc, hi, hs, hg⟩ := endsKept_dropCtrl _ d hd
  obtain ⟨b, hb, hi', hs', hg'⟩ := endsKept_foldl (s := s) (fun s c => endsKept_endGone c) _ c hc
  by_cases hgone : b.state = .gone
  · exact hg (hg' hgone)
  · have hlive : b ∈ s.liveEnds k := by
      refine List.mem_filter.mpr ⟨hb, ?_⟩
      simp [← hs', ← hs, hk, hgone]
    exact hg (endGone_all_gone _ hlive hc hi')

/-! ## The start of a reset (R373) -/

/-- A slice as its reset begins. -/
def Slice.resetFrom (cause : Nat) (who : Option (Nat × Word32)) (unbind : Bool) (x : Slice) : Slice :=
  { x with state := .resetting, gen := nextGen x.gen, lastCause := cause, leaveUnbound := unbind, resetters := who.toList,
           armed := false, freezer := none, thawer := none, saved := false, restored := false, rehomed := [], unanswered := 0 }

/-- The slice is resetting, and nothing of it has yet been stopped. -/
def State.resetMarked (s : State) (k cause : Nat) (who : Option (Nat × Word32)) (unbind : Bool) : State :=
  ((s.respondTo (s.slice k).freezer Status.busy []).respondTo (s.slice k).thawer Status.busy []).modSlice k
    (Slice.resetFrom cause who unbind)

variable {k cause : Nat} {who : Option (Nat × Word32)} {unbind : Bool}

theorem beginReset_eq : s.beginReset k cause who unbind =
    (((((s.resetMarked k cause who unbind).resetQueues k).resetWaiting k).resetEnds k).resetRegions k).resetWork k := rfl

theorem resetMarked_slices :
    (s.resetMarked k cause who unbind).slices = (s.modSlice k (Slice.resetFrom cause who unbind)).slices := by
  have h : ((s.respondTo (s.slice k).freezer Status.busy []).respondTo (s.slice k).thawer Status.busy []).slices = s.slices :=
    ((respondTo_moves ..).then (respondTo_moves ..)).frame .slices (by decide)
  unfold State.resetMarked State.modSlice
  dsimp only
  rw [h]

theorem beginReset_slices :
    (s.beginReset k cause who unbind).slices = (s.modSlice k (Slice.resetFrom cause who unbind)).slices := by
  rw [beginReset_eq, ← resetMarked_slices]
  exact ((resetQueues_moves _ k).mono.then (resetWaiting_moves ..) |>.then (resetEnds_moves ..) |>.then (resetRegions_moves ..)
    |>.then (resetWork_moves ..) : State.Moves _ _ [.out, .regs, .time, .mem, .xlate, .queue, .trans, .ports, .ingress, .work,
      .dirtyLogs, .mailboxes, .keys]).frame .slices (by decide)

theorem beginReset_slice_same (hk : k < 512) :
    (s.beginReset k cause who unbind).slice k = Slice.resetFrom cause who unbind (s.slice k) := by
  rw [← slice_modSlice_same hk (Slice.resetFrom cause who unbind)]
  simp only [State.slice, beginReset_slices]

theorem beginReset_slice_other {j : Nat} (hj : j ≠ k) : (s.beginReset k cause who unbind).slice j = s.slice j := by
  have h := slice_modSlice_other (s := s) hj (Slice.resetFrom cause who unbind)
  simp only [State.slice, beginReset_slices] at h ⊢
  exact h

theorem beginReset_queue : (s.beginReset k cause who unbind).queue = ((s.resetMarked k cause who unbind).resetQueues k).queue := by
  rw [beginReset_eq]
  exact ((resetWaiting_moves _ k).mono.then (resetEnds_moves ..) |>.then (resetRegions_moves ..) |>.then (resetWork_moves ..) :
    State.Moves _ _ [.out, .regs, .time, .mem, .xlate, .trans, .ports, .ingress, .work, .dirtyLogs]).frame .queue (by decide)

theorem beginReset_trans : (s.beginReset k cause who unbind).trans =
    ((((s.resetMarked k cause who unbind).resetQueues k).resetWaiting k).resetEnds k).trans := rfl

theorem beginReset_cells : (s.beginReset k cause who unbind).mem.cells = s.mem.cells := by
  have hmem : (((s.resetMarked k cause who unbind).resetQueues k).resetWaiting k).mem = s.mem :=
    ((respondTo_moves s _ _ _).mono.then (respondTo_moves ..) |>.then (modSlice_moves ..) |>.then (resetQueues_moves ..)
      |>.then (resetWaiting_moves ..) : State.Moves _ _ [.slices, .regs, .xlate, .queue, .trans, .dirtyLogs, .mailboxes, .keys]).frame
        .mem (by decide)
  have hlast : (s.beginReset k cause who unbind).mem =
    ((((s.resetMarked k cause who unbind).resetQueues k).resetWaiting k).resetEnds k).mem := rfl
  rw [hlast, resetEnds_cells, hmem]

theorem resetQueues_stopped {x : Queue} (hx : x ∈ (s.resetQueues k).queue.queues) (hk : x.slice = k) :
    x.state = .inReset ∧ x.fetches = [] ∧ x.started = [] ∧ x.held = [] := by
  have hq : (s.resetQueues k).queue.queues = updWhere (fun x => x.slice = k) (fun x =>
      { x with state := .inReset, enable := false, fetches := [], started := [], delivering := [], held := [], writing := none,
               arm := none, bell := false }) s.queue.queues := by
    rfl
  rw [hq] at hx
  obtain ⟨y, -, rfl⟩ := List.mem_map.mp hx
  by_cases hy : y.slice = k
  · simp only [hy, decide_true, if_true, and_self]
  · simp only [hy, decide_false, Bool.false_eq_true, if_false] at hk

theorem resetRegions_revoking {e : RangeEntry} (he : e ∈ (s.resetRegions k).xlate.ranges) (hk : e.slice = k) (hfree : e.state ≠ .free) :
    e.state = .revoking := by
  obtain ⟨x, -, rfl⟩ := List.mem_map.mp he
  dsimp only at hk hfree ⊢
  split
  · rfl
  · rename_i hno
    rw [if_neg hno] at hk hfree
    exact absurd (by simp [hk, hfree]) hno

theorem mem_filter_ne {α : Type} {f : α → Nat} {l : List α} {x : α} (h : x ∈ l.filter fun x => f x ≠ k) : f x ≠ k :=
  of_decide_eq_true (List.mem_filter.mp h).2

/-! ## The end of a reset -/

theorem destroyObjects_queue (k : Nat) : (∀ x ∈ (s.destroyObjects k).queue.queues, x.slice ≠ k)
    ∧ (∀ x ∈ (s.destroyObjects k).queue.lace, x.1.1 ≠ k) ∧ (s.destroyObjects k).queue.events = s.queue.events := by
  have hrange : (((s.xlate.ranges.filter fun e => e.slice = k && e.state = .revoking).foldl State.freeRange s)).queue = s.queue :=
    (State.Moves.foldl .refl (fun s e => freeRange_moves s e) : State.Moves s _ [.xlate]).frame .queue (by decide)
  have hq : (s.destroyObjects k).queue.queues = s.queue.queues.filter fun x => x.slice ≠ k := by
    rw [← hrange]
    rfl
  have hl : (s.destroyObjects k).queue.lace = s.queue.lace.filter fun x => x.1.1 ≠ k := by
    rw [← hrange]
    rfl
  refine ⟨fun x hx => ?_, fun x hx => ?_, ?_⟩
  · rw [hq] at hx
    exact mem_filter_ne (f := fun x : Queue => x.slice) hx
  · rw [hl] at hx
    exact of_decide_eq_true (List.mem_filter.mp hx).2
  · rw [← hrange]
    rfl

theorem slice_finishReset_other {j : Nat} (hj : j ≠ k) : (s.finishReset k).slice j = s.slice j := by
  have h := slice_modSlice_other (s := s) hj Slice.afterReset
  simp only [State.slice, finishReset_slices] at h ⊢
  exact h

theorem finishReset_queue (k : Nat) : (s.finishReset k).queue = ((s.modSlice k Slice.afterReset).raise
    { slice := 0, code := EventCode.sliceResetDone, object := k, info := (s.slice k).lastCause + (s.slice k).gen * 256 }).queue :=
  finishReset_touches k .queue (by decide)

/-- A finished reset is told once. -/
theorem finishReset_events (k : Nat) : ∃ e, (s.finishReset k).queue.events = s.queue.events ++ [e] ∧ e.slice = 0
    ∧ e.code = EventCode.sliceResetDone ∧ e.object = k ∧ e.info = (s.slice k).lastCause + (s.slice k).gen * 256 :=
  ⟨_, congrArg (·.events) (finishReset_queue k), rfl, rfl, rfl, rfl⟩

/-! ## What joins a reset, and what waits for a pause -/

theorem resetSlice_joins (h : (s.slice k).state = .resetting) : s.resetSlice k cause who unbind =
    s.modSlice k fun x => { x with leaveUnbound := x.leaveUnbound || unbind, resetters := x.resetters ++ who.toList } := by
  unfold State.resetSlice
  rw [h]

theorem exec_flr_inPause {f : Func} (h : s.inPause = true) :
    exec (.flr f) s = .next ({ s with last.held := s.last.held ++ [.flr f] } : State).settle := by
  change Host.Outcome.next (s.takeFlr f).settle = _
  unfold State.takeFlr
  rw [if_pos h]

theorem flrClears_pft {f : Func} {e : PftEntry} (h : e ∈ (s.flrClears f).xlate.pft) : flrHits f e.func = false := by
  have hp : (s.flrClears f).xlate.pft = s.xlate.pft.filter fun e => !flrHits f e.func := rfl
  rw [hp] at h
  simpa only [Bool.not_eq_true'] using (List.mem_filter.mp h).2

theorem flrClears_hostPort (f : Func) (h : f.fn = 0) : ((s.flrClears f).hostPort f.port).vfEnable = false := by
  have hp : (s.flrClears f).hostPort f.port =
      if f.fn.val = 0 then { s.hostPort f.port with pfState := {}, vfs := [], vfEnable := false, numVfs := 0 }
      else (s.hostPort f.port).setFunc f.fn {} := vget_vmod_same _ _ _ f.port.isLt
  have h0 : f.fn.val = 0 := congrArg Fin.val h
  rw [hp, if_pos h0]

end Sys2Proof.Machine

open Sys2Proof Sys2Proof.Machine

/-- Settles O38: a reset's steps act on parts of their own, so each conjunct is one step's; Gone ends stay Gone while the others go. -/
theorem sliceReset : Obligations.SliceReset := by
  refine ⟨?_, ?_, ?_, ?_, ?_, ?_, ?_, ?_, ?_, ?_, ?_, ?_⟩
  · intro slice tag s h
    exact exec_sliceReset_own h
  · intro k tag s h hk hstate
    rw [exec_sliceReset (slice := 0) h k (.inl rfl) hstate, if_neg hk.symm]
    rfl
  · rintro k cause who unbind s t rfl
    have hsame := beginReset_slice_same (s := s) (cause := cause) (who := who) (unbind := unbind) k.isLt
    refine ⟨?_, ?_, ?_, ?_, ?_, ?_, ?_, ?_, ?_, ?_, ?_, ?_, ?_, beginReset_cells, (beginReset_moves ..).frame .last (by decide)⟩
    · rw [hsame]
      rfl
    · rw [hsame]
      rfl
    · rw [hsame]
      rfl
    · rw [hsame]
      rfl
    · rw [hsame]
      rfl
    · intro x hx hk
      rw [beginReset_queue] at hx
      exact resetQueues_stopped hx hk
    · intro c hc hk
      rw [beginReset_trans] at hc
      exact resetEnds_gone hc hk
    · intro e he hk hfree
      exact resetRegions_revoking he hk hfree
    · exact fun g hg => mem_filter_ne hg
    · exact fun v hv => mem_filter_ne hv
    · exact fun x hx => mem_filter_ne hx
    · exact fun e he => mem_filter_ne he
    · exact fun j hj => beginReset_slice_other (Fin.val_ne_of_ne hj)
  · intro k cause who unbind s hstate
    rw [resetSlice_joins hstate, slice_modSlice_same k.isLt]
    exact ⟨rfl, rfl, (modSlice_moves ..).frame⟩
  · intro k s hstate hdrained hleave
    have hafter : (s.slice k).afterReset = { s.slice k with state := .active, resetters := [] } :=
      if_neg (by rw [hleave]; decide)
    obtain ⟨hqueues, hlace, hevents⟩ := destroyObjects_queue (s := s) k
    have hqueue := finishReset_queue (s := s.destroyObjects k) k
    obtain ⟨e, he, hslice, hcode, hobject, hinfo⟩ := finishReset_events (s := s.destroyObjects k) k
    rw [hevents] at he
    rw [destroyObjects_slice] at hinfo
    have hslices := slice_resetDrained (s := s) k
    rw [hafter] at hslices
    refine ⟨_, e, exec_sliceResetDrainDone hstate hdrained, ?_, ?_, ?_, ?_, ?_, ?_, he, hslice, hcode, hobject, hinfo, ?_⟩
    · rw [hslices]
    · rw [hslices]
    · rw [hslices]
      rfl
    · rw [hslices]
    · rw [hqueue]
      exact hqueues
    · rw [hqueue]
      exact hlace
    · intro j hj
      rw [slice_finishReset_other (Fin.val_ne_of_ne hj), destroyObjects_slice]
  · intro k s hstate hdrained hleave
    have hslices := slice_resetDrained (s := s) k
    rw [Slice.afterReset, if_pos hleave] at hslices
    refine ⟨_, exec_sliceResetDrainDone hstate hdrained, ?_, ?_⟩
    · rw [hslices]
    · rw [hslices]
  · intro f k v s h
    refine ⟨_, exec_heartbeat v h, ?_, ?_, ?_, ?_, ?_, (beat_moves ..).frame⟩
    · rw [slice_beat]
    · rw [slice_beat]
    · rw [slice_beat]
    · rw [slice_beat]
    · exact fun j hj => slice_modSlice_other (Fin.val_ne_of_ne hj) _
  · intro f k v s h
    exact if_neg (by rw [h]; decide)
  · intro k s harmed hpassed
    exact exec_heartbeatExpiry harmed hpassed
  · intro f s h
    exact exec_flr_outside h
  · intro f s h
    exact exec_flr_inPause h
  · intro f s
    refine ⟨fun e he hf => ?_, (flrClears_moves s f).frame, fun h => ⟨flrClears_hostPort f h, fun e he hp => ?_⟩⟩
    · have hhit := flrClears_pft he
      simp [flrHits, hf] at hhit
    · have hhit := flrClears_pft he
      have h0 : f.fn.val = 0 := congrArg Fin.val h
      simp [flrHits, hp, h0] at hhit

end

section
/-! PROOFS. Dirty-page logging, and the freezing, saving, restoring and thawing of a slice. -/

set_option Elab.async false

namespace Sys2Proof.Machine

variable {s u v : State}

/-! ## Dirty-page logging (R381, R383) -/

/-- A log as DIRTY_START makes it. -/
def State.newLog (s : State) (k iova pages b0 b1 : Nat) : DirtyLog :=
  { slice := k, base := iova, pages, bitmap0 := b0, bitmap1 := b1, lastFlush := s.time.now }

/-- What a DIRTY_START does once it is taken up. -/
def dirtyStartAction (slice k : Fin 512) (iova pages b0 b1 bytes : Nat) (s : State) : State × Status × List Nat :=
  if slice ≠ 0 then (s, Status.localAccess, [])
  else if (s.findLog k).isSome then (s, Status.busy, [])
  else if iova % 4096 ≠ 0 ∨ bytes < bitmapBytes pages then (s, Status.descMalformed, [])
  else if !s.bitmapOk b0 (bitmapBytes pages) ∨ !s.bitmapOk b1 (bitmapBytes pages) then (s, Status.localAccess, [])
  else ({ s with dirtyLogs := s.dirtyLogs ++ [s.newLog k iova pages b0 b1] }, Status.success, [])

theorem exec_dirtyStart (slice : Fin 512) (tag : Word32) (k : Fin 512) (iova pages b0 b1 bytes : Nat) :
    exec (.dirtyStart slice tag k iova pages b0 b1 bytes) s =
      .next (s.command slice tag MbxOp.dirtyStart (dirtyStartAction slice k iova pages b0 b1 bytes)) := rfl

section TakenUp

variable {slice : Nat} {tag : Word32} {op : Nat} (h : s.takesUp slice tag op)
include h

theorem taken_findLog (k : Nat) : (s.taken slice tag op).findLog k = s.findLog k := by
  obtain ⟨f, hf⟩ := taken_of_takesUp h
  rw [hf]
  rfl

theorem taken_bitmapOk (offset bytes : Nat) : (s.taken slice tag op).bitmapOk offset bytes = s.bitmapOk offset bytes := by
  obtain ⟨f, hf⟩ := taken_of_takesUp h
  rw [hf]
  rfl

theorem taken_dirtyLogs : (s.taken slice tag op).dirtyLogs = s.dirtyLogs := taken_touches h .dirtyLogs (by decide)

theorem taken_now : (s.taken slice tag op).time = s.time := taken_touches h .time (by decide)

end TakenUp

theorem dirtyStartAction_starts {k : Fin 512} {iova pages b0 b1 n : Nat} (hlog : s.findLog k = none) (hiova : iova % 4096 = 0)
    (hbytes : bitmapBytes pages ≤ n) (hok0 : s.bitmapOk b0 (bitmapBytes pages) = true) (hok1 : s.bitmapOk b1 (bitmapBytes pages) = true) :
    dirtyStartAction 0 k iova pages b0 b1 n s =
      ({ s with dirtyLogs := s.dirtyLogs ++ [s.newLog k iova pages b0 b1] }, Status.success, []) := by
  unfold dirtyStartAction
  rw [if_neg (by decide), hlog, if_neg (by decide), if_neg (by omega), hok0, hok1, if_neg (by decide)]

theorem dirtyStartAction_busy {k : Fin 512} {iova pages b0 b1 n : Nat} (hlog : (s.findLog k).isSome = true) :
    dirtyStartAction 0 k iova pages b0 b1 n s = (s, Status.busy, []) := by
  unfold dirtyStartAction
  rw [if_neg (by decide), if_pos hlog]

theorem endLogging_flushes {tag : Word32} {k : Nat} {stop : Bool} {d : DirtyLog} (hlog : s.findLog k = some d) (hwait : d.waiter = none) :
    s.endLogging 0 tag k stop = ((s.modLog k fun d => { d with waiter := some (0, tag, stop) }).flushLog k (!stop)).releaseLog := by
  unfold State.endLogging
  dsimp only
  rw [if_neg (by decide), hlog]
  dsimp only
  rw [hwait, if_neg (by decide)]

/-- A log that nothing waits for is flushed when the store is full or its time has come. -/
theorem execDirtyFlush_one {d : DirtyLog} (hone : s.dirtyLogs = [d]) (hwait : d.waiter = none)
    (hdue : 49152 ≤ s.logUsed ∨ s.due (d.lastFlush + 100000) = true) :
    exec .dirtyFlush s = .next ((s.flushLog d.slice false).releaseLog).settle := by
  have hhit : (d.waiter.isNone && (decide (49152 ≤ s.logUsed) || s.due (d.lastFlush + 100000))) = true := by
    simpa [hwait] using hdue
  change execDirtyFlush s = _
  unfold execDirtyFlush
  rw [hone]
  dsimp only
  have hfilter : List.filter (fun d => d.waiter.isNone && (decide (49152 ≤ s.logUsed) || s.due (d.lastFlush + 100000))) [d] = [d] :=
    List.filter_cons_of_pos hhit
  rw [hfilter]
  rfl

theorem bitmapEnded_read {k n : Nat} {d : DirtyLog} {w : BitmapWord} {b : List Byte} {r : AccOut} (hlog : s.findLog k = some d)
    (hword : d.wordAt w.offset = some w) (hreading : w.reading = true) (hread : s.wordRead k w b = (v, r)) :
    s.bitmapEnded k w.offset (.done b) (n + 1) = v.bitmapEnded k w.offset r n := by
  have hfound : (s.findLog k).bind (fun d => d.wordAt w.offset) = some w := by rw [hlog]; exact hword
  conv_lhs => unfold State.bitmapEnded
  simp only [hfound, hreading, if_true, hread]

/-! ## Freezing (R384) -/

/-- A slice that is to freeze. -/
def Slice.freezingFor (tag : Word32) (x : Slice) : Slice := { x with state := .freezing, freezer := some (0, tag), saved := false }

theorem exec_sliceFreeze {tag : Word32} {k : Fin 512} (h : s.takesUp 0 tag MbxOp.sliceFreeze) (hstate : (s.slice k).state = .active) :
    exec (.sliceFreeze 0 tag k) s = .next ((s.taken 0 tag MbxOp.sliceFreeze).modSlice k (Slice.freezingFor tag)) := by
  have htake : s.take (0 : Fin 512).val tag MbxOp.sliceFreeze = (s.taken 0 tag MbxOp.sliceFreeze, true) := take_of_takesUp h
  change execSliceFreeze 0 tag k s = _
  unfold execSliceFreeze
  rw [htake]
  dsimp only
  rw [if_neg (by decide), taken_slice h, hstate]
  rfl

theorem exec_freezeDrained {k : Fin 512} (hstate : (s.slice k).state = .freezing) (hready : s.frozenReady k = true) :
    exec (.freezeDrained k) s = .next ((s.modSlice k fun x => { x with state := .frozen, freezer := none }).respondTo
      (s.slice k).freezer Status.success []) :=
  if_pos ⟨hstate, hready⟩

/-- A command that a mailbox lists is answered. -/
theorem respond_listed {slice : Nat} {tag : Word32} (h : ((s.mailbox slice).taken.any fun t => t.tag = tag) = true) (st : Status)
    (info : List Nat) : (s.respond (slice, tag) st info).hasAnswer slice tag st info := by
  obtain ⟨t, ht, htag⟩ := List.any_eq_true.mp h
  unfold State.respond
  cases hf : (s.mailbox slice).taken.find? fun t => t.tag = tag with
  | none => exact absurd htag (List.find?_eq_none.mp hf t ht)
  | some t => exact answer_hasAnswer s slice tag t.opcode st 0 info

/-! ## Saving (R385) -/

/-- What a SLICE_SAVE does once it is taken up. -/
def saveAction (slice k : Fin 512) (length : Nat) (ok : Bool) (s : State) : State × Status × List Nat :=
  if slice ≠ 0 then (s, Status.localAccess, [])
  else if (s.slice k).state ≠ .frozen ∨ (s.work.groups.any fun g => g.slice = k.val) ∨ (s.xlate.eyelet.any fun e => e.slice = k.val) then
    (s, Status.busy, [])
  else if s.trans.conns.any fun c => c.slice = k.val && (c.sendSlot.isSome || c.recvSlot.isSome) then (s, Status.descUnsupportedOp, [])
  else if length < s.imageSize k (s.sealedImage k) then (s, Status.noResources, [s.imageSize k (s.sealedImage k)])
  else if !ok then (s, Status.xlateDenied, [])
  else ((s.modSlice k fun x => { x with saved := true }).emit (.sliceImage k (s.sealedImage k)), Status.success,
    [s.imageSize k (s.sealedImage k)])

theorem exec_sliceSave (slice : Fin 512) (tag : Word32) (k : Fin 512) (n : Nat) (ok : Bool) :
    exec (.sliceSave slice tag k n ok) s = .next (s.command slice tag MbxOp.sliceSave (saveAction slice k n ok)) := rfl

theorem imageSize_sealed (k : Nat) : s.imageSize k (s.sealedImage k) = s.imageSize k (s.imageOf k) := rfl

theorem sealedImage_crc (k : Nat) : (s.sealedImage k).crc = imageCrc (s.sealedImage k) := rfl

section Saved

variable {k : Fin 512} (hstate : (s.slice k).state = .frozen) (hgroups : (s.work.groups.any fun g => g.slice = k.val) = false)
  (heyelet : (s.xlate.eyelet.any fun e => e.slice = k.val) = false)
  (hslots : (s.trans.conns.any fun c => c.slice = k.val && (c.sendSlot.isSome || c.recvSlot.isSome)) = false)
include hstate hgroups heyelet hslots

theorem saveAction_saves {n : Nat} (hfits : s.imageSize k (s.imageOf k) ≤ n) : saveAction 0 k n true s =
    ((s.modSlice k fun x => { x with saved := true }).emit (.sliceImage k (s.sealedImage k)), Status.success,
      [s.imageSize k (s.imageOf k)]) := by
  unfold saveAction
  rw [imageSize_sealed, if_neg (by decide), hstate, hgroups, heyelet, if_neg (by decide), hslots, if_neg (by decide),
    if_neg (Nat.not_lt.mpr hfits), if_neg (by decide)]

theorem saveAction_short {n : Nat} (ok : Bool) (hshort : n < s.imageSize k (s.imageOf k)) : saveAction 0 k n ok s =
    (s, Status.noResources, [s.imageSize k (s.imageOf k)]) := by
  unfold saveAction
  rw [imageSize_sealed, if_neg (by decide), hstate, hgroups, heyelet, if_neg (by decide), hslots, if_neg (by decide), if_pos hshort]

end Saved

/-! ## Restoring (R386) -/

/-- What a SLICE_RESTORE does once it is taken up. -/
def restoreAction (slice k : Fin 512) (image : Option SliceImage) (s : State) : State × Status × List Nat :=
  if slice ≠ 0 then (s, Status.localAccess, [])
  else if (s.slice k).state = .resetting then (s, Status.busy, [])
  else match image with
    | none => (s, Status.xlateDenied, [])
    | some i =>
      if i.crc ≠ imageCrc i then (s, Status.checkMismatch, [])
      else if i.contractMajor ≠ s.fld .gblContractMajor 0 then (s, Status.descMalformed, [])
      else if (s.slice k).state ≠ .active ∨ s.owns k then (s, Status.busy, [])
      else if !s.imageFits k i then (s, Status.noResources, [])
      else (s.loadImage k i, Status.success, [])

theorem exec_sliceRestore (slice : Fin 512) (tag : Word32) (k : Fin 512) (image : Option SliceImage) :
    exec (.sliceRestore slice tag k image) s = .next (s.command slice tag MbxOp.sliceRestore (restoreAction slice k image)) := by
  change execSliceRestore slice tag k image s = _
  unfold execSliceRestore restoreAction
  rfl

theorem restoreAction_loads {k : Fin 512} {i : SliceImage} (hcrc : i.crc = imageCrc i) (hmajor : i.contractMajor = s.fld .gblContractMajor 0)
    (hstate : (s.slice k).state = .active) (howns : s.owns k = false) (hfits : s.imageFits k i = true) :
    restoreAction 0 k (some i) s = (s.loadImage k i, Status.success, []) := by
  unfold restoreAction
  rw [if_neg (by decide), hstate, if_neg (by decide)]
  dsimp only
  rw [if_neg (fun hne => hne hcrc), if_neg (fun hne => hne hmajor), howns, if_neg (by decide), hfits, if_neg (by decide)]

theorem restoreAction_mismatch {k : Fin 512} {i : SliceImage} (hstate : (s.slice k).state ≠ .resetting) (hcrc : i.crc ≠ imageCrc i) :
    restoreAction 0 k (some i) s = (s, Status.checkMismatch, []) := by
  unfold restoreAction
  rw [if_neg (by decide), if_neg hstate]
  exact if_pos hcrc

theorem taken_fits {slice : Nat} {tag : Word32} {op : Nat} (h : s.takesUp slice tag op) (k : Nat) (i : SliceImage) :
    (s.taken slice tag op).owns k = s.owns k ∧ (s.taken slice tag op).imageFits k i = s.imageFits k i
      ∧ (s.taken slice tag op).fld .gblContractMajor 0 = s.fld .gblContractMajor 0 := by
  obtain ⟨f, hf⟩ := taken_of_takesUp h
  rw [hf]
  exact ⟨rfl, rfl, rfl⟩

theorem taken_image {slice : Nat} {tag : Word32} {op : Nat} (h : s.takesUp slice tag op) (k : Nat) :
    (s.taken slice tag op).sealedImage k = s.sealedImage k
      ∧ (s.taken slice tag op).imageSize k ((s.taken slice tag op).imageOf k) = s.imageSize k (s.imageOf k) := by
  obtain ⟨f, hf⟩ := taken_of_takesUp h
  rw [hf]
  exact ⟨rfl, rfl⟩


/-! ## The slice that an image makes (R386) -/

/-- The state with an image's queues and regions put beside what was there. -/
def State.imagePlaced (s : State) (k : Nat) (i : SliceImage) : State :=
  { s with queue.queues := s.queue.queues ++ i.queues.map (SavedQueue.load s k),
           queue.groups := s.queue.groups ++ (i.queues.map fun x => (x.number / 8, k, x.groupSlot)).dedup,
           queue.lace := (s.queue.lace.filter fun x => x.1.1 ≠ k) ++ i.lace.map fun x => ((k, x.1), x.2),
           xlate.ranges := (s.xlate.ranges.filter fun e =>
             !((i.regions.map (SavedRegion.load s k)).any fun r => r.slice = e.slice && r.slot = e.slot))
               ++ i.regions.map (SavedRegion.load s k) }

/-- The contexts of an image's class 7 queues brought in. -/
def State.contextsLoaded (s : State) (i : SliceImage) : State :=
  (i.queues.filter fun x => x.params.trafficClass = 7).foldl (fun (s : State) x => s.loadContext x.number) s

/-- An image's ends placed, and its slice's heartbeat watched. -/
def State.endsLoaded (s : State) (k : Nat) (i : SliceImage) : State :=
  if i.queues.any fun x => x.state = 1 then (i.ends.foldl (fun s e => s.loadEnd k e) s).armWatch k
  else i.ends.foldl (fun s e => s.loadEnd k e) s

/-- A slice as an image leaves it. -/
def Slice.restoredFrom (i : SliceImage) (x : Slice) : Slice :=
  { x with state := .frozen, tenant := i.tenant, restored := true, saved := false, oldCoord := i.oldCoord }

theorem loadImage_eq (k : Nat) (i : SliceImage) :
    s.loadImage k i = (((s.imagePlaced k i).contextsLoaded i).endsLoaded k i).modSlice k (Slice.restoredFrom i) := rfl

theorem endsLoaded_moves (k : Nat) (i : SliceImage) : s.Moves (s.endsLoaded k i) [.trans, .slices] := by
  have hends : s.Moves (i.ends.foldl (fun s e => s.loadEnd k e) s) [.trans, .slices] :=
    .foldl .refl fun s e => (loadEnd_moves ..).mono
  exact .ite (hends.then (armWatch_moves ..)) hends

theorem loadImage_queue (k : Nat) (i : SliceImage) : (s.loadImage k i).queue = ((s.imagePlaced k i).contextsLoaded i).queue := by
  rw [loadImage_eq]
  exact ((endsLoaded_moves k i).then (modSlice_moves ..) : State.Moves _ _ [.trans, .slices]).frame .queue (by decide)

theorem loadImage_ranges (k : Nat) (i : SliceImage) : (s.loadImage k i).xlate.ranges = (s.imagePlaced k i).xlate.ranges := by
  have hends : (s.loadImage k i).xlate = ((s.imagePlaced k i).contextsLoaded i).xlate := by
    rw [loadImage_eq]
    exact ((endsLoaded_moves k i).then (modSlice_moves ..) : State.Moves _ _ [.trans, .slices]).frame .xlate (by decide)
  have hcontexts : ((s.imagePlaced k i).contextsLoaded i).xlate = (s.imagePlaced k i).xlate :=
    (State.Moves.foldl .refl fun s x => loadContext_moves s _ : State.Moves _ ((s.imagePlaced k i).contextsLoaded i) [.queue]).frame
      .xlate (by decide)
  rw [hends, hcontexts]

theorem modQueue_numbers (n : Nat) {f : Queue → Queue} (h : ∀ x, (f x).number = x.number) :
    (s.modQueue n f).queue.queues.map (·.number) = s.queue.queues.map (·.number) := by
  change ((s.queue.queues.map _).map _) = _
  rw [List.map_map]
  refine List.map_congr_left fun x _ => ?_
  dsimp only [Function.comp]
  split
  · exact h x
  · rfl

theorem loadContext_numbers (q : Nat) : (s.loadContext q).queue.queues.map (·.number) = s.queue.queues.map (·.number) := by
  unfold State.loadContext
  split
  · rfl
  · refine (modQueue_numbers q fun _ => ?_).trans ?_
    · rfl
    · split
      · refine modQueue_numbers _ fun _ => ?_
        rfl
      · rfl

theorem contextsLoaded_numbers (i : SliceImage) : (s.contextsLoaded i).queue.queues.map (·.number) = s.queue.queues.map (·.number) := by
  unfold State.contextsLoaded
  generalize i.queues.filter _ = l
  induction l generalizing s with
  | nil => rfl
  | cons x l ih => exact ih.trans (loadContext_numbers x.number)

theorem contextsLoaded_none {i : SliceImage} (h : i.queues.all (fun x => x.params.trafficClass ≠ 7) = true) : s.contextsLoaded i = s := by
  have hnone : i.queues.filter (fun x => x.params.trafficClass = 7) = [] :=
    List.filter_eq_nil_iff.mpr fun x hx => by simpa using List.all_eq_true.mp h x hx
  unfold State.contextsLoaded
  rw [hnone]
  rfl

theorem tierOf_save (e : RangeEntry) (base : Nat) : tierOf (RangeEntry.save base e).params.tier = some e.tier := by
  unfold RangeEntry.save
  cases e.tier <;> rfl

theorem kindOf_code (x : QKind) : kindOf x.code = some x := by cases x <;> rfl

/-! ## Thawing (R387) -/

section Thaw

variable {tag : Word32} {k : Fin 512} (h : s.takesUp 0 tag MbxOp.sliceThaw)
include h

theorem exec_sliceThaw_frozen (hstate : (s.slice k).state = .frozen ∨ (s.slice k).state = .freezing) (hrestored : (s.slice k).restored = false)
    (hsaved : (s.slice k).saved = false) (hfreezer : (s.slice k).freezer = none)
    (hu : u = ((s.taken 0 tag MbxOp.sliceThaw).modSlice k fun x => { x with state := .active, freezer := none }).answer 0 tag
      MbxOp.sliceThaw Status.success 0 [0]) :
    exec (.sliceThaw 0 tag k) s = .next ((u.trans.conns.filter fun c => c.slice = k.val).foldl (fun s c => s.kick c.index) u) := by
  have htake : s.take (0 : Fin 512).val tag MbxOp.sliceThaw = (s.taken 0 tag MbxOp.sliceThaw, true) := take_of_takesUp h
  have hstay : ¬((s.slice k).state ≠ .frozen ∧ (s.slice k).state ≠ .freezing) := fun hne => hstate.elim hne.1 hne.2
  change execSliceThaw 0 tag k s = _
  unfold execSliceThaw
  rw [htake]
  dsimp only
  rw [taken_slice h, if_neg (by decide), if_neg hstay, hrestored, if_neg (by decide), hsaved, if_neg (by decide), hfreezer, hu]
  rfl

theorem exec_sliceThaw_restored {mine : List Conn} (hstate : (s.slice k).state = .frozen) (hrestored : (s.slice k).restored = true)
    (hthawer : (s.slice k).thawer = none) (hmine : mine = s.trans.conns.filter fun c => c.slice = k.val)
    (hu : u = ((s.taken 0 tag MbxOp.sliceThaw).modSlice k fun x =>
      { x with thawer := some (0, tag), rehomed := mine.map (·.index), unanswered := 0 })) :
    exec (.sliceThaw 0 tag k) s = .next ((mine.foldl (fun s c => s.sendReHome k c) u).finishThaw k) := by
  have htake : s.take (0 : Fin 512).val tag MbxOp.sliceThaw = (s.taken 0 tag MbxOp.sliceThaw, true) := take_of_takesUp h
  have hconns : (s.taken 0 tag MbxOp.sliceThaw).trans.conns.filter (fun c => c.slice = k.val) = mine := by
    rw [(taken_touches h .trans (by decide) : (s.taken 0 tag MbxOp.sliceThaw).trans = s.trans), hmine]
  change execSliceThaw 0 tag k s = _
  unfold execSliceThaw
  rw [htake]
  dsimp only
  rw [taken_slice h, if_neg (by decide), if_neg (fun hne => hne.1 hstate), hrestored, if_pos rfl, hthawer, if_neg (by decide), hconns, hu]
  rfl

end Thaw

end Sys2Proof.Machine

open Sys2Proof Sys2Proof.Machine

/-- Settles O39: each command's action is a chain of checks that its hypotheses decide; an image's queues and regions stand where they
were placed, since bringing in contexts keeps numbers and the rest leaves queues and regions. -/
theorem dirtyLoggingAndMigration : Obligations.DirtyLoggingAndMigration := by
  refine ⟨⟨?_, ?_, ?_, ?_, ?_, ?_, ?_, ?_⟩, ?_, ?_, ?_, ?_, ?_, ?_, ?_, ?_, ?_, ?_, ?_⟩
  · intro tag k iova pages b0 b1 n s h hlog hiova hbytes hok0 hok1
    have hact := dirtyStartAction_starts (s := s.taken 0 tag MbxOp.dirtyStart) (k := k) (b0 := b0) (b1 := b1)
      ((taken_findLog h k).trans hlog) hiova hbytes ((taken_bitmapOk h ..).trans hok0) ((taken_bitmapOk h ..).trans hok1)
    refine ⟨_, (s.taken 0 tag MbxOp.dirtyStart).newLog k iova pages b0 b1, exec_dirtyStart 0 tag k iova pages b0 b1 n, ?_, rfl, rfl,
      rfl, rfl, rfl, rfl, rfl, command_hasAnswer h hact, command_touches h hact (by decide) (setDirtyLogs_moves _ _).mono.frame⟩
    have hlogs := congrArg (fun t : State => t.dirtyLogs) (command_eq_answer h hact)
    refine hlogs.trans ?_
    change (s.taken 0 tag MbxOp.dirtyStart).dirtyLogs ++ _ = _
    rw [taken_dirtyLogs h]
  · intro tag k iova pages b0 b1 n s h hlog
    have hact := dirtyStartAction_busy (s := s.taken 0 tag MbxOp.dirtyStart) (k := k) (iova := iova) (pages := pages) (b0 := b0)
      (b1 := b1) (n := n) ((congrArg Option.isSome (taken_findLog h k)).trans hlog)
    exact ⟨_, exec_dirtyStart 0 tag k iova pages b0 b1 n, command_hasAnswer h hact, command_touches h hact (by decide) (touches_refl _)⟩
  · intro tag k s d h hlog hwait
    have htake : s.take (0 : Fin 512).val tag MbxOp.dirtyStop = (s.taken 0 tag MbxOp.dirtyStop, true) := take_of_takesUp h
    have hend := endLogging_flushes (tag := tag) (stop := true) ((taken_findLog h k).trans hlog) hwait
    change execDirtyStop 0 tag k s = _
    unfold execDirtyStop
    rw [htake]
    exact congrArg (fun t : State => Host.Outcome.next t.settle) hend
  · intro tag k s d h hlog hwait
    have htake : s.take (0 : Fin 512).val tag MbxOp.dirtySync = (s.taken 0 tag MbxOp.dirtySync, true) := take_of_takesUp h
    have hend := endLogging_flushes (tag := tag) (stop := false) ((taken_findLog h k).trans hlog) hwait
    change execDirtySync 0 tag k s = _
    unfold execDirtySync
    rw [htake]
    exact congrArg (fun t : State => Host.Outcome.next t.settle) hend
  · intro slice k tag s hslice h
    have htake : s.take slice.val tag MbxOp.dirtyStop = (s.taken slice tag MbxOp.dirtyStop, true) := take_of_takesUp h
    have hend : (s.taken slice tag MbxOp.dirtyStop).endLogging slice tag k true =
        (s.taken slice tag MbxOp.dirtyStop).respond (slice.val, tag) Status.localAccess [] := if_pos (Fin.val_ne_of_ne hslice)
    change execDirtyStop slice tag k s = _
    unfold execDirtyStop
    rw [htake]
    exact congrArg (fun t : State => Host.Outcome.next t.settle) hend
  · intro s d hone hwait hdue
    exact execDirtyFlush_one hone hwait hdue
  · intro s hnone
    change execDirtyFlush s = _
    unfold execDirtyFlush
    rw [hnone]
    rfl
  · rintro k n s u v d w b r hlog hword hreading rfl hread
    exact bitmapEnded_read hlog hword hreading hread
  · intro tag k s h hstate
    have hslice : ((s.taken 0 tag MbxOp.sliceFreeze).modSlice k (Slice.freezingFor tag)).slice k = Slice.freezingFor tag (s.slice k) := by
      rw [slice_modSlice_same k.isLt, taken_slice h]
    refine ⟨_, exec_sliceFreeze h hstate, ?_, ?_, ?_, fun j hj => ?_, ?_⟩
    · rw [hslice]
      rfl
    · rw [hslice]
      rfl
    · rw [hslice]
      rfl
    · rw [slice_modSlice_other (Fin.val_ne_of_ne hj), taken_slice h]
    · exact touches_trans (touches_mono (by decide) (taken_touches h)) (modSlice_moves ..).mono.frame
  · intro tag k s hstate hready hfreezer hlisted
    have hexec := exec_freezeDrained hstate hready
    rw [hfreezer] at hexec
    have hslices : ∀ j, (((s.modSlice k fun x => { x with state := .frozen, freezer := none }).respond (0, tag)
        Status.success []).slice j) = (s.modSlice k fun x => { x with state := .frozen, freezer := none }).slice j := by
      intro j
      have hresp : ((s.modSlice k fun x => { x with state := .frozen, freezer := none }).respond (0, tag) Status.success []).slices = _ :=
        (respond_moves ..).frame .slices (by decide)
      simp only [State.slice, hresp]
    refine ⟨_, hexec, ?_, respond_listed (s := s.modSlice k _) hlisted _ _, fun j hj => ?_, ?_⟩
    · exact (congrArg (·.state) (hslices k)).trans (by rw [slice_modSlice_same k.isLt])
    · exact (hslices j).trans (slice_modSlice_other (Fin.val_ne_of_ne hj) _)
    · exact ((modSlice_moves s ..).mono.then (respondTo_moves ..) : s.Moves _ [.slices, .mailboxes]).frame
  · intro tag k n s h hstate hgroups heyelet hslots hfits
    obtain ⟨hsealed, hsize⟩ := taken_image h k
    have hact := saveAction_saves (s := s.taken 0 tag MbxOp.sliceSave) (k := k) (n := n) ((congrArg (·.state) (taken_slice h k)).trans hstate)
      (by rw [taken_work h]; exact hgroups) (by rw [taken_xlate h]; exact heyelet)
      (by rw [(taken_touches h .trans (by decide) : (s.taken 0 tag MbxOp.sliceSave).trans = s.trans)]; exact hslots) (hsize ▸ hfits)
    rw [hsealed, hsize] at hact
    have heq := command_eq_answer h hact
    change State.command s (0 : Fin 512).val _ _ _ = _ at heq
    refine ⟨_, exec_sliceSave 0 tag k n true, ?_, sealedImage_crc k, ?_, ?_, command_hasAnswer h hact,
      command_touches h hact (by decide) ((modSlice_moves ..).mono.then (emit_moves ..)).frame⟩
    · rw [heq]
      change (s.taken 0 tag MbxOp.sliceSave).out ++ _ = _
      rw [(taken_touches h .out (by decide) : (s.taken 0 tag MbxOp.sliceSave).out = s.out)]
    · rw [heq]
      exact congrArg (·.saved) (slice_modSlice_same k.isLt _)
    · rw [heq]
      refine (congrArg (·.state) (slice_modSlice_same k.isLt _)).trans ?_
      exact (congrArg (·.state) (taken_slice h k)).trans hstate
  · intro tag k n ok s h hstate hgroups heyelet hslots hshort
    obtain ⟨-, hsize⟩ := taken_image h k
    have hact := saveAction_short (s := s.taken 0 tag MbxOp.sliceSave) (k := k) (n := n) ((congrArg (·.state) (taken_slice h k)).trans hstate)
      (by rw [taken_work h]; exact hgroups) (by rw [taken_xlate h]; exact heyelet)
      (by rw [(taken_touches h .trans (by decide) : (s.taken 0 tag MbxOp.sliceSave).trans = s.trans)]; exact hslots) ok (hsize ▸ hshort)
    rw [hsize] at hact
    exact ⟨_, exec_sliceSave 0 tag k n ok, command_hasAnswer h hact, command_touches h hact (by decide) (touches_refl _)⟩
  · intro tag k i s h hcrc hmajor hstate howns hfits
    obtain ⟨towns, tfits, tfld⟩ := taken_fits h k i
    have hact := restoreAction_loads (s := s.taken 0 tag MbxOp.sliceRestore) (k := k) hcrc (hmajor.trans tfld.symm)
      ((congrArg (·.state) (taken_slice h k)).trans hstate) (towns.trans howns) (tfits.trans hfits)
    rw [exec_sliceRestore]
    exact congrArg _ (command_eq_answer h hact)
  · intro tag k i s h hstate hcrc
    have hact := restoreAction_mismatch (s := s.taken 0 tag MbxOp.sliceRestore) (k := k) (i := i) (by rw [taken_slice h]; exact hstate) hcrc
    exact ⟨_, exec_sliceRestore 0 tag k (some i), command_hasAnswer h hact, command_touches h hact (by decide) (touches_refl _)⟩
  · intro k i s
    have hslice : (s.loadImage k i).slice k = Slice.restoredFrom i ((((s.imagePlaced k i).contextsLoaded i).endsLoaded k i).slice k) := by
      rw [loadImage_eq, slice_modSlice_same k.isLt]
    refine ⟨?_, ?_, ?_, fun hnone => ?_, ?_, fun r hr => ?_⟩
    · rw [hslice]
      rfl
    · rw [hslice]
      rfl
    · rw [hslice]
      rfl
    · rw [loadImage_queue, contextsLoaded_none hnone]
      rfl
    · rw [loadImage_queue, contextsLoaded_numbers]
      rfl
    · rw [loadImage_ranges]
      exact List.mem_append_right _ (List.mem_map_of_mem hr)
  · intro k s x hstate
    refine ⟨rfl, ?_, ?_, rfl, rfl, rfl, rfl, rfl, ?_⟩
    · change (kindOf x.kind.code).getD .work = x.kind
      rw [kindOf_code]
      rfl
    · rcases hstate with hstate | hstate | hstate
      · simp [SavedQueue.load, Queue.save, hstate]
      · simp [SavedQueue.load, Queue.save, hstate]
      · simp [SavedQueue.load, Queue.save, hstate]
    · exact (BitVec.ofNat_toNat 8 x.lastStatus).trans (BitVec.setWidth_eq _)
  · rintro k s e hbase r rfl
    have hslot : s.segBase k + (e.slot - s.segBase k) = e.slot := by omega
    refine ⟨hslot, rfl, rfl, rfl, ?_, ?_, ?_, rfl, ?_⟩
    · change (tierOf (RangeEntry.save (s.segBase k) e).params.tier).getD .near = e.tier
      rw [tierOf_save]
      rfl
    · change ((s.range k (s.segBase k + (e.slot - s.segBase k))).map (·.incarnation)).getD 0 + 1 = _
      rw [hslot]
    · exact (BitVec.ofNat_toNat 5 e.perm).trans (BitVec.setWidth_eq _)
    · change (if decide (e.state = .revoking) = true then RangeState.revoking else .active) = _
      simp only [decide_eq_true_eq]
  · intro tag k s u h hstate hrestored hsaved hfreezer hu
    exact exec_sliceThaw_frozen h hstate hrestored hsaved hfreezer hu
  · intro tag k s u mine h hstate hrestored hthawer hmine hu
    exact exec_sliceThaw_restored h hstate hrestored hthawer hmine hu

end

section
/-! PROOFS. The links of the host ports, and the enables of their functions. -/

set_option Elab.async false

namespace Sys2Proof.Machine

variable {s : State}

/-! ## A host port that changes -/

theorem hostPort_modHost (p : Fin 2) (f : HostPort → HostPort) : (s.modHost p f).hostPort p = f (s.hostPort p) :=
  vget_vmod_same _ _ _ p.isLt

theorem endLink_down {p : Fin 2} (cause : Nat) (h : (s.hostPort p).up = false) :
    s.endLink p cause = s.modHost p fun h => { h with cfgReset := h.cfgReset || decide (cause = 2 ∨ cause = 3) } := by
  have hup : ((s.modHost p fun h => { h with cfgReset := h.cfgReset || decide (cause = 2 ∨ cause = 3) }).hostPort p).up = false := by
    rw [hostPort_modHost]
    exact h
  unfold State.endLink
  dsimp only
  rw [hup]
  rfl

theorem mem_slicesWith {p : Slice → Bool} {k : Nat} (hk : k < 512) (h : p (s.slice k) = true) : k ∈ s.slicesWith p := by
  unfold State.slicesWith
  refine List.mem_filterMap.mpr ⟨(s.slice k, k), ?_, if_pos h⟩
  have hslice : s.slices.toList[k]? = some (s.slice k) := by
    unfold State.slice vget
    simp [hk]
  exact List.mem_zipIdx_iff_getElem?.mpr hslice

/-! ## The paths through a port (R406) -/

/-- The port's paths out of every record, before what waited on them is told. -/
def State.portPathsCut (s : State) (p : Nat) : State :=
  let mine (d : DirtyPath) : Bool := d.port = p
  let desc (d : Started) : Started :=
    if d.paths.any mine then
      { d with paths := d.paths.filter fun x => !mine x, flushFail := orCode d.flushFail (some Status.hostLinkDown) }
    else d
  let msg (m : RxMsg) : RxMsg := match m.peers.find? mine with
    | some d => { m with peers := m.peers.filter fun x => !mine x,
                         flushFail := m.flushFail.orElse fun _ => some (Status.hostLinkDown, d.pathTag) }
    | none => m
  let dirty := s.xlate.dirty.map fun x => (x.1, x.2.filter fun d => !mine d)
  { s with xlate.dirty := dirty.filter fun x => !x.2.isEmpty,
           queue.queues := s.queue.queues.map fun x => { x with started := x.started.map desc },
           trans.conns := s.trans.conns.map fun c => { c with msgs := c.msgs.map msg },
           xlate.ranges := updWhere (fun e => e.state = .revoking && e.tier.port = some p) (fun e => { e with inFlight := 0 })
                             s.xlate.ranges }

/-- The slices that have a path through the port. -/
def State.pathSlices (s : State) (p : Nat) : List Nat := (s.xlate.dirty.filter fun x => x.2.any fun d => decide (d.port = p)).map (·.1)

theorem dropPortPaths_eq (p : Nat) : s.dropPortPaths p = (s.pathSlices p).foldl State.downSuccess (s.portPathsCut p) := rfl

theorem dropPortPaths_xlate (p : Nat) : (s.dropPortPaths p).xlate = (s.portPathsCut p).xlate := by
  rw [dropPortPaths_eq]
  exact (State.Moves.foldl .refl fun t k => downSuccess_moves t k : State.Moves _ _ [.regs, .queue]).frame .xlate (by decide)

/-- A completion record with its SUCCESS taken back. -/
def CplRec.downed (k : Nat) (c : CplRec) : CplRec :=
  if c.slice = k && c.status = Status.success then { c with status := Status.hostLinkDown } else c

theorem downed_slice (k : Nat) (c : CplRec) : (c.downed k).slice = c.slice := by
  unfold CplRec.downed
  split <;> rfl

theorem downed_of_slice {k : Nat} {c : CplRec} (h : c.slice = k) : (c.downed k).status ≠ Status.success := by
  unfold CplRec.downed
  split
  · exact fun heq => absurd heq (by decide : ¬ Status.hostLinkDown = Status.success)
  · rename_i hno
    simpa [h] using hno

theorem downed_stays (k : Nat) {c : CplRec} (h : c.status ≠ Status.success) : (c.downed k).status ≠ Status.success := by
  unfold CplRec.downed
  rw [if_neg (by simp [h])]
  exact h

theorem downSuccess_records (k : Nat) : (s.downSuccess k).queue.records = s.queue.records.map fun r => (r.1, r.2.downed k) := rfl

theorem downSuccess_started {k : Nat} {x : Queue} (h : x ∈ (s.downSuccess k).queue.queues) : ∃ y ∈ s.queue.queues, x.started = y.started := by
  obtain ⟨y, hy, rfl⟩ := List.mem_map.mp h
  exact ⟨y, hy, rfl⟩

theorem downAll_started (l : List Nat) {x : Queue} (h : x ∈ (l.foldl State.downSuccess s).queue.queues) :
    ∃ y ∈ s.queue.queues, x.started = y.started := by
  induction l generalizing s with
  | nil => exact ⟨x, h, rfl⟩
  | cons k l ih =>
    obtain ⟨y, hy, hxy⟩ := ih h
    obtain ⟨z, hz, hyz⟩ := downSuccess_started hy
    exact ⟨z, hz, hxy.trans hyz⟩

/-- A record that is no SUCCESS stays none, and none of the named slices' is one. -/
theorem downAll_records (l : List Nat) {r : Nat × CplRec} (h : r ∈ (l.foldl State.downSuccess s).queue.records) :
    (r.2.slice ∈ l → r.2.status ≠ Status.success)
      ∧ ∃ q ∈ s.queue.records, r.2.slice = q.2.slice ∧ (q.2.status ≠ Status.success → r.2.status ≠ Status.success) := by
  induction l generalizing s with
  | nil => exact ⟨fun hm => absurd hm List.not_mem_nil, r, h, rfl, id⟩
  | cons k l ih =>
    obtain ⟨hin, q, hq, hslice, hstays⟩ := ih h
    rw [downSuccess_records] at hq
    obtain ⟨o, ho, rfl⟩ := List.mem_map.mp hq
    rw [downed_slice] at hslice
    refine ⟨fun hm => ?_, o, ho, hslice, fun hne => hstays (downed_stays k hne)⟩
    rcases List.mem_cons.mp hm with rfl | hm
    · exact hstays (downed_of_slice hslice.symm)
    · exact hin hm

theorem portPathsCut_dirty {p : Nat} {x : Nat × List DirtyPath} (h : x ∈ (s.portPathsCut p).xlate.dirty) : ∀ d ∈ x.2, d.port ≠ p := by
  obtain ⟨hx, -⟩ := List.mem_filter.mp h
  obtain ⟨y, -, rfl⟩ := List.mem_map.mp hx
  intro d hd
  simpa using (List.mem_filter.mp hd).2

theorem portPathsCut_ranges {p : Nat} {e : RangeEntry} (h : e ∈ (s.portPathsCut p).xlate.ranges) (hstate : e.state = .revoking)
    (hport : e.tier.port = some p) : e.inFlight = 0 := by
  obtain ⟨x, -, rfl⟩ := List.mem_map.mp h
  dsimp only at hstate hport ⊢
  split
  · rfl
  · rename_i hno
    rw [if_neg hno] at hstate hport
    exact absurd (by simp [hstate, hport]) hno

theorem portPathsCut_started {p : Nat} {x : Queue} (h : x ∈ (s.portPathsCut p).queue.queues) :
    ∀ d ∈ x.started, ∀ y ∈ d.paths, y.port ≠ p := by
  obtain ⟨q, -, rfl⟩ := List.mem_map.mp h
  intro d hd y hy
  obtain ⟨e, -, rfl⟩ := List.mem_map.mp hd
  dsimp only at hy
  split at hy
  · simpa using (List.mem_filter.mp hy).2
  · rename_i hno
    intro hp
    exact hno (List.any_eq_true.mpr ⟨y, hy, decide_eq_true hp⟩)

theorem mem_pathSlices {p k : Nat} (h : ∃ x ∈ s.xlate.dirty, x.1 = k ∧ ∃ d ∈ x.2, d.port = p) : k ∈ s.pathSlices p := by
  obtain ⟨x, hx, rfl, d, hd, hport⟩ := h
  exact List.mem_map.mpr ⟨x, List.mem_filter.mpr ⟨hx, List.any_eq_true.mpr ⟨d, hd, decide_eq_true hport⟩⟩, rfl⟩

/-! ## Links that retrain and return (R407, R408) -/

theorem exec_hostLinkRetrain {p : Fin 2} (sp w : Nat) (h : (s.hostPort p).up = true) : exec (.hostLinkRetrain p sp w) s =
    .next ((s.modHost p fun h => { h with speed := sp, width := w, flit := decide (sp = 2) }).bump .gblHostStatusRetrains p) := if_pos h

/-- A port whose link has returned. -/
def HostPort.returned (sp w : Nat) (flit : Bool) (h : HostPort) : HostPort :=
  let h := if h.cfgReset then { h with cplValue := 0, maxRead := 512, maxPayload := 128, pfState := {}, vfs := [], vfEnable := false, numVfs := 0 }
    else h
  { h with up := true, speed := sp, width := w, flit, cfgReset := false }

theorem linkReturns_eq (p : Fin 2) (sp w : Nat) (flit : Bool) : s.linkReturns p sp w flit =
    (s.modHost p (HostPort.returned sp w flit)).raise
      { slice := 0, code := EventCode.hostLink, object := p, info := 1 + (s.hostPort p).lastDown * 256 } := rfl

theorem exec_hostLinkReturn {p : Fin 2} (sp w : Nat) (flit : Bool) (hdown : (s.hostPort p).up = false) (hcause : (s.hostPort p).lastDown ≠ 4)
    (hreset : s.board.resetN = true) : exec (.hostLinkReturn p sp w flit) s = .next (s.linkReturns p sp w flit) := by
  refine if_neg ?_
  rw [hdown, hreset]
  rintro (h | h | h)
  · exact Bool.false_ne_true h
  · exact Bool.false_ne_true h
  · exact hcause h.1

theorem returned_kept {h : HostPort} {sp w : Nat} {flit : Bool} (hcfg : h.cfgReset = false) :
    (h.returned sp w flit).pfState = h.pfState ∧ (h.returned sp w flit).vfs = h.vfs ∧ (h.returned sp w flit).vfEnable = h.vfEnable := by
  unfold HostPort.returned
  rw [hcfg]
  exact ⟨rfl, rfl, rfl⟩

theorem returned_reset {h : HostPort} {sp w : Nat} {flit : Bool} (hcfg : h.cfgReset = true) :
    (h.returned sp w flit).pfState = {} ∧ (h.returned sp w flit).vfs = [] ∧ (h.returned sp w flit).vfEnable = false
      ∧ (h.returned sp w flit).numVfs = 0 ∧ (h.returned sp w flit).maxRead = 512 ∧ (h.returned sp w flit).maxPayload = 128 := by
  unfold HostPort.returned
  rw [hcfg]
  exact ⟨rfl, rfl, rfl, rfl, rfl, rfl⟩

/-! ## Functions -/

theorem exec_busMasterDisable {f : Func} (hwait : s.xlate.waiting = []) (hquiet : s.Quiet) :
    exec (.busMasterDisable f) s = .next (s.modFunc f fun x => { x with bme := false }) := by
  change execBusMasterDisable f s = _
  have hnone : ∀ (good : Waiting → Bool) (c : Status), (s.modFunc f fun x => { x with bme := false }).failAll good c =
      s.modFunc f fun x => { x with bme := false } := by
    intro good c
    unfold State.failAll
    rw [show (s.modFunc f fun x => { x with bme := false }).xlate.waiting = [] from hwait]
    rfl
  unfold execBusMasterDisable
  dsimp only
  have hstill : (s.modFunc f fun x => { x with bme := false }).Quiet :=
    ⟨hquiet.infWaits, hquiet.heldArrivals, hquiet.eyeletBusy, hquiet.ended, hquiet.services⟩
  rw [hnone, settle_of_quiet hstill]

theorem aerNote_unsupported (f : Func) : ((s.aerNote f aerUnsupported).funcState f).aerUncor.getLsbD aerUnsupported = true := by
  have hbit : (BitVec.ofNat 32 (2 ^ aerUnsupported)).getLsbD aerUnsupported = true := by decide
  unfold State.aerNote
  rw [funcState_modFunc, BitVec.getLsbD_or, hbit, Bool.or_true]

/-! ## IDE (R410) -/

/-- A stream found broken, and noted as an error of the port's PF. -/
def State.ideBroken (s : State) (p : Fin 2) (k : Fin 4) : State :=
  (s.modHost p fun h => { h with ide := vset h.ide k { vget (s.hostPort p).ide k {} with state := 2 } }).aerNote ⟨p, 0⟩ aerIdeFail

theorem ideBroken_touches (p : Fin 2) (k : Fin 4) : s.touches (s.ideBroken p k) [.host] :=
  ((setHost_moves s _).then (setHost_moves _ _) : s.Moves (s.ideBroken p k) [.host]).frame

/-- A secure stream of the whole port that fails: what follows depends on whether the port requires IDE. -/
theorem exec_ideIntegrityFail {p : Fin 2} {k : Fin 4} (hstate : (vget (s.hostPort p).ide k {}).state = 1)
    (hcovers : (vget (s.hostPort p).ide k {}).covers 0xFFFF = true) : exec (.ideIntegrityFail p k) s =
      if s.fld .gblHostIdeCtrlRequired p = 1 then .next ((s.ideBroken p k).endLink p 4).settle else .next (s.ideBroken p k) := by
  change execIdeIntegrityFail p k s = _
  unfold execIdeIntegrityFail
  dsimp only
  rw [if_neg (fun hne => hne hstate), if_pos hcovers]
  rfl

theorem ideBroken_state (p : Fin 2) (k : Fin 4) : (vget ((s.ideBroken p k).hostPort p).ide k {}).state = 2 := by
  have hide : ((s.ideBroken p k).hostPort p).ide = vset (s.hostPort p).ide k { vget (s.hostPort p).ide k {} with state := 2 } := by
    unfold State.ideBroken State.aerNote State.modFunc
    refine (congrArg HostPort.ide (vget_vmod_same _ _ _ p.isLt)).trans ?_
    exact congrArg HostPort.ide (hostPort_modHost (s := s) p _)
  rw [hide]
  have hk := k.isLt
  simp [vget, vset, hk]

end Sys2Proof.Machine

open Sys2Proof Sys2Proof.Machine

/-- Settles O40: what the end of a link cuts is cut in one step, and each SUCCESS behind it is taken back slice by slice. -/
theorem hostLinks : Obligations.HostLinks := by
  refine ⟨fun _ _ _ => rfl, ?_, ?_, ?_, ?_, ?_, ?_, ?_, ?_, ?_, ?_, ?_⟩
  · intro p cause s h
    exact endLink_down cause h
  · intro p k s hstate hport
    exact mem_slicesWith k.isLt (by simp [hstate, hport])
  · intro p s
    have hxlate := dropPortPaths_xlate (s := s) p.val
    refine ⟨?_, ?_, ?_, ?_, ?_, touches_mono (by decide) (dropPortPaths_moves s p).frame⟩
    · rw [hxlate]
      rfl
    · rw [hxlate]
      exact fun x hx => portPathsCut_dirty hx
    · rw [hxlate]
      exact fun e he => portPathsCut_ranges he
    · intro x hx
      rw [dropPortPaths_eq] at hx
      obtain ⟨y, hy, hstarted⟩ := downAll_started _ hx
      rw [hstarted]
      exact portPathsCut_started hy
    · intro r hr hdirty
      rw [dropPortPaths_eq] at hr
      exact (downAll_records _ hr).1 (mem_pathSlices hdirty)
  · intro p s hport hup
    have hmove : s.moveZero p = s.modSlice 0 fun x => { x with port := 1 - p.val, fn := 0, pasid := none } := if_pos ⟨hport, hup⟩
    have hslice := slice_modSlice_same (s := s) (k := 0) (by decide) fun x => { x with port := 1 - p.val, fn := 0, pasid := none }
    refine ⟨?_, ?_, ?_, (moveZero_moves s p).frame⟩
    · rw [hmove, hslice]
      rfl
    · rw [hmove, hslice]
    · intro j hj
      rw [hmove]
      exact slice_modSlice_other (Fin.val_ne_of_ne hj) _
  · intro p sp w s hup
    have hport := hostPort_modHost (s := s) p fun h => { h with speed := sp, width := w, flit := decide (sp = 2) }
    refine ⟨_, exec_hostLinkRetrain sp w hup, ?_, ?_, ?_, ?_, ?_, ((setHost_moves s _).mono.then (bump_moves ..) : s.Moves _ [.host, .regs]).frame⟩
    · exact (congrArg HostPort.up hport).trans hup
    · exact congrArg HostPort.speed hport
    · exact congrArg HostPort.width hport
    · exact (congrArg HostPort.unacked hport :)
    · rw [fld_bump_same (by decide) (by decide)]
      rfl
  · intro p sp w flit s hdown hcause hreset
    have hport : (s.linkReturns p sp w flit).hostPort p = (s.hostPort p).returned sp w flit := hostPort_modHost (s := s) p _
    refine ⟨_, _, exec_hostLinkReturn sp w flit hdown hcause hreset, ?_, ?_, fun hcfg => ?_, fun hcfg => ?_, rfl, rfl, rfl, rfl, rfl,
      ((setHost_moves s _).mono.then (raise_moves ..) : s.Moves _ [.host, .queue]).frame⟩
    · rw [hport]
      rfl
    · rw [hport]
      rfl
    · rw [hport]
      exact returned_kept hcfg
    · rw [hport]
      exact returned_reset hcfg
  · intro f s hwait hheld hended hservices hbusy hinf
    refine ⟨_, exec_busMasterDisable hwait ⟨hinf, hheld, hbusy, hended, hservices⟩, ?_, rfl, (setHost_moves s _).frame⟩
    rw [funcState_modFunc]
  · intro p n on s
    have hport := hostPort_modHost (s := s) p fun h =>
      { h with vfEnable := on, numVfs := min totalVfs n, vfs := if on then h.vfs.filter fun v => v.1 ≤ n else [] }
    refine ⟨_, rfl, ?_, ?_, ?_, rfl, (setHost_moves s _).frame⟩
    · exact congrArg HostPort.vfEnable hport
    · exact congrArg HostPort.numVfs hport
    · exact (congrArg HostPort.pfState hport :)
  · intro f n s
    exact ⟨rfl, aerNote_unsupported f⟩
  · rintro p k s x rfl hstate hcovers hrequired
    exact (exec_ideIntegrityFail hstate hcovers).trans (if_pos hrequired)
  · rintro p k s x rfl hstate hcovers hrequired
    exact ⟨_, (exec_ideIntegrityFail hstate hcovers).trans (if_neg hrequired), ideBroken_state p k, ideBroken_touches p k⟩

end

section
/-! PROOFS. Key slots, the queue of the Guard Cipher Engines, and the DRBG. -/

set_option Elab.async false

namespace Sys2Proof.Machine

variable {s : State}

/-! ## Slots -/

section TakenUp

variable {slice : Nat} {tag : Word32} {op : Nat} (h : s.takesUp slice tag op)
include h

/-- Taking a command up leaves what a key command is judged by. -/
theorem taken_slots (o : Nat) (k : KeyTarget) : (s.taken slice tag op).slotOk o k = s.slotOk o k
    ∧ (s.taken slice tag op).slotNow o k = s.slotNow o k ∧ (s.taken slice tag op).endsNaming o k.slot = s.endsNaming o k.slot := by
  obtain ⟨f, hf⟩ := taken_of_takesUp h
  rw [hf]
  exact ⟨rfl, rfl, rfl⟩

theorem taken_parent (o parent : Nat) : (s.taken slice tag op).parentOk o parent = s.parentOk o parent
    ∧ (s.taken slice tag op).guardsUp = s.guardsUp := by
  obtain ⟨f, hf⟩ := taken_of_takesUp h
  rw [hf]
  exact ⟨rfl, rfl⟩

end TakenUp

theorem slotOk_malformed {o : Nat} {k : KeyTarget} (h : k.rsvd ≠ 0 ∨ 2 < k.kind) : s.slotOk o k = false := by
  unfold State.slotOk
  dsimp only
  split
  · rcases h with h | h
    · simp [h]
    · omega
  · rcases h with h | h
    · simp [h]
    · simp [Nat.not_le.mpr h]

/-- A slot as a zeroized one stands. -/
def KeySlot.wiped (k : KeySlot) : KeySlot := { k with state := .empty, key := 0, salt := 0, keyId := 0, next := 0 }

theorem keySlot_zeroize (slice slot : Nat) (g : Bool) :
    (s.zeroize slice slot g).keySlot slice slot g = (s.keySlot slice slot g).map KeySlot.wiped := by
  have hkeys : (s.zeroize slice slot g).keySlot slice slot g = (s.modKey slice slot g KeySlot.wiped).keySlot slice slot g := by
    unfold State.zeroize
    split <;> rfl
  rw [hkeys]
  exact find_updWhere_self _ KeySlot.wiped _ fun _ hx => hx

theorem slotNow_zeroize (slice : Nat) (k : KeyTarget) :
    (s.zeroize slice k.slot (k.kind = 0)).slotNow slice k = ((s.keySlot slice k.slot (k.kind = 0)).map KeySlot.wiped).getD
      { slice, slot := k.slot, kind := k.kind } :=
  congrArg (fun o : Option KeySlot => o.getD { slice, slot := k.slot, kind := k.kind }) (keySlot_zeroize slice k.slot _)

theorem slotNow_zeroize_empty (slice : Nat) (k : KeyTarget) :
    let x := (s.zeroize slice k.slot (k.kind = 0)).slotNow slice k
    x.state = .empty ∧ x.key = 0 ∧ x.salt = 0 ∧ x.next = 0 := by
  intro x
  have hx : x = ((s.keySlot slice k.slot (k.kind = 0)).map KeySlot.wiped).getD { slice, slot := k.slot, kind := k.kind } :=
    slotNow_zeroize slice k
  rw [hx]
  cases s.keySlot slice k.slot (k.kind = 0) <;> exact ⟨rfl, rfl, rfl, rfl⟩

/-- No engine holds a zeroized stream key. -/
theorem zeroize_engines {slice slot : Nat} {l : List EngineSlot} (hl : l ∈ (s.zeroize slice slot false).keys.engines.toList) :
    ∀ x ∈ l, x.slice ≠ slice ∨ x.slot ≠ slot := by
  have hengines : (s.zeroize slice slot false).keys.engines =
      s.keys.engines.map fun l => l.filter fun x => !(x.slice = slice && x.slot = slot) := rfl
  rw [hengines, Vector.toList_map] at hl
  obtain ⟨l', -, rfl⟩ := List.mem_map.mp hl
  intro x hx
  have hkept := (List.mem_filter.mp hx).2
  by_cases hs : x.slice = slice
  · right
    intro hslot
    simp [hs, hslot] at hkept
  · exact .inl hs

theorem loadSlot_keySlot (slice kind slot : Nat) (key : BitVec 256) (salt kid : Word32) :
    (s.loadSlot slice kind slot key salt kid).keySlot slice slot (kind = 0) =
      some { slice, slot, kind, state := .loaded, key, salt := if kind = 0 then 0 else salt, keyId := kid } := by
  have hslots : (s.loadSlot slice kind slot key salt kid).keys.slots = (s.keys.slots.filter fun x =>
      !(x.slice = slice && x.slot = slot && (decide (x.kind = 0) == decide (kind = 0))))
        ++ [{ slice, slot, kind, state := .loaded, key, salt := if kind = 0 then 0 else salt, keyId := kid }] := rfl
  unfold State.keySlot
  rw [hslots, List.find?_append, List.find?_eq_none.mpr]
  · simp
  · intro x hx
    exact Bool.not_eq_true _ ▸ Bool.not_eq_true' _ ▸ (List.mem_filter.mp hx).2

/-! ## The commands -/

/-- What a KEY_INFO does once it is taken up. -/
def keyInfoAction (slice : Nat) (k : KeyTarget) (s : State) : State × Status × List Nat :=
  if !s.slotOk slice k then (s, Status.descMalformed, [])
  else (s, Status.success, [(s.slotNow slice k).kind, (s.slotNow slice k).state.code, (s.slotNow slice k).keyId.toNat,
    (s.slotNow slice k).next, if k.kind = 0 then 0 else s.endsNaming slice k.slot])

theorem exec_keyInfo (slice : Fin 512) (tag : Word32) (k : KeyTarget) :
    exec (.keyInfo slice tag k) s = .next (s.command slice tag MbxOp.keyInfo (keyInfoAction slice k)) := rfl

/-- What a KEY_ERASE does once it is taken up. -/
def keyEraseAction (slice owner : Fin 512) (k : KeyTarget) (s : State) : State × Status × List Nat :=
  if slice ≠ 0 ∧ owner ≠ slice then (s, Status.localAccess, [])
  else if !s.slotOk owner k then (s, Status.descMalformed, [])
  else if (k.kind ≠ 0 ∧ s.endsNaming owner k.slot ≠ 0)
      ∨ (k.kind = 0 ∧ s.keys.guardJobs.any fun j => j.slice = owner.val && j.parent = k.slot) then (s, Status.busy, [])
  else (s.zeroize owner k.slot (k.kind = 0), Status.success, [])

theorem exec_keyErase (slice : Fin 512) (tag : Word32) (owner : Fin 512) (k : KeyTarget) :
    exec (.keyErase slice tag owner k) s = .next (s.command slice tag MbxOp.keyErase (keyEraseAction slice owner k)) := rfl

section Erase

variable {slice owner : Fin 512} {k : KeyTarget} (hmay : slice = 0 ∨ owner = slice) (hok : s.slotOk owner k = true)
include hmay hok

theorem keyEraseAction_erases (hends : k.kind ≠ 0 → s.endsNaming owner k.slot = 0)
    (hjobs : k.kind = 0 → (s.keys.guardJobs.any fun j => j.slice = owner.val && j.parent = k.slot) = false) :
    keyEraseAction slice owner k s = (s.zeroize owner k.slot (k.kind = 0), Status.success, []) := by
  unfold keyEraseAction
  rw [if_neg (fun h => hmay.elim h.1 h.2), hok, if_neg (by decide), if_neg]
  rintro (⟨hk, hne⟩ | ⟨hk, hany⟩)
  · exact hne (hends hk)
  · rw [hjobs hk] at hany
    exact Bool.false_ne_true hany

theorem keyEraseAction_busy (hk : k.kind ≠ 0) (hends : s.endsNaming owner k.slot ≠ 0) :
    keyEraseAction slice owner k s = (s, Status.busy, []) := by
  unfold keyEraseAction
  rw [if_neg (fun h => hmay.elim h.1 h.2), hok, if_neg (by decide), if_pos (.inl ⟨hk, hends⟩)]

end Erase

theorem exec_keyImport {slice : Fin 512} {tag : Word32} (h : s.takesUp slice tag MbxOp.keyImport) (parent : Nat) (k : KeyTarget)
    (b : List Byte) :
    exec (.keyImport slice tag parent k b) s = .next ((s.taken slice tag MbxOp.keyImport).beginKey slice tag parent k (.unwrap b)) := by
  have htake : s.take slice.val tag MbxOp.keyImport = (s.taken slice tag MbxOp.keyImport, true) := take_of_takesUp h
  change execKeyImport slice tag parent k b s = _
  unfold execKeyImport
  rw [htake]

theorem exec_keyDerive {slice : Fin 512} {tag : Word32} (h : s.takesUp slice tag MbxOp.keyDerive) (parent : Nat) (k : KeyTarget)
    (l c : BitVec 256) (kid : Word32) :
    exec (.keyDerive slice tag parent k l c kid) s =
      .next ((s.taken slice tag MbxOp.keyDerive).beginKey slice tag parent k (.derive l c kid)) := by
  have htake : s.take slice.val tag MbxOp.keyDerive = (s.taken slice tag MbxOp.keyDerive, true) := take_of_takesUp h
  change execKeyDerive slice tag parent k l c kid s = _
  unfold execKeyDerive
  rw [htake]

theorem beginKey_begins {slice parent : Nat} {tag : Word32} {k : KeyTarget} (w : GuardWork) (hok : s.slotOk slice k = true)
    (hparent : s.slotOk slice ⟨0, parent, 0⟩ = true) (hloaded : s.parentOk slice parent = true)
    (hempty : (s.slotNow slice k).state = .empty) (hup : s.guardsUp ≠ []) :
    s.beginKey slice tag parent k w = s.guardBegin slice tag parent k.kind k.slot w := by
  unfold State.beginKey
  dsimp only
  rw [hok, hparent, if_neg (by decide), hloaded, if_neg (by decide), if_neg (fun hne => hne hempty),
    if_neg (by rwa [List.isEmpty_iff])]

theorem beginKey_noParent {slice parent : Nat} {tag : Word32} {k : KeyTarget} (w : GuardWork) (hok : s.slotOk slice k = true)
    (hparent : s.slotOk slice ⟨0, parent, 0⟩ = true) (hloaded : s.parentOk slice parent = false) :
    s.beginKey slice tag parent k w = s.respond (slice, tag) Status.localAccess [] := by
  unfold State.beginKey
  dsimp only
  rw [hok, hparent, if_neg (by decide), hloaded]
  rfl

theorem beginKey_malformed {slice parent : Nat} {tag : Word32} {k : KeyTarget} (w : GuardWork) (hok : s.slotOk slice k = false) :
    s.beginKey slice tag parent k w = s.respond (slice, tag) Status.descMalformed [] := by
  unfold State.beginKey
  dsimp only
  rw [hok]
  rfl

/-- A command that is only answered. -/
theorem responded {slice : Nat} {tag : Word32} {op : Nat} (h : s.takesUp slice tag op) (st : Status) :
    ((s.taken slice tag op).respond (slice, tag) st []).hasAnswer slice tag st []
      ∧ s.touches ((s.taken slice tag op).respond (slice, tag) st []) [.mailboxes] := by
  obtain ⟨o, ho⟩ := respond_taken h rfl st []
  rw [ho]
  exact ⟨answer_hasAnswer _ slice tag o st 0 [], touches_trans (taken_touches h) (answer_touches slice tag o st 0 [])⟩

/-! ## The queue of the Guard Cipher Engines (R423) -/

/-- One job's turn to put a block into the queue. -/
def State.feedOne (s : State) (j : GuardJob) : State :=
  if j.queued || !guardAdmits s.keys.guardQueue j.core then s
  else { s with keys.guardQueue := s.keys.guardQueue ++ [s.guardEntry j],
                keys.guardJobs := updWhere (fun x => x.id = j.id) (fun x => { x with queued := true }) s.keys.guardJobs }

theorem feedGuard_eq : s.feedGuard = s.keys.guardJobs.foldl State.feedOne s := rfl

theorem feedOne_queued {j : GuardJob} (h : j.queued = true) : s.feedOne j = s := by
  unfold State.feedOne
  rw [h]
  rfl

theorem feedAll_queued (l : List GuardJob) (h : ∀ j ∈ l, j.queued = true) : l.foldl State.feedOne s = s := by
  induction l with
  | nil => rfl
  | cons j l ih =>
    rw [List.foldl_cons, feedOne_queued (h j (List.mem_cons_self ..))]
    exact ih fun x hx => h x (List.mem_cons_of_mem _ hx)

/-- The queue keeps its limits: 64 blocks, 16 of a core, 48 of the cores other than the Security Core. -/
def GuardLimits (core : Nat) (q : List GuardEntry) : Prop :=
  q.length ≤ 64 ∧ (q.filter fun e => e.core = core).length ≤ 16 ∧ (q.filter fun e => e.core ≠ 0).length ≤ 48

theorem guardLimits_admitted {core c : Nat} {q : List GuardEntry} {e : GuardEntry} (hq : GuardLimits core q) (hadmit : guardAdmits q c = true)
    (he : e.core = c) : GuardLimits core (q ++ [e]) := by
  obtain ⟨hlen, hcore, hother⟩ := hq
  simp only [guardAdmits, Bool.and_eq_true, Bool.or_eq_true, decide_eq_true_eq] at hadmit
  obtain ⟨⟨hroom, hmine⟩, hshare⟩ := hadmit
  refine ⟨?_, ?_, ?_⟩
  · rw [List.length_append, List.length_singleton]
    omega
  · rw [List.filter_append, List.length_append]
    by_cases hc : e.core = core
    · have hcc : c = core := he.symm.trans hc
      subst hcc
      simp only [hc, decide_true, List.filter_cons_of_pos, List.filter_nil, List.length_singleton]
      omega
    · simpa [hc] using hcore
  · rw [List.filter_append, List.length_append]
    by_cases hc : e.core = 0
    · simpa [hc] using hother
    · have hlt : (q.filter fun e => e.core ≠ 0).length < 48 := hshare.resolve_left fun h0 => hc (he.trans h0)
      simp only [hc, ne_eq, not_false_eq_true, decide_true, List.filter_cons_of_pos, List.filter_nil, List.length_singleton]
      simp only [ne_eq] at hlt
      omega

/-- What feeding keeps of a state that it began in. -/
def State.FedFrom (s : State) (core : Nat) (t : State) : Prop :=
  GuardLimits core t.keys.guardQueue ∧ s.keys.guardQueue <+: t.keys.guardQueue ∧ t.keys.slots = s.keys.slots
    ∧ t.keys.guardOut = s.keys.guardOut

theorem fedFrom_feedOne {core : Nat} (t : State) (j : GuardJob) (h : s.FedFrom core t) : s.FedFrom core (t.feedOne j) := by
  obtain ⟨hlimits, hprefix, hslots, hout⟩ := h
  unfold State.feedOne
  split
  · exact ⟨hlimits, hprefix, hslots, hout⟩
  · rename_i hgo
    have hadmit : guardAdmits t.keys.guardQueue j.core = true := by
      simp only [Bool.or_eq_true, Bool.not_eq_true', not_or, Bool.not_eq_false] at hgo
      exact hgo.2
    exact ⟨guardLimits_admitted hlimits hadmit rfl, hprefix.trans (List.prefix_append ..), hslots, hout⟩

theorem fedFrom_feedGuard {core : Nat} (h : GuardLimits core s.keys.guardQueue) : s.FedFrom core s.feedGuard := by
  rw [feedGuard_eq]
  exact foldl_keeps (P := s.FedFrom core) _ fedFrom_feedOne ⟨h, List.prefix_rfl, rfl, rfl⟩

theorem feedGuard_keeps : s.feedGuard.keys.slots = s.keys.slots ∧ s.feedGuard.keys.guardOut = s.keys.guardOut := by
  rw [feedGuard_eq]
  refine foldl_keeps (P := fun t : State => t.keys.slots = s.keys.slots ∧ t.keys.guardOut = s.keys.guardOut) _ (fun t j h => ?_) ⟨rfl, rfl⟩
  unfold State.feedOne
  split <;> exact h

/-- The job that a sequence of the Security Core begins with. -/
def State.newJob (s : State) (slice : Nat) (tag : Word32) (parent kind slot : Nat) (w : GuardWork) : GuardJob :=
  { id := s.keys.guardNext, slice, tag, parent, kind, slot, work := w, left := w.blocks kind }

theorem guardBegin_queues {slice parent kind slot : Nat} {tag : Word32} {w : GuardWork}
    (hjobs : ∀ x ∈ s.keys.guardJobs, x.queued = true ∧ x.id < s.keys.guardNext) (hadmit : guardAdmits s.keys.guardQueue 0 = true) :
    s.guardBegin slice tag parent kind slot w =
      { s with keys.guardNext := s.keys.guardNext + 1,
               keys.guardJobs := s.keys.guardJobs ++ [{ s.newJob slice tag parent kind slot w with queued := true }],
               keys.guardQueue := s.keys.guardQueue ++ [s.guardEntry (s.newJob slice tag parent kind slot w)] } := by
  have hbegin : s.guardBegin slice tag parent kind slot w =
      (s.keys.guardJobs ++ [s.newJob slice tag parent kind slot w]).foldl State.feedOne
        { s with keys.guardNext := s.keys.guardNext + 1,
                 keys.guardJobs := s.keys.guardJobs ++ [s.newJob slice tag parent kind slot w] } := rfl
  have hupd : updWhere (fun x : GuardJob => x.id = s.keys.guardNext) (fun x => { x with queued := true })
      (s.keys.guardJobs ++ [s.newJob slice tag parent kind slot w]) =
        s.keys.guardJobs ++ [{ s.newJob slice tag parent kind slot w with queued := true }] := by
    unfold updWhere
    rw [List.map_append]
    refine congrArg₂ _ ?_ ?_
    · refine (List.map_congr_left fun x hx => ?_).trans (List.map_id _)
      have hlt := (hjobs x hx).2
      exact if_neg (by simpa using hlt.ne)
    · exact congrArg (fun x => [x]) (if_pos (decide_eq_true rfl))
  rw [hbegin, List.foldl_append, feedAll_queued _ fun x hx => (hjobs x hx).1, List.foldl_cons, List.foldl_nil]
  unfold State.feedOne
  rw [if_neg]
  · exact congrArg (fun l => ({ s with
      keys.guardNext := s.keys.guardNext + 1, keys.guardJobs := l,
      keys.guardQueue := s.keys.guardQueue ++ [s.guardEntry (s.newJob slice tag parent kind slot w)] } : State)) hupd
  · change ¬(false || !guardAdmits s.keys.guardQueue 0) = true
    rw [hadmit]
    decide

/-! ## One operation of an engine -/

section Engine

variable {e : Fin 4} {g : GuardEntry} {rest : List GuardEntry} {j : GuardJob} (hqueue : s.keys.guardQueue = g :: rest)
  (hjob : s.keys.guardJobs.find? (fun x => x.id = g.job) = some j) (hin : s.keys.guardOut.getLsbD e = false)
  (hdrbg : s.keys.drbgHalted = false)
include hqueue hjob hin hdrbg

theorem exec_guardCipherOp (disagree : Bool) : exec (.guardCipherOp e disagree) s =
    (let t : State := { s with keys.guardQueue := rest, keys.guardJobs := s.keys.guardJobs.filter fun x => x.id ≠ g.job }
    if disagree then .next (t.guardFault e j)
    else if j.left ≤ 1 then .next (t.feedGuard.guardDone j)
    else .next ({ t with keys.guardJobs := t.keys.guardJobs ++ [{ j with left := j.left - 1, queued := false }] } : State).feedGuard) := by
  change execGuardCipherOp e disagree s = _
  unfold execGuardCipherOp
  rw [hqueue]
  dsimp only
  rw [hin, hdrbg, if_neg (by decide), hjob]

end Engine

theorem guardFails_keys (j : GuardJob) : (s.guardFails j).keys = s.keys := (guardFails_moves s j).frame .keys (by decide)

/-- A fault takes the engine out, and is told once; no slot changes. -/
theorem guardFault_effect (e : Fin 4) (j : GuardJob) : (s.guardFault e j).keys.guardOut.getLsbD e = true
    ∧ (s.guardFault e j).keys.slots = s.keys.slots
    ∧ ∃ ev, (s.guardFault e j).queue.events = s.queue.events ++ [ev] ∧ ev.slice = 0 ∧ ev.code = EventCode.cipherOut ∧ ev.object = e.val := by
  let u : State := (({ s with keys.guardOut := s.keys.guardOut ||| (1 <<< e.val) } : State).bump .secCipherStatGuardFaults 0).raise
    { slice := 0, code := EventCode.cipherOut, object := e }
  have hfault : s.guardFault e j = if (u.guardFails j).guardsUp.isEmpty then
      (u.guardFails j).keys.guardJobs.foldl (fun s j => s.guardFails j)
        { u.guardFails j with keys.guardQueue := [], keys.guardJobs := [] }
    else (u.guardFails j).feedGuard := rfl
  have hkeys : ((s.guardFault e j).keys.guardOut = u.keys.guardOut ∧ (s.guardFault e j).keys.slots = u.keys.slots) := by
    have hstart := guardFails_keys (s := u) j
    rw [hfault]
    split
    · have hfold : ∀ t : State, (t.keys.guardOut = u.keys.guardOut ∧ t.keys.slots = u.keys.slots) → ∀ l : List GuardJob,
          ((l.foldl (fun s j => s.guardFails j) t).keys.guardOut = u.keys.guardOut
            ∧ (l.foldl (fun s j => s.guardFails j) t).keys.slots = u.keys.slots) := fun t ht l =>
        foldl_keeps (P := fun t : State => t.keys.guardOut = u.keys.guardOut ∧ t.keys.slots = u.keys.slots) l
          (fun t j ht => by rw [guardFails_keys]; exact ht) ht
      exact hfold _ ⟨congrArg (·.guardOut) hstart, congrArg (·.slots) hstart⟩ _
    · obtain ⟨hslots, hout⟩ := feedGuard_keeps (s := u.guardFails j)
      exact ⟨hout.trans (congrArg (·.guardOut) hstart), hslots.trans (congrArg (·.slots) hstart)⟩
  have hqueue : (s.guardFault e j).queue = u.queue := by
    rw [hfault]
    exact (State.Moves.ite ((guardFails_moves u j).mono.then (setKeys_moves _ _) |>.foldl fun s j => (guardFails_moves ..).mono)
      ((guardFails_moves u j).mono.then (feedGuard_moves _)) : u.Moves _ [.out, .mailboxes, .keys]).frame .queue (by decide)
  refine ⟨?_, hkeys.2, _, congrArg (·.events) hqueue, rfl, rfl, rfl⟩
  rw [hkeys.1]
  have hbit : ∀ (v : BitVec 4) (e : Fin 4), (v ||| (1 <<< e.val)).getLsbD e = true := by decide
  exact hbit _ _

/-! ## What a finished sequence does (R420) -/

theorem guardDone_loads {j : GuardJob} {p : KeySlot} {key : BitVec 256} {salt kid : Word32}
    (hparent : s.keySlot j.slice j.parent true = some p) (hresult : j.work.result j.kind p.key = .ok (key, salt, kid))
    (hempty : (s.slotNow j.slice ⟨j.kind, j.slot, 0⟩).state = .empty) (hkid : s.keyIdTaken j.kind kid = false) :
    s.guardDone j = (s.loadSlot j.slice j.kind j.slot key salt kid).respond (j.slice, j.tag) Status.success [] := by
  have hfinish : s.finishJob j = (s.loadSlot j.slice j.kind j.slot key salt kid).respond (j.slice, j.tag) Status.success [] := by
    unfold State.finishJob
    rw [hparent]
    dsimp only
    rw [hresult]
    dsimp only
    rw [if_neg (fun hne => hne hempty), hkid]
    rfl
  unfold State.guardDone
  cases hwork : j.work with
  | unwrap b => exact hfinish
  | derive l c k => exact hfinish
  | message p n r =>
    rw [hwork] at hresult
    cases hresult
  | provision p n o sl k key =>
    rw [hwork] at hresult
    cases hresult

theorem guardDone_fails {j : GuardJob} {p : KeySlot} {c : Status} {b : List Byte} (hwork : j.work = .unwrap b)
    (hparent : s.keySlot j.slice j.parent true = some p) (hresult : j.work.result j.kind p.key = .error c) :
    s.guardDone j = s.respond (j.slice, j.tag) c [] := by
  have hfinish : s.finishJob j = s.respond (j.slice, j.tag) c [] := by
    unfold State.finishJob
    rw [hparent]
    dsimp only
    rw [hresult]
  unfold State.guardDone
  rw [hwork]
  exact hfinish

theorem provision_refused {p n slot : Nat} {owner : Fin 512} {kid : Word32} {key : BitVec 256} (h : s.provisionOk p n owner slot = false) :
    s.provision p n owner slot kid key = s.advanceFree.emit (.spdm p n (.error (s.freeNow % 256) 0)) := by
  unfold State.provision
  rw [h]
  rfl

theorem refusal_touches (o : Output) : s.touches (s.advanceFree.emit o) [.out, .free] :=
  ((advanceFree_moves s).mono.then (emit_moves ..) : s.Moves (s.advanceFree.emit o) [.out, .free]).frame

end Sys2Proof.Machine

open Sys2Proof Sys2Proof.Machine

/-- Settles O41: a key command's checks fall as its clause says; the queue's limits hold because a block enters only where it is
admitted. -/
theorem keysAreLoadedAndErased : Obligations.KeysAreLoadedAndErased := by
  refine ⟨?_, ?_, ?_, ?_, ?_, ?_, ?_, ?_, ?_, ?_, ?_, ?_, ?_, ?_, ?_, ?_, ?_, ?_, ?_, ?_, ?_⟩
  · intro slice tag k s h hok
    obtain ⟨tok, tnow, tends⟩ := taken_slots h slice k
    have hact : keyInfoAction slice k (s.taken slice tag MbxOp.keyInfo) = (s.taken slice tag MbxOp.keyInfo, Status.success,
        [(s.slotNow slice k).kind, (s.slotNow slice k).state.code, (s.slotNow slice k).keyId.toNat, (s.slotNow slice k).next,
          if k.kind = 0 then 0 else s.endsNaming slice k.slot]) := by
      unfold keyInfoAction
      rw [tok, hok, tnow, tends, if_neg (by decide)]
    exact ⟨_, _, exec_keyInfo slice tag k, command_hasAnswer h hact, fun hk => if_neg hk,
      command_touches h hact (by decide) (touches_refl _)⟩
  · intro slice owner tag k s h hmay hok hends hjobs
    obtain ⟨tok, tnow, tends⟩ := taken_slots h owner k
    have hact := keyEraseAction_erases (s := s.taken slice tag MbxOp.keyErase) hmay (tok.trans hok) (fun hk => tends.trans (hends hk))
      (fun hk => by rw [taken_keys h]; exact hjobs hk)
    have hkeys : (s.command slice tag MbxOp.keyErase (keyEraseAction slice owner k)).keys =
        ((s.taken slice tag MbxOp.keyErase).zeroize owner k.slot (k.kind = 0)).keys := command_keys h hact
    have hnow : (s.command slice tag MbxOp.keyErase (keyEraseAction slice owner k)).slotNow owner k =
        ((s.taken slice tag MbxOp.keyErase).zeroize owner k.slot (k.kind = 0)).slotNow owner k := by
      simp only [State.slotNow, State.keySlot, hkeys]
    obtain ⟨hstate, hkey, hsalt, hnext⟩ := slotNow_zeroize_empty (s := s.taken slice tag MbxOp.keyErase) owner k
    rw [← hnow] at hstate hkey hsalt hnext
    refine ⟨_, exec_keyErase slice tag owner k, hstate, hkey, hsalt, hnext, command_hasAnswer h hact, fun hk l hl => ?_,
      command_touches h hact (by decide) (zeroize_moves ..).mono.frame⟩
    rw [hkeys, decide_eq_false hk] at hl
    exact zeroize_engines hl
  · intro slice owner tag k s h hmay hok hk hends
    obtain ⟨tok, tnow, tends⟩ := taken_slots h owner k
    have hact := keyEraseAction_busy (s := s.taken slice tag MbxOp.keyErase) hmay (tok.trans hok) hk (by rw [tends]; exact hends)
    exact ⟨_, exec_keyErase slice tag owner k, command_hasAnswer h hact, command_touches h hact (by decide) (touches_refl _)⟩
  · intro slice tag parent k b s h hok hparent hloaded hempty hup
    obtain ⟨tok, tnow, -⟩ := taken_slots h slice k
    obtain ⟨tpok, -, -⟩ := taken_slots h slice ⟨0, parent, 0⟩
    obtain ⟨tparent, tup⟩ := taken_parent h slice parent
    rw [exec_keyImport h]
    exact congrArg _ (beginKey_begins _ (tok.trans hok) (tpok.trans hparent) (tparent.trans hloaded) (by rw [tnow]; exact hempty)
      (by rw [tup]; exact hup))
  · intro slice tag parent k l c kid s h hok hparent hloaded hempty hup
    obtain ⟨tok, tnow, -⟩ := taken_slots h slice k
    obtain ⟨tpok, -, -⟩ := taken_slots h slice ⟨0, parent, 0⟩
    obtain ⟨tparent, tup⟩ := taken_parent h slice parent
    rw [exec_keyDerive h]
    exact congrArg _ (beginKey_begins _ (tok.trans hok) (tpok.trans hparent) (tparent.trans hloaded) (by rw [tnow]; exact hempty)
      (by rw [tup]; exact hup))
  · intro slice tag parent k b s h hok hparent hloaded
    obtain ⟨tok, -, -⟩ := taken_slots h slice k
    obtain ⟨tpok, -, -⟩ := taken_slots h slice ⟨0, parent, 0⟩
    obtain ⟨tparent, -⟩ := taken_parent h slice parent
    refine ⟨_, ?_, responded h Status.localAccess⟩
    rw [exec_keyImport h]
    exact congrArg _ (beginKey_noParent _ (tok.trans hok) (tpok.trans hparent) (tparent.trans hloaded))
  · intro slice tag parent k b s h hbad
    refine ⟨_, ?_, responded h Status.descMalformed⟩
    rw [exec_keyImport h]
    exact congrArg _ (beginKey_malformed _ (slotOk_malformed hbad))
  · rintro slice parent kind slot tag w s j hjobs hadmit rfl
    exact guardBegin_queues hjobs hadmit
  · intro s core hlen hcore hother
    obtain ⟨⟨hlen', hcore', hother'⟩, hprefix, hslots, -⟩ := fedFrom_feedGuard (core := core) ⟨hlen, hcore, hother⟩
    exact ⟨hlen', hcore', hother', hprefix, hslots, (feedGuard_moves s).frame⟩
  · intro e s g rest j hqueue hjob hin hdrbg hleft
    exact (exec_guardCipherOp hqueue hjob hin hdrbg false).trans (if_neg (Nat.not_le.mpr hleft))
  · intro e s g rest j hqueue hjob hin hdrbg hleft
    exact (exec_guardCipherOp hqueue hjob hin hdrbg false).trans (if_pos hleft)
  · intro s j p n slot r owner kid key
    constructor
    · intro hwork
      unfold State.guardDone
      rw [hwork]
    · intro hwork
      unfold State.guardDone
      rw [hwork]
  · intro s j p key salt kid hparent hresult hempty hkid
    exact guardDone_loads hparent hresult hempty hkid
  · intro s j p c b hwork hparent hresult
    exact guardDone_fails hwork hparent hresult
  · intro e s g rest j hqueue hjob hin hdrbg
    have hexec := exec_guardCipherOp hqueue hjob hin hdrbg true
    obtain ⟨hout, hslots, ev, hev, hslice, hcode, hobject⟩ := guardFault_effect
      (s := { s with keys.guardQueue := rest, keys.guardJobs := s.keys.guardJobs.filter fun x => x.id ≠ g.job }) e j
    exact ⟨_, ev, hexec, hout, hslots, hev, hslice, hcode, hobject, ((setKeys_moves s _).mono.then (guardFault_moves ..) :
      s.Moves _ [.keys, .regs, .queue, .mailboxes, .out]).frame⟩
  · intro s slice kind slot key salt kid
    exact ⟨_, loadSlot_keySlot slice kind slot key salt kid, rfl, rfl, rfl, rfl, rfl, fun hk => if_neg hk⟩
  · intro s hrun
    refine ⟨_, _, if_neg (by rw [hrun]; decide), rfl, rfl, rfl, rfl, rfl, ((setKeys_moves s _).mono.then (raise_moves ..) :
      s.Moves _ [.keys, .queue]).frame⟩
  · intro s hhalt hdue
    have hgo : ¬(!s.keys.drbgHalted ∨ !s.due s.keys.drbgNext) := by
      rw [hhalt, hdue]
      decide
    constructor
    · exact ⟨({ s with keys.drbgHalted := false } : State).raise { slice := 0, code := EventCode.drbgHalt }, _, if_neg hgo, rfl, rfl, rfl,
        rfl, rfl, ((setKeys_moves s _).mono.then (raise_moves ..) : s.Moves _ [.keys, .queue]).frame⟩
    · exact ⟨_, if_neg hgo, hhalt, (setKeys_moves s _).frame⟩
  · intro p n owner slot kid key s hin hup
    have hopen : s.openMessage p n (.provision p n owner slot kid key) = s.guardBegin 512 0 0 0 0 (.provision p n owner slot kid key) :=
      if_neg (by rwa [List.isEmpty_iff])
    exact (if_pos hin).trans (congrArg _ hopen)
  · intro p n owner slot kid key s hout
    exact ⟨_, _, if_neg (by rw [hout]; decide), rfl, refusal_touches _⟩
  · intro p n owner slot kid key s
    refine ⟨fun hok => if_pos hok, fun hbad => ⟨s.freeNow % 256, ?_, ?_⟩⟩
    · rw [provision_refused hbad]
      rfl
    · rw [provision_refused hbad]
      exact refusal_touches _

end

section
/-! PROOFS. Owner banks, the trees of the identity signature, reports, and the responder. -/

set_option Elab.async false

namespace Sys2Proof.Machine

variable {s : State}

/-! ## Owner banks (R452) -/

/-- What an OWNER_ENROLL does once it is taken up. -/
def enrollAction (slice : Fin 512) (e h n : List Byte) (s : State) : State × Status × List Nat :=
  if slice ≠ 0 then (s, Status.localAccess, [])
  else if 4 ≤ s.boot.ownerDigests.length then (s, Status.noResources, [])
  else if s.emergency then (s, Status.fwDeferred, [])
  else if s.transferReason (Sha.sha384 e) (Sha.sha384 h) n ≠ 0 then
    ({ s with boot.failReason := s.transferReason (Sha.sha384 e) (Sha.sha384 h) n, boot.failObject := 4 }, Status.authFail, [])
  else ({ s with boot.ownerDigests := s.boot.ownerDigests ++ [(Sha.sha384 e, Sha.sha384 h)] }, Status.success,
    [s.boot.ownerDigests.length + 1])

theorem exec_ownerEnroll (slice : Fin 512) (tag : Word32) (e h n : List Byte) :
    exec (.ownerEnroll slice tag e h n) s = .next (s.command slice tag MbxOp.ownerEnroll (enrollAction slice e h n)) := rfl

section TakenUp

variable {slice : Nat} {tag : Word32} {op : Nat} (h : s.takesUp slice tag op)
include h

theorem taken_boot : (s.taken slice tag op).boot = s.boot := taken_touches h .boot (by decide)

theorem taken_power : (s.taken slice tag op).power = s.power := taken_touches h .power (by decide)

theorem taken_emergency : (s.taken slice tag op).emergency = s.emergency := by simp only [State.emergency, taken_power h]

theorem taken_transferReason (e k : BitVec 384) (n : List Byte) : (s.taken slice tag op).transferReason e k n = s.transferReason e k n := by
  simp only [State.transferReason, taken_boot h]

end TakenUp

section Enroll

variable {e h n : List Byte}

theorem enrollAction_enrolls (hreason : s.transferReason (Sha.sha384 e) (Sha.sha384 h) n = 0) (hroom : s.boot.ownerDigests.length < 4)
    (hcalm : s.emergency = false) : enrollAction 0 e h n s =
      ({ s with boot.ownerDigests := s.boot.ownerDigests ++ [(Sha.sha384 e, Sha.sha384 h)] }, Status.success,
        [s.boot.ownerDigests.length + 1]) := by
  unfold enrollAction
  rw [if_neg (by decide), if_neg (Nat.not_le.mpr hroom), hcalm, if_neg (by decide), if_neg (fun hne => hne hreason)]

theorem enrollAction_fails (hreason : s.transferReason (Sha.sha384 e) (Sha.sha384 h) n ≠ 0) (hroom : s.boot.ownerDigests.length < 4)
    (hcalm : s.emergency = false) : enrollAction 0 e h n s =
      ({ s with boot.failReason := s.transferReason (Sha.sha384 e) (Sha.sha384 h) n, boot.failObject := 4 }, Status.authFail, []) := by
  unfold enrollAction
  rw [if_neg (by decide), if_neg (Nat.not_le.mpr hroom), hcalm, if_neg (by decide), if_pos hreason]

theorem enrollAction_full (hfull : 4 ≤ s.boot.ownerDigests.length) : enrollAction 0 e h n s = (s, Status.noResources, []) := by
  unfold enrollAction
  rw [if_neg (by decide), if_pos hfull]

end Enroll

/-! ## The LMS state (R456, R457) -/

/-- The new tree certified, or the flash found bad. -/
def State.treeDone (s : State) (k : Nat) (good : Bool) : State :=
  if good then
    { s.advanceFree with
      boot.lms := vset s.boot.lms (1 - k) { next := (vget s.boot.lms k {}).next + 1, seq := (vget s.boot.lms k {}).seq + 1 },
      boot.generating := false, boot.bottomUsed := 0, boot.bottomReady := true }
  else
    { s.advanceFree with
      boot.lms := vset s.boot.lms (1 - k) { good := false }, boot.generating := false, boot.lmsStuck := true, boot.refused := true }

theorem exec_lmsTreeReady {k : Nat} (huse : s.boot.lmsInUse = some k) (hgen : s.boot.generating = true) (hreset : s.fw.resetting = false)
    (hdrbg : s.keys.drbgHalted = false) (hleft : (vget s.boot.lms k {}).next < topIndices) :
    exec .lmsTreeReady s = .next (s.treeDone k ((Config.freeBits s.freeCount).getLsbD 0)) := by
  change execLmsTreeReady s = _
  unfold execLmsTreeReady
  rw [huse]
  dsimp only
  rw [hgen, hreset, hdrbg, if_neg (by simpa using hleft)]
  unfold State.treeDone
  split <;> rfl

theorem nextTree_generates (htop : s.boot.topNext < 1048576) (hstuck : s.boot.lmsStuck = false) :
    s.nextTree = { s with boot.generating := true } := by
  unfold State.nextTree
  rw [if_pos ⟨htop, by rw [hstuck]; rfl⟩]

theorem nextTree_refuses (h : 1048576 ≤ s.boot.topNext ∨ s.boot.lmsStuck = true) : s.nextTree = { s with boot.refused := true } := by
  unfold State.nextTree
  rw [if_neg]
  rintro ⟨htop, hstuck⟩
  rcases h with h | h
  · exact absurd htop (Nat.not_lt.mpr h)
  · rw [h] at hstuck
    exact absurd hstuck (by decide)

/-! ## The identity signature (R454) -/

theorem hssSignature_length (k : BitVec 384) (top used : Nat) (b : List Byte) : (hssSignature k top used b).length = 5396 := by
  simp [hssSignature]

theorem hssSignature_key (k : BitVec 384) (top used : Nat) (b : List Byte) :
    ((hssSignature k top used b).drop 2832).take 56 = (Config.bottomKey k top).toList := by
  have hsplit : hssSignature k top used b = ([0, 0, 0, 1] ++ (Config.topSign k top (Config.bottomKey k top)).toList)
      ++ ((Config.bottomKey k top).toList ++ (Config.bottomSign k top used b).toList) := List.append_assoc _ _ _
  rw [hsplit, List.drop_left' (by simp), List.take_left' (by simp)]

/-! ## Reports (R455, R458) -/

/-- The reports of the last second. -/
def State.recentReports (s : State) : List Nat := s.boot.reports.filter fun t => s.time.now < t + 1000000000

/-- The body of the report that is answered from the state. -/
def State.reportText (s : State) (nonce : BitVec 256) (mask : Word16) : List Byte :=
  Config.reportBody s.coord.toNat nonce.toNat (s.measurements mask.toNat) s.time.now (s.boot.topNext - 1) s.boot.bottomUsed

/-- The report that is answered from the state. -/
def State.signedReport (s : State) (p : Fin 2) (nonce : BitVec 256) (mask : Word16) : Output :=
  .spdm p 0 (.report s.coord Config.moduleSerial nonce (s.measurements mask.toNat) s.time.now (s.boot.topNext - 1) s.boot.bottomUsed
    (Config.ecdsaSign s.keys.deviceSecret (Sha.sha384 (s.reportText nonce mask)).toNat s.freeNow)
    (hssSignature s.keys.deviceSecret (s.boot.topNext - 1) s.boot.bottomUsed (s.reportText nonce mask)))

/-- A bottom index used, and the report noted. -/
def State.indexUsed (s : State) : State :=
  { s.advanceFree with boot.reports := s.recentReports ++ [s.time.now], boot.bottomUsed := s.boot.bottomUsed + 1,
                       boot.bottomReady := decide (s.boot.bottomUsed + 1 < bottomIndices) }

theorem exec_attestationReport {p : Fin 2} {nonce : BitVec 256} {mask : Word16} (hready : s.boot.bottomReady = true)
    (hfew : s.recentReports.length < 8) : exec (.attestationReport p nonce mask) s =
      .next ((if s.indexUsed.boot.bottomReady then s.indexUsed else s.indexUsed.nextTree).emit (s.signedReport p nonce mask)) := by
  change execAttestationReport p nonce mask s = _
  unfold execAttestationReport
  dsimp only
  rw [hready, if_neg (by decide)]
  exact if_neg (Nat.not_le.mpr hfew)

theorem exec_attestationReport_busy {p : Fin 2} {nonce : BitVec 256} {mask : Word16} (hready : s.boot.bottomReady = true)
    (hmany : 8 ≤ s.recentReports.length) : exec (.attestationReport p nonce mask) s = .next (s.emit (.spdm p 0 (.error spdmBusy 0))) := by
  change execAttestationReport p nonce mask s = _
  unfold execAttestationReport
  dsimp only
  rw [hready, if_neg (by decide)]
  exact if_pos hmany

theorem exec_attestationReport_unready {p : Fin 2} {nonce : BitVec 256} {mask : Word16} (hready : s.boot.bottomReady = false) :
    exec (.attestationReport p nonce mask) s = if s.boot.generating then .next (s.emit (.spdm p 0 (.error spdmNotReady 21)))
      else .next (({ s with boot.refused := true } : State).emit (.spdm p 0 (.error spdmUnspecified 0))) := by
  change execAttestationReport p nonce mask s = _
  unfold execAttestationReport
  dsimp only
  rw [hready, if_pos (by decide)]

theorem indexUsed_moves : s.Moves s.indexUsed [.boot, .free] :=
  (advanceFree_moves s).mono.then (setBoot_moves _ _)

theorem indexUsed_ready : s.indexUsed.boot.bottomReady = decide (s.boot.bottomUsed + 1 < bottomIndices) := rfl

theorem indexUsed_topNext : s.indexUsed.boot.topNext = s.boot.topNext := rfl

theorem answered_report_touches {t : State} (h : s.Moves t [.boot, .free]) (o : Output) : s.touches (t.emit o) [.boot, .out, .free] :=
  (h.mono.then (emit_moves ..) : s.Moves (t.emit o) [.boot, .out, .free]).frame

/-! ## The responder (R459 to R461) -/

/-- A session begun. -/
def State.sessionBegun (s : State) (p n : Nat) : State := { s with boot.sessions := s.boot.sessions ++ [{ port := p, session := n }] }

theorem spdmServe_keyExchange {p n : Nat} (hroom : (s.sessionsOf p).length < 4)
    (hnew : (s.boot.sessions.any fun x => x.port = p && x.session = n) = false) :
    s.spdmServe p n .keyExchange = (s.sessionBegun p n).spdmSigned p n [] := by
  refine if_neg ?_
  rintro (h | h)
  · exact absurd hroom (Nat.not_lt.mpr h)
  · rw [hnew] at h
    exact Bool.false_ne_true h

/-- A session that is finished. -/
def Session.finished (root : Option (BitVec 384)) (x : Session) : Session := { x with established := true, root }

theorem spdmServe_finish {p n : Nat} {root : Option (BitVec 384)} (h : (s.boot.sessions.any fun x => x.port = p && x.session = n) = true) :
    s.spdmServe p n (.finish root) = ({ s with
      boot.sessions := updWhere (fun x => x.port = p && x.session = n) (Session.finished root) s.boot.sessions } : State).emit
        (.spdm p n (.answer [])) := if_pos h

theorem mem_updWhere_of {α : Type} {p : α → Bool} {f : α → α} {l : List α} {x : α} (hx : x ∈ l) (hp : p x = true) :
    f x ∈ updWhere p f l :=
  List.mem_map.mpr ⟨x, hx, if_pos hp⟩

theorem secureStream_up {p : Fin 2} {k : Fin 4} {x : IdeStream} (hup : (s.hostPort p).up = true) :
    s.secureStream p k x = s.modHost p fun h => { h with ide := vset h.ide k { x with state := 1 } } := by
  have hstill : ((s.modHost p fun h => { h with ide := vset h.ide k { x with state := 1 } }).hostPort p).up = true := by
    rw [hostPort_modHost]
    exact hup
  refine if_neg fun h => ?_
  rw [hstill] at h
  exact absurd h.1 (by decide)

end Sys2Proof.Machine

open Sys2Proof Sys2Proof.Machine

/-- Settles O42: what is enrolled, certified or signed is written out once for each outcome, and each clause reads it off. -/
theorem identityAnswers : Obligations.IdentityAnswers := by
  refine ⟨?_, ?_, ?_, ?_, ?_, ?_, ?_, ?_, ?_, ?_, ?_, ?_, ?_, ?_, ?_, ?_, ?_, ?_, ?_, ?_, ?_, ?_, ?_, ?_, ?_, ?_, ?_, ?_⟩
  · intro tag e h n s htake hreason hroom hcalm
    have hact := enrollAction_enrolls (s := s.taken 0 tag MbxOp.ownerEnroll) (e := e) (h := h) (n := n)
      ((taken_transferReason htake ..).trans hreason) (by rw [taken_boot htake]; exact hroom) ((taken_emergency htake).trans hcalm)
    rw [taken_boot htake] at hact
    refine ⟨_, exec_ownerEnroll 0 tag e h n, ?_, command_hasAnswer htake hact, command_touches htake hact (by decide) ?_⟩
    · exact (congrArg (fun t : State => t.boot) (command_eq_answer htake hact)).trans rfl
    · intro p hp
      cases p <;> simp [State.agree] at hp ⊢
  · intro s e h n hnone
    unfold State.transferReason
    rw [hnone]
    rfl
  · intro slice tag e h n s htake hslice
    have hact : enrollAction slice e h n (s.taken slice tag MbxOp.ownerEnroll) = (_, Status.localAccess, []) := if_pos hslice
    exact ⟨_, exec_ownerEnroll slice tag e h n, command_hasAnswer htake hact, command_touches htake hact (by decide) (touches_refl _)⟩
  · intro tag e h n s htake hroom hcalm hreason
    have hact := enrollAction_fails (s := s.taken 0 tag MbxOp.ownerEnroll) (e := e) (h := h) (n := n)
      (by rw [taken_transferReason htake]; exact hreason) (by rw [taken_boot htake]; exact hroom) ((taken_emergency htake).trans hcalm)
    refine ⟨_, exec_ownerEnroll 0 tag e h n, ?_, command_hasAnswer htake hact,
      command_touches htake hact (by decide) (setBoot_moves _ _).mono.frame⟩
    refine (congrArg (fun t : State => t.boot.ownerDigests) (command_eq_answer htake hact)).trans ?_
    change (s.taken 0 tag MbxOp.ownerEnroll).boot.ownerDigests = _
    rw [taken_boot htake]
  · intro tag e h n s htake hfull
    have hact := enrollAction_full (s := s.taken 0 tag MbxOp.ownerEnroll) (e := e) (h := h) (n := n)
      (by rw [taken_boot htake]; exact hfull)
    exact ⟨_, exec_ownerEnroll 0 tag e h n, command_hasAnswer htake hact, command_touches htake hact (by decide) (touches_refl _)⟩
  · intro s hgen hreset hdrbg htop
    obtain ⟨k, huse⟩ : ∃ k, s.boot.lmsInUse = some k := by
      cases huse : s.boot.lmsInUse with
      | some k => exact ⟨k, rfl⟩
      | none => exact absurd htop (by simp [BootState.topNext, huse, topIndices])
    have hleft : (vget s.boot.lms k {}).next < topIndices := by rw [← topNext_of_inUse huse]; exact htop
    have hexec := exec_lmsTreeReady huse hgen hreset hdrbg hleft
    cases hgood : (Config.freeBits s.freeCount).getLsbD 0 with
    | true =>
      rw [hgood] at hexec
      refine ⟨_, hexec, rfl, rfl, ?_, .inl ⟨topNext_advanced huse, rfl, rfl⟩⟩
      intro p hp
      cases p <;> simp [State.agree, State.treeDone, State.advanceFree] at hp ⊢
    | false =>
      rw [hgood] at hexec
      refine ⟨_, hexec, rfl, rfl, ?_, .inr ⟨topNext_failed huse, rfl, rfl, rfl⟩⟩
      intro p hp
      cases p <;> simp [State.agree, State.treeDone, State.advanceFree] at hp ⊢
  · exact fun s => ⟨nextTree_generates, nextTree_refuses⟩
  · exact fun k top used b => ⟨hssSignature_length k top used b, rfl, hssSignature_key k top used b⟩
  · intro p nonce mask s hready hleft hfew
    have hexec := exec_attestationReport (p := p) (nonce := nonce) (mask := mask) hready hfew
    have hstill : s.indexUsed.boot.bottomReady = true := decide_eq_true (Nat.succ_lt_succ hleft)
    rw [if_pos hstill] at hexec
    exact ⟨_, s.reportText nonce mask, hexec, rfl, hstill, indexUsed_topNext, rfl, rfl, answered_report_touches indexUsed_moves _⟩
  · intro p nonce mask s hready hlast hfew htop hstuck
    have hexec := exec_attestationReport (p := p) (nonce := nonce) (mask := mask) hready hfew
    have hspent : s.indexUsed.boot.bottomReady = false := by
      rw [indexUsed_ready, hlast]
      decide
    rw [hspent, nextTree_generates (s := s.indexUsed) htop hstuck] at hexec
    exact ⟨_, hexec, congrArg (· + 1) hlast, hspent, rfl,
      answered_report_touches (indexUsed_moves.then (setBoot_moves _ _)) _⟩
  · intro p nonce mask s hready hmany
    exact ⟨_, _, exec_attestationReport_busy hready hmany, rfl, rfl, (emit_moves s _).frame⟩
  · intro p nonce mask s hready hgen
    exact ⟨_, _, (exec_attestationReport_unready hready).trans (if_pos hgen), rfl, rfl, (emit_moves s _).frame⟩
  · intro p nonce mask s hready hgen
    exact ⟨_, _, (exec_attestationReport_unready hready).trans (if_neg (by rw [hgen]; decide)), rfl, rfl, rfl,
      ((setBoot_moves s _).mono.then (emit_moves ..) : s.Moves _ [.boot, .out]).frame⟩
  · intro p n r s hout
    exact if_neg (by rw [hout]; decide)
  · intro p n r s hin
    refine ⟨fun hup => (if_pos hin).trans (congrArg _ (if_neg (by rwa [List.isEmpty_iff]))), fun hdown => ?_⟩
    exact (if_pos hin).trans (congrArg _ (if_pos (by rw [hdown]; rfl)))
  · exact fun p n c s => rfl
  · exact fun p n mask s => rfl
  · intro p n r s hr
    simp only [List.mem_cons, List.not_mem_nil, or_false] at hr
    rcases hr with rfl | rfl | rfl | rfl | rfl <;> rfl
  · exact fun p n s => rfl
  · exact fun p n s => ⟨_, _, rfl, rfl, (spdmSigned_moves s p n _).frame⟩
  · exact fun p n s => ⟨rfl, rfl⟩
  · exact fun p n s => rfl
  · exact fun p n s => rfl
  · intro p n s hroom hnew
    exact ⟨_, _, spdmServe_keyExchange hroom hnew, rfl, rfl,
      ((setBoot_moves s _).mono.then (spdmSigned_moves _ p n []) : s.Moves _ [.boot, .out, .free]).frame⟩
  · exact fun p n s hfull => if_pos (.inl hfull)
  · rintro p n root s x hx rfl rfl
    have hany : (s.boot.sessions.any fun y => y.port = x.port && y.session = x.session) = true :=
      List.any_eq_true.mpr ⟨x, hx, by simp⟩
    refine ⟨_, spdmServe_finish hany, ?_, ((setBoot_moves s _).mono.then (emit_moves ..) : s.Moves _ [.boot, .out]).frame⟩
    exact mem_updWhere_of (f := Session.finished root) hx (by simp)
  · intro p n s
    refine ⟨_, rfl, fun x hx => ?_, ((setBoot_moves s _).mono.then (emit_moves ..) : s.Moves _ [.boot, .out]).frame⟩
    have hkept := (List.mem_filter.mp hx).2
    by_cases hp : x.port = p
    · right
      intro hn
      simp [hp, hn] at hkept
    · exact .inl hp
  · intro p n k rids ranges key s hknown hup
    have hserve : s.spdmServe p n (.ideKm k rids ranges key) =
        (s.modHost p fun h => { h with ide := vset h.ide k { state := 1, rids, ranges, key } }).emit (.spdm p n (.answer [])) := by
      refine (if_pos hknown).trans ?_
      exact congrArg (fun t : State => t.emit (.spdm p n (.answer []))) (secureStream_up (x := { rids, ranges, key }) hup)
    have hport := hostPort_modHost (s := s) p fun h => { h with ide := vset h.ide k { state := 1, rids, ranges, key } }
    refine ⟨_, hserve, ?_, ?_, ((setHost_moves s _).mono.then (emit_moves ..) : s.Moves _ [.host, .out]).frame⟩
    · refine (congrArg (fun h : HostPort => vget h.ide k {}) hport).trans ?_
      exact vget_vset_same _ _ _ _ k.isLt
    · exact (congrArg HostPort.up hport).trans hup

end

section
/-! PROOFS. The fields of a register that is written. -/

set_option Elab.async false

namespace Sys2Proof.Machine

variable {s : State}

/-- Setting a field leaves every bit outside it. -/
theorem bitsOf_setBits_other (w : Word64) {hi lo hi' lo' : Nat} (hle : lo ≤ hi) (hhi : hi < 64) (v : Nat) (h : hi < lo' ∨ hi' < lo) :
    bitsOf (setBits w hi lo v) hi' lo' = bitsOf w hi' lo' := by
  have hbit : ∀ i, (i < lo ∨ hi < i) → (setBits w hi lo v).toNat.testBit i = w.toNat.testBit i := by
    intro i hi'
    have hlow := Nat.mod_lt w.toNat (Nat.two_pow_pos lo)
    have hnew := Nat.mod_lt v (Nat.two_pow_pos (hi + 1 - lo))
    rw [toNat_setBits w hle hhi v, Nat.add_comm, Nat.mul_comm _ (2 ^ lo), Nat.testBit_two_pow_mul_add _ hlow]
    rcases hi' with hlt | hgt
    · rw [if_pos hlt, Nat.testBit_mod_two_pow, decide_eq_true hlt, Bool.true_and]
    · rw [if_neg (by omega), Nat.mul_comm _ (2 ^ (hi + 1 - lo)), Nat.testBit_two_pow_mul_add _ hnew, if_neg (by omega),
        Nat.testBit_div_two_pow, Nat.testBit_div_two_pow]
      congr 1
      omega
  refine Nat.eq_of_testBit_eq fun j => ?_
  simp only [bitsOf, Nat.testBit_mod_two_pow, Nat.testBit_div_two_pow]
  by_cases hj : j < hi' + 1 - lo'
  · rw [hbit (j + lo') (by omega)]
  · simp [hj]

theorem fld_setFld_other {f g : Fld} (hreg : f.reg = g.reg) (hle : f.lo ≤ f.hi) (hhi : f.hi < 64) (hapart : f.hi < g.lo ∨ g.hi < f.lo)
    (k v : Nat) : (s.setFld f k v).fld g k = s.fld g k := by
  rw [State.fld, State.setFld, hreg, rawReg_setRawReg_same, bitsOf_setBits_other _ hle hhi v hapart]
  rfl

/-- The fields of a register lie in its word, and apart from each other. -/
def Reg.apart (r : Reg) : Bool :=
  r.fields.all fun f => decide (f.reg = r ∧ f.lo ≤ f.hi ∧ f.hi < 64)
    && r.fields.all fun g => decide (f = g) || decide (f.hi < g.lo) || decide (g.hi < f.lo)

theorem reg_apart : ∀ r : Reg, r.apart = true := by
  intro r
  cases r <;> decide +kernel

theorem field_spans {r : Reg} {f : Fld} (hf : f ∈ r.fields) : f.reg = r ∧ f.lo ≤ f.hi ∧ f.hi < 64 := by
  have h := List.all_eq_true.mp (reg_apart r) f hf
  simp only [Bool.and_eq_true, decide_eq_true_eq] at h
  exact h.1

theorem fields_apart {r : Reg} {f g : Fld} (hf : f ∈ r.fields) (hg : g ∈ r.fields) (hne : f ≠ g) : f.hi < g.lo ∨ g.hi < f.lo := by
  have h := List.all_eq_true.mp (reg_apart r) f hf
  simp only [Bool.and_eq_true] at h
  have h' := List.all_eq_true.mp h.2 g hg
  simpa only [Bool.or_eq_true, decide_eq_true_eq, hne, false_or] using h'

theorem bitsOf_lt (w : Word64) (hi lo : Nat) : bitsOf w hi lo < 2 ^ (hi + 1 - lo) := Nat.mod_lt _ (Nat.two_pow_pos _)

/-- Fields stored one after the other: a stored one reads what was written, every other one as before. -/
theorem fld_storeFields {r : Reg} {f : Fld} (hf : f ∈ r.fields) (k : Nat) (v : Word64) (l : List Fld) (hl : l ⊆ r.fields) :
    (l.foldl (fun s g => s.setFld g k (bitsOf v g.hi g.lo)) s).fld f k = if f ∈ l then bitsOf v f.hi f.lo else s.fld f k := by
  induction l generalizing s with
  | nil => rfl
  | cons g l ih =>
    rw [List.foldl_cons, ih fun x hx => hl (List.mem_cons_of_mem _ hx)]
    by_cases hfl : f ∈ l
    · rw [if_pos hfl, if_pos (List.mem_cons_of_mem _ hfl)]
    · rw [if_neg hfl]
      obtain ⟨hreg, hle, hhi⟩ := field_spans hf
      by_cases hfg : f = g
      · subst hfg
        rw [fld_setFld_same hle hhi, if_pos (List.mem_cons_self ..), Nat.mod_eq_of_lt (bitsOf_lt v f.hi f.lo)]
      · have hg := hl (List.mem_cons_self ..)
        obtain ⟨hreg', hle', hhi'⟩ := field_spans hg
        rw [fld_setFld_other (hreg'.trans hreg.symm) hle' hhi' (fields_apart hg hf (Ne.symm hfg)), if_neg]
        exact fun hm => (List.mem_cons.mp hm).elim hfg hfl

/-- What a field reads after a write of its register (R4). -/
theorem fld_storeReg {r : Reg} {f : Fld} (hf : f ∈ r.fields) (k : Nat) (v : Word64) :
    (s.storeReg r k v).fld f k = if f.acc = .rw ∨ f.acc = .rws then bitsOf v f.hi f.lo else s.fld f k := by
  have h := fld_storeFields (s := s) hf k v (r.fields.filter fun f => f.acc = .rw || f.acc = .rws) (List.filter_subset_self _)
  refine h.trans ?_
  by_cases hacc : f.acc = .rw ∨ f.acc = .rws
  · rw [if_pos hacc, if_pos (List.mem_filter.mpr ⟨hf, by simpa using hacc⟩)]
  · rw [if_neg hacc, if_neg fun hm => hacc (by simpa using (List.mem_filter.mp hm).2)]

end Sys2Proof.Machine
end

section
/-! PROOFS. Requests, responses and the rings of a mailbox. -/

set_option Elab.async false

namespace Sys2Proof.Machine

variable {s : State} {k : Nat}

/-! ## Requests (R467, R469) -/

section Requests

variable {r : MbxRequest}

theorem requestFault_format (h : (r.major ≠ 1 ∧ r.major ≠ 2) ∨ (r.major = 2 ∧ r.minor ≠ 0)) :
    s.requestFault k r = some (Status.descUnsupportedOp, 0, 2) := by
  refine if_pos ?_
  rcases h with ⟨h1, h2⟩ | ⟨h2, hminor⟩
  · exact .inl (by simp [h1, h2])
  · exact .inr ⟨h2, Nat.pos_of_ne_zero hminor⟩

theorem slice_own (hslice : r.major = 1 ∨ r.slice = k) : ¬(r.major = 2 ∧ r.slice ≠ k) := by
  rintro ⟨h2, hne⟩
  rcases hslice with h1 | heq
  · omega
  · exact hne heq

section Format

variable (hformat : r.major = 1 ∨ (r.major = 2 ∧ r.minor = 0))
include hformat

theorem format_known : ¬(!(r.major = 1 || r.major = 2) ∨ (r.major = 2 ∧ 0 < r.minor)) := by
  rcases hformat with h1 | ⟨h2, h0⟩
  · simp [h1]
  · simp [h2, h0]

theorem requestFault_malformed (h : 496 < r.length ∨ requestCrcOk r = false) :
    s.requestFault k r = some (Status.descMalformed, 1, r.major) := by
  unfold State.requestFault
  rw [if_neg (format_known hformat), if_pos (by simpa only [Bool.not_eq_true'] using h)]

section Whole

variable (hlen : r.length ≤ 496) (hcrc : requestCrcOk r = true)
include hlen hcrc

theorem requestFault_whole : s.requestFault k r =
    if r.major = 2 ∧ r.slice ≠ k then some (Status.localAccess, 0, r.major)
    else if !mbxOpcodes.contains r.opcode then some (Status.descUnsupportedOp, 0, r.major)
    else if 8 ≤ (s.mailbox k).outstanding none then some (Status.busy, 0, r.major)
    else if s.last.inForce.isNone ∧ !mbxEarly r.opcode then some (Status.noResources, 0, r.major)
    else none := by
  unfold State.requestFault
  have hwhole : ¬(496 < r.length ∨ (!requestCrcOk r) = true) := by
    rw [hcrc]
    simpa using hlen
  rw [if_neg (format_known hformat), if_neg hwhole]

theorem requestFault_slice (h2 : r.major = 2) (hslice : r.slice ≠ k) : s.requestFault k r = some (Status.localAccess, 0, r.major) := by
  rw [requestFault_whole hformat hlen hcrc, if_pos ⟨h2, hslice⟩]

variable (hslice : r.major = 1 ∨ r.slice = k)
include hslice

theorem requestFault_opcode (hop : mbxOpcodes.contains r.opcode = false) :
    s.requestFault k r = some (Status.descUnsupportedOp, 0, r.major) := by
  rw [requestFault_whole hformat hlen hcrc, if_neg (slice_own hslice), hop, if_pos (by decide)]

variable (hop : mbxOpcodes.contains r.opcode = true)
include hop

theorem requestFault_busy (hmany : 8 ≤ (s.mailbox k).outstanding none) : s.requestFault k r = some (Status.busy, 0, r.major) := by
  rw [requestFault_whole hformat hlen hcrc, if_neg (slice_own hslice), hop, if_neg (by decide), if_pos hmany]

theorem requestFault_last (hfew : (s.mailbox k).outstanding none < 8) : s.requestFault k r =
    if s.last.inForce.isNone ∧ !mbxEarly r.opcode then some (Status.noResources, 0, r.major) else none := by
  rw [requestFault_whole hformat hlen hcrc, if_neg (slice_own hslice), hop, if_neg (by decide),
    if_neg (Nat.not_le.mpr hfew)]

end Whole

end Format

/-- Counting a request as consumed changes nothing that it is judged by. -/
theorem requestFault_consumed : (s.modMailbox k fun m => { m with consumed := m.consumed + 1 }).requestFault k r = s.requestFault k r := by
  have houtstanding : ((s.modMailbox k fun m => { m with consumed := m.consumed + 1 }).mailbox k).outstanding none =
      (s.mailbox k).outstanding none := by
    rw [mailbox_modMailbox]
    rfl
  unfold State.requestFault
  rw [houtstanding]
  rfl

/-- A request taken up from the ring. -/
def Mailbox.taking (r : MbxRequest) (m : Mailbox) : Mailbox :=
  { m with taken := m.taken ++ [{ tag := r.tag, major := r.major, opcode := r.opcode }] }

/-- A request answered from the ring. -/
def Mailbox.refusing (k : Nat) (r : MbxRequest) (c : Status) (detail major : Nat) (m : Mailbox) : Mailbox :=
  { m with ready := m.ready ++ [{ slice := k, tag := r.tag, major, opcode := r.opcode, status := c, detail }] }

theorem takeOne_takes (h : s.requestFault k r = none) : s.takeOne k r =
    (s.modMailbox k fun m => { m with consumed := m.consumed + 1 }).modMailbox k (Mailbox.taking r) := by
  unfold State.takeOne
  dsimp only
  rw [requestFault_consumed, h]
  rfl

theorem takeOne_refuses {c : Status} {d m : Nat} (h : s.requestFault k r = some (c, d, m)) : s.takeOne k r =
    ((s.modMailbox k fun m => { m with consumed := m.consumed + 1 }).countRefusal r c).modMailbox k (Mailbox.refusing k r c d m) := by
  unfold State.takeOne
  dsimp only
  rw [requestFault_consumed, h]
  rfl

theorem countRefusal_mailbox (c : Status) (j : Nat) : (s.countRefusal r c).mailbox j = s.mailbox j := by
  unfold State.countRefusal
  split
  · rfl
  · split <;> rfl

/-- A request whose body is as long as its header says has the Crc of both. -/
theorem requestCrcOk_iff (h : r.body.length = r.length) : requestCrcOk r = true ↔
    r.crc = crc32c (mbxHeader false r.major r.minor r.opcode r.length r.tag.toNat r.slice ++ r.body) := by
  have hbody : (r.body ++ List.replicate r.length 0).take r.length = r.body := List.take_left' h
  unfold requestCrcOk mbxCrc
  rw [hbody, decide_eq_true_eq]

end Requests

/-! ## Taking commands up (R470) -/

theorem takesUp_of_active {op : Nat} {tag : Word32} (hstate : (s.slice k).state = .active) (haway : s.fwAway = false) (hpause : s.inPause = false)
    (hserving : s.serving = true) (hfew : (s.mailbox k).outstanding (some tag) < 8) (hlast : s.last.inForce ≠ none ∨ op < 0x30) :
    s.takesUp k tag op := by
  have hheld : s.mbxHeld = false := by
    unfold State.mbxHeld
    rw [haway, hpause]
    rfl
  have hforce : ¬(s.last.inForce.isNone = true ∧ (!mbxEarly op) = true) := by
    rintro ⟨hnone, hlate⟩
    rcases hlast with hne | hop
    · exact hne (Option.isNone_iff_eq_none.mp hnone)
    · simp [mbxEarly, hop] at hlate
  unfold State.takesUp State.take
  dsimp only
  rw [hstate, hheld, hserving, if_neg (by decide), if_neg (fun hne => hne.1 rfl), if_neg (Nat.not_le.mpr hfew), if_neg hforce]

theorem take_resetting {op : Nat} {tag : Word32} (hstate : (s.slice k).state = .resetting) (haway : s.fwAway = false)
    (hpause : s.inPause = false) (hserving : s.serving = true) : s.take k tag op = (s.answer k tag op Status.busy 0 [], false) := by
  have hheld : s.mbxHeld = false := by
    unfold State.mbxHeld
    rw [haway, hpause]
    rfl
  unfold State.take
  dsimp only
  rw [hstate, hheld, hserving, if_neg (by decide), if_pos ⟨by decide, by simp⟩]

theorem taken_mailbox_other {op j : Nat} {tag : Word32} (h : s.takesUp k tag op) (hj : j ≠ k) :
    (s.taken k tag op).mailbox j = s.mailbox j := by
  obtain ⟨f, hf⟩ := taken_of_takesUp h
  rw [hf, mailbox_modMailbox_ne _ k j f hj]

/-- The commands taken, with one of a tag committed. -/
def Mailbox.commit (tag : Word32) (op : Nat) (m : Mailbox) : List MbxTaken :=
  if m.taken.any fun t => t.tag = tag then updWhere (fun t => t.tag = tag) (fun t => { t with committed := true }) m.taken
  else m.taken ++ [{ tag, major := 2, opcode := op, committed := true }]

/-- Taking a command up changes nothing of its mailbox but what is taken. -/
theorem taken_marks {op : Nat} {tag : Word32} (h : s.takesUp k tag op) :
    s.taken k tag op = s.modMailbox k fun m => { m with taken := m.commit tag op } := by
  unfold State.takesUp State.take at h
  unfold State.taken State.take
  dsimp only at h ⊢
  split at h
  · exact absurd h Bool.false_ne_true
  · rename_i h1
    split at h
    · exact absurd h Bool.false_ne_true
    · rename_i h2
      split at h
      · exact absurd h Bool.false_ne_true
      · rename_i h3
        split at h
        · exact absurd h Bool.false_ne_true
        · rename_i h4
          rw [if_neg h1, if_neg h2, if_neg h3, if_neg h4]
          rfl

theorem taken_ready {op : Nat} {tag : Word32} (h : s.takesUp k tag op) : ((s.taken k tag op).mailbox k).ready = (s.mailbox k).ready := by
  rw [taken_marks h, mailbox_modMailbox]

/-! ## Doorbell, enable and intake (R465, R466) -/

theorem intake_all (hheld : s.mbxHeld = false) (hlast : s.last.held = []) : s.intake k =
    ((s.mailbox k).intake.foldl (fun s r => s.takeOne k r) s).modMailbox k (fun m => { m with intake := [] }) := by
  unfold State.intake
  rw [hheld, hlast]
  rfl

theorem exec_mbxDoorbell {f : Func} {k : Fin 512} (count : Word32) (reqs : List MbxRequest) (hbound : s.bound k f = true)
    (hon : s.fld .slcMbxCtrlEnable k ≠ 0) (hfault : (s.mailbox k).fault = false) (hreach : s.ringsBlocked k = false)
    (hidle : (s.mailbox k).intake = []) (hpause : s.inPause = false) : exec (.mbxDoorbell f k count true reqs) s = .next
      (((s.modMailbox k fun m => { m with intake := reqs.take (count - (s.mailbox k).consumed).toNat }).intake k).serveBehind) := by
  have hgo : ¬((!s.bound k f) = true ∨ s.fld .slcMbxCtrlEnable k = 0 ∨ (s.mailbox k).fault = true) := by
    rw [hbound, hfault]
    simpa using hon
  have hreached : ¬((!true) = true ∨ s.ringsBlocked k = true) := by
    rw [hreach]
    decide
  have hrun : ¬s.inPause = true := by
    rw [hpause]
    decide
  have hmod : (s.modMailbox k fun m => { m with intake := m.intake ++ reqs.take ((count - (s.mailbox k).consumed).toNat - 0) }) =
      s.modMailbox k fun m => { m with intake := reqs.take (count - (s.mailbox k).consumed).toNat } := by
    unfold State.modMailbox
    dsimp only
    rw [hidle]
    rfl
  change execMbxDoorbell f k count true reqs s = _
  unfold execMbxDoorbell
  dsimp only
  rw [if_neg hgo, if_neg hreached, if_neg hrun, ← hmod, hidle]
  rfl

theorem exec_mbxDoorbell_unreached {f : Func} {k : Fin 512} (count : Word32) (reqs : List MbxRequest) (hbound : s.bound k f = true)
    (hon : s.fld .slcMbxCtrlEnable k ≠ 0) (hfault : (s.mailbox k).fault = false) :
    exec (.mbxDoorbell f k count false reqs) s = .next (s.mbxFault k) := by
  have hgo : ¬((!s.bound k f) = true ∨ s.fld .slcMbxCtrlEnable k = 0 ∨ (s.mailbox k).fault = true) := by
    rw [hbound, hfault]
    simpa using hon
  change execMbxDoorbell f k count false reqs s = _
  unfold execMbxDoorbell
  dsimp only
  rw [if_neg hgo, if_pos (.inl rfl)]

/-- The control register of a mailbox written. -/
theorem setMbxCtrl_fld (v : Word64) : (s.setMbxCtrl k v).fld .slcMbxCtrlEnable k = bitsOf v 0 0
    ∧ (s.storeReg .slcMbxCtrl k v).fld .slcMbxCtrlEnable k = bitsOf v 0 0 := by
  have hstored : (s.storeReg .slcMbxCtrl k v).fld .slcMbxCtrlEnable k = bitsOf v 0 0 :=
    (fld_storeReg (by decide) k v).trans (if_pos (by decide))
  refine ⟨?_, hstored⟩
  unfold State.setMbxCtrl
  dsimp only
  split
  · exact hstored
  · split
    · exact hstored
    · exact hstored

theorem bit_zero (v : Word32) : bitsOf (v.setWidth 64) 0 0 = if v.getLsbD 0 then 1 else 0 := by
  have hlow : (v.setWidth 64).toNat % 2 = v.toNat % 2 := by
    rw [BitVec.toNat_setWidth, Nat.mod_mod_of_dvd _ (by decide)]
  have hodd : v.getLsbD 0 = decide (v.toNat % 2 = 1) := by
    rw [BitVec.getLsbD, Nat.testBit_zero]
  rw [hodd]
  change (v.setWidth 64).toNat / 1 % 2 = _
  rw [Nat.div_one, hlow]
  simp only [decide_eq_true_eq]
  split <;> omega

theorem storeReg_mailbox (r : Reg) (j n : Nat) (v : Word64) : (s.storeReg r n v).mailbox j = s.mailbox j := by
  have h : (s.storeReg r n v).mailboxes = s.mailboxes := (storeReg_moves s ..).frame .mailboxes (by decide)
  simp only [State.mailbox, h]

/-- A mailbox that is enabled starts anew. -/
theorem setMbxCtrl_on {v : Word64} (hwas : s.fld .slcMbxCtrlEnable k = 0) (hon : bitsOf v 0 0 = 1) : s.setMbxCtrl k v =
    (s.storeReg .slcMbxCtrl k v).modMailbox k fun m => { m with consumed := 0, produced := 0, intake := [], fault := false } := by
  unfold State.setMbxCtrl
  dsimp only
  rw [(setMbxCtrl_fld (s := s) v).2, hon, if_neg (by decide), hwas, if_neg (by decide)]

theorem setMbxCtrl_off {v : Word64} (hoff : bitsOf v 0 0 = 0) : s.setMbxCtrl k v =
    (s.storeReg .slcMbxCtrl k v).modMailbox k fun m => { m with intake := [] } := by
  unfold State.setMbxCtrl
  dsimp only
  rw [(setMbxCtrl_fld (s := s) v).2, hoff, if_pos rfl]

/-! ## Responses (R466, R471) -/

theorem exec_mbxResponse {k : Fin 512} {r : MbxResp} {rest : List MbxResp} (hready : (s.mailbox k).ready = r :: rest)
    (hfault : (s.mailbox k).fault = false) (haway : s.fwAway = false) (hidle : (s.mailbox k).writing = none) (ok : Bool) :
    exec (.mbxResponse k ok) s =
      if !ok ∨ s.ringsBlocked k then .next (s.mbxFault k) else .next (s.writeResponse k r rest).serveBehind := by
  have hgo : ¬((s.mailbox k).fault = true ∨ s.fwAway = true ∨ (s.mailbox k).writing.isSome = true) := by
    rw [hfault, haway, hidle]
    decide
  change execMbxResponse k ok s = _
  unfold execMbxResponse
  dsimp only
  rw [hready]
  dsimp only
  rw [if_neg hgo]

theorem serveBehind_of_none (h : s.last.held = []) : s.serveBehind = s := by
  unfold State.serveBehind
  rw [h]

/-- The state with room taken for a response's write. -/
def State.respPosted (s : State) (k : Nat) : State :=
  ((s.logPages k [s.respSlot k / 4096 * 4096]).leavePath k (s.slice k).port 0xFFFF).postTlps (s.slice k).port
    ((tlpParts (s.hostPort (s.slice k).port).maxPayload 0 512).map (·.2))

/-- The state with a response written. -/
def State.respSent (s : State) (k : Nat) (r : MbxResp) : State :=
  ((s.respPosted k).modMailbox k fun m => { m with writing := none, produced := m.produced + 1 }).emit
    (.mailbox r (respImage (s.respOwn k) r))

theorem respPosted_moves : s.Moves (s.respPosted k) [.dirtyLogs, .xlate, .host] :=
  (logPages_moves s ..).mono.then (leavePath_moves ..) |>.then (postTlps_moves ..)

theorem respPosted_mailbox : (s.respPosted k).mailbox k = s.mailbox k := by
  have h : (s.respPosted k).mailboxes = s.mailboxes := respPosted_moves.frame .mailboxes (by decide)
  simp only [State.mailbox, h]

theorem respSent_mailbox (r : MbxResp) : (s.respSent k r).mailbox k =
    { s.mailbox k with writing := none, produced := (s.mailbox k).produced + 1 } := by
  have h := mailbox_modMailbox (s := s.respPosted k) k fun m => { m with writing := none, produced := m.produced + 1 }
  refine Eq.trans h ?_
  rw [respPosted_mailbox]

theorem respSent_moves (r : MbxResp) : s.Moves (s.respSent k r) [.out, .mailboxes, .dirtyLogs, .xlate, .host] :=
  respPosted_moves.mono.then (modMailbox_moves ..) |>.then (emit_moves ..)

section Written

variable {r : MbxResp} (hwriting : (s.mailbox k).writing = some r) (hreach : s.ringsBlocked k = false)
include hwriting hreach

theorem respWritten_sends (hlog : s.logFull k [s.respSlot k / 4096 * 4096] = false) (hposted : s.postedFull (s.slice k).port 512 = false) :
    s.respWritten k = if s.fld .slcMbxCtrlIntEnable k = 1 then
      (s.respSent k r).modMailbox k fun m => { m with intAt := some (m.intAt.getD (s.time.now + 2000)) } else s.respSent k r := by
  unfold State.respWritten
  rw [hwriting]
  dsimp only
  rw [hreach, if_neg (by decide), hlog, if_neg (by decide), hposted, if_neg (by decide)]
  rfl

theorem respWritten_parks (hfull : s.logFull k [s.respSlot k / 4096 * 4096] = true ∨ s.postedFull (s.slice k).port 512 = true) :
    ∃ on, s.respWritten k = s.parkOwn k (.mbx k) on := by
  unfold State.respWritten
  rw [hwriting]
  dsimp only
  rw [hreach, if_neg (by decide)]
  by_cases hlog : s.logFull k [s.respSlot k / 4096 * 4096] = true
  · exact ⟨.logRoom, if_pos hlog⟩
  · rw [if_neg hlog, if_pos (hfull.resolve_left hlog)]
    exact ⟨_, rfl⟩

end Written

/-! ## The bytes of a response (R467) -/

theorem length_leBytes (n v : Nat) : (leBytes n v).length = n := by
  induction n generalizing v with
  | zero => rfl
  | succ n ih => exact congrArg (· + 1) (ih _)

theorem respBody_length (r : MbxResp) : (respBody r).length ≤ 496 := by
  simp only [respBody, List.length_append, length_leBytes, List.length_take]
  omega

theorem respBody_head (r : MbxResp) : (respBody r).take 4 = leBytes 1 r.status.toNat ++ [0] ++ leBytes 2 r.detail := by
  unfold respBody
  rw [List.take_left' (by simp only [List.length_append, length_leBytes])]
  rfl

/-- The parts of a response's image, one behind the other. -/
theorem respImage_parts (own : Bool) (r : MbxResp) : ∃ crc, respImage own r =
    leBytes 1 (r.major % 128 + (if own then 128 else 0)) ++ (leBytes 1 0 ++ (leBytes 2 r.opcode ++ (leBytes 2 (respBody r).length
      ++ (leBytes 4 r.tag.toNat ++ (leBytes 2 (if r.major = 2 then r.slice else 0) ++ (leBytes 4 crc ++ respBody r)))))) := by
  refine ⟨(mbxCrc r.major 0 r.opcode (respBody r).length r.tag.toNat (if r.major = 2 then r.slice else 0) (respBody r)).toNat, ?_⟩
  unfold respImage mbxHeader
  simp only [List.append_assoc]

theorem mailMessages_one {at_ : Nat} {m : Mailbox} (hone : s.mailboxes = [(k, m)]) (hat : m.intAt = some at_) :
    s.mailMessages = if s.due at_ then
      (s.modMailbox k fun x => { x with intAt := none }).sendMsix k (s.fld .slcMbxCtrlVector k) none else s := by
  unfold State.mailMessages
  rw [hone]
  by_cases hdue : s.due at_ = true
  · rw [List.filter_cons_of_pos (by simpa [hat] using hdue), if_pos hdue]
    rfl
  · rw [List.filter_cons_of_neg (by simpa [hat] using hdue), if_neg hdue]
    rfl

end Sys2Proof.Machine

open Sys2Proof Sys2Proof.Machine

/-- Settles O43: the checks of a request fall in their order, and a mailbox's registers, rings and responses change one at a time. -/
theorem mailboxesWork : Obligations.MailboxesWork := by
  refine ⟨?_, ?_, ?_, ?_, ?_, ?_, ?_, ?_, ?_, ?_, ?_, ?_, ?_, ?_, ?_, ?_, ?_, ?_, ?_, ?_, ?_, ?_⟩
  · intro k r s
    refine ⟨requestFault_format, fun hformat => ⟨requestFault_malformed hformat, fun hlen hcrc =>
      ⟨requestFault_slice hformat hlen hcrc, fun hslice => ⟨requestFault_opcode hformat hlen hcrc hslice, fun hop =>
        ⟨requestFault_busy hformat hlen hcrc hslice hop, fun hfew => ⟨fun hnone hlate => ?_, fun hok => ?_⟩⟩⟩⟩⟩⟩
    · rw [requestFault_last hformat hlen hcrc hslice hop hfew, hnone, if_pos ⟨rfl, by simpa [mbxEarly] using hlate⟩]
    · rw [requestFault_last hformat hlen hcrc hslice hop hfew, if_neg]
      rintro ⟨hnone, hlate⟩
      rcases hok with hne | hearly
      · exact hne (Option.isNone_iff_eq_none.mp hnone)
      · simp [mbxEarly, hearly] at hlate
  · intro k r s h
    rw [takeOne_takes h, mailbox_modMailbox, mailbox_modMailbox]
    exact ⟨rfl, rfl, ((modMailbox_moves s ..).then (modMailbox_moves ..) : s.Moves _ [.mailboxes]).frame⟩
  · intro k r s c d m h
    have hbox : (s.takeOne k r).mailbox k = Mailbox.refusing k r c d m { s.mailbox k with consumed := (s.mailbox k).consumed + 1 } := by
      rw [takeOne_refuses h, mailbox_modMailbox, countRefusal_mailbox, mailbox_modMailbox]
    rw [hbox]
    exact ⟨_, rfl, rfl, rfl, rfl, rfl, rfl, touches_mono (by decide) (takeOne_moves s k r).frame⟩
  · intro k op tag s hstate haway hpause hserving hfew hlast
    exact takesUp_of_active hstate haway hpause hserving hfew hlast
  · intro k op tag s h
    exact ⟨taken_touches h, taken_ready h, fun j hj => taken_mailbox_other h hj⟩
  · intro k op tag s hstate haway hpause hserving
    rw [take_resetting hstate haway hpause hserving]
    exact ⟨rfl, answer_hasAnswer s k tag op Status.busy 0 []⟩
  · intro f k count reqs s hbound hon hfault hreach hidle hpause
    exact exec_mbxDoorbell count reqs hbound hon hfault hreach hidle hpause
  · intro k s hheld hlast
    exact intake_all hheld hlast
  · intro f k count reqs s hbound hon hfault
    refine ⟨_, exec_mbxDoorbell_unreached count reqs hbound hon hfault, ?_, ?_, (mbxFault_moves s k).frame⟩
    · rw [State.mbxFault, mailbox_modMailbox]
    · rw [State.mbxFault, mailbox_modMailbox]
  · intro f k v s hbound hwas hv
    have hon : bitsOf (v.setWidth 64) 0 0 = 1 := by rw [bit_zero, hv, if_pos rfl]
    have hbox : (s.setMbxCtrl k (v.setWidth 64)).mailbox k =
        { s.mailbox k with consumed := 0, produced := 0, intake := [], fault := false } := by
      rw [setMbxCtrl_on hwas hon, mailbox_modMailbox, storeReg_mailbox]
    refine ⟨_, if_pos hbound, (setMbxCtrl_fld _).1.trans hon, ?_, ?_, ?_, ?_, ?_, (setMbxCtrl_moves s ..).frame⟩
    all_goals rw [hbox]
  · intro f k v s hbound hv
    have hoff : bitsOf (v.setWidth 64) 0 0 = 0 := by
      rw [bit_zero, hv]
      rfl
    have hbox : (s.setMbxCtrl k (v.setWidth 64)).mailbox k = { s.mailbox k with intake := [] } := by
      rw [setMbxCtrl_off hoff, mailbox_modMailbox, storeReg_mailbox]
    refine ⟨_, if_pos hbound, (setMbxCtrl_fld _).1.trans hoff, ?_, ?_, ?_, (setMbxCtrl_moves s ..).frame⟩
    all_goals rw [hbox]
  · intro k s r rest hready hfault haway hidle hreach
    rw [exec_mbxResponse hready hfault haway hidle, hreach]
    rfl
  · exact fun s h => serveBehind_of_none h
  · intro k s r rest hready hfault haway hidle
    refine ⟨_, (exec_mbxResponse hready hfault haway hidle false).trans (if_pos (.inl rfl)), ?_, (mbxFault_moves s k).frame⟩
    rw [State.mbxFault, mailbox_modMailbox]
  · intro k s r hwriting hint hreach hlog hposted
    have hsent := respWritten_sends hwriting hreach hlog hposted
    rw [hint, if_neg (by decide)] at hsent
    rw [hsent, respSent_mailbox]
    have hout : (s.respPosted k).out = s.out := respPosted_moves.frame .out (by decide)
    refine ⟨?_, rfl, rfl, (respSent_moves r).frame⟩
    rw [← hout]
    rfl
  · intro k s r hwriting hint hreach hlog hposted
    have hsent := respWritten_sends hwriting hreach hlog hposted
    rw [if_pos hint] at hsent
    rw [hsent, mailbox_modMailbox, respSent_mailbox]
    exact ⟨rfl, rfl⟩
  · intro s k at_ m hone hat
    rw [mailMessages_one hone hat]
    exact ⟨fun h => if_pos h, fun h => if_neg (by rw [h]; decide)⟩
  · intro own r
    obtain ⟨crc, hparts⟩ := respImage_parts own r
    have hbody := respBody_length r
    rw [hparts]
    refine ⟨?_, rfl, rfl, rfl, ?_⟩
    · change [(BitVec.ofNat 8 (r.major % 128 + (if own then 128 else 0))).toNat] = _
      have hsmall : r.major % 128 + (if own then 128 else 0) < 256 := by split <;> omega
      rw [BitVec.toNat_ofNat, Nat.mod_eq_of_lt hsmall]
    · simp only [List.length_append, length_leBytes]
      omega
  · exact fun r => ⟨respBody_length r, respBody_head r⟩
  · exact fun r h => requestCrcOk_iff h
  · intro k s r hwriting hreach hfull
    obtain ⟨on, hparked⟩ := respWritten_parks hwriting hreach hfull
    rw [hparked]
    exact ⟨hwriting, (parkOwn_moves s ..).frame⟩
  · intro slice tag s h
    have hsame : (s.taken slice tag MbxOp.mbxInfo).runningImage = s.runningImage ∧ (s.taken slice tag MbxOp.mbxInfo).fwmImage = s.fwmImage := by
      obtain ⟨f, hf⟩ := taken_of_takesUp h
      rw [hf]
      exact ⟨rfl, rfl⟩
    let act := fun s : State => (s, Status.success, [1, 2, 8, s.runningImage.major, s.runningImage.minor, s.fwmImage])
    have hact : act (s.taken slice tag MbxOp.mbxInfo) = (s.taken slice tag MbxOp.mbxInfo, Status.success,
        [1, 2, 8, s.runningImage.major, s.runningImage.minor, s.fwmImage]) := by
      rw [← hsame.1, ← hsame.2]
    exact ⟨s.command slice tag MbxOp.mbxInfo act, rfl, command_hasAnswer h hact, command_touches h hact (by decide) (touches_refl _)⟩

end

section
/-! PROOFS. Firmware packages. -/

set_option Elab.async false

namespace Sys2Proof.Machine

variable {s : State}

section TakenUp

variable {slice : Nat} {tag : Word32} {op : Nat} (h : s.takesUp slice tag op)
include h

theorem taken_fw : (s.taken slice tag op).fw = s.fw := taken_touches h .fw (by decide)

theorem taken_fld (f : Fld) (k : Nat) : (s.taken slice tag op).fld f k = s.fld f k := by
  have hregs : (s.taken slice tag op).regs = s.regs := taken_touches h .regs (by decide)
  simp only [State.fld, State.rawReg, hregs]

theorem taken_checkPackage (p : FwPackage) : (s.taken slice tag op).checkPackage p = s.checkPackage p := by
  obtain ⟨f, hf⟩ := taken_of_takesUp h
  rw [hf]
  rfl

theorem taken_putImage (kind : Nat) (i : Option FlashImage) : ((s.taken slice tag op).putImage kind i).boot = (s.putImage kind i).boot := by
  simp only [State.putImage, State.spareStage, State.spareFw, taken_fw h, taken_boot h]
  split <;> rfl

end TakenUp

/-! ## A package opened (R478) -/

/-- What an FW_BEGIN does once it is taken up. -/
def fwBeginAction (slice : Fin 512) (kind length : Nat) (s : State) : State × Status × List Nat :=
  if slice ≠ 0 then (s, Status.localAccess, [])
  else if s.fw.update = 3 ∨ s.fw.update = 4 then (s, Status.busy, [])
  else match packageLimit kind with
    | none => (s, Status.descMalformed, [])
    | some most =>
      if most < length then (s, Status.descMalformed, [])
      else ({ s with fw.package := some { kind, length }, fw.update := 1 }, Status.success, [])

theorem exec_fwBegin (slice : Fin 512) (tag : Word32) (kind length : Nat) :
    exec (.fwBegin slice tag kind length) s = .next (s.command slice tag MbxOp.fwBegin (fwBeginAction slice kind length)) := rfl

section Begin

variable {kind n : Nat}

theorem fwBeginAction_opens {most : Nat} (h3 : s.fw.update ≠ 3) (h4 : s.fw.update ≠ 4) (hkind : packageLimit kind = some most)
    (hfits : n ≤ most) : fwBeginAction 0 kind n s =
      ({ s with fw.package := some { kind := kind, length := n }, fw.update := 1 }, Status.success, []) := by
  unfold fwBeginAction
  rw [if_neg (by decide), if_neg (not_or.mpr ⟨h3, h4⟩), hkind]
  exact if_neg (Nat.not_lt.mpr hfits)

theorem fwBeginAction_busy (hrun : s.fw.update = 3 ∨ s.fw.update = 4) : fwBeginAction 0 kind n s = (s, Status.busy, []) := by
  unfold fwBeginAction
  rw [if_neg (by decide), if_pos hrun]

theorem fwBeginAction_refuses (h3 : s.fw.update ≠ 3) (h4 : s.fw.update ≠ 4) (hlong : ∀ most, packageLimit kind = some most → most < n) :
    fwBeginAction 0 kind n s = (s, Status.descMalformed, []) := by
  unfold fwBeginAction
  rw [if_neg (by decide), if_neg (not_or.mpr ⟨h3, h4⟩)]
  cases hkind : packageLimit kind with
  | none => rfl
  | some most => exact if_pos (hlong most hkind)

end Begin

/-! ## A block written (R479) -/

/-- A block taken into a package. -/
def FwPackage.withBlock (p : FwPackage) (off : Nat) (b : List Byte) : FwPackage := { p with blocks := p.blocks ++ [(off, b)] }

/-- A block of the package taken, and the image written to flash, or marked as incomplete there. -/
def State.blockTaken (s : State) (p : FwPackage) : State :=
  if p.kind = 3 then { s with fw.package := some p }
  else ({ s with fw.package := some p } : State).putImage p.kind (if p.complete then some (readImage p.kind p.bytes) else none)

/-- What an FW_WRITE does once it is taken up. -/
def fwWriteAction (slice : Fin 512) (off n : Nat) (buffer : ReadResult) (crc : Word32) (s : State) : State × Status × List Nat :=
  if slice ≠ 0 then (s, Status.localAccess, [])
  else match s.fw.package with
    | none => (s, Status.descMalformed, [])
    | some p =>
      if s.fw.update ≠ 1 ∨ n = 0 ∨ 65536 < n ∨ p.length < off + n then (s, Status.descMalformed, [])
      else match buffer with
        | .ok b =>
          if crc32c (b.take n) ≠ crc ∨ b.length < n then (s.bump .fwmStatCrcRejects 0, Status.checkMismatch, [])
          else (s.blockTaken (p.withBlock off (b.take n)), Status.success, [])
        | _ => (s, Status.xlateDenied, [])

theorem exec_fwWrite (slice : Fin 512) (tag : Word32) (off n : Nat) (buffer : ReadResult) (crc : Word32) :
    exec (.fwWrite slice tag off n buffer crc) s =
      .next (s.command slice tag MbxOp.fwWrite (fwWriteAction slice off n buffer crc)) := rfl

theorem blockTaken_fw (p : FwPackage) : (s.blockTaken p).fw = { s.fw with package := some p } := by
  unfold State.blockTaken
  split
  · rfl
  · exact (putImage_moves ({ s with fw.package := some p } : State) p.kind _).frame .fw (by decide)

theorem blockTaken_moves (s : State) (p : FwPackage) : s.Moves (s.blockTaken p) [.fw, .boot] :=
  .ite (setFw_moves s _).mono ((setFw_moves s _).mono.then (putImage_moves ..))

section Write

variable {off n : Nat} {b : List Byte} {crc : Word32} {buffer : ReadResult} {p : FwPackage}

theorem fwWriteAction_malformed (hp : s.fw.package = some p) (hbad : n = 0 ∨ 65536 < n ∨ p.length < off + n) :
    fwWriteAction 0 off n buffer crc s = (s, Status.descMalformed, []) := by
  unfold fwWriteAction
  rw [if_neg (by decide), hp]
  exact if_pos (.inr hbad)

section Fits

variable (hp : s.fw.package = some p) (hopen : s.fw.update = 1) (hn : 0 < n) (hmost : n ≤ 65536) (hfits : off + n ≤ p.length)
include hp hopen hn hmost hfits

theorem fwWriteAction_reads : fwWriteAction 0 off n buffer crc s =
    match buffer with
    | .ok b =>
      if crc32c (b.take n) ≠ crc ∨ b.length < n then (s.bump .fwmStatCrcRejects 0, Status.checkMismatch, [])
      else (s.blockTaken (p.withBlock off (b.take n)), Status.success, [])
    | _ => (s, Status.xlateDenied, []) := by
  unfold fwWriteAction
  rw [if_neg (by decide), hp]
  exact if_neg (by omega)

theorem fwWriteAction_takes (hb : n ≤ b.length) (hcrc : crc32c (b.take n) = crc) :
    fwWriteAction 0 off n (.ok b) crc s = (s.blockTaken (p.withBlock off (b.take n)), Status.success, []) := by
  rw [fwWriteAction_reads hp hopen hn hmost hfits]
  exact if_neg (not_or.mpr ⟨fun hne => hne hcrc, Nat.not_lt.mpr hb⟩)

theorem fwWriteAction_mismatch (hcrc : crc32c (b.take n) ≠ crc) :
    fwWriteAction 0 off n (.ok b) crc s = (s.bump .fwmStatCrcRejects 0, Status.checkMismatch, []) := by
  rw [fwWriteAction_reads hp hopen hn hmost hfits]
  exact if_pos (.inl hcrc)

theorem fwWriteAction_unread : fwWriteAction 0 off n .unsupported crc s = (s, Status.xlateDenied, []) := by
  rw [fwWriteAction_reads hp hopen hn hmost hfits]

end Fits

end Write

/-! ## A package checked (R450, R480 to R482) -/

/-- A package that has passed its check. -/
def State.packagePassed (s : State) (p : FwPackage) (i : FlashImage) : State :=
  { s.putImage p.kind (some i) with fw.package := some { p with checked := true }, fw.update := 2 }

/-- A package that has failed its check. -/
def State.packageFailed (s : State) (p : FwPackage) (r : Nat) : State :=
  if r = 0 then { s.putImage p.kind none with fw.package := none, fw.update := 0 }
  else { s.putImage p.kind none with fw.package := none, fw.update := 0, boot.failReason := r, boot.failObject := if p.kind = 1 then 1 else 2 }

theorem packagePassed_moves (s : State) (p : FwPackage) (i : FlashImage) : s.Moves (s.packagePassed p i) [.fw, .boot] :=
  (putImage_moves s p.kind (some i)).mono.then (setFw_moves _ _)

theorem packageFailed_moves (s : State) (p : FwPackage) (r : Nat) : s.Moves (s.packageFailed p r) [.fw, .boot] := by
  have hdropped : s.Moves ({ s.putImage p.kind none with fw.package := none, fw.update := 0 } : State) [.fw, .boot] :=
    (putImage_moves s p.kind none).mono.then (setFw_moves _ _)
  exact .ite hdropped (hdropped.then (setBoot_moves _ _))

theorem packagePassed_fw (p : FwPackage) (i : FlashImage) :
    (s.packagePassed p i).fw = { s.fw with package := some { p with checked := true }, update := 2 } := by
  have hput : (s.putImage p.kind (some i)).fw = s.fw := (putImage_moves ..).frame .fw (by decide)
  rw [← hput]
  rfl

/-- Failing the check drops the package and its image, with the reason in the boot's status where there is one. -/
theorem packageFailed_spec (s : State) (p : FwPackage) (r : Nat) :
    (s.packageFailed p r).fw.package = none ∧ (s.packageFailed p r).fw.update = 0
      ∧ (s.packageFailed p r).boot.fwImages = (s.putImage p.kind none).boot.fwImages
      ∧ (s.packageFailed p r).boot.stageImages = (s.putImage p.kind none).boot.stageImages
      ∧ (r ≠ 0 → (s.packageFailed p r).boot.failReason = r) := by
  unfold State.packageFailed
  split
  next hr => exact ⟨rfl, rfl, rfl, rfl, fun hne => absurd hr hne⟩
  next => exact ⟨rfl, rfl, rfl, rfl, fun _ => rfl⟩

section Check

variable {tag : Word32} {p : FwPackage} (h : s.takesUp 0 tag MbxOp.fwCheck) (hp : s.fw.package = some p)
  (hstage : s.fw.update = 1 ∨ s.fw.update = 2)
include h hp hstage

theorem exec_fwCheck : exec (.fwCheck 0 tag) s =
    match s.checkPackage p with
    | .ok i => .next (((s.taken 0 tag MbxOp.fwCheck).packagePassed p i).answer 0 tag MbxOp.fwCheck Status.success 0 [])
    | .error (c, d, r) => .next (((s.taken 0 tag MbxOp.fwCheck).packageFailed p r).answer 0 tag MbxOp.fwCheck c d []) := by
  have htake : s.take (0 : Fin 512).val tag MbxOp.fwCheck = (s.taken 0 tag MbxOp.fwCheck, true) := take_of_takesUp h
  change execFwCheck 0 tag s = _
  unfold execFwCheck
  rw [htake]
  dsimp only
  rw [if_neg (by decide), taken_fw h, hp]
  dsimp only
  rw [if_neg (by omega), taken_checkPackage h]
  cases s.checkPackage p with
  | ok i => rfl
  | error e => rfl

end Check

theorem checkPackage_incomplete {p : FwPackage} (hp : p.complete = false) :
    s.checkPackage p = .error (Status.descMalformed, 2, 0) := if_pos (by rw [hp]; rfl)

/-! ## The reasons of an image (R450, R451) -/

section Reason

variable {kind : Nat} {i : FlashImage} (hi : i.reason = 0)
include hi

theorem imageReason_of_key (hkey : i.spare = s.boot.spareKey) :
    s.imageReason kind i = if i.sec < s.fused kind then failRollback else 0 := by
  unfold State.imageReason
  rw [if_neg (fun hne => hne hi), hkey]
  cases s.boot.spareKey <;> rfl

theorem imageReason_revoked (hkey : i.spare = false) (hspare : s.boot.spareKey = true) : s.imageReason kind i = failRevoked := by
  unfold State.imageReason
  rw [if_neg (fun hne => hne hi), hkey, hspare]
  rfl

theorem imageReason_spare (hkey : i.spare = true) (hspare : s.boot.spareKey = false) : s.imageReason kind i = failEcdsa := by
  unfold State.imageReason
  rw [if_neg (fun hne => hne hi), hkey, hspare]
  rfl

end Reason

/-! ## FW_CONFIRM and FW_STATUS, and the slices that may not -/

/-- What an FW_CONFIRM does once it is taken up. -/
def fwConfirmAction (slice : Fin 512) (s : State) : State × Status × List Nat :=
  if slice ≠ 0 then (s, Status.localAccess, [])
  else if !s.inWindow ∨ !s.fw.selfTested then (s, Status.busy, [])
  else (({ s with fw.confirmed := true } : State).confirmFw, Status.success, [])

theorem exec_fwConfirm (slice : Fin 512) (tag : Word32) :
    exec (.fwConfirm slice tag) s = .next (s.command slice tag MbxOp.fwConfirm (fwConfirmAction slice)) := rfl

/-- What an FW_STATUS does once it is taken up. -/
def fwStatusAction (slice : Fin 512) (s : State) : State × Status × List Nat :=
  if slice ≠ 0 then (s, Status.localAccess, []) else (s, Status.success, [s.fwmStatus])

theorem exec_fwStatus (slice : Fin 512) (tag : Word32) :
    exec (.fwStatus slice tag) s = .next (s.command slice tag MbxOp.fwStatus (fwStatusAction slice)) := rfl

theorem taken_fwmStatus {slice : Nat} {tag : Word32} {op : Nat} (h : s.takesUp slice tag op) :
    (s.taken slice tag op).fwmStatus = s.fwmStatus := by
  simp only [State.fwmStatus, taken_fw h, taken_boot h, taken_now h, taken_emergency h]

section OtherSlice

variable {slice : Fin 512} {tag : Word32} (hslice : slice ≠ 0)
include hslice

theorem exec_fwCheck_outside (h : s.takesUp slice tag MbxOp.fwCheck) : exec (.fwCheck slice tag) s =
    .next ((s.taken slice tag MbxOp.fwCheck).answer slice tag MbxOp.fwCheck Status.localAccess 0 []) := by
  change execFwCheck slice tag s = _
  unfold execFwCheck
  rw [take_of_takesUp h]
  exact if_pos hslice

theorem exec_fwActivate_outside {dc : Bool} (h : s.takesUp slice tag MbxOp.fwActivate) : exec (.fwActivate slice tag dc) s =
    .next ((s.taken slice tag MbxOp.fwActivate).answer slice tag MbxOp.fwActivate Status.localAccess 0 []) := by
  change execFwActivate slice tag dc s = _
  unfold execFwActivate
  rw [take_of_takesUp h]
  exact if_pos hslice

end OtherSlice

/-- A command that changes nothing, answered. -/
theorem command_answers {slice : Nat} {tag : Word32} {op : Nat} {f : State → State × Status × List Nat} {st : Status}
    {info : List Nat} (h : s.takesUp slice tag op) (hact : f (s.taken slice tag op) = (s.taken slice tag op, st, info)) :
    ∃ t, (.next (s.command slice tag op f) : Result) = .next t ∧ t.hasAnswer slice tag st info ∧ s.touches t [.mailboxes] :=
  ⟨_, rfl, command_hasAnswer h hact, command_touches h hact (by decide) (touches_refl _)⟩

end Sys2Proof.Machine

open Sys2Proof Sys2Proof.Machine

/-- Settles O44: each command is an action on the state that took it up, written out once for each outcome. -/
theorem firmwarePackages : Obligations.FirmwarePackages := by
  refine ⟨?_, ?_, ?_, ?_, ?_, ?_, ?_, ?_, ?_⟩
  · intro tag kind n most s htake h3 h4 hkind hfits
    have hfw := taken_fw htake
    have hact := fwBeginAction_opens (s := s.taken 0 tag MbxOp.fwBegin) (by rwa [hfw]) (by rwa [hfw]) hkind hfits
    refine ⟨_, exec_fwBegin 0 tag kind n, ?_, command_hasAnswer htake hact,
      command_touches htake hact (by decide) (setFw_moves _ _).mono.frame⟩
    refine (congrArg (fun t : State => t.fw) (command_eq_answer htake hact)).trans ?_
    rw [answer_fw, hfw]
  · intro tag kind n s htake
    have hfw := taken_fw htake
    refine ⟨fun hrun => ?_, fun h3 h4 hlong => ?_⟩
    · have hact := fwBeginAction_busy (s := s.taken 0 tag MbxOp.fwBegin) (kind := kind) (n := n) (by rwa [hfw])
      exact command_answers (slice := (0 : Fin 512)) htake hact
    · have hact := fwBeginAction_refuses (s := s.taken 0 tag MbxOp.fwBegin) (by rwa [hfw]) (by rwa [hfw]) hlong
      exact command_answers (slice := (0 : Fin 512)) htake hact
  · rintro slice tag c op s hslice ⟨kind, n, off, len, buf, crc, dc, hc⟩ htake
    simp only [List.mem_cons, List.not_mem_nil, or_false, Prod.mk.injEq] at hc
    rcases hc with ⟨rfl, rfl⟩ | ⟨rfl, rfl⟩ | ⟨rfl, rfl⟩ | ⟨rfl, rfl⟩ | ⟨rfl, rfl⟩ | ⟨rfl, rfl⟩
    · exact command_answers (f := fwBeginAction slice kind n) htake (if_pos hslice)
    · exact command_answers (f := fwWriteAction slice off len buf crc) htake (if_pos hslice)
    · exact ⟨_, exec_fwCheck_outside hslice htake, answered htake _⟩
    · exact ⟨_, exec_fwActivate_outside hslice htake, answered htake _⟩
    · exact command_answers (f := fwConfirmAction slice) htake (if_pos hslice)
    · exact command_answers (f := fwStatusAction slice) htake (if_pos hslice)
  · intro tag off n b crc s p htake hp hopen hn hmost hfits hb
    have hfw := taken_fw htake
    have hp' : (s.taken 0 tag MbxOp.fwWrite).fw.package = some p := by rw [hfw, hp]
    have hopen' : (s.taken 0 tag MbxOp.fwWrite).fw.update = 1 := by rw [hfw, hopen]
    refine ⟨fun hcrc => ?_, fun hcrc => ?_, ?_⟩
    · have hact := fwWriteAction_takes hp' hopen' hn hmost hfits hb hcrc
      refine ⟨_, exec_fwWrite 0 tag off n (.ok b) crc, ?_, command_hasAnswer htake hact,
        command_touches htake hact (by decide) (blockTaken_moves ..).mono.frame⟩
      refine (congrArg (fun t : State => t.fw) (command_eq_answer htake hact)).trans ?_
      rw [answer_fw, blockTaken_fw, hfw]
      rfl
    · have hact := fwWriteAction_mismatch hp' hopen' hn hmost hfits hcrc
      have heq := command_eq_answer htake hact
      have hbump := bump_moves (s.taken 0 tag MbxOp.fwWrite) .fwmStatCrcRejects 0
      refine ⟨_, exec_fwWrite 0 tag off n (.ok b) crc, ?_, ?_, ?_, command_hasAnswer htake hact,
        command_touches htake hact (by decide) hbump.mono.frame⟩
      · exact (congrArg (fun t : State => t.fw) heq).trans hfw
      · exact (congrArg (fun t : State => t.boot) heq).trans (taken_boot htake)
      · refine (congrArg (fun t : State => t.fld .fwmStatCrcRejects 0) heq).trans ?_
        refine (fld_bump_same (f := .fwmStatCrcRejects) (by decide) (by decide) 0).trans ?_
        rw [taken_fld htake]
        rfl
    · exact command_answers (slice := (0 : Fin 512)) htake (fwWriteAction_unread (crc := crc) hp' hopen' hn hmost hfits)
  · intro tag off n buf crc s p htake hp hbad
    have hact := fwWriteAction_malformed (s := s.taken 0 tag MbxOp.fwWrite) (buffer := buf) (crc := crc)
      (by rw [taken_fw htake, hp]) hbad
    exact command_answers (slice := (0 : Fin 512)) htake hact
  · intro tag s p htake hp hstage
    have hexec := exec_fwCheck htake hp hstage
    cases hcheck : s.checkPackage p with
    | ok i =>
      rw [hcheck] at hexec
      refine ⟨_, hexec, ?_, ?_, answer_hasAnswer .., answered_touches htake (by decide) (packagePassed_moves ..).mono.frame⟩
      · exact (packagePassed_fw p i).trans (by rw [taken_fw htake])
      · exact taken_putImage htake p.kind (some i)
    | error e =>
      obtain ⟨c, d, r⟩ := e
      rw [hcheck] at hexec
      obtain ⟨hpackage, hupdate, himages, hstages, hreason⟩ := packageFailed_spec (s.taken 0 tag MbxOp.fwCheck) p r
      have hput := taken_putImage htake p.kind none
      refine ⟨_, hexec, hpackage, hupdate, himages.trans (congrArg (fun b : BootState => b.fwImages) hput),
        hstages.trans (congrArg (fun b : BootState => b.stageImages) hput), hreason, answer_hasAnswer .., ?_⟩
      exact touches_trans (touches_mono (by decide) (taken_touches htake))
        (touches_trans (packageFailed_moves ..).mono.frame (touches_mono (by decide) (answer_touches 0 tag _ c d [])))
  · exact fun s p hp => checkPackage_incomplete hp
  · intro s kind i hi
    refine ⟨fun hkey hlow => ?_, fun hkey hfresh => ?_, imageReason_revoked hi, imageReason_spare hi⟩
    · exact (imageReason_of_key hi hkey).trans (if_pos hlow)
    · exact (imageReason_of_key hi hkey).trans (if_neg (Nat.not_lt.mpr hfresh))
  · intro tag s htake
    have hact : fwStatusAction 0 (s.taken 0 tag MbxOp.fwStatus) = (s.taken 0 tag MbxOp.fwStatus, Status.success, [s.fwmStatus]) := by
      rw [← taken_fwmStatus htake]
      rfl
    exact command_answers (slice := (0 : Fin 512)) htake hact

end

section
/-! PROOFS. The handover of firmware: activation, the switch, the health window, and the firmware-only reset. -/

set_option Elab.async false

namespace Sys2Proof.Machine

variable {s : State}

/-! ## Fuses blown (R451) -/

/-- The highest position of which one holds, once all the lower ones hold as well. -/
theorem foldl_highest_or_lt (p : Nat → Bool) (m n : Nat) :
    (List.range n).foldl (fun v k => if p k || decide (k < m) then k + 1 else v) 0
      = max ((List.range n).foldl (fun v k => if p k then k + 1 else v) 0) (min m n) := by
  induction n with
  | zero => simp
  | succ n ih =>
    have hle := (foldl_highest_le p p (fun _ h => h) n).1
    simp only [List.range_succ, List.foldl_append, List.foldl_cons, List.foldl_nil]
    rw [ih]
    by_cases hp : p n = true
    · simp only [hp, Bool.true_or, if_true]
      omega
    · by_cases hm : n < m
      · simp only [hp, hm, decide_true, Bool.or_true, if_true, Bool.false_eq_true, if_false]
        omega
      · simp only [hp, hm, decide_false, Bool.or_false, Bool.false_eq_true, if_false]
        omega

theorem Thermo.version_blow (f : Thermo) (v : Nat) : (f.blow v).version = max f.version (min v 64) := by
  have hbits : (fun (w k : Nat) => if (f.blow v).bits.getLsbD k || (f.blow v).twins.getLsbD k then k + 1 else w)
      = fun w k => if (f.bits.getLsbD k || f.twins.getLsbD k) || decide (k < min v 64) then k + 1 else w := by
    funext w k
    have hmask : (BitVec.ofNat 64 (2 ^ min v 64 - 1)).getLsbD k = decide (k < min v 64) := by
      rw [BitVec.getLsbD_ofNat, Nat.testBit_two_pow_sub_one, Bool.and_eq_right_iff_imp, decide_eq_true_eq, decide_eq_true_eq]
      omega
    simp only [Thermo.blow, BitVec.getLsbD_or, hmask]
    cases f.bits.getLsbD k <;> cases f.twins.getLsbD k <;> simp
  unfold Thermo.version
  rw [hbits, foldl_highest_or_lt, Nat.min_eq_left (Nat.min_le_right v 64)]

/-! ## Activation (R483, R484) -/

/-- What an FW_ACTIVATE of slice 0 answers once it is taken up. -/
def State.activateFw (s : State) (tag : Word32) (dc : Bool) : Result :=
  if s.emergency then .next (s.answer 0 tag MbxOp.fwActivate Status.fwDeferred 0 [])
  else if s.activating then .next (s.answer 0 tag MbxOp.fwActivate Status.busy 0 [])
  else match s.fw.package with
    | none => .next (s.answer 0 tag MbxOp.fwActivate Status.descMalformed 0 [])
    | some p =>
      if !p.checked ∨ s.fw.update ≠ 2 then .next (s.answer 0 tag MbxOp.fwActivate Status.descMalformed 0 [])
      else if p.kind = 1 then
        .next (({ s with boot := s.boot.point (fun d => { d with stageSlot := s.spareStage }), fw.package := none,
                         fw.update := 0 } : State).answer 0 tag MbxOp.fwActivate Status.success 0 [])
      else
        .next { s.advanceFree with fw.update := 3, fw.switching := true, fw.quiesceAt := some (s.time.now + s.freeNow),
                                   fw.activator := some (0, tag), fw.driverConfirm := dc, fw.confirmed := false, fw.selfTested := false }

theorem exec_fwActivate {tag : Word32} {dc : Bool} (h : s.takesUp 0 tag MbxOp.fwActivate) :
    exec (.fwActivate 0 tag dc) s = (s.taken 0 tag MbxOp.fwActivate).activateFw tag dc := by
  have htake : s.take (0 : Fin 512).val tag MbxOp.fwActivate = (s.taken 0 tag MbxOp.fwActivate, true) := take_of_takesUp h
  change execFwActivate 0 tag dc s = _
  unfold execFwActivate
  rw [htake]
  exact if_neg (by decide)

theorem activateFw_deferred {tag : Word32} {dc : Bool} (hhot : s.emergency = true) :
    s.activateFw tag dc = .next (s.answer 0 tag MbxOp.fwActivate Status.fwDeferred 0 []) := if_pos hhot

section Calm

variable {tag : Word32} {dc : Bool} (hcalm : s.emergency = false)
include hcalm

theorem activateFw_busy (hbusy : s.activating = true) : s.activateFw tag dc = .next (s.answer 0 tag MbxOp.fwActivate Status.busy 0 []) :=
  (if_neg (by rw [hcalm]; decide)).trans (if_pos hbusy)

variable (hidle : s.activating = false)
include hidle

theorem activateFw_empty (hp : s.fw.package = none) :
    s.activateFw tag dc = .next (s.answer 0 tag MbxOp.fwActivate Status.descMalformed 0 []) := by
  unfold State.activateFw
  rw [hcalm, hidle, hp]
  rfl

variable {p : FwPackage} (hp : s.fw.package = some p) (hchecked : p.checked = true) (hupdate : s.fw.update = 2)
include hp hchecked hupdate

theorem activateFw_loader (hkind : p.kind = 1) : s.activateFw tag dc =
    .next (({ s with boot := s.boot.point (fun d => { d with stageSlot := s.spareStage }), fw.package := none,
                     fw.update := 0 } : State).answer 0 tag MbxOp.fwActivate Status.success 0 []) := by
  unfold State.activateFw
  rw [hcalm, hidle, hp]
  dsimp only
  rw [if_neg (by decide), if_neg (by decide), if_neg (by simp [hchecked, hupdate]), if_pos hkind]

theorem activateFw_switches (hkind : p.kind ≠ 1) : s.activateFw tag dc =
    .next { s.advanceFree with fw.update := 3, fw.switching := true, fw.quiesceAt := some (s.time.now + s.freeNow),
                               fw.activator := some (0, tag), fw.driverConfirm := dc, fw.confirmed := false, fw.selfTested := false } := by
  unfold State.activateFw
  rw [hcalm, hidle, hp]
  dsimp only
  rw [if_neg (by decide), if_neg (by decide), if_neg (by simp [hchecked, hupdate]), if_neg hkind]

end Calm

section TakenUp

variable {slice : Nat} {tag : Word32} {op : Nat} (h : s.takesUp slice tag op)
include h

theorem taken_activating : (s.taken slice tag op).activating = s.activating := by
  have hlast : (s.taken slice tag op).last = s.last := taken_touches h .last (by decide)
  simp only [State.activating, hlast]

theorem taken_inWindow : (s.taken slice tag op).inWindow = s.inWindow := by
  obtain ⟨f, hf⟩ := taken_of_takesUp h
  rw [hf]
  rfl

theorem taken_freeNow : (s.taken slice tag op).freeNow = s.freeNow := by
  obtain ⟨f, hf⟩ := taken_of_takesUp h
  rw [hf]
  rfl

end TakenUp

theorem take_quiesced {slice : Nat} {tag : Word32} {op : Nat} (hsw : s.fw.switching = true) (hq : s.fw.quiesceAt = some s.time.now) :
    s.take slice tag op = (s, false) := by
  have haway : s.fwAway = true := by simp [State.fwAway, hsw, hq, State.due]
  have hheld : s.mbxHeld = true := by simp [State.mbxHeld, haway]
  unfold State.take
  exact if_pos (.inr (.inl hheld))

/-! ## Switch (R485, R486) -/

/-- The new firmware, in charge of the slot that was inactive, with its health window begun. -/
def State.handedOver (s : State) : State :=
  { s.switchTo s.spareFw with fw.update := 4, fw.switching := false, fw.quiesceAt := none, fw.activator := none,
                              fw.windowEnd := some (s.time.now + 300000000000) }

theorem handedOver_moves (s : State) : s.Moves s.handedOver [.fw, .work] :=
  (switchTo_moves s s.spareFw).then (setFw_moves _ _)

theorem exec_handoverSwitch (hsw : s.fw.switching = true) : exec .handoverSwitch s = .next
    (((s.handedOver.fwEvent 1).serveAllHeld.respondTo s.fw.activator Status.success []).intakeAll).settle := if_pos hsw

/-- A cell complex that runs the new firmware. -/
def State.cellsSwitched (s : State) (c : Fin 8) : State := { s with fw.oldCells := s.fw.oldCells &&& ~~~((1 : BitVec 8) <<< c.val) }

theorem exec_cellComplexSwitch {c : Fin 8} (hold : s.oldWork c = false) : exec (.cellComplexSwitch c) s = .next (s.cellsSwitched c) :=
  if_neg (by rw [hold]; decide)

theorem cellsSwitched_bit (c d : Fin 8) :
    (s.cellsSwitched c).fw.oldCells.getLsbD d = (s.fw.oldCells.getLsbD d && decide (d ≠ c)) := by
  have hmask : ∀ c d : Fin 8, (~~~((1 : BitVec 8) <<< c.val)).getLsbD d = decide (d ≠ c) := by decide
  simp only [State.cellsSwitched, BitVec.getLsbD_and, hmask]

/-! ## The health window (R487, R488) -/

theorem fwConfirmAction_confirms (hwin : s.inWindow = true) (htest : s.fw.selfTested = true) :
    fwConfirmAction 0 s = (({ s with fw.confirmed := true } : State).confirmFw, Status.success, []) := by
  unfold fwConfirmAction
  rw [if_neg (by decide), hwin, htest]
  rfl

theorem fwConfirmAction_busy (h : s.inWindow = false ∨ s.fw.selfTested = false) : fwConfirmAction 0 s = (s, Status.busy, []) := by
  unfold fwConfirmAction
  rw [if_neg (by decide), if_pos (by simpa using h)]

theorem descInUse_point (b : BootState) (f : BootDesc → BootDesc) : (b.point f).descInUse = { f b.descInUse with good := true } := rfl

theorem exec_healthConfirm (hwin : s.inWindow = true) : exec .healthConfirm s =
    if s.fw.driverConfirm = true ∧ s.fw.confirmed = false then .next { s with fw.selfTested := true }
    else .next ({ s with fw.selfTested := true } : State).confirmFw := by
  refine (if_pos hwin).trans ?_
  dsimp only
  simp only [Bool.not_eq_true']

theorem exec_healthWindowExpiry {failed hb : Bool} {w : Nat} (hupdate : s.fw.update = 4) (hw : s.fw.windowEnd = some w) :
    exec (.healthWindowExpiry failed hb) s =
      if failed = true ∨ s.passed w = true then .next (s.fallBack (if failed then 2 else 1) hb) else .next s := by
  change execHealthWindowExpiry failed hb s = _
  unfold execHealthWindowExpiry
  rw [hw, hupdate, Option.any_some]
  simp only [true_and]

/-! ## Fallback and the firmware-only reset (R488, R477) -/

theorem nextTree_fw : s.nextTree.fw = s.fw := (nextTree_moves s).frame .fw (by decide)

theorem nextTree_regs : s.nextTree.regs = s.regs := (nextTree_moves s).frame .regs (by decide)

/-- Going on to the next tree changes only whether one is generated, and whether reports are refused. -/
theorem nextTree_boot : s.nextTree.boot = { s.boot with generating := s.nextTree.boot.generating, refused := s.nextTree.boot.refused } := by
  unfold State.nextTree
  split <;> rfl

theorem beginFwReset_fw : s.beginFwReset.fw = { s.fw with resetting := true } := by
  unfold State.beginFwReset
  rw [nextTree_fw]
  rfl

theorem beginFwReset_boot : s.beginFwReset.boot = { s.boot with
    bottomReady := false, bottomUsed := 0, generating := s.beginFwReset.boot.generating, refused := s.beginFwReset.boot.refused } := by
  unfold State.beginFwReset
  rw [nextTree_boot]
  rfl

theorem beginFwReset_counts : s.beginFwReset.fld .fwmStatFwResets 0 = min (s.fld .fwmStatFwResets 0 + 1) 65535 := by
  have hregs : s.beginFwReset.regs = (s.bump .fwmStatFwResets 0).regs := nextTree_regs
  have hfld : s.beginFwReset.fld .fwmStatFwResets 0 = (s.bump .fwmStatFwResets 0).fld .fwmStatFwResets 0 := by
    simp only [State.fld, State.rawReg, hregs]
  exact hfld.trans (fld_bump_same (f := .fwmStatFwResets) (by decide) (by decide) 0)

/-- The state that a fallback starts from: its counter, its cause and its path are noted, and the package must be checked again. -/
def State.fallingBack (s : State) (cause : Nat) (hb : Bool) : State :=
  { (s.bump .fwmStatFallbacks 0).uncheck with fw.lastFailure := cause, fw.resetPath := !hb }

/-- The outgoing firmware, taking the machine back. -/
def State.handedBack (s : State) (cause : Nat) : State :=
  { (s.fallingBack cause true).switchTo s.boot.fwSlot with
      fw.update := if (s.fallingBack cause true).fw.package.isSome then 1 else 0 }

theorem fallBack_hands_back (cause : Nat) : s.fallBack cause true = (s.handedBack cause).fwEvent 4 := rfl

theorem fallBack_resets (cause : Nat) :
    s.fallBack cause false = ({ s.fallingBack cause false with fw.update := 5 } : State).beginFwReset := rfl

theorem fallingBack_package_unchecked {cause : Nat} {hb : Bool} {p : FwPackage} (hp : (s.fallingBack cause hb).fw.package = some p) :
    p.checked = false := by
  obtain ⟨q, -, hq⟩ := Option.map_eq_some_iff.mp hp
  exact congrArg FwPackage.checked hq.symm

theorem fallBack_true_fw (cause : Nat) : (s.fallBack cause true).fw = (s.handedBack cause).fw := rfl

theorem fallBack_false_fw (cause : Nat) :
    (s.fallBack cause false).fw = { (s.fallingBack cause false).fw with update := 5, resetting := true } := by
  rw [fallBack_resets, beginFwReset_fw]

theorem fallBack_false_boot (cause : Nat) : (s.fallBack cause false).boot = { s.boot with
    bottomReady := false, bottomUsed := 0, generating := (s.fallBack cause false).boot.generating,
    refused := (s.fallBack cause false).boot.refused } := by
  rw [fallBack_resets]
  exact beginFwReset_boot

/-- What a fallback leaves of the handover, on either path: no health window, and no package that is checked. -/
theorem fallBack_drops (cause : Nat) (hb : Bool) : (s.fallBack cause hb).fw.windowEnd = none
    ∧ ∀ p, (s.fallBack cause hb).fw.package = some p → p.checked = false := by
  cases hb with
  | true => exact ⟨rfl, fun p hp => fallingBack_package_unchecked (s := s) (cause := cause) (hb := true) hp⟩
  | false =>
    rw [fallBack_false_fw]
    exact ⟨rfl, fun p hp => fallingBack_package_unchecked (s := s) (cause := cause) (hb := false) hp⟩

theorem exec_fwWatchdogExpiry (hrun : s.fw.resetting = false) : exec .fwWatchdogExpiry s =
    if s.fw.update = 3 then .next s.endHandover.beginFwReset
    else if s.fw.update = 4 then .next (s.fallBack 3 false)
    else .next s.beginFwReset := if_neg (by rw [hrun]; decide)

/-- The firmware, started again from a slot. -/
def State.restarted (s : State) (slot : Nat) : State :=
  { s.switchTo slot with
      fw.resetting := false, fw.update := if s.fw.update = 5 then (if s.fw.package.isSome then 1 else 0) else s.fw.update,
      fw.oldCells := 0, boot.fwFallback := decide (slot ≠ s.boot.fwSlot),
      work.services := (s.switchTo slot).work.services.map fun v => { v with old := false } }

theorem restarted_touches (slot : Nat) : s.touches (s.restarted slot) [.fw, .work, .boot] := by
  intro p hp
  cases p <;> simp [State.agree, State.restarted, State.switchTo] at hp ⊢

theorem bootImage_first {u : State} {kind slot : Nat} {i : FlashImage} (h : s.tryImage kind slot = (u, some i)) :
    s.bootImage kind slot = (u, some (slot, i)) := by
  unfold State.bootImage
  rw [h]

theorem bootImage_none {u v : State} {kind slot : Nat} (h : s.tryImage kind slot = (u, none)) (h' : u.tryImage kind (1 - slot) = (v, none)) :
    s.bootImage kind slot = (v, none) := by
  unfold State.bootImage
  rw [h]
  dsimp only
  rw [h']

theorem exec_firmwareResetDone {i : FlashImage} (hreset : s.fw.resetting = true) (hboot : s.bootImage 2 s.boot.fwSlot = (s, some (s.boot.fwSlot, i))) :
    exec .firmwareResetDone s =
      .next ((((s.restarted s.boot.fwSlot).deferTaken.fwEvent 5).tellLow).intakeAll).settle := by
  change execFirmwareResetDone s = _
  unfold execFirmwareResetDone
  rw [if_pos hreset]
  dsimp only
  rw [hboot]
  rfl

theorem exec_firmwareResetDone_recovers {v : State} (hreset : s.fw.resetting = true) (hboot : s.bootImage 2 s.boot.fwSlot = (v, none)) :
    exec .firmwareResetDone s = .next v.recover := by
  change execFirmwareResetDone s = _
  unfold execFirmwareResetDone
  rw [if_pos hreset]
  dsimp only
  rw [hboot]

end Sys2Proof.Machine

open Sys2Proof Sys2Proof.Machine

/-- Settles O45: each step of the handover is written out as one state, of which the clauses read the parts. -/
theorem firmwareHandover : Obligations.FirmwareHandover := by
  refine ⟨?_, ?_, ?_, ?_, ?_, ?_, ?_, ?_, ?_, ?_, ?_, ?_, ?_, ?_, ?_⟩
  · intro tag dc s p htake hcalm hidle hp hchecked hupdate
    have hfw := taken_fw htake
    have hcalm' := (taken_emergency htake).trans hcalm
    have hidle' := (taken_activating htake).trans hidle
    have hp' : (s.taken 0 tag MbxOp.fwActivate).fw.package = some p := by rw [hfw, hp]
    have hupdate' : (s.taken 0 tag MbxOp.fwActivate).fw.update = 2 := by rw [hfw, hupdate]
    refine ⟨fun hkind => ?_, fun hkind => ?_⟩
    · have hexec := exec_fwActivate (dc := dc) htake
      rw [activateFw_loader hcalm' hidle' hp' hchecked hupdate' hkind] at hexec
      refine ⟨_, hexec, ?_, ?_, answer_hasAnswer .., answered_touches htake (by decide)
        ((setBootFw_moves _ _ _ BootState.Keeps.of_eq).mono.frame)⟩
      · rw [answer_boot]
        simp only [State.spareStage, taken_boot htake]
      · rw [answer_fw]
        simp only [hfw]
    · have hexec := exec_fwActivate (dc := dc) htake
      rw [activateFw_switches hcalm' hidle' hp' hchecked hupdate' hkind] at hexec
      refine ⟨_, hexec, ?_, taken_ready htake, ?_⟩
      · simp only [State.advanceFree, hfw, taken_now htake, taken_freeNow htake]
      · exact touches_trans (touches_mono (by decide) (taken_touches htake))
          ((advanceFree_moves _).mono.then (setFw_moves _ _) : State.Moves _ _ [.fw, .mailboxes, .free]).frame
  · exact fun slice tag op s hsw hq => take_quiesced hsw hq
  · intro tag dc s htake
    have hexec := exec_fwActivate (dc := dc) htake
    refine ⟨fun hhot => ?_, fun hcalm hbusy => ?_, fun hcalm hidle hp => ?_⟩
    · rw [activateFw_deferred ((taken_emergency htake).trans hhot)] at hexec
      exact ⟨_, hexec, answered htake _⟩
    · rw [activateFw_busy ((taken_emergency htake).trans hcalm) ((taken_activating htake).trans hbusy)] at hexec
      exact ⟨_, hexec, answered htake _⟩
    · rw [activateFw_empty ((taken_emergency htake).trans hcalm) ((taken_activating htake).trans hidle)
        (by rw [taken_fw htake, hp])] at hexec
      exact ⟨_, hexec, answered htake _⟩
  · exact fun s hsw => ⟨s.handedOver, exec_handoverSwitch hsw, rfl, rfl, rfl, rfl, rfl, rfl, (handedOver_moves s).frame⟩
  · intro c s hold
    refine ⟨_, exec_cellComplexSwitch hold, ?_, fun d hd => ?_, (setFw_moves s _).frame⟩
    · rw [cellsSwitched_bit]
      simp
    · rw [cellsSwitched_bit]
      simp [hd]
  · intro tag s htake
    refine ⟨fun hwin htest => ?_, fun hbusy => ?_⟩
    · have hact := fwConfirmAction_confirms (s := s.taken 0 tag MbxOp.fwConfirm) ((taken_inWindow htake).trans hwin)
        (by rw [taken_fw htake]; exact htest)
      exact command_next (slice := (0 : Fin 512).val) htake hact
    · have hact := fwConfirmAction_busy (s := s.taken 0 tag MbxOp.fwConfirm) (by rwa [taken_inWindow htake, taken_fw htake])
      exact command_answers (slice := (0 : Fin 512)) htake hact
  · intro s hwin
    refine ⟨fun hfree => ?_, fun hdriver hconf => ?_⟩
    · exact (exec_healthConfirm hwin).trans (if_neg (by simp [hfree]))
    · exact (exec_healthConfirm hwin).trans (if_pos ⟨hdriver, hconf⟩)
  · exact fun s => ⟨rfl, rfl, Thermo.version_blow .., Thermo.version_blow .., rfl, rfl, ⟨_, rfl, rfl, rfl, rfl⟩,
      (confirmFw_moves s).frame⟩
  · intro hb s w hupdate hw
    refine ⟨?_, fun hpast => ?_, fun hleft => ?_⟩
    · exact (exec_healthWindowExpiry hupdate hw).trans (if_pos (.inl rfl))
    · exact (exec_healthWindowExpiry hupdate hw).trans (if_pos (.inr hpast))
    · exact (exec_healthWindowExpiry hupdate hw).trans (if_neg (by simp [hleft]))
  · intro cause s
    have hfw := fallBack_false_fw (s := s) cause
    have hboot := fallBack_false_boot (s := s) cause
    refine ⟨rfl, rfl, rfl, congrArg FwState.update hfw, congrArg FwState.resetting hfw, congrArg FwState.lastFailure hfw, rfl,
      congrArg BootState.bottomReady hboot, (congrArg BootState.fwSlot hboot :), (congrArg BootState.fuseFw hboot :), fallBack_drops cause⟩
  · intro s hrun h3 h4
    refine ⟨_, (exec_fwWatchdogExpiry hrun).trans ((if_neg h3).trans (if_neg h4)), beginFwReset_fw, beginFwReset_boot,
      beginFwReset_counts, (beginFwReset_moves s).mono.frame⟩
  · exact fun s hrun h3 => (exec_fwWatchdogExpiry hrun).trans (if_pos h3)
  · exact fun s hrun h4 => (exec_fwWatchdogExpiry hrun).trans ((if_neg (by omega)).trans (if_pos h4))
  · intro s i hreset htry
    refine ⟨s.restarted s.boot.fwSlot, exec_firmwareResetDone hreset (bootImage_first htry), rfl, rfl, ?_, rfl, rfl, rfl,
      restarted_touches s.boot.fwSlot⟩
    simp [State.restarted, State.switchTo]
  · intro s u v hreset htry htry'
    exact ⟨_, exec_firmwareResetDone_recovers hreset (bootImage_none htry htry'), rfl, rfl, rfl⟩

end

section
/-! PROOFS. A Last that takes effect while the host port of slice 0 is down. -/

set_option Elab.async false

namespace Sys2Proof.Machine

/-- Slice 0 is bound to host port 0, which is down, and host port 1 is up. -/
def zeroMustMove : State := { State.reset with host := vset State.reset.host 1 { vget State.reset.host 1 {} with up := true } }

/-- Slice 0 is reset to move to the other port, after the generations were cleared, and that raises its generation (R370). -/
theorem lastInForce_raises_gen : ((zeroMustMove.lastInForce 0 {}).slice 0).gen = 1 := by
  decide +kernel

end Sys2Proof.Machine

open Sys2Proof Sys2Proof.Machine

/-- Refutes O46: where a Last takes effect while slice 0's host port is down and the other one is up, slice 0 moves by a reset, and its
generation is not 0 then. -/
theorem not_lastActivation : ¬ Obligations.LastActivation := by
  rintro ⟨-, -, -, -, -, -, -, -, -, -, -, hforce⟩
  obtain ⟨-, -, -, hslices⟩ := hforce zeroMustMove 0 {}
  have hgen := (hslices 0).1
  exact absurd (hgen.symm.trans lastInForce_raises_gen) (by decide)

end

section
/-! PROOFS. Power and thermal: the capping ladder, the thermal states, Shutdown, the brake, and the limits in force. -/

set_option Elab.async false

namespace Sys2Proof.Machine

variable {s : State}

/-! ## An emergency leaves the levels of power -/

theorem endHandover_levels : s.endHandover.power.levels = s.power.levels := by
  unfold State.endHandover
  dsimp -proj only
  exact ((serveAllHeld_moves _).levels (by decide)).trans ((respondTo_moves ..).levels (by decide))

theorem abortHandover_levels : s.abortHandover.power.levels = s.power.levels := by
  unfold State.abortHandover
  split
  · refine ((intakeAll_moves _).levels (by decide)).trans ?_
    exact endHandover_levels
  · rfl

theorem emergencyFrom_levels (before : Bool) : (s.emergencyFrom before).power.levels = s.power.levels := by
  unfold State.emergencyFrom
  split
  · exact ((abortActivation_moves _).levels (by decide)).trans abortHandover_levels
  · rfl

/-! ## The capping ladder (R495) -/

theorem setCap_levels (step : Nat) : (s.setCap step).power.levels =
    (s.power.thermal, s.power.coolSince, step, s.power.capUnmet, s.power.underSince) := by
  unfold State.setCap
  dsimp -proj only
  refine (emergencyFrom_levels _).trans ?_
  exact ((pwrEvent_moves _).levels (by decide)).trans ((bump_moves ..).levels (by decide))

theorem setCap_capStep (step : Nat) : (s.setCap step).power.capStep = step :=
  congrArg (fun l : ThermalState × Option Nat × Nat × Bool × Option Nat => l.2.2.1) (setCap_levels (s := s) step)

theorem setCap_capUnmet (step : Nat) : (s.setCap step).power.capUnmet = s.power.capUnmet :=
  congrArg (fun l : ThermalState × Option Nat × Nat × Bool × Option Nat => l.2.2.2.1) (setCap_levels (s := s) step)

section Over

variable {w : Nat} (hover : s.power.limitW < w)
include hover

theorem capStepTo_up (hroom : s.power.capStep < 5) :
    s.capStepTo w = ({ s with power.underSince := none } : State).setCap (s.power.capStep + 1) := by
  unfold State.capStepTo
  dsimp only
  rw [if_pos hover, if_pos hroom]

theorem capStepTo_top (htop : 5 ≤ s.power.capStep) :
    s.capStepTo w = { s with power.underSince := none, power.capUnmet := true } := by
  unfold State.capStepTo
  dsimp only
  rw [if_pos hover, if_neg (Nat.not_lt.mpr htop)]

end Over

section Under

variable {w : Nat} (hunder : w ≤ s.power.limitW)
include hunder

theorem capStepTo_near (hnear : 95 * s.power.limitW ≤ 100 * w ∨ s.power.capStep = 0) :
    s.capStepTo w = { s with power.capUnmet := false, power.underSince := none } := by
  unfold State.capStepTo
  dsimp only
  rw [if_neg (Nat.not_lt.mpr hunder), if_pos hnear]

section Below

variable (hbelow : 100 * w < 95 * s.power.limitW) (hstep : 0 < s.power.capStep)
include hbelow hstep

theorem capStepTo_below : s.capStepTo w = match s.power.underSince with
    | none => { s with power.capUnmet := false, power.underSince := some s.time.now }
    | some t =>
      if s.time.now < t + 10000000 then { s with power.capUnmet := false }
      else ({ s with power.capUnmet := false, power.underSince := some s.time.now } : State).setCap (s.power.capStep - 1) := by
  unfold State.capStepTo
  dsimp only
  exact (if_neg (Nat.not_lt.mpr hunder)).trans (if_neg (by omega))

theorem capStepTo_begins (hsince : s.power.underSince = none) :
    s.capStepTo w = { s with power.capUnmet := false, power.underSince := some s.time.now } := by
  rw [capStepTo_below hunder hbelow hstep, hsince]

theorem capStepTo_waits {u : Nat} (hsince : s.power.underSince = some u) (hearly : s.time.now < u + 10000000) :
    s.capStepTo w = { s with power.capUnmet := false } := by
  rw [capStepTo_below hunder hbelow hstep, hsince]
  exact if_pos hearly

theorem capStepTo_down {u : Nat} (hsince : s.power.underSince = some u) (hlate : u + 10000000 ≤ s.time.now) :
    s.capStepTo w =
      ({ s with power.capUnmet := false, power.underSince := some s.time.now } : State).setCap (s.power.capStep - 1) := by
  rw [capStepTo_below hunder hbelow hstep, hsince]
  exact if_neg (Nat.not_lt.mpr hlate)

end Below

theorem capStepTo_met : (s.capStepTo w).power.capUnmet = false := by
  by_cases hnear : 95 * s.power.limitW ≤ 100 * w ∨ s.power.capStep = 0
  · rw [capStepTo_near hunder hnear]
  · rw [capStepTo_below hunder (by omega) (by omega)]
    split
    · rfl
    · split
      · rfl
      · exact setCap_capUnmet _

end Under

/-! ## Thermal states (R499, R501) -/

theorem thermalOf_code {level : Nat} (h : level < 4) : (thermalOf level).code = level := by
  match level, h with
  | 0, _ | 1, _ | 2, _ | 3, _ => rfl

theorem thermalCode_lt (t : ThermalState) : t.code < 4 := by
  cases t <;> decide

/-- The levels are nested: a temperature that reaches one reaches every lower one. -/
theorem thermalLevel_reaches (j h : Nat) :
    (thermalLevel j h = 4 ↔ 115 ≤ j ∨ 105 ≤ h) ∧ (3 ≤ thermalLevel j h ↔ 108 ≤ j ∨ 97 ≤ h)
      ∧ (2 ≤ thermalLevel j h ↔ 103 ≤ j ∨ 93 ≤ h) ∧ (1 ≤ thermalLevel j h ↔ 100 ≤ j ∨ 90 ≤ h) := by
  have h4 : thermalEntry 4 = (115, 105) := rfl
  have h3 : thermalEntry 3 = (108, 97) := rfl
  have h2 : thermalEntry 2 = (103, 93) := rfl
  have h1 : thermalEntry 1 = (100, 90) := rfl
  simp only [thermalLevel, reaches, h4, h3, h2, h1, decide_eq_true_eq]
  refine ⟨?_, ?_, ?_, ?_⟩ <;> (repeat' split) <;> omega

theorem setThermal_levels {level : Nat} (hne : s.power.thermal.code ≠ level) : (s.setThermal level).power.levels =
    (thermalOf level, none, s.power.capStep, s.power.capUnmet, s.power.underSince) := by
  unfold State.setThermal
  dsimp -proj only
  rw [if_neg hne]
  refine (emergencyFrom_levels _).trans ?_
  refine ((pwrEvent_moves _).levels (by decide)).trans ?_
  exact ((thermPin_moves ..).levels (by decide)).trans ((bump_moves ..).levels (by decide))

theorem setThermal_thermal {level : Nat} (hne : s.power.thermal.code ≠ level) : (s.setThermal level).power.thermal = thermalOf level :=
  congrArg Prod.fst (setThermal_levels hne)

theorem setThermal_coolSince {level : Nat} (hne : s.power.thermal.code ≠ level) : (s.setThermal level).power.coolSince = none :=
  congrArg (fun l : ThermalState × Option Nat × Nat × Bool × Option Nat => l.2.1) (setThermal_levels hne)

/-- One thermal state down, with the wait for the next one begun where the temperatures allow it. -/
def State.cooledDown (s : State) (j h : Nat) : State :=
  let t := s.setThermal (s.power.thermal.code - 1)
  { t with power.coolSince := if 1 < s.power.thermal.code ∧ isBelow (s.power.thermal.code - 1) j h then some t.time.now else none }

theorem cooledDown_code {j h : Nat} (hhot : s.power.thermal.code ≠ 0) :
    (s.cooledDown j h).power.thermal.code = s.power.thermal.code - 1 := by
  have hcode := thermalCode_lt s.power.thermal
  change (s.setThermal (s.power.thermal.code - 1)).power.thermal.code = _
  rw [setThermal_thermal (by omega)]
  exact thermalOf_code (by omega)

section Sample

variable {j h : Nat}

theorem thermalStep_shutDown (hlevel : thermalLevel j h = 4) : s.thermalStep j h = s.shutDown := if_pos hlevel

variable (hlow : thermalLevel j h < 4)
include hlow

theorem thermalStep_up (hup : s.power.thermal.code < thermalLevel j h) : s.thermalStep j h = s.setThermal (thermalLevel j h) :=
  (if_neg (Nat.ne_of_lt hlow)).trans (if_pos hup)

variable (hnot : thermalLevel j h ≤ s.power.thermal.code)
include hnot

theorem thermalStep_holds (hwarm : isBelow s.power.thermal.code j h = false) :
    s.thermalStep j h = { s with power.coolSince := none } := by
  refine (if_neg (Nat.ne_of_lt hlow)).trans ((if_neg (Nat.not_lt.mpr hnot)).trans (if_pos (.inr ?_)))
  rw [hwarm]
  rfl

section Cool

variable (hhot : s.power.thermal.code ≠ 0) (hcool : isBelow s.power.thermal.code j h = true)
include hhot hcool

theorem thermalStep_below : s.thermalStep j h = match s.power.coolSince with
    | none => { s with power.coolSince := some s.time.now }
    | some t => if s.time.now < t + 10000000 then s else s.cooledDown j h := by
  refine (if_neg (Nat.ne_of_lt hlow)).trans ((if_neg (Nat.not_lt.mpr hnot)).trans ((if_neg ?_).trans rfl))
  simp [hhot, hcool]

end Cool

end Sample

/-! ## The comparators, Shutdown, and the brake (R497, R501) -/

theorem exec_thermalComparator {j h : Nat} (hon : s.power.shutdown = false) (hpower : s.board.inputPower = true)
    (hup : s.power.thermal.code < thermalLevel j h) (hcritical : 3 ≤ thermalLevel j h) : exec (.thermalComparator j h) s =
      if thermalLevel j h = 4 then .next s.shutDown else .next (s.setThermal (thermalLevel j h)).settle := by
  refine if_neg ?_
  simp [hon, hpower, hup, hcritical]

theorem brakeEvent_power : s.brakeEvent.power = { s.power with brakeEventAt := s.brakeEvent.power.brakeEventAt } := by
  unfold State.brakeEvent
  split <;> rfl

/-- What goes dark in a Shutdown: all but what the flash, the fuses and the board keep. -/
theorem shutDown_stops : ∃ u : State, s.shutDown =
      { u.stopUnits with power.shutdown := true, power.thermal := .normal, power.coolSince := none, board.resetN := false }
    ∧ u.time = s.time ∧ u.keys = s.keys ∧ u.boot = s.boot := by
  by_cases hcold : s.power.thermal = .normal
  · refine ⟨s.alertPin true, ?_, (alertPin_moves ..).frame .time (by decide), (alertPin_moves ..).frame .keys (by decide),
      (alertPin_moves ..).frame .boot (by decide)⟩
    unfold State.shutDown
    rw [if_pos hcold]
  · refine ⟨s, ?_, rfl, rfl, rfl⟩
    unfold State.shutDown
    rw [if_neg hcold]

/-! ## The limits in force (R498) -/

theorem memCap_le_of_step {n : Nat} (hstep : s.power.capStep = n) : s.memCap ≤ [100, 100, 100, 75, 50, 25].getD n 25 := by
  rw [← hstep]
  exact Nat.min_le_left _ _

theorem memCap_brake (hbrake : s.power.brake = true) : s.memCap ≤ clamp 25 100 (s.fld .pwrCtrlBrakeMemPct 0) := by
  unfold State.memCap
  dsimp only
  rw [hbrake, if_pos rfl]
  exact (Nat.min_le_right _ _).trans (Nat.min_le_left _ _)

theorem memCap_critical (hhot : s.power.thermal = .critical) : s.memCap ≤ 25 := by
  unfold State.memCap
  dsimp only
  rw [if_pos hhot]
  exact (Nat.min_le_right _ _).trans (Nat.min_le_right _ _)

theorem arithClock_critical (hhot : s.power.thermal = .critical) : 3 ≤ s.arithClock := by
  unfold State.arithClock
  rw [hhot]
  exact Nat.le_max_left _ _

theorem arithClock_le : s.arithClock ≤ 3 := by
  have hcode := thermalCode_lt s.power.thermal
  unfold State.arithClock
  split <;> omega

end Sys2Proof.Machine

open Sys2Proof Sys2Proof.Machine

/-- Settles O48: the ladder and the thermal states are written out by their branches; an emergency's aborts leave the levels alone. -/
theorem powerAndThermal : Obligations.PowerAndThermal := by
  refine ⟨?_, ?_, ?_, ?_, ?_, ?_, ?_, ?_, ?_, ?_, ?_, ?_, ?_⟩
  · exact fun w s => ⟨fun hon => if_pos hon, fun hoff => if_neg (by rw [hoff]; decide)⟩
  · intro w s hover
    refine ⟨fun hroom => ?_, fun htop => ?_⟩
    · rw [capStepTo_up hover hroom]
      exact setCap_capStep _
    · rw [capStepTo_top hover htop]
      refine ⟨rfl, rfl, ?_⟩
      intro p hp
      cases p <;> simp [State.agree] at hp ⊢
  · intro w s hunder
    refine ⟨capStepTo_met hunder, fun hnear => ?_, fun hbelow hstep => ⟨fun hsince => ?_, fun u hsince hearly => ?_,
      fun u hsince hlate => ?_⟩⟩
    · rw [capStepTo_near hunder (.inl hnear)]
      exact ⟨rfl, rfl⟩
    · rw [capStepTo_begins hunder hbelow hstep hsince]
      exact ⟨rfl, rfl⟩
    · rw [capStepTo_waits hunder hbelow hstep hsince hearly]
    · rw [capStepTo_down hunder hbelow hstep hsince hlate]
      exact setCap_capStep _
  · exact thermalLevel_reaches
  · intro j h s hon hpower
    refine if_neg ?_
    simp [hon, hpower]
  · intro j h s hoff
    refine if_pos ?_
    simpa using hoff
  · intro j h s
    refine ⟨thermalStep_shutDown, fun hup hlow => ?_, fun hlow hnot hhot hcool => ⟨fun hsince => ?_, fun u hsince hlate => ?_,
      fun u hsince hearly => ?_⟩, fun hnot hwarm hlow => ?_⟩
    · rw [thermalStep_up hlow hup, setThermal_thermal (Nat.ne_of_lt hup), thermalOf_code hlow]
      exact ⟨rfl, setThermal_coolSince (Nat.ne_of_lt hup)⟩
    · rw [thermalStep_below hlow hnot hhot hcool, hsince]
      exact ⟨rfl, rfl⟩
    · rw [thermalStep_below hlow hnot hhot hcool, hsince]
      dsimp only
      rw [if_neg (Nat.not_lt.mpr hlate)]
      exact cooledDown_code hhot
    · rw [thermalStep_below hlow hnot hhot hcool, hsince]
      exact if_pos hearly
    · rw [thermalStep_holds hlow hnot hwarm]
      exact ⟨rfl, rfl⟩
  · intro j h s hon hpower hup
    refine ⟨fun hlevel => ?_, fun hlevel => ?_⟩
    · refine (exec_thermalComparator hon hpower hup (by omega)).trans ((if_neg (by omega)).trans ?_)
      rw [hlevel]
    · exact (exec_thermalComparator hon hpower hup (by omega)).trans (if_pos hlevel)
  · intro s
    obtain ⟨u, hstop, htime, hkeys, hboot⟩ := shutDown_stops (s := s)
    rw [hstop]
    exact ⟨rfl, rfl, (congrArg TimeState.now htime :), rfl, rfl, rfl,
      congrArg (fun k : KeyStoreState => ({ deviceSecret := k.deviceSecret } : KeyStoreState)) hkeys,
      (congrArg BootState.fuseLast hboot :), (congrArg BootState.fuseFw hboot :), (congrArg BootState.fuseStage hboot :),
      (congrArg BootState.ownerDigests hboot :)⟩
  · intro s hfree
    exact if_neg (by rw [hfree]; decide)
  · intro s hbrake
    refine ⟨if_pos hbrake, _, if_pos hbrake, ?_, ?_,
      ((setPower_moves s _).mono.then (brakeEvent_moves _) : s.Moves _ [.power, .queue]).frame⟩
    · rw [brakeEvent_power]
    · rw [brakeEvent_power]
  · intro s
    refine ⟨arithClock_le, fun hhot => Nat.le_antisymm arithClock_le (arithClock_critical hhot), fun hbrake => ?_,
      fun hcold hfree hstep => ⟨?_, ?_⟩⟩
    · unfold State.arithClock
      rw [if_pos hbrake]
      omega
    · simp [State.arithClock, hcold, hfree, hstep, ThermalState.code]
    · simp [State.memCap, hcold, hfree, hstep]
  · exact fun s => ⟨memCap_critical, memCap_brake, fun h3 => memCap_le_of_step h3, fun h4 => memCap_le_of_step h4,
      fun h5 => memCap_le_of_step h5⟩

end

section
/-! PROOFS. Clusters that sleep and wake, and the self-refresh of the HBM. -/

set_option Elab.async false

namespace Sys2Proof.Machine

variable {s : State}

theorem setSleep_same (c : Fin 8) (x : SleepState) : vget (s.setSleep c x).power.sleep c .awake = x :=
  vget_vset_same _ _ _ _ c.isLt

theorem setSleep_other {c d : Fin 8} (h : d ≠ c) (x : SleepState) :
    vget (s.setSleep c x).power.sleep d .awake = vget s.power.sleep d .awake :=
  vget_vset_other _ _ _ _ _ fun heq => h (Fin.ext heq)

theorem setSleep_since (c : Fin 8) (x : SleepState) : vget (s.setSleep c x).power.sleepSince c 0 = s.time.now :=
  vget_vset_same _ _ _ _ c.isLt

/-- A cluster that wakes is awake, and every other one as before. -/
theorem wakeCluster_spec (c : Fin 8) : (s.wakeCluster c).awake c = true
    ∧ ∀ d : Fin 8, d ≠ c → vget (s.wakeCluster c).power.sleep d .awake = vget s.power.sleep d .awake := by
  by_cases hawake : s.awake c = true
  · have hsame : s.wakeCluster c = s := if_pos hawake
    rw [hsame]
    exact ⟨hawake, fun d _ => rfl⟩
  · have hwoken : ∃ u : State, s.wakeCluster c = u.setSleep c .awake ∧ u.power = s.power := by
      unfold State.wakeCluster
      rw [if_neg hawake]
      exact ⟨_, rfl, by split <;> rfl⟩
    obtain ⟨u, hu, hpower⟩ := hwoken
    rw [hu]
    refine ⟨decide_eq_true (setSleep_same c .awake), fun d hd => ?_⟩
    rw [setSleep_other hd, hpower]

end Sys2Proof.Machine

open Sys2Proof Sys2Proof.Machine

/-- Settles O49: each step is taken just where its conditions hold, and sets the state of its own cluster alone. -/
theorem clusterSleep : Obligations.ClusterSleep := by
  refine ⟨?_, ?_, ?_, ?_, ?_, ?_, ?_⟩
  · intro c s hawake hidle hfloor hdue
    refine ⟨s.setSleep c .light, if_pos ⟨hawake, by rw [hidle]; rfl, hfloor, hdue⟩, setSleep_same c _, setSleep_since c _,
      fun d hd => setSleep_other hd _, (setSleep_moves s c _).frame⟩
  · intro c s hkept
    refine if_neg ?_
    rintro ⟨-, hidle, hfloor, -⟩
    rcases hkept with hwork | hhigh
    · rw [hwork] at hidle
      exact absurd hidle (by decide)
    · exact absurd hfloor (Nat.not_le.mpr hhigh)
  · intro c s hlight hfloor hcold hdue
    refine ⟨s.setSleep c .deep, if_pos ⟨hlight, hfloor, by rw [hcold]; rfl, hdue⟩, setSleep_same c _,
      fun d hd => setSleep_other hd _, (setSleep_moves s c _).frame⟩
  · exact fun c s hfloor => if_neg fun h => hfloor h.2.1
  · exact fun c s => ⟨s.wakeCluster c, rfl, (wakeCluster_spec c).1, (wakeCluster_spec c).2, (wakeCluster_moves s c).mono.frame⟩
  · exact fun s hdeep hdue => ⟨_, if_pos ⟨hdeep, hdue⟩, rfl, rfl, rfl, (setPower_moves s _).frame⟩
  · exact fun s hlight => if_neg fun h => absurd (hlight.symm.trans h.1) (by decide)

end

section
/-! PROOFS. Device Time, its sources, Event Timers, and the registers without a command of their own. -/

set_option Elab.async false

namespace Sys2Proof.Machine

variable {s : State}

/-! ## Device Time (R503 to R506) -/

theorem freqAdjust_ge : -65536000 ≤ s.freqAdjust := le_max_left _ _

theorem slewPpm_le : s.slewPpm ≤ 1000 := by
  unfold State.slewPpm clamp
  split
  · decide
  · split <;> omega

theorem slewStep_ge : -(1000 * (64 * 65536)) ≤ s.slewStep := by
  have hppm := slewPpm_le (s := s)
  unfold State.slewStep
  dsimp only
  omega

/-- A tick is 64 ns, less at most 1,000 ppm of its rate and 1,000 ppm of its slew. -/
theorem advanceTime_gains (s : State) : s.time.now + 61 ≤ s.advanceTime.time.now := by
  have hfreq := freqAdjust_ge (s := s)
  have hslew := slewStep_ge (s := s)
  have hparts : tickParts = 4194304000000 := rfl
  unfold State.advanceTime
  dsimp only
  rw [hparts]
  omega

section SetTime

variable {v : Word64}

theorem setTime_sets (hconns : s.trans.conns = []) (htimers : s.time.timers = []) :
    s.setTime v = { s with time.now := v.toNat, time.frac := 0, time.part := 0 } :=
  if_pos (by rw [hconns, htimers]; exact ⟨rfl, rfl⟩)

theorem setTime_refuses (hbusy : s.trans.conns ≠ [] ∨ s.time.timers ≠ []) : s.setTime v = s.bump .timStatusSetRefused 0 := by
  refine if_neg ?_
  simp only [List.isEmpty_iff]
  tauto

end SetTime

theorem setFreq_sets {v : Word32} (hdriver : s.driverTime = true) : s.setFreq v = s.setFld .timFreqAdjust 0 v.toNat := if_pos hdriver

theorem setFreq_fld {v : Word32} : (s.setFld .timFreqAdjust 0 v.toNat).fld .timFreqAdjust 0 = v.toNat := by
  refine (fld_setFld_same (f := .timFreqAdjust) (by decide) (by decide) 0 v.toNat).trans ?_
  exact Nat.mod_eq_of_lt v.isLt

theorem setFreq_adjust {v : Word32} :
    (s.setFld .timFreqAdjust 0 v.toNat).freqAdjust = max (-65536000) (min 65536000 v.toInt) := by
  unfold State.freqAdjust
  rw [setFreq_fld, BitVec.ofNat_toNat, BitVec.setWidth_eq]

theorem not_manager {f : Func} (h : s.isManager f = false) : ¬ s.isManager f = true := by rw [h]; decide

/-! ## PPS and the sources (R508, R509) -/

theorem toSecond_spec (now : Nat) : ((now : Int) + toSecond now) % 1000000000 = 0 ∧ -500000000 ≤ toSecond now ∧ toSecond now < 500000000 := by
  unfold toSecond
  dsimp only
  split <;> omega

/-- An edge of PPS, noted. -/
def State.ppsSeen (s : State) : State := { s with time.ppsCap := s.time.now, time.lastPps := s.time.now }

theorem exec_ppsInEdge : exec .ppsInEdge s = if s.fld .timCtrlSource 0 = 4 then
      .next (({ s.ppsSeen with time.offsetNs := toSecond s.time.now, time.slewLeft := toSecond s.time.now * 65536 * 1000000 } : State).sourceState
        false)
    else .next s.ppsSeen := rfl

theorem sourceState_time (lost : Bool) : (s.sourceState lost).time = { s.time with holdover := lost } := by
  unfold State.sourceState
  split
  · next h => rw [← h]
  · rfl

theorem sourceState_lost (hlocked : s.time.holdover = false) : s.sourceState true =
    ({ s with time.holdover := true } : State).raise { slice := 0, code := EventCode.timeSource, info := 1 + 2 * s.fld .timCtrlSource 0 } :=
  if_neg (by rw [hlocked]; decide)

theorem exec_ppsOutSecond (hon : s.fld .timCtrlPpsOutEnable 0 = 1) (hnew : s.time.now / 1000000000 ≠ s.time.ppsSecond)
    (hfree : s.board.shorted.getLsbD 8 = false) : exec .ppsOutSecond s =
      .next (({ s with time.ppsSecond := s.time.now / 1000000000,
                       time.ppsHighUntil := some (s.time.now / 1000000000 * 1000000000 + max 1 (s.fld .timCtrlPpsWidthMs 0) * 1000000) }
        : State).emit (.pinLevel 8 true)) := by
  refine (if_pos ⟨hon, hnew⟩).trans (congrArg _ (if_neg ?_))
  change ¬ s.board.shorted.getLsbD 8 = true
  rw [hfree]
  decide

theorem exec_timeSourceLoss_port {p : Nat} (hport : s.sourcePort = some p) (hdown : s.linkUp p = false) :
    exec .timeSourceLoss s = .next (s.sourceState true) := by
  change execTimeSourceLoss s = _
  unfold execTimeSourceLoss
  rw [hport]
  exact if_pos (by dsimp only; rw [hdown]; rfl)

theorem exec_timeSourceLoss_pps (hsource : s.fld .timCtrlSource 0 = 4) (hlate : s.due (s.time.lastPps + 2000000000) = true) :
    exec .timeSourceLoss s = .next (s.sourceState true) := by
  have hport : s.sourcePort = none := by
    unfold State.sourcePort
    rw [hsource]
    rfl
  change execTimeSourceLoss s = _
  unfold execTimeSourceLoss
  rw [hport]
  exact if_pos (by rw [hsource, hlate]; rfl)

/-- An edge captured at a pin. -/
def State.captured (s : State) (k : Fin 8) : State :=
  { s with board.gpioIn := s.board.gpioIn ||| (1#8 <<< k.val), board.pinCap := vset s.board.pinCap k.val s.time.now }

theorem exec_timeCaptureEdge {k : Fin 8} (hpin : (s.pinsWith 4).contains k.val = true) :
    exec (.timeCaptureEdge k) s = .next (s.captured k) := if_pos hpin

theorem captured_pin (k : Fin 8) : (s.captured k).board.gpioIn.getLsbD k = true := by
  have hbit : ∀ k : Fin 8, (1#8 <<< k.val).getLsbD k = true := by decide
  change (s.board.gpioIn ||| (1#8 <<< k.val)).getLsbD k = true
  rw [BitVec.getLsbD_or, hbit, Bool.or_true]

/-! ## Event Timers (R510) -/

/-- A timer of a slice that has fired: its counter is to change, and it is armed again where it has a period. -/
def State.timerFired (s : State) (k : Fin 512) (i : Nat) (x : EventTimer) : State :=
  ({ s with time.timers := s.time.timers.filter (fun t => !t.is k.val i) ++
      (if timerPeriod (s.timerCfgOf k i).1 = 0 then [] else [{ x with deadline := x.deadline + timerPeriod (s.timerCfgOf k i).1 }]) }
    : State).laceUp k.val (s.gen k.val) x.counter 1

theorem exec_eventTimerFire {k : Fin 512} {i : Nat} {x : EventTimer} (hx : s.time.timers.find? (fun t => t.is k.val i) = some x) :
    exec (.eventTimerFire (some k) i) s = if tick s.time.now < tick x.deadline then .next s else .next (s.timerFired k i x) := by
  change execEventTimerFire (some k) i s = _
  unfold execEventTimerFire
  dsimp only
  rw [hx]
  rfl

theorem timerFired_moves (k : Fin 512) (i : Nat) (x : EventTimer) : s.Moves (s.timerFired k i x) [.time, .queue] :=
  (setTime_moves s _).mono.then (laceUp_moves ..)

section Arm

variable {k : Nat} {v : Word64}

theorem armTimer_none (hlimit : (s.quota k).timers ≤ s.fld .slcTimerSelIndex k) : s.armTimer k v = s := if_pos hlimit

variable (hin : s.fld .slcTimerSelIndex k < (s.quota k).timers)
include hin

theorem armTimer_stops : s.armTimer k 0 =
    { s with time.timers := s.time.timers.filter fun t => !t.is k (s.fld .slcTimerSelIndex k) } :=
  (if_neg (Nat.not_le.mpr hin)).trans (if_pos rfl)

theorem armTimer_arms (hv : v ≠ 0) (hlace : (s.timerCfgOf k (s.fld .slcTimerSelIndex k)).2 < (s.quota k).lace) : s.armTimer k v =
    { s with time.timers := (s.time.timers.filter fun t => !t.is k (s.fld .slcTimerSelIndex k)) ++
      [{ slice := k, index := s.fld .slcTimerSelIndex k, deadline := v.toNat, counter := (s.timerCfgOf k (s.fld .slcTimerSelIndex k)).2 }] } :=
  (if_neg (Nat.not_le.mpr hin)).trans ((if_neg hv).trans (if_neg (Nat.not_le.mpr hlace)))

end Arm

/-! ## A register that is read (R4) -/

theorem bitsOf_zero (hi lo : Nat) : bitsOf 0 hi lo = 0 := by simp [bitsOf]

theorem fld_clearRc {r : Reg} {f : Fld} (hf : f ∈ r.fields) (k : Nat) :
    (s.clearRc r k).fld f k = if f.acc = .rc then 0 else s.fld f k := by
  have hzero : s.clearRc r k = (r.fields.filter fun f => f.acc = .rc).foldl (fun s g => s.setFld g k (bitsOf 0 g.hi g.lo)) s := by
    simp only [bitsOf_zero]
    rfl
  rw [hzero, fld_storeFields hf k 0 _ (List.filter_sublist.subset), bitsOf_zero]
  by_cases hacc : f.acc = .rc
  · rw [if_pos (List.mem_filter.mpr ⟨hf, decide_eq_true hacc⟩), if_pos hacc]
  · have hnot : f ∉ r.fields.filter fun f => f.acc = .rc := fun hmem => hacc (of_decide_eq_true (List.mem_filter.mp hmem).2)
    rw [if_neg hnot, if_neg hacc]

/-- A register after its read: its RC fields are clear, an error log entry is marked as read, and a counter that the model leaves
open has taken its free value. -/
def State.readDone (s : State) (r : Reg) (k : Nat) : State :=
  if r = .memErrlogData1 then (s.clearRc r k).markRead
  else if r = .fwmLoad ∨ r = .prtCounter then (s.clearRc r k).advanceFree
  else s.clearRc r k

theorem exec_registerReadClear {f : Func} {off w : Nat} {r : Reg} {k : Nat} (hon : s.answersReads = true)
    (hacc : accessAt off w = some (r, k)) (hmay : s.mayRead f off r k = true) :
    exec (.registerReadClear f off w) s = .next ((s.readDone r k).emit (.readData f (s.readReg r k))) := by
  change execRegisterReadClear f off w s = _
  unfold execRegisterReadClear
  rw [if_neg (by rw [hon]; decide), hacc]
  exact if_neg (by rw [hmay]; decide)

theorem readDone_regs (r : Reg) (k : Nat) : (s.readDone r k).regs = (s.clearRc r k).regs := by
  unfold State.readDone
  split
  · rfl
  · split <;> rfl

theorem readDone_moves (r : Reg) (k : Nat) : s.Moves (s.readDone r k) [.regs, .mem, .free] :=
  .ite ((clearRc_moves ..).mono.then (markRead_moves ..))
    (.ite ((clearRc_moves ..).mono.then (advanceFree_moves ..)) (clearRc_moves ..).mono)

theorem readDone_out (r : Reg) (k : Nat) : (s.readDone r k).out = s.out :=
  (readDone_moves r k).frame .out (by decide)

/-- A read that a register answers sends its word, and clears its RC fields. -/
theorem registerReadClear_answers {f : Func} {off w : Nat} {r : Reg} {k : Nat} (hon : s.answersReads = true)
    (hacc : accessAt off w = some (r, k)) (hmay : s.mayRead f off r k = true) :
    ∃ t, exec (.registerReadClear f off w) s = .next t ∧ t.out = s.out ++ [.readData f (s.readReg r k)]
      ∧ (∀ g ∈ r.fields, t.fld g k = if g.acc = .rc then 0 else s.fld g k) ∧ s.touches t [.out, .regs, .mem, .free] := by
  refine ⟨_, exec_registerReadClear hon hacc hmay, ?_, fun g hg => ?_,
    ((readDone_moves r k).mono.then (emit_moves ..) : s.Moves _ [.out, .regs, .mem, .free]).frame⟩
  · exact congrArg (· ++ [Output.readData f (s.readReg r k)]) (readDone_out r k)
  · have hfld : ((s.readDone r k).emit (.readData f (s.readReg r k))).fld g k = (s.clearRc r k).fld g k := by
      have hregs : ((s.readDone r k).emit (.readData f (s.readReg r k))).regs = (s.clearRc r k).regs := readDone_regs r k
      simp only [State.fld, State.rawReg, hregs]
    exact hfld.trans (fld_clearRc hg k)

end Sys2Proof.Machine

open Sys2Proof Sys2Proof.Machine

/-- Settles O50: each write, edge and timer is one equation of the state, and a register's read clears its RC fields field by field. -/
theorem timeAndTimers : Obligations.TimeAndTimers := by
  refine ⟨?_, ?_, ?_, ?_, ?_, ?_, ?_, ?_, ?_, ?_, ?_, ?_, ?_, ?_, ?_, ?_, ?_, ?_, ?_⟩
  · exact fun s => ⟨advanceTime_gains s, (setTime_moves s _).frame⟩
  · intro f v s hmgr
    refine ⟨fun hconns htimers => ?_, fun hbusy => ?_, fun hdriver => ?_, fun hother => ?_⟩
    · refine ⟨_, (if_pos hmgr).trans (congrArg _ (setTime_sets hconns htimers)), rfl, (setTime_moves s _).frame⟩
    · refine ⟨_, (if_pos hmgr).trans (congrArg _ (setTime_refuses hbusy)), ?_, (bump_moves s _ _).frame⟩
      exact fld_bump_same (f := .timStatusSetRefused) (by decide) (by decide) 0
    · exact ⟨_, (if_pos hmgr).trans (congrArg _ (if_pos hdriver)), rfl, (setTime_moves s _).frame⟩
    · exact (if_pos hmgr).trans (congrArg _ (if_neg (by rw [hother]; decide)))
  · intro f v s hmgr
    refine ⟨fun hdriver => ?_, fun hother => ?_⟩
    · exact ⟨_, (if_pos hmgr).trans (congrArg _ (setFreq_sets hdriver)), setFreq_adjust, setFreq_fld, (setFld_moves ..).frame⟩
    · exact (if_pos hmgr).trans (congrArg _ (if_neg (by rw [hother]; decide)))
  · exact fun f v w s hother => ⟨if_neg (not_manager hother), if_neg (not_manager hother), if_neg (not_manager hother)⟩
  · exact fun s hother => ⟨_, exec_ppsInEdge.trans (if_neg hother), rfl, (setTime_moves s _).frame⟩
  · intro s hpps
    refine ⟨_, exec_ppsInEdge.trans (if_pos hpps), ?_, ?_, ?_, ?_,
      ((setTime_moves s _).mono.then (setTime_moves _ _) |>.then (sourceState_moves ..) : s.Moves _ [.time, .queue]).frame⟩
    · rw [sourceState_time]
      rfl
    all_goals rw [sourceState_time]
  · exact toSecond_spec
  · exact fun s hon hnew hfree => ⟨_, exec_ppsOutSecond hon hnew hfree, rfl, rfl, rfl,
      ((setTime_moves s _).mono.then (emit_moves ..) : s.Moves _ [.time, .out]).frame⟩
  · intro s p hport hdown hlocked
    have hexec := exec_timeSourceLoss_port hport hdown
    have htime := sourceState_time (s := s) true
    have htouches : s.touches (s.sourceState true) [.time, .queue] := (sourceState_moves ..).mono.frame
    rw [sourceState_lost hlocked] at hexec htime htouches
    exact ⟨_, _, hexec, htime, rfl, rfl, rfl, rfl, htouches⟩
  · exact fun s hsource hlate _ => ⟨_, exec_timeSourceLoss_pps hsource hlate, sourceState_time true, (sourceState_moves ..).mono.frame⟩
  · exact fun k s hpin => ⟨_, exec_timeCaptureEdge hpin, vget_vset_same _ _ _ _ k.isLt, captured_pin k,
      fun j hj => vget_vset_other _ _ _ _ _ fun heq => hj (Fin.ext heq), (setBoard_moves s _).frame⟩
  · intro k i s x hx hdue
    exact ⟨_, (exec_eventTimerFire hx).trans (if_neg (Nat.not_lt.mpr hdue)), rfl, rfl, (timerFired_moves k i x).frame⟩
  · exact fun k i s x hx hearly => (exec_eventTimerFire hx).trans (if_pos hearly)
  · exact fun i s => ⟨s.pulse i, rfl, (pulse_moves s i).mono.frame⟩
  · intro f k v s hbound hin hv hlace
    exact ⟨_, _, (if_pos hbound).trans (congrArg _ (armTimer_arms hin hv hlace)), List.mem_append_right _ (List.mem_singleton_self _),
      rfl, rfl, rfl, rfl, (setTime_moves s _).frame⟩
  · intro f k s hbound hin
    refine ⟨_, (if_pos hbound).trans (congrArg _ (armTimer_stops hin)), fun x hx => ?_, (setTime_moves s _).frame⟩
    simpa using (List.mem_filter.mp hx).2
  · rintro f k v s (hother | hlimit)
    · exact if_neg (by rw [hother]; decide)
    · change (if s.bound k f then _ else _) = _
      rw [armTimer_none hlimit]
      exact ite_self _
  · intro f off w v s r k hacc hmay
    refine ⟨_, ?_, rfl⟩
    change execRegisterWrite f off w v s = _
    unfold execRegisterWrite
    rw [hacc]
    exact if_pos hmay
  · exact fun f off w s r k hon hacc hmay => registerReadClear_answers hon hacc hmay

end

section
/-! PROOFS. The module: input power, reset and boot, the sideband, and shorted outputs. -/

set_option Elab.async false

namespace Sys2Proof.Machine

variable {s : State}

/-! ## Input power and reset (R520, R524, R525) -/

theorem modResetNAssert_stops (hrun : s.board.resetN = true) :
    exec .modResetNAssert s = .next { s.stopUnits with board.resetN := false } := if_pos hrun

theorem exec_modResetNRelease (hpower : s.board.pwrGood = true) (hheld : s.board.resetN = false) : exec .modResetNRelease s =
    if s.power.shutdown then
      if 95 ≤ s.power.junctionC then .next s
      else .next ((({ s with power.shutdown := false, board.resetN := true } : State).setFld .pwrStatusWasShutdown 0 1).alertPin
        false).bootChain.settle
    else .next ({ s with board.resetN := true } : State).bootChain.settle := by
  refine if_neg ?_
  rw [hpower, hheld]
  simp

theorem alertPin_out (low : Bool) :
    (s.alertPin low).out = s.out ++ (if s.board.shorted.getLsbD 9 then [] else [.thermAlert low]) := by
  unfold State.alertPin
  by_cases hshort : s.board.shorted.getLsbD 9 = true
  · rw [if_pos hshort]
    exact (if_pos (c := s.board.shorted.getLsbD pinTherm = true) hshort ▸ (List.append_nil _).symm)
  · rw [if_neg hshort]
    exact congrArg State.out (if_neg (c := s.board.shorted.getLsbD pinTherm = true) hshort)

/-- The state that leaves a Shutdown, before its boot. -/
def State.shutdownLeft (s : State) : State :=
  (({ s with power.shutdown := false, board.resetN := true } : State).setFld .pwrStatusWasShutdown 0 1).alertPin false

theorem shutdownLeft_spec (s : State) : s.shutdownLeft.power.shutdown = false ∧ s.shutdownLeft.board.resetN = true
    ∧ s.shutdownLeft.fld .pwrStatusWasShutdown 0 = 1
    ∧ s.shutdownLeft.out = s.out ++ (if s.board.shorted.getLsbD 9 then [] else [.thermAlert false]) := by
  have hpin := alertPin_moves (({ s with power.shutdown := false, board.resetN := true } : State).setFld .pwrStatusWasShutdown 0 1) false
  have hpower : s.shutdownLeft.power = { s.power with shutdown := false } := hpin.frame .power (by decide)
  have hboard : s.shutdownLeft.board = { s.board with resetN := true } := hpin.frame .board (by decide)
  have hregs : s.shutdownLeft.regs = (({ s with power.shutdown := false, board.resetN := true } : State).setFld .pwrStatusWasShutdown 0 1).regs :=
    hpin.frame .regs (by decide)
  refine ⟨by rw [hpower], by rw [hboard], ?_, alertPin_out _⟩
  refine Eq.trans ?_ (fld_setFld_same (s := { s with power.shutdown := false, board.resetN := true }) (f := .pwrStatusWasShutdown)
    (by decide) (by decide) 0 1)
  simp only [State.fld, State.rawReg, hregs]

/-! ## Boot (R448, R449) -/

/-- How far the boot has come, and by which slots. -/
def BootState.reached (b : BootState) : Nat × Bool × Bool := (b.stage, b.stageFallback, b.fwFallback)

theorem BootState.reached_eq {b : BootState} {n : Nat} {f g : Bool} (h : b.reached = (n, f, g)) :
    b.stage = n ∧ b.stageFallback = f ∧ b.fwFallback = g := by
  obtain ⟨hstage, hrest⟩ := Prod.mk.inj h
  exact ⟨hstage, Prod.mk.inj hrest⟩

theorem rejectLast_reached (f : LastFail) : (s.rejectLast f).boot.reached = s.boot.reached := by
  unfold State.rejectLast
  dsimp only
  split <;> rfl

theorem checkSlot_reached (k : Nat) : (s.checkSlot k).1.boot.reached = s.boot.reached := by
  unfold State.checkSlot
  split
  · rfl
  · exact rejectLast_reached _

/-- A Last loaded at boot leaves the boot state alone. -/
theorem startLast_boot (k : Nat) (l : LastImage) :
    ((List.range 10).foldl (fun s p => s.startTraining p) (s.lastInForce k l)).boot = s.boot :=
  (State.Moves.foldl (lastInForce_moves s k l) fun s p => (startTraining_moves s p).mono).frame .boot (by decide)

theorem bootLast_reached : s.bootLast.boot.reached = s.boot.reached := by
  have hfirst := checkSlot_reached (s := s) s.boot.lastSlot
  unfold State.bootLast
  dsimp only
  split
  · next u l heq =>
    rw [heq] at hfirst
    exact (congrArg BootState.reached (startLast_boot _ _)).trans hfirst
  · next u f heq =>
    rw [heq] at hfirst
    have hsecond := checkSlot_reached (s := u) (1 - s.boot.lastSlot)
    split
    · next v l heq' =>
      rw [heq'] at hsecond
      exact (congrArg BootState.reached (startLast_boot _ _)).trans (hsecond.trans hfirst)
    · next v g heq' =>
      rw [heq'] at hsecond
      exact hsecond.trans hfirst

theorem nextTree_reached : s.nextTree.boot.reached = s.boot.reached := by
  unfold State.nextTree
  split <;> rfl

theorem deriveIdentity_reached : s.deriveIdentity.boot.reached = s.boot.reached := rfl

/-- The Last, the identity key and the LMS tree come after the firmware has started, and leave how far the boot came. -/
theorem bootEnd_reached : s.bootLast.deriveIdentity.bootLms.boot.reached = s.boot.reached := by
  have hlow : s.bootLast.deriveIdentity.tellLow.boot = s.bootLast.deriveIdentity.boot := (tellLow_moves _).frame .boot (by decide)
  refine nextTree_reached.trans ?_
  rw [hlow]
  exact deriveIdentity_reached.trans bootLast_reached

theorem bootEnd_fw : s.bootLast.deriveIdentity.bootLms.fw = s.fw :=
  ((bootLast_moves s).mono.then (deriveIdentity_moves _) |>.then (bootLms_moves _) :
    s.Moves _ [.out, .regs, .time, .boot, .last, .mem, .xlate, .queue, .trans, .ports, .ingress, .bypass, .work, .slices, .dirtyLogs,
      .mailboxes, .keys, .checks]).frame .fw (by decide)

theorem tryImage_takes {kind slot : Nat} {i : FlashImage}
    (hi : vget (if kind = 1 then s.boot.stageImages else s.boot.fwImages) slot none = some i) (hgood : s.imageReason kind i = 0)
    (hmajor : kind = 2 → i.major = s.boot.loaderMajor) : s.tryImage kind slot = (s, some i) := by
  unfold State.tryImage
  rw [hi]
  dsimp only
  rw [if_neg (fun hne => hne hgood), if_neg (fun h => h.2 (hmajor h.1))]

theorem tryImage_empty {kind slot : Nat} (hi : vget (if kind = 1 then s.boot.stageImages else s.boot.fwImages) slot none = none) :
    s.tryImage kind slot = (s.bootFail failFormat kind, none) := by
  unfold State.tryImage
  rw [hi]

/-- The stage loader, started from the slot that the boot descriptor names. -/
def State.loaderStarted (s : State) (i : FlashImage) : State :=
  { s with boot.stage := 1, boot.stageFallback := decide (s.boot.stageSlot ≠ s.boot.stageSlot), boot.loaderMajor := i.major,
           boot.loaderSec := i.sec, boot.loader := some i }

/-- The firmware, started by that loader from the slot that the boot descriptor names. -/
def State.firmwareStarted (s : State) (j : FlashImage) : State :=
  { s with boot.stage := 2, boot.fwFallback := decide (s.boot.fwSlot ≠ s.boot.fwSlot), fw.runningSlot := s.boot.fwSlot,
           fw.runningSec := j.sec }

theorem bootChain_starts {i j : FlashImage} (hi : s.bootImage 1 s.boot.stageSlot = (s, some (s.boot.stageSlot, i)))
    (hj : (s.loaderStarted i).bootImage 2 s.boot.fwSlot = (s.loaderStarted i, some (s.boot.fwSlot, j))) :
    s.bootChain = ((s.loaderStarted i).firmwareStarted j).bootLast.deriveIdentity.bootLms := by
  unfold State.bootChain
  rw [hi]
  dsimp only
  unfold State.loaderStarted State.firmwareStarted at *
  erw [hj]
  rfl

theorem bootChain_recovers {u : State} (h : s.bootImage 1 s.boot.stageSlot = (u, none)) : s.bootChain = u.enterRecovery := by
  unfold State.bootChain
  rw [h]

/-! ## The sideband (R521 to R523) -/

theorem not_unpowered {b : Bool} (h : b = true) : ¬ (!b) = true := by rw [h]; decide

section Sideband

variable (hpower : s.board.inputPower = true)
include hpower

theorem exec_pldm_readSensor (n : Nat) :
    exec (.pldmRequest (.readSensor n)) s = .next (s.emit (.pldm (s.readSensor n))).advanceFree := if_neg (not_unpowered hpower)

theorem exec_pldm_firmwareUpdate {b : List Byte} {k : Nat} (hstage : s.boot.stage ≠ 3) :
    exec (.pldmRequest (.firmwareUpdate b k)) s = .next (s.emit (.pldm .invalidType)) := by
  have hrecovery : s.recoveryImage b k = (s, .invalidType) := if_pos (.inl hstage)
  change execPldmRequest (.firmwareUpdate b k) s = _
  unfold execPldmRequest
  rw [if_neg (not_unpowered hpower)]
  dsimp only
  rw [hrecovery]

end Sideband

theorem readSensor_early {n v : Nat} (h : s.earlySensor n = some v) : s.readSensor n = .value v := by
  unfold State.readSensor
  rw [h]

theorem readSensor_late {n : Nat} (h : s.earlySensor n = none) : s.readSensor n =
    if n < 5 ∨ 11 < n then .rejected
    else if s.boot.stage ≠ 2 ∨ !s.board.resetN then .unavailable
    else if n = 11 then .value s.mbxOutstanding
    else if 7 ≤ n ∧ n ≤ 10 then .value (s.busyShare (n - 7))
    else .value s.freeNow := by
  unfold State.readSensor
  rw [h]

theorem earlySensor_none {n : Nat} (h5 : 5 ≤ n) (h6 : n ≠ 6) : s.earlySensor n = none := by
  unfold State.earlySensor
  split
  any_goals omega
  rfl

theorem busyShare_le (i : Nat) : s.busyShare i ≤ 100 := by
  unfold State.busyShare
  split <;> omega

theorem clamp_eq (lo hi v : Nat) (h : lo ≤ hi) : clamp lo hi v = max lo (min v hi) := by
  unfold clamp
  split
  · omega
  · split <;> omega

/-! ## Shorted outputs (R526) -/

theorem setBit10_same (v : BitVec 10) (k : Fin 10) (on : Bool) : (setBit10 v k on).getLsbD k = on := by
  have hbit : ∀ k : Fin 10, (1#10 <<< k.val).getLsbD k = true := by decide
  have hmask : ∀ k : Fin 10, (~~~(1#10 <<< k.val)).getLsbD k = false := by decide
  cases on with
  | true =>
    change (v ||| (1#10 <<< k.val)).getLsbD k = true
    rw [BitVec.getLsbD_or, hbit, Bool.or_true]
  | false =>
    change (v &&& ~~~(1#10 <<< k.val)).getLsbD k = false
    rw [BitVec.getLsbD_and, hmask, Bool.and_false]

theorem setBit10_other (v : BitVec 10) {k j : Fin 10} (h : j ≠ k) (on : Bool) : (setBit10 v k on).getLsbD j = v.getLsbD j := by
  have hbit : ∀ k j : Fin 10, j ≠ k → (1#10 <<< k.val).getLsbD j = false := by decide
  have hmask : ∀ k j : Fin 10, j ≠ k → (~~~(1#10 <<< k.val)).getLsbD j = true := by decide
  cases on with
  | true =>
    change (v ||| (1#10 <<< k.val)).getLsbD j = _
    rw [BitVec.getLsbD_or, hbit k j h, Bool.or_false]
  | false =>
    change (v &&& ~~~(1#10 <<< k.val)).getLsbD j = _
    rw [BitVec.getLsbD_and, hmask k j h, Bool.and_true]

theorem readsWrong_ok (k : Nat) : s.readsWrong k true = false := rfl

section ShortCheck

variable {k : Fin 10} (hchecked : s.checkedOutput k = true) (hfree : s.isShorted k = false) (hpower : s.board.inputPower = true)
include hchecked hfree hpower

theorem exec_pinShortCheck {ok : Bool} : exec (.pinShortCheck k ok) s =
    if !s.readsWrong k ok then .next { s with board.shortSince := assocDel s.board.shortSince k.val }
    else match assoc s.board.shortSince k.val with
      | none => .next { s with board.shortSince := assocSet s.board.shortSince k.val s.time.now }
      | some t => if s.due (t + 10000) then .next (s.shortFound k) else .next s := by
  refine if_neg ?_
  simp [hchecked, hfree, hpower]

theorem exec_pinShortCheck_right {ok : Bool} (hright : s.readsWrong k ok = false) :
    exec (.pinShortCheck k ok) s = .next { s with board.shortSince := assocDel s.board.shortSince k.val } :=
  (exec_pinShortCheck hchecked hfree hpower).trans (if_pos (by rw [hright]; rfl))

theorem exec_pinShortCheck_wrong {ok : Bool} (hwrong : s.readsWrong k ok = true) : exec (.pinShortCheck k ok) s =
    match assoc s.board.shortSince k.val with
    | none => .next { s with board.shortSince := assocSet s.board.shortSince k.val s.time.now }
    | some t => if s.due (t + 10000) then .next (s.shortFound k) else .next s :=
  (exec_pinShortCheck hchecked hfree hpower).trans (if_neg (by rw [hwrong]; decide))

end ShortCheck

theorem exec_pinFaultRetry {k : Fin 10} {at_ : Nat} {ok : Bool} (hshort : s.isShorted k = true)
    (hat : assoc s.board.retryAt k.val = some at_) (hdue : s.due at_ = true) : exec (.pinFaultRetry k ok) s =
      if !s.readsWrong k ok then .next (s.shortGone k)
      else .next { s with board.retryAt := assocSet s.board.retryAt k.val (s.time.now + 100000000) } := by
  refine if_pos ⟨hshort, ?_⟩
  rw [hat]
  exact hdue

/-- The board once an output is no longer shorted. -/
def State.unshorted (s : State) (k : Nat) : State :=
  { s with board.shorted := setBit10 s.board.shorted k false, board.retryAt := assocDel s.board.retryAt k }

/-- An output that is released takes up its level again. -/
theorem shortGone_drives (k : Fin 10) : s.shortGone k =
    ((s.unshorted k).emit (if k.val = 9 then .thermAlert (!s.pinHigh k) else .pinLevel k (s.pinHigh k))).pinEvent k false := by
  have hfree : (s.unshorted k).board.shorted.getLsbD k = false := setBit10_same _ k false
  have hlevel : (s.unshorted k).pinHigh k = s.pinHigh k := rfl
  have hdrives : (if k.val = pinTherm then (s.unshorted k).alertPin (!(s.unshorted k).pinHigh k)
      else (s.unshorted k).drive k ((s.unshorted k).pinHigh k)) =
      (s.unshorted k).emit (if k.val = 9 then .thermAlert (!s.pinHigh k) else .pinLevel k (s.pinHigh k)) := by
    rw [hlevel]
    by_cases hk : k.val = 9
    · rw [if_pos (show k.val = pinTherm from hk), if_pos hk]
      refine if_neg ?_
      rw [hk] at hfree
      change ¬ (s.unshorted k).board.shorted.getLsbD 9 = true
      rw [hk, hfree]
      decide
    · rw [if_neg (show ¬ k.val = pinTherm from hk), if_neg hk]
      exact if_neg (by rw [hfree]; decide)
  exact congrArg (fun t : State => t.pinEvent k false) hdrives

end Sys2Proof.Machine

open Sys2Proof Sys2Proof.Machine

/-- Settles O51: what each event leaves is written out, and the boot's later stages leave how far it came. -/
theorem moduleEvents : Obligations.ModuleEvents := by
  refine ⟨?_, ?_, ?_, ?_, ?_, ?_, ?_, ?_, ?_, ?_, ?_, ?_, ?_, ?_, ?_, ?_⟩
  · intro s hoff
    refine ⟨_, if_neg (by rw [hoff]; decide), rfl, rfl, rfl, rfl, rfl, rfl, ?_⟩
    exact ((setTimeBoard_moves s _ _).mono.then (emit_moves ..) : s.Moves _ [.time, .board, .out]).frame
  · intro s hon
    exact ⟨⟨_, if_pos hon, rfl, rfl, rfl, rfl, rfl, rfl, rfl, rfl, rfl⟩, fun b => ⟨_, if_pos hon, rfl, rfl, rfl, rfl⟩⟩
  · intro b s hoff
    exact ⟨if_neg (by rw [hoff]; decide), if_neg (by rw [hoff]; decide)⟩
  · exact fun s hrun => ⟨_, modResetNAssert_stops hrun, rfl, rfl, rfl, rfl, rfl, rfl, rfl, rfl, rfl, rfl, rfl, rfl, rfl, rfl, rfl, rfl, rfl⟩
  · exact fun s hpower hheld hcold => (exec_modResetNRelease hpower hheld).trans (if_neg (by rw [hcold]; decide))
  · exact fun s hpower hheld hshut hhot => (exec_modResetNRelease hpower hheld).trans ((if_pos hshut).trans (if_pos hhot))
  · exact fun s hpower hheld hshut hcool => ⟨s.shutdownLeft,
      (exec_modResetNRelease hpower hheld).trans ((if_pos hshut).trans (if_neg (Nat.not_le.mpr hcool))), shutdownLeft_spec s⟩
  · intro s u hfirst hsecond
    have hboth : u.tryImage 1 (1 - s.boot.stageSlot) = ((u.tryImage 1 (1 - s.boot.stageSlot)).1, none) := Prod.ext rfl hsecond
    rw [bootChain_recovers (bootImage_none hfirst hboth)]
    rfl
  · exact fun s kind slot _ hnone => tryImage_empty hnone
  · intro s i j hi hgood hj hgood' hmajor
    have hloader := bootImage_first (tryImage_takes (kind := 1) hi hgood (fun h => absurd h (by decide)))
    have hfirmware := bootImage_first (tryImage_takes (s := s.loaderStarted i) (kind := 2) (slot := s.boot.fwSlot) hj hgood'
      (fun _ => hmajor))
    rw [bootChain_starts hloader hfirmware, bootEnd_fw]
    have hreached := bootEnd_reached (s := (s.loaderStarted i).firmwareStarted j)
    have hown : ((s.loaderStarted i).firmwareStarted j).boot.reached = (2, false, false) := by
      simp [State.loaderStarted, State.firmwareStarted, BootState.reached]
    obtain ⟨hstage, hfallback, hfallback'⟩ := BootState.reached_eq (hreached.trans hown)
    exact ⟨hstage, hfallback, hfallback', rfl⟩
  · intro s hpower
    have hon := not_unpowered hpower
    refine ⟨if_neg hon, ?_, fun n => if_neg hon, fun n => ?_, fun b k hstage => exec_pldm_firmwareUpdate hpower hstage⟩
    · have hident : Reg.gblIdent.resetBits.toNat = 0x072400B0 := by decide
      refine (if_neg hon).trans ?_
      rw [hident]
      rfl
    · exact ⟨_, exec_pldm_readSensor hpower n, rfl,
        ((emit_moves s _).mono.then (advanceFree_moves _) : s.Moves _ [.out, .free]).frame⟩
  · intro s
    refine ⟨rfl, rfl, rfl, rfl, fun hheld n hn => ?_, fun hrun hstage i hi => ⟨?_, busyShare_le i⟩⟩
    · have hrange : 5 ≤ n ∧ n ≤ 11 ∧ n ≠ 6 := by
        simp only [List.mem_cons, List.not_mem_nil, or_false] at hn
        omega
      obtain ⟨h5, h11, h6⟩ := hrange
      rw [readSensor_late (earlySensor_none h5 h6), if_neg (by omega), if_pos (.inr (by rw [hheld]; rfl))]
    · rw [readSensor_late (earlySensor_none (by omega) (by omega)), if_neg (by omega), if_neg (by simp [hrun, hstage]),
        if_neg (by omega), if_pos (by omega), Nat.add_sub_cancel_left]
  · intro w s hpower
    have hon := not_unpowered hpower
    refine ⟨fun hrun => ?_, fun hheld => ?_⟩
    · refine ⟨_, (if_neg hon).trans (if_pos hrun), ?_, rfl,
        ((setPower_moves s _).mono.then (emit_moves ..) : s.Moves _ [.power, .out]).frame⟩
      change { s.power with limitW := clamp 250 800 w } = _
      rw [clamp_eq _ _ _ (by decide)]
    · exact (if_neg hon).trans (if_neg (by rw [hheld]; decide))
  · exact fun n s hpower => ⟨_, if_pos hpower, rfl, (setBoard_moves s _).frame⟩
  · intro k s at_ hchecked hfree hpower
    refine ⟨?_, fun hreleased => ?_, fun hheld hnone => ?_, fun hheld hsince hdue => ?_⟩
    · exact ⟨_, exec_pinShortCheck_right hchecked hfree hpower rfl, assoc_assocDel_self _ _, rfl, (setBoard_moves s _).frame⟩
    · rw [exec_pinShortCheck_right hchecked hfree hpower (readsWrong_ok k),
        exec_pinShortCheck_right hchecked hfree hpower (ok := false) (by simp [State.readsWrong, hreleased])]
    · have hexec := exec_pinShortCheck_wrong hchecked hfree hpower (ok := false) (by simp [State.readsWrong, hheld])
      rw [hnone] at hexec
      exact ⟨_, hexec, assoc_assocSet_self _ _ _, rfl, (setBoard_moves s _).frame⟩
    · have hexec := exec_pinShortCheck_wrong hchecked hfree hpower (ok := false) (by simp [State.readsWrong, hheld])
      rw [hsince] at hexec
      dsimp only at hexec
      rw [if_pos hdue] at hexec
      exact ⟨_, _, hexec, setBit10_same _ k true, rfl, fun j hj => setBit10_other _ hj true, rfl, rfl, rfl, rfl, rfl,
        (shortFound_moves s k).mono.frame⟩
  · intro k s at_ hshort hat hdue
    refine ⟨?_, fun hheld => ?_⟩
    · have hexec := exec_pinFaultRetry (ok := true) hshort hat hdue
      rw [readsWrong_ok, if_pos (by decide)] at hexec
      have htouches : s.touches (s.shortGone k) [.board, .queue, .out] := (shortGone_moves s k).mono.frame
      rw [shortGone_drives] at hexec htouches
      exact ⟨_, _, hexec, setBit10_same _ k false, rfl, rfl, rfl, rfl, rfl, htouches⟩
    · have hexec := exec_pinFaultRetry (ok := false) hshort hat hdue
      rw [if_neg (by simp [State.readsWrong, hheld])] at hexec
      exact ⟨_, hexec, hshort, assoc_assocSet_self _ _ _, (setBoard_moves s _).frame⟩

end

section
/-! PROOFS. Accesses to registers, and to a function's MSI-X table. -/

set_option Elab.async false

namespace Sys2Proof.Machine

variable {s : State}

/-! ## Which register an access reaches (R532, R533) -/

/-- A register of 32 or 64 bits lies on a multiple of its width, as do the further members of its array and the windows of its block. -/
def Reg.aligned (r : Reg) : Bool :=
  decide (r.place.width = 32 ∨ r.place.width = 64) && decide (r.place.offset % (r.place.width / 8) = 0)
    && decide (r.place.stride % (r.place.width / 8) = 0) && decide (r.place.block.base.1 % (r.place.width / 8) = 0)
    && (decide (r.place.block = .device) || decide (r.place.block.base.2.1 % (r.place.width / 8) = 0))

theorem reg_aligned : ∀ r : Reg, r.aligned = true := by
  intro r
  cases r <;> decide

/-- A selected register lies at its index in its array, within its window where its block has windows. -/
theorem instanceAt_offset {r : Reg} {off k : Nat} (h : r.instanceAt off = some k) :
    ∃ i w, off = r.place.offset + i * r.place.stride
      ∨ (r.place.block ≠ .device ∧ off = r.place.block.base.1 + w * r.place.block.base.2.1 + (r.place.offset + i * r.place.stride)) := by
  unfold Reg.instanceAt at h
  dsimp only at h
  by_cases hdev : r.place.block = .device
  · simp only [if_pos hdev] at h
    obtain ⟨⟨-, -, -, -, -, hinner, -⟩, -⟩ := Option.ite_none_right_eq_some.mp h
    exact ⟨_, 0, .inl hinner⟩
  · simp only [if_neg hdev] at h
    obtain ⟨⟨-, hbase, -, -, -, hinner, -⟩, -⟩ := Option.ite_none_right_eq_some.mp h
    have hwindow : off = r.place.block.base.1 + (off - r.place.block.base.1) / r.place.block.base.2.1 * r.place.block.base.2.1
        + (off - r.place.block.base.1) % r.place.block.base.2.1 := by
      rw [Nat.add_assoc, Nat.div_add_mod', Nat.add_sub_cancel' hbase]
    exact ⟨_, _, .inr ⟨hdev, hwindow.trans (congrArg (_ + ·) hinner)⟩⟩

theorem instanceAt_aligned {r : Reg} {off k w : Nat} (h : r.instanceAt off = some k) (hw : r.place.width = 8 * w) :
    off % w = 0 ∧ (w = 4 ∨ w = 8) := by
  have haligned := reg_aligned r
  simp only [Reg.aligned, Bool.and_eq_true, Bool.or_eq_true, decide_eq_true_eq, hw, Nat.mul_div_cancel_left w (by decide : 0 < 8)] at haligned
  obtain ⟨⟨⟨⟨hwidth, hoffset⟩, hstride⟩, hbase⟩, hwindow⟩ := haligned
  have hinner (i : Nat) : w ∣ r.place.offset + i * r.place.stride :=
    Nat.dvd_add (Nat.dvd_of_mod_eq_zero hoffset) (Dvd.dvd.mul_left (Nat.dvd_of_mod_eq_zero hstride) i)
  refine ⟨Nat.mod_eq_zero_of_dvd ?_, by omega⟩
  obtain ⟨i, m, hoff | ⟨hblock, hoff⟩⟩ := instanceAt_offset h
  · rw [hoff]
    exact hinner i
  · rw [hoff]
    have hstep : w ∣ r.place.block.base.2.1 := Nat.dvd_of_mod_eq_zero (hwindow.resolve_left hblock)
    exact Nat.dvd_add (Nat.dvd_add (Nat.dvd_of_mod_eq_zero hbase) (Dvd.dvd.mul_left hstep m)) (hinner i)

theorem accessAt_spec {off w : Nat} {r : Reg} {k : Nat} (h : accessAt off w = some (r, k)) :
    r.place.width = 8 * w ∧ off % w = 0 ∧ (w = 4 ∨ w = 8) := by
  obtain ⟨hreg, hwidth⟩ := Option.filter_eq_some_iff.mp h
  have hw : r.place.width = 8 * w := of_decide_eq_true hwidth
  obtain ⟨q, -, hq⟩ := List.exists_of_findSome?_eq_some hreg
  obtain ⟨j, hj, heq⟩ := Option.map_eq_some_iff.mp hq
  obtain ⟨rfl, rfl⟩ := Prod.mk.inj heq
  exact ⟨hw, instanceAt_aligned hj hw⟩

theorem exec_registerWrite {f : Func} {off w : Nat} {v : Word64} {r : Reg} {k : Nat} (h : accessAt off w = some (r, k)) :
    exec (.registerWrite f off w v) s = if s.mayWrite f r k then .next (s.writeReg r k v).settle else .next s := by
  change execRegisterWrite f off w v s = _
  unfold execRegisterWrite
  rw [h]

theorem exec_registerWrite_none {f : Func} {off w : Nat} {v : Word64} (h : accessAt off w = none) :
    exec (.registerWrite f off w v) s = if (tableAt f off).isSome then .next (s.writeMsix f off w v).settle else .next s := by
  change execRegisterWrite f off w v s = _
  unfold execRegisterWrite
  rw [h]

theorem exec_registerReadClear_none {f : Func} {off w : Nat} (hon : s.answersReads = true) (h : accessAt off w = none) :
    exec (.registerReadClear f off w) s = .next (s.emit (.readData f ((s.readMsix f off w).getD (s.readBar2 f off w)))) := by
  change execRegisterReadClear f off w s = _
  unfold execRegisterReadClear
  rw [if_neg (by rw [hon]; decide), h]

theorem exec_registerReadClear_refused {f : Func} {off w : Nat} {r : Reg} {k : Nat} (hon : s.answersReads = true)
    (hacc : accessAt off w = some (r, k)) (hmay : s.mayRead f off r k = false) :
    exec (.registerReadClear f off w) s = .next (s.emit (.readData f 0)) := by
  change execRegisterReadClear f off w s = _
  unfold execRegisterReadClear
  rw [if_neg (by rw [hon]; decide), hacc]
  exact if_pos (by rw [hmay]; rfl)

/-! ## The MSI-X table (R396) -/

theorem tableAt_aligned {f : Func} {off v k : Nat} (h : tableAt f off = some (v, k)) : off % 4 = 0 := by
  unfold tableAt at h
  dsimp only at h
  split at h
  next hat => exact hat.2.2
  next => exact absurd h (by simp)

section Table

variable {f : Func} {off v k : Nat}

theorem writeMsix_entry (h : tableAt f off = some (v, k)) (hon : s.serving = true) (henabled : s.funcEnabled f = true) (x : Word64) :
    s.writeMsix f off 4 x = (s.modFunc f fun y => y.setTableWord v k (x.toNat % 2 ^ 32)).sendHeldMsix f := by
  have hword : s.writeTableWord f off (x.toNat % 2 ^ 32) = s.modFunc f fun y => y.setTableWord v k (x.toNat % 2 ^ 32) := by
    unfold State.writeTableWord
    rw [h]
  unfold State.writeMsix
  rw [if_neg (by simp [hon, henabled, tableAt_aligned h])]
  dsimp only
  rw [if_neg (by decide), hword]

theorem readMsix_entry (h : tableAt f off = some (v, k)) (hon : s.serving = true) (henabled : s.funcEnabled f = true) :
    s.readMsix f off 4 = some (BitVec.ofNat 64 ((s.funcState f).tableWord v k)) := by
  have hword : s.msixWord f off = some ((s.funcState f).tableWord v k) := by
    unfold State.msixWord
    rw [h]
  unfold State.readMsix
  rw [if_neg (by simp [hon, henabled, tableAt_aligned h]), hword]
  rfl

theorem readMsix_none (ht : tableAt f off = none) (hp : pbaAt f off = none) (w : Nat) : s.readMsix f off w = none := by
  have hword : s.msixWord f off = none := by
    unfold State.msixWord
    rw [ht, hp]
    rfl
  unfold State.readMsix
  rw [hword]
  exact ite_self _

end Table

theorem readBar2_low {f : Func} {off : Nat} (h : off < 2 ^ 32) (w : Nat) : s.readBar2 f off w = 0 := by
  unfold State.readBar2
  dsimp only
  rw [if_pos h]

/-- A word of an entry reads what was written: of the vector control word, its steering tag and its mask. -/
theorem tableWord_setTableWord (y : FuncState) {v k w : Nat} (hk : k < 4) (hw : w < 2 ^ 32) :
    (y.setTableWord v k w).tableWord v k = if k = 3 then w / 65536 * 65536 + w % 2 else w := by
  match k, hk with
  | 0, _ =>
    simp [FuncState.setTableWord, FuncState.tableWord]
    omega
  | 1, _ =>
    simp [FuncState.setTableWord, FuncState.tableWord]
    omega
  | 2, _ =>
    simp [FuncState.setTableWord, FuncState.tableWord]
    omega
  | 3, _ =>
    have hmask : ((if w % 2 = 1 then (y.masked.filter fun u => u ≠ v) ++ [v] else y.masked.filter fun u => u ≠ v).contains v).toNat
        = w % 2 := by
      rcases Nat.mod_two_eq_zero_or_one w with hbit | hbit <;> simp [hbit]
    have hsteer : ((assoc (assocSet y.steer v (BitVec.ofNat 16 (w / 65536))) v).getD 0).toNat = w / 65536 := by
      rw [assoc_assocSet_self, Option.getD_some, BitVec.toNat_ofNat, Nat.mod_eq_of_lt (by omega)]
    exact congrArg₂ (fun a b => a * 65536 + b) hsteer hmask

/-! ## What a register stores and reads (R4, R5) -/

theorem reg_at_code (r : Reg) : Reg.all[r.code]? = some r := by
  cases r <;> rfl

theorem code_injective {q r : Reg} (h : q.code = r.code) : q = r :=
  Option.some.inj ((reg_at_code q).symm.trans ((congrArg (Reg.all[·]?) h).trans (reg_at_code r)))

theorem rawReg_storeReg_other {q r : Reg} {j k : Nat} (h : q ≠ r ∨ j ≠ k) (v : Word64) :
    (s.storeReg r k v).rawReg q j = s.rawReg q j := by
  have hkey : ∀ g ∈ r.fields, (q.code, j) ≠ (g.reg.code, k) := by
    intro g hg heq
    obtain ⟨hcode, hj⟩ := Prod.mk.inj heq
    rw [(field_spans hg).1] at hcode
    exact h.elim (fun hne => hne (code_injective hcode)) (fun hne => hne hj)
  unfold State.storeReg
  refine List.foldlRecOn (motive := fun t : State => t.rawReg q j = s.rawReg q j) _ _ rfl fun t ht g hg => ?_
  exact (rawReg_setRawReg_ne (hkey g (List.mem_filter.mp hg).1) _).trans ht

/-- Fields put into a word one after the other: one that was put in reads its value, as far as it fits. -/
theorem bitsOf_putFields {r : Reg} {g : Fld} (hg : g ∈ r.fields) (val : Fld → Nat) (w : Word64) (l : List Fld) (hl : l ⊆ r.fields) :
    bitsOf (l.foldl (fun w f => setBits w f.hi f.lo (val f)) w) g.hi g.lo
      = if g ∈ l then val g % 2 ^ (g.hi + 1 - g.lo) else bitsOf w g.hi g.lo := by
  induction l generalizing w with
  | nil => rfl
  | cons f l ih =>
    rw [List.foldl_cons, ih _ fun x hx => hl (List.mem_cons_of_mem _ hx)]
    by_cases hgl : g ∈ l
    · rw [if_pos hgl, if_pos (List.mem_cons_of_mem _ hgl)]
    · rw [if_neg hgl]
      have hf : f ∈ r.fields := hl (List.mem_cons_self ..)
      obtain ⟨-, hle, hhi⟩ := field_spans hf
      by_cases hgf : g = f
      · subst hgf
        rw [bitsOf_setBits w hle hhi, if_pos (List.mem_cons_self ..)]
      · have hnot : g ∉ f :: l := by simp [hgf, hgl]
        rw [if_neg hnot, bitsOf_setBits_other w hle hhi _ (fields_apart hf hg (Ne.symm hgf))]

theorem bitsOf_readReg {r : Reg} {g : Fld} (hg : g ∈ r.fields) (k : Nat) :
    bitsOf (s.readReg r k) g.hi g.lo = s.readFld (s.live r k) g k % 2 ^ (g.hi + 1 - g.lo) :=
  (bitsOf_putFields hg (fun f => s.readFld (s.live r k) f k) 0 r.fields (List.Subset.refl _)).trans (if_pos hg)

/-- A bit that none of the fields holds stays as it was. -/
theorem bit_putFields {r : Reg} {i : Nat} (val : Fld → Nat) (w : Word64) (l : List Fld) (hl : l ⊆ r.fields)
    (hout : ∀ g ∈ r.fields, i < g.lo ∨ g.hi < i) :
    bitsOf (l.foldl (fun w f => setBits w f.hi f.lo (val f)) w) i i = bitsOf w i i := by
  induction l generalizing w with
  | nil => rfl
  | cons f l ih =>
    have hf : f ∈ r.fields := hl (List.mem_cons_self ..)
    obtain ⟨-, hle, hhi⟩ := field_spans hf
    rw [List.foldl_cons, ih _ fun x hx => hl (List.mem_cons_of_mem _ hx)]
    exact bitsOf_setBits_other w hle hhi _ (hout f hf).symm

theorem getLsbD_eq_bitsOf (w : Word64) (i : Nat) : w.getLsbD i = decide (bitsOf w i i = 1) := by
  rw [BitVec.getLsbD, Nat.testBit_eq_decide_div_mod_eq, bitsOf, Nat.add_sub_cancel_left, pow_one]

theorem readReg_bit_outside {r : Reg} {i : Nat} (k : Nat) (hout : ∀ g ∈ r.fields, i < g.lo ∨ g.hi < i) :
    (s.readReg r k).getLsbD i = false := by
  have hbit : bitsOf (s.readReg r k) i i = 0 :=
    (bit_putFields (fun f => s.readFld (s.live r k) f k) 0 r.fields (List.Subset.refl _) hout).trans (bitsOf_zero i i)
  rw [getLsbD_eq_bitsOf, hbit]
  decide

theorem fldNow_commitReg (r : Reg) (k : Nat) (g : Fld) (j : Nat) :
    (s.commitReg r k).fldNow g j = if g.reg = r ∧ j = k then s.fld g k else s.fldNow g j := by
  by_cases h : g.reg = r ∧ j = k
  · obtain ⟨rfl, rfl⟩ := h
    rw [if_pos ⟨rfl, rfl⟩]
    exact congrArg (fun w => bitsOf w g.hi g.lo) (rawReg_setRawReg_same ..)
  · rw [if_neg h]
    have hkey : (g.reg.code, inForceAt j) ≠ (r.code, inForceAt k) := by
      intro heq
      obtain ⟨hcode, hj⟩ := Prod.mk.inj heq
      exact h ⟨code_injective hcode, Nat.add_right_cancel hj⟩
    exact congrArg (fun w => bitsOf w g.hi g.lo) (rawReg_setRawReg_ne hkey _)

end Sys2Proof.Machine

open Sys2Proof Sys2Proof.Machine

/-- Settles O54: an access is resolved once, and a register's fields are stored and read one by one, apart from each other. -/
theorem registerAccess : Obligations.RegisterAccess := by
  refine ⟨?_, ?_, ?_, ?_, ?_, ?_, ?_, ?_, ?_, ?_, ?_⟩
  · intro f off w v s r k hacc
    exact ⟨fun hmay => (exec_registerWrite hacc).trans (if_pos hmay),
      fun hmay => (exec_registerWrite hacc).trans (if_neg (by rw [hmay]; decide))⟩
  · intro f off w v s hacc
    refine ⟨fun hnone => ?_, fun x hx => ?_, fun hon => ⟨exec_registerReadClear_none hon hacc, fun hlow ht hp => ?_⟩⟩
    · exact (exec_registerWrite_none hacc).trans (if_neg (by rw [hnone]; decide))
    · exact (exec_registerWrite_none hacc).trans (if_pos (by rw [hx]; rfl))
    · exact ⟨readMsix_none ht hp w, readBar2_low hlow w⟩
  · exact fun f off v k x s hx hon henabled => ⟨writeMsix_entry hx hon henabled x, readMsix_entry hx hon henabled⟩
  · exact fun y v k w hk hw => tableWord_setTableWord y hk hw
  · exact fun f off w s hoff => if_pos (by rw [hoff]; rfl)
  · intro f off w s r k hon hacc
    exact ⟨exec_registerReadClear_refused hon hacc, registerReadClear_answers hon hacc⟩
  · exact fun off w r k h => accessAt_spec h
  · exact fun r k v s => ⟨fun g hg => fld_storeReg hg k v, fun q j h => rawReg_storeReg_other h v, (storeReg_moves s r k v).frame⟩
  · exact fun r k s => ⟨fun g hg => bitsOf_readReg hg k, fun i hout => readReg_bit_outside k hout⟩
  · intro r k g s hlive
    refine ⟨fun hacc => ?_, fun hacc => ?_, fun hacc => ?_⟩
    · rcases hacc with hacc | hacc <;> simp only [State.readFld, hlive, hacc]
    · simp only [State.readFld, hlive, hacc]
    · rcases hacc with hacc | hacc <;> simp only [State.readFld, hlive, hacc]
  · exact fun r k s => funext fun g => funext fun j => fldNow_commitReg r k g j

end
